-- ==== Sys2Proof/Word.lean ====
section
/-!
DEFINITION. Word.lean: the word types of the GX5 (R3: every multi-byte field is little-endian) and the
status codes of R564.
-/

namespace Sys2Proof

/-- One byte of a register, a descriptor, a message or memory. -/
abbrev Byte := BitVec 8

/-- A 16-bit word: status codes, sequences. -/
abbrev W16 := BitVec 16

/-- A 32-bit register or index. -/
abbrev W32 := BitVec 32

/-- A 64-bit register, address or operand. -/
abbrev W64 := BitVec 64

/-- A sparse table: rows by index, indices strictly rising (`tableWf`), absent rows not listed. -/
abbrev Table (α : Type) := List (Nat × α)

end Sys2Proof
end

