-- ==== Sys2Proof/Syntax.lean ====
section
/-!
DEFINITION. Syntax.lean: the commands of the block, one constructor of `Instr` per row of
spec/opcode_table.json, and the data a command brings from outside (packets, control messages, host
completions, sensor readings). What an outside party or a physical event decides stands in a command's
operands; what the device decides is computed by its meaning.
-/

namespace Sys2Proof

/-- The hop fields of a packet header (R221, header bits [31:0]): every hop may change them. -/
structure Hop where
  hopCount : Nat := 0
  deflections : Nat := 0
  congMark : Bool := false
  deriving DecidableEq, Repr

/-- The header flags of R221 (bits [123:116]). -/
structure PktFlags where
  last : Bool := false
  flagFinal : Bool := false
  retransmit : Bool := false
  ackNow : Bool := false
  noRecord : Bool := false
  reissue : Bool := false
  deriving DecidableEq, Repr

/-- The five fields that identify a message everywhere in the hall (R218). -/
structure MsgKey where
  src : Nat := 0
  partition : Nat := 0
  context : Nat := 0
  gen : Nat := 0
  seq : W32 := 0
  deriving DecidableEq, Repr

/-- The routing part of a native header (R221). -/
structure Route where
  version : Nat := 1
  opcode : Nat := 0
  cls : Nat := 0
  tc : Nat := 0
  epoch : Bool := false
  dst : Nat := 0
  landQ : Nat := 0
  replyQ : Nat := 0
  txQ : Nat := 0
  txCounter : BitVec 48 := 0
  keyGen : Nat := 0
  deriving DecidableEq, Repr

/-- The opcode-specific area of R222; a field an opcode does not name is zero. -/
structure Specific where
  address : W64 := 0
  regionKey : W32 := 0
  wantMask : W64 := 0
  result : W64 := 0
  bitmap : W64 := 0
  status : Nat := 0
  retryAfter : Nat := 0
  echo : W32 := 0
  bufferOffset : W64 := 0
  job : Nat := 0
  schedule : W32 := 0
  step : Nat := 0
  rank : Nat := 0
  reason : Nat := 0
  deriving DecidableEq, Repr

/-- A native Zulvon packet (R221, R222, R225). The payload stands as its plaintext, of which the wire carries the
encryption (`Machine/Wire.lean`, assumption log 6); the trailer is the 16-B tag. -/
structure Packet where
  key : MsgKey := {}
  route : Route := {}
  hop : Hop := {}
  flags : PktFlags := {}
  spec : Specific := {}
  issue : W32 := 0
  send : W32 := 0
  msgLength : Nat := 0
  pktIndex : Nat := 0
  payloadLen : Nat := 0
  payload : List Byte := []
  trailer : List Byte := []
  deriving DecidableEq, Repr

/-- A HELLO control message (R299). -/
structure Hello where
  /-- 1 fabric, 2 attach device, 3 accelerator. -/
  role : Nat := 1
  endpoint : Nat := 0
  mplUs : Nat := 500
  lanes : Nat := 4
  writeCredits : Nat := 0
  readCredits : Nat := 0
  deriving DecidableEq, Repr

/-- What Atlas has measured of a leg over the last 100 ms (R132): the bytes that each quadrant's accesses drew from it,
the bytes and the name (placement, leg) of the coldest SRAM leg of the quadrant concerned, and the pages that a pinned
allocation or a promotion needs there. The traffic counted is the environment's (assumption log 71). -/
structure Heat where
  byQuadrant : List Nat := []
  coldest : Nat := 0
  coldestLeg : Nat × Nat := (0, 0)
  needed : Nat := 0
  deriving DecidableEq, Repr

/-- How a host read ends (R414, R158). -/
inductive ReadEnd where
  | data (bytes : List Byte)
  | unsupportedRequest
  | completerAbort
  | poisoned
  deriving DecidableEq, Repr

/-- One page of a translation completion (R155, R157): its address ÷ 4 KiB, its size in bytes, the permissions and the
Global flag the host returned, and the translated address ÷ 4 KiB. -/
structure PageResult where
  page : Nat
  size : Nat
  read : Bool
  write : Bool
  global : Bool := false
  target : Nat := 0
  deriving DecidableEq, Repr

/-- A translation completion: pages, or Unsupported Request / Completer Abort (R157). -/
inductive XlateEnd where
  | pages (l : List PageResult)
  | failed
  deriving DecidableEq, Repr

/-- The three Page Request Group responses of R162. -/
inductive PrgResponse where
  | success
  | invalidRequest
  | responseFailure
  deriving DecidableEq, Repr

/-- A unit of the watchdog and wipe tables (R365, R515). -/
inductive UnitId where
  | transport (q : Nat)
  | receive (q : Nat)
  | sequencer (k : Nat)
  | graticule (g : Nat)
  | reduction (u : Nat)
  | copier (q : Nat)
  | sram (q : Nat)
  | lpddr (c : Nat)
  | governor
  deriving DecidableEq, Repr

/-- A clock domain that may stop while powered (before R513). -/
inductive Domain where
  | engine (q : Nat)
  | memory (q : Nat)
  | serdes (lane : Nat)
  | tirmon (core : Nat)
  deriving DecidableEq, Repr

/-- A choice that host software has not pinned and Atlas changes, beside a placement's (R31). -/
inductive AtlasChoice where
  /-- The home quadrant of a send queue. -/
  | queueHome (queue home : Nat)
  /-- The home quadrant of a completion ring. -/
  | ringHome (ring home : Nat)
  /-- The graticule of a job that has not started: from one to another. -/
  | graticule (g h : Nat)
  /-- The port set of an admitted schedule. -/
  | portSet (p : Nat) (schedule : W32) (ports : List Nat)
  deriving DecidableEq, Repr

/-- What an item waiting at a crossing belongs to (R514). -/
inductive CdcOwner where
  | descriptor (queue : Nat) (index : W32)
  | step (sequencer : Nat) (index : Nat)
  | command (fn : Nat) (mbx : Nat)
  | other
  deriving DecidableEq, Repr

/-- What the header of a PTP message says (R451): its domain, its transport as ETH_CFG codes it, the clock that sent it, its
sequence number and its interval exponent. -/
structure PtpHead where
  domain : Nat := 0
  transport : Nat := 0
  clock : Nat := 0
  sequence : Nat := 0
  interval : Int := 0
  deriving DecidableEq, Repr

/-- The PTP messages that reach the slave clock (R451): a Sync of one or two steps with its time, a Follow_Up with the time
of a two-step Sync, an Announce with what the best master clock algorithm compares, in its order, a Delay_Resp with the
time at which the request arrived, a peer's Pdelay_Req, a Pdelay_Resp with the nanoseconds that the request stayed with the
peer, or another message. -/
inductive PtpMsg where
  | sync (twoStep : Bool) (seconds nanoseconds : Nat)
  | followUp (seconds nanoseconds : Nat)
  | announce (rank : List Nat)
  | delayResp (seconds nanoseconds : Nat)
  | pdelayReq
  | pdelayResp (residence : Nat)
  | other
  deriving DecidableEq, Repr

/-- What an Ethernet frame carries once its FCS, length and addresses are judged (R444): a RoCEv2 packet for a queue pair, a
request or an answer to one; a packet of a controller's association over TCP or RDMA. -/
inductive FrameKind where
  | roce (qp : Nat) (response : Bool)
  | nvme (controller : Nat) (tcp : Bool)
  | ptp
  | arpOrNd
  | none
  deriving DecidableEq, Repr

/-- The ESP of a received packet (R457): its SPI, its extended sequence number, and whether its integrity check value is
right under the inbound key. -/
structure EspHead where
  spi : W32 := 0
  sequence : Nat := 1
  authentic : Bool := true
  deriving DecidableEq, Repr

/-- A received Ethernet frame (R444 to R447): the outcome of the FCS check, its length in bytes from destination
address to FCS with any tag, its VLAN ID (0 untagged), whether its destination is one of the port's own addresses
or the broadcast or PTP multicast that its kind allows, its kind, and its ESP where it arrived in one. -/
structure Frame where
  fcsOk : Bool := true
  length : Nat := 64
  vid : Nat := 0
  forPort : Bool := true
  esp : Option EspHead := none
  ce : Bool := false
  kind : FrameKind := .none
  deriving DecidableEq, Repr

/-- One inbound RDMA request packet of a queue pair, its virtual address that of its own data (R458, R461). -/
inductive RdmaOp where
  | write (va : W64) (rkey : W32) (data : List Byte)
  | read (va : W64) (rkey : W32) (length : Nat)
  | fetchAdd (va : W64) (rkey : W32) (add : W64)
  | cmpSwap (va : W64) (rkey : W32) (compare swap : W64)
  | absent
  deriving DecidableEq, Repr

/-- The facts of one boot that the environment decides (R480): PUF reconstruction, the configuration block, the
image checks of the two slots, the die self-tests (FN_TOPOLOGY, R26), the sealed state found in flash, the SRAM
rekey record's check, and whether the rails were lost. -/
structure BootFacts where
  pufOk : Bool := true
  /-- The configuration block's signature holds, and it names this device (R477). -/
  configSigned : Bool := true
  configForDevice : Bool := true
  slot0Ok : Bool := true
  slot1Ok : Bool := true
  topology : W32 := 0x00FFFFFF#32
  firstSelfTest : Nat := 0
  /-- The two copies of the sealed state read back from the flash and open under the sealing key (R483). -/
  sealed0Ok : Bool := true
  sealed1Ok : Bool := true
  rekeyRecordOk : Bool := true
  /-- The inline ECC mode of the signed configuration block (R99, R477). -/
  inlineEcc : Bool := true
  /-- The two copies of the retire map read back from the flash as they were written (R111). -/
  map0Ok : Bool := true
  map1Ok : Bool := true
  failedRegions : List Nat := []
  deriving DecidableEq, Repr

/-- How the control cores' lists of table writes compare (R521): the second core's equals the first's; they differ and
the third core agrees with one of them; or it agrees with neither. The fault that parts them is the environment's. -/
inductive Cores where
  | agree
  | outvoted
  | split
  deriving DecidableEq, Repr

/-- The measurements of R547. -/
inductive Thermal where
  | die (n : Nat)
  | lpddr
  | stage
  deriving DecidableEq, Repr

/-- Why Atlas migrates a leg (R132). -/
inductive MigrateReason where
  | retirement
  | hint
  | promote
  | demote
  | locality
  deriving DecidableEq, Repr

/-- The commands of the block: one constructor per row of spec/opcode_table.json, in the table's order. -/
inductive Instr where
  -- registers (R6, R9)
  | registerWrite (fn bar offset width : Nat) (value : W64)
  | readClear (fn bar offset width : Nat)
  | lowHalfRead (fn bar offset : Nat)
  -- Izlis sessions and bulk transfers; `fn` and `m` name the mailbox
  | openSession (fn m : Nat)
  | closeSession (fn m : Nat)
  | queryLimits (fn m : Nat)
  | bulkOpen (fn m : Nat)
  | bulkPut (fn m : Nat)
  | bulkGet (fn m : Nat)
  | bulkClose (fn m : Nat)
  | kernelImageLoad (fn m : Nat) (cores : Cores := .agree)
  | firmwareImageWrite (fn m : Nat) (signatureOk : Bool)
  | chartBlock (fn m : Nat) (cores : Cores := .agree)
  | scheduleAdmission (fn m : Nat) (ports : List Nat) (sequencer : Nat) (cores : Cores := .agree)
  | gateListStore (fn m : Nat) (cores : Cores := .agree)
  | accept (fn m : Nat) (signatureOk : Bool)
  | installRoot (fn m : Nat) (cores : Cores := .agree)
  | jobKey (fn m : Nat) (cores : Cores := .agree)
  | rotate (fn m : Nat) (cores : Cores := .agree)
  | saInstall (fn m : Nat) (cores : Cores := .agree)
  | saRemove (fn m : Nat) (cores : Cores := .agree)
  | keyEnd (fn m : Nat)
  | keySessionIdle (p : Nat)
  | bulkTimeout (fn m : Nat)
  -- partition administration and objects
  | partitionAssign (fn m : Nat) (cores : Cores := .agree)
  | quotaSet (fn m : Nat) (cores : Cores := .agree)
  | shareSet (fn m : Nat) (cores : Cores := .agree)
  | partitionErase (fn m : Nat) (cores : Cores := .agree)
  | contextCreate (fn m pick : Nat) (cores : Cores := .agree)
  | contextDestroy (fn m : Nat) (cores : Cores := .agree)
  | contextQuarantineEnd (context : Nat)
  | segmentSet (fn m : Nat) (cores : Cores := .agree)
  | queueCreate (fn m pick pickHome : Nat) (cores : Cores := .agree)
  | queueSet (fn m : Nat) (cores : Cores := .agree)
  | queueDestroy (fn m : Nat) (cores : Cores := .agree)
  | queueDestroyTimeout (fn m : Nat)
  | ringCreate (fn m pick pickHome : Nat) (cores : Cores := .agree)
  | ringDestroy (fn m : Nat) (cores : Cores := .agree)
  | regionRegister (fn m pick check : Nat) (cores : Cores := .agree)
  | regionRevoke (fn m : Nat) (cores : Cores := .agree)
  | regionQuarantineEnd (index : Nat)
  | placeAlloc (fn m pick pickOffset : Nat) (cores : Cores := .agree)
  | placeFree (fn m : Nat) (cores : Cores := .agree)
  | placeHint (fn m : Nat) (cores : Cores := .agree)
  | kernelUnload (fn m : Nat) (cores : Cores := .agree)
  | trigAlloc (fn m pick : Nat) (cores : Cores := .agree)
  | trigFree (fn m : Nat) (cores : Cores := .agree)
  | jobCreate (fn m : Nat) (cores : Cores := .agree)
  | jobDestroy (fn m : Nat) (cores : Cores := .agree)
  | scheduleRelease (fn m : Nat) (cores : Cores := .agree)
  | endpointSet (fn m : Nat) (cores : Cores := .agree)
  | portModeSet (fn m : Nat) (cores : Cores := .agree)
  | chartSwap (fn m : Nat) (cores : Cores := .agree)
  | gateListSwap (fn m : Nat) (cores : Cores := .agree)
  | timeSourceSet (fn m : Nat) (cores : Cores := .agree)
  | partitionRekey (fn m : Nat) (cores : Cores := .agree)
  | rekeyStatus (fn m : Nat)
  | fwActivate (fn m : Nat) (signatureOk : Bool)
  | diagReport (fn m : Nat)
  | dumpList (fn m : Nat)
  | qpCreate (fn m pick : Nat) (cores : Cores := .agree)
  | qpDestroy (fn m : Nat) (cores : Cores := .agree)
  | nvmeAttach (fn m pick : Nat) (target : Option Nat) (cores : Cores := .agree)
  | nvmeDetach (fn m : Nat) (cores : Cores := .agree)
  | fwAliveLapse
  | firmwareRestart (imageOk : Bool)
  -- Meridian time and appointments
  | sourceLost
  | sourceQualifies (offset : Int)
  | ppsInPulse (cycles : Nat) (refPresent : Bool)
  | ptpMessage (port : Nat) (head : PtpHead) (msg : PtpMsg)
  | timeExchange (port : Nat)
  | timeReq (port : Nat) (stamp : W64)
  | timeResp (port : Nat) (rx tx : W64) (hops source : Nat) (epochTai : W64)
  | lockEvaluate
  | rejoinDeadline
  | ppsOutPulse
  | chartBankSwap
  | retainEnd
  | gateSwapAppointment (port : Nat)
  | gateListTakeover (port : Nat)
  | keyRotation (p : Nat) (job : Option Nat)
  | keyRetainEnd (p : Nat) (job : Option Nat)
  | surveyEpoch
  | collectiveStart (p : Nat) (schedule : W32)
  | jobHeartbeat (p job : Nat)
  -- memory and Atlas
  | sramScrub (line : Nat) (upsets : List (Nat × Bool × Nat))
  | patrolScrub (line : Nat) (upsets : List (Nat × Bool × Nat))
  | regionRetire (lpddr : Bool) (region : Nat)
  | retireMapWrite
  | migrationStart (placement leg : Nat) (reason : MigrateReason) (lpddr : Bool) (quadrant : Nat) (heat : Heat)
  | preCopyPassEnd (placement leg : Nat)
  | cutOver (placement leg : Nat)
  | sourceFree (placement leg : Nat)
  | migrationRetry (placement leg : Nat)
  -- address translation
  | tileStart (tile : Nat)
  | translationCompletion (port request : Nat) (result : XlateEnd)
  | pageRequestGroupResponse (port group : Nat) (response : PrgResponse)
  | pageRequestTimeout (port group : Nat)
  | invalidateRequest (port tag : Nat) (base length : Nat) (pasid : Option Nat) (global : Bool)
  | invalidationAck (port tag engine : Nat)
  | staleReadExpiry (port tag : Nat)
  | atsEnableClear (fn : Nat)
  | priReset (fn : Nat)
  -- work queues and completions
  | queDoorbell (fn slot : Nat) (value : W32)
  | slotReadComplete (queue : Nat) (first : W32) (slots : Option (List (List Byte)))
  | slotRefetch (queue : Nat)
  | queRestart (fn slot : Nat) (value : W32)
  | queSuspend (fn slot : Nat) (value : W32)
  | schedulerRound (quadrant : Nat)
  | nop (queue : Nat) (index : W32)
  | write (queue : Nat) (index : W32)
  | read (queue : Nat) (index : W32)
  | add64 (queue : Nat) (index : W32)
  | add32 (queue : Nat) (index : W32)
  | cas64 (queue : Nat) (index : W32)
  | cas32 (queue : Nat) (index : W32)
  | kernelStart (queue : Nat) (index : W32) (sequencer : Nat)
  | descriptorComplete (queue : Nat) (index : W32)
  | completionFlushDone (queue : Nat) (index : W32)
  | cmpConsumer (fn slot : Nat) (value : W32)
  | cmpIntArm (fn slot : Nat) (value : W32)
  | holdoffExpiry (ring : Nat)
  | msixUnmask (fn vector : Nat)
  -- transport
  | messageBegin (quadrant msg : Nat)
  | reservationGrant (quadrant msg : Nat)
  | packetTransmit (quadrant msg index : Nat) (port : Nat) (busyPercent : Nat)
  | epochReserved (quadrant : Nat)
  | packetArrival (quadrant port : Nat) (pkt : Packet)
  | tagVerify (quadrant copy : Nat) (trailer : List Byte)
  | recordExpiry (quadrant : Nat) (key : MsgKey)
  | ack (quadrant : Nat) (pkt : Packet)
  | sack (quadrant : Nat) (pkt : Packet)
  | nak (quadrant : Nat) (pkt : Packet)
  | readResp (quadrant : Nat) (pkt : Packet)
  | retransmitTimeout (quadrant msg : Nat)
  | retryAfterEnd (quadrant msg index : Nat)
  | messageExpiry (quadrant msg : Nat)
  | unreachableTimeout (quadrant msg : Nat)
  -- congestion control and scheduling
  | ccBasePeriod (quadrant : Nat)
  | ccIdleRaise (quadrant dest : Nat)
  | drrRound (port robin : Nat)
  | queueSample
  -- ports, flits and heads
  | portDetect (port : Nat)
  | laneTrained (port : Nat)
  | codewordLock (port : Nat)
  | hello (port : Nat) (msg : Hello)
  | trainingTimeout (port : Nat)
  | lossOfSignal (port : Nat)
  | controlFlitTimeout (port : Nat)
  | downNotice (port : Nat)
  | retrain (fn port : Nat) (value : W32)
  | dataFlit (port : Nat) (bytes : List Byte) (uncorrectable : Nat)
  | keepalive (port : Nat)
  | widthProposal (port : Nat) (outBusy inBusy peakBusy heldUs : Nat)
  | widthReq (port lanes : Nat) (outBusy inBusy heldUs : Nat)
  | widthAck (port lanes : Nat)
  | widthSwitch (port : Nat)
  | headArrival (port : Nat) (pkt : Packet)
  | headForward (port : Nat) (free : List (Nat × Nat))
  | headRelax (port : Nat)
  | headPressed (port : Nat)
  -- the attach profile
  | attSession (a step : Nat) (ok : Bool) (data : List Byte)
  | attSessionTimeout (a : Nat)
  | attCredit (a writes reads : Nat)
  | attTrig (a partition index : Nat) (increment : W32)
  | attReset (a : Nat)
  | relayUp (a : Nat) (pkt : Packet)
  | memWriteDone (a tag status : Nat)
  | memReadData (a tag status : Nat) (data : List Byte)
  | attachTimeout (a tag : Nat)
  -- arithmetic units
  | graticuleJobEnd (g : Nat) (checkFailed : Option Nat)
  | checkRepeat (g : Nat) (passed : Bool)
  | graticuleSelfTestEnd (g : Nat) (passed : Bool)
  | wipeComplete (unit : UnitId)
  | reductionEnd (u : Nat)
  -- kernel steps: `k` names the sequencer whose next step this is
  | fetchLocal (k : Nat)
  | fetchRemote (k : Nat)
  | sendWrite (k : Nat)
  | sendWriteFlag (k : Nat)
  | sendAdd64 (k : Nat)
  | xformGemm (k g : Nat)
  | xformReduce (k : Nat)
  | xformConvert (k : Nat)
  | waitTrigGe (k : Nat)
  | waitTrigTake (k : Nat)
  | waitTime (k : Nat)
  | waitWordGe (k : Nat)
  | waitSatisfied (k : Nat)
  | trigAdd (k : Nat)
  | trigSet (k : Nat)
  | doorbell (k : Nat)
  | loop (k : Nat)
  | predEq (k : Nat)
  | predNe (k : Nat)
  | predLt (k : Nat)
  | predTrigGe (k : Nat)
  | predFlags (k : Nat)
  | mov (k : Nat)
  | setAdd (k : Nat)
  | load (k : Nat)
  | store (k : Nat)
  | seed (k : Nat)
  | trigRead (k : Nat)
  | coll (k : Nat)
  | exit (k : Nat)
  | stepComplete (k slot : Nat)
  | stepTimeout (k slot : Nat)
  -- collectives and jobs
  | collData (quadrant : Nat) (pkt : Packet)
  | instanceEnd (p : Nat) (schedule : W32)
  | heartbeat (pkt : Packet)
  | heartbeatSilence (p job rank : Nat)
  | beacon (port : Nat) (pkt : Packet)
  -- host ports
  | dlDown (port : Nat)
  | dlUp (port : Nat)
  | retrainTimeout (port : Nat)
  | hotReset (port : Nat)
  | perst (port : Nat)
  | busMasterEnableClear (port : Nat)
  | flr (fn : Nat)
  | vfEnableClear (port : Nat)
  | hostReadCompletion (port tag : Nat) (result : ReadEnd)
  | completionTimeout (port tag : Nat)
  | hdmDecoderCommit (port length : Nat) (pick : Nat)
  | hdmDecoderUncommit (port : Nat)
  | fnHdmLength (fn : Nat) (value : W64) (pick : Nat)
  | bar4Access (port offset : Nat) (write : Option (List Byte)) (length : Nat)
  | hostCxlMemRequest (port line : Nat) (write : Option (List Byte))
  | biasFlip (port page : Nat)
  | biasGo (fn : Nat) (value : W32)
  | biasChangeDone (port : Nat)
  | p2pEnable (fn a : Nat) (value : W64)
  | p2pProbeResult (port a : Nat) (ok : Bool)
  | lockInterfaceRequest (fn : Nat)
  | startInterfaceRequest (fn : Nat)
  | stopInterfaceRequest (fn : Nat)
  | ideStreamFailure (fn : Nat)
  -- SPDM: `ep` is 0 or 1 for a PF's DOE, 2 for the sideband MCTP endpoint (R506)
  | getVersion (ep : Nat)
  | getCapabilities (ep : Nat) (version : Nat)
  | negotiateAlgorithms (ep : Nat) (falcon shake mlkem aesGcm : Bool)
  | getDigests (ep : Nat)
  | getCertificate (ep slot offset length : Nat)
  | challenge (ep slot : Nat) (nonce : BitVec 256)
  | getMeasurements (ep index : Nat) (sign : Bool) (nonce : BitVec 256)
  | keyExchange (ep : Nat) (nonce : BitVec 256)
  | finish (ep session : Nat) (macOk : Bool)
  | spdmHeartbeat (ep session : Nat)
  | keyUpdate (ep session op : Nat)
  | endSession (ep session : Nat)
  | vendorDefinedRequest (ep session : Nat) (standard : Nat) (fn : Nat)
  -- Ethernet and storage
  | frameReceive (port : Nat) (frame : Frame)
  | frameLeaveBuffer (port : Nat)
  | pfcFrame (port : Nat) (priorities : List (Nat × Nat))
  | arpRequest (port : Nat) (target : W32) (senderMac : BitVec 48)
  | neighborSolicitation (port : Nat) (target : BitVec 128) (senderMac : BitVec 48)
  | roceRequest (port qp : Nat) (psn : Nat) (op : RdmaOp)
  | roceNak (qp psn syndrome : Nat)
  | cnp (qp : Nat)
  | qpAckTimeout (qp : Nat)
  | nvmeCompletion (controller command : Nat) (status : Nat) (data : List Byte)
  | keepAlive (controller : Nat)
  | associationLoss (controller : Nat)
  -- sealed state, rekey, keybox
  | sealedStateWritten
  | rekeyStep (p : Nat)
  | rekeyStepWritten (p : Nat)
  | kbxClaim (master : Nat)
  | kbxRelease (master : Nat)
  | kbxStart (master : Nat) (value : W32)
  | kbxBlockDone
  | kbxExpiry
  -- resets, recovery, boot
  | warmReset (fatal : Bool)
  | cdcWake (domain : Domain)
  | cdcTimeout (domain : Domain) (owner : CdcOwner)
  | unitHung (unit : UnitId)
  | unitSelfTestEnd (unit : UnitId) (passed : Bool)
  | activateFirmware
  | pldmFirmwareUpdate (slot : Nat) (image : List Byte) (signatureOk : Bool)
  | coldPowerUp
  | boot (facts : BootFacts)
  -- power, pins and thermal
  | inputExcursion (millivolts : Nat) (microseconds : Nat)
  | inputRestored (millivolts : Nat)
  | leaveGrant (measured10us : Nat)
  | noLeave (request : Nat)
  | powerAverageUpdate (milliwatts : Nat)
  | backstop (milliwatts : Nat)
  | pwrCapWrite (fn : Nat) (value : W32)
  | capEffecter (sustained : Bool) (watts : Nat)
  | thermalWarning (what : Thermal) (celsius : Nat)
  | thermalThrottle (what : Thermal) (celsius : Nat)
  | throttleExit
  | thermalTrip (what : Thermal) (celsius : Nat)
  | quadrantIdle (q : Nat)
  | channelPowerDown (c : Nat)
  | atlasChoiceChange (choice : AtlasChoice)
  | perstNDeassertion (port : Nat)
  | flashWpNChange (high : Bool)
  | cxlMemEnable (port : Nat) (on : Bool)
  | cxlCacheLineGrant (port line : Nat) (owned : Bool)
  | backstopRelease (milliwatts : Nat)
  | thermAlertRelease
  | thermalTripRelease
  | ppsOutFall
  | pfcPauseExpiry (port priority : Nat)
  | queuePairReply (qp psn : Nat) (data : List Byte) (old : W64)
  | lossOfPowerGood
  deriving DecidableEq, Repr

end Sys2Proof
end

