-- ==== Sys2Proof/Decode.lean ====
section
/-!
DEFINITION. Decode.lean: the commands that a word spells by the table's bits. No row of spec/opcode_table.json
gives bits (its rows carry no fixed bits and no fields), so no word spells a command.
-/

namespace Sys2Proof

/-- The command a word of `nbits` bits spells: none, since the table gives no row any bits. -/
def decodeTableWord (_nbits _w : Nat) : Option Instr := none

end Sys2Proof
end

