-- ==== Sys2Proof/Config.lean ====
section
/-!
DEFINITION. Config.lean: what an implementation fixes and the manual does not state. Every constant here is
opaque: nothing in Lean can evaluate it, so a statement about it holds for every value.
-/

namespace Sys2Proof.Config

/-- A fresh value for the `n`-th open value of a run (assumption log 3). -/
opaque freeValue : Nat → Nat

/-- The FP32 exponential of R402: bit-identical on every GX5, its error below 1 ulp, its bits not stated. -/
opaque fp32Exp : W32 → W32

/-- The device secret that the boot ROM reconstructs (R475). -/
opaque deviceSecret : BitVec 256

/-- The public half of the Falcon-1024 key pair of a seed (R476): the manual gives no key generation of its own. -/
opaque falconPublic : List Byte → List Byte

/-- A Falcon-1024 signature under the key of a seed, over a digest, with fresh randomness (R507). -/
opaque falconSign : List Byte → List Byte → Nat → List Byte

/-- The ML-KEM-1024 encapsulation key of a fresh seed, and the secret that it decapsulates from a ciphertext (R487,
R488). -/
opaque kemPublic : Nat → List Byte
opaque kemShared : Nat → List Byte → List Byte

/-- The base MAC address of the signed configuration block (R443, R477). -/
opaque macBase : BitVec 48

/-- The 64-B digests of the firmware signing keys the configuration block lists (R477), one word each. -/
opaque fwSigners : Nat → BitVec 512

/-- A text field of the module that the manual leaves to the block of R477: the boot ROM digest of R508. -/
opaque bootRomDigest : BitVec 512

/-- The eight check bits that the (72,64) SEC-DED code gives a word (R94): the manual names no matrix. -/
opaque secdedBits : Nat → Byte

/-- The check bits that the extended Hamming (8,4) code gives a tag (R93). -/
opaque hammingBits : Nat → BitVec 4

/-- The two 16-bit check symbols of a line under the Reed-Solomon code of R101: the manual names no field polynomial. -/
opaque rsCode : List Byte → BitVec 32

/-- Whether a code of this width takes a word with these errors, more than it is sure to detect, for another word. -/
opaque codePasses : Nat → Nat → Bool

/-- The data bits by which the word it then takes is off. -/
opaque codeOff : Nat → Nat → Nat

/-- The id of a Survey counter in a snapshot (R528), by the model's name for it; the manual gives no ids. -/
opaque counterId : Nat → W32

/-- The name of a Survey counter in a snapshot's name table (R528), by the model's name for it. -/
opaque counterName : Nat → List Char

/-- The boot ROM's identifier (R508, block 1). -/
opaque bootRomId : W64

/-- The digest of the signed configuration block (R477, R508, block 3). -/
opaque configDigest : BitVec 512

/-- The certificate chain of slot 0 (R507) for the alias certificate that carries a digest of measurement 2. -/
opaque certChain : List Byte → List Byte

/-- The bytes of the label (attach, accelerator index, session generation, direction) of an attach session's key, with
upstream `true` (R305); the manual gives it no bytes. -/
opaque attachLabel : Nat → BitVec 8 → Bool → List Byte

/-- The customization string of that KMAC256 (R305); the manual names none. -/
opaque attachCustom : List Byte

/-- The bytes of an entry of a crash dump section (R525), by the section's type and the entry's fields in the order the
table names them; the manual lists the fields and gives no layout. -/
opaque dumpEntry : Nat → List Nat → List Byte

/-- The types of the device dump's sections (R525) for unit states, counters, Tirmon registers and the command journal,
in that order; the manual names the sections and gives types only to those of a partition dump. -/
opaque deviceSection : Nat → Nat

/-- The Tirmon registers in the device dump (R525), the `n`-th open value of a run. -/
opaque tirmonRegisters : Nat → List Nat

/-- The bytes of credit that a pool of a ring segment or hub link holds beyond those of one whole packet: the manual
gives no size (R22, assumption log 69). -/
opaque linkExtra : Nat

/-- The fixed receive and transmit delays of a port's PCS, FEC and PMA, in Meridian units, as the signed configuration
block holds them (R452). -/
opaque ptpRx : Nat → Nat
opaque ptpTx : Nat → Nat

/-- The UUID of the host NQN, by device identity digest and partition (R464): the manual gives no derivation. -/
opaque hostUuid : List Byte → Nat → List Byte

end Sys2Proof.Config
end

