-- ==== Sys2Proof/Machine/State.lean ====
section
/-!
DEFINITION. Machine/State.lean: the state of the GX5 (plain data), the two kinds of stop, and the machine after
reset. Each structure names the rules of spec/ that give its fields. Times called `clk` count engine clocks of
1.6 GHz (R20's domain table: one clock is 10 Meridian units) since power-up and never step; times called `mt` are
Meridian times. Tables list only the rows that differ from "absent".
-/

namespace Sys2Proof.Machine

/-- No command of this block stops the machine with a fault: the manual gives every command an effect (a status,
a drop, a discarded write), so the type has no constructor. Nobody raises it. -/
inductive Fault where
  deriving DecidableEq, Repr

/-- Why a command is refused. -/
inductive Refusal where
  /-- Raised by an arm of `exec` whose command has no meaning yet; safe: the model stops where the device goes on. -/
  | notModelled (mnemonic : String)
  deriving DecidableEq, Repr

/-! ## Host functions, mailboxes (chapters 02 and 12) -/

/-- A bulk transfer of a mailbox (R54 to R57). -/
structure Bulk where
  kind : Nat := 0
  length : Nat := 0
  objectId : W64 := 0
  writing : Bool := false
  nextChunk : Nat := 0
  /-- What has been put so far, or what is being read. -/
  data : List Byte := []
  /-- Engine clock of the last chunk (R56). -/
  lastClk : Nat := 0
  /-- The partition the function was bound to at BULK_OPEN (R52). -/
  bound : Option Nat := none
  deriving DecidableEq, Repr

/-- Why a submitted command is still busy although the firmware has taken it. -/
inductive Wait where
  /-- QUEUE_DESTROY: the queue drains until the clock given (R63). -/
  | queueDrain (queue : Nat) (untilClk : Nat)
  /-- REGION_REVOKE: packets checked under the old entry remain (R123). -/
  | regionRevoke (index : Nat)
  /-- The sealed state is being written; the response follows (R484). -/
  | sealedState (status detail : Nat) (words : List W64)
  /-- SCHEDULE_RELEASE: the running instance must end (R411). -/
  | scheduleEnd (partition : Nat) (schedule : W32)
  /-- Committed and answered while the firmware is stopped: the response follows its restart (R70). -/
  | answered (status detail : Nat) (words : List W64)
  deriving DecidableEq, Repr

/-- One Izlis mailbox (R38). -/
structure Mailbox where
  cmd : W64 := 0
  resp : W64 := 0
  /-- The data window, 32 words (R38). -/
  data : List W64 := List.replicate 32 0
  intEnable : Bool := false
  intVector : Nat := 0
  restarted : Bool := false
  overrun : Bool := false
  done : Bool := false
  busy : Bool := false
  /-- MBX_SESSION.version: 0 while the mailbox is closed. -/
  version : Nat := 0
  lastSeq : W16 := 0
  bulk : Option Bulk := none
  /-- A bulk transfer was discarded and the next bulk command must say so (R56). -/
  bulkLapsed : Bool := false
  /-- The command in flight has passed its checks and waits (R63, R123, R484). -/
  wait : Option Wait := none
  /-- The number of the last doorbell accepted, counted over all mailboxes (R44), with the engine clock (R63) and
  MER_NOW (R92) at which it reached the hub. -/
  order : Nat := 0
  doorbellClk : Nat := 0
  doorbellMt : Nat := 0
  deriving DecidableEq, Repr

/-- One MSI-X table entry (R417). -/
structure MsixEntry where
  addr : W64 := 0
  data : W32 := 0
  masked : Bool := true
  deriving DecidableEq, Repr

/-- One PCIe function (R413 to R421); function numbers are port × 256 + index, index 0 the PF. -/
structure Func where
  /-- Presented to the host: a PF, or a VF under VF Enable (R434). -/
  present : Bool := false
  generation : BitVec 8 := 0
  tdisp : Nat := 0
  quiescing : Bool := false
  /-- The partition PARTITION_ASSIGN bound the function to (R59). -/
  bound : Option Nat := none
  /-- The function's Izlis version, 0 while no mailbox is open (R47). -/
  izlis : Nat := 0
  msixEnable : Bool := false
  functionMask : Bool := false
  msix : Table MsixEntry := []
  pba : List Nat := []
  atsEnable : Bool := false
  priEnable : Bool := false
  pasidEnable : Bool := false
  /-- Page requests are stopped until PRI Reset (R162). -/
  priStopped : Bool := false
  busMaster : Bool := false
  /-- A selective IDE stream covers the function (R421). -/
  ideStream : Bool := false
  /-- The latched high halves of 32-bit reads, by register offset (R9). -/
  highLatch : Table W32 := []
  /-- The low halves written and waiting for their high halves, by register offset (R10). -/
  lowHeld : Table W32 := []
  deriving DecidableEq, Repr

/-! ## Objects of partitions (chapters 04, 05, 06, 11) -/

/-- A segment entry (R145). -/
structure Segment where
  kind : Nat := 0
  base : W64 := 0
  length : W64 := 0
  read : Bool := false
  write : Bool := false
  pri : Bool := false
  deriving DecidableEq, Repr

/-- The state of a context slot (R263); a slot not listed has never been used. -/
inductive CtxState where
  | free
  | live
  | aborted
  | quarantined
  deriving DecidableEq, Repr

/-- One context slot (R142 to R146, R218, R341). -/
structure Context where
  state : CtxState := .free
  gen : BitVec 8 := 0
  partition : Nat := 0
  port : Nat := 0
  /-- The requester function fixed at creation (R143). -/
  requester : Nat := 0
  pasid : Option Nat := none
  segments : Table Segment := []
  nextSeq : W32 := 0
  /-- Destinations and region keys of messages of this generation that ended unacknowledged (R251). -/
  unacked : List (Nat × W32) := []
  seed : W64 := 0
  /-- The generation an abort ended, which CONTEXT_DESTROY may name (R62). -/
  abortedGen : BitVec 8 := 0
  /-- Meridian time, on the hub's copy, at which the quarantine ends (R87, R263). -/
  quarantineEnd : Nat := 0
  deriving DecidableEq, Repr

/-- One region table entry (R117); an entry not listed has never been issued. -/
structure Region where
  valid : Bool := false
  kind : Nat := 0
  read : Bool := false
  write : Bool := false
  atomic : Bool := false
  partition : Nat := 0
  check : BitVec 8 := 0
  gen : BitVec 8 := 0
  context : Nat := 0
  contextGen : BitVec 8 := 0
  handleIndex : Nat := 0
  base : Nat := 0
  length : Nat := 0
  hostAddress : W64 := 0
  /-- Meridian time, on the hub's copy, before which the entry is not reissued (R87, R124). -/
  quarantineEnd : Nat := 0
  /-- Revoked and not yet past its quarantine (R124). -/
  quarantined : Bool := false
  deriving DecidableEq, Repr

/-- A migration of one leg (R133). -/
structure Migration where
  reason : MigrateReason := .hint
  lpddr : Bool := false
  quadrant : Nat := 0
  passes : Nat := 0
  /-- The destination frames, one for each page (R133 step 1). -/
  frames : List Nat := []
  /-- Pages whose dirty bits are set (R133 step 2). -/
  dirty : List Nat := []
  /-- A pass has ended with at most 8 dirty pages: cut-over follows (R133 step 4). -/
  ready : Bool := false
  /-- The clock at which it began or its last pass ended (R515). -/
  progressClk : Nat := 0
  deriving DecidableEq, Repr

/-- One leg of a placement: up to 2 MiB (R127). `quadrant` is 4 for frames rotating over all 32 channels (R130). -/
structure Leg where
  lpddr : Bool := false
  quadrant : Nat := 0
  pages : Nat := 0
  /-- The 4 KiB frame of each page, by its number in the tier (R127, assumption log 5). -/
  frames : List Nat := []
  /-- Pages ever written; the others are marked unwritten (R128). -/
  written : List Nat := []
  migration : Option Migration := none
  /-- An abandoned migration that will be tried again (R137). -/
  abandoned : Option Migration := none
  /-- Source frames of a finished migration, not yet freed: tier, frames (R133 step 7). -/
  source : Option (Bool × List Nat) := none
  /-- Engine clock of the last migration or abandonment (R132, R137). -/
  lastMove : Option Nat := none
  /-- Cut-overs of the leg so far. -/
  moves : Nat := 0
  deriving DecidableEq, Repr

/-- One placement (R125 to R131). -/
structure Placement where
  live : Bool := false
  partition : Nat := 0
  gen : BitVec 8 := 0
  size : Nat := 0
  offset : Nat := 0
  tier : Nat := 0
  pinTier : Bool := false
  quadrant : Nat := 0
  pinQuadrant : Bool := false
  preferQuadrant : Bool := false
  legs : List Leg := []
  /-- Backs the HDM or direct window of a port (R424): its handle is not freed by PLACE_FREE (R425). -/
  hdmPort : Option Nat := none
  deriving DecidableEq, Repr

/-- How far an accepted descriptor has come (R184, R196 to R198, R245). -/
inductive DescPhase where
  | accepted
  | started
  | running
  | completed
  deriving DecidableEq, Repr

/-- An accepted descriptor (R191, R192) and its outcome. -/
structure Desc where
  index : W32 := 0
  opcode : Nat := 0
  tc : Nat := 0
  flagFinal : Bool := false
  fence : Bool := false
  suppress : Bool := false
  interrupt : Bool := false
  inline : Bool := false
  inlineData : List Byte := []
  length : Nat := 0
  regionKey : W32 := 0
  remote : W64 := 0
  localAddr : W64 := 0
  /-- The segment entry that held at the fetch (R148). -/
  seg : Segment := {}
  operandA : W64 := 0
  operandB : W64 := 0
  kernelId : Nat := 0
  userTag : W16 := 0
  /-- Generation of the queue's context at the descriptor's fetch (R203). -/
  contextGen : BitVec 8 := 0
  phase : DescPhase := .accepted
  status : Nat := 0
  detail : Nat := 0
  bytesDone : Nat := 0
  result : W64 := 0
  /-- Messages of the descriptor not yet begun: byte offset and length (R217). -/
  toSend : List (Nat × Nat) := []
  /-- A host write of the descriptor was issued, and the address of the last one (R205). -/
  lastHostWrite : Option (Nat × W64 × Bool) := none
  /-- Host bytes the device has fetched for the descriptor: byte offset and bytes. -/
  fetched : List (Nat × List Byte) := []
  acceptedClk : Nat := 0
  deriving DecidableEq, Repr

/-- The states of QUE_STATUS.state (R214). -/
inductive QState where
  | active
  | suspended
  | paused
  | error
  | draining
  deriving DecidableEq, Repr

/-- What a send queue is bound to (R459, R465). -/
inductive Binding where
  | none
  | queuePair (qp : Nat)
  | controller (c : Nat)
  deriving DecidableEq, Repr

/-- One send queue (R173 to R202, R214). -/
structure Queue where
  fn : Nat := 0
  partition : Nat := 0
  producer : W32 := 0
  consumer : W32 := 0
  state : QState := .active
  errorStatus : Nat := 0
  badDoorbell : Bool := false
  suspend : Bool := false
  base : W64 := 0
  log2 : Nat := 6
  version : Nat := 1
  home : Nat := 0
  pinHome : Bool := false
  ring : Nat := 0
  weight : Nat := 0
  burst : Nat := 1
  /-- Weight and burst of a QUEUE_SET not yet in force (R200). -/
  newSched : Option (Nat × Nat) := none
  completed : W32 := 0
  context : Nat := 0
  contextGen : BitVec 8 := 0
  credit : Int := 0
  /-- Re-fetches spent on the head (R185). -/
  refetches : Nat := 0
  /-- Engine clock at which the next re-fetch is due (R185). -/
  refetchAt : Option Nat := none
  /-- The clock of the last descriptor accepted or retired (R515). -/
  progressClk : Nat := 0
  /-- Accepted and not yet retired, in index order (R196). -/
  held : List Desc := []
  bound : Binding := .none
  /-- Prefetched and waiting slots found valid, by index (R187). -/
  kept : List (W32 × List Byte) := []
  deriving DecidableEq, Repr

/-- A completion entry (R203) before it has its ring index. -/
structure Entry where
  queue : Nat := 0
  descIndex : W32 := 0
  context : Nat := 0
  contextGen : BitVec 8 := 0
  userTag : W16 := 0
  status : Nat := 0
  detail : Nat := 0
  bytesDone : Nat := 0
  result : W64 := 0
  interrupt : Bool := false
  /-- The queue still holds the descriptor, to be retired with the entry (R196). -/
  owned : Bool := true
  deriving DecidableEq, Repr

/-- An entry held back by a flush read, and the read: its port, requester, PASID, address and address form (R205). -/
structure Flush where
  entry : Entry := {}
  port : Nat := 0
  requester : Nat := 0
  pasid : Option Nat := none
  addr : W64 := 0
  translated : Bool := false
  deriving DecidableEq, Repr

/-- One completion ring (R203 to R214). -/
structure Ring where
  fn : Nat := 0
  partition : Nat := 0
  producer : W32 := 0
  consumer : W32 := 0
  badConsumer : Bool := false
  ringFull : Bool := false
  stalled : Bool := false
  armed : Bool := false
  base : W64 := 0
  log2 : Nat := 6
  home : Nat := 0
  pinHome : Bool := false
  intEnable : Bool := false
  vector : Nat := 0
  holdoff : Nat := 0
  count : Nat := 1
  /-- Entries in the overflow, oldest first (R207). -/
  overflow : List Entry := []
  /-- Entries of descriptors waiting unretired, in completion order (R208). -/
  waiting : List Entry := []
  /-- Entries held back by a flush read on the other port (R205). -/
  flushing : List Flush := []
  /-- Engine clock of the first entry since the ring was last armed (R210). -/
  firstEntry : Option Nat := none
  deriving DecidableEq, Repr

/-! ## Translation (chapter 05) -/

/-- One ATC entry (R155): `page` is the address of its first byte ÷ 4 KiB; the list of a port is in order of use, most recent first. -/
structure AtcEntry where
  requester : Nat := 0
  pasid : Option Nat := none
  page : Nat := 0
  size : Nat := 4096
  read : Bool := false
  write : Bool := false
  global : Bool := false
  /-- The translated address of the entry's first page ÷ 4 KiB. -/
  target : Nat := 0
  deriving DecidableEq, Repr

/-- The engines that hold pre-translations (R150): the transport engines are 0 to 3, sequencer `k` is 4 + k. -/
abbrev Engine := Nat

/-- Who a tile works for. -/
inductive TileOwner where
  | desc (queue : Nat) (index : W32)
  | step (k slot : Nat)
  /-- The running instance of a schedule (R389: its buffers are context addresses). -/
  | coll (partition : Nat) (schedule : W32)
  deriving DecidableEq, Repr

/-- The progress of a tile (R152, R160, R169). -/
inductive TileState where
  | waiting
  | faulted
  | started
  | cancelled
  /-- It ends its descriptor or step once the tiles before it have committed (R164). -/
  | doomed
  deriving DecidableEq, Repr

/-- One tile: at most 64 KiB of host address space within one 64 KiB-aligned block (R150). -/
structure Tile where
  owner : TileOwner := .desc 0 0
  engine : Engine := 0
  context : Nat := 0
  contextGen : BitVec 8 := 0
  requester : Nat := 0
  port : Nat := 0
  pasid : Option Nat := none
  addr : Nat := 0
  length : Nat := 0
  /-- The tile writes host memory; otherwise it reads. -/
  write : Bool := false
  pri : Bool := false
  /-- The pre-translations: a page and its translated address ÷ 4 KiB (R151). -/
  ready : List (Nat × Nat) := []
  state : TileState := .waiting
  /-- Byte offset of the tile within its descriptor or step, and the bytes of the whole host range. -/
  offset : Nat := 0
  total : Nat := 0
  /-- The offset at which the tile's host range begins: its buffer number × 2^40. -/
  base : Nat := 0
  /-- Bytes whose host requests have been issued. -/
  issued : Nat := 0
  /-- Reads to issue again: offset in the tile and length (R169). -/
  redo : List (Nat × Nat) := []
  /-- Parts of a write tile that are written: offset in the tile and length. -/
  wrote : List (Nat × Nat) := []
  /-- The tile 16 places on has been cut (R151). -/
  opened : Bool := false
  /-- The status a doomed tile ends its owner with (R164). -/
  status : Nat := 0
  deriving DecidableEq, Repr

/-- An outstanding ATS Translation Request (R156, R157). -/
structure Walk where
  id : Nat := 0
  requester : Nat := 0
  pasid : Option Nat := none
  pages : List Nat := []
  write : Bool := false
  /-- The invalidations that reached the hub since the request was issued: base, length, PASID, Global (R157). -/
  since : List (Nat × Nat × Option Nat × Bool) := []
  /-- The tiles that miss; none for a packet that lands or is served (R166). -/
  tiles : List Nat := []
  /-- Engine clock of the miss (R156). -/
  missClk : Nat := 0
  /-- The request carries T at 1 (R421). -/
  trusted : Bool := false
  deriving DecidableEq, Repr

/-- One fault-table entry (R160). -/
structure FaultEntry where
  pasid : Option Nat := none
  page : Nat := 0
  write : Bool := false
  group : Nat := 0
  /-- Success came for the group, and the page is being translated (R162). -/
  answered : Bool := false
  /-- The page still faulted after that, and is to be requested once more (R162). -/
  again : Bool := false
  /-- The request of the page is the repeat (R162). -/
  repeated : Bool := false
  requester : Nat := 0
  tiles : List Nat := []
  deriving DecidableEq, Repr

/-- A Page Request Group (R161 to R163). -/
structure Group where
  id : Nat := 0
  requester : Nat := 0
  pasid : Option Nat := none
  pages : List Nat := []
  sentClk : Nat := 0
  /-- Timed out: the index stays unused until the response arrives (R163). -/
  timedOut : Bool := false
  /-- The requests carry T at 1 (R421). -/
  trusted : Bool := false
  deriving DecidableEq, Repr

/-- An invalidation in progress (R167 to R170). -/
structure Invalidation where
  tag : Nat := 0
  base : Nat := 0
  length : Nat := 0
  pasid : Option Nat := none
  global : Bool := false
  /-- Engines that have not acknowledged. -/
  pending : List Engine := []
  arrivedClk : Nat := 0
  deriving DecidableEq, Repr

/-- What a host read is for (R182, R205, R414, R432). -/
inductive ReadUse where
  | slots (queue : Nat) (first : W32) (count : Nat)
  | tile (id : Nat) (offset length : Nat)
  | flush (queue : Nat) (index : W32)
  | responder (quadrant copy index : Nat)
  | probe (a : Nat)
  /-- Nobody: the completion is discarded when it arrives (R436). -/
  | discard
  deriving DecidableEq, Repr

/-- An outstanding host read (R413, R414). -/
structure HostRead where
  tag : Nat := 0
  fn : Nat := 0
  pasid : Option Nat := none
  addr : W64 := 0
  length : Nat := 0
  purpose : ReadUse := .probe 0
  issuedClk : Nat := 0
  /-- The address is a translated one (R152, R158). -/
  translated : Bool := false
  relaxed : Bool := true
  /-- The request carries T at 1 (R421). -/
  trusted : Bool := false
  /-- The pre-translation it was issued under: the engine and the page (R168). -/
  origin : Option (Engine × Nat) := none
  deriving DecidableEq, Repr

/-! ## Host ports (chapter 12) -/

/-- One posted write toward a host (R205, R434). -/
structure HostWrite where
  fn : Nat := 0
  pasid : Option Nat := none
  addr : W64 := 0
  bytes : List Byte := []
  relaxed : Bool := true
  /-- An MSI-X message of this vector (R417); otherwise a data or completion write. -/
  msix : Option Nat := none
  /-- The address is a translated one (R152, R158). -/
  translated : Bool := false
  /-- The request carries T at 1 (R421). -/
  trusted : Bool := false
  /-- The descriptor or step whose bytes it carries. -/
  owner : Option TileOwner := none
  /-- A doorbell of this accelerator (R433). -/
  doorbell : Option Nat := none
  deriving DecidableEq, Repr

/-- FN_P2P of one accelerator (R431, R432). -/
structure P2P where
  base : W64 := 0
  failed : Bool := false
  enable : Bool := false
  /-- The probe waits for a tag (R413, R432). -/
  due : Bool := false
  deriving DecidableEq, Repr

/-- A bias change in progress (R429). -/
structure BiasJob where
  host : Bool := false
  first : Nat := 0
  pages : Nat := 0
  deriving DecidableEq, Repr

/-- A device access waiting for a line of a host-bias page (R427), or a host request waiting for a flip (R428). -/
structure BiasWait where
  line : Nat := 0
  write : Option (List Byte) := none
  /-- A host CXL.mem request; otherwise a device access. -/
  fromHost : Bool := false
  owned : Bool := false
  deriving DecidableEq, Repr

/-- One host port (R413 to R436). -/
structure HostPort where
  /-- The port is ready for link training (R558). -/
  ready : Bool := false
  linkUp : Bool := false
  /-- DL_Down came and neither DL_Up nor 100 ms have passed since (R434). -/
  retraining : Bool := false
  downClk : Nat := 0
  retrains : W32 := 0
  /-- What host software sets in the PF's capabilities (R413): Max Read Request Size in bytes, the completion timeout in
  µs, and ARI Capable Hierarchy. -/
  maxRead : Nat := 512
  timeoutUs : Nat := 50000
  ari : Bool := false
  /-- The link IDE stream and the IDE of CXL.cachemem have their keys (R420). -/
  linkIde : Bool := false
  cxlIde : Bool := false
  /-- The retrain buffer, oldest first (R434). -/
  held : List HostWrite := []
  /-- Writes the engines have not issued because the retrain buffer is full, oldest first (R435). -/
  engineHeld : List HostWrite := []
  hdmHandle : W32 := 0
  hdmLength : Nat := 0
  cxlMem : Bool := false
  decoder : Bool := false
  biasPage : Nat := 0
  biasTarget : Bool := false
  biasPages : Nat := 0
  biasJob : Option BiasJob := none
  rangeError : Bool := false
  /-- Pages of the backing in device bias; every other page is in host bias (R424). -/
  deviceBias : List Nat := []
  /-- Lines the device cache holds: line number and whether owned (R423, R427). -/
  cache : List (Nat × Bool) := []
  biasWaits : List BiasWait := []
  p2p : Table P2P := []
  atc : List AtcEntry := []
  walks : List Walk := []
  /-- Misses that wait for a walker, oldest first (R156). -/
  misses : List Walk := []
  /-- Pages whose translation failed under a packet that lands or is served: requester, PASID, page (R157, R166). -/
  failed : List (Nat × Option Nat × Nat) := []
  /-- PASIDs that a Stop Marker is owed for (R165). -/
  stopDue : List Nat := []
  faults : List FaultEntry := []
  groups : List Group := []
  /-- The page request allocation the host wrote (R161). -/
  priAllocation : Nat := 0
  invalidations : List Invalidation := []
  reads : List HostRead := []
  deriving DecidableEq, Repr

/-! ## Transport (chapter 07) -/

/-- The states of a sender entry (R246). -/
inductive SendState where
  | ready
  | waitResv
  | sending
  | waitReply
  | backoff
  deriving DecidableEq, Repr

/-- Who a message belongs to. -/
inductive MsgOwner where
  | desc (queue : Nat) (index : W32)
  | step (k slot : Nat)
  | coll (partition : Nat) (schedule : W32) (step : Nat)
  | none
  deriving DecidableEq, Repr

/-- The colour of a packet offered at a port (R281): 0 green, 1 yellow, 2 red, with the clock from which it was offered. -/
structure Tint where
  port : Nat := 0
  index : Nat := 0
  colour : Nat := 0
  since : Nat := 0
  deriving DecidableEq, Repr

/-- One outstanding message of a quadrant's sender table (R246). -/
structure Sender where
  state : SendState := .ready
  owner : MsgOwner := .none
  opcode : Nat := 0
  cls : Nat := 0
  tc : Nat := 0
  partition : Nat := 0
  context : Nat := 0
  gen : BitVec 8 := 0
  seq : W32 := 0
  issue : W32 := 0
  /-- Engine clock of the first transmission (R231, R232 after a step). -/
  issueClk : Nat := 0
  dst : Nat := 0
  address : W64 := 0
  regionKey : W32 := 0
  length : Nat := 0
  packets : Nat := 0
  flagFinal : Bool := false
  /-- The bytes the message carries, packets in order, where the source is not read at transmission. -/
  data : List Byte := []
  /-- Where the bytes stand in partition space, when they are read at transmission. -/
  source : Option (Nat × Nat) := none
  /-- Byte offset of the message in its descriptor, and the context address its read data goes to. -/
  offset : Nat := 0
  localAddr : W64 := 0
  operandA : W64 := 0
  operandB : W64 := 0
  /-- Packets still to be sent in this round, in order (R241). -/
  toSend : List Nat := []
  /-- Packets transmitted at least once. -/
  sent : List Nat := []
  /-- The most recent bitmap received (R241); for a READ, the packets committed locally (R257). -/
  bitmap : W64 := 0
  /-- Copies transmitted, and of those the copies answered by a retry-after NAK with no_record (R243). -/
  copies : Nat := 0
  refusedCopies : Nat := 0
  /-- The retransmission timeout in engine clocks (R240). -/
  timeout : Nat := 32000
  timerStart : Option Nat := none
  /-- Refused packets and the engine clock until which each is held (R242). -/
  holds : List (Nat × Nat) := []
  reissues : Nat := 0
  reissue : Bool := false
  reserved : Nat := 0
  /-- The first time the message would have begun without an active port (R310). -/
  unreachableSince : Option Nat := none
  stepped : Bool := false
  coll : Specific := {}
  /-- The engine clock at which the message was formed: the oldest of a pair is offered first (R279). -/
  formed : Nat := 0
  /-- The colours of its packets on offer (R281). -/
  tints : List Tint := []
  deriving DecidableEq, Repr

/-- The states of a dedup record (R248). -/
inductive RecState where
  | provisional
  | opened
  | complete
  | failed
  deriving DecidableEq, Repr

/-- One dedup record (R233 to R248). -/
structure Record where
  key : MsgKey := {}
  issue : W32 := 0
  state : RecState := .provisional
  length : Nat := 0
  committed : Nat := 0
  pending : List Nat := []
  verified : W64 := 0
  /-- The packet waiting in the flag hold (R252). -/
  flag : Option Packet := none
  result : W64 := 0
  finalStatus : Nat := 0
  lastReply : Option Nat := none
  deriving DecidableEq, Repr

/-- A copy between its arrival checks and its commit or drop (R234, R258). -/
structure RxCopy where
  id : Nat := 0
  port : Nat := 0
  pkt : Packet := {}
  /-- Pool bytes taken (R258). -/
  space : Nat := 0
  /-- The pool was more than 75% full when the header arrived (R270). -/
  marked : Bool := false
  /-- Verified, and waiting for its commit to accelerator memory under this tag (R320). -/
  attTag : Option Nat := none
  verified : Bool := false
  /-- READ_REQ: response packets still to be served (R256), and bytes read so far by offset in the message. -/
  want : List Nat := []
  got : List (Nat × List Byte) := []
  /-- Its host reads that wait for a tag, on this port (R413). -/
  readPort : Nat := 0
  toRead : List HostRead := []
  /-- The copy is an inbound request of this queue pair (R461). -/
  rdma : Option Nat := none
  deriving DecidableEq, Repr

/-- One congestion cache entry (R271). -/
structure Congest where
  dest : Nat := 0
  rate : Nat := 0
  delay : Option Nat := none
  baseNow : Option Nat := none
  basePrev : Option Nat := none
  nextSend : Nat := 0
  lastDecrease : Option Nat := none
  lastIncrease : Option Nat := none
  outstanding : Nat := 0
  lastSample : Nat := 0
  lastUse : Nat := 0
  deriving DecidableEq, Repr

/-- The transport state of one quadrant. -/
structure Quadrant where
  senders : Table Sender := []
  nextMsg : Nat := 0
  records : List Record := []
  copies : List RxCopy := []
  nextCopy : Nat := 0
  /-- Bytes used of the landing pools of classes 0 to 3, and of the flag hold inside class 0 (R258). -/
  pool0 : Nat := 0
  pool1 : Nat := 0
  pool2 : Nat := 0
  pool3 : Nat := 0
  flagHold : Nat := 0
  /-- Response space reserved (R261) and collective space reserved by admission (R394). -/
  reserved : Nat := 0
  collReserved : Nat := 0
  /-- Transmit counter: epoch and count (R491); a new epoch is being reserved. -/
  txEpoch : BitVec 32 := 0
  txCount : Nat := 0
  epochPending : Bool := false
  /-- Packets waiting for the next epoch or a sealing engine (R491, R497), oldest first; `true` for a NAK of R85. -/
  unsealed : List (Bool × Packet) := []
  congestion : List Congest := []
  /-- The number of the 10 ms period the base delays are in (R271). -/
  basePeriod : Nat := 0
  /-- The queue last visited by the scheduler (R198). -/
  lastVisited : Nat := 0
  appointments : List (Nat × Nat) := []
  clockStopped : Bool := false
  idleSince : Nat := 0
  /-- The clocks at which the sealing and the opening engines in use fall free (R497). -/
  sealing : List Nat := []
  opening : List Nat := []
  /-- The clock of the last copy sealed, and of the last to leave the receive pipeline (R515). -/
  sentClk : Nat := 0
  commitClk : Nat := 0
  deriving DecidableEq, Repr

/-- The kinds of an appointment in their firing order (R89). -/
inductive ApptKind where
  | chartSwap (bank : Bool)
  | gateSwap (port : Nat)
  | keyRotation (p : Nat) (job : Option Nat)
  | surveyEpoch
  | collective (p : Nat) (schedule : W32)
  | heartbeat (p job : Nat)
  deriving DecidableEq, Repr

/-- An appointment: it takes a slot in each quadrant listed (R88). -/
structure Appointment where
  kind : ApptKind := .surveyEpoch
  time : Nat := 0
  /-- 0 for one-shot. -/
  period : Nat := 0
  /-- The quadrants concerned, the slot taken in the slice of each, and those that have done their part (R30). -/
  quadrants : List Nat := [0, 1, 2, 3]
  slots : List Nat := [0, 0, 0, 0]
  acted : List Nat := []
  deriving DecidableEq, Repr

/-! ## Ports, charts, accelerators (chapters 08, 09, 13) -/

/-- FAB_PORT_STATUS.state (R317). -/
inductive PortState where
  | down
  | detect
  | train
  | align
  | config
  | session
  | active
  | masked
  deriving DecidableEq, Repr

/-- A transit packet in an input buffer (R311). -/
structure Head where
  pkt : Packet := {}
  arrivedClk : Nat := 0
  headSince : Option Nat := none
  pressed : Bool := false
  relaxed : Bool := false
  /-- A beacon replica: the ports it still has to leave on (R523). -/
  replica : Option (List Nat) := none
  deriving DecidableEq, Repr

/-- A meter: the two buckets in bytes (R280); its rates follow the weights in force. -/
structure Meter where
  /-- Bucket levels in bytes × 1,600,000,000, so that the fill of one clock is exact. -/
  committed : Nat := 65536 * 1600000000
  peak : Nat := 262144 * 1600000000
  lastFill : Nat := 0
  deriving DecidableEq, Repr

/-- One deficit round robin of a port (R278). -/
structure Robin where
  credits : List (Nat × Int) := []
  /-- The pair last visited; before the first visit 127, behind which pair 0 stands. -/
  lastPair : Nat := 127
  /-- The pairs that the running round has still to visit or is visiting, in its order. -/
  left : List Nat := []
  deriving DecidableEq, Repr

/-- A relayed packet queued on the fallback path (R281, R324): sealed, and coloured on its arrival. -/
structure Fallback where
  pkt : Packet
  colour : Nat := 0
  since : Nat := 0
  deriving DecidableEq, Repr

/-- A gate list (R453): cycle time and entries (interval in ns, gates). -/
structure GateList where
  cycle : Nat := 0
  entries : List (Nat × BitVec 8) := []
  deriving DecidableEq, Repr

/-- The addressing of a frame that the device sends (R443, R447, R448, R457): its port and class, destination and source
MAC address, its C-tag (VID and PCP), its priority, the remote IP address with its family, DSCP and ECN codepoint, SPI and
sequence number of its ESP, and its octets from destination address to FCS. -/
structure Envelope where
  port : Nat := 0
  tc : Nat := 7
  dst : Nat := 0
  src : Nat := 0
  tag : Option (Nat × Nat) := none
  priority : Nat := 7
  ip : Option (Bool × List Byte) := none
  dscp : Nat := 0
  ecn : Nat := 0
  esp : Option (W32 × Nat) := none
  octets : Nat := 64
  deriving DecidableEq, Repr

/-- What a frame carries that the device sends: a RoCEv2 packet (remote queue pair, kind, PSN, words), a packet of a
controller's association, or a frame of the port's own (R443, R451). -/
inductive EthBody where
  | rdma (remote kind psn : Nat) (body : List W64)
  | nvme (controller kind : Nat) (body : List W64)
  | own (kind : Nat) (body : List Nat)
  deriving DecidableEq, Repr

/-- A frame formed and waiting for its turn at an Ethernet port (R277, R448, R455); `colour` 3 is not yet coloured. -/
structure EthFrame where
  env : Envelope := {}
  body : EthBody
  partition : Nat := 0
  protect : Bool := false
  /-- The queue pair whose rate paces the frame (R462). -/
  qp : Option Nat := none
  colour : Nat := 3
  since : Nat := 0
  /-- Counted in gate_deferred (R455). -/
  deferred : Bool := false
  deriving DecidableEq, Repr

/-- The Ethernet side of a port (R440 to R456). -/
structure EthPort where
  maxFrame : Nat := 0x5F2
  pfcHonour : BitVec 8 := 0xFF
  ptpDomain : BitVec 8 := 0
  ptpTransport : Nat := 0
  router : BitVec 48 := 0
  ip4 : W32 := 0
  ip6lo : W64 := 0
  ip6hi : W64 := 0
  /-- MAC of the lane die, 0 or 1 (R441). -/
  mac : Nat := 0
  rate : Nat := 0
  swapPending : Bool := false
  gateBase : W64 := 0
  active : Option GateList := none
  pending : Option GateList := none
  /-- The cycle boundary at which the pending list takes over (R456). -/
  takeover : Option Nat := none
  /-- ETH_CNT 0 to 9, saturating (R449). -/
  counters : List W64 := List.replicate 10 0
  /-- Frames in the receive buffer, oldest first (R445). -/
  buffer : List Frame := []
  /-- Frames that left the buffer for their landing pool and are not yet handled, with the pool space each holds (R445). -/
  landed : List (Frame × Nat) := []
  /-- Paused priorities and the engine clock at which each pause ends (R446). -/
  paused : List (Nat × Nat) := []
  /-- Frames waiting to be sent, oldest first, and the engine clock at which the frame on the wire ends (R277). -/
  egress : List EthFrame := []
  busyUntil : Nat := 0
  deriving DecidableEq, Repr

/-- One of the 32 ports (R289 to R304, R317, R278). -/
structure Port where
  mode : Nat := 0
  state : PortState := .down
  neighbour : W16 := 0
  /-- The endpoint held before the last mask (R304). -/
  heldNeighbour : Option W16 := none
  mplMismatch : Bool := false
  modeMismatch : Bool := false
  neighbourChanged : Bool := false
  width : Nat := 0
  minWidth : Nat := 0
  uncorrectable : Nat := 0
  crcErrors : Nat := 0
  aborted : Nat := 0
  downEvents : Nat := 0
  deflected : W32 := 0
  hopLimit : Nat := 0
  noRoute : Nat := 0
  /-- Engine clocks of recent down events (R304); 8 within 1 s hold the port. -/
  recentDowns : List Nat := []
  heldMasked : Bool := false
  leftDetect : Nat := 0
  lastGoodControl : Nat := 0
  lastControlSent : Nat := 0
  /-- A width this side proposed, and a width agreed but not yet switched (R300, R301). -/
  proposed : Option Nat := none
  agreed : Option Nat := none
  leaveForLanes : Nat := 0
  /-- Bytes of the packet being received (R296, R297); none when a packet start must be found anew (R298). -/
  rxPartial : Option (List Byte) := none
  /-- Engine clocks of recent uncorrectable codewords (R302). -/
  recentUncorrectable : List Nat := []
  input : List Head := []
  /-- Last completed time exchange (R76), hops of the far end and its timekeeper's source (R299). -/
  exchange : Option Nat := none
  /-- Engine clock and stamp of the last TIME_REQ sent (R76). -/
  lastTimeReq : Option (Nat × W64) := none
  farHops : Nat := 0
  farSource : Nat := 0
  /-- The timekeeper's epoch, as the named port reports it (MER_EPOCH_TAI under source 3). -/
  farEpochTai : W64 := 0
  overhead : Nat := 0x20
  /-- Weights in force at the port, by partition × 8 + tc (R285). -/
  weights : Table Nat := []
  robins : List Robin := List.replicate 4 {}
  meters : Table Meter := []
  /-- The queue of the fallback path (R281). -/
  fallback : List Fallback := []
  eth : EthPort := {}
  deriving DecidableEq, Repr

/-- A chart entry (R307). -/
structure ChartEntry where
  near : W32 := 0
  productive : W32 := 0
  distance : Nat := 0
  primary : Nat := 0
  primaryValid : Bool := false
  accelerator : Nat := 0
  kind : Nat := 0
  deriving DecidableEq, Repr

/-- FAB_ATT_STATUS.state (R317). -/
inductive AttState where
  | none
  | session
  | up
  | configError
  | reset
  deriving DecidableEq, Repr

/-- What a MEM_ request on an attach link is for (R320). -/
inductive AttUse where
  | commit (quadrant copy : Nat)
  | readFor (quadrant copy index : Nat)
  /-- A response packet of a READ whose local destination lies in an accelerator window (R257). -/
  | readInto (quadrant copy : Nat)
  /-- Local bytes of a descriptor or step in an accelerator window: read into it, or written from it. -/
  | fetch (owner : TileOwner) (offset : Nat)
  | store (owner : TileOwner) (offset : Nat)
  deriving DecidableEq, Repr

/-- A MEM_WRITE or MEM_READ (R319 to R322). -/
structure AttReq where
  tag : Nat := 0
  purpose : AttUse := .commit 0 0
  write : Bool := false
  offset : Nat := 0
  data : List Byte := []
  length : Nat := 0
  partition : Nat := 0
  sentClk : Option Nat := none
  deriving DecidableEq, Repr

/-- One accelerator (R305, R317 to R328). -/
structure Accel where
  partitions : W16 := 0
  endpoint : W16 := 0
  ports : W32 := 0
  /-- Ports in force for the running session (R317: a write takes effect at the next session). -/
  portsInForce : W32 := 0
  generation : BitVec 8 := 0
  rejects : Nat := 0
  state : AttState := .none
  step : Nat := 0
  sessionStart : Nat := 0
  lastAttempt : Option Nat := none
  writeCredits : Nat := 0
  readCredits : Nat := 0
  requests : List AttReq := []
  /-- Response space reserved for the accelerator's READs: message and packets (R324, R325). -/
  relayReads : List (MsgKey × List Nat) := []
  /-- READ_RESP packets waiting for write credits, oldest first (R321). -/
  relayWaiting : List Packet := []
  /-- The SHAKE256 digest of the certificate chain that the accelerator showed (R305, R508). -/
  certDigest : List Byte := List.replicate 64 0
  /-- The session's keys, and the count of what has come upstream under them (R305, R306). -/
  downKey : List Byte := []
  upKey : List Byte := []
  upFlits : Nat := 0
  deriving DecidableEq, Repr

/-! ## Arithmetic units, kernels, collectives (chapters 10 and 11) -/

/-- A numeric flag pair (R337). -/
structure NumFlags where
  invalid : Bool := false
  overflow : Bool := false
  deriving DecidableEq, Repr

/-- The graticule job record of R343. -/
structure JobRecord where
  outAddress : W64 := 0
  wScaleAddress : W64 := 0
  aScaleAddress : W64 := 0
  wAddress : W64 := 0
  aAddress : W64 := 0
  wScale : W32 := 0
  aScale : W32 := 0
  stream : W32 := 0
  accRow : Nat := 0
  m : Nat := 0
  k : Nat := 0
  n : Nat := 0
  outFmt : Nat := 0
  wFmt : Nat := 0
  aFmt : Nat := 0
  exact : Bool := false
  accumulate : Bool := false
  emit : Bool := false
  sr : Bool := false
  saturate : Bool := false
  check : Bool := false
  aStride : Nat := 0
  outStride : Nat := 0
  deriving DecidableEq, Repr

/-- A job waiting for leave, waiting for a wipe, or running (R351, R352, R365). -/
structure GratJob where
  record : JobRecord := {}
  sequencer : Nat := 0
  slot : Nat := 0
  context : Nat := 0
  partition : Nat := 0
  /-- Leave has been granted. -/
  running : Bool := false
  grantedClk : Nat := 0
  /-- The clocks that had been withheld when leave was granted (R543). -/
  withheld : Nat := 0
  checked : Bool := false
  fpTol : Nat := 16
  /-- Vectors accumulated so far. -/
  next : Nat := 0
  flags : NumFlags := {}
  /-- The vector whose first check failed and awaits its repeat (R363). -/
  failedVector : Option Nat := none
  deriving DecidableEq, Repr

/-- One graticule (R349, R363, R367). -/
structure Graticule where
  partition : Nat := 0
  owned : Bool := false
  bank : Bool := false
  wiping : Bool := false
  jobs : W32 := 0
  checkFailed : Nat := 0
  retryOk : Nat := 0
  skipped : Nat := 0
  invalidCount : Nat := 0
  overflowCount : Nat := 0
  job : Option GratJob := none
  /-- The instance of operation 5 whose scores the graticule runs: partition and schedule (R402). -/
  scoring : Option (Nat × W32) := none
  /-- The kernel sequencer that bound the graticule (R377). -/
  boundTo : Option Nat := none
  /-- Accumulator rows: FP32 or INT32 patterns, or exact accumulators (R349). -/
  rows : Table (List (BitVec 384)) := []
  /-- Rows whose cells a row of the other kind was written over since they were (R349). -/
  spoiled : List Nat := []
  suspect : Bool := false
  retired : Bool := false
  deriving DecidableEq, Repr

/-- A reduction waiting or running (R357 to R360). -/
structure Reduction where
  sequencer : Nat := 0
  slot : Nat := 0
  context : Nat := 0
  partition : Nat := 0
  src : W64 := 0
  dst : W64 := 0
  count : Nat := 0
  inFmt : Nat := 0
  outFmt : Nat := 0
  mode : Nat := 0
  operation : Nat := 0
  sr : Bool := false
  saturate : Bool := false
  stream : W32 := 0
  /-- CONVERT of R379: a conversion only. -/
  convert : Bool := false
  deriving DecidableEq, Repr

/-- One reduction unit (R359, R367). -/
structure RedUnit where
  partition : Nat := 0
  owned : Bool := false
  mode : Nat := 0
  wiping : Bool := false
  reductions : W32 := 0
  invalidCount : Nat := 0
  overflowCount : Nat := 0
  queue : List Reduction := []
  /-- The partition whose state the unit holds; none in a wiped unit (R33). -/
  holds : Option Nat := none
  exactStore : Table (BitVec 384) := []
  /-- The clock at which the head of the queue became the head (R515). -/
  progressClk : Nat := 0
  deriving DecidableEq, Repr

/-- A kernel step (R378). -/
structure Step where
  op : Nat := 0
  sub : Nat := 0
  a : W64 := 0
  b : W64 := 0
  c : W64 := 0
  timeout : Nat := 0
  trig : Nat := 0
  sx : Nat := 0
  sy : Nat := 0
  ind : Bool := false
  sync : Bool := false
  sig : Bool := false
  /-- The reserved fields of the step are zero. -/
  reservedZero : Bool := true
  deriving DecidableEq, Repr

/-- A loaded kernel image (R381). -/
structure Kernel where
  partition : Nat := 0
  tc : Nat := 0
  bindGraticule : Bool := false
  deadline : Nat := 0
  steps : List Step := []
  deriving DecidableEq, Repr

/-- A step in flight, or the one step a sequencer waits for (R373). -/
structure Flight where
  slot : Nat := 0
  index : Nat := 0
  step : Step := {}
  issuedClk : Nat := 0
  /-- The step has finished its work with this status and detail; it is not yet completed. -/
  ended : Option (Nat × Nat) := none
  toSend : List (Nat × Nat) := []
  bytesDone : Nat := 0
  /-- The segment entries of the step's ranges, by buffer number, as they held at its fetch (R148). -/
  segs : List Segment := []
  /-- The segments of its context as they held at the fetch of a GEMM step, whose record names addresses (R148). -/
  table : Table Segment := []
  /-- The trig point that the step named when it was issued (R380). -/
  trig : Nat := 0
  /-- Host bytes the device has fetched for the step: byte offset and bytes. -/
  fetched : List (Nat × List Byte) := []
  deriving DecidableEq, Repr

/-- What a running sequencer is waiting for (R373, R379). -/
inductive SeqWait where
  | none
  /-- Waits for the flight of this slot (a synchronous step). -/
  | flight (slot : Nat)
  | trigGe (point : Nat) (value : W64) (take : Bool) (slot : Nat)
  | time (value : W64) (slot : Nat)
  /-- Waits for the job record of a GEMM step (R343). -/
  | record (slot : Nat)
  | wordGe (offset : Nat) (value : W64) (slot : Nat)
  /-- EXIT: waits for every flight. -/
  | exit (result : W64)
  /-- A step failed: waits for the flights to end, then ends with this status and step index (R375). -/
  | failing (status index : Nat)
  deriving DecidableEq, Repr

/-- A running kernel (R371). -/
structure Running where
  kernel : Nat := 0
  image : Kernel := {}
  queue : Nat := 0
  descIndex : W32 := 0
  context : Nat := 0
  contextGen : BitVec 8 := 0
  partition : Nat := 0
  scalars : List W64 := List.replicate 16 0
  step : Nat := 0
  /-- Active loop counters: step index of the LOOP and its counter (R379). -/
  loops : List (Nat × Nat) := []
  flags : NumFlags := {}
  flights : List Flight := []
  nextSlot : Nat := 0
  bound : Option Nat := none
  waiting : SeqWait := .none
  /-- The clock of the last step issued or completed (R515). -/
  progressClk : Nat := 0
  deriving DecidableEq, Repr

/-- One kernel sequencer (R370, R410). -/
structure Sequencer where
  partition : Nat := 0
  owned : Bool := false
  /-- An admitted schedule reserves the sequencer. -/
  reservedBy : Option (Nat × W32) := none
  kernelId : Nat := 0
  wiping : Bool := false
  ended : W32 := 0
  failed : Nat := 0
  timeouts : Nat := 0
  running : Option Running := none
  retired : Bool := false
  deriving DecidableEq, Repr

/-- A job key generation set (R490, R492). -/
structure KeyGens where
  current : Nat := 0
  pending : Option (Nat × Nat) := none
  retained : Option (Nat × Nat) := none
  /-- Epoch at which the current generation became active, per quadrant, and the endpoint then held (R493). -/
  activeEpochs : List Nat := [0, 0, 0, 0]
  endpoint : Nat := 0
  /-- Quadrants that already seal under the pending generation, while the rotation fires (R30, R492). -/
  moved : List Nat := []
  deriving DecidableEq, Repr

/-- One job of a partition (R386 to R388). -/
structure Job where
  members : Nat := 0
  key : Option KeyGens := none
  rank : Nat := 0
  /-- Endpoints of the members, from the first admitted schedule (R389). -/
  endpoints : List (Nat × Nat) := []
  aborted : Bool := false
  heartbeat : Bool := false
  /-- Landing quadrant of the job's first admitted schedule, where its heartbeats run (R387). -/
  quadrant : Nat := 0
  /-- Watched members: rank and MER_NOW of the last HEARTBEAT (R388). -/
  watched : List (Nat × Nat) := []
  lastBeacon : Option Nat := none
  deriving DecidableEq, Repr

/-- A schedule header (R389) and what admission chose. -/
structure SchedHeader where
  id : W32 := 0
  job : Nat := 0
  op : Nat := 0
  algorithm : Nat := 0
  mode : Nat := 0
  operation : Nat := 0
  sr : Bool := false
  saturate : Bool := false
  inFmt : Nat := 0
  outFmt : Nat := 0
  n : Nat := 0
  rank : Nat := 0
  context : Nat := 0
  gen : BitVec 8 := 0
  tc : Nat := 0
  landQ : Nat := 0
  msgSize : Nat := 0
  stream : W32 := 0
  deadline : Nat := 0
  trigBase : Nat := 0
  startKind : Nat := 0
  depth : Nat := 0
  count : Nat := 0
  sendAddr : W64 := 0
  recvAddr : W64 := 0
  scratchAddr : W64 := 0
  startTime : Nat := 0
  period : Nat := 0
  deriving DecidableEq, Repr

/-- A routed token of operation 5: token, place j, expert, rank and slot it was sent to, and weight (R402, R403). -/
structure Route where
  token : Nat := 0
  place : Nat := 0
  expert : Nat := 0
  /-- `none`: the pair is dropped. -/
  sentTo : Option (Nat × Nat) := none
  weight : W32 := 0
  deriving DecidableEq, Repr

/-- The running instance of a schedule (R392). -/
structure Instance where
  number : Nat := 0
  startMt : Nat := 0
  step : Nat := 0
  /-- Bytes received: step, source rank, offset in the step buffer, bytes (R394). -/
  received : List (Nat × Nat × Nat × List Byte) := []
  /-- Messages of this instance not yet acknowledged (R394). -/
  unacked : Nat := 0
  /-- Held partial results by element, in the carry format (R393). -/
  carry : Table (BitVec 384) := []
  /-- Sends whose messages have been formed (step and peer), phases passed, and messages without an entry yet: step,
  peer, offset, bytes. -/
  sentSteps : List (Nat × Nat) := []
  phases : List Nat := []
  routes : List Route := []
  backlog : List (Nat × Nat × Nat × List Byte) := []
  /-- Bytes fetched from host or accelerator memory, by buffer number × 2^40 + offset. -/
  fetched : List (Nat × List Byte) := []
  segs : List Segment := []
  /-- Started by a COLL step of this sequencer and flight slot. -/
  coll : Option (Nat × Nat) := none
  flags : NumFlags := {}
  failed : Nat := 0
  /-- The graticule bound for the scores of operation 5 (R402). -/
  grat : Option Nat := none
  /-- Meridian time at which operation 5 signalled trig_base + 3, until trig_base + 2 answers (R404). -/
  idleFrom : Nat := 0
  deriving DecidableEq, Repr

/-- An admitted schedule (R407). -/
structure Schedule where
  header : SchedHeader := {}
  members : List (Nat × Nat) := []
  block : List Byte := []
  bound : Nat := 0
  reservation : Nat := 0
  sequencer : Nat := 0
  ports : List Nat := []
  started : Nat := 0
  late : Nat := 0
  running : Option Instance := none
  /-- Starts that fell due while an instance ran (R392), and the COLL steps among them: sequencer and flight slot. -/
  deferred : Nat := 0
  callers : List (Nat × Nat) := []
  /-- The value of trig_base + 0 at its last change (R392). -/
  trigSeen : Nat := 0
  released : Bool := false
  deriving DecidableEq, Repr

/-! ## Partitions and keys (chapter 14) -/

/-- A security association pair (R457, R490). -/
structure SecAssoc where
  ip : List Byte := []
  family : Nat := 0
  outSpi : W32 := 0
  inSpi : W32 := 0
  /-- The keys of purpose 0x07, outbound and inbound (R486, R490). -/
  outKey : List Byte := []
  inKey : List Byte := []
  /-- The last sequence number sent, the highest received, and the numbers received in the window below it (R457). -/
  outSeq : Nat := 0
  inHigh : Nat := 0
  inSeen : List Nat := []
  deriving DecidableEq, Repr

/-- A key session (R487 to R490). -/
structure KeySession where
  id : Nat := 0
  /-- The next step of the session. -/
  next : Nat := 2
  established : Bool := false
  /-- The OFFER message as the device made it (R487). -/
  offer : List Byte := []
  /-- The seed of the session's encapsulation key (R487). -/
  kem : Nat := 0
  commandKey : List Byte := []
  responseKey : List Byte := []
  owner : List Byte := []
  lastClk : Nat := 0
  /-- The KEY_RESP plaintext of the last command. -/
  response : List Byte := []
  ending : Bool := false
  deriving DecidableEq, Repr

/-- A rekey of LPDDR5X (R498 to R501). -/
structure Rekey where
  old : Nat := 0
  new : Nat := 0
  pointer : Nat := 0
  journal : Nat := 0
  staged : Bool := false
  deriving DecidableEq, Repr

/-- When a collective key generation became active: its epoch in each quadrant, and the endpoint then held (R483, R493). -/
structure JobGen where
  job : Nat := 0
  gen : Nat := 0
  activeEpochs : List Nat := [0, 0, 0, 0]
  endpoint : Nat := 0
  deriving DecidableEq, Repr

/-- What the sealed state holds of a partition (R483); the rekey journal is old and new generation and pointer. -/
structure SealedPart where
  keyed : Bool := false
  root : List Byte := []
  owner : List Byte := []
  fabric : KeyGens := {}
  jobGens : List JobGen := []
  memGen : Nat := 0
  journal : Option (Nat × Nat × Nat) := none
  dumpSeq : Nat := 0
  deriving DecidableEq, Repr

/-- One copy of the sealed state in boot flash (R483). -/
structure SealedCopy where
  version : Nat := 0
  parts : Table SealedPart := []
  deriving DecidableEq, Repr

/-- A crash dump of a partition (R502, R525). -/
structure Dump where
  sequence : Nat := 0
  body : List Byte := []
  /-- Jobs recorded as running: job, key generation, rank (R525, R527). -/
  jobs : List (Nat × Nat × Nat) := []
  deriving DecidableEq, Repr

/-- One log record before encoding (R529). -/
structure LogRecord where
  time : W64 := 0
  sequence : W32 := 0
  status : Nat := 0
  detail : Nat := 0
  unit : Nat := 1
  unitIndex : Nat := 0
  partition : Option Nat := none
  severity : Nat := 0
  context : Nat := 0
  contextGen : Nat := 0
  info : W64 := 0
  deriving DecidableEq, Repr

/-- One of the sixteen partitions (R472 to R474). -/
structure Partition where
  keyed : Bool := false
  root : List Byte := []
  owner : List Byte := []
  fabric : KeyGens := {}
  jobGens : List JobGen := []
  memGen : Nat := 0
  rekey : Option Rekey := none
  dumpSeq : Nat := 0
  dump : Option Dump := none
  /-- What the capture engine took at the last warm reset and no boot has encrypted yet (R525). -/
  capture : Option Dump := none
  session : Option KeySession := none
  sas : List SecAssoc := []
  /-- Quotas by resource kind (R45); use is counted from the tables. -/
  quotas : Table Nat := []
  /-- SHARE_SET weights by traffic class; a class not listed has weight 1 (R278). -/
  weights : Table Nat := []
  jobs : Table Job := []
  schedules : List Schedule := []
  logProducer : W32 := 0
  /-- The partition's newest log records, newest first (R529). -/
  log : List LogRecord := []
  alarms : BitVec 9 := 0
  deriving DecidableEq, Repr

/-! ## Ethernet objects (chapter 13) -/

/-- A request of a queue pair awaiting its reply (R460, R463). -/
structure QpRequest where
  psn : Nat := 0
  index : W32 := 0
  opcode : Nat := 0
  /-- Byte offset in the descriptor, and bytes. -/
  offset : Nat := 0
  length : Nat := 0
  /-- Packets acknowledged, or received of a READ (R266). -/
  acked : Nat := 0
  deriving DecidableEq, Repr

/-- One RoCEv2 queue pair (R458 to R463). -/
structure QueuePair where
  partition : Nat := 0
  /-- The function that created the queue pair and owns it (R59). -/
  fn : Nat := 0
  port : Nat := 0
  queue : Nat := 0
  tc : Nat := 0
  pcp : Nat := 0
  mtu : Nat := 1
  v6 : Bool := false
  protect : Bool := false
  retries : Nat := 0
  rnrRetries : Nat := 0
  ackExp : Nat := 0
  dscp : Nat := 0
  vid : Nat := 0
  remoteQp : Nat := 0
  expectPsn : Nat := 0
  sendPsn : Nat := 0
  ip : List Byte := []
  error : Bool := false
  retriesLeft : Nat := 0
  rnrLeft : Nat := 0
  requests : List QpRequest := []
  /-- Old values of the last inbound atomics, by PSN, for repeated requests (R458). -/
  replies : List (Nat × W64) := []
  cc : Congest := {}
  lastCnp : Option Nat := none
  reserved : Nat := 0
  /-- The engine clock from which requests go again after an RNR NAK. -/
  rnrUntil : Option Nat := none
  /-- Answers whose local landing waits: PSN, read data, old value. -/
  held : List (Nat × List Byte × W64) := []
  deriving DecidableEq, Repr

/-- An NVMe command outstanding (R466, R467). -/
structure NvmeCmd where
  id : Nat := 0
  index : W32 := 0
  /-- 0 Flush, 1 Write, 2 Read, 6 Identify. -/
  opcode : Nat := 0
  nsid : Nat := 0
  offset : Nat := 0
  length : Nat := 0
  deriving DecidableEq, Repr

/-- One NVMe-oF controller (R464 to R469). -/
structure Controller where
  partition : Nat := 0
  port : Nat := 0
  tcp : Bool := false
  queue : Nat := 0
  tc : Nat := 0
  pcp : Nat := 0
  v6 : Bool := false
  protect : Bool := false
  vid : Nat := 0
  dscp : Nat := 0
  ioQueues : Nat := 1
  depth : Nat := 2
  sector : Nat := 512
  service : Nat := 0
  keyId : Nat := 0
  ip : List Byte := []
  nqn : List Byte := []
  failed : Bool := false
  commands : List NvmeCmd := []
  nextCommand : Nat := 0
  /-- Namespaces whose Identify data fits (R466). -/
  namespaces : List Nat := []
  /-- The largest data transfer of one command in bytes (R464). -/
  maxData : Nat := 1048576
  /-- Completions whose local landing waits: command, status, data. -/
  held : List (Nat × Nat × List Byte) := []
  lastKeepAlive : Nat := 0
  deriving DecidableEq, Repr

/-! ## The hub: time, firmware, security, power (chapters 03, 14, 15, 16) -/

/-- The lock states of R81. -/
inductive Lock where
  | unlocked
  | degraded
  | locked
  deriving DecidableEq, Repr

/-- A PTP master seen on the slave's port (R451): its clock, what its Announce compares, its Announce interval exponent and
the engine clock of the last one. -/
structure PtpMaster where
  clock : Nat := 0
  rank : List Nat := []
  interval : Int := 0
  heard : Nat := 0
  deriving DecidableEq, Repr

/-- The slave-only ordinary clock of source 2 (R451). -/
structure Ptp where
  masters : List PtpMaster := []
  /-- A two-step Sync that waits for its Follow_Up: clock, sequence number, arrival in Meridian units. -/
  waiting : Option (Nat × Nat × Nat) := none
  /-- The delay request on its way: sequence number, and its departure once it has left. -/
  asked : Option (Nat × Option Nat) := none
  nextSeq : Nat := 0
  /-- Arrival minus origin of the last Sync, and the mean path delay, in Meridian units. -/
  down : Int := 0
  delay : Option Int := none
  /-- The link partner measures peer delay. -/
  peer : Bool := false
  deriving DecidableEq, Repr

/-- Meridian time on the hub (chapter 03). -/
structure Meridian where
  now : W64 := 0
  /-- The fraction of a unit below `now`, in millionths, that slewing builds up (R83). -/
  frac : Nat := 0
  /-- The measured offset still to be slewed away, and the learned frequency in a clock, in millionths of a unit (R79,
  R83). -/
  offset : Int := 0
  freq : Int := 0
  /-- How far each die's copy stands above the lowest, in units, at most 32: the hub, Q0 to Q3, L0 to L7 (R24). -/
  skews : List Nat := []
  lock : Lock := .unlocked
  source : Nat := 0
  port : Nat := 0
  sourceSet : Bool := false
  /-- The estimated offset in 10^-9 ps; `none` before any source has given one (EST_OFFSET reads 0xFFFF). -/
  e : Option Nat := none
  window : W32 := 0
  ppsEnable : Bool := false
  driftBound : Nat := 0x64
  stepped : Bool := false
  sourceLost : Bool := false
  enteredUnlocked : Bool := false
  enteredDegraded : Bool := false
  enteredLocked : Bool := false
  preset : W64 := 0
  /-- Software has written MER_PRESET since the last step (R82). -/
  presetWritten : Bool := false
  epochTai : W64 := 0
  qualifies : Bool := false
  holdover : Bool := false
  /-- A changed source not yet qualified; the device holds over (R80). -/
  lastEval : Nat := 0
  /-- Residuals measured over the last 1 s: engine clock and magnitude in Meridian units (R81). -/
  residuals : List (Nat × Nat) := []
  /-- Engine clock since when e ≤ 25 ns with the source qualifying, and since when e > 25 ns (R81). -/
  lowSince : Option Nat := none
  highSince : Option Nat := none
  /-- The last 1PPS edge of source 1 (R79). -/
  lastPulse : Option Nat := none
  /-- The last edge followed the one before it within the limits of R79. -/
  pulseOk : Bool := false
  lastSync : Option Nat := none
  announceLog : Int := 1
  ptp : Ptp := {}
  hops : Nat := 0
  rootSource : Nat := 0
  /-- The step floor of R230: the instant of the last step on the new scale and the clock it ends. -/
  floor : Option (W64 × Nat) := none
  ppsOut : Bool := false
  ppsOutRise : Nat := 0
  appointments : List Appointment := []
  lateAppointments : Nat := 0
  deriving DecidableEq, Repr

/-- One quadrant's chart copy: both banks and their states (R18, R307 to R316). -/
structure Charts where
  bankA : Table ChartEntry := []
  bankB : Table ChartEntry := []
  active : Bool := false
  retained : Bool := false
  swapPending : Bool := false
  pendingBank : Bool := false
  retainEnd : W64 := 0
  deriving DecidableEq, Repr

/-- A firmware slot (R479). -/
structure FwSlot where
  present : Bool := true
  svn : Nat := 0
  version : Nat := 0
  digest : List Byte := []
  image : List Byte := []
  deriving DecidableEq, Repr

/-- The keybox (R503 to R505). -/
structure Keybox where
  expired : Bool := false
  owner : Nat := 0
  keySource : Nat := 0
  decrypt : Bool := false
  started : Bool := false
  done : Bool := false
  busy : Bool := false
  key : BitVec 256 := 0
  input : BitVec 128 := 0
  output : BitVec 128 := 0
  claimedClk : Nat := 0
  /-- The key or its source has changed since the last block, and when the block in progress is done (R505). -/
  newKey : Bool := true
  dueClk : Nat := 0
  deriving DecidableEq, Repr

/-- An SPDM responder (R506 to R508). -/
structure Spdm where
  version : Nat := 0
  capabilities : Bool := false
  algorithms : Bool := false
  /-- Sessions: id, whether FINISH has come, key updates done. -/
  sessions : List (Nat × Bool × Nat) := []
  nextSession : Nat := 0
  deriving DecidableEq, Repr

/-- How the last boot ended (R480, R508). -/
inductive BootMode where
  | normal
  | fallback
  | recovery
  deriving DecidableEq, Repr

/-- The firmware, boot and sealed state (R70, R478 to R484, R518 to R521, R527). -/
structure Firmware where
  heartbeat : W16 := 0
  lastBeat : Nat := 0
  alive : Bool := false
  /-- Izlis service has begun (R480 step 7, R527). -/
  serving : Bool := false
  bootClk : Nat := 0
  mode : BootMode := .normal
  failedStep : Nat := 0
  topology : W32 := 0x00FFFFFF#32
  firstSelfTest : Nat := 0
  selector : Nat := 0
  runningSlot : Nat := 0
  slot0 : FwSlot := {}
  slot1 : FwSlot := {}
  counters : List W32 := List.replicate 8 0
  svnServed : Bool := false
  configSvn : Nat := 0
  restarts : List Nat := []
  /-- Engine clocks of the control cores' recent mismatches (R521). -/
  mismatches : List Nat := []
  /-- Doorbells accepted so far, over all mailboxes (R44). -/
  doorbells : Nat := 0
  /-- Commands that still take effect although their mailbox has been reset (R72): mailbox and what they wait for. -/
  orphans : List (Nat × Wait) := []
  /-- A sealed state write in progress (R484), and the two copies (R483). -/
  sealing : Bool := false
  copy0 : SealedCopy := {}
  copy1 : SealedCopy := {}
  /-- Partition, job, key generation and rank of each REJOIN beacon still owed (R527). -/
  rejoinPending : List (Nat × Nat × Nat × Nat) := []
  deviceDump : Bool := false
  deviceDumpBody : List Byte := []
  /-- The boot has not run since power-up or the last warm reset. -/
  awaitingBoot : Bool := true
  /-- The awaited boot follows a loss of power (R500). -/
  coldBoot : Bool := true
  deriving DecidableEq, Repr

/-- What a leave request is for (R539). -/
inductive LeaveFor where
  | graticule (g : Nat) (half : Bool)
  | lanes (port added : Nat)
  | engine (q : Nat) (opening : Bool)
  | rekey (p : Nat)
  | selfTest (g : Nat)
  deriving DecidableEq, Repr

/-- A leave request or holding (R539 to R542), in milliwatts of load. -/
structure Leave where
  id : Nat := 0
  purpose : LeaveFor := .engine 0 false
  load : Nat := 0
  askedClk : Nat := 0
  grantedClk : Nat := 0
  /-- The clocks of vector entry that had been withheld when it was granted (R543). -/
  withheld : Nat := 0
  recorded : Bool := false
  deriving DecidableEq, Repr

/-- PWR_STATUS.state and OFF (R545). -/
inductive PowerState where
  | on
  | off
  deriving DecidableEq, Repr

/-- The power governor, the thermal limits and the pins (chapter 16). Powers in milliwatts. -/
structure Power where
  state : PowerState := .off
  inputMv : Nat := 0
  throttled : Bool := false
  thermalAlert : Bool := false
  backstop : Bool := false
  cap1ms : Nat := 1000
  capSus : Nat := 850
  avg1s : Nat := 0
  last1ms : Nat := 0
  hottest : Nat := 0
  hottestDie : Nat := 0
  warn : Nat := 0x5F
  energy : W64 := 0
  /-- Microjoules not yet counted in `energy`. -/
  energyFrac : Nat := 0
  grants : W32 := 0
  waits : Nat := 0
  backstops : Nat := 0
  firstQueue : List Leave := []
  secondQueue : List Leave := []
  holders : List Leave := []
  nextLeave : Nat := 0
  /-- Load granted to lanes and engines over the average, to be taken from graticule and rekey leave (R540). -/
  debt : Nat := 0
  debtFloor : Nat := 0
  tripped : Bool := false
  readings : List (Thermal × Nat) := []
  refreshDoubled : Bool := false
  excursions : Nat := 0
  /-- Clocks for which vector entry has been withheld (R543, R545). -/
  withheld : Nat := 0
  pwrgd : Bool := false
  perst0 : Bool := false
  perst1 : Bool := false
  flashWpN : Bool := false
  smbAlertN : Bool := true
  pwrgdClk : Nat := 0
  deriving DecidableEq, Repr

/-- The beacon filter and floods (R523). -/
structure BeaconEntry where
  src : Nat := 0
  partition : Nat := 0
  job : Nat := 0
  issue : W32 := 0
  untilClk : Nat := 0
  deriving DecidableEq, Repr

/-- Recovery of one unit (R515, R516). -/
structure Recovery where
  unit : UnitId := .governor
  fenced : Bool := false
  lastHang : Nat := 0
  retired : Bool := false
  deriving DecidableEq, Repr

/-- An item waiting at a crossing for a stopped clock: a doorbell of a slot (R513, R514). -/
structure Wake where
  domain : Domain := .engine 0
  sinceClk : Nat := 0
  fn : Nat := 0
  slot : Nat := 0
  value : W32 := 0
  deriving DecidableEq, Repr

/-- Survey (R528, R529). -/
structure Survey where
  epochUs : Nat := 0x3E8
  /-- A written period not yet in force (R528). -/
  newEpochUs : Option Nat := none
  alarms : BitVec 9 := 0
  epoch : W64 := 0
  producer : W32 := 0
  /-- The newest 4,096 records, newest first. -/
  log : List LogRecord := []
  /-- Counts of events: by name code (`Machine/Status.lean`) or 2^15 + status of a log record, plus 2^16 times the
  scope word of what is counted (0 the device, R528). -/
  counts : Table Nat := []
  /-- The counts as the published snapshot holds them, with the epoch's bounds. -/
  snapshot : Table Nat := []
  snapStart : W64 := 0
  snapEnd : W64 := 0
  /-- Per port class queue and send queue: maximum depth or held, and samples (R284). -/
  depthMax : Table Nat := []
  samples : Nat := 0
  snapDepth : Table Nat := []
  snapSamples : Nat := 0
  /-- Engine clocks of recent tag failures by source endpoint (R496). -/
  tagFailures : List (Nat × Nat) := []
  deriving DecidableEq, Repr

/-- The package's links and crossings (chapter 01), faults, floods and units (chapter 15). -/
structure Recover where
  /-- Credit in use, in bytes, by link × 4 + class: ring segments 0 to 7, hub links 8 to 11 (R22). -/
  links : Table Nat := []
  units : List Recovery := []
  filter : List BeaconEntry := []
  floods : List Nat := []
  /-- Items in the crossings, oldest first: of each domain the first 16 (R513, assumption log 73). -/
  wakes : List Wake := []
  cdcTimeouts : List (Domain × Nat) := []
  stopped : List Domain := []
  unitRetired : Bool := false
  deriving DecidableEq, Repr

/-- A copy of the retire map in boot flash (R111). -/
structure RetireMap where
  sequence : Nat := 0
  sram : List Nat := []
  lpddr : List Nat := []
  digest : List Byte := []
  deriving DecidableEq, Repr

/-- Device memory and its faults (chapter 04). -/
structure Memory where
  /-- Partition-space bytes at partition × 2^44 + offset; an address not listed reads 0 (R128). Canonical:
  addresses strictly rising, no entry equal to 0. -/
  cells : List Host.Cell := []
  /-- Poisoned 64-B lines, by partition-space address ÷ 64 (R105). -/
  poisoned : List Nat := []
  /-- Lines whose stored tag is wrong, by address ÷ 64 (R95). -/
  wrongTag : List Nat := []
  /-- Bits of physical lines that differ from what was stored there, by 2 × line + 1 for LPDDR5X: 584 bits of an SRAM
  line in R93's places, 512 data and 32 code bits of an LPDDR5X line (R93, R100). -/
  upsets : Table Nat := []
  /-- Physical lines found uncorrectable by the scrubbers: LPDDR5X flag and line number. -/
  badLines : List (Bool × Nat) := []
  /-- Corrections seen: LPDDR5X flag, line, place, engine clock (R107). -/
  corrections : List (Bool × Nat × Nat × Nat) := []
  inlineEcc : Bool := true
  /-- LPDDR5X channels in power-down, and the clock of each channel's last request (R546). -/
  channelsDown : List Nat := []
  channelUse : Table Nat := []
  /-- Retired 4 KiB regions: SRAM and LPDDR5X (R107, R111). -/
  sramRetired : List Nat := []
  lpddrRetired : List Nat := []
  /-- Retirements not yet written to the retire map (R111), and regions waiting to be retired (R109). -/
  mapPending : List (Bool × Nat) := []
  mapSequence : Nat := 0
  /-- The two copies of the retire map in boot flash (R111). -/
  map0 : RetireMap := {}
  map1 : RetireMap := {}
  retirePending : List (Bool × Nat) := []
  retireDue : List (Bool × Nat) := []
  deriving DecidableEq, Repr

/-! ## What leaves the block -/

/-- What the device has sent, newest first: the block's outputs, by which a statement says what it sends. -/
inductive Out where
  | msix (fn vector : Nat) (addr : W64) (data : W32)
  | hostWrite (port : Nat) (w : HostWrite)
  | hostRead (port : Nat) (r : HostRead)
  | wire (port : Nat) (pkt : Packet)
  /-- A packet handed to a landing quadrant of this device without a port (R310). -/
  | loopback (quadrant : Nat) (pkt : Packet)
  | control (port code : Nat) (words : List W64)
  /-- An attach packet: its 32-B header and what follows it (R319). -/
  | attach (a : Nat) (header data : List Byte)
  /-- ATT_DOORBELL (R299, R327). -/
  | attDoorbell (a partition index : Nat) (value : W64)
  | relayDown (a : Nat) (pkt : Packet)
  | translation (port : Nat) (w : Walk)
  /-- A Page Request Group, and its page requests: page, write access, Last (R161). -/
  | pageRequests (port : Nat) (g : Group) (l : List (Nat × Bool × Bool))
  | invalidationDone (port tag : Nat)
  | stopMarker (port pasid : Nat)
  | readData (fn : Nat) (value : W64)
  | barData (port : Nat) (ok : Bool) (data : List Byte)
  | cxlLine (port line : Nat) (owned : Bool)
  | cxlData (port line : Nat) (data : List Byte)
  /-- A frame of an Ethernet port (R448). -/
  | ethernet (e : Envelope) (b : EthBody)
  | spdm (ep code : Nat) (body : List Byte)
  | doorbellWrite (port : Nat) (addr : W64) (value : W64)
  | aer (port : Nat)
  deriving DecidableEq, Repr

/-- Congestion and scheduling registers of the device (R283). -/
structure Txs where
  mdFloor : Nat := 4
  beta : Nat := 6
  ai : Nat := 0x40
  targetSlack : Nat := 0xFA0
  minRate : Nat := 8
  initRate : Nat := 0x640
  deflEcho : Nat := 4
  markUtil : Nat := 0x4B
  increasePeriod : Nat := 0x1F40
  deriving DecidableEq, Repr

/-- FAB_WIDTH_CFG (R317) and GRT_CHECK_CFG (R367). -/
structure DevCfg where
  widenUtil : Nat := 0x4B
  narrowUtil : Nat := 0x1E
  narrowWindow : Nat := 0x32
  fpTol : Nat := 0x10
  forceCheck : Bool := false
  retry : Bool := true
  /-- Kept configuration (R526). -/
  endpoint : Nat := 0
  mplUs : Nat := 500
  deriving DecidableEq, Repr

/-- The state of the block. `pending` is the queue of waiting commands, first in, first out. -/
structure State where
  pending : List Instr := []
  /-- Engine clocks since power-up: the model's time base for every timer that no step touches. -/
  clk : Nat := 0
  /-- The model's own counter of open values drawn (assumption log 3). -/
  free : Nat := 0
  out : List Out := []
  cfg : DevCfg := {}
  txs : Txs := {}
  mer : Meridian := {}
  funcs : Table Func := []
  mailboxes : Table Mailbox := []
  hosts : Table HostPort := []
  parts : Table Partition := []
  contexts : Table Context := []
  queues : Table Queue := []
  rings : Table Ring := []
  regions : Table Region := []
  placements : Table Placement := []
  mem : Memory := {}
  tiles : Table Tile := []
  quads : Table Quadrant := []
  ports : Table Port := []
  /-- The chart copies, by quadrant (R18). -/
  charts : Table Charts := []
  accels : Table Accel := []
  grats : Table Graticule := []
  reds : Table RedUnit := []
  seqs : Table Sequencer := []
  kernels : Table Kernel := []
  /-- Trig points allocated: owning partition and value (R384). -/
  trigs : Table (Nat × W64) := []
  qps : Table QueuePair := []
  controllers : Table Controller := []
  fw : Firmware := {}
  kbx : Keybox := {}
  spdm : Table Spdm := []
  power : Power := {}
  survey : Survey := {}
  recover : Recover := {}
  deriving DecidableEq, Repr

/-- The machine right after a cold device reset: every rail up and PWRGD high (R556), the boot of R480 not yet
run, every register at the value its table gives, no object of any kind, memory with nothing listed, and an empty
command queue. The values the manual gives no reset for are named in assumption log 4. -/
def State.reset : State where
  funcs := [(0, { present := true }), (256, { present := true })]
  mer := { appointments := [{ kind := .surveyEpoch, time := 16000000, period := 16000000 }] }
  power := { state := .on, pwrgd := true, inputMv := 42000 }

end Sys2Proof.Machine
end

