-- ==== Sys2Proof/Machine/Status.lean ====
section
/-!
DEFINITION. Machine/Status.lean: the status codes of R564, and the names under which Survey counts events.
-/

namespace Sys2Proof.Status

/-- 0x0000 (R564). -/
abbrev ok : Nat := 0x0000
/-- 0x0101 (R564). -/
abbrev badOpcode : Nat := 0x0101
/-- 0x0102 (R564). -/
abbrev notInVersion : Nat := 0x0102
/-- 0x0103 (R564). -/
abbrev badLength : Nat := 0x0103
/-- 0x0104 (R564). -/
abbrev reservedEncoding : Nat := 0x0104
/-- 0x0105 (R564). -/
abbrev badObject : Nat := 0x0105
/-- 0x0106 (R564). -/
abbrev outOfBounds : Nat := 0x0106
/-- 0x0107 (R564). -/
abbrev unsupportedTarget : Nat := 0x0107
/-- 0x0108 (R564). -/
abbrev addressUnmapped : Nat := 0x0108
/-- 0x0109 (R564). -/
abbrev descriptorMalformed : Nat := 0x0109
/-- 0x010A (R564). -/
abbrev misaligned : Nat := 0x010A
/-- 0x010B (R564). -/
abbrev formatMismatch : Nat := 0x010B
/-- 0x010C (R564). -/
abbrev kernelInvalid : Nat := 0x010C
/-- 0x010D (R564). -/
abbrev scheduleInvalid : Nat := 0x010D
/-- 0x0201 (R564). -/
abbrev noResource : Nat := 0x0201
/-- 0x0202 (R564). -/
abbrev quotaExceeded : Nat := 0x0202
/-- 0x0203 (R564). -/
abbrev ringFull : Nat := 0x0203
/-- 0x0204 (R564). -/
abbrev noLeave : Nat := 0x0204
/-- 0x0301 (R564). -/
abbrev notPermitted : Nat := 0x0301
/-- 0x0302 (R564). -/
abbrev signatureInvalid : Nat := 0x0302
/-- 0x0303 (R564). -/
abbrev regionKeyInvalid : Nat := 0x0303
/-- 0x0304 (R564). -/
abbrev accessDenied : Nat := 0x0304
/-- 0x0305 (R564). -/
abbrev lineTagMismatch : Nat := 0x0305
/-- 0x0306 (R564). -/
abbrev partitionScope : Nat := 0x0306
/-- 0x0307 (R564). -/
abbrev keyNotInstalled : Nat := 0x0307
/-- 0x0308 (R564). -/
abbrev keySessionFailed : Nat := 0x0308
/-- 0x0309 (R564). -/
abbrev keyExhausted : Nat := 0x0309
/-- 0x030A (R564). -/
abbrev keyGenUnknown : Nat := 0x030A
/-- 0x0401 (R564). -/
abbrev notOpen : Nat := 0x0401
/-- 0x0402 (R564). -/
abbrev versionMismatch : Nat := 0x0402
/-- 0x0403 (R564). -/
abbrev sequenceError : Nat := 0x0403
/-- 0x0404 (R564). -/
abbrev bulkState : Nat := 0x0404
/-- 0x0405 (R564). -/
abbrev objectInUse : Nat := 0x0405
/-- 0x0406 (R564). -/
abbrev deviceFaulted : Nat := 0x0406
/-- 0x0407 (R564). -/
abbrev queueDestroyed : Nat := 0x0407
/-- 0x0408 (R564). -/
abbrev descriptorNotVisible : Nat := 0x0408
/-- 0x0409 (R564). -/
abbrev jobNotReady : Nat := 0x0409
/-- 0x0501 (R564). -/
abbrev deadlineInfeasible : Nat := 0x0501
/-- 0x0502 (R564). -/
abbrev stepTimeout : Nat := 0x0502
/-- 0x0503 (R564). -/
abbrev instanceLate : Nat := 0x0503
/-- 0x0601 (R564). -/
abbrev retryAfter : Nat := 0x0601
/-- 0x0602 (R564). -/
abbrev messageExpired : Nat := 0x0602
/-- 0x0603 (R564). -/
abbrev tagFailed : Nat := 0x0603
/-- 0x0604 (R564). -/
abbrev contextAborted : Nat := 0x0604
/-- 0x0605 (R564). -/
abbrev jobAborted : Nat := 0x0605
/-- 0x0606 (R564). -/
abbrev headerInvalid : Nat := 0x0606
/-- 0x0607 (R564). -/
abbrev packetStale : Nat := 0x0607
/-- 0x0608 (R564). -/
abbrev destinationUnreachable : Nat := 0x0608
/-- 0x0609 (R564). -/
abbrev linkAbort : Nat := 0x0609
/-- 0x060A (R564). -/
abbrev attachReject : Nat := 0x060A
/-- 0x060B (R564). -/
abbrev hopLimit : Nat := 0x060B
/-- 0x060C (R564). -/
abbrev noRoute : Nat := 0x060C
/-- 0x060D (R564). -/
abbrev collMisroute : Nat := 0x060D
/-- 0x060E (R564). -/
abbrev qpRetryExceeded : Nat := 0x060E
/-- 0x060F (R564). -/
abbrev qpRemoteError : Nat := 0x060F
/-- 0x0610 (R564). -/
abbrev qpFlushed : Nat := 0x0610
/-- 0x0611 (R564). -/
abbrev nvmeStatus : Nat := 0x0611
/-- 0x0612 (R564). -/
abbrev nvmePathLost : Nat := 0x0612
/-- 0x0613 (R564). -/
abbrev beaconLimit : Nat := 0x0613
/-- 0x0701 (R564). -/
abbrev translationFault : Nat := 0x0701
/-- 0x0702 (R564). -/
abbrev segmentInvalid : Nat := 0x0702
/-- 0x0703 (R564). -/
abbrev segmentDenied : Nat := 0x0703
/-- 0x0704 (R564). -/
abbrev pageRequestTimeout : Nat := 0x0704
/-- 0x0705 (R564). -/
abbrev pageRequestFailed : Nat := 0x0705
/-- 0x0801 (R564). -/
abbrev firmwareRestarted : Nat := 0x0801
/-- 0x0802 (R564). -/
abbrev memoryUncorrectable : Nat := 0x0802
/-- 0x0803 (R564). -/
abbrev graticuleCheckFailed : Nat := 0x0803
/-- 0x0804 (R564). -/
abbrev hostDeliveryUncertain : Nat := 0x0804
/-- 0x0805 (R564). -/
abbrev hostAccessError : Nat := 0x0805
/-- 0x0806 (R564). -/
abbrev cdcTimeout : Nat := 0x0806
/-- 0x0807 (R564). -/
abbrev engineHung : Nat := 0x0807
/-- 0x0808 (R564). -/
abbrev controlCheckFailed : Nat := 0x0808

/-- Every status code (R564). -/
def all : List Nat :=
  [ok, badOpcode, notInVersion, badLength, reservedEncoding, badObject, outOfBounds, unsupportedTarget,
  addressUnmapped, descriptorMalformed, misaligned, formatMismatch, kernelInvalid, scheduleInvalid,
  noResource, quotaExceeded, ringFull, noLeave, notPermitted, signatureInvalid, regionKeyInvalid,
  accessDenied, lineTagMismatch, partitionScope, keyNotInstalled, keySessionFailed, keyExhausted,
  keyGenUnknown, notOpen, versionMismatch, sequenceError, bulkState, objectInUse, deviceFaulted,
  queueDestroyed, descriptorNotVisible, jobNotReady, deadlineInfeasible, stepTimeout, instanceLate,
  retryAfter, messageExpired, tagFailed, contextAborted, jobAborted, headerInvalid, packetStale,
  destinationUnreachable, linkAbort, attachReject, hopLimit, noRoute, collMisroute, qpRetryExceeded,
  qpRemoteError, qpFlushed, nvmeStatus, nvmePathLost, beaconLimit, translationFault, segmentInvalid,
  segmentDenied, pageRequestTimeout, pageRequestFailed, firmwareRestarted, memoryUncorrectable,
  graticuleCheckFailed, hostDeliveryUncertain, hostAccessError, cdcTimeout, engineHung, controlCheckFailed]

/-- An open code: the device returns only codes of the list (R564). -/
def pick (v : Nat) : Nat := all.getD (v % all.length) ok

end Sys2Proof.Status

namespace Sys2Proof.Count

/-- Survey's count misaligned. -/
abbrev misaligned : Nat := 0
/-- Survey's count staleDoorbell. -/
abbrev staleDoorbell : Nat := 1
/-- Survey's count bar2Discarded. -/
abbrev bar2Discarded : Nat := 2
/-- Survey's count lateAppointments. -/
abbrev lateAppointments : Nat := 3
/-- Survey's count migrations. -/
abbrev migrations : Nat := 4
/-- Survey's count cacheWait. -/
abbrev cacheWait : Nat := 5
/-- Survey's count cacheEviction. -/
abbrev cacheEviction : Nat := 6
/-- Survey's count poolDrop. -/
abbrev poolDrop : Nat := 7
/-- Survey's count fallbackDrop. -/
abbrev fallbackDrop : Nat := 8
/-- Survey's count pressedHeads. -/
abbrev pressedHeads : Nat := 9
/-- Survey's count biasFlips. -/
abbrev biasFlips : Nat := 10
/-- Survey's count crossingDiscards. -/
abbrev crossingDiscards : Nat := 11
/-- Survey's count excursions. -/
abbrev excursions : Nat := 12
/-- Survey's count measurementChange. -/
abbrev measurementChange : Nat := 13
/-- Survey's count lateStep. -/
abbrev lateStep : Nat := 14
/-- Survey's count laterFailures. -/
abbrev laterFailures : Nat := 15
/-- Survey's count instanceLate. -/
abbrev instanceLate : Nat := 16
/-- Survey's count retryAfterSent. -/
abbrev retryAfterSent : Nat := 17
/-- Survey's count retransmissions. -/
abbrev retransmissions : Nat := 18
/-- Survey's count rateDecreases. -/
abbrev rateDecreases : Nat := 19
/-- Survey's count collectiveLate. -/
abbrev collectiveLate : Nat := 20
/-- Survey's count neighbourLost. -/
abbrev neighbourLost : Nat := 21
/-- Survey's count retirePending. -/
abbrev retirePending : Nat := 22
/-- Survey's count rejoinDelay. -/
abbrev rejoinDelay : Nat := 23
/-- Survey's count hostWriteInDoubt. -/
abbrev hostWriteInDoubt : Nat := 24
/-- Survey's count serviceAlarm. -/
abbrev serviceAlarm : Nat := 25
/-- Survey's count bootFallback. -/
abbrev bootFallback : Nat := 26
/-- Survey's count linkDelay. -/
abbrev linkDelay : Nat := 27
/-- Survey's count eccCorrections. -/
abbrev eccCorrections : Nat := 28
/-- Survey's count retryAfterReceived. -/
abbrev retryAfterReceived : Nat := 29

/-- Survey's count of migrations by reason begins here (R132). -/
abbrev migrationReason : Nat := 32
/-- Green, yellow and red packets of a meter, and from 3 on their bytes (R284). -/
abbrev meterColour : Nat := 42
/-- Retry-after NAKs sent by cause, five of them: 5 µs; 10 µs; 20 µs with no_record; 20 µs; 1,000 µs (R238, R284). -/
abbrev retrySentCause : Nat := 48
/-- Retry-after NAKs received by cause. -/
abbrev retryReceivedCause : Nat := 53
/-- Rate decreases by event: a sample above the target, a mark, both, a refusal, a timeout (R274, R284). -/
abbrev rateDecreaseEvent : Nat := 58
/-- Tag failures of a source (R496). -/
abbrev tagFailures : Nat := 63
/-- The events of GRT_COUNT and RDU_COUNT, per partition (R367): jobs, failed checks, repeats that passed, passes not
checked, jobs that set invalid and overflow, reductions, and those that set invalid and overflow. -/
abbrev grtJobs : Nat := 64
/-- Jobs ended under R363. -/
abbrev grtCheckFailed : Nat := 65
/-- Repeats that passed. -/
abbrev grtRetryOk : Nat := 66
/-- Passes not checked under R362. -/
abbrev grtSkipped : Nat := 67
/-- Jobs that set the invalid flag. -/
abbrev grtInvalid : Nat := 68
/-- Jobs that set the overflow flag. -/
abbrev grtOverflow : Nat := 69
/-- Reductions completed. -/
abbrev rduDone : Nat := 70
/-- Reductions that set the invalid flag. -/
abbrev rduInvalid : Nat := 71
/-- Reductions that set the overflow flag. -/
abbrev rduOverflow : Nat := 72
/-- The inline ECC mode of LPDDR5X, 1 when it is on (R99). -/
abbrev inlineEcc : Nat := 40

end Sys2Proof.Count
end

