-- ==== Sys2Proof/Machine/Ops.lean ====
section
/-!
DEFINITION. Machine/Ops.lean: the named operations over the state that every family shares: sparse tables, bytes
and bit fields, device memory in its canonical form, the rows of each table, Survey and the error log, messages and
writes toward a host, and appointments.
-/

namespace Sys2Proof.Machine

/-! ## Bits and bytes (R3: little-endian) -/

/-- Bits [hi:lo] of a value. -/
def bits (v hi lo : Nat) : Nat := v / 2 ^ lo % 2 ^ (hi - lo + 1)

/-- One bit of a value. -/
def bit (v i : Nat) : Bool := v / 2 ^ i % 2 == 1

/-- A bit as a number. -/
def b2n (b : Bool) : Nat := if b then 1 else 0

/-- The low `n` bytes of a value, byte 0 first. -/
def leBytes : Nat → Nat → List Byte
  | 0, _ => []
  | n + 1, v => BitVec.ofNat 8 v :: leBytes n (v / 256)

/-- The value of bytes, byte 0 least significant. -/
def leNat : List Byte → Nat
  | [] => 0
  | b :: r => b.toNat + 256 * leNat r

/-- Bytes [off, off + len) of a list; bytes past its end are absent. -/
def slice (l : List Byte) (off len : Nat) : List Byte := (l.drop off).take len

/-- The little-endian value of `len` bytes at `off`. -/
def field (l : List Byte) (off len : Nat) : Nat := leNat (slice l off len)

/-- A 64-bit word. -/
def w64 (v : Nat) : W64 := BitVec.ofNat 64 v

/-- A 32-bit word. -/
def w32 (v : Nat) : W32 := BitVec.ofNat 32 v

/-- Words as bytes, low byte first. -/
def wordBytes (l : List W64) : List Byte := l.flatMap fun w => leBytes 8 w.toNat

/-- `n` words cut from bytes; missing bytes read 0. -/
def bytesWords : Nat → List Byte → List W64
  | 0, _ => []
  | n + 1, l => w64 (leNat (l.take 8)) :: bytesWords n (l.drop 8)

/-- `n` bytes, the list padded with zeros. -/
def padTo (n : Nat) (l : List Byte) : List Byte := l.take n ++ List.replicate (n - l.length) 0

/-- A 32-bit CRC, polynomial 0x04C11DB7 reflected, initial value and final XOR all ones: bit by bit. -/
def crcBit (c : W32) : W32 := if c.getLsbD 0 then (c >>> 1) ^^^ 0xEDB88320#32 else c >>> 1

/-- One byte into the CRC. -/
def crcByte (c : W32) (b : Byte) : W32 :=
  crcBit (crcBit (crcBit (crcBit (crcBit (crcBit (crcBit (crcBit (c ^^^ b.zeroExtend 32))))))))

/-- The CRC-32 of IEEE 802.3 over bytes. -/
def crc32 (l : List Byte) : W32 := (l.foldl crcByte 0xFFFFFFFF#32) ^^^ 0xFFFFFFFF#32

/-- Whether [a, a + n) and [b, b + m) share an address. -/
def overlaps (a n b m : Nat) : Bool := a < b + m && b < a + n

/-! ## Sparse tables, indices strictly rising -/

/-- The row at an index. -/
def tblGet {α : Type} : Table α → Nat → Option α
  | [], _ => none
  | (i, x) :: r, k => if i = k then some x else tblGet r k

/-- The row at an index, or the default. -/
def tblGetD {α : Type} (t : Table α) (k : Nat) (d : α) : α := (tblGet t k).getD d

/-- Put a row in its place. -/
def tblSet {α : Type} : Table α → Nat → α → Table α
  | [], k, v => [(k, v)]
  | (i, x) :: r, k, v =>
    if k < i then (k, v) :: (i, x) :: r else if k = i then (k, v) :: r else (i, x) :: tblSet r k v

/-- Take a row away. -/
def tblErase {α : Type} (t : Table α) (k : Nat) : Table α := t.filter fun r => r.1 != k

/-- Change every row. -/
def tblMap {α : Type} (t : Table α) (g : Nat → α → α) : Table α := t.map fun r => (r.1, g r.1 r.2)

/-- The lowest of `lo .. lo + n - 1` that a test admits. -/
def firstFree (ok : Nat → Bool) : Nat → Nat → Option Nat
  | 0, _ => none
  | n + 1, lo => if ok lo then some lo else firstFree ok n (lo + 1)

/-- The device's pick of a free index (R61, R570): the pick offered where it is free, else the lowest free one
(assumption log 7). -/
def pickFree (ok : Nat → Bool) (lo n pick : Nat) : Option Nat :=
  if lo ≤ pick ∧ pick < lo + n ∧ ok pick = true then some pick else firstFree ok n lo

/-! ## Device memory: partition-space bytes in one canonical form -/

/-- The memory key of an offset in a partition's 16 TiB space (R113). -/
def spaceKey (p off : Nat) : Nat := p * 0x100000000000 + off

/-- The byte at an address; an unlisted address reads 0 (R128). -/
def memGet : List Host.Cell → Nat → Byte
  | [], _ => 0
  | (x, y) :: t, a => if x = a then y else memGet t a

/-- Write one byte, keeping addresses rising and zeros unlisted. -/
def memPut : List Host.Cell → Nat → Byte → List Host.Cell
  | [], a, b => if b = 0 then [] else [(a, b)]
  | (x, y) :: t, a, b =>
    if a < x then (if b = 0 then (x, y) :: t else (a, b) :: (x, y) :: t)
    else if a = x then (if b = 0 then t else (a, b) :: t)
    else (x, y) :: memPut t a b

/-- Write bytes from an address upward. -/
def memWrite : List Host.Cell → Nat → List Byte → List Host.Cell
  | l, _, [] => l
  | l, a, b :: r => memWrite (memPut l a b) (a + 1) r

/-- Read `n` bytes from an address upward. -/
def memRead (l : List Host.Cell) (a : Nat) : Nat → List Byte
  | 0 => []
  | n + 1 => memGet l a :: memRead l (a + 1) n

/-- Forget the bytes of [a, a + n). -/
def memClear (l : List Host.Cell) (a n : Nat) : List Host.Cell := l.filter fun c => !(a ≤ c.1 && c.1 < a + n)

/-- Addresses strictly rising above a bound, and no entry equal to 0. -/
def cellsWf : Nat → List Host.Cell → Bool
  | _, [] => true
  | lo, (x, y) :: t => decide (lo ≤ x) && y != 0 && cellsWf (x + 1) t

/-- The canonical form of device memory. -/
def Memory.wf (m : Memory) : Bool := cellsWf 0 m.cells

/-! ## Time -/

/-- Engine clocks in microseconds (1.6 GHz). -/
def us (n : Nat) : Nat := n * 1600

/-- Meridian units in microseconds (R11). -/
def mtUs (n : Nat) : Nat := n * 16000

/-- The maximum packet lifetime, in Meridian units (R67). -/
def State.mpl (s : State) : Nat := mtUs s.cfg.mplUs

/-- The maximum packet lifetime, in engine clocks. -/
def State.mplClk (s : State) : Nat := us s.cfg.mplUs

/-- MER_NOW, the hub's copy, as a number. -/
def State.mt (s : State) : Nat := s.mer.now.toNat

/-- The copy of MER_NOW on a die: 0 the hub, 1 to 4 the quadrants, 5 to 12 the lane dies (R24). -/
def State.mtDie (s : State) (die : Nat) : Nat :=
  (s.mer.now + w64 (s.mer.skews.getD die 0) - w64 (s.mer.skews.getD 0 0)).toNat

/-- The copy of MER_NOW in a quadrant. -/
def State.mtQ (s : State) (q : Nat) : Nat := s.mtDie (1 + q)

/-- The copy of MER_NOW on the lane die of a port (R18). -/
def State.mtPort (s : State) (port : Nat) : Nat := s.mtDie (5 + port / 4)

/-! ## Rows of the tables -/

/-- A function; one never touched is absent. -/
def State.func (s : State) (f : Nat) : Func := tblGetD s.funcs f {}

/-- Change a function. -/
def State.modFunc (s : State) (f : Nat) (g : Func → Func) : State :=
  { s with funcs := tblSet s.funcs f (g (s.func f)) }

/-- The host port of a function. -/
def fnPort (f : Nat) : Nat := f / 256

/-- The function is a PF (R413). -/
def isPf (f : Nat) : Bool := f % 256 == 0

/-- The table row of mailbox `m` of a function. -/
def mbxKey (f m : Nat) : Nat := f * 4 + m

/-- A mailbox (R38). -/
def State.mbx (s : State) (k : Nat) : Mailbox := tblGetD s.mailboxes k {}

/-- Change a mailbox. -/
def State.modMbx (s : State) (k : Nat) (g : Mailbox → Mailbox) : State :=
  { s with mailboxes := tblSet s.mailboxes k (g (s.mbx k)) }

/-- A host port. -/
def State.host (s : State) (p : Nat) : HostPort := tblGetD s.hosts p {}

/-- Change a host port. -/
def State.modHost (s : State) (p : Nat) (g : HostPort → HostPort) : State :=
  { s with hosts := tblSet s.hosts p (g (s.host p)) }

/-- A partition. -/
def State.part (s : State) (p : Nat) : Partition := tblGetD s.parts p {}

/-- Change a partition. -/
def State.modPart (s : State) (p : Nat) (g : Partition → Partition) : State :=
  { s with parts := tblSet s.parts p (g (s.part p)) }

/-- A context slot. -/
def State.ctx (s : State) (c : Nat) : Context := tblGetD s.contexts c {}

/-- Change a context slot. -/
def State.modCtx (s : State) (c : Nat) (g : Context → Context) : State :=
  { s with contexts := tblSet s.contexts c (g (s.ctx c)) }

/-- The context is live under this generation (R147). -/
def State.ctxLive (s : State) (c : Nat) (gen : BitVec 8) : Bool :=
  (s.ctx c).state == .live && (s.ctx c).gen == gen

/-- A send queue, where live. -/
def State.queue? (s : State) (q : Nat) : Option Queue := tblGet s.queues q

/-- Write a send queue. -/
def State.setQueue (s : State) (q : Nat) (x : Queue) : State := { s with queues := tblSet s.queues q x }

/-- Change a send queue, where live. -/
def State.modQueue (s : State) (q : Nat) (g : Queue → Queue) : State :=
  match s.queue? q with
  | some x => s.setQueue q (g x)
  | none => s

/-- A completion ring, where live. -/
def State.ring? (s : State) (r : Nat) : Option Ring := tblGet s.rings r

/-- Write a completion ring. -/
def State.setRing (s : State) (r : Nat) (x : Ring) : State := { s with rings := tblSet s.rings r x }

/-- Change a completion ring, where live. -/
def State.modRing (s : State) (r : Nat) (g : Ring → Ring) : State :=
  match s.ring? r with
  | some x => s.setRing r (g x)
  | none => s

/-- A region table entry; one never issued is invalid. -/
def State.region (s : State) (i : Nat) : Region := tblGetD s.regions i {}

/-- Change a region table entry. -/
def State.modRegion (s : State) (i : Nat) (g : Region → Region) : State :=
  { s with regions := tblSet s.regions i (g (s.region i)) }

/-- A placement table entry. -/
def State.place (s : State) (i : Nat) : Placement := tblGetD s.placements i {}

/-- Change a placement table entry. -/
def State.modPlace (s : State) (i : Nat) (g : Placement → Placement) : State :=
  { s with placements := tblSet s.placements i (g (s.place i)) }

/-- A quadrant's transport state. -/
def State.quad (s : State) (q : Nat) : Quadrant := tblGetD s.quads q {}

/-- Change a quadrant. -/
def State.modQuad (s : State) (q : Nat) (g : Quadrant → Quadrant) : State :=
  { s with quads := tblSet s.quads q (g (s.quad q)) }

/-- A port. -/
def State.port (s : State) (p : Nat) : Port := tblGetD s.ports p {}

/-- Change a port. -/
def State.modPort (s : State) (p : Nat) (g : Port → Port) : State :=
  { s with ports := tblSet s.ports p (g (s.port p)) }

/-- An accelerator. -/
def State.accel (s : State) (a : Nat) : Accel := tblGetD s.accels a {}

/-- Change an accelerator. -/
def State.modAccel (s : State) (a : Nat) (g : Accel → Accel) : State :=
  { s with accels := tblSet s.accels a (g (s.accel a)) }

/-- A graticule. -/
def State.grat (s : State) (g : Nat) : Graticule := tblGetD s.grats g {}

/-- Change a graticule. -/
def State.modGrat (s : State) (g : Nat) (h : Graticule → Graticule) : State :=
  { s with grats := tblSet s.grats g (h (s.grat g)) }

/-- A reduction unit. -/
def State.red (s : State) (u : Nat) : RedUnit := tblGetD s.reds u {}

/-- Change a reduction unit. -/
def State.modRed (s : State) (u : Nat) (g : RedUnit → RedUnit) : State :=
  { s with reds := tblSet s.reds u (g (s.red u)) }

/-- A kernel sequencer. -/
def State.seq (s : State) (k : Nat) : Sequencer := tblGetD s.seqs k {}

/-- Change a kernel sequencer. -/
def State.modSeq (s : State) (k : Nat) (g : Sequencer → Sequencer) : State :=
  { s with seqs := tblSet s.seqs k (g (s.seq k)) }

/-- Change a running kernel. -/
def State.modRun (s : State) (k : Nat) (g : Running → Running) : State :=
  s.modSeq k fun x => { x with running := x.running.map g }

/-- A sender entry. -/
def State.sender? (s : State) (q m : Nat) : Option Sender := tblGet (s.quad q).senders m

/-- Write a sender entry. -/
def State.setSender (s : State) (q m : Nat) (x : Sender) : State :=
  s.modQuad q fun d => { d with senders := tblSet d.senders m x }

/-- A trig point: owner and value. -/
def State.trig? (s : State) (i : Nat) : Option (Nat × W64) := tblGet s.trigs i

/-- Write a trig point. -/
def State.setTrig (s : State) (i p : Nat) (v : W64) : State := { s with trigs := tblSet s.trigs i (p, v) }

/-- Change the meridian unit. -/
def State.modMer (s : State) (g : Meridian → Meridian) : State := { s with mer := g s.mer }

/-- Change the firmware state. -/
def State.modFw (s : State) (g : Firmware → Firmware) : State := { s with fw := g s.fw }

/-- Change the governor. -/
def State.modPower (s : State) (g : Power → Power) : State := { s with power := g s.power }

/-- Change device memory. -/
def State.modMem (s : State) (g : Memory → Memory) : State := { s with mem := g s.mem }

/-- Change the recovery state. -/
def State.modRec (s : State) (g : Recover → Recover) : State := { s with recover := g s.recover }

/-- Change the SPDM responder of an endpoint. -/
def State.modSpdm (s : State) (ep : Nat) (g : Spdm → Spdm) : State :=
  { s with spdm := tblSet s.spdm ep (g (tblGetD s.spdm ep {})) }

/-- FN_TOPOLOGY reads other than whole (MBX_SESSION.device_faulted). -/
def State.deviceFaulted (s : State) : Bool := s.fw.topology != 0x00FFFFFF#32

/-- Only the commands marked D are served, on PF0: the topology reads other than whole (R53), or the boot ended in
recovery (R480). -/
def State.diagOnly (s : State) : Bool := s.deviceFaulted || s.fw.mode == .recovery

/-! ## Free values and outputs -/

/-- Draw a fresh open value (assumption log 3). -/
def State.draw (s : State) : Nat × State := (Config.freeValue s.free, { s with free := s.free + 1 })

/-- Draw `n` fresh open bytes. -/
def State.drawBytes (s : State) (n : Nat) : List Byte × State := let (v, s) := s.draw; (leBytes n v, s)

/-- Draw `n` fresh open accumulators. -/
def State.drawRow (s : State) : Nat → List (BitVec 384) × State
  | 0 => ([], s)
  | n + 1 =>
    let r := s.draw.2.drawRow n
    (BitVec.ofNat 384 s.draw.1 :: r.1, r.2)

/-- Send something out of the block. -/
def State.emit (s : State) (o : Out) : State := { s with out := o :: s.out }

/-! ## Survey and the error log (R528, R529) -/

/-- Count an event. -/
def State.count (s : State) (id : Nat) (n : Nat := 1) : State :=
  { s with survey := { s.survey with counts := tblSet s.survey.counts id (tblGetD s.survey.counts id 0 + n) } }

/-- A scope word (R528): kind 0 device, 1 quadrant, 2 port, 3 partition, 4 queue, 5 ring, 6 meter, 7 unit. -/
def scopeWord (kind p index : Nat) : Nat := kind * 2 ^ 28 + p * 2 ^ 24 + index

/-- Count an event of a scope. -/
def State.countIn (s : State) (scope id : Nat) (n : Nat := 1) : State := s.count (id + 2 ^ 16 * scope) n

/-- Count an event of a partition where it holds. -/
def State.countFor (s : State) (p id : Nat) (yes : Bool) : State :=
  if yes then s.countIn (scopeWord 3 p 0) id else s

/-- Write one log record: the PF ring keeps 4,096, a partition's ring 256; a fatal one raises AER on both PFs
whose links are up. `partInfo` is the info of the partition's copy (R529). -/
def State.log (s : State) (r : LogRecord) (partInfo : W64 := 0) : State :=
  let r := { r with time := s.mer.now, sequence := s.survey.producer }
  let s := s.count (2 ^ 15 + r.status % 2 ^ 12)
  let s := match r.partition with
    | some p => s.countIn (scopeWord 3 p 0) (2 ^ 15 + r.status % 2 ^ 12)
    | none => s
  let s := { s with survey := { s.survey with
    producer := s.survey.producer + 1, log := (r :: s.survey.log).take 4096 } }
  let s := match r.partition with
    | some p => s.modPart p fun x => { x with
        logProducer := x.logProducer + 1
        log := ({ r with info := partInfo, sequence := x.logProducer } :: x.log).take 256 }
    | none => s
  if r.severity = 3 then
    let s := if (s.host 0).linkUp then s.emit (.aer 0) else s
    if (s.host 1).linkUp then s.emit (.aer 1) else s
  else s

/-- Set a bit of SVY_ALARMS, for a partition also in its own copy. -/
def State.alarm (s : State) (i : Nat) (p : Option Nat := none) : State :=
  let m : BitVec 9 := BitVec.ofNat 9 (2 ^ i)
  let s := { s with survey := { s.survey with alarms := s.survey.alarms ||| m } }
  match p with
  | some p => s.modPart p fun x => { x with alarms := x.alarms ||| m }
  | none => s

/-- An alarm whose log record carries no status the manual names: the status is a free value. -/
def State.alarmRecord (s : State) (i : Nat) (r : LogRecord) (p : Option Nat := none) : State :=
  let s := s.alarm i p
  let (v, s) := s.draw
  s.log { r with status := Status.pick v }

/-- The recovery record of a unit (R516). -/
def State.unitRec (s : State) (u : UnitId) : Recovery := (s.recover.units.find? fun r => r.unit == u).getD { unit := u }

/-- The unit is fenced or retired: it accepts no input and issues no output (R516). -/
def State.unitDown (s : State) (u : UnitId) : Bool := (s.unitRec u).fenced || (s.unitRec u).retired

/-! ## Toward the hosts: posted writes, MSI-X, reads (R417, R434, R435) -/

/-- The function is a VF in the TDISP state RUN: every request issued for it carries T at 1 (R421). -/
def State.inRun (s : State) (fn : Nat) : Bool := (s.func fn).tdisp == 2

/-- The output a posted write is. -/
def hostOut (port : Nat) (w : HostWrite) : Out :=
  match w.msix with
  | some v => .msix w.fn v w.addr (BitVec.ofNat 32 (leNat w.bytes))
  | none => .hostWrite port w

/-- Bytes held in a port's retrain buffer. -/
def heldBytes (l : List HostWrite) : Nat := (l.map fun w => w.bytes.length).sum

/-- The retrain buffer's size (R434). -/
def retrainBuffer : Nat := 0x800000

/-- The port's link is down and its retrain buffer has no room for `n` bytes, or the engines already hold back. -/
def State.hostBlocked (s : State) (port n : Nat) : Bool :=
  let h := s.host port
  !h.linkUp && (!h.engineHeld.isEmpty || heldBytes h.held + n > retrainBuffer)

/-- Issue one posted write: it leaves at once, waits in the retrain buffer while the port retrains, or stays with
its engine while that buffer is full; a port whose link is down and not retraining sends nothing (R434, R436). -/
def State.hostSend (s : State) (port : Nat) (w : HostWrite) : State :=
  let h := s.host port
  let w := { w with trusted := s.inRun w.fn }
  if h.linkUp then s.emit (hostOut port w)
  else if !h.retraining then s
  else if s.hostBlocked port w.bytes.length then
    s.modHost port fun h => { h with engineHeld := h.engineHeld ++ [w] }
  else s.modHost port fun h => { h with held := h.held ++ [w] }

/-- The number of MSI-X vectors of a function (R417). -/
def msixCount (f : Nat) : Nat := if isPf f then 2048 else 64

/-- Send the message of a vector, or set its pending bit where the vector or the function masks it. -/
def State.msix (s : State) (f v : Nat) : State :=
  let x := s.func f
  let e := tblGetD x.msix v {}
  if x.msixEnable && !x.functionMask && !e.masked then
    s.hostSend (fnPort f)
      { fn := f, addr := e.addr, bytes := leBytes 4 e.data.toNat, relaxed := false, msix := some v }
  else s.modFunc f fun x => { x with pba := if x.pba.contains v then x.pba else v :: x.pba }

/-- Issue a host read: it takes the lowest free of the 768 tags (R413); none is free, nothing is issued. -/
def State.hostRead (s : State) (port : Nat) (r : HostRead) : State × Bool :=
  let h := s.host port
  match firstFree (fun t => !h.reads.any fun r => r.tag == t) 768 0 with
  | none => (s, false)
  | some t =>
    let r := { r with tag := t, issuedClk := s.clk, trusted := s.inRun r.fn }
    let s := s.modHost port fun h => { h with reads := h.reads ++ [r] }
    (if h.linkUp then s.emit (.hostRead port r) else s, true)

/-- Reads of one purpose leave a port's list. -/
def State.dropReads (s : State) (p : Nat) (u : ReadUse) : State :=
  s.modHost p fun h => { h with reads := h.reads.filter (fun x => x.purpose != u) }

/-! ## Appointments (R88 to R90) -/

/-- The order in which kinds due in one clock fire (R89). -/
def apptRank : ApptKind → Nat
  | .chartSwap _ => 0
  | .gateSwap _ => 1
  | .keyRotation _ _ => 2
  | .surveyEpoch => 3
  | .collective _ _ => 4
  | .heartbeat _ _ => 5

/-- The slot that an appointment takes in a quadrant, where it takes one. -/
def Appointment.slotIn (a : Appointment) (q : Nat) : Option Nat :=
  ((a.quadrants.zip a.slots).find? fun r => r.1 == q).map fun r => r.2

/-- The quadrants whose part is still to be done (R30). -/
def Appointment.left (a : Appointment) : List Nat := a.quadrants.filter fun q => !a.acted.contains q

/-- Appointment slots used in a quadrant. -/
def State.apptUsed (s : State) (q : Nat) : Nat := (s.mer.appointments.filter fun a => a.quadrants.contains q).length

/-- A slot is free in every quadrant listed (R88). -/
def State.apptRoom (s : State) (qs : List Nat) : Bool := qs.all fun q => s.apptUsed q < 1024

/-- The slot of a quadrant's slice that an appointment gets: the lowest free one (assumption log 7). -/
def State.apptSlot (s : State) (q : Nat) : Nat :=
  (firstFree (fun i => !s.mer.appointments.any fun a => a.slotIn q == some i) 1024 0).getD 0

/-- Enter an appointment: it takes a slot in every quadrant concerned (R30, R88). -/
def State.addAppt (s : State) (a : Appointment) : State :=
  s.modMer fun m => { m with appointments := m.appointments ++
    [{ a with slots := a.quadrants.map s.apptSlot, acted := [] }] }

/-- Release every appointment of a kind. -/
def State.dropAppt (s : State) (k : ApptKind) : State :=
  s.modMer fun m => { m with appointments := m.appointments.filter fun a => a.kind != k }

/-- The appointment's part in a quadrant is due on the quadrant's copy of MER_NOW and not yet done (R30, R89). -/
def State.apptDueIn (s : State) (q : Nat) (a : Appointment) : Bool := a.left.contains q && decide (a.time ≤ s.mtQ q)

/-- An appointment stands before another in a quadrant: earlier, or at the same time a kind that fires first, or of the
same kind in a lower slot (R89). -/
def apptBefore (q : Nat) (a b : Appointment) : Bool :=
  decide (a.time < b.time) || (a.time == b.time && (decide (apptRank a.kind < apptRank b.kind)
    || (apptRank a.kind == apptRank b.kind && decide ((a.slotIn q).getD 0 < (b.slotIn q).getD 0))))

/-- The appointment of a kind. -/
def State.appt? (s : State) (k : ApptKind) : Option Appointment := s.mer.appointments.find? fun a => a.kind == k

/-- In a quadrant the kind is due, and no due appointment goes before it (R89, R90). -/
def State.apptFiresIn (s : State) (k : ApptKind) (q : Nat) : Bool :=
  match s.appt? k with
  | some a => s.apptDueIn q a && s.mer.appointments.all fun b => !(s.apptDueIn q b && apptBefore q b a)
  | none => false

/-- The appointment with a quadrant's part done: once every quadrant has done its part, a one-shot leaves its slots and
a periodic one re-arms at its time plus its period (R30, R88). -/
def Appointment.act (a : Appointment) (q : Nat) : Option Appointment :=
  let b := { a with acted := q :: a.acted }
  if !b.left.isEmpty then some b
  else if a.period = 0 then none
  else some { a with time := a.time + a.period, acted := [] }

/-- A quadrant has done its part of the appointment of a kind. -/
def State.apptAct (s : State) (k : ApptKind) (q : Nat) : State :=
  s.modMer fun m => { m with appointments := m.appointments.filterMap fun a => if a.kind == k then a.act q else some a }

/-- Every part of the appointment of a kind has been done: `true` on the last one, with the quadrant `q` about to act. -/
def State.lastPart (s : State) (k : ApptKind) (q : Nat) : Bool :=
  match s.appt? k with
  | some a => a.left.all fun x => x == q
  | none => false

/-! ## Charts -/

/-- The chart copy of a quadrant (R18). -/
def State.chart (s : State) (q : Nat) : Charts := tblGetD s.charts q {}

/-- Change the chart copy of a quadrant. -/
def State.modChart (s : State) (q : Nat) (g : Charts → Charts) : State :=
  { s with charts := tblSet s.charts q (g (s.chart q)) }

/-- Change every chart copy. -/
def State.modCharts (s : State) (g : Charts → Charts) : State := [0, 1, 2, 3].foldl (fun s q => s.modChart q g) s

/-- The ACTIVE bank of a quadrant's chart copy. -/
def State.activeBank (s : State) (q : Nat) : Bool := (s.chart q).active

end Sys2Proof.Machine
end

