-- ==== Sys2Proof/Machine/Crypto.lean ====
section
/-!
DEFINITION. Machine/Crypto.lean: the ciphers and hashes that the manual names by their standards: AES-256 (FIPS 197),
XTS on whole blocks (IEEE 1619-2018), SHAKE256 (FIPS 202) and KMAC256 (NIST SP 800-185). PRESUMED: their definitions
are the standards', which the manual does not repeat (assumption log 10).
-/

namespace Sys2Proof.Machine

/-! ## AES-256 -/

/-- Multiply by x in the field of AES. -/
def xtime (b : Byte) : Byte := if b.getLsbD 7 then (b <<< 1) ^^^ 0x1B#8 else b <<< 1

/-- Multiply in the field of AES. -/
def gmul (a b : Byte) : Byte :=
  ((List.range 8).foldl (fun (st : Byte × Byte) i =>
    ((if b.getLsbD i then st.1 ^^^ st.2 else st.1), xtime st.2)) (0, a)).1

/-- The inverse in the field of AES: the 254th power; 0 for 0. -/
def ginv (a : Byte) : Byte := (List.range 253).foldl (fun acc _ => gmul acc a) a

/-- The affine map of the S-box. -/
def sboxOf (a : Byte) : Byte :=
  let b := ginv a
  b ^^^ b.rotateLeft 1 ^^^ b.rotateLeft 2 ^^^ b.rotateLeft 3 ^^^ b.rotateLeft 4 ^^^ 0x63#8

/-- The S-box. -/
def sbox : List Byte := (List.range 256).map fun i => sboxOf (BitVec.ofNat 8 i)

/-- The inverse S-box. -/
def sboxInv : List Byte := (List.range 256).map fun i => BitVec.ofNat 8 (sbox.findIdx fun b => b == BitVec.ofNat 8 i)

/-- A byte through a table. -/
def subByte (t : List Byte) (b : Byte) : Byte := t.getD b.toNat 0

/-- Bytes combined by exclusive or. -/
def xorBytes (a b : List Byte) : List Byte := List.zipWith (· ^^^ ·) a b

/-- Word `i` of the key schedule of a 32-B key, from the words before it, newest first. -/
def nextKeyWord (i : Nat) (ws : List (List Byte)) : List Byte :=
  let prev := ws.headD []
  let back := ws.getD 7 []
  let rc := (List.range (i / 8 - 1)).foldl (fun b _ => xtime b) 1
  let t := if i % 8 = 0 then
      match (prev.drop 1 ++ prev.take 1).map (subByte sbox) with
      | a :: r => (a ^^^ rc) :: r
      | [] => []
    else if i % 8 = 4 then prev.map (subByte sbox) else prev
  xorBytes back t

/-- The 15 round keys of a 32-B key. -/
def roundKeys (key : List Byte) : List (List Byte) :=
  let first := ((List.range 8).map fun i => slice key (4 * i) 4).reverse
  let ws := ((List.range 52).foldl (fun ws j => nextKeyWord (j + 8) ws :: ws) first).reverse
  (List.range 15).map fun r => (slice' ws (4 * r)).flatten
where
  /-- Four words from an index. -/
  slice' (ws : List (List Byte)) (i : Nat) : List (List Byte) := (ws.drop i).take 4

/-- Rotate the rows of a block stored by columns: row `r` by `r` columns, forward or back. -/
def shiftRows (back : Bool) (b : List Byte) : List Byte :=
  (List.range 16).map fun i =>
    let r := i % 4
    let c := if back then (i / 4 + 4 - r) % 4 else (i / 4 + r) % 4
    b.getD (4 * c + r) 0

/-- Mix one column by the circulant of its first row's coefficients. -/
def mixColumn (m : List Byte) (c : List Byte) : List Byte :=
  (List.range 4).map fun r => (List.range 4).foldl (fun acc j => acc ^^^ gmul (m.getD ((j + 4 - r) % 4) 0) (c.getD j 0)) 0

/-- Mix the columns of a block. -/
def mixColumns (m : List Byte) (b : List Byte) : List Byte :=
  (List.range 4).flatMap fun c => mixColumn m (slice b (4 * c) 4)

/-- Encrypt one 16-B block under a 32-B key. -/
def aesEncrypt (key block : List Byte) : List Byte :=
  let ks := roundKeys key
  let mid := (List.range 13).foldl (fun b i =>
    xorBytes (mixColumns [2, 3, 1, 1] (shiftRows false (b.map (subByte sbox)))) (ks.getD (i + 1) [])) (xorBytes block (ks.getD 0 []))
  xorBytes (shiftRows false (mid.map (subByte sbox))) (ks.getD 14 [])

/-- Decrypt one 16-B block under a 32-B key. -/
def aesDecrypt (key block : List Byte) : List Byte :=
  let ks := roundKeys key
  let mid := (List.range 13).foldl (fun b i =>
    mixColumns [14, 11, 13, 9] (xorBytes ((shiftRows true b).map (subByte sboxInv)) (ks.getD (13 - i) [])))
    (xorBytes block (ks.getD 14 []))
  xorBytes ((shiftRows true mid).map (subByte sboxInv)) (ks.getD 0 [])

/-! ## XTS -/

/-- Multiply a tweak by x. -/
def xtsNext (t : List Byte) : List Byte :=
  let v := leNat t * 2
  let v := if 2 ^ 128 ≤ v then (v % 2 ^ 128) ^^^ 0x87 else v
  leBytes 16 v

/-- Transform the whole 16-B blocks of a data unit under a tweak. -/
def xtsBlocks (f : List Byte → List Byte) (t : List Byte) : Nat → List Byte → List Byte
  | 0, _ => []
  | n + 1, l => xorBytes t (f (xorBytes t (l.take 16))) ++ xtsBlocks f (xtsNext t) n (l.drop 16)

/-- A data unit under AES-256-XTS: a 64-B key, the tweak as a 128-bit little-endian number (R469). -/
def xts (decrypt : Bool) (key : List Byte) (tweak : Nat) (l : List Byte) : List Byte :=
  let k1 := key.take 32
  xtsBlocks (if decrypt then aesDecrypt k1 else aesEncrypt k1) (aesEncrypt (key.drop 32) (leBytes 16 tweak)) (l.length / 16) l

/-! ## SHAKE256 and KMAC256 -/

/-- The rotation offsets of lane (x, y), at x + 5y. -/
def keccakRot : List Nat :=
  [0, 1, 62, 28, 27, 36, 44, 6, 55, 20, 3, 10, 43, 25, 39, 41, 45, 15, 21, 8, 18, 2, 61, 56, 14]

/-- The 24 round constants of the standard. -/
def keccakRcs : List W64 :=
  [0x0000000000000001#64, 0x0000000000008082#64, 0x800000000000808A#64, 0x8000000080008000#64,
   0x000000000000808B#64, 0x0000000080000001#64, 0x8000000080008081#64, 0x8000000000008009#64,
   0x000000000000008A#64, 0x0000000000000088#64, 0x0000000080008009#64, 0x000000008000000A#64,
   0x000000008000808B#64, 0x800000000000008B#64, 0x8000000000008089#64, 0x8000000000008003#64,
   0x8000000000008002#64, 0x8000000000000080#64, 0x000000000000800A#64, 0x800000008000000A#64,
   0x8000000080008081#64, 0x8000000000008080#64, 0x0000000080000001#64, 0x8000000080008008#64]

/-- The constant of a round. -/
def keccakRc (round : Nat) : W64 := keccakRcs.getD round 0

/-- One round of the permutation on 25 lanes. -/
def keccakRound (a : List W64) (round : Nat) : List W64 :=
  let l := fun (a : List W64) (x y : Nat) => a.getD (x % 5 + 5 * (y % 5)) 0
  let c := (List.range 5).map fun x => l a x 0 ^^^ l a x 1 ^^^ l a x 2 ^^^ l a x 3 ^^^ l a x 4
  let d := (List.range 5).map fun x => c.getD ((x + 4) % 5) 0 ^^^ (c.getD ((x + 1) % 5) 0).rotateLeft 1
  let a := (List.range 25).map fun i => (a.getD i 0 ^^^ d.getD (i % 5) 0).rotateLeft (keccakRot.getD i 0)
  let b := (List.range 25).map fun i =>
    let x := i % 5
    let y := i / 5
    l a (x + 3 * y) x
  (List.range 25).map fun i =>
    let x := i % 5
    let y := i / 5
    let v := l b x y ^^^ (~~~(l b (x + 1) y) &&& l b (x + 2) y)
    if i = 0 then v ^^^ keccakRc round else v

/-- The permutation of 24 rounds. -/
def keccakF (a : List W64) : List W64 := (List.range 24).foldl keccakRound a

/-- Absorb padded blocks of 136 B. -/
def absorb : Nat → List W64 → List Byte → List W64
  | 0, a, _ => a
  | n + 1, a, l =>
    let b := bytesWords 17 l ++ List.replicate 8 0
    absorb n (keccakF (List.zipWith (· ^^^ ·) a b)) (l.drop 136)

/-- Squeeze blocks of 136 B. -/
def squeeze : Nat → List W64 → List Byte
  | 0, _ => []
  | n + 1, a => wordBytes (a.take 17) ++ squeeze n (keccakF a)

/-- The sponge of rate 136 B with a suffix byte. -/
def sponge (suffix : Byte) (l : List Byte) (out : Nat) : List Byte :=
  let n := l.length / 136 + 1
  let p := padTo (n * 136) (l ++ [suffix])
  let p := p.set (n * 136 - 1) (p.getD (n * 136 - 1) 0 ||| 0x80#8)
  (squeeze (out / 136 + 1) (absorb n (List.replicate 25 0) p)).take out

/-- SHAKE256 with an output of `out` bytes. -/
def shake256 (l : List Byte) (out : Nat) : List Byte := sponge 0x1F l out

/-- The big-endian bytes of a number, at least one. -/
def beBytes (v : Nat) : List Byte :=
  let n := (Nat.log2 v) / 8 + 1
  (leBytes n v).reverse

/-- left_encode. -/
def leftEncode (v : Nat) : List Byte := BitVec.ofNat 8 (beBytes v).length :: beBytes v

/-- right_encode. -/
def rightEncode (v : Nat) : List Byte := beBytes v ++ [BitVec.ofNat 8 (beBytes v).length]

/-- A byte string with its length in bits before it. -/
def encodeString (l : List Byte) : List Byte := leftEncode (8 * l.length) ++ l

/-- Padded to whole blocks of 136 B. -/
def bytepad (l : List Byte) : List Byte :=
  let b := leftEncode 136 ++ l
  padTo ((b.length + 135) / 136 * 136) b

/-- The function name of KMAC. -/
def kmacName : List Byte := [0x4B, 0x4D, 0x41, 0x43]

/-- KMAC256 with a customisation string and an output of `out` bytes. -/
def kmac256 (key data custom : List Byte) (out : Nat) : List Byte :=
  sponge 0x04 (bytepad (encodeString kmacName ++ encodeString custom) ++ bytepad (encodeString key) ++ data
    ++ rightEncode (8 * out)) out

/-! ## Galois/counter mode (NIST SP 800-38D), 96-bit nonces -/

/-- Multiply in the field of GHASH; a block is a number whose most significant bit is its first bit. -/
def ghashMul (x y : Nat) : Nat :=
  ((List.range 128).foldl (fun (st : Nat × Nat) i =>
    (if bit x (127 - i) then st.1 ^^^ st.2 else st.1,
     if st.2 % 2 = 1 then (st.2 / 2) ^^^ (0xE1 * 2 ^ 120) else st.2 / 2)) (0, y)).1

/-- The big-endian value of bytes. -/
def beNat (l : List Byte) : Nat := leNat l.reverse

/-- `n` big-endian bytes. -/
def beFixed (n v : Nat) : List Byte := (leBytes n v).reverse

/-- GHASH over `n` blocks of 16 B. -/
def ghash (h : Nat) : Nat → Nat → List Byte → Nat
  | 0, acc, _ => acc
  | n + 1, acc, l => ghash h n (ghashMul (acc ^^^ beNat (l.take 16)) h) (l.drop 16)

/-- Padded to whole blocks of 16 B. -/
def pad16 (l : List Byte) : List Byte := padTo ((l.length + 15) / 16 * 16) l

/-- Counter mode: block `i` under counter `i + 2`. -/
def gcmCipher (key nonce : List Byte) (l : List Byte) : List Byte :=
  (List.range ((l.length + 15) / 16)).flatMap fun i =>
    xorBytes (slice l (16 * i) 16) (aesEncrypt key (nonce ++ beFixed 4 (i + 2)))

/-- The tag of a ciphertext and its additional data. -/
def gcmTag (key nonce aad cipher : List Byte) : List Byte :=
  let h := beNat (aesEncrypt key (List.replicate 16 0))
  let l := pad16 aad ++ pad16 cipher ++ beFixed 8 (8 * aad.length) ++ beFixed 8 (8 * cipher.length)
  xorBytes (beFixed 16 (ghash h (l.length / 16) 0 l)) (aesEncrypt key (nonce ++ beFixed 4 1))

/-- Ciphertext and tag. -/
def gcmSeal (key nonce aad plain : List Byte) : List Byte :=
  let c := gcmCipher key nonce plain
  c ++ gcmTag key nonce aad c

/-! ## Working keys (R485, R486) -/

/-- Characters as bytes. -/
def ascii (l : List Char) : List Byte := l.map fun c => BitVec.ofNat 8 c.toNat

/-- The 16-B label. -/
def keyLabel (p purpose gen ctx : Nat) : List Byte := leBytes 1 p ++ leBytes 1 purpose ++ [0, 0] ++ leBytes 4 gen ++ leBytes 8 ctx

/-- A working key of `out` bytes under a partition root. -/
def workKey (root : List Byte) (p purpose gen ctx out : Nat) : List Byte :=
  kmac256 root (keyLabel p purpose gen ctx) (ascii ['G', 'X', '5', ' ', 'K', 'E', 'Y']) out

/-! ## The device's own keys (R476) -/

/-- `n` bytes derived from the device secret over a string. -/
def deviceKey (label : List Byte) (n : Nat) : List Byte := kmac256 (leBytes 32 Config.deviceSecret.toNat) label (ascii ['G', 'X', '5', ' ', 'I', 'D']) n

/-- The sealing key. -/
def sealingKey : BitVec 256 := BitVec.ofNat 256 (leNat (deviceKey (ascii ['s', 'e', 'a', 'l']) 32))

/-- The SHAKE256 digest of the identity public key. -/
def identityDigest : List Byte :=
  shake256 (Config.falconPublic (deviceKey (ascii ['i', 'd', 'e', 'n', 't', 'i', 't', 'y']) 64)) 64

/-- The seed of the alias key pair under a measurement of the running firmware. -/
def aliasSeed (measurement : List Byte) : List Byte := deviceKey (ascii ['a', 'l', 'i', 'a', 's'] ++ measurement) 64

end Sys2Proof.Machine
end

