-- ==== Sys2Proof/Machine/Space.lean ====
section
/-!
DEFINITION. Machine/Space.lean: partition space and the memory behind it: placements and their frames, the line as it is
stored in SRAM and in LPDDR5X, the codes that guard it, and reads and writes through them (R93 to R107, R127, R128, R133).
-/

namespace Sys2Proof.Machine

/-! ## Placements (R125 to R128) -/

/-- The live placement of a partition that covers an offset. -/
def State.placeAt (s : State) (p off : Nat) : Option (Nat × Placement) :=
  s.placements.find? fun r =>
    r.2.live && r.2.partition == p && decide (r.2.offset ≤ off) && decide (off < r.2.offset + r.2.size)

/-- Every byte of the range lies in one live placement. -/
def State.mapped (s : State) (p off len : Nat) : Bool :=
  match s.placeAt p off with
  | some (_, x) => decide (off + len ≤ x.offset + x.size)
  | none => false

/-- The 64-B lines a range touches. -/
def linesOf (a len : Nat) : List Nat :=
  if len = 0 then [] else List.range' (a / 64) ((a + len - 1) / 64 - a / 64 + 1)

/-- The lines a range covers whole. -/
def wholeLines (a len : Nat) : List Nat := (linesOf a len).filter fun l => a ≤ l * 64 && l * 64 + 64 ≤ a + len

/-- Some line of the range is poisoned. -/
def State.poisonedIn (s : State) (p off len : Nat) : Bool :=
  (linesOf (spaceKey p off) len).any fun l => s.mem.poisoned.contains l

/-- Some line that the range covers only in part is poisoned (R106). -/
def State.partPoisoned (s : State) (p off len : Nat) : Bool :=
  let a := spaceKey p off
  ((linesOf a len).filter fun l => !(wholeLines a len).contains l).any fun l => s.mem.poisoned.contains l

/-- The 4 KiB pages that a range touches. -/
def rangePages (addr len : Nat) : List Nat :=
  if len = 0 then [] else List.range' (addr / 4096) ((addr + len - 1) / 4096 - addr / 4096 + 1)

/-- Mark pages of one leg written, and dirty where it migrates (R128, R133 step 2). -/
def markLeg (l : Leg) (pages : List Nat) : Leg :=
  { l with
    written := l.written ++ pages.filter (fun p => !l.written.contains p)
    migration := l.migration.map fun m => { m with dirty := m.dirty ++ pages.filter (fun p => !m.dirty.contains p) } }

/-- Mark the pages that [off, off + len) of a placement touches; `off` counts from the placement's first byte. -/
def markLegs : List Leg → Nat → Nat → Nat → List Leg
  | [], _, _, _ => []
  | l :: r, first, off, len =>
    let ps := (List.range l.pages).filter fun i => overlaps ((first + i) * 4096) 4096 off len
    markLeg l ps :: markLegs r (first + l.pages) off len

/-! ## Frames (R114, R127) -/

/-- The leg of a placement that holds an offset, and the 4 KiB page of the leg. -/
def Placement.legAt (x : Placement) (off : Nat) : Option (Leg × Nat) :=
  let page := (off - x.offset) / 4096
  (x.legs[page / 512]?).map fun l => (l, page % 512)

/-- The 4 KiB frame that holds an offset: its tier and its number; none where the page is unwritten, which is no memory
access (R127, R128). -/
def State.frameAt (s : State) (p off : Nat) : Option (Bool × Nat) :=
  match s.placeAt p off with
  | none => none
  | some (_, x) => match x.legAt off with
    | none => none
    | some (l, page) => if l.written.contains page then (l.frames[page]?).map fun f => (l.lpddr, f) else none

/-- The physical line of a 64-B line of partition space. -/
def State.physLine (s : State) (line : Nat) : Option (Bool × Nat) :=
  (s.frameAt (line * 64 / 2 ^ 44) (line * 64 % 2 ^ 44)).map fun f => (f.1, f.2 * 64 + line % 64)

/-- The quadrant of a physical region: an SRAM die holds 65,536 regions; LPDDR5X regions rotate over the channels. -/
def regionQuadrant (lpddr : Bool) (r : Nat) : Nat := if lpddr then r % 32 / 8 else r / 131072

/-! ## The stored line (R93, R94, R99 to R102) -/

/-- The check bits of the eight data words of a line (R93). -/
def lineEcc (data : List Byte) : Nat :=
  ((List.range 8).map fun k => (Config.secdedBits (field data (8 * k) 8)).toNat * 2 ^ (8 * k)).sum

/-- An SRAM line as stored: data, check bits, tag, tag check (R93). -/
def sramLine (data : List Byte) (tag : Nat) : Nat :=
  leNat data + lineEcc data * 2 ^ 512 + tag % 16 * 2 ^ 576 + (Config.hammingBits tag).toNat * 2 ^ 580

/-- The byte address of an LPDDR5X line, counted over data lines, in the device: with inline ECC fifteen lines share a
1 KiB group with their check line (R100). -/
def lpddrAddress (inlineEcc : Bool) (line : Nat) : Nat := if inlineEcc then line / 15 * 1024 + line % 15 * 64 else line * 64

/-- The memory key generation that covers an LPDDR5X line: below a rekey's pointer the new one (R498, R499). -/
def Partition.lineGen (x : Partition) (address : Nat) : Nat :=
  match x.rekey with
  | some r => if address < r.pointer then r.new else r.old
  | none => x.memGen

/-- The memory key of a partition at a generation (R486). -/
def State.memKey (s : State) (p gen : Nat) : List Byte :=
  workKey (s.part p).root p 2 gen (leNat (identityDigest.take 8)) 64

/-- A line of a partition through the cipher: AES-256-XTS, its tweak the physical address ÷ 64 (R102). -/
def State.lineCipher (s : State) (decrypt : Bool) (p line : Nat) (data : List Byte) : List Byte :=
  let a := lpddrAddress s.mem.inlineEcc line
  xts decrypt (s.memKey p ((s.part p).lineGen a)) (a / 64) data

/-- The check line of a group from its fifteen stored lines and their poison (R100): it follows the lines in the step that
writes them, so that no read pairs a line with the code of an earlier value, and the cache that holds it shows nowhere
(R103). -/
def checkLine (lines : List (List Byte)) (poison : List Bool) : List Byte :=
  padTo 60 ((lines.take 15).flatMap fun l => leBytes 4 (Config.rsCode l).toNat)
    ++ leBytes 2 (((poison.take 15).zipIdx.map fun b => b2n b.1 * 2 ^ b.2).sum) ++ [0, 0]

/-! ## Upsets and the codes (R94, R101) -/

/-- What a code finds in a word, a tag or a line. -/
inductive Verdict where
  | clean
  /-- Corrected at a place. -/
  | corrected (place : Nat)
  | uncorrectable
  /-- More errors than the code is sure to detect: it takes the word for another one, off by these bits. -/
  | passed (off : Nat)
  deriving DecidableEq, Repr

/-- The set bits of a mask of width `w`. -/
def setBits (w mask : Nat) : List Nat := (List.range w).filter fun i => bit mask i

/-- SEC-DED: one error is corrected and two are detected; what more do is open (R94, assumption log 70). -/
def secded (w mask : Nat) : Verdict :=
  match setBits w mask with
  | [] => .clean
  | [i] => .corrected i
  | [_, _] => .uncorrectable
  | _ => if Config.codePasses w mask then .passed (Config.codeOff w mask % 2 ^ w) else .uncorrectable

/-- The errors in word `k` of an SRAM line: its 64 bits and its eight check bits (R93). -/
def wordMask (mask k : Nat) : Nat := bits mask (64 * k + 63) (64 * k) + bits mask (519 + 8 * k) (512 + 8 * k) * 2 ^ 64

/-- The errors in the tag of an SRAM line and its check bits. -/
def tagMask (mask : Nat) : Nat := bits mask 583 576

/-- The 16-bit symbols of an LPDDR5X line and its code that hold an error. -/
def badSymbols (mask : Nat) : List Nat := (List.range 34).filter fun i => bits mask (16 * i + 15) (16 * i) != 0

/-- The Reed-Solomon code of an LPDDR5X line: errors in one symbol are corrected; what errors in more do is open (R101,
assumption log 70). -/
def rsVerdict (mask : Nat) : Verdict :=
  match badSymbols mask with
  | [] => .clean
  | [i] => .corrected i
  | _ => if Config.codePasses 544 mask then .passed (Config.codeOff 544 mask % 2 ^ 512) else .uncorrectable

/-- The verdicts on a line: eight words and the tag in SRAM, the line in LPDDR5X with inline ECC; without it no code
stands and every error passes (R99, R100). -/
def lineVerdicts (lpddr inlineEcc : Bool) (mask : Nat) : List Verdict :=
  if lpddr then [if inlineEcc then rsVerdict mask else .passed (mask % 2 ^ 512)]
  else (List.range 8).map (fun k => secded 72 (wordMask mask k)) ++ [secded 8 (tagMask mask)]

/-- The key of a physical line's upset. -/
def upsetKey (l : Bool × Nat) : Nat := 2 * l.2 + b2n l.1

/-- The bits of a physical line that differ from what was stored. -/
def State.upset (s : State) (l : Bool × Nat) : Nat := tblGetD s.mem.upsets (upsetKey l) 0

/-- The verdicts on a physical line. -/
def State.verdicts (s : State) (l : Bool × Nat) : List Verdict := lineVerdicts l.1 s.mem.inlineEcc (s.upset l)

/-- A line of partition space holds an error that its code cannot correct (R105). -/
def State.uncorrectable (s : State) (line : Nat) : Bool :=
  (s.physLine line).any fun l => (s.verdicts l).contains .uncorrectable

/-- The bits of a line's data that its code passes wrong. -/
def dataOff (lpddr : Bool) (l : List Verdict) : Nat :=
  if lpddr then (match l with
    | [.passed n] => n
    | _ => 0)
  else ((l.take 8).zipIdx.map fun v => match v.1 with
    | .passed n => n % 2 ^ 64 * 2 ^ (64 * v.2)
    | .clean => 0
    | .corrected _ => 0
    | .uncorrectable => 0).sum

/-- The tag that an access finds is off by these bits. -/
def tagOff (l : List Verdict) : Nat :=
  match l.getD 8 .clean with
  | .passed n => n % 16
  | .clean => 0
  | .corrected _ => 0
  | .uncorrectable => 0

/-- The stored tag of some line of the range is wrong (R95). -/
def State.wrongTagIn (s : State) (p off len : Nat) : Bool :=
  (linesOf (spaceKey p off) len).any fun l => s.mem.wrongTag.contains l ||
    (!s.mem.upsets.isEmpty && (s.physLine l).any fun x => !x.1 && tagOff (s.verdicts x) != 0)

/-- A line of partition space as a read returns it: through the cipher in LPDDR5X, so that an error the code passes
there spoils the plaintext (R101, R102). -/
def State.lineSeen (s : State) (line : Nat) (data : List Byte) : List Byte :=
  match s.physLine line with
  | none => data
  | some l =>
    let off := dataOff l.1 (s.verdicts l)
    if off = 0 then data
    else if l.1 then
      let p := line * 64 / 2 ^ 44
      s.lineCipher true p l.2 (xorBytes (s.lineCipher false p l.2 data) (leBytes 64 off))
    else xorBytes data (leBytes 64 off)

/-! ## Reads and writes -/

/-- The bytes of a partition's space as the memory holds them. -/
def State.spaceCells (s : State) (p off len : Nat) : List Byte := memRead s.mem.cells (spaceKey p off) len

/-- Read bytes of a partition's space, through the codes where some line is upset. -/
def State.readSpace (s : State) (p off len : Nat) : List Byte :=
  if s.mem.upsets.isEmpty then s.spaceCells p off len
  else
    let a := spaceKey p off
    slice ((linesOf a len).flatMap fun l => s.lineSeen l (memRead s.mem.cells (l * 64) 64)) (a % 64) len

/-- Some line of the range is poisoned, or holds an uncorrectable error. -/
def State.badIn (s : State) (p off len : Nat) : Bool :=
  s.poisonedIn p off len || (!s.mem.upsets.isEmpty && (linesOf (spaceKey p off) len).any s.uncorrectable)

/-- The words of an SRAM line, or all of it in LPDDR5X, that a write of [a, a + n) reads before it writes: those it
covers in part (R96, R101). -/
def partWords (lpddr : Bool) (line a n : Nat) : List Nat :=
  if lpddr then (if a ≤ line * 64 ∧ line * 64 + 64 ≤ a + n then [] else List.range 8)
  else (List.range 8).filter fun k =>
    let w := line * 64 + 8 * k
    overlaps w 8 a n && !(a ≤ w && w + 8 ≤ a + n)

/-- A line that the range covers only in part is poisoned, or a word that the write must read holds an uncorrectable
error (R96, R105, R106). -/
def State.partBad (s : State) (p off len : Nat) : Bool :=
  s.partPoisoned p off len || (!s.mem.upsets.isEmpty && (linesOf (spaceKey p off) len).any fun line =>
    (s.physLine line).any fun l =>
      let v := s.verdicts l
      (partWords l.1 line (spaceKey p off) len).any fun k => v[if l.1 then 0 else k]? == some .uncorrectable)

/-- The errors of a line that a write of [a, a + n) leaves: the words it touches and the tag are stored anew (R93). -/
def leftMask (lpddr : Bool) (line a n mask : Nat) : Nat :=
  if lpddr then 0
  else ((List.range 8).filter fun k => !overlaps (line * 64 + 8 * k) 8 a n).map (fun k =>
    bits mask (64 * k + 63) (64 * k) * 2 ^ (64 * k) + bits mask (519 + 8 * k) (512 + 8 * k) * 2 ^ (512 + 8 * k)) |>.sum

/-- Before a write, the lines it touches are read where they are upset: what their codes pass wrong is stored again
with the write (R96). -/
def State.foldUpsets (s : State) (a n : Nat) : State :=
  if s.mem.upsets.isEmpty then s
  else (linesOf a n).foldl (fun s line =>
    match s.physLine line with
    | none => s
    | some l =>
      let m := s.upset l
      if m = 0 then s
      else
        let seen := s.lineSeen line (memRead s.mem.cells (line * 64) 64)
        let kept := leftMask l.1 line a n m
        s.modMem fun x => { x with
          cells := (if l.1 then List.range 8 else partWords l.1 line a n).foldl
            (fun c k => memWrite c (line * 64 + 8 * k) (slice seen (8 * k) 8)) x.cells
          upsets := if kept = 0 then tblErase x.upsets (upsetKey l) else tblSet x.upsets (upsetKey l) kept }) s

/-- The keys of the physical lines whose frames a write of a range writes for the first time: the whole frame is stored
(R128). -/
def State.freshKeys (s : State) (p off n : Nat) : List (Bool × Nat) :=
  match s.placeAt p off with
  | none => []
  | some (_, x) => x.legs.zipIdx.flatMap fun r =>
      ((List.range r.1.pages).filter fun i =>
        !r.1.written.contains i && overlaps (x.offset + (r.2 * 512 + i) * 4096) 4096 off n).filterMap fun i =>
          (r.1.frames[i]?).map fun f => (r.1.lpddr, f)

/-- The frames that a write writes for the first time hold no upset any more (R128). -/
def State.freshFrames (s : State) (p off n : Nat) : State :=
  if s.mem.upsets.isEmpty then s
  else
    let fresh := s.freshKeys p off n
    s.modMem fun m => { m with upsets := m.upsets.filter fun u => !fresh.contains (u.1 % 2 == 1, u.1 / 128) }

/-- Mark the pages of a range in their placement written, and dirty where their leg migrates. -/
def State.markSpace (s : State) (p off n : Nat) : State :=
  match s.placeAt p off with
  | some (i, _) => s.modPlace i fun x => { x with legs := markLegs x.legs 0 (off - x.offset) n }
  | none => s

/-- Set the dirty bits of the pages of a range where their leg migrates (R133 step 2). -/
def dirtyLegs : List Leg → Nat → Nat → Nat → List Leg
  | [], _, _, _ => []
  | l :: r, first, off, len =>
    let ps := (List.range l.pages).filter fun i => overlaps ((first + i) * 4096) 4096 off len
    { l with migration := l.migration.map fun m => { m with dirty := m.dirty ++ ps.filter fun p => !m.dirty.contains p } }
      :: dirtyLegs r (first + l.pages) off len

/-- A commit that stores nothing touches a range. -/
def State.dirtySpace (s : State) (p off n : Nat) : State :=
  match s.placeAt p off with
  | some (i, _) => s.modPlace i fun x => { x with legs := dirtyLegs x.legs 0 (off - x.offset) n }
  | none => s

/-- The LPDDR5X channels that the frames of a range lie on (R130). -/
def State.channelsOf (s : State) (p off n : Nat) : List Nat :=
  if s.placements.isEmpty then []
  else (rangePages off n).filterMap fun k => match s.frameAt p (k * 4096) with
    | some (true, f) => some (f % 32)
    | _ => none

/-- Requests reach the channels of a range, which leave power-down (R546). -/
def State.useChannels (s : State) (p off n : Nat) : State :=
  let l := s.channelsOf p off n
  if l.isEmpty then s
  else s.modMem fun m => { m with
    channelUse := l.foldl (fun t c => tblSet t c s.clk) m.channelUse, channelsDown := m.channelsDown.filter fun c => !l.contains c }

/-- Write bytes of a partition's space: the bytes, the written and dirty marks, and the poison of whole lines. -/
def State.writeSpace (s : State) (p off : Nat) (b : List Byte) : State :=
  let a := spaceKey p off
  let s := ((s.foldUpsets a b.length).freshFrames p off b.length).useChannels p off b.length
  let s := { s with mem := { s.mem with
    cells := memWrite s.mem.cells a b
    poisoned := s.mem.poisoned.filter fun l => !(wholeLines a b.length).contains l } }
  s.markSpace p off b.length

/-! ## What an access finds (R95, R105 to R107) -/

/-- A region falls due for retirement, once. -/
def State.dueRetire (s : State) (lpddr : Bool) (region : Nat) : State :=
  s.modMem fun m =>
    if m.retireDue.contains (lpddr, region) || (if lpddr then m.lpddrRetired else m.sramRetired).contains region then m
    else { m with retireDue := m.retireDue ++ [(lpddr, region)] }

/-- The unit index of the controller of a physical line: its SRAM die, or its LPDDR5X channel (R130, R529). -/
def unitOfLine (l : Bool × Nat) : Nat := if l.1 then l.2 / 64 % 32 else l.2 / 64 / 65536

/-- The device physical address of a line (R529). -/
def physAddress (inlineEcc : Bool) (l : Bool × Nat) : Nat := if l.1 then lpddrAddress inlineEcc l.2 else l.2 * 64

/-- A line is poisoned in place of its uncorrectable error, and its region falls due (R105, R107). -/
def State.poisonLine (s : State) (line : Nat) : State :=
  match s.physLine line with
  | none => s
  | some l =>
    let s := (s.modMem fun m => { m with
      poisoned := if m.poisoned.contains line then m.poisoned else line :: m.poisoned
      upsets := tblErase m.upsets (upsetKey l)
      badLines := l :: m.badLines.filter fun b => b != l }).dueRetire l.1 (l.2 / 64)
    s.log { status := Status.memoryUncorrectable, unit := if l.1 then 0x16 else 0x15, unitIndex := unitOfLine l
            partition := some (line * 64 / 2 ^ 44), severity := 2, info := w64 (physAddress s.mem.inlineEcc l) }
      (w64 (line * 64 % 2 ^ 44))

/-- A line tag mismatch raises a security event (R95). -/
def State.tagEvent (s : State) (p status : Nat) (info : W64) : State :=
  if status = Status.lineTagMismatch then
    (s.alarm 3 (some p)).log { status, unit := 0x15, partition := some p, severity := 2, info := match s.physLine (spaceKey p info.toNat / 64) with
                                 | some l => w64 (physAddress s.mem.inlineEcc l)
                                 | none => info } (w64 (info.toNat / 64 * 64))
  else s

/-- An access to a partition's space fails with a status: a tag mismatch is a security event, and a line found
uncorrectable is poisoned (R95, R105). -/
def State.accessFault (s : State) (p off len status : Nat) : State :=
  let s := s.tagEvent p status (w64 off)
  if status = Status.memoryUncorrectable && !s.mem.upsets.isEmpty then
    ((linesOf (spaceKey p off) len).filter s.uncorrectable).foldl State.poisonLine s
  else s

/-- The check of an access to a partition's placements (R95, R105, R106, R114): the status of the first failure. -/
def State.spaceCheck (s : State) (p off len : Nat) (write : Bool) : Nat :=
  if 10 ≤ bits off 43 40 then Status.addressUnmapped
  else if !s.mapped p off len then Status.addressUnmapped
  else if s.wrongTagIn p off len then Status.lineTagMismatch
  else if (if write then s.partBad p off len else s.badIn p off len) then Status.memoryUncorrectable
  else Status.ok

/-! ## Cut-over and rekey steps (R133 steps 5 and 6, R135, R499) -/

/-- One step of the walk. -/
def rekeyStride : Nat := 0x100000

/-- Part of an LPDDR5X frame lies in the step at a pointer. -/
def inStep (inlineEcc : Bool) (pointer frame : Nat) : Bool :=
  decide (lpddrAddress inlineEcc (frame * 64) / rekeyStride ≤ pointer / rekeyStride)
    && decide (pointer / rekeyStride ≤ lpddrAddress inlineEcc (frame * 64 + 63) / rekeyStride)

/-- A staged rekey step holds a line of the range: every access to it waits (R499). -/
def State.rekeyStalled (s : State) (p off len : Nat) : Bool :=
  match (s.part p).rekey, s.placeAt p off with
  | some r, some (_, x) => r.staged && (rangePages (off - x.offset) len).any fun page =>
      let l := x.legs.getD (page / 512) {}
      l.lpddr && inStep s.mem.inlineEcc r.pointer (l.frames.getD (page % 512) 0)
  | _, _ => false

/-- A leg that the range touches is at its cut-over, or a staged rekey step holds it: writes and atomics wait at commit. -/
def State.stalled (s : State) (p off len : Nat) : Bool :=
  s.rekeyStalled p off len || match s.placeAt p off with
  | none => false
  | some (_, x) => x.legs.zipIdx.any fun r =>
      overlaps (x.offset + r.2 * 2097152) (r.1.pages * 4096) off len && r.1.migration.any fun m => m.ready

end Sys2Proof.Machine
end

