-- ==== Sys2Proof/Machine/Operands.lean ====
section
/-!
DEFINITION. Machine/Operands.lean: the operand forms of the block: global and context addresses, region keys and
placement handles, descriptors, segment entries, kernel steps, packet lengths and classes.
-/

namespace Sys2Proof.Machine

/-! ## Addresses, keys and handles -/

/-- The endpoint of a global address (R113). -/
def gaEndpoint (a : W64) : Nat := bits a.toNat 63 48

/-- The partition of a global address (R113). -/
def gaPartition (a : W64) : Nat := bits a.toNat 47 44

/-- The offset of a global address (R113). -/
def gaOffset (a : W64) : Nat := bits a.toNat 43 0

/-- The 1 TiB window of a partition-space offset (R114). -/
def windowOf (off : Nat) : Nat := bits off 43 40

/-- The offset lies in an accelerator window (R114). -/
def inAccelWindow (off : Nat) : Bool := windowOf off < 8

/-- The segment of a context address (R144). -/
def caSegment (a : W64) : Nat := bits a.toNat 63 60

/-- The offset of a context address (R144). -/
def caOffset (a : W64) : Nat := bits a.toNat 59 0

/-- The region table index of a region key (R116). -/
def keyIndex (k : W32) : Nat := bits k.toNat 31 16

/-- The generation of a region key (R116). -/
def keyGen (k : W32) : Nat := bits k.toNat 15 8

/-- The check value of a region key (R116). -/
def keyCheck (k : W32) : Nat := bits k.toNat 7 0

/-- The region key of an entry (R116). -/
def regionKey (i : Nat) (r : Region) : W32 := w32 (i * 65536 + r.gen.toNat * 256 + r.check.toNat)

/-- The next generation of a region or placement entry: modulo 256, 0 skipped (R116, R125). -/
def nextGen (g : BitVec 8) : BitVec 8 := if g = 0xFF#8 then 1 else g + 1

/-- The placement handle of an index (R125). -/
def placeHandle (i : Nat) (p : Placement) : W64 := w64 (p.partition * 2 ^ 28 + p.gen.toNat * 2 ^ 20 + i)

/-- The live placement a handle names, in a partition (R125, R51). -/
def State.handle? (s : State) (p : Nat) (h : W64) : Option (Nat × Placement) :=
  let i := bits h.toNat 14 0
  let x := s.place i
  if x.live && x.partition == p && placeHandle i x == h then some (i, x) else none

/-! ## Segments (R145) -/

/-- The segment entry of words w1 to w3 of SEGMENT_SET; kind 0 reads base and length as zero (R146). -/
def parseSegment (w1 w2 w3 : W64) : Segment :=
  let k := bits w3.toNat 1 0
  if k = 0 then {}
  else { kind := k, base := w1, length := w2, read := bit w3.toNat 2, write := bit w3.toNat 3, pri := bit w3.toNat 4 }

/-! ## Descriptors (R189 to R194) -/

/-- A descriptor as read: the fields of its head slot, and whether it holds a reserved encoding. -/
def parseDesc (version : Nat) (l : List Byte) : Desc :=
  let fl := field l 5 1
  let base : Desc := {
    index := w32 (field l 0 4), opcode := field l 4 1
    flagFinal := bit fl 0, fence := bit fl 1, suppress := bit fl 2, interrupt := bit fl 3, inline := bit fl 4
    tc := bits (field l 6 1) 2 0
    remote := w64 (field l 8 8), regionKey := w32 (field l 16 4), length := field l 20 4
    localAddr := w64 (field l 24 8) }
  if version = 1 then base
  else { base with
    userTag := BitVec.ofNat 16 (field l 36 2), kernelId := field l 40 1
    operandA := w64 (field l 48 8), operandB := w64 (field l 56 8) }

/-- extra_slots of a head slot (R192); a version 1 descriptor has none. -/
def extraSlots (version : Nat) (l : List Byte) : Nat := if version = 1 then 0 else bits (field l 6 1) 4 3

/-- inline_len of a version 2 head slot (R192). -/
def inlineLen (l : List Byte) : Nat := field l 7 1

/-- The inline bytes of a head slot and its continuation slots (R193). -/
def inlineBytes (head : List Byte) (conts : List (List Byte)) (n : Nat) : List Byte :=
  ((slice head 24 12) ++ conts.flatMap fun c => slice c 4 60).take n

/-- The continuation slots an inline length needs (R193). -/
def slotsForInline (n : Nat) : Nat := if n ≤ 12 then 0 else (n - 12 + 59) / 60

/-- The opcode is an atomic (R189). -/
def isAtomic (op : Nat) : Bool := 3 ≤ op && op ≤ 6

/-- Operand size of an atomic (R254). -/
def atomicSize (op : Nat) : Nat := if op = 3 ∨ op = 5 then 8 else 4

/-- The descriptor holds a reserved encoding for its queue's version (R189, R194, R276). -/
def descReserved (version : Nat) (d : Desc) : Bool := 7 < d.opcode || (version == 1 && d.opcode == 7) || d.tc == 7

/-- The first condition of R194 that a descriptor fails; 0 when it fails none. -/
def descCondition (version extra inl : Nat) (d : Desc) : Nat :=
  if (d.opcode = 1 ∨ d.opcode = 2) ∧ d.length = 0 then 1
  else if isAtomic d.opcode ∧ d.length ≠ atomicSize d.opcode then 2
  else if isAtomic d.opcode ∧ d.remote.toNat % d.length ≠ 0 then 3
  else if d.flagFinal ∧ d.opcode ≠ 1 then 4
  else if d.inline ∧ (version = 1 ∨ d.opcode ≠ 1 ∨ inl = 0 ∨ 192 < inl ∨ inl ≠ d.length) then 5
  else if version = 2 ∧ extra ≠ (if d.inline then slotsForInline inl else 0) then 6
  else if version = 2 ∧ isAtomic d.opcode ∧ d.localAddr ≠ 0 then 7
  else 0

/-! ## Native packets (R217, R221 to R224) -/

/-- WRITE on the wire (R223). -/
def opWrite : Nat := 0x01
/-- READ_REQ (R223). -/
def opReadReq : Nat := 0x02
/-- READ_RESP (R223). -/
def opReadResp : Nat := 0x03
/-- ADD64 (R223); ADD32, CAS64 and CAS32 follow it. -/
def opAdd64 : Nat := 0x04
/-- ACK (R223). -/
def opAck : Nat := 0x10
/-- SACK (R223). -/
def opSack : Nat := 0x11
/-- NAK (R223). -/
def opNak : Nat := 0x12
/-- COLL_DATA (R223). -/
def opColl : Nat := 0x20
/-- HEARTBEAT (R223). -/
def opHeartbeat : Nat := 0x21
/-- BEACON (R223). -/
def opBeacon : Nat := 0x22

/-- An atomic request on the wire (R223). -/
def isWireAtomic (op : Nat) : Bool := 4 ≤ op && op ≤ 7

/-- A request opcode: class 0, or 2 into an accelerator window (R223). -/
def isRequest (op : Nat) : Bool := op == 1 || op == 2 || isWireAtomic op

/-- The class R223 gives an opcode at an address. -/
def classOf (op : Nat) (addr : W64) : Nat :=
  if op = 1 ∨ op = 2 then (if inAccelWindow (gaOffset addr) then 2 else 0)
  else if isWireAtomic op then 0
  else if op = 0x20 ∨ op = 0x21 ∨ op = 0x22 then 3 else 1

/-- The opcode is one of R223's. -/
def knownOpcode (op : Nat) : Bool := (1 ≤ op && op ≤ 7) || (0x10 ≤ op && op ≤ 0x12) || (0x20 ≤ op && op ≤ 0x22)

/-- Packets of a message of `n` bytes (R217). -/
def packetsOf (n : Nat) : Nat := (n + 4095) / 4096

/-- Payload bytes of packet `k` of a message of `n` bytes (R217). -/
def packetLen (n k : Nat) : Nat := if n ≤ k * 4096 then 0 else min 4096 (n - k * 4096)

/-- payload_len, msg_length, pkt_index and last agree with R217. -/
def lengthsAgree (p : Packet) : Bool :=
  let op := p.route.opcode
  if op = 1 ∨ op = 0x20 then
    1 ≤ p.msgLength && p.msgLength ≤ 262144 && p.pktIndex < packetsOf p.msgLength
      && p.payloadLen == packetLen p.msgLength p.pktIndex
      && p.flags.last == (p.pktIndex + 1 == packetsOf p.msgLength)
  else if op = 2 then
    1 ≤ p.msgLength && p.msgLength ≤ 65536 && p.pktIndex == 0 && p.payloadLen == 0 && p.flags.last
  else if isWireAtomic op then p.msgLength == 16 && p.payloadLen == 16 && p.pktIndex == 0 && p.flags.last
  else if op = 3 then p.msgLength == 0 && p.pktIndex < 16 && 1 ≤ p.payloadLen && p.payloadLen ≤ 4096
  else p.msgLength == 0 && p.payloadLen == 0

/-- The landing quadrant of a request (R220). -/
def landQuadrant (src ctx : Nat) : Nat := (src % 4) ^^^ (ctx % 4)

/-- The header is valid under R224. -/
def headerValid (p : Packet) : Bool :=
  p.route.version == 1 && knownOpcode p.route.opcode && p.route.cls == classOf p.route.opcode p.spec.address
    && (!isRequest p.route.opcode || p.route.landQ == landQuadrant p.key.src p.key.context)
    && lengthsAgree p

/-- Pool bytes a copy takes: its payload rounded up to 64 B, plus 64 B (R258). -/
def poolSpace (n : Nat) : Nat := (n + 63) / 64 * 64 + 64

/-- The age of a stamp on a clock: `none` for a future stamp, 0 within the 2 µs allowance (R227). -/
def ageOf (now : Nat) (issue : W32) : Option Nat :=
  let a := (now + 2 ^ 32 - issue.toNat) % 2 ^ 32
  if 2 ^ 32 - 32000 ≤ a then some 0 else if 2 ^ 31 ≤ a then none else some a

/-- The low 32 bits of MER_NOW on the copy of a quadrant (R24, R219). -/
def State.stamp (s : State) (q : Nat) : W32 := w32 (s.mtQ q)

/-! ## Kernel steps and segments of context addresses: see Machine/Steps.lean -/

end Sys2Proof.Machine
end

