-- ==== Sys2Proof/Machine/Completion.lean ====
section
/-!
DEFINITION. Machine/Completion.lean: how a descriptor ends, forms its completion entry and is retired, and how a
ring takes entries, overflows, stalls and interrupts (R196, R203 to R213).
-/

namespace Sys2Proof.Machine

/-! ## Ending a descriptor -/

/-- The accepted descriptor of a queue at an index. -/
def State.desc? (s : State) (q : Nat) (i : W32) : Option Desc :=
  match s.queue? q with
  | some x => x.held.find? fun d => d.index == i
  | none => none

/-- Change the accepted descriptor at an index. -/
def State.modDesc (s : State) (q : Nat) (i : W32) (g : Desc → Desc) : State :=
  s.modQueue q fun x => { x with held := x.held.map fun d => if d.index == i then g d else d }

/-- End a descriptor with a status, unless it has ended already (R245). -/
def State.endDesc (s : State) (q : Nat) (i : W32) (status detail : Nat) : State :=
  s.modDesc q i fun d =>
    if d.phase == .completed then d else { d with phase := .completed, status, detail, toSend := [] }

/-- The 32 bytes of an entry at a ring index (R203). -/
def entryBytes (i : W32) (e : Entry) : List Byte :=
  leBytes 32 (i.toNat + e.status * 2 ^ 32 + e.userTag.toNat * 2 ^ 48 + e.detail * 2 ^ 64 + e.queue * 2 ^ 83
    + e.contextGen.toNat * 2 ^ 108 + e.context * 2 ^ 116 + e.descIndex.toNat * 2 ^ 128 + e.bytesDone * 2 ^ 160
    + e.result.toNat * 2 ^ 192)

/-- The entry of an ended descriptor: bytes_done is 0 for atomics and NOP, the user tag 0 in version 1 (R203). -/
def entryOf (qn : Nat) (q : Queue) (d : Desc) : Entry :=
  { queue := qn, descIndex := d.index, context := q.context, contextGen := d.contextGen
    userTag := if q.version = 1 then 0 else d.userTag
    status := d.status, detail := d.detail % 65536
    bytesDone := if isAtomic d.opcode || d.opcode == 0 then 0 else d.bytesDone % 2 ^ 32
    result := d.result, interrupt := d.interrupt }

/-- A descriptor is retired: the queue lets it go and counts it (R196, QUE_COMPLETED). -/
def State.retire (s : State) (q : Nat) (i : W32) : State :=
  s.modQueue q fun x =>
    { x with held := x.held.filter fun d => d.index != i, completed := x.completed + 1, progressClk := s.clk }

/-- Retire the descriptor of an entry, where its queue still holds it. -/
def State.retireEntry (s : State) (e : Entry) : State := if e.owned then s.retire e.queue e.descIndex else s

/-! ## The ring -/

/-- Slots of a ring or queue (R173). -/
def slotsOf (log2 : Nat) : Nat := 2 ^ log2

/-- Entries between the indices (R175). -/
def Ring.used (r : Ring) : Nat := (r.producer - r.consumer).toNat

/-- The ring is full (R175). -/
def Ring.full (r : Ring) : Bool := slotsOf r.log2 ≤ r.used

/-- Send the armed message where the count trigger or the time trigger holds; that clears armed (R210). -/
def State.ringTrigger (s : State) (rn : Nat) : State :=
  match s.ring? rn with
  | none => s
  | some r =>
    let timed := match r.firstEntry with
      | some t => r.holdoff != 0 && decide (t + us r.holdoff ≤ s.clk)
      | none => false
    if r.intEnable && r.armed && (decide (r.count ≤ r.used) || timed) then
      (s.setRing rn { r with armed := false }).msix r.fn r.vector
    else s

/-- In every clock, a trigger that holds on an armed ring sends its message (R210, R213). -/
def State.ringTriggers (s : State) : State :=
  ((s.rings.filter fun r => r.2.armed).map fun r => r.1).foldl State.ringTrigger s

/-- Write an entry into its ring (R205, R211): one posted write of 32 B, Relaxed Ordering clear. -/
def State.ringWrite (s : State) (rn : Nat) (e : Entry) : State :=
  match s.ring? rn with
  | none => s
  | some r =>
    let a := w64 (r.base.toNat + r.producer.toNat % slotsOf r.log2 * 32)
    let s := s.setRing rn { r with producer := r.producer + 1, firstEntry := some (r.firstEntry.getD s.clk) }
    let s := s.hostSend (fnPort r.fn)
      { fn := r.fn, addr := a, bytes := entryBytes r.producer e, relaxed := false }
    let s := if e.interrupt then s.msix r.fn r.vector else s
    s.ringTrigger rn

/-- An entry finds the overflow full: the ring stalls, Survey records the stall once, and the first setting of
ring_full interrupts (R208, R212). -/
def State.ringStall (s : State) (rn : Nat) (r : Ring) (e : Entry) : State :=
  let s' := s.setRing rn { r with stalled := true, ringFull := true, waiting := r.waiting ++ [e] }
  let s' := if r.stalled then s' else s'.log { status := Status.ringFull, unit := 0x10, unitIndex := r.home
                                               partition := some r.partition, info := w64 rn } (w64 rn)
  if !r.ringFull && r.intEnable then s'.msix r.fn r.vector else s'

/-- A formed entry reaches its ring: into the ring, the overflow, or the wait behind a full overflow (R204, R207,
R208). While the engine of the ring's home quadrant is out of service, entries wait (R19). -/
def State.ringPush (s : State) (rn : Nat) (e : Entry) : State :=
  match s.ring? rn with
  | none => s.retireEntry e
  | some r =>
    if s.unitDown (.transport r.home) then s.setRing rn { r with waiting := r.waiting ++ [e] }
    else if !r.waiting.isEmpty || (r.full && 256 ≤ r.overflow.length) then s.ringStall rn r e
    else if r.full || !r.overflow.isEmpty then
      if 256 ≤ r.overflow.length then s.ringStall rn r e
      else (s.setRing rn { r with overflow := r.overflow ++ [e] }).retireEntry e
    else (s.ringWrite rn e).retireEntry e

/-- Move overflow entries into freed ring space, oldest first, then waiting entries into the overflow (R207, R209):
one entry per unit of `fuel`. -/
def State.ringDrain (s : State) (rn : Nat) : Nat → State
  | 0 => s
  | n + 1 =>
    match s.ring? rn with
    | none => s
    | some r =>
      match r.overflow, r.waiting with
      | e :: rest, _ =>
        if !r.full then ((s.setRing rn { r with overflow := rest }).ringWrite rn e).ringDrain rn n
        else match r.waiting with
          | w :: more =>
            if r.overflow.length < 256 then
              ((s.setRing rn { r with overflow := r.overflow ++ [w], waiting := more
                                      stalled := !more.isEmpty }).retireEntry w).ringDrain rn n
            else s
          | [] => s
      | [], w :: more =>
        ((s.setRing rn { r with overflow := [w], waiting := more, stalled := !more.isEmpty }).retireEntry w).ringDrain
          rn n
      | [], [] => s

/-- The most moves one drain of a ring can make. -/
def Ring.moves (r : Ring) : Nat := r.overflow.length + 2 * r.waiting.length + 1

/-! ## Forming the entry -/

/-- Issue the zero-length read of an entry that waits for it, where none is outstanding and a tag is free; its Relaxed
Ordering is clear (R205). -/
def State.flushRead (s : State) (f : Flush) : State :=
  let u : ReadUse := .flush f.entry.queue f.entry.descIndex
  if (s.host f.port).reads.any fun r => r.purpose == u then s
  else (s.hostRead f.port { fn := f.requester, pasid := f.pasid, addr := f.addr, purpose := u, translated := f.translated
                            relaxed := false }).1

/-- Issue the flush reads that have waited for a tag. -/
def State.flushReads (s : State) : State := (s.rings.flatMap fun r => r.2.flushing).foldl State.flushRead s

/-- Form the entry of an ended descriptor (R204, R205, R245): suppressed and OK, it is retired without one; with
host writes on the other port, a flush read goes first unless `skipFlush` (R436). -/
def State.formEntry (s : State) (q : Nat) (i : W32) (skipFlush : Bool := false) : State :=
  match s.queue? q with
  | none => s
  | some x =>
    match x.held.find? fun d => d.index == i with
    | none => s
    | some d =>
      if d.suppress && d.status == Status.ok then s.retire q i
      else
        match s.ring? x.ring with
        | none => s.retire q i
        | some r =>
          match d.lastHostWrite with
          | some (port, addr, translated) =>
            if port != fnPort r.fn && !skipFlush then
              let c := s.ctx x.context
              let f : Flush := {
                entry := entryOf q x d, port, requester := c.requester, pasid := c.pasid, addr, translated }
              (s.setRing x.ring { r with flushing := r.flushing ++ [f] }).flushRead f
            else s.ringPush x.ring (entryOf q x d)
          | none => s.ringPush x.ring (entryOf q x d)

/-- The descriptor's entry has been formed and waits (R205, R208). -/
def State.entryFormed (s : State) (q : Nat) (i : W32) : Bool :=
  match s.queue? q with
  | none => false
  | some x =>
    match s.ring? x.ring with
    | none => false
    | some r => ((r.flushing.map fun f => f.entry) ++ r.waiting).any fun e => e.queue == q && e.descIndex == i && e.owned

/-! ## The queue's visible state (R186, R201, R202, R214) -/

/-- Recompute the state a queue shows from its drain, its suspension, its error and its weight. -/
def settle (q : Queue) : Queue :=
  { q with state :=
      if q.state == .draining then .draining
      else if q.suspend then .suspended
      else if q.errorStatus != 0 then .error
      else if q.weight == 0 then .paused
      else .active }

/-- The queue takes descriptors: ACTIVE or PAUSED (R181, R201, R202). -/
def Queue.accepts (q : Queue) : Bool := q.state == .active || q.state == .paused

/-- Put a queue into ERROR and write the one entry of R185, whose tag is zero and whose generation is the context's at the
fetch (R203). -/
def State.queueError (s : State) (q : Nat) (status : Nat) : State :=
  match s.queue? q with
  | none => s
  | some x =>
    let s := s.setQueue q (settle { x with errorStatus := status, refetchAt := none, refetches := 0, kept := [] })
    s.ringPush x.ring { queue := q, descIndex := x.consumer, context := x.context, contextGen := (s.ctx x.context).gen
                        status := status, owned := false }

/-- A ring's home quadrant writes its entries while some descriptor waits; the queue shows ring_stalled (R208). -/
def State.ringStalled (s : State) (q : Nat) (x : Queue) : Bool :=
  match s.ring? x.ring with
  | some r => r.waiting.any fun e => e.queue == q && e.owned
  | none => false

end Sys2Proof.Machine
end

