-- ==== Sys2Proof/Machine/Work.lean ====
section
/-!
DEFINITION. Machine/Work.lean: what a descriptor or a kernel step in flight holds while it runs, and how it is cut
off: its messages in the sender tables, its tiles, and the count of bytes it has moved (R63, R164, R245, R414).
-/

namespace Sys2Proof.Machine

/-! ## Sender entries -/

/-- Bytes that a bitmap shows verified of a message of `n` bytes (R245). -/
def bitmapBytes (n : Nat) (bm : W64) : Nat :=
  ((List.range (packetsOf n)).map fun k => if bm.getLsbD k then packetLen n k else 0).sum

/-- Release a message's count in the congestion entry of its destination (R271). -/
def congestRelease (l : List Congest) (dest : Nat) : List Congest :=
  l.map fun c => if c.dest == dest then { c with outstanding := c.outstanding - 1 } else c

/-- The message has begun: it counts as outstanding to its destination (R271). -/
def Sender.begun (x : Sender) : Bool := x.state != .ready && x.state != .waitResv

/-- Free a sender entry, its response reservation and its count (R246, R261, R271). -/
def State.freeSender (s : State) (q m : Nat) : State :=
  match s.sender? q m with
  | none => s
  | some x => s.modQuad q fun d => { d with
      senders := tblErase d.senders m
      reserved := d.reserved - x.reserved
      congestion := if x.begun then congestRelease d.congestion x.dst else d.congestion }

/-- Free every sender entry that a test picks, in one quadrant. -/
def State.freeSendersIn (s : State) (q : Nat) (pick : Sender → Bool) : State :=
  (((s.quad q).senders.filter fun r => pick r.2).map fun r => r.1).foldl (fun s m => s.freeSender q m) s

/-- Free every sender entry that a test picks, in all quadrants. -/
def State.freeSenders (s : State) (pick : Sender → Bool) : State :=
  [0, 1, 2, 3].foldl (fun s q => s.freeSendersIn q pick) s

/-- The senders of every quadrant. -/
def State.allSenders (s : State) : List Sender := [0, 1, 2, 3].flatMap fun q => (s.quad q).senders.map fun r => r.2

/-- Bytes shown verified of the messages an owner has outstanding. -/
def State.shownBytes (s : State) (o : MsgOwner) : Nat :=
  ((s.allSenders.filter fun x => x.owner == o).map fun x => bitmapBytes x.length x.bitmap).sum

/-! ## Tiles -/

/-- Drop the tiles of an owner; data of reads outstanding for them is discarded when it arrives. -/
def State.dropTiles (s : State) (o : TileOwner) : State :=
  { s with tiles := s.tiles.filter fun r => r.2.owner != o }

/-- Tiles leave their fault entries, walks and waiting misses (R165); a miss of nobody else is dropped. -/
def State.forgetTiles (s : State) (ids : List Nat) : State :=
  let leave := fun (l : List Nat) => l.filter fun t => !ids.contains t
  [0, 1].foldl (fun s p => s.modHost p fun h => { h with
    faults := h.faults.map fun f => { f with tiles := leave f.tiles }
    walks := h.walks.map fun w => { w with tiles := leave w.tiles }
    misses := (h.misses.filter fun w => w.tiles.isEmpty || !(leave w.tiles).isEmpty).map fun w =>
      { w with tiles := leave w.tiles } }) s

/-- Drop an owner's tiles and take them off the fault entries and walks they wait on. -/
def State.endTiles (s : State) (o : TileOwner) : State :=
  let ids := (s.tiles.filter fun r => r.2.owner == o).map fun r => r.1
  if ids.isEmpty then s else (s.dropTiles o).forgetTiles ids

/-! ## Attach requests of an owner -/

/-- The owner an attach request works for, where it is local work. -/
def attOwner : AttUse → Option TileOwner
  | .fetch o _ => some o
  | .store o _ => some o
  | .commit _ _ => none
  | .readFor _ _ _ => none
  | .readInto _ _ => none

/-- Forget the attach requests of an owner that have not been sent; sent ones answer to nobody. -/
def State.endAttach (s : State) (o : TileOwner) : State :=
  { s with accels := tblMap s.accels fun _ a => { a with
      requests := a.requests.filter fun r => !(attOwner r.purpose == some o && r.sentClk == none) } }

/-! ## Cutting off -/

/-- End a descriptor at once: no further message or tile of it, no waiting for replies (R63, R164, R262, R414). -/
def State.cutDesc (s : State) (q : Nat) (i : W32) (status detail : Nat) : State :=
  match s.desc? q i with
  | none => s
  | some d =>
    if d.phase == .completed then s
    else
      let n := s.shownBytes (.desc q i)
      let s := s.modDesc q i fun d => { d with bytesDone := d.bytesDone + n }
      let s := s.freeSenders fun x => x.owner == .desc q i
      ((s.endTiles (.desc q i)).endAttach (.desc q i)).endDesc q i status detail

/-- A length or count, b[31:0] (R379). -/
def Step.count (t : Step) : Nat := t.b.toNat % 2 ^ 32

/-- Every earlier descriptor of the queue has begun its work (R197). -/
def Queue.begunBefore (x : Queue) (i : W32) : Bool :=
  (x.held.takeWhile fun d => d.index != i).all fun d => d.phase == .running || d.phase == .completed

/-- Change a flight of a running kernel. -/
def State.modFlight (s : State) (k slot : Nat) (g : Flight → Flight) : State :=
  s.modRun k fun r => { r with flights := r.flights.map fun f => if f.slot == slot then g f else f }

/-- The flight of a slot. -/
def State.flight? (s : State) (k slot : Nat) : Option Flight :=
  match (s.seq k).running with
  | some r => r.flights.find? fun f => f.slot == slot
  | none => none

/-- A flight's work has ended with a status; the first end stands. -/
def State.endFlight (s : State) (k slot : Nat) (status detail : Nat) : State :=
  s.modFlight k slot fun f => if f.ended.isSome then f else { f with ended := some (status, detail), toSend := [] }

/-- End a flight at once, cancelling its work (R374). -/
def State.cutFlight (s : State) (k slot : Nat) (status detail : Nat) : State :=
  let s := s.freeSenders fun x => x.owner == .step k slot
  ((s.endTiles (.step k slot)).endAttach (.step k slot)).endFlight k slot status detail

/-- Change the running instance of a schedule. -/
def State.modInstance (s : State) (p : Nat) (id : W32) (g : Instance → Instance) : State :=
  s.modPart p fun x => { x with
    schedules := x.schedules.map fun c => if c.header.id == id then { c with running := c.running.map g } else c }

/-- An admitted schedule of a partition. -/
def State.schedule? (s : State) (p : Nat) (id : W32) : Option Schedule :=
  (s.part p).schedules.find? fun c => c.header.id == id

/-- The running instance of a schedule. -/
def State.instance? (s : State) (p : Nat) (id : W32) : Option Instance :=
  match s.schedule? p id with
  | some c => c.running
  | none => none

/-- End the work of an owner of tiles with a failure (R164, R414). -/
def State.failOwner (s : State) (o : TileOwner) (status : Nat) (detail : Nat := 0) : State :=
  match o with
  | .desc q i => s.cutDesc q i status detail
  | .step k slot => s.cutFlight k slot status detail
  | .coll p id => (s.endTiles (.coll p id)).modInstance p id fun x => { x with failed := if x.failed = 0 then status else x.failed }

/-- Bytes the owner has fetched from a host or an accelerator. -/
def State.fetchedOf (s : State) (o : TileOwner) : List (Nat × List Byte) :=
  match o with
  | .desc q i => match s.desc? q i with
    | some d => d.fetched
    | none => []
  | .step k slot => match s.flight? k slot with
    | some f => f.fetched
    | none => []
  | .coll p id => match s.instance? p id with
    | some x => x.fetched
    | none => []

/-- Keep fetched bytes with their owner. -/
def State.addFetched (s : State) (o : TileOwner) (off : Nat) (b : List Byte) : State :=
  match o with
  | .desc q i => s.modDesc q i fun d => { d with fetched := (off, b) :: d.fetched }
  | .step k slot => s.modFlight k slot fun f => { f with fetched := (off, b) :: f.fetched }
  | .coll p id => s.modInstance p id fun x => { x with fetched := (off, b) :: x.fetched }

/-- One byte of the fetched chunks. -/
def chunkByte (l : List (Nat × List Byte)) (off : Nat) : Option Byte :=
  match l with
  | [] => none
  | (o, b) :: r => if o ≤ off ∧ off < o + b.length then b[off - o]? else chunkByte r off

/-- Bytes [off, off + n) of the fetched chunks, where all are there. -/
def chunkBytes (l : List (Nat × List Byte)) (off : Nat) : Nat → Option (List Byte)
  | 0 => some []
  | n + 1 =>
    match chunkByte l off, chunkBytes l (off + 1) n with
    | some b, some r => some (b :: r)
    | _, _ => none

end Sys2Proof.Machine
end

