-- ==== Sys2Proof/Machine/Translate.lean ====
section
/-!
DEFINITION. Machine/Translate.lean: context addresses, tiles and their pre-translations, the ATC, the walkers, page
requests and the host requests of tiles (R142 to R171). Pages are numbered by address ÷ 4 KiB.
-/

namespace Sys2Proof.Machine

/-! ## Context addresses (R144, R147) -/

/-- The segment a context address names, as it stands now (R148). -/
def State.segOf (s : State) (c : Nat) (a : W64) : Segment := tblGetD (s.ctx c).segments (caSegment a) {}

/-- The four checks of R147 on a range of a segment, in order: the status of the first that fails. -/
def State.segCheck (s : State) (g : Segment) (c : Nat) (gen : BitVec 8) (p : Nat) (a : W64) (len : Nat) (write : Bool) :
    Nat :=
  if !(s.ctxLive c gen) || (s.ctx c).partition != p then Status.badObject
  else if g.kind = 0 then Status.segmentInvalid
  else if g.length.toNat < caOffset a + len then Status.segmentInvalid
  else if !(if write then g.write else g.read) then Status.segmentDenied
  else Status.ok

/-- The checks of R147 under the segment entry that stands now. -/
def State.rangeCheck (s : State) (c : Nat) (gen : BitVec 8) (p : Nat) (a : W64) (len : Nat) (write : Bool) : Nat :=
  s.segCheck (s.segOf c a) c gen p a len write

/-- Where a context address points under a segment entry: a host address or a partition-space offset. -/
def segTarget (g : Segment) (a : W64) : Nat :=
  if g.kind = 1 then (g.base.toNat + caOffset a) % 2 ^ 64 else g.base.toNat + caOffset a

/-! ## The ATC (R155) -/

/-- The entry covers a page. -/
def AtcEntry.covers (e : AtcEntry) (page : Nat) : Bool := e.page ≤ page && page < e.page + e.size / 4096

/-- The ATC entry for a page of a requester and PASID. -/
def HostPort.atcFind (h : HostPort) (rq : Nat) (pasid : Option Nat) (page : Nat) : Option AtcEntry :=
  h.atc.find? fun e => e.requester == rq && e.pasid == pasid && e.covers page

/-- What the ATC says of a page: a translation with the permission, one without it, or none. -/
inductive Look where
  | hit
  | fault
  | miss
  deriving DecidableEq, Repr

/-- Look a page up for a read or a write. -/
def HostPort.look (h : HostPort) (rq : Nat) (pasid : Option Nat) (page : Nat) (write : Bool) : Look :=
  match h.atcFind rq pasid page with
  | some e => if (if write then e.write else e.read) then .hit else .fault
  | none => .miss

/-- A used entry moves to the front of the order of use. -/
def HostPort.touch (h : HostPort) (rq : Nat) (pasid : Option Nat) (page : Nat) : HostPort :=
  match h.atcFind rq pasid page with
  | some e => { h with atc := e :: h.atc.filter fun x => x != e }
  | none => h

/-- The entry size, in pages, for a translation of `n` pages: 1 GiB, 2 MiB or 4 KiB, the largest that fits. -/
def atcChunk (n : Nat) : Nat := if 262144 ≤ n then 262144 else if 512 ≤ n then 512 else 1

/-- The entries of one translated page (R155). -/
def atcEntries (rq : Nat) (pasid : Option Nat) (r : PageResult) : List AtcEntry :=
  let n := r.size / 4096
  let c := atcChunk n
  (List.range (n / c)).map fun i =>
    { requester := rq, pasid, page := r.page + i * c, size := c * 4096, read := r.read, write := r.write
      global := r.global, target := r.target + i * c }

/-- The translated address ÷ 4 KiB of a page that the ATC holds. -/
def HostPort.targetOf (h : HostPort) (rq : Nat) (pasid : Option Nat) (page : Nat) : Nat :=
  match h.atcFind rq pasid page with
  | some e => e.target + (page - e.page)
  | none => page

/-- Enter translations, replacing what they cover and the least recently used beyond 16,384. -/
def HostPort.fill (h : HostPort) (rq : Nat) (pasid : Option Nat) (l : List AtcEntry) : HostPort :=
  let old := h.atc.filter fun e =>
    !(e.requester == rq && e.pasid == pasid
      && l.any fun n => overlaps n.page (n.size / 4096) e.page (e.size / 4096))
  let met := fun (f : Nat × Option Nat × Nat) => f.1 == rq && f.2.1 == pasid && l.any fun n => n.covers f.2.2
  { h with atc := (l ++ old).take 16384, failed := h.failed.filter fun f => !met f }

/-! ## Tiles (R150, R151) -/

/-- Piece `i` of a host range cut at 64 KiB boundaries: its offset in the range and its length. -/
def tilePiece (addr len i : Nat) : Option (Nat × Nat) :=
  let lo := max addr ((addr / 65536 + i) * 65536)
  let hi := min (addr + len) ((addr / 65536 + i + 1) * 65536)
  if lo < hi then some (lo - addr, hi - lo) else none

/-- The pages a host range touches. -/
def pagesOf (addr len : Nat) : List Nat := rangePages addr len

/-- The tile holds a pre-translation of a page. -/
def Tile.has (t : Tile) (p : Nat) : Bool := t.ready.any fun r => r.1 == p

/-- The translated address ÷ 4 KiB of a page under the tile's pre-translations. -/
def Tile.target (t : Tile) (p : Nat) : Option Nat := (t.ready.find? fun r => r.1 == p).map fun r => r.2

/-- Bytes of a page that a write tile has written. -/
def Tile.wroteIn (t : Tile) (p : Nat) : Nat :=
  (t.wrote.map fun w => min (p * 4096 + 4096) (t.addr + w.1 + w.2) - max (p * 4096) (t.addr + w.1)).sum

/-- Bytes of a page that the tile covers. -/
def Tile.bytesIn (t : Tile) (p : Nat) : Nat := min (p * 4096 + 4096) (t.addr + t.length) - max (p * 4096) t.addr

/-- The pages of the tile's bytes that are still to be moved. -/
def Tile.remaining (t : Tile) : List Nat :=
  if t.write then (pagesOf t.addr t.length).filter fun p => t.wroteIn p < t.bytesIn p
  else ((t.redo.flatMap fun r => pagesOf (t.addr + r.1) r.2) ++ pagesOf (t.addr + t.issued) (t.length - t.issued)).eraseDups

/-- Pages a tile still needs a translation for. -/
def Tile.missing (t : Tile) : List Nat := t.remaining.filter fun p => !t.has p

/-- The function's requests are translated (R158). -/
def State.translated (s : State) (requester : Nat) : Bool := (s.func requester).atsEnable

/-- A context's request that must carry a PASID cannot be made while the PF's PASID Enable is 0 (R419). -/
def State.pasidBlocked (s : State) (port : Nat) (pasid : Option Nat) : Bool :=
  pasid.isSome && !(s.func (port * 256)).pasidEnable

/-- The tile that an outstanding read works for. -/
def HostRead.tile (r : HostRead) : Nat :=
  match r.purpose with
  | .tile i _ _ => i
  | .slots _ _ _ => 0
  | .flush _ _ => 0
  | .responder _ _ _ => 0
  | .probe _ => 0
  | .discard => 0

/-- The next tile number: above every tile and every read still out. -/
def State.nextTile (s : State) : Nat :=
  let out := [0, 1].flatMap fun p => (s.host p).reads.map fun (r : HostRead) => r.tile % 2 ^ 32 + 1
  ((s.tiles.map fun (r : Nat × Tile) => r.1 + 1) ++ out).foldl max 0

/-- Change a tile. -/
def State.modTile (s : State) (id : Nat) (g : Tile → Tile) : State :=
  match tblGet s.tiles id with
  | some t => { s with tiles := tblSet s.tiles id (g t) }
  | none => s

/-! ## Walkers (R156) -/

/-- Requests a port has outstanding. -/
def State.walksOf (s : State) (p : Nat) : Nat := (s.host p).walks.length

/-- A walker is free for a port: 8 of its own, and 16 that either may take. -/
def State.walkerFree (s : State) (p : Nat) : Bool :=
  s.walksOf p < 8 || (s.walksOf 0 - 8) + (s.walksOf 1 - 8) < 16

/-- Issue one ATS Translation Request. -/
def State.walk (s : State) (p : Nat) (w : Walk) : State :=
  let id := ((s.host p).walks.map fun w => w.id + 1).foldl max 0
  let w := { w with id, since := [], trusted := s.inRun w.requester }
  let s := s.modHost p fun h => { h with walks := h.walks ++ [w] }
  s.emit (.translation p w)

/-- The port whose miss is served next: of those that have a walker, the one whose oldest miss is older. -/
def State.nextMiss (s : State) : Option Nat :=
  let head := fun p => if s.walkerFree p then (s.host p).misses.head?.map fun w => w.missClk else none
  match head 0, head 1 with
  | some a, some b => some (if b < a then 1 else 0)
  | some _, none => some 0
  | none, some _ => some 1
  | none, none => none

/-- Serve misses while walkers are free; `fuel` bounds them. -/
def State.serveMisses (s : State) : Nat → State
  | 0 => s
  | n + 1 =>
    match s.nextMiss with
    | none => s
    | some p =>
      match (s.host p).misses with
      | [] => s
      | w :: r => ((s.modHost p fun h => { h with misses := r }).walk p w).serveMisses n

/-- Serve the waiting misses, the oldest first (R156). -/
def State.issueWalks (s : State) : State := s.serveMisses ((s.host 0).misses.length + (s.host 1).misses.length)

/-- From the first to the last page of a list: a request covers consecutive pages (R156). -/
def pageSpan (l : List Nat) : List Nat :=
  match l with
  | [] => []
  | p :: r => List.range' (r.foldl min p) (r.foldl max p - r.foldl min p + 1)

/-- Pages cut into requests: those of one 64 KiB block, from the first to the last (R156). -/
def pageBlocks (l : List Nat) : List (List Nat) :=
  (l.map fun p => p / 16).eraseDups.map fun b => pageSpan (l.filter fun p => p / 16 == b)

/-- Pages miss: one request for each block waits for a walker. -/
def State.missPages (s : State) (p rq : Nat) (pasid : Option Nat) (pages : List Nat) (write : Bool) (tiles : List Nat) :
    State :=
  let l : List Walk := (pageBlocks pages).map fun b => { requester := rq, pasid, pages := b, write, tiles, missClk := s.clk }
  (s.modHost p fun h => { h with misses := h.misses ++ l }).issueWalks

/-- Take what the ATC already holds of a tile's missing pages as pre-translations (R151). -/
def State.lookTile (s : State) (id : Nat) : State :=
  match tblGet s.tiles id with
  | none => s
  | some t =>
    let h := s.host t.port
    let hits := t.missing.filter fun p => h.look t.requester t.pasid p t.write == .hit
    let s := s.modHost t.port fun h => hits.foldl (fun h p => h.touch t.requester t.pasid p) h
    s.modTile id fun t => { t with ready := t.ready ++ hits.map fun p => (p, h.targetOf t.requester t.pasid p) }

/-- One waiting tile that misses asks for a walker, with one request for all its pages (R156). -/
def State.walkTile (s : State) (id : Nat) : State :=
  match tblGet s.tiles id with
  | none => s
  | some t =>
    let h := s.host t.port
    if (t.state == .waiting || t.state == .cancelled) && s.translated t.requester && !t.missing.isEmpty
        && !((h.walks ++ h.misses).any fun w => w.tiles.contains id) then
      s.missPages t.port t.requester t.pasid t.missing t.write [id]
    else s

/-! ## Page requests (R160 to R165) -/

/-- Page requests a port has outstanding. -/
def HostPort.requestsOut (h : HostPort) : Nat := (h.groups.map fun g => g.pages.length).sum

/-- Join the open fault entries of pages; a write asks the entry for write access (R160). -/
def joinFaults (l : List FaultEntry) (pasid : Option Nat) (pages : List Nat) (write : Bool) (tiles : List Nat) :
    List FaultEntry :=
  l.map fun f =>
    if f.pasid == pasid && pages.contains f.page then
      { f with write := f.write || write, tiles := f.tiles ++ tiles }
    else f

/-- Send one Page Request Group, Last set on its final request (R161); none where the allocation or the group numbers
have no room. -/
def State.sendGroup (s : State) (p rq : Nat) (pasid : Option Nat) (l : List (Nat × Bool)) : Option (State × Nat) :=
  let h := s.host p
  match firstFree (fun i => !h.groups.any fun g => g.id == i) 512 0 with
  | none => none
  | some id =>
    if h.priAllocation < h.requestsOut + l.length then none
    else
      let g : Group := { id, requester := rq, pasid, pages := l.map fun r => r.1, sentClk := s.clk
                         trusted := s.inRun rq }
      let s := s.modHost p fun h => { h with groups := h.groups ++ [g] }
      some (s.emit (.pageRequests p g (l.zipIdx.map fun r => (r.1.1, r.1.2, r.2 + 1 == l.length))), id)

/-- Request the pages that have no open entry in one group, and join the others; nothing is sent where the table,
the allocation or the group numbers have no room, and the waiter keeps waiting (R160, R161). -/
def State.requestPages (s : State) (p rq : Nat) (pasid : Option Nat) (pages : List Nat) (write : Bool)
    (tiles : List Nat) : State :=
  let h := s.host p
  let fresh := pages.filter fun g => !h.faults.any fun f => f.pasid == pasid && f.page == g
  let join := fun (s : State) => s.modHost p fun h => { h with faults := joinFaults h.faults pasid pages write tiles }
  if fresh.isEmpty then join s
  else if 1024 < h.faults.length + fresh.length then s
  else
    match s.sendGroup p rq pasid (fresh.map fun g => (g, write)) with
    | none => s
    | some (s, id) => (join s).modHost p fun h => { h with
        faults := h.faults ++ fresh.map fun page => { pasid, page, write, group := id, requester := rq, tiles } }

/-- A doomed tile waits to end the owner (R164). -/
def State.ownerDoomed (s : State) (o : TileOwner) : Bool := s.tiles.any fun r => r.2.owner == o && r.2.state == .doomed

/-- The bytes of an owner's local copying that lie before its doomed tiles. -/
def State.soundLength (s : State) (o : TileOwner) (n : Nat) : Nat :=
  s.tiles.foldl (fun m r => if r.2.owner == o && r.2.state == .doomed then min m (r.2.offset - r.2.base) else m) n

/-- The bytes below an offset of a descriptor's or a step's messages have been moved: no message below it waits to
begin, and every packet below it is shown verified. -/
def State.movedBelow (s : State) (o : MsgOwner) (toSend : List (Nat × Nat)) (limit : Nat) : Bool :=
  !toSend.any (fun m => m.1 < limit) && (s.allSenders.filter fun x => x.owner == o).all fun x =>
    (List.range x.packets).all fun k =>
      limit < x.offset + k * 4096 + packetLen x.length k || x.bitmap.getLsbD k

/-- The tiles before a doomed one are done, and what they read has been moved (R152, R164). -/
def State.earlierDone (s : State) (t : Tile) : Bool :=
  let limit := t.offset - t.base
  !(s.tiles.any fun r => r.2.owner == t.owner && r.2.base == t.base && r.2.write == t.write && r.2.offset < t.offset)
    && match t.owner with
      | .desc q i => match s.queue? q, s.desc? q i with
        | some x, some d => x.bound != .none || s.movedBelow (.desc q i) d.toSend limit
        | _, _ => true
      | .step k slot => match s.flight? k slot with
        | some f => s.movedBelow (.step k slot) f.toSend limit
            && (!(f.step.op == 1 && f.step.sub == 0) || limit ≤ f.bytesDone)
        | none => true
      | .coll _ _ => true

/-- A doomed tile ends its descriptor or step once the tiles before it are done. -/
def State.reapTile (s : State) (id : Nat) : State :=
  match tblGet s.tiles id with
  | some t => if t.state == .doomed && s.earlierDone t then s.failOwner t.owner t.status else s
  | none => s

/-- Every doomed tile whose time has come ends its owner. -/
def State.reapTiles (s : State) : State :=
  ((s.tiles.filter fun r => r.2.state == .doomed).map fun r => r.1).foldl State.reapTile s

/-- Messages of an owner that begin at an offset or later are not begun. -/
def State.stopMessages (s : State) (o : TileOwner) (limit : Nat) : State :=
  match o with
  | .desc q i => s.modDesc q i fun d => { d with toSend := d.toSend.filter fun m => m.1 < limit }
  | .step k slot => s.modFlight k slot fun f => { f with toSend := f.toSend.filter fun m => m.1 < limit }
  | .coll _ _ => s

/-- A tile ends its owner's work with a status: it and the later tiles of its range move no byte, and the tiles before it
run and commit (R152, R164). -/
def State.doomTile (s : State) (id status : Nat) : State :=
  match tblGet s.tiles id with
  | none => s
  | some t =>
    let later := (s.tiles.filter fun r =>
      r.2.owner == t.owner && r.2.base == t.base && r.2.write == t.write && t.offset < r.2.offset).map fun r => r.1
    let s := ({ s with tiles := s.tiles.filter fun r => !later.contains r.1 }).forgetTiles (id :: later)
    ((s.stopMessages t.owner (t.offset - t.base)).modTile id fun t => { t with state := .doomed, status }).reapTile id

/-- A tile faults on its missing pages: it requests them where its segment and function allow it, and otherwise its work
ends (R161, R162, R164). In a segment without page requests the work ends with TRANSLATION_FAULT on a function whose
page requests are stopped too (DESIGN CHOICE, assumption log 72). -/
def State.faultTile (s : State) (id : Nat) : State :=
  match tblGet s.tiles id with
  | none => s
  | some t =>
    let f := s.func t.requester
    if !(t.pri && f.priEnable) then s.doomTile id Status.translationFault
    else if f.priStopped then s.doomTile id Status.pageRequestFailed
    else
      (s.modTile id fun t => { t with state := .faulted }).requestPages t.port t.requester t.pasid t.missing t.write
        [id]

/-- A page that still faulted after its response is requested once more (R162): those of one requester and PASID
together. -/
def State.repeatFaults (s : State) (p : Nat) : State :=
  match (s.host p).faults.find? fun f => f.again with
  | none => s
  | some f =>
    let mine := fun (x : FaultEntry) => x.again && x.requester == f.requester && x.pasid == f.pasid
    let l := (((s.host p).faults.filter mine).map fun x => (x.page, x.write)).take 16
    match s.sendGroup p f.requester f.pasid l with
    | none => s
    | some (s, id) =>
      let ask := fun (x : FaultEntry) =>
        if mine x && l.contains (x.page, x.write) then
          { x with again := false, answered := false, repeated := true, group := id } else x
      s.modHost p fun h => { h with faults := h.faults.map ask }

/-- Pages and tiles that could not be requested for want of room try again (R161). -/
def State.retryGroups (s : State) (p : Nat) : State :=
  let s := s.repeatFaults p
  let waiting := s.tiles.filter fun r =>
    r.2.port == p && r.2.state == .faulted && !((s.host p).faults.any fun f => f.tiles.contains r.1)
  (waiting.map fun r => r.1).foldl State.faultTile s

/-- A page of the tile has an ATC entry without the permission. -/
def State.tileFaults (s : State) (t : Tile) : Bool :=
  t.missing.any fun p => (s.host t.port).look t.requester t.pasid p t.write == .fault

/-- A page of the tile misses the ATC. -/
def State.tileMisses (s : State) (t : Tile) : Bool :=
  t.missing.any fun p => (s.host t.port).look t.requester t.pasid p t.write == .miss

/-- Translate a new or cancelled tile: pre-translations from the ATC, then a walk for what misses, or a fault (R151,
R156, R158). -/
def State.translateTile (s : State) (id : Nat) : State :=
  match tblGet s.tiles id with
  | none => s
  | some t =>
    if s.pasidBlocked t.port t.pasid then s.doomTile id Status.translationFault
    else if !s.translated t.requester then s
    else
      let s := s.lookTile id
      match tblGet s.tiles id with
      | none => s
      | some t => if s.tileFaults t && !s.tileMisses t then s.faultTile id else s.walkTile id

/-- A doomed tile of a range stands before an offset: no later tile is cut (R164). -/
def State.rangeDoomed (s : State) (o : TileOwner) (base off : Nat) (write : Bool) : Bool :=
  s.tiles.any fun r =>
    r.2.owner == o && r.2.base == base && r.2.write == write && r.2.state == .doomed && decide (r.2.offset < off)

/-- The owner's work has not ended. -/
def State.ownerRuns (s : State) (o : TileOwner) : Bool :=
  match o with
  | .desc q i => (s.desc? q i).any fun d => d.phase != .completed
  | .step k slot => (s.flight? k slot).any fun f => f.ended.isNone
  | .coll _ _ => true

/-- Cut piece `i` of a host range into a tile of an owner and translate it. -/
def State.addTile (s : State) (owner : TileOwner) (engine c : Nat) (g : Segment) (addr len : Nat) (write : Bool)
    (base i : Nat) : State :=
  match tilePiece addr len i with
  | none => s
  | some (off, n) =>
    if s.rangeDoomed owner base (base + off) write || !s.ownerRuns owner then s
    else
      let x := s.ctx c
      let id := s.nextTile
      let t : Tile := {
        owner, engine, context := c, contextGen := x.gen, requester := x.requester, port := x.port, pasid := x.pasid
        addr := addr + off, length := n, write, pri := g.pri, offset := base + off, total := len, base }
      { s with tiles := tblSet s.tiles id t }.translateTile id

/-- The first 16 tiles of a host range, at its fetch (R151). -/
def State.addTiles (s : State) (owner : TileOwner) (engine c : Nat) (g : Segment) (addr len : Nat) (write : Bool)
    (base : Nat := 0) : State :=
  (List.range 16).foldl (fun s i => s.addTile owner engine c g addr len write base i) s

/-! ## Host requests of a tile (R152, R169) -/

/-- Every page the tile still needs is translated, or its function translates nothing (R152, R158). -/
def State.tileReady (s : State) (t : Tile) : Bool := !s.translated t.requester || t.missing.isEmpty

/-- The next read request of a tile, by its offset in the tile: one to issue again, or the next in order; within one page
and the port's Max Read Request Size (R169, R413). -/
def Tile.nextRead (t : Tile) (limit : Nat) : Option (Nat × Nat) :=
  match t.redo with
  | r :: _ => some (r.1, min limit r.2)
  | [] =>
    if t.issued < t.length then
      some (t.issued, min limit (min (4096 - (t.addr + t.issued) % 4096) (t.length - t.issued)))
    else none

/-- The request at an offset has been issued. -/
def Tile.issuedOne (t : Tile) (len : Nat) : Tile :=
  match t.redo with
  | (off, n) :: r => { t with redo := if n ≤ len then r else (off + len, n - len) :: r }
  | [] => { t with issued := t.issued + len }

/-- Where the bytes at an offset of a tile stand for a host request, and whether that is a translated address; none
without the pre-translation (R152, R158). -/
def State.tileAddress (s : State) (t : Tile) (off : Nat) : Option (Nat × Bool) :=
  let a := t.addr + off
  if s.translated t.requester then (t.target (a / 4096)).map fun p => (p * 4096 + a % 4096, true) else some (a, false)

/-- A tile in progress whose next page has no pre-translation waits for it again (R169). -/
def State.untranslated (s : State) (id : Nat) : State := (s.modTile id fun t => { t with state := .cancelled }).walkTile id

/-- Issue a started read tile's requests while tags last; `fuel` bounds them. -/
def State.pumpTile (s : State) (id : Nat) : Nat → State
  | 0 => s
  | n + 1 =>
    match tblGet s.tiles id with
    | none => s
    | some t =>
      match (if t.state == .started && !t.write then t.nextRead (s.host t.port).maxRead else none) with
      | none => s
      | some (off, len) =>
        match s.tileAddress t off with
        | none => s.untranslated id
        | some (a, translated) =>
          let r : HostRead := { fn := t.requester, pasid := t.pasid, addr := w64 a, length := len, translated
                                purpose := .tile id (t.offset + off) len
                                origin := if translated then some (t.engine, (t.addr + off) / 4096) else none }
          match s.hostRead t.port r with
          | (s, true) => (s.modTile id fun t => t.issuedOne len).pumpTile id n
          | (s, false) => s

/-- More requests than a tile can have to issue: 64 KiB in requests of 128 B, and as many again (R150, R413). -/
def tileFuel : Nat := 1024

/-- Issue what every started tile still has to issue. -/
def State.pumpTiles (s : State) : State := (s.tiles.map fun r => r.1).foldl (fun s id => s.pumpTile id tileFuel) s

/-- Start a tile: its requests go out, and the tile 16 places on is translated (R151, R152). -/
def State.startTile (s : State) (id : Nat) : State :=
  match tblGet s.tiles id with
  | none => s
  | some t =>
    if (t.state == .waiting || t.state == .cancelled) && s.tileReady t then
      let s := (s.modTile id fun t => { t with state := .started }).pumpTile id tileFuel
      let base := t.addr - (t.offset - t.base)
      let i := t.addr / 65536 - base / 65536 + 16
      let there := s.tiles.any fun r => r.2.owner == t.owner && r.2.write == t.write
        && r.2.base == t.base && r.2.addr / 65536 == base / 65536 + i
      let s := s.modTile id fun t => { t with opened := true }
      if !t.opened && !there then
        s.addTile t.owner t.engine t.context { pri := t.pri } base t.total t.write t.base i
      else s
    else s

/-- A read tile whose bytes have all arrived is done. -/
def State.finishTile (s : State) (id : Nat) : State :=
  match tblGet s.tiles id with
  | none => s
  | some t =>
    let out := (s.host t.port).reads.any fun r => match r.purpose with
      | .tile i _ _ => i == id
      | _ => false
    if !t.write && t.state != .doomed && t.issued == t.length && t.redo.isEmpty && !out then { s with tiles := tblErase s.tiles id } else s

/-- Data of a tile's read arrives (R152). -/
def State.tileData (s : State) (id off : Nat) (b : List Byte) : State :=
  match tblGet s.tiles id with
  | none => s
  | some t => ((s.addFetched t.owner off b).finishTile id).pumpTiles

/-- The started write tile of an owner that covers an offset of its range. -/
def State.writeTile? (s : State) (o : TileOwner) (off : Nat) : Option (Nat × Tile) :=
  s.tiles.find? fun r => r.2.owner == o && r.2.write && r.2.offset ≤ off && off < r.2.offset + r.2.length

/-- How a commit into local memory ends. -/
inductive Commit where
  | done (s : State)
  | wait (s : State)
  | fail (s : State) (status : Nat)

/-- A part of a write tile is written; the tile ends with its last byte. -/
def State.tileWrote (s : State) (id off n : Nat) : State :=
  match tblGet s.tiles id with
  | none => s
  | some t =>
    if t.length ≤ t.issued + n then { s with tiles := tblErase s.tiles id }
    else s.modTile id fun t => { t with issued := t.issued + n, wrote := t.wrote ++ [(off, n)] }

/-- The last host write of a descriptor, which its flush read targets (R205). -/
def State.noteWrite (s : State) (o : TileOwner) (port : Nat) (a : W64) (translated : Bool) : State :=
  match o with
  | .desc q i => s.modDesc q i fun d => { d with lastHostWrite := some (port, a, translated) }
  | .step _ _ => s
  | .coll _ _ => s

/-- Write bytes to host memory through an owner's tiles: every tile they touch must have started (R152), and the
port's buffers must have room (R435). Bytes are cut at tile boundaries, and at pages where they go to translated
addresses; `fuel` bounds the pieces. -/
def State.hostCommit (s : State) (o : TileOwner) (off : Nat) (b : List Byte) : Nat → Commit
  | 0 => .done s
  | n + 1 =>
    if b.isEmpty then .done s
    else
      match s.writeTile? o off with
      | none => .wait s
      | some (id, t) =>
        if t.state != .started || s.hostBlocked t.port b.length then .wait s
        else
          match s.tileAddress t (off - t.offset) with
          | none => .wait (s.untranslated id)
          | some (a, translated) =>
            let here := b.take (min (t.offset + t.length - off) (if translated then 4096 - a % 4096 else 65536))
            match (((s.hostSend t.port
                { fn := t.requester, pasid := t.pasid, addr := w64 a, bytes := here, translated, owner := some o
                }).noteWrite o t.port (w64 a) translated).tileWrote id (off - t.offset) here.length).hostCommit o
                  (off + here.length) (b.drop here.length) n with
            | .done s => .done s
            | .wait _ => .wait s
            | .fail s st => .fail s st

end Sys2Proof.Machine
end

