-- ==== Sys2Proof/Machine/Wire.lean ====
section
/-!
DEFINITION. Machine/Wire.lean: a native packet on the wire: the bits of its header, the nonce, the encryption of its
payload and the tag of its trailer (R221, R222, R225, R485, R486).
-/

namespace Sys2Proof.Machine

/-- A value in the bits from `lo` upward, of a field `w` bits wide. -/
def bitField (lo w v : Nat) : Nat := v % 2 ^ w * 2 ^ lo

end Sys2Proof.Machine

namespace Sys2Proof

open Sys2Proof.Machine

/-- The flags of a header (bits [123:116]). -/
def PktFlags.code (f : PktFlags) : Nat :=
  bitField 7 1 (b2n f.last) + bitField 6 1 (b2n f.flagFinal) + bitField 5 1 (b2n f.retransmit) + bitField 4 1 (b2n f.ackNow)
    + bitField 3 1 (b2n f.noRecord) + bitField 2 1 (b2n f.reissue)

/-- The opcode-specific area, from header bit 320 upward (R222). -/
def Packet.specific (p : Packet) : Nat :=
  let x := p.spec
  let op := p.route.opcode
  if isRequest op then
    bitField 128 64 x.address.toNat + bitField 96 32 x.regionKey.toNat
      + (if op = opReadReq then bitField 0 64 x.wantMask.toNat else 0)
  else if op = opAck ∨ op = opSack ∨ op = opNak then
    bitField 128 64 x.result.toNat + bitField 64 64 x.bitmap.toNat + bitField 48 16 x.status
      + bitField 32 16 x.retryAfter + bitField 0 32 x.echo.toNat
  else if op = opColl then
    bitField 128 64 x.bufferOffset.toNat + bitField 104 24 x.job + bitField 72 32 x.schedule.toNat + bitField 56 16 x.step
      + bitField 40 16 x.rank
  else if op = opHeartbeat then bitField 104 24 x.job + bitField 40 16 x.rank
  else if op = opBeacon then bitField 104 24 x.job + bitField 40 16 x.rank + bitField 24 16 x.reason
  else 0

/-- The 64-B header as a number: every reserved bit is 0 (R221). -/
def Packet.headerNat (p : Packet) : Nat :=
  bitField 320 192 p.specific + bitField 288 32 p.issue.toNat + bitField 256 32 p.send.toNat + bitField 224 32 p.key.seq.toNat
    + bitField 176 48 p.route.txCounter.toNat + bitField 174 2 p.route.txQ + bitField 172 2 p.route.landQ
    + bitField 170 2 p.route.replyQ + bitField 162 8 p.route.keyGen + bitField 143 19 p.msgLength + bitField 137 6 p.pktIndex
    + bitField 124 13 p.payloadLen + bitField 116 8 p.flags.code + bitField 104 12 p.key.context + bitField 96 8 p.key.gen
    + bitField 80 16 p.key.src + bitField 64 16 p.route.dst + bitField 60 4 p.key.partition + bitField 52 8 p.route.opcode
    + bitField 48 4 p.route.version + bitField 45 3 p.route.tc + bitField 43 2 p.route.cls + bitField 42 1 (b2n p.route.epoch)
    + bitField 25 7 p.hop.hopCount + bitField 17 8 p.hop.deflections + bitField 16 1 (b2n p.hop.congMark)

/-- The header's bytes: bytes 0 to 3 are the hop fields (R3, R221). -/
def Packet.header (p : Packet) : List Byte := leBytes 64 p.headerNat

/-- The 96-bit nonce (R225). -/
def Packet.nonce (p : Packet) : List Byte :=
  leBytes 12 (bitField 80 16 p.key.src + bitField 78 2 p.route.txQ + bitField 0 48 p.route.txCounter.toNat)

/-- The ciphertext of the payload under a key. -/
def Packet.cipher (p : Packet) (key : List Byte) : List Byte := gcmCipher key p.nonce p.payload

/-- The tag over header bytes 4 to 63 and the ciphertext (R225). -/
def Packet.tag (p : Packet) (key : List Byte) : List Byte := gcmTag key p.nonce (p.header.drop 4) (p.cipher key)

/-- The packet with its trailer under a key. -/
def Packet.seal (p : Packet) (key : List Byte) : Packet := { p with trailer := p.tag key }

/-- The packet as it stands on the wire: header, ciphertext, trailer (R221). -/
def Packet.wire (p : Packet) (key : List Byte) : List Byte := p.header ++ p.cipher key ++ p.trailer

/-- Wire bytes of a packet: header, payload and trailer (R221). -/
def Packet.size (p : Packet) : Nat := 64 + p.payloadLen + 16

end Sys2Proof

namespace Sys2Proof.Machine

/-! ## The attach link (R305, R306, R319) -/

/-- The 32-B header of an attach packet (R319). -/
def attHeader (kind status tag length partition address : Nat) : List Byte :=
  leBytes 32 (bitField 216 40 address + bitField 212 4 partition + bitField 192 13 length + bitField 176 16 tag
    + bitField 160 16 status + bitField 0 8 kind)

/-- The header of a MEM_WRITE or MEM_READ. -/
def AttReq.header (r : AttReq) : List Byte :=
  attHeader (if r.write then 0x10 else 0x11) 0 r.tag (if r.write then r.data.length else r.length) r.partition r.offset

/-- A RELAY_DOWN: the attach header, then the native header and payload without a trailer (R319, R325). -/
def relayDown (a : Nat) (p : Packet) : Out :=
  .attach a (attHeader 0x02 0 0 (64 + p.payload.length) 0 0) (p.header ++ p.payload)

/-- A key of an attach session: KMAC256 from the shared secret over its label (R305). -/
def attachKey (secret : List Byte) (a : Nat) (gen : BitVec 8) (upstream : Bool) : List Byte :=
  kmac256 secret (Config.attachLabel a gen upstream) Config.attachCustom 32

/-- A data flit of an attach link opened under the upstream key: the flit header in clear and the units (R306). -/
def openFlit (key : List Byte) (count : Nat) (l : List Byte) : Option (List Byte) :=
  let nonce := leBytes 12 (bitField 95 1 1 + bitField 0 64 count)
  if slice l 1028 16 == gcmTag key nonce (slice l 0 4) (slice l 4 1024) then
    some (slice l 0 4 ++ gcmCipher key nonce (slice l 4 1024))
  else none

/-- The fabric key of a partition at a generation, or its job's collective key (R486). -/
def State.sealKey (s : State) (p : Nat) (job : Option Nat) (gen : Nat) : List Byte :=
  match job with
  | none => workKey (s.part p).root p 1 gen 0 32
  | some j => workKey (s.part p).root p 3 gen j 32

/-- The job whose key opens a packet (R225). -/
def jobOf (pkt : Packet) : Option Nat := if pkt.route.cls = 3 then some pkt.spec.job else none

/-- The key generations a packet is sealed under: the job's for class 3, the partition's otherwise (R225). -/
def State.keysOf (s : State) (p : Nat) (job : Option Nat) : Option KeyGens :=
  if !(s.part p).keyed then none
  else
    match job with
    | none => some (s.part p).fabric
    | some j => match tblGet (s.part p).jobs j with
      | some x => x.key
      | none => none

/-- The generation among the current, the pending and the retained one whose low 8 bits a packet carries (R486, R492). -/
def KeyGens.named (k : KeyGens) (g : Nat) : Option Nat :=
  (k.current :: (k.pending.toList ++ k.retained.toList).map fun x => x.1).find? fun n => n % 256 == g

/-- The key that opens a packet, where the device holds it (R472, R492). -/
def State.openKey (s : State) (pkt : Packet) : Option (List Byte) :=
  match s.keysOf pkt.key.partition (jobOf pkt) with
  | some k => (k.named pkt.route.keyGen).map fun g => s.sealKey pkt.key.partition (jobOf pkt) g
  | none => none

/-- The device holds a key of the packet's generation. -/
def State.opens (s : State) (pkt : Packet) : Bool := (s.openKey pkt).isSome

/-- A trailer is the tag of a packet under the key that opens it (R225). -/
def State.tagOk (s : State) (pkt : Packet) (trailer : List Byte) : Bool :=
  match s.openKey pkt with
  | some k => trailer == pkt.tag k
  | none => false

end Sys2Proof.Machine
end

