-- ==== Sys2Proof/Machine/Access.lean ====
section
/-!
DEFINITION. Machine/Access.lean: accesses to a partition's space with their checks, bias and errors (R95, R105,
R106, R114, R115, R427), requests to attached accelerators (R319 to R321), and the two sides of a local transfer.
-/

namespace Sys2Proof.Machine

/-! ## Attached accelerators -/

/-- Accelerator `a` is attached and serves the partition (R115, R318). -/
def State.accelServes (s : State) (a p : Nat) : Bool :=
  let x := s.accel a
  x.state != .none && x.state != .configError && x.partitions.getLsbD p

/-- Write credits a MEM_WRITE of `n` bytes costs: 64 B units, its 32-B header included (R321). -/
def writeCost (n : Nat) : Nat := (32 + n + 63) / 64

/-- A request can be sent on the credits in hand. -/
def Accel.affords (x : Accel) (r : AttReq) : Bool :=
  x.state == .up && (if r.write then writeCost r.data.length ≤ x.writeCredits else 1 ≤ x.readCredits)

/-- Send the oldest waiting request of a kind, where its credit is there (R321). -/
def State.attSendOne (s : State) (a : Nat) (write : Bool) : State :=
  let x := s.accel a
  match x.requests.find? fun r => r.write == write && r.sentClk == none with
  | none => s
  | some r =>
    if x.affords r then
      let s := s.modAccel a fun x => { x with
        writeCredits := if write then x.writeCredits - writeCost r.data.length else x.writeCredits
        readCredits := if write then x.readCredits else x.readCredits - 1
        requests := x.requests.map fun q => if q.tag == r.tag then { q with sentClk := some s.clk } else q }
      s.emit (.attach a r.header r.data)
    else s

/-- Send waiting requests while credits last; `fuel` bounds them. -/
def State.attPump (s : State) (a : Nat) : Nat → State
  | 0 => s
  | n + 1 => ((s.attSendOne a true).attSendOne a false).attPump a n

/-- Queue one MEM_WRITE or MEM_READ under the lowest free tag and send it on credit (R319 to R321). -/
def State.attRequest (s : State) (a : Nat) (purpose : AttUse) (write : Bool) (offset : Nat) (data : List Byte)
    (length partition : Nat) : State :=
  let x := s.accel a
  let tag := (firstFree (fun t => !x.requests.any fun r => r.tag == t) 65536 0).getD 0
  let r : AttReq := { tag, purpose, write, offset, data, length, partition }
  (s.modAccel a fun x => { x with requests := x.requests ++ [r] }).attPump a 1

/-! ## Bias of HDM backings (R424, R427) -/

/-- Lines of a window that a device access needs through CXL.cache and does not hold: those of host-bias pages,
while CXL.mem is enabled on the port. -/
def State.biasLines (s : State) (p off len : Nat) (owned : Bool) : List (Nat × Nat) :=
  match s.placeAt p off with
  | some (_, x) =>
    match x.hdmPort with
    | some port =>
      let h := s.host port
      if h.cxlMem then
        ((linesOf (off - x.offset) len).filter fun l =>
          !h.deviceBias.contains (l / 64) && !h.cache.any fun c => c.1 == l && (c.2 || !owned)).map fun l => (port, l)
      else []
    | none => []
  | none => []

/-- Ask the hosts for lines, once each (R427). -/
def State.askLines (s : State) (l : List (Nat × Nat)) (owned : Bool) : State :=
  l.foldl (fun s r =>
    if (s.host r.1).biasWaits.any fun w => !w.fromHost && w.line == r.2 && (w.owned || !owned) then s
    else (s.modHost r.1 fun h => { h with biasWaits := h.biasWaits ++ [{ line := r.2, owned }] }).emit
      (.cxlLine r.1 r.2 owned)) s

/-! ## The two sides of a local transfer -/

/-- What a read of local bytes gives. -/
inductive Got where
  | bytes (l : List Byte)
  | wait (s : State)
  | fail (s : State) (status : Nat)

/-- Where the bytes of a buffer of an owner begin among its fetched bytes and its tiles. -/
def bufBase (buf : Nat) : Nat := buf * 2 ^ 40

/-- Start fetching a local source of an owner that lies in host memory or in an accelerator window. -/
def State.startFetch (s : State) (o : TileOwner) (engine c p : Nat) (g : Segment) (a : W64) (len : Nat)
    (buf : Nat := 0) : State :=
  let t := segTarget g a
  if g.kind = 1 then s.addTiles o engine c g t len false (bufBase buf)
  else if inAccelWindow t then
    if s.accelServes (windowOf t) p then
      (List.range (packetsOf len)).foldl (fun s k =>
        s.attRequest (windowOf t) (.fetch o (bufBase buf + k * 4096)) false ((t + k * 4096) % 2 ^ 40) [] (packetLen len k) p) s
    else s.failOwner o Status.addressUnmapped
  else s

/-- Local source bytes [off, off + len) of an owner whose range begins at `a` (R127, R147). -/
def State.localRead (s : State) (o : TileOwner) (p : Nat) (g : Segment) (a : W64) (off len : Nat)
    (buf : Nat := 0) : Got :=
  let t := segTarget g a + off
  if g.kind = 1 || inAccelWindow t then
    match chunkBytes (s.fetchedOf o) (bufBase buf + off) len with
    | some l => .bytes l
    | none => .wait s
  else
    let st := s.spaceCheck p t len false
    if st != Status.ok then .fail (s.accessFault p t len st) st
    else if s.rekeyStalled p t len then .wait s
    else
      let l := s.biasLines p t len false
      if l.isEmpty then .bytes (s.readSpace p t len) else .wait (s.askLines l false)

/-- Commit bytes at offset `off` of an owner's local destination that begins at `a`; a leg at its cut-over makes it wait
(R106, R135, R152, R257). -/
def State.localWrite (s : State) (o : TileOwner) (p : Nat) (g : Segment) (a : W64) (off : Nat) (b : List Byte)
    (buf : Nat := 0) : Commit :=
  let t := segTarget g a + off
  if g.kind = 1 then s.hostCommit o (bufBase buf + off) b (b.length + 1)
  else if inAccelWindow t then
    if s.accelServes (windowOf t) p then
      .done (s.attRequest (windowOf t) (.store o off) true (t % 2 ^ 40) b b.length p)
    else .fail s Status.addressUnmapped
  else
    let st := s.spaceCheck p t b.length true
    if st != Status.ok then .fail (s.accessFault p t b.length st) st
    else if s.stalled p t b.length then .wait s
    else
      let l := s.biasLines p t b.length true
      if l.isEmpty then .done (s.writeSpace p t b) else .wait (s.askLines l true)

/-- No write of the owner's bytes to an accelerator is still outstanding (R320). -/
def State.storesDone (s : State) (o : TileOwner) : Bool :=
  s.accels.all fun r => !r.2.requests.any fun q => match q.purpose with
    | .store x _ => x == o
    | _ => false

end Sys2Proof.Machine
end

