-- ==== Sys2Proof/Machine/Leave.lean ====
section
/-!
DEFINITION. Machine/Leave.lean: leave: what the standing set and each operation load, the two queues, and when the
governor grants (R537 to R542). Powers are milliwatts.
-/

namespace Sys2Proof.Machine

/-- A load with 9% of conversion loss (R537). -/
def withLoss (load : Nat) : Nat := load * 109 / 100

/-- Lanes of an Ethernet rate in Gb/s (R440): 200 Gb/s a lane. -/
def ethLanes (rate : Nat) : Nat := if rate = 800 then 4 else if rate = 400 then 2 else 1

/-- A port's floor lane count (R538): none when the port is down. -/
def Port.floorLanes (x : Port) : Nat :=
  if x.mode = 3 then ethLanes x.eth.rate else if x.mode = 0 || x.state == .down then 0 else 2 ^ x.minWidth

/-- The standing set's load (R538). -/
def State.standing (s : State) : Nat :=
  45000 + 40000 + 4 * 43000 + (s.ports.map fun r => r.2.floorLanes * 1125).sum

/-- Load held by granted leave. -/
def State.heldLoad (s : State) : Nat := (s.power.holders.map fun l => l.load).sum

/-- A graticule job, its self-test or a rekey step: the second queue (R541). -/
def isSecond : LeaveFor → Bool
  | .graticule _ _ => true
  | .rekey _ => true
  | .selfTest _ => true
  | .lanes _ _ => false
  | .engine _ _ => false

/-- Load held by graticule jobs and rekey steps. -/
def State.secondLoad (s : State) : Nat := ((s.power.holders.filter fun l => isSecond l.purpose).map fun l => l.load).sum

/-- The load of an operation (R539). -/
def leaveLoad : LeaveFor → Nat
  | .graticule _ half => if half then 36000 else 48000
  | .selfTest _ => 48000
  | .lanes _ added => 1125 * added
  | .engine _ _ => 1500
  | .rekey _ => 6000

/-- The quadrant of a requester, for requests of one clock (R541). -/
def leaveQuadrant : LeaveFor → Nat
  | .graticule g _ => g / 2
  | .selfTest g => g / 2
  | .lanes p _ => p / 8
  | .engine q _ => q
  | .rekey _ => 0

/-- The order of R539's table. -/
def leaveRow : LeaveFor → Nat
  | .graticule _ half => if half then 1 else 0
  | .selfTest _ => 0
  | .lanes _ _ => 2
  | .engine _ _ => 3
  | .rekey _ => 4

/-- A request goes before another in its queue (R541). -/
def Leave.before (a b : Leave) : Bool :=
  decide (a.askedClk < b.askedClk) || (a.askedClk == b.askedClk &&
    (decide (leaveQuadrant a.purpose < leaveQuadrant b.purpose) || (leaveQuadrant a.purpose == leaveQuadrant b.purpose
      && decide (leaveRow a.purpose < leaveRow b.purpose))))

/-- Put a request in its place. -/
def insertLeave (a : Leave) : List Leave → List Leave
  | [] => [a]
  | b :: r => if a.before b then a :: b :: r else b :: insertLeave a r

/-- Ask leave (R32, R539, R541). -/
def State.askLeave (s : State) (u : LeaveFor) : State :=
  s.modPower fun p =>
    let l : Leave := { id := p.nextLeave, purpose := u, load := leaveLoad u, askedClk := s.clk }
    if isSecond u then { p with secondQueue := insertLeave l p.secondQueue, nextLeave := p.nextLeave + 1 }
    else { p with firstQueue := insertLeave l p.firstQueue, nextLeave := p.nextLeave + 1 }

/-- Give leave back, granted or still asked for. -/
def State.endLeave (s : State) (u : LeaveFor) : State :=
  s.modPower fun p => { p with
    holders := p.holders.filter fun l => l.purpose != u
    firstQueue := p.firstQueue.filter fun l => l.purpose != u
    secondQueue := p.secondQueue.filter fun l => l.purpose != u }

/-! ## Sealing and opening engines (R497, R539) -/

/-- The clocks at which a direction's engines fall free. -/
def Quadrant.engines (d : Quadrant) (opening : Bool) : List Nat := if opening then d.opening else d.sealing

/-- The grant of an engine beyond the standing set is within its 100 µs (R539). -/
def engineHeld (clk : Nat) (l : Leave) : Bool := decide (clk < l.grantedClk + us 100)

/-- The engines of a direction that a quadrant may use: the standing four, one more for each grant it holds, eight at
most (R497, R539). -/
def State.engineLimit (s : State) (q : Nat) (opening : Bool) : Nat :=
  min 8 (4 + (s.power.holders.filter fun l => l.purpose == .engine q opening && engineHeld s.clk l).length)

/-- An engine is free for a packet. -/
def State.engineFree (s : State) (q : Nat) (opening : Bool) : Bool :=
  decide ((((s.quad q).engines opening).filter fun t => decide (s.clk < t)).length < s.engineLimit q opening)

/-- An engine takes a packet of `n` bytes, 64 B a clock (R497). -/
def State.useEngine (s : State) (q : Nat) (opening : Bool) (n : Nat) : State :=
  let l := (s.clk + (n + 63) / 64) :: ((s.quad q).engines opening).filter fun t => decide (s.clk < t)
  s.modQuad q fun d => if opening then { d with opening := l } else { d with sealing := l }

/-- A packet that finds no engine free asks leave for one more, unless all eight are in use or a request waits (R32,
R497). -/
def State.askEngine (s : State) (q : Nat) (opening : Bool) : State :=
  if 8 ≤ s.engineLimit q opening || s.power.firstQueue.any fun l => l.purpose == .engine q opening then s
  else s.askLeave (.engine q opening)

/-- The leave of an engine ends 100 µs after its grant (R539). -/
def State.expireEngines (s : State) : State :=
  let old := s.power.holders.filter fun l => match l.purpose with
    | .engine _ _ => !engineHeld s.clk l
    | .graticule _ _ => false
    | .lanes _ _ => false
    | .rekey _ => false
    | .selfTest _ => false
  if old.isEmpty then s else s.modPower fun p => { p with holders := p.holders.filter fun l => !old.contains l }

/-- A cap in force: 75% of what is set while THROTTLED (R545). -/
def Power.cap (p : Power) (watts : Nat) : Nat := if p.throttled then watts * 750 else watts * 1000

/-- The estimated input. -/
def State.estimate (s : State) : Nat := withLoss (s.standing + s.heldLoad)

/-- The first condition of R540: the 1-ms projection with the request stays within cap_1ms. -/
def State.fits1ms (s : State) (measured : Nat) (l : Leave) : Bool :=
  max s.estimate measured + withLoss l.load ≤ s.power.cap s.power.cap1ms

/-- The second condition of R540. -/
def State.fitsSus (s : State) : Bool := s.power.avg1s < s.power.cap (min s.power.capSus s.power.cap1ms)

/-- The debt of R540 is paid: graticules and rekey have given back what lanes and engines took. -/
def State.debtPaid (s : State) : Bool := s.power.debt == 0 || s.secondLoad ≤ s.power.debtFloor

/-- A request is granted (R540). -/
def State.leaveFits (s : State) (measured : Nat) (l : Leave) : Bool :=
  s.fits1ms measured l &&
    if isSecond l.purpose then s.fitsSus && s.debtPaid else s.fitsSus || decide (l.load ≤ s.secondLoad)

/-- The request the governor grants next: the head of the first queue, else of the second, where it fits. -/
def State.nextGrant (s : State) (measured : Nat) : Option Leave :=
  match s.power.firstQueue with
  | l :: _ => if s.leaveFits measured l then some l else none
  | [] => match s.power.secondQueue with
    | l :: _ => if s.leaveFits measured l then some l else none
    | [] => none

/-- Move a request from its queue to the holders; a lane or engine granted over the average puts its load on the
graticules and rekey steps (R540). -/
def State.takeGrant (s : State) (l : Leave) : State :=
  let excess := !isSecond l.purpose && !s.fitsSus
  let floor := (if s.debtPaid then s.secondLoad else s.power.debtFloor) - l.load
  let debt := if s.debtPaid then 0 else s.power.debt
  s.modPower fun p => { p with
    firstQueue := p.firstQueue.filter fun x => x.id != l.id
    secondQueue := p.secondQueue.filter fun x => x.id != l.id
    holders := p.holders ++ [{ l with grantedClk := s.clk, withheld := p.withheld }]
    grants := if p.grants = 0xFFFFFFFF then p.grants else p.grants + 1
    debt := if excess then debt + l.load else debt
    debtFloor := if excess then floor else p.debtFloor }

end Sys2Proof.Machine
end

