-- ==== Sys2Proof/Machine/Links.lean ====
section
/-!
DEFINITION. Machine/Links.lean: the ring segments and hub links inside the package, and their credit (R20 to R23).
-/

namespace Sys2Proof.Machine

/-- The ring segment from a quadrant to the next one, clockwise; the opposite direction has the next number (R20). -/
def segCw (q : Nat) : Nat := 2 * (q % 4)

/-- The ring segment from a quadrant to the one before it, counter-clockwise. -/
def segCcw (q : Nat) : Nat := 2 * ((q + 3) % 4) + 1

/-- The hub link of a quadrant, toward the hub. -/
def hubLink (q : Nat) : Nat := 8 + q % 4

/-- Bytes a link moves in one engine clock: 1.6 TB/s on the ring, 256 GB/s on a hub link (R20). -/
def linkRate (link : Nat) : Nat := if link < 8 then 1000 else 160

/-- The credit of each class of a link, in bytes: at least one whole packet (R22, assumption log 69). -/
def linkCredit : Nat := Config.linkExtra + 4176

/-- Credit in use of a class of a link. -/
def State.linkUsed (s : State) (link cls : Nat) : Nat := tblGetD s.recover.links (link * 4 + cls) 0

/-- Credit of a class in use on the fullest link of a path. -/
def State.pathUsed (s : State) (cls : Nat) (path : List Nat) : Nat := (path.map fun l => s.linkUsed l cls).foldl max 0

/-- The links from a quadrant to another: the segment that joins neighbours; between opposite quadrants the direction
with more free credit of the class, clockwise when equal (R21). -/
def State.ringPath (s : State) (a b cls : Nat) : List Nat :=
  let d := (b + 4 - a) % 4
  if d = 0 then []
  else if d = 1 then [segCw a]
  else if d = 3 then [segCcw a]
  else
    let cw := [segCw a, segCw (a + 1)]
    let ccw := [segCcw a, segCcw (a + 3)]
    if s.pathUsed cls ccw < s.pathUsed cls cw then ccw else cw

/-- Every link of a path has credit of the class for `n` bytes (R23). -/
def State.pathOpen (s : State) (cls n : Nat) (path : List Nat) : Bool :=
  path.all fun l => decide (s.linkUsed l cls + n ≤ linkCredit)

/-- Take credit of a class on a path. -/
def State.takePath (s : State) (cls n : Nat) (path : List Nat) : State :=
  s.modRec fun r =>
    let use := fun (t : Table Nat) l => tblSet t (l * 4 + cls) (min linkCredit (tblGetD t (l * 4 + cls) 0 + n))
    { r with links := path.foldl use r.links }

/-- `n` bytes of a class may cross from a quadrant to another now. -/
def State.crossOpen (s : State) (a b cls n : Nat) : Bool := s.pathOpen cls n (s.ringPath a b cls)

/-- `n` bytes of a class cross from a quadrant to another. -/
def State.cross (s : State) (a b cls n : Nat) : State :=
  if a % 4 = b % 4 then s else s.takePath cls n (s.ringPath a b cls)

/-- What one clock moves: each link returns the credit of the bytes that have left it, lower classes first (assumption
log 69). -/
def drainLinks : Nat → Nat → Table Nat → Table Nat
  | _, _, [] => []
  | cur, left, (k, n) :: r =>
    let room := if k / 4 = cur then left else linkRate (k / 4)
    let m := min n room
    if n = m then drainLinks (k / 4) (room - m) r else (k, n - m) :: drainLinks (k / 4) (room - m) r

/-- One clock on every link. -/
def State.linkClock (s : State) : State :=
  if s.recover.links.isEmpty then s else s.modRec fun r => { r with links := drainLinks 12 0 r.links }

end Sys2Proof.Machine
end

