-- ==== Sys2Proof/Machine/Chart.lean ====
section
/-!
DEFINITION. Machine/Chart.lean: how a packet leaves this device: chart lookup, the ports it may take, the keys it
is sealed under and the transmit counter, and the arrival of a transit packet (R85, R86, R226, R306 to R312, R491
to R494).
-/

namespace Sys2Proof.Machine

/-- Note a status in Survey: one log record (R529). -/
def State.note (s : State) (status unit index : Nat) (p : Option Nat := none) (info : W64 := 0)
    (severity : Nat := 0) : State :=
  s.log { status, unit, unitIndex := index, partition := p, severity, info } info

/-! ## Charts (R307 to R310) -/

/-- The entry of a destination in a bank of a quadrant's chart copy; an entry never written is of kind 0. -/
def State.chartEntry (s : State) (q : Nat) (bank : Bool) (dst : Nat) : ChartEntry :=
  tblGetD (if bank then (s.chart q).bankB else (s.chart q).bankA) dst {}

/-- The bank is IDLE in a quadrant's chart copy (R309). -/
def State.bankIdle (s : State) (q : Nat) (bank : Bool) : Bool := bank != s.activeBank q && !(s.chart q).retained

/-- Fabric-mode ports that are ACTIVE and unmasked (R311). -/
def State.activePorts (s : State) : List Nat :=
  (s.ports.filter fun r => r.2.mode == 1 && r.2.state == .active).map fun r => r.1

/-- A fabric-mode port that is ACTIVE. -/
def State.fabricActive (s : State) (port : Nat) : Bool := (s.port port).mode == 1 && (s.port port).state == .active

/-- The ports of a mask that are active outputs. -/
def State.portsIn (s : State) (m : W32) : List Nat := s.activePorts.filter fun p => m.getLsbD p

/-- The outputs a fresh packet may take: productive ones, else near ones, else any (R311). -/
def State.outputs (s : State) (e : ChartEntry) : List Nat :=
  if !(s.portsIn e.productive).isEmpty then s.portsIn e.productive
  else if !(s.portsIn e.near).isEmpty then s.portsIn e.near
  else s.activePorts

/-- A quadrant accepts as the device's own a packet for this endpoint under this bank (R310). -/
def State.ownDst (s : State) (q : Nat) (bank : Bool) (dst : Nat) : Bool :=
  dst == s.cfg.endpoint || (s.chartEntry q bank dst).kind == 3

/-- The output of a packet the device sends by itself: the primary where it may be taken, else an open choice
among those allowed, whose busy fractions the model does not hold (R311). -/
def State.pickOutput (s : State) (e : ChartEntry) : State × Option Nat :=
  let l := s.outputs e
  if l.isEmpty then (s, none)
  else if e.primaryValid && l.contains e.primary then (s, some e.primary)
  else
    let (v, s) := s.draw
    (s, l[v % l.length]?)

/-! ## Keys (R225, R491 to R494) -/

/-- The generation that a quadrant seals under: while a rotation fires, the pending one where the quadrant has done its
part (R30, R492). -/
def KeyGens.genIn (k : KeyGens) (q : Nat) : Nat :=
  if k.moved.contains q then (k.pending.map fun g => g.1).getD k.current else k.current

/-- The quadrant's epoch counter and the endpoint still allow sealing under the generation (R493, R494). -/
def State.keyAllows (s : State) (q : Nat) (k : KeyGens) : Bool :=
  (s.quad q).txEpoch.toNat < k.activeEpochs.getD q 0 + 128 && (k.endpoint == s.cfg.endpoint || k.moved.contains q)

/-- The generation's limit is what forbids it, not the endpoint (R493). -/
def State.keyExhausted (s : State) (q : Nat) (k : KeyGens) : Bool :=
  k.activeEpochs.getD q 0 + 128 ≤ (s.quad q).txEpoch.toNat

/-- The quadrant's monotonic counter (3 + q) (R478, R491). -/
def State.epochCounter (s : State) (q : Nat) : BitVec 32 := s.fw.counters.getD (3 + q) 0

/-- The next copy has a counter: the count has not run out, or the next epoch is reserved (R491). -/
def State.counterReady (s : State) (q : Nat) : Bool :=
  (s.quad q).txCount < 2 ^ 40 || (s.quad q).txEpoch != s.epochCounter q

/-- The device's keys, each with its partition where it has one. -/
def State.allKeys (s : State) : List (Nat × KeyGens) :=
  s.parts.flatMap fun r =>
    if r.2.keyed then (r.1, r.2.fabric) :: r.2.jobs.filterMap fun j => j.2.key.map fun k => (r.1, k) else []

/-- Keys of which a quadrant has used 96 epochs raise the rotation warning (R493). -/
def State.warnKeys (s : State) (q : Nat) : State :=
  (s.allKeys.filter fun r => r.2.activeEpochs.getD q 0 + 96 ≤ (s.quad q).txEpoch.toNat).foldl
    (fun s r => s.alarmRecord 4 { unit := 0x17, unitIndex := q, partition := some r.1 } (some r.1)) s

/-- Take the counter of the next sealed copy (R226, R491): after 2^40 copies the reserved epoch follows; past 2^39
the next one is being reserved. -/
def State.takeCounter (s : State) (q : Nat) : State × BitVec 48 :=
  let d := s.quad q
  let fresh := decide (2 ^ 40 ≤ d.txCount)
  let epoch := if fresh then s.epochCounter q else d.txEpoch
  let n := if fresh then 0 else d.txCount
  let s := s.modQuad q fun d => { d with
    txEpoch := epoch, txCount := n + 1, sentClk := s.clk
    epochPending := d.epochPending || (decide (2 ^ 39 < n + 1) && epoch == s.epochCounter q) }
  (if fresh then s.warnKeys q else s, BitVec.ofNat 48 (epoch.toNat % 256 * 2 ^ 40 + n))

/-! ## Sending -/

/-- Seal a packet under a generation (R225). -/
def State.sealed (s : State) (pkt : Packet) (gen : Nat) : Packet :=
  pkt.seal (s.sealKey pkt.key.partition (jobOf pkt) gen)

/-- Put a sealed packet on its way: into its landing quadrant without a port where the device itself is addressed,
else on the port; between quadrants it crosses the ring (R21, R22). -/
def State.sendOn (s : State) (port : Option Nat) (pkt : Packet) : State :=
  match port with
  | some p => (s.cross pkt.route.txQ (p / 8) pkt.route.cls pkt.size).emit (.wire p pkt)
  | none => (s.cross pkt.route.txQ pkt.route.landQ pkt.route.cls pkt.size).emit (.loopback pkt.route.landQ pkt)

/-- Seal and send a packet the device forms by itself (a reply, HEARTBEAT or BEACON): without a key it cannot be
sealed and is not sent; without a counter or a sealing engine it waits; a destination with no route drops it, and a
BEACON goes out on every active fabric port with hop_count 1 (R523). `r85` marks a NAK of R85. -/
def State.inject (s : State) (q : Nat) (pkt : Packet) (job : Option Nat := none) (r85 : Bool := false) : State :=
  match s.keysOf pkt.key.partition job with
  | none => s
  | some k =>
    if !s.keyAllows q k then s
    else if !s.counterReady q then s.modQuad q fun d => { d with unsealed := d.unsealed ++ [(r85, pkt)] }
    else if !s.engineFree q false then
      (s.askEngine q false).modQuad q fun d => { d with unsealed := d.unsealed ++ [(r85, pkt)] }
    else
      let pkt := if pkt.route.opcode = opBeacon then { pkt with hop := { pkt.hop with hopCount := 1 } } else pkt
      let (s, c) := (s.useEngine q false pkt.size).takeCounter q
      let r := { pkt.route with
        tc := 7, epoch := s.activeBank q, txQ := q, txCounter := c, keyGen := k.genIn q % 256 }
      let pkt := s.sealed { pkt with route := r } (k.genIn q)
      let e := s.chartEntry q (s.activeBank q) pkt.route.dst
      if pkt.route.opcode = opBeacon then s.activePorts.foldl (fun s port => s.sendOn (some port) pkt) s
      else if s.ownDst q (s.activeBank q) pkt.route.dst then s.sendOn none pkt
      else if e.kind != 2 then s
      else
        match s.pickOutput e with
        | (s, some p) => s.sendOn (some p) pkt
        | (s, none) => s

/-! ## A transit packet arrives (R86, R310, R312) -/

/-- Count a packet dropped at an input in FAB_PORT_DROP. -/
def State.dropAt (s : State) (port : Nat) (noRoute : Bool) : State :=
  s.modPort port fun x =>
    if noRoute then { x with noRoute := min 0xFFFF (x.noRoute + 1) } else { x with hopLimit := min 0xFFFF (x.hopLimit + 1) }

/-- The hop age check, on the copy of the lane die of the port (R24, R86). -/
def State.hopFresh (s : State) (port : Nat) (issue : W32) : Bool :=
  s.mer.lock == .unlocked ||
    match ageOf (s.mtPort port) issue with
    | some a => a ≤ s.mpl
    | none => false

/-- The issue stamp precedes the instant of the last step, within one MPL of it (R230). -/
def State.beforeFloor (s : State) (issue : W32) : Bool :=
  match s.mer.floor with
  | some (t, untilClk) => decide (s.clk < untilClk) && decide (2 ^ 31 ≤ (issue - w32 t.toNat).toNat)
  | none => false

/-- A packet that is not for this device arrives at a fabric input: it is dropped under R230, R310 or R312, or waits in
the input's buffer. -/
def State.headArrives (s : State) (port : Nat) (pkt : Packet) : State :=
  let e := s.chartEntry (port / 8) pkt.route.epoch pkt.route.dst
  if pkt.route.version != 1 then s.note Status.headerInvalid 0x18 port
  else if s.beforeFloor pkt.issue then s
  else if !s.hopFresh port pkt.issue then s.note Status.packetStale 0x18 port
  else if pkt.hop.hopCount = 63 then (s.dropAt port false).note Status.hopLimit 0x18 port
  else if s.bankIdle (port / 8) pkt.route.epoch || e.kind < 2 then (s.dropAt port true).note Status.noRoute 0x18 port
  else s.modPort port fun x => { x with
    input := x.input ++ [{ pkt, arrivedClk := s.clk, headSince := if x.input.isEmpty then some s.clk else none }] }

end Sys2Proof.Machine
end

