-- ==== Sys2Proof/Machine/Mailbox.lean ====
section
/-!
DEFINITION. Machine/Mailbox.lean: how the firmware serves a submitted Izlis command: the common checks in their
order, the response, and commands that answer later (R39 to R53, R58, R70, R484). Assumption log 8 gives the order of
the common checks.
-/

namespace Sys2Proof.Machine

/-- The rights classes of R50. -/
inductive Rights where
  | any
  | pf
  | pf0
  | tenant
  deriving DecidableEq, Repr

/-- What the command set gives of a command (R58). -/
structure Cmd where
  opcode : Nat
  since : Nat := 1
  rights : Rights := .tenant
  /-- Argument words; `none` for BULK_PUT, which takes 1 to 32 (R43). -/
  words : Option Nat := some 1
  /-- Served while the device is faulted (R53). -/
  diag : Bool := false
  /-- Accepted between BULK_OPEN and BULK_CLOSE (R54). -/
  inBulk : Bool := false
  /-- A Tenant-class command, which an EMPTY partition refuses (R58, R472). -/
  needsKey : Bool := true
  /-- How the control cores' lists of the command's table writes compare (R521). -/
  cores : Cores := .agree
  deriving DecidableEq, Repr

/-- The opcode submitted. -/
def Mailbox.opcode (x : Mailbox) : Nat := bits x.cmd.toNat 15 0

/-- The sequence submitted. -/
def Mailbox.seq (x : Mailbox) : W16 := BitVec.ofNat 16 (bits x.cmd.toNat 47 32)

/-- arg_words. -/
def Mailbox.argWords (x : Mailbox) : Nat := bits x.cmd.toNat 55 48

/-- The chunk index. -/
def Mailbox.chunk (x : Mailbox) : Nat := bits x.cmd.toNat 31 16

/-- An argument word. -/
def Mailbox.arg (x : Mailbox) (i : Nat) : Nat := (x.data.getD i 0).toNat



/-- The fields of a firmware slot. -/
def Firmware.slot (f : Firmware) (i : Nat) : FwSlot := if i = 0 then f.slot0 else f.slot1

/-- Serving the first Izlis command of a newer image raises counter 0 to its svn (R481). -/
def State.firstServe (s : State) : State :=
  if s.fw.serving && !s.fw.svnServed then
    s.modFw fun f => { f with
      svnServed := true
      counters := f.counters.set 0 (w32 (max (f.counters.headD 0).toNat (f.slot f.runningSlot).svn)) }
  else s

/-- Write a response: the data window, the response word, done and not busy in one clock, then the interrupt (R42). -/
def State.respond (s : State) (k status detail : Nat) (words : List W64) : State :=
  let x := s.mbx k
  let s := s.modMbx k fun x => { x with
    resp := w64 (status + detail % 65536 * 2 ^ 16 + x.seq.toNat * 2 ^ 32 + words.length * 2 ^ 48)
    data := (words ++ List.replicate 32 0).take 32
    busy := false, done := true, wait := none }
  if x.intEnable then s.msix (k / 4) x.intVector else s

/-- A function of the class may issue the command (R50). -/
def State.permits (s : State) (fn : Nat) : Rights → Bool
  | .any => true
  | .pf => isPf fn
  | .pf0 => fn == 0
  | .tenant => (s.func fn).bound.isSome

/-- The partition a function is bound to. -/
def State.boundTo (s : State) (fn : Nat) : Nat := (s.func fn).bound.getD 0

/-- The first common status that a submitted command earns, with its detail; `none` lets its own checks begin. -/
def State.commonCheck (s : State) (fn k : Nat) (c : Cmd) : Option (Nat × Nat) :=
  let x := s.mbx k
  let n := x.argWords
  let expected := (x.lastSeq + 1).toNat
  if x.version = 0 then some (Status.notOpen, 0)
  else if x.seq.toNat != expected then some (Status.sequenceError, expected)
  else if x.version < c.since then some (Status.notInVersion, 0)
  else if (match c.words with
      | some w => n != w
      | none => !(1 ≤ n && n ≤ 32)) then some (Status.badLength, c.words.getD 32)
  else if x.bulk.isSome && !c.inBulk then some (Status.bulkState, 0)
  else if !s.permits fn c.rights then some (Status.notPermitted, 0)
  else if s.diagOnly && !(fn == 0 && c.diag) then some (Status.deviceFaulted, 0)
  else if c.rights == .tenant && c.needsKey && !(s.part (s.boundTo fn)).keyed then some (Status.keyNotInstalled, 0)
  else none

/-- How a command answers. -/
inductive Answer where
  /-- At once: the state, the status, the detail and the response words. -/
  | reply (s : State) (status detail : Nat) (words : List W64)
  /-- After the sealed state has been written (R484). -/
  | stored (s : State) (words : List W64)
  /-- Later, by what it waits for. -/
  | hold (s : State) (w : Wait)

/-- The command succeeds. -/
def okWith (s : State) (words : List W64) : Answer := .reply s Status.ok 0 words

/-- The command fails without effect. -/
def failWith (s : State) (status : Nat) (detail : Nat := 0) : Answer := .reply s status detail []

/-! ## The order of doorbells (R44) -/

/-- An object, or a range of objects of one kind, that a command names; `shared` where it only relies on it. -/
structure Named where
  kind : Nat
  first : Nat
  count : Nat := 1
  shared : Bool := false
  deriving DecidableEq, Repr

/-- Two commands that name these must keep the order of their doorbells. -/
def Named.clashes (a b : Named) : Bool :=
  a.kind == b.kind && !(a.shared && b.shared) && overlaps a.first a.count b.first b.count

/-- The partition's quota of a resource, as an object. -/
def quotaObject (p kind : Nat) : Named := { kind := 3, first := p * 256 + kind }

/-- What the bulk object of a kind is part of, for a caller in partition `p`. -/
def bulkObjects (kind oid p : Nat) : List Named :=
  match kind with
  | 1 => [quotaObject p 7]
  | 2 => [{ kind := 17, first := oid }]
  | 3 => [{ kind := 14, first := 0 }]
  | 4 => [{ kind := 11, first := p * 2 ^ 24 + oid % 2 ^ 24 }]
  | 7 => [{ kind := 13, first := oid % 32 }]
  | 8 => [{ kind := 20, first := p }]
  | 9 => [{ kind := 20, first := p }]
  | _ => []

/-- The objects of fabric, ports and time (the command set's tables, 0x06xx), of a mailbox's own words. -/
def Mailbox.fabricObjects (x : Mailbox) : List Named :=
  match x.opcode with
  | 0x0601 => [{ kind := 15, first := 0 }]
  | 0x0602 => [{ kind := 13, first := x.arg 0 % 32 }]
  | 0x0603 => [{ kind := 14, first := 0 }]
  | 0x0604 => [{ kind := 13, first := x.arg 0 % 32 }]
  | 0x0605 => [{ kind := 16, first := 0 }, { kind := 13, first := bits (x.arg 0) 12 8, shared := true }]
  | _ => []

/-- The objects of contexts, queues, rings, regions and placements (0x03xx, 0x04xx) for a caller in partition `p`. -/
def Mailbox.tenantObjects (x : Mailbox) (p : Nat) : List Named :=
  let w := x.arg 0
  match x.opcode with
  | 0x0301 => [quotaObject p 0] ++ if bit w 12 then [] else [{ kind := 4, first := bits w 11 0 }]
  | 0x0302 => [{ kind := 4, first := bits w 11 0 }]
  | 0x0303 => [{ kind := 4, first := bits w 11 0 }]
  | 0x0304 => [quotaObject p 1, { kind := 6, first := bits w 44 32, shared := true },
      { kind := 4, first := bits (x.arg 2) 11 0, shared := true }]
      ++ if bit w 13 then [] else [{ kind := 5, first := bits w 12 0 }]
  | 0x0305 => [{ kind := 5, first := bits w 12 0 }]
  | 0x0306 => [{ kind := 5, first := bits w 12 0 }]
  | 0x0307 => [quotaObject p 2] ++ if bit w 13 then [] else [{ kind := 6, first := bits w 12 0 }]
  | 0x0308 => [{ kind := 6, first := bits w 12 0 }]
  | 0x0401 => [quotaObject p 3, { kind := 4, first := bits w 27 16, shared := true }]
      ++ if w % 4 = 1 then [{ kind := 8, first := bits (x.arg 1) 14 0, shared := true }] else []
  | 0x0402 => [{ kind := 7, first := bits w 31 16 }]
  | 0x0403 => [quotaObject p 5, quotaObject p 6]
  | 0x0404 => [{ kind := 8, first := bits w 14 0 }]
  | 0x0405 => [{ kind := 8, first := bits w 14 0 }]
  | _ => []

/-- The objects of kernels, jobs, keys, firmware, Ethernet and storage (0x05xx, 0x07xx to 0x09xx). -/
def Mailbox.programObjects (x : Mailbox) (p : Nat) : List Named :=
  let w := x.arg 0
  match x.opcode with
  | 0x0501 => [{ kind := 9, first := w % 256 }]
  | 0x0502 => [quotaObject p 4]
  | 0x0503 => [{ kind := 10, first := bits w 13 0, count := bits w 46 32 }]
  | 0x0504 => [{ kind := 11, first := p * 2 ^ 24 + bits w 23 0 }]
  | 0x0505 => [{ kind := 11, first := p * 2 ^ 24 + bits w 23 0 }]
  | 0x0506 => [{ kind := 12, first := p * 2 ^ 32 + bits w 31 0 }]
  | 0x0701 => [{ kind := 20, first := p }]
  | 0x0702 => [{ kind := 20, first := p }]
  | 0x0801 => [{ kind := 17, first := w % 2 }]
  | 0x0901 => [quotaObject p 8, { kind := 13, first := bits w 20 16, shared := true },
      { kind := 5, first := bits (x.arg 1) 12 0 }] ++ if bit w 14 then [] else [{ kind := 18, first := bits w 13 0 }]
  | 0x0902 => [{ kind := 18, first := bits w 13 0 }]
  | 0x0903 => [{ kind := 13, first := bits w 12 8, shared := true }]
  | 0x0904 => [{ kind := 19, first := bits w 15 0 }]
  | _ => []

/-- The objects that the command in a mailbox names (assumption log 66): those of its words, and for a Tenant command
its function's binding and its partition, on which it relies. -/
def State.objectsOf (s : State) (k : Nat) (x : Mailbox) : List Named :=
  let fn := k / 4
  let p := s.boundTo fn
  let w := x.arg 0
  let own : List Named := [{ kind := 1, first := fn, shared := true }, { kind := 2, first := p, shared := true }]
  match x.opcode with
  | 0x0001 => [{ kind := 21, first := fn }]
  | 0x0002 => [{ kind := 21, first := fn }]
  | 0x0003 => [quotaObject p (w % 256)]
  | 0x0101 => bulkObjects (w % 256) (x.arg 1) p
  | 0x0104 => match x.bulk with
    | some b => bulkObjects b.kind b.objectId.toNat p
    | none => []
  | 0x0201 => [{ kind := 1, first := fn / 256 * 256 + w % 256 }]
  | 0x0202 => [quotaObject (w % 16) (bits w 15 8)]
  | 0x0203 => [{ kind := 2, first := w % 16 }]
  | 0x0204 => [{ kind := 2, first := w % 16 }]
  | _ => x.fabricObjects ++ if (x.tenantObjects p ++ x.programObjects p).isEmpty then []
    else own ++ x.tenantObjects p ++ x.programObjects p

/-- No command whose doorbell came earlier, and which has not taken effect, names an object of this one's (R44). -/
def State.hasTurn (s : State) (k : Nat) : Bool :=
  let x := s.mbx k
  s.mailboxes.all fun r =>
    !(r.2.busy && r.2.wait == none && decide (r.2.order < x.order)
      && (s.objectsOf r.1 r.2).any fun a => (s.objectsOf k x).any a.clashes)

/-- The mailbox holds this command, its turn has come, and the firmware runs, or the boot ROM serves in recovery (R39,
R44, R70, R480). -/
def State.serving (s : State) (k opcode : Nat) : Bool :=
  let x := s.mbx k
  x.busy && x.wait == none && x.opcode == opcode && (s.fw.alive || s.fw.mode == .recovery) && s.hasTurn k

/-- A sealed state write begins (R484). -/
def State.startSeal (s : State) : State := s.modFw fun f => { f with sealing := true }

/-- Give an answer to a mailbox. -/
def State.giveAnswer (k : Nat) : Answer → State
  | .reply s st d ws => s.respond k st d ws
  | .stored s ws => s.startSeal.modMbx k fun x => { x with wait := some (.sealedState Status.ok 0 ws) }
  | .hold s w => s.modMbx k fun x => { x with wait := some w }

/-- The sequence is the last accepted (R41). -/
def State.acceptSeq (s : State) (k : Nat) : State := s.modMbx k fun x => { x with lastSeq := x.seq }

/-- The firmware serves the command now: Izlis service has begun, or the command is marked D (R480, R527). -/
def State.servesNow (s : State) (diag : Bool) : Bool := s.fw.serving || diag || s.fw.mode == .recovery

/-- The answer changes something: it does not refuse the command. -/
def Answer.takesEffect : Answer → Bool
  | .reply _ st _ _ => st == Status.ok
  | .stored _ _ => true
  | .hold _ _ => true

/-- The control cores' lists differ: the mismatch counts for 1 s, and the fourth stops the firmware, which restarts
(R521). -/
def State.mismatch (s : State) : State :=
  let l := s.clk :: s.fw.mismatches.filter fun t => decide (s.clk < t + us 1000000)
  s.modFw fun f => { f with mismatches := l, alive := f.alive && decide (l.length < 4) }

/-- Give the answer once two control cores agree on its table writes; agreed by none, the command has no effect and
completes with CONTROL_CHECK_FAILED (R521). -/
def State.crossCheck (s : State) (k : Nat) (cores : Cores) (a : Answer) : State :=
  match cores with
  | .agree => State.giveAnswer k a
  | .outvoted => if a.takesEffect then (State.giveAnswer k a).mismatch else State.giveAnswer k a
  | .split => if a.takesEffect then (s.respond k Status.controlCheckFailed 0 []).mismatch else State.giveAnswer k a

/-- Serve the command that a mailbox holds: the common checks, then its body with the caller's partition (R44: wholly
or not at all). -/
def State.serve (s : State) (fn m : Nat) (c : Cmd) (body : State → Nat → Mailbox → Answer) : State :=
  let k := mbxKey fn m
  if s.serving k c.opcode && s.servesNow c.diag then
    let s := s.firstServe
    match s.commonCheck fn k c with
    | some (st, d) =>
      (if st = Status.notOpen ∨ st = Status.sequenceError then s else s.acceptSeq k).respond k st d []
    | none => (s.acceptSeq k).crossCheck k c.cores (body (s.acceptSeq k) (s.boundTo fn) (s.mbx k))
  else s

/-- A command that waited is done: the firmware responds, or keeps the response until it runs again (R37, R70). -/
def State.answer (s : State) (k status detail : Nat) (words : List W64) : State :=
  if s.fw.alive then s.respond k status detail words
  else s.modMbx k fun x => { x with wait := some (.answered status detail words) }

/-- Answer the mailboxes whose commands wait for what a test picks; a command whose mailbox was reset waits no more. -/
def State.releaseWaits (s : State) (pick : Wait → Bool) (status detail : Nat) (words : List W64) : State :=
  let s := (s.mailboxes.filter fun r => match r.2.wait with
    | some w => pick w
    | none => false).foldl (fun s r => s.answer r.1 status detail words) s
  s.modFw fun f => { f with orphans := f.orphans.filter fun r => !pick r.2 }

/-- The firmware, running again, gives the responses it owes (R70). -/
def State.payAnswers (s : State) : State :=
  s.mailboxes.foldl (fun s r => match r.2.wait with
    | some (.answered st d ws) => s.respond r.1 st d ws
    | some (.queueDrain _ _) => s
    | some (.regionRevoke _) => s
    | some (.sealedState _ _ _) => s
    | some (.scheduleEnd _ _) => s
    | none => s) s

/-- A copy that passed its checks under a region entry has not committed yet (R122, R123). -/
def State.copyUnder (s : State) (index : Nat) : Bool :=
  [0, 1, 2, 3].any fun q =>
    (s.quad q).copies.any (fun c => c.verified && isRequest c.pkt.route.opcode && keyIndex c.pkt.spec.regionKey == index)
      || (s.quad q).records.any fun r => match r.flag with
        | some f => keyIndex f.spec.regionKey == index
        | none => false

/-- A REGION_REVOKE completes once nothing checked under the old entry remains (R123). -/
def State.releaseRevokes (s : State) : State :=
  s.releaseWaits (fun w => match w with
    | .regionRevoke i => !s.copyUnder i
    | .queueDrain _ _ => false
    | .sealedState _ _ _ => false
    | .scheduleEnd _ _ => false
    | .answered _ _ _ => false) Status.ok 0 []

/-- The partition's quota of a resource; one never set is 0 (R45, assumption log 4). -/
def State.quota (s : State) (p kind : Nat) : Nat := tblGetD (s.part p).quotas kind 0

/-- `n` more of a resource stay within the partition's quota (R45). -/
def State.underQuota (s : State) (p kind used n : Nat) : Bool := used + n ≤ s.quota p kind

end Sys2Proof.Machine
end

