-- ==== Sys2Proof/Machine/Flags.lean ====
section
/-!
DEFINITION. Machine/Flags.lean: the two sticky numeric flags of a job, reduction or kernel, and how each operation
sets them (R336, R337).
-/

namespace Sys2Proof.Machine

/-- Sticky flags: either sets (R337). -/
def NumFlags.or (a b : NumFlags) : NumFlags :=
  { invalid := a.invalid || b.invalid, overflow := a.overflow || b.overflow }

/-- No flag. -/
def flagsNone : NumFlags := {}

/-- The invalid flag: NaN from operands none of which is NaN, or a value the target cannot name. -/
def flagsInvalid : NumFlags := { invalid := true }

/-- The overflow flag: a finite value rounded to infinity, or held at the largest. -/
def flagsOverflow : NumFlags := { overflow := true }

/-- The flags as EXIT returns them: bit 0 invalid, bit 1 overflow (R376). -/
def NumFlags.bits (f : NumFlags) : Nat := b2n f.invalid + 2 * b2n f.overflow

end Sys2Proof.Machine
end

