-- ==== Sys2Proof/Machine/Numbers.lean ====
section
/-!
DEFINITION. Machine/Numbers.lean: the number formats, exact values, rounding, conversion, FP32 arithmetic, MX blocks
and the exact accumulator (R331 to R341, R354 to R358).
-/

namespace Sys2Proof.Machine

/-! ## Values -/

/-- A value read from a format: (−1)^neg × m × 2^e, an infinity or NaN. -/
inductive Num where
  | nan
  | inf (neg : Bool)
  | fin (neg : Bool) (m : Nat) (e : Int)
  deriving DecidableEq, Repr

/-- +0. -/
def Num.zero : Num := .fin false 0 0

/-- A finite value as an integer multiple of 2^e. -/
def signed (neg : Bool) (m : Nat) : Int := if neg then -(m : Int) else m

/-- An integer multiple of 2^e as a value; zero is +0. -/
def ofSigned (v : Int) (e : Int) : Num := .fin (decide (v < 0)) v.natAbs e

/-- m × 2^(e − f), for f ≤ e. -/
def shiftTo (m : Nat) (e f : Int) : Nat := m <<< (e - f).toNat

/-- The exact sum (R336: zero sums are +0, but −0 + −0 is −0). -/
def Num.add : Num → Num → Num
  | .nan, _ => .nan
  | _, .nan => .nan
  | .inf a, .inf b => if a = b then .inf a else .nan
  | .inf a, _ => .inf a
  | _, .inf b => .inf b
  | .fin a m e, .fin b n f =>
    let g := min e f
    let v := signed a (shiftTo m e g) + signed b (shiftTo n f g)
    if v = 0 then .fin (a && b && m == 0 && n == 0) 0 g else ofSigned v g

/-- The exact product. -/
def Num.mul : Num → Num → Num
  | .nan, _ => .nan
  | _, .nan => .nan
  | .inf a, .inf b => .inf (a != b)
  | .inf a, .fin b n _ => if n = 0 then .nan else .inf (a != b)
  | .fin a m _, .inf b => if m = 0 then .nan else .inf (a != b)
  | .fin a m e, .fin b n f => .fin (a != b) (m * n) (e + f)

/-- The value times 2^k. -/
def Num.scale (k : Int) : Num → Num
  | .nan => .nan
  | .inf a => .inf a
  | .fin a m e => .fin a m (e + k)

/-- The magnitude. -/
def Num.abs : Num → Num
  | .nan => .nan
  | .inf _ => .inf false
  | .fin _ m e => .fin false m e

/-- The value with its sign changed. -/
def Num.neg : Num → Num
  | .nan => .nan
  | .inf a => .inf (!a)
  | .fin a m e => .fin (!a) m e

/-- NaN. -/
def Num.isNan : Num → Bool
  | .nan => true
  | .inf _ => false
  | .fin _ _ _ => false

/-- Finite. -/
def Num.isFin : Num → Bool
  | .nan => false
  | .inf _ => false
  | .fin _ _ _ => true

/-- a < b for values that are not NaN, with −0 below +0 (R358). -/
def Num.lt : Num → Num → Bool
  | .nan, _ => false
  | _, .nan => false
  | .inf a, .inf b => a && !b
  | .inf a, .fin _ _ _ => a
  | .fin _ _ _, .inf b => !b
  | .fin a m e, .fin b n f =>
    let g := min e f
    let x := signed a (shiftTo m e g)
    let y := signed b (shiftTo n f g)
    decide (x < y) || (decide (x = y) && a && !b)

/-! ## Formats (R331, R332) -/

/-- What a float format's all-ones exponent means. -/
inductive Special where
  /-- Infinities and NaNs. -/
  | ieee
  /-- An ordinary exponent, but for the NaN code of all ones (E4M3). -/
  | nanOnly
  /-- An ordinary exponent. -/
  | none
  deriving DecidableEq, Repr

/-- The layout of a float format. -/
structure FloatFmt where
  ebits : Nat
  mbits : Nat
  bias : Int
  special : Special
  canonicalNan : Nat
  deriving DecidableEq, Repr

/-- FP32. -/
def fFP32 : FloatFmt := ⟨8, 23, 127, .ieee, 0x7FC00000⟩
/-- BF16. -/
def fBF16 : FloatFmt := ⟨8, 7, 127, .ieee, 0x7FC0⟩
/-- FP16. -/
def fFP16 : FloatFmt := ⟨5, 10, 15, .ieee, 0x7E00⟩
/-- E5M2. -/
def fE5M2 : FloatFmt := ⟨5, 2, 15, .ieee, 0x7E⟩
/-- E4M3. -/
def fE4M3 : FloatFmt := ⟨4, 3, 7, .nanOnly, 0x7F⟩
/-- E3M2. -/
def fE3M2 : FloatFmt := ⟨3, 2, 3, .none, 0⟩
/-- E2M3. -/
def fE2M3 : FloatFmt := ⟨2, 3, 1, .none, 0⟩
/-- E2M1. -/
def fE2M1 : FloatFmt := ⟨2, 1, 1, .none, 0⟩

/-- The kinds of element a format code names. -/
inductive Elem where
  | float (f : FloatFmt)
  | int (bits : Nat)
  | exact
  deriving DecidableEq, Repr

/-- The element of a format code; `none` for the reserved codes (R331). -/
def elemOf (code : Nat) : Option Elem :=
  match code with
  | 0x1 => some (.float fE4M3)
  | 0x2 => some (.float fE5M2)
  | 0x3 => some (.float fE4M3)
  | 0x4 => some (.float fE5M2)
  | 0x5 => some (.float fE3M2)
  | 0x6 => some (.float fE2M3)
  | 0x7 => some (.float fE2M1)
  | 0x8 => some (.float fE2M1)
  | 0x9 => some (.float fBF16)
  | 0xA => some (.float fFP16)
  | 0xB => some (.int 8)
  | 0xC => some (.float fFP32)
  | 0xD => some (.int 32)
  | 0xE => some .exact
  | _ => none

/-- The code is an MX format (R331). -/
def isMx (code : Nat) : Bool := 3 ≤ code && code ≤ 7

/-- Element bits of a format code (R331). -/
def elemBits (code : Nat) : Nat :=
  match elemOf code with
  | some (.float f) => 1 + f.ebits + f.mbits
  | some (.int b) => b
  | some .exact => 384
  | none => 8

/-- Packed bytes of `n` elements of a row (R334). -/
def packedSize (code n : Nat) : Nat :=
  if elemBits code = 6 then (n + 3) / 4 * 3 else (n * elemBits code + 7) / 8

/-- Element `j` of packed bytes, as a bit pattern (R334). -/
def elemAt (code : Nat) (l : List Byte) (j : Nat) : Nat :=
  let w := elemBits code
  field l (j * w / 8) (w / 8 + 2) / 2 ^ (j * w % 8) % 2 ^ w

/-- Bit patterns packed into `packedSize` bytes (R334). -/
def packElems (code : Nat) (l : List Nat) : List Byte :=
  leBytes (packedSize code l.length) (l.foldr (fun x acc => x % 2 ^ elemBits code + 2 ^ elemBits code * acc) 0)

/-- The value of a float pattern (R332). -/
def floatValue (f : FloatFmt) (b : Nat) : Num :=
  let m := b % 2 ^ f.mbits
  let e := b / 2 ^ f.mbits % 2 ^ f.ebits
  let neg := bit b (f.ebits + f.mbits)
  let top := decide (e + 1 = 2 ^ f.ebits)
  if f.special = .ieee ∧ top = true then (if m = 0 then .inf neg else .nan)
  else if f.special = .nanOnly ∧ top = true ∧ m + 1 = 2 ^ f.mbits then .nan
  else if e = 0 then .fin neg m (1 - f.bias - f.mbits)
  else .fin neg (m + 2 ^ f.mbits) (e - f.bias - f.mbits)

/-- Two's complement value of the low `w` bits. -/
def intValue (w b : Nat) : Int := if b % 2 ^ w < 2 ^ (w - 1) then (b % 2 ^ w : Nat) else (b % 2 ^ w : Nat) - (2 ^ w : Nat)

/-! ## Rounding (R336, R339, R340) -/

/-- The mixing function of R340. -/
def mix64 (z : W64) : W64 :=
  let z := (z ^^^ (z >>> 30)) * 0xBF58476D1CE4E5B9#64
  let z := (z ^^^ (z >>> 27)) * 0x94D049BB133111EB#64
  z ^^^ (z >>> 31)

/-- The random bits of R340. -/
def srBits (seed : W64) (stream : W32) (index : Nat) : Nat :=
  let k := mix64 (seed + stream.zeroExtend 64 * 0x9E3779B97F4A7C15#64)
  (mix64 (k + w64 index * 0x9E3779B97F4A7C15#64) >>> 32).toNat

/-- A rounding: to nearest even, or stochastic with 32 random bits. -/
inductive Rnd where
  | rne
  | sr (r : Nat)
  deriving DecidableEq, Repr

/-- The rounding of element `index` of an operation. -/
def rndOf (sr : Bool) (seed : W64) (stream : W32) (index : Nat) : Rnd :=
  if sr then .sr (srBits seed stream index) else .rne

/-- m / 2^sh rounded to an integer. -/
def roundShift (r : Rnd) (m sh : Nat) : Nat :=
  let n := m >>> sh
  let rem := m % 2 ^ sh
  match r with
  | .rne => if 2 ^ sh < 2 * rem ∨ (2 * rem = 2 ^ sh ∧ n % 2 = 1) then n + 1 else n
  | .sr x => if 2 ^ 32 ≤ rem * 2 ^ 32 / 2 ^ sh + x then n + 1 else n

/-- m × 2^e rounded to a multiple of 2^u: the multiple. -/
def roundAt (r : Rnd) (m : Nat) (e u : Int) : Nat :=
  if u ≤ e then m <<< (e - u).toNat else roundShift r m (u - e).toNat

/-- The exponent of the unit in the last place of a target for m × 2^e (R339). -/
def ulpExp (f : FloatFmt) (m : Nat) (e : Int) : Int := max ((Nat.log2 m : Int) + e) (1 - f.bias) - f.mbits

/-- The largest finite pattern without its sign (R332). -/
def FloatFmt.largest (f : FloatFmt) : Nat :=
  match f.special with
  | .ieee => (2 ^ f.ebits - 1) * 2 ^ f.mbits - 1
  | .nanOnly => 2 ^ (f.ebits + f.mbits) - 2
  | .none => 2 ^ (f.ebits + f.mbits) - 1

/-- A pattern with its sign. -/
def FloatFmt.withSign (f : FloatFmt) (neg : Bool) (b : Nat) : Nat := b2n neg * 2 ^ (f.ebits + f.mbits) + b

/-- The unsigned pattern of n × 2^u, n a rounded significand: it may lie past the largest. -/
def FloatFmt.pattern (f : FloatFmt) (n : Nat) (u : Int) : Nat :=
  if n < 2 ^ f.mbits then n
  else ((u + f.mbits + f.bias).toNat - 1) * 2 ^ f.mbits + n

/-- Infinity, or the largest where the format has none or saturates (R337). -/
def FloatFmt.over (f : FloatFmt) (neg sat : Bool) : Nat :=
  if f.special = .ieee ∧ sat = false then f.withSign neg (f.largest + 1) else f.withSign neg f.largest

/-- Conversion to a float format (R337): the pattern and the flags. -/
def toFloat (f : FloatFmt) (r : Rnd) (sat : Bool) : Num → Nat × NumFlags
  | .nan => if f.special = .none then (0, flagsInvalid) else (f.canonicalNan, {})
  | .inf neg => (f.over neg sat, if f.special = .ieee ∧ sat = false then {} else flagsOverflow)
  | .fin neg m e =>
    if m = 0 then (f.withSign neg 0, {})
    else
      let u := ulpExp f m e
      let b := f.pattern (roundAt r m e u) u
      if f.largest < b then (f.over neg sat, flagsOverflow) else (f.withSign neg b, {})

/-- Conversion to a `w`-bit integer (R337). -/
def toInt (w : Nat) (r : Rnd) : Num → Nat × NumFlags
  | .nan => (0, flagsInvalid)
  | .inf neg => (if neg then 2 ^ (w - 1) else 2 ^ (w - 1) - 1, flagsOverflow)
  | .fin neg m e =>
    let n := roundAt r m e 0
    if neg then (if 2 ^ (w - 1) < n then (2 ^ (w - 1), flagsOverflow) else ((2 ^ w - n) % 2 ^ w, {}))
    else if 2 ^ (w - 1) ≤ n then (2 ^ (w - 1) - 1, flagsOverflow)
    else (n, {})

/-! ## The exact accumulator (R354 to R356) -/

/-- Add two accumulators field by field: values modulo 2^320, flags ORed. -/
def exactAdd (a b : BitVec 384) : BitVec 384 :=
  let v := (a.toNat % 2 ^ 320 + b.toNat % 2 ^ 320) % 2 ^ 320
  let g := (a.toNat / 2 ^ 320 % 8) ||| (b.toNat / 2 ^ 320 % 8)
  BitVec.ofNat 384 (g * 2 ^ 320 + v)

/-- A value as an accumulator: a multiple of 2^-149, or a flag. -/
def exactOf : Num → BitVec 384
  | .nan => BitVec.ofNat 384 (2 ^ 320)
  | .inf neg => BitVec.ofNat 384 (if neg then 2 ^ 322 else 2 ^ 321)
  | .fin neg m e =>
    let v := shiftTo m e (-149) % 2 ^ 320
    BitVec.ofNat 384 (if neg then (2 ^ 320 - v) % 2 ^ 320 else v)

/-- The value of an accumulator (R356). -/
def exactNum (a : BitVec 384) : Num :=
  let g := a.toNat / 2 ^ 320 % 8
  if g % 2 = 1 ∨ g / 2 = 3 then .nan
  else if bit g 1 then .inf false
  else if bit g 2 then .inf true
  else ofSigned (intValue 320 a.toNat) (-149)

/-! ## Elements -/

/-- The value of an element pattern of a code. -/
def numOf (code b : Nat) : Num :=
  match elemOf code with
  | some (.float f) => floatValue f b
  | some (.int w) => ofSigned (intValue w b) 0
  | some .exact => exactNum (BitVec.ofNat 384 b)
  | none => .nan

/-- Conversion to an element of a code (R337, R379: to X384 exactly). -/
def convertTo (code : Nat) (r : Rnd) (sat : Bool) (x : Num) : Nat × NumFlags :=
  match elemOf code with
  | some (.float f) => toFloat f r sat x
  | some (.int w) => toInt w r x
  | some .exact => ((exactOf x).toNat, {})
  | none => (0, {})

/-! ## FP32 arithmetic (R336) -/

/-- The value of an FP32 pattern. -/
def fp (b : W32) : Num := floatValue fFP32 b.toNat

/-- Round to FP32 by RNE. -/
def toFp (x : Num) : W32 := w32 (toFloat fFP32 .rne false x).1

/-- The flags of an FP32 result formed from operands: NaN from no NaN, or infinity from finite ones. -/
def fpFlags (ops : List Num) (exact : Num) : NumFlags :=
  if exact.isNan then (if ops.any Num.isNan then {} else flagsInvalid)
  else if exact.isFin then (toFloat fFP32 .rne false exact).2
  else {}

/-- FP32 addition. -/
def fpAdd (a b : W32) : W32 × NumFlags :=
  let x := (fp a).add (fp b)
  (toFp x, fpFlags [fp a, fp b] x)

/-- FP32 multiplication. -/
def fpMul (a b : W32) : W32 × NumFlags :=
  let x := (fp a).mul (fp b)
  (toFp x, fpFlags [fp a, fp b] x)

/-- FP32 subtraction. -/
def fpSub (a b : W32) : W32 × NumFlags :=
  let x := (fp a).add (fp b).neg
  (toFp x, fpFlags [fp a, fp b] x)

/-- A quotient m / n × 2^e with enough bits to round once: a sticky last bit stands for the rest. -/
def quotient (m n : Nat) (e : Int) : Nat × Int :=
  let k := 64 + (Nat.log2 n + 1 - Nat.log2 m)
  let q := (m <<< k) / n
  (2 * q + b2n ((m <<< k) % n != 0), e - k - 1)

/-- The exact quotient, as far as FP32 rounding can tell (R406: correctly rounded). -/
def Num.div : Num → Num → Num
  | .nan, _ => .nan
  | _, .nan => .nan
  | .inf _, .inf _ => .nan
  | .inf a, .fin b _ _ => .inf (a != b)
  | .fin a _ _, .inf b => .fin (a != b) 0 0
  | .fin a m e, .fin b n f =>
    if n = 0 then (if m = 0 then .nan else .inf (a != b))
    else if m = 0 then .fin (a != b) 0 0
    else
      let q := quotient m n (e - f)
      .fin (a != b) q.1 q.2

/-- FP32 division. -/
def fpDiv (a b : W32) : W32 × NumFlags :=
  let x := (fp a).div (fp b)
  (toFp x, fpFlags [fp a, fp b] x)

/-- The integer square root below 2^n: bit by bit, `r` found so far. -/
def isqrt (v : Nat) : Nat → Nat → Nat
  | 0, r => r
  | n + 1, r => if (r + 2 ^ n) * (r + 2 ^ n) ≤ v then isqrt v n (r + 2 ^ n) else isqrt v n r

/-- The square root, as far as FP32 rounding can tell (R406: correctly rounded). -/
def Num.sqrt : Num → Num
  | .nan => .nan
  | .inf a => if a then .nan else .inf false
  | .fin a m e =>
    if m = 0 then .fin a 0 0
    else if a then .nan
    else
      let k := 64 + (e % 2).toNat
      let v := m <<< k
      let r := isqrt v (Nat.log2 v / 2 + 1) 0
      .fin false (2 * r + b2n (r * r != v)) ((e - k) / 2 - 1)

/-- FP32 square root. -/
def fpSqrt (a : W32) : W32 × NumFlags :=
  let x := (fp a).sqrt
  (toFp x, fpFlags [fp a] x)

/-- FP32 maximum or minimum: −0 below +0, NaN from any NaN (R358). -/
def fpPick (max : Bool) (a b : W32) : W32 :=
  if (fp a).isNan || (fp b).isNan then 0x7FC00000#32
  else if (fp a).lt (fp b) then (if max then b else a) else (if max then a else b)

/-! ## MX blocks (R335, R338) -/

/-- The value of an MX element under its scale byte. -/
def mxValue (code scale b : Nat) : Num :=
  if scale = 0xFF then .nan else (numOf code b).scale ((scale : Int) - 127)

/-- The largest normal exponent of an MX element format. -/
def mxEmax (code : Nat) : Int :=
  if code = 3 then 8 else if code = 4 then 15 else if code = 5 then 4 else 2

/-- The larger of two magnitudes. -/
def maxAbs (a b : Num) : Num := if a.lt b.abs then b.abs else a

/-- floor(log2 |x|) of a finite value. -/
def log2Of : Num → Int
  | .fin _ m e => (Nat.log2 m : Int) + e
  | .nan => 0
  | .inf _ => 0

/-- The value is zero. -/
def Num.isZero : Num → Bool
  | .fin _ m _ => m == 0
  | .nan => false
  | .inf _ => false

/-- Quantise up to 32 values into a block (R338): the scale byte, the elements, the flags; `rnd` gives the rounding of
each place. -/
def quantise (code : Nat) (rnd : Nat → Rnd) (l : List Num) : Nat × List Nat × NumFlags :=
  if l.any fun x => !x.isFin then (0xFF, l.map fun _ => 0, flagsInvalid)
  else
    let amax := l.foldl maxAbs Num.zero
    let e := if amax.isZero then 0 else max (-127) (min 127 (log2Of amax - mxEmax code))
    let r := l.zipIdx.map fun x => convertTo code (rnd x.2) true (x.1.scale (-e))
    ((e + 127).toNat, r.map fun x => x.1, (r.map fun x => x.2).foldl NumFlags.or {})

/-! ## Reductions (R357, R358) -/

/-- Combine two patterns in a mode: 0 FP32 and 1 ordered on FP32 patterns, 2 exact on accumulators, 3 integer on INT32
patterns; operations are 0 sum, 1 max, 2 min. -/
def combine (mode operation : Nat) (a b : BitVec 384) : BitVec 384 × NumFlags :=
  let x := a.truncate 32
  let y := b.truncate 32
  if mode = 2 then (exactAdd a b, {})
  else if mode = 3 then
    (BitVec.zeroExtend 384 (if operation = 0 then x + y
      else if decide (x.toInt < y.toInt) == (operation == 1) then y else x), {})
  else if operation = 0 then
    let r := fpAdd x y
    (r.1.zeroExtend 384, r.2)
  else ((fpPick (operation == 1) x y).zeroExtend 384, {})

/-- The carry format of a mode (R393). -/
def carryCode (mode : Nat) : Nat := if mode = 2 then 0xE else if mode = 3 then 0xD else 0xC

/-- An element as a carry pattern: exact in every mode (R358, R359). -/
def toCarry (mode code b : Nat) : BitVec 384 :=
  if code = carryCode mode then BitVec.ofNat 384 b
  else if mode = 2 then exactOf (numOf code b)
  else if mode = 3 then BitVec.ofNat 384 b
  else (toFp (numOf code b)).zeroExtend 384

/-- A carry pattern as an element of an output format (R356, R358): an accumulator or an integer goes out as it is, a
value is converted under R337, to FP32 too. -/
def ofCarry (mode code : Nat) (r : Rnd) (sat : Bool) (c : BitVec 384) : Nat × NumFlags :=
  if code = carryCode mode ∧ code ≠ 0xC then (c.toNat, {}) else convertTo code r sat (numOf (carryCode mode) c.toNat)

/-- The mode, operation and formats combine (R357). -/
def reductionFits (mode operation inFmt outFmt : Nat) : Bool :=
  let value := fun c => c == 1 || c == 2 || c == 9 || c == 0xA || c == 0xC
  if mode = 2 then operation == 0 && (value inFmt || inFmt == 0xE) && (value outFmt || outFmt == 0xE)
  else if mode = 3 then inFmt == 0xD && outFmt == 0xD
  else (mode == 0 || operation == 0) && value inFmt && value outFmt

end Sys2Proof.Machine
end

