-- ==== Sys2Proof/Machine/Congest.lean ====
section
/-!
DEFINITION. Machine/Congest.lean: the congestion cache and its rate law, the meters and the deficit round robins
(chapter 08). Delays and times of the cache are Meridian units; rates are units of 1/64 GB/s.
-/

namespace Sys2Proof.Machine

/-- The cause that the wait and no_record of a retry-after NAK name, in the order of `Count.retrySentCause` (R238). -/
def retryCause (wait : Nat) (noRecord : Bool) : Nat :=
  if wait = 5 then 0 else if wait = 10 then 1 else if wait = 20 then (if noRecord then 2 else 3) else 4

/-! ## The congestion cache (R271 to R275) -/

/-- The cache entry of a destination. -/
def State.congest? (s : State) (q dst : Nat) : Option Congest := (s.quad q).congestion.find? fun c => c.dest == dst

/-- Change the cache entry of a destination. -/
def State.modCongest (s : State) (q dst : Nat) (g : Congest → Congest) : State :=
  s.modQuad q fun d => { d with congestion := d.congestion.map fun c => if c.dest == dst then g c else c }

/-- The least recently used entry without outstanding messages (R272). -/
def lruEntry (l : List Congest) : Option Congest :=
  (l.filter fun c => c.outstanding == 0).foldl (fun b c =>
    match b with
    | none => some c
    | some x => if c.lastUse < x.lastUse then some c else some x) none

/-- A rate in the limits of R274. -/
def clampRate (t : Txs) (r : Nat) : Nat := min 6400 (max t.minRate r)

/-- The home quadrant of a send queue (R19). -/
def State.queueHome (s : State) (q : Nat) : Nat :=
  match s.queue? q with
  | some x => x.home
  | none => 0

/-- A fresh entry of a destination (R272). -/
def State.newCongest (s : State) (q dst : Nat) : Congest :=
  { dest := dst, rate := min 6400 s.txs.initRate, nextSend := s.mtQ q, lastSample := s.clk, lastUse := s.clk }

/-- An entry for the destination: the one there, a free one, or the least recently used idle one; `none` when every
entry has messages outstanding (R272). -/
def State.ensureCongest (s : State) (q dst : Nat) : Option State :=
  match s.congest? q dst with
  | some _ => some s
  | none =>
    let l := (s.quad q).congestion
    if l.length < 2048 then some (s.modQuad q fun d => { d with congestion := l ++ [s.newCongest q dst] })
    else
      match lruEntry l with
      | some v => some ((s.modQuad q fun d => { d with
          congestion := (l.filter fun c => c.dest != v.dest) ++ [s.newCongest q dst] }).countIn (scopeWord 1 0 q) Count.cacheEviction)
      | none => none

/-- The base delay (R271). -/
def Congest.base (c : Congest) : Option Nat :=
  match c.baseNow, c.basePrev with
  | some a, some b => some (min a b)
  | some a, none => some a
  | none, b => b

/-- 2d, 20 µs while d is absent (R274). -/
def Congest.guard (c : Congest) : Nat :=
  match c.delay with
  | some d => 2 * d
  | none => mtUs 20

/-- No decrease within the last 2d. -/
def Congest.mayDecrease (c : Congest) (now : Nat) : Bool :=
  match c.lastDecrease with
  | some t => t + c.guard ≤ now
  | none => true

/-- No decrease within 2d and no increase within the increase period. -/
def Congest.mayIncrease (c : Congest) (t : Txs) (now : Nat) : Bool :=
  c.mayDecrease now && match c.lastIncrease with
    | some x => x + t.increasePeriod * 16 ≤ now
    | none => true

/-- Lower the rate, unless a decrease lies within 2d (R274). -/
def Congest.decrease (c : Congest) (t : Txs) (now rate : Nat) : Congest :=
  if c.mayDecrease now then { c with rate := clampRate t rate, lastDecrease := some now } else c

/-- A sample lies above the target delay (R271). -/
def Congest.above (c : Congest) (t : Txs) (sample : Nat) : Option Nat :=
  match c.base with
  | some b => if b + t.targetSlack * 16 < sample then some (b + t.targetSlack * 16) else none
  | none => none

/-- R × max(1 − beta × (s − t)/s, md_floor), rounded down. -/
def delayRate (x : Txs) (rate sample target : Nat) : Nat :=
  rate * max (8 * sample - x.beta * (sample - target)) (x.mdFloor * sample) / (8 * sample)

/-- The new rate for a reply with a sample and its mark (R274): the first four rows. -/
def Congest.react (c : Congest) (t : Txs) (now : Nat) (sample : Option Nat) (marked : Bool) : Congest :=
  let high := sample.bind fun x => (c.above t x).map fun g => delayRate t c.rate x g
  match high with
  | some r => c.decrease t now (if marked then min r (c.rate * 7 / 8) else r)
  | none =>
    if marked then c.decrease t now (c.rate * 7 / 8)
    else if sample.isSome && c.mayIncrease t now then
      { c with rate := clampRate t (c.rate + t.ai), lastIncrease := some now }
    else c

/-- A sample enters d and the current minimum (R271, R274). -/
def Congest.enter (c : Congest) (clk : Nat) (sample : Option Nat) : Congest :=
  match sample with
  | none => c
  | some x => { c with
      delay := some (match c.delay with
        | some d => (7 * d + x) / 8
        | none => x)
      baseNow := some (min x (c.baseNow.getD x)), lastSample := clk }

/-- The forward delay sample of a reply, taken only while LOCKED (R268). -/
def State.sampleOf (s : State) (pkt : Packet) : Option Nat :=
  if s.mer.lock == .locked then
    let v := (pkt.send - pkt.spec.echo).toNat
    some (if 2 ^ 31 ≤ v then 0 else v)
  else none

/-- Count a rate decrease by its event: 0 a sample above the target, 1 a mark, 2 both, 3 a refusal, 4 a timeout (R284). -/
def State.countDecrease (s : State) (q event : Nat) : State :=
  (s.count Count.rateDecreases).countIn (scopeWord 1 0 q) (Count.rateDecreaseEvent + event)

/-- A reply without a rate event of its own is applied to the entry of its destination. -/
def State.ccReply (s : State) (q dst : Nat) (pkt : Packet) : State :=
  match s.congest? q dst with
  | none => s
  | some c =>
    let x := s.sampleOf pkt
    let high := (x.bind fun v => c.above s.txs v).isSome
    let marked := pkt.hop.congMark
    let t := s.modCongest q dst fun c => (c.react s.txs (s.mtQ q) x marked).enter s.clk x
    if (high || marked) && c.mayDecrease (s.mtQ q) then t.countDecrease q (if high && marked then 2 else b2n marked) else t

/-- A congestive refusal (event 3) or a retransmission timeout (event 4) halves the rate (R274). -/
def State.ccHalve (s : State) (q dst event : Nat) : State :=
  match s.congest? q dst with
  | none => s
  | some c =>
    let t := s.modCongest q dst fun c => c.decrease s.txs (s.mtQ q) (c.rate / 2)
    if c.mayDecrease (s.mtQ q) then t.countDecrease q event else t

/-- After a paced copy of accounted length `n`, the next one waits n/R (R275); a unit of rate moves one byte in
1,024 Meridian units. -/
def State.pace (s : State) (q dst n : Nat) : State :=
  s.modCongest q dst fun c => { c with nextSend := max c.nextSend (s.mtQ q) + n * 1024 / max 1 c.rate, lastUse := s.clk }

/-! ## Meters (R280, R281) -/

/-- The weight of a pair in force at a port (R278, R285). -/
def Port.weight (x : Port) (p tc : Nat) : Nat := tblGetD x.weights (p * 8 + tc) 1

/-- W(q) of a group: 0 strict, 1 weighted (R280). -/
def Port.groupWeight (x : Port) (p g : Nat) : Nat :=
  if g = 0 then x.weight p 6 else ((List.range 6).map fun c => x.weight p c).sum

/-- T of a group. -/
def Port.totalWeight (x : Port) (g : Nat) : Nat := ((List.range 16).map fun p => x.groupWeight p g).sum

/-- The port's rate P in bytes per second: the configured rate of an Ethernet port (R280). -/
def Port.rateOf (x : Port) : Nat := if x.mode = 3 then x.eth.rate * 125000000 else 100000000000

/-- CIR and PIR in whole bytes per second, rounded down (DESIGN CHOICE, assumption log 75). -/
def Port.meterRates (x : Port) (p g : Nat) : Nat × Nat :=
  let w := x.groupWeight p g
  if g = 0 then (x.rateOf * w / 65536, min (2 * (x.rateOf * w / 65536)) x.rateOf)
  else (if x.totalWeight 1 = 0 then 0 else x.rateOf * w / x.totalWeight 1, x.rateOf)

/-- The burst sizes CBS and PBS. -/
def meterBursts (g : Nat) : Nat × Nat := (65536, if g = 0 then 131072 else 262144)

/-- A bucket level of one byte: the fill of a clock at one byte per second is the unit. -/
def bucketByte : Nat := 1600000000

/-- A meter's buckets at this clock, refilled since the last use; one never used is full. -/
def Port.meterNow (x : Port) (clk p g : Nat) : Meter :=
  let (cbs, pbs) := meterBursts g
  match tblGet x.meters (p * 2 + g) with
  | none => { committed := cbs * bucketByte, peak := pbs * bucketByte, lastFill := clk }
  | some m =>
    let (cir, pir) := x.meterRates p g
    let dt := clk - m.lastFill
    { m with committed := min (cbs * bucketByte) (m.committed + cir * dt)
             peak := min (pbs * bucketByte) (m.peak + pir * dt), lastFill := clk }

/-- Green 0, yellow 1 or red 2 for a packet of accounted length `n` (RFC 2698, colour-blind). -/
def Meter.colour (m : Meter) (n : Nat) : Nat :=
  if m.peak < n * bucketByte then 2 else if m.committed < n * bucketByte then 1 else 0

/-- Take a coloured packet's bytes from the buckets. -/
def Meter.take (m : Meter) (n : Nat) : Meter :=
  match m.colour n with
  | 0 => { m with committed := m.committed - n * bucketByte, peak := m.peak - n * bucketByte }
  | 1 => { m with peak := m.peak - n * bucketByte }
  | _ => m

/-- Fill every meter in use up to this clock, at the rates in force (R285). -/
def Port.fillMeters (x : Port) (clk : Nat) : Port :=
  { x with meters := tblMap x.meters fun i _ => x.meterNow clk (i / 2) (i % 2) }

/-- The meter group of a traffic class. -/
def groupOf (tc : Nat) : Nat := if tc = 6 then 0 else 1

/-- Colour a packet of accounted length `n` when it is first offered, and charge its meter: the refill comes first (R281,
R288). A pair whose weight is 0 is outside metering, and its begun messages count as green (R279). -/
def Port.paint (x : Port) (clk p tc n : Nat) : Nat × Port :=
  if x.weight p tc = 0 then (0, x)
  else
    let m := x.meterNow clk p (groupOf tc)
    (m.colour n, { x with meters := tblSet x.meters (p * 2 + groupOf tc) (m.take n) })

/-- Count a coloured packet in its meter, number port × 32 + partition × 2 + group (R284). -/
def State.meterCount (s : State) (port p tc colour n : Nat) : State :=
  let scope := scopeWord 6 p (port * 32 + p * 2 + groupOf tc)
  (s.countIn scope (Count.meterColour + colour)).countIn scope (Count.meterColour + 3 + colour) n

/-- The accounted length of a native packet (R282). -/
def Port.accounted (x : Port) (payload : Nat) : Nat := 64 + payload + 16 + x.overhead

/-! ## Deficit round robins (R277, R278) -/

/-- The round robin of a packet: 0 green tc 6, 1 green tc 0 to 5, 2 yellow tc 6, 3 yellow tc 0 to 5. -/
def robinOf (tc colour : Nat) : Nat := colour * 2 + groupOf tc

/-- The credit of a pair in a round robin. -/
def Port.credit (x : Port) (robin pair : Nat) : Int :=
  match (x.robins.getD robin {}).credits.find? fun r => r.1 == pair with
  | some r => r.2
  | none => 0

/-- Set the credit of a pair. -/
def Port.setCredit (x : Port) (robin pair : Nat) (c : Int) : Port :=
  { x with robins := x.robins.modify robin fun r => { r with
      credits := (pair, c) :: r.credits.filter fun e => e.1 != pair } }

/-- Offer a packet of a pair: its length is deducted, and the round stands at this pair. -/
def Port.serve (x : Port) (robin pair n : Nat) : Port :=
  let x := x.setCredit robin pair (x.credit robin pair - n)
  { x with robins := x.robins.modify robin fun r => { r with lastPair := pair, left := r.left.dropWhile fun p => p != pair } }

/-- A pair's gain at the start of a round; a paused pair with begun messages counts as weight 1 (R278, R279). -/
def Port.gain (x : Port) (robin pair : Nat) : Port :=
  let w := max 1 (x.weight (pair / 8) (pair % 8))
  x.setCredit robin pair (min (x.credit robin pair + w * 64) (w * 128))

/-- Put a pair in its place in a round that begins after pair `last`, once (R278). -/
def placePair (last pair : Nat) : List Nat → List Nat
  | [] => [pair]
  | p :: r =>
    if p = pair then p :: r
    else if (pair + 127 - last) % 128 < (p + 127 - last) % 128 then pair :: p :: r
    else p :: placePair last pair r

/-- Start the next round of a robin over the pairs that offer packets: every pair of the old round has been visited, the
new one begins after the last of them, and each of its pairs gains (R278). -/
def Port.startRound (x : Port) (robin : Nat) (offering : List Nat) : Port :=
  let r := x.robins.getD robin {}
  let last := r.left.getLast?.getD r.lastPair
  let round := offering.foldl (fun l p => placePair last p l) []
  let x := { x with robins := x.robins.modify robin fun r => { r with lastPair := last, left := round } }
  round.foldl (fun x p => x.gain robin p) x

end Sys2Proof.Machine
end

