-- ==== Sys2Proof/Machine/Egress.lean ====
section
/-!
DEFINITION. Machine/Egress.lean: what an Ethernet port sends and when it may send it (R277, R443, R446 to R448, R455 to
R457, R462).
-/

namespace Sys2Proof.Machine

/-! ## Ports -/

/-- Count in one of a port's ten saturating counters (R449). -/
def State.ethCount (s : State) (port i n : Nat) : State :=
  s.modPort port fun x => { x with eth := { x.eth with
    counters := x.eth.counters.set i (w64 (min (2 ^ 64 - 1) ((x.eth.counters.getD i 0).toNat + n))) } }

/-- The port is in Ethernet mode. -/
def State.isEth (s : State) (port : Nat) : Bool := (s.port port).mode == 3

/-- The MAC address of a port (R443). -/
def portMac (port : Nat) : Nat := (Config.macBase + BitVec.ofNat 48 port).toNat

/-- Change a queue pair. -/
def State.modQp (s : State) (i : Nat) (g : QueuePair → QueuePair) : State :=
  match tblGet s.qps i with
  | some x => { s with qps := tblSet s.qps i (g x) }
  | none => s

/-- The path MTU in bytes (R459). -/
def QueuePair.bytes (q : QueuePair) : Nat := if q.mtu = 1 then 1024 else if q.mtu = 2 then 2048 else 4096

/-! ## Gates (R453, R455, R456): times in Meridian units, 16 to a nanosecond -/

/-- A cycle split at an offset: what is left of the entry that stands there, and the entries from it on, cyclically. -/
def splitCycle : List (Nat × BitVec 8) → Nat → List (Nat × BitVec 8) → Nat × List (Nat × BitVec 8)
  | [], _, _ => (0, [])
  | e :: r, off, done =>
    if off < e.1 * 16 then (e.1 * 16 - off, e :: r ++ done) else splitCycle r (off - e.1 * 16) (done ++ [e])

/-- How long the gate of a class stays open from an offset of the cycle on; `none` where it never closes. -/
def GateList.openFor (g : GateList) (tc off : Nat) : Option Nat :=
  match splitCycle g.entries off [] with
  | (_, []) => none
  | (left, e :: more) =>
    if !e.2.getLsbD tc then some 0
    else
      let run := more.takeWhile fun e => e.2.getLsbD tc
      if run.length = more.length then none else some (left + (run.map fun e => e.1).sum * 16)

/-- The list in force at a time, and its base: from the takeover on it is the pending one (R456). -/
def EthPort.listAt (x : EthPort) (mt : Nat) : Option (GateList × Nat) :=
  match x.takeover, x.pending with
  | some t, some g => if t ≤ mt then some (g, t) else x.active.map fun a => (a, x.gateBase.toNat)
  | _, _ => x.active.map fun a => (a, x.gateBase.toNat)

/-- The place in a list's cycle, from its base and cycle time alone, so that a step of MER_NOW moves it (R455). -/
def GateList.position (g : GateList) (base mt : Nat) : Nat := ((Int.ofNat mt - Int.ofNat base) % Int.ofNat (g.cycle * 16)).toNat

/-- The Meridian time at which the current cycle began (ETH_GATE_BASE); 0 with no list in force. -/
def EthPort.cycleStart (x : EthPort) (mt : Nat) : Nat :=
  match x.listAt mt with
  | some (g, base) => mt - g.position base mt
  | none => 0

/-- The first cycle boundary of the active list at or after a time; the time itself where no list is active (R456). -/
def EthPort.boundary (x : EthPort) (t : Nat) : Nat :=
  match x.active with
  | some g => t + ((Int.ofNat x.gateBase.toNat - Int.ofNat t) % Int.ofNat (g.cycle * 16)).toNat
  | none => t

/-- How long the gate of a class stays open from a time on, across a takeover on the list then in force (R455). -/
def EthPort.openUntil (x : EthPort) (mt tc : Nat) : Option Nat :=
  let now := (x.listAt mt).bind fun l => l.1.openFor tc (l.1.position l.2 mt)
  match x.takeover, x.pending with
  | some t, some g =>
    if t ≤ mt then now
    else
      let joined := (g.openFor tc 0).map fun n => t - mt + n
      match now with
      | some n => if n < t - mt then some n else joined
      | none => joined
  | _, _ => now

/-- The gate of a class is open. -/
def EthPort.gateOpen (x : EthPort) (mt tc : Nat) : Bool := x.openUntil mt tc != some 0

/-- A frame of an accounted length ends, at the port rate, before its window closes (R455). -/
def EthPort.frameFits (x : EthPort) (mt tc len : Nat) : Bool :=
  match x.openUntil mt tc with
  | none => true
  | some n => decide (n ≠ 0 ∧ len * 128 ≤ n * x.rate)

/-- A priority is paused (R446). -/
def EthPort.isPaused (x : EthPort) (pcp clk : Nat) : Bool :=
  x.pfcHonour.getLsbD pcp && x.paused.any fun p => p.1 == pcp && decide (clk < p.2)

/-! ## Frames -/

/-- Octets of a frame around `n` bytes of transport: Ethernet with FCS, C-tag, IP, and ESP (assumption log 11). -/
def frameOctets (tagged v6 protect : Bool) (n : Nat) : Nat :=
  let n := if protect then n + 34 + (4 - (n + 2) % 4) % 4 else n
  max 64 (18 + (if tagged then 4 else 0) + (if v6 then 40 else 20) + n)

/-- The security association of a remote address. -/
def Partition.sa? (x : Partition) (ip : List Byte) (family : Nat) : Option SecAssoc :=
  x.sas.find? fun a => a.ip == ip && a.family == family

/-- Change the security association of a remote address. -/
def State.modSa (s : State) (p : Nat) (ip : List Byte) (family : Nat) (g : SecAssoc → SecAssoc) : State :=
  s.modPart p fun x => { x with sas := x.sas.map fun a => if a.ip == ip && a.family == family then g a else a }

/-- A frame is formed and waits for its turn. -/
def State.queueFrame (s : State) (f : EthFrame) : State :=
  s.modPort f.env.port fun x => { x with eth := { x.eth with egress := x.eth.egress ++ [{ f with since := s.clk }] } }

/-- A frame of the port's own: class 7, priority 7, untagged, no partition (R448). -/
def State.queueOwn (s : State) (port dst octets kind : Nat) (body : List Nat) : State :=
  s.queueFrame { env := { port, dst, octets }, body := .own kind body }

/-- A queue pair's frame: a request of its class and rate, or a reply in class 7, each with the pair's priority, DSCP and
ECT(0); `n` bytes follow the BTH (R447, R448, R460, R462). -/
def QueuePair.frame (q : QueuePair) (qp : Nat) (reply : Bool) (kind psn n : Nat) (body : List W64) : EthFrame :=
  { env := {
      port := q.port, tc := if reply then 7 else q.tc, tag := if q.vid = 0 then none else some (q.vid, q.pcp)
      priority := q.pcp, ip := some (q.v6, q.ip), dscp := q.dscp, ecn := 2
      octets := frameOctets (q.vid != 0) q.v6 q.protect (24 + n) }
    body := .rdma q.remoteQp kind psn body, partition := q.partition, protect := q.protect
    qp := if reply then none else some qp }

/-- A controller's frame; `n` bytes follow the IP header (R447, R448). -/
def Controller.frame (x : Controller) (c kind n : Nat) (body : List W64) : EthFrame :=
  { env := {
      port := x.port, tc := x.tc, tag := if x.vid = 0 then none else some (x.vid, x.pcp), priority := x.pcp
      ip := some (x.v6, x.ip), dscp := x.dscp, ecn := 2, octets := frameOctets (x.vid != 0) x.v6 x.protect n }
    body := .nvme c kind body, partition := x.partition, protect := x.protect }

/-- A queue pair has frames waiting. -/
def State.qpWaiting (s : State) (port qp : Nat) : Bool := (s.port port).eth.egress.any fun f => f.qp == some qp

/-- A controller has frames waiting. -/
def State.ctlWaiting (s : State) (port c : Nat) : Bool :=
  (s.port port).eth.egress.any fun f => match f.body with
    | .nvme k _ _ => k == c
    | .rdma _ _ _ _ => false
    | .own _ _ => false

/-- Drop the requests of a queue pair that wait. -/
def State.dropQpFrames (s : State) (port qp : Nat) : State :=
  s.modPort port fun x => { x with eth := { x.eth with egress := x.eth.egress.filter fun f => f.qp != some qp } }

/-! ## What is offered (R277, R279, R446, R455) -/

/-- The pair of a frame; class 7 is one queue. -/
def EthFrame.pair (f : EthFrame) : Nat := if f.env.tc = 7 then 7 else f.partition * 8 + f.env.tc

/-- The rate of the frame's queue pair lets it go (R275, R462). -/
def State.framePaced (s : State) (f : EthFrame) : Bool :=
  match f.qp with
  | none => true
  | some i => match tblGet s.qps i with
    | some q => decide (q.cc.nextSend ≤ s.mtQ (s.queueHome q.queue))
    | none => true

/-- The frames at the heads of their pairs, by place in the queue. -/
def State.frameHeads (s : State) (port : Nat) : List (Nat × EthFrame) :=
  let l := s.port port |>.eth.egress
  let l := ((List.range l.length).filterMap fun i => l[i]?.map fun f => (i, f)).filter fun r => s.framePaced r.2
  l.filter fun r => !l.any fun b => decide (b.1 < r.1) && b.2.pair == r.2.pair

/-- The class of the frame is offered: its priority is not paused and its gate is open. -/
def State.classOpen (s : State) (port : Nat) (f : EthFrame) : Bool :=
  let x := (s.port port).eth
  !x.isPaused f.env.priority s.clk && x.gateOpen (s.mtPort port) f.env.tc

/-- The frame ends within its window. -/
def State.windowOpen (s : State) (port : Nat) (f : EthFrame) : Bool :=
  (s.port port).eth.frameFits (s.mtPort port) f.env.tc (f.env.octets + (s.port port).overhead)

/-- The frames that may be offered now. -/
def State.frameOffers (s : State) (port : Nat) : List (Nat × EthFrame) :=
  (s.frameHeads port).filter fun r => s.classOpen port r.2 && s.windowOpen port r.2

/-- A frame held back for want of room in its window is counted once (R455). -/
def State.noteDeferred (s : State) (port : Nat) : State :=
  ((s.frameHeads port).filter fun r => s.classOpen port r.2 && !s.windowOpen port r.2 && !r.2.deferred).foldl
    (fun s r => (s.modPort port fun x => { x with eth := { x.eth with
      egress := x.eth.egress.modify r.1 fun f => { f with deferred := true } } }).ethCount port 9 1) s

/-! ## Sending -/

/-- Engine clocks that an accounted length takes on the wire at a rate in Gb/s. -/
def wireClocks (rate n : Nat) : Nat := if rate = 0 then 0 else (n * 128 + rate * 10 - 1) / (rate * 10)

/-- The next sequence number of a protected frame's outbound association (R457). -/
def State.sealFrame (s : State) (f : EthFrame) : State × Option (W32 × Nat) :=
  match f.env.ip with
  | some (v6, ip) =>
    if !f.protect then (s, none)
    else match (s.part f.partition).sa? ip (b2n v6) with
      | some a => (s.modSa f.partition ip (b2n v6) fun a => { a with outSeq := a.outSeq + 1 }, some (a.outSpi, a.outSeq + 1))
      | none => (s, none)
  | none => (s, none)

/-- The rate of a queue pair sets when its next request may go (R275, R462). -/
def State.paceQp (s : State) (qp n : Nat) : State :=
  s.modQp qp fun q => { q with cc := { q.cc with
    nextSend := max q.cc.nextSend (s.mtQ (s.queueHome q.queue)) + n * 1024 / max 1 q.cc.rate, lastUse := s.clk } }

/-- The departure of a delay request is stamped at the port (R451, R452). -/
def State.noteDeparture (s : State) (port : Nat) (b : EthBody) : State :=
  match b with
  | .own kind _ => if kind = 3 ∨ kind = 4 then
      s.modMer fun m => { m with ptp := { m.ptp with asked := m.ptp.asked.map fun a => (a.1, some (s.mtPort port + Config.ptpTx port)) } }
    else s
  | .rdma _ _ _ _ => s
  | .nvme _ _ _ => s

/-- The frame at a place of the queue leaves: an IP packet of an object goes to the next hop (R443). -/
def State.sendFrame (s : State) (port i : Nat) : State :=
  match (s.port port).eth.egress[i]? with
  | none => s
  | some f =>
    let (s, esp) := s.sealFrame f
    let n := f.env.octets + (s.port port).overhead
    let s := s.modPort port fun x => { x with eth := { x.eth with
      egress := x.eth.egress.eraseIdx i, busyUntil := s.clk + wireClocks x.eth.rate n } }
    let s := match f.qp with
      | some qp => s.paceQp qp n
      | none => s
    let x := (s.port port).eth
    let env := { f.env with esp, src := portMac port, dst := if f.env.ip.isSome then x.router.toNat else f.env.dst }
    (((s.noteDeparture port f.body).emit (.ethernet env f.body)).ethCount port 6 1).ethCount port 7 f.env.octets

end Sys2Proof.Machine
end

