-- ==== Sys2Proof/Machine/Sender.lean ====
section
/-!
DEFINITION. Machine/Sender.lean: the sender table: forming messages, beginning them, sealing and transmitting
packets, and ending messages for their owners (R217 to R219, R231, R240 to R246, R250, R251, R261).
-/

namespace Sys2Proof.Machine

/-! ## Forming messages (R217) -/

/-- Message size of a wire opcode. -/
def messageSize (op : Nat) : Nat := if op = opReadReq then 65536 else 262144

/-- The messages of `n` bytes: byte offset and length. -/
def messagesOf (op n : Nat) : List (Nat × Nat) :=
  (List.range ((n + messageSize op - 1) / messageSize op)).map fun i =>
    (i * messageSize op, min (messageSize op) (n - i * messageSize op))

/-- Packets that the sender transmits for a message: a READ and an atomic are one request packet. -/
def Sender.requests (x : Sender) : Nat := if x.opcode = opWrite ∨ x.opcode = opColl then packetsOf x.length else 1

/-- The bitmap of a message with every packet shown. -/
def fullBitmap (n : Nat) : Nat := 2 ^ n - 1

/-- Put a READY entry into a quadrant's table (R246). -/
def State.addSender (s : State) (q : Nat) (x : Sender) : State :=
  let m := (s.quad q).nextMsg
  s.modQuad q fun d => { d with senders := tblSet d.senders m { x with formed := s.clk }, nextMsg := m + 1 }

/-- The table of a quadrant has room for another entry (R246). -/
def State.senderRoom (s : State) (q : Nat) : Bool := (s.quad q).senders.length < 65536

/-- A message of a descriptor (R217). -/
def descMessage (qn : Nat) (x : Queue) (d : Desc) (off len : Nat) (last : Bool) : Sender :=
  let op := d.opcode + (if isAtomic d.opcode then 1 else 0)
  { owner := .desc qn d.index, opcode := op, cls := classOf op d.remote, tc := d.tc, partition := x.partition
    context := x.context, gen := d.contextGen, dst := gaEndpoint d.remote, address := d.remote + w64 off
    regionKey := d.regionKey, length := if isAtomic d.opcode then 16 else len
    packets := packetsOf len, flagFinal := d.flagFinal && last, offset := off, localAddr := d.localAddr
    operandA := d.operandA, operandB := d.operandB }

/-- Give a descriptor's remaining messages entries while the table has room. -/
def State.feedDesc (s : State) (qn : Nat) (i : W32) : List (Nat × Nat) → State
  | [] => s
  | (off, len) :: rest =>
    match s.queue? qn, s.desc? qn i with
    | some x, some d =>
      if s.senderRoom x.home then
        ((s.addSender x.home (descMessage qn x d off len (d.length ≤ off + len))).modDesc qn i
          (fun d => { d with toSend := rest })).feedDesc qn i rest
      else s
    | _, _ => s

/-- The quadrant of a sequencer (R370). -/
def seqQuadrant (k : Nat) : Nat := k / 16

/-- A message of a kernel step in flight: FETCH_REMOTE reads, the SENDs write or add (R379). -/
def stepMessage (k : Nat) (r : Running) (f : Flight) (off len : Nat) (last : Bool) : Sender :=
  let op := if f.step.op = 1 then opReadReq else if f.step.sub = 2 then opAdd64 else opWrite
  let remote := if f.step.op = 1 then f.step.a else f.step.c
  { owner := .step k f.slot, opcode := op, cls := classOf op remote, tc := r.image.tc, partition := r.partition
    context := r.context, gen := r.contextGen, dst := gaEndpoint remote, address := remote + w64 off
    regionKey := w32 (f.step.b.toNat / 2 ^ 32), length := if op = opAdd64 then 16 else len
    packets := packetsOf len, flagFinal := f.step.op == 2 && f.step.sub == 1 && last, offset := off
    localAddr := if f.step.op = 1 then f.step.c else f.step.a, operandA := f.step.a }

/-- Give a step's remaining messages entries while the table has room. -/
def State.feedFlight (s : State) (k slot : Nat) : List (Nat × Nat) → State
  | [] => s
  | (off, len) :: rest =>
    match (s.seq k).running, s.flight? k slot with
    | some r, some f =>
      if s.senderRoom (seqQuadrant k) then
        ((s.addSender (seqQuadrant k) (stepMessage k r f off len (f.step.count ≤ off + len))).modFlight k slot
          (fun f => { f with toSend := rest })).feedFlight k slot rest
      else s
    | _, _ => s

/-- Work waiting for entries of a quadrant takes those that have come free (R246). -/
def State.feedAll (s : State) (q : Nat) : State :=
  let ds := s.queues.flatMap fun r =>
    if r.2.home == q then (r.2.held.filter fun d => !d.toSend.isEmpty).map fun d => (r.1, d) else []
  let s := ds.foldl (fun s r => s.feedDesc r.1 r.2.index r.2.toSend) s
  let fs := s.seqs.flatMap fun r => match r.2.running with
    | some x => if seqQuadrant r.1 == q then (x.flights.filter fun f => !f.toSend.isEmpty).map fun f => (r.1, f) else []
    | none => []
  fs.foldl (fun s r => s.feedFlight r.1 r.2.slot r.2.toSend) s

/-! ## Ending messages (R245) -/

/-- Some message of the owner has an entry. -/
def State.hasSender (s : State) (o : MsgOwner) : Bool := s.allSenders.any fun x => x.owner == o

/-- A running descriptor with no message, no waiting bytes and no write outstanding completes (R245, R320). -/
def State.settleDesc (s : State) (qn : Nat) (i : W32) : State :=
  match s.desc? qn i with
  | none => s
  | some d =>
    if s.ownerDoomed (.desc qn i) then s.reapTiles
    else if d.phase == .running && d.toSend.isEmpty && !s.hasSender (.desc qn i) && s.storesDone (.desc qn i) then
      (s.endTiles (.desc qn i)).modDesc qn i fun d => { d with phase := .completed }
    else s

/-- A step whose messages have all ended, and whose writes are done, has finished its work. -/
def State.settleFlight (s : State) (k slot : Nat) : State :=
  match s.flight? k slot with
  | none => s
  | some f =>
    if s.ownerDoomed (.step k slot) then s.reapTiles
    else if f.ended.isNone && f.toSend.isEmpty && !s.hasSender (.step k slot) && s.storesDone (.step k slot) then
      (s.endTiles (.step k slot)).endFlight k slot Status.ok 0
    else s

/-- Settle whatever owns a piece of local work. -/
def State.settleOwner (s : State) (o : TileOwner) : State :=
  match o with
  | .desc q i => s.settleDesc q i
  | .step k slot => s.settleFlight k slot
  | .coll _ _ => s

/-- A message of an owner has ended with a status and the bytes it moved: the first failure stands, and messages
not begun are taken back (R245). -/
def State.ownerEnded (s : State) (o : MsgOwner) (status detail bytes : Nat) : State :=
  match o with
  | .desc q i =>
    let s := if status = Status.ok then s
      else s.freeSenders fun x => x.owner == .desc q i && (x.state == .ready || x.state == .waitResv)
    let s := s.modDesc q i fun d =>
      let first := status != Status.ok && d.status == Status.ok
      { d with
        bytesDone := d.bytesDone + bytes
        status := if first then status else d.status
        detail := if first then detail else d.detail
        toSend := if status = Status.ok then d.toSend else [] }
    s.settleDesc q i
  | .step k slot =>
    if status = Status.ok then
      (s.modFlight k slot fun f => { f with bytesDone := f.bytesDone + bytes }).settleFlight k slot
    else s.endFlight k slot status detail
  | .coll p id _ =>
    s.modInstance p id fun x => { x with
      unacked := x.unacked - 1, failed := if x.failed = 0 then status else x.failed }
  | .none => s

/-- End a message: its entry is freed, its owner learns of it, and waiting work takes the entry (R245, R246). -/
def State.msgEnded (s : State) (q m status detail : Nat) : State :=
  match s.sender? q m with
  | none => s
  | some x =>
    let s := if status = Status.ok then s
      else s.modCtx x.context fun c => if c.gen = x.gen then { c with unacked := (x.dst, x.regionKey) :: c.unacked } else c
    let bytes := if isWireAtomic x.opcode then 0
      else if status = Status.ok then x.length else bitmapBytes x.length x.bitmap
    ((s.freeSender q m).ownerEnded x.owner status detail bytes).feedAll q

/-! ## Beginning a message (R218, R272, R279, R310) -/

/-- The job whose key seals a message. -/
def Sender.job (x : Sender) : Option Nat := if x.cls = 3 then some x.coll.job else none

/-- Response space a READ needs, 4,160 B a packet (R261). -/
def reserveBytes (x : Sender) : Nat := if x.opcode = opReadReq then packetsOf x.length * 4160 else 0

/-- The response pool (R258). -/
def responsePool : Nat := 8388608

/-- What keeps a message from beginning. -/
inductive BeginBar where
  | none
  /-- It waits. -/
  | wait
  /-- It waits because its key has run out (R493). -/
  | exhausted
  /-- It waits for an active fabric port (R310). -/
  | noPort
  /-- Its destination is unreachable (R310). -/
  | unreachable
  deriving DecidableEq, Repr

/-- Whether a message may begin: lock (R85), key (R493, R494), route (R310). A pair whose weight is 0 offers no first
packet, so that its messages do not begin either (R279, `State.ownOffers`). -/
def State.beginBar (s : State) (q : Nat) (x : Sender) : BeginBar :=
  if s.mer.lock == .unlocked then .wait
  else
    match s.keysOf x.partition x.job with
    | none => .wait
    | some k =>
      if s.keyExhausted q k then .exhausted
      else if !s.keyAllows q k then .wait
      else
        let e := s.chartEntry q (s.activeBank q) x.dst
        if x.dst == s.cfg.endpoint || e.kind == 3 then .none
        else if e.kind < 2 then .unreachable
        else if s.activePorts.isEmpty then .noPort
        else .none

/-- A message begins: every packet is due, and its first timeout follows from the delay (R240, R246). Its sequence and
its issue stamp are those of its first transmission (R218, R219). -/
def State.startMessage (s : State) (q m : Nat) (x : Sender) : State :=
  let d := (s.congest? q x.dst).bind fun e => e.delay
  let t := max (us 20) ((2 * d.getD (mtUs 10)) / 10 + us 10)
  let s := s.setSender q m { x with
    state := .sending, issue := s.stamp q, issueClk := s.clk, timeout := t
    toSend := List.range x.requests, sent := [], tints := [], bitmap := 0, copies := 0, refusedCopies := 0, holds := []
    timerStart := none, unreachableSince := none, stepped := false }
  s.modCongest q x.dst fun c => { c with outstanding := c.outstanding + 1, lastUse := s.clk }

/-- A READY message begins, waits for response space, or waits (R246). -/
def State.beginMessage (s : State) (q m : Nat) (x : Sender) : State :=
  match s.ensureCongest q x.dst with
  | none => s.countIn (scopeWord 1 0 q) Count.cacheWait
  | some s =>
    let n := reserveBytes x
    if n = 0 then s.startMessage q m x
    else if (s.quad q).reserved + n ≤ responsePool then
      (s.modQuad q fun d => { d with reserved := d.reserved + n }).startMessage q m { x with reserved := n }
    else s.setSender q m { x with state := .waitResv }

/-- Try to begin a message: with an unreachable destination it fails (R310). -/
def State.tryBegin (s : State) (q m : Nat) (x : Sender) : State :=
  match s.beginBar q x with
  | .none => s.beginMessage q m x
  | .wait => s
  | .exhausted => s.note Status.keyExhausted 0x17 q (some x.partition)
  | .noPort => s.setSender q m { x with unreachableSince := some (x.unreachableSince.getD s.clk) }
  | .unreachable => s.msgEnded q m Status.destinationUnreachable 0

/-! ## Transmitting (R219, R231, R241, R251, R275) -/

/-- The message's age on the sender's clock; `none` beyond the 2 µs allowance in the future (R227). -/
def State.msgAge (s : State) (q : Nat) (x : Sender) : Option Nat := ageOf (s.mtQ q) x.issue

/-- The message is younger than the cutoff of R231. -/
def State.inCutoff (s : State) (q : Nat) (x : Sender) : Bool :=
  !x.stepped && match s.msgAge q x with
    | some a => 4 * a ≤ 3 * s.mpl
    | none => false

/-- An earlier message from the same context to the same destination and region is not acknowledged: it ended without
an acknowledgement, was transmitted with an earlier sequence, or was formed before this one and not transmitted (R251;
assumption log 67). -/
def State.earlierOpen (s : State) (q m : Nat) (x : Sender) : Bool :=
  (s.ctx x.context).unacked.contains (x.dst, x.regionKey) ||
  [0, 1, 2, 3].any fun p => (s.quad p).senders.any fun r =>
    r.2.context == x.context && r.2.gen == x.gen && r.2.dst == x.dst && r.2.regionKey == x.regionKey
      && !(p == q && r.1 == m)
      && if r.2.sent.isEmpty then p == q && r.1 < m
         else x.sent.isEmpty || (r.2.seq != x.seq && (x.seq - r.2.seq).toNat < 2 ^ 31)

/-- The flag packet of a message. -/
def Sender.isFlag (x : Sender) (k : Nat) : Bool := x.flagFinal && k + 1 == x.requests

/-- The next packet due that no retry-after wait holds (R242, R246). -/
def Sender.nextDue (x : Sender) : Option Nat := x.toSend.find? fun k => !x.holds.any fun h => h.1 == k

/-- The first copy of a flag packet waits (R251). -/
def State.flagWaits (s : State) (q m : Nat) (x : Sender) (k : Nat) : Bool :=
  x.isFlag k && !x.sent.contains k
    && (s.earlierOpen q m x || (List.range x.requests).any fun j => j != k && !x.sent.contains j)

/-- The packet that may be transmitted now, pacing aside from ports (R231, R251, R275, R493). -/
def State.due (s : State) (q m : Nat) (x : Sender) : Option Nat :=
  match x.nextDue, s.keysOf x.partition x.job with
  | some k, some keys =>
    if x.state == .sending && s.mer.lock != .unlocked && !x.stepped && (x.sent.isEmpty || s.inCutoff q x)
        && s.keyAllows q keys && s.counterReady q && !s.flagWaits q m x k
        && (match s.congest? q x.dst with
            | some c => decide (c.nextSend ≤ s.mtQ q)
            | none => false) then some k else none
  | _, _ => none

/-- Payload bytes of a packet due. -/
def Sender.payloadBytes (x : Sender) (k : Nat) : Nat :=
  if x.opcode = opReadReq then 0 else packetLen x.length k

/-- The payload of a packet: inline, from the descriptor's or step's local source, or as formed (R193, R217). -/
def State.payload (s : State) (x : Sender) (k : Nat) : Got :=
  if x.opcode = opReadReq then .bytes []
  else if isWireAtomic x.opcode then .bytes (wordBytes [x.operandA, x.operandB])
  else
    let off := x.offset + k * 4096
    let n := packetLen x.length k
    match x.owner with
    | .desc q i => match s.desc? q i with
      | some d => if d.inline then .bytes (slice d.inlineData off n)
                  else s.localRead (.desc q i) x.partition d.seg d.localAddr off n
      | none => .wait s
    | .step j slot => match s.flight? j slot with
      | some f => s.localRead (.step j slot) x.partition (f.segs.getD 0 {}) x.localAddr off n
      | none => .wait s
    | .coll _ _ _ => .bytes (slice x.data (k * 4096) n)
    | .none => .bytes (slice x.data (k * 4096) n)

/-- The packet a sender transmits, before it is sealed (R219 to R222, R241); a collective message keeps the landing
quadrant its schedule names in `coll.reason`, a field COLL_DATA does not carry. -/
def State.packetOf (s : State) (q : Nat) (x : Sender) (k : Nat) (b : List Byte) : Packet :=
  let again := x.sent.contains k
  { key := { src := s.cfg.endpoint, partition := x.partition, context := x.context, gen := x.gen.toNat, seq := x.seq }
    route := { opcode := x.opcode, cls := x.cls, tc := x.tc, epoch := s.activeBank q, dst := x.dst
               landQ := if x.cls = 3 then x.coll.reason else landQuadrant s.cfg.endpoint x.context
               replyQ := q, txQ := q }
    flags := { last := k + 1 == x.requests, flagFinal := x.isFlag k, retransmit := again
               ackNow := if again then x.toSend.length == 1 else k + 1 == x.requests, reissue := x.reissue }
    spec := if x.cls = 3 then { x.coll with reason := 0 } else {
      address := x.address, regionKey := x.regionKey
      wantMask := if x.opcode = opReadReq then ~~~x.bitmap &&& w64 (fullBitmap (packetsOf x.length)) else 0 }
    issue := if x.sent.isEmpty then s.stamp q else x.issue
    send := s.stamp q, msgLength := x.length, pktIndex := k, payloadLen := b.length, payload := b }

/-- The sender after a copy of packet `k`: the first copy stamps the message; the last of the round starts the timer
(R219, R240, R246). -/
def Sender.sentOne (x : Sender) (s : State) (q k : Nat) : Sender :=
  let left := x.toSend.filter fun j => j != k
  { x with
    issue := if x.sent.isEmpty then s.stamp q else x.issue
    issueClk := if x.sent.isEmpty then s.clk else x.issueClk
    sent := if x.sent.contains k then x.sent else k :: x.sent
    copies := x.copies + 1, toSend := left, tints := x.tints.filter fun t => t.index != k
    state := if left.isEmpty then .waitReply else .sending
    timerStart := if left.isEmpty then some s.clk else x.timerStart }

/-- The first transmission of a message takes its context's next sequence (R218). -/
def State.takeSeq (s : State) (x : Sender) : Sender × State :=
  if x.sent.isEmpty then
    ({ x with seq := (s.ctx x.context).nextSeq }, s.modCtx x.context fun c => { c with nextSeq := c.nextSeq + 1 })
  else (x, s)

/-- Seal and transmit packet `k` on a port, or without one toward this device (R226, R269, R275, R282). -/
def State.transmit (s : State) (q m : Nat) (x : Sender) (k : Nat) (b : List Byte) (port : Option Nat)
    (busyPercent : Nat) : State :=
  match s.keysOf x.partition x.job with
  | none => s
  | some keys =>
    let (x, s) := s.takeSeq x
    let pkt := s.packetOf q x k b
    let n := match port with
      | some p => (s.port p).accounted b.length
      | none => 64 + b.length + 16
    let (s, c) := (s.useEngine q false (80 + b.length)).takeCounter q
    let mark := port.isSome && decide (s.txs.markUtil < busyPercent) && b.length != 0
    let r := { pkt.route with txCounter := c, keyGen := keys.genIn q % 256 }
    let h := { pkt.hop with congMark := mark }
    let s := (s.setSender q m (x.sentOne s q k)).pace q x.dst n
    s.sendOn port (s.sealed { pkt with route := r, hop := h } (keys.genIn q))

/-! ## Offers at a port (R277 to R279, R281) -/

/-- A packet offered at a port, of the sender table or of the fallback path; colour 3 is not yet coloured. -/
structure Offer where
  quadrant : Nat
  msg : Nat
  index : Nat
  length : Nat
  colour : Nat
  pair : Nat
  formed : Nat
  since : Nat
  relayed : Bool := false
  deriving DecidableEq, Repr

/-- The round robin that an offer belongs to. -/
def Offer.robin (o : Offer) : Nat := robinOf (o.pair % 8) o.colour

/-- An older message, ties to the lower quadrant and then the lower table entry. -/
def Offer.older (a b : Offer) : Bool :=
  decide (a.formed < b.formed) || (a.formed == b.formed
    && (decide (a.quadrant < b.quadrant) || (a.quadrant == b.quadrant && decide (a.msg < b.msg))))

/-- The colour a packet of a message has at a port. -/
def Sender.tint? (x : Sender) (port k : Nat) : Option Tint := x.tints.find? fun t => t.port == port && t.index == k

/-- The packet that each message could send at a port now: a message that has sent none does not begin while its pair has
weight 0 (R279). -/
def State.ownOffers (s : State) (port : Nat) : List Offer :=
  let x := s.port port
  [0, 1, 2, 3].flatMap fun q => (s.quad q).senders.filterMap fun r =>
    match s.due q r.1 r.2 with
    | none => none
    | some k =>
      let t := r.2.tint? port k
      if s.ownDst q (s.activeBank q) r.2.dst || !(s.outputs (s.chartEntry q (s.activeBank q) r.2.dst)).contains port
          || (r.2.sent.isEmpty && x.weight r.2.partition r.2.tc == 0) then none
      else some { quadrant := q, msg := r.1, index := k, length := x.accounted (r.2.payloadBytes k)
                  colour := (t.map fun t => t.colour).getD 3, pair := r.2.partition * 8 + r.2.tc
                  formed := r.2.formed, since := (t.map fun t => t.since).getD s.clk }

/-- The queue of the fallback path as offers (R281). -/
def State.relayOffers (s : State) (port : Nat) : List Offer :=
  let x := s.port port
  (List.range x.fallback.length).filterMap fun i => x.fallback[i]?.map fun f =>
    { quadrant := 4, msg := i, index := f.pkt.pktIndex, length := x.accounted f.pkt.payloadLen, colour := f.colour
      pair := f.pkt.key.partition * 8 + f.pkt.route.tc, formed := f.since, since := f.since, relayed := true }

/-- The frames of an Ethernet port that may be offered, but for class 7. -/
def State.ethOffers (s : State) (port : Nat) : List Offer :=
  ((s.frameOffers port).filter fun r => r.2.env.tc != 7).map fun r =>
    { quadrant := 5, msg := r.1, index := 0, length := r.2.env.octets + (s.port port).overhead, colour := r.2.colour
      pair := r.2.pair, formed := r.2.since, since := r.2.since }

/-- The packets at the heads of their pairs at a port: of each pair that of the oldest message (R279), and the packets of
the fallback path. -/
def State.heads (s : State) (port : Nat) : List Offer :=
  if s.isEth port then s.ethOffers port else
  let l := s.ownOffers port
  (l.filter fun o => !l.any fun b => b.pair == o.pair && b.older o) ++ s.relayOffers port

/-- Colour a frame at the head of its pair. -/
def State.tintFrame (s : State) (port : Nat) (o : Offer) : State :=
  if o.colour < 2 then s
  else
    let r := (s.port port).paint s.clk (o.pair / 8) (o.pair % 8) o.length
    let s := s.modPort port fun _ => r.2
    let s := if o.colour = 2 ∧ r.1 = 2 then s else s.meterCount port (o.pair / 8) (o.pair % 8) r.1 o.length
    s.modPort port fun x => { x with eth := { x.eth with egress := x.eth.egress.modify o.msg fun f => { f with colour := r.1 } } }

/-- Colour the head of a pair that is first offered, or that is red and is offered again (R281). -/
def State.tintHead (s : State) (port : Nat) (o : Offer) : State :=
  if o.quadrant = 5 then s.tintFrame port o else
  match s.sender? o.quadrant o.msg with
  | none => s
  | some x =>
    if o.relayed || o.colour < 2 then s
    else
      let r := (s.port port).paint s.clk x.partition x.tc o.length
      let s := s.modPort port fun _ => r.2
      let s := if o.colour = 2 ∧ r.1 = 2 then s else s.meterCount port x.partition x.tc r.1 o.length
      let t : Tint := { port, index := o.index, colour := r.1, since := o.since }
      s.setSender o.quadrant o.msg { x with tints := t :: x.tints.filter fun y => !(y.port == port && y.index == o.index) }

/-- Colour what is newly offered at a port. -/
def State.tintPort (s : State) (port : Nat) : State := (s.heads port).foldl (fun s o => s.tintHead port o) s

/-- The packets the device offers at a port now: red ones are not offered (R281). -/
def State.offers (s : State) (port : Nat) : List Offer := (s.heads port).filter fun o => decide (o.colour < 2)

/-- The pair that a robin of a port serves now: the first of its round that has credit and a packet on offer (R278). -/
def State.pairNow (s : State) (port robin : Nat) : Option Nat :=
  let x := s.port port
  (x.robins.getD robin {}).left.find? fun p =>
    decide (0 < x.credit robin p) && (s.offers port).any fun o => o.robin == robin && o.pair == p

/-- The offer is the next to go at a port: none stands at an earlier step of R277, its pair's turn has come, and it is the
oldest of that pair (R278, R279). -/
def State.chosen (s : State) (port : Nat) (o : Offer) : Bool :=
  s.pairNow port o.robin == some o.pair
    && (s.offers port).all fun b => !(decide (b.robin < o.robin) || (b.robin == o.robin && b.pair == o.pair && b.older o))

/-- A relayed packet leaves its queue on its port, charged to its robin; the hop marks it when its output's busy fraction,
an open value here, exceeds mark_util (R269, R277, R281, assumption log 75). -/
def State.sendRelayed (s : State) (port : Nat) (o : Offer) : State :=
  match (s.port port).fallback[o.msg]? with
  | none => s
  | some f =>
    let (v, s) := s.draw
    let mark := decide (s.txs.markUtil < v % 101) && f.pkt.payloadLen != 0
    let s := s.modPort port fun x =>
      { x.serve o.robin o.pair o.length with fallback := x.fallback.eraseIdx o.msg }
    s.sendOn (some port) { f.pkt with hop := { f.pkt.hop with congMark := f.pkt.hop.congMark || mark } }

/-- One clock at a port: what is newly offered is coloured, and a relayed packet whose turn has come goes when the ring has
credit to take it there (R22, R281). -/
def State.portClock (s : State) (port : Nat) : State :=
  let s := s.tintPort port
  match (s.offers port).find? fun o => o.relayed && s.chosen port o with
  | some o => match (s.port port).fallback[o.msg]? with
    | some f => if s.crossOpen f.pkt.route.txQ (port / 8) f.pkt.route.cls f.pkt.size then s.sendRelayed port o else s
    | none => s
  | none => s

/-- One clock at an Ethernet port that carries traffic, once the wire is free: the oldest frame of class 7, or the frame
that the round robins choose (R277, R455). -/
def State.ethClock (s : State) (port : Nat) : State :=
  if (s.port port).state != .active || decide (s.clk < (s.port port).eth.busyUntil) then s
  else
    let s := s.noteDeferred port
    match (s.frameOffers port).find? fun r => r.2.env.tc == 7 with
    | some r => s.sendFrame port r.1
    | none =>
      let s := s.tintPort port
      match (s.offers port).find? fun o => s.chosen port o with
      | some o => (s.modPort port fun x => x.serve o.robin o.pair o.length).sendFrame port o.msg
      | none => s

/-- The Ethernet ports where frames wait. -/
def State.ethPorts (s : State) : List Nat := (s.ports.filter fun r => r.2.mode == 3 && !r.2.eth.egress.isEmpty).map fun r => r.1

/-- One clock at every active port, where messages, relayed packets or frames wait. -/
def State.portClocks (s : State) : State :=
  let s := s.ethPorts.foldl State.ethClock s
  if s.allSenders.isEmpty && s.ports.all fun r => r.2.fallback.isEmpty then s
  else s.activePorts.foldl State.portClock s

end Sys2Proof.Machine
end

