-- ==== Sys2Proof/Machine/Receiver.lean ====
section
/-!
DEFINITION. Machine/Receiver.lean: the landing quadrant: dedup records, replies, the checks at commit and the
landing of bytes in memory, a host or an accelerator (R121, R166, R233 to R238, R247 to R258, R320).
-/

namespace Sys2Proof.Machine

/-! ## Records and pools -/

/-- The dedup record of a message. -/
def State.record? (s : State) (q : Nat) (k : MsgKey) : Option Record := (s.quad q).records.find? fun r => r.key == k

/-- Change the record of a message. -/
def State.modRecord (s : State) (q : Nat) (k : MsgKey) (g : Record → Record) : State :=
  s.modQuad q fun d => { d with records := d.records.map fun r => if r.key == k then g r else r }

/-- Bytes used of a landing pool. -/
def Quadrant.pool (d : Quadrant) (c : Nat) : Nat :=
  if c = 0 then d.pool0 else if c = 1 then d.pool1 else if c = 2 then d.pool2 else d.pool3

/-- Set the bytes used of a landing pool. -/
def Quadrant.setPool (d : Quadrant) (c n : Nat) : Quadrant :=
  if c = 0 then { d with pool0 := n }
  else if c = 1 then { d with pool1 := n }
  else if c = 2 then { d with pool2 := n }
  else { d with pool3 := n }

/-- The size of a landing pool (R258). -/
def poolSize (c : Nat) : Nat :=
  if c = 0 then 4194304 else if c = 1 then responsePool else if c = 2 then 1048576 else 3145728

/-- The most the flag hold takes (R252). -/
def flagHoldSize : Nat := 1048576

/-- Give pool space back. -/
def State.freePool (s : State) (q c n : Nat) : State := s.modQuad q fun d => d.setPool c (d.pool c - n)

/-- A copy leaves the receive pipeline without giving its space back. -/
def State.takeCopy (s : State) (q id : Nat) : State :=
  s.modQuad q fun d => { d with copies := d.copies.filter fun c => c.id != id, commitClk := s.clk }

/-- A copy leaves the receive pipeline, and its pool space is free (R234, R258). -/
def State.freeCopy (s : State) (q : Nat) (c : RxCopy) : State := (s.takeCopy q c.id).freePool q c.pkt.route.cls c.space

/-- Change a copy in the receive pipeline. -/
def State.modCopy (s : State) (q id : Nat) (g : RxCopy → RxCopy) : State :=
  s.modQuad q fun d => { d with copies := d.copies.map fun c => if c.id == id then g c else c }

/-- The copy of a number. -/
def State.copy? (s : State) (q id : Nat) : Option RxCopy := (s.quad q).copies.find? fun c => c.id == id

/-- The space of a record's waiting flag packet is free again (R252). -/
def State.freeFlag (s : State) (q : Nat) (r : Record) : State :=
  match r.flag with
  | some f =>
    let n := poolSpace f.payloadLen
    (s.freePool q f.route.cls n).modQuad q fun d => { d with flagHold := d.flagHold - n }
  | none => s

/-- Delete a record. -/
def State.deleteRecord (s : State) (q : Nat) (k : MsgKey) : State :=
  match s.record? q k with
  | none => s
  | some r => (s.freeFlag q r).modQuad q fun d => { d with records := d.records.filter fun x => x.key != k }

/-! ## Replies (R237, R238, R270) -/

/-- The receiver marks its reply to a copy (R270). -/
def State.marksReply (s : State) (pkt : Packet) (poolHigh : Bool) : Bool :=
  pkt.hop.congMark || decide (s.txs.deflEcho ≤ pkt.hop.deflections) || poolHigh

/-- The pool of a class is more than 75% full. -/
def State.poolHigh (s : State) (q c : Nat) : Bool := decide (3 * poolSize c < 4 * (s.quad q).pool c)

/-- Send a reply to a copy. An UNLOCKED device sends none but the retry-after NAKs of R85 (`r85`), which carry the copy's
own stamp in place of its time (R85, R231). -/
def State.reply (s : State) (q : Nat) (pkt : Packet) (op status retry : Nat) (noRecord : Bool)
    (r : Option Record) (marked : Bool) (r85 : Bool := false) : State :=
  if s.mer.lock == .unlocked && !r85 then s
  else
    let stamp := if r85 then pkt.send else s.stamp q
    let s := if retry = 0 then s else (s.count Count.retryAfterSent).countIn (scopeWord 1 0 q)
      (Count.retrySentCause + retryCause retry noRecord)
    s.inject q {
      key := { pkt.key with src := s.cfg.endpoint }
      route := { opcode := op, cls := 1, dst := pkt.key.src, landQ := pkt.route.replyQ }
      hop := { congMark := marked }, flags := { noRecord }
      spec := { result := (r.map fun x => x.result).getD 0, bitmap := (r.map fun x => x.verified).getD 0
                status, retryAfter := retry, echo := pkt.send }
      issue := stamp, send := stamp, pktIndex := pkt.pktIndex } none r85

/-- Refuse one copy with a retry-after NAK (R238). -/
def State.refuse (s : State) (q : Nat) (pkt : Packet) (retry : Nat) (noRecord marked : Bool) : State :=
  s.reply q pkt opNak Status.retryAfter retry noRecord (s.record? q pkt.key) marked

/-- The retry-after NAK of an UNLOCKED receiver (R85). -/
def State.refuseUnlocked (s : State) (q : Nat) (pkt : Packet) (noRecord : Bool) : State :=
  s.reply q pkt opNak Status.retryAfter 1000 noRecord (s.record? q pkt.key) false true

/-- A reply of the record goes out now: the next repetition waits 5 µs (R237). -/
def State.replied (s : State) (q : Nat) (k : MsgKey) (state : RecState) : State :=
  if state == .provisional || s.mer.lock == .unlocked then s
  else s.modRecord q k fun x => { x with lastReply := some s.clk }

/-- Send the reply of a record's state, unless the copy is PROVISIONAL (R237). -/
def State.stateReply (s : State) (q : Nat) (pkt : Packet) (marked : Bool) (r : Record) : State :=
  let s := s.replied q pkt.key r.state
  match r.state with
  | .provisional => s
  | .opened => s.reply q pkt opSack 0 0 false (some r) marked
  | .complete => s.reply q pkt opAck 0 0 false (some r) marked
  | .failed => s.reply q pkt opNak r.finalStatus 0 false (some r) marked

/-- Answer a duplicate or a copy carrying ack_now: at most one repeated reply per record in any 5 µs (R237). -/
def State.repeatReply (s : State) (q : Nat) (pkt : Packet) (marked : Bool) : State :=
  match s.record? q pkt.key with
  | none => s
  | some r =>
    match r.lastReply with
    | some t => if t + us 5 ≤ s.clk then s.stateReply q pkt marked r else s
    | none => s.stateReply q pkt marked r

/-- A final NAK for a copy that has no record (R256). -/
def State.finalNak (s : State) (q : Nat) (pkt : Packet) (status : Nat) (marked : Bool) : State :=
  s.reply q pkt opNak status 0 false none marked

/-! ## Tag verdicts (R234, R472, R492, R496) -/

/-- A tag failed (R496): 64 failures from one source within 1 ms raise a security event. -/
def State.tagFailed (s : State) (q : Nat) (pkt : Packet) : State :=
  let p := pkt.key.partition
  let recent := s.survey.tagFailures.filter fun f => s.clk < f.2 + us 1000
  let l := (pkt.key.src, s.clk) :: recent
  let mine := l.filter fun f => f.1 == pkt.key.src
  let event := decide (64 ≤ mine.length)
  let s := { s with survey := { s.survey with
    tagFailures := if event then l.filter fun f => f.1 != pkt.key.src else l } }
  let s := (s.countIn (scopeWord 3 p pkt.key.src) Count.tagFailures).note Status.tagFailed 0x17 q (some p)
  if event then (s.alarm 3 (some p)).note Status.tagFailed 0x17 q (some p) (w64 pkt.key.src) 2 else s

/-- A copy that cannot be opened is dropped: its pending bit and space go, and with them a record that nothing else
holds (R234). -/
def State.dropCopy (s : State) (q : Nat) (c : RxCopy) : State :=
  let k := c.pkt.key
  let s := (s.freeCopy q c).modRecord q k fun r => { r with pending := r.pending.filter fun i => i != c.pkt.pktIndex }
  match s.record? q k with
  | some r => if r.verified == 0 && r.pending.isEmpty && r.state == .provisional then s.deleteRecord q k else s
  | none => s

/-! ## The checks at commit (R114, R120, R121, R310) -/

/-- Where a packet's access begins, as an offset, and its bytes. -/
def accessOf (pkt : Packet) : Nat × Nat :=
  if pkt.route.opcode = opWrite then (gaOffset pkt.spec.address + pkt.pktIndex * 4096, pkt.payloadLen)
  else if isWireAtomic pkt.route.opcode then
    (gaOffset pkt.spec.address, if pkt.route.opcode = 4 ∨ pkt.route.opcode = 6 then 8 else 4)
  else (gaOffset pkt.spec.address, pkt.msgLength)

/-- The entry permits the packet's operation (check 2). -/
def Region.permits (r : Region) (op : Nat) : Bool :=
  if op = opReadReq then r.read else if op = opWrite then r.write else r.atomic

/-- The entry is valid for the key, the partition and its context (check 1). -/
def State.regionOk (s : State) (r : Region) (key : W32) (p : Nat) : Bool :=
  r.valid && keyIndex key != 0 && r.gen.toNat == keyGen key && r.check.toNat == keyCheck key && r.partition == p
    && s.ctxLive r.context r.contextGen

/-- The accelerator whose endpoint a packet is addressed to (R310). -/
def State.peerOf (s : State) (pkt : Packet) : Option Nat :=
  let e := s.chartEntry pkt.route.landQ pkt.route.epoch pkt.route.dst
  if pkt.route.dst != s.cfg.endpoint && e.kind == 3 then some e.accelerator else none

/-- The checks of R121 on a packet, in order: the status of the first that fails. -/
def State.commitCheck (s : State) (pkt : Packet) : Nat :=
  let r := s.region (keyIndex pkt.spec.regionKey)
  let p := pkt.key.partition
  let (off, n) := accessOf pkt
  if !s.regionOk r pkt.spec.regionKey p then Status.regionKeyInvalid
  else if !r.permits pkt.route.opcode then Status.accessDenied
  else if off < r.base ∨ r.base + r.length < off + n then Status.outOfBounds
  else if (s.peerOf pkt).any (fun a => windowOf off != a || r.kind != 2) then Status.addressUnmapped
  else if r.kind = 2 then (if s.accelServes (windowOf off) p then Status.ok else Status.addressUnmapped)
  else if r.kind = 1 then s.spaceCheck p off n (pkt.route.opcode != opReadReq)
  else Status.ok

/-! ## Landing -/

/-- How the landing of checked bytes ends. -/
inductive Land where
  /-- Committed. -/
  | done (s : State)
  /-- Sent to an accelerator; it is committed when MEM_WRITE_DONE arrives (R320). -/
  | sent (s : State)
  /-- It waits: a line of a host-bias page, or a host port's buffers (R427, R435). -/
  | wait (s : State)
  /-- Refused with a retry-after of so many µs (R166). -/
  | retry (s : State) (us : Nat)
  /-- Refused for good. -/
  | fail (s : State) (status : Nat)

/-- What the destination knows of a page that a packet touches: the ATC's word, or a fault that a translation has found or
the fault table holds open (R157, R166). -/
def HostPort.landLook (h : HostPort) (rq : Nat) (pasid : Option Nat) (page : Nat) (write : Bool) : Look :=
  match h.look rq pasid page write with
  | .miss =>
    if h.failed.contains (rq, pasid, page) || h.faults.any (fun f => f.pasid == pasid && f.page == page) then .fault
    else .miss
  | l => l

/-- The pages of a packet that no request is out for or waiting. -/
def HostPort.unasked (h : HostPort) (rq : Nat) (pasid : Option Nat) (pages : List Nat) : List Nat :=
  pages.filter fun p => !(h.walks ++ h.misses).any fun w => w.requester == rq && w.pasid == pasid && w.pages.contains p

/-- Translate the pages a packet touches at a host region (R166): `none` when every page is translated. The region's
context permits a page request where it has a host segment with pri at 1 (DESIGN CHOICE, assumption log 72). -/
def State.hostPages (s : State) (r : Region) (addr n : Nat) (write : Bool) : Option Land :=
  let c := s.ctx r.context
  let h := s.host c.port
  let look := fun p => h.landLook c.requester c.pasid p write
  let pages := pagesOf addr n
  let missing := pages.filter fun p => look p == .miss
  let faults := pages.filter fun p => look p == .fault
  if s.pasidBlocked c.port c.pasid then some (.fail s Status.translationFault)
  else if !s.translated c.requester then none
  else if !missing.isEmpty then
    some (.retry (s.missPages c.port c.requester c.pasid (h.unasked c.requester c.pasid missing) write []) 20)
  else if !faults.isEmpty then
    let f := s.func c.requester
    let s := s.modHost c.port fun h => { h with failed := h.failed.filter fun x =>
      !(x.1 == c.requester && x.2.1 == c.pasid && faults.contains x.2.2) }
    if f.priEnable && !f.priStopped && c.segments.any (fun g => g.2.kind == 1 && g.2.pri) then
      some (.retry (s.requestPages c.port c.requester c.pasid faults write []) 1000)
    else some (.fail s Status.translationFault)
  else none

/-- The ATC entries of translated pages count as used. -/
def State.touchPages (s : State) (r : Region) (addr n : Nat) : State :=
  let c := s.ctx r.context
  s.modHost c.port fun h => (pagesOf addr n).foldl (fun h p => h.touch c.requester c.pasid p) h

/-- Write bytes to a context's host memory, in one write to an untranslated address, or page by page to translated ones
(R158, R166). -/
def State.landHost (s : State) (c : Context) (a : Nat) (b : List Byte) : State :=
  if s.translated c.requester then
    (pagesOf a b.length).foldl (fun s p =>
      let lo := max a (p * 4096)
      let n := min (a + b.length) (p * 4096 + 4096) - lo
      s.hostSend c.port { fn := c.requester, pasid := c.pasid, bytes := slice b (lo - a) n, translated := true
                          addr := w64 ((s.host c.port).targetOf c.requester c.pasid p * 4096 + lo % 4096) }) s
  else s.hostSend c.port { fn := c.requester, pasid := c.pasid, addr := w64 a, bytes := b }

/-- The quadrant whose memory holds an offset: that of its leg for a page not yet written. -/
def State.homeOf (s : State) (p off : Nat) : Nat :=
  match s.frameAt p off with
  | some (lpddr, r) => regionQuadrant lpddr r
  | none => match (s.placeAt p off).bind fun x => x.2.legAt (off - x.2.offset) with
    | some (l, _) => l.quadrant % 4
    | none => 0

/-- Verified bytes for a range cross the ring to the quadrant of each page; `none` while a path lacks credit of the class
(R22, R27). -/
def State.toPages (s : State) (q cls p off n : Nat) : Option State :=
  (pagesOf off n).foldl (fun o page => o.bind fun s =>
    let m := min (off + n) (page * 4096 + 4096) - max off (page * 4096)
    let home := s.homeOf p (page * 4096)
    if s.crossOpen q home cls m then some (s.cross q home cls m) else none) (some s)

/-- Verified bytes for a host take the hub link; `none` while it lacks credit of the class (R20, R22). -/
def State.toHub (s : State) (q cls n : Nat) : Option State :=
  if s.pathOpen cls n [hubLink q] then some (s.takePath cls n [hubLink q]) else none

/-- Land checked bytes of a class at an offset of a region; a leg at its cut-over, or a link without credit, makes them
wait (R22, R27, R106, R120, R135, R166, R320, R427). -/
def State.landBytes (s : State) (q copy : Nat) (r : Region) (off : Nat) (b : List Byte) (cls : Nat := 0) : Land :=
  if r.kind = 1 then
    let l := s.biasLines r.partition off b.length true
    if !l.isEmpty then .wait (s.askLines l true)
    else if s.stalled r.partition off b.length then .wait s
    else match s.toPages q cls r.partition off b.length with
      | some s => .done (s.writeSpace r.partition off b)
      | none => .wait s
  else if r.kind = 2 then
    .sent (s.attRequest (windowOf off) (.commit q copy) true (off % 2 ^ 40) b b.length r.partition)
  else
    let a := r.hostAddress.toNat + (off - r.base)
    match s.hostPages r a b.length true with
    | some x => x
    | none =>
      let c := s.ctx r.context
      if s.hostBlocked c.port b.length then .wait s
      else match s.toHub q cls b.length with
        | some s => .done ((s.touchPages r a b.length).landHost c a b)
        | none => .wait s

/-- The new value of an atomic (R254): none stored by a compare that fails. -/
def atomicValue (op : Nat) (old a b : Nat) : Option Nat :=
  if op = 4 then some ((old + a) % 2 ^ 64)
  else if op = 5 then some ((old + a % 2 ^ 32) % 2 ^ 32)
  else if op = 6 then (if old = b then some a else none)
  else (if old = b % 2 ^ 32 then some (a % 2 ^ 32) else none)

/-- Execute an atomic of size `n` on partition-space bytes: the old value, zero-extended; one that stores nothing counts
as a commit for dirty tracking (R133, R254, R255). -/
def State.atomicAt (s : State) (p off n op : Nat) (a b : W64) : State × W64 :=
  let old := leNat (s.readSpace p off n)
  (match atomicValue op old a.toNat b.toNat with
    | some v => s.writeSpace p off (leBytes n v)
    | none => s.dirtySpace p off n, w64 old)

/-- The record of a message enters COMPLETE and its ACK is sent (R237, R253). -/
def State.completeRecord (s : State) (q : Nat) (pkt : Packet) (marked : Bool) : State :=
  let s := s.modRecord q pkt.key fun r => { r with state := .complete, flag := none }
  match s.record? q pkt.key with
  | some r => s.stateReply q pkt marked r
  | none => s

/-- The record of a message enters FAILED and its final NAK is sent (R248). -/
def State.failRecord (s : State) (q : Nat) (pkt : Packet) (status : Nat) (marked : Bool) : State :=
  match s.record? q pkt.key with
  | none => s
  | some r =>
    let s := (s.freeFlag q r).modRecord q pkt.key fun r => { r with state := .failed, finalStatus := status, flag := none }
    match s.record? q pkt.key with
    | some r => s.stateReply q pkt marked r
    | none => s

/-- A packet's bit moves from pending to verified (R234, R248). -/
def State.verifyBit (s : State) (q : Nat) (pkt : Packet) : State :=
  s.modRecord q pkt.key fun r => { r with
    pending := r.pending.filter fun i => i != pkt.pktIndex
    verified := r.verified ||| w64 (2 ^ pkt.pktIndex)
    state := if r.state == .provisional then .opened else r.state }

/-- The bytes other than the flag packet have committed (R250). -/
def Record.othersDone (r : Record) : Bool :=
  match r.flag with
  | some f => r.length ≤ r.committed + f.payloadLen
  | none => false

/-- Commit a waiting flag packet once every other byte of its message has committed (R250, R252). -/
def State.releaseFlag (s : State) (q : Nat) (k : MsgKey) (marked : Bool) : State :=
  match s.record? q k with
  | none => s
  | some r =>
    match r.flag with
    | none => s
    | some f =>
      if !r.othersDone then s
      else
        let id := (s.quad q).nextCopy
        match s.landBytes q id (s.region (keyIndex f.spec.regionKey)) (accessOf f).1 f.payload f.route.cls with
        | .done s => ((s.freeFlag q r).modRecord q k fun r => { r with committed := r.committed + f.payloadLen, flag := none
          }).completeRecord q f marked
        | .sent s =>
          let n := poolSpace f.payloadLen
          (s.modRecord q k fun r => { r with flag := none }).modQuad q fun d => { d with
            flagHold := d.flagHold - n, nextCopy := id + 1
            copies := d.copies ++ [{ id, pkt := f, space := n, verified := true, attTag := some 0 }] }
        | .wait s => s
        | .retry s t => ((s.freeFlag q r).modRecord q k fun r => { r with
            flag := none, verified := r.verified &&& ~~~(w64 (2 ^ f.pktIndex)) }).refuse q f t false marked
        | .fail s st => s.failRecord q f st marked

/-- A packet's bytes have committed: they are credited; the message completes, or its flag packet may follow
(R248). -/
def State.credit (s : State) (q : Nat) (pkt : Packet) (marked : Bool) : State :=
  let s := s.modRecord q pkt.key fun r => { r with committed := r.committed + pkt.payloadLen }
  match s.record? q pkt.key with
  | none => s
  | some r =>
    if r.state == .failed then s
    else if r.length ≤ r.committed then s.completeRecord q pkt marked
    else
      let s := if r.flag.isSome && r.othersDone then s.releaseFlag q pkt.key marked else s
      if pkt.flags.ackNow && (s.record? q pkt.key).any (fun r => r.state == .opened) then s.repeatReply q pkt marked
    else s

/-- Place a verified flag packet in the flag hold, or refuse it for 10 µs (R252). -/
def State.holdFlag (s : State) (q : Nat) (c : RxCopy) (marked : Bool) : State :=
  if flagHoldSize < (s.quad q).flagHold + c.space then
    ((s.freeCopy q c).modRecord q c.pkt.key fun r => { r with
      pending := r.pending.filter (fun i => i != c.pkt.pktIndex)
      state := if r.state == .provisional then .opened else r.state }).refuse q c.pkt 10 false marked
  else
    let s := ((s.takeCopy q c.id).verifyBit q c.pkt).modRecord q c.pkt.key fun r => { r with flag := some c.pkt }
    let s := s.modQuad q fun d => { d with flagHold := d.flagHold + c.space }
    if c.pkt.flags.ackNow then s.repeatReply q c.pkt marked else s

/-- A checked WRITE packet lands. -/
def State.landWrite (s : State) (q : Nat) (c : RxCopy) (marked : Bool) : State :=
  let pkt := c.pkt
  match s.record? q pkt.key with
  | none => s.freeCopy q c
  | some rec =>
    if rec.state == .failed then (s.freeCopy q c).repeatReply q pkt marked
    else if pkt.flags.flagFinal && rec.committed + pkt.payloadLen < rec.length then s.holdFlag q c marked
    else
      match s.landBytes q c.id (s.region (keyIndex pkt.spec.regionKey)) (accessOf pkt).1 pkt.payload pkt.route.cls with
      | .done s => ((s.freeCopy q c).verifyBit q pkt).credit q pkt marked
      | .sent s => (s.verifyBit q pkt).modCopy q c.id fun c => { c with verified := true, attTag := some 0 }
      | .wait s => s.modCopy q c.id fun c => { c with verified := true }
      | .retry s t => ((s.freeCopy q c).modRecord q pkt.key fun r => { r with
          pending := r.pending.filter (fun i => i != pkt.pktIndex)
          state := if r.state == .provisional then .opened else r.state }).refuse q pkt t false marked
      | .fail s st => (s.freeCopy q c).failRecord q pkt st marked

/-- A checked atomic executes; a leg at its cut-over makes it wait (R135, R255, R430). -/
def State.landAtomic (s : State) (q : Nat) (c : RxCopy) (marked : Bool) : State :=
  let pkt := c.pkt
  let (off, n) := accessOf pkt
  match s.record? q pkt.key with
  | none => s.freeCopy q c
  | some rec =>
    if rec.state == .failed then (s.freeCopy q c).repeatReply q pkt marked
    else
      let l := s.biasLines pkt.key.partition off n true
      if !l.isEmpty then (s.askLines l true).modCopy q c.id fun c => { c with verified := true }
      else if s.stalled pkt.key.partition off n then s.modCopy q c.id fun c => { c with verified := true }
      else match s.toPages q pkt.route.cls pkt.key.partition off n with
      | none => s.modCopy q c.id fun c => { c with verified := true }
      | some s =>
        let (s, old) := s.atomicAt pkt.key.partition off n pkt.route.opcode
          (w64 (field pkt.payload 0 8)) (w64 (field pkt.payload 8 8))
        (((s.freeCopy q c).verifyBit q pkt).modRecord q pkt.key fun r => { r with
          result := old, committed := r.length }).completeRecord q pkt marked

/-! ## Serving reads (R256) -/

/-- Response packet `k` of a READ_REQ. -/
def State.readPacket (s : State) (q : Nat) (pkt : Packet) (k : Nat) (b : List Byte) : Packet :=
  { key := { pkt.key with src := s.cfg.endpoint }
    route := { opcode := opReadResp, cls := 1, dst := pkt.key.src, landQ := pkt.route.replyQ }
    flags := { last := k + 1 == packetsOf pkt.msgLength }
    issue := s.stamp q, send := s.stamp q, pktIndex := k, payloadLen := b.length, payload := b }

/-- Send a response packet; an UNLOCKED device sends none (R231). -/
def State.sendRead (s : State) (q : Nat) (pkt : Packet) (k : Nat) (b : List Byte) : State :=
  if s.mer.lock == .unlocked then s else s.inject q (s.readPacket q pkt k b)

/-- Answer a queue pair: 1 acknowledge, 2 read data, 3 an atomic's old value, 4 NAK with its syndrome; `n` bytes of the
packet follow its BTH (R448, R461). -/
def State.rdmaReply (s : State) (qp kind psn n : Nat) (body : List W64) : State :=
  match tblGet s.qps qp with
  | some q => s.queueFrame (q.frame qp true (16 + kind) psn n body)
  | none => s

/-- The response packets of one piece of 4 KiB of a READ, cut at the path MTU. -/
def State.rdmaData (s : State) (qp psn k : Nat) (b : List Byte) : State :=
  let m := match tblGet s.qps qp with
    | some q => q.bytes
    | none => 4096
  (List.range (max 1 ((b.length + m - 1) / m))).foldl (fun s i =>
    let part := slice b (i * m) (min m (b.length - i * m))
    s.rdmaReply qp 2 ((psn + k * (4096 / m) + i) % 2 ^ 24) (4 + (part.length + 3) / 4 * 4)
      (w64 part.length :: bytesWords ((part.length + 7) / 8) part)) s

/-- Send one packet of a served read, to a native requester or a queue pair. -/
def State.sendServed (s : State) (q : Nat) (c : RxCopy) (k : Nat) (b : List Byte) : State :=
  match c.rdma with
  | some qp => s.rdmaData qp c.pkt.key.seq.toNat k b
  | none => s.sendRead q c.pkt k b

/-- The packets of a want_mask. -/
def wanted (pkt : Packet) : List Nat := (List.range (packetsOf pkt.msgLength)).filter fun k => pkt.spec.wantMask.getLsbD k

/-- A failed read of the responder ends the copy with a final NAK (R256). -/
def State.failRead (s : State) (q : Nat) (c : RxCopy) (status : Nat) : State :=
  match c.rdma with
  | some qp => (s.freeCopy q c).rdmaReply qp 4 c.pkt.key.seq.toNat 4 [0x62]
  | none => (s.freeCopy q c).finalNak q c.pkt status c.marked

/-- Send every wanted packet whose bytes have all been read, to a queue pair in their order, and free the copy after the
last. -/
def State.serveRead (s : State) (q id : Nat) : State :=
  match s.copy? q id with
  | none => s
  | some c =>
    let piece := fun k => chunkBytes c.got (k * 4096) (packetLen c.pkt.msgLength k)
    let able := if c.rdma.isSome then c.want.takeWhile fun k => (piece k).isSome else c.want
    let ready := able.filterMap fun k => (piece k).map fun b => (k, b)
    let s := ready.foldl (fun s r => s.sendServed q c r.1 r.2) s
    let left := c.want.filter fun k => !ready.any fun r => r.1 == k
    if left.isEmpty then s.freeCopy q c else s.modCopy q id fun c => { c with want := left }

/-- The bytes [lo, hi) in pieces of the port's Max Read Request Size: first address and length (R413). -/
def readPieces (limit lo hi : Nat) : List (Nat × Nat) :=
  (List.range ((hi - lo + limit - 1) / limit)).map fun i => (lo + i * limit, min limit (hi - lo - i * limit))

/-- Issue the waiting host reads of a copy while tags are free (R413); `fuel` bounds them. -/
def State.pumpServed (s : State) (q id : Nat) : Nat → State
  | 0 => s
  | n + 1 =>
    match s.copy? q id with
    | none => s
    | some c => match c.toRead with
      | [] => s
      | r :: rest => match s.hostRead c.readPort r with
        | (s, true) => (s.modCopy q id fun c => { c with toRead := rest }).pumpServed q id n
        | (s, false) => s

/-- Every copy's waiting host reads are tried. -/
def State.pumpServedAll (s : State) : State :=
  [0, 1, 2, 3].foldl (fun s q => ((s.quad q).copies.filter fun c => !c.toRead.isEmpty).foldl
    (fun s c => s.pumpServed q c.id c.toRead.length) s) s

/-- Host reads of the bytes [off, off + n) of a message, cut at pages and at the Max Read Request Size (R413). -/
def State.responderReads (s : State) (q id : Nat) (c : Context) (addr off n : Nat) : State :=
  let h := s.host c.port
  let tr := s.translated c.requester
  let l : List HostRead := (pagesOf (addr + off) n).flatMap fun p =>
    (readPieces h.maxRead (max (addr + off) (p * 4096)) (min (addr + off + n) (p * 4096 + 4096))).map fun x =>
      { fn := c.requester, pasid := c.pasid, length := x.2, translated := tr, purpose := .responder q id (x.1 - addr)
        addr := w64 (if tr then h.targetOf c.requester c.pasid p * 4096 + x.1 % 4096 else x.1) }
  (s.modCopy q id fun y => { y with toRead := y.toRead ++ l, readPort := c.port }).pumpServed q id (l.length + 768)

/-- A checked READ_REQ is served from its region's memory. -/
def State.landRead (s : State) (q : Nat) (c : RxCopy) : State :=
  let pkt := c.pkt
  let r := s.region (keyIndex pkt.spec.regionKey)
  let (off, n) := accessOf pkt
  let want := wanted pkt
  if r.kind = 1 then
    let l := s.biasLines r.partition off n false
    if !l.isEmpty then (s.askLines l false).modCopy q c.id fun c => { c with verified := true, want }
    else if s.rekeyStalled r.partition off n then s.modCopy q c.id fun c => { c with verified := true, want }
    else (want.foldl (fun s k => s.sendServed q c k
        (s.readSpace r.partition (off + k * 4096) (packetLen pkt.msgLength k))) (s.useChannels r.partition off n)).freeCopy q c
  else if r.kind = 2 then
    let s := s.modCopy q c.id fun c => { c with verified := true, want, attTag := some 0 }
    want.foldl (fun s k => s.attRequest (windowOf off) (.readFor q c.id (k * 4096)) false ((off + k * 4096) % 2 ^ 40) []
      (packetLen pkt.msgLength k) r.partition) s
  else
    let a := r.hostAddress.toNat + (off - r.base)
    match s.hostPages r a n false with
    | some (.retry s t) => (s.freeCopy q c).refuse q pkt t false c.marked
    | some (.fail s st) => s.failRead q c st
    | some _ => s
    | none =>
      let s := (s.touchPages r a n).modCopy q c.id fun c => { c with verified := true, want, attTag := some 0 }
      want.foldl (fun s k => s.responderReads q c.id (s.ctx r.context) a (k * 4096) (packetLen pkt.msgLength k)) s

/-! ## Verified copies -/

/-- Land a copy that has passed its checks, or try again after a wait. -/
def State.landCopy (s : State) (q : Nat) (c : RxCopy) : State :=
  let marked := s.marksReply c.pkt c.marked
  if c.pkt.route.opcode = opWrite then s.landWrite q c marked
  else if isWireAtomic c.pkt.route.opcode then s.landAtomic q c marked
  else if c.pkt.route.opcode = opReadReq then s.landRead q c
  else s

/-- The record of a copy's message has FAILED: the copy is a duplicate, checked no further (R235). -/
def State.failedRecord (s : State) (q : Nat) (pkt : Packet) : Bool :=
  pkt.route.opcode != opReadReq && (s.record? q pkt.key).any fun r => r.state == .failed

/-- A copy of a FAILED record lands nothing and draws the final NAK (R235, R237, R248). -/
def State.dropFailed (s : State) (q : Nat) (c : RxCopy) : State :=
  ((s.freeCopy q c).modRecord q c.pkt.key fun r => { r with
    pending := r.pending.filter fun i => i != c.pkt.pktIndex }).repeatReply q c.pkt (s.marksReply c.pkt c.marked)

/-- A verified request copy runs the checks of R121 and lands, or is refused (R121, R234, R235, R248, R256). -/
def State.commitCopy (s : State) (q : Nat) (c : RxCopy) : State :=
  let pkt := c.pkt
  let st := s.commitCheck pkt
  if s.failedRecord q pkt then s.dropFailed q c
  else if st != Status.ok then
    let s := s.accessFault pkt.key.partition (accessOf pkt).1 (accessOf pkt).2 st
    if pkt.route.opcode = opReadReq then s.failRead q c st
    else
      match s.record? q pkt.key with
      | none => s.freeCopy q c
      | some _ => ((s.freeCopy q c).modRecord q pkt.key fun r => { r with
          pending := r.pending.filter fun i => i != pkt.pktIndex }).failRecord q pkt st (s.marksReply pkt c.marked)
  else s.landCopy q c

/-! ## Read responses at the requester (R257, R261) -/

/-- The sender entry a reply names (R239). -/
def State.replied? (s : State) (q : Nat) (pkt : Packet) : Option (Nat × Sender) :=
  (s.quad q).senders.find? fun r =>
    r.2.begun && !r.2.sent.isEmpty && r.2.partition == pkt.key.partition && r.2.context == pkt.key.context
      && r.2.gen.toNat == pkt.key.gen && r.2.seq == pkt.key.seq

/-- Response space is released as packets commit. -/
def State.releaseResv (s : State) (q m n : Nat) : State :=
  match s.sender? q m with
  | none => s
  | some x =>
    let k := min n x.reserved
    (s.setSender q m { x with reserved := x.reserved - k }).modQuad q fun d => { d with reserved := d.reserved - k }

/-- The local destination of a READ: its segment entry, by owner. -/
def State.readSegment (s : State) (x : Sender) : Segment :=
  match x.owner with
  | .desc q i => match s.desc? q i with
    | some d => d.seg
    | none => {}
  | .step k slot => match s.flight? k slot with
    | some f => f.segs.getD 1 {}
    | none => {}
  | .coll _ _ _ => {}
  | .none => {}

/-- The owner of a message's local work. -/
def Sender.tileOwner (x : Sender) : TileOwner :=
  match x.owner with
  | .desc q i => .desc q i
  | .step k slot => .step k slot
  | .coll _ _ _ => .desc 8192 0
  | .none => .desc 8192 0

/-- The buffer number of the local destination of a READ. -/
def Sender.readBuffer (x : Sender) : Nat :=
  match x.owner with
  | .step _ _ => 1
  | .desc _ _ => 0
  | .coll _ _ _ => 0
  | .none => 0

/-- A response packet has committed: its bit is set and its space released, and with the last one the message ends
(R257, R261). -/
def State.readLanded (s : State) (q m : Nat) (pkt : Packet) : State :=
  match s.sender? q m with
  | none => s
  | some x =>
    let x := { x with bitmap := x.bitmap ||| w64 (2 ^ pkt.pktIndex) }
    let s := (s.setSender q m x).releaseResv q m 4160
    if x.bitmap.toNat % 2 ^ packetsOf x.length = fullBitmap (packetsOf x.length) then s.msgEnded q m Status.ok 0 else s

/-- Keep a response packet until it commits; one that waits already is kept as it is. -/
def State.keepResp (s : State) (q : Nat) (pkt : Packet) (waiting : Option Nat) : State :=
  match waiting with
  | some _ => s
  | none => s.modQuad q fun d => { d with
      copies := d.copies ++ [{ id := d.nextCopy, pkt, verified := true }], nextCopy := d.nextCopy + 1 }

/-- Commit a response packet by offset; a commit that waits keeps the copy, and one that is refused fails the message. In
an accelerator window it commits when MEM_WRITE_DONE arrives (R257, R320). -/
def State.commitRead (s : State) (q m : Nat) (x : Sender) (pkt : Packet) (waiting : Option Nat) : State :=
  let drop := fun (s : State) => match waiting with
    | some id => s.takeCopy q id
    | none => s
  let g := s.readSegment x
  let off := x.offset + pkt.pktIndex * 4096
  let t := segTarget g x.localAddr + off
  if g.kind != 1 && inAccelWindow t then
    if s.accelServes (windowOf t) x.partition then
      let id := waiting.getD (s.quad q).nextCopy
      ((s.keepResp q pkt waiting).modCopy q id fun c => { c with attTag := some 0 }).attRequest (windowOf t)
        (.readInto q id) true (t % 2 ^ 40) pkt.payload pkt.payload.length x.partition
    else (drop s).msgEnded q m Status.addressUnmapped 0
  else
    match s.localWrite x.tileOwner x.partition g x.localAddr off pkt.payload x.readBuffer with
    | .done s => (drop s).readLanded q m pkt
    | .wait s => s.keepResp q pkt waiting
    | .fail s st => (drop s).msgEnded q m st 0

/-- The accelerator has committed a response packet, or refused it (R257, R320). -/
def State.respCommitted (s : State) (q : Nat) (c : RxCopy) (status : Nat) : State :=
  let s := s.takeCopy q c.id
  match s.replied? q c.pkt with
  | some (m, _) => if status = Status.ok then s.readLanded q m c.pkt else s.msgEnded q m status 0
  | none => s

/-! ## Trying again -/

/-- Try the waiting verified copies of a quadrant again: what they waited for may have come (R427, R435); a fenced
receive pipeline tries none (R516). -/
def State.recommitIn (s : State) (q : Nat) : State :=
  if s.unitDown (.receive q) then s
  else
  let l := (s.quad q).copies.filter fun c => c.verified && c.attTag.isNone && c.pkt.route.opcode != opColl
  let s := l.foldl (fun s c =>
    if c.pkt.route.opcode = opReadResp then
      match s.replied? q c.pkt with
      | some (m, x) => if x.bitmap.getLsbD c.pkt.pktIndex then s.takeCopy q c.id else s.commitRead q m x c.pkt (some c.id)
      | none => s.takeCopy q c.id
    else s.landCopy q c) s
  ((s.quad q).records.filter fun r => r.flag.isSome && r.othersDone).foldl (fun s r => s.releaseFlag q r.key false) s

/-- Try every waiting copy again. -/
def State.recommit (s : State) : State := [0, 1, 2, 3].foldl (fun s q => s.recommitIn q) s

end Sys2Proof.Machine
end

