-- ==== Sys2Proof/Machine/Steps.lean ====
section
/-!
DEFINITION. Machine/Steps.lean: the kernel sequencer's engine: step encoding, issue, flights, the local copying of a
step, completion, failure and the end of a kernel (R370 to R380).
-/

namespace Sys2Proof.Machine

/-! ## Encoding (R378) -/

/-- A step as read. -/
def parseStep (l : List Byte) : Step :=
  let v := leNat (l.take 32)
  { op := bits v 7 0, sub := bits v 15 12, sx := bits v 27 24, sy := bits v 23 20, ind := bit v 19, sync := bit v 18
    sig := bit v 17, trig := bits v 43 30, timeout := bits v 63 44
    a := w64 (bits v 127 64), b := w64 (bits v 191 128), c := w64 (bits v 255 192)
    reservedZero := bits v 11 8 == 0 && !bit v 16 && bits v 29 28 == 0 }

/-- The largest defined sub-operation of an op, plus one; 0 for an undefined op (R379). -/
def subCount (op : Nat) : Nat :=
  match op with
  | 1 => 2
  | 2 => 3
  | 3 => 3
  | 4 => 4
  | 5 => 3
  | 6 => 1
  | 7 => 5
  | 8 => 6
  | 9 => 1
  | 15 => 1
  | _ => 0

/-- The step must carry a timeout (R378). -/
def needsTimeout (op sub : Nat) : Bool := (1 ≤ op && op ≤ 4) || op == 9 || (op == 8 && (sub == 2 || sub == 3))

/-- The step is asynchronous (R373). -/
def isAsync (op sub : Nat) : Bool := op == 1 || (op == 2 && sub != 2) || op == 3 || op == 9

/-- The step names its trig point as an operand (R379). -/
def namesTrig (op sub : Nat) : Bool :=
  (op == 4 && sub < 2) || (op == 5 && sub < 2) || (op == 7 && sub == 3) || (op == 8 && sub == 5)

/-! ## The running kernel -/

/-- A scalar. -/
def Running.sc (r : Running) (i : Nat) : W64 := r.scalars.getD i 0

/-- Set a scalar. -/
def Running.setSc (r : Running) (i : Nat) (v : W64) : Running := { r with scalars := r.scalars.set i v }

/-- The step with its index applied: with ind, a is a + SC[sx] (R378); a LOOP uses ind otherwise (R379), and a PRED
takes a as its skip, which the load checks bound (R382; DEDUCED, assumption log 42). -/
def Running.effective (r : Running) (t : Step) : Step :=
  if t.ind && t.op != 6 && t.op != 7 then { t with a := t.a + r.sc t.sx } else t

/-- The sequencer works: not being wiped, not fenced, a kernel running. -/
def State.kernel? (s : State) (k : Nat) : Option Running :=
  let q := s.seq k
  if q.wiping || q.retired || s.recover.units.any (fun u => u.unit == .sequencer k && u.fenced) then none
  else q.running

/-- The next step to issue, with its kernel; none while the sequencer waits (R373). -/
def State.nextStep (s : State) (k : Nat) : Option (Running × Step) :=
  match s.kernel? k with
  | some r => if r.waiting == .none then r.image.steps[r.step]?.map fun t => (r, r.effective t) else none
  | none => none

/-- The next step, where it is of this operation. -/
def State.stepOf (s : State) (k op sub : Nat) : Option (Running × Step) :=
  match s.nextStep k with
  | some (r, t) => if t.op == op && (t.sub == sub || op == 6 || op == 9 || op == 15) then some (r, t) else none
  | none => none

/-- The trig point a step names (R380). -/
def Running.trigOf (r : Running) (t : Step) : Nat := ((r.sc 15).toNat + t.trig) % 16384

/-- The trig point is allocated to the kernel's partition (R380). -/
def State.ownsTrig (s : State) (p i : Nat) : Bool :=
  match s.trig? i with
  | some (o, _) => o == p
  | none => false

/-- The value of a trig point. -/
def State.trigValue (s : State) (i : Nat) : W64 :=
  match s.trig? i with
  | some (_, v) => v
  | none => 0

/-- Change a trig point that is allocated (R384). -/
def State.modTrig (s : State) (i : Nat) (g : W64 → W64) : State :=
  match s.trig? i with
  | some (p, v) => s.setTrig i p (g v)
  | none => s

/-- The graticule a kernel bound is free again (R377). -/
def State.unbind (s : State) (k : Nat) : State :=
  { s with grats := tblMap s.grats fun _ g => if g.boundTo == some k then { g with boundTo := none } else g }

/-- End a kernel: its descriptor completes, and the sequencer is free (R370, R375, R376). -/
def State.endKernel (s : State) (k : Nat) (r : Running) (status detail : Nat) (result : W64) : State :=
  let s := s.modDesc r.queue r.descIndex fun d =>
    if d.phase == .completed then d else { d with phase := .completed, status, detail, result }
  (s.unbind k).modSeq k fun q => { q with
    running := none, ended := q.ended + 1
    failed := if status = Status.ok then q.failed else min 0xFFFF (q.failed + 1) }

/-- A kernel that waits for its flights ends when none is left (R375, R376). -/
def State.checkEnd (s : State) (k : Nat) : State :=
  match (s.seq k).running with
  | none => s
  | some r =>
    if !r.flights.isEmpty then s
    else
      match r.waiting with
      | .exit v => s.endKernel k r Status.ok r.flags.bits v
      | .failing st i => s.endKernel k r st i 0
      | .none => s
      | .flight _ => s
      | .trigGe _ _ _ _ => s
      | .time _ _ => s
      | .record _ => s
      | .wordGe _ _ _ => s

/-- A step fails: no further step issues; a later failure only counts (R375). -/
def State.failKernel (s : State) (k status index : Nat) : State :=
  match (s.seq k).running with
  | none => s
  | some r =>
    match r.waiting with
    | .failing _ _ => s.count Count.laterFailures
    | .none => s.modRun k fun r => { r with waiting := .failing status index }
    | .flight _ => s.modRun k fun r => { r with waiting := .failing status index }
    | .trigGe _ _ _ _ => s.modRun k fun r => { r with waiting := .failing status index }
    | .time _ _ => s.modRun k fun r => { r with waiting := .failing status index }
    | .record _ => s.modRun k fun r => { r with waiting := .failing status index }
    | .wordGe _ _ _ => s.modRun k fun r => { r with waiting := .failing status index }
    | .exit _ => s.modRun k fun r => { r with waiting := .failing status index }

/-- The step at the sequencer fails before it starts any work. -/
def State.failStep (s : State) (k : Nat) (r : Running) (status : Nat) : State :=
  (s.failKernel k status r.step).checkEnd k

/-- A step names only trig points of its partition (R380), its sig's among them. -/
def State.trigsOk (s : State) (r : Running) (t : Step) : Bool :=
  !(namesTrig t.op t.sub || t.sig) || s.ownsTrig r.partition (r.trigOf t)

/-- A synchronous step that completes at once: its sig is added, and the sequencer goes on (R373). -/
def State.stepDone (s : State) (k : Nat) (r : Running) (t : Step) (next : Nat) : State :=
  let s := s.modRun k fun x => { x with step := next, progressClk := s.clk }
  if t.sig then s.modTrig (r.trigOf t) (· + 1) else s

/-- Room for another asynchronous step (R373). -/
def Running.room (r : Running) : Bool := (r.flights.filter fun f => isAsync f.step.op f.step.sub).length < 32

/-- Put a step in flight; with sync, or where the step is synchronous, the sequencer waits for it (R373). -/
def State.fly (s : State) (k : Nat) (r : Running) (t : Step) (segs : List Segment) : State :=
  let f : Flight := { slot := r.nextSlot, index := r.step, step := t, trig := r.trigOf t, issuedClk := s.clk, segs }
  s.modRun k fun x => { x with
    flights := x.flights ++ [f], nextSlot := x.nextSlot + 1, step := x.step + 1, progressClk := s.clk
    waiting := if t.sync || !isAsync t.op t.sub then .flight r.nextSlot else .none }

/-- The check of a context address range of a kernel (R147, R372). -/
def State.stepRange (s : State) (r : Running) (a : W64) (len : Nat) (write : Bool) : Nat :=
  s.rangeCheck r.context r.contextGen r.partition a len write

/-- A global address carries the kernel's partition (R372). -/
def Running.inScope (r : Running) (a : W64) : Bool := gaPartition a == r.partition

/-- Prepare a range of a flight under a segment entry: the tiles of a host range, or the reads of an accelerator's (R150,
R151). -/
def State.openSegment (s : State) (g : Segment) (k slot : Nat) (r : Running) (a : W64) (len : Nat) (write : Bool)
    (buf : Nat) : State :=
  if write then
    (if g.kind = 1 then s.addTiles (.step k slot) (4 + k) r.context g (segTarget g a) len true (bufBase buf) else s)
  else s.startFetch (.step k slot) (4 + k) r.context r.partition g a len buf

/-- Prepare a range of a flight at its fetch (R148). -/
def State.openRange (s : State) (k slot : Nat) (r : Running) (a : W64) (len : Nat) (write : Bool) (buf : Nat) :
    State :=
  s.openSegment (s.segOf r.context a) k slot r a len write buf

/-! ## Local copying -/

/-- Write pieces of a buffer, all of them or none yet: a piece that must wait undoes the earlier ones. -/
def State.writePieces (s0 s : State) (o : TileOwner) (p : Nat) (g : Segment) (a : W64) (buf : Nat) :
    List (Nat × List Byte) → Commit
  | [] => .done s
  | (off, b) :: rest =>
    match s.localWrite o p g a off b buf with
    | .done s => State.writePieces s0 s o p g a buf rest
    | .fail s st => .fail s st
    | .wait _ => match s0.localWrite o p g a off b buf with
      | .wait s1 => .wait s1
      | .done _ => .wait s0
      | .fail s st => .fail s st

/-- Try to finish the local copying of a FETCH LOCAL, a LOAD or a STORE. -/
def State.progress (s : State) (k slot : Nat) : State :=
  match (s.seq k).running, s.flight? k slot with
  | some r, some f =>
    let o : TileOwner := .step k slot
    if f.ended.isSome then s
    else if f.bytesDone ≠ 0 ∧ (f.step.op = 8 ∨ (f.step.op = 1 ∧ f.step.sub = 0)) then s.settleFlight k slot
    else if f.step.op = 1 ∧ f.step.sub = 0 then
      -- a doomed tile leaves the bytes before it to be copied (R164)
      let n := s.soundLength o f.step.count
      match s.localRead o r.partition (f.segs.getD 0 {}) f.step.a 0 n 0 with
      | .bytes b => match s.writePieces s o r.partition (f.segs.getD 1 {}) f.step.c 1 [(0, b)] with
        | .done s => (s.modFlight k slot fun f => { f with bytesDone := n }).settleFlight k slot
        | .wait s => s
        | .fail s st => s.cutFlight k slot st 0
      | .wait s => s
      | .fail s st => s.cutFlight k slot st 0
    else if f.step.op = 8 ∧ f.step.sub = 2 then
      match s.localRead o r.partition (f.segs.getD 0 {}) f.step.a 0 8 0 with
      | .bytes b => (s.modRun k fun x => x.setSc f.step.sy (w64 (leNat b))).settleFlight k slot
      | .wait s => s
      | .fail s st => s.cutFlight k slot st 0
    else if f.step.op = 8 ∧ f.step.sub = 3 then
      match s.localWrite o r.partition (f.segs.getD 1 {}) f.step.a 0 (leBytes 8 (r.sc f.step.sy).toNat) 1 with
      | .done s => (s.modFlight k slot fun f => { f with bytesDone := 8 }).settleFlight k slot
      | .wait s => s
      | .fail s st => s.cutFlight k slot st 0
    else s
  | _, _ => s

/-- Nothing of the flight is still under way. -/
def State.flightQuiet (s : State) (k slot : Nat) : Bool := !s.hasSender (.step k slot) && s.storesDone (.step k slot)

/-- Complete a flight whose work has ended: its sig, its failure, the sequencer's wait, the kernel's end (R373 to
R376). The sig goes to the trig point that the step named when it was issued, if that is still the partition's (R380). -/
def State.completeFlight (s : State) (k slot : Nat) : State :=
  match (s.seq k).running, s.flight? k slot with
  | some r, some f =>
    match f.ended with
    | none => s
    | some (st, _) =>
      if !s.flightQuiet k slot then s
      else
        let s := s.endTiles (.step k slot)
        let s := s.modRun k fun x => { x with
          flights := x.flights.filter fun g => g.slot != slot, progressClk := s.clk
          waiting := if x.waiting == .flight slot then .none else x.waiting }
        let s := if st != Status.ok then s.failKernel k st f.index
                 else if !f.step.sig then s
                 else if s.ownsTrig r.partition f.trig then s.modTrig f.trig (· + 1)
                 else s.failKernel k Status.partitionScope f.index
        s.checkEnd k
  | _, _ => s

end Sys2Proof.Machine
end

