-- ==== Sys2Proof/Machine/Graticule.lean ====
section
/-!
DEFINITION. Machine/Graticule.lean: graticule jobs and reductions: the job record and its conditions, pass sums,
checks, accumulation and emission, and the reduction units' work (R342 to R366, R379).
-/

namespace Sys2Proof.Machine

/-! ## The job record (R343, R345) -/

/-- The record as read. -/
def parseJob (l : List Byte) : JobRecord :=
  let v := leNat (l.take 64)
  { outAddress := w64 (bits v 511 448), wScaleAddress := w64 (bits v 447 384), aScaleAddress := w64 (bits v 383 320)
    wAddress := w64 (bits v 319 256), aAddress := w64 (bits v 255 192), wScale := w32 (bits v 191 160)
    aScale := w32 (bits v 159 128), stream := w32 (bits v 127 96), accRow := bits v 95 83, m := bits v 82 70
    k := bits v 69 60, n := bits v 59 51, outFmt := bits v 50 47, wFmt := bits v 46 43, aFmt := bits v 42 39
    exact := bit v 38, accumulate := bit v 37, emit := bit v 36, sr := bit v 35, saturate := bit v 34
    check := bit v 33, aStride := bits v 31 16, outStride := bits v 15 0 }

/-- The format codes 0x0 and 0xF are reserved (R331). -/
def reservedFmt (c : Nat) : Bool := c == 0 || c == 0xF

/-- The record holds a reserved encoding: a format code (R5, R345), or m, k or n outside its stated range, for which the
manual names no status and the model gives RESERVED_ENCODING (DESIGN CHOICE, assumption log 74). A reserved bit counts
for nothing (R4). -/
def jobReserved (j : JobRecord) : Bool :=
  reservedFmt j.aFmt || reservedFmt j.wFmt || reservedFmt j.outFmt
    || j.m == 0 || 6144 < j.m || j.k == 0 || 512 < j.k || j.n == 0 || 256 < j.n

/-- The rate classes of R342. -/
inductive RateClass where
  | full
  | mx
  | int
  | doubleMx
  | double
  | half
  deriving DecidableEq, Repr

/-- The class of an (A, W) pair, where it is allowed (R342). -/
def pairClass (a w : Nat) : Option RateClass :=
  if (a = 1 ∨ a = 2) ∧ (w = 1 ∨ w = 2) then some .full
  else if (3 ≤ a ∧ a ≤ 6) ∧ (3 ≤ w ∧ w ≤ 6) then some .mx
  else if a = 0xB ∧ w = 0xB then some .int
  else if a = 7 ∧ w = 7 then some .doubleMx
  else if a = 8 ∧ w = 8 then some .double
  else if (a = 9 ∧ w = 9) ∨ (a = 0xA ∧ w = 0xA) then some .half
  else none

/-- The largest reduction length of a class. -/
def RateClass.limit : RateClass → Nat
  | .full => 256
  | .mx => 256
  | .int => 256
  | .doubleMx => 512
  | .double => 512
  | .half => 256

/-- The class allows exact accumulation. -/
def RateClass.exactOk : RateClass → Bool
  | .full => true
  | .double => true
  | .mx => false
  | .int => false
  | .doubleMx => false
  | .half => false

/-- The first condition of R345 that a record fails; 0 when it fails none. -/
def jobCondition (j : JobRecord) : Nat :=
  match pairClass j.aFmt j.wFmt with
  | none => 1
  | some c =>
    if c.limit < j.k ∨ (isMx j.aFmt ∧ j.k % 32 ≠ 0) then 2
    else if j.outFmt = 0xE ∨ (j.outFmt = 0xD ∧ j.aFmt ≠ 0xB) ∨ (isMx j.outFmt ∧ j.n % 32 ≠ 0) then 3
    else if j.exact ∧ ¬c.exactOk then 4
    else if (if j.exact then 512 else 6144) < j.accRow + j.m then 5
    else if 16 * j.aStride < packedSize j.aFmt j.k ∨ 16 * j.outStride < packedSize j.outFmt j.n then 6
    else 0

/-- The graticule can take work: idle, wiped, in service (R363, R516). -/
def State.gratFree (s : State) (g : Nat) : Bool :=
  let y := s.grat g
  decide (g < 8) && y.job.isNone && y.scoring.isNone && !y.wiping && !y.suspect && !y.retired && !s.unitDown (.graticule g)

/-- A job of this format pair runs at half rate, with a load of its own (R342, R539). -/
def halfRate (aFmt wFmt : Nat) : Bool := pairClass aFmt wFmt == some .half

/-! ## Where the operands lie (R344) -/

/-- Bytes of one row of W, rounded up to 16. -/
def JobRecord.wRow (j : JobRecord) : Nat := (packedSize j.wFmt j.n + 15) / 16 * 16

/-- Scale bytes of one row of A or column of W. -/
def JobRecord.scales (j : JobRecord) : Nat := (j.k + 31) / 32

/-- Bytes of the A range. -/
def JobRecord.aBytes (j : JobRecord) : Nat := (j.m - 1) * 16 * j.aStride + packedSize j.aFmt j.k

/-- Bytes of the output range: the rows, and for an MX format the scales behind them. -/
def JobRecord.outBytes (j : JobRecord) : Nat :=
  if isMx j.outFmt then 16 * j.m * j.outStride + j.m * (j.n / 32)
  else (j.m - 1) * 16 * j.outStride + packedSize j.outFmt j.n

/-- The buffers a job reads or writes: buffer number, address, bytes, written. -/
def JobRecord.ranges (j : JobRecord) : List (Nat × W64 × Nat × Bool) :=
  [(2, j.aAddress, j.aBytes, false), (3, j.wAddress, j.k * j.wRow, false)]
    ++ (if isMx j.aFmt then [(4, j.aScaleAddress, j.m * j.scales, false), (5, j.wScaleAddress, j.n * j.scales, false)]
        else [])
    ++ if j.emit then [(1, j.outAddress, j.outBytes, true)] else []

/-! ## Pass sums (R346 to R348) -/

/-- One level of the pairwise tree. -/
def treeLevel : List W32 → List W32 × NumFlags
  | a :: b :: r =>
    let x := fpAdd a b
    let y := treeLevel r
    (x.1 :: y.1, x.2.or y.2)
  | l => (l, {})

/-- Levels until one value remains. -/
def treeLevels : Nat → List W32 → W32 × NumFlags
  | 0, l => (l.headD 0, {})
  | n + 1, l =>
    match l with
    | [] => (0, {})
    | [a] => (a, {})
    | a :: b :: r =>
      let x := treeLevel (a :: b :: r)
      let y := treeLevels n x.1
      (y.1, x.2.or y.2)

/-- The pairwise tree of R346: leaves in order, padded with +0 to a power of two. -/
def tree (l : List W32) : W32 × NumFlags :=
  let n := if l.length ≤ 1 then l.length else 2 ^ (Nat.log2 (l.length - 1) + 1)
  treeLevels l.length (l ++ List.replicate (n - l.length) 0)

/-- The exact sum of values. -/
def exactSum (l : List Num) : Num :=
  match l with
  | [] => .zero
  | x :: r => r.foldl Num.add x

/-- Elements of a row of bytes. -/
def rowNums (code : Nat) (l : List Byte) (n : Nat) : List Num := (List.range n).map fun i => numOf code (elemAt code l i)

/-- A vector or column: its values and, for MX, its scale bytes. -/
structure Line where
  vals : List Num
  scales : List Nat
  deriving DecidableEq, Repr

/-- The values of a line with its scales applied (R335). -/
def Line.scaled (code : Nat) (l : Line) : List Num :=
  if isMx code then l.vals.zipIdx.map fun x =>
    let sc := l.scales.getD (x.2 / 32) 0
    if sc = 0xFF then .nan else x.1.scale ((sc : Int) - 127)
  else l.vals

/-- A block of an MX pass: the exact sum of its products, scaled and rounded (R346). -/
def mxBlock (a w : Line) (t : Nat) : W32 × NumFlags :=
  let x := (a.vals.drop (32 * t)).take 32
  let y := (w.vals.drop (32 * t)).take 32
  let sa := a.scales.getD t 0
  let sw := w.scales.getD t 0
  if sa = 0xFF ∨ sw = 0xFF then (0x7FC00000#32, {})
  else
    let v := (exactSum (List.zipWith Num.mul x y)).scale ((sa : Int) + sw - 254)
    (toFp v, fpFlags (x ++ y) v)

/-- A pass sum, as an accumulator pattern of the job's kind. -/
def passSum (c : RateClass) (exact : Bool) (k : Nat) (a w : Line) : BitVec 384 × NumFlags :=
  let prods := List.zipWith Num.mul a.vals w.vals
  if exact then (prods.foldl (fun acc x => exactAdd acc (exactOf x)) 0, {})
  else
    match c with
    | .int =>
      let v := exactSum prods
      ((w32 (toInt 64 .rne v).1).zeroExtend 384, {})
    | .mx | .doubleMx =>
      let bs := (List.range ((k + 31) / 32)).map (mxBlock a w)
      let r := tree (bs.map fun b => b.1)
      (r.1.zeroExtend 384, (bs.map fun b => b.2).foldl NumFlags.or r.2)
    | .full | .double =>
      let v := exactSum prods
      ((toFp v).zeroExtend 384, fpFlags (a.vals ++ w.vals) v)
    | .half =>
      let ps := List.zipWith (fun x y => (toFp (x.mul y), fpFlags [x, y] (x.mul y))) a.vals w.vals
      let r := tree (ps.map fun p => p.1)
      (r.1.zeroExtend 384, (ps.map fun p => p.2).foldl NumFlags.or r.2)

/-- Add a pass to an accumulator (R346 to R348). -/
def accAdd (c : RateClass) (exact : Bool) (x y : BitVec 384) : BitVec 384 × NumFlags :=
  if exact then (exactAdd x y, {})
  else
    match c with
    | .int => ((x.truncate 32 + y.truncate 32 : W32).zeroExtend 384, {})
    | .full | .mx | .doubleMx | .double | .half =>
      let r := fpAdd (x.truncate 32) (y.truncate 32)
      (r.1.zeroExtend 384, r.2)

/-! ## Checks (R361, R362) -/

/-- What the check of one vector says. -/
inductive Check where
  | pass
  | fail
  | skip
  deriving DecidableEq, Repr

/-- S, T and M of a floating vector, and their comparison with tolerance 2^-t (R362). -/
def floatCheck (aFmt wFmt t : Nat) (a : Line) (cols : List Line) (passes : List W32) : Check :=
  let av := a.scaled aFmt
  let wv := cols.map fun c => c.scaled wFmt
  let rows := (List.range av.length).map fun r => wv.map fun c => c.getD r .zero
  let s := rows.map fun r => (tree (r.map toFp)).1
  let u := rows.map fun r => (tree (r.map fun x => toFp x.abs)).1
  let sum := fp (tree passes).1
  let tt := fp (tree (List.zipWith (fun x y => (fpMul (toFp x) y).1) av s)).1
  let m := fp (tree (List.zipWith (fun x y => (fpMul (toFp x.abs) y).1) av u)).1
  if !(sum.isFin && tt.isFin && m.isFin) then .skip
  else if (m.scale (-(t : Int))).lt (sum.add tt.neg).abs then .fail
  else .pass

/-- A job's inputs, read from memory. -/
structure JobData where
  cls : RateClass
  job : JobRecord
  seed : W64
  tol : Nat
  checked : Bool
  /-- The columns of W. -/
  cols : List Line
  deriving DecidableEq, Repr

/-- What one vector does. -/
structure Vector1 where
  passes : List (BitVec 384)
  flags : NumFlags
  check : Check

/-- Run one vector through the array. An INT8 pass always meets R361 on a sound array. -/
def runVector (d : JobData) (a : Line) : Vector1 :=
  let l := d.cols.map fun c => passSum d.cls d.job.exact d.job.k a c
  let ps := l.map fun x => x.1
  let sums := ps.map fun p => if d.job.exact then toFp (exactNum p) else p.truncate 32
  { passes := ps, flags := (l.map fun x => x.2).foldl NumFlags.or {}
    check := if !d.checked || d.cls == .int then .pass else floatCheck d.job.aFmt d.job.wFmt d.tol a d.cols sums }

/-! ## Accumulation and emission (R349, R350) -/

/-- A row's key in the accumulator store: exact rows are numbered apart from FP32 and INT32 rows. -/
def accKey (j : JobRecord) (i : Nat) : Nat := (if j.exact then 16384 else 0) + j.accRow + i

/-- The rows of the other kind that share a row's cells: an exact row takes the room of twelve rows of FP32 or INT32
(R349: 6 MiB hold 512 of the one and 6,144 of the other). -/
def rowOverlay (k : Nat) : List Nat := if 16384 ≤ k then List.range' (12 * (k - 16384)) 12 else [16384 + k / 12]

/-- Write a row: the rows that share its cells no longer hold what was accumulated in them. -/
def Graticule.setRow (y : Graticule) (k : Nat) (l : List (BitVec 384)) : Graticule :=
  { y with
    rows := tblSet y.rows k l
    spoiled := (rowOverlay k ++ y.spoiled.filter fun i => !(rowOverlay k).contains i).filter fun i => i != k }

/-- A row as a job finds it: what another kind of row was written over is open (assumption log 77). -/
def State.rowOf (s : State) (g k : Nat) : List (BitVec 384) × State :=
  if (s.grat g).spoiled.contains k then s.drawRow 256 else (tblGetD (s.grat g).rows k [], s)

/-- The row after a vector: overwritten, or added to column by column. -/
def accumulateRow (d : JobData) (old : List (BitVec 384)) (ps : List (BitVec 384)) : List (BitVec 384) × NumFlags :=
  if d.job.accumulate then
    let n := max old.length ps.length
    let l := (List.range n).map fun i => accAdd d.cls d.job.exact (old.getD i 0) (ps.getD i 0)
    (l.map fun x => x.1, (l.map fun x => x.2).foldl NumFlags.or {})
  else (ps, {})

/-- One scaled FP32 result (R350). -/
def scaleFp (j : JobRecord) (c : W32) : Num × NumFlags :=
  let x := fpMul c j.aScale
  let y := fpMul x.1 j.wScale
  (fp y.1, x.2.or y.2)

/-- y of an accumulator value (R350). -/
def emitValue (d : JobData) (c : BitVec 384) : Num × NumFlags :=
  let j := d.job
  if j.exact then
    if j.aScale = 0x3F800000#32 ∧ j.wScale = 0x3F800000#32 then (exactNum c, {})
    else
      let r := toFloat fFP32 .rne false (exactNum c)
      let y := scaleFp j (w32 r.1)
      (y.1, r.2.or y.2)
  else if d.cls = .int then
    let v := ofSigned (intValue 32 c.toNat) 0
    if j.outFmt = 0xD then (v, {}) else scaleFp j (toFp v)
  else scaleFp j (c.truncate 32)

/-- An output row: its packed bytes, its scale bytes for an MX format, and the flags (R338, R350). -/
def emitRow (d : JobData) (i : Nat) (row : List (BitVec 384)) : List Byte × List Byte × NumFlags :=
  let j := d.job
  let ys := (List.range j.n).map fun c => emitValue d (row.getD c 0)
  let f0 := (ys.map fun y => y.2).foldl NumFlags.or {}
  let rnd := fun c => rndOf j.sr d.seed j.stream (i * j.n + c)
  if isMx j.outFmt then
    let qs := (List.range (j.n / 32)).map fun t =>
      quantise j.outFmt (fun c => rnd (32 * t + c)) (((ys.map fun y => y.1).drop (32 * t)).take 32)
    (packElems j.outFmt (qs.flatMap fun q => q.2.1), qs.map fun q => BitVec.ofNat 8 q.1,
      (qs.map fun q => q.2.2).foldl NumFlags.or f0)
  else
    let es := ys.zipIdx.map fun y => convertTo j.outFmt (rnd y.2) j.saturate y.1.1
    (packElems j.outFmt (es.map fun e => e.1), [], (es.map fun e => e.2).foldl NumFlags.or f0)

/-! ## Running a job -/

/-- The flight a graticule's job belongs to. -/
def State.jobFlight (s : State) (x : GratJob) : Option (Running × Flight) :=
  match (s.seq x.sequencer).running, s.flight? x.sequencer x.slot with
  | some r, some f => some (r, f)
  | _, _ => none

/-- Read bytes of a buffer of a job. -/
def State.jobRead (s : State) (x : GratJob) (f : Flight) (buf : Nat) (a : W64) (off len : Nat) : Got :=
  s.localRead (.step x.sequencer x.slot) x.partition (f.segs.getD buf {}) a off len buf

/-- The columns of W, with their scales. -/
def State.jobData (s : State) (x : GratJob) (f : Flight) : Option (Except (State × Nat) JobData) :=
  let j := x.record
  match s.jobRead x f 3 j.wAddress 0 (j.k * j.wRow) with
  | .wait _ => none
  | .fail s st => some (.error (s, st))
  | .bytes w =>
    let col := fun c => (List.range j.k).map fun r => numOf j.wFmt (elemAt j.wFmt (slice w (r * j.wRow) j.wRow) c)
    let mk := fun (sc : List Byte) => some (.ok {
      cls := (pairClass j.aFmt j.wFmt).getD .full, job := j, seed := (s.ctx x.context).seed, tol := x.fpTol
      checked := x.checked
      cols := (List.range j.n).map fun c =>
        { vals := col c, scales := (slice sc (c * j.scales) j.scales).map BitVec.toNat } })
    if isMx j.wFmt then
      match s.jobRead x f 5 j.wScaleAddress 0 (j.n * j.scales) with
      | .wait _ => none
      | .fail s st => some (.error (s, st))
      | .bytes sc => mk sc
    else mk []

/-- Row `i` of A, with its scales. -/
def State.jobVector (s : State) (x : GratJob) (f : Flight) (i : Nat) : Got ⊕ Line :=
  let j := x.record
  match s.jobRead x f 2 j.aAddress (16 * i * j.aStride) (packedSize j.aFmt j.k) with
  | .wait s => .inl (.wait s)
  | .fail s st => .inl (.fail s st)
  | .bytes b =>
    if isMx j.aFmt then
      match s.jobRead x f 4 j.aScaleAddress (i * j.scales) j.scales with
      | .wait s => .inl (.wait s)
      | .fail s st => .inl (.fail s st)
      | .bytes sc => .inr { vals := rowNums j.aFmt b j.k, scales := sc.map BitVec.toNat }
    else .inr { vals := rowNums j.aFmt b j.k, scales := [] }

/-- How the processing of vectors ends. -/
inductive Stream where
  /-- Every vector is done. -/
  | done (s : State)
  /-- Something is still to come: operand bytes, an output tile. -/
  | wait (s : State)
  /-- A vector's check failed. -/
  | check (s : State) (v : Nat)
  | fail (s : State) (status : Nat)

/-- Accumulate a vector and, with emit, write its row (R349, R350). -/
def State.takeVector (s : State) (g : Nat) (x : GratJob) (f : Flight) (d : JobData) (i : Nat) (v : Vector1) :
    Commit × NumFlags :=
  let j := x.record
  let old := s.rowOf g (accKey j i)
  let acc := accumulateRow d old.1 v.passes
  let fl := v.flags.or acc.2
  let s1 := old.2.modGrat g fun y => y.setRow (accKey j i) acc.1
  if j.emit then
    let r := emitRow d i acc.1
    let pieces := (16 * i * j.outStride, r.1)
      :: if r.2.1.isEmpty then [] else [(16 * j.m * j.outStride + i * (j.n / 32), r.2.1)]
    (s.writePieces s1 (.step x.sequencer x.slot) x.partition (f.segs.getD 1 {}) j.outAddress 1 pieces, fl.or r.2.2)
  else (.done s1, fl)

/-- Process the vectors from the job's next one on; `bad` is a vector that a fault of the array strikes. -/
def State.streamJob (s : State) (g : Nat) (d : JobData) (bad : Option Nat) : Nat → Stream
  | 0 => .wait s
  | n + 1 =>
    match (s.grat g).job with
    | none => .done s
    | some x =>
      if x.record.m ≤ x.next then .done s
      else
        match s.jobFlight x with
        | none => .done s
        | some (_, f) =>
          match s.jobVector x f x.next with
          | .inl (.wait s) => .wait s
          | .inl (.fail s st) => .fail s st
          | .inl (.bytes _) => .wait s
          | .inr a =>
            let v := runVector d a
            if x.checked && (v.check == .fail || bad == some x.next) then .check s x.next
            else
              match s.takeVector g x f d x.next v with
              | (.wait s, _) => .wait s
              | (.fail s st, _) => .fail s st
              | (.done s, fl) =>
                let s := (s.countFor x.partition Count.grtSkipped (v.check == .skip)).modGrat g fun y => { y with
                  skipped := if v.check = .skip then min 0xFF (y.skipped + 1) else y.skipped
                  job := y.job.map fun z => { z with next := z.next + 1, flags := z.flags.or fl } }
                s.streamJob g d bad n

/-- The clocks a job takes from its grant (R351). -/
def jobClocks (c : RateClass) (j : JobRecord) : Nat :=
  let w := j.k * j.wRow + if isMx j.wFmt then j.n * j.scales else 0
  (w + 255) / 256 + (j.m - 1) * (if c = .half then 2 else 1) + 543 + b2n j.emit + 1

/-- Count the flags a job or reduction of a partition set, under two names that follow each other (R367). -/
def State.countFlags (s : State) (p id : Nat) (fl : NumFlags) : State :=
  (s.countFor p id fl.invalid).countFor p (id + 1) fl.overflow

/-- End a graticule's job: its leave, its counts, the flags of its kernel, and its step (R350, R363, R376). -/
def State.endJob (s : State) (g : Nat) (x : GratJob) (status : Nat) : State :=
  let half := halfRate x.record.aFmt x.record.wFmt
  let s := s.endLeave (.graticule g half)
  let s := s.modGrat g fun y => { y with
    job := none, bank := !y.bank
    jobs := if status = Status.ok then y.jobs + 1 else y.jobs
    checkFailed := if status = Status.graticuleCheckFailed then min 0xFF (y.checkFailed + 1) else y.checkFailed
    invalidCount := if x.flags.invalid then min 0xF (y.invalidCount + 1) else y.invalidCount
    overflowCount := if x.flags.overflow then min 0xF (y.overflowCount + 1) else y.overflowCount }
  let s := ((s.countFor x.partition Count.grtJobs (status == Status.ok)).countFor x.partition Count.grtCheckFailed
    (status == Status.graticuleCheckFailed)).countFlags x.partition Count.grtInvalid x.flags
  let s := s.modRun x.sequencer fun r => { r with flags := r.flags.or x.flags }
  s.endFlight x.sequencer x.slot status 0

/-- A job ends on a failed check: the graticule is suspect and its self-test asks leave (R363). -/
def State.failJob (s : State) (g : Nat) (x : GratJob) : State :=
  let s := (s.endJob g x Status.graticuleCheckFailed).modGrat g fun y => { y with suspect := true }
  (s.note Status.graticuleCheckFailed 0x13 g (some x.partition) 0 2).askLeave (.selfTest g)

/-- Stop the job of a flight (R366, R374). -/
def State.stopJobs (s : State) (k slot : Nat) : State :=
  s.grats.foldl (fun s r => match r.2.job with
    | some x => if x.sequencer == k && x.slot == slot then
        (s.endLeave (.graticule r.1 (halfRate x.record.aFmt x.record.wFmt))).modGrat r.1
          fun y => { y with job := none }
      else s
    | none => s) s

/-! ## Reduction units (R357 to R360, R379) -/

/-- Bytes of `n` elements of a code as a source or destination: an MX code's scales follow its elements (R379). -/
def areaBytes (code n : Nat) : Nat :=
  if isMx code then (packedSize code n + 15) / 16 * 16 + (n + 31) / 32 else packedSize code n

/-- The values of an area of `n` elements. -/
def areaNums (code n : Nat) (l : List Byte) : List Num :=
  let base := (packedSize code n + 15) / 16 * 16
  (List.range n).map fun i =>
    if isMx code then mxValue code (field l (base + i / 32) 1) (elemAt code l i) else numOf code (elemAt code l i)

/-- The pieces an area is written in: elements, and for an MX code its scales. -/
def areaPieces (code n : Nat) (es : List Nat) (scales : List Nat) : List (Nat × List Byte) :=
  (0, packElems code es) :: if isMx code then
    [((packedSize code n + 15) / 16 * 16, scales.map fun x => BitVec.ofNat 8 x)] else []

/-- CONVERT (R379): the converted elements, their scales and the flags. -/
def convertArea (x : Reduction) (seed : W64) (l : List Num) : List Nat × List Nat × NumFlags :=
  let rnd := fun i => rndOf x.sr seed x.stream i
  if isMx x.outFmt then
    let qs := (List.range ((x.count + 31) / 32)).map fun t =>
      let vs := (l.drop (32 * t)).take 32
      let q := quantise x.outFmt (fun c => rnd (32 * t + c)) vs
      (q.1, q.2.1, q.2.2)
    (qs.flatMap fun q => q.2.1, qs.map fun q => q.1, (qs.map fun q => q.2.2).foldl NumFlags.or {})
  else
    let es := l.zipIdx.map fun v => convertTo x.outFmt (rnd v.2) x.saturate v.1
    (es.map fun e => e.1, [], (es.map fun e => e.2).foldl NumFlags.or {})

/-- One element of a REDUCE: source and destination combined (R358, R359). -/
def reduceOne (x : Reduction) (src dst : List Byte) (i : Nat) : BitVec 384 × NumFlags :=
  combine x.mode x.operation (toCarry x.mode x.inFmt (elemAt x.inFmt src i))
    (toCarry x.mode x.outFmt (elemAt x.outFmt dst i))

/-- REDUCE (R358, R359): element by element into the destination. -/
def reduceArea (x : Reduction) (seed : W64) (src dst : List Byte) : List Nat × NumFlags :=
  let l := (List.range x.count).map fun i =>
    let c := reduceOne x src dst i
    let r := ofCarry x.mode x.outFmt (rndOf x.sr seed x.stream i) x.saturate c.1
    (r.1, c.2.or r.2)
  (l.map fun e => e.1, (l.map fun e => e.2).foldl NumFlags.or {})

/-- The accumulators an exact reduction keeps in its unit, at most 65,536 (R359). -/
def RedUnit.keep (y : RedUnit) (x : Reduction) (src dst : List Byte) : RedUnit :=
  if x.mode = 2 ∧ !x.convert then
    { y with exactStore := (List.range (min 65536 x.count)).map fun i => (i, (reduceOne x src dst i).1) }
  else y

/-- A unit comes to a partition: one that holds another's state is wiped first (R33, R365). -/
def RedUnit.claim (y : RedUnit) (p : Nat) : RedUnit :=
  if y.wiping || y.holds.any (fun h => h != p) then { y with wiping := true } else { y with holds := some p }

/-- The unit comes to the partition of its first reduction. -/
def State.wipeHead (s : State) (u : Nat) : State :=
  match (s.red u).queue with
  | r :: _ => s.modRed u fun y => y.claim r.partition
  | [] => s

/-- A unit has run a reduction: its state register and its counters (R367). -/
def RedUnit.ran (y : RedUnit) (p mode : Nat) (ok : Bool) (fl : NumFlags) : RedUnit :=
  { y with
    owned := true, partition := p, mode
    reductions := if ok then y.reductions + 1 else y.reductions
    invalidCount := if fl.invalid then min 0xFFFF (y.invalidCount + 1) else y.invalidCount
    overflowCount := if fl.overflow then min 0xFFFF (y.overflowCount + 1) else y.overflowCount }

/-- A partition's share of the counters of the reduction units (R367). -/
def State.countReduction (s : State) (p : Nat) (ok : Bool) (fl : NumFlags) : State :=
  (s.countFor p Count.rduDone ok).countFlags p Count.rduInvalid fl

/-- Queue a reduction at a unit. -/
def State.queueReduction (s : State) (u : Nat) (x : Reduction) : State :=
  let s := s.modRed u fun y => { y with queue := y.queue ++ [x] }
  if (s.red u).queue.length = 1 then (s.modRed u fun y => { y with progressClk := s.clk }).wipeHead u else s

/-- End a unit's first reduction. -/
def State.endReduction (s : State) (u : Nat) (x : Reduction) (fl : NumFlags) (status : Nat) : State :=
  let s := s.modRed u fun y => { y.ran x.partition x.mode (status == Status.ok) fl with queue := y.queue.drop 1, progressClk := s.clk }
  let s := s.countReduction x.partition (status == Status.ok) fl
  let s := s.modRun x.sequencer fun r => { r with flags := r.flags.or fl }
  let s := if status = Status.ok then s.settleFlight x.sequencer x.slot else s.cutFlight x.sequencer x.slot status 0
  s.wipeHead u

/-- Run a unit's first reduction; unchanged while its operands or its destination are not ready. -/
def State.runReduction (s : State) (u : Nat) : State :=
  match (s.red u).queue with
  | [] => s
  | x :: _ =>
    match s.flight? x.sequencer x.slot with
    | none => (s.modRed u fun y => { y with queue := y.queue.drop 1 }).wipeHead u
    | some f =>
      let o : TileOwner := .step x.sequencer x.slot
      let seed := (s.ctx x.context).seed
      match s.localRead o x.partition (f.segs.getD 0 {}) x.src 0 (areaBytes x.inFmt x.count) 0 with
      | .wait s => s
      | .fail s st => s.endReduction u x {} st
      | .bytes src =>
        if x.convert then
          let r := convertArea x seed (areaNums x.inFmt x.count src)
          match s.writePieces s o x.partition (f.segs.getD 1 {}) x.dst 1 (areaPieces x.outFmt x.count r.1 r.2.1) with
          | .done s => s.endReduction u x r.2.2 Status.ok
          | .wait s => s
          | .fail s st => s.endReduction u x r.2.2 st
        else
          match s.localRead o x.partition (f.segs.getD 1 {}) x.dst 0 (areaBytes x.outFmt x.count) 2 with
          | .wait s => s
          | .fail s st => s.endReduction u x {} st
          | .bytes dst =>
            let r := reduceArea x seed src dst
            match s.writePieces s o x.partition (f.segs.getD 1 {}) x.dst 1 [(0, packElems x.outFmt r.1)] with
            | .done s => (s.modRed u fun y => y.keep x src dst).endReduction u x r.2 Status.ok
            | .wait s => s
            | .fail s st => s.endReduction u x r.2 st

/-- Take the reductions of a flight back from its unit (R366, R374); the next one's partition may need a wipe (R33). -/
def State.stopReductions (s : State) (k slot : Nat) : State :=
  let s := { s with reds := tblMap s.reds fun _ u => { u with
    queue := u.queue.filter fun x => !(x.sequencer == k && x.slot == slot) } }
  [0, 1, 2, 3].foldl (fun s u => s.wipeHead u) s

end Sys2Proof.Machine
end

