-- ==== Sys2Proof/Machine/Collect.lean ====
section
/-!
DEFINITION. Machine/Collect.lean: collectives: blocks, the built-in algorithms as sends and receives, the running
instance, and the three operations with blocks of their own (R389 to R406).
-/

namespace Sys2Proof.Machine

/-! ## Blocks and formats (R391, R393) -/

/-- Bytes of an element of a format that collectives carry. -/
def elemBytes (code : Nat) : Nat := elemBits code / 8

/-- Operations with a reduce-scatter phase. -/
def SchedHeader.hasRS (h : SchedHeader) : Bool := h.op == 1 || h.op == 2 || h.op == 7

/-- Operations with an all-gather phase. -/
def SchedHeader.hasAG (h : SchedHeader) : Bool := h.op == 1 || h.op == 3 || h.op == 7

/-- The quantum of the blocks (R391); operations 3 and 4 have blocks of count elements. -/
def SchedHeader.quantum (h : SchedHeader) : Nat :=
  if h.hasRS then ((h.count + h.n - 1) / h.n + 31) / 32 * 32 else h.count

/-- Elements of the whole vector. -/
def SchedHeader.total (h : SchedHeader) : Nat := if h.hasRS then h.count else h.n * h.count

/-- The carry format (R393). -/
def SchedHeader.carryFmt (h : SchedHeader) : Nat := carryCode h.mode

/-- Elements of blocks [b, b + k): first and past the last. -/
def SchedHeader.blocks (h : SchedHeader) (b k : Nat) : Nat × Nat :=
  (min (b * h.quantum) h.total, min ((b + k) * h.quantum) h.total)

/-- Where element `e` lies in the recv_address of its owner: operation 2 receives block rank only (R391). -/
def SchedHeader.recvIndex (h : SchedHeader) (e : Nat) : Nat := if h.op = 2 then e % h.quantum else e

/-- x − y modulo n. -/
def ringSub (n x y : Nat) : Nat := (x + n - y % n) % n

/-! ## Algorithms (R396) -/

/-- What a send carries: the own input in in_fmt, a partial in the carry format, or results in out_fmt. -/
inductive Wire where
  | input
  | partials
  | results
  deriving DecidableEq, Repr

/-- The format on the wire. -/
def SchedHeader.wireFmt (h : SchedHeader) : Wire → Nat
  | .input => h.inFmt
  | .partials => h.carryFmt
  | .results => h.outFmt

/-- A send of a plan: step, peer, elements, wire; it waits for the receives of step `after`, and for the rounding of
the own block where `rounded`. -/
structure Send where
  step : Nat
  peer : Nat
  lo : Nat
  hi : Nat
  wire : Wire
  after : Option Nat := none
  rounded : Bool := false
  deriving DecidableEq, Repr

/-- A receive of a plan: reduced into partials, or placed. -/
structure Recv where
  step : Nat
  peer : Nat
  lo : Nat
  hi : Nat
  wire : Wire
  reduce : Bool
  deriving DecidableEq, Repr

/-- A send of blocks. -/
def mkSend (h : SchedHeader) (step peer b k : Nat) (w : Wire) (after : Option Nat) (rounded : Bool) : Send :=
  { step, peer, lo := (h.blocks b k).1, hi := (h.blocks b k).2, wire := w, after, rounded }

/-- A receive of blocks. -/
def mkRecv (h : SchedHeader) (step peer b k : Nat) (w : Wire) (reduce : Bool) : Recv :=
  { step, peer, lo := (h.blocks b k).1, hi := (h.blocks b k).2, wire := w, reduce }

/-- The step before, within a phase that begins at `first`. -/
def prevStep (first s : Nat) : Option Nat := if s ≤ first then none else some (s - 1)

/-- Steps of the reduce-scatter phase that stand before the all-gather phase. -/
def SchedHeader.agBase (h : SchedHeader) (steps : Nat) : Nat := if h.hasRS then steps else 0

/-- Ring. -/
def ringPlan (h : SchedHeader) : List Send × List Recv :=
  let n := h.n
  let r := h.rank
  let base := h.agBase (n - 1)
  let next := (r + 1) % n
  let prev := ringSub n r 1
  let rs := if h.hasRS then List.range (n - 1) else []
  let ag := if h.hasAG then List.range (n - 1) else []
  (rs.map (fun s => mkSend h s next (ringSub n r (s + 1)) 1 .partials (prevStep 0 s) false)
    ++ ag.map (fun t => mkSend h (base + t) next (ringSub n r t) 1 .results (prevStep base (base + t)) true),
   rs.map (fun s => mkRecv h s prev (ringSub n r (s + 2)) 1 .partials true)
    ++ ag.map (fun t => mkRecv h (base + t) prev (ringSub n r (t + 1)) 1 .results false))

/-- The block range a member holds after `s` halving steps: first block and count, of 2^l. -/
def halfRange (l r s : Nat) : Nat × Nat := (r / 2 ^ (l - s) * 2 ^ (l - s), 2 ^ (l - s))

/-- Halving-doubling. -/
def halvingPlan (h : SchedHeader) : List Send × List Recv :=
  let l := Nat.log2 h.n
  let r := h.rank
  let base := h.agBase l
  let rs := if h.hasRS then List.range l else []
  let ag := if h.hasAG then List.range l else []
  (rs.map (fun s =>
      let p := r ^^^ 2 ^ (l - 1 - s)
      mkSend h s p (halfRange l p (s + 1)).1 (halfRange l p (s + 1)).2 .partials (prevStep 0 s) false)
    ++ ag.map (fun t =>
      let p := r ^^^ 2 ^ t
      mkSend h (base + t) p (halfRange l r (l - t)).1 (2 ^ t) .results (prevStep base (base + t)) true),
   rs.map (fun s =>
      let p := r ^^^ 2 ^ (l - 1 - s)
      mkRecv h s p (halfRange l r (s + 1)).1 (halfRange l r (s + 1)).2 .partials true)
    ++ ag.map (fun t =>
      let p := r ^^^ 2 ^ t
      mkRecv h (base + t) p (halfRange l p (l - t)).1 (2 ^ t) .results false))

/-- The other ranks. -/
def SchedHeader.others (h : SchedHeader) : List Nat := (List.range h.n).filter fun x => x != h.rank

/-- Direct. -/
def directPlan (h : SchedHeader) : List Send × List Recv :=
  let base := h.agBase 1
  ((if h.hasRS then h.others.map fun b => mkSend h 0 b b 1 .input none false else [])
    ++ (if h.hasAG then h.others.map fun b => mkSend h base b h.rank 1 .results none true else []),
   (if h.hasRS then h.others.map fun b => mkRecv h 0 b h.rank 1 .input true else [])
    ++ if h.hasAG then h.others.map fun b => mkRecv h base b b 1 .results false else [])

/-- Chain: phase 0 is step 0, phase 1 is step 1. -/
def chainPlan (h : SchedHeader) : List Send × List Recv :=
  let n := h.n
  let r := h.rank
  let down := if r + 1 < n then [mkSend h 0 (r + 1) 0 n .partials (if r = 0 then none else some 0) false]
    else if h.op = 2 then h.others.map fun b => mkSend h 1 b b 1 .results none true
    else h.others.map fun b => mkSend h 1 b 0 n .results none true
  let up := if r = 0 then [] else [mkRecv h 0 (r - 1) 0 n .partials true]
  let last := if r + 1 = n then []
    else if h.op = 2 then [mkRecv h 1 (n - 1) r 1 .results false]
    else [mkRecv h 1 (n - 1) 0 n .results false]
  (down, up ++ last)

/-- Pairwise: block b of the input goes to rank b; the block of rank b comes to place b. -/
def pairPlan (h : SchedHeader) : List Send × List Recv :=
  let n := h.n
  let r := h.rank
  let l := (List.range n).drop 1
  (l.map (fun s => mkSend h s ((r + s) % n) ((r + s) % n) 1 .input (if s ≤ 4 then none else some (s - 4)) false),
   l.map fun s => mkRecv h s (ringSub n r s) (ringSub n r s) 1 .input false)

/-- The plan of operations 1 to 4 and 7 (R396). -/
def plan (h : SchedHeader) : List Send × List Recv :=
  if h.algorithm = 1 then ringPlan h
  else if h.algorithm = 2 then halvingPlan h
  else if h.algorithm = 3 then directPlan h
  else if h.algorithm = 4 then chainPlan h
  else pairPlan h

/-- Blocks whose results this member rounds: its own, or all of them at the end of a chain (R393, R396). -/
def SchedHeader.owned (h : SchedHeader) : Nat × Nat :=
  if h.op = 4 then (0, 0)
  else if h.algorithm = 4 then (if h.rank + 1 = h.n then h.blocks 0 h.n else (0, 0))
  else h.blocks h.rank 1

/-! ## The instance -/

/-- Read a buffer of an instance: 0 input, 1 output, 2 scratch, and others of the operation block. -/
def State.collRead (s : State) (p : Nat) (id : W32) (x : Instance) (buf : Nat) (a : W64) (off len : Nat) : Got :=
  s.localRead (.coll p id) p (x.segs.getD buf {}) a off len buf

/-- Write a buffer of an instance. -/
def State.collWrite (s : State) (p : Nat) (id : W32) (x : Instance) (buf : Nat) (a : W64)
    (l : List (Nat × List Byte)) : Commit :=
  s.writePieces s (.coll p id) p (x.segs.getD buf {}) a buf l

/-- Bytes received of a step from a rank. -/
def Instance.got (x : Instance) (step rank : Nat) : List (Nat × List Byte) :=
  (x.received.filter fun c => c.1 == step && c.2.1 == rank).map fun c => c.2.2

/-- Bytes received, counted. -/
def Instance.gotBytes (x : Instance) (step rank : Nat) : Nat := ((x.got step rank).map fun c => c.2.length).sum

/-- Bytes a receive expects. -/
def Recv.bytes (h : SchedHeader) (r : Recv) : Nat := (r.hi - r.lo) * elemBytes (h.wireFmt r.wire)

/-- A receive is complete. -/
def Instance.recvDone (x : Instance) (h : SchedHeader) (r : Recv) : Bool := r.bytes h ≤ x.gotBytes r.step r.peer

/-- Every receive of a step is complete. -/
def Instance.stepDone (x : Instance) (h : SchedHeader) (step : Nat) : Bool :=
  (plan h).2.all fun r => r.step != step || x.recvDone h r

/-- Every reducing receive is complete. -/
def Instance.reduced (x : Instance) (h : SchedHeader) : Bool := (plan h).2.all fun r => !r.reduce || x.recvDone h r

/-- The phase mark of the rounding of the own block. -/
def roundedPhase : Nat := 0

/-- One input element as a carry pattern. -/
def State.inputCarry (s : State) (p : Nat) (id : W32) (h : SchedHeader) (x : Instance) (e : Nat) :
    Except Got (BitVec 384) :=
  let i := if h.op = 3 then e - h.rank * h.count else e
  match s.collRead p id x 0 h.sendAddr (i * elemBytes h.inFmt) (elemBytes h.inFmt) with
  | .bytes b => .ok (toCarry h.mode h.inFmt (leNat b))
  | .wait s => .error (.wait s)
  | .fail s st => .error (.fail s st)

/-- The held partial of an element: the own input until something has been reduced into it (R393). -/
def State.partialOf (s : State) (p : Nat) (id : W32) (h : SchedHeader) (x : Instance) (e : Nat) :
    Except Got (BitVec 384) :=
  match tblGet x.carry e with
  | some c => .ok c
  | none => s.inputCarry p id h x e

/-- Round an element of the own block for recv_address (R393, R400). -/
def State.roundElem (s : State) (h : SchedHeader) (e : Nat) (c : BitVec 384) : Nat × NumFlags :=
  ofCarry h.mode h.outFmt (rndOf h.sr (s.ctx h.context).seed h.stream (h.recvIndex e)) h.saturate c

/-! ## The optimiser step (R406) -/

/-- The addresses of the block: master, m, v, hyper; and the rule. -/
structure OptBlock where
  master : W64
  m : W64
  v : W64
  hyper : W64
  rule : Nat

/-- The block as read. -/
def parseOpt (l : List Byte) : OptBlock :=
  { master := w64 (field l 0 8), m := w64 (field l 8 8), v := w64 (field l 16 8), hyper := w64 (field l 24 8)
    rule := field l 32 1 }

/-- One parameter's update: master, m, v and the flags after it. -/
def optStep (rule : Nat) (hp : List W32) (g0 p m v : W32) : W32 × W32 × W32 :=
  let f := fun i => hp.getD i 0
  let one := 0x3F800000#32
  let mul := fun a b => (fpMul a b).1
  let add := fun a b => (fpAdd a b).1
  let sub := fun a b => (fpSub a b).1
  let g := mul g0 (f 5)
  if rule = 0 then
    let m := add (mul (f 1) m) g
    (sub p (mul (f 0) (add m (mul (f 4) p))), m, v)
  else
    let m := add (mul (f 1) m) (mul (sub one (f 1)) g)
    let v := add (mul (f 2) v) (mul (sub one (f 2)) (mul g g))
    let d := add (fpSqrt (mul v (f 7))).1 (f 3)
    (sub p (mul (f 0) (add (fpDiv (mul m (f 6)) d).1 (mul (f 4) p))), m, v)

/-- FP32 words of bytes. -/
def fpWords (l : List Byte) : List W32 := (List.range (l.length / 4)).map fun i => w32 (field l (4 * i) 4)

/-- Bytes of FP32 words. -/
def fpBytes (l : List W32) : List Byte := l.flatMap fun w => leBytes 4 w.toNat

/-- The reduced gradient as FP32. -/
def carryFp (mode : Nat) (c : BitVec 384) : W32 := toFp (numOf (carryCode mode) c.toNat)

/-- Apply the update to the owned elements: the new parameters as carry values, with the moments written (R406). -/
def State.optimise (s : State) (p : Nat) (id : W32) (h : SchedHeader) (x : Instance) (block : List Byte)
    (grads : List (BitVec 384)) : Except Got (State × List W32) :=
  let o := parseOpt block
  let n := 4 * grads.length
  match s.collRead p id x 3 o.master 0 n, s.collRead p id x 4 o.m 0 n, s.collRead p id x 5 o.v 0 n,
      s.collRead p id x 6 o.hyper 0 32 with
  | .bytes pb, .bytes mb, .bytes vb, .bytes hb =>
    let r := (List.range grads.length).map fun i =>
      optStep o.rule (fpWords hb) (carryFp h.mode (grads.getD i 0)) (w32 (field pb (4 * i) 4)) (w32 (field mb (4 * i) 4))
        (w32 (field vb (4 * i) 4))
    match s.collWrite p id x 3 o.master [(0, fpBytes (r.map fun y => y.1))] with
    | .done s1 => match s1.collWrite p id x 4 o.m [(0, fpBytes (r.map fun y => y.2.1))] with
      | .done s2 => match s2.collWrite p id x 5 o.v [(0, fpBytes (r.map fun y => y.2.2))] with
        | .done s3 => .ok (s3, r.map fun y => y.1)
        | .wait _ => .error (.wait s)
        | .fail s st => .error (.fail s st)
      | .wait _ => .error (.wait s)
      | .fail s st => .error (.fail s st)
    | .wait s => .error (.wait s)
    | .fail s st => .error (.fail s st)
  | .fail s st, _, _, _ => .error (.fail s st)
  | _, .fail s st, _, _ => .error (.fail s st)
  | _, _, .fail s st, _ => .error (.fail s st)
  | _, _, _, .fail s st => .error (.fail s st)
  | _, _, _, _ => .error (.wait s)

/-! ## Rounding the own block -/

/-- The carry values of a range of elements. -/
def State.carries (s : State) (p : Nat) (id : W32) (h : SchedHeader) (x : Instance) :
    List Nat → Except Got (List (BitVec 384))
  | [] => .ok []
  | e :: r =>
    match s.partialOf p id h x e, State.carries s p id h x r with
    | .ok c, .ok l => .ok (c :: l)
    | .error g, _ => .error g
    | _, .error g => .error g

/-- Note that an instance has failed. -/
def State.failInstance (s : State) (p : Nat) (id : W32) (status : Nat) : State :=
  s.modInstance p id fun x => { x with failed := if x.failed = 0 then status else x.failed }

/-- Round the owned elements once all is reduced, apply the optimiser for operation 7, and place them (R393, R406). -/
def State.roundOwn (s : State) (p : Nat) (id : W32) (c : Schedule) (x : Instance) : State :=
  let h := c.header
  let r := h.owned
  let es := List.range' r.1 (r.2 - r.1)
  if x.phases.contains roundedPhase || !x.reduced h then s
  else
    match s.carries p id h x es with
    | .error (.fail s st) => s.failInstance p id st
    | .error _ => s
    | .ok cs =>
      let next : Except Got (State × List (Nat × NumFlags)) :=
        if h.op = 7 then
          match s.optimise p id h x c.block cs with
          | .ok (s, ps) => .ok (s, (List.zip es ps).map fun y => convertTo h.outFmt
              (rndOf h.sr (s.ctx h.context).seed h.stream (h.recvIndex y.1)) h.saturate (fp y.2))
          | .error g => .error g
        else .ok (s, (List.zip es cs).map fun y => s.roundElem h y.1 y.2)
      match next with
      | .error (.fail s st) => s.failInstance p id st
      | .error _ => s
      | .ok (s1, out) =>
        let mine := (List.zip es out).filter fun y => h.op != 2 || y.1 / h.quantum == h.rank
        let pieces := mine.map fun y => (h.recvIndex y.1 * elemBytes h.outFmt, leBytes (elemBytes h.outFmt) y.2.1)
        let keep := fun (x : Instance) => { x with
          phases := roundedPhase :: x.phases
          flags := (out.map fun y => y.2).foldl NumFlags.or x.flags
          carry := (List.zip es out).foldl (fun t y => tblSet t y.1 (BitVec.ofNat 384 y.2.1)) x.carry }
        match s1.collWrite p id x 1 h.recvAddr pieces with
        | .done s2 => s2.modInstance p id keep
        | .wait s3 => if h.op = 7 then s else s3
        | .fail s st => s.failInstance p id st

/-! ## Sending -/

/-- The bytes of a send. -/
def State.sendBytes (s : State) (p : Nat) (id : W32) (h : SchedHeader) (x : Instance) (t : Send) : Got :=
  match t.wire with
  | .input => s.collRead p id x 0 h.sendAddr (t.lo * elemBytes h.inFmt) ((t.hi - t.lo) * elemBytes h.inFmt)
  | .partials =>
    match s.carries p id h x (List.range' t.lo (t.hi - t.lo)) with
    | .ok l => .bytes (l.flatMap fun c => leBytes (elemBytes h.carryFmt) c.toNat)
    | .error g => g
  | .results => .bytes ((List.range' t.lo (t.hi - t.lo)).flatMap fun e =>
      leBytes (elemBytes h.outFmt) (tblGetD x.carry e 0).toNat)

/-- Cut bytes into messages of the schedule's size: offset and bytes. -/
def cutMessages (size : Nat) (l : List Byte) (off : Nat) : Nat → List (Nat × List Byte)
  | 0 => []
  | n + 1 => if l.isEmpty then [] else (off, l.take size) :: cutMessages size (l.drop size) (off + size) n

/-- Put bytes for a peer into the backlog, as messages. -/
def State.queueSend (s : State) (p : Nat) (id : W32) (h : SchedHeader) (step peer base : Nat) (b : List Byte) : State :=
  s.modInstance p id fun x => { x with
    backlog := x.backlog ++ (cutMessages h.msgSize b base (b.length + 1)).map fun m => (step, peer, m.1, m.2) }

/-- Form the messages of one send, where its turn has come. -/
def State.trySend (s : State) (p : Nat) (id : W32) (h : SchedHeader) (t : Send) : State :=
  match s.instance? p id with
  | none => s
  | some x =>
    let ready := (match t.after with
        | some a => x.stepDone h a
        | none => true) && (!t.rounded || x.phases.contains roundedPhase)
    if x.sentSteps.contains (t.step, t.peer) || !ready then s
    else
      match s.sendBytes p id h x t with
      | .bytes b => (s.queueSend p id h t.step t.peer 0 b).modInstance p id fun x => { x with
          sentSteps := (t.step, t.peer) :: x.sentSteps }
      | .wait s => s
      | .fail s st => s.failInstance p id st

/-- The endpoint and landing quadrant of a rank (R390). -/
def Schedule.member (c : Schedule) (r : Nat) : Nat × Nat := c.members.getD r (0, 0)

/-- Messages of the schedule to an endpoint that have an entry. -/
def State.collInFlight (s : State) (p : Nat) (id : W32) (dst : Nat) : Nat :=
  (s.allSenders.filter fun x => x.dst == dst && match x.owner with
    | .coll a b _ => a == p && b == id
    | .desc _ _ => false
    | .step _ _ => false
    | .none => false).length

/-- Give the first message of the backlog whose peer has room an entry (R394). -/
def State.releaseOne (s : State) (p : Nat) (c : Schedule) (m : Nat × Nat × Nat × List Byte) : State :=
  let h := c.header
  let (dst, landQ) := c.member m.2.1
  if h.depth ≤ s.collInFlight p h.id dst || !s.senderRoom h.landQ then s
  else
    let x : Sender := {
      owner := .coll p h.id m.1, opcode := opColl, cls := 3, tc := h.tc, partition := p, context := h.context, gen := h.gen
      dst, length := m.2.2.2.length, packets := packetsOf m.2.2.2.length, data := m.2.2.2
      coll := { bufferOffset := w64 m.2.2.1, job := h.job, schedule := h.id, step := m.1, rank := h.rank, reason := landQ } }
    (s.addSender h.landQ x).modInstance p h.id fun i => { i with
      backlog := i.backlog.erase m, unacked := i.unacked + 1 }

/-- Release the backlog while peers have room. -/
def State.releaseBacklog (s : State) (p : Nat) (c : Schedule) : State :=
  match s.instance? p c.header.id with
  | some x => x.backlog.foldl (fun s m => s.releaseOne p c m) s
  | none => s

/-! ## Receiving -/

/-- The element of a receive that byte `b` of its step buffer belongs to. -/
def Recv.elem (h : SchedHeader) (r : Recv) (b : Nat) : Nat := r.lo + b / elemBytes (h.wireFmt r.wire)

/-- Elements of a receive that bytes [off, off + n) complete, given all the chunks there are. -/
def Recv.completed (h : SchedHeader) (r : Recv) (chunks : List (Nat × List Byte)) (off n : Nat) :
    List (Nat × List Byte) :=
  let w := elemBytes (h.wireFmt r.wire)
  let first := off / w
  ((List.range' first ((off + n - 1) / w - first + 1)).filterMap fun i =>
    (chunkBytes chunks (i * w) w).map fun b => (r.lo + i, b))

/-- Reduce one arriving element. -/
def State.reduceElem (s : State) (p : Nat) (id : W32) (h : SchedHeader) (x : Instance) (fmt e : Nat) (b : List Byte) :
    Except Got (BitVec 384 × NumFlags) :=
  match s.partialOf p id h x e with
  | .ok c => .ok (combine h.mode h.operation (toCarry h.mode fmt (leNat b)) c)
  | .error g => .error g

/-- Reduce arriving elements one after another. -/
def State.reduceElems (s : State) (p : Nat) (id : W32) (h : SchedHeader) (fmt : Nat) :
    List (Nat × List Byte) → Instance → Except Got Instance
  | [], x => .ok x
  | (e, b) :: r, x =>
    match s.reduceElem p id h x fmt e b with
    | .ok c => State.reduceElems s p id h fmt r { x with carry := tblSet x.carry e c.1, flags := x.flags.or c.2 }
    | .error g => .error g

/-- An arriving element as an element of recv_address: results as they are, inputs converted on placement. -/
def State.placeElem (s : State) (h : SchedHeader) (fmt e : Nat) (b : List Byte) : Nat × NumFlags :=
  if fmt = h.outFmt then (leNat b, {})
  else convertTo h.outFmt (rndOf h.sr (s.ctx h.context).seed h.stream (h.recvIndex e)) h.saturate (numOf fmt (leNat b))

/-- Commit bytes of a plain collective's step buffer (R394, R395). -/
def State.collBytes (s : State) (p : Nat) (c : Schedule) (x : Instance) (r : Recv) (off : Nat) (b : List Byte) :
    Commit :=
  let h := c.header
  let fmt := h.wireFmt r.wire
  let x1 := { x with received := (r.step, r.peer, off, b) :: x.received }
  let es := r.completed h (x1.got r.step r.peer) off b.length
  if r.reduce then
    match s.reduceElems p h.id h fmt es x1 with
    | .ok x2 => .done (s.modInstance p h.id fun _ => x2)
    | .error (.fail s st) => .fail s st
    | .error (.wait s) => .wait s
    | .error (.bytes _) => .wait s
  else
    let out := es.map fun e => (e.1, s.placeElem h fmt e.1 e.2)
    let pieces := out.map fun y => (h.recvIndex y.1 * elemBytes h.outFmt, leBytes (elemBytes h.outFmt) y.2.1)
    match s.collWrite p h.id x 1 h.recvAddr pieces with
    | .done s => .done (s.modInstance p h.id fun _ => { x1 with
        carry := out.foldl (fun t y => tblSet t y.1 (BitVec.ofNat 384 y.2.1)) x1.carry
        flags := (out.map fun y => y.2.2).foldl NumFlags.or x1.flags })
    | .wait s => .wait s
    | .fail s st => .fail s st

/-- The own block of an all-to-all is copied in place (R391). -/
def State.ownPair (s : State) (p : Nat) (id : W32) (h : SchedHeader) (x : Instance) : State :=
  if x.phases.contains 1 then s
  else
    let lo := h.rank * h.count
    match s.collRead p id x 0 h.sendAddr (lo * elemBytes h.inFmt) (h.count * elemBytes h.inFmt) with
    | .bytes b =>
      let out := (List.range h.count).map fun i =>
        s.placeElem h h.inFmt (lo + i) (slice b (i * elemBytes h.inFmt) (elemBytes h.inFmt))
      match s.collWrite p id x 1 h.recvAddr [(lo * elemBytes h.outFmt, out.flatMap fun y => leBytes (elemBytes h.outFmt) y.1)] with
      | .done s => s.modInstance p id fun x => { x with phases := 1 :: x.phases }
      | .wait s => s
      | .fail s st => s.failInstance p id st
    | .wait s => s
    | .fail s st => s.failInstance p id st

end Sys2Proof.Machine
end

