-- ==== Sys2Proof/Machine/Special.lean ====
section
/-!
DEFINITION. Machine/Special.lean: the token-routed all-to-all (R401 to R404) and the embedding gather-reduce (R405).
Both put what a member keeps for itself through the same path as what arrives from a peer.
-/

namespace Sys2Proof.Machine

/-! ## Shared -/

/-- What is written or read by this instance, or nothing yet. -/
def Got.toOption : Got → Option (List Byte)
  | .bytes b => some b
  | .wait _ => none
  | .fail _ _ => none

/-- Bytes of a buffer where they are there; a failed access fails the instance. -/
def State.collWant (s : State) (p : Nat) (id : W32) (x : Instance) (buf : Nat) (a : W64) (off len : Nat) :
    Except State (List Byte) :=
  match s.collRead p id x buf a off len with
  | .bytes b => .ok b
  | .wait s => .error s
  | .fail s st => .error (s.failInstance p id st)

/-- The bytes received of a step from a rank, as one list of `n` bytes from offset `off`; absent bytes are missing. -/
def Instance.buffer (x : Instance) (step rank off n : Nat) : Option (List Byte) := chunkBytes (x.got step rank) off n

/-- Bytes a member hands to itself. -/
def State.keepOwn (s : State) (p : Nat) (id : W32) (step rank off : Nat) (b : List Byte) : State :=
  s.modInstance p id fun x => { x with received := (step, rank, off, b) :: x.received }

/-- Mark a phase passed. -/
def State.markPhase (s : State) (p : Nat) (id : W32) (n : Nat) : State :=
  s.modInstance p id fun x => { x with phases := n :: x.phases }

/-! ## Operation 5 -/

/-- The block of R401 with its expert entries. -/
structure TokenBlock where
  t : Nat
  width : Nat
  e : Nat
  k : Nat
  all : Bool
  cap : Nat
  gate : W64
  route : W64
  back : W64
  out : W64
  y : W64
  /-- The replica ranks of each expert. -/
  experts : List (List Nat)

/-- The block as read. -/
def parseTokens (l : List Byte) : TokenBlock :=
  let e := field l 6 1 + 1
  { t := field l 0 4, width := field l 4 2, e, k := bits (field l 7 1) 3 0, all := bit (field l 7 1) 4
    cap := field l 8 2, gate := w64 (field l 16 8), route := w64 (field l 24 8), back := w64 (field l 32 8)
    out := w64 (field l 40 8), y := w64 (field l 48 8)
    experts := (List.range e).map fun i =>
      ((List.range 4).map fun j => field l (64 + 8 * i + 2 * j) 2).filter fun r => r != 0xFFFF }

/-- Bytes of one token row, padded to 16 B. -/
def TokenBlock.row (b : TokenBlock) (h : SchedHeader) : Nat := (b.width * elemBytes h.inFmt + 15) / 16 * 16

/-- Experts that a rank hosts, in order. -/
def TokenBlock.hosted (b : TokenBlock) (r : Nat) : List Nat :=
  (List.range b.e).filter fun e => (b.experts.getD e []).contains r

/-- Where the row of expert `e`, source rank `r` and slot `i` lies in the input buffer of rank `h` (R403). -/
def TokenBlock.place (b : TokenBlock) (sh : SchedHeader) (host e r i : Nat) : Nat :=
  ((((b.hosted host).filter fun x => x < e).length * sh.n + r) * b.cap + i) * b.row sh

/-- Pieces of a long reduction: first index and length. -/
def passes (limit n : Nat) : List (Nat × Nat) :=
  (List.range ((n + limit - 1) / limit)).map fun i => (i * limit, min limit (n - i * limit))

/-- The rate class of the scores of a format (R401 admits only formats that have one with themselves). -/
def scoreClass (fmt : Nat) : RateClass := (pairClass fmt fmt).getD .full

/-- A score: the passes of a graticule in fp32 mode, added in order (R346, R402), with the flags of each pass. -/
def score (fmt : Nat) (x w : List Num) : W32 × List NumFlags :=
  let c := scoreClass fmt
  let ps := (passes c.limit x.length).map fun r =>
    passSum c false r.2 ⟨(x.drop r.1).take r.2, []⟩ ⟨(w.drop r.1).take r.2, []⟩
  match ps with
  | [] => (0, [])
  | p :: rest =>
    let r := rest.foldl (fun a q =>
      let y := accAdd c false a.1 q.1
      (y.1, a.2 ++ [q.2.or y.2])) (p.1, [p.2])
    (r.1.truncate 32, r.2)

/-- The graticule jobs that score the tokens: up to 6,144 vectors and 256 columns each, over the passes' lengths (R402). -/
def scoreJobs (h : SchedHeader) (b : TokenBlock) : List JobRecord :=
  (passes 6144 b.t).flatMap fun m => (passes (scoreClass h.inFmt).limit b.width).map fun k =>
    { m := m.2, k := k.2, n := b.e, aFmt := h.inFmt, wFmt := h.inFmt, outFmt := 0xC, accumulate := k.1 != 0
      emit := k.1 + k.2 == b.width }

/-- The flags of those jobs, from the scores of each token. -/
def scoreFlags (h : SchedHeader) (b : TokenBlock) (l : List (List (W32 × List NumFlags))) : List NumFlags :=
  (passes 6144 b.t).flatMap fun m => (List.range (passes (scoreClass h.inFmt).limit b.width).length).map fun i =>
    (((l.drop m.1).take m.2).flatMap fun row => row.map fun e => e.2.getD i {}).foldl NumFlags.or {}

/-- Every row of a graticule's accumulator store. -/
def allRows : List Nat := List.range 6144 ++ List.range' 16384 512

/-- A graticule has run scoring jobs with these flags: its counters; which rows it used is open (R367, R402, assumption
log 77). -/
def Graticule.scored (y : Graticule) (l : List NumFlags) : Graticule :=
  { y with
    jobs := y.jobs + BitVec.ofNat 32 l.length, spoiled := allRows
    invalidCount := min 0xF (y.invalidCount + (l.filter fun f => f.invalid).length)
    overflowCount := min 0xF (y.overflowCount + (l.filter fun f => f.overflow).length) }

/-- The graticule that Atlas binds for the scores: free, in the landing quadrant first (R377, R402). -/
def State.scoreGrat (s : State) (q : Nat) : Option Nat :=
  ([2 * q, 2 * q + 1] ++ List.range 8).find? fun g => s.gratFree g && (s.grat g).boundTo.isNone

/-- A graticule asks leave for the scores it is to run, once it is wiped (R33, R352). -/
def State.scoreLeave (s : State) (g : Nat) : State :=
  match (s.grat g).scoring with
  | none => s
  | some (p, id) => match s.schedule? p id with
    | none => s
    | some c => (s.modGrat g fun y => { y with partition := p, owned := true }).askLeave
        (.graticule g (halfRate c.header.inFmt c.header.inFmt))

/-- Bind a graticule for the scores of an instance; one of another partition is wiped first (R33, R402). -/
def State.bindScores (s : State) (p : Nat) (c : Schedule) : State :=
  match s.scoreGrat c.header.landQ with
  | none => s
  | some g =>
    let wipe := (s.grat g).owned && (s.grat g).partition != p
    let s := s.modGrat g fun y => { y with
      boundTo := some c.sequencer, scoring := some (p, c.header.id), wiping := wipe }
    let s := s.modInstance p c.header.id fun x => { x with grat := some g }
    if wipe then s else s.scoreLeave g

/-- An instance lets go of the graticule it bound (R377, R402). -/
def State.endScores (s : State) (p : Nat) (c : Schedule) : State :=
  match s.instance? p c.header.id with
  | none => s
  | some x => match x.grat with
    | none => s
    | some g =>
      let s := if (s.grat g).scoring = some (p, c.header.id) then
          (s.endLeave (.graticule g (halfRate c.header.inFmt c.header.inFmt))).modGrat g fun y => { y with scoring := none }
        else s
      s.unbind c.sequencer

/-- An expert and its score stand before another: a larger score, or the same and a lower expert; a NaN stands last. -/
def scoreBefore (a b : Nat × W32) : Bool :=
  if (fp a.2).isNan then (fp b.2).isNan && decide (a.1 < b.1)
  else if (fp b.2).isNan then true
  else (fp b.2).lt (fp a.2) || (!(fp a.2).lt (fp b.2) && decide (a.1 < b.1))

/-- Put a scored expert in its place. -/
def insertScore (a : Nat × W32) : List (Nat × W32) → List (Nat × W32)
  | [] => [a]
  | b :: r => if scoreBefore a b then a :: b :: r else b :: insertScore a r

/-- The selected experts with their scores and weights (R402). -/
def gating (b : TokenBlock) (scores : List W32) : List (Nat × W32) :=
  let sorted := ((List.range b.e).zip scores).foldl (fun l a => insertScore a l) []
  let sel := sorted.take b.k
  let m := match sel with
    | a :: _ => a.2
    | [] => 0
  let e := fun (v : W32) => Config.fp32Exp (fpSub v m).1
  let z := (if b.all then scores else sel.map fun a => a.2).foldl (fun a v => match a with
    | none => some (e v)
    | some a => some (fpAdd a (e v)).1) none
  sel.map fun a => (a.1, (fpDiv (e a.2) (z.getD 0)).1)

/-- The replica Atlas picks for an expert: the smallest congestion delay, ties to the lower rank (R403). A destination
without a delay sample stands at 10 µs. -/
def State.pickReplica (s : State) (c : Schedule) (l : List Nat) : Option Nat :=
  let delay := fun r => match s.congest? c.header.landQ (c.member r).1 with
    | some x => x.delay.getD 160000
    | none => 160000
  l.foldl (fun best r => match best with
    | none => some r
    | some b => if delay r < delay b ∨ (delay r = delay b ∧ r < b) then some r else some b) none

/-- Give the selected pairs of one token their slots and ranks (R403). -/
def State.routeToken (s : State) (c : Schedule) (b : TokenBlock) (t : Nat) (acc : List Route)
    (sel : List (Nat × W32)) : List Route :=
  acc ++ sel.zipIdx.map fun a =>
    let i := (acc.filter fun r => r.expert == a.1.1).length
    let dest := if i < b.cap then (s.pickReplica c (b.experts.getD a.1.1 [])).map fun h => (h, i) else none
    { token := t, place := a.2, expert := a.1.1, sentTo := dest, weight := if dest.isSome then a.1.2 else 0 }

/-- The scores of all tokens, from the token matrix and the gate matrix. -/
def scoresOf (h : SchedHeader) (b : TokenBlock) (x g : List Byte) : List (List (W32 × List NumFlags)) :=
  let w := elemBytes h.inFmt
  let cols := (List.range b.e).map fun e => (List.range b.width).map fun i => numOf h.inFmt (field g ((i * b.e + e) * w) w)
  (List.range b.t).map fun t =>
    cols.map (score h.inFmt ((List.range b.width).map fun i => numOf h.inFmt (field x (t * b.row h + i * w) w)))

/-- The routes of all tokens. -/
def State.routesOf (s : State) (c : Schedule) (b : TokenBlock) (l : List (List (W32 × List NumFlags))) : List Route :=
  l.zipIdx.foldl (fun acc t => s.routeToken c b t.2 acc (gating b (t.1.map fun e => e.1))) []

/-- Rows this member sends a rank of an expert. -/
def tallyOf (l : List Route) (rank e : Nat) : Nat :=
  (l.filter fun r => r.expert == e && (match r.sentTo with
    | some (h, _) => h == rank
    | none => false)).length

/-- The tally message to a rank. -/
def tallyBytes (l : List Route) (rank : Nat) : List Byte :=
  (List.range 256).flatMap fun e => leBytes 2 (tallyOf l rank e)

/-- Commit token rows into the expert input buffer, or returned rows into return_address. -/
def State.commitRows (s : State) (p : Nat) (c : Schedule) (x : Instance) (step rank off : Nat) (b : List Byte) :
    Commit :=
  let h := c.header
  let k := parseTokens c.block
  let done := fun (s : State) => s.keepOwn p h.id step rank off b
  let w := if step = 0 then s.collWrite p h.id x 1 h.recvAddr [(off, b)]
    else if step = 2 then s.collWrite p h.id x 5 k.back [(off, b)]
    else .done s
  match w with
  | .done s => .done (done s)
  | .wait s => .wait s
  | .fail s st => .fail s st

/-- Send bytes of a step to a rank, or keep them. -/
def State.sendOrKeep (s : State) (p : Nat) (c : Schedule) (step rank off : Nat) (b : List Byte) : State :=
  let h := c.header
  if rank = h.rank then
    match s.instance? p h.id with
    | none => s
    | some x => match s.commitRows p c x step rank off b with
      | .done s => s
      | .wait s => s
      | .fail s st => s.failInstance p h.id st
  else s.queueSend p h.id h step rank off b

/-- Phase 20: the scores, on a bound graticule that has run their jobs (phase 19); then gate the tokens, send the rows
and the tallies (R402, R403). -/
def State.tokenSend (s : State) (p : Nat) (c : Schedule) (x : Instance) : State :=
  let h := c.header
  let b := parseTokens c.block
  if x.phases.contains 20 then s
  else
    match s.collWant p h.id x 0 h.sendAddr 0 (b.t * b.row h),
        s.collWant p h.id x 3 b.gate 0 (b.width * b.e * elemBytes h.inFmt) with
    | .ok xs, .ok gs => match x.grat with
      | none => s.bindScores p c
      | some g =>
      if !x.phases.contains 19 then s
      else
      let scores := scoresOf h b xs gs
      let fl := scoreFlags h b scores
      let routes := s.routesOf c b scores
      let s := (s.modGrat g fun y => y.scored fl).countIn (scopeWord 3 p 0) Count.grtJobs fl.length
      let s := fl.foldl (fun s f => s.countFlags p Count.grtInvalid f) s
      let s := (s.modInstance p h.id fun x => { x with routes, flags := fl.foldl NumFlags.or x.flags }).markPhase p h.id 20
      let s := routes.foldl (fun s r => match r.sentTo with
        | some (host, i) => s.sendOrKeep p c 0 host (b.place h host r.expert h.rank i)
            (slice xs (r.token * b.row h) (b.row h))
        | none => s) s
      (List.range h.n).foldl (fun s r => s.sendOrKeep p c 1 r 0 (tallyBytes routes r)) s
    | .error s, _ => s
    | _, .error s => s

/-- The tally of a rank, once here. -/
def Instance.tally (x : Instance) (rank : Nat) : Option (List Byte) := x.buffer 1 rank 0 512

/-- Rows a rank has announced. -/
def tallied (l : List Byte) : Nat := ((List.range 256).map fun e => field l (2 * e) 2).sum

/-- Every tally and every tallied row is here (R403). -/
def Instance.rowsHere (x : Instance) (h : SchedHeader) (row : Nat) : Bool :=
  (List.range h.n).all fun r => match x.tally r with
    | some l => tallied l * row ≤ x.gotBytes 0 r
    | none => false

/-- Phase 21: signal the expert host. -/
def State.tokenSignal (s : State) (p : Nat) (c : Schedule) (x : Instance) : State :=
  let h := c.header
  if x.phases.contains 21 || !x.phases.contains 20 || !x.rowsHere h ((parseTokens c.block).row h) then s
  else
    let s := s.modTrig (h.trigBase + 3) (· + 1)
    (s.modInstance p h.id fun x => { x with idleFrom := s.mtQ h.landQ }).markPhase p h.id 21

/-- The rows a source rank has here: expert, slot. -/
def TokenBlock.rowsOf (b : TokenBlock) (rank : Nat) (tally : List Byte) : List (Nat × Nat) :=
  (b.hosted rank).flatMap fun e => (List.range (field tally (2 * e) 2)).map fun i => (e, i)

/-- Return the outputs of one source rank's rows; `none` while a byte is not yet readable. -/
def State.tokenReturn (s : State) (p : Nat) (c : Schedule) (x : Instance) (b : TokenBlock) (r : Nat) : State :=
  let h := c.header
  match x.tally r with
  | none => s
  | some l =>
    (b.rowsOf h.rank l).foldl (fun s y =>
      match s.collWant p h.id x 6 b.out (b.place h h.rank y.1 r y.2) (b.row h) with
      | .ok bytes => s.sendOrKeep p c 2 r ((y.1 * b.cap + y.2) * b.row h) bytes
      | .error s => s) s

/-- Every output row is readable. -/
def State.outputsReady (s : State) (p : Nat) (c : Schedule) (x : Instance) (b : TokenBlock) : Except State Unit :=
  let h := c.header
  (List.range h.n).foldl (fun acc r => match acc, x.tally r with
    | .ok _, some l => (b.rowsOf h.rank l).foldl (fun acc y => match acc with
      | .ok _ => (match s.collWant p h.id x 6 b.out (b.place h h.rank y.1 r y.2) (b.row h) with
        | .ok _ => .ok ()
        | .error s => .error s)
      | .error s => .error s) (.ok ())
    | e, _ => e) (.ok ())

/-- Phase 22: once trig_base + 2 reaches the instance count, return the outputs (R403); the wait is not counted
against the bound (R404). -/
def State.tokenBack (s : State) (p : Nat) (c : Schedule) (engine : Nat) (x : Instance) : State :=
  let h := c.header
  let b := parseTokens c.block
  if x.phases.contains 22 || !x.phases.contains 21 || (s.trigValue (h.trigBase + 2)).toNat < x.number then s
  else
    let n := (b.hosted h.rank).length * h.n * b.cap * b.row h
    let s := if x.phases.contains 24 then s
      else (s.startFetch (.coll p h.id) engine h.context p (x.segs.getD 6 {}) b.out n 6).markPhase p h.id 24
    match s.outputsReady p c x b with
    | .error s => s
    | .ok _ =>
      let s := (s.modInstance p h.id fun x => { x with startMt := x.startMt + (s.mtQ h.landQ - x.idleFrom) }).markPhase p h.id 22
      (List.range h.n).foldl (fun s r => s.tokenReturn p c x b r) s

/-- Rows this member sent out. -/
def Instance.sentRows (x : Instance) : Nat := (x.routes.filter fun r => r.sentTo.isSome).length

/-- Bytes of step 2 that have landed. -/
def Instance.landed (x : Instance) : Nat := ((x.received.filter fun r => r.1 == 2).map fun r => r.2.2.2.length).sum

/-- The routing record of a token (R404). -/
def routingRecord (l : List Route) : List Byte :=
  padTo 16 (l.flatMap fun r => leBytes 2 (r.expert + (if r.sentTo.isSome then 0 else 0x8000)) ) |>.take (2 * l.length)
    |> fun ids => ids ++ List.replicate (16 - ids.length) 0xFF#8
      ++ padTo 32 (l.flatMap fun r => leBytes 4 r.weight.toNat)

/-- One output row of a token (R404). -/
def State.tokenRow (s : State) (h : SchedHeader) (b : TokenBlock) (back : List (Nat × List Byte)) (t : Nat)
    (l : List Route) : List Byte × NumFlags :=
  let w := elemBytes h.inFmt
  let cols := (List.range b.width).map fun col =>
    let sum := l.foldl (fun (a : Option W32) r => match r.sentTo with
      | none => a
      | some (_, i) =>
        let v := (fpMul r.weight (toFp (numOf h.inFmt (leNat ((chunkBytes back ((r.expert * b.cap + i) * b.row h + col * w) w).getD []))))).1
        match a with
        | none => some v
        | some a => some (fpAdd a v).1) none
    convertTo h.outFmt (rndOf h.sr (s.ctx h.context).seed h.stream (t * b.width + col)) h.saturate (fp (sum.getD 0))
  (cols.flatMap fun y => leBytes (elemBytes h.outFmt) y.1, (cols.map fun y => y.2).foldl NumFlags.or {})

/-- Phase 23: every returned row has landed; write y and the routing records (R404). -/
def State.tokenFinish (s : State) (p : Nat) (c : Schedule) (x : Instance) : State :=
  let h := c.header
  let b := parseTokens c.block
  if x.phases.contains 23 || !x.phases.contains 22 || x.landed < x.sentRows * b.row h then s
  else
    let back := (x.received.filter fun r => r.1 == 2).map fun r => (r.2.2.1, r.2.2.2)
    let rows := (List.range b.t).map fun t => s.tokenRow h b back t (x.routes.filter fun r => r.token == t)
    let recs := (List.range b.t).flatMap fun t => routingRecord (x.routes.filter fun r => r.token == t)
    match s.collWrite p h.id x 7 b.y [(0, rows.flatMap fun r => r.1)] with
    | .fail s st => s.failInstance p h.id st
    | .wait s => s
    | .done s1 => match s1.collWrite p h.id x 4 b.route [(0, recs)] with
      | .fail s st => s.failInstance p h.id st
      | .wait s2 => if x.segs.any (fun g => g.kind == 1) then s else s2
      | .done s2 => (s2.modInstance p h.id fun x => { x with
          flags := (rows.map fun r => r.2).foldl NumFlags.or x.flags }).markPhase p h.id 23

/-- All that operation 5 can do now. -/
def State.tokenPump (s : State) (p : Nat) (c : Schedule) (engine : Nat) : State :=
  let go := fun (s : State) (f : State → Nat → Schedule → Instance → State) => match s.instance? p c.header.id with
    | some x => if x.failed = 0 then f s p c x else s
    | none => s
  go (go (go (go s State.tokenSend) State.tokenSignal) (fun s p c x => s.tokenBack p c engine x)) State.tokenFinish

/-! ## Operation 6 -/

/-- The block of R405. -/
structure EmbedBlock where
  bags : Nat
  width : Nat
  combiner : Nat
  weighted : Bool
  perRank : Nat
  shard : W64
  index : W64
  offsets : W64
  weight : W64
  scratch : W64

/-- The block as read. -/
def parseEmbed (l : List Byte) : EmbedBlock :=
  { bags := field l 0 4, width := field l 4 2, combiner := bits (field l 6 1) 1 0, weighted := bit (field l 6 1) 2
    perRank := field l 8 8, shard := w64 (field l 16 8), index := w64 (field l 24 8), offsets := w64 (field l 32 8)
    weight := w64 (field l 40 8), scratch := w64 (field l 48 8) }

/-- The bag of a position, by the offsets. -/
def bagOf (offs : List Nat) (pos : Nat) : Nat := ((offs.drop 1).filter fun o => o ≤ pos).length

/-- The 32-bit words of bytes. -/
def wordsOf (l : List Byte) : List Nat := (List.range (l.length / 4)).map fun i => field l (4 * i) 4

/-- The request entries of a rank: local row, bag, weight, position, 16 B each, behind a 16-B count (assumption log 40). -/
def embedRequest (b : EmbedBlock) (offs ids weights : List Nat) (rank : Nat) : List Byte :=
  let es := ids.zipIdx.filter fun y => b.perRank != 0 && y.1 / b.perRank == rank
  leBytes 16 es.length ++ es.flatMap fun y =>
    leBytes 4 (y.1 % b.perRank) ++ leBytes 4 (bagOf offs y.2)
      ++ leBytes 4 (if b.weighted then weights.getD y.2 0 else 0x3F800000) ++ leBytes 4 y.2

/-- Phase 30: the offsets are read, the ids and weights are asked for; phase 31: the requests are sent. -/
def State.embedSend (s : State) (p : Nat) (c : Schedule) (engine : Nat) (x : Instance) : State :=
  let h := c.header
  let b := parseEmbed c.block
  match s.collWant p h.id x 5 b.offsets 0 (4 * (b.bags + 1)) with
  | .error s => s
  | .ok ol =>
    let offs := wordsOf ol
    let n := offs.getLastD 0
    let o : TileOwner := .coll p h.id
    if !x.phases.contains 30 then
      let st := s.rangeCheck h.context h.gen p b.index (4 * n) false
      let sw := if b.weighted then s.rangeCheck h.context h.gen p b.weight (4 * n) false else Status.ok
      if st != Status.ok || sw != Status.ok then s.failInstance p h.id (if st != Status.ok then st else sw)
      else
        let s := s.startFetch o engine h.context p (x.segs.getD 4 {}) b.index (4 * n) 4
        let s := if b.weighted then s.startFetch o engine h.context p (x.segs.getD 6 {}) b.weight (4 * n) 6 else s
        s.markPhase p h.id 30
    else if x.phases.contains 31 then s
    else
      match s.collWant p h.id x 4 b.index 0 (4 * n), (if b.weighted then s.collWant p h.id x 6 b.weight 0 (4 * n)
          else .ok []) with
      | .ok il, .ok wl =>
        let s := s.markPhase p h.id 31
        (List.range h.n).foldl (fun s r =>
          let m := embedRequest b offs (wordsOf il) (wordsOf wl) r
          let s := s.keepOwn p h.id 2 r 0 m
          if r = h.rank then s.keepOwn p h.id 0 r 0 m else s.queueSend p h.id h 0 r 0 m) s
      | .error s, _ => s
      | _, .error s => s

/-- A request, once whole: of a rank to this member (step 0), or of this member to a rank (kept as step 2). -/
def Instance.request (x : Instance) (step rank : Nat) : Option (List Byte) :=
  match x.buffer step rank 0 16 with
  | some l => x.buffer step rank 16 (16 * leNat l)
  | none => none

/-- The entries of a request: local row, bag, weight. -/
def embedEntries (l : List Byte) : List (Nat × Nat × W32) :=
  (List.range (l.length / 16)).map fun i => (field l (16 * i) 4, field l (16 * i + 4) 4, w32 (field l (16 * i + 8) 4))

/-- The bags of a request, each once, ascending. -/
def embedBags (l : List (Nat × Nat × W32)) : List Nat :=
  (l.map fun e => e.2.1).foldl (fun acc g => if acc.contains g then acc else acc ++ [g]) []

/-- A weighted element as a carry pattern. -/
def weightedElem (mode fmt : Nat) (w : W32) (v : Nat) : BitVec 384 :=
  if mode = 2 then exactOf ((fp w).mul (numOf fmt v)) else ((fpMul w (toFp (numOf fmt v))).1).zeroExtend 384

/-- The partial of one bag and column from the rows given, in ascending position. -/
def embedSum (h : SchedHeader) (b : EmbedBlock) (rows : List (W32 × List Byte)) (col : Nat) : BitVec 384 :=
  let w := elemBytes h.inFmt
  match rows.map fun r => weightedElem h.mode h.inFmt r.1 (field r.2 (col * w) w) with
  | [] => 0
  | v :: rest => rest.foldl (fun a v => (combine h.mode (if b.combiner = 2 then 1 else 0) v a).1) v

/-- The answer to one requester: per bag of its request, in ascending order, D carry elements. -/
def embedAnswer (h : SchedHeader) (b : EmbedBlock) (shard : List Byte) (l : List (Nat × Nat × W32)) : List Byte :=
  let row := b.width * elemBytes h.inFmt
  (embedBags l).flatMap fun g =>
    let rows := (l.filter fun e => e.2.1 == g).map fun e => (e.2.2, slice shard (e.1 * row) row)
    (List.range b.width).flatMap fun col => leBytes (elemBytes h.carryFmt) (embedSum h b rows col).toNat

/-- Combine returned elements into the held partials (R405). -/
def embedCombine (h : SchedHeader) (b : EmbedBlock) (bags : List Nat) (es : List (Nat × List Byte)) (x : Instance) :
    Instance :=
  es.foldl (fun x e =>
    let key := bags.getD (e.1 / b.width) 0 * b.width + e.1 % b.width
    let v := BitVec.ofNat 384 (leNat e.2)
    let r := match tblGet x.carry key with
      | some c => combine h.mode (if b.combiner = 2 then 1 else 0) v c
      | none => (v, {})
    { x with carry := tblSet x.carry key r.1, flags := x.flags.or r.2 }) x

/-- The bags that this member asked of a rank. -/
def Instance.asked (x : Instance) (rank : Nat) : List Nat :=
  match x.request 2 rank with
  | some l => embedBags (embedEntries l)
  | none => []

/-- Commit returned elements of a rank. -/
def Instance.takeReturn (x : Instance) (h : SchedHeader) (b : EmbedBlock) (rank off : Nat) (bytes : List Byte) :
    Instance :=
  let w := elemBytes h.carryFmt
  let x := { x with received := (1, rank, off, bytes) :: x.received }
  let first := off / w
  let es := (List.range' first ((off + bytes.length - 1) / w - first + 1)).filterMap fun i =>
    (chunkBytes (x.got 1 rank) (i * w) w).map fun e => (i, e)
  embedCombine h b (x.asked rank) es x

/-- Answer the requesters whose requests are whole. -/
def State.embedServe (s : State) (p : Nat) (c : Schedule) (x : Instance) (r : Nat) : State :=
  let h := c.header
  let b := parseEmbed c.block
  if x.sentSteps.contains (1, r) then s
  else
    match x.request 0 r with
    | none => s
    | some l =>
      match s.collWant p h.id x 3 b.shard 0 (b.perRank * b.width * elemBytes h.inFmt) with
      | .error s => s
      | .ok shard =>
        let m := embedAnswer h b shard (embedEntries l)
        let s := s.modInstance p h.id fun x => { x with sentSteps := (1, r) :: x.sentSteps }
        if m.isEmpty then s
        else if r = h.rank then s.modInstance p h.id fun x => x.takeReturn h b r 0 m
        else s.queueSend p h.id h 1 r 0 m

/-- Bytes that a rank returns. -/
def Instance.owed (x : Instance) (h : SchedHeader) (b : EmbedBlock) (rank : Nat) : Nat :=
  (x.asked rank).length * b.width * elemBytes h.carryFmt

/-- The output element of a bag and column: zero for an empty bag, divided by its length for mean, rounded once. -/
def State.embedElem (s : State) (h : SchedHeader) (b : EmbedBlock) (x : Instance) (len key : Nat) : Nat × NumFlags :=
  let v := if len = 0 then .zero else numOf h.carryFmt (tblGetD x.carry key 0).toNat
  let v := if b.combiner = 1 && len != 0 then v.div (.fin false len 0) else v
  convertTo h.outFmt (rndOf h.sr (s.ctx h.context).seed h.stream key) h.saturate v

/-- Phase 32: every return is here; write the bags. -/
def State.embedFinish (s : State) (p : Nat) (c : Schedule) (x : Instance) : State :=
  let h := c.header
  let b := parseEmbed c.block
  let here := (List.range h.n).all fun r => x.owed h b r ≤ x.gotBytes 1 r
  if x.phases.contains 32 || !x.phases.contains 31 || !here then s
  else
    match s.collWant p h.id x 5 b.offsets 0 (4 * (b.bags + 1)) with
    | .error s => s
    | .ok ol =>
      let offs := wordsOf ol
      let out := (List.range (b.bags * b.width)).map fun key =>
        let g := key / b.width
        s.embedElem h b x (offs.getD (g + 1) 0 - offs.getD g 0) key
      match s.collWrite p h.id x 1 h.recvAddr [(0, out.flatMap fun y => leBytes (elemBytes h.outFmt) y.1)] with
      | .done s => (s.modInstance p h.id fun x => { x with
          flags := (out.map fun y => y.2).foldl NumFlags.or x.flags }).markPhase p h.id 32
      | .wait s => s
      | .fail s st => s.failInstance p h.id st

/-- All that operation 6 can do now. -/
def State.embedPump (s : State) (p : Nat) (c : Schedule) (engine : Nat) : State :=
  let go := fun (s : State) (f : State → Nat → Schedule → Instance → State) => match s.instance? p c.header.id with
    | some x => if x.failed = 0 then f s p c x else s
    | none => s
  let s := go s fun s p c x => s.embedSend p c engine x
  let s := go s fun s p c x => s.embedSend p c engine x
  let s := (List.range c.header.n).foldl (fun s r => go s fun s p c x => s.embedServe p c x r) s
  go s State.embedFinish

end Sys2Proof.Machine
end

