-- ==== Sys2Proof/Machine/Instances.lean ====
section
/-!
DEFINITION. Machine/Instances.lean: the running instance of a schedule: its buffers, what it does when data, replies or
trig points move on, its start and its end (R389 to R395, R407, R411).
-/

namespace Sys2Proof.Machine

/-! ## Buffers -/

/-- Bytes of `n` elements. -/
def elemsBytes (code n : Nat) : Nat := n * elemBytes code

/-- The context address ranges of a schedule: buffer number, address, bytes, written (R391, R393, R401, R405, R406). -/
def SchedHeader.ranges (h : SchedHeader) (block : List Byte) : List (Nat × W64 × Nat × Bool) :=
  if h.op = 5 then
    let b := parseTokens block
    let rows := (b.hosted h.rank).length * h.n * b.cap * b.row h
    [(0, h.sendAddr, b.t * b.row h, false), (1, h.recvAddr, rows, true),
     (3, b.gate, elemsBytes h.inFmt (b.width * b.e), false), (4, b.route, 48 * b.t, true),
     (5, b.back, b.e * b.cap * b.row h, true), (6, b.out, rows, false), (7, b.y, elemsBytes h.outFmt (b.t * b.width), true)]
  else if h.op = 6 then
    let b := parseEmbed block
    [(1, h.recvAddr, elemsBytes h.outFmt (b.bags * b.width), true),
     (3, b.shard, elemsBytes h.inFmt (b.perRank * b.width), false), (4, b.index, 0, false),
     (5, b.offsets, 4 * (b.bags + 1), false)] ++ (if b.weighted then [(6, b.weight, 0, false)] else [])
      ++ [(7, b.scratch, elemsBytes h.carryFmt (b.bags * b.width), true)]
  else
    let send := if h.op = 4 then h.n * h.count else h.count
    let recv := if h.op = 2 then min h.quantum (h.count - h.rank * h.quantum)
      else if h.op = 3 ∨ h.op = 4 then h.n * h.count else h.count
    let own := (h.blocks h.rank 1).2 - (h.blocks h.rank 1).1
    [(0, h.sendAddr, elemsBytes h.inFmt send, false), (1, h.recvAddr, elemsBytes h.outFmt recv, true)]
      ++ (if h.hasRS && h.carryFmt != h.outFmt then [(2, h.scratchAddr, elemsBytes h.carryFmt h.count, true)] else [])
      ++ (if h.op = 7 then
        let o := parseOpt block
        [(3, o.master, 4 * own, true), (3, o.master, 4 * own, false), (4, o.m, 4 * own, true), (4, o.m, 4 * own, false),
         (5, o.v, 4 * own, true), (5, o.v, 4 * own, false), (6, o.hyper, 32, false)]
        else [])

/-- The segment entries of the buffers as they stand at the start (R148). -/
def State.schedSegs (s : State) (h : SchedHeader) (block : List Byte) : List Segment :=
  (List.range 8).map fun i => match (h.ranges block).find? fun r => r.1 == i with
    | some r => s.segOf h.context r.2.1
    | none => {}

/-- Prepare a buffer: the tiles of a host range, the reads of an accelerator's; expert outputs are fetched later. -/
def State.openBuffer (s : State) (p : Nat) (c : Schedule) (r : Nat × W64 × Nat × Bool) : State :=
  let h := c.header
  let g := s.segOf h.context r.2.1
  let o : TileOwner := .coll p h.id
  if r.2.2.1 = 0 ∨ (h.op = 5 ∧ r.1 = 6) then s
  else if r.2.2.2 then
    (if g.kind = 1 then s.addTiles o (4 + c.sequencer) h.context g (segTarget g r.2.1) r.2.2.1 true (bufBase r.1) else s)
  else s.startFetch o (4 + c.sequencer) h.context p g r.2.1 r.2.2.1 r.1

/-! ## Moving on -/

/-- All that an instance can do now: nothing while its sequencer is being wiped (R33, R395). -/
def State.pumpColl (s : State) (p : Nat) (c : Schedule) : State :=
  match s.instance? p c.header.id with
  | none => s
  | some x =>
    if x.failed != 0 || (s.seq c.sequencer).wiping then s
    else
      let h := c.header
      let s := if h.op = 5 then s.tokenPump p c (4 + c.sequencer)
        else if h.op = 6 then s.embedPump p c (4 + c.sequencer)
        else
          let s := s.roundOwn p h.id c x
          let s := match s.instance? p h.id with
            | some x => if h.op = 4 then s.ownPair p h.id h x else s
            | none => s
          (plan h).1.foldl (fun s t => s.trySend p h.id h t) s
      s.releaseBacklog p c

/-- The running schedules of the device. -/
def State.runningSchedules (s : State) : List (Nat × Schedule) :=
  s.parts.flatMap fun r => (r.2.schedules.filter fun c => c.running.isSome).map fun c => (r.1, c)

/-- Every running instance moves on. -/
def State.pumpAll (s : State) : State := s.runningSchedules.foldl (fun s r => s.pumpColl r.1 r.2) s

/-- Every receive of operations 1 to 4 and 7 is complete and every send formed. -/
def Instance.planDone (x : Instance) (h : SchedHeader) : Bool :=
  (plan h).2.all (fun r => x.recvDone h r) && (plan h).1.all (fun t => x.sentSteps.contains (t.step, t.peer))
    && x.phases.contains (if h.op = 4 then 1 else roundedPhase)

/-- The instance has done all its work and every message of it is acknowledged. -/
def State.instanceDone (s : State) (p : Nat) (c : Schedule) (x : Instance) : Bool :=
  let h := c.header
  x.backlog.isEmpty && x.unacked == 0 && s.storesDone (.coll p h.id) &&
    (x.failed != 0 || (if h.op = 5 then x.phases.contains 23
      else if h.op = 6 then x.phases.contains 32 && (List.range h.n).all fun r => x.sentSteps.contains (1, r)
      else x.planDone h))

/-- A failed instance takes back what it has not begun. -/
def State.quenchInstance (s : State) (p : Nat) (id : W32) : State :=
  let mine := fun (x : Sender) => match x.owner with
    | .coll a b _ => a == p && b == id
    | .desc _ _ => false
    | .step _ _ => false
    | .none => false
  let n := (s.allSenders.filter fun x => mine x && !x.begun).length
  (s.freeSenders fun x => mine x && !x.begun).modInstance p id fun x => { x with backlog := [], unacked := x.unacked - n }

/-! ## Start and end -/

/-- Change an admitted schedule. -/
def State.modSchedule (s : State) (p : Nat) (id : W32) (g : Schedule → Schedule) : State :=
  s.modPart p fun x => { x with schedules := x.schedules.map fun c => if c.header.id == id then g c else c }

/-- Start the next instance of a schedule at a Meridian time, for a COLL step where one names it; a sequencer of another
partition is wiped first (R33). -/
def State.startInstance (s : State) (p : Nat) (c : Schedule) (mt : Nat) (coll : Option (Nat × Nat)) : State :=
  let h := c.header
  let s := s.modSchedule p h.id fun c => { c with
    started := c.started + 1, deferred := c.deferred - 1
    running := some { number := c.started + 1, startMt := mt, segs := s.schedSegs h c.block, coll } }
  let s := s.modSeq c.sequencer fun q => { q with
    owned := true, partition := p, wiping := q.wiping || (q.owned && q.partition != p) }
  ((h.ranges c.block).foldl (fun s r => s.openBuffer p c r) s).pumpColl p c

/-- Starts of a schedule are deferred to the running instance's end, and counted late (R392, R411). -/
def State.deferStarts (s : State) (p : Nat) (id : W32) (n : Nat) : State :=
  if n = 0 then s
  else (s.modSchedule p id fun c => { c with deferred := c.deferred + n, late := c.late + n }).count Count.collectiveLate n

/-- The start that a COLL step asks for is deferred in the same way. -/
def State.deferCall (s : State) (p : Nat) (id : W32) (caller : Nat × Nat) : State :=
  (s.modSchedule p id fun c => { c with callers := c.callers ++ [caller], late := c.late + 1 }).count Count.collectiveLate

/-- Starts fall due: one runs where no instance does, and the others wait (R392, R411). -/
def State.startDue (s : State) (p : Nat) (id : W32) (mt : Nat) (n : Nat := 1) : State :=
  match s.schedule? p id with
  | none => s
  | some c =>
    if n = 0 || c.released || (match tblGet (s.part p).jobs c.header.job with
        | some j => j.aborted
        | none => true) then s
    else if c.running.isSome then s.deferStarts p id n
    else (s.startInstance p c mt none).deferStarts p id (n - 1)

/-- A change of trig point 0 starts the instances it has come to, under start_kind 1 (R392, assumption log 47). -/
def State.trigStart (s : State) (p : Nat) (id : W32) : State :=
  match s.schedule? p id with
  | none => s
  | some c =>
    let v := (s.trigValue c.header.trigBase).toNat
    if c.header.startKind = 1 ∧ v ≠ c.trigSeen then
      (s.modSchedule p id fun c => { c with trigSeen := v }).startDue p id (s.mtQ c.header.landQ)
        (v - (c.started + c.deferred))
    else s

/-- The jobs that score an instance's tokens have streamed under their leave: gating follows (R402). -/
def State.scoresEnd (s : State) (g : Nat) : State :=
  match (s.grat g).scoring with
  | none => s
  | some (p, id) => match s.schedule? p id with
    | none => s
    | some c =>
      let u := LeaveFor.graticule g (halfRate c.header.inFmt c.header.inFmt)
      let clocks := ((scoreJobs c.header (parseTokens c.block)).map (jobClocks (scoreClass c.header.inFmt))).sum
      match s.power.holders.find? fun l => l.purpose == u with
      | none => s
      | some l =>
        if s.clk < l.grantedClk + clocks + (s.power.withheld - l.withheld) then s
        else (((s.endLeave u).modGrat g fun y => { y with scoring := none }).markPhase p id 19).pumpAll

/-- A trig point has changed: schedules it starts, and instances waiting on it, move on (R392, R403). -/
def State.trigMoved (s : State) : State :=
  let l := s.parts.flatMap fun r => (r.2.schedules.filter fun c => c.header.startKind == 1).map fun c => (r.1, c.header.id)
  (l.foldl (fun s r => s.trigStart r.1 r.2) s).pumpAll

/-- Remove a released schedule: its reservation, its sequencer and its appointment go (R407, R411). -/
def State.dropSchedule (s : State) (p : Nat) (id : W32) : State :=
  match s.schedule? p id with
  | none => s
  | some c =>
    let s := s.modQuad c.header.landQ fun d => { d with collReserved := d.collReserved - c.reservation }
    let s := s.modSeq c.sequencer fun q => { q with reservedBy := none }
    (s.dropAppt (.collective p id)).modPart p fun x => { x with
      schedules := x.schedules.filter fun c => c.header.id != id }

/-- The instance is gone: its tiles and requests, its sequencer's count, and a release that waited for it (R411). -/
def State.clearInstance (s : State) (p : Nat) (c : Schedule) : State :=
  let h := c.header
  let s := ((s.endTiles (.coll p h.id)).endAttach (.coll p h.id)).endScores p c
  let s := s.modSchedule p h.id fun c => { c with running := none }
  let s := s.modSeq c.sequencer fun q => { q with ended := q.ended + 1 }
  if c.released then
    (s.dropSchedule p h.id).releaseWaits (fun w => w == .scheduleEnd p h.id) Status.ok 0 []
  else s

/-- The COLL step of an instance ends with a status, and its kernel takes the instance's flags (R337, R392). -/
def State.endColl (s : State) (x : Instance) (status : Nat) : State :=
  match x.coll with
  | some (k, slot) => (s.modRun k fun r => { r with flags := r.flags.or x.flags }).endFlight k slot status 0
  | none => s

/-- The COLL steps whose starts were deferred end with a status. -/
def State.endCallers (s : State) (p : Nat) (c : Schedule) (status : Nat) : State :=
  c.callers.foldl (fun s k => s.endFlight k.1 k.2 status 0) (s.modSchedule p c.header.id fun c => { c with
    callers := [], deferred := 0 })

/-- Stop the running instance of a schedule at once (R388, R411). -/
def State.stopInstance (s : State) (p : Nat) (id : W32) (status : Nat) : State :=
  match s.schedule? p id with
  | none => s
  | some c =>
    match c.running with
    | none => s
    | some x => (((s.quenchInstance p id).endColl x status).endCallers p c status).clearInstance p c

/-- The COLL steps that wait for a start: those whose flights have not ended (R374). -/
def State.waitingCallers (s : State) (c : Schedule) : List (Nat × Nat) :=
  c.callers.filter fun k => match s.flight? k.1 k.2 with
    | some f => f.ended.isNone
    | none => false

/-- The next deferred start of a schedule follows the end of an instance (R392). -/
def State.startDeferred (s : State) (p : Nat) (id : W32) (mt : Nat) : State :=
  match s.schedule? p id with
  | none => s
  | some c => match s.waitingCallers c with
    | k :: rest => (s.modSchedule p id fun c => { c with callers := rest }).startInstance p c mt (some k)
    | [] => if c.deferred = 0 then s else s.startInstance p c mt none

/-- End an instance that is done: trig_base + 1 gains 1, a late one is recorded, and a deferred start follows (R392). -/
def State.finishInstance (s : State) (p : Nat) (c : Schedule) (x : Instance) : State :=
  let h := c.header
  let s := s.endColl x x.failed
  let s := if x.failed = 0 then s.modTrig (h.trigBase + 1) (· + 1) else s
  let s := if x.startMt + c.bound < s.mtQ h.landQ then
      (s.count Count.instanceLate).note Status.instanceLate 0x14 c.sequencer (some p) (w64 h.id.toNat) else s
  ((s.clearInstance p c).startDeferred p h.id (s.mtQ h.landQ)).trigMoved

/-! ## Arriving data -/

/-- The receive of a plan that takes a step's bytes from a rank. -/
def SchedHeader.recv? (h : SchedHeader) (step rank : Nat) : Option Recv :=
  (plan h).2.find? fun r => r.step == step && r.peer == rank

/-- The bytes of a step from a rank are already complete in the current instance (R395). -/
def Instance.stepFull (x : Instance) (c : Schedule) (step rank : Nat) : Bool :=
  let h := c.header
  if h.op = 5 then
    let row := (parseTokens c.block).row h
    if step = 1 then (x.tally rank).isSome
    else if step = 0 then (match x.tally rank with
      | some l => tallied l * row ≤ x.gotBytes 0 rank
      | none => false)
    else if x.phases.contains 20 then x.sentRows * row ≤ x.landed else false
  else if h.op = 6 then
    if step = 0 then (x.request 0 rank).isSome else x.owed h (parseEmbed c.block) rank ≤ x.gotBytes 1 rank
  else match h.recv? step rank with
    | some r => x.recvDone h r
    | none => true

/-- Reduce or place the bytes of an arriving message (R394, R395). -/
def State.collCommit (s : State) (p : Nat) (c : Schedule) (x : Instance) (step rank off : Nat) (b : List Byte) :
    Commit :=
  let h := c.header
  if h.op = 5 then s.commitRows p c x step rank off b
  else if h.op = 6 then
    if step = 0 then .done (s.keepOwn p h.id 0 rank off b)
    else .done (s.modInstance p h.id fun x => x.takeReturn h (parseEmbed c.block) rank off b)
  else match h.recv? step rank with
    | some r => s.collBytes p c x r off b
    | none => .done s

/-! ## Jobs and beacons (R387, R388, R522 to R524) -/

/-- A job of a partition. -/
def State.job? (s : State) (p j : Nat) : Option Job := tblGet (s.part p).jobs j

/-- Change a job. -/
def State.modJob (s : State) (p j : Nat) (g : Job → Job) : State :=
  match s.job? p j with
  | some x => s.modPart p fun y => { y with jobs := tblSet y.jobs j (g x) }
  | none => s

/-- Abort a job: its instances stop, its COLL steps complete with JOB_ABORTED, its heartbeats end (R388). -/
def State.abortJob (s : State) (p j : Nat) (status : Nat := Status.jobAborted) : State :=
  let ids := (((s.part p).schedules.filter fun c => c.header.job == j).map fun c => c.header.id)
  let s := s.modJob p j fun x => { x with aborted := true, heartbeat := false, watched := [] }
  (ids.foldl (fun s id => s.stopInstance p id status) s).dropAppt (.heartbeat p j)

/-- The quadrant in which a job's heartbeats and beacons are sealed (R387). -/
def State.jobQuadrant (s : State) (p j : Nat) : Nat :=
  match s.job? p j with
  | some x => x.quadrant
  | none => 0

end Sys2Proof.Machine
end

