-- ==== Sys2Proof/Machine/Jobs.lean ====
section
/-!
DEFINITION. Machine/Jobs.lean: beacons, and the ends that reach across tables: a kernel is stopped, a context's
generation is bumped, a context is aborted (R262, R263, R388, R411, R522, R523).
-/

namespace Sys2Proof.Machine

/-! ## Beacons -/

/-- A new flood may start: fewer than 256 in the last 1 ms; else BEACON_LIMIT is recorded (R523). -/
def State.floodRoom (s : State) : Bool := (s.recover.floods.filter fun t => s.clk < t + us 1000).length < 256

/-- A flood starts. -/
def State.startFlood (s : State) (e : BeaconEntry) : State :=
  s.modRec fun r => { r with
    floods := s.clk :: r.floods.filter fun t => s.clk < t + us 1000
    filter := (e :: r.filter.filter fun f => s.clk ≤ f.untilClk).take 1024 }

/-- The filter knows this beacon. -/
def State.beaconKnown (s : State) (src p job : Nat) (issue : W32) : Bool :=
  s.recover.filter.any fun f =>
    f.src == src && f.partition == p && f.job == job && f.issue == issue && decide (s.clk ≤ f.untilClk)

/-- The beacon of a job (R522). -/
def State.beaconPacket (s : State) (p j reason : Nat) : Packet :=
  { key := { src := s.cfg.endpoint, partition := p }, issue := s.stamp (s.jobQuadrant p j), send := s.stamp (s.jobQuadrant p j)
    route := { opcode := opBeacon, cls := 3, tc := 7, dst := s.cfg.endpoint, txQ := s.jobQuadrant p j }
    flags := { last := true }
    spec := { job := j, rank := (match s.job? p j with
      | some x => x.rank
      | none => 0), reason } }

/-- Seal a beacon and send a replica on every active fabric port. -/
def State.sendBeacon (s : State) (p j reason : Nat) : State :=
  let q := s.jobQuadrant p j
  match s.keysOf p (some j) with
  | none => s
  | some k =>
    if !s.keyAllows q k then s
    else if !s.floodRoom then s.note Status.beaconLimit 0x14 q
    else
      let b := s.beaconPacket p j reason
      (s.startFlood { src := s.cfg.endpoint, partition := p, job := j, issue := b.issue, untilClk := s.clk + s.mplClk
        }).inject q b (some j)

/-- Originate a beacon for a job and abort the job here: at most one per job in 100 µs, none for an aborted job, and
none on the wire while the clock is UNLOCKED (R388, R522, assumption log 9). -/
def State.originate (s : State) (p j reason : Nat) (status : Nat := Status.jobAborted) : State :=
  match s.job? p j with
  | none => s
  | some x =>
    let soon := match x.lastBeacon with
      | some t => decide (s.clk < t + us 100)
      | none => false
    if x.aborted then s
    else
      let s := if soon || s.mer.lock == .unlocked then s
        else (s.sendBeacon p j reason).modJob p j fun x => { x with lastBeacon := some s.clk }
      s.abortJob p j status

/-! ## Kernels -/

/-- End a flight at once, with the jobs and reductions it feeds. -/
def State.cancelFlight (s : State) (k slot status : Nat) : State :=
  ((s.cutFlight k slot status 0).stopJobs k slot).stopReductions k slot

/-- Stop a running kernel: its flights are cancelled and its descriptor completes with a status. -/
def State.killKernel (s : State) (k status detail : Nat) : State :=
  match (s.seq k).running with
  | none => s
  | some r =>
    let s := (r.flights.map fun f => f.slot).foldl (fun s slot => s.cancelFlight k slot status) s
    s.endKernel k r status detail 0

/-- The sequencer that runs a descriptor. -/
def State.runnerOf (s : State) (q : Nat) (i : W32) : Option Nat :=
  (List.range 64).find? fun k => match (s.seq k).running with
    | some r => r.queue == q && r.descIndex == i
    | none => false

/-- Cut off a descriptor whatever runs it. -/
def State.cutWork (s : State) (q : Nat) (i : W32) (status detail : Nat) : State :=
  match s.runnerOf q i with
  | some k => s.killKernel k status detail
  | none => s.cutDesc q i status detail

/-! ## Contexts -/

/-- Refuse the regions that a context registered: the entries' generations move on and they are quarantined (R122,
R124). -/
def State.endRegions (s : State) (c : Nat) (gen : BitVec 8) : State :=
  { s with regions := tblMap s.regions fun _ r =>
      if r.valid && r.context == c && r.contextGen == gen then
        { r with valid := false, gen := nextGen r.gen, quarantined := true, quarantineEnd := s.mt + s.mpl }
      else r }

/-- Drop the tiles of a context generation (R153). -/
def State.dropContextTiles (s : State) (c : Nat) (gen : BitVec 8) : State :=
  let ids := (s.tiles.filter fun r => r.2.context == c && r.2.contextGen == gen).map fun r => r.1
  ({ s with tiles := s.tiles.filter fun r => !(r.2.context == c && r.2.contextGen == gen) } : State).forgetTiles ids

/-- The descriptors of a context generation that have not completed: queue and index. -/
def State.openDescs (s : State) (c : Nat) (gen : BitVec 8) : List (Nat × W32) :=
  s.queues.flatMap fun r =>
    if r.2.context == c then
      (r.2.held.filter fun d => d.contextGen == gen && d.phase != .completed).map fun d => (r.1, d.index)
    else []

/-- The jobs of schedules of a context generation, with their partition. -/
def State.jobsOfContext (s : State) (c : Nat) (gen : BitVec 8) : List (Nat × Nat) :=
  s.parts.flatMap fun r =>
    (r.2.schedules.filter fun x => x.header.context == c && x.header.gen == gen).map fun x => (r.1, x.header.job)

/-- Bump a context's generation, with everything R262 and R411 tie to it, in one clock. -/
def State.bumpContext (s : State) (c : Nat) (detail : Nat := 0) : State :=
  let g := (s.ctx c).gen
  let kernels := (List.range 64).filter fun k => match (s.seq k).running with
    | some r => r.context == c && r.contextGen == g
    | none => false
  let jobs := s.jobsOfContext c g
  let s := kernels.foldl (fun s k => s.killKernel k Status.contextAborted detail) s
  let s := (s.openDescs c g).foldl (fun s d => s.cutDesc d.1 d.2 Status.contextAborted detail) s
  let s := s.freeSenders fun x => x.context == c && x.gen == g
  let s := (s.endRegions c g).dropContextTiles c g
  let s := jobs.foldl (fun s j => s.originate j.1 j.2 4 Status.contextAborted) s
  s.modCtx c fun x => { x with gen := x.gen + 1, nextSeq := 0, unacked := [] }

/-- Abort a context: it stays allocated at its new generation, issuing nothing (R263). -/
def State.abortContext (s : State) (c : Nat) (detail : Nat := 0) : State :=
  if (s.ctx c).state == .live then
    let g := (s.ctx c).gen
    (s.bumpContext c detail).modCtx c fun x => { x with state := .aborted, abortedGen := g }
  else s

end Sys2Proof.Machine
end

