-- ==== Sys2Proof/Machine/Kernels.lean ====
section
/-!
DEFINITION. Machine/Kernels.lean: the kernel start, the kernel steps, their completion and timeout, and the arithmetic
units' events (R33, R345, R351, R357, R363, R365, R370 to R380, R392, R431, R433). A step's command names the sequencer
whose next step it is; where the next step is another, nothing happens.
-/

namespace Sys2Proof.Machine

/-! ## KERNEL_START (R370 to R372) -/

/-- The sequencer can take a kernel: free, unreserved, not being wiped, fenced or retired (R370, R407, R516). -/
def State.seqFree (s : State) (k : Nat) : Bool :=
  let q := s.seq k
  q.running.isNone && q.reservedBy.isNone && !q.wiping && !q.retired && !s.unitDown (.sequencer k)

/-- The kernel state at the start of a descriptor (R371). -/
def startState (kernel : Nat) (image : Kernel) (queue : Nat) (x : Queue) (d : Desc) : Running :=
  { kernel, image, queue, descIndex := d.index, context := x.context, contextGen := d.contextGen, partition := x.partition
    scalars := [d.operandA, d.operandB, d.localAddr, w64 d.length, d.remote, w64 d.regionKey.toNat]
      ++ List.replicate 10 0 }

/-- KERNEL_START (R33, R370 to R372): a started descriptor takes a sequencer of its home quadrant; a unit of another
partition is wiped before its first step. -/
def execKernelStart (queue : Nat) (index : W32) (sequencer : Nat) (s : State) : Host.Outcome State Fault Refusal :=
  .next (match s.queue? queue, s.desc? queue index with
    | some x, some d =>
      if d.opcode != 7 || d.phase != .started || !x.begunBefore index then s
      else match tblGet s.kernels d.kernelId with
        | none => s.endDesc queue index Status.badObject 0
        | some image =>
          if image.partition != x.partition then s.endDesc queue index Status.badObject 0
          else if seqQuadrant sequencer = x.home ∧ sequencer < 64 ∧ s.seqFree sequencer = true then
            (s.modSeq sequencer fun q => { q with
              owned := true, partition := x.partition, kernelId := d.kernelId
              wiping := q.owned && q.partition != x.partition
              running := some { startState d.kernelId image queue x d with progressClk := s.clk } }).modDesc queue index fun d => { d with
                phase := .running }
          else s
    | _, _ => s)

/-! ## Issuing a step -/

/-- A step of this operation issues: it fails on a trig point that is not its partition's (R380), waits for room where
it is asynchronous (R373), and otherwise acts. -/
def State.issueStep (s : State) (k op sub : Nat) (act : Running → Step → State) : State :=
  match s.stepOf k op sub with
  | none => s
  | some (r, t) =>
    if !s.trigsOk r t then s.failStep k r Status.partitionScope
    else if isAsync t.op t.sub && !r.room then s
    else act r t

/-- Complete a synchronous step at once, with its sig, and let trig points start what they start (R373, R392). -/
def State.stepNow (s : State) (k : Nat) (r : Running) (t : Step) (next : Nat) : State :=
  let s' := s.stepDone k r t next
  if t.sig then s'.trigMoved else s'

/-- The first failure among checks, in order. -/
def firstStatus (l : List Nat) : Nat := (l.find? fun v => v != Status.ok).getD Status.ok

/-- The slot the next flight takes. -/
def Running.slot (r : Running) : Nat := r.nextSlot

/-! ## FETCH and SEND -/

/-- FETCH LOCAL (R373, R379): copies between two context addresses. -/
def execFetchLocal (k : Nat) (s : State) : Host.Outcome State Fault Refusal :=
  .next (s.issueStep k 1 0 fun r t =>
    let st := firstStatus [s.stepRange r t.a t.count false, s.stepRange r t.c t.count true]
    if st != Status.ok then s.failStep k r st
    else
      let s := s.fly k r t [s.segOf r.context t.a, s.segOf r.context t.c]
      if t.count = 0 then s.endFlight k r.slot Status.ok 0
      else ((s.openRange k r.slot r t.a t.count false 0).openRange k r.slot r t.c t.count true 1).progress k r.slot)

/-- Put the messages of a flight that moves data through the fabric into the sender table (R217). -/
def State.launch (s : State) (k slot op n : Nat) : State :=
  ((s.modFlight k slot fun f => { f with toSend := messagesOf op n }).feedFlight k slot (messagesOf op n)).settleFlight k slot

/-- FETCH REMOTE (R217, R372, R379): reads a global address into a context address, as READ. -/
def execFetchRemote (k : Nat) (s : State) : Host.Outcome State Fault Refusal :=
  .next (s.issueStep k 1 1 fun r t =>
    let st := firstStatus [if r.inScope t.a then Status.ok else Status.partitionScope, s.stepRange r t.c t.count true]
    if st != Status.ok then s.failStep k r st
    else
      let s := s.fly k r t [{}, s.segOf r.context t.c]
      (s.openRange k r.slot r t.c t.count true 1).launch k r.slot opReadReq t.count)

/-- A SEND of local bytes to a global address, as WRITE (R217, R250, R372, R379). -/
def State.sendStep (s : State) (k : Nat) (r : Running) (t : Step) : State :=
  let st := firstStatus [if r.inScope t.c then Status.ok else Status.partitionScope, s.stepRange r t.a t.count false]
  if st != Status.ok then s.failStep k r st
  else
    let s := s.fly k r t [s.segOf r.context t.a, {}]
    (s.openRange k r.slot r t.a t.count false 0).launch k r.slot opWrite t.count

/-- SEND WRITE (R379). -/
def execSendWrite (k : Nat) (s : State) : Host.Outcome State Fault Refusal :=
  .next (s.issueStep k 2 0 fun r t => s.sendStep k r t)

/-- SEND WRITE_FLAG (R250, R379). -/
def execSendWriteFlag (k : Nat) (s : State) : Host.Outcome State Fault Refusal :=
  .next (s.issueStep k 2 1 fun r t => s.sendStep k r t)

/-- SEND ADD64 (R379): always synchronous; the old value goes to SC[sy] with the ACK. -/
def execSendAdd64 (k : Nat) (s : State) : Host.Outcome State Fault Refusal :=
  .next (s.issueStep k 2 2 fun r t =>
    if !r.inScope t.c then s.failStep k r Status.partitionScope
    else (s.fly k r t []).launch k r.slot opAdd64 8)

/-! ## XFORM -/

/-- The graticules of a quadrant that Atlas may choose for a kernel (R363, R377). -/
def State.gratOk (s : State) (k : Nat) (r : Running) (g : Nat) : Bool :=
  s.gratFree g
    && (match r.bound with
      | some b => b == g
      | none => true)
    && (match (s.grat g).boundTo with
      | some j => j == k
      | none => true)

/-- Atlas chooses a graticule of the sequencer's quadrant first (R377). -/
def State.gratChosen (s : State) (k : Nat) (r : Running) (g : Nat) : Bool :=
  let q := seqQuadrant k
  s.gratOk k r g && (g / 2 == q || !(s.gratOk k r (2 * q) || s.gratOk k r (2 * q + 1)))

/-- The segment entry that held for an address at the step's fetch (R148). -/
def Flight.segOf (f : Flight) (a : W64) : Segment := tblGetD f.table (caSegment a) {}

/-- The status of a job record, its addresses under the segment entries of the step's fetch (R5, R147, R148, R345). -/
def State.jobStatus (s : State) (r : Running) (f : Flight) (l : List Byte) : Nat :=
  let j := parseJob l
  if jobReserved j then Status.reservedEncoding
  else if jobCondition j != 0 then Status.formatMismatch
  else firstStatus (j.ranges.map fun b =>
    s.segCheck (f.segOf b.2.1) r.context r.contextGen r.partition b.2.1 b.2.2.1 b.2.2.2)

/-- The sequencer goes on after the record of a GEMM step has been read. -/
def State.recordRead (s : State) (k slot : Nat) (t : Step) : State :=
  let next := if t.sync then SeqWait.flight slot else SeqWait.none
  s.modRun k fun x => if x.waiting == SeqWait.record slot then { x with waiting := next } else x

/-- Give a graticule its job: its buffers are opened, and it asks leave, after a wipe where the graticule comes from
another partition (R33, R352, R365). -/
def State.startJob (s : State) (k g : Nat) (r : Running) (f : Flight) (l : List Byte) : State :=
  let j := parseJob l
  let buf := fun (i : Nat) => match j.ranges.find? fun b => b.1 == i with
    | some b => f.segOf b.2.1
    | none => {}
  let half := halfRate j.aFmt j.wFmt
  let wipe := (s.grat g).owned && (s.grat g).partition != r.partition
  let job : GratJob := {
    record := j, sequencer := k, slot := f.slot, context := r.context, partition := r.partition
    checked := j.check || s.cfg.forceCheck, fpTol := s.cfg.fpTol }
  let s := s.modFlight k f.slot fun f => { f with segs := (List.range 6).map fun i => if i = 0 then f.segs.getD 0 {} else buf i }
  let s := j.ranges.foldl (fun s b => s.openSegment (f.segOf b.2.1) k f.slot r b.2.1 b.2.2.1 b.2.2.2 b.1) s
  let s := s.modGrat g fun y => { y with
    owned := true, job := some job, wiping := wipe
    boundTo := if r.image.bindGraticule then some k else y.boundTo }
  let s := if r.image.bindGraticule then s.modRun k fun x => { x with bound := some g } else s
  if wipe then s else (s.modGrat g fun y => { y with partition := r.partition }).askLeave (.graticule g half)

/-- A GEMM step whose flight exists: read its record, and start its job or end the step. -/
def State.gemm (s : State) (k g : Nat) (r : Running) (f : Flight) : State :=
  match s.localRead (.step k f.slot) r.partition (f.segs.getD 0 {}) f.step.a 0 64 0 with
  | .wait s => s
  | .fail s st => (s.recordRead k f.slot f.step).endFlight k f.slot st 0
  | .bytes l =>
    let st := s.jobStatus r f l
    if st != Status.ok then (s.recordRead k f.slot f.step).endFlight k f.slot st (jobCondition (parseJob l))
    else if s.gratChosen k r g then (s.recordRead k f.slot f.step).startJob k g r f l
    else s

/-- XFORM GEMM (R343, R345, R377, R379): the record is read and checked, and the job asks leave on graticule `g`. The
same command goes on with a record that had to be fetched, or with a job that found no graticule. -/
def execXformGemm (k g : Nat) (s : State) : Host.Outcome State Fault Refusal :=
  .next (match s.kernel? k with
    | none => s
    | some r =>
      match r.waiting with
      | .record slot => match s.flight? k slot with
        | some f => s.gemm k g r f
        | none => s
      | .none => s.issueStep k 3 0 fun r t =>
        let st := s.stepRange r t.a 64 false
        if st != Status.ok then s.failStep k r st
        else
          let s := (s.fly k r t [s.segOf r.context t.a]).modRun k fun x => { x with waiting := .record r.slot }
          let s := s.modFlight k r.slot fun f => { f with table := (s.ctx r.context).segments }
          let s := s.openRange k r.slot r t.a 64 false 0
          match s.flight? k r.slot with
          | some f => s.gemm k g r f
          | none => s
      | .flight _ => s
      | .trigGe _ _ _ _ => s
      | .time _ _ => s
      | .wordGe _ _ _ => s
      | .exit _ => s
      | .failing _ _ => s)

/-- The reduction that an XFORM REDUCE or CONVERT step asks for (R379). -/
def reductionOf (k : Nat) (r : Running) (t : Step) (convert : Bool) : Reduction :=
  let b := t.b.toNat
  { sequencer := k, slot := r.slot, context := r.context, partition := r.partition, src := t.a, dst := t.c, count := t.count
    inFmt := bits b 35 32, outFmt := bits b 39 36, mode := bits b 41 40, operation := bits b 43 42
    sr := bit b 44, saturate := bit b 45, stream := w32 (bits b 63 48), convert }

/-- The status of a reduction's encoding (R5, R357, R379). -/
def Reduction.status (x : Reduction) : Nat :=
  if reservedFmt x.inFmt || reservedFmt x.outFmt then Status.reservedEncoding
  else if x.convert then (if x.mode = 0 ∧ x.operation = 0 then Status.ok else Status.reservedEncoding)
  else if x.mode = 1 ∨ x.operation = 3 then Status.reservedEncoding
  else if !reductionFits x.mode x.operation x.inFmt x.outFmt || (x.mode == 2 && x.outFmt != 0xE) then Status.formatMismatch
  else Status.ok

/-- Issue a reduction on the unit of the sequencer's quadrant. -/
def State.reduceStep (s : State) (k : Nat) (r : Running) (t : Step) (convert : Bool) : State :=
  let x := reductionOf k r t convert
  let ni := areaBytes x.inFmt x.count
  let no := areaBytes x.outFmt x.count
  let st := firstStatus [x.status, s.stepRange r t.a ni false, s.stepRange r t.c no true,
    if convert then Status.ok else s.stepRange r t.c no false]
  if st != Status.ok then s.failStep k r st
  else
    let g := s.segOf r.context t.c
    let s := s.fly k r t [s.segOf r.context t.a, g, g]
    let s := (s.openRange k r.slot r t.a ni false 0).openRange k r.slot r t.c no true 1
    let s := if convert then s else s.openRange k r.slot r t.c no false 2
    s.queueReduction (seqQuadrant k) x

/-- XFORM REDUCE (R357, R379). -/
def execXformReduce (k : Nat) (s : State) : Host.Outcome State Fault Refusal :=
  .next (s.issueStep k 3 1 fun r t => s.reduceStep k r t false)

/-- XFORM CONVERT (R379). -/
def execXformConvert (k : Nat) (s : State) : Host.Outcome State Fault Refusal :=
  .next (s.issueStep k 3 2 fun r t => s.reduceStep k r t true)

/-! ## WAIT -/

/-- Wait in a synchronous flight for a condition. -/
def State.park (s : State) (k : Nat) (r : Running) (t : Step) (w : SeqWait) : State :=
  (s.fly k r t []).modRun k fun x => { x with waiting := w }

/-- WAIT TRIG_GE (R379). -/
def execWaitTrigGe (k : Nat) (s : State) : Host.Outcome State Fault Refusal :=
  .next (s.issueStep k 4 0 fun r t =>
    if t.a.toNat ≤ (s.trigValue (r.trigOf t)).toNat then s.stepNow k r t (r.step + 1)
    else s.park k r t (.trigGe (r.trigOf t) t.a false r.slot))

/-- WAIT TRIG_TAKE (R379). -/
def execWaitTrigTake (k : Nat) (s : State) : Host.Outcome State Fault Refusal :=
  .next (s.issueStep k 4 1 fun r t =>
    if t.a.toNat ≤ (s.trigValue (r.trigOf t)).toNat then
      ((s.modTrig (r.trigOf t) (· - t.a)).stepDone k r t (r.step + 1)).trigMoved
    else s.park k r t (.trigGe (r.trigOf t) t.a true r.slot))

/-- WAIT TIME (R379). -/
def execWaitTime (k : Nat) (s : State) : Host.Outcome State Fault Refusal :=
  .next (s.issueStep k 4 2 fun r t =>
    if t.a.toNat ≤ s.mtQ (seqQuadrant k) then s.stepNow k r t (r.step + 1) else s.park k r t (.time t.a r.slot))

/-- The placement byte at an offset lies in SRAM (R385). -/
def State.inSram (s : State) (p off : Nat) : Bool :=
  match s.placeAt p off with
  | some (_, x) => match x.legs[(off - x.offset) / 0x200000]? with
    | some l => !l.lpddr
    | none => false
  | none => false

/-- The watched word (R385). -/
def State.watched (s : State) (p off : Nat) : Nat := leNat (s.readSpace p off 8)

/-- WAIT WORD_GE (R379, R385). -/
def execWaitWordGe (k : Nat) (s : State) : Host.Outcome State Fault Refusal :=
  .next (s.issueStep k 4 3 fun r t =>
    let st := s.stepRange r t.c 8 false
    let g := s.segOf r.context t.c
    let off := segTarget g t.c
    if st != Status.ok then s.failStep k r st
    else if g.kind = 1 || !s.inSram r.partition off then s.failStep k r Status.unsupportedTarget
    else
      let c := s.spaceCheck r.partition off 8 false
      if c != Status.ok then (s.accessFault r.partition off 8 c).failStep k r c
      else if t.a.toNat ≤ s.watched r.partition off then s.stepNow k r t (r.step + 1)
      else s.park k r t (.wordGe off t.a r.slot))

/-- A wait ends: the sequencer goes on and the flight completes. -/
def State.waited (s : State) (k slot : Nat) : State :=
  (((s.modRun k fun x => { x with waiting := .none }).endFlight k slot Status.ok 0).completeFlight k slot).trigMoved

/-- WAIT_SATISFIED (R379, R385): the condition of a waiting step holds. -/
def execWaitSatisfied (k : Nat) (s : State) : Host.Outcome State Fault Refusal :=
  .next (match s.kernel? k with
    | none => s
    | some r => match r.waiting with
      | .trigGe point value take slot =>
        if !s.ownsTrig r.partition point then s.endFlight k slot Status.partitionScope 0
        else if value.toNat ≤ (s.trigValue point).toNat then
          (if take then s.modTrig point (· - value) else s).waited k slot
        else s
      | .time value slot => if value.toNat ≤ s.mtQ (seqQuadrant k) then s.waited k slot else s
      | .wordGe off value slot =>
        let c := s.spaceCheck r.partition off 8 false
        if c != Status.ok then (s.accessFault r.partition off 8 c).endFlight k slot c 0
        else if value.toNat ≤ s.watched r.partition off then s.waited k slot
        else s
      | .none => s
      | .flight _ => s
      | .record _ => s
      | .exit _ => s
      | .failing _ _ => s)

/-! ## SIGNAL -/

/-- SIGNAL TRIG_ADD (R379, R384, R392). -/
def execTrigAdd (k : Nat) (s : State) : Host.Outcome State Fault Refusal :=
  .next (s.issueStep k 5 0 fun r t =>
    ((s.modTrig (r.trigOf t) (· + t.a)).stepDone k r t (r.step + 1)).trigMoved)

/-- SIGNAL TRIG_SET (R379, R384, R392). -/
def execTrigSet (k : Nat) (s : State) : Host.Outcome State Fault Refusal :=
  .next (s.issueStep k 5 1 fun r t =>
    ((s.modTrig (r.trigOf t) fun _ => t.a).stepDone k r t (r.step + 1)).trigMoved)

/-- A flight of a kernel targets an accelerator's window (R433). -/
def Flight.targets (f : Flight) (own a : Nat) : Bool :=
  let local_ := fun (g : Segment) (x : W64) => g.kind == 2 && windowOf (segTarget g x) == a
  local_ (f.segs.getD 0 {}) f.step.a || local_ (f.segs.getD 1 {}) f.step.c
    || (f.step.op == 2 && gaEndpoint f.step.c == own && windowOf (gaOffset f.step.c) == a)
    || (f.step.op == 1 && f.step.sub == 1 && gaEndpoint f.step.a == own && windowOf (gaOffset f.step.a) == a)

/-- The host port that carries doorbells of an accelerator peer to peer (R431). -/
def State.p2pPort (s : State) (a : Nat) : Option Nat :=
  [0, 1].find? fun p => (tblGetD (s.host p).p2p a {}).enable && !(tblGetD (s.host p).p2p a {}).failed

/-- Send a doorbell to an accelerator (R327, R431). -/
def State.ringDoorbell (s : State) (a p index : Nat) (value : W64) : State :=
  match s.p2pPort a with
  | some port => s.hostSend port {
      fn := port * 256, addr := w64 ((tblGetD (s.host port).p2p a {}).base.toNat + p * 0x80000 + index * 8)
      bytes := leBytes 8 value.toNat, relaxed := false, doorbell := some a }
  | none => s.emit (.attDoorbell a p index value)

/-- Doorbells of an accelerator that took another path have not all left the device (R433). -/
def State.oldDoorbells (s : State) (a : Nat) : Bool :=
  [0, 1].any fun p => s.p2pPort a != some p &&
    ((s.host p).held ++ (s.host p).engineHeld).any fun w => w.doorbell == some a

/-- SIGNAL DOORBELL (R379, R431, R433): it waits for earlier steps of the kernel into the accelerator's window, and for
doorbells on the path before this one. -/
def execDoorbell (k : Nat) (s : State) : Host.Outcome State Fault Refusal :=
  .next (s.issueStep k 5 2 fun r t =>
    let a := bits t.b.toNat 2 0
    if !(s.accel a).partitions.getLsbD r.partition then s.failStep k r Status.partitionScope
    else if r.flights.any (fun f => f.targets s.cfg.endpoint a) || s.oldDoorbells a then s
    else (s.ringDoorbell a r.partition (bits t.b.toNat 31 16) t.a).stepNow k r t (r.step + 1))

/-! ## LOOP, PRED, SET -/

/-- The count of a LOOP step (R379). -/
def Running.loopCount (r : Running) (t : Step) : Nat :=
  let n := bits t.a.toNat 15 0
  if t.ind then max 1 (min (r.sc t.sx).toNat n) else n

/-- LOOP (R5, R379): the body runs count times; a count field of 0 is outside its encoding. -/
def execLoop (k : Nat) (s : State) : Host.Outcome State Fault Refusal :=
  .next (s.issueStep k 6 0 fun r t =>
    if bits t.a.toNat 15 0 = 0 then s.failStep k r Status.reservedEncoding
    else
    let n := tblGetD r.loops r.step (r.loopCount t - 1)
    if 0 < n then
      (s.modRun k fun x => { x with loops := tblSet x.loops r.step (n - 1) }).stepNow k r t (bits t.c.toNat 10 0)
    else (s.modRun k fun x => { x with loops := tblErase x.loops r.step }).stepNow k r t (r.step + 1))

/-- A PRED step: where its condition is false, the next a[7:0] steps are skipped (R379). -/
def State.predStep (s : State) (k : Nat) (r : Running) (t : Step) (holds : Bool) : State :=
  s.stepNow k r t (r.step + 1 + if holds then 0 else bits t.a.toNat 7 0)

/-- PRED EQ (R379). -/
def execPredEq (k : Nat) (s : State) : Host.Outcome State Fault Refusal :=
  .next (s.issueStep k 7 0 fun r t => s.predStep k r t (r.sc t.sx == t.b))

/-- PRED NE (R379). -/
def execPredNe (k : Nat) (s : State) : Host.Outcome State Fault Refusal :=
  .next (s.issueStep k 7 1 fun r t => s.predStep k r t (r.sc t.sx != t.b))

/-- PRED LT, unsigned (R379). -/
def execPredLt (k : Nat) (s : State) : Host.Outcome State Fault Refusal :=
  .next (s.issueStep k 7 2 fun r t => s.predStep k r t (decide ((r.sc t.sx).toNat < t.b.toNat)))

/-- PRED TRIG_GE (R379). -/
def execPredTrigGe (k : Nat) (s : State) : Host.Outcome State Fault Refusal :=
  .next (s.issueStep k 7 3 fun r t => s.predStep k r t (decide (t.b.toNat ≤ (s.trigValue (r.trigOf t)).toNat)))

/-- PRED FLAGS (R379). -/
def execPredFlags (k : Nat) (s : State) : Host.Outcome State Fault Refusal :=
  .next (s.issueStep k 7 4 fun r t => s.predStep k r t (r.flags.invalid || r.flags.overflow))

/-- Set a scalar and go on. -/
def State.setStep (s : State) (k : Nat) (r : Running) (t : Step) (v : W64) : State :=
  (s.modRun k fun x => x.setSc t.sy v).stepNow k r t (r.step + 1)

/-- SET MOV (R379). -/
def execMov (k : Nat) (s : State) : Host.Outcome State Fault Refusal :=
  .next (s.issueStep k 8 0 fun r t => s.setStep k r t t.a)

/-- SET ADD (R379). -/
def execSetAdd (k : Nat) (s : State) : Host.Outcome State Fault Refusal :=
  .next (s.issueStep k 8 1 fun r t => s.setStep k r t (r.sc t.sy + t.a))

/-- SET LOAD (R379). -/
def execLoad (k : Nat) (s : State) : Host.Outcome State Fault Refusal :=
  .next (s.issueStep k 8 2 fun r t =>
    let st := s.stepRange r t.a 8 false
    if st != Status.ok then s.failStep k r st
    else ((s.fly k r t [s.segOf r.context t.a, {}]).openRange k r.slot r t.a 8 false 0).progress k r.slot)

/-- SET STORE (R379). -/
def execStore (k : Nat) (s : State) : Host.Outcome State Fault Refusal :=
  .next (s.issueStep k 8 3 fun r t =>
    let st := s.stepRange r t.a 8 true
    if st != Status.ok then s.failStep k r st
    else ((s.fly k r t [{}, s.segOf r.context t.a]).openRange k r.slot r t.a 8 true 1).progress k r.slot)

/-- SET SEED (R341, R379). -/
def execSeed (k : Nat) (s : State) : Host.Outcome State Fault Refusal :=
  .next (s.issueStep k 8 4 fun r t =>
    (s.modCtx r.context fun c => { c with seed := r.sc t.sy }).stepNow k r t (r.step + 1))

/-- SET TRIG_READ (R379). -/
def execTrigRead (k : Nat) (s : State) : Host.Outcome State Fault Refusal :=
  .next (s.issueStep k 8 5 fun r t => s.setStep k r t (s.trigValue (r.trigOf t)))

/-! ## COLL and EXIT -/

/-- COLL (R388, R392, R411): starts an instance of a schedule of the partition with start_kind 0; while one runs, the
step's start is deferred to its end. -/
def execColl (k : Nat) (s : State) : Host.Outcome State Fault Refusal :=
  .next (s.issueStep k 9 0 fun r t =>
    match s.schedule? r.partition (w32 (bits t.a.toNat 31 0)) with
    | none => s.failStep k r Status.badObject
    | some c =>
      if c.header.startKind != 0 || c.released then s.failStep k r Status.badObject
      else if (match s.job? r.partition c.header.job with
          | some j => j.aborted
          | none => true) then s.failStep k r Status.jobAborted
      else
        let s := s.fly k r t []
        if c.running.isSome then s.deferCall r.partition c.header.id (k, r.slot)
        else s.startInstance r.partition c (s.mtQ (seqQuadrant k)) (some (k, r.slot)))

/-- EXIT (R376): the kernel ends once every flight has completed. -/
def execExit (k : Nat) (s : State) : Host.Outcome State Fault Refusal :=
  .next (s.issueStep k 0xF 0 fun r t =>
    let s' := s.modRun k fun x => { x with waiting := .exit (r.sc t.sx) }
    ((if t.sig then s'.modTrig (r.trigOf t) (· + 1) else s').checkEnd k).trigMoved)

/-! ## Completion and timeout -/

/-- STEP_COMPLETE (R373 to R376): work of a flight has ended; it completes. A flight that copies locally tries again. -/
def execStepComplete (k slot : Nat) (s : State) : Host.Outcome State Fault Refusal :=
  .next (((s.progress k slot).completeFlight k slot).trigMoved)

/-- The schedule that a COLL flight started, or whose start it waits for. -/
def State.collOf (s : State) (k slot : Nat) : Option (Nat × Schedule) :=
  s.runningSchedules.find? fun r => r.2.callers.contains (k, slot) || match r.2.running with
    | some x => x.coll == some (k, slot)
    | none => false

/-- STEP_TIMEOUT (R374, R388): a step has not completed within its timeout: its work is cancelled and it fails; a COLL
step raises a beacon for its job. -/
def execStepTimeout (k slot : Nat) (s : State) : Host.Outcome State Fault Refusal :=
  .next (match s.flight? k slot with
    | none => s
    | some f =>
      if f.step.timeout ≠ 0 ∧ f.issuedClk + us f.step.timeout ≤ s.clk ∧ f.ended = none then
        let owner := s.collOf k slot
        let s := (s.cancelFlight k slot Status.stepTimeout).modSeq k fun q => { q with timeouts := min 0xFFFF (q.timeouts + 1) }
        let s := match owner with
          | some (p, c) => s.originate p c.header.job 3
          | none => s
        s.completeFlight k slot
      else s)

/-! ## The arithmetic units -/

/-- GRATICULE_JOB_END (R349 to R351, R361 to R363, R402): the vectors of a granted job have streamed, or those of the jobs
that score tokens; `checkFailed` is a vector that a fault of the array strikes. -/
def execGraticuleJobEnd (g : Nat) (checkFailed : Option Nat) (s : State) : Host.Outcome State Fault Refusal :=
  .next (match (s.grat g).job with
    | none => s.scoresEnd g
    | some x =>
      match s.jobFlight x with
      | none => s.stopJobs x.sequencer x.slot
      | some (_, f) =>
        let cls := (pairClass x.record.aFmt x.record.wFmt).getD .full
        if !x.running || x.failedVector.isSome || decide (s.clk < x.grantedClk + jobClocks cls x.record + (s.power.withheld - x.withheld)) then s
        else match s.jobData x f with
          | none => s
          | some (.error (s, st)) => s.endJob g x st
          | some (.ok d) =>
            match s.streamJob g d checkFailed (x.record.m + 1) with
            | .wait s => s
            | .done s => match (s.grat g).job with
              | some x => s.endJob g x Status.ok
              | none => s
            | .fail s st => match (s.grat g).job with
              | some x => s.endJob g x st
              | none => s
            | .check s v =>
              match (s.grat g).job with
              | none => s
              | some x =>
                if s.cfg.retry then s.modGrat g fun y => { y with job := some { x with failedVector := some v } }
                else s.failJob g x)

/-- CHECK_REPEAT (R363): the failed vector has run again on reloaded weights. -/
def execCheckRepeat (g : Nat) (passed : Bool) (s : State) : Host.Outcome State Fault Refusal :=
  .next (match (s.grat g).job with
    | none => s
    | some x =>
      match x.failedVector, s.jobFlight x with
      | some v, some (_, f) =>
        (match s.jobData x f, s.jobVector x f v with
        | some (.ok d), .inr a =>
          let w := runVector d a
          if passed && w.check != .fail then
            match s.takeVector g x f d v w with
            | (.done s, fl) => (s.countFor x.partition Count.grtRetryOk true).modGrat g fun y => { y with
                retryOk := min 0xFF (y.retryOk + 1)
                job := y.job.map fun z => { z with next := v + 1, flags := z.flags.or fl, failedVector := none } }
            | (.wait s, _) => s
            | (.fail s st, _) => s.endJob g x st
          else s.failJob g x
        | some (.error (s, st)), _ => s.endJob g x st
        | _, .inl (.fail s st) => s.endJob g x st
        | _, _ => s)
      | _, _ => s)

/-- GRATICULE_SELF_TEST_END (R363): the self-test of a suspect graticule has run under its leave. -/
def execGraticuleSelfTestEnd (g : Nat) (passed : Bool) (s : State) : Host.Outcome State Fault Refusal :=
  .next (if (s.grat g).suspect && s.power.holders.any fun l => l.purpose == .selfTest g then
      let s := (s.endLeave (.selfTest g)).modGrat g fun y => { y with suspect := false, retired := y.retired || !passed }
      if passed then s else s.alarmRecord 2 { unit := 0x13, unitIndex := g, severity := 2 }
    else s)

/-- WIPE_COMPLETE (R33, R365): every cell of the unit reads zero, and its next partition's work begins. -/
def execWipeComplete (unit : UnitId) (s : State) : Host.Outcome State Fault Refusal :=
  .next (match unit with
    | .graticule g =>
      let y := s.grat g
      if y.wiping then
        match y.job with
        | some x => (s.modGrat g fun y => { y with
            wiping := false, rows := [], spoiled := [], bank := false, partition := x.partition, owned := true }).askLeave
              (.graticule g (halfRate x.record.aFmt x.record.wFmt))
        | none => (s.modGrat g fun y => { y with wiping := false, rows := [], spoiled := [], bank := false }).scoreLeave g
      else s
    | .reduction u =>
      let y := s.red u
      if y.wiping then
        (s.modRed u fun y => { y with wiping := false, exactStore := [], holds := none }).wipeHead u
      else s
    | .sequencer k => if (s.seq k).wiping then (s.modSeq k fun q => { q with wiping := false }).pumpAll else s
    | .transport _ => s
    | .receive _ => s
    | .copier _ => s
    | .sram _ => s
    | .lpddr _ => s
    | .governor => s)

/-- REDUCTION_END (R357 to R360): the unit's first reduction has taken all its elements. -/
def execReductionEnd (u : Nat) (s : State) : Host.Outcome State Fault Refusal :=
  .next (if (s.red u).wiping || s.unitDown (.reduction u) then s else s.runReduction u)

end Sys2Proof.Machine
end

