-- ==== Sys2Proof/Machine/Bound.lean ====
section
/-!
DEFINITION. Machine/Bound.lean: queue pairs and NVMe controllers as requesters, and the descriptors of the queues bound to
them (R266, R457 to R469).
-/

namespace Sys2Proof.Machine

/-! ## Queue pairs: requesting (R458 to R463) -/

/-- Packets, and so sequence numbers, that a request of `n` bytes takes. -/
def QueuePair.span (q : QueuePair) (op n : Nat) : Nat := if isAtomic op then 1 else max 1 ((n + q.bytes - 1) / q.bytes)

/-- The length of packet `k` of `n` bytes. -/
def QueuePair.part (q : QueuePair) (n k : Nat) : Nat := min q.bytes (n - k * q.bytes)

/-- Form the packets of a request that are not yet acknowledged, with `b` the bytes of a WRITE; the local ACK timer starts
again (R266, R459). -/
def State.sendRdma (s : State) (qp : Nat) (q : QueuePair) (d : Desc) (r : QpRequest) (b : List Byte) : State :=
  let psn := (r.psn + r.acked) % 2 ^ 24
  let at_ := d.remote + w64 (r.offset + r.acked * q.bytes)
  let key := w64 d.regionKey.toNat
  let s := s.modQp qp fun q => { q with cc := { q.cc with lastUse := s.clk } }
  if r.opcode = 1 then
    ((List.range (q.span 1 r.length)).drop r.acked).foldl (fun s k =>
      let part := slice b (k * q.bytes) (q.part r.length k)
      let head := if k = 0 then [d.remote + w64 r.offset, key, w64 r.length] else []
      s.queueFrame (q.frame qp false 1 ((r.psn + k) % 2 ^ 24) (8 * head.length + (part.length + 3) / 4 * 4)
        (head ++ w64 part.length :: bytesWords ((part.length + 7) / 8) part))) s
  else if r.opcode = 2 then s.queueFrame (q.frame qp false 2 psn 16 [at_, key, w64 (r.length - r.acked * q.bytes)])
  else s.queueFrame (q.frame qp false (if r.opcode = 3 then 3 else 4) psn 28 [at_, key, d.operandA, d.operandB])

/-- Reads and atomics outstanding. -/
def QueuePair.readsOut (q : QueuePair) : Nat := (q.requests.filter fun r => r.opcode != 1).length

/-- Response space a READ request reserves (R261, R460). -/
def rdmaReserve (op n : Nat) : Nat := if op = 2 then packetsOf n * 4160 else 0

/-- A queue pair can take another request: its frames have left, it is not waiting after an RNR NAK, a READ or atomic is
within the 16, the response pool of the port's quadrant has room, and its class may begin a message (R261, R279, R458,
R460, R461). -/
def State.qpReady (s : State) (qp : Nat) (q : QueuePair) (d : Desc) (len : Nat) : Bool :=
  !q.error && q.rnrUntil.isNone && !s.qpWaiting q.port qp && (d.opcode == 1 || decide (q.readsOut < 16))
    && decide ((s.quad (q.port / 8)).reserved + rdmaReserve d.opcode len ≤ responsePool)
    && (s.port q.port).weight q.partition q.tc != 0

/-- Issue the next request of a descriptor. -/
def State.issueRdma (s : State) (qn qp : Nat) (x : Queue) (i : W32) : State :=
  match tblGet s.qps qp, s.desc? qn i with
  | some q, some d =>
    (match d.toSend with
    | [] => s
    | (off, len) :: rest =>
      if !s.qpReady qp q d len then s
      else
        let got := if d.opcode != 1 then Got.bytes []
          else if d.inline then .bytes (slice d.inlineData off len)
          else s.localRead (.desc qn i) x.partition d.seg d.localAddr off len
        match got with
        | .wait s => s
        | .fail s st => s.cutDesc qn i st 0
        | .bytes b =>
          let n := rdmaReserve d.opcode len
          let r : QpRequest := { psn := q.sendPsn, index := i, opcode := d.opcode, offset := off, length := len }
          let s := s.modQuad (q.port / 8) fun y => { y with reserved := y.reserved + n }
          let s := s.modQp qp fun q => { q with
            requests := q.requests ++ [r], reserved := q.reserved + n
            sendPsn := (q.sendPsn + q.span d.opcode len) % 2 ^ 24 }
          (s.sendRdma qp q d r b).modDesc qn i fun d => { d with toSend := rest })
  | _, _ => s

/-- Release response space of a queue pair. -/
def State.releaseRdma (s : State) (qp port n : Nat) : State :=
  (s.modQp qp fun q => { q with reserved := q.reserved - n }).modQuad (port / 8) fun y => { y with reserved := y.reserved - n }

/-- Form outstanding requests again, in order, as far as their bytes can be read. -/
def State.resendFrom (s : State) (qp : Nat) (q : QueuePair) : List QpRequest → State
  | [] => s
  | r :: l =>
    match s.queue? q.queue, s.desc? q.queue r.index with
    | some x, some d =>
      let got := if r.opcode != 1 then Got.bytes []
        else if d.inline then .bytes (slice d.inlineData r.offset r.length)
        else s.localRead (.desc q.queue r.index) x.partition d.seg d.localAddr r.offset r.length
      (match got with
      | .bytes b => (s.sendRdma qp q d r b).resendFrom qp q l
      | .wait s => s
      | .fail s _ => s)
    | _, _ => s.resendFrom qp q l

/-- Go back to the first packet not acknowledged (R266). -/
def State.resendRdma (s : State) (qp : Nat) : State :=
  match tblGet s.qps qp with
  | none => s
  | some q =>
    ((s.dropQpFrames q.port qp).modQp qp fun q => { q with rnrUntil := none }).resendFrom qp q q.requests

/-! ## Controllers (R464 to R469) -/

/-- Change a controller. -/
def State.modCtl (s : State) (c : Nat) (g : Controller → Controller) : State :=
  match tblGet s.controllers c with
  | some x => { s with controllers := tblSet s.controllers c (g x) }
  | none => s

/-- The storage key of a namespace (R469, R485, R486): purpose 4, key_id as the generation, the NSID as the context. -/
def State.storageKey (s : State) (p keyId nsid : Nat) : List Byte := workKey (s.part p).root p 4 keyId nsid 64

/-- Sectors through the cipher (R469). -/
def sectorCipher (decrypt : Bool) (key : List Byte) (size lba : Nat) (l : List Byte) : List Byte :=
  (List.range (l.length / size)).flatMap fun i => xts decrypt key (lba + i) (slice l (i * size) size)

/-- Cut a transfer into commands of at most `most` bytes: byte offset and length (R464, R467). -/
def nvmeCommands (most n : Nat) : List (Nat × Nat) :=
  if n = 0 then [(0, 0)] else (List.range ((n + most - 1) / most)).map fun i => (i * most, min most (n - i * most))

/-- The NVMe opcode of a descriptor: Flush, Write, Read. -/
def nvmeOp (op : Nat) : Nat := if op = 1 then 1 else if op = 2 then 2 else 0

/-- Data bytes in one frame of a controller: the rest of the largest frame is headers (assumption log 11). -/
def EthPort.segment (x : EthPort) : Nat := x.maxFrame - 200

/-- Form one command, and the frames of the data it writes. -/
def State.sendNvme (s : State) (c : Nat) (x : Controller) (k : NvmeCmd) (lba : Nat) (b : List Byte) : State :=
  let s := s.modCtl c fun y => { y with commands := y.commands ++ [k], nextCommand := (y.nextCommand + 1) % 65536 }
  let s := s.queueFrame (x.frame c k.opcode 100 [w64 k.id, w64 k.nsid, w64 lba, w64 (k.length / x.sector)])
  let m := (s.port x.port).eth.segment
  (List.range ((b.length + m - 1) / m)).foldl (fun s i =>
    let part := slice b (i * m) (min m (b.length - i * m))
    s.queueFrame (x.frame c 0xFE (60 + part.length)
      ([w64 k.id, w64 (i * m), w64 part.length] ++ bytesWords ((part.length + 7) / 8) part))) s

/-- A command of the controller can be formed: one more can be outstanding, its frames have left, and its class may begin a
message (R279, R464). -/
def State.ctlReady (s : State) (c : Nat) (x : Controller) : Bool :=
  !x.failed && decide (x.commands.length < x.ioQueues * x.depth) && !s.ctlWaiting x.port c
    && (s.port x.port).weight x.partition x.tc != 0

/-- Issue the next command of a descriptor: Identify Namespace first (R466). -/
def State.issueNvme (s : State) (qn c : Nat) (q : Queue) (i : W32) : State :=
  match tblGet s.controllers c, s.desc? qn i with
  | some x, some d =>
    let nsid := bits d.remote.toNat 63 48
    (match d.toSend with
    | [] => s
    | (off, len) :: rest =>
      if !s.ctlReady c x || x.commands.any fun k => k.opcode == 6 && k.nsid == nsid then s
      else if !x.namespaces.contains nsid then s.sendNvme c x { id := x.nextCommand, index := i, opcode := 6, nsid } 0 []
      else
        let lba := (bits d.remote.toNat 47 0 + off) / x.sector
        let got := if d.opcode != 1 then Got.bytes []
          else if d.inline then .bytes (slice d.inlineData off len)
          else s.localRead (.desc qn i) q.partition d.seg d.localAddr off len
        match got with
        | .wait s => s
        | .fail s st => s.cutDesc qn i st 0
        | .bytes b =>
          let b := sectorCipher false (s.storageKey q.partition x.keyId nsid) x.sector lba b
          let k : NvmeCmd := { id := x.nextCommand, index := i, opcode := nvmeOp d.opcode, nsid, offset := off, length := len }
          (s.sendNvme c x k lba b).modDesc qn i fun d => { d with toSend := rest })
  | _, _ => s

/-! ## Descriptors of a bound queue -/

/-- Requests or commands of a descriptor are outstanding. -/
def State.boundOut (s : State) (x : Queue) (i : W32) : Bool :=
  match x.bound with
  | .none => false
  | .queuePair qp => match tblGet s.qps qp with
    | some q => q.requests.any fun r => r.index == i
    | none => false
  | .controller c => match tblGet s.controllers c with
    | some x => x.commands.any fun k => k.index == i
    | none => false

/-- A bound descriptor completes when nothing of it is left. -/
def State.settleBound (s : State) (qn : Nat) (i : W32) : State :=
  match s.queue? qn, s.desc? qn i with
  | some x, some d =>
    if d.phase == .running && d.toSend.isEmpty && !s.boundOut x i && s.storesDone (.desc qn i) then
      (s.endTiles (.desc qn i)).modDesc qn i fun d => { d with phase := .completed }
    else s
  | _, _ => s

/-- The running descriptors of a queue that have something to send, in order. -/
def Queue.unsent (x : Queue) : List W32 :=
  (x.held.filter fun d => d.phase == .running && !d.toSend.isEmpty).map fun d => d.index

/-- A bound queue issues what it can: a queue pair in the order of its descriptors, after what an RNR NAK has delayed (R460,
R466). -/
def State.pumpBound (s : State) (qn : Nat) : State :=
  match s.queue? qn with
  | none => s
  | some x => match x.bound with
    | .none => s
    | .queuePair qp =>
      let due := match tblGet s.qps qp with
        | some q => q.rnrUntil.any fun t => decide (t ≤ s.clk)
        | none => false
      if due then s.resendRdma qp
      else match x.unsent with
        | i :: _ => s.issueRdma qn qp x i
        | [] => s
    | .controller c => x.unsent.foldl (fun s i => s.issueNvme qn c x i) s

/-- Queues bound to a queue pair or a controller. -/
def State.boundQueues (s : State) : List Nat := (s.queues.filter fun r => r.2.bound != .none).map fun r => r.1

/-- Start, or go on with, a descriptor of a bound queue. -/
def State.startBound (s : State) (qn : Nat) (x : Queue) (d : Desc) : State :=
  let op := if d.opcode = 2 then opReadReq else opWrite
  let l := match x.bound with
    | .controller c => nvmeCommands (tblGetD s.controllers c {}).maxData (if d.opcode = 0 then 0 else d.length)
    | .queuePair _ => if isAtomic d.opcode then [(0, 8)] else messagesOf op d.length
    | .none => []
  let s := if d.phase == .started then
      let s := s.modDesc qn d.index fun d => { d with phase := .running, toSend := l }
      if d.opcode == 1 && !d.inline && d.seg.kind != 1 then s.startFetch (.desc qn d.index) x.home x.context x.partition d.seg d.localAddr d.length else s
    else s
  s.pumpBound qn

/-- The queue enters ERROR by its binding, and its other accepted descriptors are flushed (R463, R468). -/
def State.flushBound (s : State) (qn : Nat) (queueStatus flushStatus : Nat) : State :=
  match s.queue? qn with
  | none => s
  | some x =>
    let s := ((x.held.filter fun d => d.phase != .completed).map fun d => d.index).foldl
      (fun s i => s.cutDesc qn i flushStatus 0) s
    s.modQueue qn fun x => settle { x with errorStatus := queueStatus, refetchAt := none, refetches := 0, kept := [] }

/-- A queue pair enters its error state, the descriptor concerned completing with a status (R463). -/
def State.failQp (s : State) (qp : Nat) (concerned : Option W32) (status detail : Nat) : State :=
  match tblGet s.qps qp with
  | none => s
  | some q =>
    let s := match concerned with
      | some i => s.cutDesc q.queue i status detail
      | none => s
    let s := ((s.releaseRdma qp q.port q.reserved).dropQpFrames q.port qp).modQp qp fun q => { q with
      error := true, requests := [], held := [], rnrUntil := none }
    s.flushBound q.queue status Status.qpFlushed

/-- A controller's association is lost (R468). -/
def State.failController (s : State) (c : Nat) : State :=
  match tblGet s.controllers c with
  | none => s
  | some x =>
    (s.modCtl c fun x => { x with failed := true, commands := [], held := [] }).flushBound x.queue Status.nvmePathLost Status.nvmePathLost

/-! ## Answers to requests (R266, R460, R463) -/

/-- One request of a queue pair is done: its bytes count, its response space is released. -/
def State.rdmaDone (s : State) (qp : Nat) (q : QueuePair) (r : QpRequest) : State :=
  let s := (s.releaseRdma qp q.port (rdmaReserve r.opcode r.length)).modQp qp fun q => { q with
    requests := q.requests.filter (fun y => y.psn != r.psn), retriesLeft := q.retries, rnrLeft := q.rnrRetries
    cc := { q.cc with lastUse := s.clk } }
  (s.modDesc q.queue r.index fun d => { d with
    bytesDone := d.bytesDone + if isAtomic d.opcode then 0 else r.length }).settleBound q.queue r.index

/-- `n` packets of a request are acknowledged or received: retries are counted afresh. -/
def State.rdmaProgress (s : State) (qp : Nat) (r : QpRequest) (n : Nat) : State :=
  s.modQp qp fun q => { q with
    requests := q.requests.map (fun y => if y.psn == r.psn then { y with acked := max y.acked n } else y)
    retriesLeft := q.retries, rnrLeft := q.rnrRetries, cc := { q.cc with lastUse := s.clk } }

/-- How far a PSN stands behind the first of a request. -/
def QpRequest.behind (r : QpRequest) (psn : Nat) : Nat := (psn + 2 ^ 24 - r.psn) % 2 ^ 24

/-- A PSN is one of a request's. -/
def QueuePair.covers (q : QueuePair) (r : QpRequest) (psn : Nat) : Bool := decide (r.behind psn < q.span r.opcode r.length)

/-- The requests that stand before a PSN are acknowledged, up to the first READ or atomic; of the one that holds it, the
packets before it. -/
def State.ackBefore (s : State) (qp psn : Nat) : State :=
  match tblGet s.qps qp with
  | none => s
  | some q =>
    let s := ((q.requests.takeWhile fun r => !q.covers r psn).takeWhile fun r => r.opcode == 1).foldl
      (fun s r => if r.behind psn < 2 ^ 23 then s.rdmaDone qp q r else s) s
    match (q.requests.find? fun r => q.covers r psn) with
    | some r => if r.opcode = 1 then s.rdmaProgress qp r (r.behind psn) else s
    | none => s

/-- A packet of read data commits; false where it cannot land yet. -/
def State.rdmaReadData (s : State) (qp : Nat) (q : QueuePair) (r : QpRequest) (k : Nat) (data : List Byte) : State × Bool :=
  match s.queue? q.queue, s.desc? q.queue r.index with
  | some x, some d =>
    if k ≠ r.acked ∨ data.length ≠ q.part r.length k then (s, true)
    else match s.localWrite (.desc q.queue r.index) x.partition d.seg d.localAddr (r.offset + k * q.bytes) data with
      | .done s => (if k + 1 = q.span 2 r.length then s.rdmaDone qp q r else s.rdmaProgress qp r (k + 1), true)
      | .wait s => (s, false)
      | .fail s st => ((s.cutDesc q.queue r.index st 0).rdmaDone qp q r, true)
  | _, _ => (s.rdmaDone qp q r, true)

/-- One answer of a queue pair is applied; false where its data cannot land yet. It acknowledges the WRITEs before it. -/
def State.qpAnswer (s : State) (qp psn : Nat) (data : List Byte) (old : W64) : State × Bool :=
  match tblGet s.qps qp with
  | none => (s, true)
  | some q =>
    let before := q.requests.takeWhile fun r => !q.covers r psn
    match q.requests.find? fun r => q.covers r psn with
    | none => (s, true)
    | some r =>
      if q.error || before.any (fun b => b.opcode != 1) then (s, true)
      else
        let s := before.foldl (fun s b => s.rdmaDone qp q b) s
        let k := r.behind psn
        if r.opcode = 2 then s.rdmaReadData qp q r k data
        else if r.opcode = 1 then
          (if k + 1 = q.span 1 r.length then s.rdmaDone qp q r else s.rdmaProgress qp r (k + 1), true)
        else ((s.modDesc q.queue r.index fun d => { d with result := old }).rdmaDone qp q r, true)

/-- Apply the answers that a queue pair holds, in order, as far as their data can land. -/
def State.answerHeld (s : State) (qp : Nat) : Nat → State
  | 0 => s
  | n + 1 => match tblGet s.qps qp with
    | none => s
    | some q => match q.held with
      | [] => s
      | (psn, data, old) :: _ =>
        match s.qpAnswer qp psn data old with
        | (s, true) => (s.modQp qp fun q => { q with held := q.held.drop 1 }).answerHeld qp n
        | (s, false) => s

end Sys2Proof.Machine
end

