-- ==== Sys2Proof/Machine/Descriptors.lean ====
section
/-!
DEFINITION. Machine/Descriptors.lean: what the descriptors of a send queue do once they have started, and how they
complete (R189 to R197, R204, R217, R245, R460, R466). A command acts on a started descriptor of its opcode.
-/

namespace Sys2Proof.Machine

/-- A started descriptor of an opcode with its queue, whose turn it is; a bound one may also be running with work to
issue. -/
def State.startedDesc (s : State) (q : Nat) (i : W32) (op : Nat) : Option (Queue × Desc) :=
  match s.queue? q, s.desc? q i with
  | some x, some d =>
    if d.opcode == op && x.begunBefore i && (d.phase == .started || (d.phase == .running && x.bound != .none)) then some (x, d) else none
  | _, _ => none

/-- The messages of a descriptor that its local source has not ended at once (R245). -/
def State.feedRunning (s : State) (q : Nat) (i : W32) (l : List (Nat × Nat)) : State :=
  match s.desc? q i with
  | some d => if d.phase == .running then s.feedDesc q i l else s
  | none => s

/-- Form the messages of a descriptor on the native transport (R217, R246). -/
def State.startNative (s : State) (q : Nat) (x : Queue) (d : Desc) (l : List (Nat × Nat)) : State :=
  let s := s.modDesc q d.index fun d => { d with phase := .running, toSend := l }
  let s := if d.opcode == 1 && !d.inline && d.seg.kind != 1 then
      s.startFetch (.desc q d.index) x.home x.context x.partition d.seg d.localAddr d.length
    else s
  s.feedRunning q d.index l

/-- Start a WRITE or a READ. -/
def State.startTransfer (s : State) (q : Nat) (i : W32) (op wire : Nat) : State :=
  match s.startedDesc q i op with
  | none => s
  | some (x, d) =>
    if x.bound != .none then s.startBound q x d else s.startNative q x d (messagesOf wire d.length)

/-- NOP (R189): completes when it starts; on a controller it issues Flush (R466). -/
def execNop (queue : Nat) (index : W32) (s : State) : Host.Outcome State Fault Refusal :=
  .next (match s.startedDesc queue index 0 with
    | none => s
    | some (x, d) => match x.bound with
      | .controller _ => s.startBound queue x d
      | .none => s.endDesc queue index Status.ok 0
      | .queuePair _ => s.endDesc queue index Status.ok 0)

/-- WRITE (R189, R217, R460, R466). -/
def execWrite (queue : Nat) (index : W32) (s : State) : Host.Outcome State Fault Refusal :=
  .next (s.startTransfer queue index 1 opWrite)

/-- READ (R189, R217, R460, R466). -/
def execRead (queue : Nat) (index : W32) (s : State) : Host.Outcome State Fault Refusal :=
  .next (s.startTransfer queue index 2 opReadReq)

/-- Start an atomic: a version 1 descriptor first reads its operand block of 16 B (R191, R254). -/
def State.startAtomic (s : State) (q : Nat) (i : W32) (op : Nat) : State :=
  match s.startedDesc q i op with
  | none => s
  | some (x, d) =>
    let go := fun (s : State) (d : Desc) =>
      if x.bound != .none then s.startBound q x d else s.startNative q x d [(0, d.length)]
    if x.version != 1 || d.phase != .started then go s d
    else match s.localRead (.desc q i) x.partition d.seg d.localAddr 0 16 with
      | .fail s st => s.cutDesc q i st 0
      | .wait s =>
        -- host bytes come with the tiles of acceptance; an accelerator's are asked for once
        if d.seg.kind != 1 && !s.accels.any fun r => r.2.requests.any fun y => attOwner y.purpose == some (.desc q i) then
          s.startFetch (.desc q i) x.home x.context x.partition d.seg d.localAddr 16
        else s
      | .bytes b =>
        let d := { d with operandA := w64 (field b 0 8), operandB := w64 (field b 8 8) }
        go (s.modDesc q i fun y => { y with operandA := d.operandA, operandB := d.operandB }) d

/-- ADD64 (R189, R254). -/
def execAdd64 (queue : Nat) (index : W32) (s : State) : Host.Outcome State Fault Refusal :=
  .next (s.startAtomic queue index 3)

/-- ADD32 (R189, R254). -/
def execAdd32 (queue : Nat) (index : W32) (s : State) : Host.Outcome State Fault Refusal :=
  .next (s.startAtomic queue index 4)

/-- CAS64 (R189, R254). -/
def execCas64 (queue : Nat) (index : W32) (s : State) : Host.Outcome State Fault Refusal :=
  .next (s.startAtomic queue index 5)

/-- CAS32 (R189, R254). -/
def execCas32 (queue : Nat) (index : W32) (s : State) : Host.Outcome State Fault Refusal :=
  .next (s.startAtomic queue index 6)

/-! ## Reads and waits that lose their owner -/

/-- Host reads that a test picks work for nobody any more: their completions are discarded. -/
def State.orphanReads (s : State) (pick : ReadUse → Bool) : State :=
  [0, 1].foldl (fun s p => s.modHost p fun h => { h with
    reads := h.reads.map fun r => if pick r.purpose then { r with purpose := .discard } else r }) s

/-- The reads of a queue's slots; a flush read belongs to its entry, which is written though the queue is gone (R204). -/
def readsOfQueue (q : Nat) : ReadUse → Bool
  | .slots x _ _ => x == q
  | .flush _ _ => false
  | .tile _ _ _ => false
  | .responder _ _ _ => false
  | .probe _ => false
  | .discard => false

/-- The wait of a QUEUE_DESTROY of a queue. -/
def waitsForQueue (q : Nat) : Wait → Bool
  | .queueDrain x _ => x == q
  | .regionRevoke _ => false
  | .sealedState _ _ _ => false
  | .scheduleEnd _ _ => false
  | .answered _ _ _ => false

/-- A queue is gone: entries it has formed no longer retire anything. -/
def State.dropQueue (s : State) (q : Nat) : State :=
  let free := fun (e : Entry) => if e.queue == q then { e with owned := false } else e
  let freeHeld := fun (f : Flush) => { f with entry := free f.entry }
  let s := { s with
    queues := tblErase s.queues q
    rings := tblMap s.rings fun _ r => { r with
      waiting := r.waiting.map free, flushing := r.flushing.map freeHeld } }
  s.orphanReads (readsOfQueue q)

/-- A QUEUE_DESTROY whose queue holds nothing more completes, and the queue is gone (R63). -/
def State.drainDone (s : State) (q : Nat) : State :=
  match s.queue? q with
  | none => s
  | some x =>
    if x.state == .draining && x.held.all (fun d => d.phase == .completed && s.entryFormed q d.index) then
      (s.dropQueue q).releaseWaits (waitsForQueue q) Status.ok 0 [0]
    else s

/-- DESCRIPTOR_COMPLETE (R196, R204, R205, R245): an ended descriptor forms its entry or is retired without one. -/
def execDescriptorComplete (queue : Nat) (index : W32) (s : State) : Host.Outcome State Fault Refusal :=
  .next (match s.desc? queue index with
    | none => s
    | some d =>
      if d.phase == .completed && !s.entryFormed queue index then (s.formEntry queue index).drainDone queue else s)

end Sys2Proof.Machine
end

