-- ==== Sys2Proof/Machine/Ethernet.lean ====
section
/-!
DEFINITION. Machine/Ethernet.lean: the commands of Ethernet ports, queue pairs and NVMe controllers (R443 to R448,
R453 to R470).
-/

namespace Sys2Proof.Machine

/-! ## Frames -/

/-- The 512 KiB receive buffer (R445). -/
def rxBuffer : Nat := 524288

/-- The anti-replay window (R457). -/
def replayWindow : Nat := 1024

/-- The ESP of a received packet fits its object: none where the object is not protected; else its SPI is the inbound one,
it is authentic, and its sequence number is new (R457). -/
def State.espFits (s : State) (p : Nat) (v6 protect : Bool) (ip : List Byte) (e : Option EspHead) : Bool :=
  match protect, e with
  | false, none => true
  | true, some h => match (s.part p).sa? ip (b2n v6) with
    | some a => h.authentic && h.spi == a.inSpi && h.sequence != 0 && decide (a.inHigh < h.sequence + replayWindow)
        && !a.inSeen.contains h.sequence
    | none => false
  | false, some _ => false
  | true, none => false

/-- The sequence number of an accepted ESP packet is noted. -/
def State.espNote (s : State) (p : Nat) (v6 : Bool) (ip : List Byte) (e : Option EspHead) : State :=
  match e with
  | none => s
  | some h => s.modSa p ip (b2n v6) fun a =>
    let high := max a.inHigh h.sequence
    { a with inHigh := high, inSeen := (h.sequence :: a.inSeen).filter fun n => decide (high < n + replayWindow) }

/-- The frame is one of R444's for the port, with the VLAN ID of its object (R447) and ESP where the object is
protected (R457). -/
def State.frameWanted (s : State) (port : Nat) (f : Frame) : Bool :=
  f.forPort && match f.kind with
    | .roce qp _ => match tblGet s.qps qp with
      | some q => q.port == port && q.vid == f.vid && s.espFits q.partition q.v6 q.protect q.ip f.esp
      | none => false
    | .nvme c tcp => match tblGet s.controllers c with
      | some x => x.port == port && x.vid == f.vid && x.tcp == tcp && s.espFits x.partition x.v6 x.protect x.ip f.esp
      | none => false
    | .ptp => f.esp.isNone
    | .arpOrNd => f.esp.isNone
    | .none => false

/-- The ESP of an accepted frame is noted in its association. -/
def State.noteFrame (s : State) (f : Frame) : State :=
  match f.kind with
  | .roce qp _ => match tblGet s.qps qp with
    | some q => s.espNote q.partition q.v6 q.ip f.esp
    | none => s
  | .nvme c _ => match tblGet s.controllers c with
    | some x => s.espNote x.partition x.v6 x.ip f.esp
    | none => s
  | .ptp => s
  | .arpOrNd => s
  | .none => s

/-- FRAME_RECEIVE (R444, R445, R447, R457): a frame enters the receive buffer whole, or is dropped whole and counted. -/
def execFrameReceive (port : Nat) (frame : Frame) (s : State) : Host.Outcome State Fault Refusal :=
  let x := (s.port port).eth
  .next (
    if !s.isEth port then s
    else if (x.buffer.map fun f => f.length).sum + x.maxFrame > rxBuffer then s.ethCount port 4 1
    else if !frame.fcsOk then s.ethCount port 2 1
    else if frame.length < 64 ∨ x.maxFrame < frame.length then s.ethCount port 3 1
    else if !s.frameWanted port frame then s.ethCount port 5 1
    else (((s.noteFrame frame).modPort port fun y => { y with eth := { y.eth with
      buffer := y.eth.buffer ++ [frame] } }).ethCount port 0 1).ethCount port 1 frame.length)

/-- A CNP for a packet received with CE, at most one per queue pair in 50 µs (R462). -/
def State.sendCnp (s : State) (qp : Nat) : State :=
  match tblGet s.qps qp with
  | none => s
  | some q =>
    let soon := match q.lastCnp with
      | some t => decide (s.clk < t + us 50)
      | none => false
    if soon then s
    else (s.modQp qp fun q => { q with lastCnp := some s.clk }).queueFrame (q.frame qp true 8 0 16 [])

/-- The object of a frame is still there. -/
def State.frameHasObject (s : State) (f : Frame) : Bool :=
  match f.kind with
  | .roce qp _ => (tblGet s.qps qp).isSome
  | .nvme c _ => (tblGet s.controllers c).isSome
  | .ptp => true
  | .arpOrNd => true
  | .none => true

/-- The landing space of a frame: a queue pair's request, or a controller's packet, takes it in the request pool; an answer
has its response space already (R261, R461). -/
def landSpace (f : Frame) : Nat :=
  match f.kind with
  | .roce _ response => if response then 0 else poolSpace f.length
  | .nvme _ _ => poolSpace f.length
  | .ptp => 0
  | .arpOrNd => 0
  | .none => 0

/-- A queue pair's or a controller's frame lands, for its command to take up. -/
def State.landFrame (s : State) (port : Nat) (f : Frame) : State :=
  let n := landSpace f
  let keep := fun (s : State) => (s.modQuad (port / 8) fun d => d.setPool 0 (d.pool 0 + n)).modPort port fun y =>
    { y with eth := { y.eth with landed := y.eth.landed ++ [(f, n)] } }
  match f.kind with
  | .roce qp _ => if f.ce then (keep s).sendCnp qp else keep s
  | .nvme _ _ => keep s
  | .ptp => s
  | .arpOrNd => s
  | .none => s

/-- FRAME_LEAVE_BUFFER (R445, R461, R462, R470): the oldest frame leaves the buffer for its landing pool; without room there
it is dropped, and one whose object is gone is filtered. -/
def execFrameLeaveBuffer (port : Nat) (s : State) : Host.Outcome State Fault Refusal :=
  .next (match (s.port port).eth.buffer with
    | [] => s
    | f :: rest =>
      let s := s.modPort port fun y => { y with eth := { y.eth with buffer := rest } }
      if !s.frameHasObject f then s.ethCount port 5 1
      else if landSpace f ≠ 0 ∧ poolSize 0 < (s.quad (port / 8)).pool 0 + landSpace f then s.ethCount port 4 1
      else s.landFrame port f)

/-- Take up the oldest landed frame of a kind, with its space; `none` where there is none. -/
def State.takeFrame (s : State) (port : Nat) (kind : FrameKind) : Option State :=
  let l := (s.port port).eth.landed
  (l.findIdx? fun f => f.1.kind == kind).map fun i =>
    let n := (l[i]?.map fun f => f.2).getD 0
    (s.modQuad (port / 8) fun d => d.setPool 0 (d.pool 0 - n)).modPort port fun y =>
      { y with eth := { y.eth with landed := y.eth.landed.eraseIdx i } }

/-- Take up every landed frame of a kind; `none` where there is none. -/
def State.takeFrames (s : State) (port : Nat) (kind : FrameKind) : Option State :=
  let l := (s.port port).eth.landed.filter fun f => f.1.kind == kind
  if l.isEmpty then none
  else some ((s.modQuad (port / 8) fun d => d.setPool 0 (d.pool 0 - (l.map fun f => f.2).sum)).modPort port fun y =>
    { y with eth := { y.eth with landed := y.eth.landed.filter fun f => f.1.kind != kind } })

/-- Engine clocks of a pause of `n` quanta of 512 bit times at a port's rate. -/
def pauseClocks (rate n : Nat) : Nat := if rate = 0 then 0 else (n * 512 * 16 + rate * 10 - 1) / (rate * 10)

/-- Set or end the pause of one priority. -/
def EthPort.pause (x : EthPort) (clk priority n : Nat) : EthPort :=
  let left := x.paused.filter fun p => p.1 != priority
  if !x.pfcHonour.getLsbD priority then x
  else if n = 0 then { x with paused := left }
  else { x with paused := left ++ [(priority, clk + pauseClocks x.rate n)] }

/-- PFC_FRAME (R446): pauses the honoured priorities that the frame names, each for its quanta. -/
def execPfcFrame (port : Nat) (priorities : List (Nat × Nat)) (s : State) : Host.Outcome State Fault Refusal :=
  .next (if s.isEth port then
      (s.modPort port fun y => { y with eth := priorities.foldl (fun x p => x.pause s.clk p.1 p.2) y.eth }).ethCount port 8 1
    else s)

/-- PFC_PAUSE_EXPIRY (R446): a pause has run out. -/
def execPfcPauseExpiry (port priority : Nat) (s : State) : Host.Outcome State Fault Refusal :=
  .next (s.modPort port fun y => { y with eth := { y.eth with
    paused := y.eth.paused.filter fun p => !(p.1 == priority && decide (p.2 ≤ s.clk)) } })

/-- ARP_REQUEST (R443): answered in hardware for the port's own address. -/
def execArpRequest (port : Nat) (target : W32) (senderMac : BitVec 48) (s : State) : Host.Outcome State Fault Refusal :=
  let x := (s.port port).eth
  .next (if s.isEth port && x.ip4 != 0 && x.ip4 == target then
      s.queueOwn port senderMac.toNat 64 1 [senderMac.toNat, portMac port, target.toNat]
    else s)

/-- NEIGHBOR_SOLICITATION (R443): answered in hardware for the port's own address. -/
def execNeighborSolicitation (port : Nat) (target : BitVec 128) (senderMac : BitVec 48) (s : State) :
    Host.Outcome State Fault Refusal :=
  let x := (s.port port).eth
  let own := x.ip6hi.toNat * 2 ^ 64 + x.ip6lo.toNat
  .next (if s.isEth port && own != 0 && own == target.toNat then
      s.queueOwn port senderMac.toNat 90 2 [senderMac.toNat, portMac port, target.toNat]
    else s)

/-! ## Gate lists (R456) -/

/-- The appointment of a gate-list swap, at a time: the takeover boundary is fixed (R89, R456). -/
def State.gateTakeoverAt (s : State) (port time : Nat) : State :=
  s.modPort port fun y => { y with eth := { y.eth with takeover := some (y.eth.boundary time) } }

/-- GATE_LIST_TAKEOVER (R456): at the boundary the pending list becomes active. -/
def execGateListTakeover (port : Nat) (s : State) : Host.Outcome State Fault Refusal :=
  let x := (s.port port).eth
  .next (match x.takeover, x.pending with
    | some t, some g =>
      if t ≤ s.mtPort port then s.modPort port fun y => { y with eth := { y.eth with
        active := some g, pending := none, gateBase := w64 t, swapPending := false, takeover := none } }
      else s
    | _, _ => s)

/-! ## Queue pairs as requester -/

/-- QUEUE_PAIR_REPLY (R266, R460, R461, R463): a landed answer to a request: an acknowledgement for a packet and all before
it, a packet of read data, or an atomic's old value. -/
def execQueuePairReply (qp psn : Nat) (data : List Byte) (old : W64) (s : State) : Host.Outcome State Fault Refusal :=
  .next (match tblGet s.qps qp with
    | none => s
    | some q => match s.takeFrame q.port (.roce qp true) with
      | none => s
      | some s =>
        let s := s.modQp qp fun q => { q with held := q.held ++ [(psn, data, old)] }
        (s.answerHeld qp (q.held.length + 1)).pumpBound q.queue)

/-- The descriptor of the oldest request. -/
def QueuePair.oldest (q : QueuePair) : Option W32 := q.requests.head?.map fun r => r.index

/-- The Local ACK timeout in engine clocks: 4.096 µs × 2^exponent (R459). -/
def QueuePair.timeout (q : QueuePair) : Nat := 2 ^ q.ackExp * 65536 / 10

/-- QP_ACK_TIMEOUT (R274, R459, R462, R463): the requests go again while retries last. -/
def execQpAckTimeout (qp : Nat) (s : State) : Host.Outcome State Fault Refusal :=
  .next (match tblGet s.qps qp with
    | none => s
    | some q =>
      if q.error || q.requests.isEmpty || q.rnrUntil.isSome || s.qpWaiting q.port qp || decide (s.clk < q.cc.lastUse + q.timeout) then s
      else if q.retriesLeft = 0 then s.failQp qp q.oldest Status.qpRetryExceeded 0
      else (s.modQp qp fun q => { q with
        retriesLeft := q.retriesLeft - 1, cc := q.cc.decrease s.txs (s.mtQ (s.queueHome q.queue)) (q.cc.rate / 2) }).resendRdma qp)

/-- An RNR NAK's syndrome: bits [6:5] are 01 (assumption log 11). -/
def isRnr (syndrome : Nat) : Bool := bits syndrome 6 5 == 1

/-- The delay that the timer code of an RNR NAK asks for, in engine clocks (assumption log 11). -/
def rnrClocks (code : Nat) : Nat :=
  16000 * ([65536, 1, 2, 3, 4, 6, 8, 12, 16, 24, 32, 48, 64, 96, 128, 192] ++
    [256, 384, 512, 768, 1024, 1536, 2048, 3072, 4096, 6144, 8192, 12288, 16384, 24576, 32768, 49152]).getD code 0

/-- An RNR NAK: the requests go again after its delay; a retry count of 7 has no limit (assumption log 11). -/
def State.rnrNak (s : State) (qp : Nat) (q : QueuePair) (syndrome : Nat) : State :=
  if q.rnrLeft = 0 ∧ q.rnrRetries ≠ 7 then s.failQp qp q.oldest Status.qpRetryExceeded 0
  else (s.dropQpFrames q.port qp).modQp qp fun q => { q with
    rnrLeft := q.rnrLeft - 1, rnrUntil := some (s.clk + rnrClocks (bits syndrome 4 0)) }

/-- ROCE_NAK (R266, R463): a landed NAK acknowledges what came before its PSN; a sequence error and RNR retry from there,
and any other NAK ends the queue pair. -/
def execRoceNak (qp psn syndrome : Nat) (s : State) : Host.Outcome State Fault Refusal :=
  .next (match tblGet s.qps qp with
    | none => s
    | some q => match s.takeFrame q.port (.roce qp true) with
      | none => s
      | some s =>
        if q.error || q.requests.isEmpty then s
        else
          let s := s.ackBefore qp psn
          match tblGet s.qps qp with
          | none => s
          | some q =>
            if isRnr syndrome then s.rnrNak qp q syndrome
            else if syndrome = 0x60 then
              if q.retriesLeft = 0 then s.failQp qp q.oldest Status.qpRetryExceeded 0
              else (s.modQp qp fun q => { q with retriesLeft := q.retriesLeft - 1 }).resendRdma qp
            else s.failQp qp q.oldest Status.qpRemoteError syndrome)

/-- CNP (R462, R274): a landed CNP counts as a marked reply without a sample. -/
def execCnp (qp : Nat) (s : State) : Host.Outcome State Fault Refusal :=
  .next (match (tblGet s.qps qp).bind fun q => s.takeFrame q.port (.roce qp true) with
    | none => s
    | some s => s.modQp qp fun q => { q with cc := q.cc.react s.txs (s.mtQ (s.queueHome q.queue)) none true })

/-! ## Queue pairs as responder (R461) -/

/-- The wire opcode of an inbound request on the native transport. -/
def rdmaWire : RdmaOp → Nat
  | .write _ _ _ => opWrite
  | .read _ _ _ => opReadReq
  | .fetchAdd _ _ _ => 4
  | .cmpSwap _ _ _ _ => 6
  | .absent => 0

/-- An inbound request as a packet to check under R121: its virtual address is the offset of R120. -/
def State.rdmaPacket (s : State) (q : QueuePair) (psn : Nat) (op : RdmaOp) : Packet :=
  let base : Packet := { key := { partition := q.partition, seq := w32 psn }, route := { opcode := rdmaWire op, dst := s.cfg.endpoint } }
  let at_ := fun (va : W64) => w64 (s.cfg.endpoint * 2 ^ 48 + q.partition * 2 ^ 44 + va.toNat % 2 ^ 44)
  match op with
  | .write va k b => { base with spec := { address := at_ va, regionKey := k }, msgLength := b.length, payloadLen := b.length, payload := b }
  | .read va k n => { base with
      spec := { address := at_ va, regionKey := k, wantMask := w64 (2 ^ packetsOf n - 1) }, msgLength := n }
  | .fetchAdd va k _ => { base with spec := { address := at_ va, regionKey := k } }
  | .cmpSwap va k _ _ => { base with spec := { address := at_ va, regionKey := k } }
  | .absent => base

/-- The virtual address of a request. -/
def rdmaVa : RdmaOp → Nat
  | .write va _ _ => va.toNat
  | .read va _ _ => va.toNat
  | .fetchAdd va _ _ => va.toNat
  | .cmpSwap va _ _ _ => va.toNat
  | .absent => 0

/-- A NAK Remote Access Error. -/
def State.rdmaAccess (s : State) (qp psn : Nat) : State := s.rdmaReply qp 4 psn 4 [0x62]

/-- A receiver that cannot land the request now: an RNR NAK of 10 µs (DESIGN CHOICE, assumption log 11). -/
def State.rdmaNotReady (s : State) (qp psn : Nat) : State := s.rdmaReply qp 4 psn 4 [0x21]

/-- READs of a queue pair being served. -/
def State.readsServed (s : State) (port qp : Nat) : Nat :=
  ((s.quad (port / 8)).copies.filter fun c => c.rdma == some qp && c.pkt.route.opcode == opReadReq).length

/-- A request that uses an absent feature: more than a path MTU in one packet, or a seventeenth READ (R458). -/
def State.rdmaInvalid (s : State) (port qp : Nat) (q : QueuePair) : RdmaOp → Bool
  | .write _ _ b => decide (q.bytes < b.length)
  | .read _ _ _ => decide (16 ≤ s.readsServed port qp)
  | .fetchAdd _ _ _ => false
  | .cmpSwap _ _ _ _ => false
  | .absent => true

/-- Hold an inbound request whose landing answers later. -/
def State.holdRdma (s : State) (q qp : Nat) (pkt : Packet) (att : Option Nat) : State × Nat :=
  let id := (s.quad q).nextCopy
  let n := poolSpace pkt.payloadLen
  (s.modQuad q fun d =>
    let d := d.setPool 0 (d.pool 0 + n)
    { d with copies := d.copies ++ [{ id, pkt, space := n, verified := true, attTag := att, rdma := some qp }], nextCopy := id + 1 }, id)

/-- Land a checked inbound request, or say that it cannot land now. -/
def State.rdmaLand (s : State) (port qp psn : Nat) (q : QueuePair) (op : RdmaOp) (pkt : Packet) : State :=
  let quad := port / 8
  let next := fun (s : State) (n : Nat) => s.modQp qp fun q => { q with expectPsn := (psn + n) % 2 ^ 24 }
  let atomic := fun (a b : W64) =>
    let off := (accessOf pkt).1
    let l := s.biasLines q.partition off 8 true
    if !l.isEmpty then (s.askLines l true).rdmaNotReady qp psn
    else
      let (s, old) := s.atomicAt q.partition off 8 pkt.route.opcode a b
      let s := (next s 1).modQp qp fun q => { q with replies := ((psn, old) :: q.replies).take 16 }
      s.rdmaReply qp 3 psn 12 [old]
  match op with
  | .write _ _ b =>
    let (held, id) := s.holdRdma quad qp pkt (some 0)
    (match s.landBytes quad id (s.region (keyIndex pkt.spec.regionKey)) (accessOf pkt).1 b with
    | .done s => (next s 1).rdmaReply qp 1 psn 4 []
    | .sent _ =>
      match held.landBytes quad id (held.region (keyIndex pkt.spec.regionKey)) (accessOf pkt).1 b with
      | .sent s => next s 1
      | _ => s
    | .wait s => s.rdmaNotReady qp psn
    | .retry s _ => s.rdmaNotReady qp psn
    | .fail s _ => s.rdmaAccess qp psn)
  | .read _ _ n =>
    let (s, id) := s.holdRdma quad qp pkt none
    let s := next s (max 1 ((n + q.bytes - 1) / q.bytes))
    (match s.copy? quad id with
    | some c => s.landRead quad c
    | none => s)
  | .fetchAdd _ _ a => atomic a 0
  | .cmpSwap _ _ c v => atomic v c
  | .absent => s

/-- A repeated request is answered again, from its PSN (R458). -/
def State.rdmaAgain (s : State) (port qp psn : Nat) (q : QueuePair) (op : RdmaOp) (pkt : Packet) : State :=
  let old := (q.replies.find? fun r => r.1 == psn).elim 0 fun r => r.2
  match op with
  | .write _ _ _ => s.rdmaReply qp 1 psn 4 []
  | .read _ _ _ => if s.commitCheck pkt = Status.ok then
      let (s, id) := s.holdRdma (port / 8) qp pkt none
      match s.copy? (port / 8) id with
      | some c => s.landRead (port / 8) c
      | none => s
    else s.rdmaAccess qp psn
  | .fetchAdd _ _ _ => s.rdmaReply qp 3 psn 12 [old]
  | .cmpSwap _ _ _ _ => s.rdmaReply qp 3 psn 12 [old]
  | .absent => s

/-- ROCE_REQUEST (R121, R458, R461): a landed request packet of a queue pair is checked and served; a repeated one is
answered again, one ahead of its turn draws a sequence error. -/
def execRoceRequest (port qp psn : Nat) (op : RdmaOp) (s : State) : Host.Outcome State Fault Refusal :=
  .next (match tblGet s.qps qp, s.takeFrame port (.roce qp false) with
    | some q, some s =>
      let ahead := (psn + 2 ^ 24 - q.expectPsn) % 2 ^ 24
      let pkt := s.rdmaPacket q psn op
      if q.error || q.port != port then s
      else if s.rdmaInvalid port qp q op then s.rdmaReply qp 4 psn 4 [0x61]
      else if ahead != 0 then
        if ahead < 2 ^ 23 then s.rdmaReply qp 4 q.expectPsn 4 [0x60] else s.rdmaAgain port qp psn q op pkt
      else if decide (2 ^ 44 ≤ rdmaVa op) || s.commitCheck pkt != Status.ok || (isWireAtomic pkt.route.opcode && rdmaVa op % 8 != 0) then
        s.rdmaAccess qp psn
      else s.rdmaLand port qp psn q op pkt
    | _, _ => s)

/-! ## NVMe (R464 to R468) -/

/-- An Identify Namespace that fits: the LBA data size is the sector size and there is no metadata (R466; the fields are
those of the NVMe Base Specification, assumption log 11). -/
def identifyFits (sector : Nat) (l : List Byte) : Bool :=
  let f := field l (128 + 4 * bits (field l 26 1) 3 0) 4
  2 ^ bits f 23 16 == sector && bits f 15 0 == 0

/-- A data or Flush command has ended well. -/
def State.nvmeDone (s : State) (qn : Nat) (x : Controller) (k : NvmeCmd) (data : List Byte) : State × Bool :=
  match s.queue? qn, s.desc? qn k.index with
  | some q, some d =>
    let ok := fun (s : State) => (s.modDesc qn k.index fun d => { d with bytesDone := d.bytesDone + k.length }, true)
    if k.opcode != 2 then ok s
    else if data.length != k.length then (s, false)
    else
      let lba := (bits d.remote.toNat 47 0 + k.offset) / x.sector
      let b := sectorCipher true (s.storageKey q.partition x.keyId k.nsid) x.sector lba data
      match s.localWrite (.desc qn k.index) q.partition d.seg d.localAddr k.offset b with
      | .done s => ok s
      | .wait s => (s, false)
      | .fail s st => (s.cutDesc qn k.index st 0, true)
  | _, _ => (s, true)

/-- One completion is applied; false where its data cannot land yet. A non-zero status ends the descriptor, and an Identify
decides whether the namespace is served (R466, R467). -/
def State.nvmeAnswer (s : State) (c command status : Nat) (data : List Byte) : State × Bool :=
  match tblGet s.controllers c with
  | none => (s, true)
  | some x => match x.commands.find? fun k => k.id == command with
    | none => (s, true)
    | some k =>
      let gone := fun (s : State) => s.modCtl c fun x => { x with commands := x.commands.filter fun k => k.id != command }
      if status != 0 then ((gone s).cutDesc x.queue k.index Status.nvmeStatus status, true)
      else if k.opcode = 6 then
        if identifyFits x.sector data then ((gone s).modCtl c fun x => { x with namespaces := k.nsid :: x.namespaces }, true)
        else ((gone s).cutDesc x.queue k.index Status.unsupportedTarget 0, true)
      else match s.nvmeDone x.queue x k data with
        | (s, true) => ((gone s).settleBound x.queue k.index, true)
        | (s, false) => (s, false)

/-- Apply the completions that a controller holds, in order, as far as their data can land. -/
def State.completeHeld (s : State) (c : Nat) : Nat → State
  | 0 => s
  | n + 1 => match tblGet s.controllers c with
    | none => s
    | some x => match x.held with
      | [] => s
      | (command, status, data) :: _ =>
        match s.nvmeAnswer c command status data with
        | (s, true) => (s.modCtl c fun x => { x with held := x.held.drop 1 }).completeHeld c n
        | (s, false) => s

/-- NVME_COMPLETION (R466, R467): a completion has landed, with the data it ends. -/
def execNvmeCompletion (controller command status : Nat) (data : List Byte) (s : State) : Host.Outcome State Fault Refusal :=
  .next (match tblGet s.controllers controller with
    | none => s
    | some x => match s.takeFrames x.port (.nvme controller x.tcp) with
      | none => s
      | some s =>
        let s := s.modCtl controller fun x => { x with held := x.held ++ [(command, status, data)] }
        (s.completeHeld controller (x.held.length + 1)).pumpBound x.queue)

/-- Answers whose landing waited try again, and every bound queue issues what it can. -/
def State.pumpBounds (s : State) : State :=
  let s := s.qps.foldl (fun s r => s.answerHeld r.1 r.2.held.length) s
  let s := s.controllers.foldl (fun s r => s.completeHeld r.1 r.2.held.length) s
  s.boundQueues.foldl State.pumpBound s

/-- KEEP_ALIVE (R464): every 5 s. -/
def execKeepAlive (controller : Nat) (s : State) : Host.Outcome State Fault Refusal :=
  .next (match tblGet s.controllers controller with
    | none => s
    | some x =>
      if x.failed || decide (s.clk < x.lastKeepAlive + us 5000000) then s
      else (s.modCtl controller fun x => { x with lastKeepAlive := s.clk }).queueFrame (x.frame controller 0x18 100 []))

/-- ASSOCIATION_LOSS (R468). -/
def execAssociationLoss (controller : Nat) (s : State) : Host.Outcome State Fault Refusal :=
  .next (match tblGet s.controllers controller with
    | none => s
    | some x => if x.failed then s else s.failController controller)

end Sys2Proof.Machine
end

