-- ==== Sys2Proof/Machine/Stir.lean ====
section
/-!
DEFINITION. Machine/Stir.lean: what waits for local bytes, translated tiles, lines of host-bias pages or room in a
host port's buffers tries again (R34, R152, R320, R427, R435).
-/

namespace Sys2Proof.Machine

/-- The flights of every running kernel: sequencer and slot. -/
def State.allFlights (s : State) : List (Nat × Nat) :=
  s.seqs.flatMap fun r => match r.2.running with
    | some x => x.flights.map fun f => (r.1, f.slot)
    | none => []

/-- Everything that waits locally tries again. -/
def State.stir (s : State) : State :=
  let s := s.allFlights.foldl (fun s f => s.progress f.1 f.2) s
  let s := s.pumpBounds
  s.pumpAll.recommit

/-- Settle an owner whose local work may be done, then let what waits try again. -/
def State.stirOwner (s : State) (o : TileOwner) : State :=
  match o with
  | .desc q i => match s.queue? q with
    | some x => if x.bound == .none then (s.settleDesc q i).stir else (s.settleBound q i).stir
    | none => s.stir
  | .step k slot => (s.progress k slot).stir
  | .coll _ _ => s.stir

end Sys2Proof.Machine
end

