-- ==== Sys2Proof/Machine/Atlas.lean ====
section
/-!
DEFINITION. Machine/Atlas.lean: placements, their tiers and quadrants, scrubbing, retirement and live migration
(R93 to R112, R125 to R139). Sizes are counted in 4 KiB pages.
-/

namespace Sys2Proof.Machine

/-! ## Room (R97, R100, R127, R130) -/

/-- Of `n` pages that rotate over the 32 channels from channel 0 on, those on the 8 channels of a quadrant (R130). -/
def channelPages (q n : Nat) : Nat := n / 32 * 8 + min 8 (n % 32 - 8 * q)

/-- Pages of a range [first, first + n) that lie in a quadrant, for frames held in one quadrant or rotating over all
32 channels (4). -/
def pagesIn (held q first n : Nat) : Nat :=
  if held = 4 then channelPages q (first + n) - channelPages q first else if held = q then n else 0

/-- The frames that a leg occupies in a tier: its own, a migration's destination, and those not yet freed. -/
def Leg.occupies (l : Leg) (lpddr : Bool) : List Nat :=
  (if l.lpddr == lpddr then l.frames else [])
    ++ (match l.migration with
      | some m => if m.lpddr == lpddr then m.frames else []
      | none => [])
    ++ match l.source with
      | some (t, f) => if t == lpddr then f else []
      | none => []

/-- Every frame that is occupied in a tier. -/
def State.framesUsed (s : State) (lpddr : Bool) : List Nat :=
  s.placements.flatMap fun r => if r.2.live then r.2.legs.flatMap fun l => l.occupies lpddr else []

/-- Pages for partitions in one quadrant of a tier. -/
def State.capacity (s : State) (lpddr : Bool) : Nat :=
  if lpddr then (if s.mem.inlineEcc then 31457280 else 33554432) else 114688

/-- The retired regions of a tier. -/
def State.retired (s : State) (lpddr : Bool) : List Nat := if lpddr then s.mem.lpddrRetired else s.mem.sramRetired

/-- Free pages of a tier in a quadrant. -/
def State.freeIn (s : State) (lpddr : Bool) (q : Nat) : Nat :=
  s.capacity lpddr - ((s.retired lpddr ++ s.framesUsed lpddr).filter fun r => regionQuadrant lpddr r == q).length

/-- A tier and a quadrant (or all, 4) have room for pages [first, first + n). -/
def State.roomFor (s : State) (lpddr : Bool) (held first n : Nat) : Bool :=
  (List.range 4).all fun q => pagesIn held q first n ≤ s.freeIn lpddr q

/-- The regions of the SRAM reserve: the last 8,192 of each die, 64 MiB of a quadrant (R97, assumption log 5). -/
def inReserve (r : Nat) : Bool := 57344 ≤ r % 65536

/-- The class of frames that page `f` of a placement takes: its SRAM die, which alternates in the quadrant, or its
LPDDR5X channel (R130). -/
def frameClass (lpddr : Bool) (held f : Nat) : Nat :=
  if !lpddr then 2 * held + f % 2 else if held = 4 then f % 32 else 8 * held + f % 8

/-- Region `j` of a class. -/
def classRegion (lpddr : Bool) (c j : Nat) : Nat := if lpddr then c + 32 * j else c * 65536 + j

/-- The regions of a class. -/
def State.classSize (s : State) (lpddr : Bool) : Nat := if lpddr then s.capacity true / 8 else 65536

/-- The lowest free region of a class, from its region `lo` on: not retired, not due, not in the reserve and not occupied
(R107, R127). -/
def State.freeInClass (s : State) (lpddr : Bool) (taken : List Nat) (c : Nat) (lo : Nat := 0) : Option Nat :=
  (firstFree (fun j =>
    let r := classRegion lpddr c j
    !(s.retired lpddr).contains r && !s.mem.retireDue.contains (lpddr, r) && !taken.contains r
      && (lpddr || !inReserve r)) (s.classSize lpddr - lo) lo).map (classRegion lpddr c)

/-- The class of a region, and its place in it. -/
def regionClass (lpddr : Bool) (r : Nat) : Nat × Nat := if lpddr then (r % 32, r / 32) else (r / 65536, r % 65536)

/-- The frame that page `f` takes: of its class, else of another class of the same quadrant (assumption log 5); `next`
holds, by class, the first region that no earlier page of the placement has passed. -/
def State.pickFrame (s : State) (lpddr : Bool) (held f : Nat) (taken : List Nat) (next : Table Nat) : Option Nat :=
  let c := frameClass lpddr held f
  let others := if !lpddr then [2 * held, 2 * held + 1]
    else if held = 4 then List.range 32 else List.range' (8 * held) 8
  (c :: others).findSome? fun c => s.freeInClass lpddr taken c (tblGetD next c 0)

/-- Frames for pages [first, first + n), none of them in use: each class gives its free regions in rising order. -/
def State.pickFrames (s : State) (lpddr : Bool) (held first : Nat) (taken : List Nat) (n : Nat) (next : Table Nat := []) :
    List Nat :=
  match n with
  | 0 => []
  | n + 1 => match s.pickFrame lpddr held first taken next with
    | some r =>
      let (c, j) := regionClass lpddr r
      r :: s.pickFrames lpddr held (first + 1) taken n (tblSet next c (j + 1))
    | none => []

/-- The tier a leg is charged to: that of frames not yet freed, else its own (R129). -/
def Leg.charged (l : Leg) : Bool :=
  match l.source with
  | some (t, _) => t
  | none => l.lpddr

/-- Pages charged to a partition's quota of a tier. -/
def State.chargedPages (s : State) (p : Nat) (lpddr : Bool) : Nat :=
  ((s.placements.filter fun r => r.2.live && r.2.partition == p).map fun r =>
    ((r.2.legs.filter fun l => l.charged == lpddr).map fun l => l.pages).sum).sum

/-- The quota kind of a tier. -/
def tierKind (lpddr : Bool) : Nat := if lpddr then 6 else 5

/-- Pages of a partition that migrations under way bring into a tier (R129). -/
def State.incomingPages (s : State) (p : Nat) (lpddr : Bool) : Nat :=
  ((s.placements.filter fun r => r.2.live && r.2.partition == p).map fun r =>
    ((r.2.legs.filter fun l => l.charged != lpddr && l.migration.any fun m => m.lpddr == lpddr).map fun l => l.pages).sum).sum

/-- The partition's quota of a tier takes `n` more pages, with those on their way there (R129). -/
def State.tierQuota (s : State) (p : Nat) (lpddr : Bool) (n : Nat) : Bool :=
  s.underQuota p (tierKind lpddr) (s.chargedPages p lpddr + s.incomingPages p lpddr) n

/-! ## The placement decision (R130) -/

/-- A placement's wishes. -/
structure Wish where
  tier : Nat := 0
  pinTier : Bool := false
  quadrant : Nat := 0
  pinQuadrant : Bool := false
  preferQuadrant : Bool := false
  deriving DecidableEq, Repr

/-- A decision: a tier and a quadrant, or the status of the last refusal. -/
abbrev Decision := Except Nat (Bool × Nat)

/-- The quadrant with the most free SRAM, the lowest-numbered on a tie. -/
def State.mostFree (s : State) : Nat :=
  [1, 2, 3].foldl (fun b q => if s.freeIn false b < s.freeIn false q then q else b) 0

/-- Rules 2 and 3: the quadrant within a tier. -/
def State.chooseQuadrant (s : State) (w : Wish) (lpddr : Bool) (n : Nat) : Decision :=
  let free := if lpddr then 4 else s.mostFree
  if (w.pinQuadrant || w.preferQuadrant) && s.roomFor lpddr w.quadrant 0 n then .ok (lpddr, w.quadrant)
  else if w.pinQuadrant then .error Status.noResource
  else if s.roomFor lpddr free 0 n then .ok (lpddr, free)
  else .error Status.noResource

/-- One tier: the quota, then the room. -/
def State.chooseIn (s : State) (w : Wish) (p : Nat) (lpddr : Bool) (n : Nat) : Decision :=
  if s.tierQuota p lpddr n then s.chooseQuadrant w lpddr n else .error Status.quotaExceeded

/-- Rule 1 for tier 0: SRAM up to 256 MiB where the quota and one quadrant's free SRAM hold it, whatever quadrant is
named; else LPDDR5X. -/
def State.chooseAny (s : State) (w : Wish) (p n : Nat) : Decision :=
  if n ≤ 65536 && s.tierQuota p false n && (List.range 4).any fun q => decide (n ≤ s.freeIn false q) then s.chooseIn w p false n
  else s.chooseIn w p true n

/-- Where a new placement of `n` pages lies. -/
def State.choosePlace (s : State) (w : Wish) (p n : Nat) : Decision :=
  if w.tier = 0 then s.chooseAny w p n
  else match s.chooseIn w p (w.tier == 2) n with
    | .ok d => .ok d
    | .error e => if w.pinTier then .error e else s.chooseAny w p n

/-- The legs of a placement of `n` pages on its frames (R127). -/
def makeLegs (lpddr : Bool) (quadrant n : Nat) (frames : List Nat) : List Leg :=
  (List.range ((n + 511) / 512)).map fun i =>
    { lpddr, quadrant, pages := min 512 (n - i * 512), frames := (frames.drop (i * 512)).take 512 }

/-! ## Offsets in the placement window (R126) -/

/-- The placement window. -/
def windowBase : Nat := 0x80000000000

/-- Round up to a multiple. -/
def alignUp (a n : Nat) : Nat := (a + n - 1) / n * n

/-- A range is free in a partition's space. -/
def State.spaceFree (s : State) (p off size : Nat) : Bool :=
  !s.placements.any fun r => r.2.live && r.2.partition == p && overlaps r.2.offset r.2.size off size

/-- The offset of a new placement: the one offered where it is aligned, in the window and free, else the lowest
(assumption log 7). -/
def State.pickOffset (s : State) (p size pick : Nat) : Option Nat :=
  let align := if 2097152 ≤ size then 2097152 else 4096
  let fits := fun a => a % align == 0 && windowBase ≤ a && a + size ≤ windowBase + 2 ^ 40 && s.spaceFree p a size
  if fits pick then some pick
  else
    let ends := (s.placements.filter fun r => r.2.live && r.2.partition == p).map fun r => alignUp (r.2.offset + r.2.size) align
    (windowBase :: ends).foldl (fun b a => if fits a then (match b with
      | some c => some (min a c)
      | none => some a) else b) none

/-- Forget the bytes, poison and wrong tags of a range of a partition's space. -/
def State.clearSpace (s : State) (p off size : Nat) : State :=
  let a := spaceKey p off
  let keep := fun (l : Nat) => !(a ≤ l * 64 && l * 64 < a + size)
  s.modMem fun m => { m with
    cells := memClear m.cells a size, poisoned := m.poisoned.filter keep, wrongTag := m.wrongTag.filter keep }

/-- Enter a new placement; it reads as zero (R128). -/
def State.newPlacement (s : State) (i p size off : Nat) (w : Wish) (lpddr : Bool) (quadrant : Nat)
    (hdm : Option Nat := none) : State :=
  (s.clearSpace p off size).modPlace i fun x => {
    live := true, partition := p, gen := nextGen x.gen, size, offset := off, tier := w.tier, pinTier := w.pinTier
    quadrant := w.quadrant, pinQuadrant := w.pinQuadrant, preferQuadrant := w.preferQuadrant
    legs := makeLegs lpddr quadrant (size / 4096) (s.pickFrames lpddr quadrant 0 (s.framesUsed lpddr) (size / 4096))
    hdmPort := hdm }

/-- A placement is freed: its migrations are abandoned with it (R138), and its generation stays for the next issue. -/
def State.freePlacement (s : State) (i : Nat) : State :=
  let x := s.place i
  (s.clearSpace x.partition x.offset x.size).modPlace i fun x => { gen := x.gen, partition := x.partition }

/-! ## Scrubbing (R94, R98, R101, R104, R105, R107) -/

/-- The placement pages on a region of a tier: its own frames, those of a migration to it, and those not yet freed. -/
def State.holders (s : State) (lpddr : Bool) (region : Nat) : List (Nat × Nat) :=
  s.placements.flatMap fun r =>
    if r.2.live then
      ((r.2.legs.zipIdx).filter fun l => (l.1.occupies lpddr).contains region).map fun l => (r.1, l.2)
    else []

/-- The line of partition space that a physical line holds, where a written page stands on its frame. -/
def State.spaceLine (s : State) (l : Bool × Nat) : Option Nat :=
  s.placements.findSome? fun r =>
    if !r.2.live then none
    else r.2.legs.zipIdx.findSome? fun g =>
      if g.1.lpddr != l.1 then none
      else match g.1.frames.findIdx? fun f => f == l.2 / 64 with
        | some page => if g.1.written.contains page then
            some (spaceKey r.2.partition (r.2.offset + (g.2 * 512 + page) * 4096) / 64 + l.2 % 64) else none
        | none => none

/-- Bits that physical events have changed in stored lines: the environment's, brought by the command that first could
show them (assumption log 70). -/
def State.strike (s : State) (l : List (Nat × Bool × Nat)) : State :=
  s.modMem fun m => { m with upsets := l.foldl (fun t x =>
    let k := upsetKey x.2
    let v := tblGetD t k 0 ^^^ x.1
    if v = 0 then tblErase t k else tblSet t k v) m.upsets }

/-- The places of a line's corrected errors, in the order of its verdicts: 72 to a word, the tag's after them. -/
def corrections (lpddr : Bool) (l : List Verdict) : List Nat :=
  l.zipIdx.flatMap fun v => match v.1 with
    | .corrected i => [if lpddr then i else 72 * v.2 + i]
    | .clean => []
    | .uncorrectable => []
    | .passed _ => []

/-- The corrected line is written back: what its codes pass wrong stays in it, now under good codes (R98, R104). -/
def State.writeBack (s : State) (l : Bool × Nat) : State :=
  let v := s.verdicts l
  let t := match s.spaceLine l with
    | none => s
    | some line =>
      let seen := s.lineSeen line (memRead s.mem.cells (line * 64) 64)
      s.modMem fun m => { m with
        cells := if dataOff l.1 v = 0 then m.cells else memWrite m.cells (line * 64) seen
        wrongTag := if l.1 || tagOff v = 0 || m.wrongTag.contains line then m.wrongTag else line :: m.wrongTag }
  t.modMem fun m => { m with upsets := tblErase m.upsets (upsetKey l) }

/-- An uncorrectable line that a scrubber reads: the line is poisoned, and its region falls due (R105, R107). -/
def State.scrubBad (s : State) (l : Bool × Nat) : State :=
  match s.spaceLine l with
  | some line => s.poisonLine line
  | none =>
    ((s.modMem fun m => { m with
      upsets := tblErase m.upsets (upsetKey l), badLines := l :: m.badLines.filter fun b => b != l }).dueRetire
        l.1 (l.2 / 64)).log {
          status := Status.memoryUncorrectable, unit := if l.1 then 0x16 else 0x15, unitIndex := unitOfLine l, severity := 2
          info := w64 (physAddress s.mem.inlineEcc l) }

/-- A scrubber reads a line and its codes: a correction is written back and noted, an uncorrectable line is poisoned;
`again` says which corrections retire the region. -/
def State.scrub (s : State) (l : Bool × Nat) (again : Nat → Bool) : State :=
  let v := s.verdicts l
  let places := corrections l.1 v
  if s.upset l = 0 then s
  else if v.contains .uncorrectable then s.scrubBad l
  else
    let s := (s.writeBack l).count Count.eccCorrections places.length
    let s := s.modMem fun m => { m with corrections := places.map (fun i => (l.1, l.2, i, s.clk)) ++ m.corrections }
    if places.any again then s.dueRetire l.1 (l.2 / 64) else s

/-- SRAM_SCRUB (R94, R98, R107): the scrubber's sweep reaches a line; the same bit corrected again after a rewrite
retires the region. -/
def execSramScrub (line : Nat) (upsets : List (Nat × Bool × Nat)) (s : State) : Host.Outcome State Fault Refusal :=
  .next ((s.strike upsets).scrub (false, line) fun place =>
    s.mem.corrections.any fun c => !c.1 && c.2.1 == line && c.2.2.1 == place)

/-- PATROL_SCRUB (R99, R101, R104, R107): two distinct lines of a region corrected within 24 h retire it. Without inline
ECC there is no check and nothing is scrubbed. -/
def execPatrolScrub (line : Nat) (upsets : List (Nat × Bool × Nat)) (s : State) : Host.Outcome State Fault Refusal :=
  let t := s.strike upsets
  .next (if s.mem.inlineEcc then
      t.scrub (true, line) fun _ => s.mem.corrections.any fun c =>
        c.1 && c.2.1 != line && c.2.1 / 64 == line / 64 && decide (s.clk < c.2.2.2 + us 86400000000)
    else t)

/-! ## Live migration (R132 to R138) -/

/-- Change a leg of a placement. -/
def State.modLeg (s : State) (i leg : Nat) (g : Leg → Leg) : State :=
  s.modPlace i fun x => { x with legs := x.legs.mapIdx fun j l => if j = leg then g l else l }

/-- The number of a reason, for Survey. -/
def reasonCode : MigrateReason → Nat
  | .retirement => 0
  | .hint => 1
  | .promote => 2
  | .demote => 3
  | .locality => 4

/-- The placement's pins allow the move (R108, R131, R132). -/
def Placement.allows (x : Placement) (r : MigrateReason) (from_ : Leg) (lpddr : Bool) (q : Nat) : Bool :=
  let tierOk := !x.pinTier || x.tier == 0 || (x.tier == 2) == lpddr
  let quadOk := !x.pinQuadrant || q == x.quadrant
  match r with
  | .retirement => lpddr == from_.lpddr && q == from_.quadrant
  | .hint => tierOk && quadOk
  | .promote => tierOk && quadOk && !x.pinTier && from_.lpddr && !lpddr
  | .demote => tierOk && quadOk && !x.pinTier && !from_.lpddr && lpddr
  | .locality => quadOk && !x.pinQuadrant && lpddr == from_.lpddr

/-- Atlas may migrate the leg so now. -/
def State.mayMigrate (s : State) (x : Placement) (leg : Nat) (l : Leg) (r : MigrateReason) (lpddr : Bool) (q : Nat) :
    Bool :=
  let rested := r == .retirement || match l.lastMove with
    | some t => decide (t + us 10000 ≤ s.clk)
    | none => true
  x.live && x.hdmPort.isNone && l.migration.isNone && l.source.isNone && rested
    && (r == .retirement || l.lpddr != lpddr || l.quadrant != q) && x.allows r l lpddr q
    && !((l.lpddr || lpddr) && (s.part x.partition).rekey.isSome)
    && (l.lpddr == lpddr || s.tierQuota x.partition lpddr l.pages)
    && s.roomFor lpddr q (leg * 512) l.pages

/-- Steps 1 and 2 of R133: the destination frames are allocated, and dirty tracking is on. -/
def State.beginMigration (s : State) (i leg : Nat) (r : MigrateReason) (lpddr : Bool) (q : Nat) (frames : List Nat) : State :=
  ((s.modLeg i leg fun l => { l with migration := some { reason := r, lpddr, quadrant := q, frames, progressClk := s.clk }, abandoned := none }).count
    Count.migrations).count (Count.migrationReason + reasonCode r)

/-- Start a migration that Atlas may make. -/
def State.startMigration (s : State) (i leg : Nat) (r : MigrateReason) (lpddr : Bool) (q : Nat) : State :=
  let x := s.place i
  match x.legs[leg]? with
  | none => s
  | some l =>
    if s.mayMigrate x leg l r lpddr q then
      s.beginMigration i leg r lpddr q (s.pickFrames lpddr q (leg * 512) (s.framesUsed lpddr) l.pages)
    else s

/-! ## Retirement (R107 to R112) -/

/-- The leg of a holder moves the page on a failing region to another region of the tier and quadrant, and every other
page stays where it is (R108). -/
def State.moveRegion (s : State) (lpddr : Bool) (region i leg : Nat) : State :=
  match (s.place i).legs[leg]? with
  | none => s
  | some l =>
    match l.frames.findIdx? (fun f => f == region), l.migration, l.source with
    | some page, none, none =>
      let q := regionQuadrant lpddr region
      let c := frameClass lpddr q (leg * 512 + page)
      let used := s.framesUsed lpddr
      let others := if lpddr then List.range' (8 * q) 8 else [2 * q, 2 * q + 1]
      match (c :: others).findSome? fun c => s.freeInClass lpddr used c with
      | some r => s.beginMigration i leg .retirement lpddr l.quadrant (l.frames.set page r)
      | none => s
    | _, _, _ => s

/-- A leg of an unpinned placement in the tier and quadrant, and a quadrant that can take it (R109). -/
def State.roomLeg (s : State) (lpddr : Bool) (q : Nat) : Option (Nat × Nat × Nat) :=
  s.placements.findSome? fun r =>
    if !r.2.live || r.2.pinTier || r.2.pinQuadrant || r.2.hdmPort.isSome then none
    else r.2.legs.zipIdx.findSome? fun g =>
      if g.1.lpddr == lpddr && g.1.frames.any (fun f => regionQuadrant lpddr f == q) && g.1.migration.isNone
          && g.1.source.isNone && !(lpddr && (s.part r.2.partition).rekey.isSome) then
        ([0, 1, 2, 3].find? fun d => d != q && s.roomFor lpddr d (g.2 * 512) g.1.pages).map fun d => (r.1, g.2, d)
      else none

/-- Frames of the tier and quadrant are on their way out: a migration or its last step is under way there. -/
def State.leaving (s : State) (lpddr : Bool) (q : Nat) : Bool :=
  s.placements.any fun r => r.2.live && r.2.legs.any fun l =>
    (l.source.any fun f => f.1 == lpddr && f.2.any fun x => regionQuadrant lpddr x == q)
      || (l.migration.isSome && l.lpddr == lpddr && l.frames.any fun x => regionQuadrant lpddr x == q)

/-- The region is out of service: nothing is placed in it, and the map is to be written. -/
def State.retireNow (s : State) (lpddr : Bool) (region : Nat) : State :=
  let s := s.modMem fun m => { m with
    retireDue := m.retireDue.filter fun r => r != (lpddr, region)
    retirePending := m.retirePending.filter fun r => r != (lpddr, region)
    mapPending := m.mapPending ++ [(lpddr, region)]
    sramRetired := if lpddr then m.sramRetired else region :: m.sramRetired
    lpddrRetired := if lpddr then region :: m.lpddrRetired else m.lpddrRetired }
  if !lpddr && 4096 < (s.mem.sramRetired.filter fun r => r / 65536 == region / 65536).length then
    s.alarmRecord 0 { unit := 0x15, unitIndex := region / 65536 }
  else s

/-- REGION_RETIRE (R107 to R112): a region that is due is retired once nothing lies on it. What lies there moves to a free
region of its tier and quadrant under the migration procedure; without one, an unpinned leg is moved out first; where
pins hold every region it stays in service, retire-pending. A partition's rekey defers its LPDDR5X regions. -/
def execRegionRetire (lpddr : Bool) (region : Nat) (s : State) : Host.Outcome State Fault Refusal :=
  let q := regionQuadrant lpddr region
  let held := s.holders lpddr region
  let due := s.mem.retireDue.contains (lpddr, region)
  let pending := s.mem.retirePending.contains (lpddr, region)
  .next (
    if !due && !(pending && held.isEmpty) then s
    else if lpddr && held.any (fun h => (s.part (s.place h.1).partition).rekey.isSome) then s
    else if lpddr && 16384 ≤ s.mem.lpddrRetired.length then
      (s.modMem fun m => { m with retireDue := m.retireDue.filter fun r => r != (lpddr, region) }).alarmRecord 1 { unit := 0x16 }
    else if held.isEmpty then s.retireNow lpddr region
    else if 0 < s.freeIn lpddr q then held.foldl (fun s h => s.moveRegion lpddr region h.1 h.2) s
    else match s.roomLeg lpddr q with
      | some (i, leg, d) => s.beginMigration i leg .retirement lpddr d
          (s.pickFrames lpddr d (leg * 512) (s.framesUsed lpddr) (((s.place i).legs.getD leg {}).pages))
      | none =>
        if s.leaving lpddr q then s
        else (s.modMem fun m => { m with
          retireDue := m.retireDue.filter fun r => r != (lpddr, region)
          retirePending := m.retirePending ++ [(lpddr, region)] }).count Count.retirePending)

/-- The bytes of a copy of the retire map that its digest covers: the sequence number, the bitmap of SRAM regions and the
list of LPDDR5X regions. -/
def RetireMap.bytes (m : RetireMap) : List Byte :=
  leBytes 8 m.sequence
    ++ (List.range 65536).map (fun i => BitVec.ofNat 8 ((List.range 8).map fun b => b2n (m.sram.contains (8 * i + b)) * 2 ^ b).sum)
    ++ m.lpddr.flatMap (leBytes 4)

/-- A copy of the retire map with its digest (R111). -/
def RetireMap.sealed (m : RetireMap) : RetireMap := { m with digest := shake256 m.bytes 64 }

/-- The copy is whole: it was written, and its digest is that of its content (R111). -/
def RetireMap.valid (m : RetireMap) : Bool := !m.digest.isEmpty && m.digest == shake256 m.bytes 64

/-- RETIRE_MAP_WRITE (R111): the firmware writes the retirements to the older copy of the map in the boot flash. -/
def execRetireMapWrite (s : State) : Host.Outcome State Fault Refusal :=
  .next (if s.mem.mapPending.isEmpty || !s.fw.alive then s
    else s.modMem fun m =>
      let n : RetireMap := RetireMap.sealed { sequence := m.mapSequence + 1, sram := m.sramRetired, lpddr := m.lpddrRetired }
      { m with
        mapPending := [], mapSequence := m.mapSequence + 1
        map0 := if m.map1.sequence < m.map0.sequence then m.map0 else n
        map1 := if m.map1.sequence < m.map0.sequence then n else m.map1 })

/-! ## The migration of a leg (R132 to R138) -/

/-- The bytes drawn from a leg over the last 100 ms (R132, assumption log 71). -/
def drawn (h : Heat) : Nat := h.byQuadrant.sum

/-- The reason holds for the leg (R132). -/
def State.reasonHolds (s : State) (i leg : Nat) (r : MigrateReason) (q : Nat) (h : Heat) : Bool :=
  match r with
  | .promote => 4 * h.coldest ≤ drawn h
  | .demote => h.coldestLeg == (i, leg) && drawn h == h.coldest
      && decide (s.freeIn false ((s.place i).legs.getD leg {}).quadrant < h.needed)
  | .locality => 0 < drawn h && 3 * drawn h ≤ 4 * h.byQuadrant.getD q 0
  | .retirement => false
  | .hint => true

/-- MIGRATION_START (R129, R132, R133, R138): a retirement's migration is started by REGION_RETIRE. -/
def execMigrationStart (placement leg : Nat) (reason : MigrateReason) (lpddr : Bool) (quadrant : Nat) (heat : Heat)
    (s : State) : Host.Outcome State Fault Refusal :=
  .next (if s.reasonHolds placement leg reason quadrant heat then s.startMigration placement leg reason lpddr quadrant else s)

/-- The migration of a leg. -/
def State.migration? (s : State) (i leg : Nat) : Option Migration := ((s.place i).legs[leg]?).bind fun l => l.migration

/-- A rekey of the partition bars the migration of its LPDDR5X legs (R138). -/
def State.rekeyBars (s : State) (i leg : Nat) (m : Migration) : Bool :=
  (m.lpddr || ((s.place i).legs.getD leg {}).lpddr) && (s.part (s.place i).partition).rekey.isSome

/-- Abandon the migrations of a partition's LPDDR5X legs: their destination frames are free (R137, R138). -/
def State.abandonLpddr (s : State) (p : Nat) : State :=
  let drop (l : Leg) : Leg :=
    if l.migration.any fun m => m.lpddr || l.lpddr then
      { l with abandoned := l.migration, migration := none, lastMove := some s.clk }
    else l
  { s with placements := tblMap s.placements fun _ x =>
      if x.live && x.partition == p then { x with legs := x.legs.map drop } else x }

/-- The lines of partition space in the written pages of a leg. -/
def State.legLines (s : State) (i leg : Nat) : List Nat :=
  let x := s.place i
  ((x.legs.getD leg {}).written).flatMap fun page =>
    (List.range 64).map fun k => spaceKey x.partition (x.offset + (leg * 512 + page) * 4096) / 64 + k

/-- The copier reads the upset lines of a leg at its source: an uncorrectable line is poisoned and stays so at the
destination, and what a code passes wrong is stored there (R105, R108). -/
def State.copyLines (s : State) (i leg : Nat) : State :=
  if s.mem.upsets.isEmpty then s
  else (s.legLines i leg).foldl (fun s line =>
    match s.physLine line with
    | none => s
    | some l => if s.upset l = 0 then s else if s.uncorrectable line then s.poisonLine line else s.writeBack l) s

/-- The copier meets a line of the leg whose tag is wrong (R95). -/
def State.copyMismatch (s : State) (i leg : Nat) : Option Nat :=
  if s.mem.wrongTag.isEmpty && s.mem.upsets.isEmpty then none
  else if ((s.place i).legs.getD leg {}).lpddr then none
  else (s.legLines i leg).find? fun line => s.wrongTagIn (line * 64 / 2 ^ 44) (line * 64 % 2 ^ 44) 64

/-- PRE_COPY_PASS_END (R133 steps 3 and 4, R137): at most 8 dirty pages lead to cut-over; the fourth pass that leaves
more abandons the migration. A line that the copier finds under another partition's tag is a security event, and the
migration is abandoned (R95). -/
def execPreCopyPassEnd (placement leg : Nat) (s : State) : Host.Outcome State Fault Refusal :=
  .next (match s.migration? placement leg with
    | none => s
    | some m =>
      if m.ready || s.rekeyBars placement leg m then s
      else if let some line := s.copyMismatch placement leg then
        (s.accessFault (s.place placement).partition (line * 64 % 2 ^ 44) 64 Status.lineTagMismatch).modLeg placement leg
          fun l => { l with migration := none, abandoned := some m, lastMove := some s.clk }
      else if m.dirty.length ≤ 8 then
        s.modLeg placement leg fun l => { l with migration := some { m with passes := m.passes + 1, ready := true, progressClk := s.clk } }
      else if m.passes + 1 < 4 then
        s.modLeg placement leg fun l => { l with migration := some { m with passes := m.passes + 1, dirty := [], progressClk := s.clk } }
      else s.modLeg placement leg fun l => { l with migration := none, abandoned := some m, lastMove := some s.clk })

/-- CUT_OVER (R133 steps 5 and 6, R134, R135): the dirty pages are copied, the leg points at its new frames, and the
commits that waited go on at the destination. -/
def execCutOver (placement leg : Nat) (s : State) : Host.Outcome State Fault Refusal :=
  .next (match s.migration? placement leg with
    | none => s
    | some m =>
      if m.ready && !s.rekeyBars placement leg m then
        ((s.copyLines placement leg).modLeg placement leg fun l => { l with
          lpddr := m.lpddr, quadrant := m.quadrant, frames := m.frames, migration := none, source := some (l.lpddr, l.frames)
          lastMove := some s.clk, moves := l.moves + 1 }).stir
      else s)

/-- Where the pins of a placement would have a leg: the tier, and the quadrant (4 for all of LPDDR5X) (R130, R131). -/
def State.pinnedPlace (s : State) (x : Placement) (l : Leg) : Bool × Nat :=
  let lpddr := if x.pinTier && x.tier != 0 then x.tier == 2 else l.lpddr
  (lpddr, if x.pinQuadrant then x.quadrant else if lpddr == l.lpddr then l.quadrant else if lpddr then 4 else s.mostFree)

/-- Atlas migrates the first leg whose location breaks a pin; it moves one leg at a time (R131). -/
def State.pursuePins (s : State) (i : Nat) : State :=
  let x := s.place i
  if x.legs.any fun l => l.migration.isSome then s
  else
    match x.legs.zipIdx.find? fun r => s.pinnedPlace x r.1 != (r.1.lpddr, r.1.quadrant) with
    | some r => s.startMigration i r.2 .hint (s.pinnedPlace x r.1).1 (s.pinnedPlace x r.1).2
    | none => s

/-- SOURCE_FREE (R131, R133 step 7): the source frames are freed, and the charge moves with them; the next leg that breaks a
pin follows. -/
def execSourceFree (placement leg : Nat) (s : State) : Host.Outcome State Fault Refusal :=
  .next ((s.modLeg placement leg fun l => { l with source := none }).pursuePins placement)

/-- MIGRATION_RETRY (R137): 10 ms after it was abandoned, or at once for a retirement, a migration runs again. -/
def execMigrationRetry (placement leg : Nat) (s : State) : Host.Outcome State Fault Refusal :=
  .next (match ((s.place placement).legs[leg]?).bind fun l => l.abandoned with
    | some m =>
      if m.reason == .retirement then
        match s.mem.retireDue.find? fun r => (s.holders r.1 r.2).contains (placement, leg) with
        | some r => s.moveRegion r.1 r.2 placement leg
        | none => s
      else s.startMigration placement leg m.reason m.lpddr m.quadrant
    | none => s)

end Sys2Proof.Machine
end

