-- ==== Sys2Proof/Machine/Sessions.lean ====
section
/-!
DEFINITION. Machine/Sessions.lean: Izlis sessions and bulk transfers: OPEN, CLOSE, QUERY_LIMITS, BULK_OPEN, BULK_PUT,
BULK_GET, BULK_CLOSE of a read or a discard, and the 1 s limit (R41, R46 to R58, R487).
-/

namespace Sys2Proof.Machine

/-! ## Use of the quotas' resources -/

/-- What a partition uses of a resource kind (R45, R58). -/
def State.inUse (s : State) (p kind : Nat) : Nat :=
  match kind with
  | 0 => (s.contexts.filter fun r => (r.2.state == .live || r.2.state == .aborted) && r.2.partition == p).length
  | 1 => (s.queues.filter fun r => r.2.partition == p).length
  | 2 => (s.rings.filter fun r => r.2.partition == p).length
  | 3 => (s.regions.filter fun r => r.2.valid && r.2.partition == p).length
  | 4 => (s.trigs.filter fun r => r.2.1 == p).length
  | 5 => s.chargedPages p false
  | 6 => s.chargedPages p true
  | 7 => (s.kernels.filter fun r => r.2.partition == p).length
  | _ => (s.qps.filter fun r => r.2.partition == p).length

/-! ## Sessions (R46 to R48) -/

/-- Some other mailbox of the function is open. -/
def State.othersOpen (s : State) (fn m : Nat) : Bool :=
  [0, 1, 2, 3].any fun i => i != m && (s.mbx (mbxKey fn i)).version != 0

/-- The version an OPEN gets, or the detail of VERSION_MISMATCH (R47, R48). -/
def State.chooseVersion (s : State) (fn m lo hi : Nat) : Except Nat Nat :=
  match [3, 2, 1].filter fun v => lo ≤ v && v ≤ hi with
  | [] => .error 3
  | v :: _ =>
    if !s.othersOpen fn m then .ok v
    else if lo ≤ (s.func fn).izlis && (s.func fn).izlis ≤ hi then .ok (s.func fn).izlis
    else .error (s.func fn).izlis

/-- The first status that OPEN earns apart from the version: its length (R43) and the faulted device (R53). -/
def State.openCheck (s : State) (fn : Nat) (x : Mailbox) : Option (Nat × Nat) :=
  if x.argWords != 1 then some (Status.badLength, 1)
  else if s.diagOnly && fn != 0 then some (Status.deviceFaulted, 0)
  else none

/-- Enter the session: its sequence is accepted whatever it is, and a bulk transfer is discarded (R41, R48, R56). -/
def State.openSession (s : State) (fn k v : Nat) : State :=
  (s.modFunc fn fun f => { f with izlis := v }).modMbx k fun x => { x with
    version := v, lastSeq := x.seq, bulk := none, bulkLapsed := false }

/-- The response word of OPEN: the version and the running firmware's major, minor and patch numbers. -/
def State.openWord (s : State) (v : Nat) : W64 :=
  let f := (s.fw.slot s.fw.runningSlot).version
  w64 (v + bits f 23 16 * 2 ^ 8 + bits f 15 8 * 2 ^ 16 + bits f 7 0 * 2 ^ 24)

/-- OPEN (R41, R46 to R48): a refused OPEN leaves the mailbox as it was. -/
def execOpenSession (fn m : Nat) (s : State) : Host.Outcome State Fault Refusal :=
  let k := mbxKey fn m
  let x := s.mbx k
  .next (
    if s.serving k 0x0001 && s.servesNow true then
      let s := s.firstServe
      match s.openCheck fn x with
      | some (st, d) => s.respond k st d []
      | none =>
        match s.chooseVersion fn m (x.arg 0 % 256) (bits (x.arg 0) 15 8) with
        | .error d => s.respond k Status.versionMismatch d []
        | .ok v => (s.openSession fn k v).respond k Status.ok 0 [s.openWord v]
    else s)

/-- Close a mailbox; the function's version is released with its last open one (R47, R56). A BULK_STATE still owed to
the next bulk command after the 1 s limit is owed no more (DESIGN CHOICE, assumption log 16). -/
def State.closeMailbox (s : State) (fn m : Nat) : State :=
  let s := s.modMbx (mbxKey fn m) fun x => { x with version := 0, bulk := none, bulkLapsed := false }
  if s.othersOpen fn m then s else s.modFunc fn fun f => { f with izlis := 0 }

/-- CLOSE (R47, R56). -/
def execCloseSession (fn m : Nat) (s : State) : Host.Outcome State Fault Refusal :=
  .next (s.serve fn m { opcode := 0x0002, rights := .any, words := some 0, diag := true, inBulk := true, needsKey := false }
    fun s _ _ => okWith (s.closeMailbox fn m) [])

/-- QUERY_LIMITS (R45, R58): a function bound to no partition has no quota the manual names; its answer is open
(assumption log 3). -/
def execQueryLimits (fn m : Nat) (s : State) : Host.Outcome State Fault Refusal :=
  .next (s.serve fn m { opcode := 0x0003, rights := .any, needsKey := false } fun s p x =>
    let kind := x.arg 0 % 256
    if 9 ≤ kind then failWith s Status.reservedEncoding
    else if (s.func fn).bound.isNone then
      let (v, s) := s.draw
      okWith s [w64 v]
    else okWith s [w64 (s.quota p kind + s.inUse p kind * 2 ^ 32)])

/-! ## What can be read: dumps, snapshots and key session messages -/

/-- A crash dump as its partition reads it: the clear header, the ciphertext and its tag (R502, R525). -/
def State.dumpObject (s : State) (p : Nat) (d : Dump) : List Byte :=
  let head := leBytes 1 p ++ [1, 0, 0] ++ leBytes 4 d.sequence ++ leBytes 4 d.body.length ++ [0, 0, 0, 0]
  head ++ gcmSeal (workKey (s.part p).root p 5 d.sequence 0 32) (List.replicate 12 0) head d.body

/-- A snapshot record: the model's name of the counter, the scope and the value (R528). -/
structure SnapRecord where
  name : Nat
  scope : Nat
  value : Nat
  deriving DecidableEq, Repr

/-- The records of the published snapshot, with the inline ECC mode, which no command changes between boots (R99). -/
def State.snapRecords (s : State) : List SnapRecord :=
  let v := s.survey
  { name := Count.inlineEcc, scope := 0, value := b2n s.mem.inlineEcc } :: (v.snapshot.map fun r =>
    { name := r.1 % 2 ^ 16, scope := r.1 / 2 ^ 16, value := r.2 })
  ++ v.snapDepth.map fun r =>
    let name := 2 ^ 16 + r.1 / 2 ^ 16
    if r.1 < 2 ^ 16 ∨ (2 ^ 18 ≤ r.1 ∧ r.1 < 2 ^ 19) then
      let q := r.1 % 2 ^ 16
      { name, scope := scopeWord 4 (match s.queue? q with
          | some x => x.partition
          | none => 0) q, value := r.2 }
    else { name, scope := scopeWord 2 0 (r.1 % 2 ^ 16)
           value := if r.1 / 2 ^ 16 = 8 then r.2 / v.snapSamples else r.2 }

/-- Put a number in its place in an ascending list without repeats. -/
def insertId (a : Nat × Nat) : List (Nat × Nat) → List (Nat × Nat)
  | [] => [a]
  | b :: r => if a.1 < b.1 then a :: b :: r else if a.1 = b.1 then b :: r else b :: insertId a r

/-- The snapshot object (R528): a VF's holds only records of its partition. -/
def State.snapshotObject (s : State) (fn : Nat) : List Byte :=
  let own := fun (r : SnapRecord) =>
    isPf fn || (decide (3 ≤ r.scope / 2 ^ 28) && r.scope / 2 ^ 28 != 7
      && (s.func fn).bound == some (r.scope / 2 ^ 24 % 16))
  let l := s.snapRecords.filter own
  let names := l.foldl (fun t r => insertId ((Config.counterId r.name).toNat, r.name) t) []
  let v := s.survey
  leBytes 8 v.epoch.toNat ++ leBytes 8 v.snapStart.toNat ++ leBytes 8 v.snapEnd.toNat ++ leBytes 4 l.length
    ++ leBytes 4 (64 + 16 * l.length) ++ List.replicate 32 0
    ++ (l.flatMap fun r => leBytes 4 (Config.counterId r.name).toNat ++ leBytes 4 r.scope ++ leBytes 8 r.value)
    ++ names.flatMap fun n => leBytes 4 n.1 ++ padTo 32 (ascii (Config.counterName n.2))

/-- The functions bound to a partition, each with its TDISP state. -/
def State.boundList (s : State) (p : Nat) : List Byte :=
  s.funcs.flatMap fun r => if r.2.bound = some p then leBytes 2 r.1 ++ leBytes 1 r.2.tdisp else []

/-- The key check value of a partition: purpose 0x06 (R490). -/
def Partition.checkValue (x : Partition) (p : Nat) : List Byte := if x.keyed then workKey x.root p 6 0 0 32 else List.replicate 32 0

/-- Block 16 + p. -/
def State.partitionBlock (s : State) (p : Nat) : List Byte :=
  let x := s.part p
  leBytes 1 (b2n x.keyed) ++ padTo 64 x.owner ++ x.checkValue p ++ leBytes 4 x.fabric.current ++ leBytes 4 x.memGen
    ++ leBytes 1 (b2n x.rekey.isSome) ++ leBytes 4 x.dumpSeq ++ s.boundList p

/-- Block 2: running slot, svn, header and body digest of its image. -/
def State.runningImage (s : State) : List Byte :=
  let x := s.fw.slot s.fw.runningSlot
  leBytes 1 s.fw.runningSlot ++ leBytes 4 x.svn ++ padTo 2048 x.image ++ padTo 64 x.digest

/-- The seed of the alias key pair of the running firmware (R476). -/
def State.aliasKey (s : State) : List Byte := aliasSeed (shake256 s.runningImage 64)

/-- A signature by the alias key over the SHAKE256 digest of a message, zero-padded (R487, R507); its randomness is open. -/
def State.sign (s : State) (message : List Byte) : List Byte × State :=
  let (v, s) := s.draw
  (padTo 1280 (Config.falconSign s.aliasKey (shake256 message 64) v), s)

/-- OFFER of a new key session (R487), with the digests of the partition's measurement block (R508) and of the alias public
key, and a fresh encapsulation key; the nonce and the signature's length are open. -/
def State.makeOffer (s : State) (p id kem : Nat) : List Byte × State :=
  let (nonce, s) := s.drawBytes 32
  let (length, s) := s.drawBytes 2
  let body := leBytes 4 1 ++ leBytes 1 p ++ [0, 0, 0] ++ leBytes 4 id ++ [0, 0, 0, 0] ++ nonce ++ shake256 (s.partitionBlock p) 64
    ++ shake256 (Config.falconPublic s.aliasKey) 64 ++ padTo 1568 (Config.kemPublic kem) ++ length ++ [0, 0]
  let g := s.sign body
  (body ++ g.1, g.2)

/-- Start a key session of a partition at step 1, ending any earlier one (R487). -/
def State.startKeySession (s : State) (p : Nat) : State :=
  let (id, s) := s.draw
  let (kem, s) := s.draw
  let (offer, s) := s.makeOffer p (id % 2 ^ 32) kem
  s.modPart p fun x => { x with session := some { id := id % 2 ^ 32, next := 1, offer, kem, lastClk := s.clk } }

/-- KEY_RESP of command k: the envelope around the response plaintext (R489). -/
def KeySession.keyResp (x : KeySession) (k : Nat) : List Byte :=
  let head := leBytes 4 4 ++ leBytes 4 x.id ++ leBytes 4 k ++ [0, 0, 0, 0]
  head ++ gcmSeal x.responseKey (leBytes 12 k) head x.response

/-- The message that a key session reads at a step. -/
def KeySession.message (x : KeySession) (step : Nat) : List Byte :=
  if step = 1 then x.offer else x.keyResp ((step - 2) / 2)

/-! ## Bulk objects (R54 to R57) -/

/-- What the table of bulk object kinds gives of a kind. -/
structure BulkKind where
  since : Nat := 1
  rights : Rights := .tenant
  writing : Bool := true
  diag : Bool := false
  /-- Accepted for an EMPTY partition (R472). -/
  empty : Bool := false
  deriving DecidableEq, Repr

/-- The bulk object kinds; kind 5's rights follow its object id. -/
def bulkKind (kind oid : Nat) : Option BulkKind :=
  match kind with
  | 1 => some { since := 2 }
  | 2 => some { rights := .pf0, diag := true }
  | 3 => some { rights := .pf }
  | 4 => some { since := 2 }
  | 5 => if oid % 256 = 0xFF then some { rights := .pf, writing := false, diag := true }
    else some { writing := false }
  | 6 => some { rights := .any, writing := false }
  | 7 => some { rights := .pf }
  | 8 => some { empty := true }
  | 9 => some { writing := false, empty := true }
  | _ => none

/-- The status a kind earns from the caller: its version, rights, the faulted device, the missing key (R49, R50, R53,
R472). -/
def State.bulkCheck (s : State) (fn : Nat) (x : Mailbox) (b : BulkKind) : Option Nat :=
  if x.version < b.since then some Status.notInVersion
  else if !s.permits fn b.rights then some Status.notPermitted
  else if s.diagOnly && !(fn == 0 && b.diag) then some Status.deviceFaulted
  else if b.rights == .tenant && !b.empty && !(s.part (s.boundTo fn)).keyed then some Status.keyNotInstalled
  else none

/-- The greatest bulk object (R55). -/
def bulkMax : Nat := 0x1000000

/-- The status of opening an object to be written, with its detail; `none` opens it (R55, R309, R482, R487). -/
def State.bulkWriteCheck (s : State) (p kind len oid : Nat) : Option (Nat × Nat) :=
  if bulkMax < len then some (Status.noResource, 0)
  else
    match kind with
    | 2 => if 2 ≤ oid then some (Status.badObject, 1)
      else if oid = s.fw.selector then some (Status.objectInUse, 0) else none
    | 3 => if len = 0 ∨ len % 16 ≠ 0 then some (Status.outOfBounds, 0)
      else if 65536 < bits oid 31 16 + len / 16 then some (Status.outOfBounds, 1) else none
    | 4 => if (tblGet (s.part p).jobs (oid % 2 ^ 24)).isNone then some (Status.badObject, 1) else none
    | 8 => match (s.part p).session with
      | some k => if oid = k.next ∧ (oid = 2 ∨ (3 ≤ oid ∧ oid % 2 = 1)) then none
        else some (Status.keySessionFailed, 6)
      | none => some (Status.keySessionFailed, 6)
    | _ => none

/-- Open an object to be read: its bytes, or a status (R487, R502, R525, R528). -/
def State.bulkReadObject (s : State) (fn p kind oid : Nat) : Except (Nat × Nat) (List Byte × State) :=
  match kind with
  | 5 =>
    if oid % 256 = 0xFF then
      if s.fw.deviceDump then .ok (s.fw.deviceDumpBody, s) else .error (Status.badObject, 1)
    else if 16 ≤ oid % 256 then .error (Status.reservedEncoding, 1)
    else if oid % 256 ≠ p then .error (Status.badObject, 1)
    else match (s.part p).dump with
      | some d => .ok (s.dumpObject p d, s)
      | none => .error (Status.badObject, 1)
  | 6 => .ok (s.snapshotObject fn, s)
  | _ =>
    let s := if oid = 1 then s.startKeySession p else s
    match (s.part p).session with
    | some k => if oid = k.next ∧ (oid = 1 ∨ (4 ≤ oid ∧ oid % 2 = 0)) then .ok (k.message oid, s)
      else .error (Status.keySessionFailed, 6)
    | none => .error (Status.keySessionFailed, 6)

/-- Put a bulk transfer on a mailbox; it belongs to the function's binding (R52). -/
def State.openBulk (s : State) (k : Nat) (b : Bulk) : State :=
  s.modMbx k fun x => { x with bulk := some { b with bound := (s.func (k / 4)).bound } }

/-- The transfer that died of its 1 s makes this command fail once (R56). -/
def State.lapsed (s : State) (k : Nat) : Answer :=
  failWith (s.modMbx k fun x => { x with bulkLapsed := false }) Status.bulkState

/-- BULK_OPEN (R54, R55, R57, R309, R487). -/
def execBulkOpen (fn m : Nat) (s : State) : Host.Outcome State Fault Refusal :=
  .next (s.serve fn m { opcode := 0x0101, rights := .any, words := some 2, diag := true, needsKey := false } fun s p x =>
    let k := mbxKey fn m
    let kind := x.arg 0 % 256
    let len := x.arg 0 / 2 ^ 32
    let oid := x.arg 1
    if x.bulkLapsed then s.lapsed k
    else
      match bulkKind kind oid with
      | none => failWith s Status.reservedEncoding
      | some b =>
        match s.bulkCheck fn x b with
        | some st => failWith s st
        | none =>
          if b.writing then
            match s.bulkWriteCheck p kind len oid with
            | some (st, d) => failWith s st d
            | none => okWith (s.openBulk k { kind, length := len, objectId := w64 oid, writing := true, lastClk := s.clk })
                [w64 (len * 2 ^ 32)]
          else
            match s.bulkReadObject fn p kind oid with
            | .error (st, d) => failWith s st d
            | .ok (l, s) => okWith (s.openBulk k { kind, length := l.length, objectId := w64 oid, data := l, lastClk := s.clk })
                [w64 (l.length * 2 ^ 32)])

/-- Chunks of an object (R55). -/
def Bulk.chunks (b : Bulk) : Nat := (b.length + 255) / 256

/-- The words that a chunk carries: 32, or what is left in the last (R55). -/
def Bulk.wordsIn (b : Bulk) (i : Nat) : Nat := min 32 ((b.length - 256 * i + 7) / 8)

/-- The status that the caller earns on the object as opened (R50, R52, R58, R60): a tenant's object belongs to the
partition under which it was opened (assumption log 66). -/
def State.asOpened (s : State) (fn : Nat) (b : Bulk) : Option Nat :=
  match bulkKind b.kind b.objectId.toNat with
  | none => none
  | some k =>
    if !s.permits fn k.rights then some Status.notPermitted
    else if (k.rights == .tenant || (k.rights == .any && !isPf fn)) && (s.func fn).bound != b.bound then
      some Status.notPermitted
    else if s.diagOnly && !(fn == 0 && k.diag) then some Status.deviceFaulted
    else if k.rights == .tenant && !k.empty && !(s.part (s.boundTo fn)).keyed then some Status.keyNotInstalled
    else none

/-- Serve a command on the open transfer of a mailbox: none is open, it has lapsed, or the caller has lost its right. -/
def State.onBulk (s : State) (fn k : Nat) (x : Mailbox) (f : Bulk → Answer) : Answer :=
  if x.bulkLapsed then s.lapsed k
  else match x.bulk with
    | none => failWith s Status.bulkState
    | some b => match s.asOpened fn b with
      | some st => failWith s st
      | none => f b

/-- BULK_PUT (R43, R55). The manual names no status for a last chunk of another length than the object leaves, nor for
a put after the last chunk: the model answers BAD_LENGTH and BULK_STATE (DESIGN CHOICE, assumption log 16). -/
def execBulkPut (fn m : Nat) (s : State) : Host.Outcome State Fault Refusal :=
  let k := mbxKey fn m
  .next (s.serve fn m
    { opcode := 0x0102, rights := .any, words := none, diag := true, inBulk := true, needsKey := false } fun s _ x =>
    s.onBulk fn k x fun b =>
      if !b.writing then failWith s Status.bulkState
      else if x.chunk ≠ b.nextChunk ∨ b.chunks ≤ b.nextChunk then failWith s Status.bulkState b.nextChunk
      else if x.argWords ≠ b.wordsIn b.nextChunk then failWith s Status.badLength (b.wordsIn b.nextChunk)
      else okWith (s.openBulk k { b with
          data := b.data ++ (wordBytes (x.data.take x.argWords)).take (min 256 (b.length - 256 * b.nextChunk))
          nextChunk := b.nextChunk + 1, lastClk := s.clk }) [])

/-- BULK_GET (R55). The manual names no status for a chunk beyond the object's end, nor for a put on an object being
read or a get on one being written: the model answers BULK_STATE, with detail 0 (DESIGN CHOICE, assumption log 16). -/
def execBulkGet (fn m : Nat) (s : State) : Host.Outcome State Fault Refusal :=
  let k := mbxKey fn m
  .next (s.serve fn m
    { opcode := 0x0103, rights := .any, words := some 0, diag := true, inBulk := true, needsKey := false } fun s _ x =>
    s.onBulk fn k x fun b =>
      if b.writing || b.chunks ≤ x.chunk then failWith s Status.bulkState
      else okWith (s.openBulk k { b with lastClk := s.clk }) (bytesWords (b.wordsIn x.chunk) (b.data.drop (256 * x.chunk))))

/-! ## The end of a transfer -/

/-- The opcode of BULK_CLOSE. -/
def opBulkClose : Nat := 0x0104

/-- What the command set gives of BULK_CLOSE. -/
def closeCmd : Cmd := { opcode := opBulkClose, rights := .any, diag := true, inBulk := true, needsKey := false }

/-- The whole written object whose commit the submitted BULK_CLOSE asks for. -/
def State.committing (s : State) (k : Nat) : Option Bulk :=
  let x := s.mbx k
  match x.bulk with
  | some b => if b.writing && bit (x.arg 0) 0 && b.chunks ≤ b.nextChunk && !x.bulkLapsed then some b else none
  | none => none

/-- The transfer is over. -/
def State.endBulk (s : State) (k : Nat) : State := s.modMbx k fun x => { x with bulk := none }

/-- Serve BULK_CLOSE with commit on a whole object of a kind: the transfer ends whatever the object's checks say
(R57). -/
def State.serveCommit (s : State) (fn m kind : Nat) (pick : Bulk → Bool) (body : State → Nat → Bulk → Answer)
    (cores : Cores := .agree) : State :=
  let k := mbxKey fn m
  match s.committing k with
  | some b =>
    if b.kind = kind ∧ pick b = true then
      s.serve fn m { closeCmd with cores } fun s p x => s.onBulk fn k x fun b => body (s.endBulk k) p b
    else s
  | none => s

/-- A read key-session message has been read: the session moves on, or ends after END's response (R487, R490). -/
def State.messageRead (s : State) (p : Nat) : State :=
  s.modPart p fun x => { x with session := match x.session with
    | some k => if k.ending then none else some { k with next := k.next + 1, lastClk := s.clk }
    | none => none }

/-- The next step of a partition's key session. -/
def State.nextStepOf (s : State) (p : Nat) : Option Nat := (s.part p).session.map fun k => k.next

/-- BULK_CLOSE of a read, of a discard (commit at 0), without a transfer, or before every chunk is put (R55 to R57,
R487); a commit of a whole object is the row of its kind. -/
def execBulkClose (fn m : Nat) (s : State) : Host.Outcome State Fault Refusal :=
  let k := mbxKey fn m
  .next (
    if (s.committing k).isSome then s
    else s.serve fn m closeCmd fun s p x => s.onBulk fn k x fun b =>
      if b.writing then
        if bit (x.arg 0) 0 then failWith s Status.bulkState b.nextChunk else okWith (s.endBulk k) []
      else okWith (if b.kind = 9 ∧ s.nextStepOf p = some b.objectId.toNat then (s.endBulk k).messageRead p
        else s.endBulk k) [])

/-- BULK_TIMEOUT (R56): a transfer without a chunk for 1 s is discarded. -/
def execBulkTimeout (fn m : Nat) (s : State) : Host.Outcome State Fault Refusal :=
  .next (s.modMbx (mbxKey fn m) fun x => match x.bulk with
    | some b => if b.lastClk + us 1000000 ≤ s.clk then { x with bulk := none, bulkLapsed := true } else x
    | none => x)

end Sys2Proof.Machine
end

