-- ==== Sys2Proof/Machine/Xlate.lean ====
section
/-!
DEFINITION. Machine/Xlate.lean: the commands of address translation: tiles, translation completions, page request
responses, invalidations (R150 to R171).
-/

namespace Sys2Proof.Machine

/-- TILE_START (R150 to R152): a tile whose pages are all translated starts. -/
def execTileStart (tile : Nat) (s : State) : Host.Outcome State Fault Refusal :=
  .next ((s.startTile tile).stir)

/-! ## Translation completions (R155 to R157, R162) -/

/-- Close the fault entries of pages; an entry closes once its page is translated as it asks (R160, R162). -/
def closeFaults (h : HostPort) (pasid : Option Nat) (rq : Nat) : HostPort :=
  { h with faults := h.faults.filter fun f => !(f.pasid == pasid && h.look rq pasid f.page f.write == .hit) }

/-- An entry whose response was Success and whose page a request has now found to fault still. -/
def FaultEntry.unresolved (f : FaultEntry) (pasid : Option Nat) (pages : List Nat) : Bool :=
  f.answered && f.pasid == pasid && pages.contains f.page

/-- End the work of tiles with a status. -/
def State.failTiles (s : State) (ids : List Nat) (status : Nat) : State := ids.foldl (fun s id => s.doomTile id status) s

/-- The answered entries of pages that still fault are requested once more; a fault on the repeat ends their tiles
(R162). -/
def State.faultAgain (s : State) (port : Nat) (pasid : Option Nat) (pages : List Nat) : State :=
  let l := (s.host port).faults.filter fun f => f.unresolved pasid pages
  let lost := (l.filter fun f => f.repeated).flatMap fun f => f.tiles
  let s := s.modHost port fun h => { h with
    faults := (h.faults.filter fun f => !(f.unresolved pasid pages && f.repeated)).map fun f =>
      if f.unresolved pasid pages then { f with again := true } else f }
  (s.failTiles lost.eraseDups Status.translationFault).retryGroups port

/-- A tile takes what a completion translated; one whose pages still fault faults. -/
def State.tileAnswer (s : State) (id : Nat) (failed : Bool) (pages : List Nat) : State :=
  match tblGet s.tiles id with
  | none => s
  | some _ =>
    let s := s.lookTile id
    match tblGet s.tiles id with
    | none => s
    | some t =>
      let bad := t.missing.any fun p =>
        pages.contains p && (failed || (s.host t.port).look t.requester t.pasid p t.write != .hit)
      if (s.host t.port).faults.any fun f => f.tiles.contains id then s
      else if bad then s.faultTile id
      else (s.modTile id fun t => if t.state == .faulted then { t with state := .waiting } else t).walkTile id

/-- An invalidation covers a page of a PASID. -/
def invCovers (base length : Nat) (pasid : Option Nat) (global : Bool) (p : Option Nat) (page pages : Nat) : Bool :=
  (global || p == pasid) && overlaps base length (page * 4096) (pages * 4096)

/-- The pages that a completion covers: those it translates, and those asked for. -/
def coveredPages (w : Walk) (l : List PageResult) : List (Nat × Nat) :=
  w.pages.map (fun p => (p, 1)) ++ l.map fun r => (r.page, r.size / 4096)

/-- The completion is stale: an invalidation of its range reached the hub after its request was issued (R157). -/
def Walk.staleFor (w : Walk) (l : List PageResult) : Bool :=
  w.since.any fun v => (coveredPages w l).any fun p => invCovers v.1 v.2.1 v.2.2.1 v.2.2.2 w.pasid p.1 p.2

/-- What a completion translates, and whether it failed. -/
def xlateResult : XlateEnd → Bool × List PageResult
  | .pages l => (false, l)
  | .failed => (true, [])

/-- TRANSLATION_COMPLETION (R155 to R158, R162): a stale completion is discarded and its request issued again; one of a
function whose ATS Enable is 0 is discarded; otherwise the ATC takes the pages, and what waits goes on or faults. -/
def execTranslationCompletion (port request : Nat) (result : XlateEnd) (s : State) : Host.Outcome State Fault Refusal :=
  .next (match (s.host port).walks.find? fun w => w.id == request with
    | none => s
    | some w =>
      let (failed, l) := xlateResult result
      let s := s.modHost port fun h => { h with walks := h.walks.filter fun x => x.id != request }
      if !s.translated w.requester then s.issueWalks
      else if w.staleFor l then (s.modHost port fun h => { h with misses := w :: h.misses }).issueWalks
      else
        let entries := l.flatMap fun r => atcEntries w.requester w.pasid r
        let s := s.modHost port fun h => closeFaults (h.fill w.requester w.pasid entries) w.pasid w.requester
        let s := if failed && w.tiles.isEmpty then s.modHost port fun h => { h with
            failed := h.failed ++ w.pages.map fun p => (w.requester, w.pasid, p) } else s
        let s := s.faultAgain port w.pasid w.pages
        let s := w.tiles.foldl (fun s id => s.tileAnswer id failed w.pages) s
        s.issueWalks.stir)

/-! ## Page request groups (R161 to R163) -/

/-- Close a group with its entries; its index is free unless it stays for a late response (R163). The requests of a group
that timed out no longer count against the allocation (DESIGN CHOICE, assumption log 72). -/
def State.closeGroup (s : State) (port group : Nat) (keep : Bool) : State :=
  s.modHost port fun h => { h with
    groups := if keep then h.groups.map fun g => if g.id == group then { g with timedOut := true, pages := [] } else g
              else h.groups.filter fun g => g.id != group
    faults := h.faults.filter fun f => f.answered || f.again || f.group != group }

/-- Success: the group is over, and its entries stay open until their pages are translated (R160, R162). -/
def State.answerGroup (s : State) (port group : Nat) : State :=
  s.modHost port fun h => { h with
    groups := h.groups.filter fun g => g.id != group
    faults := h.faults.map fun f => if !f.answered && !f.again && f.group == group then { f with answered := true } else f }

/-- The entries that wait for a group's response. -/
def HostPort.groupFaults (h : HostPort) (group : Nat) : List FaultEntry :=
  h.faults.filter fun f => !f.answered && !f.again && f.group == group

/-- The tiles that wait on a group's entries. -/
def HostPort.groupTiles (h : HostPort) (group : Nat) : List Nat :=
  ((h.groupFaults group).flatMap fun f => f.tiles).eraseDups

/-- PAGE_REQUEST_GROUP_RESPONSE (R162, R163, R166). -/
def execPageRequestGroupResponse (port group : Nat) (response : PrgResponse) (s : State) :
    Host.Outcome State Fault Refusal :=
  .next (match (s.host port).groups.find? fun g => g.id == group with
    | none => s
    | some g =>
      if g.timedOut then (s.closeGroup port group false).retryGroups port
      else
        let ids := (s.host port).groupTiles group
        let write := ((s.host port).groupFaults group).any fun f => f.write
        match response with
        | .success =>
          (((s.answerGroup port group).missPages port g.requester g.pasid g.pages write ids).retryGroups port).stir
        | .invalidRequest =>
          (((s.closeGroup port group false).failTiles ids Status.translationFault).retryGroups port).stir
        | .responseFailure =>
          ((((s.closeGroup port group false).failTiles ids Status.pageRequestFailed).modFunc g.requester fun f => { f with
            priStopped := true }).retryGroups port).stir)

/-- PAGE_REQUEST_TIMEOUT (R163): 500 ms after a group was sent without a response. -/
def execPageRequestTimeout (port group : Nat) (s : State) : Host.Outcome State Fault Refusal :=
  .next (match (s.host port).groups.find? fun g => g.id == group with
    | none => s
    | some g =>
      if g.timedOut || s.clk < g.sentClk + us 500000 then s
      else
        let ids := (s.host port).groupTiles group
        (((s.closeGroup port group true).failTiles ids Status.pageRequestTimeout).retryGroups port).stir)

/-! ## Invalidations (R34, R167 to R171) -/

/-- The engine holds something under a translation that an invalidation covers: a pre-translation of a tile, or a host
read it issued under one that is still outstanding (R168). -/
def State.engineHolds (s : State) (port e base length : Nat) (pasid : Option Nat) (global : Bool) : Bool :=
  let hit := fun (p : Option Nat) (page : Nat) => invCovers base length pasid global p page 1
  (s.tiles.any fun r => r.2.engine == e && r.2.port == port && r.2.ready.any fun p => hit r.2.pasid p.1)
    || (s.host port).reads.any fun r => r.origin.any fun o => o.1 == e && hit r.pasid o.2

/-- A tile meets an invalidation (R169): it loses the overlapping pre-translations, and one in progress with requests
left under them is cancelled and keeps what it moved. -/
def Tile.invalidate (t : Tile) (port base length : Nat) (pasid : Option Nat) (global : Bool) : Tile :=
  let hit := fun p => invCovers base length pasid global t.pasid p 1
  if t.port != port || !t.ready.any (fun r => hit r.1) then t
  else
    { t with
      ready := t.ready.filter fun r => !hit r.1
      state := if t.state == .started && t.remaining.any hit then .cancelled else t.state }

/-- The engines: the four transport engines and the 64 sequencers (R167). -/
def engines : List Engine := List.range 68

/-- Send the Invalidation Completion after the last acknowledgement (R170); while the link is down it waits behind the host
writes that wait there. -/
def State.closeInvalidation (s : State) (port tag : Nat) : State :=
  match (s.host port).invalidations.find? fun v => v.tag == tag with
  | some v =>
    if v.pending.isEmpty && (s.host port).linkUp then
      (s.modHost port fun h => { h with invalidations := h.invalidations.filter fun x => x.tag != tag }).emit
        (.invalidationDone port tag)
    else s
  | none => s

/-- INVALIDATE_REQUEST (R157, R167 to R169): the ATC entries go, the engines discard and cancel, and those that hold
nothing in the range acknowledge at once. At most 32 are in progress on a port. -/
def execInvalidateRequest (port tag base length : Nat) (pasid : Option Nat) (global : Bool) (s : State) :
    Host.Outcome State Fault Refusal :=
  .next (if 32 ≤ (s.host port).invalidations.length || (s.host port).invalidations.any (fun v => v.tag == tag) then s
    else
      let s := s.modHost port fun h => { h with
        atc := h.atc.filter fun e => !invCovers base length pasid global e.pasid e.page (e.size / 4096)
        failed := h.failed.filter fun f => !invCovers base length pasid global f.2.1 f.2.2 1
        walks := h.walks.map fun w => { w with since := w.since ++ [(base, length, pasid, global)] } }
      let s := { s with tiles := tblMap s.tiles fun _ t => t.invalidate port base length pasid global }
      let holding := engines.filter fun e => s.engineHolds port e base length pasid global
      let s := s.modHost port fun h => { h with
        invalidations := h.invalidations ++ [{ tag, base, length, pasid, global, pending := holding, arrivedClk := s.clk }] }
      let s := (s.tiles.map fun r => r.1).foldl State.walkTile s
      s.closeInvalidation port tag)

/-- INVALIDATION_ACK (R168, R170): an engine that meets R168 acknowledges; the last one sends the completion. -/
def execInvalidationAck (port tag engine : Nat) (s : State) : Host.Outcome State Fault Refusal :=
  .next (match (s.host port).invalidations.find? fun v => v.tag == tag with
    | none => s
    | some v =>
      if s.engineHolds port engine v.base v.length v.pasid v.global then s
      else
        ((s.modHost port fun h => { h with invalidations := h.invalidations.map fun x =>
          if x.tag == tag then { x with pending := x.pending.filter fun e => e != engine } else x
          }).closeInvalidation port tag))

/-- Treat a host read as never issued: its data is discarded when it arrives, and its tile issues it again (R169). -/
def State.unread (s : State) (port : Nat) (r : HostRead) : State :=
  let s := s.modHost port fun h => { h with reads := h.reads.map fun x =>
    if x.tag == r.tag then { x with purpose := .discard, origin := none } else x }
  match r.purpose with
  | .tile id off n => (s.modTile id fun t => { t with
      state := if t.state == .started then .cancelled else t.state, redo := t.redo ++ [(off - t.offset, n)] }).walkTile id
  | .slots _ _ _ => s
  | .flush _ _ => s
  | .responder _ _ _ => s
  | .probe _ => s
  | .discard => s

/-- STALE_READ_EXPIRY (R169): 950 µs after an invalidation arrived, the host reads outstanding under the old
translation count as never issued. -/
def execStaleReadExpiry (port tag : Nat) (s : State) : Host.Outcome State Fault Refusal :=
  .next (match (s.host port).invalidations.find? fun v => v.tag == tag with
    | none => s
    | some v =>
      if s.clk < v.arrivedClk + us 950 then s
      else
        let old := (s.host port).reads.filter fun r => r.origin.any fun o =>
          invCovers v.base v.length v.pasid v.global r.pasid o.2 1
        old.foldl (fun s r => s.unread port r) s)

/-! ## ATS Enable and PRI Reset (R159, R162) -/

/-- Every ATC entry and pre-translation of a function goes (R159); what waited for a translation or a page request of it
waits no longer, since its requests go untranslated (R158). -/
def State.clearTranslations (s : State) (fn : Nat) : State :=
  let mine := (s.tiles.filter fun r => r.2.requester == fn).map fun r => r.1
  let s := (s.forgetTiles mine).modHost (fnPort fn) fun h => { h with
    atc := h.atc.filter fun e => e.requester != fn
    failed := h.failed.filter fun f => f.1 != fn
    misses := h.misses.filter fun w => w.requester != fn }
  { s with tiles := tblMap s.tiles fun _ t =>
      if t.requester == fn then { t with ready := [], state := if t.state == .faulted then .waiting else t.state } else t }

/-- ATS_ENABLE_CLEAR (R158, R159). -/
def execAtsEnableClear (fn : Nat) (s : State) : Host.Outcome State Fault Refusal :=
  .next (if (s.func fn).present then
      ((s.clearTranslations fn).modFunc fn fun f => { f with atsEnable := false }).stir
    else s)

/-- ATS Enable is set: the tiles of the function that have not begun translate their pages (R151, R152). -/
def State.enableAts (s : State) (fn : Nat) : State :=
  let mine := (s.tiles.filter fun r => r.2.requester == fn).map fun r => r.1
  if s.translated fn then s else mine.foldl State.translateTile (s.modFunc fn fun f => { f with atsEnable := true })

/-- PRI_RESET (R162): the function may send page requests again. -/
def execPriReset (fn : Nat) (s : State) : Host.Outcome State Fault Refusal :=
  .next (if (s.func fn).present then s.modFunc fn fun f => { f with priStopped := false } else s)

end Sys2Proof.Machine
end

