-- ==== Sys2Proof/Machine/Teardown.lean ====
section
/-!
DEFINITION. Machine/Teardown.lean: the shared ends of functions, host ports and partitions: queues and rings that go
with their function, the function reset (R437), the port reset (R436) and the erasure of a partition (R60).
-/

namespace Sys2Proof.Machine

/-! ## Queues and rings -/

/-- The accepted descriptors of a queue that have not completed. -/
def State.openOf (s : State) (q : Nat) : List W32 :=
  match s.queue? q with
  | some x => (x.held.filter fun d => d.phase != .completed).map fun d => d.index
  | none => []

/-- Cut off every accepted descriptor of a queue with a status; the number cut (R63). -/
def State.cutQueue (s : State) (q status : Nat) : State × Nat :=
  ((s.openOf q).foldl (fun s i => s.cutWork q i status 0) s, (s.openOf q).length)

/-- Form the entries of a queue's ended descriptors at once. -/
def State.formAll (s : State) (q : Nat) (skipFlush : Bool) : State :=
  match s.queue? q with
  | some x => (x.held.filter fun d => d.phase == .completed && !s.entryFormed q d.index).foldl
      (fun s d => s.formEntry q d.index skipFlush) s
  | none => s

/-- A queue ends with its function: its descriptors complete with QUEUE_DESTROYED, and those whose ring stays write
their entries (R437 steps 3 to 5). -/
def State.endQueue (s : State) (q : Nat) (skipFlush : Bool := false) : State :=
  let (s, n) := s.cutQueue q Status.queueDestroyed
  ((s.formAll q skipFlush).dropQueue q).releaseWaits (waitsForQueue q) Status.ok 0 [w64 n]

/-- A ring is gone: the descriptors whose entries waited for it are retired without one. -/
def State.dropRing (s : State) (rn : Nat) : State :=
  match s.ring? rn with
  | some r => ((r.flushing.map fun f => f.entry) ++ r.waiting).foldl (fun s e => s.retireEntry e) { s with rings := tblErase s.rings rn }
  | none => s

/-- Descriptors of a context generation that have ended are retired without an entry (R437 step 4). -/
def State.discardEntries (s : State) (c : Nat) (gen : BitVec 8) : State :=
  { s with queues := tblMap s.queues fun _ x =>
      if x.context == c then
        let gone := fun (d : Desc) => d.contextGen == gen && d.phase == .completed
        { x with held := x.held.filter (fun d => !gone d), completed := x.completed + w32 (x.held.filter gone).length }
      else x }

/-! ## Contexts -/

/-- A context on the port uses the PASID (R165). -/
def State.pasidUsed (s : State) (port : Nat) (pasid : Option Nat) : Bool :=
  s.contexts.any fun r => (r.2.state == .live || r.2.state == .aborted) && r.2.port == port && r.2.pasid == pasid

/-- Page requests are open for the PASID on the port. -/
def State.pasidOpen (s : State) (port : Nat) (pasid : Option Nat) : Bool :=
  (s.host port).groups.any fun g => g.pasid == pasid

/-- Destroy a context: its generation is bumped and the slot quarantined for one MPL. A PASID with page requests open at
the destruction of one of its contexts has a Stop Marker sent with the last of them (R62, R165, R263). -/
def State.destroyContext (s : State) (c : Nat) : State :=
  let x := s.ctx c
  let due := s.pasidOpen x.port x.pasid || x.pasid.any fun n => (s.host x.port).stopDue.contains n
  let s := if x.state == .live then s.bumpContext c else s.modCtx c fun x => { x with gen := x.gen + 1, nextSeq := 0, unacked := [] }
  let s := s.modCtx c fun x => { x with state := .quarantined, quarantineEnd := s.mt + s.mpl, segments := [] }
  match x.pasid with
  | some n =>
    let last := due && !s.pasidUsed x.port x.pasid
    let s := s.modHost x.port fun h => { h with
      stopDue := if due && !last then (if h.stopDue.contains n then h.stopDue else h.stopDue ++ [n])
                 else h.stopDue.filter fun p => p != n }
    if last then s.emit (.stopMarker x.port n) else s
  | none => s

/-- The allocated contexts that a test picks. -/
def State.contextsWhere (s : State) (pick : Context → Bool) : List Nat :=
  (s.contexts.filter fun r => (r.2.state == .live || r.2.state == .aborted) && pick r.2).map fun r => r.1

/-! ## Function reset (R437) -/

/-- The commands of a function that still wait: they take effect although their responses are discarded (R44, R72). -/
def State.waitingOf (s : State) (fn : Nat) : List (Nat × Wait) :=
  (s.mailboxes.filter fun r => r.1 / 4 == fn).flatMap fun r => match r.2.wait with
    | some (.queueDrain q t) => [(r.1, .queueDrain q t)]
    | some (.regionRevoke _) => []
    | some (.sealedState _ _ _) => []
    | some (.scheduleEnd _ _) => []
    | some (.answered _ _ _) => []
    | none => []

/-- A function's mailboxes return to their reset values and close; responses are discarded (R72). -/
def State.resetMailboxes (s : State) (fn : Nat) : State :=
  (({ s with mailboxes := s.mailboxes.filter fun r => r.1 / 4 != fn }.modFw fun f => { f with
    orphans := f.orphans ++ s.waitingOf fn }).modFunc fn fun f => { f with izlis := 0 })

/-- What a function keeps over its reset: its presence, binding and stream; in a locked TDISP state it enters ERROR
(R421, R437). -/
def resetFunc (f : Func) : Func :=
  { present := f.present, generation := f.generation + 1, bound := f.bound, ideStream := f.ideStream
    tdisp := if f.tdisp = 0 then 0 else 3 }

/-- The bias, peer and window registers of a PF and the controls of its capabilities return to reset (R7, R413). The
backing stays (R425), and FN_HDM.handle names it; under a committed decoder the length is the decoder's (R426;
assumption log 66). -/
def resetPfHost (h : HostPort) : HostPort :=
  { h with hdmLength := if h.decoder then h.hdmLength else 0, retrains := 0, biasPage := 0, biasTarget := false, biasPages := 0, biasJob := none, rangeError := false
           p2p := [], priAllocation := 0, maxRead := 512, timeoutUs := 50000, ari := false }

/-- Reset one function (R437). -/
def State.resetFunction (s : State) (fn : Nat) (skipFlush : Bool := false) : State :=
  let mine := s.contextsWhere fun c => c.requester == fn
  let gens := mine.map fun c => (c, (s.ctx c).gen)
  let s := mine.foldl (fun s c => s.abortContext c) s
  let s := gens.foldl (fun s g => s.discardEntries g.1 g.2) s
  let rings := (s.rings.filter fun r => r.2.fn == fn).map fun r => r.1
  let s := rings.foldl State.dropRing s
  let queues := (s.queues.filter fun r => r.2.fn == fn).map fun r => r.1
  let s := queues.foldl (fun s q => s.endQueue q skipFlush) s
  let locked := (s.func fn).tdisp == 1 || (s.func fn).tdisp == 2
  let s := ((s.resetMailboxes fn).clearTranslations fn).modFunc fn resetFunc
  let s := if locked then s.count Count.measurementChange else s
  let s := if isPf fn then s.modHost (fnPort fn) resetPfHost else s
  mine.foldl State.destroyContext s

/-- The functions of a port that a host sees. -/
def State.functionsOf (s : State) (port : Nat) : List Nat :=
  (s.funcs.filter fun r => r.1 / 256 == port && r.2.present).map fun r => r.1

/-- Unbind a function. -/
def State.unbind? (s : State) (fn : Nat) : State :=
  let t := s.modFunc fn fun f => { f with bound := none }
  if (s.func fn).bound.isSome then t.count Count.measurementChange else t

/-! ## The memory window (R424, R425) -/

/-- The placement that backs a port's window. -/
def State.backing? (s : State) (port : Nat) : Option (Nat × Placement) :=
  s.placements.find? fun r => r.2.live && r.2.hdmPort == some port

/-- Free the backing of a port, if there is one; its contents are lost (R425). -/
def State.freeBacking (s : State) (port : Nat) : State :=
  let s := match s.backing? port with
    | some (i, _) => s.freePlacement i
    | none => s
  s.modHost port fun h => { h with
    hdmHandle := 0, hdmLength := 0, decoder := false, deviceBias := [], cache := [], biasWaits := [], biasJob := none }

/-! ## Port reset (R436) -/

/-- Bytes of a descriptor's host writes that still wait in the port's buffers. -/
def State.heldOf (s : State) (port q : Nat) (d : Desc) : Nat :=
  let h := s.host port
  heldBytes ((h.held ++ h.engineHeld).filter fun w => w.owner == some (.desc q d.index))

/-- The descriptor has issued or holds a host write on the port. -/
def doubtful (port : Nat) (d : Desc) : Bool :=
  match d.lastHostWrite with
  | some (p, _, _) => p == port
  | none => false

/-- End a descriptor of an aborted context under a port reset (R436 step 3): `held` counts the bytes of it that never
left. -/
def State.resetDesc (s : State) (port q : Nat) (d : Desc) (held : Nat) : State :=
  let own := match s.queue? q with
    | some x => (match s.ring? x.ring with
      | some r => fnPort r.fn == port
      | none => true)
    | none => true
  if own then
    let s := if doubtful port d then s.count Count.hostWriteInDoubt else s
    (s.note (if doubtful port d then Status.hostDeliveryUncertain else Status.contextAborted) 0x19 port none
      (w64 (q * 2 ^ 32 + d.index.toNat))).retire q d.index
  else
    let s := if doubtful port d then s.modDesc q d.index fun d => { d with
        status := Status.hostDeliveryUncertain, detail := 0, bytesDone := d.bytesDone - held } else s
    s.formEntry q d.index true

/-- The descriptors of a context generation that a queue holds without an entry. -/
def State.heldDescs (s : State) (c : Nat) (gen : BitVec 8) : List (Nat × Desc) :=
  s.queues.flatMap fun r =>
    if r.2.context == c then (r.2.held.filter fun d => d.contextGen == gen && !s.entryFormed r.1 d.index).map fun d => (r.1, d)
    else []

/-- Abort one context of the port and complete its descriptors as R436 says. -/
def State.resetContext (s : State) (port c : Nat) : State :=
  let g := (s.ctx c).gen
  let l := (s.heldDescs c g).map fun r => (r.1, r.2.index, r.2.phase == .completed, s.heldOf port r.1 r.2)
  let s := s.abortContext c
  l.foldl (fun s r => match s.desc? r.1 r.2.1 with
    | some d => if r.2.2.1 then s.formEntry r.1 r.2.1 true else s.resetDesc port r.1 d r.2.2.2
    | none => s) s

/-- Reset a host port (R436). -/
def State.resetPort (s : State) (port : Nat) : State :=
  let s := (s.contextsWhere fun c => c.port == port && c.state == .live).foldl (fun s c => s.resetContext port c) s
  let s := s.modHost port fun h => { h with
    held := [], engineHeld := [], retraining := false, linkUp := false, invalidations := [], walks := [], misses := [], failed := [], stopDue := [], faults := []
    groups := [], reads := h.reads.map fun r => { r with purpose := .discard } }
  let s := (s.functionsOf port).foldl (fun s f => (s.resetFunction f true).unbind? f) s
  ((s.freeBacking port).modHost port fun h => { h with cxlMem := false, linkIde := false, cxlIde := false }).stir

/-! ## Erasure (R60) -/

/-- What an erased partition keeps: the operator's quotas and shares, and the counts of its rings and alarms. -/
def erasedPartition (x : Partition) : Partition :=
  { quotas := x.quotas, weights := x.weights, logProducer := x.logProducer, log := x.log, alarms := x.alarms
    dumpSeq := x.dumpSeq }

/-- Free what a partition holds in the device's tables, once nothing of it runs. -/
def State.dropObjects (s : State) (p : Nat) : State :=
  let regions := tblMap s.regions fun _ r =>
    if r.valid && r.partition == p then
      { r with valid := false, gen := nextGen r.gen, quarantined := true, quarantineEnd := s.mt + s.mpl } else r
  let s := { s with
    regions, kernels := s.kernels.filter (fun r => r.2.partition != p), trigs := s.trigs.filter (fun r => r.2.1 != p)
    qps := s.qps.filter (fun r => r.2.partition != p), controllers := s.controllers.filter fun r => r.2.partition != p }
  ((s.placements.filter fun r => r.2.live && r.2.partition == p).map fun r => r.1).foldl (fun s i =>
    match (s.place i).hdmPort with
    | some port => s.freeBacking port
    | none => s.freePlacement i) s

/-- Release every schedule of a partition with its reservations. -/
def State.dropSchedules (s : State) (p : Nat) : State :=
  let ids := (s.part p).schedules.map fun c => c.header.id
  let jobs := (s.part p).jobs.map fun r => r.1
  let s := jobs.foldl (fun s j => s.abortJob p j) s
  ids.foldl (fun s id => (s.dropSchedule p id).releaseWaits (fun w => w == .scheduleEnd p id) Status.ok 0 []) s

/-- Drop the key rotations of a partition from the appointments. -/
def State.dropRotations (s : State) (p : Nat) : State :=
  s.modMer fun m => { m with appointments := m.appointments.filter fun a => match a.kind with
    | .keyRotation x _ => x != p
    | .chartSwap _ => true
    | .gateSwap _ => true
    | .surveyEpoch => true
    | .collective _ _ => true
    | .heartbeat _ _ => true }

/-- Erase a partition: every context is aborted, every object destroyed, the keys, dump and key session go, and every
function bound to it is unbound; a locked VF whose binding ends enters ERROR (R60, R421, R501). -/
def State.erasePartition (s : State) (p : Nat) : State :=
  let fns := (s.funcs.filter fun r => r.2.bound == some p).map fun r => r.1
  let queues := (s.queues.filter fun r => r.2.partition == p).map fun r => r.1
  let rings := (s.rings.filter fun r => r.2.partition == p).map fun r => r.1
  let mine := s.contextsWhere fun c => c.partition == p
  let s := mine.foldl (fun s c => s.abortContext c) s
  let s := s.dropSchedules p
  let s := rings.foldl State.dropRing s
  let s := queues.foldl (fun s q => s.endQueue q) s
  let s := mine.foldl State.destroyContext s
  let s := (((s.dropObjects p).dropRotations p).endLeave (.rekey p)).modPart p erasedPartition
  let s := s.count Count.measurementChange
  let s := s.modMem fun m => { m with wrongTag := m.wrongTag.filter fun l => l * 64 / 2 ^ 44 != p }
  fns.foldl (fun s f =>
    let s := if (s.func f).tdisp = 1 ∨ (s.func f).tdisp = 2 then s.resetFunction f else s
    s.unbind? f) s

end Sys2Proof.Machine
end

