-- ==== Sys2Proof/Machine/Programs.lean ====
section
/-!
DEFINITION. Machine/Programs.lean: kernel images and their load checks, trig points and jobs (R66, R381 to R386).
-/

namespace Sys2Proof.Machine

/-! ## Kernel images (R381 to R383) -/

/-- The steps of an image: step i at byte 64 + 32 i. -/
def imageSteps (l : List Byte) (n : Nat) : List Step := (List.range n).map fun i => parseStep (l.drop (64 + 32 * i))

/-- The loops of an image: target and own index. -/
def loopsOf (steps : List Step) : List (Nat × Nat) :=
  (steps.zipIdx.filter fun t => t.1.op == 6).map fun t => (bits t.1.c.toNat 10 0, t.2)

/-- The loop body holds a step. -/
def inLoop (b : Nat × Nat) (i : Nat) : Bool := b.1 ≤ i && i ≤ b.2

/-- Two loop bodies are disjoint or nested. -/
def loopsAgree (a b : Nat × Nat) : Bool :=
  decide (a.2 < b.1) || decide (b.2 < a.1) || (decide (a.1 ≤ b.1) && decide (b.2 ≤ a.2))
    || (decide (b.1 ≤ a.1) && decide (a.2 ≤ b.2))

/-- A loop passes check 6: it branches back, meets no other loop in part, and nests at most four deep. -/
def loopOk (l : List (Nat × Nat)) (b : Nat × Nat) : Bool :=
  decide (b.1 < b.2) && l.all (loopsAgree b) && decide ((l.filter fun a => inLoop a b.1 && inLoop a b.2).length ≤ 4)

/-- The last index of the innermost loop body that holds a step; the image's end where none does. -/
def innerEnd (l : List (Nat × Nat)) (n i : Nat) : Nat :=
  ((l.filter fun b => inLoop b i).map fun b => b.2).foldl min (n - 1)

/-- A PRED step passes check 7: the step it lands on stands in the image and in the innermost body. -/
def predOk (l : List (Nat × Nat)) (n i : Nat) (t : Step) : Bool :=
  t.op != 7 || (1 ≤ bits t.a.toNat 7 0 && i + 1 + bits t.a.toNat 7 0 ≤ innerEnd l n i)

/-- The constant global address of a step, where it holds one (R382). -/
def Step.constantGlobal (t : Step) : Option W64 :=
  if t.ind then none
  else if t.op = 1 ∧ t.sub = 1 then some t.a
  else if t.op = 2 then some t.c
  else none

/-- How often a step runs: the product of the counts of the loops whose bodies hold it. -/
def runsOf (steps : List Step) (l : List (Nat × Nat)) (i : Nat) : Nat :=
  ((l.filter fun b => inLoop b i).map fun b => bits ((steps.getD b.2 {}).a).toNat 15 0).foldl (· * ·) 1

/-- The index of the first step that fails a test. -/
def firstBad (steps : List Step) (ok : Nat → Step → Bool) : Option Nat :=
  (steps.zipIdx.find? fun t => !ok t.2 t.1).map fun t => t.2

/-- The header as a number. -/
def imageHead (l : List Byte) : Nat := leNat (padTo 64 l)

/-- step_count. -/
def stepCount (l : List Byte) : Nat := bits (imageHead l) 47 32

/-- Checks 1 to 3 and the header's part of check 4: the number of the first that fails. -/
def headCheck (l : List Byte) : Option Nat :=
  let v := imageHead l
  if bits v 23 0 ≠ 0x475A4B ∨ bits v 31 24 ≠ 1 then some 1
  else if l.length ≠ 64 + 32 * stepCount l ∨ stepCount l = 0 ∨ 2046 < stepCount l then some 2
  else if slice l 32 32 ≠ shake256 (l.drop 64) 32 then some 3
  else if bits v 51 48 ≠ 0 ∨ bits v 223 56 ≠ 0 ∨ bits v 55 53 = 7 then some 4
  else none

/-- The checks on the steps, 4 to 10: the number of the first that fails, and the step's index. -/
def stepCheck (p : Nat) (steps : List Step) : Option (Nat × Nat) :=
  let n := steps.length
  let l := loopsOf steps
  match firstBad steps fun _ t => t.reservedZero && decide (t.sub < subCount t.op) with
  | some i => some (4, i)
  | none =>
    if (steps.getD (n - 1) {}).op ≠ 15 then some (5, n - 1)
    else match firstBad steps fun i t => t.op != 6 || loopOk l (bits t.c.toNat 10 0, i) with
      | some i => some (6, i)
      | none => match firstBad steps fun i t => predOk l n i t with
        | some i => some (7, i)
        | none => match firstBad steps fun _ t => needsTimeout t.op t.sub == (t.timeout != 0) with
          | some i => some (8, i)
          | none => match firstBad steps fun _ t => match t.constantGlobal with
                | some a => gaPartition a == p
                | none => true with
            | some i => some (9, i)
            | none => (firstBad steps fun i _ => decide (runsOf steps l i ≤ 2 ^ 32)).map fun i => (10, i)

/-- The load checks of R382: the failing check's number, and the step's index or 0xFFFF for the header. -/
def loadCheck (p : Nat) (l : List Byte) : Option (Nat × Nat) :=
  match headCheck l with
  | some d => some (d, 0xFFFF)
  | none => stepCheck p (imageSteps l (stepCount l))

/-- The image's bound in nanoseconds (R383). -/
def kernelBound (steps : List Step) : Nat :=
  let l := loopsOf steps
  (steps.zipIdx.map fun t => runsOf steps l t.2 * if t.1.timeout = 0 then 10 else t.1.timeout * 1000).sum

/-- The image as loaded. -/
def kernelOf (p : Nat) (l : List Byte) : Kernel :=
  let v := imageHead l
  { partition := p, tc := bits v 55 53, bindGraticule := bit v 52, deadline := bits v 255 224
    steps := imageSteps l (stepCount l) }

/-- KERNEL_IMAGE_LOAD (R57, R381 to R383): the lowest free id of 256. -/
def execKernelImageLoad (fn m : Nat) (cores : Cores) (s : State) : Host.Outcome State Fault Refusal :=
  .next (s.serveCommit (cores := cores) fn m 1 (fun _ => true) fun s p b =>
    match loadCheck p b.data with
    | some (d, i) => .reply s Status.kernelInvalid d [w64 i]
    | none =>
      let k := kernelOf p b.data
      if k.deadline ≠ 0 ∧ k.deadline * 1000 < kernelBound k.steps then failWith s Status.deadlineInfeasible 0x0020
      else if !s.underQuota p 7 (s.inUse p 7) 1 then failWith s Status.quotaExceeded
      else match firstFree (fun i => (tblGet s.kernels i).isNone) 256 0 with
        | none => failWith s Status.noResource
        | some i => okWith { s with kernels := tblSet s.kernels i k } [w64 i])

/-- A running kernel uses an image. -/
def State.kernelRuns (s : State) (i : Nat) : Bool :=
  s.seqs.any fun r => match r.2.running with
    | some x => x.kernel == i
    | none => false

/-- KERNEL_UNLOAD (R66). -/
def execKernelUnload (fn m : Nat) (cores : Cores) (s : State) : Host.Outcome State Fault Refusal :=
  .next (s.serve fn m { opcode := 0x0501, cores, since := 2 } fun s p x =>
    let i := x.arg 0 % 256
    match tblGet s.kernels i with
    | none => failWith s Status.badObject
    | some k =>
      if k.partition ≠ p then failWith s Status.badObject
      else if s.kernelRuns i then failWith s Status.objectInUse
      else okWith { s with kernels := tblErase s.kernels i } [])

/-! ## Trig points (R66, R384) -/

/-- `n` trig points from `i` are free. -/
def State.trigsFree (s : State) (n i : Nat) : Bool :=
  decide (i + n ≤ 16384) && s.trigs.all fun r => decide (r.1 < i) || decide (i + n ≤ r.1)

/-- Give a partition `n` trig points from `i`, each at 0. -/
def State.giveTrigs (s : State) (p i n : Nat) : State := (List.range' i n).foldl (fun s j => s.setTrig j p 0) s

/-- TRIG_ALLOC (R384, R570). -/
def execTrigAlloc (fn m pick : Nat) (cores : Cores) (s : State) : Host.Outcome State Fault Refusal :=
  .next (s.serve fn m { opcode := 0x0502, cores, since := 2 } fun s p x =>
    let n := bits (x.arg 0) 14 0
    if n = 0 ∨ 16384 < n then failWith s Status.reservedEncoding
    else if !s.underQuota p 4 (s.inUse p 4) n then failWith s Status.quotaExceeded
    else match pickFree (s.trigsFree n) 0 16384 pick with
      | none => failWith s Status.noResource
      | some i => okWith (s.giveTrigs p i n) [w64 i])

/-- The trig points a running kernel's steps name (R66, R380). -/
def Running.trigsNamed (r : Running) : List Nat :=
  (r.image.steps.filter fun t => namesTrig t.op t.sub || t.sig).map r.trigOf

/-- A schedule of the partition, or a running kernel of it, uses a trig point of [i, i + n) (R66). -/
def State.trigsUsed (s : State) (p i n : Nat) : Bool :=
  ((s.part p).schedules.any fun c => overlaps c.header.trigBase 4 i n)
    || s.seqs.any fun r => match r.2.running with
      | some x => x.partition == p && x.trigsNamed.any fun t => decide (i ≤ t) && decide (t < i + n)
      | none => false

/-- TRIG_FREE (R66). -/
def execTrigFree (fn m : Nat) (cores : Cores) (s : State) : Host.Outcome State Fault Refusal :=
  .next (s.serve fn m { opcode := 0x0503, cores, since := 2 } fun s p x =>
    let i := bits (x.arg 0) 13 0
    let n := bits (x.arg 0) 46 32
    if !(List.range' i n).all (s.ownsTrig p) then failWith s Status.badObject
    else if s.trigsUsed p i n then failWith s Status.objectInUse
    else okWith { s with trigs := s.trigs.filter fun r => !(decide (i ≤ r.1) && decide (r.1 < i + n)) } [])

/-! ## Jobs (R66, R386, R411) -/

/-- JOB_CREATE (R386, R570). -/
def execJobCreate (fn m : Nat) (cores : Cores) (s : State) : Host.Outcome State Fault Refusal :=
  .next (s.serve fn m { opcode := 0x0504, cores, since := 2 } fun s p x =>
    let j := bits (x.arg 0) 23 0
    let n := bits (x.arg 0) 47 32
    if n < 2 then failWith s Status.reservedEncoding
    else if (s.job? p j).isSome then failWith s Status.objectInUse
    else okWith (s.modPart p fun y => { y with jobs := tblSet y.jobs j { members := n } }) [])

/-- Release a schedule, with the command that waited for it (R411). -/
def State.releaseSchedule (s : State) (p : Nat) (id : W32) : State :=
  (s.dropSchedule p id).releaseWaits (fun w => w == .scheduleEnd p id) Status.ok 0 []

/-- Destroy a job: its schedules are released and its running steps complete with JOB_ABORTED (R66, R493). -/
def State.destroyJob (s : State) (p j : Nat) : State :=
  let ids := ((s.part p).schedules.filter fun c => c.header.job == j).map fun c => c.header.id
  let s := ids.foldl (fun s id => s.releaseSchedule p id) (s.abortJob p j)
  (s.dropAppt (.keyRotation p (some j))).modPart p fun y => { y with jobs := tblErase y.jobs j }

/-- JOB_DESTROY (R66). -/
def execJobDestroy (fn m : Nat) (cores : Cores) (s : State) : Host.Outcome State Fault Refusal :=
  .next (s.serve fn m { opcode := 0x0505, cores, since := 2 } fun s p x =>
    let j := bits (x.arg 0) 23 0
    if (s.job? p j).isNone then failWith s Status.badObject else okWith (s.destroyJob p j) [])

/-- SCHEDULE_RELEASE (R407, R411): no new instance starts, and the release completes when a running one ends. -/
def execScheduleRelease (fn m : Nat) (cores : Cores) (s : State) : Host.Outcome State Fault Refusal :=
  .next (s.serve fn m { opcode := 0x0506, cores, since := 2 } fun s p x =>
    let id := w32 (x.arg 0)
    match s.schedule? p id with
    | none => failWith s Status.badObject
    | some c =>
      if c.running.isSome then
        .hold ((s.endCallers p c Status.badObject).modSchedule p id fun c => { c with released := true }) (.scheduleEnd p id)
      else okWith (s.dropSchedule p id) [])

end Sys2Proof.Machine
end

