-- ==== Sys2Proof/Machine/Admission.lean ====
section
/-!
DEFINITION. Machine/Admission.lean: schedule objects and their admission (R389 to R398, R401, R405 to R409). Bounds are
counted in Meridian units, each step's rounded up (assumption log 43).
-/

namespace Sys2Proof.Machine

/-! ## The object (R389, R390, R401, R405, R406) -/

/-- The header as read; message size 0 and depth 0 are replaced by Atlas's choice later. -/
def parseSchedule (l : List Byte) : SchedHeader :=
  let cls := field l 19 1
  let mode := field l 10 1
  { id := w32 (field l 0 4), job := field l 4 4 % 2 ^ 24, op := field l 8 1, algorithm := field l 9 1
    mode := bits mode 1 0, operation := bits mode 3 2, sr := bit mode 4, saturate := bit mode 5
    inFmt := bits (field l 11 1) 3 0, outFmt := bits (field l 11 1) 7 4, n := field l 12 2, rank := field l 14 2
    context := field l 16 2 % 4096, gen := BitVec.ofNat 8 (field l 18 1), tc := bits cls 2 0, landQ := bits cls 4 3
    msgSize := if bits cls 7 5 = 0 then 0 else 16384 * 2 ^ (bits cls 7 5 - 1)
    stream := w32 (field l 20 4), deadline := field l 24 4, trigBase := field l 28 2, startKind := field l 30 1
    depth := field l 31 1, count := field l 32 8, sendAddr := w64 (field l 40 8), recvAddr := w64 (field l 48 8)
    scratchAddr := w64 (field l 56 8), startTime := field l 64 8, period := field l 72 8 }

/-- The member table: endpoint and landing quadrant by rank (R390). -/
def parseMembers (l : List Byte) (n : Nat) : List (Nat × Nat) :=
  (List.range n).map fun r => (field l (128 + 4 * r) 2, bits (field l (128 + 4 * r) 4) 17 16)

/-- The bad fields of the header, by offset (R389). -/
def headFaults (l : List Byte) (job : Nat) (members : Option Nat) : List (Nat × Bool) :=
  let h := parseSchedule l
  [(4, field l 7 1 != 0 || h.job != job), (8, h.op == 0 || 7 < h.op), (9, 5 < h.algorithm),
   (10, 64 ≤ field l 10 1 || h.operation == 3), (11, reservedFmt h.inFmt || reservedFmt h.outFmt),
   (12, h.n < 2 || (match members with
     | some k => h.n != k
     | none => false)),
   (14, h.n ≤ h.rank), (19, h.tc == 7 || 6 ≤ bits (field l 19 1) 7 5), (30, 2 < h.startKind), (31, 8 < h.depth),
   (80, (slice l 80 48).any fun b => b != 0)]

/-- The bad entries of the member table, by offset (R390). -/
def memberFaults (l : List Byte) (n : Nat) : List (Nat × Bool) :=
  (List.range n).map fun r => (128 + 4 * r, 2 ^ 18 ≤ field l (128 + 4 * r) 4)

/-- The bad fields of the operation block, by offset in the block (R401, R405, R406). -/
def blockFaults (op n : Nat) (l : List Byte) : List (Nat × Bool) :=
  if op = 5 then
    let k := field l 7 1
    let wide := field l 4 2
    [(0, field l 0 4 == 0 || 65536 < field l 0 4), (4, wide < 32 || 16384 < wide || wide % 32 != 0),
     (7, bits k 3 0 == 0 || 8 < bits k 3 0 || 32 ≤ k), (8, field l 8 2 == 0), (10, field l 10 6 != 0),
     (56, field l 56 8 != 0)]
    ++ (List.range (field l 6 1 + 1)).map fun e => (64 + 8 * e, (List.range 4).any fun j =>
        let r := field l (64 + 8 * e + 2 * j) 2
        r != 0xFFFF && n ≤ r)
  else if op = 6 then
    let wide := field l 4 2
    [(0, field l 0 4 == 0 || 1048576 < field l 0 4), (4, wide < 32 || 4096 < wide || wide % 32 != 0),
     (6, 8 ≤ field l 6 1 || bits (field l 6 1) 1 0 == 3), (7, field l 7 1 != 0), (56, field l 56 8 != 0)]
  else if op = 7 then [(32, 1 < field l 32 1)]
  else []

/-- The operation block has the length its operation gives it. -/
def blockLength (op : Nat) (l : List Byte) : Bool :=
  if op = 5 then l.length == 64 + 8 * (field l 6 1 + 1)
  else if op = 6 then l.length == 64
  else if op = 7 then 33 ≤ l.length && l.length ≤ 40
  else l.isEmpty

/-- What check 1 finds: the offset of the first bad field, or a length that names no field. -/
inductive Malformed where
  | field (offset : Nat)
  | length
  deriving DecidableEq, Repr

/-- Check 1 of R407. -/
def scheduleFault (l : List Byte) (job : Nat) (members : Option Nat) : Option Malformed :=
  if l.length < 128 then some .length
  else
    let h := parseSchedule l
    let block := l.drop (128 + 4 * h.n)
    match (headFaults l job members).find? fun f => f.2 with
    | some f => some (.field f.1)
    | none =>
      if l.length < 128 + 4 * h.n ∨ blockLength h.op block = false then some .length
      else match (memberFaults l h.n ++ (blockFaults h.op h.n block).map fun f => (128 + 4 * h.n + f.1, f.2)).find?
          fun f => f.2 with
        | some f => some (.field f.1)
        | none => none

/-! ## Formats and algorithms (R357, R396, R397) -/

/-- Check 6: formats, mode and operation combine. -/
def scheduleFits (h : SchedHeader) (block : List Byte) : Bool :=
  if h.op = 5 then
    h.mode == 0 && (h.inFmt == 1 || h.inFmt == 2 || h.inFmt == 9 || h.inFmt == 0xA) && reductionFits 0 0 h.inFmt h.outFmt
  else if h.op = 6 then
    (h.mode == 0 || (h.mode == 2 && (parseEmbed block).combiner != 2)) && reductionFits h.mode 0 h.inFmt h.outFmt
  else reductionFits h.mode h.operation h.inFmt h.outFmt

/-- N is a power of two. -/
def isPow2 (n : Nat) : Bool := n == 2 ^ Nat.log2 n

/-- Check 8: a pinned algorithm fits the operation, N and mode (R396, R397). -/
def algorithmFits (h : SchedHeader) : Bool :=
  if h.algorithm = 0 then true
  else if h.op = 4 ∨ h.op = 5 ∨ h.op = 6 then h.algorithm == 5
  else if h.op = 3 then h.algorithm == 1 || h.algorithm == 3 || (h.algorithm == 2 && isPow2 h.n)
  else if h.mode = 1 then h.algorithm == 4
  else h.algorithm == 1 || h.algorithm == 3 || h.algorithm == 4 || (h.algorithm == 2 && isPow2 h.n)

/-- Bytes of one rank's send buffer, for operations 1, 2, 3 and 7. -/
def SchedHeader.sendBuffer (h : SchedHeader) : Nat := h.count * elemBytes h.inFmt

/-- Atlas's choice of algorithm (R397). -/
def chooseAlgorithm (h : SchedHeader) : Nat :=
  let bytes := h.sendBuffer
  if h.algorithm ≠ 0 then h.algorithm
  else if h.op = 4 ∨ h.op = 5 ∨ h.op = 6 then 5
  else if h.op = 3 then (if bytes ≤ 262144 ∧ h.n ≤ 64 then 3 else 1)
  else if h.mode = 1 then 4
  else if h.n = 2 ∨ (h.mode = 2 ∧ h.n ≤ 64) then 3
  else if bytes ≤ 262144 ∧ h.n ≤ 64 then 3
  else if bytes ≤ 8388608 ∧ isPow2 h.n = true then 2
  else 1

/-! ## Message size and pool (R394, R398) -/

/-- Bytes of a block; operations 5 and 6 have none. -/
def SchedHeader.blockBytes (h : SchedHeader) : Nat := h.quantum * elemBytes h.inFmt

/-- The smallest power of two, from 16 KiB, that is at least a number of bytes. -/
def atLeastPow2 (n : Nat) : Nat → Nat → Nat
  | 0, v => v
  | k + 1, v => if n ≤ v then v else atLeastPow2 n k (2 * v)

/-- Atlas's first choice of message size (R398); for operations 5 and 6, whose blocks the manual does not size, one of
16 KiB to 256 KiB that an open value picks. -/
def firstSize (h : SchedHeader) (open_ : Nat) : Nat :=
  if h.msgSize ≠ 0 then h.msgSize
  else if h.op = 5 ∨ h.op = 6 then 16384 * 2 ^ (open_ % 5)
  else if 1048576 ≤ h.blockBytes then 262144
  else atLeastPow2 ((h.blockBytes + 3) / 4) 5 16384

/-- Peers from which one step receives (R394). -/
def peersPerStep (h : SchedHeader) : Nat := if h.algorithm = 3 then h.n - 1 else 1

/-- The reservation of a message size (R394). -/
def reservationOf (h : SchedHeader) (size : Nat) : Nat := peersPerStep h * h.depth * packetsOf size * 4160

/-- The message size in force: halved down to 16 KiB while its reservation does not fit, unless pinned (R398). -/
def fitSize (h : SchedHeader) (room : Nat) (pinned : Bool) : Nat → Nat → Nat
  | 0, size => size
  | k + 1, size =>
    if pinned || reservationOf h size ≤ room || size ≤ 16384 then size else fitSize h room pinned k (size / 2)

/-! ## The bound (R408) -/

/-- A step as the bound sees it: the peers it sends to, all its peers, the bytes it sends and the elements it works. -/
structure BoundStep where
  sends : List Nat
  peers : List Nat
  bytes : Nat
  work : Nat

/-- The steps of an algorithm at a rank (R396, R408). -/
def boundSteps (h : SchedHeader) : List BoundStep :=
  let r := h.rank
  let n := h.n
  let q := h.quantum
  let carry := elemBytes h.carryFmt
  let out := elemBytes h.outFmt
  let next := (r + 1) % n
  let prev := ringSub n r 1
  if h.algorithm = 1 then
    (if h.hasRS then List.replicate (n - 1) ⟨[next], [next, prev], q * carry, q⟩ else [])
      ++ if h.hasAG then List.replicate (n - 1) ⟨[next], [next, prev], q * out, q⟩ else []
  else if h.algorithm = 2 then
    let l := Nat.log2 n
    (if h.hasRS then (List.range l).map fun s =>
        let k := 2 ^ (l - 1 - s)
        ⟨[r ^^^ k], [r ^^^ k], k * q * carry, k * q⟩ else [])
      ++ if h.hasAG then (List.range l).map fun t => ⟨[r ^^^ 2 ^ t], [r ^^^ 2 ^ t], 2 ^ t * q * out, 2 ^ t * q⟩ else []
  else if h.algorithm = 3 then
    (if h.hasRS then [⟨h.others, h.others, (n - 1) * q * elemBytes h.inFmt, (n - 1) * q⟩] else [])
      ++ if h.hasAG then [⟨h.others, h.others, (n - 1) * q * out, (n - 1) * q⟩] else []
  else if h.algorithm = 4 then
    let last := decide (r + 1 = n)
    let near := (if r = 0 then [] else [prev]) ++ if last then [] else [next]
    let down := if last then [] else [next]
    List.replicate (n - 2) ⟨down, near, if last then 0 else h.msgSize, h.msgSize / carry⟩
      ++ [⟨down, near, if last then 0 else h.count * carry, h.count⟩,
          ⟨if last then h.others else [], if last then h.others else [n - 1],
           if last then (if h.op = 2 then (n - 1) * q * out else (n - 1) * h.count * out) else 0,
           if h.op = 2 then q else h.count⟩]
  else (List.range n).drop 1 |>.map fun s =>
    ⟨[(r + s) % n], [(r + s) % n, ringSub n r s], h.count * elemBytes h.inFmt, h.count⟩

/-- Elements per second of the unit that works a step (R360, R406). -/
def unitRate (h : SchedHeader) (block : List Byte) : Nat :=
  if h.op = 7 then (if (parseOpt block).rule = 1 then 102400000000 else 409600000000)
  else if h.mode = 2 then 409600000000 else 819200000000

/-- n ÷ d rounded up; without a rate, longer than any deadline or period. -/
def ceilDiv (n d : Nat) : Nat := if n = 0 then 0 else if d = 0 then 2 ^ 96 else (n + d - 1) / d

/-- The largest chart distance to the peers of a step. -/
def State.farthest (s : State) (q : Nat) (members : List (Nat × Nat)) (l : List Nat) : Nat :=
  (l.map fun r => (s.chartEntry q (s.activeBank q) (members.getD r (0, 0)).1).distance).foldl max 0

/-- The ports Atlas picks for a peer: up to four of its productive set, as offered, else its lowest (R398). -/
def State.portsFor (s : State) (q : Nat) (ports : List Nat) (endpoint : Nat) : List Nat :=
  let e := s.chartEntry q (s.activeBank q) endpoint
  let l := (ports.filter fun p => p < 32 && e.productive.getLsbD p).eraseDups.take 4
  if l.isEmpty then ((List.range 32).filter fun p => e.productive.getLsbD p).take 1 else l

/-- The ports Atlas picks for a step. -/
def State.stepPorts (s : State) (q : Nat) (ports : List Nat) (members : List (Nat × Nat)) (l : List Nat) : List Nat :=
  (l.flatMap fun r => s.portsFor q ports (members.getD r (0, 0)).1).eraseDups

/-- The time of one step in Meridian units (R408). -/
def State.boundTime (s : State) (p : Nat) (ports : List Nat) (members : List (Nat × Nat)) (h : SchedHeader) (unit : Nat)
    (t : BoundStep) : Nat :=
  let lpath := 32000 + 24000 * s.farthest h.landQ members t.peers
  let cir := ((s.stepPorts h.landQ ports members t.sends).map fun i => ((s.port i).meterRates p 0).1).sum
  let wire := max (ceilDiv (t.bytes * 16000000000) cir) (ceilDiv (t.bytes * 2 * lpath) (t.sends.length * h.depth * h.msgSize))
  lpath + max wire (ceilDiv (t.work * 16000000000) unit)

/-- The bound of an instance in Meridian units; for operations 5 and 6, whose step sizes depend on data, open. -/
def State.instanceBound (s : State) (p : Nat) (ports : List Nat) (members : List (Nat × Nat)) (h : SchedHeader)
    (block : List Byte) (open_ : Nat) : Nat :=
  if h.op = 5 ∨ h.op = 6 then open_
  else 32000 + ((boundSteps h).map (s.boundTime p ports members h (unitRate h block))).sum

/-! ## Admission (R407) -/

/-- Sequencers of a quadrant that may be reserved. -/
def State.reservable (s : State) (q : Nat) : List Nat := (List.range' (16 * q) 16).filter s.seqFree

/-- The sequencer Atlas reserves; none when fewer than four of the quadrant's would stay unreserved. -/
def State.reserveSeq (s : State) (q pick : Nat) : Option Nat :=
  let free := s.reservable q
  let unreserved := (List.range' (16 * q) 16).filter fun k => (s.seq k).reservedBy.isNone
  if unreserved.length < 5 then none
  else if free.contains pick then some pick else free.head?

/-- The other schedules of the job agree on rank and N (check 2). -/
def State.jobAgrees (s : State) (p : Nat) (h : SchedHeader) : Bool :=
  ((s.part p).schedules.filter fun c => c.header.job == h.job).all fun c => c.header.n == h.n && c.header.rank == h.rank

/-- The status of the first range that fails R147 (check 5). -/
def State.rangesStatus (s : State) (p : Nat) (h : SchedHeader) (block : List Byte) : Nat :=
  ((h.ranges block).map fun r => s.rangeCheck h.context h.gen p r.2.1 r.2.2.1 r.2.2.2).find? (fun v => v != Status.ok)
    |>.getD Status.ok

/-- Appointment slots a schedule needs in its landing quadrant: its own, and the heartbeat's with the job's first. -/
def slotsNeeded (h : SchedHeader) (first : Bool) : Nat := b2n (h.startKind == 2) + b2n first

/-- Checks 2 to 12 in their order: the status and detail of the first that fails. -/
def State.admitCheck (s : State) (p : Nat) (h : SchedHeader) (members : List (Nat × Nat)) (block : List Byte) :
    Option (Nat × Nat) :=
  match s.job? p h.job with
  | none => some (Status.badObject, 0)
  | some j =>
    if !s.jobAgrees p h then some (Status.badObject, 0)
    else if (s.schedule? p h.id).isSome then some (Status.objectInUse, 0)
    else if j.key.isNone then some (Status.jobNotReady, 0)
    else if s.rangesStatus p h block ≠ Status.ok then some (s.rangesStatus p h block, 0)
    else if !scheduleFits h block then some (Status.formatMismatch, 8)
    else if !(List.range' h.trigBase 4).all (s.ownsTrig p) then some (Status.partitionScope, 0)
    else if !algorithmFits h then some (Status.deadlineInfeasible, 0x18)
    else if members.any fun m => (s.chartEntry h.landQ (s.activeBank h.landQ) m.1).kind == 0 then some (Status.deadlineInfeasible, 0x17)
    else if s.mer.lock = .unlocked then some (Status.deadlineInfeasible, 0x16)
    else if h.startKind = 2 ∧ h.startTime < s.mtQ h.landQ + mtUs 500 then some (Status.deadlineInfeasible, 0x15)
    else if 1024 < s.apptUsed h.landQ + slotsNeeded h (!j.heartbeat) then some (Status.deadlineInfeasible, 0x14)
    else none

/-- The landing pool of collectives in a quadrant (R258). -/
def collPool : Nat := 3145728

/-- The job's heartbeats begin with its first schedule (R387). -/
def State.startHeartbeat (s : State) (p : Nat) (h : SchedHeader) (members : List (Nat × Nat)) : State :=
  match s.job? p h.job with
  | none => s
  | some j =>
    if j.heartbeat || j.aborted then s
    else (s.modJob p h.job fun j => { j with
        heartbeat := true, rank := h.rank, endpoints := members, quadrant := h.landQ }).addAppt
      { kind := .heartbeat p h.job, time := s.mtQ h.landQ + mtUs 20, period := mtUs 20, quadrants := [h.landQ] }

/-- Admit a schedule: the pool space, the sequencer and the appointment slots are its own. -/
def State.takeSchedule (s : State) (p : Nat) (c : Schedule) : State :=
  let h := c.header
  let s := s.modQuad h.landQ fun d => { d with collReserved := d.collReserved + c.reservation }
  let s := s.modSeq c.sequencer fun q => { q with reservedBy := some (p, h.id) }
  let s := if h.startKind = 2 then
      s.addAppt { kind := .collective p h.id, time := h.startTime, period := h.period, quadrants := [h.landQ] } else s
  let s := s.modPart p fun x => { x with schedules := x.schedules ++ [c] }
  s.startHeartbeat p h c.members

/-- Checks 13 to 17, on the header as Atlas completes it; the schedule, or a reason of R409. -/
def State.finishAdmission (s : State) (p : Nat) (h0 : SchedHeader) (members : List (Nat × Nat)) (block : List Byte)
    (ports : List Nat) (pick openSize openBound : Nat) : Except Nat Schedule :=
  let h1 := { h0 with algorithm := chooseAlgorithm h0, depth := if h0.depth = 0 then 2 else h0.depth }
  let room := collPool - (s.quad h1.landQ).collReserved
  let h := { h1 with msgSize := fitSize h1 room (h0.msgSize != 0) 5 (firstSize h1 openSize) }
  match s.reserveSeq h.landQ pick with
  | none => .error 0x13
  | some k =>
    let bound := s.instanceBound p ports members h block openBound
    if room < reservationOf h h.msgSize then .error 0x12
    else if h.deadline ≠ 0 ∧ h.tc ≠ 6 then .error 0x10
    else if h.deadline ≠ 0 ∧ mtUs h.deadline < bound then .error 0x11
    else if h.period ≠ 0 ∧ h.period < bound then .error 0x19
    else .ok { header := h, members, block, bound, reservation := reservationOf h h.msgSize, sequencer := k
               trigSeen := (s.trigValue h.trigBase).toNat
               ports := (h.others.map fun r => s.portsFor h.landQ ports (members.getD r (0, 0)).1).flatten.eraseDups }

/-- Admit the object of a partition's job, or refuse it by the first check that fails (R407). -/
def State.admission (s : State) (p : Nat) (l : List Byte) (oid : Nat) (ports : List Nat) (pick : Nat) : Answer :=
  let job := oid % 2 ^ 24
  match scheduleFault l job ((s.job? p job).map fun j => j.members) with
  | some (.field o) => failWith s Status.scheduleInvalid o
  | some .length => let (v, s) := s.draw; failWith s Status.scheduleInvalid v
  | none =>
    let h := parseSchedule l
    let members := parseMembers l h.n
    let block := l.drop (128 + 4 * h.n)
    match s.admitCheck p h members block with
    | some (st, d) => failWith s st d
    | none =>
      let (v, s) := s.draw
      let (b, s) := s.draw
      match s.finishAdmission p h members block ports pick v b with
      | .error d => failWith s Status.deadlineInfeasible d
      | .ok c => okWith (s.takeSchedule p c) [w64 h.id.toNat]

/-- The object uses what Izlis 3 added: exact or ordered reduction, or token-routed all-to-all (R49). -/
def scheduleOf3 (l : List Byte) : Bool :=
  let h := parseSchedule l
  h.op == 5 || ((h.mode == 1 || h.mode == 2) && (h.op == 1 || h.op == 2 || h.op == 6 || h.op == 7))

/-- SCHEDULE_ADMISSION (R49, R57, R386 to R398, R407 to R409). -/
def execScheduleAdmission (fn m : Nat) (ports : List Nat) (sequencer : Nat) (cores : Cores) (s : State) :
    Host.Outcome State Fault Refusal :=
  .next (s.serveCommit (cores := cores) fn m 4 (fun _ => true) fun s p b =>
    if scheduleOf3 b.data && (s.mbx (mbxKey fn m)).version < 3 then failWith s Status.notInVersion
    else s.admission p b.data b.objectId.toNat ports sequencer)

end Sys2Proof.Machine
end

