-- ==== Sys2Proof/Machine/Transport.lean ====
section
/-!
DEFINITION. Machine/Transport.lean: the commands of the transport, of congestion control and of the egress scheduler
(chapters 07 and 08). A command names an event; where its state does not hold, nothing happens.
-/

namespace Sys2Proof.Machine

/-! ## Messages begin and transmit -/

/-- MESSAGE_BEGIN (R218, R246, R272, R310): a READY message begins, waits or fails. -/
def execMessageBegin (quadrant msg : Nat) (s : State) : Host.Outcome State Fault Refusal :=
  .next (match s.sender? quadrant msg with
    | some x => if x.state == .ready && !s.unitDown (.transport quadrant) then s.tryBegin quadrant msg x else s
    | none => s)

/-- RESERVATION_GRANT (R246, R261): response space has come free for a READ in WAIT_RESV. -/
def execReservationGrant (quadrant msg : Nat) (s : State) : Host.Outcome State Fault Refusal :=
  .next (match s.sender? quadrant msg with
    | some x =>
      if x.state == .waitResv && decide ((s.quad quadrant).reserved + reserveBytes x ≤ responsePool) then
        s.tryBegin quadrant msg x
      else s
    | none => s)

/-- The port an egress packet of a message takes: none toward this device (R310). -/
def State.wirePort (s : State) (q : Nat) (x : Sender) (port : Nat) : Option Nat :=
  if s.ownDst q (s.activeBank q) x.dst then none else some port

/-- The egress scheduler lets packet `k` of a message go at a port whose offers are coloured: it is the offer chosen there,
and the ring has credit to take it there (R22, R277 to R279, R311). -/
def State.egressOk (s : State) (q m : Nat) (x : Sender) (k port : Nat) : Bool :=
  s.ownDst q (s.activeBank q) x.dst ||
    match (s.offers port).find? fun o => o.quadrant == q && o.msg == m && o.index == k with
    | some o => s.chosen port o && s.crossOpen q (port / 8) x.cls (80 + x.payloadBytes k)
    | none => false

/-- Charge an egress packet to its robin (R278). -/
def State.chargeOut (s : State) (x : Sender) (k : Nat) : Option Nat → State
  | none => s
  | some port => s.modPort port fun p =>
      p.serve (robinOf x.tc (((x.tint? port k).map fun t => t.colour).getD 0)) (x.partition * 8 + x.tc)
        (p.accounted (x.payloadBytes k))

/-- PACKET_TRANSMIT (R219, R225, R226, R241, R251, R269, R275 to R279, R497): a due packet is sealed and sent; with no
sealing engine free it waits. -/
def execPacketTransmit (quadrant msg index port busyPercent : Nat) (s : State) : Host.Outcome State Fault Refusal :=
  let s := s.tintPort port
  .next (match s.sender? quadrant msg with
    | none => s
    | some x =>
      if s.due quadrant msg x == some index && s.egressOk quadrant msg x index port
          && !s.unitDown (.transport quadrant) then
        if !s.engineFree quadrant false then s.askEngine quadrant false
        else match s.payload x index with
        | .bytes b => (s.chargeOut x index (s.wirePort quadrant x port)).transmit quadrant msg x index b
            (s.wirePort quadrant x port) busyPercent
        | .wait s => s
        | .fail s st => s.msgEnded quadrant msg st 0
      else s)

/-- A packet that waited to be sealed is transmitted now: it carries its own transmission time, a BEACON the issue time
that its flood is known by, and a NAK of R85 its copy's stamp; while UNLOCKED the device sends no other (R85, R219,
R231). -/
def State.sendUnsealed (s : State) (q : Nat) (r : Bool × Packet) : State :=
  if r.1 then s.inject q r.2 (jobOf r.2) true
  else if s.mer.lock == .unlocked then s
  else
    let issue := if r.2.route.opcode = opBeacon then r.2.issue else s.stamp q
    s.inject q { r.2 with issue, send := s.stamp q } (jobOf r.2)

/-- Packets that waited for a sealing engine go as engines fall free (R497). -/
def State.sealWaiting (s : State) : State :=
  [0, 1, 2, 3].foldl (fun s q =>
    let l := (s.quad q).unsealed
    if l.isEmpty || !s.counterReady q || !s.engineFree q false then s
    else l.foldl (fun s r => s.sendUnsealed q r) (s.modQuad q fun d => { d with unsealed := [] })) s

/-- EPOCH_RESERVED (R491): the advanced monotonic counter is written; packets that waited for it are sealed. -/
def execEpochReserved (quadrant : Nat) (s : State) : Host.Outcome State Fault Refusal :=
  .next (if (s.quad quadrant).epochPending then
      let s := s.modFw fun f => { f with counters := f.counters.set (3 + quadrant) (f.counters.getD (3 + quadrant) 0 + 1) }
      let l := (s.quad quadrant).unsealed
      let s := s.modQuad quadrant fun d => { d with epochPending := false, unsealed := [] }
      l.foldl (fun s r => s.sendUnsealed quadrant r) s
    else s)

/-! ## Copies arrive (R228 to R235, R247, R258, R260) -/

/-- The age check at the landing quadrant (R227, R228). -/
def State.freshEnough (s : State) (q : Nat) (issue : W32) : Bool :=
  match ageOf (s.mtQ q) issue with
  | some a => a ≤ s.mer.window.toNat
  | none => false

/-- A copy finds its packet already pending or verified, or its record FAILED (R235). -/
def Record.duplicate (r : Record) (k : Nat) : Bool :=
  r.state == .failed || r.pending.contains k || r.verified.getLsbD k

/-- A COLL_DATA copy is for a running instance whose step still lacks bytes (R395). -/
def State.collWanted (s : State) (p : Nat) (pkt : Packet) : Bool :=
  match s.schedule? p pkt.spec.schedule with
  | none => false
  | some c => match c.running with
    | none => false
    | some x => x.failed == 0 && !x.stepFull c pkt.spec.step pkt.spec.rank

/-- What check 7 of R247 finds in the landing pool of a copy's class. -/
def State.poolFits (s : State) (q : Nat) (pkt : Packet) : Bool :=
  let c := pkt.route.cls
  decide ((s.quad q).pool c + poolSpace pkt.payloadLen ≤ poolSize c)
    && (pkt.route.opcode != opColl || s.collWanted pkt.key.partition pkt)

/-- Hold an accepted copy: its pool space, and for a recorded message its record and pending bit. -/
def State.holdCopy (s : State) (q port : Nat) (pkt : Packet) (marked : Bool) : State :=
  let n := poolSpace pkt.payloadLen
  let c := pkt.route.cls
  let s := s.modQuad q fun d =>
    let d := d.setPool c (d.pool c + n)
    { d with copies := d.copies ++ [{ id := d.nextCopy, port, pkt, space := n, marked }], nextCopy := d.nextCopy + 1 }
  if pkt.route.opcode = opReadReq then s
  else
    match s.record? q pkt.key with
    | some _ => s.modRecord q pkt.key fun r => { r with pending := pkt.pktIndex :: r.pending }
    | none => s.modQuad q fun d => { d with
        records := { key := pkt.key, issue := pkt.issue, length := pkt.msgLength, pending := [pkt.pktIndex] } :: d.records }

/-- Checks 6 to 8 of R247. -/
def State.arrive (s : State) (q port : Nat) (pkt : Packet) : State :=
  let high := s.poolHigh q pkt.route.cls
  let marked := s.marksReply pkt high
  let rec? := if pkt.route.opcode = opReadReq then none else s.record? q pkt.key
  let dup := match rec? with
    | some r => r.duplicate pkt.pktIndex
    | none => false
  if dup then s.repeatReply q pkt marked
  else if !s.poolFits q pkt then
    if pkt.route.cls = 2 then s.count Count.poolDrop else s.refuse q pkt 5 rec?.isNone marked
  else if pkt.route.opcode != opReadReq && rec?.isNone && decide (262144 ≤ (s.quad q).records.length) then
    s.refuse q pkt 20 true marked
  else s.holdCopy q port pkt high

/-- What befalls a COLL_DATA copy before its checks: the schedule of a live job, in its own quadrant (R388, R394). -/
def State.collStray (s : State) (q : Nat) (pkt : Packet) : Option State :=
  let p := pkt.key.partition
  if pkt.route.opcode != opColl then none
  else
    match s.schedule? p pkt.spec.schedule, s.job? p pkt.spec.job with
    | some c, some j =>
      if j.aborted then some s
      else if c.header.landQ != q then some (s.note Status.collMisroute 0x14 q (some p))
      else none
    | _, some j => if j.aborted then some s else none
    | _, _ => none

/-- A packet for this device that waited at its input for the ring leaves it (R314). -/
def State.leaveInput (s : State) (port : Nat) (pkt : Packet) : State :=
  let same := fun (h : Head) =>
    h.pkt.key == pkt.key && h.pkt.route == pkt.route && h.pkt.pktIndex == pkt.pktIndex && h.replica.isNone
  if (s.port port).input.any same then
    s.modPort port fun x =>
      let l := x.input.filter fun h => !same h
      { x with input := match l with
        | h :: r => { h with headSince := some (h.headSince.getD s.clk) } :: r
        | [] => [] }
  else s

/-- The port number under which a packet of this device to itself arrives: it used no port, and has crossed the ring
already (R310). -/
def noPort : Nat := 32

/-- A packet of this device to itself, or one on an ACTIVE fabric port: no other input is read (R303, R310). -/
def State.inputOpen (s : State) (port : Nat) : Bool := port == noPort || s.fabricActive port

/-- A copy that an input brings to a quadrant may cross the ring (R22, R220). -/
def State.inputCrosses (s : State) (port q : Nat) (pkt : Packet) : Bool :=
  port == noPort || s.crossOpen (port / 8) q pkt.route.cls pkt.size

/-- PACKET_ARRIVAL (R224, R228 to R235, R247): a request, forwarded or collective copy meets the arrival checks; one
for another device becomes transit. One from another quadrant's port crosses the ring, and waits at its input while there
is no credit or the receive pipeline is fenced (R22, R220, R314, R516). -/
def execPacketArrival (quadrant port : Nat) (pkt : Packet) (s : State) : Host.Outcome State Fault Refusal :=
  .next (
    if !s.inputOpen port then s
    else if !headerValid pkt then s.note Status.headerInvalid 0x11 quadrant
    else if !s.ownDst quadrant pkt.route.epoch pkt.route.dst then s.headArrives port pkt
    else if !(isRequest pkt.route.opcode || pkt.route.opcode == opColl) || pkt.route.landQ != quadrant
      || !s.inputCrosses port quadrant pkt || s.unitDown (.receive quadrant) then s
    else
      let s := if port = noPort then s else (s.leaveInput port pkt).cross (port / 8) quadrant pkt.route.cls pkt.size
      if s.mer.lock == .unlocked then
        s.refuseUnlocked quadrant pkt (s.record? quadrant pkt.key).isNone
      else if s.beforeFloor pkt.issue then s
      else if !s.freshEnough quadrant pkt.issue then s.note Status.packetStale 0x11 quadrant
      else match s.collStray quadrant pkt with
        | some s => s
        | none => s.arrive quadrant port pkt)

/-- TAG_VERIFY (R121, R225, R234, R248, R250, R255, R256, R497): an opening engine has the trailer of a held copy; the copy
is dropped, or it is checked and lands. With no engine free it waits (assumption log 73). -/
def execTagVerify (quadrant copy : Nat) (trailer : List Byte) (s : State) : Host.Outcome State Fault Refusal :=
  .next (match s.copy? quadrant copy with
    | none => s
    | some c =>
      if c.verified || s.unitDown (.receive quadrant) then s
      else if !s.opens c.pkt then
        (s.note Status.keyGenUnknown 0x17 quadrant (some c.pkt.key.partition)).dropCopy quadrant c
      else if !s.engineFree quadrant true then s.askEngine quadrant true
      else
        let s := s.useEngine quadrant true c.pkt.size
        if !s.tagOk c.pkt trailer then (s.tagFailed quadrant c.pkt).dropCopy quadrant c
        else if c.pkt.route.opcode = opColl then s.modCopy quadrant copy fun c => { c with verified := true }
        else s.commitCopy quadrant c)

/-- RECORD_EXPIRY (R229): a record older than MPL is deleted, once no copy of its message is held, a flag packet in the
flag hold among them. -/
def execRecordExpiry (quadrant : Nat) (key : MsgKey) (s : State) : Host.Outcome State Fault Refusal :=
  .next (match s.record? quadrant key with
    | none => s
    | some r =>
      let old := match ageOf (s.mtQ quadrant) r.issue with
        | some a => decide (s.mpl < a)
        | none => false
      if old && r.flag.isNone && !(s.quad quadrant).copies.any fun c => c.pkt.key == key then s.deleteRecord quadrant key else s)

/-! ## Replies (R239 to R245, R257, R268, R274) -/

/-- The accelerator that an endpoint names in the bank of a packet (R307, R310). -/
def State.relayTo (s : State) (pkt : Packet) : Option Nat :=
  let e := s.chartEntry pkt.route.landQ pkt.route.epoch pkt.route.dst
  if pkt.route.dst != s.cfg.endpoint && e.kind == 3 then some e.accelerator else none

/-- What becomes of a reply or response that this quadrant discards before its tag: the header, step floor, age and key
checks in their order; `none` for one that passes them (R224, R228, R230, R492). -/
def State.replyDrop (s : State) (q op : Nat) (pkt : Packet) : Option State :=
  if pkt.route.opcode != op then some s
  else if !headerValid pkt then some (s.note Status.headerInvalid 0x11 q)
  else if !s.ownDst q pkt.route.epoch pkt.route.dst || pkt.route.landQ != q || s.beforeFloor pkt.issue then some s
  else if !s.freshEnough q pkt.issue then some (s.note Status.packetStale 0x11 q)
  else if !s.opens pkt then some (s.note Status.keyGenUnknown 0x17 q (some pkt.key.partition))
  else none

/-- An opening engine verifies a packet's tag: one that fails is dropped, and with no engine free it waits (R27, R225,
R497, assumption log 73). -/
def State.openPacket (s : State) (q : Nat) (pkt : Packet) (f : State → State) : State :=
  if s.unitDown (.receive q) then s
  else if !s.engineFree q true then s.askEngine q true
  else
    let s := s.useEngine q true pkt.size
    if !s.tagOk pkt pkt.trailer then s.tagFailed q pkt else f s

/-- The quadrant of an accelerator's ports (R318). -/
def Accel.quadrant (x : Accel) : Nat := ((List.range 32).find? fun p => x.portsInForce.getLsbD p).getD 0 / 8

/-- Write credits that relaying a packet costs: its 32-B attach header, its native header and its payload (R321). -/
def relayCost (pkt : Packet) : Nat := writeCost (80 + pkt.payloadLen)

/-- The message of an accelerator that a READ_RESP answers: its own key, not the responder's. -/
def State.relayKey (s : State) (a : Nat) (pkt : Packet) : MsgKey := { pkt.key with src := (s.accel a).endpoint.toNat }

/-- A READ_RESP has been passed: the space of its packet is released (R325). -/
def State.releaseRelay (s : State) (a : Nat) (pkt : Packet) : State :=
  let k := s.relayKey a pkt
  let x := s.accel a
  if x.relayReads.any fun r => r.1 == k && r.2.contains pkt.pktIndex then
    (s.modAccel a fun x => { x with
      relayReads := (x.relayReads.map fun r => if r.1 == k then (r.1, r.2.filter fun i => i != pkt.pktIndex) else r).filter
        fun r => !r.2.isEmpty }).modQuad x.quadrant fun d => { d with reserved := d.reserved - 4160 }
  else s

/-- Pass waiting READ_RESP packets while write credits last; `fuel` bounds them (R321). -/
def State.relayPump (s : State) (a : Nat) : Nat → State
  | 0 => s
  | n + 1 =>
    let x := s.accel a
    match x.relayWaiting with
    | [] => s
    | p :: rest =>
      if x.state == .up && relayCost p ≤ x.writeCredits then
        (((s.modAccel a fun x => { x with relayWaiting := rest, writeCredits := x.writeCredits - relayCost p }).emit
          (relayDown a p)).releaseRelay a p).relayPump a n
      else s

/-- Pass a reply to an accelerator (R321, R325): a READ_RESP against write credits, other replies at once. -/
def State.relayReply (s : State) (a : Nat) (pkt : Packet) : State :=
  if (s.accel a).state != .up then s
  else if pkt.route.opcode = opReadResp then
    let s := s.modAccel a fun x => { x with relayWaiting := x.relayWaiting ++ [pkt] }
    s.relayPump a (s.accel a).relayWaiting.length
  else s.emit (relayDown a pkt)

/-- Act on a reply: relayed to an accelerator's endpoint, discarded, or applied to the message it names (R239, R259). -/
def State.onReply (s : State) (q op : Nat) (pkt : Packet) (f : State → Nat → Sender → State) : State :=
  match s.replyDrop q op pkt with
  | some s => s
  | none => s.openPacket q pkt fun s =>
    match s.relayTo pkt with
    | some a => s.relayReply a pkt
    | none => match s.replied? q pkt with
      | some (m, x) => f s m x
      | none => s

/-- Store the old value an atomic's ACK carries (R203, R379). -/
def State.storeResult (s : State) (o : MsgOwner) (v : W64) : State :=
  match o with
  | .desc q i => s.modDesc q i fun d => { d with result := v }
  | .step k slot => match s.flight? k slot with
    | some f => s.modRun k fun r => r.setSc f.step.sy v
    | none => s
  | .coll _ _ _ => s
  | .none => s

/-- The bitmap of a reply becomes the most recent one; a READ keeps its own (R241, R257). -/
def Sender.withBitmap (x : Sender) (bm : W64) : Sender := if x.opcode = opReadReq then x else { x with bitmap := bm }

/-- An ACK, SACK or NAK restarts the timer (R240). -/
def Sender.restart (x : Sender) (clk : Nat) : Sender := { x with timerStart := x.timerStart.map fun _ => clk }

/-- ACK (R237, R245, R246): the message is done. -/
def execAck (quadrant : Nat) (pkt : Packet) (s : State) : Host.Outcome State Fault Refusal :=
  .next (s.onReply quadrant opAck pkt fun s m x =>
    if x.opcode = opReadReq then s
    else
      let s := s.ccReply quadrant x.dst pkt
      let s := if isWireAtomic x.opcode then s.storeResult x.owner pkt.spec.result else s
      (s.msgEnded quadrant m Status.ok 0).pumpAll)

/-- SACK (R237, R240, R246): the bitmap is stored. -/
def execSack (quadrant : Nat) (pkt : Packet) (s : State) : Host.Outcome State Fault Refusal :=
  .next (s.onReply quadrant opSack pkt fun s m x =>
    (s.ccReply quadrant x.dst pkt).setSender quadrant m ((x.withBitmap pkt.spec.bitmap).restart s.clk))

/-- A retry-after NAK holds the refused packet (R242, R246). -/
def Sender.refused (x : Sender) (k clk wait : Nat) (noRecord : Bool) : Sender :=
  let x := { x with
    holds := (k, clk + us wait) :: x.holds.filter fun h => h.1 != k
    toSend := if x.toSend.contains k then x.toSend else x.toSend ++ [k]
    refusedCopies := if noRecord then x.refusedCopies + 1 else x.refusedCopies }
  { x with state := if x.nextDue.isNone then .backoff else x.state }

/-- NAK (R238, R242, R246, R274): a retry-after NAK holds one packet; any other ends the message. -/
def execNak (quadrant : Nat) (pkt : Packet) (s : State) : Host.Outcome State Fault Refusal :=
  .next (s.onReply quadrant opNak pkt fun s m x =>
    let x := (x.withBitmap pkt.spec.bitmap).restart s.clk
    if pkt.spec.status = Status.retryAfter then
      let w := pkt.spec.retryAfter
      let s := ((s.count Count.retryAfterReceived).countIn (scopeWord 1 0 quadrant)
        (Count.retryReceivedCause + retryCause w pkt.flags.noRecord)).setSender quadrant m
        (x.refused pkt.pktIndex s.clk w pkt.flags.noRecord)
      if w = 5 ∨ (w = 20 ∧ pkt.flags.noRecord) then s.ccHalve quadrant x.dst 3 else s
    else
      let job := match x.owner with
        | .coll _ _ _ => true
        | .desc _ _ => false
        | .step _ _ => false
        | .none => false
      let s := ((s.ccReply quadrant x.dst pkt).setSender quadrant m x).msgEnded quadrant m pkt.spec.status 0
      if job then s.pumpAll else s)

/-- A READ_RESP's payload_len, pkt_index and last are those of its packet of the message (R217, R224). -/
def respAgrees (x : Sender) (pkt : Packet) : Bool :=
  pkt.payloadLen == packetLen x.length pkt.pktIndex && pkt.pktIndex < packetsOf x.length
    && pkt.flags.last == (pkt.pktIndex + 1 == packetsOf x.length)

/-- READ_RESP (R217, R224, R257): a response packet commits by offset. -/
def execReadResp (quadrant : Nat) (pkt : Packet) (s : State) : Host.Outcome State Fault Refusal :=
  .next (s.onReply quadrant opReadResp pkt fun s m x =>
    let waiting := (s.quad quadrant).copies.any fun c => c.pkt.key == pkt.key && c.pkt.pktIndex == pkt.pktIndex
      && c.pkt.route.opcode == opReadResp
    if x.opcode != opReadReq then s
    else if !respAgrees x pkt then s.note Status.headerInvalid 0x11 quadrant
    else if waiting || x.bitmap.getLsbD pkt.pktIndex || pkt.payload.length != pkt.payloadLen then s
    else s.commitRead quadrant m x pkt none)

/-! ## Timers of a message (R240 to R246) -/

/-- The packets of a retransmission round (R241). -/
def Sender.round (x : Sender) : List Nat :=
  if x.opcode = opReadReq then [0]
  else
    let open_ := (List.range x.requests).filter fun k => !x.bitmap.getLsbD k
    if open_.isEmpty then [x.requests - 1] else open_

/-- RETRANSMIT_TIMEOUT (R240, R241, R246, R274): within the cutoff, the unverified packets go again. -/
def execRetransmitTimeout (quadrant msg : Nat) (s : State) : Host.Outcome State Fault Refusal :=
  .next (match s.sender? quadrant msg with
    | none => s
    | some x =>
      let due := match x.timerStart with
        | some t => decide (t + x.timeout ≤ s.clk)
        | none => false
      if x.state == .waitReply && due && s.inCutoff quadrant x then
        ((s.setSender quadrant msg { x with
          state := .sending, toSend := x.round, timeout := max x.timeout (min (us 200) (2 * x.timeout)), timerStart := none
          }).ccHalve quadrant x.dst 4).countIn (scopeWord 1 0 quadrant) Count.retransmissions
      else s)

/-- Every copy transmitted was refused with no record (R243). -/
def Sender.noneLanded (x : Sender) : Bool := x.copies != 0 && x.copies == x.refusedCopies

/-- Reissue a none-landed message under a new sequence and stamp (R243). -/
def State.reissue (s : State) (q m : Nat) (x : Sender) : State :=
  if 64 ≤ x.reissues then s.msgEnded q m Status.messageExpired 2
  else
    (s.modQuad q fun d => { d with congestion := congestRelease d.congestion x.dst }).startMessage q m
      { x with reissue := true, reissues := x.reissues + 1 }

/-- RETRY_AFTER_END (R242, R243, R246): the wait of a refused packet ends. -/
def execRetryAfterEnd (quadrant msg index : Nat) (s : State) : Host.Outcome State Fault Refusal :=
  .next (match s.sender? quadrant msg with
    | none => s
    | some x =>
      if x.holds.any fun h => h.1 == index && decide (h.2 ≤ s.clk) then
        let y := { x with holds := x.holds.filter fun h => h.1 != index }
        if s.inCutoff quadrant x then s.setSender quadrant msg { y with state := .sending }
        else if x.noneLanded then s.reissue quadrant msg y
        else s.setSender quadrant msg y
      else s)

/-- No copy of the message can still land (R232). -/
def State.expired (s : State) (q : Nat) (x : Sender) : Bool :=
  if x.stepped then decide (x.issueClk + s.mplClk + us 4 ≤ s.clk)
  else match s.msgAge q x with
    | some a => decide (s.mpl + mtUs 2 < a)
    | none => false

/-- MESSAGE_EXPIRY (R232, R244, R388): the message fails; a collective's failure raises a beacon. -/
def execMessageExpiry (quadrant msg : Nat) (s : State) : Host.Outcome State Fault Refusal :=
  .next (match s.sender? quadrant msg with
    | none => s
    | some x =>
      if (x.state == .waitReply || x.state == .backoff || (x.state == .sending && (!x.sent.isEmpty || x.stepped)))
          && !x.noneLanded && s.expired quadrant x then
        let t := s.msgEnded quadrant msg Status.messageExpired 1
        if x.cls = 3 then t.originate x.partition x.coll.job 2 else t
      else s)

/-- UNREACHABLE_TIMEOUT (R310): one MPL without an active port. -/
def execUnreachableTimeout (quadrant msg : Nat) (s : State) : Host.Outcome State Fault Refusal :=
  .next (match s.sender? quadrant msg with
    | none => s
    | some x =>
      let due := match x.unreachableSince with
        | some t => decide (t + s.mplClk ≤ s.clk)
        | none => false
      if x.state == .ready && due && s.activePorts.isEmpty then
        s.msgEnded quadrant msg Status.destinationUnreachable 1
      else s)

/-! ## Congestion control and the egress scheduler -/

/-- CC_BASE_PERIOD (R271): at a 10 ms boundary the current minima become the previous ones. -/
def execCcBasePeriod (quadrant : Nat) (s : State) : Host.Outcome State Fault Refusal :=
  let n := s.mtQ quadrant / 160000000
  .next (if n = (s.quad quadrant).basePeriod then s
    else s.modQuad quadrant fun d => { d with
      basePeriod := n
      congestion := d.congestion.map fun c => { c with basePrev := c.baseNow, baseNow := none } })

/-- CC_IDLE_RAISE (R273): an idle entry without a sample for 10 ms returns to init_rate. -/
def execCcIdleRaise (quadrant dest : Nat) (s : State) : Host.Outcome State Fault Refusal :=
  .next (match s.congest? quadrant dest with
    | none => s
    | some c =>
      if c.outstanding = 0 ∧ c.lastSample + us 10000 ≤ s.clk then
        s.modCongest quadrant dest fun c => { c with rate := max c.rate (clampRate s.txs s.txs.initRate) }
      else s)

/-- The weights SHARE_SET has set, by partition × 8 + tc. -/
def State.setWeights (s : State) : Table Nat :=
  s.parts.flatMap fun r => r.2.weights.map fun w => (r.1 * 8 + w.1, w.2)

/-- DRR_ROUND (R278, R285): a round ends when no pair left in it has credit and a packet; the next takes the weights in
force, to which the meters change too, and every offering pair gains. -/
def execDrrRound (port robin : Nat) (s : State) : Host.Outcome State Fault Refusal :=
  let s := s.tintPort port
  .next (if (s.pairNow port robin).isNone then
      let s := s.modPort port fun x => { x.fillMeters s.clk with weights := s.setWeights }
      let pairs := ((s.offers port).filter fun o => o.robin == robin).map fun o => o.pair
      s.modPort port fun x => x.startRound robin pairs
    else s)

/-- Keep the larger of a maximum and a sample. -/
def maxSample (t : Table Nat) (k v : Nat) : Table Nat := if tblGetD t k 0 < v then tblSet t k v else t

/-- Add a sample to a sum. -/
def addSample (t : Table Nat) (k v : Nat) : Table Nat := if v = 0 then t else tblSet t k (tblGetD t k 0 + v)

/-- What a class queue of a port shows, packets held red among them: its accounted bytes, and how long the oldest packet
has been on offer (R284). -/
def State.classDepth (s : State) (port tc : Nat) : Nat × Nat :=
  let l := (s.heads port).filter fun o => o.pair % 8 == tc
  ((l.map fun o => o.length).sum, (l.map fun o => s.clk - o.since).foldl max 0)

/-- What a send queue shows: its held count and the wait of its oldest descriptor not started. -/
def State.queueDepth (s : State) (x : Queue) : Nat × Nat :=
  (x.held.length, ((x.held.filter fun d => d.phase == .accepted).map fun d => s.clk - d.acceptedClk).foldl max 0)

/-- QUEUE_SAMPLE (R284): every 1 µs the maxima of the class queues (keys 2^16 depth, 2^17 head delay) and the send
queues (key 0 held, 2^18 wait) are kept, with the sum of the depths (2^19) and the samples past 100 µs (2^20). -/
def execQueueSample (s : State) : Host.Outcome State Fault Refusal :=
  let s := s.activePorts.foldl State.tintPort s
  .next (if s.clk % 1600 = 0 then
      let a := (s.ports.flatMap fun r => (List.range 8).map fun tc => (r.1 * 8 + tc, s.classDepth r.1 tc)).foldl
        (fun t y => addSample (addSample (maxSample (maxSample t (2 ^ 16 + y.1) y.2.1) (2 ^ 17 + y.1) y.2.2)
          (2 ^ 19 + y.1) y.2.1) (2 ^ 20 + y.1) (b2n (decide (us 100 < y.2.2)))) s.survey.depthMax
      let b := (s.queues.map fun r => (r.1, s.queueDepth r.2)).foldl
        (fun t y => maxSample (maxSample t y.1 y.2.1) (2 ^ 18 + y.1) y.2.2) a
      { s with survey := { s.survey with depthMax := b, samples := s.survey.samples + 1 } }
    else s)

end Sys2Proof.Machine
end

