-- ==== Sys2Proof/Machine/Collectives.lean ====
section
/-!
DEFINITION. Machine/Collectives.lean: the commands of collectives, heartbeats and beacons (R387, R388, R392 to R395,
R411, R522, R523).
-/

namespace Sys2Proof.Machine

/-- INSTANCE_END (R392, R394, R411): an instance whose data, sends and acknowledgements are all there ends. -/
def execInstanceEnd (p : Nat) (schedule : W32) (s : State) : Host.Outcome State Fault Refusal :=
  .next (match s.schedule? p schedule with
    | none => s
    | some c =>
      let s := s.pumpColl p c
      match s.instance? p schedule with
      | none => s
      | some x =>
        let s := if x.failed = 0 then s else s.quenchInstance p schedule
        match s.schedule? p schedule, s.instance? p schedule with
        | some c, some x => if s.instanceDone p c x then s.finishInstance p c x else s
        | _, _ => s)

/-- The verified copy that waits to be reduced or placed. -/
def State.collCopy (s : State) (q : Nat) (pkt : Packet) : Option RxCopy :=
  (s.quad q).copies.find? fun c =>
    c.verified && c.pkt.route.opcode == opColl && c.pkt.key == pkt.key && c.pkt.pktIndex == pkt.pktIndex

/-- A held copy that its schedule cannot take now is refused with the retry-after NAK of a full pool (R395). -/
def State.refuseColl (s : State) (q : Nat) (c : RxCopy) : State :=
  ((s.freeCopy q c).modRecord q c.pkt.key fun r => { r with
    pending := r.pending.filter (fun i => i != c.pkt.pktIndex)
    state := if r.state == .provisional then .opened else r.state }).refuse q c.pkt 5 false (s.marksReply c.pkt c.marked)

/-- The reduction unit of a quadrant may take a step of a partition: in service, wiped for it, and not at work on a
kernel's reductions (R29, R33). -/
def State.unitReady (s : State) (q p : Nat) : Bool :=
  let y := s.red q
  !s.unitDown (.reduction q) && !y.wiping && y.queue.isEmpty && !y.holds.any fun h => h != p

/-- A step of a schedule reduces what it receives. -/
def Schedule.reduces (c : Schedule) (step rank : Nat) : Bool :=
  c.header.op != 5 && c.header.op != 6 && (c.header.recv? step rank).any fun r => r.reduce

/-- A unit has reduced a packet of an instance, whose flags are those of this reduction alone: the unit counts it, and
the instance keeps them with those it had (assumption log 73). -/
def State.unitRan (s : State) (q p : Nat) (c : Schedule) (before : NumFlags) : State :=
  let fl := match s.instance? p c.header.id with
    | some x => x.flags
    | none => {}
  ((s.countReduction p true fl).modRed q fun y => (y.claim p).ran p c.header.mode true fl).modInstance p c.header.id fun x => { x with
    flags := before.or fl }

/-- COLL_DATA (R29, R33, R235, R388, R394, R395): a verified copy is reduced in the quadrant's reduction unit or placed,
and credited; one of a FAILED record lands nothing, and one for a unit at other work waits. -/
def execCollData (quadrant : Nat) (pkt : Packet) (s : State) : Host.Outcome State Fault Refusal :=
  .next (match s.collCopy quadrant pkt with
    | none => s
    | some c =>
      let k := c.pkt
      let p := k.key.partition
      let marked := s.marksReply k c.marked
      if s.failedRecord quadrant k then s.dropFailed quadrant c
      else match s.schedule? p k.spec.schedule, s.instance? p k.spec.schedule with
      | some sch, some x =>
        if x.stepFull sch k.spec.step k.spec.rank then s.refuseColl quadrant c
        else if (s.seq sch.sequencer).wiping || s.unitDown (.receive quadrant) then s
        else if sch.reduces k.spec.step k.spec.rank && !s.unitReady quadrant p then
          if s.unitDown (.reduction quadrant) || !(s.red quadrant).queue.isEmpty then s
          else s.modRed quadrant fun y => y.claim p
        else
          let red := sch.reduces k.spec.step k.spec.rank
          match s.collCommit p sch (if red then { x with flags := {} } else x) k.spec.step k.spec.rank
              (k.spec.bufferOffset.toNat + k.pktIndex * 4096) k.payload with
          | .done s =>
            let s := if red then s.unitRan quadrant p sch x.flags else s
            (((s.freeCopy quadrant c).verifyBit quadrant k).credit quadrant k marked).pumpAll
          | .wait s => s
          | .fail s st => ((s.failInstance p k.spec.schedule st).freeCopy quadrant c).failRecord quadrant k st marked
      | _, _ =>
        match s.job? p k.spec.job with
        | some j => if j.aborted then s.dropCopy quadrant c else s.refuseColl quadrant c
        | none => s.dropCopy quadrant c)

/-! ## Heartbeats -/

/-- The members that a job's device sends heartbeats to (R387). -/
def Job.targets (j : Job) : List Nat :=
  if j.members = 2 then [1 - j.rank] else [(j.rank + j.members - 1) % j.members, (j.rank + 1) % j.members]

/-- A HEARTBEAT to a member (R387). -/
def State.heartbeatPacket (s : State) (p j : Nat) (x : Job) (member : Nat) : Packet :=
  let e := x.endpoints.getD member (0, 0)
  let q := s.jobQuadrant p j
  { key := { src := s.cfg.endpoint, partition := p }, issue := s.stamp q, send := s.stamp q
    route := { opcode := opHeartbeat, cls := 3, tc := 7, dst := e.1, landQ := e.2 }
    flags := { last := true }
    spec := { job := j, rank := x.rank } }

/-- Every 20 µs the job's device sends its heartbeats, unless it is UNLOCKED (R85, R387). -/
def State.sendHeartbeats (s : State) (p job : Nat) : State :=
  match s.job? p job with
  | some x =>
    if !x.heartbeat || s.mer.lock == .unlocked then s
    else x.targets.foldl (fun s m => s.inject (s.jobQuadrant p job) (s.heartbeatPacket p job x m) (some job)) s
  | none => s

/-- Note the time of a member's HEARTBEAT. -/
def Job.heard (j : Job) (rank mt : Nat) : Job :=
  { j with watched := (rank, mt) :: j.watched.filter fun w => w.1 != rank }

/-- HEARTBEAT (R225, R247, R387, R388): the device watches a member from its first HEARTBEAT on. -/
def execHeartbeat (pkt : Packet) (s : State) : Host.Outcome State Fault Refusal :=
  let q := pkt.route.landQ
  let p := pkt.key.partition
  .next (
    if pkt.route.opcode != opHeartbeat || !headerValid pkt then s.note Status.headerInvalid 0x11 q
    else if !s.ownDst q pkt.route.epoch pkt.route.dst then s
    else if s.mer.lock == .unlocked then s.refuseUnlocked q pkt true
    else if s.beforeFloor pkt.issue then s
    else if !s.freshEnough q pkt.issue then s.note Status.packetStale 0x11 q
    else if !s.opens pkt then s.note Status.keyGenUnknown 0x17 q (some p)
    else s.openPacket q pkt fun s => match s.job? p pkt.spec.job with
      | some j =>
        if !j.aborted && j.heartbeat && j.targets.contains pkt.spec.rank then
          s.modJob p pkt.spec.job fun j => j.heard pkt.spec.rank (s.mtQ q)
        else s
      | none => s)

/-- HEARTBEAT_SILENCE (R388): a watched member's last HEARTBEAT is more than 50 µs old: a beacon goes out. -/
def execHeartbeatSilence (p job rank : Nat) (s : State) : Host.Outcome State Fault Refusal :=
  .next (match s.job? p job with
    | some j => match j.watched.find? fun w => w.1 == rank with
      | some w => if w.2 + mtUs 50 < s.mtQ (s.jobQuadrant p job) then s.originate p job 1 else s
      | none => s
    | none => s)

/-! ## Beacons -/

/-- The replicas of a beacon stand ahead of every other head of the arrival input, behind earlier replicas (R523). -/
def insertReplica (h : Head) (l : List Head) : List Head :=
  l.filter (fun x => x.replica.isSome) ++ [h] ++ l.filter fun x => x.replica.isNone

/-- Steps 2 and 3 of R523: a new beacon enters the filter and its replicas queue at the arrival input. -/
def State.floodOn (s : State) (port : Nat) (pkt : Packet) : State :=
  let s := s.startFlood { src := pkt.key.src, partition := pkt.key.partition, job := pkt.spec.job, issue := pkt.issue
                          untilClk := s.clk + s.mplClk }
  let ports := s.activePorts.filter fun p => p != port
  s.modPort port fun x => { x with
    input := insertReplica { pkt, arrivedClk := s.clk, headSince := some s.clk, replica := some ports } x.input }

/-- Step 4 of R523: a member of the job opens the beacon, and aborts the job; the reason of the first copy opened is
logged (R531), under JOB_ABORTED (assumption log 79). -/
def State.heedBeacon (s : State) (port : Nat) (pkt : Packet) : State :=
  let p := pkt.key.partition
  match s.job? p pkt.spec.job with
  | none => s
  | some j =>
    if !s.opens pkt then s.note Status.keyGenUnknown 0x17 (port / 8) (some p)
    else s.openPacket (port / 8) pkt fun s =>
      let s := if j.aborted then s
        else s.log { status := Status.jobAborted, detail := pkt.spec.reason, unit := 0x11, unitIndex := port / 8, partition := some p } 0
      s.abortJob p pkt.spec.job

/-- BEACON (R312, R388, R522, R523): filtered, replicated, and heeded by a member. -/
def execBeacon (port : Nat) (pkt : Packet) (s : State) : Host.Outcome State Fault Refusal :=
  let x := s.port port
  .next (
    if pkt.route.opcode != opBeacon || x.mode != 1 || x.state != .active then s
    else if pkt.route.version != 1 then s.note Status.headerInvalid 0x18 port
    else if s.beforeFloor pkt.issue then s
    else if !s.hopFresh port pkt.issue then s.note Status.packetStale 0x18 port
    else if pkt.hop.hopCount = 63 then (s.dropAt port false).note Status.hopLimit 0x18 port
    else if s.beaconKnown pkt.key.src pkt.key.partition pkt.spec.job pkt.issue then s
    else if !s.floodRoom then s.note Status.beaconLimit 0x14 (port / 8)
    else if (s.job? pkt.key.partition pkt.spec.job).isSome && s.opens pkt && !s.engineFree (port / 8) true then
      s.askEngine (port / 8) true
    else (s.floodOn port pkt).heedBeacon port pkt)

end Sys2Proof.Machine
end

