-- ==== Sys2Proof/Machine/Queues.lean ====
section
/-!
DEFINITION. Machine/Queues.lean: send queues and completion rings: doorbells, slot reads and the stamp check,
acceptance, the weighted round robin, and the ring registers (chapter 06).
-/

namespace Sys2Proof.Machine

/-! ## Slots of a function (R177, R178) -/

/-- The queue or ring number a slot of a function stands for, among the function's own. -/
def slotMatch (fn slot n : Nat) : Bool := if isPf fn then n == slot else n % 256 == slot

/-- The function's queue at a slot (R178). -/
def State.slotQueue (s : State) (fn slot : Nat) : Option Nat :=
  (s.queues.find? fun r => r.2.fn == fn && slotMatch fn slot r.1).map fun r => r.1

/-- The function's ring at a slot (R178). -/
def State.slotRing (s : State) (fn slot : Nat) : Option Nat :=
  (s.rings.find? fun r => r.2.fn == fn && slotMatch fn slot r.1).map fun r => r.1

/-- The function takes MMIO: it is present and not in the TDISP state ERROR (R421). -/
def State.mmioOk (s : State) (fn : Nat) : Bool := (s.func fn).present && (s.func fn).tdisp != 3

/-- The function takes a memory request; in the TDISP state RUN it takes only those that come through IDE with T at 1,
which a `bar` of 32 and above does not carry (R421, assumption log 53). -/
def State.barOk (s : State) (fn bar : Nat) : Bool := s.mmioOk fn && (decide (bar < 32) || !s.inRun fn)

/-! ## Acceptance (R184 to R196) -/

/-- Bytes of a slot (R173). -/
def slotSize (version : Nat) : Nat := if version = 1 then 32 else 64

/-- The kept slot at an index. -/
def Queue.keptSlot (q : Queue) (i : W32) : Option (List Byte) := (q.kept.find? fun r => r.1 == i).map fun r => r.2

/-- Slots the producer covers from the consumer on (R175). -/
def Queue.covered (q : Queue) : Nat := (q.producer - q.consumer).toNat

/-- A queue bound to a queue pair or a controller refuses some descriptors (R460, R466). -/
def State.boundStatus (s : State) (q : Queue) (d : Desc) : Nat :=
  match q.bound with
  | .none =>
    if 1 ≤ d.opcode ∧ d.opcode ≤ 6 ∧ gaPartition d.remote ≠ q.partition then Status.partitionScope else Status.ok
  | .queuePair _ =>
    if d.opcode = 4 ∨ d.opcode = 6 ∨ d.opcode = 7 then Status.unsupportedTarget else Status.ok
  | .controller c =>
    let n := (tblGetD s.controllers c {}).sector
    if 2 < d.opcode then Status.unsupportedTarget
    else if bits d.remote.toNat 63 48 = 0 then Status.unsupportedTarget
    else if d.opcode ≠ 0 ∧ (bits d.remote.toNat 47 0 % n ≠ 0 ∨ d.length % n ≠ 0) then Status.unsupportedTarget
    else Status.ok

/-- The local range a descriptor names: its length, and whether the device writes it (R147, R195). -/
def localRange (version : Nat) (d : Desc) : Option (Nat × Bool) :=
  if d.opcode = 1 then (if d.inline then none else some (d.length, false))
  else if d.opcode = 2 then some (d.length, true)
  else if isAtomic d.opcode ∧ version = 1 then some (16, false)
  else none

/-- The status and detail of a descriptor at acceptance: R194, then R195 and the binding, then the context and the
ranges of R147. A context an abort ended gives CONTEXT_ABORTED (R262). -/
def State.acceptStatus (s : State) (q : Queue) (d : Desc) (extra inl : Nat) : Nat × Nat :=
  let cond := descCondition q.version extra inl d
  if descReserved q.version d then (Status.reservedEncoding, 0)
  else if cond ≠ 0 then (Status.descriptorMalformed, cond)
  else if s.boundStatus q d ≠ Status.ok then (s.boundStatus q d, 0)
  else if !s.ctxLive q.context q.contextGen then (Status.contextAborted, 0)
  else
    match localRange q.version d with
    | some (len, wr) => (s.rangeCheck q.context q.contextGen q.partition d.localAddr len wr, 0)
    | none => (Status.ok, 0)

/-- Accept the descriptor at the consumer index, where all its slots are covered and valid (R184, R188, R196);
answers whether it did. -/
def State.acceptOne (s : State) (qn : Nat) : State × Bool :=
  match s.queue? qn with
  | none => (s, false)
  | some q =>
    if !q.accepts || 64 ≤ q.held.length || q.covered = 0 then (s, false)
    else
      match q.keptSlot q.consumer with
      | none => (s, false)
      | some head =>
        let extra := extraSlots q.version head
        let conts := (List.range extra).filterMap fun k => q.keptSlot (q.consumer + w32 (k + 1))
        if q.covered < extra + 1 || conts.length ≠ extra then (s, false)
        else
          let d := parseDesc q.version head
          let inl := if q.version = 1 then 0 else inlineLen head
          let (st, det) := s.acceptStatus q d extra inl
          let d := { d with
            contextGen := (s.ctx q.context).gen, seg := s.segOf q.context d.localAddr
            inlineData := if d.inline then inlineBytes head conts inl else []
            phase := if st = Status.ok then .accepted else .completed
            status := st, detail := det, acceptedClk := s.clk }
          let n := w32 (extra + 1)
          let s := s.setQueue qn { q with
            consumer := q.consumer + n, refetches := 0, refetchAt := none, progressClk := s.clk
            kept := q.kept.filter fun r => !((r.1 - q.consumer).toNat < extra + 1)
            held := q.held ++ [d] }
          let s := match localRange q.version d with
            | some (len, wr) =>
              if st = Status.ok ∧ d.seg.kind = 1 then
                s.addTiles (.desc qn d.index) q.home q.context d.seg (segTarget d.seg d.localAddr) len wr
              else s
            | none => s
          (s, true)

/-- Accept descriptors while the queue can; `fuel` is the most it can hold. -/
def State.acceptAll (s : State) (qn : Nat) : Nat → State
  | 0 => s
  | n + 1 =>
    match s.acceptOne qn with
    | (s, true) => s.acceptAll qn n
    | (s, false) => s

/-! ## Slot reads (R182, R185, R187) -/

/-- The first slot from the consumer on that is not kept. -/
def Queue.firstMissing (q : Queue) : Nat := ((List.range 80).find? fun j => (q.keptSlot (q.consumer + w32 j)).isNone).getD 80

/-- A slot read of the queue is outstanding. -/
def State.slotReadOut (s : State) (qn : Nat) (q : Queue) : Bool :=
  (s.host (fnPort q.fn)).reads.any fun r => match r.purpose with
    | .slots n _ _ => n == qn
    | _ => false

/-- Read up to 8 slots from an offset beyond the consumer, not across the ring's end nor past consumer + size − 1, within
the port's Max Read Request Size (R182, R187, R413). -/
def State.readSlots (s : State) (qn : Nat) (q : Queue) (j : Nat) : State :=
  let size := slotsOf q.log2
  let i := q.consumer + w32 j
  let n := min (min 8 ((s.host (fnPort q.fn)).maxRead / slotSize q.version)) (min (size - i.toNat % size) (size - j))
  if n = 0 then s
  else
    (s.hostRead (fnPort q.fn) { fn := q.fn, addr := w64 (q.base.toNat + i.toNat % size * slotSize q.version)
                                length := n * slotSize q.version, purpose := .slots qn i n }).1

/-- The head is kept and the producer does not cover every continuation slot: the queue waits for a doorbell (R188). -/
def Queue.headWaits (q : Queue) : Bool :=
  match q.keptSlot q.consumer with
  | some head => 0 < q.covered && q.covered ≤ extraSlots q.version head
  | none => false

/-- The home engine reads the next covered slot that is not kept, where the queue may accept, waits for no re-fetch or
further doorbell and has no read outstanding (R19, R182, R188, R202). -/
def State.fetchSlots (s : State) (qn : Nat) : State :=
  match s.queue? qn with
  | none => s
  | some q =>
    let j := q.firstMissing
    if q.accepts && q.held.length < 64 && q.refetchAt.isNone && j < q.covered && !s.slotReadOut qn q && !q.headWaits
        && !s.unitDown (.transport q.home) then
      s.readSlots qn q j
    else s

/-- The covered slot the head waits for: itself, or a continuation slot of a head that is kept (R185, R188). -/
def Queue.needed (q : Queue) : Option Nat :=
  let j := q.firstMissing
  if j = 0 then (if 0 < q.covered then some 0 else none)
  else
    match q.keptSlot q.consumer with
    | some head =>
      let extra := extraSlots q.version head
      if j ≤ extra ∧ extra < q.covered then some j else none
    | none => none

/-- A read has judged the needed slot invalid: wait 1 µs for a re-fetch, or after the eighth enter ERROR (R185). -/
def State.slotInvalid (s : State) (qn : Nat) (q : Queue) : State :=
  if 8 ≤ q.refetches then s.queueError qn Status.descriptorNotVisible
  else s.setQueue qn { q with refetchAt := some (s.clk + us 1) }

/-- Slots `first, first + 1, …` have been read: keep the valid ones, accept, and judge the needed slot (R183 to
R187). -/
def State.slotsRead (s : State) (qn : Nat) (first : W32) (l : List (List Byte)) (count : Nat) : State :=
  match s.queue? qn with
  | none => s
  | some q =>
    let new := (l.zipIdx.map fun r => (first + w32 r.2, r.1)).filter fun r =>
      w32 (field r.2 0 4) == r.1 && (r.1 - q.consumer).toNat < slotsOf q.log2 && (q.keptSlot r.1).isNone
    let s := (s.setQueue qn { q with kept := q.kept ++ new }).acceptAll qn 64
    match s.queue? qn with
    | none => s
    | some q =>
      match q.needed with
      | some j =>
        if q.state != .draining && q.errorStatus == 0 && ((q.consumer + w32 j) - first).toNat < count then s.slotInvalid qn q
        else s.fetchSlots qn
      | none => s.fetchSlots qn

/-- A slot read failed: with a slot that the producer covers, the queue enters ERROR with HOST_ACCESS_ERROR;
otherwise the slots are discarded (R187, R414). -/
def State.slotsFailed (s : State) (qn : Nat) (first : W32) : State :=
  match s.queue? qn with
  | none => s
  | some q =>
    if (first - q.consumer).toNat < q.covered then s.queueError qn Status.hostAccessError else s

/-- Take an outstanding slot read off its port: its slot count. -/
def State.takeSlotRead (s : State) (qn : Nat) (first : W32) : Option (State × Nat) :=
  match s.queue? qn with
  | none => none
  | some q =>
    let p := fnPort q.fn
    match (s.host p).reads.find? fun r => match r.purpose with
        | .slots n i _ => n == qn && i == first
        | _ => false with
    | none => none
    | some r => some (s.modHost p fun h => { h with reads := h.reads.filter fun x => x.tag != r.tag },
        match r.purpose with
        | .slots _ _ n => n
        | _ => 0)

/-! ## Doorbells and control (R179 to R181, R186, R202) -/

/-- Judge a doorbell value of a function's slot (R179, R181, R438). -/
def State.judgeDoorbell (s : State) (fn slot : Nat) (value : W32) : State :=
  match s.slotQueue fn slot with
  | none => s
  | some qn =>
    match s.queue? qn with
    | none => s
    | some q =>
      if q.state == .draining || (s.func fn).quiescing || !s.mmioOk fn then s
      else
        let d := (value - q.producer).toNat
        if d = 0 ∨ 2 ^ 31 ≤ d then s.count Count.staleDoorbell
        else if slotsOf q.log2 < (value - q.consumer).toNat then s.setQueue qn { q with badDoorbell := true }
        else ((s.setQueue qn { q with producer := value }).acceptAll qn 64).fetchSlots qn

/-- A doorbell: where the engine clock of the queue's home quadrant is stopped it waits in the crossing, behind a wake
request (R513, R514, R546). -/
def State.doorbell (s : State) (fn slot : Nat) (value : W32) : State :=
  match (s.slotQueue fn slot).bind s.queue? with
  | none => s
  | some q =>
    if (s.quad q.home).clockStopped then
      s.modRec fun r => { r with wakes := r.wakes ++ [{ domain := .engine q.home, sinceClk := s.clk, fn, slot, value }] }
    else s.judgeDoorbell fn slot value

/-- A write of QUE_CTRL: suspend takes its bit; restart clears an error with a fresh allowance (R186, R202). -/
def State.queCtrl (s : State) (fn slot : Nat) (value : W32) : State :=
  match s.slotQueue fn slot with
  | none => s
  | some qn =>
    if !s.mmioOk fn then s
    else
      let s := s.modQueue qn fun q =>
        let restart := value.getLsbD 1 && q.errorStatus != 0
        settle { q with
          suspend := value.getLsbD 0
          errorStatus := if restart then 0 else q.errorStatus
          refetches := if restart then 0 else q.refetches
          refetchAt := if restart then none else q.refetchAt }
      (s.acceptAll qn 64).fetchSlots qn

/-! ## The weighted round robin (R197 to R201) -/

/-- The cost of a start (R199). -/
def startCost (d : Desc) : Nat :=
  if d.opcode = 1 ∨ d.opcode = 2 then max 256 ((d.length + 255) / 256 * 256) else 256

/-- The queue holds a descriptor that waits to start. -/
def Queue.waits (q : Queue) : Bool := q.held.any fun d => d.phase == .accepted

/-- Credit at the start of a round, under the weight and burst then taking effect (R198, R200). -/
def creditQueue (q : Queue) : Queue :=
  let q := match q.newSched with
    | some (w, b) => settle { q with weight := w, burst := b, newSched := none }
    | none => q
  let c : Int := if q.weight = 0 then q.credit else min (q.credit + q.weight * 256) (q.weight * 512)
  { q with credit := if q.waits then c else min c 0 }

/-- The next descriptor the queue may start: the first that waits, after everything earlier if it carries fence
(R197). -/
def nextStart (l : List Desc) : Option Desc :=
  match l with
  | [] => none
  | d :: r =>
    if d.phase == .accepted then some d
    else if d.phase == .completed then nextStart r
    else match nextStart r with
      | some e => if e.fence then none else some e
      | none => none

/-- The queue may start work: it is not suspended, not paused, and waits for no re-fetch (R185, R201, R202). -/
def Queue.mayStart (q : Queue) : Bool := !q.suspend && q.weight != 0 && q.refetchAt.isNone

/-- Start descriptors at one visit: while credit is above 0, up to burst (R198). -/
def visitQueue (q : Queue) : Nat → Queue
  | 0 => q
  | n + 1 =>
    if q.credit ≤ 0 then q
    else
      match nextStart q.held with
      | none => q
      | some d =>
        visitQueue { q with
          credit := q.credit - startCost d
          held := q.held.map fun e => if e.index == d.index then { e with phase := .started } else e } n

/-- One round of a home quadrant (R198). -/
def State.schedRound (s : State) (quadrant : Nat) : State :=
  let s := { s with queues := tblMap s.queues fun _ q => if q.home == quadrant then creditQueue q else q }
  let waiting := (s.queues.filter fun r => r.2.home == quadrant && r.2.waits && r.2.mayStart).map fun r => r.1
  let last := (s.quad quadrant).lastVisited
  let order := (waiting.filter fun n => last < n) ++ waiting.filter fun n => !(last < n)
  if 65536 ≤ (s.quad quadrant).senders.length then s
  else
    let s := order.foldl (fun s n => s.modQueue n fun q => visitQueue q q.burst) s
    match order.getLast? with
    | some n => s.modQuad quadrant fun d => { d with lastVisited := n }
    | none => s

/-- The queues that feed a ring accept and read again when it has room (R208, R209). -/
def State.resumeFeeders (s : State) (rn : Nat) : State :=
  ((s.queues.filter fun r => r.2.ring == rn).map fun r => r.1).foldl (fun s n => (s.acceptAll n 64).fetchSlots n) s

/-! ## Meanings -/

/-- QUE_DOORBELL (R179). -/
def execQueDoorbell (fn slot : Nat) (value : W32) (s : State) : Host.Outcome State Fault Refusal :=
  .next (s.doorbell fn slot value)

/-- SLOT_READ_COMPLETE (R184, R185, R187, R414): an outstanding slot read returns its slots, or fails. -/
def execSlotReadComplete (queue : Nat) (first : W32) (slots : Option (List (List Byte))) (s : State) :
    Host.Outcome State Fault Refusal :=
  match s.takeSlotRead queue first with
  | none => .next s
  | some (s, n) =>
    match slots with
    | some l => .next (s.slotsRead queue first (l.take n) n)
    | none => .next (s.slotsFailed queue first)

/-- SLOT_REFETCH (R185): 1 µs after the read returned, the needed slot is read again. -/
def execSlotRefetch (queue : Nat) (s : State) : Host.Outcome State Fault Refusal :=
  match s.queue? queue with
  | none => .next s
  | some q =>
    match q.refetchAt with
    | none => .next s
    | some t =>
      if t ≤ s.clk ∧ q.accepts ∧ s.unitDown (.transport q.home) = false then
        .next ((s.setQueue queue { q with refetchAt := none, refetches := q.refetches + 1 }).readSlots queue q
          q.firstMissing)
      else .next s

/-- QUE_RESTART (R186). -/
def execQueRestart (fn slot : Nat) (value : W32) (s : State) : Host.Outcome State Fault Refusal :=
  .next (s.queCtrl fn slot value)

/-- QUE_SUSPEND (R202). -/
def execQueSuspend (fn slot : Nat) (value : W32) (s : State) : Host.Outcome State Fault Refusal :=
  .next (s.queCtrl fn slot value)

/-- SCHEDULER_ROUND (R198); the home engine also reads slots that wait for a tag or for room (R182). -/
def execSchedulerRound (quadrant : Nat) (s : State) : Host.Outcome State Fault Refusal :=
  let s := s.schedRound quadrant
  .next (((s.queues.filter fun r => r.2.home == quadrant).map fun r => r.1).foldl
    (fun s n => (s.acceptAll n 64).fetchSlots n) s)

/-- The flush read of an entry has ended, and the entry goes to its ring, though its queue may be gone (R204, R205). -/
def State.flushDone (s : State) (queue : Nat) (index : W32) : State :=
  let mine := fun (f : Flush) => f.entry.queue == queue && f.entry.descIndex == index
  match s.rings.find? fun r => r.2.flushing.any mine with
  | none => s
  | some (rn, r) =>
    match r.flushing.find? mine with
    | none => s
    | some f => (s.setRing rn { r with flushing := r.flushing.filter fun x => x != f }).ringPush rn f.entry

/-- COMPLETION_FLUSH_DONE (R205): the flush read of an entry, once issued, completes. -/
def execCompletionFlushDone (queue : Nat) (index : W32) (s : State) : Host.Outcome State Fault Refusal :=
  let u : ReadUse := .flush queue index
  .next (if [0, 1].any fun p => (s.host p).reads.any fun r => r.purpose == u then
      ((s.dropReads 0 u).dropReads 1 u).flushDone queue index
    else s)

/-- CMP_CONSUMER (R206, R207, R209, R210). -/
def execCmpConsumer (fn slot : Nat) (value : W32) (s : State) : Host.Outcome State Fault Refusal :=
  match s.slotRing fn slot with
  | none => .next s
  | some rn =>
    match s.ring? rn with
    | none => .next s
    | some r =>
      if !s.mmioOk fn then .next s
      else if 2 ^ 31 ≤ (value - r.consumer).toNat ∨ 2 ^ 31 ≤ (r.producer - value).toNat then
        .next (s.setRing rn { r with badConsumer := true })
      else
        .next ((((s.setRing rn { r with consumer := value }).ringDrain rn r.moves).ringTrigger rn).resumeFeeders rn)

/-- CMP_INT_ARM (R210, R213): a 1 arms the ring; a trigger that already holds sends its message in the next clock. -/
def execCmpIntArm (fn slot : Nat) (value : W32) (s : State) : Host.Outcome State Fault Refusal :=
  match s.slotRing fn slot with
  | none => .next s
  | some rn =>
    if value.getLsbD 0 && s.mmioOk fn then
      .next (s.modRing rn fun r => { r with armed := true, firstEntry := none })
    else .next s

/-- HOLDOFF_EXPIRY (R210). -/
def execHoldoffExpiry (ring : Nat) (s : State) : Host.Outcome State Fault Refusal := .next (s.ringTrigger ring)

end Sys2Proof.Machine
end

