-- ==== Sys2Proof/Machine/Meridian.lean ====
section
/-!
DEFINITION. Machine/Meridian.lean: Meridian time and its appointments (R74 to R91): the engine clock, the sources, the
estimated offset, the lock states, the step of MER_NOW, and the commands of chapter 03.
-/

namespace Sys2Proof.Machine

/-! ## The estimated offset (R77, R81), in 10^-12 ns -/

/-- Nanoseconds in the unit of `e`. -/
def eNs (n : Nat) : Nat := n * 1000000000000

/-- A Meridian unit, 62.5 ps, in the unit of `e`. -/
def eUnit : Nat := 62500000000

/-- The largest residual of the last 1 s. -/
def Meridian.residual (m : Meridian) (clk : Nat) : Nat :=
  ((m.residuals.filter fun r => clk ≤ r.1 + us 1000000).map fun r => r.2 * eUnit).foldl max 0

/-- The bound of a timekeeper's own source (R77). -/
def sourceBound (source : Nat) : Nat := if source = 1 then eNs 5 else if source = 2 then eNs 4 else 0

/-- The estimated offset while the source qualifies. -/
def State.chainOffset (s : State) : Nat :=
  let m := s.mer
  let r := m.residual s.clk
  let x := s.port m.port
  if m.source = 0 then 0
  else if m.source = 3 then max (eNs 3) r + eNs 3 * x.farHops + sourceBound x.farSource + eNs 2
  else max (sourceBound m.source) r + eNs 2

/-- EST_OFFSET: nanoseconds, a part of one dropped (assumption log 68), saturating. -/
def Meridian.estOffset (m : Meridian) : Nat :=
  match m.e with
  | some e => min 0xFFFF (e / eNs 1)
  | none => 0xFFFF

/-- The acceptance window of R84, with `e` as it stands 1 µs later; 4e is cut to whole Meridian units (assumption log
68). -/
def State.windowNow (s : State) : W32 :=
  let m := s.mer
  match m.lock with
  | .unlocked => 0
  | .locked => w32 s.mpl
  | .degraded =>
    let e := m.e.getD 0 + (if m.holdover then m.driftBound * 625 * 1600 else 0)
    w32 (s.mpl - 4 * e / eUnit)

/-! ## The hub's clock (R24, R74, R79, R83) -/

/-- What discipline adds to MER_NOW in one engine clock, in millionths of a unit: the measured offset is slewed away at
no more than 50 ppm of the 10 units, and with none left the learned frequency holds (R79, R83). Free-run and a device
without a source count at the oscillator's rate. -/
def Meridian.slew (m : Meridian) : Int :=
  if !m.sourceSet || m.source == 0 then 0
  else if m.offset = 0 then max (-500) (min 500 m.freq)
  else max (-500) (min 500 m.offset)

/-- One engine clock of the hub's copy: 10 units and the slew; in holdover the estimated offset grows at the drift bound
(R24, R81, R83). -/
def Meridian.clockStep (m : Meridian) : Meridian :=
  let total := m.frac + (10000000 + m.slew).toNat
  { m with
    now := m.now + w64 (total / 1000000), frac := total % 1000000
    offset := if m.offset = 0 then 0 else m.offset - m.slew
    e := if m.holdover then m.e.map fun e => e + m.driftBound * 625 else m.e }

/-- While a source disciplines the clock, the correction reaches the dies at an open pace: a copy moves by at most one
unit a clock against the others and never by more than 2 ns (R24, assumption log 68). -/
def Meridian.drift (m : Meridian) (v : Nat) : Meridian :=
  { m with skews := (List.range 13).map fun i =>
      let k := m.skews.getD i 0
      match v / 3 ^ i % 3 with
      | 0 => k - 1
      | 1 => min 32 (k + 1)
      | _ => k }

/-- One engine clock of every copy. -/
def State.clockStep (s : State) : State :=
  let s := s.modMer Meridian.clockStep
  if s.mer.sourceSet && s.mer.source != 0 then
    let (v, s) := s.draw
    s.modMer fun m => m.drift v
  else s

/-! ## Appointments (R30, R87 to R90) -/

/-- CHART_BANK_SWAP's part in a quadrant: the bank becomes ACTIVE and the other RETAINED; the bank already ACTIVE
changes nothing (R316). -/
def Charts.swap (c : Charts) (bank : Bool) (retainEnd : Nat) : Charts :=
  if bank == c.active then { c with swapPending := false }
  else { c with active := bank, retained := true, swapPending := false, retainEnd := w64 retainEnd }

/-- A quadrant's part of a key rotation: from now on it seals under the pending generation. -/
def KeyGens.move (k : KeyGens) (q epoch : Nat) : KeyGens :=
  { k with moved := q :: k.moved, activeEpochs := k.activeEpochs.set q epoch }

/-- Every quadrant seals under the pending generation: it is the current one, and the one before it is retained for one
MPL (R492, R493). -/
def KeyGens.rotated (k : KeyGens) (endpoint mpl : Nat) : KeyGens :=
  match k.pending with
  | some (g, t) => { k with current := g, pending := none, retained := some (k.current, t + mpl), endpoint, moved := [] }
  | none => k

/-- Change the fabric key of a partition, or a job's key. -/
def State.modKey (s : State) (p : Nat) (job : Option Nat) (g : KeyGens → KeyGens) : State :=
  match job with
  | none => s.modPart p fun x => { x with fabric := g x.fabric }
  | some j => s.modJob p j fun x => { x with key := x.key.map g }

/-- Note when a collective key's generation became active, for the sealed state (R483). -/
def Partition.noteJob (j : Nat) (k : KeyGens) (x : Partition) : Partition :=
  { x with jobGens := { job := j, gen := k.current, activeEpochs := k.activeEpochs, endpoint := k.endpoint }
      :: x.jobGens.filter fun g => g.job != j }

/-- A quadrant's part of a key rotation; with the last part the generation has rotated everywhere, and the sealed state is
written. -/
def State.rotatePart (s : State) (p : Nat) (job : Option Nat) (q : Nat) (last : Bool) : State :=
  let s := s.modKey p job fun k => k.move q (s.quad q).txEpoch.toNat
  if !last then s
  else
    let s := (s.modKey p job fun k => k.rotated s.cfg.endpoint s.mpl).startSeal
    match job with
    | none => s.count Count.measurementChange
    | some j => match (s.job? p j).bind fun x => x.key with
      | some k => s.modPart p (Partition.noteJob j k)
      | none => s

/-- The first multiple of a period after a time. -/
def nextMultiple (t period : Nat) : Nat := if period = 0 then t else (t / period + 1) * period

/-- A Survey epoch that fell due at a time ends: the snapshot is published and counted; a written period takes over at
the first boundary under it after this one (R284, R528). -/
def State.endEpoch (s : State) (time : Nat) : State :=
  let v := s.survey
  let s := { s with survey := { v with
    snapshot := v.counts, snapDepth := v.depthMax, snapSamples := v.samples, depthMax := [], samples := 0
    snapStart := v.snapEnd, snapEnd := w64 time, epoch := v.epoch + 1
    epochUs := v.newEpochUs.getD v.epochUs, newEpochUs := none } }
  match v.newEpochUs with
  | some n => s.modMer fun m => { m with appointments := m.appointments.map fun b =>
      if b.kind == .surveyEpoch then { b with time := nextMultiple time (mtUs n), period := mtUs n } else b }
  | none => s

/-- What an appointment of a time does in a quadrant; what is held once for the device acts with the last part. -/
def State.actPart (s : State) (k : ApptKind) (time q : Nat) (last : Bool) : State :=
  match k with
  | .chartSwap bank => s.modChart q fun c => c.swap bank (time + s.mpl)
  | .gateSwap port => s.gateTakeoverAt port time
  | .keyRotation p job => s.rotatePart p job q last
  | .surveyEpoch => if last then s.endEpoch time else s
  | .collective p id => s.startDue p id time
  | .heartbeat p j => s.sendHeartbeats p j

/-- A quadrant does its part of an appointment, where that part is still to be done. -/
def State.firePart (s : State) (k : ApptKind) (q : Nat) : State :=
  match s.appt? k with
  | some a => if a.left.contains q then (s.apptAct k q).actPart k a.time q (s.lastPart k q) else s
  | none => s

/-- The appointment of a kind fires in every quadrant where it is due and stands first (R30, R89). -/
def State.fire (s : State) (k : ApptKind) : State :=
  [0, 1, 2, 3].foldl (fun s q => if s.apptFiresIn k q then s.firePart k q else s) s

/-- Put an appointment in the firing order of a quadrant. -/
def insertAppt (q : Nat) (a : Appointment) : List Appointment → List Appointment
  | [] => [a]
  | b :: r => if apptBefore q a b then a :: b :: r else b :: insertAppt q a r

/-- Appointments in the firing order of a quadrant. -/
def sortAppts (q : Nat) (l : List Appointment) : List Appointment := l.foldl (fun r a => insertAppt q a r) []

/-- A quadrant does every part that is due on its copy of MER_NOW, in the order of R89. -/
def State.fireQuadrant (s : State) (q : Nat) : State :=
  (sortAppts q (s.mer.appointments.filter fun a => s.apptDueIn q a)).foldl (fun s a => s.firePart a.kind q) s

/-- Every quadrant does what is due, within the clock in which it falls due (R30). -/
def State.fireDue (s : State) : State := [0, 1, 2, 3].foldl State.fireQuadrant s

/-- The first time after `now` on a periodic appointment's grid (R90). -/
def rearm (now : Nat) (a : Appointment) : Appointment :=
  if a.period = 0 then a
  else
    let r := a.time % a.period
    { a with time := if now < r then r else r + ((now - r) / a.period + 1) * a.period, acted := [] }

/-- The appointments that a step passed fire late, in time order and each once, and periodic ones re-arm on their grid
(R90). -/
def State.fireLate (s : State) (backward : Bool) : State :=
  let late := sortAppts 0 (s.mer.appointments.filter fun a => a.time ≤ s.mt)
  let s := s.modMer fun m => { m with lateAppointments := m.lateAppointments + late.length }
  let s := (late.foldl (fun s a => a.left.foldl (fun s q => s.firePart a.kind q) s) s).count Count.lateAppointments
    late.length
  s.modMer fun m => { m with
    appointments := m.appointments.map fun a => if backward || late.any (fun b => b.kind == a.kind) then rearm s.mt a else a }

/-! ## Idle quadrants (R513, R514, R546) -/

/-- The largest of a list, at least a given value. -/
def maxOf (l : List Nat) (n : Nat) : Nat := l.foldl max n

/-- A quadrant has work: messages, copies, a running kernel or job, or a descriptor not yet completed. -/
def State.quadrantBusy (s : State) (q : Nat) : Bool :=
  !(s.quad q).senders.isEmpty || !(s.quad q).copies.isEmpty
    || s.seqs.any (fun r => seqQuadrant r.1 == q && r.2.running.isSome)
    || s.grats.any (fun r => r.1 / 2 == q && (r.2.job.isSome || r.2.scoring.isSome))
    || !(s.red q).queue.isEmpty || s.runningSchedules.any (fun r => r.2.header.landQ == q)
    || s.queues.any fun r => r.2.home == q && r.2.held.any fun d => d.phase != .completed

/-- The clock of a domain runs again (R546). -/
def State.restartClock (s : State) : Domain → State
  | .engine q => s.modQuad q fun x => { x with clockStopped := false, idleSince := s.clk }
  | .memory q => s.modMem fun m => { m with channelsDown := m.channelsDown.filter fun c => c / 8 != q }
  | .serdes _ => s
  | .tirmon _ => s

/-- The clock of a domain runs again, and its crossing delivers what waited, in order (R513, R514, R546). -/
def State.startDomain (s : State) (d : Domain) : State :=
  let l := s.recover.wakes.filter fun w => w.domain == d
  let s := s.modRec fun r => { r with stopped := r.stopped.filter (fun x => x != d), wakes := r.wakes.filter fun w => w.domain != d }
  let s := s.restartClock d
  l.foldl (fun s w => s.doorbell w.fn w.slot w.value) s

/-- Work that has come to a quadrant whose engine clock stands restarts it (R546). -/
def State.wakeBusy (s : State) : State :=
  [0, 1, 2, 3].foldl (fun s q => if (s.quad q).clockStopped && s.quadrantBusy q then s.startDomain (.engine q) else s) s

/-- Vector entry is withheld one clock in two while THROTTLED, and one in four under the backstop (R543, R545, R562). -/
def State.withhold (s : State) : State :=
  if (s.power.throttled && s.clk % 2 == 0) || (s.power.backstop && s.clk % 4 == 0) then
    s.modPower fun p => { p with withheld := p.withheld + 1 }
  else s

/-! ## REJOIN beacons (R527) -/

/-- A REJOIN beacon can be sealed now: a counter and an engine are free. -/
def State.rejoinReady (s : State) : Bool := s.mer.lock != .unlocked && s.counterReady 0 && s.engineFree 0 false

/-- The REJOIN beacon of a job that a dump records (R527): sealed under the generation recorded; in a partition that has
no root any more it cannot be. -/
def State.sendRejoin (s : State) (p j gen rank : Nat) : State :=
  if !(s.part p).keyed then s
  else if !s.floodRoom then s.note Status.beaconLimit 0x14 0
  else
    let b := s.beaconPacket p j 6
    let b := { b with hop := { b.hop with hopCount := 1 } }
    let (s, c) := (s.useEngine 0 false b.size).takeCounter 0
    let b := s.sealed { b with
      route := { b.route with txQ := 0, txCounter := c, keyGen := gen % 256, epoch := s.activeBank 0 }
      spec := { b.spec with rank } } gen
    let s := s.startFlood { src := s.cfg.endpoint, partition := p, job := j, issue := b.issue, untilClk := s.clk + s.mplClk }
    s.activePorts.foldl (fun s port => s.sendOn (some port) b) s

/-- The REJOIN beacons owed go out while one can be sealed; Izlis service begins once none is owed (R527). -/
def State.rejoin (s : State) : State :=
  let s := s.fw.rejoinPending.foldl (fun s r =>
    if s.rejoinReady then (s.sendRejoin r.1 r.2.1 r.2.2.1 r.2.2.2).modFw fun f => { f with rejoinPending := f.rejoinPending.drop 1 }
    else s) s
  if s.fw.rejoinPending.isEmpty then s.modFw fun f => { f with serving := f.serving || (f.alive && !f.awaitingBoot) } else s

/-- The beacons that could not be sealed when the device left UNLOCKED go as soon as they can. -/
def State.rejoinLate (s : State) : State :=
  if s.fw.rejoinPending.isEmpty || s.mer.lock == .unlocked || s.fw.awaitingBoot then s else s.rejoin

/-- One engine clock passes: the firmware's heartbeat, what is due in the quadrants, the revocations whose packets have
all committed (R123), the package's links with what waits for them, the engines, and the copies of MER_NOW. -/
def State.tick (s : State) : State :=
  let s := if s.power.state = .off then s else
    let s := if s.fw.alive && decide (s.fw.lastBeat + us 100 ≤ s.clk) then
        s.modFw fun f => { f with heartbeat := f.heartbeat + 1, lastBeat := s.clk } else s
    let s := s.fireDue.releaseRevokes.rejoinLate.wakeBusy.withhold
    let s := if s.recover.links.isEmpty then s else s.linkClock.recommit
    s.flushReads.reapTiles.ringTriggers.expireEngines.sealWaiting.pumpBounds.portClocks.clockStep
  { s with clk := s.clk + 1 }

/-! ## The step of MER_NOW (R82, R87, R230, R232) -/

/-- Give back the pool space of the flag packets that wait with a quadrant's records (R252). -/
def State.freeFlags (s : State) (q : Nat) : State := (s.quad q).records.foldl (fun s r => s.freeFlag q r) s

/-- The dedup records of a quadrant go, and the messages outstanding are timed from the step on. -/
def Quadrant.crossStep (d : Quadrant) (clk : Nat) : Quadrant :=
  { d with
    records := []
    senders := tblMap d.senders fun _ x => if x.begun then { x with stepped := true, issueClk := clk } else x }

/-- The end of a quarantine across a step: one that a forward step would cross is extended by the step (R87). -/
def quarantineAfter (old new fin : Nat) : Nat := if old < fin ∧ fin ≤ new then fin + (new - old) else fin

/-- Every quarantine across a step (R87). -/
def State.crossQuarantines (s : State) (old new : Nat) : State :=
  { s with
    contexts := tblMap s.contexts fun _ c => { c with quarantineEnd := quarantineAfter old new c.quarantineEnd }
    regions := tblMap s.regions fun _ r => { r with quarantineEnd := quarantineAfter old new r.quarantineEnd } }

/-- MER_NOW steps to a time, on every copy. -/
def State.stepTime (s : State) (t : W64) : State :=
  let backward := decide (t.toNat < s.mt)
  let s := s.crossQuarantines s.mt t.toNat
  let s := s.modMer fun m => { m with
    now := t, frac := 0, offset := 0, stepped := true, presetWritten := false, floor := some (t, s.clk + s.mplClk) }
  let s := [0, 1, 2, 3].foldl State.freeFlags s
  let s := { s with quads := tblMap s.quads fun _ d => d.crossStep s.clk }
  s.fireLate backward

/-! ## Qualifying and losing the source (R79 to R82) -/

/-- The larger minus the smaller of two times. -/
def apart (a b : Nat) : Nat := (a - b) + (b - a)

/-- A source measurement: the residual is kept, the source qualifies, and the offset is to be slewed away; the frequency
that the loop learns from it is an open value within the slew's bound (assumption log 68). An UNLOCKED device whose
offset exceeds 1,000 ns steps to the time given. -/
def State.measured (s : State) (target : Nat) (stepTo : W64) : State :=
  let off := apart target s.mt
  let gap : Int := (Int.ofNat target - Int.ofNat s.mt) * 1000000
  let (v, s) := s.draw
  let s := s.modMer fun m => { m with
    qualifies := true, holdover := false, offset := gap, freq := Int.ofNat (v % 1001) - 500
    residuals := (s.clk, off) :: m.residuals.filter fun r => s.clk ≤ r.1 + us 1000000 }
  let s :=
    if s.mer.lock == .unlocked && decide (16000 < off) then
      (s.stepTime stepTo).modMer fun m => { m with residuals := [(s.clk, 0)] }
    else s
  s.modMer fun m => { m with e := some s.chainOffset }

/-- The selected source stops qualifying: source_lost, and holdover on the learned frequency. -/
def State.loseSource (s : State) : State :=
  s.modMer fun m => { m with qualifies := false, sourceLost := true, holdover := true, lowSince := none }

/-- Engine clocks of three Announce intervals. -/
def threeIntervals (l : Int) : Nat := 3 * if 0 ≤ l then us 1000000 * 2 ^ l.toNat else us 1000000 / 2 ^ (-l).toNat

/-- The conditions of R79's table hold for the selected source, as far as the device holds them; that the inputs of
source 1 are present is the environment's. -/
def State.sourceGood (s : State) : Bool :=
  let m := s.mer
  let within := fun (t : Option Nat) n => match t with
    | some t => decide (s.clk ≤ t + n)
    | none => false
  let x := s.port m.port
  if m.source = 0 then true
  else if m.source = 1 then m.pulseOk && within m.lastPulse 1600000160
  else if m.source = 2 then
    within m.lastSync (threeIntervals m.announceLog)
  else x.mode == 1 && x.state == .active && within x.exchange (us 10000)

/-- SOURCE_LOST (R79): the pins of source 1 may fail at any time; the other sources are lost when their condition
fails. -/
def execSourceLost (s : State) : Host.Outcome State Fault Refusal :=
  .next (if s.mer.sourceSet && s.mer.qualifies && s.mer.source != 0 && (s.mer.source == 1 || !s.sourceGood) then
      s.loseSource.modMer fun m => { m with pulseOk := false, lastPulse := if m.source = 1 then none else m.lastPulse }
    else s)

/-- SOURCE_QUALIFIES (R79, R80): the selected source meets its condition again; the offset measured with it decides
on a step (R82), which source 1 takes only at a pulse. -/
def execSourceQualifies (offset : Int) (s : State) : Host.Outcome State Fault Refusal :=
  let target := (Int.ofNat s.mt + offset).toNat
  .next (if s.mer.sourceSet && !s.mer.qualifies && s.sourceGood then
      if s.mer.source ≤ 1 then s.modMer fun m => { m with
        qualifies := true, holdover := false, e := some s.chainOffset }
      else s.measured target (w64 target)
    else s)

/-- The nearest whole Meridian second. -/
def nearestSecond (t : Nat) : Nat := (t + 8000000000) / 16000000000 * 16000000000

/-- PPS_IN_PULSE (R79, R81, R82): an edge whose period is right measures the offset of MER_NOW from its whole second;
one whose period is wrong loses the source. -/
def execPpsInPulse (cycles : Nat) (refPresent : Bool) (s : State) : Host.Outcome State Fault Refusal :=
  let good := s.mer.lastPulse.isSome && refPresent && apart cycles 10000000 ≤ 1
  .next (if s.mer.sourceSet && s.mer.source == 1 then
      let second := nearestSecond s.mt
      let to_ := if s.mer.presetWritten then s.mer.preset else w64 second
      let s' := s.modMer fun m => { m with lastPulse := some s.clk, pulseOk := good }
      if good then s'.measured second to_
      else if s.mer.qualifies then s'.loseSource
      else s'
    else s)

/-! ## PTP (R75, R451, R452) -/

/-- Change the slave clock. -/
def State.modPtp (s : State) (g : Ptp → Ptp) : State := s.modMer fun m => { m with ptp := g m.ptp }

/-- The message lies outside the limits of R451: another domain or transport, or an interval that is not served. -/
def EthPort.ptpOutside (x : EthPort) (h : PtpHead) (msg : PtpMsg) : Bool :=
  h.domain != x.ptpDomain.toNat || h.transport != x.ptpTransport || match msg with
    | .sync _ _ _ => decide (h.interval < -7 ∨ 0 < h.interval)
    | .announce _ => decide (h.interval < -3 ∨ 3 < h.interval)
    | .followUp _ _ => false
    | .delayResp _ _ => false
    | .pdelayReq => false
    | .pdelayResp _ => false
    | .other => false

/-- Meridian time of a PTP time; a second before MER_EPOCH_TAI gives none (R75, assumption log 68). -/
def State.ptpTime (s : State) (sec ns : Nat) : Option Nat :=
  if sec < s.mer.epochTai.toNat then none else some ((sec - s.mer.epochTai.toNat) * 16000000000 + ns * 16)

/-- The arrival of an event message: the lane die's copy, less the fixed delay of the port's receive path (R452). -/
def State.ptpArrival (s : State) (port : Nat) : Nat := s.mtPort port - Config.ptpRx port

/-- A rank stands before another: the first place where they differ decides, the lower value first. -/
def rankBefore : List Nat → List Nat → Bool
  | a :: l, b :: m => decide (a < b) || (a == b && rankBefore l m)
  | [], _ :: _ => true
  | _, [] => false

/-- The best master among those heard within three of their Announce intervals (R451, assumption log 68). -/
def State.bestMaster (s : State) : Option PtpMaster :=
  (s.mer.ptp.masters.filter fun m => decide (s.clk ≤ m.heard + threeIntervals m.interval)).foldl
    (fun b m => match b with
      | none => some m
      | some x => if rankBefore (m.rank ++ [m.clock]) (x.rank ++ [x.clock]) then some m else some x) none

/-- The clock is the best master's. -/
def State.isBest (s : State) (clock : Nat) : Bool := (s.bestMaster.map fun m => m.clock) == some clock

/-- An Announce: its master is noted, and the interval of the best one is in force. -/
def State.announced (s : State) (h : PtpHead) (rank : List Nat) : State :=
  let s := s.modPtp fun p => { p with
    masters := { clock := h.clock, rank, interval := h.interval, heard := s.clk } :: p.masters.filter fun m => m.clock != h.clock }
  match s.bestMaster with
  | some m => s.modMer fun x => { x with announceLog := m.interval }
  | none => s

/-- A delay request, at the rate of Sync: of the end-to-end profile, or of the peer-to-peer one where the link partner uses
it (DESIGN CHOICE, assumption log 68). -/
def State.askDelay (s : State) (port : Nat) : State :=
  let n := s.mer.ptp.nextSeq
  (s.modPtp fun p => { p with asked := some (n, none), nextSeq := (n + 1) % 65536 }).queueOwn port 0 72
    (if s.mer.ptp.peer then 4 else 3) [n]

/-- A Sync of the best master with its origin time and arrival: the offset is measured once the path delay is known, and the
delay is asked for again. -/
def State.synced (s : State) (port arrival : Nat) (origin : Option Nat) : State :=
  match origin with
  | none => s
  | some t =>
    let s := (s.modPtp fun p => { p with down := Int.ofNat arrival - Int.ofNat t }).modMer fun m => { m with lastSync := some s.clk }
    let s := match s.mer.ptp.delay with
      | some d =>
        let target := (Int.ofNat s.mt + (Int.ofNat t + d - Int.ofNat arrival)).toNat
        s.measured target (w64 target)
      | none => s
    s.askDelay port

/-- The path delay from the answer to a request that has left: half of the time there and back. -/
def State.delayFrom (s : State) (h : PtpHead) (g : Nat → Int) : State :=
  match s.mer.ptp.asked with
  | some (n, some left) => if n = h.sequence then s.modPtp fun p => { p with delay := some (g left / 2), asked := none } else s
  | some (_, none) => s
  | none => s

/-- One message of the profile on the slave's port. -/
def State.ptpMessage (s : State) (port : Nat) (h : PtpHead) (msg : PtpMsg) : State :=
  let arrival := s.ptpArrival port
  match msg with
  | .sync twoStep sec ns =>
    if !s.isBest h.clock then s
    else if twoStep then s.modPtp fun p => { p with waiting := some (h.clock, h.sequence, arrival) }
    else s.synced port arrival (s.ptpTime sec ns)
  | .followUp sec ns => match s.mer.ptp.waiting with
    | some (c, n, arrived) =>
      if c = h.clock ∧ n = h.sequence then (s.modPtp fun p => { p with waiting := none }).synced port arrived (s.ptpTime sec ns)
      else s
    | none => s
  | .announce rank => s.announced h rank
  | .delayResp sec ns => match s.ptpTime sec ns with
    | some t => s.delayFrom h fun left => s.mer.ptp.down + (Int.ofNat t - Int.ofNat left)
    | none => s
  | .pdelayReq => (s.modPtp fun p => { p with peer := true }).queueOwn port 0 72 5 [h.sequence, h.clock]
  | .pdelayResp residence => s.delayFrom h fun left => Int.ofNat arrival - Int.ofNat left - Int.ofNat (residence * 16)
  | .other => s

/-- PTP_MESSAGE (R75, R451, R452): messages of the slave's port; those outside the limits count in rx_filtered. -/
def execPtpMessage (port : Nat) (head : PtpHead) (msg : PtpMsg) (s : State) : Host.Outcome State Fault Refusal :=
  .next (if s.isEth port && s.mer.sourceSet && s.mer.source == 2 && s.mer.port == port then
      if (s.port port).eth.ptpOutside head msg then s.ethCount port 5 1 else s.ptpMessage port head msg
    else s)

/-- A control flit was received intact (R302). -/
def State.goodControl (s : State) (port : Nat) : State := s.modPort port fun x => { x with lastGoodControl := s.clk }

/-- Send a control message on a port (R299). -/
def State.sendControl (s : State) (port code : Nat) (words : List W64) : State :=
  (s.modPort port fun x => { x with lastControlSent := s.clk }).emit (.control port code words)

/-- TIME_EXCHANGE (R76, R299): once in 1 ms a fabric port sends TIME_REQ with its transmit stamp. -/
def execTimeExchange (port : Nat) (s : State) : Host.Outcome State Fault Refusal :=
  let due := match (s.port port).lastTimeReq with
    | some (t, _) => decide (t + us 1000 ≤ s.clk)
    | none => true
  .next (if s.fabricActive port && due then
      (s.modPort port fun x => { x with lastTimeReq := some (s.clk, s.mer.now) }).sendControl port 0x03 [s.mer.now]
    else s)

/-- The hops of this device from the hall timekeeper, and that timekeeper's source (R299). -/
def State.traced (s : State) : Nat × Nat :=
  if s.mer.source = 3 then ((s.port s.mer.port).farHops + 1, (s.port s.mer.port).farSource) else (0, s.mer.source)

/-- TIME_REQ (R76, R299): a device that is LOCKED or DEGRADED answers with TIME_RESP. -/
def execTimeReq (port : Nat) (_stamp : W64) (s : State) : Host.Outcome State Fault Refusal :=
  .next (if s.fabricActive port then
      let s := s.goodControl port
      if s.mer.lock == .unlocked then s
      else s.sendControl port 0x04 [s.mer.now, s.mer.now, w64 s.traced.1, w64 s.traced.2]
    else s)

/-- TIME_RESP (R76, R81, R299): the exchange completes; on the named port of source 3 it measures the offset, the link
delay removed. -/
def execTimeResp (port : Nat) (rx tx : W64) (hops source : Nat) (epochTai : W64) (s : State) :
    Host.Outcome State Fault Refusal :=
  .next (if s.fabricActive port then
      let s := s.goodControl port
      match (s.port port).lastTimeReq with
      | none => s
      | some (_, sent) =>
        let off := ((Int.ofNat rx.toNat - Int.ofNat sent.toNat) + (Int.ofNat tx.toNat - Int.ofNat s.mt)) / 2
        let target := (Int.ofNat s.mt + off).toNat
        let s := s.modPort port fun x => { x with
          exchange := some s.clk, farHops := hops, farSource := source, farEpochTai := epochTai }
        if s.mer.sourceSet && s.mer.source == 3 && s.mer.port == port then s.measured target (w64 target) else s
    else s)

/-! ## Lock states (R81, R84, R527) -/

/-- Enter a lock state. -/
def State.enterLock (s : State) (l : Lock) : State :=
  let left := s.mer.lock == .unlocked && l != .unlocked
  let s := s.modMer fun m => match l with
    | .unlocked => { m with lock := l, enteredUnlocked := true }
    | .degraded => { m with lock := l, enteredDegraded := true }
    | .locked => { m with
        lock := l, enteredLocked := true
        epochTai := if m.source = 3 then (s.port m.port).farEpochTai else m.epochTai }
  if left then s.rejoin else s

/-- The state that follows from the estimated offset. -/
def Meridian.nextLock (m : Meridian) (clk : Nat) : Lock :=
  let e := m.e.getD (eNs 1001)
  let since := fun (t : Option Nat) n => match t with
    | some t => decide (t + n ≤ clk)
    | none => false
  if !m.sourceSet || eNs 1000 < e then .unlocked
  else match m.lock with
    | .unlocked => if m.qualifies then .degraded else .unlocked
    | .degraded => if since m.lowSince (us 1000000) then .locked else .degraded
    | .locked => if since m.highSince (us 100) then .degraded else .locked

/-- Evaluate the estimated offset, the lock state and the window. -/
def State.evaluate (s : State) : State :=
  let s := s.modMer fun m =>
    let e := if m.sourceSet && m.qualifies then some s.chainOffset else m.e
    let low := match e with
      | some x => decide (x ≤ eNs 25)
      | none => false
    { m with
      e, lastEval := s.clk
      residuals := m.residuals.filter fun r => s.clk ≤ r.1 + us 1000000
      lowSince := if low && m.qualifies then some (m.lowSince.getD s.clk) else none
      highSince := if low then none else some (m.highSince.getD s.clk) }
  let l := s.mer.nextLock s.clk
  let s := if l == s.mer.lock then s else s.enterLock l
  let s := s.modMer fun m => { m with floor := match m.floor with
    | some (t, u) => if u ≤ s.clk then none else some (t, u)
    | none => none }
  s.modMer fun m => { m with window := s.windowNow }

/-- LOCK_EVALUATE (R81, R84): every 1 µs. -/
def execLockEvaluate (s : State) : Host.Outcome State Fault Refusal :=
  .next (if s.mer.lastEval + us 1 ≤ s.clk then s.evaluate else s)

/-- REJOIN_DEADLINE (R527): 1 s after boot step 7 Izlis service begins, and Survey records the delay. -/
def execRejoinDeadline (s : State) : Host.Outcome State Fault Refusal :=
  .next (if !s.fw.awaitingBoot && s.fw.alive && !s.fw.serving && s.mer.lock == .unlocked
        && s.fw.bootClk + us 1000000 ≤ s.clk then
      (s.modFw fun f => { f with serving := true }).count Count.rejoinDelay
    else s)

/-! ## The 1PPS output (R91, R553) -/

/-- PPS_OUT_PULSE (R91): PPS_OUT rises in the clock of a whole Meridian second, LOCKED or DEGRADED and enabled. -/
def execPpsOutPulse (s : State) : Host.Outcome State Fault Refusal :=
  .next (if s.mer.ppsEnable && s.mer.lock != .unlocked && s.mt % 16000000000 ≤ 10 && !s.mer.ppsOut then
      s.modMer fun m => { m with ppsOut := true, ppsOutRise := s.clk }
    else s)

/-- PPS_OUT_FALL (R553): 10 ms after its rise PPS_OUT is low again. -/
def execPpsOutFall (s : State) : Host.Outcome State Fault Refusal :=
  .next (if s.mer.ppsOut && s.mer.ppsOutRise + us 10000 ≤ s.clk then s.modMer fun m => { m with ppsOut := false } else s)

/-! ## The rows of the appointments -/

/-- CHART_BANK_SWAP (R89, R309, R316). -/
def execChartBankSwap (s : State) : Host.Outcome State Fault Refusal :=
  .next ((s.fire (.chartSwap false)).fire (.chartSwap true))

/-- A RETAINED bank past its end is IDLE. -/
def Charts.expire (c : Charts) (mt : Nat) : Charts :=
  if c.retained && decide (c.retainEnd.toNat < mt) then { c with retained := false } else c

/-- RETAIN_END (R309, R329): past FAB_RETAIN_END the RETAINED bank is IDLE, in each quadrant on its own copy. -/
def execRetainEnd (s : State) : Host.Outcome State Fault Refusal :=
  .next ([0, 1, 2, 3].foldl (fun s q => s.modChart q fun c => c.expire (s.mtQ q)) s)

/-- GATE_SWAP_APPOINTMENT (R89, R456). -/
def execGateSwapAppointment (port : Nat) (s : State) : Host.Outcome State Fault Refusal := .next (s.fire (.gateSwap port))

/-- KEY_ROTATION (R89, R492). -/
def execKeyRotation (p : Nat) (job : Option Nat) (s : State) : Host.Outcome State Fault Refusal :=
  .next (s.fire (.keyRotation p job))

/-- COLLECTIVE_START (R89, R392). -/
def execCollectiveStart (p : Nat) (schedule : W32) (s : State) : Host.Outcome State Fault Refusal :=
  .next (s.fire (.collective p schedule))

/-- JOB_HEARTBEAT (R89, R387). -/
def execJobHeartbeat (p job : Nat) (s : State) : Host.Outcome State Fault Refusal := .next (s.fire (.heartbeat p job))

/-- KEY_RETAIN_END (R492): the previous generation is accepted no longer. -/
def execKeyRetainEnd (p : Nat) (job : Option Nat) (s : State) : Host.Outcome State Fault Refusal :=
  .next (s.modKey p job fun k => match k.retained with
    | some (_, t) => if t ≤ s.mt then { k with retained := none } else k
    | none => k)

/-- SURVEY_EPOCH (R89, R528). -/
def execSurveyEpoch (s : State) : Host.Outcome State Fault Refusal := .next (s.fire .surveyEpoch)

end Sys2Proof.Machine
end

