-- ==== Sys2Proof/Machine/Ports.lean ====
section
/-!
DEFINITION. Machine/Ports.lean: the 32 ports: training, masking, flits, the control lane and lane widths, and what the
end of an attach session does (R289 to R304, R318, R328).
-/

namespace Sys2Proof.Machine

/-- Add to a 16-bit saturating counter. -/
def sat16 (a n : Nat) : Nat := min 0xFFFF (a + n)

/-- Lanes of a width code: 0 none, 1 one, 2 two, 3 four (FAB_PORT_STATUS). -/
def lanesOf (code : Nat) : Nat := if code = 0 then 0 else 2 ^ (code - 1)

/-- The width code of a lane count. -/
def widthCode (lanes : Nat) : Nat := if lanes = 0 then 0 else if lanes = 1 then 1 else if lanes = 2 then 2 else 3

/-- The port runs Zulvon lanes: fabric or attach mode. -/
def Port.zulvon (x : Port) : Bool := x.mode == 1 || x.mode == 2

/-- Give back a port's leave for added lanes. -/
def State.endLaneLeave (s : State) (port : Nat) : State :=
  let mine := fun (l : Leave) => match l.purpose with
    | .lanes p _ => p == port
    | .graticule _ _ => false
    | .engine _ _ => false
    | .rekey _ => false
    | .selfTest _ => false
  s.modPower fun p => { p with
    holders := p.holders.filter (fun l => !mine l)
    firstQueue := p.firstQueue.filter (fun l => !mine l) }

/-! ## Masks (R302 to R304) -/

/-- Down events of the last 1 s. -/
def Port.downsNow (x : Port) (clk : Nat) : List Nat := x.recentDowns.filter fun t => clk < t + us 1000000

/-- A down event is counted; the eighth within 1 s holds the port masked (R304). -/
def Port.countDown (x : Port) (clk : Nat) : Port :=
  let l := clk :: x.downsNow clk
  { x with downEvents := sat16 x.downEvents 1, recentDowns := l, heldMasked := x.heldMasked || decide (8 ≤ l.length) }

/-- An aborted packet is dropped where its copies stand: a copy in a landing pool whose tag is not yet checked, and a head
or a packet behind it at this input; `part` is what the link has brought of it (R297). -/
def State.dropAborted (s : State) (port : Nat) (part : List Byte) : State :=
  let same := fun (p : Packet) => decide (64 ≤ part.length) && p.header == part.take 64
  let s := [0, 1, 2, 3].foldl (fun s q =>
    ((s.quad q).copies.filter fun c => c.port == port && !c.verified && same c.pkt).foldl (fun s c => s.dropCopy q c) s) s
  if (s.port port).input.any fun h => same h.pkt then
    s.modPort port fun x =>
      let l := x.input.filter fun h => !same h.pkt
      { x with input := match l with
        | h :: r => { h with headSince := some (h.headSince.getD s.clk) } :: r
        | [] => [] }
  else s

/-- The packet in progress on a port's input ends aborted: it is counted and dropped (R297). -/
def State.abortPacket (s : State) (port : Nat) : State :=
  let part := (s.port port).rxPartial.getD []
  if part.isEmpty then s
  else ((s.modPort port fun x => { x with aborted := sat16 x.aborted 1 }).note Status.linkAbort 0x18 port).dropAborted
    port part

/-- Packets queued on the fallback path of a port that is down take another output, under their colour (R281, R303,
assumption log 75). -/
def State.moveFallback (s : State) (port : Nat) : State :=
  let l := (s.port port).fallback
  if l.isEmpty then s
  else l.foldl (fun s f =>
    match s.pickOutput (s.chartEntry f.pkt.route.txQ f.pkt.route.epoch f.pkt.route.dst) with
    | (s, some o) => s.modPort o fun x => { x with fallback := x.fallback ++ [f] }
    | (s, none) => s) (s.modPort port fun x => { x with fallback := [] })

/-- Return the port to DETECT, or leave it MASKED while it is held. -/
def Port.toDetect (x : Port) : Port :=
  { x with
    state := if x.mode = 0 then .down else if x.heldMasked then .masked else .detect
    width := 0, proposed := none, agreed := none, rxPartial := none }

/-- Mask one port (R303): the packet being received ends aborted, DOWN_NOTICE is sent, and the port returns to
DETECT. Whole packets in its input's buffer go on to their outputs (assumption log 76). -/
def State.maskRaw (s : State) (port : Nat) (counted : Bool) : State :=
  let x := s.port port
  let s := s.abortPacket port
  let s := if x.zulvon then s.sendControl port 0x08 [] else s
  let s := (s.endLaneLeave port).modPort port fun x =>
    let x := { x with heldNeighbour := if x.state == PortState.active then some x.neighbour else x.heldNeighbour }
    (if counted then x.countDown s.clk else x).toDetect
  s.moveFallback port

/-! ## Accelerators and their ports (R317, R318, R328) -/

/-- The ports that FAB_ATT_CONFIG names for an accelerator. -/
def Accel.configured (x : Accel) : List Nat := (List.range 32).filter fun p => x.ports.getLsbD p

/-- The ports of the running session. -/
def Accel.inForce (x : Accel) : List Nat := (List.range 32).filter fun p => x.portsInForce.getLsbD p

/-- The accelerator that a port is configured for. -/
def State.accelOf (s : State) (port : Nat) : Option Nat := (List.range 8).find? fun a => (s.accel a).ports.getLsbD port

/-- The accelerator whose session runs over a port. -/
def State.sessionOf (s : State) (port : Nat) : Option Nat :=
  (List.range 8).find? fun a => (s.accel a).portsInForce.getLsbD port

/-- The configuration of an accelerator breaks R318. -/
def State.attConfigBad (s : State) (a : Nat) : Bool :=
  let l := (s.accel a).configured
  l.any (fun p => (s.port p).mode != 2 || p / 8 != l.headD 0 / 8)
    || (List.range 8).any fun b => b != a && l.any fun p => (s.accel b).ports.getLsbD p

/-- What a request of an ended session was for is lost: a commit is dropped without a reply (R322), and local work
meets a window that no accelerator serves (R115). -/
def State.loseRequest (s : State) (r : AttReq) : State :=
  match r.purpose with
  | .commit q c => match s.copy? q c with
    | some x => s.freeCopy q x
    | none => s
  | .readFor q c _ => match s.copy? q c with
    | some x => s.freeCopy q x
    | none => s
  | .readInto q c => match s.copy? q c with
    | some x => s.respCommitted q x Status.addressUnmapped
    | none => s
  | .fetch o _ => s.failOwner o Status.addressUnmapped
  | .store o _ => s.failOwner o Status.addressUnmapped

/-- The attach session of an accelerator ends (R328): credits and waiting requests are discarded, its ports masked. -/
def State.endSession (s : State) (a : Nat) : State :=
  let x := s.accel a
  let l := x.inForce
  let kept := (x.relayReads.map fun r => r.2.length).sum * 4160
  let s := s.modQuad x.quadrant fun d => { d with reserved := d.reserved - kept }
  let s := s.modAccel a fun x => { x with
    state := .reset, step := 0, writeCredits := 0, readCredits := 0, requests := [], portsInForce := 0
    relayReads := [], relayWaiting := [] }
  let s := x.requests.foldl State.loseRequest s
  (l.filter fun p => (s.port p).state == .active || (s.port p).state == .session).foldl
    (fun s p => s.maskRaw p false) s

/-- A session whose ports are all masked ends (R328). -/
def State.checkSession (s : State) (port : Nat) : State :=
  match s.sessionOf port with
  | none => s
  | some a =>
    if (s.accel a).inForce.any fun p => (s.port p).state == .active || (s.port p).state == .session then s
    else s.endSession a

/-- Mask a port that carries traffic or holds a session (R302). -/
def State.maskPort (s : State) (port : Nat) : State :=
  if (s.port port).state == .active || (s.port port).state == .session then (s.maskRaw port true).checkSession port
  else s

/-! ## Training (R292, R293) -/

/-- A training state hands on to the next. -/
def State.trainTo (s : State) (port : Nat) (a b : PortState) : State :=
  if (s.port port).state == a && (s.port port).mode != 0 then s.modPort port fun x => { x with state := b } else s

/-- PORT_DETECT (R292): termination is seen on all lanes. -/
def execPortDetect (port : Nat) (s : State) : Host.Outcome State Fault Refusal :=
  .next (if (s.port port).state == .detect then
      (s.trainTo port .detect .train).modPort port fun x => { x with leftDetect := s.clk }
    else s)

/-- LANE_TRAINED (R292). -/
def execLaneTrained (port : Nat) (s : State) : Host.Outcome State Fault Refusal := .next (s.trainTo port .train .align)

/-- The HELLO this device sends: role, endpoint, MPL, widest lane count, protocol version (R299). -/
def State.sendHello (s : State) (port : Nat) : State :=
  s.sendControl port 0x01 [w64 (if (s.port port).mode = 2 then 2 else 1), w64 s.cfg.endpoint, w64 s.cfg.mplUs, 4, 1]

/-- The port carries traffic. -/
def State.activate (s : State) (port lanes : Nat) : State :=
  s.modPort port fun x => { x with state := .active, width := widthCode lanes, lastGoodControl := s.clk, rxPartial := none }

/-- CODEWORD_LOCK (R292, R440): a Zulvon port enters CONFIG and sends HELLO; an Ethernet port is up at its rate. -/
def execCodewordLock (port : Nat) (s : State) : Host.Outcome State Fault Refusal :=
  let x := s.port port
  .next (if x.state == .align then
      if x.zulvon then (s.trainTo port .align .config).sendHello port
      else s.activate port (ethLanes x.eth.rate)
    else s)

/-- The flags of R293 that a HELLO sets: mode_mismatch and mpl_mismatch. -/
def State.helloFlags (s : State) (port : Nat) (m : Hello) : Bool × Bool :=
  if (s.port port).mode = 1 then (m.role != 1, m.mplUs != s.cfg.mplUs)
  else (m.role != 3 || (match s.accelOf port with
    | some a => m.endpoint != (s.accel a).endpoint.toNat
    | none => true), false)

/-- An attach port whose HELLO is accepted: it joins a session that is UP, or waits in SESSION for one (R305). -/
def State.enterSession (s : State) (port a : Nat) (m : Hello) : State :=
  let x := s.accel a
  if x.state == .up && x.portsInForce.getLsbD port then s.activate port (min 4 m.lanes)
  else
    let s := s.modPort port fun y => { y with state := .session, width := widthCode (min 4 m.lanes) }
    if x.state == .session then s.modAccel a fun x => { x with portsInForce := x.portsInForce ||| w32 (2 ^ port) }
    else s.modAccel a fun x => { x with
      state := .session, step := 1, sessionStart := s.clk, portsInForce := w32 (2 ^ port)
      writeCredits := m.writeCredits, readCredits := m.readCredits }

/-- HELLO (R293, R299, R304, R318): the far end is checked; the port advances, or stays in CONFIG with a flag. -/
def execHello (port : Nat) (msg : Hello) (s : State) : Host.Outcome State Fault Refusal :=
  let x := s.port port
  .next (if x.state == .config && x.zulvon && !x.modeMismatch && !x.mplMismatch && !x.neighbourChanged then
      let s := s.goodControl port
      let (mode, mpl) := s.helloFlags port msg
      let changed := match x.heldNeighbour with
        | some e => e != BitVec.ofNat 16 msg.endpoint
        | none => false
      if mode || mpl then s.modPort port fun x => { x with modeMismatch := mode, mplMismatch := mpl }
      else if changed then s.modPort port fun x => { x with neighbourChanged := true }
      else
        let accept := fun (s : State) => s.modPort port fun x => { x with
          neighbour := BitVec.ofNat 16 msg.endpoint, heldNeighbour := none }
        if x.mode = 1 then (accept s).activate port (min 4 msg.lanes)
        else match (s.sessionOf port).or (s.accelOf port) with
          | none => s
          | some a =>
            if (s.sessionOf port).isNone && s.attConfigBad a then s.modAccel a fun x => { x with state := .configError }
            else (accept s).enterSession port a msg
    else s)

/-- TRAINING_TIMEOUT (R292): 100 ms after leaving DETECT without reaching ACTIVE, unless held in CONFIG with a flag. -/
def execTrainingTimeout (port : Nat) (s : State) : Host.Outcome State Fault Refusal :=
  let x := s.port port
  let under := x.state == .train || x.state == .align || x.state == .config || x.state == .session
  let held := x.state == .config && (x.modeMismatch || x.mplMismatch || x.neighbourChanged)
  .next (if x.zulvon && under && !held && x.leftDetect + us 100000 ≤ s.clk then
      (s.modPort port fun x => (x.countDown s.clk).toDetect).checkSession port
    else s)

/-- LOSS_OF_SIGNAL (R302). -/
def execLossOfSignal (port : Nat) (s : State) : Host.Outcome State Fault Refusal := .next (s.maskPort port)

/-- CONTROL_FLIT_TIMEOUT (R302): no good control flit for 600 ns. -/
def execControlFlitTimeout (port : Nat) (s : State) : Host.Outcome State Fault Refusal :=
  .next (if (s.port port).zulvon && (s.port port).lastGoodControl + 960 ≤ s.clk then s.maskPort port else s)

/-- DOWN_NOTICE (R302). -/
def execDownNotice (port : Nat) (s : State) : Host.Outcome State Fault Refusal :=
  .next (if (s.port port).zulvon then s.maskPort port else s)

/-- Return a port to DETECT under FAB_PORT_CTRL.retrain (R293, R304): an ACTIVE port is first masked, with no down
event counted. -/
def State.retrainPort (s : State) (port : Nat) : State :=
  let x := s.port port
  let s := if x.state == .active || x.state == .session then (s.maskRaw port false).checkSession port else s
  s.modPort port fun x => { x with
    modeMismatch := false, mplMismatch := false, neighbourChanged := false, heldNeighbour := none
    recentDowns := [], heldMasked := false }.toDetect

/-- RETRAIN (R304, R317): a PF writes FAB_PORT_CTRL; min_width 3 is reserved and leaves the field. A device with a failed
die brings up no port (R16, R26). -/
def execRetrain (fn port : Nat) (value : W32) (s : State) : Host.Outcome State Fault Refusal :=
  let w := bits value.toNat 1 0
  .next (if isPf fn && (s.func fn).present then
      let s := s.modPort port fun x => { x with minWidth := if w = 3 then x.minWidth else w }
      if bit value.toNat 2 && !s.diagOnly then s.retrainPort port else s
    else s)

/-! ## Data flits (R295 to R298, R302, R306) -/

/-- Units a packet takes that begins with these bytes: a native packet, or an attach packet (R296, R319). `none` while
the bytes do not yet hold the length. -/
def unitsOf (attach : Bool) (l : List Byte) : Option Nat :=
  if attach then
    if l.length < 32 then none
    else
      let h := leNat (l.take 32)
      let kind := bits h 7 0
      let n := if kind = 0x11 ∨ kind = 0x12 ∨ (kind = 0x13 ∧ bits h 175 160 ≠ 0) then 0 else bits h 204 192
      some ((32 + n + 15) / 16)
  else if l.length < 80 then none
  else some ((80 + bits (leNat (l.take 80)) 136 124 + 15) / 16)

/-- One unit joins the packet being received: a gap unit between packets is skipped, a complete packet is handed on. -/
def rxUnit (attach : Bool) (part : List Byte) (u : List Byte) : List Byte :=
  if part.isEmpty && u.take 2 == [0xFF, 0xFF] then []
  else
    let l := part ++ u
    match unitsOf attach l with
    | some n => if n * 16 ≤ l.length then [] else l
    | none => l

/-- The units of a flit from an index on. -/
def flitUnits (l : List Byte) (i : Nat) : List (List Byte) := (List.range' i (64 - i)).map fun j => slice l (4 + j * 16) 16

/-- A good flit: the packet in progress goes on or is aborted, and packets are delimited. -/
def State.goodFlit (s : State) (port : Nat) (l : List Byte) : State :=
  let h := field l 0 4
  let x := s.port port
  let attach := x.mode == 2
  let start := bits h 26 20
  let cut := bit h 27
  let s := if cut then s.abortPacket port else s
  let from_ : Option (Nat × List Byte) :=
    match x.rxPartial with
    | some p => some (0, if cut then [] else p)
    | none => if start = 0x7F then none else some (start, [])
  s.modPort port fun x => { x with rxPartial := match from_ with
    | some (i, p) => some ((flitUnits l i).foldl (rxUnit attach) p)
    | none => none }

/-- A flit that fails its CRC takes every packet with a byte in it (R298). -/
def State.badFlit (s : State) (port : Nat) : State :=
  (s.abortPacket port).modPort port fun x => { x with crcErrors := sat16 x.crcErrors 1, rxPartial := none }

/-- Bytes of a data flit in a mode (R295, R306). -/
def flitSize (mode : Nat) : Nat := if mode = 2 then 1048 else 1032

/-- The flit passes its CRC and is a data flit. -/
def flitGood (mode : Nat) (l : List Byte) : Bool :=
  let n := flitSize mode
  l.length == n && field l (n - 4) 4 == (crc32 (l.take (n - 4))).toNat && bits (field l 0 4) 31 28 == 1

/-- Count uncorrectable codewords; eight within 1 µs mask the port (R302). -/
def State.countCodewords (s : State) (port n : Nat) : State :=
  let s := s.modPort port fun x => { x with
    uncorrectable := sat16 x.uncorrectable n
    recentUncorrectable := (List.replicate (min n 8) s.clk ++ x.recentUncorrectable.filter fun t => s.clk < t + us 1).take 8 }
  if 8 ≤ (s.port port).recentUncorrectable.length then s.maskPort port else s

/-- A flit of an attach link takes the next of the session's flit counter; a good one is opened, and a tag that fails ends
the session (R306). -/
def State.attachFlit (s : State) (port : Nat) (bytes : List Byte) : State :=
  match s.sessionOf port with
  | none => s
  | some a =>
    let x := s.accel a
    let s := s.modAccel a fun x => { x with upFlits := x.upFlits + 1 }
    if !flitGood 2 bytes then s.badFlit port
    else match openFlit x.upKey x.upFlits bytes with
      | some l => s.goodFlit port l
      | none => s.endSession a

/-- DATA_FLIT (R295 to R298, R302, R306): received, checked and delimited. -/
def execDataFlit (port : Nat) (bytes : List Byte) (uncorrectable : Nat) (s : State) :
    Host.Outcome State Fault Refusal :=
  let x := s.port port
  .next (if x.zulvon && x.state == .active then
      let s := if uncorrectable = 0 then s else s.countCodewords port uncorrectable
      if (s.port port).state != .active then s
      else if x.mode = 2 then s.attachFlit port bytes
      else if !flitGood x.mode bytes then s.badFlit port
      else s.goodFlit port bytes
    else s)

/-- KEEPALIVE (R299): a transmitter that has sent no control flit for 200 ns sends one. -/
def execKeepalive (port : Nat) (s : State) : Host.Outcome State Fault Refusal :=
  let x := s.port port
  let on := x.state == .config || x.state == .session || x.state == .active
  .next (if x.zulvon && on && x.lastControlSent + 320 ≤ s.clk then s.sendControl port 0x02 [] else s)

/-! ## Lane widths (R300, R301) -/

/-- The narrow condition of R300. -/
def State.narrowHolds (s : State) (x : Port) (outBusy inBusy heldUs : Nat) : Bool :=
  outBusy < s.cfg.narrowUtil && inBusy < s.cfg.narrowUtil && s.cfg.narrowWindow ≤ heldUs
    && 2 ^ x.minWidth ≤ lanesOf x.width / 2 && 1 ≤ lanesOf x.width / 2

/-- The port may change its width: ACTIVE on Zulvon lanes. -/
def Port.widthOpen (x : Port) : Bool := x.zulvon && x.state == .active

/-- WIDTH_PROPOSAL (R300, R301): half the width is proposed at once; twice the width after leave for the added lanes. -/
def execWidthProposal (port : Nat) (outBusy inBusy peakBusy heldUs : Nat) (s : State) :
    Host.Outcome State Fault Refusal :=
  let x := s.port port
  let n := lanesOf x.width
  .next (if x.widthOpen && x.proposed.isNone && x.agreed.isNone then
      if s.cfg.widenUtil < peakBusy && n < 4 then
        (s.modPort port fun x => { x with proposed := some (2 * n), leaveForLanes := n }).askLeave (.lanes port n)
      else if s.narrowHolds x outBusy inBusy heldUs then
        (s.modPort port fun x => { x with proposed := some (n / 2), leaveForLanes := 0 }).sendControl port 0x05 [w64 (n / 2)]
      else s
    else s)

/-- Agree to a width: WIDTH_ACK and WIDTH_SWITCH go out (R301). -/
def State.agreeWidth (s : State) (port lanes : Nat) : State :=
  ((s.modPort port fun x => { x with agreed := some lanes, leaveForLanes := 0 }).sendControl port 0x06 [w64 lanes]).sendControl
    port 0x07 []

/-- WIDTH_REQ (R300, R301): a proposal to narrow is acknowledged where this side's own condition holds, one to widen
after leave. -/
def execWidthReq (port lanes : Nat) (outBusy inBusy heldUs : Nat) (s : State) : Host.Outcome State Fault Refusal :=
  let x := s.port port
  let n := lanesOf x.width
  .next (if x.widthOpen && x.agreed.isNone then
      let s := s.goodControl port
      if 2 * lanes = n then (if s.narrowHolds x outBusy inBusy heldUs then s.agreeWidth port lanes else s)
      else if lanes = 2 * n ∧ lanes ≤ 4 then
        (s.modPort port fun x => { x with agreed := some lanes, leaveForLanes := n }).askLeave (.lanes port n)
      else s
    else s)

/-- Leave for added lanes has been granted: the proposal or the acknowledgement it held back goes out (R301). -/
def State.lanesGranted (s : State) (port : Nat) : State :=
  let x := s.port port
  if x.leaveForLanes = 0 then s
  else match x.agreed, x.proposed with
    | some n, _ => s.agreeWidth port n
    | none, some n => (s.modPort port fun x => { x with leaveForLanes := 0 }).sendControl port 0x05 [w64 n]
    | none, none => s

/-- WIDTH_ACK (R301): this side's proposal is agreed, and WIDTH_SWITCH goes out. -/
def execWidthAck (port lanes : Nat) (s : State) : Host.Outcome State Fault Refusal :=
  let x := s.port port
  .next (if x.widthOpen && x.proposed == some lanes then
      ((s.goodControl port).modPort port fun x => { x with proposed := none, agreed := some lanes }).sendControl port 0x07 []
    else s)

/-- WIDTH_SWITCH (R301): data flits after it use the agreed width; lanes released give their leave back (R539). -/
def execWidthSwitch (port : Nat) (s : State) : Host.Outcome State Fault Refusal :=
  let x := s.port port
  .next (if x.widthOpen && x.leaveForLanes == 0 then
      match x.agreed with
      | some n =>
        let s := (s.goodControl port).modPort port fun x => { x with agreed := none, width := widthCode n }
        if n < lanesOf x.width then s.endLeave (.lanes port n) else s
      | none => s
    else s)

end Sys2Proof.Machine
end

