-- ==== Sys2Proof/Machine/Attach.lean ====
section
/-!
DEFINITION. Machine/Attach.lean: the commands of the attach profile: sessions, credits, trig points, relayed packets
and the answers of accelerator memory (R305, R319 to R328).
-/

namespace Sys2Proof.Machine

/-- The lowest-numbered port of an accelerator's session (R327). -/
def Accel.firstPort (x : Accel) : Nat := x.inForce.headD 0

/-- The ports in SESSION carry traffic once the session is UP (R305). -/
def State.sessionUp (s : State) (a : Nat) : State :=
  let s := (s.modAccel a fun x => { x with state := .up, step := 0, generation := x.generation + 1 }).count
    Count.measurementChange
  (s.accel a).inForce.foldl (fun s p =>
    if (s.port p).state == .session then s.activate p (lanesOf (s.port p).width) else s) s

/-- The greatest certificate chain of an accelerator (R305). -/
def attChainMax : Nat := 8192

/-- Step 3 is accepted: both keys follow from the shared secret under the new generation, and the flit counter starts at 0
(R305, R306). -/
def State.attKeys (s : State) (a : Nat) (secret : List Byte) : State :=
  s.modAccel a fun x => { x with
    upKey := attachKey secret a (x.generation + 1) true, downKey := attachKey secret a (x.generation + 1) false, upFlits := 0 }

/-- ATT_SESSION (R305): step 1 brings the certificate chain, step 3 the ciphertext and signature, of which `data` is the
shared secret; `ok` says whether the chain or the signature verifies (assumption log 6). At most one attempt in 100 ms. -/
def execAttSession (a step : Nat) (ok : Bool) (data : List Byte) (s : State) : Host.Outcome State Fault Refusal :=
  let x := s.accel a
  let early := match x.lastAttempt with
    | some t => decide (s.clk < t + us 100000)
    | none => false
  .next (if x.state == .session && x.step == step then
      if step = 1 then
        if early then s
        else
          let s := s.modAccel a fun x => { x with lastAttempt := some s.clk }
          if ok && decide (data.length ≤ attChainMax) then
            (s.modAccel a fun x => { x with step := 3, certDigest := shake256 data 64 }).sendControl x.firstPort 0x10 [2]
          else s.endSession a
      else if step = 3 then (if ok then (s.attKeys a data).sessionUp a else s.endSession a)
      else s
    else s)

/-- ATT_SESSION_TIMEOUT (R305): a session not complete within 100 ms returns its ports to DETECT. -/
def execAttSessionTimeout (a : Nat) (s : State) : Host.Outcome State Fault Refusal :=
  let x := s.accel a
  .next (if x.state == .session && x.sessionStart + us 100000 ≤ s.clk then
      let s := s.modAccel a fun x => { x with state := .none, step := 0, portsInForce := 0, writeCredits := 0, readCredits := 0 }
      x.inForce.foldl (fun s p =>
        if (s.port p).state == .session then s.modPort p fun y => (y.countDown s.clk).toDetect else s) s
    else s)

/-- An encrypted control message has come upstream: it takes the next of the flit counter (R306). -/
def State.upMessage (s : State) (a : Nat) : State := s.modAccel a fun x => { x with upFlits := x.upFlits + 1 }

/-- ATT_CREDIT (R321): returned credits let waiting requests and relays go out. -/
def execAttCredit (a writes reads : Nat) (s : State) : Host.Outcome State Fault Refusal :=
  .next (if (s.accel a).state == .up then
      let s := (s.upMessage a).modAccel a fun x => { x with writeCredits := x.writeCredits + writes, readCredits := x.readCredits + reads }
      let s := s.attPump a ((s.accel a).requests.length + 1)
      s.relayPump a (s.accel a).relayWaiting.length
    else s)

/-- A RELAY_UP or ATT_TRIG is refused (R326, R327). -/
def State.attReject (s : State) (a : Nat) : State :=
  (s.modAccel a fun x => { x with rejects := min 0xFF (x.rejects + 1) }).note Status.attachReject 0x18 (s.accel a).firstPort

/-- ATT_TRIG (R327, R384): the increment is added to a trig point of a permitted partition. -/
def execAttTrig (a partition index : Nat) (increment : W32) (s : State) : Host.Outcome State Fault Refusal :=
  let x := s.accel a
  .next (if x.state == .up then
      let s := s.upMessage a
      match s.trig? index with
      | some (p, v) =>
        if p = partition ∧ x.partitions.getLsbD partition then
          (s.setTrig index p (v + w64 increment.toNat)).trigMoved
        else s.attReject a
      | none => s.attReject a
    else s)

/-- ATT_RESET (R328, R329). -/
def execAttReset (a : Nat) (s : State) : Host.Outcome State Fault Refusal :=
  .next (if (s.accel a).state == .up || (s.accel a).state == .session then s.endSession a else s)

/-! ## Relayed packets (R323 to R326) -/

/-- The packet of R324 before it is sealed. -/
def State.relayed (s : State) (a : Nat) (pkt : Packet) : Packet :=
  let q := (s.accel a).quadrant
  { pkt with
    hop := {}, send := s.stamp q
    route := { pkt.route with
      epoch := s.activeBank q, txQ := q, replyQ := q, landQ := landQuadrant pkt.key.src pkt.key.context } }

/-- The packet keeps R323 where R326 checks it. -/
def State.relayOk (s : State) (a : Nat) (pkt : Packet) : Bool :=
  let x := s.accel a
  headerValid pkt && pkt.key.src == x.endpoint.toNat && x.partitions.getLsbD pkt.key.partition
    && isRequest pkt.route.opcode
    && match ageOf (s.mtQ x.quadrant) pkt.issue with
      | some n => decide (4 * n ≤ 3 * s.mpl)
      | none => false

/-- Reserve response space for the packets a READ_REQ wants and does not hold (R261, R324). -/
def State.relayReserve (s : State) (a : Nat) (pkt : Packet) : Option State :=
  if pkt.route.opcode != opReadReq then some s
  else
    let x := s.accel a
    let have_ := match x.relayReads.find? fun r => r.1 == pkt.key with
      | some r => r.2
      | none => []
    let new := (wanted pkt).filter fun k => !have_.contains k
    if responsePool < (s.quad x.quadrant).reserved + new.length * 4160 then none
    else some ((s.modAccel a fun x => { x with
      relayReads := (pkt.key, have_ ++ new) :: x.relayReads.filter fun r => r.1 != pkt.key }).modQuad x.quadrant
        fun d => { d with reserved := d.reserved + new.length * 4160 })

/-- Queue a sealed relayed packet on the fallback path of a port, coloured on its arrival; a red one is dropped and
counted against its meter (R281). -/
def State.relayQueue (s : State) (port : Nat) (pkt : Packet) : State :=
  let p := pkt.key.partition
  let tc := pkt.route.tc
  let n := (s.port port).accounted pkt.payloadLen
  let r := (s.port port).paint s.clk p tc n
  let s := (s.modPort port fun _ => r.2).meterCount port p tc r.1 n
  if r.1 = 2 then s.countIn (scopeWord 6 p (port * 32 + p * 2 + groupOf tc)) Count.fallbackDrop
  else s.modPort port fun x => { x with fallback := x.fallback ++ [{ pkt, colour := r.1, since := s.clk }] }

/-- Seal, colour and queue a relayed packet on the output its chart entry picks; one toward this device leaves at once
(R225, R281, R310, R324). -/
def State.relaySend (s : State) (pkt : Packet) (k : KeyGens) : State :=
  let q := pkt.route.txQ
  let e := s.chartEntry q (s.activeBank q) pkt.route.dst
  let own := s.ownDst q (s.activeBank q) pkt.route.dst
  if !own && e.kind != 2 then s
  else
    let (s, c) := (s.useEngine q false pkt.size).takeCounter q
    let pkt := s.sealed { pkt with route := { pkt.route with txCounter := c, keyGen := k.genIn q % 256 } } (k.genIn q)
    if own then s.sendOn none pkt
    else match s.pickOutput e with
      | (s, none) => s
      | (s, some port) => s.relayQueue port pkt

/-- RELAY_UP (R85, R323 to R326): an accelerator's packet is checked, sealed and coloured. -/
def execRelayUp (a : Nat) (pkt : Packet) (s : State) : Host.Outcome State Fault Refusal :=
  .next (if (s.accel a).state != .up then s
    else
      let pkt := s.relayed a pkt
      if !s.relayOk a pkt then s.attReject a
      else if s.mer.lock == .unlocked then s
      else match s.keysOf pkt.key.partition none with
        | none => s
        | some k =>
          if !s.keyAllows pkt.route.txQ k || !s.counterReady pkt.route.txQ || s.unitDown (.transport pkt.route.txQ) then s
          else if !s.engineFree pkt.route.txQ false then s.askEngine pkt.route.txQ false
          else match s.relayReserve a pkt with
            | none => s
            | some s => s.relaySend pkt k)

/-! ## Answers of accelerator memory (R320, R322) -/

/-- The sent request of a tag. -/
def Accel.request? (x : Accel) (tag : Nat) (write : Bool) : Option AttReq :=
  x.requests.find? fun r => r.tag == tag && r.write == write && r.sentClk.isSome

/-- A request is answered. -/
def State.takeRequest (s : State) (a tag : Nat) : State :=
  s.modAccel a fun x => { x with requests := x.requests.filter fun r => r.tag != tag }

/-- A landed copy is committed, or refused with a final NAK. -/
def State.attCommitted (s : State) (q : Nat) (c : RxCopy) (status : Nat) : State :=
  let marked := s.marksReply c.pkt c.marked
  let s := s.freeCopy q c
  match c.rdma with
  | some qp =>
    if status = Status.ok then s.rdmaReply qp 1 c.pkt.key.seq.toNat 4 [] else s.rdmaReply qp 4 c.pkt.key.seq.toNat 4 [0x62]
  | none => if status = Status.ok then s.credit q c.pkt marked else s.failRecord q c.pkt status marked

/-- MEM_WRITE_DONE (R320): a landed packet commits, or local work goes on. -/
def execMemWriteDone (a tag status : Nat) (s : State) : Host.Outcome State Fault Refusal :=
  .next (match (s.accel a).request? tag true with
    | none => s
    | some r =>
      let s := s.takeRequest a tag
      match r.purpose with
      | .commit q copy => match s.copy? q copy with
        | some c => s.attCommitted q c status
        | none => s
      | .readInto q copy => match s.copy? q copy with
        | some c => (s.respCommitted q c status).stir
        | none => s
      | .store o _ => if status = Status.ok then s.stirOwner o else (s.failOwner o status).stir
      | .fetch _ _ => s
      | .readFor _ _ _ => s)

/-- MEM_READ_DATA (R320): bytes for a served read, or for local work. -/
def execMemReadData (a tag status : Nat) (data : List Byte) (s : State) : Host.Outcome State Fault Refusal :=
  .next (match (s.accel a).request? tag false with
    | none => s
    | some r =>
      if status = Status.ok && data.length != r.length then s
      else
        let s := s.takeRequest a tag
        match r.purpose with
        | .readFor q copy off => match s.copy? q copy with
          | some c =>
            if status = Status.ok then (s.modCopy q copy fun c => { c with got := (off, data) :: c.got }).serveRead q copy
            else s.failRead q c status
          | none => s
        | .fetch o off => if status = Status.ok then (s.addFetched o off data).stirOwner o else (s.failOwner o status).stir
        | .readInto _ _ => s
        | .store _ _ => s
        | .commit _ _ => s)

/-- ATTACH_TIMEOUT (R322): a request unanswered for 100 µs ends the session. -/
def execAttachTimeout (a tag : Nat) (s : State) : Host.Outcome State Fault Refusal :=
  .next (match (s.accel a).requests.find? fun r => r.tag == tag with
    | some r => match r.sentClk with
      | some t => if t + us 100 ≤ s.clk then s.endSession a else s
      | none => s
    | none => s)

end Sys2Proof.Machine
end

