-- ==== Sys2Proof/Machine/Fabric.lean ====
section
/-!
DEFINITION. Machine/Fabric.lean: the Izlis commands of the fabric, the ports and the time: ENDPOINT_SET, PORT_MODE_SET,
chart blocks, timed swaps, gate lists and TIME_SOURCE_SET (R67, R80, R82, R92, R282, R288 to R290, R307, R309, R316,
R440 to R442, R453, R454, R456, R569).
-/

namespace Sys2Proof.Machine

/-! ## Endpoint and ports -/

/-- ENDPOINT_SET (R67, R87, R526): the MPL's range is judged after OBJECT_IN_USE (DEDUCED, assumption log 44). -/
def execEndpointSet (fn m : Nat) (cores : Cores) (s : State) : Host.Outcome State Fault Refusal :=
  .next (s.serve fn m { opcode := 0x0601, cores, rights := .pf, needsKey := false } fun s _ x =>
    let mpl := bits (x.arg 0) 42 32
    if !(s.contextsWhere fun _ => true).isEmpty then failWith s Status.objectInUse
    else if mpl < 100 ∨ 2000 < mpl then failWith s Status.reservedEncoding
    else okWith ({ s with cfg := { s.cfg with endpoint := x.arg 0 % 65536, mplUs := mpl } }.count Count.measurementChange) [])

/-- Gb/s of a rate code (R440). -/
def ethRate (code : Nat) : Nat := 100 * 2 ^ code

/-- A MAC of the port's lane die is taken by another port (R441). -/
def State.macTaken (s : State) (port mac : Nat) : Bool :=
  (List.range' (port / 4 * 4) 4).any fun p => p != port && s.isEth p && (s.port p).eth.mac == mac

/-- A queue pair, a controller or the time source names an Ethernet port (R442). -/
def State.ethNamed (s : State) (port : Nat) : Bool :=
  s.qps.any (fun r => r.2.port == port) || s.controllers.any (fun r => r.2.port == port)
    || (s.mer.sourceSet && s.mer.source == 2 && s.mer.port == port)

/-- The port enters a mode: its meters restart with full buckets, and its overhead is rewritten (R282, R288). -/
def Port.enterMode (x : Port) (mode rate mac : Nat) : Port :=
  let x := { x with mode, meters := [], overhead := if mode = 3 then 20 else 32 }
  let x := { x with eth := { x.eth with egress := [], busyUntil := 0, buffer := [], paused := [] } }
  let x := if mode = 3 then { x with eth := { x.eth with rate, mac } } else x
  x.toDetect

/-- PORT_MODE_SET (R67, R288 to R290, R302, R440 to R442). -/
def execPortModeSet (fn m : Nat) (cores : Cores) (s : State) : Host.Outcome State Fault Refusal :=
  .next (s.serve fn m { opcode := 0x0602, cores, rights := .pf, needsKey := false } fun s _ x =>
    let port := bits (x.arg 0) 4 0
    let mode := bits (x.arg 0) 7 5
    let rate := ethRate (bits (x.arg 0) 9 8)
    let mac := if s.macTaken port 0 then 1 else 0
    if 3 < mode then failWith s Status.reservedEncoding
    else if s.isEth port && mode != 3 && s.ethNamed port then failWith s Status.objectInUse
    else if mode = 3 ∧ s.macTaken port mac = true then failWith s Status.noResource
    else okWith ((s.maskPort port).modPort port fun y => y.enterMode mode rate mac) [])

/-! ## Charts (R307, R309, R316) -/

/-- A chart entry as read. -/
def parseEntry (l : List Byte) : ChartEntry :=
  let v := leNat (l.take 16)
  { near := w32 (bits v 127 96), productive := w32 (bits v 95 64), distance := bits v 63 56, primary := bits v 52 48
    primaryValid := bit v 47, accelerator := bits v 4 2, kind := bits v 1 0 }

/-- Write entries into a bank from a destination upward. -/
def fillChart : Table ChartEntry → Nat → List (List Byte) → Table ChartEntry
  | t, _, [] => t
  | t, dst, e :: r => fillChart (tblSet t dst (parseEntry e)) (dst + 1) r

/-- The entries of a block. -/
def chartEntries (l : List Byte) : List (List Byte) := (List.range (l.length / 16)).map fun i => slice l (16 * i) 16

/-- Write a block into a bank. -/
def Charts.fill (c : Charts) (bank : Bool) (dst : Nat) (l : List Byte) : Charts :=
  if bank then { c with bankB := fillChart c.bankB dst (chartEntries l) }
  else { c with bankA := fillChart c.bankA dst (chartEntries l) }

/-- CHART_BLOCK (R57, R307, R309): accepted only into an IDLE bank. -/
def execChartBlock (fn m : Nat) (cores : Cores) (s : State) : Host.Outcome State Fault Refusal :=
  .next (s.serveCommit (cores := cores) fn m 3 (fun _ => true) fun s _ b =>
    let oid := b.objectId.toNat
    if [0, 1, 2, 3].any fun q => !s.bankIdle q (bit oid 0) then failWith s Status.objectInUse
    else okWith (s.modCharts fun c => c.fill (bit oid 0) (bits oid 31 16) b.data) [])

/-! ## Timed swaps (R92) -/

/-- The reason codes of R92 in their order; `none` admits the swap. `now` is MER_NOW at the command's doorbell. -/
def State.swapCheck (s : State) (now t : Nat) (quadrants : List Nat) (pending retained : Bool) : Option Nat :=
  if t < now + mtUs 500 then some 1
  else if now + mtUs 60000000 < t then some 2
  else if s.mer.lock = .unlocked then some 3
  else if !s.apptRoom quadrants then some 4
  else if pending then some 5
  else if retained then some 6
  else none

/-- The bank is still RETAINED at a stated time (R92, R309). -/
def State.retainedAt (s : State) (bank : Bool) (t : Nat) : Bool :=
  [0, 1, 2, 3].any fun q =>
    (s.chart q).retained && bank != s.activeBank q && decide (t ≤ (s.chart q).retainEnd.toNat)

/-- A chart swap is pending: some quadrant has not done its part. -/
def State.chartPending (s : State) : Bool := [0, 1, 2, 3].any fun q => (s.chart q).swapPending

/-- CHART_SWAP (R88, R92, R316). -/
def execChartSwap (fn m : Nat) (cores : Cores) (s : State) : Host.Outcome State Fault Refusal :=
  .next (s.serve fn m { opcode := 0x0603, cores, rights := .pf, words := some 2, needsKey := false } fun s _ x =>
    let bank := bit (x.arg 0) 0
    let t := x.arg 1
    match s.swapCheck x.doorbellMt t [0, 1, 2, 3] s.chartPending (s.retainedAt bank t) with
    | some d => failWith s Status.deadlineInfeasible d
    | none =>
      let s := s.addAppt { kind := .chartSwap bank, time := t }
      okWith (s.modCharts fun c => { c with swapPending := true, pendingBank := bank }) [])

/-- Admit a swap of a port's pending gate list at a time (R88, R92, R456). -/
def State.askGateSwap (s : State) (now port t : Nat) : Answer :=
  if !s.isEth port || (s.port port).eth.pending.isNone then failWith s Status.badObject
  else match s.swapCheck now t [port / 8] (s.port port).eth.swapPending false with
    | some d => failWith s Status.deadlineInfeasible d
    | none => okWith ((s.addAppt { kind := .gateSwap port, time := t, quadrants := [port / 8] }).modPort port fun y =>
        { y with eth := { y.eth with swapPending := true } }) []

/-- GATE_LIST_SWAP (R88, R92, R456). -/
def execGateListSwap (fn m : Nat) (cores : Cores) (s : State) : Host.Outcome State Fault Refusal :=
  .next (s.serve fn m { opcode := 0x0604, cores, rights := .pf, words := some 2, needsKey := false } fun s _ x =>
    s.askGateSwap x.doorbellMt (bits (x.arg 0) 4 0) (x.arg 1))

/-! ## Gate lists (R453, R454) -/

/-- The list of a gate list object. -/
def parseGates (l : List Byte) : GateList :=
  { cycle := field l 4 4
    entries := (List.range (field l 0 2)).map fun i => (field l (16 + 8 * i + 4) 4, BitVec.ofNat 8 (field l (16 + 8 * i) 1)) }

/-- The bad fields of the object, by offset, once its length is right. -/
def gateFaults (l : List Byte) : List (Nat × Bool) :=
  let g := parseGates l
  [(0, field l 0 2 == 0 || 256 < field l 0 2), (2, field l 2 2 != 0),
   (4, g.cycle < 1000 || 1000000000 < g.cycle || (g.entries.map fun e => e.1).sum != g.cycle), (8, field l 8 8 != 0)]
  ++ (List.range (field l 0 2)).map fun i => (16 + 8 * i, field l (16 + 8 * i) 4 / 256 != 0)

/-- The longest run of open entries, an entry that is closed standing first. -/
def longestRun (tc : Nat) : List (Nat × BitVec 8) → Nat → Nat
  | [], n => n
  | e :: r, n => if e.2.getLsbD tc then max (n + e.1) (longestRun tc r (n + e.1)) else max n (longestRun tc r 0)

/-- The longest window of a class, taken cyclically; `none` where its gate never closes. -/
def GateList.window (g : GateList) (tc : Nat) : Option Nat :=
  let open_ := g.entries.takeWhile fun e => e.2.getLsbD tc
  if open_.length = g.entries.length then none
  else some (longestRun tc (g.entries.drop open_.length ++ open_) 0)

/-- The longest window has room for a frame of the port's greatest length (R454); `empty` says what a class without a
window answers. -/
def GateList.fits (g : GateList) (x : Port) (tc : Nat) (empty : Bool) : Bool :=
  match g.window tc with
  | none => true
  | some w => if w = 0 then empty else decide ((x.eth.maxFrame + x.overhead) * 8 ≤ w * x.eth.rate)

/-- The checks of R454 on a list: the first reason. -/
def GateList.check (g : GateList) (x : Port) : Option Nat :=
  if g.entries.any fun e => e.1 < 100 then some 0x30
  else if (List.range 8).any fun tc => !g.fits x tc true then some 0x31
  else if !g.fits x 7 false then some 0x32
  else none

/-- Store a gate list object, or refuse it (R453, R454). -/
def State.storeGates (s : State) (port : Nat) (l : List Byte) : Answer :=
  if !s.isEth port then failWith s Status.badObject
  else if (s.port port).eth.swapPending then failWith s Status.objectInUse
  else if l.length < 16 ∨ l.length ≠ 16 + 8 * field l 0 2 then
    let (v, s) := s.draw
    failWith s Status.scheduleInvalid v
  else match (gateFaults l).find? fun f => f.2 with
    | some f => failWith s Status.scheduleInvalid f.1
    | none => match (parseGates l).check (s.port port) with
      | some d => failWith s Status.deadlineInfeasible d
      | none => okWith (s.modPort port fun y => { y with eth := { y.eth with pending := some (parseGates l) } }) []

/-- GATE_LIST_STORE (R57, R453, R454). -/
def execGateListStore (fn m : Nat) (cores : Cores) (s : State) : Host.Outcome State Fault Refusal :=
  .next (s.serveCommit (cores := cores) fn m 7 (fun _ => true) fun s _ b => s.storeGates (b.objectId.toNat % 32) b.data)

/-! ## The time source (R80, R82, R569) -/

/-- The source and its port are already in force (R569). -/
def Meridian.inForce (m : Meridian) (source port : Nat) : Bool :=
  m.sourceSet && m.source == source && (source < 2 || m.port == port)

/-- Take up a source: nothing is known of it yet, and a device that has time holds over from its old source; source 0
qualifies at once, with no offset (R79, R80, R81). -/
def Meridian.select (m : Meridian) (source port : Nat) : Meridian :=
  let m := { m with
    source, port, sourceSet := true, qualifies := false, holdover := m.lock != .unlocked, residuals := [], lowSince := none
    lastPulse := none, pulseOk := false, lastSync := none, ptp := {} }
  if source = 0 then { m with qualifies := true, holdover := false, e := some 0, offset := 0 } else m

/-- Select source 0 in UNLOCKED: its one step, and LOCKED at once with no offset (R80, R82). -/
def State.freeRun (s : State) : State :=
  let s := s.modMer fun m => m.select 0 m.port
  let s := if s.mer.presetWritten then s.stepTime s.mer.preset else s
  let s := s.modMer fun m => { m with qualifies := true, holdover := false, e := some 0, lowSince := some s.clk, highSince := none }
  (s.enterLock .locked).modMer fun m => { m with window := w32 s.mpl }

/-- The source or its port cannot serve (R569). -/
def State.sourceBad (s : State) (source port : Nat) : Bool :=
  (source == 2 && !s.isEth port) || (source == 3 && (s.port port).mode != 1)

/-- TIME_SOURCE_SET (R74, R80, R82, R569). -/
def execTimeSourceSet (fn m : Nat) (cores : Cores) (s : State) : Host.Outcome State Fault Refusal :=
  .next (s.serve fn m { opcode := 0x0605, cores, rights := .pf, needsKey := false } fun s _ x =>
    let source := bits (x.arg 0) 2 0
    let port := bits (x.arg 0) 12 8
    if 3 < source then failWith s Status.reservedEncoding
    else if s.sourceBad source port then failWith s Status.badObject
    else if s.mer.inForce source port then okWith s []
    else if source = 0 ∧ s.mer.lock = .unlocked then okWith s.freeRun []
    else okWith (s.modMer fun m => m.select source (if source < 2 then m.port else port)) [])

end Sys2Proof.Machine
end

