-- ==== Sys2Proof/Machine/Images.lean ====
section
/-!
DEFINITION. Machine/Images.lean: firmware images and slots, diagnosis, dumps and the sealed state (R53, R68, R478 to
R484, R502, R554, R555).
-/

namespace Sys2Proof.Machine

/-! ## Firmware images (R479, R482) -/

/-- The header of R479 is well formed for an object. -/
def imageFormed (l : List Byte) : Bool :=
  field l 0 4 == 0x57465847 && decide (l.length ≤ 12582912) && l.length == 2048 + field l 12 4 && field l 11 1 == 0
    && decide (field l 16 4 < 2) && decide (field l 20 4 ≤ 1280) && (slice l 88 680).all fun b => b == 0

/-- The body has the digest of the header. -/
def imageDigestOk (l : List Byte) : Bool := slice l 24 64 == shake256 (l.drop 2048) 64

/-- The checks of boot step 3 on an image, with the detail of R482; the signature's verdict is given. -/
def imageFault (floor : Nat) (l : List Byte) (signatureOk : Bool) : Option Nat :=
  if !imageFormed l then some 3
  else if !signatureOk || !imageDigestOk l then some 1
  else if field l 4 4 < floor then some 2
  else none

/-- The slot as an image fills it. -/
def slotOf (l : List Byte) : FwSlot :=
  { svn := field l 4 4, version := field l 8 4, digest := slice l 24 64, image := l }

/-- Counter 0, the floor of the firmware's security version. -/
def Firmware.floor (f : Firmware) : Nat := (f.counters.headD 0).toNat

/-- Write a slot. -/
def Firmware.setSlot (f : Firmware) (i : Nat) (x : FwSlot) : Firmware :=
  if i = 0 then { f with slot0 := x } else { f with slot1 := x }

/-- FIRMWARE_IMAGE_WRITE (R57, R481, R482, R554): the active slot is refused, as at BULK_OPEN. -/
def execFirmwareImageWrite (fn m : Nat) (signatureOk : Bool) (s : State) : Host.Outcome State Fault Refusal :=
  .next (s.serveCommit fn m 2 (fun _ => true) fun s _ b =>
    let i := b.objectId.toNat
    if !s.power.flashWpN then failWith s Status.notPermitted 1
    else if i = s.fw.selector then failWith s Status.objectInUse
    else match imageFault s.fw.floor b.data signatureOk with
      | some d => failWith s Status.signatureInvalid d
      | none => okWith (s.modFw fun f => f.setSlot i (slotOf b.data)) [])

/-- FW_ACTIVATE (R68, R482, R554): the slot boots at the next device reset; an empty slot is BAD_OBJECT, and an image
that would fail boot step 3 is SIGNATURE_INVALID. -/
def execFwActivate (fn m : Nat) (signatureOk : Bool) (s : State) : Host.Outcome State Fault Refusal :=
  .next (s.serve fn m { opcode := 0x0801, rights := .pf0, diag := true, needsKey := false } fun s _ x =>
    let i := x.arg 0 % 2
    let y := s.fw.slot i
    if !s.power.flashWpN then failWith s Status.notPermitted 1
    else if !y.present then failWith s Status.badObject
    else if !signatureOk then failWith s Status.signatureInvalid 1
    else if y.svn < s.fw.floor then failWith s Status.signatureInvalid 2
    else okWith (s.modFw fun f => { f with selector := i }) [])

/-- The firmware answers on the sideband: from boot step 7 onward (R555). -/
def State.sideband (s : State) : Bool := s.fw.alive && s.power.state == .on

/-- PLDM_FIRMWARE_UPDATE (R473, R482, R554, R555): the same image checks; a protected flash or the active slot fails the
update. -/
def execPldmFirmwareUpdate (slot : Nat) (image : List Byte) (signatureOk : Bool) (s : State) :
    Host.Outcome State Fault Refusal :=
  .next (if s.sideband && s.power.flashWpN && decide (slot < 2) && slot != s.fw.selector
        && (imageFault s.fw.floor image signatureOk).isNone then
      s.modFw fun f => f.setSlot slot (slotOf image)
    else s)

/-! ## Diagnosis and dumps (R53, R58, R480) -/

/-- DIAG_REPORT (R26, R53, R58, R480): in recovery it names the failed boot step. -/
def execDiagReport (fn m : Nat) (s : State) : Host.Outcome State Fault Refusal :=
  .next (s.serve fn m { opcode := 0x0802, rights := .pf, words := some 0, diag := true, needsKey := false } fun s _ _ =>
    okWith s [w64 s.fw.topology.toNat, w64 (if s.fw.mode = .recovery then s.fw.failedStep else s.fw.firstSelfTest)])

/-- The partitions that have a dump, bit by bit. -/
def State.dumpBits (s : State) : Nat := ((List.range 16).map fun p => b2n (s.part p).dump.isSome * 2 ^ p).sum

/-- DUMP_LIST (R58). -/
def execDumpList (fn m : Nat) (s : State) : Host.Outcome State Fault Refusal :=
  .next (s.serve fn m { opcode := 0x0803, rights := .any, words := some 0, diag := true, needsKey := false } fun s _ _ =>
    okWith s [w64 (s.dumpBits + b2n s.fw.deviceDump * 2 ^ 16)])

/-! ## The sealed state (R483, R484) -/

/-- Advance a monotonic counter (R478). -/
def Firmware.advance (f : Firmware) (i : Nat) : Firmware := { f with counters := f.counters.set i (f.counters.getD i 0 + 1) }

/-- Give the mailboxes that waited for the sealed state their responses (R484). -/
def State.releaseSealed (s : State) : State :=
  s.mailboxes.foldl (fun s r => match r.2.wait with
    | some (.sealedState st d ws) => s.answer r.1 st d ws
    | some (.queueDrain _ _) => s
    | some (.regionRevoke _) => s
    | some (.scheduleEnd _ _) => s
    | some (.answered _ _ _) => s
    | none => s) s

/-- The content of the sealed state as it is now (R483). -/
def State.sealedParts (s : State) : Table SealedPart :=
  s.parts.map fun e =>
    let x := e.2
    (e.1, {
      keyed := x.keyed, root := x.root, owner := x.owner, fabric := x.fabric, jobGens := x.jobGens, memGen := x.memGen
      journal := x.rekey.map fun r => (r.old, r.new, r.journal), dumpSeq := x.dumpSeq })

/-- Overwrite the older copy with the version that counter 2 takes next. -/
def Firmware.storeSealed (f : Firmware) (l : Table SealedPart) : Firmware :=
  let c : SealedCopy := { version := (f.counters.getD 2 0).toNat + 1, parts := l }
  if f.copy0.version ≤ f.copy1.version then { f with copy0 := c } else { f with copy1 := c }

/-- The write of the sealed state is over: counter 2 advances, and the commands that caused it complete. -/
def State.endSeal (s : State) : State :=
  (s.modFw fun f => { (f.storeSealed s.sealedParts).advance 2 with sealing := false }).releaseSealed

/-- SEALED_STATE_WRITTEN (R478, R483, R484). -/
def execSealedStateWritten (s : State) : Host.Outcome State Fault Refusal :=
  .next (if s.fw.sealing && s.fw.alive then s.endSeal else s)

/-- A device reset meets the write of the sealed state: the copy may have been written, and the counter has not advanced
(R483, assumption log 78). -/
def State.tearSeal (s : State) : State :=
  if s.fw.sealing then
    let (v, s) := s.draw
    s.modFw fun f => { (if v % 2 = 1 then f.storeSealed s.sealedParts else f) with sealing := false }
  else s

/-! ## Rekey of LPDDR5X (R49, R68, R484, R498 to R501) -/

/-- PARTITION_REKEY (R68, R138, R484, R499): the rekey is journalled before the response; no LPDDR5X leg of the partition goes
on migrating. -/
def execPartitionRekey (fn m : Nat) (cores : Cores) (s : State) : Host.Outcome State Fault Refusal :=
  .next (s.serve fn m { opcode := 0x0701, cores, since := 3, words := some 0 } fun s p _ =>
    let x := s.part p
    if x.rekey.isSome then failWith s Status.objectInUse
    else .stored (((s.abandonLpddr p).modPart p fun x => { x with rekey := some { old := x.memGen, new := x.memGen + 1 } }).count
        Count.measurementChange)
      [w64 ((x.memGen + 1) % 256)])

/-- REKEY_STATUS (R58, R499): a partition whose rekey is over reports the end of the walk only while it runs. -/
def execRekeyStatus (fn m : Nat) (s : State) : Host.Outcome State Fault Refusal :=
  .next (s.serve fn m { opcode := 0x0702, since := 3, words := some 0 } fun s p _ =>
    match (s.part p).rekey with
    | some r => okWith s [w64 (r.pointer % 2 ^ 40 + 2 ^ 63)]
    | none => okWith s [0])

/-- The end of the LPDDR5X physical space. -/
def rekeyEnd : Nat := 0x8000000000

/-- The command that starts the partition's rekey still waits for its journal. -/
def State.rekeyUnsealed (s : State) (p : Nat) : Bool :=
  s.mailboxes.any fun r => r.2.busy && r.2.wait.isSome && r.2.opcode == 0x0701 && s.boundTo (r.1 / 4) == p

/-- A frame of the partition lies in the step at a pointer (R499 step 2). -/
def State.rekeyHolds (s : State) (p pointer : Nat) : Bool :=
  s.placements.any fun r => r.2.live && r.2.partition == p && r.2.legs.any fun l =>
    l.lpddr && l.frames.any (inStep s.mem.inlineEcc pointer)

/-- The rekey is over: the old key is discarded and the journal cleared (R499 step 6). -/
def State.endRekey (s : State) (p : Nat) (r : Rekey) : State :=
  ((s.modPart p fun x => { x with memGen := r.new, rekey := none }).count Count.measurementChange).startSeal

/-- The pointer moves on by one step; each 8 GiB it is journalled (R499 steps 4 to 6). -/
def State.advanceRekey (s : State) (p : Nat) (r : Rekey) : State :=
  let t := r.pointer + rekeyStride
  if rekeyEnd ≤ t then s.endRekey p r
  else if t % 0x200000000 = 0 then
    (s.modPart p fun x => { x with rekey := some { r with pointer := t, journal := t, staged := false } }).startSeal
  else s.modPart p fun x => { x with rekey := some { r with pointer := t, staged := false } }

/-- REKEY_STEP (R32, R499, R501): a step without a frame of the partition only advances the pointer; another asks leave,
and once it is granted stalls its lines and stages them. -/
def execRekeyStep (p : Nat) (s : State) : Host.Outcome State Fault Refusal :=
  .next (match (s.part p).rekey with
    | none => s
    | some r =>
      if r.staged || s.rekeyUnsealed p then s
      else if !s.rekeyHolds p r.pointer then s.advanceRekey p r
      else if s.power.holders.any fun l => l.purpose == .rekey p then
        s.modPart p fun x => { x with rekey := some { r with staged := true } }
      else if s.power.secondQueue.any fun l => l.purpose == .rekey p then s
      else s.askLeave (.rekey p))

/-- REKEY_STEP_WRITTEN (R498, R499): the staged lines are in LPDDR5X, the leave is given back, and the accesses that the
step stalled go on. -/
def execRekeyStepWritten (p : Nat) (s : State) : Host.Outcome State Fault Refusal :=
  .next (match (s.part p).rekey with
    | none => s
    | some r => if r.staged then ((s.endLeave (.rekey p)).advanceRekey p r).stir else s)

/-! ## The keybox (R503 to R505) -/

/-- Change the keybox. -/
def State.modKbx (s : State) (g : Keybox → Keybox) : State := { s with kbx := g s.kbx }

/-- The masters of KBX_LOCK.owner: Tirmon cores 0 to 15 and the boot ROM. -/
def kbxMaster (m : Nat) : Bool := (1 ≤ m && m ≤ 16) || m == 0x1F

/-- Release the keybox: the key, input and output are zeroed, and a block in progress is abandoned (R503, R504). -/
def Keybox.release (x : Keybox) : Keybox :=
  { x with owner := 0, key := 0, input := 0, output := 0, started := false, busy := false, newKey := true }

/-- KBX_CLAIM (R503). -/
def execKbxClaim (master : Nat) (s : State) : Host.Outcome State Fault Refusal :=
  .next (if s.kbx.owner = 0 ∧ kbxMaster master = true then
      s.modKbx fun x => { x with owner := master, claimedClk := s.clk }
    else s)

/-- KBX_RELEASE (R503). -/
def execKbxRelease (master : Nat) (s : State) : Host.Outcome State Fault Refusal :=
  .next (if s.kbx.owner = master ∧ master ≠ 0 then s.modKbx Keybox.release else s)

/-- Engine clocks of a block: 480 control clocks of 400 ns, and 240 of key expansion for the first after a change (R505). -/
def blockClocks (newKey : Bool) : Nat := 640 + if newKey then 320 else 0

/-- KBX_START (R5, R503, R505): the owner's write of KBX_CTRL; a reserved key source starts nothing. -/
def execKbxStart (master : Nat) (value : W32) (s : State) : Host.Outcome State Fault Refusal :=
  let v := value.toNat
  .next (if s.kbx.owner = master ∧ master ≠ 0 ∧ bits v 7 4 < 2 then
      s.modKbx fun x =>
        let fresh := x.newKey || x.keySource != bits v 7 4
        let go := bit v 0 && !x.busy
        { x with
          keySource := bits v 7 4, decrypt := bit v 1, started := x.started || bit v 0, busy := x.busy || bit v 0
          newKey := fresh && !go, dueClk := if go then s.clk + blockClocks fresh else x.dueClk }
    else s)

/-- The 16 or 32 bytes of a register group, byte 0 lowest. -/
def regBytes (n v : Nat) : List Byte := leBytes n v

/-- The key in use. -/
def Keybox.keyBytes (x : Keybox) : List Byte := regBytes 32 (if x.keySource = 1 then sealingKey else x.key).toNat

/-- The result of the block. -/
def Keybox.result (x : Keybox) : List Byte :=
  if x.decrypt then aesDecrypt x.keyBytes (regBytes 16 x.input.toNat) else aesEncrypt x.keyBytes (regBytes 16 x.input.toNat)

/-- KBX_BLOCK_DONE (R505): done is set, start and busy clear. -/
def execKbxBlockDone (s : State) : Host.Outcome State Fault Refusal :=
  .next (if s.kbx.busy && decide (s.kbx.dueClk ≤ s.clk) then s.modKbx fun x => { x with
      output := BitVec.ofNat 128 (leNat x.result), started := false, busy := false, done := true }
    else s)

/-- KBX_EXPIRY (R504): 10 ms after a claim the hardware releases the keybox. -/
def execKbxExpiry (s : State) : Host.Outcome State Fault Refusal :=
  .next (if s.kbx.owner ≠ 0 ∧ s.kbx.claimedClk + us 10000 ≤ s.clk then
      s.modKbx fun x => { x.release with expired := true }
    else s)

end Sys2Proof.Machine
end

