-- ==== Sys2Proof/Machine/Keys.lean ====
section
/-!
DEFINITION. Machine/Keys.lean: key sessions (R457, R474, R484, R487 to R494): ACCEPT and the key-session commands. The
verdicts of signatures are operands (assumption log 6).
-/

namespace Sys2Proof.Machine

/-- Change the key session of a partition. -/
def State.modSession (s : State) (p : Nat) (g : KeySession → KeySession) : State :=
  s.modPart p fun x => { x with session := x.session.map g }

/-- The key session of a partition is over. -/
def State.endKeySession (s : State) (p : Nat) : State := s.modPart p fun x => { x with session := none }

/-- The customisation string of the session keys. -/
def sessionLabel : List Byte := ascii ['G', 'X', '5', ' ', 'S', 'E', 'S', 'S', 'I', 'O', 'N']

/-- The 64 B of session keys (R488). -/
def sessionKeys (secret offer accept : List Byte) : List Byte :=
  kmac256 secret (shake256 (offer ++ accept) 64) sessionLabel 64

/-- The digest of the owner key that ACCEPT brings. -/
def ownerDigest (accept : List Byte) : List Byte := shake256 (slice accept 1576 1793) 64

/-- The session after a good ACCEPT. -/
def KeySession.established? (x : KeySession) (clk : Nat) (accept secret : List Byte) : KeySession :=
  let k := sessionKeys secret x.offer accept
  { x with
    next := 3, established := true, owner := ownerDigest accept, lastClk := clk
    commandKey := k.take 32, responseKey := k.drop 32 }

/-- Process ACCEPT (R474, R488). -/
def State.acceptSession (s : State) (p : Nat) (x : KeySession) (l : List Byte) (signatureOk : Bool) : Answer :=
  if x.next ≠ 2 ∨ (l.length = 4660 ∧ (field l 0 4 ≠ 2 ∨ field l 4 4 ≠ x.id)) then failWith s Status.keySessionFailed 6
  else if l.length ≠ 4660 ∨ signatureOk = false then failWith (s.endKeySession p) Status.keySessionFailed 1
  else if (s.part p).keyed ∧ (s.part p).owner ≠ ownerDigest l then failWith (s.endKeySession p) Status.keySessionFailed 2
  else okWith (s.modSession p fun x => x.established? s.clk l (Config.kemShared x.kem (slice l 8 1568))) []

/-- ACCEPT (R57, R474, R487, R488). -/
def execAccept (fn m : Nat) (signatureOk : Bool) (s : State) : Host.Outcome State Fault Refusal :=
  .next (s.serveCommit fn m 8 (fun b => b.objectId.toNat == 2) fun s p b =>
    match (s.part p).session with
    | none => failWith s Status.keySessionFailed 6
    | some x => s.acceptSession p x b.data signatureOk)

/-! ## Key-session commands -/

/-- What a key-session command does: a status, a detail, the result bytes, and whether the sealed state changes. -/
structure Inner where
  state : State
  status : Nat := Status.ok
  detail : Nat := 0
  result : List Byte := []
  sealed : Bool := false

/-- The command fails inside KEY_RESP. -/
def innerFail (s : State) (status : Nat) (detail : Nat := 0) : Inner := { state := s, status, detail }

/-- The step of the session is taken, with the response ready to be read (R489). -/
def State.keyStep (s : State) (p : Nat) (i : Inner) (last : Bool) : State :=
  i.state.modSession p fun x => { x with
    next := x.next + 1, lastClk := s.clk, ending := last
    response := leBytes 2 i.status ++ leBytes 2 i.detail ++ i.result }

/-- A KEY_CMD opened under the command key: its plaintext, where its tag is good (R489). -/
def KeySession.openCmd (x : KeySession) (l : List Byte) : Option (List Byte) :=
  let head := l.take 16
  let nonce := leBytes 12 (field l 8 4)
  let n := l.length - 32
  let cipher := slice l 16 n
  if 32 ≤ l.length && l.drop (16 + n) == gcmTag x.commandKey nonce head cipher then some (gcmCipher x.commandKey nonce cipher)
  else none

/-- The envelope of a KEY_CMD is that of the session's next step (R489). -/
def KeySession.envelopeOk (x : KeySession) (b : Bulk) : Bool :=
  x.established && b.objectId.toNat == x.next && field b.data 0 4 == 3 && field b.data 4 4 == x.id
    && field b.data 8 4 == (x.next - 1) / 2

/-- The codes of R490. -/
def knownKeyCmd (code : Nat) : Bool := 1 ≤ code && code ≤ 6

/-- What a command of a code gives, once its envelope is good (R490). -/
def State.runKeyCmd (s : State) (p code : Nat) (x : KeySession) (plain : List Byte) (body : State → KeySession → Inner) :
    Inner :=
  if field plain 0 1 ≠ code then innerFail s Status.reservedEncoding
  else if !(s.part p).keyed && code != 1 && code != 6 then innerFail s Status.keyNotInstalled
  else body s x

/-- The plaintext of the KEY_CMD that a mailbox of a function has written, where it opens. -/
def State.keyPlain (s : State) (fn : Nat) (b : Bulk) : Option (List Byte) :=
  ((s.func fn).bound.bind fun p => (s.part p).session).bind fun x => x.openCmd b.data

/-- The KEY_CMD is of a row's code; one that does not open, or of an unknown code, is any row's. -/
def State.keyRow (s : State) (fn code : Nat) (b : Bulk) : Bool :=
  b.objectId.toNat % 2 == 1 && match s.keyPlain fn b with
    | some l => field l 0 1 == code || !knownKeyCmd (field l 0 1)
    | none => true

/-- Serve a KEY_CMD of a code (R487 to R490): a tag that fails and a wrong envelope fail BULK_CLOSE; else it completes
with OK and the status travels in KEY_RESP. A command of another row's code is that row's. -/
def State.serveKeyCmd (s : State) (fn m code : Nat) (args : Nat)
    (body : State → Nat → KeySession → List Byte → Inner) (cores : Cores := .agree) : State :=
  s.serveCommit (cores := cores) fn m 8 (s.keyRow fn code) fun s p b =>
    match (s.part p).session with
    | none => failWith s Status.keySessionFailed 6
    | some x =>
      match x.openCmd b.data with
      | none => failWith s Status.keySessionFailed 4
      | some plain =>
        if !x.envelopeOk b then failWith s Status.keySessionFailed 6
        else
          let i := s.runKeyCmd p code x plain fun s x =>
            if plain.length ≠ 4 + args then innerFail s Status.reservedEncoding else body s p x plain
          let t := s.keyStep p i (code == 6 && i.status == Status.ok)
          if i.sealed then .stored t [] else okWith t []

/-- A key generation that becomes active now (R493, R494). -/
def State.newKey (s : State) (gen : Nat) : KeyGens :=
  { current := gen, activeEpochs := (List.range 4).map fun q => (s.quad q).txEpoch.toNat, endpoint := s.cfg.endpoint }

/-- A collective key of a job at a generation: one that was active before keeps its epochs and its endpoint (R483, R493,
R494). -/
def State.newJobKey (s : State) (p j gen : Nat) : KeyGens :=
  match (s.part p).jobGens.find? fun g => g.job == j && g.gen == gen with
  | some g => { current := gen, activeEpochs := g.activeEpochs, endpoint := g.endpoint }
  | none => s.newKey gen

/-- INSTALL_ROOT (R472, R474, R490). -/
def State.installRoot (s : State) (p : Nat) (owner root : List Byte) : Inner :=
  if (s.part p).keyed then innerFail s Status.objectInUse
  else
    { state := (s.modPart p fun x => { x with keyed := true, root, owner, fabric := s.newKey 1, jobGens := [], memGen := 1 }).count
        Count.measurementChange
      result := workKey root p 6 0 0 32, sealed := true }

/-- INSTALL_ROOT (R484, R488 to R490). -/
def execInstallRoot (fn m : Nat) (cores : Cores) (s : State) : Host.Outcome State Fault Refusal :=
  .next (s.serveKeyCmd (cores := cores) fn m 1 32 fun s p x plain => s.installRoot p x.owner (slice plain 4 32))

/-- JOB_KEY (R386, R490): an earlier key of the job goes, with its pending rotation. -/
def State.installJobKey (s : State) (p j gen : Nat) : Inner :=
  if (s.job? p j).isNone then innerFail s Status.badObject
  else
    let k := s.newJobKey p j gen
    { state := ((s.dropAppt (.keyRotation p (some j))).modJob p j fun x => { x with key := some k }).modPart p (Partition.noteJob j k)
      sealed := true }

/-- JOB_KEY (R484, R488 to R490). -/
def execJobKey (fn m : Nat) (cores : Cores) (s : State) : Host.Outcome State Fault Refusal :=
  .next (s.serveKeyCmd (cores := cores) fn m 2 7 fun s p _ plain => s.installJobKey p (field plain 4 3) (field plain 7 4))

/-- The key that ROTATE names. -/
def State.rotateKey (s : State) (p : Nat) (job : Option Nat) : Option KeyGens :=
  match job with
  | none => some (s.part p).fabric
  | some j => (s.job? p j).bind fun x => x.key

/-- ROTATE (R88, R92, R492); `now` is MER_NOW at the doorbell. -/
def State.rotateCmd (s : State) (now p : Nat) (job : Option Nat) (gen t : Nat) : Inner :=
  match s.rotateKey p job with
  | none => innerFail s Status.badObject
  | some k =>
    if gen ≠ k.current + 1 then innerFail s Status.badObject
    else match s.swapCheck now t [0, 1, 2, 3] k.pending.isSome false with
      | some d => innerFail s Status.deadlineInfeasible d
      | none =>
        { state := (s.modKey p job fun k => { k with pending := some (gen, t) }).addAppt { kind := .keyRotation p job, time := t }
          sealed := true }

/-- ROTATE (R484, R488 to R490, R492). -/
def execRotate (fn m : Nat) (cores : Cores) (s : State) : Host.Outcome State Fault Refusal :=
  .next (s.serveKeyCmd (cores := cores) fn m 3 16 fun s p _ plain =>
    let purpose := field plain 4 1
    if purpose ≠ 1 ∧ purpose ≠ 3 then innerFail s Status.reservedEncoding
    else s.rotateCmd (s.mbx (mbxKey fn m)).doorbellMt p (if purpose = 1 then none else some (field plain 5 3))
      (field plain 8 4) (field plain 12 8))

/-- The associations without that of an address. -/
def Partition.withoutSa (x : Partition) (ip : List Byte) (family : Nat) : List SecAssoc :=
  x.sas.filter fun a => !(a.ip == ip && a.family == family)

/-- SA_INSTALL (R457, R484, R488 to R490): the family is coded as in QP_CREATE (DEDUCED, assumption log 45). -/
def execSaInstall (fn m : Nat) (cores : Cores) (s : State) : Host.Outcome State Fault Refusal :=
  .next (s.serveKeyCmd (cores := cores) fn m 4 25 fun s p _ plain =>
    let ip := slice plain 4 16
    let family := field plain 20 1
    if 1 < family then innerFail s Status.reservedEncoding
    else { state := s.modPart p fun x => { x with
      sas := x.withoutSa ip family ++ [{
        ip, family, outSpi := w32 (field plain 21 4), inSpi := w32 (field plain 25 4)
        outKey := workKey x.root p 7 (field plain 21 4) 0 36, inKey := workKey x.root p 7 (field plain 25 4) 1 36 }] } })

/-- A protected queue pair or controller of the partition uses the association (R490). -/
def State.saUsed (s : State) (p : Nat) (ip : List Byte) (family : Nat) : Bool :=
  s.qps.any (fun r => r.2.partition == p && r.2.protect && r.2.ip == ip && b2n r.2.v6 == family)
    || s.controllers.any fun r => r.2.partition == p && r.2.protect && r.2.ip == ip && b2n r.2.v6 == family

/-- SA_REMOVE (R457, R488 to R490). -/
def execSaRemove (fn m : Nat) (cores : Cores) (s : State) : Host.Outcome State Fault Refusal :=
  .next (s.serveKeyCmd (cores := cores) fn m 5 17 fun s p _ plain =>
    let ip := slice plain 4 16
    let family := field plain 20 1
    if ((s.part p).sa? ip family).isNone then innerFail s Status.badObject
    else if s.saUsed p ip family then innerFail s Status.objectInUse
    else { state := s.modPart p fun x => { x with sas := x.withoutSa ip family } })

/-- END (R487, R490): the session ends after its response is read. -/
def execKeyEnd (fn m : Nat) (s : State) : Host.Outcome State Fault Refusal :=
  .next (s.serveKeyCmd fn m 6 0 fun s _ _ _ => { state := s })

/-- KEY_SESSION_IDLE (R487): 10 s without a step end the session. -/
def execKeySessionIdle (p : Nat) (s : State) : Host.Outcome State Fault Refusal :=
  .next (match (s.part p).session with
    | some x => if x.lastClk + us 10000000 ≤ s.clk then s.endKeySession p else s
    | none => s)

end Sys2Proof.Machine
end

