-- ==== Sys2Proof/Machine/Objects.lean ====
section
/-!
DEFINITION. Machine/Objects.lean: the Izlis commands of partition administration, contexts and segments, queues and
rings, regions and placements (R58 to R65, R116 to R131, R142 to R146, R173 to R177, R200, R570).
-/

namespace Sys2Proof.Machine

/-! ## Partition administration -/

/-- A function still owns an object in its partition: a context, queue, ring, region or queue pair (R59). -/
def State.ownsObjects (s : State) (f : Nat) : Bool :=
  !(s.contextsWhere fun c => c.requester == f).isEmpty
    || s.queues.any (fun r => r.2.fn == f) || s.rings.any (fun r => r.2.fn == f)
    || s.regions.any (fun r => r.2.valid && (s.ctx r.2.context).requester == f)
    || s.qps.any fun r => r.2.fn == f

/-- The function's binding may not change: it owns objects, its TDISP state freezes it, or its memory window stands
(R59, R421, R425). -/
def State.bindingHeld (s : State) (f : Nat) : Bool :=
  s.ownsObjects f || (s.func f).tdisp == 1 || (s.func f).tdisp == 2 || (isPf f && (s.backing? (fnPort f)).isSome)

/-- PARTITION_ASSIGN (R59, R421, R425). -/
def execPartitionAssign (fn m : Nat) (cores : Cores) (s : State) : Host.Outcome State Fault Refusal :=
  .next (s.serve fn m { opcode := 0x0201, cores, rights := .pf, needsKey := false } fun s _ x =>
    let f := fnPort fn * 256 + x.arg 0 % 256
    if !(s.func f).present then failWith s Status.badObject
    else if s.bindingHeld f then failWith s Status.objectInUse
    else okWith ((s.modFunc f fun y => { y with
        bound := if bit (x.arg 0) 12 then none else some (bits (x.arg 0) 11 8) }).count Count.measurementChange) [])

/-- QUOTA_SET (R45). -/
def execQuotaSet (fn m : Nat) (cores : Cores) (s : State) : Host.Outcome State Fault Refusal :=
  .next (s.serve fn m { opcode := 0x0202, cores, rights := .pf, needsKey := false } fun s _ x =>
    let p := x.arg 0 % 16
    let kind := bits (x.arg 0) 15 8
    if 9 ≤ kind then failWith s Status.reservedEncoding
    else okWith (s.modPart p fun y => { y with quotas := tblSet y.quotas kind (x.arg 0 / 2 ^ 32) })
      [w64 (s.inUse p kind * 2 ^ 32)])

/-- SHARE_SET (R278, R285): the weight waits for each port's next round; class 7 has no weight. -/
def execShareSet (fn m : Nat) (cores : Cores) (s : State) : Host.Outcome State Fault Refusal :=
  .next (s.serve fn m { opcode := 0x0203, cores, rights := .pf, needsKey := false } fun s _ x =>
    let tc := bits (x.arg 0) 10 8
    if tc = 7 then failWith s Status.reservedEncoding
    else okWith (s.modPart (x.arg 0 % 16) fun y => { y with weights := tblSet y.weights tc (bits (x.arg 0) 31 16) }) [])

/-- PARTITION_ERASE (R60, R484, R501): the sealed state without the partition is written too. -/
def execPartitionErase (fn m : Nat) (cores : Cores) (s : State) : Host.Outcome State Fault Refusal :=
  .next (s.serve fn m { opcode := 0x0204, cores, rights := .pf, needsKey := false } fun s _ x =>
    okWith (s.erasePartition (x.arg 0 % 16)).startSeal [])

/-! ## Contexts (R61, R62, R142 to R146, R263) -/

/-- The requester function of a new context: the lowest-numbered function of the partition bound on the port (R143). -/
def State.requesterOn (s : State) (p port : Nat) : Option Nat :=
  (s.funcs.find? fun r => fnPort r.1 == port && r.2.present && r.2.bound == some p).map fun r => r.1

/-- The context slot is neither live nor quarantined (R61). -/
def State.ctxFree (s : State) (c : Nat) : Bool := (s.ctx c).state == .free

/-- The index a create command gets: the named one where it is free, or the device's pick. -/
inductive Chosen where
  | index (i : Nat)
  | refused (status : Nat)
  deriving DecidableEq, Repr

/-- Steps 3 to 5 of R570 for a table of `n` rows from `lo`. -/
def choose (any : Bool) (named : Nat) (ok : Nat → Bool) (quotaOk : Bool) (lo n pick : Nat) : Chosen :=
  if !any && !ok named then .refused Status.objectInUse
  else if !quotaOk then .refused Status.quotaExceeded
  else if !any then .index named
  else match pickFree ok lo n pick with
    | some i => .index i
    | none => .refused Status.noResource

/-- A new context in a slot; its generation is the slot's (R142, R143). -/
def newContext (old : Context) (p port requester : Nat) (pasid : Option Nat) : Context :=
  { state := .live, gen := old.gen, partition := p, port, requester, pasid }

/-- CONTEXT_CREATE (R61, R142, R143, R570). -/
def execContextCreate (fn m pick : Nat) (cores : Cores) (s : State) : Host.Outcome State Fault Refusal :=
  .next (s.serve fn m { opcode := 0x0301, cores } fun s p x =>
    let w := x.arg 0
    let port := b2n (bit w 13)
    match s.requesterOn p port with
    | none => failWith s Status.badObject
    | some r =>
      match choose (bit w 12) (bits w 11 0) s.ctxFree (s.underQuota p 0 (s.inUse p 0) 1) 0 4096 pick with
      | .refused st => failWith s st
      | .index c =>
        okWith (s.modCtx c fun y => newContext y p port r (if bit w 52 then some (bits w 51 32) else none))
          [w64 (c + (s.ctx c).gen.toNat * 2 ^ 12)])

/-- The allocated context a command names in its partition. -/
def State.ctxOf (s : State) (p c : Nat) : Option Context :=
  let x := s.ctx c
  if (x.state == .live || x.state == .aborted) && x.partition == p then some x else none

/-- CONTEXT_DESTROY (R62, R165, R263). -/
def execContextDestroy (fn m : Nat) (cores : Cores) (s : State) : Host.Outcome State Fault Refusal :=
  .next (s.serve fn m { opcode := 0x0302, cores } fun s p x =>
    let c := bits (x.arg 0) 11 0
    let g := bits (x.arg 0) 19 12
    match s.ctxOf p c with
    | none => failWith s Status.badObject
    | some y =>
      if y.gen.toNat ≠ g ∧ ¬(y.state = .aborted ∧ y.abortedGen.toNat = g) then failWith s Status.badObject
      else if s.queues.any fun r => r.2.context == c then failWith s Status.objectInUse
      else
        let s := (s.destroyContext c).stir
        okWith s [w64 ((s.ctx c).gen.toNat * 2 ^ 12)])

/-- CONTEXT_QUARANTINE_END (R87, R263): the slot is free again one MPL after the destroy. -/
def execContextQuarantineEnd (context : Nat) (s : State) : Host.Outcome State Fault Refusal :=
  .next (let c := s.ctx context
    if c.state == .quarantined && decide (c.quarantineEnd ≤ s.mt) then s.modCtx context fun c => { c with state := .free }
    else s)

/-- The check of R146 on an entry, with its detail: `none` accepts it. -/
def segmentCheck (kind base length : Nat) : Option (Nat × Nat) :=
  if kind = 3 then some (Status.reservedEncoding, 3)
  else if kind = 0 then none
  else if kind = 2 ∧ 2 ^ 44 ≤ base then some (Status.outOfBounds, 1)
  else if length = 0 ∨ 2 ^ 60 < length ∨ (kind = 2 ∧ 2 ^ 44 < base + length) then some (Status.outOfBounds, 2)
  else none

/-- SEGMENT_SET (R145, R146, R148). -/
def execSegmentSet (fn m : Nat) (cores : Cores) (s : State) : Host.Outcome State Fault Refusal :=
  .next (s.serve fn m { opcode := 0x0303, cores, words := some 4 } fun s p x =>
    let c := bits (x.arg 0) 11 0
    if !(s.ctxLive c (BitVec.ofNat 8 (bits (x.arg 0) 19 12)) && (s.ctx c).partition == p) then failWith s Status.badObject
    else match segmentCheck (x.arg 3 % 4) (x.arg 1) (x.arg 2) with
      | some (st, d) => failWith s st d
      | none => okWith (s.modCtx c fun y => { y with
          segments := tblSet y.segments (bits (x.arg 0) 23 20) (parseSegment (w64 (x.arg 1)) (w64 (x.arg 2)) (w64 (x.arg 3))) }) [])

/-! ## Queues and rings (R63, R64, R173 to R177, R200) -/

/-- A slot number within a function (R177). -/
def slotNumber (fn i : Nat) : Nat := if isPf fn then i else i % 256

/-- The queue index is free, and with it its slot number in the function (R61, R177). -/
def State.queueFree (s : State) (fn q : Nat) : Bool :=
  (s.queue? q).isNone && !s.queues.any fun r => r.2.fn == fn && slotNumber fn r.1 == slotNumber fn q

/-- The ring index is free, and with it its slot number in the function (R61, R177). -/
def State.ringFree (s : State) (fn r : Nat) : Bool :=
  (s.ring? r).isNone && !s.rings.any fun y => y.2.fn == fn && slotNumber fn y.1 == slotNumber fn r

/-- The bytes of one slot as initialised (R176). -/
def blankSlot (size : Nat) : List Byte := List.replicate 4 0xFF ++ List.replicate (size - 4) 0

/-- Initialise every slot of a new queue or ring in host memory (R176). -/
def State.blankSlots (s : State) (fn : Nat) (base : W64) (n size : Nat) : State :=
  s.hostSend (fnPort fn) { fn, addr := base, bytes := (List.replicate n (blankSlot size)).flatten }

/-- The ring exists in the partition. -/
def State.ringOf (s : State) (p r : Nat) : Option Ring :=
  match s.ring? r with
  | some x => if x.partition = p then some x else none
  | none => none

/-- The queue exists in the partition. -/
def State.queueOf (s : State) (p q : Nat) : Option Queue :=
  match s.queue? q with
  | some x => if x.partition = p then some x else none
  | none => none

/-- The context is live in the partition. -/
def State.liveCtx (s : State) (p c : Nat) : Bool := (s.ctx c).state == .live && (s.ctx c).partition == p

/-- The argument checks of QUEUE_CREATE in their order (R570 step 2, R5, R174, R200). -/
def State.queueArgs (s : State) (p : Nat) (w0 w1 w2 : Nat) : Option (Nat × Nat) :=
  if bits w0 18 14 < 6 ∨ 16 < bits w0 18 14 then some (Status.reservedEncoding, 0)
  else if bits w0 20 19 = 0 ∨ bits w0 20 19 = 3 then some (Status.reservedEncoding, 0)
  else if (s.ringOf p (bits w0 44 32)).isNone then some (Status.badObject, 0)
  else if w1 % 4096 ≠ 0 then some (Status.misaligned, 1)
  else if !s.liveCtx p (bits w2 11 0) then some (Status.badObject, 2)
  else if bits w2 39 32 = 0 then some (Status.reservedEncoding, 2)
  else none

/-- The queue that QUEUE_CREATE makes. -/
def State.newQueue (s : State) (fn p home w0 w1 w2 : Nat) : Queue :=
  settle {
    fn, partition := p, base := w64 w1, log2 := bits w0 18 14, version := bits w0 20 19, home, pinHome := bit w0 23
    ring := bits w0 44 32, weight := bits w2 31 16, burst := bits w2 39 32
    context := bits w2 11 0, contextGen := (s.ctx (bits w2 11 0)).gen }

/-- QUEUE_CREATE (R19, R49, R61, R173, R174, R176, R177, R200, R570). -/
def execQueueCreate (fn m pick pickHome : Nat) (cores : Cores) (s : State) : Host.Outcome State Fault Refusal :=
  .next (s.serve fn m { opcode := 0x0304, cores, words := some 3 } fun s p x =>
    let w0 := x.arg 0
    if bits w0 20 19 = 2 ∧ x.version < 2 then failWith s Status.notInVersion
    else match s.queueArgs p w0 (x.arg 1) (x.arg 2) with
      | some (st, d) => failWith s st d
      | none =>
        match choose (bit w0 13) (bits w0 12 0) (s.queueFree fn) (s.underQuota p 1 (s.inUse p 1) 1) 0 8192 pick with
        | .refused st => failWith s st
        | .index q =>
          let home := if bit w0 23 then bits w0 22 21 else pickHome % 4
          let y := s.newQueue fn p home w0 (x.arg 1) (x.arg 2)
          okWith ((s.setQueue q y).blankSlots fn y.base (slotsOf y.log2) (slotSize y.version))
            [w64 (q + home * 2 ^ 13 + slotNumber fn q * 64 * 2 ^ 32)])

/-- QUEUE_SET (R200, R201): the new weight and burst wait for the next round. -/
def execQueueSet (fn m : Nat) (cores : Cores) (s : State) : Host.Outcome State Fault Refusal :=
  .next (s.serve fn m { opcode := 0x0305, cores } fun s p x =>
    let q := bits (x.arg 0) 12 0
    match s.queueOf p q with
    | none => failWith s Status.badObject
    | some y =>
      if bits (x.arg 0) 39 32 = 0 then failWith s Status.reservedEncoding
      else okWith (s.setQueue q { y with newSched := some (bits (x.arg 0) 31 16, bits (x.arg 0) 39 32) }) [])

/-- QUEUE_DESTROY (R63): fetch stops at once, and the response waits for the accepted descriptors, at most 1 ms. -/
def execQueueDestroy (fn m : Nat) (cores : Cores) (s : State) : Host.Outcome State Fault Refusal :=
  .next ((s.serve fn m { opcode := 0x0306, cores } fun s p x =>
    let q := bits (x.arg 0) 12 0
    match s.queueOf p q with
    | none => failWith s Status.badObject
    | some y =>
      if y.state = .draining then failWith s Status.badObject
      else .hold (s.setQueue q { y with state := .draining, refetchAt := none, kept := [] })
        (.queueDrain q (x.doorbellClk + us 1000))
    ).drainDone (bits ((s.mbx (mbxKey fn m)).arg 0) 12 0))

/-- What the command of a mailbox waits for, or what one that a reset took from the mailbox still does (R72). -/
def State.waitsOf (s : State) (k : Nat) : List Wait :=
  (s.mbx k).wait.toList ++ (s.fw.orphans.filter fun r => r.1 == k).map fun r => r.2

/-- A drain is past its limit: what has not completed is cut off (R63). -/
def State.endDrain (s : State) : Wait → State
  | .queueDrain q t => if t ≤ s.clk then s.endQueue q else s
  | .regionRevoke _ => s
  | .sealedState _ _ _ => s
  | .scheduleEnd _ _ => s
  | .answered _ _ _ => s

/-- QUEUE_DESTROY_TIMEOUT (R63, R72): 1 ms after the doorbell what has not completed is cut off, and the response counts
it. -/
def execQueueDestroyTimeout (fn m : Nat) (s : State) : Host.Outcome State Fault Refusal :=
  .next ((s.waitsOf (mbxKey fn m)).foldl State.endDrain s)

/-- The argument checks of RING_CREATE in their order (R570 step 2, R174, R417). -/
def ringArgs (fn w0 w1 w2 : Nat) : Option (Nat × Nat) :=
  if bits w0 18 14 < 6 ∨ 16 < bits w0 18 14 then some (Status.reservedEncoding, 0)
  else if w1 % 4096 ≠ 0 then some (Status.misaligned, 1)
  else if msixCount fn ≤ bits w2 10 0 then some (Status.outOfBounds, 2)
  else none

/-- RING_CREATE (R19, R61, R173, R174, R176, R177, R417, R570). -/
def execRingCreate (fn m pick pickHome : Nat) (cores : Cores) (s : State) : Host.Outcome State Fault Refusal :=
  .next (s.serve fn m { opcode := 0x0307, cores, words := some 3 } fun s p x =>
    let w0 := x.arg 0
    match ringArgs fn w0 (x.arg 1) (x.arg 2) with
    | some (st, d) => failWith s st d
    | none =>
      match choose (bit w0 13) (bits w0 12 0) (s.ringFree fn) (s.underQuota p 2 (s.inUse p 2) 1) 0 8192 pick with
      | .refused st => failWith s st
      | .index r =>
        let home := if bit w0 21 then bits w0 20 19 else pickHome % 4
        let y : Ring := { fn, partition := p, base := w64 (x.arg 1), log2 := bits w0 18 14, home, pinHome := bit w0 21
                          vector := bits (x.arg 2) 10 0, intEnable := bit (x.arg 2) 11, armed := bit (x.arg 2) 11 }
        okWith ((s.setRing r y).blankSlots fn y.base (slotsOf y.log2) 32) [w64 (r + home * 2 ^ 13)])

/-- RING_DESTROY (R64). -/
def execRingDestroy (fn m : Nat) (cores : Cores) (s : State) : Host.Outcome State Fault Refusal :=
  .next (s.serve fn m { opcode := 0x0308, cores } fun s p x =>
    let r := bits (x.arg 0) 12 0
    if (s.ringOf p r).isNone then failWith s Status.badObject
    else if s.queues.any fun q => q.2.ring == r then failWith s Status.objectInUse
    else okWith (s.dropRing r) [])

/-! ## Regions (R116 to R124) -/

/-- The region entry may be issued: never issued, or past its quarantine (R116, R124). -/
def State.regionFree (s : State) (i : Nat) : Bool := !(s.region i).valid && !(s.region i).quarantined

/-- The argument checks of REGION_REGISTER in their order (R118, R119, R570 step 2). -/
def State.regionArgs (s : State) (p w0 w1 w2 : Nat) : Option (Nat × Nat) :=
  let kind := w0 % 4
  if kind = 3 then some (Status.reservedEncoding, 0)
  else if bit w0 4 ∧ kind ≠ 1 then some (Status.unsupportedTarget, 0)
  else if !s.liveCtx p (bits w0 27 16) then some (Status.badObject, 0)
  else if kind = 1 ∧ (s.handle? p (w64 w1)).isNone then some (Status.badObject, 1)
  else if kind = 2 ∧ 2 ^ 43 ≤ w1 then some (Status.outOfBounds, 1)
  else if 2 ^ 44 ≤ w2 then some (Status.outOfBounds, 2)
  else if kind ≠ 1 ∧ w2 = 0 then some (Status.outOfBounds, 2)
  else if kind = 2 ∧ w1 / 2 ^ 40 ≠ (w1 + w2 - 1) / 2 ^ 40 then some (Status.outOfBounds, 2)
  else match s.handle? p (w64 w1) with
    | some (_, y) => if kind = 1 ∧ y.size < w2 then some (Status.outOfBounds, 2) else none
    | none => none

/-- A check value drawn from the random generator, drawn again until it differs from the entry's last (R124). -/
def drawCheck (r : Region) (check : Nat) : BitVec 8 :=
  let c := BitVec.ofNat 8 check
  if r.gen ≠ 0 ∧ c = r.check then c + 1 else c

/-- The entry that REGION_REGISTER writes (R117). The generation is the one that the entry's revocation left: the model
reads R124's increment as that one, and adds none at the reissue (DESIGN CHOICE, assumption log 20). -/
def State.newRegion (s : State) (p w0 w1 w2 check : Nat) (old : Region) : Region :=
  let kind := w0 % 4
  let c := bits w0 27 16
  let base : Region := {
    valid := true, kind, read := bit w0 2, write := bit w0 3, atomic := bit w0 4, partition := p
    check := drawCheck old check, gen := if old.gen = 0 then 1 else old.gen, context := c, contextGen := (s.ctx c).gen }
  match kind, s.handle? p (w64 w1) with
  | 1, some (i, y) => { base with handleIndex := i, base := y.offset, length := if w2 = 0 then y.size else w2 }
  | 0, _ => { base with hostAddress := w64 w1, length := w2 }
  | _, _ => { base with base := w1, length := w2 }

/-- REGION_REGISTER (R116 to R119, R124, R570). -/
def execRegionRegister (fn m pick check : Nat) (cores : Cores) (s : State) : Host.Outcome State Fault Refusal :=
  .next (s.serve fn m { opcode := 0x0401, cores, words := some 3 } fun s p x =>
    match s.regionArgs p (x.arg 0) (x.arg 1) (x.arg 2) with
    | some (st, d) => failWith s st d
    | none =>
      match choose true 0 s.regionFree (s.underQuota p 3 (s.inUse p 3) 1) 1 65535 pick with
      | .refused st => failWith s st
      | .index i =>
        let r := s.newRegion p (x.arg 0) (x.arg 1) (x.arg 2) check (s.region i)
        okWith (s.modRegion i fun _ => r) [w64 (regionKey i r).toNat])

/-- An entry as REGION_REVOKE leaves it (R122, R124). -/
def State.revoked (s : State) (r : Region) : Region :=
  { r with valid := false, gen := nextGen r.gen, quarantined := true, quarantineEnd := s.mt + s.mpl }

/-- REGION_REVOKE (R122, R123, R124): the response waits for packets checked under the old entry. -/
def execRegionRevoke (fn m : Nat) (cores : Cores) (s : State) : Host.Outcome State Fault Refusal :=
  .next (s.serve fn m { opcode := 0x0402, cores } fun s p x =>
    let k := w32 (x.arg 0)
    let i := keyIndex k
    let r := s.region i
    if !(r.valid && r.partition == p && regionKey i r == k) then failWith s Status.badObject
    else
      let s' := s.modRegion i s.revoked
      if s.copyUnder i then .hold s' (.regionRevoke i) else okWith s' [])

/-- REGION_QUARANTINE_END (R87, R124): one MPL after its revocation an entry may be issued again. -/
def execRegionQuarantineEnd (index : Nat) (s : State) : Host.Outcome State Fault Refusal :=
  .next (let r := s.region index
    if r.quarantined && decide (r.quarantineEnd ≤ s.mt) then s.modRegion index fun r => { r with quarantined := false }
    else s)

/-! ## Placements (R125 to R131, R138) -/

/-- The wishes of an argument word (R130). -/
def parseWish (w : Nat) : Wish :=
  { tier := w % 4, pinTier := bit w 2, quadrant := bits w 5 4, pinQuadrant := bit w 6, preferQuadrant := bit w 7 }

/-- The placement table has an entry free at the index (R125). -/
def State.placeFree (s : State) (i : Nat) : Bool := !(s.place i).live

/-- Place `size` bytes: the tier and quadrant, then an index and an offset; or the status of the refusal. -/
def State.allocate (s : State) (w : Wish) (p size pick pickOffset : Nat) : Except Nat (Nat × Nat × Bool × Nat) :=
  match s.choosePlace w p (size / 4096) with
  | .error st => .error st
  | .ok (lpddr, q) =>
    match pickFree s.placeFree 0 32768 pick, s.pickOffset p size pickOffset with
    | some i, some off => .ok (i, off, lpddr, q)
    | _, _ => .error Status.noResource

/-- PLACE_ALLOC (R49, R125, R126, R128 to R130, R570). -/
def execPlaceAlloc (fn m pick pickOffset : Nat) (cores : Cores) (s : State) : Host.Outcome State Fault Refusal :=
  .next (s.serve fn m { opcode := 0x0403, cores, words := some 2 } fun s p x =>
    let w := parseWish (x.arg 0)
    let size := x.arg 1
    if (w.pinTier || w.pinQuadrant) && x.version < 2 then failWith s Status.notInVersion
    else if w.tier = 3 then failWith s Status.reservedEncoding
    else if size = 0 ∨ size % 4096 ≠ 0 then failWith s Status.outOfBounds 1
    else match s.allocate w p size pick pickOffset with
      | .error st => failWith s st
      | .ok (i, off, lpddr, q) =>
        let s := s.newPlacement i p size off w lpddr q
        okWith s [placeHandle i (s.place i), w64 off])

/-- A live region names the placement, or it backs a window (R65, R425). -/
def State.placeNamed (s : State) (i : Nat) : Bool :=
  (s.place i).hdmPort.isSome || s.regions.any fun r => r.2.valid && r.2.kind == 1 && r.2.handleIndex == i

/-- PLACE_FREE (R65, R138, R425). -/
def execPlaceFree (fn m : Nat) (cores : Cores) (s : State) : Host.Outcome State Fault Refusal :=
  .next (s.serve fn m { opcode := 0x0404, cores } fun s p x =>
    match s.handle? p (w64 (x.arg 0)) with
    | none => failWith s Status.badObject
    | some (i, _) => if s.placeNamed i then failWith s Status.objectInUse else okWith (s.freePlacement i) [])

/-- The tier and the quadrant can take those legs of a placement that are not there yet, in pages. -/
def State.legsFit (s : State) (l : List Leg) (lpddr : Bool) (q : Nat) : Bool :=
  s.roomFor lpddr q 0 ((l.filter fun g => !(g.lpddr == lpddr && g.quadrant == q)).map fun g => g.pages).sum

/-- Some quadrant, or all of LPDDR5X, can take the legs. -/
def State.anyFit (s : State) (l : List Leg) (lpddr : Bool) : Bool :=
  (if lpddr then [4] else [0, 1, 2, 3]).any fun q => s.legsFit l lpddr q

/-- The refusal of a hint's pins: the tier's quota, then its room (R131); `none` lets them stand. -/
def State.hintCheck (s : State) (x : Placement) (w : Wish) : Option Nat :=
  let lpddr := w.tier == 2
  if w.pinTier && w.tier != 0 then
    if !s.tierQuota x.partition lpddr ((x.legs.filter fun g => g.charged != lpddr).map fun g => g.pages).sum then
      some Status.quotaExceeded
    else if (if w.pinQuadrant then s.legsFit x.legs lpddr w.quadrant else
        x.legs.all (fun g => g.lpddr == lpddr) || s.anyFit x.legs lpddr) then none
    else some Status.noResource
  else if w.pinQuadrant && !([true, false].all fun t => s.legsFit (x.legs.filter fun g => g.lpddr == t) t w.quadrant) then
    some Status.noResource
  else none

/-- PLACE_HINT (R65, R130, R131): the wishes are replaced, and a leg whose location breaks a new pin starts to migrate. -/
def execPlaceHint (fn m : Nat) (cores : Cores) (s : State) : Host.Outcome State Fault Refusal :=
  .next (s.serve fn m { opcode := 0x0405, cores, since := 2, words := some 2 } fun s p x =>
    let w := parseWish (x.arg 1)
    match s.handle? p (w64 (x.arg 0)) with
    | none => failWith s Status.badObject
    | some (i, y) =>
      if w.tier = 3 then failWith s Status.reservedEncoding 1
      else match s.hintCheck y w with
        | some st => failWith s st
        | none => okWith ((s.modPlace i fun y => { y with
            tier := w.tier, pinTier := w.pinTier, quadrant := w.quadrant, pinQuadrant := w.pinQuadrant
            preferQuadrant := w.preferQuadrant }).pursuePins i) [])

end Sys2Proof.Machine
end

