-- ==== Sys2Proof/Machine/Bindings.lean ====
section
/-!
DEFINITION. Machine/Bindings.lean: QP_CREATE, QP_DESTROY, NVME_ATTACH and NVME_DETACH (R457 to R459, R463 to R465, R468,
R570).
-/

namespace Sys2Proof.Machine

/-- A remote address of QP_CREATE or NVME_ATTACH: 16 bytes, an IPv4 address in the first four. -/
def remoteIp (v6 : Bool) (w3 w4 : Nat) : List Byte :=
  if v6 then leBytes 8 w3 ++ leBytes 8 w4 else padTo 16 (leBytes 4 w3)

/-- The port has an address of the family (R459). -/
def State.hasAddress (s : State) (port : Nat) (v6 : Bool) : Bool :=
  let x := (s.port port).eth
  s.isEth port && if v6 then x.ip6lo != 0 || x.ip6hi != 0 else x.ip4 != 0

/-- The partition has the security association a protected binding needs (R457). -/
def State.saReady (s : State) (p : Nat) (protect : Bool) (ip : List Byte) (v6 : Bool) : Bool :=
  !protect || ((s.part p).sa? ip (b2n v6)).isSome

/-- The queue holds an accepted descriptor or is bound already (R459). -/
def bindBusy (x : Queue) : Bool := !x.held.isEmpty || x.bound != .none

/-- The argument checks of QP_CREATE in their order. -/
def State.qpArgs (s : State) (p port w1 w3 w4 : Nat) : Option (Nat × Nat) :=
  if !s.isEth port then some (Status.badObject, 0)
  else if (s.queueOf p (bits w1 12 0)).isNone then some (Status.badObject, 1)
  else if bits w1 15 13 = 7 then some (Status.reservedEncoding, 1)
  else if bits w1 20 19 = 0 then some (Status.reservedEncoding, 1)
  else if !s.hasAddress port (bit w1 21) then some (Status.badObject, 1)
  else if !s.saReady p (bit w1 22) (remoteIp (bit w1 21) w3 w4) (bit w1 21) then some (Status.badObject, 1)
  else none

/-- The queue pair that QP_CREATE makes. -/
def State.newQp (s : State) (fn p port w1 w2 w3 w4 : Nat) : QueuePair :=
  { partition := p, fn, port, queue := bits w1 12 0, tc := bits w1 15 13, pcp := bits w1 18 16, mtu := bits w1 20 19
    v6 := bit w1 21, protect := bit w1 22, retries := bits w1 25 23, rnrRetries := bits w1 28 26, ackExp := bits w1 33 29
    dscp := bits w1 39 34, expectPsn := bits w1 63 40, remoteQp := bits w2 23 0, sendPsn := bits w2 47 24, vid := bits w2 59 48
    ip := remoteIp (bit w1 21) w3 w4, retriesLeft := bits w1 25 23, rnrLeft := bits w1 28 26, cc := s.newCongest (s.queueHome (bits w1 12 0)) 0 }

/-- The queue a command binds holds no accepted descriptor and is not bound. -/
def State.queueBindable (s : State) (q : Nat) : Bool :=
  match s.queue? q with
  | some x => !bindBusy x
  | none => false

/-- QP_CREATE (R457 to R459, R570). -/
def execQpCreate (fn m pick : Nat) (cores : Cores) (s : State) : Host.Outcome State Fault Refusal :=
  .next (s.serve fn m { opcode := 0x0901, cores, words := some 5 } fun s p x =>
    let w0 := x.arg 0
    let w1 := x.arg 1
    let port := bits w0 20 16
    let free := fun i => (tblGet s.qps i).isNone
    match s.qpArgs p port w1 (x.arg 3) (x.arg 4) with
    | some (st, d) => failWith s st d
    | none =>
      if !s.queueBindable (bits w1 12 0) then failWith s Status.objectInUse
      else match choose (bit w0 14) (bits w0 13 0) free (s.underQuota p 8 (s.inUse p 8) 1) 0 16384 pick with
        | .refused st => failWith s st
        | .index i =>
          let y := s.newQp fn p port w1 (x.arg 2) (x.arg 3) (x.arg 4)
          okWith (({ s with qps := tblSet s.qps i y } : State).modQueue y.queue fun q => { q with bound := .queuePair i }) [w64 i])

/-- The landed frames of an object that goes are dropped, with their space. -/
def State.dropFrames (s : State) (port : Nat) (pick : FrameKind → Bool) : State :=
  let l := (s.port port).eth.landed.filter fun f => pick f.1.kind
  if l.isEmpty then s
  else (s.modQuad (port / 8) fun d => d.setPool 0 (d.pool 0 - (l.map fun f => f.2).sum)).modPort port fun y =>
    { y with eth := { y.eth with landed := y.eth.landed.filter fun f => !pick f.1.kind } }

/-- QP_DESTROY (R458, R463): a live queue pair's descriptors are flushed and its queue enters ERROR. -/
def execQpDestroy (fn m : Nat) (cores : Cores) (s : State) : Host.Outcome State Fault Refusal :=
  .next (s.serve fn m { opcode := 0x0902, cores } fun s p x =>
    let i := bits (x.arg 0) 13 0
    match tblGet s.qps i with
    | none => failWith s Status.badObject
    | some y =>
      if y.partition ≠ p then failWith s Status.badObject
      else
        let s := if y.error then s else s.failQp i none Status.qpFlushed 0
        let s := s.dropFrames y.port fun k => k == .roce i false || k == .roce i true
        okWith (({ s with qps := tblErase s.qps i } : State).modQueue y.queue fun q => { q with bound := .none }) [])

/-- The argument checks of NVME_ATTACH in their order. -/
def State.nvmeArgs (s : State) (p port w1 w2 w3 w4 : Nat) : Option (Nat × Nat) :=
  if !s.isEth port then some (Status.badObject, 0)
  else if (s.queueOf p (bits w1 12 0)).isNone then some (Status.badObject, 1)
  else if bits w1 15 13 = 7 then some (Status.reservedEncoding, 1)
  else if !s.hasAddress port (bit w1 19) then some (Status.badObject, 1)
  else if !s.saReady p (bit w1 20) (remoteIp (bit w1 19) w3 w4) (bit w1 19) then some (Status.badObject, 1)
  else if bits w2 4 0 = 0 ∨ 16 < bits w2 4 0 then some (Status.reservedEncoding, 2)
  else if bits w2 15 8 < 2 ∨ 128 < bits w2 15 8 then some (Status.reservedEncoding, 2)
  else none

/-- The controller that NVME_ATTACH makes. -/
def State.newController (s : State) (p : Nat) (x : Mailbox) : Controller :=
  let w0 := x.arg 0
  let w1 := x.arg 1
  let w2 := x.arg 2
  { partition := p, port := bits w0 12 8, tcp := bit w0 0, queue := bits w1 12 0, tc := bits w1 15 13, pcp := bits w1 18 16
    v6 := bit w1 19, protect := bit w1 20, vid := bits w1 43 32, dscp := bits w1 49 44, ioQueues := bits w2 4 0
    depth := bits w2 15 8, sector := if bit w2 16 then 4096 else 512, service := bits w2 47 32, keyId := bits w2 63 48
    ip := remoteIp (bit w1 19) (x.arg 3) (x.arg 4), nqn := wordBytes (slice' x.data 5 4), lastKeepAlive := s.clk }
where
  /-- Words [off, off + n) of the data window. -/
  slice' (l : List W64) (off n : Nat) : List W64 := (l.drop off).take n

/-- The status of an attach whose target does not connect: one of those NVME_ATTACH may return, the manual does not say
which (assumption log 3). -/
def State.connectFailure (s : State) : Answer :=
  let (v, s) := s.draw
  failWith s ([Status.noResource, Status.badObject, Status.objectInUse].getD (v % 3) Status.noResource)

/-- Bytes in one command: 1 MiB, or the controller's MDTS if smaller, a power of two of 4 KiB pages with 0 for no limit
(R464; the coding and page are the NVMe Base Specification's, assumption log 11). -/
def maxData (mdts : Nat) : Nat := if mdts = 0 ∨ 8 ≤ mdts then 1048576 else 4096 * 2 ^ mdts

/-- The connect commands of the admin queue, number 0, and the I/O queues, with the KATO in ms, the host's UUID
and the subsystem's name (R464, R465). -/
def State.connectFrames (s : State) (i : Nat) (x : Controller) : State :=
  (List.range (x.ioQueues + 1)).foldl (fun s q => s.queueFrame (x.frame i 0x7F 1124 ([w64 q, w64 (if q = 0 then 32 else x.depth),
      w64 (if q = 0 then 10000 else 0)]
    ++ bytesWords 2 (Config.hostUuid identityDigest x.partition) ++ bytesWords 4 x.nqn))) s

/-- NVME_ATTACH (R49, R457, R464, R465, R570); `target` is the controller's MDTS where the queues connect. -/
def execNvmeAttach (fn m pick : Nat) (target : Option Nat) (cores : Cores) (s : State) : Host.Outcome State Fault Refusal :=
  .next (s.serve fn m { opcode := 0x0903, cores, since := 3, words := some 9 } fun s p x =>
    let q := bits (x.arg 1) 12 0
    match s.nvmeArgs p (bits (x.arg 0) 12 8) (x.arg 1) (x.arg 2) (x.arg 3) (x.arg 4) with
    | some (st, d) => failWith s st d
    | none =>
      if !s.queueBindable q then failWith s Status.objectInUse
      else match pickFree (fun i => (tblGet s.controllers i).isNone) 0 256 pick with
        | none => failWith s Status.noResource
        | some i =>
          let y := s.newController p x
          let s := s.connectFrames i y
          match target with
          | none => s.connectFailure
          | some mdts =>
            okWith (({ s with controllers := tblSet s.controllers i { y with maxData := maxData mdts } } : State).modQueue q
              fun z => { z with bound := .controller i }) [w64 i])

/-- NVME_DETACH (R465, R468). -/
def execNvmeDetach (fn m : Nat) (cores : Cores) (s : State) : Host.Outcome State Fault Refusal :=
  .next (s.serve fn m { opcode := 0x0904, cores, since := 3 } fun s p x =>
    let i := bits (x.arg 0) 15 0
    match tblGet s.controllers i with
    | none => failWith s Status.badObject
    | some y =>
      if y.partition ≠ p then failWith s Status.badObject
      else
        let s := if y.failed then s else s.failController i
        let s := s.dropFrames y.port fun k => k == .nvme i false || k == .nvme i true
        okWith (({ s with controllers := tblErase s.controllers i } : State).modQueue y.queue fun q => { q with bound := .none }) [])

end Sys2Proof.Machine
end

