-- ==== Sys2Proof/Machine/Heads.lean ====
section
/-!
DEFINITION. Machine/Heads.lean: transit packets: arrival at a fabric input, the choice of an output, and the two
thresholds of a head's wait (R28, R269, R310 to R315, R523).
-/

namespace Sys2Proof.Machine

/-- HEAD_ARRIVAL (R310, R312, R314): a header passes its CRC at a fabric input; a packet of this device waits there
for the ring where its landing quadrant is another one. -/
def execHeadArrival (port : Nat) (pkt : Packet) (s : State) : Host.Outcome State Fault Refusal :=
  .next (if s.fabricActive port then
      if s.ownDst (port / 8) pkt.route.epoch pkt.route.dst then
        if pkt.route.landQ = port / 8 then s
        else s.modPort port fun x => { x with
          input := x.input ++ [{ pkt, arrivedClk := s.clk, headSince := if x.input.isEmpty then some s.clk else none }] }
      else s.headArrives port pkt
    else s)

/-- 400 ns have passed since the head's header arrived. -/
def Head.isPressed (h : Head) (clk : Nat) : Bool := h.pressed || decide (h.arrivedClk + 640 ≤ clk)

/-- 170 ns of head-time have passed. -/
def Head.isRelaxed (h : Head) (clk : Nat) : Bool :=
  h.relaxed || match h.headSince with
    | some t => decide (t + 272 ≤ clk)
    | none => false

/-- The outputs a head may take (R311, R314). -/
def State.allowed (s : State) (q : Nat) (h : Head) : List Nat :=
  let e := s.chartEntry q h.pkt.route.epoch h.pkt.route.dst
  let prod := s.portsIn e.productive
  let near := s.portsIn e.near
  if s.ownDst q h.pkt.route.epoch h.pkt.route.dst then (if h.isRelaxed s.clk then s.activePorts else [])
  else if h.isPressed s.clk then s.activePorts
  else if prod.isEmpty then (if near.isEmpty then s.activePorts else near)
  else if h.isRelaxed s.clk then s.portsIn (e.productive ||| e.near)
  else prod

/-- The free output of lowest busy fraction, ties to the lower port number. -/
def lowestBusy : List (Nat × Nat) → Option (Nat × Nat)
  | [] => none
  | f :: r => match lowestBusy r with
    | some g => if g.2 < f.2 ∨ (g.2 = f.2 ∧ g.1 < f.1) then some g else some f
    | none => some f

/-- The output a head takes among the free ones: the primary, else the least busy. -/
def State.headOutput (s : State) (q : Nat) (h : Head) (free : List (Nat × Nat)) : Option (Nat × Nat) :=
  let e := s.chartEntry q h.pkt.route.epoch h.pkt.route.dst
  let l := free.filter fun f => (s.allowed q h).contains f.1
  match l.find? fun f => e.primaryValid && f.1 == e.primary with
  | some f => some f
  | none => lowestBusy l

/-- The next packet of an input becomes its head. -/
def State.popHead (s : State) (port : Nat) : State :=
  s.modPort port fun x => { x with input := match x.input with
    | _ :: h :: r => { h with headSince := some s.clk } :: r
    | _ :: [] => []
    | [] => [] }

/-- Send a head on an output: the deflection, the hop and the mark (R269, R311). -/
def State.sendHead (s : State) (port : Nat) (h : Head) (o busy : Nat) : State :=
  let e := s.chartEntry (port / 8) h.pkt.route.epoch h.pkt.route.dst
  let off := s.ownDst (port / 8) h.pkt.route.epoch h.pkt.route.dst || !(s.portsIn e.productive).contains o
  let mark := s.txs.markUtil < busy && h.pkt.payloadLen != 0 && h.pkt.route.cls != 1
  let hop : Hop := { hopCount := h.pkt.hop.hopCount + 1
                     deflections := if off then min 255 (h.pkt.hop.deflections + 1) else h.pkt.hop.deflections
                     congMark := h.pkt.hop.congMark || mark }
  let s := if off then s.modPort o fun x => { x with deflected := x.deflected + 1 } else s
  ((s.popHead port).cross (port / 8) (o / 8) h.pkt.route.cls h.pkt.size).emit (.wire o { h.pkt with hop })

/-- Send the replicas of a beacon that find a free output; the head leaves with the last (R523). -/
def State.sendReplicas (s : State) (port : Nat) (h : Head) (ports : List Nat) (free : List (Nat × Nat)) : State :=
  let live := ports.filter fun p => s.activePorts.contains p
  let now := live.filter fun p => free.any fun f => f.1 == p
  let left := live.filter fun p => !now.contains p
  let hop := { h.pkt.hop with hopCount := h.pkt.hop.hopCount + 1 }
  let s := now.foldl (fun s p => (s.cross (port / 8) (p / 8) h.pkt.route.cls h.pkt.size).emit (.wire p { h.pkt with hop })) s
  if left.isEmpty then s.popHead port
  else s.modPort port fun x => { x with input := match x.input with
    | _ :: r => { h with replica := some left } :: r
    | [] => [] }

/-- The outputs that are free for a packet of an input: those offered to which the ring has credit for the whole packet
in this clock; any other is busy (R23, R311). -/
def State.freeFor (s : State) (port : Nat) (pkt : Packet) (free : List (Nat × Nat)) : List (Nat × Nat) :=
  free.filter fun f => s.crossOpen (port / 8) (f.1 / 8) pkt.route.cls pkt.size

/-- A head of an input goes before another in the order of R311: pressed heads by the time since their arrival, the others
by their age, then by source, quadrant and counter; equal ones by the input's number (R329). -/
def State.headBefore (s : State) (a b : Nat × Head) : Bool :=
  let key := fun (r : Nat × Head) =>
    let p := r.2.isPressed s.clk
    [b2n !p, if p then r.2.arrivedClk else 2 ^ 32 - ((ageOf (s.mtPort r.1) r.2.pkt.issue).getD 0), r.2.pkt.key.src,
      r.2.pkt.route.txQ, r.2.pkt.route.txCounter.toNat, r.1]
  decide (key a < key b)

/-- Put a head in its place. -/
def State.placeHead (s : State) (a : Nat × Head) : List (Nat × Head) → List (Nat × Head)
  | [] => [a]
  | b :: r => if s.headBefore a b then a :: b :: r else b :: s.placeHead a r

/-- The heads of all fabric inputs in the order of R311. -/
def State.headsInOrder (s : State) : List (Nat × Head) :=
  (s.ports.filterMap fun r => r.2.input.head?.map fun h => (r.1, h)).foldl (fun l h => s.placeHead h l) []

/-- The free outputs left for the head of an input, once the heads before it have taken theirs (R311). -/
def State.freeInTurn (s : State) (port : Nat) : List (Nat × Head) → List (Nat × Nat) → List (Nat × Nat)
  | [], free => free
  | (p, h) :: r, free =>
    if p = port then free
    else
      let mine := s.freeFor p h.pkt free
      let taken := match h.replica with
        | some ports => ports
        | none => match s.headOutput (p / 8) h mine with
          | some f => [f.1]
          | none => []
      s.freeInTurn port r (free.filter fun f => !taken.contains f.1)

/-- HEAD_FORWARD (R23, R269, R310, R311, R314): the head of an input takes an output among the free ones that the heads
before it leave, and is sent; a head whose bank has become IDLE or unreachable is dropped. -/
def execHeadForward (port : Nat) (free : List (Nat × Nat)) (s : State) : Host.Outcome State Fault Refusal :=
  let free := s.freeInTurn port s.headsInOrder free
  .next (match (s.port port).input with
    | [] => s
    | h :: _ =>
      match h.replica with
      | some ports => s.sendReplicas port h ports (s.freeFor port h.pkt free)
      | none =>
        if !s.ownDst (port / 8) h.pkt.route.epoch h.pkt.route.dst
            && (s.bankIdle (port / 8) h.pkt.route.epoch
              || (s.chartEntry (port / 8) h.pkt.route.epoch h.pkt.route.dst).kind < 2) then
          ((s.dropAt port true).note Status.noRoute 0x18 port).popHead port
        else match s.headOutput (port / 8) h (s.freeFor port h.pkt free) with
          | some f => s.sendHead port h f.1 f.2
          | none => s)

/-- Change the head of an input. -/
def State.modHead (s : State) (port : Nat) (g : Head → Head) : State :=
  s.modPort port fun x => { x with input := match x.input with
    | h :: r => g h :: r
    | [] => [] }

/-- HEAD_RELAX (R311): after 170 ns of head-time. -/
def execHeadRelax (port : Nat) (s : State) : Host.Outcome State Fault Refusal :=
  .next (s.modHead port fun h => { h with relaxed := h.isRelaxed s.clk })

/-- HEAD_PRESSED (R311, R315): 400 ns after its header arrived; pressed heads are counted. -/
def execHeadPressed (port : Nat) (s : State) : Host.Outcome State Fault Refusal :=
  .next (match (s.port port).input with
    | [] => s
    | h :: _ =>
      if !h.pressed && h.isPressed s.clk then (s.modHead port fun h => { h with pressed := true }).count Count.pressedHeads
      else s)

end Sys2Proof.Machine
end

