-- ==== Sys2Proof/Machine/Spdm.lean ====
section
/-!
DEFINITION. Machine/Spdm.lean: the SPDM responders (R420, R422, R506 to R508). The message codes and the order of the
requests are those of DMTF SPDM, which R506 names and does not repeat (assumption log 12).
-/

namespace Sys2Proof.Machine

/-! ## Message codes (assumption log 12) -/

/-- ERROR. -/
abbrev spdmError : Nat := 0x7F

/-- The error codes of an ERROR response. -/
inductive SpdmErr where
  | invalidRequest
  | invalidSession
  | unexpectedRequest
  | decryptError
  | unsupportedRequest
  | sessionLimit
  | versionMismatch
  deriving DecidableEq, Repr

/-- The byte of an error code. -/
def SpdmErr.code : SpdmErr → Byte
  | .invalidRequest => 0x01
  | .invalidSession => 0x02
  | .unexpectedRequest => 0x04
  | .decryptError => 0x06
  | .unsupportedRequest => 0x07
  | .sessionLimit => 0x0A
  | .versionMismatch => 0x41

/-- The capability flags of R506: CERT, CHAL, MEAS with signature, ENCRYPT, MAC, KEY_EX, HBEAT, KEY_UPD. -/
def spdmFlags : Nat := 0x62D6

/-! ## The responder -/

/-- Endpoint `ep` has a responder that answers: a PF's DOE (0, 1) or the sideband (2); recovery serves no attestation
(R475, R506). -/
def State.spdmServes (s : State) (ep : Nat) : Bool :=
  s.sideband && s.fw.mode != .recovery && decide (ep < 3) && (ep == 2 || s.mmioOk (ep * 256))

/-- The responder of an endpoint. -/
def State.spdmOf (s : State) (ep : Nat) : Spdm := tblGetD s.spdm ep {}

/-- Send a response. -/
def State.spdmSend (s : State) (ep code : Nat) (body : List Byte) : State := s.emit (.spdm ep code body)

/-- Send an ERROR response. -/
def State.spdmFail (s : State) (ep : Nat) (e : SpdmErr) : State := s.spdmSend ep spdmError [e.code]

/-- Serve a request that needs the algorithms negotiated first. -/
def State.spdmServe (s : State) (ep : Nat) (body : State → State) : State :=
  if s.spdmServes ep then
    if (s.spdmOf ep).algorithms then body s else s.spdmFail ep .unexpectedRequest
  else s

/-- The sessions an endpoint holds at once (R506). -/
def sessionLimit (ep : Nat) : Nat := if ep = 2 then 2 else 4

/-- The session of an id: FINISH has come, key updates done. -/
def Spdm.session? (x : Spdm) (id : Nat) : Option (Bool × Nat) := (x.sessions.find? fun r => r.1 == id).map fun r => r.2

/-- A responder without a session. -/
def Spdm.dropSession (x : Spdm) (id : Nat) : Spdm := { x with sessions := x.sessions.filter fun r => r.1 != id }

/-- A responder whose session is established with so many key updates. -/
def Spdm.holdSession (x : Spdm) (id updates : Nat) : Spdm :=
  { x with sessions := (x.sessions.filter fun r => r.1 != id) ++ [(id, true, updates)] }

/-- Serve a request of an established session. -/
def State.spdmInSession (s : State) (ep id : Nat) (body : State → Nat → State) : State :=
  s.spdmServe ep fun s => match (s.spdmOf ep).session? id with
    | some (true, n) => body s n
    | some (false, _) => s.spdmFail ep .unexpectedRequest
    | none => s.spdmFail ep .invalidSession

/-! ## Measurements (R508) -/

/-- The bytes of a 512-bit digest. -/
def digestBytes (d : BitVec 512) : List Byte := leBytes 64 d.toNat

/-- Block 6: per accelerator in session its certificate digest and session generation. -/
def State.attachedBlock (s : State) : List Byte :=
  s.accels.flatMap fun r =>
    if r.2.state = .up then leBytes 1 r.1 ++ r.2.certDigest ++ [r.2.generation] else []

/-- The code of a boot mode in block 7. -/
def BootMode.code : BootMode → Nat
  | .normal => 0
  | .fallback => 1
  | .recovery => 2

/-- The content of a measurement block, as raw bytes in the order the table names them. -/
def State.measurement (s : State) (i : Nat) : Option (List Byte) :=
  if i = 1 then some (leBytes 8 Config.bootRomId.toNat ++ digestBytes Config.bootRomDigest)
  else if i = 2 then some s.runningImage
  else if i = 3 then some (digestBytes Config.configDigest ++ leBytes 4 s.fw.configSvn)
  else if i = 4 then some (leBytes 4 (s.fw.counters.getD 0 0).toNat ++ leBytes 4 (s.fw.counters.getD 1 0).toNat)
  else if i = 5 then some (leBytes 2 s.cfg.endpoint ++ leBytes 2 s.cfg.mplUs)
  else if i = 6 then some s.attachedBlock
  else if i = 7 then some (leBytes 1 s.fw.mode.code)
  else if 16 ≤ i ∧ i < 32 then some (s.partitionBlock (i - 16))
  else none

/-- The indices of the table, in order. -/
def measurementIndices : List Nat := List.range' 1 7 ++ List.range' 16 16

/-- A block as a response carries it: index, length, content. -/
def State.measurementBlock (s : State) (i : Nat) : List Byte :=
  let b := (s.measurement i).getD []
  leBytes 1 i ++ leBytes 2 b.length ++ b

/-- The blocks a request asks for: 0 asks for their number only, 0xFF for all (DMTF SPDM, assumption log 12). -/
def wantedBlocks (i : Nat) : Option (List Nat) :=
  if i = 0 then some [] else if i = 0xFF then some measurementIndices else if i ∈ measurementIndices then some [i] else none

/-- The certificate chain of slot 0 (R507). -/
def State.certChain (s : State) : List Byte := Config.certChain (shake256 s.runningImage 64)

/-! ## Requests (R506) -/

/-- GET_VERSION (R422, R506): 1.2 and 1.3; the connection starts afresh (assumption log 12). -/
def execGetVersion (ep : Nat) (s : State) : Host.Outcome State Fault Refusal :=
  .next (if s.spdmServes ep then
      (s.modSpdm ep fun x => { nextSession := x.nextSession, version := 0x10 }).spdmSend ep 0x04 [0x12, 0x13]
    else s)

/-- GET_CAPABILITIES (R506): `version` is the version of the request's header. -/
def execGetCapabilities (ep : Nat) (version : Nat) (s : State) : Host.Outcome State Fault Refusal :=
  .next (if s.spdmServes ep then
      if (s.spdmOf ep).version = 0 then s.spdmFail ep .unexpectedRequest
      else if version = 0x12 ∨ version = 0x13 then
        (s.modSpdm ep fun x => { x with version, capabilities := true, algorithms := false }).spdmSend ep 0x61
          (leBytes 4 spdmFlags)
      else s.spdmFail ep .versionMismatch
    else s)

/-- NEGOTIATE_ALGORITHMS (R506): a requester that does not offer the algorithms of the table receives ERROR. -/
def execNegotiateAlgorithms (ep : Nat) (falcon shake mlkem aesGcm : Bool) (s : State) :
    Host.Outcome State Fault Refusal :=
  .next (if s.spdmServes ep then
      if !(s.spdmOf ep).capabilities then s.spdmFail ep .unexpectedRequest
      else if falcon && shake && mlkem && aesGcm then
        (s.modSpdm ep fun x => { x with algorithms := true }).spdmSend ep 0x63 [1, 1, 1, 1]
      else s.spdmFail ep .invalidRequest
    else s)

/-- GET_DIGESTS (R506, R507): slot 0 only. -/
def execGetDigests (ep : Nat) (s : State) : Host.Outcome State Fault Refusal :=
  .next (s.spdmServe ep fun s => s.spdmSend ep 0x01 (leBytes 1 1 ++ shake256 s.certChain 64))

/-- GET_CERTIFICATE (R506, R507): a part of the chain of slot 0 and the number of bytes after it. -/
def execGetCertificate (ep slot offset length : Nat) (s : State) : Host.Outcome State Fault Refusal :=
  .next (s.spdmServe ep fun s =>
    let c := s.certChain
    if slot ≠ 0 ∨ c.length ≤ offset then s.spdmFail ep .invalidRequest
    else
      let b := slice c offset length
      s.spdmSend ep 0x02 (leBytes 1 slot ++ leBytes 2 b.length ++ leBytes 2 (c.length - offset - b.length) ++ b))

/-- CHALLENGE (R506, R507): the response is signed by the alias key over the requester's nonce. -/
def execChallenge (ep slot : Nat) (nonce : BitVec 256) (s : State) : Host.Outcome State Fault Refusal :=
  .next (s.spdmServe ep fun s =>
    if slot ≠ 0 then s.spdmFail ep .invalidRequest
    else
      let r := s.drawBytes 32
      let b := shake256 s.certChain 64 ++ leBytes 32 nonce.toNat ++ r.1
      let g := r.2.sign b
      g.2.spdmSend ep 0x03 (b ++ g.1))

/-- GET_MEASUREMENTS (R506, R508). -/
def execGetMeasurements (ep index : Nat) (sign : Bool) (nonce : BitVec 256) (s : State) :
    Host.Outcome State Fault Refusal :=
  .next (s.spdmServe ep fun s => match wantedBlocks index with
    | none => s.spdmFail ep .invalidRequest
    | some l =>
      let blocks := l.flatMap s.measurementBlock
      let count := if l.isEmpty then measurementIndices.length else l.length
      if sign then
        let b := leBytes 1 count ++ blocks ++ leBytes 32 nonce.toNat
        let g := s.sign b
        g.2.spdmSend ep 0x60 (b ++ g.1)
      else s.spdmSend ep 0x60 (leBytes 1 count ++ blocks))

/-- KEY_EXCHANGE (R506): at most 4 sessions of a PF's DOE and 2 on MCTP. -/
def execKeyExchange (ep : Nat) (nonce : BitVec 256) (s : State) : Host.Outcome State Fault Refusal :=
  .next (s.spdmServe ep fun s =>
    let x := s.spdmOf ep
    if sessionLimit ep ≤ x.sessions.length then s.spdmFail ep .sessionLimit
    else
      let r := s.drawBytes 1600
      let b := leBytes 4 x.nextSession ++ leBytes 32 nonce.toNat ++ r.1
      let g := r.2.sign b
      (g.2.modSpdm ep fun x =>
        { x with sessions := x.sessions ++ [(x.nextSession, false, 0)], nextSession := x.nextSession + 1 }).spdmSend ep 0x64
        (b ++ g.1))

/-- FINISH (R506): a failed check ends the session. -/
def execFinish (ep session : Nat) (macOk : Bool) (s : State) : Host.Outcome State Fault Refusal :=
  .next (s.spdmServe ep fun s => match (s.spdmOf ep).session? session with
    | none => s.spdmFail ep .invalidSession
    | some (true, _) => s.spdmFail ep .unexpectedRequest
    | some (false, n) =>
      if macOk then
        (s.modSpdm ep fun x => x.holdSession session n).spdmSend ep 0x65 []
      else (s.modSpdm ep fun x => x.dropSession session).spdmFail ep .decryptError)

/-- HEARTBEAT of SPDM (R506). -/
def execSpdmHeartbeat (ep session : Nat) (s : State) : Host.Outcome State Fault Refusal :=
  .next (s.spdmInSession ep session fun s _ => s.spdmSend ep 0x68 [])

/-- KEY_UPDATE (R506): operations 1 and 2 update keys and 3 verifies them (assumption log 12). -/
def execKeyUpdate (ep session op : Nat) (s : State) : Host.Outcome State Fault Refusal :=
  .next (s.spdmInSession ep session fun s n =>
    if op = 0 ∨ 3 < op then s.spdmFail ep .invalidRequest
    else if op = 3 then s.spdmSend ep 0x69 (leBytes 1 op)
    else (s.modSpdm ep fun x => x.holdSession session (n + 1)).spdmSend ep 0x69 (leBytes 1 op))

/-- END_SESSION (R506). -/
def execEndSession (ep session : Nat) (s : State) : Host.Outcome State Fault Refusal :=
  .next (s.spdmInSession ep session fun s _ => (s.modSpdm ep fun x => x.dropSession session).spdmSend ep 0x6C [])

/-- The selective IDE streams of a port. -/
def State.ideStreams (s : State) (port : Nat) : Nat :=
  (s.funcs.filter fun r => fnPort r.1 == port && r.2.ideStream).length

/-- The interface report of a VF that is locked or runs (R421): the sizes of its BARs, its MSI-X table as locked and its
partition, in the model's own layout (assumption log 53). -/
def State.tdiReport (s : State) (fn : Nat) : List Byte :=
  let f := s.func fn
  if f.tdisp = 1 ∨ f.tdisp = 2 then
    leBytes 8 0x800000 ++ leBytes 8 0x4000
      ++ ((List.range 64).flatMap fun i =>
        let e := tblGetD f.msix i {}
        leBytes 8 e.addr.toNat ++ leBytes 4 e.data.toNat ++ leBytes 4 (b2n e.masked))
      ++ leBytes 1 (f.bound.getD 0xFF)
  else []

/-- VENDOR_DEFINED_REQUEST (R420, R421, R506): standard 0 is IDE_KM, which installs the keys of a selective stream over
the function, at most 8 on a port; 2 and 3 are IDE_KM for the link stream and for CXL.cachemem; standard 1 is TDISP, whose
state changes are the rows of R421 and whose report this command reads. All go over a PF's DOE. -/
def execVendorDefinedRequest (ep session standard fn : Nat) (s : State) : Host.Outcome State Fault Refusal :=
  .next (s.spdmInSession ep session fun s _ =>
    if ep = 2 ∨ 3 < standard then s.spdmFail ep .unsupportedRequest
    else if standard = 2 then (s.modHost ep fun h => { h with linkIde := true }).spdmSend ep 0x7E [0]
    else if standard = 3 then (s.modHost ep fun h => { h with cxlIde := true }).spdmSend ep 0x7E [0]
    else if fnPort fn ≠ ep ∨ !(s.func fn).present then s.spdmFail ep .invalidRequest
    else if standard = 1 then s.spdmSend ep 0x7E ([1] ++ s.tdiReport fn)
    else if !(s.func fn).ideStream && decide (8 ≤ s.ideStreams ep) then s.spdmFail ep .invalidRequest
    else (s.modFunc fn fun f => { f with ideStream := true }).spdmSend ep 0x7E [0])

end Sys2Proof.Machine
end

