-- ==== Sys2Proof/Machine/HostPorts.lean ====
section
/-!
DEFINITION. Machine/HostPorts.lean: link events and resets of the host ports, host read completions, the memory windows
with their bias, peer doorbell windows and TDISP (R413, R414, R417, R421, R424 to R438).
-/

namespace Sys2Proof.Machine

/-! ## MSI-X (R417) -/

/-- Send the pending messages of a function whose vectors are no longer masked. -/
def State.msixRelease (s : State) (fn : Nat) : State :=
  let x := s.func fn
  let ready := x.pba.reverse.filter fun v => x.msixEnable && !x.functionMask && !(tblGetD x.msix v {}).masked
  ready.foldl (fun s v => (s.modFunc fn fun x => { x with pba := x.pba.filter fun w => w != v }).msix fn v) s

/-- MSIX_UNMASK (R417): the host clears the mask bit of a vector; a locked table does not change (R421). -/
def execMsixUnmask (fn vector : Nat) (s : State) : Host.Outcome State Fault Refusal :=
  .next (if s.mmioOk fn && decide (vector < msixCount fn) then
      if (s.func fn).tdisp = 0 then
        (s.modFunc fn fun x => { x with
          msix := tblSet x.msix vector { tblGetD x.msix vector {} with masked := false } }).msixRelease fn
      else s.resetFunction fn
    else s)

/-! ## Link events and resets (R434 to R437) -/

/-- How long a port may retrain before it is reset. -/
def retrainLimit : Nat := us 100000

/-- The outstanding reads of a port are issued again, and their timeouts run anew (R434). -/
def State.reissueReads (s : State) (port : Nat) : State :=
  let s := s.modHost port fun h => { h with reads := h.reads.map fun r => { r with issuedClk := s.clk } }
  ((s.host port).reads.filter fun r => r.purpose != .discard).foldl (fun s r => s.emit (.hostRead port r)) s

/-- The link of a port is up: what waited leaves in order, the Invalidation Completions behind it, then the reads are issued
again (R170, R434, R435). -/
def State.linkReturns (s : State) (port : Nat) : State :=
  let h := s.host port
  let s := s.modHost port fun h => { h with
    linkUp := true, retraining := false, retrains := h.retrains + 1, held := [], engineHeld := [] }
  let s := (h.held ++ h.engineHeld).foldl (fun s w => s.emit (hostOut port w)) s
  let s := h.invalidations.foldl (fun s v => s.closeInvalidation port v.tag) s
  (s.reissueReads port).stir

/-- DL_DOWN (R434). -/
def execDlDown (port : Nat) (s : State) : Host.Outcome State Fault Refusal :=
  .next (if (s.host port).linkUp then
      s.modHost port fun h => { h with linkUp := false, retraining := true, downClk := s.clk }
    else s)

/-- DL_UP (R434): within 100 ms of DL_Down, and at exactly 100 ms, it ends a retrain; a port in training comes up. -/
def execDlUp (port : Nat) (s : State) : Host.Outcome State Fault Refusal :=
  .next (
    let h := s.host port
    if h.linkUp || !h.ready then s
    else if !h.retraining then (s.modHost port fun h => { h with linkUp := true }).reissueReads port
    else if s.clk ≤ h.downClk + retrainLimit then s.linkReturns port
    else (s.resetPort port).modHost port fun h => { h with linkUp := true })

/-- RETRAIN_TIMEOUT (R434): DL_Down has lasted more than 100 ms. -/
def execRetrainTimeout (port : Nat) (s : State) : Host.Outcome State Fault Refusal :=
  .next (if (s.host port).retraining && decide ((s.host port).downClk + retrainLimit < s.clk) then s.resetPort port else s)

/-- HOT_RESET (R434, R436). -/
def execHotReset (port : Nat) (s : State) : Host.Outcome State Fault Refusal :=
  .next (if port < 2 then s.resetPort port else s)

/-- Set the level of a port's PERST_N pin. -/
def Power.setPerst (x : Power) (port : Nat) (high : Bool) : Power :=
  if port = 0 then { x with perst0 := high } else { x with perst1 := high }

/-- PERST (R434, R436, R558): the pin is asserted, and the port is not ready for training until it is released. -/
def execPerst (port : Nat) (s : State) : Host.Outcome State Fault Refusal :=
  .next (if port < 2 then
      ((s.resetPort port).modHost port fun h => { h with ready := false }).modPower fun x => x.setPerst port false
    else s)

/-- BUS_MASTER_ENABLE_CLEAR (R434, R437): the PF alone is reset. -/
def execBusMasterEnableClear (port : Nat) (s : State) : Host.Outcome State Fault Refusal :=
  .next (if (s.func (port * 256)).present then s.resetFunction (port * 256) else s)

/-- The VFs of a port that a host sees. -/
def State.vfsOf (s : State) (port : Nat) : List Nat := (s.functionsOf port).filter fun f => !isPf f

/-- FLR (R434, R437): the VF, or the PF and every VF. The bindings stay. -/
def execFlr (fn : Nat) (s : State) : Host.Outcome State Fault Refusal :=
  .next (if (s.func fn).present then
      if isPf fn then (fn :: s.vfsOf (fnPort fn)).foldl (fun s f => s.resetFunction f) s else s.resetFunction fn
    else s)

/-- VF_ENABLE_CLEAR (R434, R437): every VF is reset, unbound and gone from the port. -/
def execVfEnableClear (port : Nat) (s : State) : Host.Outcome State Fault Refusal :=
  .next ((s.vfsOf port).foldl (fun s f =>
    ((s.resetFunction f).unbind? f).modFunc f fun x => { x with present := false }) s)

/-! ## Host reads (R414) -/

/-- The status of a failed data read of a function (R158, R414). -/
def State.readStatus (s : State) (fn : Nat) : ReadEnd → Nat
  | .data _ => Status.ok
  | .unsupportedRequest => if (s.func fn).atsEnable then Status.hostAccessError else Status.translationFault
  | .completerAbort => if (s.func fn).atsEnable then Status.hostAccessError else Status.translationFault
  | .poisoned => Status.hostAccessError

/-- Cut bytes into slots. -/
def cutSlots (size : Nat) (l : List Byte) (n : Nat) : List (List Byte) := (List.range n).map fun i => slice l (i * size) size

/-- Whether a probe with this end was refused (R432). -/
def probeFails : ReadEnd → Bool
  | .data _ => false
  | .unsupportedRequest => true
  | .completerAbort => true
  | .poisoned => false

/-- A probe of a peer window was refused (R432). -/
def State.probeFailed (s : State) (port a : Nat) : State :=
  s.modHost port fun h => { h with p2p := tblSet h.p2p a { tblGetD h.p2p a {} with failed := true } }

/-- The bytes of a completion. -/
def endBytes : ReadEnd → Option (List Byte)
  | .data b => some b
  | .unsupportedRequest => none
  | .completerAbort => none
  | .poisoned => none

/-- A tile's read ends with its bytes or fails its owner (R152, R414). -/
def State.endTileRead (s : State) (id off len status : Nat) (b : Option (List Byte)) : State :=
  match tblGet s.tiles id with
  | none => s
  | some t =>
    match b with
    | some l => (s.tileData id off (padTo len l)).stirOwner t.owner
    | none => (s.failOwner t.owner status).stirOwner t.owner

/-- A read of a responder ends (R158, R256, R414). -/
def State.endServedRead (s : State) (q id off len status : Nat) (b : Option (List Byte)) : State :=
  match s.copy? q id with
  | none => s
  | some c =>
    match b with
    | some l => (s.modCopy q id fun c => { c with got := (off, padTo len l) :: c.got }).serveRead q id
    | none => s.failRead q c status

/-- Issue the probe of a peer window; it waits while no tag is free (R413, R432). -/
def State.probeP2p (s : State) (port a : Nat) : State :=
  let (s, ok) := s.hostRead port
    { fn := port * 256, addr := (tblGetD (s.host port).p2p a {}).base, length := 8, purpose := .probe a }
  s.modHost port fun h => { h with p2p := tblSet h.p2p a { tblGetD h.p2p a {} with due := !ok } }

/-- A tag is free again: what waits for one is issued (R413). -/
def State.retryReads (s : State) (port : Nat) : State :=
  let s := s.pumpTiles.pumpServedAll.flushReads
  let s := ((s.queues.filter fun r => fnPort r.2.fn == port).map fun r => r.1).foldl State.fetchSlots s
  (((s.host port).p2p.filter fun r => r.2.due).map fun r => r.1).foldl (fun s a => s.probeP2p port a) s

/-- A host read ends: with bytes or with the status of its failure (R414). -/
def State.endHostRead (s : State) (port : Nat) (r : HostRead) (status : Nat) (b : Option (List Byte)) (refused : Bool) :
    State :=
  let s := s.modHost port fun h => { h with reads := h.reads.filter fun x => x.tag != r.tag }
  let s := match r.purpose with
    | .slots q first n => match s.queue? q, b with
      | some x, some l => s.slotsRead q first (cutSlots (slotSize x.version) l n) n
      | _, some _ => s
      | _, none => s.slotsFailed q first
    | .tile id off len => s.endTileRead id off len status b
    | .flush q i => s.flushDone q i
    | .responder q id off => s.endServedRead q id off r.length status b
    | .probe a => if refused then s.probeFailed port a else s
    | .discard => s
  s.retryReads port

/-- HOST_READ_COMPLETION (R158, R187, R205, R414, R432, R436). -/
def execHostReadCompletion (port tag : Nat) (result : ReadEnd) (s : State) : Host.Outcome State Fault Refusal :=
  .next (match (s.host port).reads.find? fun r => r.tag == tag with
    | none => s
    | some r => s.endHostRead port r (s.readStatus r.fn result) (endBytes result) (probeFails result))

/-- COMPLETION_TIMEOUT (R413, R414, R434): after the port's timeout; reads outstanding while it retrains do not time
out. -/
def execCompletionTimeout (port tag : Nat) (s : State) : Host.Outcome State Fault Refusal :=
  .next (match (s.host port).reads.find? fun r => r.tag == tag with
    | none => s
    | some r =>
      if (s.host port).retraining || decide (s.clk < r.issuedClk + us (s.host port).timeoutUs) then s
      else s.endHostRead port r Status.hostAccessError none true)

/-! ## The memory window (R424 to R426) -/

/-- The window's place in partition space. -/
def hdmBase (port : Nat) : Nat := 0x90000000000 + port * 0x4000000000

/-- The wish of a backing: LPDDR5X, pinned, its frames over all channels. -/
def hdmWish : Wish := { tier := 2, pinTier := true }

/-- Allocate the backing of a port: `length` units of 256 MiB in the partition of its PF; none where the PF is unbound or
the placement does not fit (R424). -/
def State.allocBacking (s : State) (port length pick : Nat) : Option State :=
  match (s.func (port * 256)).bound with
  | none => none
  | some p =>
    match s.choosePlace hdmWish p (length * 65536), pickFree s.placeFree 0 32768 pick with
    | .ok _, some i =>
      let s := s.newPlacement i p (length * 0x10000000) (hdmBase port) hdmWish true 4 (some port)
      some (s.modHost port fun h => { h with
        hdmHandle := w32 (placeHandle i (s.place i)).toNat, hdmLength := length, deviceBias := [] })
    | _, _ => none

/-- HDM_DECODER_COMMIT (R423, R424): `length` in units of 256 MiB; with a backing there already the commit fails (R425
names one backing). -/
def execHdmDecoderCommit (port length : Nat) (pick : Nat) (s : State) : Host.Outcome State Fault Refusal :=
  .next (if port < 2 ∧ 1 ≤ length ∧ length ≤ 1024 ∧ (s.backing? port).isNone then
      match s.allocBacking port length pick with
      | some s => s.modHost port fun h => { h with decoder := true }
      | none => s
    else s)

/-- HDM_DECODER_UNCOMMIT (R425). -/
def execHdmDecoderUncommit (port : Nat) (s : State) : Host.Outcome State Fault Refusal :=
  .next (if (s.host port).decoder then s.freeBacking port else s)

/-- Store FN_HDM.length (R425, R426); a backing that a function reset of the PF left gives way to the new one (assumption
log 66). -/
def State.writeHdmLength (s : State) (port n pick : Nat) : State :=
  let h := s.host port
  if h.cxlMem || decide (1024 < n) then s
  else if n = 0 then if (s.backing? port).isSome then s.freeBacking port else s
  else if h.hdmLength = 0 then ((s.freeBacking port).allocBacking port n pick).getD s
  else s

/-- FN_HDM_LENGTH (R418, R426): a write of FN_HDM on a PF. -/
def execFnHdmLength (fn : Nat) (value : W64) (pick : Nat) (s : State) : Host.Outcome State Fault Refusal :=
  .next (if isPf fn && s.mmioOk fn then s.writeHdmLength (fnPort fn) (bits value.toNat 10 0) pick else s)

/-- A host read of a part of the backing: no data where a line is bad (R95, R105). -/
def State.backingRead (s : State) (x : Placement) (off len : Nat) : List Byte × State :=
  match s.spaceCheck x.partition (x.offset + off) len false with
  | 0 => (s.readSpace x.partition (x.offset + off) len, s.useChannels x.partition (x.offset + off) len)
  | st => ([], s.accessFault x.partition (x.offset + off) len st)

/-- A host write of a part of the backing; one that leaves a bad line bad is discarded (R105). -/
def State.backingWrite (s : State) (x : Placement) (off : Nat) (b : List Byte) : State :=
  match s.spaceCheck x.partition (x.offset + off) b.length true with
  | 0 => s.writeSpace x.partition (x.offset + off) b
  | st => s.accessFault x.partition (x.offset + off) b.length st

/-- BAR4_ACCESS (R415, R426): above the length a read is all ones and a write is discarded. -/
def execBar4Access (port offset : Nat) (write : Option (List Byte)) (length : Nat) (s : State) :
    Host.Outcome State Fault Refusal :=
  .next (
    let h := s.host port
    let inside := min length (h.hdmLength * 0x10000000 - offset)
    if !s.mmioOk (port * 256) then s
    else if h.cxlMem then s.emit (.barData port false [])
    else match s.backing? port, write with
      | some (_, x), some b => if inside = 0 then s else s.backingWrite x offset (b.take inside)
      | some (_, x), none =>
        if inside = 0 then s.emit (.barData port true (List.replicate length 0xFF))
        else
          let (b, s) := s.backingRead x offset inside
          s.emit (.barData port true (if b.isEmpty then [] else b ++ List.replicate (length - inside) 0xFF))
      | none, some _ => s
      | none, none => s.emit (.barData port true (List.replicate length 0xFF)))

/-- CXL_MEM_ENABLE (R426). -/
def execCxlMemEnable (port : Nat) (on : Bool) (s : State) : Host.Outcome State Fault Refusal :=
  .next (if port < 2 then (s.modHost port fun h => { h with cxlMem := on }).stir else s)

/-! ## Bias (R427 to R430) -/

/-- Serve a host CXL.mem request of a page in host bias: the host takes the line from the device cache. -/
def State.serveCxl (s : State) (port : Nat) (x : Placement) (line : Nat) (write : Option (List Byte)) : State :=
  match write with
  | some b =>
    (s.modHost port fun h => { h with cache := h.cache.filter fun c => c.1 != line }).backingWrite x (line * 64) (padTo 64 b)
  | none =>
    let s := s.modHost port fun h => { h with cache := h.cache.map fun c => if c.1 == line then (line, false) else c }
    let (b, s) := s.backingRead x (line * 64) 64
    s.emit (.cxlData port line b)

/-- HOST_CXL_MEM_REQUEST (R427, R428): a request of a page in device bias waits for its flip. -/
def execHostCxlMemRequest (port line : Nat) (write : Option (List Byte)) (s : State) : Host.Outcome State Fault Refusal :=
  .next (
    let h := s.host port
    match s.backing? port with
    | none => s
    | some (_, x) =>
      if !h.cxlMem || !h.decoder || decide (x.size ≤ line * 64) then s
      else if h.deviceBias.contains (line / 64) then
        s.modHost port fun h => { h with biasWaits := h.biasWaits ++ [{ line, write, fromHost := true }] }
      else s.serveCxl port x line write)

/-- Pages leave device bias, and the host requests that waited for them are served in order (R428). -/
def State.toHostBias (s : State) (port : Nat) (pick : Nat → Bool) : State :=
  let served := (s.host port).biasWaits.filter fun w => w.fromHost && pick (w.line / 64)
  let s := s.modHost port fun h => { h with
    deviceBias := h.deviceBias.filter fun g => !pick g
    biasWaits := h.biasWaits.filter fun w => !(w.fromHost && pick (w.line / 64)) }
  match s.backing? port with
  | some (_, x) => served.foldl (fun s w => s.serveCxl port x w.line w.write) s
  | none => s

/-- BIAS_FLIP (R428): a page that a host request waits for takes host bias; Survey counts it. -/
def execBiasFlip (port page : Nat) (s : State) : Host.Outcome State Fault Refusal :=
  .next (if (s.host port).biasWaits.any fun w => w.fromHost && w.line / 64 == page then
      ((s.toHostBias port fun g => g == page).count Count.biasFlips).stir
    else s)

/-- Store FN_BIAS_CTRL with its request (R429): a go while busy is discarded. -/
def State.writeBiasCtrl (s : State) (port : Nat) (value : W32) : State :=
  let h := s.host port
  let go := bit value.toNat 31
  let host := bit value.toNat 30
  let pages := bits value.toNat 25 0
  if go && h.biasJob.isSome then s
  else
    let s := s.modHost port fun h => { h with biasTarget := host, biasPages := pages }
    if !go || pages == 0 then s
    else if h.hdmLength * 65536 < h.biasPage + pages then s.modHost port fun h => { h with rangeError := true }
    else s.modHost port fun h => { h with biasJob := some { host, first := h.biasPage, pages } }

/-- BIAS_GO (R418, R429): a write of FN_BIAS_CTRL on a PF. -/
def execBiasGo (fn : Nat) (value : W32) (s : State) : Host.Outcome State Fault Refusal :=
  .next (if isPf fn && s.mmioOk fn then s.writeBiasCtrl (fnPort fn) value else s)

/-- BIAS_CHANGE_DONE (R429, R438): host requests of the range that wait are served first; for device bias the device
has given up its lines of the range. -/
def execBiasChangeDone (port : Nat) (s : State) : Host.Outcome State Fault Refusal :=
  .next (match (s.host port).biasJob with
    | none => s
    | some j =>
      let inRange := fun g => decide (j.first ≤ g) && decide (g < j.first + j.pages)
      let s := s.toHostBias port inRange
      let s := s.modHost port fun h => { h with biasJob := none }
      if j.host then s.stir
      else (s.modHost port fun h => { h with
        deviceBias := h.deviceBias ++ List.range' j.first j.pages
        cache := h.cache.filter fun c => !inRange (c.1 / 64)
        biasWaits := h.biasWaits.filter fun w => !inRange (w.line / 64) }).stir)

/-- Lines of the device cache: 1 MiB (R423). -/
def deviceCacheLines : Nat := 16384

/-- CXL_CACHE_LINE_GRANT (R427): the line that a device access asked for arrives, shared or owned. -/
def execCxlCacheLineGrant (port line : Nat) (owned : Bool) (s : State) : Host.Outcome State Fault Refusal :=
  .next (
    let answers := fun (w : BiasWait) => !w.fromHost && w.line == line && (owned || !w.owned)
    if (s.host port).biasWaits.any answers then
      (s.modHost port fun h => { h with
        biasWaits := h.biasWaits.filter fun w => !answers w
        cache := ((line, owned) :: h.cache.filter fun c => c.1 != line).take deviceCacheLines }).stir
    else s)

/-! ## Peer doorbell windows (R431, R432) -/

/-- Store FN_P2P[a]: failed clears, and a set enable probes the window. -/
def State.writeP2p (s : State) (port a : Nat) (value : W64) : State :=
  let base := w64 (value.toNat / 0x800000 * 0x800000)
  let enable := bit value.toNat 0
  let s := s.modHost port fun h => { h with
    p2p := tblSet h.p2p a { base, enable }
    reads := h.reads.map fun r => if r.purpose == .probe a then { r with purpose := .discard } else r }
  if enable then s.probeP2p port a else s

/-- P2P_ENABLE (R418, R432): a write of FN_P2P[a] on a PF. -/
def execP2pEnable (fn a : Nat) (value : W64) (s : State) : Host.Outcome State Fault Refusal :=
  .next (if isPf fn && s.mmioOk fn && decide (a < 8) then s.writeP2p (fnPort fn) a value else s)

/-- P2P_PROBE_RESULT (R432): `ok` is false for UR, CA or a timeout. -/
def execP2pProbeResult (port a : Nat) (ok : Bool) (s : State) : Host.Outcome State Fault Refusal :=
  .next (if (s.host port).reads.any fun r => r.purpose == .probe a then
      let s := s.dropReads port (.probe a)
      if ok then s else s.probeFailed port a
    else s)

/-! ## TDISP (R421) -/

/-- A VF that a host sees and whose PF's DOE answers. -/
def State.isTdi (s : State) (fn : Nat) : Bool := !isPf fn && (s.func fn).present && s.spdmServes (fnPort fn)

/-- Move a VF between TDISP states; the measurement block of its partition changes (R508). -/
def State.setTdisp (s : State) (fn state : Nat) : State :=
  (s.modFunc fn fun f => { f with tdisp := state }).count Count.measurementChange

/-- LOCK_INTERFACE_REQUEST (R421): only a bound VF that a stream covers. -/
def execLockInterfaceRequest (fn : Nat) (s : State) : Host.Outcome State Fault Refusal :=
  .next (if s.isTdi fn && (s.func fn).tdisp == 0 && (s.func fn).bound.isSome && (s.func fn).ideStream then
      s.setTdisp fn 1
    else s)

/-- START_INTERFACE_REQUEST (R421). -/
def execStartInterfaceRequest (fn : Nat) (s : State) : Host.Outcome State Fault Refusal :=
  .next (if s.isTdi fn && (s.func fn).tdisp == 1 then s.setTdisp fn 2 else s)

/-- STOP_INTERFACE_REQUEST (R421). -/
def execStopInterfaceRequest (fn : Nat) (s : State) : Host.Outcome State Fault Refusal :=
  .next (if s.isTdi fn && (s.func fn).tdisp != 0 then s.setTdisp fn 0 else s)

/-- IDE_STREAM_FAILURE (R421, R437): a locked or running VF is reset and enters ERROR. -/
def execIdeStreamFailure (fn : Nat) (s : State) : Host.Outcome State Fault Refusal :=
  .next (if (s.func fn).present && (s.func fn).ideStream then
      let locked := (s.func fn).tdisp == 1 || (s.func fn).tdisp == 2
      let s := s.modFunc fn fun f => { f with ideStream := false }
      if locked then s.resetFunction fn else s
    else s)

end Sys2Proof.Machine
end

