-- ==== Sys2Proof/Machine/Recovery.lean ====
section
/-!
DEFINITION. Machine/Recovery.lean: firmware restarts, warm and cold resets, the boot, crossings and hung units (R70, R71,
R475 to R484, R491, R500, R502, R511 to R527).
-/

namespace Sys2Proof.Machine

/-! ## Crash dumps (R525) -/

/-- The entries of a section that fit in the room left. -/
def takeFit : Nat → List (List Byte) → List (List Byte)
  | _, [] => []
  | room, e :: l => if e.length ≤ room then e :: takeFit (room - e.length) l else []

/-- A section: its header, then its entries; one that does not fit is truncated and says so. -/
def dumpSection (limit : Nat) (body : List Byte) (type : Nat) (fields : List (List Nat)) : List Byte :=
  let room := limit - body.length
  if room < 8 then body
  else
    let all := fields.map (Config.dumpEntry type)
    let l := takeFit (room - 8) all
    let data := l.flatten
    body ++ leBytes 2 type ++ leBytes 2 l.length ++ leBytes 4 (data.length + b2n (l.length < all.length) * 2 ^ 31) ++ data

/-- The job runs: it holds an admitted schedule and has not been aborted (R387, R525). -/
def Job.runs (j : Job) : Bool := j.heartbeat && !j.aborted

/-- The code of a lock state in a dump. -/
def Lock.code : Lock → Nat
  | .unlocked => 0
  | .degraded => 1
  | .locked => 2

/-- The key generation of a job. -/
def Job.gen (j : Job) : Nat := match j.key with
  | some k => k.current
  | none => 0

/-- A value or 0. -/
def natOr (o : Option Nat) : Nat := o.getD 0

/-- The placement lies wholly in LPDDR5X and backs no window: a warm reset keeps it (R526). -/
def Placement.survives (x : Placement) : Bool := x.live && x.hdmPort.isNone && x.legs.all fun l => l.lpddr

/-- The jobs section of a partition's dump. -/
def State.dumpJobs (s : State) (p : Nat) : List (List Nat) :=
  (s.part p).jobs.map fun r =>
    let ids := (s.part p).schedules.filterMap fun c => if c.header.job = r.1 ∧ c.running.isSome then some c.header.id.toNat else none
    r.1 :: r.2.gen :: r.2.rank :: b2n r.2.runs :: ids

/-- The contexts section. -/
def State.dumpContexts (s : State) (p : Nat) : List (List Nat) :=
  s.contexts.filterMap fun r =>
    if r.2.partition = p then some [r.1, r.2.gen.toNat, b2n (r.2.state == .live), r.2.port, natOr r.2.pasid] else none

/-- The queues and rings section. -/
def State.dumpQueues (s : State) (p : Nat) : List (List Nat) :=
  (s.queues.filterMap fun r => if r.2.partition = p then
      some [r.1, r.2.producer.toNat, r.2.consumer.toNat, r.2.errorStatus, r.2.held.length] else none)
    ++ s.rings.filterMap fun r => if r.2.partition = p then
      some [r.1, r.2.producer.toNat, r.2.consumer.toNat, b2n r.2.stalled, r.2.overflow.length] else none

/-- The descriptors in flight. -/
def State.dumpDescs (s : State) (p : Nat) : List (List Nat) :=
  s.queues.flatMap fun r => if r.2.partition = p then
      r.2.held.map fun d => [r.1, d.index.toNat, r.2.context, d.contextGen.toNat, d.bytesDone, b2n d.lastHostWrite.isSome]
    else []

/-- The placements that survive. -/
def State.dumpPlacements (s : State) (p : Nat) : List (List Nat) :=
  s.placements.filterMap fun r => if r.2.partition = p ∧ r.2.survives = true then
    some [(placeHandle r.1 r.2).toNat, r.2.offset, r.2.size] else none

/-- The partition's log records. -/
def State.dumpLog (s : State) (p : Nat) : List (List Nat) :=
  (s.part p).log.map fun r => [r.time.toNat, r.sequence.toNat, r.status, r.detail, r.unit, r.unitIndex, r.info.toNat]

/-- The rekey section. -/
def State.dumpRekey (s : State) (p : Nat) : List (List Nat) :=
  match (s.part p).rekey with
  | some r => [[r.pointer, r.old, r.new, b2n r.staged]]
  | none => []

/-- The body of a partition's dump, with its trigger code. -/
def State.dumpBody (s : State) (p trigger : Nat) : List Byte :=
  [(1, [[trigger, s.mt, s.mer.lock.code]]), (2, s.dumpJobs p), (3, s.dumpContexts p), (4, s.dumpQueues p)
  , (5, s.dumpDescs p), (6, s.dumpPlacements p), (7, s.dumpLog p), (8, s.dumpRekey p)].foldl
    (fun b r => dumpSection 0x700000 b r.1 r.2) []

/-- The jobs that a dump records as running: job, key generation, rank. -/
def State.runningJobs (s : State) (p : Nat) : List (Nat × Nat × Nat) :=
  (s.part p).jobs.filterMap fun r => if r.2.runs then some (r.1, r.2.gen, r.2.rank) else none

/-- Step 4 of the warm reset: the capture of every partition that has a root (R502, R525). -/
def State.capture (s : State) (trigger : Nat) : State :=
  s.parts.foldl (fun t r =>
    if r.2.keyed then t.modPart r.1 fun x => { x with
      capture := some { sequence := r.2.dumpSeq + 1, body := s.dumpBody r.1 trigger, jobs := s.runningJobs r.1 } }
    else t) s

/-- The log code and index of a unit (R529). -/
def unitCode : UnitId → Nat × Nat
  | .transport q => (0x10, q)
  | .receive q => (0x11, q)
  | .sequencer k => (0x12, k)
  | .graticule g => (0x13, g)
  | .reduction u => (0x14, u)
  | .copier q => (0x01, q)
  | .sram q => (0x15, q)
  | .lpddr c => (0x16, c)
  | .governor => (0x1B, 0)

/-- The sections of the device dump (R525): the trigger, unit states, counters, the log records of no partition, Tirmon
registers, and the command journal: the commands at work, by mailbox. -/
def State.deviceSections (s : State) (trigger : Nat) : List (Nat × List (List Nat)) :=
  [ (1, [[trigger, s.mt, s.mer.lock.code]])
  , (Config.deviceSection 0, s.recover.units.map fun r => [(unitCode r.unit).1, (unitCode r.unit).2, b2n r.fenced, b2n r.retired])
  , (Config.deviceSection 1, (s.survey.counts.filter fun r => r.1 / 65536 = 0).map fun r => [r.1, r.2])
  , (7, (s.survey.log.filter fun r => r.partition.isNone).map fun r =>
      [r.time.toNat, r.sequence.toNat, r.status, r.detail, r.unit, r.unitIndex, r.info.toNat])
  , (Config.deviceSection 2, [Config.tirmonRegisters s.free])
  , (Config.deviceSection 3, (s.mailboxes.filter fun r => r.2.busy).map fun r => [r.1, r.2.cmd.toNat, b2n r.2.wait.isSome]) ]

/-- Write a new device dump: its body of at most 16 MiB, and the SHAKE256 digest of it, here 64 B (R525, assumption log
79). -/
def State.newDeviceDump (s : State) (trigger : Nat) : State :=
  let body := (s.deviceSections trigger).foldl (fun b r => dumpSection 0xFFFFC0 b r.1 r.2) []
  { s with free := s.free + 1, fw := { s.fw with deviceDump := true, deviceDumpBody := body ++ shake256 body 64 } }

/-! ## What resets keep (R526) -/

/-- What the sealed state, the SRAM reserve and the operator's dumps keep of a partition over a warm reset (R483, R526):
also a rekey's pointers and a capture. -/
def Partition.warm (x : Partition) : Partition :=
  { keyed := x.keyed, root := x.root, owner := x.owner, fabric := x.fabric, jobGens := x.jobGens, memGen := x.memGen
    rekey := x.rekey, dumpSeq := x.dumpSeq, dump := x.dump, capture := x.capture }

/-- What the sealed state keeps of a partition over a cold reset: dumps and the rekey record are lost (R526). -/
def Partition.cold (x : Partition) : Partition :=
  { keyed := x.keyed, root := x.root, owner := x.owner, fabric := x.fabric, jobGens := x.jobGens, memGen := x.memGen
    dumpSeq := x.dumpSeq
    rekey := x.rekey.map fun r => { r with staged := false, pointer := r.journal } }

/-- What boot flash and its counters keep of the firmware's state. -/
def Firmware.flash (f : Firmware) : Firmware :=
  { selector := f.selector, slot0 := f.slot0, slot1 := f.slot1, counters := f.counters, configSvn := f.configSvn
    copy0 := f.copy0, copy1 := f.copy1 }

/-- What flash keeps of the memory's state: the two copies of the retire map, without the retirements not yet written
(R111). -/
def Memory.flash (m : Memory) : Memory := { inlineEcc := m.inlineEcc, map0 := m.map0, map1 := m.map1 }

/-- The valid copy of the retire map with the higher sequence number, or the empty map (R111). -/
def Memory.loadMap (m : Memory) (ok0 ok1 : Bool) : Memory :=
  let v0 := ok0 && m.map0.valid
  let v1 := ok1 && m.map1.valid
  let x : RetireMap := if v0 && (!v1 || m.map1.sequence < m.map0.sequence) then m.map0 else if v1 then m.map1 else {}
  { m with mapSequence := x.sequence, sramRetired := x.sram, lpddrRetired := x.lpddr }

/-- The two physical functions, unbound and at generation 0 (R418). -/
def resetFuncs : Table Func := [(0, { present := true }), (256, { present := true })]

/-- A host port after a device reset: ready for training once power is good and its PERST_N is high (R558). -/
def resetHosts (x : Power) : Table HostPort := [(0, { ready := x.pwrgd && x.perst0 }), (1, { ready := x.pwrgd && x.perst1 })]

/-- The pins, the input and the temperatures, which no reset changes, and the measured averages. -/
def Power.physical (x : Power) : Power :=
  { state := x.state, inputMv := x.inputMv, throttled := x.throttled, thermalAlert := x.thermalAlert, avg1s := x.avg1s
    last1ms := x.last1ms, hottest := x.hottest, hottestDie := x.hottestDie, tripped := x.tripped, readings := x.readings
    refreshDoubled := x.refreshDoubled, pwrgd := x.pwrgd, perst0 := x.perst0, perst1 := x.perst1, flashWpN := x.flashWpN
    pwrgdClk := x.pwrgdClk }

/-- The Survey epoch as an appointment after a reset at a Meridian time. -/
def surveyFrom (t : Nat) : Appointment :=
  { kind := .surveyEpoch, time := nextMultiple t 16000000, period := 16000000 }

/-- Meridian time over a warm reset: it keeps counting, in UNLOCKED, with its source and its epoch (R74, R526). -/
def Meridian.warm (m : Meridian) : Meridian :=
  { now := m.now, frac := m.frac, freq := m.freq, skews := m.skews, source := m.source, port := m.port
    sourceSet := m.sourceSet, epochTai := m.epochTai, qualifies := m.sourceSet && m.source == 0
    appointments := [surveyFrom m.now.toNat] }

/-- A port over a warm reset: its mode, rate and MAC (R526); every register at its reset value, TXS_PORT_OVH at 0x20
whatever the mode (R7). It stays down until the boot. -/
def Port.warm (x : Port) : Port := { mode := x.mode, eth := { rate := x.eth.rate, mac := x.eth.mac } }

/-- FAB_ATT_CONFIG of an accelerator. -/
def Accel.warm (x : Accel) : Accel := { partitions := x.partitions, endpoint := x.endpoint, ports := x.ports }

/-- A leg over a warm reset: no migration of it goes on. -/
def Leg.warm (l : Leg) : Leg := { l with migration := none, abandoned := none, source := none }

/-- Free the placements that a warm reset does not keep (R526). -/
def State.keepPlacements (s : State) : State :=
  let s := ((s.placements.filter fun r => r.2.live && !r.2.survives).map fun r => r.1).foldl (fun s i => s.freePlacement i) s
  { s with placements := tblMap s.placements fun _ x => { x with legs := x.legs.map Leg.warm } }

/-- Everything else is lost, and the device waits for its boot (R511, R512 step 6). -/
def State.warmState (s : State) : State :=
  let s := s.tearSeal.keepPlacements
  { pending := s.pending, clk := s.clk, free := s.free, out := s.out
    cfg := { endpoint := s.cfg.endpoint, mplUs := s.cfg.mplUs }
    mer := s.mer.warm
    funcs := resetFuncs, hosts := resetHosts s.power
    parts := tblMap s.parts fun _ x => x.warm
    placements := s.placements
    mem := { s.mem.flash with
      cells := s.mem.cells, poisoned := s.mem.poisoned, badLines := s.mem.badLines.filter fun b => b.1
      upsets := s.mem.upsets.filter fun r => r.1 % 2 == 1 }
    ports := tblMap s.ports fun _ x => x.warm
    accels := tblMap s.accels fun _ x => x.warm
    fw := { s.fw.flash with deviceDump := s.fw.deviceDump, deviceDumpBody := s.fw.deviceDumpBody, coldBoot := false }
    power := s.power.physical }

/-- The state after a cold reset (R511): boot flash and the monotonic counters alone are kept. -/
def State.coldState (s : State) : State :=
  let s := s.tearSeal
  { pending := s.pending, clk := s.clk, free := s.free, out := s.out
    funcs := resetFuncs, hosts := resetHosts s.power
    mer := { appointments := [surveyFrom 0] }
    parts := tblMap s.parts fun _ x => x.cold
    mem := s.mem.flash
    fw := s.fw.flash
    power := s.power.physical }

/-! ## Warm reset (R512) -/

/-- Step 2: a beacon with reason DEVICE_RESET for each job that holds an admitted schedule. -/
def State.resetBeacons (s : State) : State :=
  if s.mer.lock = .unlocked then s
  else (s.parts.flatMap fun r => (r.2.schedules.map fun c => (r.1, c.header.job))).foldl (fun s j => s.originate j.1 j.2 5) s

/-- Step 3: DOWN_NOTICE on every ACTIVE fabric port and ATT_RESET on every attach port. -/
def State.resetNotices (s : State) : State :=
  s.ports.foldl (fun t r =>
    if r.2.mode = 1 ∧ r.2.state = .active then t.sendControl r.1 0x08 []
    else if r.2.mode = 2 ∧ (r.2.state = .active ∨ r.2.state = .session) then t.sendControl r.1 0x14 []
    else t) s

/-- The warm reset sequence up to its boot (R512, R525, R526). A fatal error skips the beacons. -/
def State.warmReset (s : State) (fatal : Bool) : State :=
  let s := if fatal then s else s.resetBeacons
  ((s.resetNotices.capture (b2n fatal)).newDeviceDump (b2n fatal)).warmState

/-- WARM_RESET (R511, R512). -/
def execWarmReset (fatal : Bool) (s : State) : Host.Outcome State Fault Refusal :=
  .next (if s.power.state = .on then s.warmReset fatal else s)

/-- ACTIVATE_FIRMWARE (R511, R555): PLDM ActivateFirmware from the BMC. -/
def execActivateFirmware (s : State) : Host.Outcome State Fault Refusal :=
  .next (if s.sideband then s.warmReset false else s)

/-! ## Firmware restart (R70, R71, R518, R519) -/

/-- FW_ALIVE_LAPSE (R70): the firmware has stopped; commands in flight stay busy. -/
def execFwAliveLapse (s : State) : Host.Outcome State Fault Refusal :=
  .next (s.modFw fun f => { f with alive := false })

/-- A busy mailbox whose command had not been committed completes with FIRMWARE_RESTARTED (R70). -/
def State.restartMailbox (s : State) (k : Nat) : State :=
  let x := s.mbx k
  if x.busy && x.wait.isNone then s.respond k Status.firmwareRestarted 0 [] else s

/-- Every mailbox says that the firmware restarted, and its bulk transfer is discarded (R56, R70, R71). The model lets
the next bulk command after such a discard, BULK_OPEN included, answer BULK_STATE too (DESIGN CHOICE, assumption log
16). -/
def Mailbox.restart (x : Mailbox) : Mailbox :=
  { x with restarted := true, bulk := none, bulkLapsed := x.bulkLapsed || x.bulk.isSome }

/-- The mailboxes of the functions that a host sees. -/
def State.mailboxKeys (s : State) : List Nat :=
  s.funcs.flatMap fun r => if r.2.present then (List.range (if isPf r.1 then 4 else 1)).map fun m => mbxKey r.1 m else []

/-- The firmware restarts: commands whose change was committed keep their response, key sessions and SPDM sessions end,
and a new device dump is written (R70, R71, R488, R509, R525). -/
def State.restartFirmware (s : State) : State :=
  let s := if s.fw.sealing then s.endSeal else s
  let s := s.mailboxKeys.foldl (fun s k => (s.restartMailbox k).modMbx k Mailbox.restart) s
  let s := { s with parts := tblMap s.parts fun _ x => { x with session := none }, spdm := [] }
  let s := s.modFw fun f => { f with
    alive := true, lastBeat := s.clk, restarts := s.clk :: f.restarts, mismatches := [] }
  (s.payAnswers.note Status.firmwareRestarted 0x02 0).newDeviceDump 2

/-- A restart now would be the third within 60 s (R519). -/
def State.thirdRestart (s : State) : Bool := 2 ≤ (s.fw.restarts.filter fun t => s.clk ≤ t + us 60000000).length

/-- FIRMWARE_RESTART (R518, R519): an image that fails its digest, or a third restart within 60 s, is a warm reset. -/
def execFirmwareRestart (imageOk : Bool) (s : State) : Host.Outcome State Fault Refusal :=
  .next (if s.power.state = .off ∨ s.fw.awaitingBoot = true ∨ s.fw.mode = .recovery then s
    else if !imageOk || s.thirdRestart then s.warmReset false
    else s.restartFirmware)

/-! ## Boot (R475 to R483, R491, R500, R525, R527) -/

/-- The slot passes boot step 3. -/
def slotPasses (f : Firmware) (facts : BootFacts) (i : Nat) : Bool :=
  (if i = 0 then facts.slot0Ok else facts.slot1Ok) && (f.slot i).present && decide (f.floor ≤ (f.slot i).svn)

/-- The device stays in recovery: the boot ROM serves (R480). -/
def State.enterRecovery (s : State) (step : Nat) : State :=
  s.modFw fun f => { f with mode := .recovery, failedStep := step, awaitingBoot := false, alive := false, serving := false }

/-- Step 2: the configuration block is taken: its signature, its device and its version pass (R477). -/
def Firmware.configTaken (f : Firmware) (facts : BootFacts) : Bool :=
  facts.configSigned && facts.configForDevice && decide ((f.counters.getD 1 0).toNat ≤ f.configSvn)

/-- Step 2: counter 1 rises to the configuration block's version. -/
def Firmware.raiseConfig (f : Firmware) : Firmware :=
  if (f.counters.getD 1 0).toNat < f.configSvn then { f with counters := f.counters.set 1 (w32 f.configSvn) } else f

/-- The copy of the sealed state that the device accepts: its version is counter 2, or the next (R483). -/
def Firmware.sealedCopy (f : Firmware) (facts : BootFacts) : Option SealedCopy :=
  let n := (f.counters.getD 2 0).toNat
  let fits := fun (ok : Bool) (c : SealedCopy) => ok && (c.version == n || c.version == n + 1)
  let a := fits facts.sealed0Ok f.copy0
  let b := fits facts.sealed1Ok f.copy1
  if a && (!b || f.copy1.version < f.copy0.version) then some f.copy0 else if b then some f.copy1 else none

/-- The rekey that a partition resumes: the SRAM record's pointer where the record is of this rekey, else the journal's;
a record that says the walk is over leaves none (R499, R500). -/
def SealedPart.rekeyFrom (c : SealedPart) (x : Partition) (warmRecord : Bool) : Option Rekey :=
  match c.journal with
  | none => none
  | some (old, new, j) => match x.rekey with
    | some r => if r.new = new then some { r with journal := j } else some { old, new, pointer := j, journal := j }
    | none => if warmRecord && x.memGen == new then none else some { old, new, pointer := j, journal := j }

/-- A partition as a copy of the sealed state has it, with the dumps that the SRAM reserve keeps. -/
def SealedPart.load (c : SealedPart) (x : Partition) (warmRecord : Bool) : Partition :=
  if !c.keyed then { dumpSeq := c.dumpSeq }
  else
    let rekey := c.rekeyFrom x warmRecord
    { x with
      keyed := true, root := c.root, owner := c.owner, fabric := { c.fabric with moved := [] }, jobGens := c.jobGens, rekey
      memGen := if c.journal.isSome && rekey.isNone then x.memGen else c.memGen, dumpSeq := max c.dumpSeq x.dumpSeq }

/-- The rotations still pending are appointments again (R492). -/
def State.rearmRotations (s : State) : State :=
  s.parts.foldl (fun s r => match r.2.fabric.pending with
    | some (_, t) => if r.2.keyed then s.addAppt { kind := .keyRotation r.1 none, time := t } else s
    | none => s) s

/-- Step 5: the sealed state is loaded; without a copy that qualifies every partition starts EMPTY, with an alarm (R483). -/
def State.loadSealed (s : State) (facts : BootFacts) : State :=
  match s.fw.sealedCopy facts with
  | some c =>
    let s := if c.version = (s.fw.counters.getD 2 0).toNat then s else s.modFw fun f => f.advance 2
    let warm := facts.rekeyRecordOk && !s.fw.coldBoot
    ({ s with parts := tblMap s.parts fun p x => ((tblGet c.parts p).getD {}).load x warm } : State).rearmRotations
  | none => { s with parts := tblMap s.parts fun _ x => { dumpSeq := x.dumpSeq } }.alarmRecord 5 { unit := 1, severity := 2 }

/-- Step 5: each quadrant reserves its next epoch and starts at count 0; keys near their limit warn (R491, R493). -/
def State.nextEpochs (s : State) : State :=
  let s := s.modFw fun f => (((f.advance 3).advance 4).advance 5).advance 6
  [0, 1, 2, 3].foldl (fun s q => (s.modQuad q fun d => { d with txEpoch := s.epochCounter q, txCount := 0 }).warnKeys q) s

/-- The lines of a partition's written pages that lie in a range of LPDDR5X addresses. -/
def State.linesBetween (s : State) (p lo hi : Nat) : List Nat :=
  s.placements.flatMap fun r =>
    if r.2.live && r.2.partition == p then
      (List.range (r.2.size / 4096)).flatMap fun page =>
        let l := r.2.legs.getD (page / 512) {}
        if l.lpddr && l.written.contains (page % 512) then
          ((List.range 64).filter fun i =>
            let a := lpddrAddress s.mem.inlineEcc (l.frames.getD (page % 512) 0 * 64 + i)
            decide (lo ≤ a) && decide (a < hi)).map fun i => spaceKey p (r.2.offset + page * 4096) / 64 + i
        else []
    else []

/-- A rekey after a boot (R500): after a loss of power the new generation holds at once; a staged step is written again;
a bad record goes back to the journal and poisons the lines up to the next 8 GiB. -/
def State.resumeRekey (s : State) (cold recordOk : Bool) (p : Nat) : State :=
  match (s.part p).rekey with
  | none => s
  | some r =>
    if cold then s.endRekey p r
    else if !recordOk then
      let s := s.modMem fun m => { m with
        poisoned := m.poisoned ++ s.linesBetween p r.journal ((r.journal / 0x200000000 + 1) * 0x200000000) }
      s.modPart p fun x => { x with rekey := some { r with pointer := r.journal, staged := false } }
    else if r.staged then s.advanceRekey p r
    else s

/-- Step 7: a capture becomes its partition's dump, and the jobs it records as running owe a REJOIN beacon (R525,
R527). -/
def State.makeDump (s : State) (p : Nat) : State :=
  match (s.part p).capture with
  | none => s
  | some d =>
    let s := (s.modPart p fun x => { x with dump := some d, capture := none, dumpSeq := d.sequence }).startSeal
    (s.modFw fun f => { f with
      rejoinPending := f.rejoinPending ++ d.jobs.map fun j => (p, j.1, j.2.1, j.2.2) }).count Count.measurementChange

/-- An SRAM die whose retired regions exceed 4,096 (R112). -/
def Memory.diesOver (m : Memory) : List Nat :=
  (List.range 8).filter fun d => decide (4096 < (m.sramRetired.filter fun r => r / 65536 == d).length)

/-- Step 7: the retire map and what the self-test found (R26, R107, R111, R112): a faulted device brings up no port;
failed SRAM regions are retired, with an alarm for a die that they take beyond its limit. -/
def State.selfTest (s : State) (facts : BootFacts) : State :=
  let s := s.modFw fun f => { f with topology := facts.topology, firstSelfTest := facts.firstSelfTest }
  let s := s.modMem fun m =>
    let m := { m.loadMap facts.map0Ok facts.map1Ok with inlineEcc := facts.inlineEcc }
    let new := facts.failedRegions.filter fun r => !m.sramRetired.contains r
    { m with sramRetired := m.sramRetired ++ new, mapPending := m.mapPending ++ new.map fun r => (false, r) }
  let s := s.mem.diesOver.foldl (fun s d => s.alarmRecord 0 { unit := 0x15, unitIndex := d }) s
  if s.deviceFaulted then s else { s with ports := tblMap s.ports fun _ x => x.toDetect }

/-- Step 7: the firmware runs, and Izlis service begins once no REJOIN beacon is owed (R480, R527). -/
def State.beginService (s : State) (slot : Nat) (fallback : Bool) : State :=
  let s := s.modFw fun f => { f with
    alive := true, lastBeat := s.clk, bootClk := s.clk, awaitingBoot := false, svnServed := false, runningSlot := slot
    mode := if fallback then .fallback else .normal, failedStep := 0, serving := f.rejoinPending.isEmpty }
  if fallback then (s.alarmRecord 6 { unit := 1, severity := 1 }).count Count.bootFallback else s

/-- Steps 4 to 7 with a slot that has passed. -/
def State.bootSlot (s : State) (facts : BootFacts) (slot : Nat) (fallback : Bool) : State :=
  let cold := s.fw.coldBoot
  let s := (s.loadSealed facts).nextEpochs.selfTest facts
  let ps := s.parts.map fun r => r.1
  let s := ps.foldl (fun s p => (s.resumeRekey cold facts.rekeyRecordOk p).makeDump p) s
  s.beginService slot fallback

/-- BOOT (R475 to R483, R491, R500, R525 to R527, R557): steps 1 to 7, with what the environment decides given. -/
def execBoot (facts : BootFacts) (s : State) : Host.Outcome State Fault Refusal :=
  .next (if s.power.state = .off ∨ s.fw.awaitingBoot = false then s
    else if !facts.pufOk then s.enterRecovery 1
    else if !s.fw.configTaken facts then s.enterRecovery 2
    else
      let s := s.modFw Firmware.raiseConfig
      if slotPasses s.fw facts s.fw.selector then s.bootSlot facts s.fw.selector false
      else if slotPasses s.fw facts (1 - s.fw.selector) then s.bootSlot facts (1 - s.fw.selector) true
      else s.enterRecovery 3)

/-! ## Units (R515 to R517) -/

/-- The schedules with a running instance in a quadrant or on a sequencer: partition, job, context. -/
def State.instancesOf (s : State) (pick : Schedule → Bool) : List (Nat × Nat × Nat) :=
  (s.runningSchedules.filter fun r => pick r.2).map fun r => (r.1, r.2.header.job, r.2.header.context)

/-- The job instances in a unit. -/
def State.unitInstances (s : State) : UnitId → List (Nat × Nat × Nat)
  | .transport q => s.instancesOf fun c => c.header.landQ == q
  | .receive q => s.instancesOf fun c => c.header.landQ == q
  | .sequencer k => s.instancesOf fun c => c.sequencer == k
  | .graticule g => s.instancesOf fun c => match c.running with
    | some x => x.grat == some g
    | none => false
  | .reduction _ => []
  | .copier _ => []
  | .sram _ => []
  | .lpddr _ => []
  | .governor => []

/-- The contexts with a descriptor, step or message in a unit. -/
def State.unitContexts (s : State) : UnitId → List Nat
  | .transport q =>
    ((s.quad q).senders.map fun r => r.2.context) ++
      (s.queues.filter fun r => r.2.home == q && r.2.held.any fun d => d.phase == .started).map fun r => r.2.context
  | .receive q => ((s.quad q).copies.filter fun c => c.verified && c.pkt.route.opcode == opReadResp).map fun c => c.pkt.key.context
  | .sequencer k => match (s.seq k).running with
    | some r => [r.context]
    | none => []
  | .graticule g => match (s.grat g).job with
    | some x => [x.context]
    | none => []
  | .reduction u => (s.red u).queue.map fun x => x.context
  | .copier _ => []
  | .sram _ => []
  | .lpddr _ => []
  | .governor => []

/-- A copy between verification and commit is dropped without a reply (R517): a WRITE or COLL_DATA packet may come
again, an atomic ends as ENGINE_HUNG. -/
def State.loseCopy (s : State) (q : Nat) (c : RxCopy) : State :=
  let s := s.freeCopy q c
  if isWireAtomic c.pkt.route.opcode then
    s.modRecord q c.pkt.key fun r => { r with
      state := .failed, finalStatus := Status.engineHung, pending := r.pending.filter fun i => i != c.pkt.pktIndex }
  else
    s.modRecord q c.pkt.key fun r => { r with
      verified := r.verified &&& ~~~(w64 (2 ^ c.pkt.pktIndex)), pending := r.pending.filter fun i => i != c.pkt.pktIndex }

/-- The items in a domain's crossing: at most 16 (R513); those behind them wait for room on the sending side. -/
def State.crossing (s : State) (d : Domain) : List Wake := (s.recover.wakes.filter fun w => w.domain == d).take 16

/-- A side of a crossing resets: what is in the crossing is discarded and counted; nothing has been accepted of a
doorbell, so no operation owns it (R513, assumption log 73). -/
def State.dropCrossing (s : State) (d : Domain) : State :=
  let l := s.crossing d
  if l.isEmpty then s
  else (s.modRec fun r => { r with wakes := r.wakes.filter fun w => !l.contains w }).count Count.crossingDiscards l.length

/-- Step 4: the unit's pipeline, its crossings and its leave are reset; an arithmetic unit is wiped (R365, R516, R517). -/
def State.resetUnit (s : State) : UnitId → State
  | .transport q => ((s.endLeave (.engine q false)).dropCrossing (.engine q)).modQuad q fun d => { d with sealing := [] }
  | .receive q => (((s.quad q).copies.filter fun c => c.verified).foldl (fun s c => s.loseCopy q c)
      (s.endLeave (.engine q true))).modQuad q fun d => { d with opening := [] }
  | .sequencer k => s.modSeq k fun x => { x with running := none }
  | .graticule g =>
    ((s.endLeave (.graticule g true)).endLeave (.graticule g false)).modGrat g fun y => { y with job := none, scoring := none, wiping := true }
  | .reduction u => s.modRed u fun y => { y with queue := [], wiping := true }
  | .copier _ => s
  | .sram _ => s
  | .lpddr _ => s
  | .governor => s

/-- Set a unit's recovery record. -/
def State.setUnit (s : State) (r : Recovery) : State :=
  s.modRec fun x => { x with units := r :: x.units.filter fun y => y.unit != r.unit }

/-- Retire a unit until the next device reset: a graticule follows R363, a sequencer leaves the choices (R516). -/
def State.retireUnit (s : State) (u : UnitId) : State :=
  let s := s.setUnit { s.unitRec u with retired := true, fenced := false }
  let s := (s.modRec fun r => { r with unitRetired := true }).alarmRecord 7
    { unit := (unitCode u).1, unitIndex := (unitCode u).2, severity := 2 }
  match u with
  | .graticule g => (s.modGrat g fun y => { y with retired := true }).alarmRecord 2 { unit := 0x13, unitIndex := g, severity := 2 }
  | .sequencer k => s.modSeq k fun x => { x with retired := true }
  | .transport _ => s
  | .receive _ => s
  | .reduction _ => s
  | .copier _ => s
  | .sram _ => s
  | .lpddr _ => s
  | .governor => s

/-- Units that a second hang or a failed test never retires. -/
def neverRetired : UnitId → Bool
  | .transport _ => true
  | .receive _ => true
  | .sequencer _ => false
  | .graticule _ => false
  | .reduction _ => false
  | .copier _ => false
  | .sram _ => false
  | .lpddr _ => false
  | .governor => false

/-- A second hang within 1 s. -/
def State.hungAgain (s : State) (u : UnitId) : Bool :=
  s.recover.units.any fun r => r.unit == u && decide (s.clk ≤ r.lastHang + us 1000000)

/-- Recover a hung unit in the steps of R516. Its jobs' beacons carry ENGINE_HUNG, so they are originated before their
contexts end. -/
def State.recoverUnit (s : State) (u : UnitId) : State :=
  let again := s.hungAgain u
  let c := unitCode u
  if again && neverRetired u then s.warmReset false
  else
    let s := (s.setUnit { unit := u, fenced := true, lastHang := s.clk }).note Status.engineHung c.1 c.2 none 0 2
    let inst := s.unitInstances u
    let ctxs := s.unitContexts u ++ inst.map fun i => i.2.2
    let s := inst.foldl (fun s i => s.originate i.1 i.2.1 7) s
    let s := ctxs.foldl (fun s x => s.abortContext x (c.1 * 256 + c.2)) s
    let s := s.resetUnit u
    if again then s.retireUnit u else s

/-- Abandon the migrations of a quadrant's copier (R137, R515). -/
def State.abandonMigrations (s : State) (q : Nat) : State :=
  { s with placements := tblMap s.placements fun _ x => { x with legs := x.legs.map fun l =>
      if l.migration.isSome && l.quadrant % 4 == q then
        { l with migration := none, abandoned := l.migration, lastMove := some s.clk }
      else l } }

/-- The units whose hang is a warm reset by the watchdog table, a fatal error (R512, R515). -/
def hangIsFatal : UnitId → Bool
  | .transport _ => false
  | .receive _ => false
  | .sequencer _ => false
  | .graticule _ => false
  | .reduction _ => false
  | .copier _ => false
  | .sram _ => true
  | .lpddr _ => true
  | .governor => true

/-- A unit has hung (R515). -/
def State.unitHang (s : State) (u : UnitId) : State :=
  match u with
  | .copier q => s.abandonMigrations q
  | u => if hangIsFatal u then s.warmReset true else s.recoverUnit u

/-- A started reduction's first operand has come. -/
def State.operandsHere (s : State) (u : Nat) : Bool :=
  match (s.red u).queue with
  | [] => false
  | x :: _ => match s.flight? x.sequencer x.slot with
    | none => true
    | some f => match s.localRead (.step x.sequencer x.slot) x.partition (f.segs.getD 0 {}) x.src 0 (areaBytes x.inFmt x.count) 0 with
      | .wait _ => false
      | .bytes _ => true
      | .fail _ _ => true

/-- The pending work that the watchdog table names for a unit, which waits on nothing outside itself (R515). A memory
controller's requests are answered within the step that makes them, so the model holds none outstanding
(assumption log 79). -/
def State.unitBusy (s : State) : UnitId → Bool
  | .transport q =>
    (s.queues.any fun r => r.2.home == q && r.2.mayStart && (nextStart r.2.held).isSome)
      || (s.quad q).senders.any fun r => (s.due q r.1 r.2).isSome
  | .receive q => (s.quad q).copies.any fun c => c.verified && c.attTag.isNone
  | .sequencer k => match (s.seq k).running with
    | some r => r.waiting == .none
    | none => false
  | .graticule g => match (s.grat g).job with
    | some x => x.running && (match s.jobFlight x with
      | some (_, f) => (s.jobData x f).isSome
      | none => true)
    | none => false
  | .reduction u => !(s.red u).wiping && s.operandsHere u
  | .copier q => s.placements.any fun r => r.2.legs.any fun l => l.migration.isSome && l.quadrant % 4 == q
  | .sram _ => true
  | .lpddr _ => true
  | .governor => (s.nextGrant 0).isSome

/-- The clock of a unit's last progress event, as far as the model's commands show it (R515, assumption log 79). -/
def State.lastProgress (s : State) : UnitId → Nat
  | .transport q => maxOf ((s.queues.filter fun r => r.2.home == q).map fun r => r.2.progressClk) (s.quad q).sentClk
  | .receive q => (s.quad q).commitClk
  | .sequencer k => match (s.seq k).running with
    | some r => r.progressClk
    | none => 0
  | .graticule g => match (s.grat g).job with
    | some x => x.grantedClk
    | none => 0
  | .reduction u => (s.red u).progressClk
  | .copier q => maxOf (s.placements.flatMap fun r => r.2.legs.filterMap fun l =>
      if l.quadrant % 4 == q then l.migration.map (fun m => m.progressClk) else none) 0
  | .sram _ => 0
  | .lpddr _ => 0
  | .governor => maxOf (s.power.holders.map fun l => l.grantedClk)
      (match s.nextGrant 0 with
        | some l => l.askedClk
        | none => 0)

/-- The limit of a unit in µs (R515). -/
def hangLimit : UnitId → Nat
  | .transport _ => 1000
  | .receive _ => 100
  | .sequencer _ => 100
  | .graticule _ => 1000
  | .reduction _ => 100
  | .copier _ => 10000
  | .sram _ => 0
  | .lpddr _ => 0
  | .governor => 1000

/-- The unit has its pending work and has made no progress for its limit (R515). -/
def State.hungNow (s : State) (u : UnitId) : Bool := s.unitBusy u && decide (s.lastProgress u + us (hangLimit u) ≤ s.clk)

/-- UNIT_HUNG (R515 to R517). -/
def execUnitHung (unit : UnitId) (s : State) : Host.Outcome State Fault Refusal :=
  .next (if s.power.state = .off ∨ s.unitDown unit = true ∨ s.hungNow unit = false then s else s.unitHang unit)

/-- A unit back in service takes up what waited for it: a transport engine the rings and queues of its quadrant, a
receive pipeline its verified copies (R19). -/
def State.backInService (s : State) : UnitId → State
  | .transport q =>
    let rings := (s.rings.filter fun r => r.2.home == q).map fun r => (r.1, r.2.moves)
    let queues := (s.queues.filter fun r => r.2.home == q).map fun r => r.1
    queues.foldl (fun s n => (s.acceptAll n 64).fetchSlots n) (rings.foldl (fun s n => s.ringDrain n.1 n.2) s)
  | .receive q => s.recommitIn q
  | .sequencer _ => s
  | .graticule _ => s
  | .reduction _ => s
  | .copier _ => s
  | .sram _ => s
  | .lpddr _ => s
  | .governor => s

/-- UNIT_SELF_TEST_END (R516): a transport engine or a receive pipeline always returns to service. -/
def execUnitSelfTestEnd (unit : UnitId) (passed : Bool) (s : State) : Host.Outcome State Fault Refusal :=
  .next (if (s.unitRec unit).fenced then
      if passed || neverRetired unit then (s.setUnit { s.unitRec unit with fenced := false }).backInService unit
      else s.retireUnit unit
    else s)

/-! ## Crossings (R513, R514) -/

/-- CDC_WAKE (R514, R531, R546). -/
def execCdcWake (domain : Domain) (s : State) : Host.Outcome State Fault Refusal :=
  .next (if s.power.state = .off then s else (s.startDomain domain).stir)

/-- The operation that owned a discarded item completes with CDC_TIMEOUT. -/
def State.cdcOwnerEnds (s : State) : CdcOwner → State
  | .descriptor q i => s.cutWork q i Status.cdcTimeout 0
  | .step k index => match (s.seq k).running with
    | some r => match r.flights.find? fun f => f.index == index with
      | some f => s.endFlight k f.slot Status.cdcTimeout 0
      | none => if r.step = index then s.failStep k r Status.cdcTimeout else s
    | none => s
  | .command fn m => if (s.mbx (mbxKey fn m)).busy then s.respond (mbxKey fn m) Status.cdcTimeout 0 [] else s
  | .other => s

/-- The third timeout of a domain within 1 ms: its unit hangs, or a memory or control domain resets the device. -/
def State.domainFails (s : State) : Domain → State
  | .engine q => s.unitHang (.transport q)
  | .memory _ => s.warmReset false
  | .serdes _ => s
  | .tirmon _ => s.warmReset false

/-- The oldest item of a domain's crossing has waited its 2 µs: it is discarded and counted. -/
def State.dropOldest (s : State) (d : Domain) : State :=
  match s.recover.wakes.find? fun w => w.domain == d with
  | some w => (s.modRec fun r => { r with wakes := r.wakes.erase w }).count Count.crossingDiscards
  | none => s.count Count.crossingDiscards

/-- CDC_TIMEOUT (R513, R514): an item that has waited 2 µs is discarded, and its owner ends. -/
def execCdcTimeout (domain : Domain) (owner : CdcOwner) (s : State) : Host.Outcome State Fault Refusal :=
  .next (if s.power.state = .off ∨ (s.crossing domain).head?.any (fun (w : Wake) => decide (s.clk < w.sinceClk + us 2)) = true then s
    else
      let recent := s.recover.cdcTimeouts.filter fun t => t.1 == domain && decide (s.clk ≤ t.2 + us 1000)
      let s := ((s.dropOldest domain).note Status.cdcTimeout 0x1A 0 none 0 2).alarm 8
      let s := s.cdcOwnerEnds owner
      if 2 ≤ recent.length then
        (s.modRec fun r => { r with cdcTimeouts := r.cdcTimeouts.filter fun t => t.1 != domain }).domainFails domain
      else s.modRec fun r => { r with cdcTimeouts := (domain, s.clk) :: r.cdcTimeouts })

end Sys2Proof.Machine
end

