-- ==== Sys2Proof/Machine/Power.lean ====
section
/-!
DEFINITION. Machine/Power.lean: the input, the governor, the caps, the thermal limits, idle behaviour and the pins (R31,
R32, R511, R535 to R560).
-/

namespace Sys2Proof.Machine

/-! ## Power on and off (R535, R556, R559) -/

/-- The module enters OFF: a cold reset, with PWRGD low, THERM_ALERT_N released and the rails down (R559, R560). -/
def State.powerOff (s : State) : State :=
  let s := s.coldState.modPower fun p => { p with state := .off, pwrgd := false, throttled := false, thermalAlert := false }
  { s with hosts := resetHosts s.power }

/-- The rails come up in order and PWRGD rises: a cold reset whose boot follows (R511, R556). -/
def State.powerUp (s : State) : State :=
  let s := s.coldState.modPower fun p => { p with state := .on, pwrgd := true, pwrgdClk := s.clk }
  { s with hosts := resetHosts s.power }

/-- COLD_POWER_UP (R556): the input reaches 36 V on a module that is off and holds no trip. -/
def execColdPowerUp (s : State) : Host.Outcome State Fault Refusal :=
  .next (if s.power.state = .off ∧ s.power.tripped = false then
      s.powerUp.modPower fun p => { p with inputMv := max 36000 p.inputMv }
    else s)

/-- LOSS_OF_POWER_GOOD (R511): a rail leaves regulation. -/
def execLossOfPowerGood (s : State) : Host.Outcome State Fault Refusal :=
  .next (if s.power.state = .on then s.powerOff else s)

/-- The input is in its range. -/
def inputOk (mv : Nat) : Bool := 36000 ≤ mv && mv ≤ 50000

/-- INPUT_EXCURSION (R535): below 10 µs it is counted, from 10 µs on the module enters OFF. -/
def execInputExcursion (millivolts : Nat) (microseconds : Nat) (s : State) : Host.Outcome State Fault Refusal :=
  .next (
    let s := s.modPower fun p => { p with inputMv := millivolts }
    if s.power.state = .off ∨ inputOk millivolts = true then s
    else if microseconds < 10 then
      (s.modPower fun p => { p with excursions := p.excursions + 1 }).count Count.excursions
    else s.powerOff)

/-- INPUT_RESTORED (R535): the input has held 37.5 V to 49 V for 10 ms. -/
def execInputRestored (millivolts : Nat) (s : State) : Host.Outcome State Fault Refusal :=
  .next (
    let s := s.modPower fun p => { p with inputMv := millivolts }
    if s.power.state = .off ∧ s.power.tripped = false ∧ 37500 ≤ millivolts ∧ millivolts ≤ 49000 then s.powerUp else s)

/-! ## Leave (R538 to R543) -/

/-- A granted operation starts. -/
def State.startGranted (s : State) : LeaveFor → State
  | .graticule g _ => s.modGrat g fun y => { y with job := y.job.map fun x => { x with running := true, grantedClk := s.clk } }
  | .lanes port _ => s.lanesGranted port
  | .engine _ _ => s.sealWaiting
  | .rekey _ => s
  | .selfTest _ => s

/-- LEAVE_GRANT (R32, R538 to R541): the request whose turn it is, where it fits the input measured over 10 µs, in
milliwatts. -/
def execLeaveGrant (measured10us : Nat) (s : State) : Host.Outcome State Fault Refusal :=
  .next (match s.nextGrant measured10us with
    | some l => (s.takeGrant l).startGranted l.purpose
    | none => s)

/-- Mark a request as recorded. -/
def markWait (id : Nat) (l : List Leave) : List Leave := l.map fun x => if x.id == id then { x with recorded := true } else x

/-- NO_LEAVE (R542): a request that has waited more than 100 µs is recorded once. -/
def execNoLeave (request : Nat) (s : State) : Host.Outcome State Fault Refusal :=
  .next (match (s.power.firstQueue ++ s.power.secondQueue).find? fun l => l.id == request with
    | none => s
    | some l =>
      if l.recorded || decide (s.clk ≤ l.askedClk + us 100) then s
      else (s.modPower fun p => { p with
          waits := min 0xFFFF (p.waits + 1)
          firstQueue := markWait request p.firstQueue, secondQueue := markWait request p.secondQueue }).note
            Status.noLeave 0x1B (leaveQuadrant l.purpose))

/-- POWER_AVERAGE_UPDATE (R540, R549): the mean measured input of 1 ms, in milliwatts, enters the average and the
energy. -/
def execPowerAverageUpdate (milliwatts : Nat) (s : State) : Host.Outcome State Fault Refusal :=
  .next (if s.power.state = .off then s
    else s.modPower fun p =>
      let e := p.energyFrac + milliwatts
      { p with
        avg1s := (p.avg1s * 999 + milliwatts) / 1000, last1ms := milliwatts
        energy := p.energy + w64 (e / 1000), energyFrac := e % 1000 })

/-- BACKSTOP (R543): the measured input of 100 µs exceeds cap_1ms. -/
def execBackstop (milliwatts : Nat) (s : State) : Host.Outcome State Fault Refusal :=
  .next (if s.power.state = .on ∧ s.power.cap s.power.cap1ms < milliwatts ∧ s.power.backstop = false then
      s.modPower fun p => { p with backstop := true, backstops := min 0xFFFF (p.backstops + 1) }
    else s)

/-- BACKSTOP_RELEASE (R543): the measured input is below cap_1ms − 20 W. -/
def execBackstopRelease (milliwatts : Nat) (s : State) : Host.Outcome State Fault Refusal :=
  .next (if milliwatts + 20000 < s.power.cap s.power.cap1ms then s.modPower fun p => { p with backstop := false } else s)

/-! ## Caps (R544, R549, R555) -/

/-- The nearer limit of a range. -/
def clamp (lo hi n : Nat) : Nat := min hi (max lo n)

/-- Store both caps. -/
def Power.setCaps (p : Power) (value : Nat) : Power :=
  { p with cap1ms := clamp 400 1000 (bits value 31 16), capSus := clamp 300 850 (bits value 15 0) }

/-- PWR_CAP_WRITE (R544, R549): PF0 and PF1 alone have the register. -/
def execPwrCapWrite (fn : Nat) (value : W32) (s : State) : Host.Outcome State Fault Refusal :=
  .next (if isPf fn && s.mmioOk fn then s.modPower fun p => p.setCaps value.toNat else s)

/-- CAP_EFFECTER (R544, R555): the BMC sets one cap. -/
def execCapEffecter (sustained : Bool) (watts : Nat) (s : State) : Host.Outcome State Fault Refusal :=
  .next (if s.sideband then
      s.modPower fun p =>
        if sustained then { p with capSus := clamp 300 850 watts } else { p with cap1ms := clamp 400 1000 watts }
    else s)

/-! ## Thermal limits (R545, R547) -/

/-- The warning, throttle and trip limits of a measurement, in °C. -/
def Power.limits (p : Power) : Thermal → Nat × Nat × Nat
  | .die _ => (p.warn, 100, 110)
  | .lpddr => (85, 95, 105)
  | .stage => (105, 115, 125)

/-- A reading of a package die. -/
def dieOf : Thermal → Option Nat
  | .die n => some n
  | .lpddr => none
  | .stage => none

/-- The hottest die reading and its die; the lowest-numbered die where two are equal. -/
def hottestOf (l : List (Thermal × Nat)) : Nat × Nat :=
  l.foldl (fun b r => match dieOf r.1 with
    | some n => if b.1 < r.2 || (b.1 == r.2 && n < b.2) then (r.2, n) else b
    | none => b) (0, 0)

/-- Keep the readings and what PWR_TEMP shows of them. -/
def Power.setReadings (p : Power) (l : List (Thermal × Nat)) : Power :=
  { p with readings := l, hottest := (hottestOf l).1, hottestDie := (hottestOf l).2 }

/-- Take a reading. -/
def Power.read (p : Power) (what : Thermal) (celsius : Nat) : Power :=
  p.setReadings ((what, celsius) :: p.readings.filter fun r => r.1 != what)

/-- THERMAL_WARNING (R547): the record has severity 0; LPDDR5X refreshes twice as often. -/
def execThermalWarning (what : Thermal) (celsius : Nat) (s : State) : Host.Outcome State Fault Refusal :=
  .next (if s.power.state = .on ∧ (s.power.limits what).1 ≤ celsius then
      let s := s.modPower fun p => { p.read what celsius with
        thermalAlert := true, refreshDoubled := p.refreshDoubled || what == .lpddr }
      let (v, s) := s.draw
      s.log { status := Status.pick v, unit := 0x1B, severity := 0, info := w64 celsius }
    else s)

/-- THERMAL_THROTTLE (R545, R547). -/
def execThermalThrottle (what : Thermal) (celsius : Nat) (s : State) : Host.Outcome State Fault Refusal :=
  .next (if s.power.state = .on ∧ (s.power.limits what).2.1 ≤ celsius then
      s.modPower fun p => { p.read what celsius with throttled := true }
    else s)

/-- THERMAL_TRIP (R547, R559): the module is off until the input has been below 20 V for 1 s. -/
def execThermalTrip (what : Thermal) (celsius : Nat) (s : State) : Host.Outcome State Fault Refusal :=
  .next (if s.power.state = .on ∧ (s.power.limits what).2.2 ≤ celsius then
      (s.modPower fun p => { p.read what celsius with tripped := true }).powerOff
    else s)

/-- THERMAL_TRIP_RELEASE (R547): the module may restart under R535. -/
def execThermalTripRelease (s : State) : Host.Outcome State Fault Refusal :=
  .next (if s.power.state = .off then s.modPower fun p => { p with tripped := false } else s)

/-- Readings as an event that says they have fallen leaves them: at most `limit` less 5 °C. -/
def Power.cooled (p : Power) (pick : Thermal → Bool) (limit : Thermal → Nat) : Power :=
  p.setReadings (p.readings.map fun r => if pick r.1 then (r.1, min r.2 (limit r.1 - 5)) else r)

/-- THROTTLE_EXIT (R545): every die has been 5 °C below its throttle limit for 100 ms. -/
def execThrottleExit (s : State) : Host.Outcome State Fault Refusal :=
  .next (if s.power.state = .on ∧ s.power.throttled = true then
      s.modPower fun p => { p.cooled (fun t => (dieOf t).isSome) (fun t => (p.limits t).2.1) with throttled := false }
    else s)

/-- THERM_ALERT_RELEASE (R547): every reading is 5 °C below its warning limit. -/
def execThermAlertRelease (s : State) : Host.Outcome State Fault Refusal :=
  .next (if s.power.state = .on ∧ s.power.thermalAlert = true then
      s.modPower fun p => { p.cooled (fun _ => true) (fun t => (p.limits t).1) with
        thermalAlert := false, refreshDoubled := false }
    else s)

/-! ## Idle behaviour and Atlas's choices (R31, R546) -/

/-- QUADRANT_IDLE (R546): with no work for 10 µs, since its last copy and its last start, the quadrant's engine clock
stops. -/
def execQuadrantIdle (q : Nat) (s : State) : Host.Outcome State Fault Refusal :=
  .next (if q < 4 ∧ s.quadrantBusy q = false ∧ (s.quad q).clockStopped = false ∧
        maxOf [(s.quad q).sentClk, (s.quad q).commitClk] (s.quad q).idleSince + us 10 ≤ s.clk then
      (s.modQuad q fun d => { d with clockStopped := true, idleSince := s.clk }).modRec fun r => { r with
        stopped := .engine q :: r.stopped }
    else s)

/-- CHANNEL_POWER_DOWN (R546): a channel without a request for 2 µs. -/
def execChannelPowerDown (c : Nat) (s : State) : Host.Outcome State Fault Refusal :=
  .next (if c < 32 ∧ s.mem.channelsDown.contains c = false ∧ tblGetD s.mem.channelUse c 0 + us 2 ≤ s.clk then
      s.modMem fun m => { m with channelsDown := c :: m.channelsDown }
    else s)

/-- A job that has not started may move to graticule `h`: its kernel has bound none, and `h` is free (R31, R377). -/
def State.mayMove (s : State) (x : GratJob) (h : Nat) : Bool :=
  match s.kernel? x.sequencer with
  | some r => !x.running && r.bound.isNone && s.gratOk x.sequencer r h
  | none => false

/-- A job that has not started moves to another graticule: it gives back what it asked for and asks leave there, after a
wipe where that graticule comes from another partition (R31, R33, R352). -/
def State.moveJob (s : State) (g h : Nat) : State :=
  match (s.grat g).job with
  | none => s
  | some x =>
    if !s.mayMove x h then s
    else
      let half := halfRate x.record.aFmt x.record.wFmt
      let wipe := (s.grat h).owned && (s.grat h).partition != x.partition
      let s := (s.endLeave (.graticule g half)).modGrat g fun y => { y with job := none }
      let s := s.modGrat h fun y => { y with owned := true, job := some x, wiping := wipe }
      if wipe then s else (s.modGrat h fun y => { y with partition := x.partition }).askLeave (.graticule h half)

/-- Atlas picks other ports for the peers of a schedule (R31, R398). -/
def State.repick (s : State) (p : Nat) (id : W32) (ports : List Nat) : State :=
  s.modSchedule p id fun c => { c with
    ports := (c.header.others.map fun r => s.portsFor c.header.landQ ports (c.members.getD r (0, 0)).1).flatten.eraseDups }

/-- ATLAS_CHOICE_CHANGE (R31): an unpinned choice changes; a home quadrant as QUE_CONFIG.home and CMP_CONFIG.home
record. -/
def execAtlasChoiceChange (choice : AtlasChoice) (s : State) : Host.Outcome State Fault Refusal :=
  .next (match choice with
    | .queueHome q home => s.modQueue q fun x => if x.pinHome || decide (4 ≤ home) then x else { x with home }
    | .ringHome r home => s.modRing r fun x => if x.pinHome || decide (4 ≤ home) then x else { x with home }
    | .graticule g h => s.moveJob g h
    | .portSet p id ports => s.repick p id ports)

/-! ## Pins (R550, R554, R558) -/

/-- PERST_N_DEASSERTION (R558): with PWRGD high the port becomes ready for link training. -/
def execPerstNDeassertion (port : Nat) (s : State) : Host.Outcome State Fault Refusal :=
  .next (if port < 2 then
      (s.modPower fun p => p.setPerst port true).modHost port fun h => { h with ready := h.ready || s.power.pwrgd }
    else s)

/-- FLASH_WP_N_CHANGE (R554). -/
def execFlashWpNChange (high : Bool) (s : State) : Host.Outcome State Fault Refusal :=
  .next (s.modPower fun p => { p with flashWpN := high })

end Sys2Proof.Machine
end

