-- ==== Sys2Proof/Machine/Registers.lean ====
section
/-!
DEFINITION. Machine/Registers.lean: what every register of the blocks of R567 reads as, by function and offset, and what
a read clears (R6 to R10, R178, R416, R450).
-/

namespace Sys2Proof.Machine

/-- The register blocks of R567. -/
inductive Block where
  | fn
  | mbx
  | msix
  | pwr
  | eth
  | txs
  | fab
  | grt
  | ksq
  | que
  | cmp
  | svy
  | mer
  deriving DecidableEq, Repr

/-- The block that a BAR0 offset of a function lies in, and the offset within it (R416, R567). -/
def blockOf (fn o : Nat) : Option (Block × Nat) :=
  if 0x400000 ≤ o then (if o < 0x401000 then some (.mer, o - 0x400000) else none)
  else if 0x200000 ≤ o then some (.svy, o - 0x200000)
  else if 0x180000 ≤ o then some (.cmp, o - 0x180000)
  else if 0x100000 ≤ o then some (.que, o - 0x100000)
  else if 0x20000 ≤ o ∧ o < 0x30000 then some (.msix, o - 0x20000)
  else if 0x10000 ≤ o ∧ o < 0x20000 then some (.mbx, o - 0x10000)
  else if o < 0x10000 then some (.fn, o)
  else if !isPf fn then none
  else if 0xE0000 ≤ o then some (.ksq, o - 0xE0000)
  else if 0xC0000 ≤ o then some (.grt, o - 0xC0000)
  else if 0xA0000 ≤ o then some (.fab, o - 0xA0000)
  else if 0x80000 ≤ o then some (.txs, o - 0x80000)
  else if 0x60000 ≤ o then some (.eth, o - 0x60000)
  else if 0x50000 ≤ o then some (.pwr, o - 0x50000)
  else none

/-- A register as read: its width in bytes and its value. -/
abbrev Reg := Option (Nat × Nat)

/-- A field at a bit position. -/
def at' (lo v : Nat) : Nat := v * 2 ^ lo

/-- A flag at a bit position. -/
def flag (lo : Nat) (b : Bool) : Nat := at' lo (b2n b)

/-! ## FN_, MBX_, MSI-X -/

/-- FN_FUNC_STATUS (R418). -/
def State.funcStatus (s : State) (fn : Nat) : Nat :=
  let f := s.func fn
  at' 24 f.generation.toNat + at' 16 (fn % 256) + at' 8 (fnPort fn) + at' 4 f.tdisp
    + flag 3 (s.host (fnPort fn)).retraining + flag 0 f.quiescing

/-- FN_HDM: under CXL.mem the length is the decoder's (R426). -/
def HostPort.hdmRegister (h : HostPort) : Nat :=
  at' 32 h.hdmHandle.toNat + flag 11 h.cxlMem + (if h.cxlMem && !h.decoder then 0 else h.hdmLength)

/-- FN_P2P[a]. -/
def P2P.register (x : P2P) : Nat := x.base.toNat + flag 1 x.failed + flag 0 x.enable

/-- The FN_ block (R25, R26, R418); on a VF the registers of a PF read zero. -/
def State.readFn (s : State) (fn o : Nat) : Reg :=
  let h := s.host (fnPort fn)
  if o = 0 then some (4, 0x00054700)
  else if o = 4 then some (4, 0x00022000)
  else if o = 8 then some (4, s.fw.topology.toNat)
  else if o = 0x10 then some (4, s.funcStatus fn)
  else if !isPf fn then none
  else if o = 0x18 then some (8, at' 32 h.retrains.toNat + heldBytes h.held)
  else if o = 0x20 then some (8, h.hdmRegister)
  else if o = 0x28 then some (8, at' 12 h.biasPage)
  else if o = 0x30 then some (4, flag 30 h.biasTarget + h.biasPages)
  else if o = 0x34 then some (4, flag 1 h.rangeError + flag 0 h.biasJob.isSome)
  else if 0x100 ≤ o ∧ o < 0x180 ∧ o % 16 = 0 then some (8, (tblGetD h.p2p ((o - 0x100) / 16) {}).register)
  else none

/-- MBX_SESSION. -/
def State.mbxSession (s : State) (fn k : Nat) : Nat :=
  let f := s.func fn
  flag 15 s.deviceFaulted + flag 14 (isPf fn) + flag 13 f.bound.isSome + at' 8 (f.bound.getD 0) + (s.mbx k).version

/-- MBX_STATUS. -/
def State.mbxStatus (s : State) (k : Nat) : Nat :=
  let x := s.mbx k
  at' 16 s.fw.heartbeat.toNat + flag 4 s.fw.alive + flag 3 x.restarted + flag 2 x.overrun + flag 1 x.done + flag 0 x.busy

/-- The mailboxes a function presents (R38). -/
def mailboxesOf (fn : Nat) : Nat := if isPf fn then 4 else 1

/-- The MBX_ block (R38, R40). -/
def State.readMbx (s : State) (fn o : Nat) : Reg :=
  let m := o / 0x400
  let r := o % 0x400
  let k := mbxKey fn m
  let x := s.mbx k
  if mailboxesOf fn ≤ m then none
  else if r = 0 then some (8, x.cmd.toNat)
  else if r = 8 then some (4, 0)
  else if r = 0x10 then some (8, x.resp.toNat)
  else if r = 0x18 then some (4, s.mbxStatus k)
  else if r = 0x1C then some (4, flag 31 x.intEnable + x.intVector)
  else if r = 0x20 then some (4, s.mbxSession fn k)
  else if 0x100 ≤ r ∧ r < 0x200 ∧ r % 8 = 0 then some (8, if x.busy then 0 else x.arg ((r - 0x100) / 8))
  else none

/-- The pending bits of 64 vectors. -/
def Func.pbaWord (f : Func) (i : Nat) : Nat := (f.pba.filter fun v => v / 64 == i).foldl (fun a v => a + 2 ^ (v % 64)) 0

/-- Where a function's PBA begins within its MSI-X block (R416). -/
def pbaBase (fn : Nat) : Nat := if isPf fn then 0x8000 else 0x400

/-- One dword of an MSI-X table entry. -/
def MsixEntry.dword (e : MsixEntry) (i : Nat) : Nat :=
  if i = 0 then e.addr.toNat % 2 ^ 32 else if i = 1 then e.addr.toNat / 2 ^ 32 else if i = 2 then e.data.toNat
  else b2n e.masked

/-- The MSI-X table and the PBA (R416, R417), dword by dword. -/
def State.readMsix (s : State) (fn o : Nat) : Reg :=
  let f := s.func fn
  if o < msixCount fn * 16 ∧ o % 4 = 0 then some (4, (tblGetD f.msix (o / 16) {}).dword (o % 16 / 4))
  else if pbaBase fn ≤ o ∧ o < pbaBase fn + msixCount fn / 8 ∧ o % 8 = 0 then some (8, f.pbaWord ((o - pbaBase fn) / 8))
  else none

/-! ## PWR_, ETH_, TXS_, FAB_ -/

/-- A cap is below its default (R545). -/
def Power.capped (p : Power) : Bool := p.capSus < 850 || p.cap1ms < 1000

/-- PWR_STATUS (R549). -/
def Power.statusRegister (p : Power) : Nat :=
  at' 16 (p.inputMv / 10 % 65536) + flag 5 p.thermalAlert + flag 4 p.backstop + flag 3 p.throttled + flag 2 p.capped
    + (if p.throttled then 2 else if p.capped then 1 else 0)

/-- The PWR_ block (R549); powers read in whole watts. -/
def State.readPwr (s : State) (o : Nat) : Reg :=
  let p := s.power
  if o = 0 then some (4, p.statusRegister)
  else if o = 4 then some (4, at' 16 p.cap1ms + p.capSus)
  else if o = 8 then some (4, at' 16 (p.avg1s / 1000) + p.last1ms / 1000)
  else if o = 0xC then some (4, at' 24 (p.hottest % 256) + at' 20 (p.hottestDie % 16) + p.warn)
  else if o = 0x10 then some (8, p.energy.toNat)
  else if o = 0x18 then some (8, at' 32 p.grants.toNat + at' 16 p.waits + p.backstops)
  else none

/-- The Ethernet registers of a port; one not in Ethernet mode reads as reset (R449). -/
def State.ethView (s : State) (port : Nat) : EthPort := if s.isEth port then (s.port port).eth else {}

/-- ETH_GATE. -/
def EthPort.gateRegister (x : EthPort) : Nat := flag 2 x.swapPending + flag 1 x.pending.isSome + flag 0 x.active.isSome

/-- The ETH_ block (R449). -/
def State.readEth (s : State) (o : Nat) : Reg :=
  let port := o / 0x100
  let r := o % 0x100
  let x := s.ethView port
  if 32 ≤ port then none
  else if r = 0 then some (4, at' 18 x.maxFrame + at' 10 x.pfcHonour.toNat + at' 2 x.ptpDomain.toNat + x.ptpTransport)
  else if r = 8 then some (8, at' 48 x.mac + portMac port)
  else if r = 0x10 then some (8, x.router.toNat)
  else if r = 0x18 then some (4, x.ip4.toNat)
  else if r = 0x20 then some (8, x.ip6lo.toNat)
  else if r = 0x28 then some (8, x.ip6hi.toNat)
  else if r = 0x30 then some (4, x.gateRegister)
  else if r = 0x38 then some (8, x.cycleStart (s.mtPort port))
  else if 0x40 ≤ r ∧ r < 0x90 ∧ r % 8 = 0 then some (8, (x.counters.getD ((r - 0x40) / 8) 0).toNat)
  else none

/-- The TXS_ block (R283). -/
def State.readTxs (s : State) (o : Nat) : Reg :=
  let t := s.txs
  if o = 0 then some (4, at' 27 t.mdFloor + at' 24 t.beta + at' 16 t.ai + t.targetSlack)
  else if o = 4 then some (4, at' 16 t.minRate + t.initRate)
  else if o = 8 then some (4, at' 24 t.deflEcho + at' 16 t.markUtil + t.increasePeriod)
  else if 0x100 ≤ o ∧ o < 0x180 ∧ o % 4 = 0 then some (4, (s.port ((o - 0x100) / 4)).overhead)
  else none

/-- The code of a port state. -/
def PortState.code : PortState → Nat
  | .down => 0
  | .detect => 1
  | .train => 2
  | .align => 3
  | .config => 4
  | .session => 5
  | .active => 6
  | .masked => 7

/-- The code of a width: 0 none, 1 one lane, 2 two, 3 four. -/
def laneCode (lanes : Nat) : Nat := if lanes = 0 then 0 else if lanes = 1 then 1 else if lanes = 2 then 2 else 3

/-- FAB_PORT_STATUS. -/
def Port.statusRegister (x : Port) : Nat :=
  at' 16 x.neighbour.toNat + flag 12 x.mplMismatch + flag 11 x.modeMismatch + flag 10 x.neighbourChanged
    + at' 8 (laneCode x.width) + at' 4 x.mode + x.state.code

/-- The code of an attach state. -/
def AttState.code : AttState → Nat
  | .none => 0
  | .session => 1
  | .up => 2
  | .configError => 3
  | .reset => 4

/-- FAB_CHART. -/
def Charts.register (c : Charts) : Nat :=
  flag 3 c.pendingBank + flag 2 c.swapPending + flag 1 c.retained + flag 0 c.active

/-- FAB_PORT registers of a port. -/
def Port.fabRegister (x : Port) (r : Nat) : Reg :=
  if r = 0 then some (4, x.statusRegister)
  else if r = 4 then some (4, x.minWidth)
  else if r = 8 then some (8, at' 48 x.uncorrectable + at' 32 x.crcErrors + at' 16 x.aborted + x.downEvents)
  else if r = 0x10 then some (8, at' 32 x.deflected.toNat + at' 16 x.hopLimit + x.noRoute)
  else none

/-- The FAB_ block (R317). -/
def State.readFab (s : State) (o : Nat) : Reg :=
  if o = 0 then some (4, (s.chart 0).register)
  else if o = 8 then some (8, (s.chart 0).retainEnd.toNat)
  else if o = 0x10 then some (4, at' 24 s.cfg.widenUtil + at' 16 s.cfg.narrowUtil + s.cfg.narrowWindow)
  else if 0x100 ≤ o ∧ o < 0x500 then (s.port ((o - 0x100) / 0x20)).fabRegister ((o - 0x100) % 0x20)
  else if 0x600 ≤ o ∧ o < 0x680 then
    let x := s.accel ((o - 0x600) / 0x10)
    if o % 16 = 0 then some (8, at' 48 x.partitions.toNat + at' 32 x.endpoint.toNat + x.ports.toNat)
    else if o % 16 = 8 then some (4, at' 24 x.generation.toNat + at' 16 x.rejects + x.state.code)
    else none
  else none

/-! ## GRT_, RDU_, KSQ_ -/

/-- Bits of graticules that a test picks. -/
def State.gratBits (s : State) (pick : Graticule → Bool) : Nat :=
  ((List.range 8).map fun g => flag g (pick (s.grat g))).sum

/-- GRT_STATE. -/
def Graticule.stateRegister (y : Graticule) : Nat :=
  at' 20 y.partition + flag 19 y.owned + at' 8 (match y.job with
    | some x => x.sequencer
    | none => if y.scoring.isSome then y.boundTo.getD 0 else 0)
    + flag 2 y.bank + flag 1 y.wiping + flag 0 (y.job.isSome || y.scoring.isSome)

/-- GRT_COUNT. -/
def Graticule.countRegister (y : Graticule) : Nat :=
  at' 32 y.jobs.toNat + at' 24 y.checkFailed + at' 16 y.retryOk + at' 8 y.skipped + at' 4 y.invalidCount + y.overflowCount

/-- RDU_STATE. -/
def RedUnit.stateRegister (y : RedUnit) : Nat :=
  at' 20 y.partition + flag 19 y.owned + at' 2 y.mode + flag 1 y.wiping + flag 0 (!y.queue.isEmpty)

/-- RDU_COUNT. -/
def RedUnit.countRegister (y : RedUnit) : Nat := at' 32 y.reductions.toNat + at' 16 y.invalidCount + y.overflowCount

/-- The GRT_ block (R367). -/
def State.readGrt (s : State) (o : Nat) : Reg :=
  if o = 0 then some (4, at' 8 s.cfg.fpTol + flag 1 s.cfg.forceCheck + flag 0 s.cfg.retry)
  else if o = 4 then some (4, at' 8 (s.gratBits fun y => y.suspect) + s.gratBits fun y => y.retired)
  else if 0x100 ≤ o ∧ o < 0x180 then
    let y := s.grat ((o - 0x100) / 0x10)
    if o % 16 = 0 then some (4, y.stateRegister) else if o % 16 = 8 then some (8, y.countRegister) else none
  else if 0x200 ≤ o ∧ o < 0x280 then
    let y := s.red ((o - 0x200) / 0x10)
    if o % 16 = 0 then some (4, y.stateRegister) else if o % 16 = 8 then some (8, y.countRegister) else none
  else none

/-- A schedule runs on the sequencer. -/
def State.instanceOn (s : State) (k : Nat) : Bool := s.runningSchedules.any fun r => r.2.sequencer == k

/-- KSQ_STATE (R410). -/
def State.ksqState (s : State) (k : Nat) : Nat :=
  let x := s.seq k
  at' 20 x.partition + flag 19 x.owned + flag 18 x.reservedBy.isSome + at' 8 (x.kernelId % 256)
    + at' 2 (match x.running with
      | some r => (r.flights.filter fun f => isAsync f.step.op f.step.sub).length % 64
      | none => 0) + flag 1 x.wiping + flag 0 (x.running.isSome || s.instanceOn k)

/-- The KSQ_ block (R410). -/
def State.readKsq (s : State) (o : Nat) : Reg :=
  let x := s.seq (o / 16)
  if 0x400 ≤ o then none
  else if o % 16 = 0 then some (4, s.ksqState (o / 16))
  else if o % 16 = 8 then some (8, at' 32 x.ended.toNat + at' 16 x.failed + x.timeouts)
  else none

/-! ## QUE_, CMP_ -/

/-- The code of a queue state. -/
def QState.code : QState → Nat
  | .active => 0
  | .suspended => 1
  | .paused => 2
  | .error => 3
  | .draining => 4

/-- The slot of an offset in a QUE_ or CMP_ block: a VF presents 256 slots (R177, R416). -/
def slotAt (fn o : Nat) : Option (Nat × Nat) :=
  if o / 0x40 < (if isPf fn then 8192 else 256) then some (o / 0x40, o % 0x40) else none

/-- A register of a send queue (R214). -/
def State.queRegister (s : State) (n : Nat) (q : Queue) (r : Nat) : Reg :=
  if r = 0 then some (4, q.producer.toNat)
  else if r = 4 then some (4, q.consumer.toNat)
  else if r = 8 then some (4, at' 16 q.errorStatus + flag 11 (s.ringStalled n q) + at' 4 q.held.length
    + flag 3 q.badDoorbell + q.state.code)
  else if r = 0xC then some (4, flag 0 q.suspend)
  else if r = 0x10 then some (8, q.base.toNat)
  else if r = 0x18 then some (4, at' 18 q.log2 + at' 16 q.version + flag 15 q.pinHome + at' 13 q.home + q.ring)
  else if r = 0x1C then some (4, at' 16 q.weight + q.burst)
  else if r = 0x20 then some (4, q.completed.toNat)
  else if r = 0x24 then some (4, at' 12 q.contextGen.toNat + q.context)
  else none

/-- The QUE_ block: a slot without a live queue of the function reads zero (R178). -/
def State.readQue (s : State) (fn o : Nat) : Reg :=
  match slotAt fn o with
  | none => none
  | some (slot, r) => match s.slotQueue fn slot with
    | none => none
    | some n => match s.queue? n with
      | none => none
      | some q => s.queRegister n q r

/-- A register of a completion ring (R214). -/
def Ring.register (x : Ring) (r : Nat) : Reg :=
  if r = 0 then some (4, x.producer.toNat)
  else if r = 4 then some (4, x.consumer.toNat)
  else if r = 8 then some (4, at' 16 x.overflow.length + flag 2 x.stalled + flag 1 x.badConsumer + flag 0 x.ringFull)
  else if r = 0xC then some (4, flag 0 x.armed)
  else if r = 0x10 then some (8, x.base.toNat)
  else if r = 0x18 then some (4, at' 15 x.log2 + flag 14 x.pinHome + at' 12 x.home + flag 11 x.intEnable + x.vector)
  else if r = 0x1C then some (4, at' 16 x.holdoff + x.count)
  else none

/-- The CMP_ block (R178). -/
def State.readCmp (s : State) (fn o : Nat) : Reg :=
  match slotAt fn o with
  | none => none
  | some (slot, r) => match s.slotRing fn slot with
    | none => none
    | some n => match s.ring? n with
      | none => none
      | some x => x.register r

/-! ## SVY_, MER_ -/

/-- A log record as the ring holds it (R529). -/
def LogRecord.bytes (r : LogRecord) : List Byte :=
  leBytes 8 r.info.toNat
    ++ leBytes 8 (at' 56 r.unit + at' 48 r.unitIndex + at' 44 (r.partition.getD 0) + flag 43 r.partition.isSome
      + at' 40 r.severity + at' 28 r.context + at' 20 r.contextGen)
    ++ leBytes 8 (at' 32 r.sequence.toNat + at' 16 r.status + r.detail)
    ++ leBytes 8 r.time.toNat

/-- The partition whose part of Survey a VF sees. -/
def State.svyPart (s : State) (fn : Nat) : Option Nat := (s.func fn).bound

/-- The log that a function sees, newest first, and its ring size (R528). -/
def State.svyLog (s : State) (fn : Nat) : List LogRecord × Nat × Nat :=
  if isPf fn then (s.survey.log, 4096, s.survey.producer.toNat)
  else match s.svyPart fn with
    | some p => ((s.part p).log, 256, (s.part p).logProducer.toNat)
    | none => ([], 256, 0)

/-- The alarms that a function sees: on a VF bits 3 and 4 of its partition (R528). -/
def State.svyAlarms (s : State) (fn : Nat) : Nat :=
  if isPf fn then s.survey.alarms.toNat
  else match s.svyPart fn with
    | some p => ((s.part p).alarms &&& 0x18#9).toNat
    | none => 0

/-- A dword of the log ring: the record in a place of the ring is the newest whose number falls there. -/
def State.logDword (s : State) (fn o : Nat) : Nat :=
  let (l, size, _) := s.svyLog fn
  match l.find? fun r => r.sequence.toNat % size == o / 32 with
  | some r => field r.bytes (o % 32) 4
  | none => 0

/-- The SVY_ window (R416, R528). -/
def State.readSvy (s : State) (fn o : Nat) : Reg :=
  let (_, size, producer) := s.svyLog fn
  if o = 0 then some (4, s.survey.newEpochUs.getD s.survey.epochUs)
  else if o = 4 then some (4, s.svyAlarms fn)
  else if o = 8 then some (8, s.survey.epoch.toNat)
  else if o = 0x10 then some (4, producer)
  else if 0x1000 ≤ o ∧ o < 0x1000 + size * 32 ∧ o % 4 = 0 then some (4, s.logDword fn (o - 0x1000))
  else if 0x40000 ≤ o ∧ o % 4 = 0 then some (4, field (s.snapshotObject fn) (o - 0x40000) 4)
  else none

/-- MER_STATE. -/
def Meridian.stateRegister (m : Meridian) : Nat :=
  at' 16 m.estOffset + at' 11 m.port + at' 8 m.source + flag 7 m.sourceSet + m.lock.code

/-- MER_EVENTS. -/
def Meridian.eventsRegister (m : Meridian) : Nat :=
  flag 4 m.stepped + flag 3 m.sourceLost + flag 2 m.enteredUnlocked + flag 1 m.enteredDegraded + flag 0 m.enteredLocked

/-- The MER_ block (chapter 03). -/
def State.readMer (s : State) (o : Nat) : Reg :=
  let m := s.mer
  if o = 0 then some (8, m.now.toNat)
  else if o = 8 then some (4, m.stateRegister)
  else if o = 0xC then some (4, m.window.toNat)
  else if o = 0x10 then some (4, flag 31 m.ppsEnable + m.driftBound)
  else if o = 0x14 then some (4, m.eventsRegister)
  else if o = 0x18 then some (8, m.preset.toNat)
  else if o = 0x20 then some (8, m.epochTai.toNat)
  else none

/-! ## Any register -/

/-- The register at an offset of a block. -/
def State.readBlock (s : State) (fn o : Nat) : Block → Reg
  | .fn => s.readFn fn o
  | .mbx => s.readMbx fn o
  | .msix => s.readMsix fn o
  | .pwr => s.readPwr o
  | .eth => s.readEth o
  | .txs => s.readTxs o
  | .fab => s.readFab o
  | .grt => s.readGrt o
  | .ksq => s.readKsq o
  | .que => s.readQue fn o
  | .cmp => s.readCmp fn o
  | .svy => s.readSvy fn o
  | .mer => s.readMer o

/-- The register that begins at a BAR0 offset of a function. -/
def State.reg (s : State) (fn o : Nat) : Reg :=
  match blockOf fn o with
  | some (b, r) => s.readBlock fn r b
  | none => none

/-- The value of a 32-bit register; nothing there reads zero. -/
def State.reg32 (s : State) (fn o : Nat) : Nat :=
  match s.reg fn o with
  | some (4, v) => v
  | _ => 0

/-! ## What a read clears (R6, R450) -/

/-- Clear the counters of a port's FAB_ registers. -/
def Port.clearFab (x : Port) (r : Nat) : Port :=
  if r = 8 then { x with uncorrectable := 0, crcErrors := 0, aborted := 0, downEvents := 0 }
  else if r = 0x10 then { x with deflected := 0, hopLimit := 0, noRoute := 0 }
  else x

/-- Clear the RC fields of the register at an offset of a block. -/
def State.clearBlock (s : State) (fn o : Nat) : Block → State
  | .fn => if isPf fn && o == 0x18 then s.modHost (fnPort fn) fun h => { h with retrains := 0 } else s
  | .pwr => if o = 0x18 then s.modPower fun p => { p with grants := 0, waits := 0, backstops := 0 } else s
  | .eth =>
    if 0x40 ≤ o % 0x100 ∧ o % 0x100 < 0x90 ∧ s.isEth (o / 0x100) = true then
      s.modPort (o / 0x100) fun x => { x with eth := { x.eth with counters := x.eth.counters.set ((o % 0x100 - 0x40) / 8) 0 } }
    else s
  | .fab =>
    if 0x100 ≤ o ∧ o < 0x500 then s.modPort ((o - 0x100) / 0x20) fun x => x.clearFab ((o - 0x100) % 0x20)
    else if 0x600 ≤ o ∧ o < 0x680 ∧ o % 16 = 8 then s.modAccel ((o - 0x600) / 0x10) fun x => { x with rejects := 0 }
    else s
  | .grt =>
    if 0x100 ≤ o ∧ o < 0x180 ∧ o % 16 = 8 then
      s.modGrat ((o - 0x100) / 0x10) fun y => { y with
        jobs := 0, checkFailed := 0, retryOk := 0, skipped := 0, invalidCount := 0, overflowCount := 0 }
    else if 0x200 ≤ o ∧ o < 0x280 ∧ o % 16 = 8 then
      s.modRed ((o - 0x200) / 0x10) fun y => { y with reductions := 0, invalidCount := 0, overflowCount := 0 }
    else s
  | .ksq => if o < 0x400 ∧ o % 16 = 8 then s.modSeq (o / 16) fun x => { x with ended := 0, failed := 0, timeouts := 0 } else s
  | .mbx => s
  | .msix => s
  | .txs => s
  | .que => s
  | .cmp => s
  | .svy => s
  | .mer => s

/-- Clear the RC fields of the register that begins at an offset. -/
def State.clearReg (s : State) (fn o : Nat) : State :=
  match blockOf fn o with
  | some (b, r) => s.clearBlock fn r b
  | none => s

/-! ## Reads (R6, R8 to R10, R450) -/

/-- An access of the wrong size or alignment (R8). -/
def accessOk (offset width : Nat) : Bool := (width == 4 || width == 8) && offset % width == 0

/-- Answer a read. -/
def State.answerRead (s : State) (fn v : Nat) : State := s.emit (.readData fn (w64 v))

/-- A 32-bit read: of a 32-bit register, of the low half of a 64-bit register, which latches the high half, or of a
latched high half, which is spent; a high half read without its low half is open (R9, assumption log 3). -/
def State.read32 (s : State) (fn o : Nat) : Nat × State :=
  match s.reg fn o with
  | some (8, v) =>
    (v % 2 ^ 32, (s.modFunc fn fun f => { f with highLatch := tblSet f.highLatch (o + 4) (w32 (v / 2 ^ 32)) }).clearReg fn o)
  | some (_, v) => (v, s.clearReg fn o)
  | none =>
    match s.reg fn (o - 4) with
    | some (8, _) =>
      if o % 8 = 4 then
        match tblGet (s.func fn).highLatch o with
        | some h => (h.toNat, s.modFunc fn fun f => { f with highLatch := tblErase f.highLatch o })
        | none => let (v, s) := s.draw; (v % 2 ^ 32, s)
      else (0, s)
    | _ => (0, s)

/-- A 64-bit read: of a 64-bit register, or of two 32-bit registers. -/
def State.read64 (s : State) (fn o : Nat) : Nat × State :=
  match s.reg fn o with
  | some (8, v) => (v, s.clearReg fn o)
  | _ =>
    let (lo, s) := s.read32 fn o
    let (hi, s) := s.read32 fn (o + 4)
    (lo + hi * 2 ^ 32, s)

/-- The capabilities of a function (R154, R413, R419), under the model's numbers (assumption log 13): the controls at their
offsets of writing, then ATS Invalidate Queue Depth, Page Aligned Request and Global Invalidate Supported, the PF's
Max PASID Width with Execute and Privileged Mode, the Outstanding Page Request Capacity, and SR-IOV's TotalVFs, First VF
Offset and VF Stride. -/
def State.readControl (s : State) (fn o : Nat) : Nat :=
  let f := s.func fn
  let pf := fun (n : Nat) => if isPf fn then n else 0
  if o = 0 then b2n f.msixEnable
  else if o = 4 then b2n f.functionMask
  else if o = 8 then b2n f.atsEnable
  else if o = 0xC then b2n f.priEnable
  else if o = 0x10 then pf (b2n f.pasidEnable)
  else if o = 0x18 then pf (s.host (fnPort fn)).priAllocation
  else if o = 0x1C then b2n f.busMaster
  else if o = 0x20 then pf (Nat.log2 ((s.host (fnPort fn)).maxRead / 128))
  else if o = 0x24 then pf (b2n (s.host (fnPort fn)).ari)
  else if o = 0x28 then pf (s.host (fnPort fn)).timeoutUs
  else if o = 0x104 then 1
  else if o = 0x108 then 1
  else if o = 0x10C then pf 20
  else if o = 0x118 then 512
  else if o = 0x11C then pf 255
  else if o = 0x120 then pf 1
  else if o = 0x124 then pf 1
  else 0

/-- A read of the KBX_ block by a master: the owner's reads alone return values; KBX_KEY and KBX_IN are never read (R503). -/
def State.readKbx (s : State) (master o : Nat) : Nat :=
  let x := s.kbx
  if x.owner ≠ master ∨ master = 0 then 0
  else if o = 0 then flag 5 x.expired + x.owner
  else if o = 4 then at' 4 x.keySource + flag 1 x.decrypt + flag 0 x.started
  else if o = 8 then flag 1 x.done + flag 0 x.busy
  else if 0x50 ≤ o ∧ o < 0x60 ∧ o % 4 = 0 then x.output.toNat / 2 ^ (32 * ((o - 0x50) / 4)) % 2 ^ 32
  else 0

/-- A read that the function does not take completes with UR (R421). -/
def State.refuseRead (s : State) (fn : Nat) : State := s.emit (.barData (fnPort fn) false [])

/-- READ_CLEAR (R6, R8, R154, R180, R421, R450, R503): a read of BAR0, whose RC fields clear; BAR2 reads zero, `bar` 15 names
the capabilities of the function, `bar` 14 the hub's control space, where `fn` is the master's id, and 32 more than the
BAR a request whose T bit is 0. -/
def execReadClear (fn bar offset width : Nat) (s : State) : Host.Outcome State Fault Refusal :=
  .next (if bar = 14 then s.answerRead fn (s.readKbx fn offset)
    else if bar = 15 then if (s.func fn).present then s.answerRead fn (s.readControl fn offset) else s.refuseRead fn
    else if !s.barOk fn bar then s.refuseRead fn
    else if bar % 32 ≠ 0 then s.answerRead fn 0
    else if !accessOk offset width then (s.count Count.misaligned).answerRead fn 0
    else if width = 8 then (s.read64 fn offset).2.answerRead fn (s.read64 fn offset).1
    else (s.read32 fn offset).2.answerRead fn (s.read32 fn offset).1)

/-- LOW_HALF_READ (R9, R180, R421): a 32-bit read of the low half of a 64-bit register of BAR0; BAR2 reads zero. -/
def execLowHalfRead (fn bar offset : Nat) (s : State) : Host.Outcome State Fault Refusal :=
  .next (if !s.barOk fn bar then s.refuseRead fn
    else if bar % 32 ≠ 0 then s.answerRead fn 0
    else if !accessOk offset 4 then (s.count Count.misaligned).answerRead fn 0
    else (s.read32 fn offset).2.answerRead fn (s.read32 fn offset).1)

end Sys2Proof.Machine
end

