-- ==== Sys2Proof/Machine/RegWrite.lean ====
section
/-!
DEFINITION. Machine/RegWrite.lean: a host write of any register (R4, R6, R8, R10, R39, R40, R180, R416): the fields of
each block take the value as their access codes say. Registers whose writes have rows of their own act as those rows
do.
-/

namespace Sys2Proof.Machine

/-- The state that an outcome leaves. -/
def stateAfter (s : State) : Host.Outcome State Fault Refusal → State
  | .next t => t
  | .fault _ => s
  | .refused _ => s

/-- A W1C bit: a written 1 clears it. -/
def w1c (old : Bool) (v i : Nat) : Bool := old && !bit v i

/-! ## FN_, MBX_, MSI-X -/

/-- The FN_ block (R418, R426, R429, R432). -/
def State.writeFn (s : State) (fn o v : Nat) : State :=
  let p := fnPort fn
  if !isPf fn then s
  else if o = 0x20 then s.writeHdmLength p (bits v 10 0) 0
  else if o = 0x28 then s.modHost p fun h => { h with biasPage := bits v 37 12 }
  else if o = 0x30 then s.writeBiasCtrl p (w32 v)
  else if o = 0x34 then s.modHost p fun h => { h with rangeError := w1c h.rangeError v 1 }
  else if 0x100 ≤ o ∧ o < 0x180 ∧ o % 16 = 0 then s.writeP2p p ((o - 0x100) / 16) (w64 v)
  else s

/-- The opcodes of R58, each with the range of codes of its family. -/
def izlisOpcode (c : Nat) : Bool :=
  [(0x001, 3), (0x101, 4), (0x201, 4), (0x301, 8), (0x401, 5), (0x501, 6), (0x601, 5), (0x701, 2), (0x801, 3),
    (0x901, 4)].any fun r => decide (r.1 ≤ c) && decide (c < r.1 + r.2)

/-- A command with an opcode unknown in every version is answered at once (R41, R53, R58). -/
def State.refuseUnknown (s : State) (fn k : Nat) : State :=
  let x := s.mbx k
  if izlisOpcode x.opcode || !(s.fw.alive || s.fw.mode == .recovery) then s
  else if x.version = 0 then s.respond k Status.notOpen 0 []
  else if x.seq.toNat != (x.lastSeq + 1).toNat then s.respond k Status.sequenceError (x.lastSeq + 1).toNat []
  else if s.diagOnly && fn != 0 then (s.acceptSeq k).respond k Status.deviceFaulted 0 []
  else (s.acceptSeq k).respond k Status.badOpcode 0 []

/-- A write of MBX_DOORBELL (R39, R40). -/
def State.writeMbxDoorbell (s : State) (fn k v : Nat) : State :=
  let x := s.mbx k
  if x.busy || bits v 15 0 != x.seq.toNat then s.modMbx k fun x => { x with overrun := true }
  else ((s.modFw fun f => { f with doorbells := f.doorbells + 1 }).modMbx k fun x => { x with
    busy := true, done := false, order := s.fw.doorbells, doorbellClk := s.clk, doorbellMt := s.mt }).refuseUnknown fn k

/-- A write of a register that is discarded while the mailbox is busy (R40). -/
def State.modIdleMbx (s : State) (k : Nat) (g : Mailbox → Mailbox) : State :=
  s.modMbx k fun x => if x.busy then { x with overrun := true } else g x

/-- The MBX_ block (R38 to R40). -/
def State.writeMbx (s : State) (fn o v : Nat) : State :=
  let m := o / 0x400
  let r := o % 0x400
  let k := mbxKey fn m
  if mailboxesOf fn ≤ m then s
  else if r = 0 then s.modIdleMbx k fun x => { x with cmd := w64 (v % 2 ^ 56) }
  else if r = 8 then s.writeMbxDoorbell fn k v
  else if r = 0x18 then s.modMbx k fun x => { x with
    restarted := w1c x.restarted v 3, overrun := w1c x.overrun v 2, done := w1c x.done v 1 }
  else if r = 0x1C then s.modMbx k fun x => { x with
    intEnable := bit v 31, intVector := if isPf fn then bits v 10 0 else bits v 5 0 }
  else if 0x100 ≤ r ∧ r < 0x200 ∧ r % 8 = 0 then
    s.modIdleMbx k fun x => { x with data := x.data.set ((r - 0x100) / 8) (w64 v) }
  else s

/-- Write one dword of an MSI-X table entry. -/
def MsixEntry.write (e : MsixEntry) (i v : Nat) : MsixEntry :=
  if i = 0 then { e with addr := w64 (e.addr.toNat / 2 ^ 32 * 2 ^ 32 + v % 2 ^ 32) }
  else if i = 1 then { e with addr := w64 (v % 2 ^ 32 * 2 ^ 32 + e.addr.toNat % 2 ^ 32) }
  else if i = 2 then { e with data := w32 v }
  else { e with masked := bit v 0 }

/-- The MSI-X table (R417): an unmasked vector sends what waits; the table of a locked VF is frozen, and a change is
the VF's error (R421). The PBA is read only. -/
def State.writeMsix (s : State) (fn o v : Nat) : State :=
  if msixCount fn * 16 ≤ o then s
  else if (s.func fn).tdisp ≠ 0 then s.resetFunction fn
  else (s.modFunc fn fun x => { x with
    msix := tblSet x.msix (o / 16) ((tblGetD x.msix (o / 16) {}).write (o % 16 / 4) v) }).msixRelease fn

/-! ## PWR_, ETH_, TXS_, FAB_, GRT_ -/

/-- The PWR_ block (R544, R549). -/
def State.writePwr (s : State) (o v : Nat) : State :=
  if o = 4 then s.modPower fun p => p.setCaps v
  else if o = 0xC then s.modPower fun p => { p with warn := clamp 80 100 (bits v 7 0) }
  else s

/-- ETH_CFG; the reserved transport 3 leaves the field (R449). -/
def EthPort.writeCfg (x : EthPort) (v : Nat) : EthPort :=
  { x with
    maxFrame := clamp 1522 9238 (bits v 31 18)
    pfcHonour := BitVec.ofNat 8 (bits v 17 10)
    ptpDomain := BitVec.ofNat 8 (bits v 9 2)
    ptpTransport := if bits v 1 0 = 3 then x.ptpTransport else bits v 1 0 }

/-- A register of the ETH_ block. -/
def EthPort.write (x : EthPort) (r v : Nat) : EthPort :=
  if r = 0 then x.writeCfg v
  else if r = 0x10 then { x with router := BitVec.ofNat 48 v }
  else if r = 0x18 then { x with ip4 := w32 v }
  else if r = 0x20 then { x with ip6lo := w64 v }
  else if r = 0x28 then { x with ip6hi := w64 v }
  else x

/-- The ETH_ block; only a port in Ethernet mode takes a write. -/
def State.writeEth (s : State) (o v : Nat) : State :=
  if o / 0x100 < 32 ∧ s.isEth (o / 0x100) = true then
    s.modPort (o / 0x100) fun x => { x with eth := x.eth.write (o % 0x100) v }
  else s

/-- The device-wide registers of the TXS_ block (R283). -/
def Txs.write (t : Txs) (o v : Nat) : Txs :=
  if o = 0 then { t with
    mdFloor := max 1 (bits v 29 27), beta := bits v 26 24, ai := bits v 23 16, targetSlack := bits v 15 0 }
  else if o = 4 then { t with minRate := max 1 (bits v 28 16), initRate := bits v 12 0 }
  else if o = 8 then { t with
    deflEcho := max 1 (bits v 31 24), markUtil := min 100 (bits v 23 16), increasePeriod := bits v 15 0 }
  else t

/-- The TXS_ block. -/
def State.writeTxs (s : State) (o v : Nat) : State :=
  if 0x100 ≤ o ∧ o < 0x180 ∧ o % 4 = 0 then s.modPort ((o - 0x100) / 4) fun x => { x with overhead := bits v 7 0 }
  else { s with txs := s.txs.write o v }

/-- FAB_WIDTH_CFG (R317). -/
def DevCfg.writeWidth (c : DevCfg) (v : Nat) : DevCfg :=
  { c with
    widenUtil := min 100 (bits v 31 24), narrowUtil := min 100 (bits v 23 16), narrowWindow := max 1 (bits v 15 0) }

/-- FAB_ATT_CONFIG: the ports are in force from the next session (R317). -/
def Accel.writeConfig (x : Accel) (v : Nat) : Accel :=
  { x with
    partitions := BitVec.ofNat 16 (bits v 63 48), endpoint := BitVec.ofNat 16 (bits v 47 32), ports := w32 v }

/-- The FAB_ block (R317). -/
def State.writeFab (s : State) (fn o v : Nat) : State :=
  if o = 0x10 then { s with cfg := s.cfg.writeWidth v }
  else if 0x100 ≤ o ∧ o < 0x500 ∧ (o - 0x100) % 0x20 = 4 then
    stateAfter s (execRetrain fn ((o - 0x100) / 0x20) (w32 v) s)
  else if 0x600 ≤ o ∧ o < 0x680 ∧ o % 16 = 0 then s.modAccel ((o - 0x600) / 0x10) fun x => x.writeConfig v
  else s

/-- GRT_CHECK_CFG (R367). -/
def DevCfg.writeCheck (c : DevCfg) (v : Nat) : DevCfg :=
  { c with fpTol := clamp 8 20 (bits v 15 8), forceCheck := bit v 1, retry := bit v 0 }

/-- The GRT_ block. -/
def State.writeGrt (s : State) (o v : Nat) : State := if o = 0 then { s with cfg := s.cfg.writeCheck v } else s

/-! ## QUE_, CMP_, SVY_, MER_ -/

/-- The QUE_ block (R178, R186, R202, R214). -/
def State.writeQue (s : State) (fn o v : Nat) : State :=
  match slotAt fn o with
  | none => s
  | some (slot, r) =>
    if r = 0xC then s.queCtrl fn slot (w32 v)
    else if r = 8 then
      match s.slotQueue fn slot with
      | none => s
      | some n => s.modQueue n fun q => { q with badDoorbell := w1c q.badDoorbell v 3 }
    else s

/-- The CMP_ block (R178, R206, R208, R210, R214). -/
def State.writeCmp (s : State) (fn o v : Nat) : State :=
  match slotAt fn o with
  | none => s
  | some (slot, r) =>
    if r = 4 then stateAfter s (execCmpConsumer fn slot (w32 v) s)
    else if r = 0xC then stateAfter s (execCmpIntArm fn slot (w32 v) s)
    else
      match s.slotRing fn slot with
      | none => s
      | some n =>
        if r = 8 then s.modRing n fun x => { x with
          badConsumer := w1c x.badConsumer v 1, ringFull := w1c x.ringFull v 0 }
        else if r = 0x1C then
          (s.modRing n fun x => { x with holdoff := bits v 31 16, count := max 1 (bits v 7 0) }).ringTrigger n
        else s

/-- SVY_ALARMS: a VF clears the alarms of its own partition (R528). -/
def State.writeAlarms (s : State) (fn v : Nat) : State :=
  let keep := ~~~(BitVec.ofNat 9 v)
  if isPf fn then { s with survey := { s.survey with alarms := s.survey.alarms &&& keep } }
  else match s.svyPart fn with
    | some p => s.modPart p fun x => { x with alarms := x.alarms &&& (keep ||| ~~~0x18#9) }
    | none => s

/-- The SVY_ window (R528): SVY_CTRL is read only on a VF. -/
def State.writeSvy (s : State) (fn o v : Nat) : State :=
  if o = 0 ∧ isPf fn = true then
    { s with survey := { s.survey with newEpochUs := some (clamp 100 1000000 (bits v 19 0)) } }
  else if o = 4 then s.writeAlarms fn v
  else s

/-- The MER_ registers of chapter 03: a cleared enable lowers the 1PPS output (R91); a new drift bound leaves `e`
as it is (R81). -/
def Meridian.write (m : Meridian) (o v : Nat) : Meridian :=
  if o = 0x10 then { m with
    ppsEnable := bit v 31, driftBound := clamp 100 10000 (bits v 15 0), ppsOut := m.ppsOut && bit v 31 }
  else if o = 0x14 then { m with
    stepped := w1c m.stepped v 4, sourceLost := w1c m.sourceLost v 3, enteredUnlocked := w1c m.enteredUnlocked v 2
    enteredDegraded := w1c m.enteredDegraded v 1, enteredLocked := w1c m.enteredLocked v 0 }
  else if o = 0x18 then { m with preset := w64 v, presetWritten := true }
  else if o = 0x20 then { m with epochTai := w64 v }
  else m

/-- The MER_ block: a VF's writes are discarded. -/
def State.writeMer (s : State) (fn o v : Nat) : State := if isPf fn then s.modMer fun m => m.write o v else s

/-! ## Any register -/

/-- Write the register that begins at an offset of a block. -/
def State.writeBlock (s : State) (fn o v : Nat) : Block → State
  | .fn => s.writeFn fn o v
  | .mbx => s.writeMbx fn o v
  | .msix => s.writeMsix fn o v
  | .pwr => s.writePwr o v
  | .eth => s.writeEth o v
  | .txs => s.writeTxs o v
  | .fab => s.writeFab fn o v
  | .grt => s.writeGrt o v
  | .ksq => s
  | .que => s.writeQue fn o v
  | .cmp => s.writeCmp fn o v
  | .svy => s.writeSvy fn o v
  | .mer => s.writeMer fn o v

/-- Write the register that begins at a BAR0 offset; a write elsewhere is discarded (R4, R416). -/
def State.writeReg (s : State) (fn o v : Nat) : State :=
  match blockOf fn o with
  | some (b, r) => s.writeBlock fn r v b
  | none => s

/-- A 64-bit register begins at the offset. -/
def State.wide (s : State) (fn o : Nat) : Bool :=
  match s.reg fn o with
  | some (8, _) => true
  | _ => false

/-- The low half of a 64-bit register waits for its high half (R10). -/
def State.holdLow (s : State) (fn o v : Nat) : State :=
  s.modFunc fn fun f => { f with lowHeld := tblSet f.lowHeld o (w32 v) }

/-- The high half commits the register with the low half held; one written without it takes an open low half (R10,
assumption log 3). -/
def State.commitHigh (s : State) (fn o v : Nat) : State :=
  match tblGet (s.func fn).lowHeld o with
  | some l => (s.modFunc fn fun f => { f with lowHeld := tblErase f.lowHeld o }).writeReg fn o (l.toNat + v % 2 ^ 32 * 2 ^ 32)
  | none => let (l, s) := s.draw; s.writeReg fn o (l % 2 ^ 32 + v % 2 ^ 32 * 2 ^ 32)

/-- A busy mailbox discards writes of the 64-bit register at the offset: its MBX_CMD or a word of MBX_DATA (R40). -/
def State.mbxDiscards (s : State) (fn o : Nat) : Bool :=
  match blockOf fn o with
  | some (.mbx, r) => decide (r / 0x400 < mailboxesOf fn) && (s.mbx (mbxKey fn (r / 0x400))).busy
  | _ => false

/-- A 32-bit write (R10): a half of a register that a busy mailbox protects is discarded with overrun, its low half not
held (R40). -/
def State.write32 (s : State) (fn o v : Nat) : State :=
  if s.wide fn o then if s.mbxDiscards fn o then s.writeReg fn o 0 else s.holdLow fn o v
  else if o % 8 = 4 && s.wide fn (o - 4) && s.mbxDiscards fn (o - 4) then s.writeReg fn (o - 4) 0
  else if o % 8 = 4 && s.wide fn (o - 4) then s.commitHigh fn (o - 4) v
  else s.writeReg fn o (v % 2 ^ 32)

/-- A 64-bit write: of a 64-bit register, or of two 32-bit registers, the low one first. -/
def State.write64 (s : State) (fn o v : Nat) : State :=
  if s.wide fn o then s.writeReg fn o v
  else (s.write32 fn o (v % 2 ^ 32)).write32 fn (o + 4) (v / 2 ^ 32)

/-- A write into BAR0 (R8, R10). -/
def State.writeBar0 (s : State) (fn o width v : Nat) : State :=
  if !accessOk o width then s.count Count.misaligned
  else if width = 8 then s.write64 fn o v
  else s.write32 fn o v

/-! ## BAR2, the capability controls and the keybox -/

/-- Bytes of a function's BAR2: 64 a slot (R180). -/
def bar2Size (fn : Nat) : Nat := if isPf fn then 0x80000 else 0x4000

/-- A write into BAR2 (R180): the first dword of a slot is its doorbell; everything else is discarded and counted. -/
def State.writeBar2 (s : State) (fn o width v : Nat) : State :=
  if o < bar2Size fn ∧ o % 64 = 0 ∧ (width = 4 ∨ width = 8) then s.doorbell fn (o / 64) (w32 v)
  else s.count Count.bar2Discarded

/-- VF Enable with the number of VFs (R413, R434), at most 7 without an ARI Capable Hierarchy: the device presents none
while it is faulted or before boot step 7 ends (R26, R480, R558). -/
def State.enableVfs (s : State) (port n : Nat) : State :=
  if s.deviceFaulted || s.fw.mode == .recovery || s.fw.awaitingBoot then s
  else (List.range (min n (if (s.host port).ari then 255 else 7))).foldl (fun s i => s.modFunc (port * 256 + 1 + i) fun f => { f with present := true }) s

/-- The controls of a function's capabilities, numbered by the model (assumption log 13): MSI-X Enable, Function Mask,
ATS Enable, PRI Enable, PASID Enable, VF Enable with NumVFs, the page request allocation, Bus Master Enable, Max Read
Request Size by its code, ARI Capable Hierarchy, and the completion timeout in µs, of ranges A to D. -/
def State.writeControl (s : State) (fn o v : Nat) : State :=
  let on := v != 0
  if o = 0 then (s.modFunc fn fun f => { f with msixEnable := on }).msixRelease fn
  else if o = 4 then (s.modFunc fn fun f => { f with functionMask := on }).msixRelease fn
  else if o = 8 then
    if on then s.enableAts fn
    else if (s.func fn).atsEnable then stateAfter s (execAtsEnableClear fn s) else s
  else if o = 0xC then s.modFunc fn fun f => { f with priEnable := on }
  else if o = 0x10 then if isPf fn then s.modFunc fn fun f => { f with pasidEnable := on } else s
  else if o = 0x14 then
    if !isPf fn then s
    else if on then s.enableVfs (fnPort fn) v
    else stateAfter s (execVfEnableClear (fnPort fn) s)
  else if o = 0x18 then
    if isPf fn then (s.modHost (fnPort fn) fun h => { h with priAllocation := v % 2 ^ 32 }).retryGroups (fnPort fn) else s
  else if o = 0x1C then
    if on then s.modFunc fn fun f => { f with busMaster := true }
    else if (s.func fn).busMaster && isPf fn then stateAfter s (execBusMasterEnableClear (fnPort fn) s)
    else s.modFunc fn fun f => { f with busMaster := false }
  else if o = 0x20 then
    if isPf fn ∧ v ≤ 5 then s.modHost (fnPort fn) fun h => { h with maxRead := 128 * 2 ^ v } else s
  else if o = 0x24 then if isPf fn then s.modHost (fnPort fn) fun h => { h with ari := on } else s
  else if o = 0x28 then
    if isPf fn then s.modHost (fnPort fn) fun h => { h with timeoutUs := clamp 50 64000000 v } else s
  else s

/-- Set word `i` of a register group. -/
def setWord {n : Nat} (old : BitVec n) (i v : Nat) : BitVec n :=
  (old &&& ~~~(BitVec.ofNat n 0xFFFFFFFF <<< (32 * i))) ||| BitVec.ofNat n (v % 2 ^ 32) <<< (32 * i)

/-- KBX_LOCK (R503): a claim while free, a release by the owner; the owner clears expired. -/
def State.writeKbxLock (s : State) (master v : Nat) : State :=
  let s := if s.kbx.owner = master then s.modKbx fun x => { x with expired := w1c x.expired v 5 } else s
  if bits v 4 0 = 0 then stateAfter s (execKbxRelease master s)
  else if bits v 4 0 = master then stateAfter s (execKbxClaim master s)
  else s

/-- A register access to the KBX_ block by a master (R503, R505): only the owner's writes take effect. -/
def State.writeKbx (s : State) (master o v : Nat) : State :=
  if o = 0 then s.writeKbxLock master v
  else if s.kbx.owner ≠ master ∨ master = 0 then s
  else if o = 4 then stateAfter s (execKbxStart master (w32 v) s)
  else if o = 8 then s.modKbx fun x => { x with done := w1c x.done v 1 }
  else if 0x20 ≤ o ∧ o < 0x40 ∧ o % 4 = 0 then s.modKbx fun x => { x with key := setWord x.key ((o - 0x20) / 4) v, newKey := true }
  else if 0x40 ≤ o ∧ o < 0x50 ∧ o % 4 = 0 then s.modKbx fun x => { x with input := setWord x.input ((o - 0x40) / 4) v }
  else s

/-! ## The command -/

/-- REGISTER_WRITE (R6, R8, R10, R421): a write of `width` bytes at an offset of BAR0 or BAR2; 32 more than the BAR names a
request whose T bit is 0. `bar` 15 names the capability controls of the function, and `bar` 14 the hub's control space,
where `fn` is the master's id (assumption log 13). -/
def execRegisterWrite (fn bar offset width : Nat) (value : W64) (s : State) : Host.Outcome State Fault Refusal :=
  .next (if bar = 14 then s.writeKbx fn offset value.toNat
    else if bar = 15 then if (s.func fn).present then s.writeControl fn offset value.toNat else s
    else if !s.barOk fn bar then s
    else if bar % 32 = 0 then s.writeBar0 fn offset width value.toNat
    else if bar % 32 = 2 then s.writeBar2 fn offset width value.toNat
    else s)

end Sys2Proof.Machine
end

