-- ==== Sys2Proof/Machine/Dispatch.lean ====
section
/-!
DEFINITION. Machine/Dispatch.lean: the meaning of each command, one arm per constructor of `Instr`.
-/

namespace Sys2Proof.Machine

/-- What a command does to everything but the queue of waiting commands. -/
def exec (i : Instr) (s : State) : Host.Outcome State Fault Refusal :=
  match i with
  | .registerWrite fn bar offset width value => Sys2Proof.Machine.execRegisterWrite fn bar offset width value s
  | .readClear fn bar offset width => Sys2Proof.Machine.execReadClear fn bar offset width s
  | .lowHalfRead fn bar offset => Sys2Proof.Machine.execLowHalfRead fn bar offset s
  | .openSession fn m => Sys2Proof.Machine.execOpenSession fn m s
  | .closeSession fn m => Sys2Proof.Machine.execCloseSession fn m s
  | .queryLimits fn m => Sys2Proof.Machine.execQueryLimits fn m s
  | .bulkOpen fn m => Sys2Proof.Machine.execBulkOpen fn m s
  | .bulkPut fn m => Sys2Proof.Machine.execBulkPut fn m s
  | .bulkGet fn m => Sys2Proof.Machine.execBulkGet fn m s
  | .bulkClose fn m => Sys2Proof.Machine.execBulkClose fn m s
  | .kernelImageLoad fn m cores => Sys2Proof.Machine.execKernelImageLoad fn m cores s
  | .firmwareImageWrite fn m signatureOk => Sys2Proof.Machine.execFirmwareImageWrite fn m signatureOk s
  | .chartBlock fn m cores => Sys2Proof.Machine.execChartBlock fn m cores s
  | .scheduleAdmission fn m ports sequencer cores => Sys2Proof.Machine.execScheduleAdmission fn m ports sequencer cores s
  | .gateListStore fn m cores => Sys2Proof.Machine.execGateListStore fn m cores s
  | .accept fn m signatureOk => Sys2Proof.Machine.execAccept fn m signatureOk s
  | .installRoot fn m cores => Sys2Proof.Machine.execInstallRoot fn m cores s
  | .jobKey fn m cores => Sys2Proof.Machine.execJobKey fn m cores s
  | .rotate fn m cores => Sys2Proof.Machine.execRotate fn m cores s
  | .saInstall fn m cores => Sys2Proof.Machine.execSaInstall fn m cores s
  | .saRemove fn m cores => Sys2Proof.Machine.execSaRemove fn m cores s
  | .keyEnd fn m => Sys2Proof.Machine.execKeyEnd fn m s
  | .keySessionIdle p => Sys2Proof.Machine.execKeySessionIdle p s
  | .bulkTimeout fn m => Sys2Proof.Machine.execBulkTimeout fn m s
  | .partitionAssign fn m cores => Sys2Proof.Machine.execPartitionAssign fn m cores s
  | .quotaSet fn m cores => Sys2Proof.Machine.execQuotaSet fn m cores s
  | .shareSet fn m cores => Sys2Proof.Machine.execShareSet fn m cores s
  | .partitionErase fn m cores => Sys2Proof.Machine.execPartitionErase fn m cores s
  | .contextCreate fn m pick cores => Sys2Proof.Machine.execContextCreate fn m pick cores s
  | .contextDestroy fn m cores => Sys2Proof.Machine.execContextDestroy fn m cores s
  | .contextQuarantineEnd context => Sys2Proof.Machine.execContextQuarantineEnd context s
  | .segmentSet fn m cores => Sys2Proof.Machine.execSegmentSet fn m cores s
  | .queueCreate fn m pick pickHome cores => Sys2Proof.Machine.execQueueCreate fn m pick pickHome cores s
  | .queueSet fn m cores => Sys2Proof.Machine.execQueueSet fn m cores s
  | .queueDestroy fn m cores => Sys2Proof.Machine.execQueueDestroy fn m cores s
  | .queueDestroyTimeout fn m => Sys2Proof.Machine.execQueueDestroyTimeout fn m s
  | .ringCreate fn m pick pickHome cores => Sys2Proof.Machine.execRingCreate fn m pick pickHome cores s
  | .ringDestroy fn m cores => Sys2Proof.Machine.execRingDestroy fn m cores s
  | .regionRegister fn m pick check cores => Sys2Proof.Machine.execRegionRegister fn m pick check cores s
  | .regionRevoke fn m cores => Sys2Proof.Machine.execRegionRevoke fn m cores s
  | .regionQuarantineEnd index => Sys2Proof.Machine.execRegionQuarantineEnd index s
  | .placeAlloc fn m pick pickOffset cores => Sys2Proof.Machine.execPlaceAlloc fn m pick pickOffset cores s
  | .placeFree fn m cores => Sys2Proof.Machine.execPlaceFree fn m cores s
  | .placeHint fn m cores => Sys2Proof.Machine.execPlaceHint fn m cores s
  | .kernelUnload fn m cores => Sys2Proof.Machine.execKernelUnload fn m cores s
  | .trigAlloc fn m pick cores => Sys2Proof.Machine.execTrigAlloc fn m pick cores s
  | .trigFree fn m cores => Sys2Proof.Machine.execTrigFree fn m cores s
  | .jobCreate fn m cores => Sys2Proof.Machine.execJobCreate fn m cores s
  | .jobDestroy fn m cores => Sys2Proof.Machine.execJobDestroy fn m cores s
  | .scheduleRelease fn m cores => Sys2Proof.Machine.execScheduleRelease fn m cores s
  | .endpointSet fn m cores => Sys2Proof.Machine.execEndpointSet fn m cores s
  | .portModeSet fn m cores => Sys2Proof.Machine.execPortModeSet fn m cores s
  | .chartSwap fn m cores => Sys2Proof.Machine.execChartSwap fn m cores s
  | .gateListSwap fn m cores => Sys2Proof.Machine.execGateListSwap fn m cores s
  | .timeSourceSet fn m cores => Sys2Proof.Machine.execTimeSourceSet fn m cores s
  | .partitionRekey fn m cores => Sys2Proof.Machine.execPartitionRekey fn m cores s
  | .rekeyStatus fn m => Sys2Proof.Machine.execRekeyStatus fn m s
  | .fwActivate fn m signatureOk => Sys2Proof.Machine.execFwActivate fn m signatureOk s
  | .diagReport fn m => Sys2Proof.Machine.execDiagReport fn m s
  | .dumpList fn m => Sys2Proof.Machine.execDumpList fn m s
  | .qpCreate fn m pick cores => Sys2Proof.Machine.execQpCreate fn m pick cores s
  | .qpDestroy fn m cores => Sys2Proof.Machine.execQpDestroy fn m cores s
  | .nvmeAttach fn m pick target cores => Sys2Proof.Machine.execNvmeAttach fn m pick target cores s
  | .nvmeDetach fn m cores => Sys2Proof.Machine.execNvmeDetach fn m cores s
  | .fwAliveLapse => Sys2Proof.Machine.execFwAliveLapse s
  | .firmwareRestart imageOk => Sys2Proof.Machine.execFirmwareRestart imageOk s
  | .sourceLost => Sys2Proof.Machine.execSourceLost s
  | .sourceQualifies offset => Sys2Proof.Machine.execSourceQualifies offset s
  | .ppsInPulse cycles refPresent => Sys2Proof.Machine.execPpsInPulse cycles refPresent s
  | .ptpMessage port head msg => Sys2Proof.Machine.execPtpMessage port head msg s
  | .timeExchange port => Sys2Proof.Machine.execTimeExchange port s
  | .timeReq port stamp => Sys2Proof.Machine.execTimeReq port stamp s
  | .timeResp port rx tx hops source epochTai => Sys2Proof.Machine.execTimeResp port rx tx hops source epochTai s
  | .lockEvaluate => Sys2Proof.Machine.execLockEvaluate s
  | .rejoinDeadline => Sys2Proof.Machine.execRejoinDeadline s
  | .ppsOutPulse => Sys2Proof.Machine.execPpsOutPulse s
  | .chartBankSwap => Sys2Proof.Machine.execChartBankSwap s
  | .retainEnd => Sys2Proof.Machine.execRetainEnd s
  | .gateSwapAppointment port => Sys2Proof.Machine.execGateSwapAppointment port s
  | .gateListTakeover port => Sys2Proof.Machine.execGateListTakeover port s
  | .keyRotation p job => Sys2Proof.Machine.execKeyRotation p job s
  | .keyRetainEnd p job => Sys2Proof.Machine.execKeyRetainEnd p job s
  | .surveyEpoch => Sys2Proof.Machine.execSurveyEpoch s
  | .collectiveStart p schedule => Sys2Proof.Machine.execCollectiveStart p schedule s
  | .jobHeartbeat p job => Sys2Proof.Machine.execJobHeartbeat p job s
  | .sramScrub line upsets => Sys2Proof.Machine.execSramScrub line upsets s
  | .patrolScrub line upsets => Sys2Proof.Machine.execPatrolScrub line upsets s
  | .regionRetire lpddr region => Sys2Proof.Machine.execRegionRetire lpddr region s
  | .retireMapWrite => Sys2Proof.Machine.execRetireMapWrite s
  | .migrationStart placement leg reason lpddr quadrant heat => Sys2Proof.Machine.execMigrationStart placement leg reason lpddr quadrant heat s
  | .preCopyPassEnd placement leg => Sys2Proof.Machine.execPreCopyPassEnd placement leg s
  | .cutOver placement leg => Sys2Proof.Machine.execCutOver placement leg s
  | .sourceFree placement leg => Sys2Proof.Machine.execSourceFree placement leg s
  | .migrationRetry placement leg => Sys2Proof.Machine.execMigrationRetry placement leg s
  | .tileStart tile => Sys2Proof.Machine.execTileStart tile s
  | .translationCompletion port request result => Sys2Proof.Machine.execTranslationCompletion port request result s
  | .pageRequestGroupResponse port group response => Sys2Proof.Machine.execPageRequestGroupResponse port group response s
  | .pageRequestTimeout port group => Sys2Proof.Machine.execPageRequestTimeout port group s
  | .invalidateRequest port tag base length pasid global => Sys2Proof.Machine.execInvalidateRequest port tag base length pasid global s
  | .invalidationAck port tag engine => Sys2Proof.Machine.execInvalidationAck port tag engine s
  | .staleReadExpiry port tag => Sys2Proof.Machine.execStaleReadExpiry port tag s
  | .atsEnableClear fn => Sys2Proof.Machine.execAtsEnableClear fn s
  | .priReset fn => Sys2Proof.Machine.execPriReset fn s
  | .queDoorbell fn slot value => Sys2Proof.Machine.execQueDoorbell fn slot value s
  | .slotReadComplete queue first slots => Sys2Proof.Machine.execSlotReadComplete queue first slots s
  | .slotRefetch queue => Sys2Proof.Machine.execSlotRefetch queue s
  | .queRestart fn slot value => Sys2Proof.Machine.execQueRestart fn slot value s
  | .queSuspend fn slot value => Sys2Proof.Machine.execQueSuspend fn slot value s
  | .schedulerRound quadrant => Sys2Proof.Machine.execSchedulerRound quadrant s
  | .nop queue index => Sys2Proof.Machine.execNop queue index s
  | .write queue index => Sys2Proof.Machine.execWrite queue index s
  | .read queue index => Sys2Proof.Machine.execRead queue index s
  | .add64 queue index => Sys2Proof.Machine.execAdd64 queue index s
  | .add32 queue index => Sys2Proof.Machine.execAdd32 queue index s
  | .cas64 queue index => Sys2Proof.Machine.execCas64 queue index s
  | .cas32 queue index => Sys2Proof.Machine.execCas32 queue index s
  | .kernelStart queue index sequencer => Sys2Proof.Machine.execKernelStart queue index sequencer s
  | .descriptorComplete queue index => Sys2Proof.Machine.execDescriptorComplete queue index s
  | .completionFlushDone queue index => Sys2Proof.Machine.execCompletionFlushDone queue index s
  | .cmpConsumer fn slot value => Sys2Proof.Machine.execCmpConsumer fn slot value s
  | .cmpIntArm fn slot value => Sys2Proof.Machine.execCmpIntArm fn slot value s
  | .holdoffExpiry ring => Sys2Proof.Machine.execHoldoffExpiry ring s
  | .msixUnmask fn vector => Sys2Proof.Machine.execMsixUnmask fn vector s
  | .messageBegin quadrant msg => Sys2Proof.Machine.execMessageBegin quadrant msg s
  | .reservationGrant quadrant msg => Sys2Proof.Machine.execReservationGrant quadrant msg s
  | .packetTransmit quadrant msg index port busyPercent => Sys2Proof.Machine.execPacketTransmit quadrant msg index port busyPercent s
  | .epochReserved quadrant => Sys2Proof.Machine.execEpochReserved quadrant s
  | .packetArrival quadrant port pkt => Sys2Proof.Machine.execPacketArrival quadrant port pkt s
  | .tagVerify quadrant copy trailer => Sys2Proof.Machine.execTagVerify quadrant copy trailer s
  | .recordExpiry quadrant key => Sys2Proof.Machine.execRecordExpiry quadrant key s
  | .ack quadrant pkt => Sys2Proof.Machine.execAck quadrant pkt s
  | .sack quadrant pkt => Sys2Proof.Machine.execSack quadrant pkt s
  | .nak quadrant pkt => Sys2Proof.Machine.execNak quadrant pkt s
  | .readResp quadrant pkt => Sys2Proof.Machine.execReadResp quadrant pkt s
  | .retransmitTimeout quadrant msg => Sys2Proof.Machine.execRetransmitTimeout quadrant msg s
  | .retryAfterEnd quadrant msg index => Sys2Proof.Machine.execRetryAfterEnd quadrant msg index s
  | .messageExpiry quadrant msg => Sys2Proof.Machine.execMessageExpiry quadrant msg s
  | .unreachableTimeout quadrant msg => Sys2Proof.Machine.execUnreachableTimeout quadrant msg s
  | .ccBasePeriod quadrant => Sys2Proof.Machine.execCcBasePeriod quadrant s
  | .ccIdleRaise quadrant dest => Sys2Proof.Machine.execCcIdleRaise quadrant dest s
  | .drrRound port robin => Sys2Proof.Machine.execDrrRound port robin s
  | .queueSample => Sys2Proof.Machine.execQueueSample s
  | .portDetect port => Sys2Proof.Machine.execPortDetect port s
  | .laneTrained port => Sys2Proof.Machine.execLaneTrained port s
  | .codewordLock port => Sys2Proof.Machine.execCodewordLock port s
  | .hello port msg => Sys2Proof.Machine.execHello port msg s
  | .trainingTimeout port => Sys2Proof.Machine.execTrainingTimeout port s
  | .lossOfSignal port => Sys2Proof.Machine.execLossOfSignal port s
  | .controlFlitTimeout port => Sys2Proof.Machine.execControlFlitTimeout port s
  | .downNotice port => Sys2Proof.Machine.execDownNotice port s
  | .retrain fn port value => Sys2Proof.Machine.execRetrain fn port value s
  | .dataFlit port bytes uncorrectable => Sys2Proof.Machine.execDataFlit port bytes uncorrectable s
  | .keepalive port => Sys2Proof.Machine.execKeepalive port s
  | .widthProposal port outBusy inBusy peakBusy heldUs => Sys2Proof.Machine.execWidthProposal port outBusy inBusy peakBusy heldUs s
  | .widthReq port lanes outBusy inBusy heldUs => Sys2Proof.Machine.execWidthReq port lanes outBusy inBusy heldUs s
  | .widthAck port lanes => Sys2Proof.Machine.execWidthAck port lanes s
  | .widthSwitch port => Sys2Proof.Machine.execWidthSwitch port s
  | .headArrival port pkt => Sys2Proof.Machine.execHeadArrival port pkt s
  | .headForward port free => Sys2Proof.Machine.execHeadForward port free s
  | .headRelax port => Sys2Proof.Machine.execHeadRelax port s
  | .headPressed port => Sys2Proof.Machine.execHeadPressed port s
  | .attSession a step ok data => Sys2Proof.Machine.execAttSession a step ok data s
  | .attSessionTimeout a => Sys2Proof.Machine.execAttSessionTimeout a s
  | .attCredit a writes reads => Sys2Proof.Machine.execAttCredit a writes reads s
  | .attTrig a partition index increment => Sys2Proof.Machine.execAttTrig a partition index increment s
  | .attReset a => Sys2Proof.Machine.execAttReset a s
  | .relayUp a pkt => Sys2Proof.Machine.execRelayUp a pkt s
  | .memWriteDone a tag status => Sys2Proof.Machine.execMemWriteDone a tag status s
  | .memReadData a tag status data => Sys2Proof.Machine.execMemReadData a tag status data s
  | .attachTimeout a tag => Sys2Proof.Machine.execAttachTimeout a tag s
  | .graticuleJobEnd g checkFailed => Sys2Proof.Machine.execGraticuleJobEnd g checkFailed s
  | .checkRepeat g passed => Sys2Proof.Machine.execCheckRepeat g passed s
  | .graticuleSelfTestEnd g passed => Sys2Proof.Machine.execGraticuleSelfTestEnd g passed s
  | .wipeComplete unit => Sys2Proof.Machine.execWipeComplete unit s
  | .reductionEnd u => Sys2Proof.Machine.execReductionEnd u s
  | .fetchLocal k => Sys2Proof.Machine.execFetchLocal k s
  | .fetchRemote k => Sys2Proof.Machine.execFetchRemote k s
  | .sendWrite k => Sys2Proof.Machine.execSendWrite k s
  | .sendWriteFlag k => Sys2Proof.Machine.execSendWriteFlag k s
  | .sendAdd64 k => Sys2Proof.Machine.execSendAdd64 k s
  | .xformGemm k g => Sys2Proof.Machine.execXformGemm k g s
  | .xformReduce k => Sys2Proof.Machine.execXformReduce k s
  | .xformConvert k => Sys2Proof.Machine.execXformConvert k s
  | .waitTrigGe k => Sys2Proof.Machine.execWaitTrigGe k s
  | .waitTrigTake k => Sys2Proof.Machine.execWaitTrigTake k s
  | .waitTime k => Sys2Proof.Machine.execWaitTime k s
  | .waitWordGe k => Sys2Proof.Machine.execWaitWordGe k s
  | .waitSatisfied k => Sys2Proof.Machine.execWaitSatisfied k s
  | .trigAdd k => Sys2Proof.Machine.execTrigAdd k s
  | .trigSet k => Sys2Proof.Machine.execTrigSet k s
  | .doorbell k => Sys2Proof.Machine.execDoorbell k s
  | .loop k => Sys2Proof.Machine.execLoop k s
  | .predEq k => Sys2Proof.Machine.execPredEq k s
  | .predNe k => Sys2Proof.Machine.execPredNe k s
  | .predLt k => Sys2Proof.Machine.execPredLt k s
  | .predTrigGe k => Sys2Proof.Machine.execPredTrigGe k s
  | .predFlags k => Sys2Proof.Machine.execPredFlags k s
  | .mov k => Sys2Proof.Machine.execMov k s
  | .setAdd k => Sys2Proof.Machine.execSetAdd k s
  | .load k => Sys2Proof.Machine.execLoad k s
  | .store k => Sys2Proof.Machine.execStore k s
  | .seed k => Sys2Proof.Machine.execSeed k s
  | .trigRead k => Sys2Proof.Machine.execTrigRead k s
  | .coll k => Sys2Proof.Machine.execColl k s
  | .exit k => Sys2Proof.Machine.execExit k s
  | .stepComplete k slot => Sys2Proof.Machine.execStepComplete k slot s
  | .stepTimeout k slot => Sys2Proof.Machine.execStepTimeout k slot s
  | .collData quadrant pkt => Sys2Proof.Machine.execCollData quadrant pkt s
  | .instanceEnd p schedule => Sys2Proof.Machine.execInstanceEnd p schedule s
  | .heartbeat pkt => Sys2Proof.Machine.execHeartbeat pkt s
  | .heartbeatSilence p job rank => Sys2Proof.Machine.execHeartbeatSilence p job rank s
  | .beacon port pkt => Sys2Proof.Machine.execBeacon port pkt s
  | .dlDown port => Sys2Proof.Machine.execDlDown port s
  | .dlUp port => Sys2Proof.Machine.execDlUp port s
  | .retrainTimeout port => Sys2Proof.Machine.execRetrainTimeout port s
  | .hotReset port => Sys2Proof.Machine.execHotReset port s
  | .perst port => Sys2Proof.Machine.execPerst port s
  | .busMasterEnableClear port => Sys2Proof.Machine.execBusMasterEnableClear port s
  | .flr fn => Sys2Proof.Machine.execFlr fn s
  | .vfEnableClear port => Sys2Proof.Machine.execVfEnableClear port s
  | .hostReadCompletion port tag result => Sys2Proof.Machine.execHostReadCompletion port tag result s
  | .completionTimeout port tag => Sys2Proof.Machine.execCompletionTimeout port tag s
  | .hdmDecoderCommit port length pick => Sys2Proof.Machine.execHdmDecoderCommit port length pick s
  | .hdmDecoderUncommit port => Sys2Proof.Machine.execHdmDecoderUncommit port s
  | .fnHdmLength fn value pick => Sys2Proof.Machine.execFnHdmLength fn value pick s
  | .bar4Access port offset write length => Sys2Proof.Machine.execBar4Access port offset write length s
  | .hostCxlMemRequest port line write => Sys2Proof.Machine.execHostCxlMemRequest port line write s
  | .biasFlip port page => Sys2Proof.Machine.execBiasFlip port page s
  | .biasGo fn value => Sys2Proof.Machine.execBiasGo fn value s
  | .biasChangeDone port => Sys2Proof.Machine.execBiasChangeDone port s
  | .p2pEnable fn a value => Sys2Proof.Machine.execP2pEnable fn a value s
  | .p2pProbeResult port a ok => Sys2Proof.Machine.execP2pProbeResult port a ok s
  | .lockInterfaceRequest fn => Sys2Proof.Machine.execLockInterfaceRequest fn s
  | .startInterfaceRequest fn => Sys2Proof.Machine.execStartInterfaceRequest fn s
  | .stopInterfaceRequest fn => Sys2Proof.Machine.execStopInterfaceRequest fn s
  | .ideStreamFailure fn => Sys2Proof.Machine.execIdeStreamFailure fn s
  | .getVersion ep => Sys2Proof.Machine.execGetVersion ep s
  | .getCapabilities ep version => Sys2Proof.Machine.execGetCapabilities ep version s
  | .negotiateAlgorithms ep falcon shake mlkem aesGcm => Sys2Proof.Machine.execNegotiateAlgorithms ep falcon shake mlkem aesGcm s
  | .getDigests ep => Sys2Proof.Machine.execGetDigests ep s
  | .getCertificate ep slot offset length => Sys2Proof.Machine.execGetCertificate ep slot offset length s
  | .challenge ep slot nonce => Sys2Proof.Machine.execChallenge ep slot nonce s
  | .getMeasurements ep index sign nonce => Sys2Proof.Machine.execGetMeasurements ep index sign nonce s
  | .keyExchange ep nonce => Sys2Proof.Machine.execKeyExchange ep nonce s
  | .finish ep session macOk => Sys2Proof.Machine.execFinish ep session macOk s
  | .spdmHeartbeat ep session => Sys2Proof.Machine.execSpdmHeartbeat ep session s
  | .keyUpdate ep session op => Sys2Proof.Machine.execKeyUpdate ep session op s
  | .endSession ep session => Sys2Proof.Machine.execEndSession ep session s
  | .vendorDefinedRequest ep session standard fn => Sys2Proof.Machine.execVendorDefinedRequest ep session standard fn s
  | .frameReceive port frame => Sys2Proof.Machine.execFrameReceive port frame s
  | .frameLeaveBuffer port => Sys2Proof.Machine.execFrameLeaveBuffer port s
  | .pfcFrame port priorities => Sys2Proof.Machine.execPfcFrame port priorities s
  | .arpRequest port target senderMac => Sys2Proof.Machine.execArpRequest port target senderMac s
  | .neighborSolicitation port target senderMac => Sys2Proof.Machine.execNeighborSolicitation port target senderMac s
  | .roceRequest port qp psn op => Sys2Proof.Machine.execRoceRequest port qp psn op s
  | .roceNak qp psn syndrome => Sys2Proof.Machine.execRoceNak qp psn syndrome s
  | .cnp qp => Sys2Proof.Machine.execCnp qp s
  | .qpAckTimeout qp => Sys2Proof.Machine.execQpAckTimeout qp s
  | .nvmeCompletion controller command status data => Sys2Proof.Machine.execNvmeCompletion controller command status data s
  | .keepAlive controller => Sys2Proof.Machine.execKeepAlive controller s
  | .associationLoss controller => Sys2Proof.Machine.execAssociationLoss controller s
  | .sealedStateWritten => Sys2Proof.Machine.execSealedStateWritten s
  | .rekeyStep p => Sys2Proof.Machine.execRekeyStep p s
  | .rekeyStepWritten p => Sys2Proof.Machine.execRekeyStepWritten p s
  | .kbxClaim master => Sys2Proof.Machine.execKbxClaim master s
  | .kbxRelease master => Sys2Proof.Machine.execKbxRelease master s
  | .kbxStart master value => Sys2Proof.Machine.execKbxStart master value s
  | .kbxBlockDone => Sys2Proof.Machine.execKbxBlockDone s
  | .kbxExpiry => Sys2Proof.Machine.execKbxExpiry s
  | .warmReset fatal => Sys2Proof.Machine.execWarmReset fatal s
  | .cdcWake domain => Sys2Proof.Machine.execCdcWake domain s
  | .cdcTimeout domain owner => Sys2Proof.Machine.execCdcTimeout domain owner s
  | .unitHung unit => Sys2Proof.Machine.execUnitHung unit s
  | .unitSelfTestEnd unit passed => Sys2Proof.Machine.execUnitSelfTestEnd unit passed s
  | .activateFirmware => Sys2Proof.Machine.execActivateFirmware s
  | .pldmFirmwareUpdate slot image signatureOk => Sys2Proof.Machine.execPldmFirmwareUpdate slot image signatureOk s
  | .coldPowerUp => Sys2Proof.Machine.execColdPowerUp s
  | .boot facts => Sys2Proof.Machine.execBoot facts s
  | .inputExcursion millivolts microseconds => Sys2Proof.Machine.execInputExcursion millivolts microseconds s
  | .inputRestored millivolts => Sys2Proof.Machine.execInputRestored millivolts s
  | .leaveGrant measured10us => Sys2Proof.Machine.execLeaveGrant measured10us s
  | .noLeave request => Sys2Proof.Machine.execNoLeave request s
  | .powerAverageUpdate milliwatts => Sys2Proof.Machine.execPowerAverageUpdate milliwatts s
  | .backstop milliwatts => Sys2Proof.Machine.execBackstop milliwatts s
  | .pwrCapWrite fn value => Sys2Proof.Machine.execPwrCapWrite fn value s
  | .capEffecter sustained watts => Sys2Proof.Machine.execCapEffecter sustained watts s
  | .thermalWarning what celsius => Sys2Proof.Machine.execThermalWarning what celsius s
  | .thermalThrottle what celsius => Sys2Proof.Machine.execThermalThrottle what celsius s
  | .throttleExit => Sys2Proof.Machine.execThrottleExit s
  | .thermalTrip what celsius => Sys2Proof.Machine.execThermalTrip what celsius s
  | .quadrantIdle q => Sys2Proof.Machine.execQuadrantIdle q s
  | .channelPowerDown c => Sys2Proof.Machine.execChannelPowerDown c s
  | .atlasChoiceChange choice => Sys2Proof.Machine.execAtlasChoiceChange choice s
  | .perstNDeassertion port => Sys2Proof.Machine.execPerstNDeassertion port s
  | .flashWpNChange high => Sys2Proof.Machine.execFlashWpNChange high s
  | .cxlMemEnable port on => Sys2Proof.Machine.execCxlMemEnable port on s
  | .cxlCacheLineGrant port line owned => Sys2Proof.Machine.execCxlCacheLineGrant port line owned s
  | .backstopRelease milliwatts => Sys2Proof.Machine.execBackstopRelease milliwatts s
  | .thermAlertRelease => Sys2Proof.Machine.execThermAlertRelease s
  | .thermalTripRelease => Sys2Proof.Machine.execThermalTripRelease s
  | .ppsOutFall => Sys2Proof.Machine.execPpsOutFall s
  | .pfcPauseExpiry port priority => Sys2Proof.Machine.execPfcPauseExpiry port priority s
  | .queuePairReply qp psn data old => Sys2Proof.Machine.execQueuePairReply qp psn data old s
  | .lossOfPowerGood => Sys2Proof.Machine.execLossOfPowerGood s

end Sys2Proof.Machine
end

