-- ==== Sys2Proof/Safety.lean ====
section
/-!
DEFINITION. Safety.lean: the terms the statements use. What a command that only moves data leaves alone (`still`,
`firm`), the ranges that the manual's tables give the settings (`SettingsOk`), and when a mailbox command is carried
out (`Served`).
-/

namespace Sys2Proof.Machine

/-- The parts of the state that few commands change. -/
structure Still where
  pending : List Instr
  clk : Nat
  cfg : DevCfg
  txs : Txs
  kbx : Keybox
  spdm : Table Spdm
  charts : Table Charts
  kernels : Table Kernel
  deriving DecidableEq, Repr

/-- Those parts of a state. -/
def State.still (s : State) : Still := ⟨s.pending, s.clk, s.cfg, s.txs, s.kbx, s.spdm, s.charts, s.kernels⟩

/-- The state that an answer leaves. -/
def Answer.state : Answer → State
  | .reply s _ _ _ => s
  | .stored s _ => s
  | .hold s _ => s

/-- The parts of the state that the data path leaves alone. -/
structure Firm where
  mer : Meridian
  funcs : Table Func
  mailboxes : Table Mailbox
  rings : Table Ring
  regions : Table Region
  reds : Table RedUnit
  fw : Firmware
  deriving DecidableEq, Repr

/-- Those parts of a state. -/
def State.firm (s : State) : Firm := ⟨s.mer, s.funcs, s.mailboxes, s.rings, s.regions, s.reds, s.fw⟩

/-- No frame of device memory holds two pages (R127). -/
abbrev State.FramesApart (s : State) : Prop :=
  (s.placements.flatMap fun r => r.2.legs.flatMap fun l => l.frames.map fun f => (l.lpddr, f)).Nodup

/-- The transmit settings lie in the ranges that R283's register tables give them. -/
abbrev Txs.Ok (t : Txs) : Prop :=
  (1 ≤ t.mdFloor ∧ t.mdFloor ≤ 7) ∧ t.beta ≤ 7 ∧ t.ai ≤ 255 ∧ t.targetSlack ≤ 65535 ∧
    (1 ≤ t.minRate ∧ t.minRate ≤ 8191) ∧ t.initRate ≤ 8191 ∧ (1 ≤ t.deflEcho ∧ t.deflEcho ≤ 255) ∧
    t.markUtil ≤ 100 ∧ t.increasePeriod ≤ 65535

/-- The device settings lie in their ranges: the width policy (R317), the checking tolerance (R367), the endpoint
identity and the maximum packet lifetime (R67's table). -/
abbrev DevCfg.Ok (c : DevCfg) : Prop :=
  c.widenUtil ≤ 100 ∧ c.narrowUtil ≤ 100 ∧ (1 ≤ c.narrowWindow ∧ c.narrowWindow ≤ 65535) ∧
    (8 ≤ c.fpTol ∧ c.fpTol ≤ 20) ∧ c.endpoint < 65536 ∧ (100 ≤ c.mplUs ∧ c.mplUs ≤ 2000)

/-- Every setting of the device lies in its range. -/
abbrev State.SettingsOk (s : State) : Prop := s.cfg.Ok ∧ s.txs.Ok

/-- Mailbox `m` of a function holds this command, the firmware takes it up, and it passes every common check (R39,
R41 to R53, R58). -/
abbrev State.Takes (s : State) (fn m : Nat) (c : Cmd) : Prop :=
  s.serving (mbxKey fn m) c.opcode = true ∧ s.servesNow c.diag = true ∧ s.commonCheck fn (mbxKey fn m) c = none

/-- The mailbox commands of R58 but OPEN, which has checks of its own, each with its opcode, version, rights class,
argument length and marks; `a`, `b`, `ok`, `target` and `cores` stand for the operands that a command has beside its
mailbox. -/
def mailCommands (fn m a b : Nat) (ok : Bool) (target : Option Nat) (cores : Cores) : List (Instr × Cmd) :=
  [ (.closeSession fn m, { opcode := 0x0002, rights := .any, words := some 0, diag := true, inBulk := true, needsKey := false }),
    (.queryLimits fn m, { opcode := 0x0003, rights := .any, needsKey := false }),
    (.bulkOpen fn m, { opcode := 0x0101, rights := .any, words := some 2, diag := true, needsKey := false }),
    (.bulkPut fn m, { opcode := 0x0102, rights := .any, words := none, diag := true, inBulk := true, needsKey := false }),
    (.bulkGet fn m, { opcode := 0x0103, rights := .any, words := some 0, diag := true, inBulk := true, needsKey := false }),
    (.bulkClose fn m, closeCmd),
    (.partitionAssign fn m cores, { opcode := 0x0201, rights := .pf, needsKey := false }),
    (.quotaSet fn m cores, { opcode := 0x0202, rights := .pf, needsKey := false }),
    (.shareSet fn m cores, { opcode := 0x0203, rights := .pf, needsKey := false }),
    (.partitionErase fn m cores, { opcode := 0x0204, rights := .pf, needsKey := false }),
    (.contextCreate fn m a cores, { opcode := 0x0301 }),
    (.contextDestroy fn m cores, { opcode := 0x0302 }),
    (.segmentSet fn m cores, { opcode := 0x0303, words := some 4 }),
    (.queueCreate fn m a b cores, { opcode := 0x0304, words := some 3 }),
    (.queueSet fn m cores, { opcode := 0x0305 }),
    (.queueDestroy fn m cores, { opcode := 0x0306 }),
    (.ringCreate fn m a b cores, { opcode := 0x0307, words := some 3 }),
    (.ringDestroy fn m cores, { opcode := 0x0308 }),
    (.regionRegister fn m a b cores, { opcode := 0x0401, words := some 3 }),
    (.regionRevoke fn m cores, { opcode := 0x0402 }),
    (.placeAlloc fn m a b cores, { opcode := 0x0403, words := some 2 }),
    (.placeFree fn m cores, { opcode := 0x0404 }),
    (.placeHint fn m cores, { opcode := 0x0405, since := 2, words := some 2 }),
    (.kernelUnload fn m cores, { opcode := 0x0501, since := 2 }),
    (.trigAlloc fn m a cores, { opcode := 0x0502, since := 2 }),
    (.trigFree fn m cores, { opcode := 0x0503, since := 2 }),
    (.jobCreate fn m cores, { opcode := 0x0504, since := 2 }),
    (.jobDestroy fn m cores, { opcode := 0x0505, since := 2 }),
    (.scheduleRelease fn m cores, { opcode := 0x0506, since := 2 }),
    (.endpointSet fn m cores, { opcode := 0x0601, rights := .pf, needsKey := false }),
    (.portModeSet fn m cores, { opcode := 0x0602, rights := .pf, needsKey := false }),
    (.chartSwap fn m cores, { opcode := 0x0603, rights := .pf, words := some 2, needsKey := false }),
    (.gateListSwap fn m cores, { opcode := 0x0604, rights := .pf, words := some 2, needsKey := false }),
    (.timeSourceSet fn m cores, { opcode := 0x0605, rights := .pf, needsKey := false }),
    (.partitionRekey fn m cores, { opcode := 0x0701, since := 3, words := some 0 }),
    (.rekeyStatus fn m, { opcode := 0x0702, since := 3, words := some 0 }),
    (.fwActivate fn m ok, { opcode := 0x0801, rights := .pf0, diag := true, needsKey := false }),
    (.diagReport fn m, { opcode := 0x0802, rights := .pf, words := some 0, diag := true, needsKey := false }),
    (.dumpList fn m, { opcode := 0x0803, rights := .any, words := some 0, diag := true, needsKey := false }),
    (.qpCreate fn m a cores, { opcode := 0x0901, words := some 5 }),
    (.qpDestroy fn m cores, { opcode := 0x0902 }),
    (.nvmeAttach fn m a target cores, { opcode := 0x0903, since := 3, words := some 9 }),
    (.nvmeDetach fn m cores, { opcode := 0x0904, since := 3 }) ]

/-- From `s` to `t` the mailbox has given its command this answer: the sequence is accepted, the response word and the
data window hold the answer, and the mailbox is done and no longer busy (R40 to R44). -/
def State.Answered (s t : State) (fn m status detail : Nat) (words : List W64) : Prop :=
  let x := s.mbx (mbxKey fn m)
  let y := t.mbx (mbxKey fn m)
  y.busy = false ∧ y.done = true ∧ y.wait = none ∧ y.lastSeq = x.seq ∧
    y.resp = w64 (status + detail % 65536 * 2 ^ 16 + x.seq.toNat * 2 ^ 32 + words.length * 2 ^ 48) ∧
    y.data = (words ++ List.replicate 32 0).take 32

/-- The same, and every other mailbox is as before. -/
def State.Answers (s t : State) (fn m status detail : Nat) (words : List W64) : Prop :=
  s.Answered t fn m status detail words ∧ ∀ j, j ≠ mbxKey fn m → t.mbx j = s.mbx j

/-- From `s` to `t` the mailbox's command is accepted, its answer waits for this, and nothing of it is written yet. -/
def State.Awaits (s t : State) (fn m : Nat) (w : Wait) : Prop :=
  let x := s.mbx (mbxKey fn m)
  let y := t.mbx (mbxKey fn m)
  y.busy = x.busy ∧ y.done = x.done ∧ y.wait = some w ∧ y.lastSeq = x.seq ∧ y.resp = x.resp ∧ y.data = x.data ∧
    ∀ j, j ≠ mbxKey fn m → t.mbx j = s.mbx j

/-- Beside a mailbox, an answer changes only what its interrupt touches: a pending bit, or a write toward the host. -/
def State.OnlyInterrupts (s t : State) : Prop :=
  (∀ f, ∃ l, t.func f = { s.func f with pba := l }) ∧ ∀ p, ∃ a b, t.host p = { s.host p with held := a, engineHeld := b }

/-- The firmware once it has served a command: the SVN counter rises at the first command of a newer image (R481), and a
mismatch of the control cores counts (R521). -/
def State.servedFw (s : State) (cores : Cores) : Firmware :=
  match cores with
  | .agree => s.firstServe.fw
  | .outvoted => s.firstServe.mismatch.fw
  | .split => s.firstServe.mismatch.fw

/-- Beside a mailbox and its interrupt, serving a command changes only that. -/
def State.OnlyServes (s t : State) (cores : Cores := .agree) : Prop := s.OnlyInterrupts t ∧ t.fw = s.servedFw cores

/-- The state that every device reset leaves: the two physical functions, unbound, no mailbox open, no object of any
kind, nothing in flight in any unit, and the settings that software writes at their reset values (R511, R526). -/
abbrev State.Bare (s : State) : Prop :=
  s.funcs = resetFuncs ∧ s.mailboxes = [] ∧ s.contexts = [] ∧ s.queues = [] ∧ s.rings = [] ∧ s.regions = [] ∧ s.tiles = [] ∧
    s.quads = [] ∧ s.grats = [] ∧ s.reds = [] ∧ s.seqs = [] ∧ s.kernels = [] ∧ s.trigs = [] ∧ s.qps = [] ∧ s.controllers = [] ∧
    s.spdm = [] ∧ s.charts = [] ∧ s.txs = {} ∧ s.kbx = {} ∧ s.survey = {} ∧ s.recover = {}

/-- The tile that a host read fetches for. -/
def HostRead.tile? (r : HostRead) : Option Nat :=
  match r.purpose with
  | .tile id _ _ => some id
  | .slots _ _ _ => none
  | .flush _ _ => none
  | .responder _ _ _ => none
  | .probe _ => none
  | .discard => none

/-- In a state the tile that a host read worked for is to read those bytes again (R169). -/
def State.rereads (s : State) (r : HostRead) : Bool :=
  match r.purpose with
  | .tile id off n => (tblGet s.tiles id).all fun x => x.redo.contains (off - x.offset, n)
  | .slots _ _ _ => true
  | .flush _ _ => true
  | .responder _ _ _ => true
  | .probe _ => true
  | .discard => true

/-- The state a stream of vectors leaves when every vector is done. -/
def Stream.done? : Stream → Option State
  | .done s => some s
  | .wait _ => none
  | .check _ _ => none
  | .fail _ _ => none

/-- The state and the vector at which a stream stops for a check. -/
def Stream.check? : Stream → Option (State × Nat)
  | .done _ => none
  | .wait _ => none
  | .check s v => some (s, v)
  | .fail _ _ => none

/-- The state of a commit that is done. -/
def Commit.done? : Commit → Option State
  | .done s => some s
  | .wait _ => none
  | .fail _ _ => none

/-- A command that can be, or lead to, a reset of the device, or a restart of its firmware (R511, R512, R515, R518,
R535). -/
def mayReset : Instr → Bool
  | .warmReset _ => true
  | .activateFirmware => true
  | .firmwareRestart _ => true
  | .unitHung _ => true
  | .cdcTimeout _ _ => true
  | .lossOfPowerGood => true
  | .inputExcursion _ _ => true
  | .thermalTrip _ _ => true
  | .coldPowerUp => true
  | .inputRestored _ => true
  | _ => false

/-- A command of the keybox, or a register write, by which the control space is reached (R503, R504). -/
def usesKeybox : Instr → Bool
  | .kbxClaim _ => true
  | .kbxStart _ _ => true
  | .kbxBlockDone => true
  | .kbxRelease _ => true
  | .kbxExpiry => true
  | .registerWrite _ _ _ _ _ => true
  | _ => false

/-- A frame for a queue pair or a controller. -/
def ownsObject (f : Frame) : Bool :=
  match f.kind with
  | .roce _ _ => true
  | .nvme _ _ => true
  | .ptp => false
  | .arpOrNd => false
  | .none => false

/-- An SPDM request that changes its responder (R506). -/
def isSpdm : Instr → Bool
  | .getVersion _ => true
  | .getCapabilities _ _ => true
  | .negotiateAlgorithms _ _ _ _ _ => true
  | .keyExchange _ _ => true
  | .finish _ _ _ => true
  | .keyUpdate _ _ _ => true
  | .endSession _ _ => true
  | _ => false

/-- A command that writes a chart bank, swaps the banks or ends their retention, that fires appointments, of which a
swap may be the next due (R89), or that steps Meridian time past an appointed swap (R82, R309, R310). -/
def mayChart : Instr → Bool
  | .chartBlock _ _ _ => true
  | .chartSwap _ _ _ => true
  | .chartBankSwap => true
  | .retainEnd => true
  | .sourceQualifies _ => true
  | .timeSourceSet _ _ _ => true
  | .ppsInPulse _ _ => true
  | .timeResp _ _ _ _ _ _ => true
  | .ptpMessage _ _ _ => true
  | .gateSwapAppointment _ => true
  | .keyRotation _ _ => true
  | .surveyEpoch => true
  | .collectiveStart _ _ => true
  | .jobHeartbeat _ _ => true
  | _ => false

/-- A command that loads or unloads kernels (R333, R472). -/
def mayLoad : Instr → Bool
  | .kernelImageLoad _ _ _ => true
  | .kernelUnload _ _ _ => true
  | .partitionErase _ _ _ => true
  | _ => false

end Sys2Proof.Machine
end

