-- ==== Sys2Proof/Certificates/Slice0/Obligations.lean ====
section
/-!
DEFINITION. Certificates/Slice0/Obligations.lean: the statements for the provers: what a step does, what every family
of commands does where the manual says it completes, what each leaves alone, and the invariant that every step keeps.
-/

open Sys2Proof Sys2Proof.Machine

/-- With a command at the front of the queue of waiting commands, a step is that command's effect on the state that holds
the rest of the queue. -/
def Obligations.StepRunsTheFrontCommand : Prop :=
  ∀ (c : Instr) (rest : List Instr) (s : State),
    step { s with pending := c :: rest } = exec c { s with pending := rest }

/-- The table has no row for a clock. By the model's choice (assumption log 1) a step on an empty queue lets one engine
clock pass: the time base counts one; with power off nothing else happens; with power on MER_NOW advances by 10
Meridian units, or by what discipline makes of them within 50 millionths, the firmware's heartbeat counts once in 100
µs, and what is due in that clock happens; settings, keybox, SPDM responders, kernels, reduction units and regions
stay as they were. In a device where nothing waits and no appointment is due, nothing happens beside the counters. -/
def Obligations.EmptyQueueLetsTimePass : Prop :=
  ∀ (s : State),
    (s.pending = [] → ∃ t, step s = .next t ∧ t.pending = [] ∧ t.clk = s.clk + 1 ∧ t.cfg = s.cfg ∧ t.txs = s.txs ∧
     t.kbx = s.kbx ∧ t.spdm = s.spdm ∧ t.kernels = s.kernels ∧ t.reds = s.reds ∧ t.regions = s.regions ∧
     t.mer.lock = s.mer.lock ∧ t.mer.source = s.mer.source ∧ t.mer.sourceSet = s.mer.sourceSet) ∧
    (s.pending = [] → s.power.state = .off → step s = .next { s with clk := s.clk + 1 }) ∧
    (s.pending = [] → s.power.state = .on → ∃ t, step s = .next t ∧ t.mer.now = s.mer.clockStep.now ∧
     t.mer.frac = s.mer.clockStep.frac ∧ t.mer.frac < 1000000 ∧
     (s.mer.sourceSet = false ∨ s.mer.source = 0 → s.mer.frac < 1000000 → t.mer.now = s.mer.now + 10 ∧
      t.mer.frac = s.mer.frac) ∧
     t.fw.heartbeat =
       (if s.fw.alive = true ∧ s.fw.lastBeat + us 100 ≤ s.clk then s.fw.heartbeat + 1 else s.fw.heartbeat) ∧
     t.fw.lastBeat = (if s.fw.alive = true ∧ s.fw.lastBeat + us 100 ≤ s.clk then s.clk else s.fw.lastBeat)) ∧
    (s.pending = [] → s.power.state = .on → s.power.throttled = false → s.power.backstop = false →
     (s.fw.alive = false ∨ s.clk < s.fw.lastBeat + us 100) → s.fw.rejoinPending = [] → s.fw.orphans = [] →
     ([0, 1, 2, 3].all fun q => s.mer.appointments.all fun a => !s.apptDueIn q a) = true →
     (s.mailboxes = [] ∧ s.queues = [] ∧ s.rings = [] ∧ s.tiles = [] ∧ s.quads = [] ∧ s.ports = [] ∧ s.seqs = [] ∧
      s.qps = [] ∧ s.controllers = [] ∧ s.recover.links = []) → (s.mer.sourceSet = false ∨ s.mer.source = 0) →
     step s = .next { s with clk := s.clk + 1, mer := s.mer.clockStep })

/-- After power-up nothing waits, the two physical functions are present and unbound, no object of any kind exists,
Meridian time is UNLOCKED, firmware is not alive and its boot is awaited, the keybox is free with its registers zero,
memory lists nothing, and the settings hold the reset values of their register tables; the settings lie in their
ranges and memory is canonical. The values the manual gives none for are in assumption log 4 and are not stated. -/
def Obligations.ResetLeavesTheseValues : Prop :=
  ∀ (s : State),
    s = State.reset → s.pending = [] ∧ (s.func 0).present = true ∧ (s.func 256).present = true ∧
    (∀ f, f ≠ 0 → f ≠ 256 → (s.func f).present = false) ∧ (∀ f, (s.func f).bound = none) ∧
    (s.contexts = [] ∧ s.queues = [] ∧ s.rings = [] ∧ s.regions = [] ∧ s.placements = [] ∧ s.kernels = [] ∧
     s.trigs = [] ∧ s.qps = [] ∧ s.controllers = [] ∧ s.parts = [] ∧ s.tiles = [] ∧ s.mem.cells = []) ∧
    (s.mer.lock = .unlocked ∧ s.mer.now = 0 ∧ s.mer.sourceSet = false ∧ s.mer.driftBound = 100) ∧
    (s.fw.alive = false ∧ s.fw.awaitingBoot = true ∧ s.fw.heartbeat = 0) ∧ s.kbx = {} ∧
    s.txs = { mdFloor := 4, beta := 6, ai := 64, targetSlack := 4000, minRate := 8, initRate := 1600, deflEcho := 4,
              markUtil := 75, increasePeriod := 8000 } ∧
    (s.cfg.widenUtil = 75 ∧ s.cfg.narrowUtil = 30 ∧ s.cfg.narrowWindow = 50 ∧ s.cfg.fpTol = 16 ∧
     s.cfg.forceCheck = false ∧ s.cfg.retry = true) ∧
    (s.power.cap1ms = 1000 ∧ s.power.capSus = 850 ∧ s.power.warn = 95 ∧ s.survey.epochUs = 1000 ∧ s.survey.alarms = 0) ∧
    s.SettingsOk ∧ s.mem.wf = true

/-- The congestion settings of R283, the lane-width policy of R317, the checking tolerance of R367, the endpoint identity
and the maximum packet lifetime of R67 lie in the ranges that their tables give: every step from a state in which
they do leaves a state in which they do, whatever command is at the front, a register write of any value among them. -/
def Obligations.SettingsStayInRange : Prop :=
  ∀ (s : State),
    s.SettingsOk → ∃ t, step s = .next t ∧ t.SettingsOk

/-- Device memory lists addresses strictly rising and no byte equal to 0, what an unwritten byte reads as (R128): every
step from such a state leaves such a state, so that equal memories are equal data. -/
def Obligations.MemoryStaysCanonical : Prop :=
  ∀ (s : State),
    s.mem.wf = true → ∃ t, step s = .next t ∧ t.mem.wf = true

/-- No command stops the block: whatever the state and the operands, it answers a next state. No command puts a command
in the queue or takes one out, and none moves the time base: what takes time in the device is a command of its own
when it ends (the model's choice, assumption log 1). -/
def Obligations.EveryCommandAnswers : Prop :=
  ∀ (c : Instr) (s : State),
    ∃ t, exec c s = .next t ∧ t.pending = s.pending ∧ t.clk = s.clk

/-- Beside a device reset (a warm reset, a restart or activation of firmware, a hang or crossing timeout that resets, a
loss of power or thermal trip and the power-up after it), the settings change only by ENDPOINT_SET and a register
write, the keybox only by its own commands and a register write, an SPDM responder only by SPDM requests, the charts
only by their commands and the measurements of time that reach the appointed swap, and the loaded kernels only by a
load, an unload and the erasure of a partition. -/
def Obligations.OnlyTheirCommandsChangeSettings : Prop :=
  ∀ (c : Instr) (s : State),
    mayReset c = false → ∃ t, exec c s = .next t ∧
    ((∀ fn m, c ≠ .endpointSet fn m) → (∀ fn b o w v, c ≠ .registerWrite fn b o w v) → t.cfg = s.cfg) ∧
    ((∀ fn b o w v, c ≠ .registerWrite fn b o w v) → t.txs = s.txs) ∧ (usesKeybox c = false → t.kbx = s.kbx) ∧
    (isSpdm c = false → t.spdm = s.spdm) ∧ (mayChart c = false → t.charts = s.charts) ∧
    (mayLoad c = false → t.kernels = s.kernels)

/-- R128: bytes written to a partition's space read back at the same offset; no other byte of any partition's space
changes, where no two pages share a frame (which the model keeps; without an upset it matters to no read); what is
cleared for a new placement reads zero in every byte, and nothing beside it changes. An upset line reads as its code
gives it (R94, R101). -/
def Obligations.MemoryReadsBackWhatWasWritten : Prop :=
  ∀ (s : State) (p off : Nat) (b : List Byte),
    (s.mem.wf = true → let t := s.writeSpace p off b; t.readSpace p off b.length = b ∧ t.mem.wf = true ∧
     t.contexts = s.contexts ∧ t.queues = s.queues ∧ t.regions = s.regions) ∧
    (∀ (q o n : Nat),
     s.mem.wf = true → o + n ≤ 2 ^ 44 → off + b.length ≤ 2 ^ 44 → (q ≠ p ∨ o + n ≤ off ∨ off + b.length ≤ o) →
     (s.mem.upsets = [] ∨ s.FramesApart) → (s.writeSpace p off b).readSpace q o n = s.readSpace q o n) ∧
    (∀ (o n q m : Nat),
     s.mem.wf = true → s.mem.upsets = [] → off + n ≤ 2 ^ 44 → o + m ≤ 2 ^ 44 → (s.clearSpace p off n).mem.wf = true ∧
     (off ≤ o → o + m ≤ off + n → (s.clearSpace p off n).readSpace p o m = List.replicate m 0) ∧
     (q ≠ p ∨ o + m ≤ off ∨ off + n ≤ o → (s.clearSpace p off n).readSpace q o m = s.readSpace q o m))

/-- R41 to R58, in the order of assumption log 8: a mailbox command that fails a common check answers NOT_OPEN,
SEQUENCE_ERROR with the expected sequence, NOT_IN_VERSION, BAD_LENGTH with the expected length, BULK_STATE,
NOT_PERMITTED, DEVICE_FAULTED or KEY_NOT_INSTALLED, the first that applies, and has no effect beside its answer, its
interrupt and, but for the first two, the sequence it uses up; a QUEUE_DESTROY is meant that names no queue wholly
drained, and a BULK_CLOSE that commits nothing, whose kinds SequenceRule names; a mailbox that does not hold the
command, or firmware that does not serve it yet, does nothing at all. R521: a command that would take effect, and on
whose table writes no two control cores agree, answers CONTROL_CHECK_FAILED with no effect beside its answer, its
sequence and the count of the mismatch. -/
def Obligations.MailboxCommandsRefused : Prop :=
  ∀ (s : State) (fn m a b : Nat) (ok : Bool) (target : Option Nat) (cores : Cores) (e : Instr × Cmd),
    let k := mbxKey fn m;
    let x := s.mbx k;
    let c := e.2;
    let plain := (e.1 ≠ .queueDestroy fn m cores ∨
                    (s.queue? (bits (x.arg 0) 12 0)).all (fun y => y.state != .draining || !y.held.all fun d => d.phase
                                                            == .completed && s.entryFormed (bits (x.arg 0) 12 0)
                                                            d.index) = true) ∧
      (e.1 ≠ .bulkClose fn m ∨ s.committing k = none);
    (e ∈ mailCommands fn m a b ok target cores → plain → (s.serving k c.opcode && s.servesNow c.diag) = false →
     exec e.1 s = .next s) ∧
    (let st := if x.version = 0 then Status.notOpen else if x.seq ≠ x.lastSeq + 1 then Status.sequenceError else if
           x.version < c.since then Status.notInVersion else if c.words.getD x.argWords ≠ x.argWords ∨
         (c.words = none ∧ (x.argWords = 0 ∨ 32 < x.argWords)) then Status.badLength else if x.bulk.isSome = true ∧
         c.inBulk = false then Status.bulkState else if (c.rights = .pf ∧ isPf fn = false) ∨
         (c.rights = .pf0 ∧ fn ≠ 0) ∨
         (c.rights = .tenant ∧ (s.func fn).bound = none) then Status.notPermitted else if s.diagOnly = true ∧
         (fn ≠ 0 ∨ c.diag = false) then Status.deviceFaulted else Status.keyNotInstalled;
     let d := if st = Status.sequenceError then (x.lastSeq + 1).toNat else if st = Status.badLength then
           c.words.getD 32 else 0;
     e ∈ mailCommands fn m a b ok target cores → plain → (s.serving k c.opcode && s.servesNow c.diag) = true →
     s.commonCheck fn k c ≠ none → ∃ t, exec e.1 s = .next t ∧
     t = { s with mailboxes := t.mailboxes, funcs := t.funcs, hosts := t.hosts, out := t.out, fw := s.firstServe.fw } ∧
     s.OnlyInterrupts t ∧ (t.mbx k).busy = false ∧ (t.mbx k).done = true ∧
     (t.mbx k).resp = w64 (st + d * 2 ^ 16 + x.seq.toNat * 2 ^ 32) ∧ (t.mbx k).data = List.replicate 32 0 ∧
     (t.mbx k).lastSeq = (if st = Status.notOpen ∨ st = Status.sequenceError then x.lastSeq else x.seq) ∧ ∀ j, j ≠ k →
     t.mbx j = s.mbx j) ∧
    (∀ (i : Nat) (f g : Instr × Cmd) (u : State),
     (mailCommands fn m a b ok target .agree)[i]? = some f → (mailCommands fn m a b ok target .split)[i]? = some g →
     f.1 ≠ g.1 → s.Takes fn m f.2 →
     (f.1 = .queueDestroy fn m .agree →
      (s.queue? (bits (x.arg 0) 12 0)).all (fun y => y.state != .draining || !y.held.all fun d => d.phase == .completed
                                              && s.entryFormed (bits (x.arg 0) 12 0) d.index) = true) →
     exec f.1 s = .next u → ∃ t, exec g.1 s = .next t ∧
     (if (u.mbx k).busy = false ∧
      (u.mbx k).resp.toNat % 65536 ≠ Status.ok then t = u else s.Answers t fn m Status.controlCheckFailed 0 [] ∧
      s.OnlyServes t .split ∧
      t =
        { s with mailboxes := t.mailboxes, funcs := t.funcs, hosts := t.hosts, out := t.out, fw := s.servedFw .split }))

/-- R41, for every command of an open mailbox: a sequence other than the last accepted plus 1 completes the command with
SEQUENCE_ERROR and the expected sequence as detail, has no effect and does not advance the last accepted sequence; an
OPEN that succeeds accepts any sequence, which becomes the last accepted. -/
def Obligations.SequenceRule : Prop :=
  ∀ (s : State) (fn m : Nat),
    let k := mbxKey fn m;
    let x := s.mbx k;
    let wrong := fun (t : State) => t =
        { s with mailboxes := t.mailboxes, funcs := t.funcs, hosts := t.hosts, out := t.out, fw := s.firstServe.fw } ∧
      s.OnlyInterrupts t ∧ (t.mbx k).busy = false ∧ (t.mbx k).done = true ∧ (t.mbx k).lastSeq = x.lastSeq ∧
      (t.mbx k).resp = w64 (Status.sequenceError + (x.lastSeq + 1).toNat * 2 ^ 16 + x.seq.toNat * 2 ^ 32) ∧ ∀ j, j ≠ k →
      t.mbx j = s.mbx j;
    (∀ (a b : Nat) (ok : Bool) (target : Option Nat) (cores : Cores) (e : Instr × Cmd),
     e ∈ mailCommands fn m a b ok target cores →
     (e.1 ≠ .queueDestroy fn m cores ∨
      (s.queue? (bits (x.arg 0) 12 0)).all (fun y => y.state != .draining || !y.held.all fun d => d.phase == .completed
                                              && s.entryFormed (bits (x.arg 0) 12 0) d.index) = true) →
     (e.1 ≠ .bulkClose fn m ∨ s.committing k = none) → s.serving k e.2.opcode = true → s.servesNow e.2.diag = true →
     x.version ≠ 0 → x.seq ≠ x.lastSeq + 1 → ∃ t, exec e.1 s = .next t ∧ wrong t) ∧
    (∀ (b : Bulk) (ports : List Nat) (sequencer : Nat) (ok : Bool) (cores : Cores) (c : Instr),
     s.serving k 0x104 = true → s.servesNow true = true → x.version ≠ 0 → x.seq ≠ x.lastSeq + 1 →
     s.committing k = some b →
     ((b.kind = 1 ∧ c = .kernelImageLoad fn m cores) ∨ (b.kind = 2 ∧ c = .firmwareImageWrite fn m ok) ∨
      (b.kind = 3 ∧ c = .chartBlock fn m cores) ∨ (b.kind = 4 ∧ c = .scheduleAdmission fn m ports sequencer cores) ∨
      (b.kind = 7 ∧ c = .gateListStore fn m cores) ∨ (b.kind = 8 ∧ b.objectId = 2 ∧ c = .accept fn m ok)) → ∃ t,
     exec c s = .next t ∧ wrong t) ∧
    (∀ (b : Bulk) (cores : Cores) (c : Instr) (n : Nat),
     s.serving k 0x104 = true → s.servesNow true = true → x.version ≠ 0 → x.seq ≠ x.lastSeq + 1 →
     s.committing k = some b → b.kind = 8 → b.objectId.toNat % 2 = 1 →
     (c, n) ∈ [(Instr.installRoot fn m cores, 1), (.jobKey fn m cores, 2), (.rotate fn m cores, 3),
               (.saInstall fn m cores, 4), (.saRemove fn m cores, 5), (.keyEnd fn m, 6)] → s.keyRow fn n b = true → ∃ t,
     exec c s = .next t ∧ wrong t) ∧
    (∀ (v : Nat),
     s.serving k 1 = true → s.servesNow true = true → s.openCheck fn x = none →
     (s.chooseVersion fn m (x.arg 0 % 256) (bits (x.arg 0) 15 8)).toOption = some v → ∃ t,
     exec (.openSession fn m) s = .next t ∧ (t.mbx k).lastSeq = x.seq ∧ (t.mbx k).resp.toNat % 2 ^ 16 = Status.ok ∧
     (t.mbx k).busy = false ∧ (t.mbx k).done = true)

/-- R40: while busy is 1, a write of MBX_CMD, of a word of MBX_DATA or of MBX_DOORBELL, whole or of either half of a
64-bit register, changes nothing but overrun; a read of MBX_DATA returns zero and a read of MBX_RESP the previous
response. -/
def Obligations.BusyMailboxHoldsItsCommand : Prop :=
  ∀ (s : State) (fn m j : Nat) (v : W64),
    let k := mbxKey fn m;
    let base := 0x10000 + 0x400 * m;
    let x := s.mbx k;
    let flagged := s.modMbx k fun y => { y with overrun := true };
    s.barOk fn 0 = true → m < mailboxesOf fn → j < 32 → x.busy = true →
    exec (.registerWrite fn 0 base 8 v) s = .next flagged ∧ exec (.registerWrite fn 0 base 4 v) s = .next flagged ∧
    exec (.registerWrite fn 0 (base + 4) 4 v) s = .next flagged ∧
    exec (.registerWrite fn 0 (base + 8) 4 v) s = .next flagged ∧
    exec (.registerWrite fn 0 (base + 0x100 + 8 * j) 8 v) s = .next flagged ∧
    exec (.registerWrite fn 0 (base + 0x100 + 8 * j) 4 v) s = .next flagged ∧
    exec (.registerWrite fn 0 (base + 0x104 + 8 * j) 4 v) s = .next flagged ∧
    exec (.readClear fn 0 (base + 0x100 + 8 * j) 8) s = .next (s.emit (.readData fn 0)) ∧
    exec (.readClear fn 0 (base + 0x10) 8) s = .next (s.emit (.readData fn x.resp))

/-- R67, R80, R92, R307, R309, R316, R440 to R442, R453 to R456, R569: ENDPOINT_SET without contexts sets the endpoint ID
and the maximum packet lifetime; PORT_MODE_SET takes a port to its new mode with its MAC and full meters; a chart
block fills an idle bank; a gate list that passes the checks becomes the port's pending list; each swap command arms
one appointment at its time; TIME_SOURCE_SET takes up another source, of which nothing is known yet. -/
def Obligations.FabricSettings : Prop :=
  ∀ (fn m : Nat) (s : State),
    let k := mbxKey fn m;
    let x := s.mbx k;
    (∀ (cores : Cores),
     s.Takes fn m { opcode := 0x0601, rights := .pf, needsKey := false } → s.contextsWhere (fun _ => true) = [] →
     100 ≤ bits (x.arg 0) 42 32 → bits (x.arg 0) 42 32 ≤ 2000 → cores ≠ .split → ∃ t,
     exec (.endpointSet fn m cores) s = .next t ∧ s.Answers t fn m Status.ok 0 [] ∧ s.OnlyServes t cores ∧
     t.cfg = { s.cfg with endpoint := x.arg 0 % 65536, mplUs := bits (x.arg 0) 42 32 } ∧
     t = { s with
           mailboxes := t.mailboxes, funcs := t.funcs, hosts := t.hosts, out := t.out, fw := s.servedFw cores,
           cfg := t.cfg, survey := t.survey }) ∧
    (∀ (cores : Cores),
     let port := bits (x.arg 0) 4 0;
     let mode := bits (x.arg 0) 7 5;
     let mac := if s.macTaken port 0 then 1 else 0;
     s.Takes fn m { opcode := 0x0602, rights := .pf, needsKey := false } → mode ≤ 3 →
     (s.isEth port = true → mode ≠ 3 → s.ethNamed port = false) → (mode = 3 → s.macTaken port mac = false) →
     cores ≠ .split → ∃ t, exec (.portModeSet fn m cores) s = .next t ∧ s.Answers t fn m Status.ok 0 [] ∧
     t.fw = s.servedFw cores ∧ (∀ f, ∃ l, t.func f = { s.func f with pba := l }) ∧ (t.port port).mode = mode ∧
     (t.port port).meters = [] ∧ (t.port port).overhead = (if mode = 3 then 20 else 32) ∧ (t.port port).width = 0 ∧
     (mode = 0 → (t.port port).state = .down) ∧
     (mode = 3 → (t.port port).eth.rate = ethRate (bits (x.arg 0) 9 8) ∧ (t.port port).eth.mac = mac) ∧
     t = { s with
           mailboxes := t.mailboxes, funcs := t.funcs, hosts := t.hosts, out := t.out, fw := s.servedFw cores,
           quads := t.quads, parts := t.parts, tiles := t.tiles, ports := t.ports, power := t.power, accels := t.accels,
           queues := t.queues, seqs := t.seqs, survey := t.survey, contexts := t.contexts, free := t.free }) ∧
    (∀ (b : Bulk) (cores : Cores),
     let oid := b.objectId.toNat;
     s.Takes fn m closeCmd → s.committing k = some b → b.kind = 3 → s.asOpened fn b = none →
     ([0, 1, 2, 3].all fun q => s.bankIdle q (bit oid 0)) = true → cores ≠ .split → ∃ t,
     exec (.chartBlock fn m cores) s = .next t ∧ s.Answers t fn m Status.ok 0 [] ∧ s.OnlyServes t cores ∧
     (t.mbx k).bulk = none ∧
     ([0, 1, 2, 3].all fun q => t.chart q == (s.chart q).fill (bit oid 0) (bits oid 31 16) b.data) = true ∧
     t = { s with
           mailboxes := t.mailboxes, funcs := t.funcs, hosts := t.hosts, out := t.out, fw := s.servedFw cores,
           charts := t.charts }) ∧
    (∀ (cores : Cores),
     let bank := bit (x.arg 0) 0;
     s.Takes fn m { opcode := 0x0603, rights := .pf, words := some 2, needsKey := false } →
     x.doorbellMt + mtUs 500 ≤ x.arg 1 → x.arg 1 ≤ x.doorbellMt + mtUs 60000000 → s.mer.lock ≠ .unlocked →
     s.apptRoom [0, 1, 2, 3] = true → s.chartPending = false → s.retainedAt bank (x.arg 1) = false → cores ≠ .split →
     ∃ t, exec (.chartSwap fn m cores) s = .next t ∧ s.Answers t fn m Status.ok 0 [] ∧ s.OnlyServes t cores ∧
     ([0, 1, 2, 3].all fun q => t.chart q == { s.chart q with swapPending := true, pendingBank := bank }) = true ∧
     t.mer = { s.mer with
               appointments := s.mer.appointments ++
                 [{ kind := .chartSwap bank, time := x.arg 1, slots := [0, 1, 2, 3].map s.apptSlot }] } ∧
     t = { s with
           mailboxes := t.mailboxes, funcs := t.funcs, hosts := t.hosts, out := t.out, fw := s.servedFw cores,
           charts := t.charts, mer := t.mer }) ∧
    (∀ (b : Bulk) (cores : Cores),
     let port := b.objectId.toNat % 32;
     let g := parseGates b.data;
     s.Takes fn m closeCmd → s.committing k = some b → b.kind = 7 → s.asOpened fn b = none → s.isEth port = true →
     (s.port port).eth.swapPending = false → b.data.length = 16 + 8 * field b.data 0 2 →
     (gateFaults b.data).all (fun f => !f.2) = true → g.check (s.port port) = none → cores ≠ .split → ∃ t,
     exec (.gateListStore fn m cores) s = .next t ∧ s.Answers t fn m Status.ok 0 [] ∧ s.OnlyServes t cores ∧
     (t.mbx k).bulk = none ∧ t.port port = { s.port port with eth := { (s.port port).eth with pending := some g } } ∧
     (∀ j, j ≠ port → t.port j = s.port j) ∧
     t = { s with
           mailboxes := t.mailboxes, funcs := t.funcs, hosts := t.hosts, out := t.out, fw := s.servedFw cores,
           ports := t.ports }) ∧
    (∀ (g : GateList) (cores : Cores),
     let port := bits (x.arg 0) 4 0;
     s.Takes fn m { opcode := 0x0604, rights := .pf, words := some 2, needsKey := false } → s.isEth port = true →
     (s.port port).eth.pending = some g → x.doorbellMt + mtUs 500 ≤ x.arg 1 → x.arg 1 ≤ x.doorbellMt + mtUs 60000000 →
     s.mer.lock ≠ .unlocked → s.apptRoom [port / 8] = true → (s.port port).eth.swapPending = false → cores ≠ .split →
     ∃ t, exec (.gateListSwap fn m cores) s = .next t ∧ s.Answers t fn m Status.ok 0 [] ∧ s.OnlyServes t cores ∧
     t.port port = { s.port port with eth := { (s.port port).eth with swapPending := true } } ∧
     (∀ j, j ≠ port → t.port j = s.port j) ∧
     t.mer = { s.mer with
               appointments := s.mer.appointments ++ [{ kind := .gateSwap port, time := x.arg 1,
                                                        quadrants := [port / 8], slots := [s.apptSlot (port / 8)] }] } ∧
     t = { s with
           mailboxes := t.mailboxes, funcs := t.funcs, hosts := t.hosts, out := t.out, fw := s.servedFw cores,
           ports := t.ports, mer := t.mer }) ∧
    (∀ (cores : Cores),
     let source := bits (x.arg 0) 2 0;
     let port := bits (x.arg 0) 12 8;
     s.Takes fn m { opcode := 0x0605, rights := .pf, needsKey := false } → source ≤ 3 →
     s.sourceBad source port = false → s.mer.inForce source port = false → (source ≠ 0 ∨ s.mer.lock ≠ .unlocked) →
     cores ≠ .split → ∃ t, exec (.timeSourceSet fn m cores) s = .next t ∧ s.Answers t fn m Status.ok 0 [] ∧
     s.OnlyServes t cores ∧
     (source ≠ 0 →
      t.mer = { s.mer with
                source := source, port := if source < 2 then s.mer.port else port, sourceSet := true,
                qualifies := false, holdover := s.mer.lock != .unlocked, residuals := [], lowSince := none,
                lastPulse := none, pulseOk := false, lastSync := none, ptp := {} }) ∧
     (source = 0 →
      t.mer = { s.mer with
                source := 0, sourceSet := true, qualifies := true, holdover := false, e := some 0, offset := 0,
                residuals := [], lowSince := none, lastPulse := none, pulseOk := false, lastSync := none, ptp := {} }) ∧
     t = { s with
           mailboxes := t.mailboxes, funcs := t.funcs, hosts := t.hosts, out := t.out, fw := s.servedFw cores,
           mer := t.mer }) ∧
    (∀ (cores : Cores),
     let source := bits (x.arg 0) 2 0;
     let port := bits (x.arg 0) 12 8;
     s.Takes fn m { opcode := 0x0605, rights := .pf, needsKey := false } → source ≤ 3 →
     s.sourceBad source port = false → s.mer.inForce source port = true → cores ≠ .split → ∃ t,
     exec (.timeSourceSet fn m cores) s = .next t ∧ s.Answers t fn m Status.ok 0 [] ∧ s.OnlyServes t cores ∧
     t = { s with mailboxes := t.mailboxes, funcs := t.funcs, hosts := t.hosts, out := t.out, fw := s.servedFw cores }) ∧
    (∀ (cores : Cores),
     s.Takes fn m { opcode := 0x0605, rights := .pf, needsKey := false } → bits (x.arg 0) 2 0 = 0 →
     s.mer.inForce 0 (bits (x.arg 0) 12 8) = false → s.mer.lock = .unlocked → cores ≠ .split → ∃ t,
     exec (.timeSourceSet fn m cores) s = .next t ∧ s.Answers t fn m Status.ok 0 [] ∧ t.mer.source = 0 ∧
     t.mer.sourceSet = true ∧ t.mer.qualifies = true ∧ t.mer.holdover = false ∧ t.mer.e = some 0 ∧
     t.mer.lock = .locked ∧ t.mer.enteredLocked = true ∧ t.mer.window = w32 s.mpl ∧
     (s.mer.presetWritten = false → t.mer.now = s.mer.now) ∧ t.cfg = s.cfg)

/-- R45, R59, R60, R278: PARTITION_ASSIGN binds or unbinds a function of the PF's port that owns nothing; QUOTA_SET and
SHARE_SET set one quota and one weight; PARTITION_ERASE leaves the partition without key, session, associations, jobs
and schedules, with its quotas and shares, the device without its queues, rings, regions, placements, kernels, trig
points, queue pairs and controllers, its contexts quarantined and its functions unbound, and starts a write of the
sealed state; the keys and quotas of other partitions stay. -/
def Obligations.PartitionAdministration : Prop :=
  ∀ (fn m : Nat) (s : State),
    let k := mbxKey fn m;
    let x := s.mbx k;
    (∀ (cores : Cores),
     let f := fnPort fn * 256 + x.arg 0 % 256;
     s.Takes fn m { opcode := 0x0201, rights := .pf, needsKey := false } → (s.func f).present = true →
     s.bindingHeld f = false → cores ≠ .split → ∃ t, exec (.partitionAssign fn m cores) s = .next t ∧
     s.Answers t fn m Status.ok 0 [] ∧ t.fw = s.servedFw cores ∧
     (t.func f).bound = (if bit (x.arg 0) 12 then none else some (bits (x.arg 0) 11 8)) ∧
     (∀ j, j ≠ f → ∃ l, t.func j = { s.func j with pba := l }) ∧
     t = { s with
           mailboxes := t.mailboxes, funcs := t.funcs, hosts := t.hosts, out := t.out, fw := s.servedFw cores,
           survey := t.survey }) ∧
    (∀ (cores : Cores),
     let p := x.arg 0 % 16;
     let kind := bits (x.arg 0) 15 8;
     s.Takes fn m { opcode := 0x0202, rights := .pf, needsKey := false } → kind < 9 → cores ≠ .split → ∃ t,
     exec (.quotaSet fn m cores) s = .next t ∧ s.Answers t fn m Status.ok 0 [w64 (s.inUse p kind * 2 ^ 32)] ∧
     s.OnlyServes t cores ∧ t.part p = { s.part p with quotas := tblSet (s.part p).quotas kind (x.arg 0 / 2 ^ 32) } ∧
     (∀ j, j ≠ p → t.part j = s.part j) ∧
     t = { s with
           mailboxes := t.mailboxes, funcs := t.funcs, hosts := t.hosts, out := t.out, fw := s.servedFw cores,
           parts := t.parts }) ∧
    (∀ (cores : Cores),
     let p := x.arg 0 % 16;
     let tc := bits (x.arg 0) 10 8;
     s.Takes fn m { opcode := 0x0203, rights := .pf, needsKey := false } → tc ≠ 7 → cores ≠ .split → ∃ t,
     exec (.shareSet fn m cores) s = .next t ∧ s.Answers t fn m Status.ok 0 [] ∧ s.OnlyServes t cores ∧
     t.part p = { s.part p with weights := tblSet (s.part p).weights tc (bits (x.arg 0) 31 16) } ∧
     (∀ j, j ≠ p → t.part j = s.part j) ∧
     t = { s with
           mailboxes := t.mailboxes, funcs := t.funcs, hosts := t.hosts, out := t.out, fw := s.servedFw cores,
           parts := t.parts }) ∧
    (∀ (cores : Cores),
     let p := x.arg 0 % 16;
     s.Takes fn m { opcode := 0x0204, rights := .pf, needsKey := false } → cores ≠ .split → ∃ t,
     exec (.partitionErase fn m cores) s = .next t ∧ (t.mbx k).busy = false ∧ (t.mbx k).done = true ∧
     ((s.func fn).tdisp ≠ 1 → (s.func fn).tdisp ≠ 2 → s.Answered t fn m Status.ok 0 []) ∧
     ((t.part p).keyed = false ∧ (t.part p).root = [] ∧ (t.part p).owner = [] ∧ (t.part p).session = none ∧
      (t.part p).sas = [] ∧ (t.part p).jobs = [] ∧ (t.part p).schedules = [] ∧ (t.part p).dump = none ∧
      (t.part p).rekey = none ∧ (t.part p).quotas = (s.part p).quotas ∧ (t.part p).weights = (s.part p).weights) ∧
     (∀ j, j ≠ p → (t.part j).keyed = (s.part j).keyed ∧ (t.part j).root = (s.part j).root ∧
      (t.part j).quotas = (s.part j).quotas) ∧ t.kernels = s.kernels.filter (fun r => r.2.partition != p) ∧
     t.trigs = s.trigs.filter (fun r => r.2.1 != p) ∧ t.qps = s.qps.filter (fun r => r.2.partition != p) ∧
     t.controllers = s.controllers.filter (fun r => r.2.partition != p) ∧ (∀ r ∈ t.queues, r.2.partition ≠ p) ∧
     (∀ r ∈ t.rings, r.2.partition ≠ p) ∧ (∀ r ∈ t.regions, r.2.valid = true → r.2.partition ≠ p) ∧
     (∀ r ∈ s.contexts, (s.ctx r.1).partition = p → ((s.ctx r.1).state = .live ∨ (s.ctx r.1).state = .aborted) →
      (t.ctx r.1).state = .quarantined) ∧
     (∀ r ∈ s.placements, (s.place r.1).live = true → (s.place r.1).partition = p → (s.place r.1).hdmPort = none →
      (t.place r.1).live = false) ∧ (∀ j, (t.func j).bound ≠ some p) ∧ t.fw.sealing = true ∧ t.cfg = s.cfg ∧
     t.txs = s.txs ∧ t.charts = s.charts ∧ t.kbx = s.kbx ∧ t.spdm = s.spdm)

/-- R61, R62, R142 to R148, R263: CONTEXT_CREATE makes a context live in the slot chosen for it, with its requester and
PASID and no segments; CONTEXT_DESTROY of a context without queues moves its generation on and quarantines the slot
for one maximum packet lifetime, after which the slot is free; SEGMENT_SET writes the entry it names. -/
def Obligations.ContextsAndSegments : Prop :=
  ∀ (s : State),
    (∀ (fn m pick r c : Nat) (cores : Cores),
     let k := mbxKey fn m;
     let p := s.boundTo fn;
     let w := (s.mbx k).arg 0;
     s.Takes fn m { opcode := 0x0301 } → s.requesterOn p (b2n (bit w 13)) = some r →
     choose (bit w 12) (bits w 11 0) s.ctxFree (s.underQuota p 0 (s.inUse p 0) 1) 0 4096 pick = .index c →
     cores ≠ .split → ∃ t, exec (.contextCreate fn m pick cores) s = .next t ∧
     s.Answers t fn m Status.ok 0 [w64 (c + (s.ctx c).gen.toNat * 2 ^ 12)] ∧ s.OnlyServes t cores ∧
     t.ctx c = { state := .live, gen := (s.ctx c).gen, partition := p, port := b2n (bit w 13), requester := r,
                 pasid := if bit w 52 then some (bits w 51 32) else none } ∧ (∀ j, j ≠ c → t.ctx j = s.ctx j) ∧
     t = { s with
           mailboxes := t.mailboxes, funcs := t.funcs, hosts := t.hosts, out := t.out, fw := s.servedFw cores,
           contexts := t.contexts }) ∧
    (∀ (fn m : Nat) (y : Context) (cores : Cores),
     let k := mbxKey fn m;
     let p := s.boundTo fn;
     let w := (s.mbx k).arg 0;
     let c := bits w 11 0;
     let g := bits w 19 12;
     s.Takes fn m { opcode := 0x0302 } → s.ctxOf p c = some y →
     (y.gen.toNat = g ∨ (y.state = .aborted ∧ y.abortedGen.toNat = g)) →
     s.queues.any (fun r => r.2.context == c) = false → cores ≠ .split → ∃ t,
     exec (.contextDestroy fn m cores) s = .next t ∧ s.Answered t fn m Status.ok 0 [w64 ((y.gen + 1).toNat * 2 ^ 12)] ∧
     (t.ctx c).state = .quarantined ∧ (t.ctx c).gen = y.gen + 1 ∧ (t.ctx c).segments = [] ∧
     (t.ctx c).quarantineEnd = s.mt + s.mpl ∧
     (∀ j, j ≠ c → { t.ctx j with nextSeq := (s.ctx j).nextSeq, unacked := (s.ctx j).unacked } = s.ctx j) ∧
     t.still = s.still ∧ { t.fw with orphans := s.fw.orphans } = s.servedFw cores) ∧
    (∀ (c : Nat),
     (s.ctx c).state = .quarantined → (s.ctx c).quarantineEnd ≤ s.mt →
     exec (.contextQuarantineEnd c) s = .next (s.modCtx c fun y => { y with state := .free })) ∧
    (∀ (fn m : Nat) (cores : Cores),
     let k := mbxKey fn m;
     let x := s.mbx k;
     let p := s.boundTo fn;
     let c := bits (x.arg 0) 11 0;
     s.Takes fn m { opcode := 0x0303, words := some 4 } → s.ctxLive c (BitVec.ofNat 8 (bits (x.arg 0) 19 12)) = true →
     (s.ctx c).partition = p → segmentCheck (x.arg 3 % 4) (x.arg 1) (x.arg 2) = none → cores ≠ .split → ∃ t,
     exec (.segmentSet fn m cores) s = .next t ∧ s.Answers t fn m Status.ok 0 [] ∧ s.OnlyServes t cores ∧
     t.ctx c = { s.ctx c with
                 segments := tblSet (s.ctx c).segments (bits (x.arg 0) 23 20)
                   (parseSegment (w64 (x.arg 1)) (w64 (x.arg 2)) (w64 (x.arg 3))) } ∧ (∀ j, j ≠ c → t.ctx j = s.ctx j) ∧
     t = { s with
           mailboxes := t.mailboxes, funcs := t.funcs, hosts := t.hosts, out := t.out, fw := s.servedFw cores,
           contexts := t.contexts })

/-- R61, R63, R64, R173 to R177, R200: QUEUE_CREATE and RING_CREATE make the object at the index chosen for it and blank
its slots in host memory; QUEUE_SET leaves a new weight and burst for the next round; QUEUE_DESTROY stops the fetch
and waits for the accepted descriptors, and completes at once when there is none; 1 ms later what is left is cut off;
RING_DESTROY takes away a ring that no queue uses. -/
def Obligations.QueuesAndRingsCreated : Prop :=
  ∀ (fn m : Nat) (s : State),
    let k := mbxKey fn m;
    let x := s.mbx k;
    let p := s.boundTo fn;
    (∀ (pick pickHome q : Nat) (cores : Cores),
     let w0 := x.arg 0;
     let w2 := x.arg 2;
     let home := if bit w0 23 then bits w0 22 21 else pickHome % 4;
     let n := 2 ^ bits w0 18 14;
     let size := if bits w0 20 19 = 2 then 64 else 32;
     s.Takes fn m { opcode := 0x0304, words := some 3 } → (bits w0 20 19 = 2 → 2 ≤ x.version) →
     s.queueArgs p w0 (x.arg 1) w2 = none →
     choose (bit w0 13) (bits w0 12 0) (s.queueFree fn) (s.underQuota p 1 (s.inUse p 1) 1) 0 8192 pick = .index q →
     cores ≠ .split → ∃ t, exec (.queueCreate fn m pick pickHome cores) s = .next t ∧ s.OnlyServes t cores ∧
     s.Answers t fn m Status.ok 0 [w64 (q + home * 2 ^ 13 + slotNumber fn q * 64 * 2 ^ 32)] ∧
     (∀ j, j ≠ q → t.queue? j = s.queue? j) ∧
     t.queue? q = some { fn := fn, partition := p, base := w64 (x.arg 1), log2 := bits w0 18 14,
                         version := bits w0 20 19, home := home, pinHome := bit w0 23, ring := bits w0 44 32,
                         weight := bits w2 31 16, burst := bits w2 39 32, context := bits w2 11 0,
                         contextGen := (s.ctx (bits w2 11 0)).gen,
                         state := if bits w2 31 16 = 0 then .paused else .active } ∧
     ((s.host (fnPort fn)).linkUp = true →
      Out.hostWrite (fnPort fn)
        { fn := fn, addr := w64 (x.arg 1), bytes := (List.replicate n (blankSlot size)).flatten } ∈ t.out) ∧
     t = { s with
           mailboxes := t.mailboxes, funcs := t.funcs, hosts := t.hosts, out := t.out, fw := s.servedFw cores,
           queues := t.queues }) ∧
    (∀ (y : Queue) (cores : Cores),
     let q := bits (x.arg 0) 12 0;
     s.Takes fn m { opcode := 0x0305 } → s.queueOf p q = some y → bits (x.arg 0) 39 32 ≠ 0 → cores ≠ .split → ∃ t,
     exec (.queueSet fn m cores) s = .next t ∧ s.Answers t fn m Status.ok 0 [] ∧ s.OnlyServes t cores ∧
     t.queues = tblSet s.queues q { y with newSched := some (bits (x.arg 0) 31 16, bits (x.arg 0) 39 32) } ∧
     t = { s with
           mailboxes := t.mailboxes, funcs := t.funcs, hosts := t.hosts, out := t.out, fw := s.servedFw cores,
           queues := t.queues }) ∧
    (∀ (y : Queue) (d : Desc) (cores : Cores),
     let q := bits (x.arg 0) 12 0;
     s.Takes fn m { opcode := 0x0306 } → s.queueOf p q = some y → y.state ≠ .draining → d ∈ y.held →
     d.phase ≠ .completed → cores ≠ .split → ∃ t, exec (.queueDestroy fn m cores) s = .next t ∧
     s.Awaits t fn m (.queueDrain q (x.doorbellClk + us 1000)) ∧ s.OnlyServes t cores ∧
     t.queues = tblSet s.queues q { y with state := .draining, refetchAt := none, kept := [] } ∧
     t = { s with
           mailboxes := t.mailboxes, funcs := t.funcs, hosts := t.hosts, out := t.out, fw := s.servedFw cores,
           queues := t.queues }) ∧
    (∀ (y : Queue) (cores : Cores),
     let q := bits (x.arg 0) 12 0;
     s.Takes fn m { opcode := 0x0306 } → s.queueOf p q = some y → y.state ≠ .draining → y.held = [] →
     (s.servedFw cores).alive = true → ∃ t, exec (.queueDestroy fn m cores) s = .next t ∧
     s.Answered t fn m Status.ok 0 [0] ∧ t.queue? q = none ∧ (∀ j, j ≠ q → t.queue? j = s.queue? j) ∧
     { t.fw with orphans := s.fw.orphans } = s.servedFw cores ∧
     t = { s with
           mailboxes := t.mailboxes, funcs := t.funcs, hosts := t.hosts, out := t.out, queues := t.queues,
           rings := t.rings, fw := t.fw }) ∧
    (∀ (q due : Nat) (y : Queue),
     x.wait = some (.queueDrain q due) → due ≤ s.clk → s.queue? q = some y → s.fw.alive = true → ∃ t,
     exec (.queueDestroyTimeout fn m) s = .next t ∧ t.queue? q = none ∧ (t.mbx k).busy = false ∧ (t.mbx k).done = true ∧
     (t.mbx k).data.head? = some (w64 (y.held.filter fun d => d.phase != .completed).length) ∧ t.mer = s.mer ∧
     t.contexts = s.contexts ∧ t.regions = s.regions ∧ t.still = s.still ∧ { t.fw with orphans := s.fw.orphans } = s.fw) ∧
    (∀ (pick pickHome r : Nat) (cores : Cores),
     let w0 := x.arg 0;
     let w2 := x.arg 2;
     let home := if bit w0 21 then bits w0 20 19 else pickHome % 4;
     s.Takes fn m { opcode := 0x0307, words := some 3 } → ringArgs fn w0 (x.arg 1) w2 = none →
     choose (bit w0 13) (bits w0 12 0) (s.ringFree fn) (s.underQuota p 2 (s.inUse p 2) 1) 0 8192 pick = .index r →
     cores ≠ .split → ∃ t, exec (.ringCreate fn m pick pickHome cores) s = .next t ∧ s.OnlyServes t cores ∧
     s.Answers t fn m Status.ok 0 [w64 (r + home * 2 ^ 13)] ∧ (∀ j, j ≠ r → t.ring? j = s.ring? j) ∧
     t.ring? r = some { fn := fn, partition := p, base := w64 (x.arg 1), log2 := bits w0 18 14, home := home,
                        pinHome := bit w0 21, vector := bits w2 10 0, intEnable := bit w2 11, armed := bit w2 11 } ∧
     ((s.host (fnPort fn)).linkUp = true →
      Out.hostWrite (fnPort fn)
        { fn := fn, addr := w64 (x.arg 1), bytes := (List.replicate (2 ^ bits w0 18 14) (blankSlot 32)).flatten } ∈
        t.out) ∧
     t = { s with
           mailboxes := t.mailboxes, funcs := t.funcs, hosts := t.hosts, out := t.out, fw := s.servedFw cores,
           rings := t.rings }) ∧
    (∀ (y : Ring) (cores : Cores),
     let r := bits (x.arg 0) 12 0;
     s.Takes fn m { opcode := 0x0308 } → s.ringOf p r = some y → s.queues.any (fun q => q.2.ring == r) = false →
     cores ≠ .split → ∃ t, exec (.ringDestroy fn m cores) s = .next t ∧ s.Answers t fn m Status.ok 0 [] ∧
     s.OnlyServes t cores ∧ t.ring? r = none ∧ (∀ j, j ≠ r → t.ring? j = s.ring? j) ∧
     t = { s with
           mailboxes := t.mailboxes, funcs := t.funcs, hosts := t.hosts, out := t.out, fw := s.servedFw cores,
           rings := t.rings, queues := t.queues })

/-- R41, R46 to R48: OPEN with one argument word, on a mailbox that the firmware serves, opens it at the highest version
that both sides have, or at the version that the function's other open mailboxes have, and accepts its sequence
whatever it is. Nothing changes but the mailbox, the function's version, and what answering touches. -/
def Obligations.OpenOpensMailbox : Prop :=
  ∀ (fn m v : Nat) (s : State),
    let k := mbxKey fn m;
    let x := s.mbx k;
    s.serving k 0x0001 = true → s.servesNow true = true → x.argWords = 1 → (s.diagOnly = false ∨ fn = 0) →
    x.arg 0 % 256 ≤ v → v ≤ bits (x.arg 0) 15 8 → 1 ≤ v →
    (if s.othersOpen fn m = true then v = (s.func fn).izlis ∧ v ≤ 3 else v = min 3 (bits (x.arg 0) 15 8)) → ∃ t,
    exec (.openSession fn m) s = .next t ∧ s.Answers t fn m Status.ok 0 [s.firstServe.openWord v] ∧
    (s.firstServe.openWord v).toNat % 256 = v ∧ (t.mbx k).version = v ∧ (t.mbx k).bulk = none ∧ (t.func fn).izlis = v ∧
    (t.func fn).bound = (s.func fn).bound ∧
    t = { s with mailboxes := t.mailboxes, funcs := t.funcs, hosts := t.hosts, out := t.out, fw := s.firstServe.fw }

/-- R45, R47, R56: CLOSE closes the mailbox and, with the function's last open one, releases its version; QUERY_LIMITS
answers the quota of a kind and what the partition uses of it; a second without a chunk discards an open bulk
transfer. -/
def Obligations.SessionsEnd : Prop :=
  ∀ (fn m : Nat) (s : State),
    let k := mbxKey fn m;
    let x := s.mbx k;
    (s.Takes fn m { opcode := 0x0002, rights := .any, words := some 0, diag := true, inBulk := true, needsKey := false }
       → ∃ t, exec (.closeSession fn m) s = .next t ∧ s.Answers t fn m Status.ok 0 [] ∧ (t.mbx k).version = 0 ∧
     (t.mbx k).bulk = none ∧ (t.func fn).izlis = (if s.othersOpen fn m then (s.func fn).izlis else 0) ∧
     (t.func fn).bound = (s.func fn).bound ∧
     t = { s with mailboxes := t.mailboxes, funcs := t.funcs, hosts := t.hosts, out := t.out, fw := s.firstServe.fw }) ∧
    (∀ (p : Nat),
     s.Takes fn m { opcode := 0x0003, rights := .any, needsKey := false } → (s.func fn).bound = some p →
     x.arg 0 % 256 < 9 → ∃ t, exec (.queryLimits fn m) s = .next t ∧
     s.Answers t fn m Status.ok 0 [w64 (s.quota p (x.arg 0 % 256) + s.inUse p (x.arg 0 % 256) * 2 ^ 32)] ∧
     s.OnlyServes t ∧
     t = { s with mailboxes := t.mailboxes, funcs := t.funcs, hosts := t.hosts, out := t.out, fw := s.firstServe.fw }) ∧
    (∀ (b : Bulk),
     x.bulk = some b → b.lastClk + us 1000000 ≤ s.clk → ∃ t, exec (.bulkTimeout fn m) s = .next t ∧
     t.mbx k = { x with bulk := none, bulkLapsed := true } ∧ (∀ j, j ≠ k → t.mbx j = s.mbx j) ∧
     t = { s with mailboxes := t.mailboxes })

/-- R54 to R57: BULK_OPEN of an object that may be written opens the transfer at chunk 0, of the snapshot at the
snapshot's bytes; BULK_PUT of the next chunk appends its bytes; BULK_GET answers a chunk's words; BULK_CLOSE ends a
discarded or read transfer. Each answers the mailbox and leaves all else as it was. -/
def Obligations.BulkTransfersMove : Prop :=
  ∀ (fn m : Nat) (s : State),
    let k := mbxKey fn m;
    let x := s.mbx k;
    let owner := (s.func (k / 4)).bound;
    (∀ (b : BulkKind),
     let kind := x.arg 0 % 256;
     let len := x.arg 0 / 2 ^ 32;
     s.Takes fn m { opcode := 0x0101, rights := .any, words := some 2, diag := true, needsKey := false } →
     x.bulkLapsed = false → bulkKind kind (x.arg 1) = some b → b.writing = true → s.bulkCheck fn x b = none →
     s.bulkWriteCheck (s.boundTo fn) kind len (x.arg 1) = none → ∃ t, exec (.bulkOpen fn m) s = .next t ∧
     s.Answers t fn m Status.ok 0 [w64 (len * 2 ^ 32)] ∧ s.OnlyServes t ∧
     (t.mbx k).bulk = some
       { kind := kind, length := len, objectId := w64 (x.arg 1), writing := true, lastClk := s.clk, bound := owner } ∧
     t = { s with mailboxes := t.mailboxes, funcs := t.funcs, hosts := t.hosts, out := t.out, fw := s.firstServe.fw }) ∧
    (∀ (b : BulkKind) (l : List Byte),
     let kind := x.arg 0 % 256;
     s.Takes fn m { opcode := 0x0101, rights := .any, words := some 2, diag := true, needsKey := false } →
     x.bulkLapsed = false → bulkKind kind (x.arg 1) = some b → b.writing = false → s.bulkCheck fn x b = none →
     (s.bulkReadObject fn (s.boundTo fn) kind (x.arg 1)).toOption = some (l, s) → ∃ t,
     exec (.bulkOpen fn m) s = .next t ∧ s.Answers t fn m Status.ok 0 [w64 (l.length * 2 ^ 32)] ∧ s.OnlyServes t ∧
     (t.mbx k).bulk = some
       { kind := kind, length := l.length, objectId := w64 (x.arg 1), data := l, lastClk := s.clk, bound := owner } ∧
     t = { s with mailboxes := t.mailboxes, funcs := t.funcs, hosts := t.hosts, out := t.out, fw := s.firstServe.fw }) ∧
    (let p := s.boundTo fn;
     s.Takes fn m { opcode := 0x0101, rights := .any, words := some 2, diag := true, needsKey := false } →
     x.bulkLapsed = false → x.arg 0 % 256 = 9 → x.arg 1 = 1 →
     s.bulkCheck fn x { writing := false, empty := true } = none → ∃ t, exec (.bulkOpen fn m) s = .next t ∧
     s.Answers t fn m Status.ok 0 [w64 (3028 * 2 ^ 32)] ∧ s.OnlyServes t ∧
     (∃ y, (t.part p).session = some y ∧ y.next = 1 ∧ y.lastClk = s.clk ∧ y.offer.length = 3028 ∧
      (t.mbx k).bulk = some
        { kind := 9, length := 3028, objectId := 1, data := y.offer, lastClk := s.clk, bound := owner }) ∧
     (∀ j, j ≠ p → t.part j = s.part j) ∧
     t = { s with
           mailboxes := t.mailboxes, funcs := t.funcs, hosts := t.hosts, out := t.out, fw := s.firstServe.fw,
           parts := t.parts, free := t.free }) ∧
    (∀ (b : Bulk),
     s.Takes fn m { opcode := 0x0102, rights := .any, words := none, diag := true, inBulk := true, needsKey := false } →
     x.bulkLapsed = false → x.bulk = some b → b.writing = true → s.asOpened fn b = none → x.chunk = b.nextChunk →
     b.nextChunk < b.chunks → x.argWords = b.wordsIn b.nextChunk → ∃ t, exec (.bulkPut fn m) s = .next t ∧
     s.Answers t fn m Status.ok 0 [] ∧ s.OnlyServes t ∧
     (t.mbx k).bulk = some { b with
                             data := b.data ++ (wordBytes (x.data.take x.argWords)).take
                               (min 256 (b.length - 256 * b.nextChunk)), nextChunk := b.nextChunk + 1, lastClk := s.clk,
                             bound := owner } ∧
     t = { s with mailboxes := t.mailboxes, funcs := t.funcs, hosts := t.hosts, out := t.out, fw := s.firstServe.fw }) ∧
    (∀ (b : Bulk),
     s.Takes fn m { opcode := 0x0103, rights := .any, words := some 0, diag := true, inBulk := true, needsKey := false }
       → x.bulkLapsed = false → x.bulk = some b → b.writing = false → s.asOpened fn b = none → x.chunk < b.chunks → ∃ t,
     exec (.bulkGet fn m) s = .next t ∧
     s.Answers t fn m Status.ok 0 (bytesWords (b.wordsIn x.chunk) (b.data.drop (256 * x.chunk))) ∧ s.OnlyServes t ∧
     (t.mbx k).bulk = some { b with lastClk := s.clk, bound := owner } ∧
     t = { s with mailboxes := t.mailboxes, funcs := t.funcs, hosts := t.hosts, out := t.out, fw := s.firstServe.fw }) ∧
    (∀ (b : Bulk),
     s.Takes fn m closeCmd → x.bulkLapsed = false → x.bulk = some b → s.asOpened fn b = none →
     (if b.writing then bit (x.arg 0) 0 = false else (b.kind ≠ 9 ∨ s.nextStepOf (s.boundTo fn) ≠ some b.objectId.toNat))
       → ∃ t, exec (.bulkClose fn m) s = .next t ∧ s.Answers t fn m Status.ok 0 [] ∧ s.OnlyServes t ∧
     (t.mbx k).bulk = none ∧
     t = { s with mailboxes := t.mailboxes, funcs := t.funcs, hosts := t.hosts, out := t.out, fw := s.firstServe.fw }) ∧
    (∀ (b : Bulk) (y : KeySession),
     let p := s.boundTo fn;
     s.Takes fn m closeCmd → x.bulkLapsed = false → x.bulk = some b → b.writing = false → b.kind = 9 →
     s.asOpened fn b = none → (s.part p).session = some y → y.next = b.objectId.toNat → ∃ t,
     exec (.bulkClose fn m) s = .next t ∧ s.Answers t fn m Status.ok 0 [] ∧ s.OnlyServes t ∧ (t.mbx k).bulk = none ∧
     t.part p =
       { s.part p with session := if y.ending then none else some { y with next := y.next + 1, lastClk := s.clk } } ∧
     (∀ j, j ≠ p → t.part j = s.part j) ∧
     t = { s with
           mailboxes := t.mailboxes, funcs := t.funcs, hosts := t.hosts, out := t.out, fw := s.firstServe.fw,
           parts := t.parts })

/-- R75 to R91: losing the source sets source_lost and begins holdover; a source that qualifies again, a good pulse, a
Sync and a completed exchange measure the offset, and only an UNLOCKED device more than 1,000 ns away steps, to the
time measured; a device that is not UNLOCKED answers a TIME_REQ; an evaluation enters the lock state that the
estimated offset gives and computes the window, zero while UNLOCKED and the maximum packet lifetime while LOCKED;
PPS_OUT rises at a whole second and falls 10 ms later; Izlis service begins 1 s after boot at the latest. -/
def Obligations.MeridianTimeKept : Prop :=
  ∀ (s : State),
    let m := s.mer;
    (m.sourceSet = true → m.qualifies = true → m.source ≠ 0 → (m.source = 1 ∨ s.sourceGood = false) →
     exec .sourceLost s = .next { s with
                                  mer := { m with
                                           qualifies := false, sourceLost := true, holdover := true, lowSince := none,
                                           pulseOk := false, lastPulse := if m.source = 1 then none else m.lastPulse } }) ∧
    (∀ (offset : Int),
     let target := (Int.ofNat s.mt + offset).toNat;
     m.sourceSet = true → m.qualifies = false → s.sourceGood = true →
     (m.source ≤ 1 →
      exec (.sourceQualifies offset) s = .next
        { s with mer := { m with qualifies := true, holdover := false, e := some s.chainOffset } }) ∧
     (2 ≤ m.source → exec (.sourceQualifies offset) s = .next (s.measured target (w64 target)))) ∧
    (∀ (target : Nat) (goal : W64),
     let off := apart target s.mt;
     let kept := Prod.mk s.clk off :: m.residuals.filter fun r => s.clk ≤ r.1 + us 1000000;
     let t := s.measured target goal;
     (m.lock ≠ .unlocked ∨ off ≤ 16000 → (-500 ≤ t.mer.freq ∧ t.mer.freq ≤ 500) ∧
      t = { s with
            free := s.free + 1,
            mer := { m with
                     qualifies := true, holdover := false, offset := (Int.ofNat target - Int.ofNat s.mt) * 1000000,
                     freq := t.mer.freq, residuals := kept,
                     e := some ({ s with mer := { m with residuals := kept } } : State).chainOffset } }) ∧
     (m.lock = .unlocked ∧ 16000 < off → t.mer.now = goal ∧ t.mer.stepped = true ∧ t.mer.qualifies = true ∧
      t.mer.residuals = [(s.clk, 0)] ∧ t.mer.lock = .unlocked)) ∧
    (∀ (cycles : Nat) (present : Bool),
     let good := m.lastPulse.isSome && present && apart cycles 10000000 ≤ 1;
     let u := ({ s with mer := { m with lastPulse := some s.clk, pulseOk := good } } : State);
     m.sourceSet = true → m.source = 1 →
     (good = true →
      exec (.ppsInPulse cycles present) s = .next
        (u.measured (nearestSecond s.mt) (if m.presetWritten then m.preset else w64 (nearestSecond s.mt)))) ∧
     (good = false → m.qualifies = true →
      exec (.ppsInPulse cycles present) s = .next
        { u with mer := { u.mer with qualifies := false, sourceLost := true, holdover := true, lowSince := none } }) ∧
     (good = false → m.qualifies = false → exec (.ppsInPulse cycles present) s = .next u)) ∧
    (∀ (port sec ns : Nat) (h : PtpHead) (rank : List Nat) (msg : PtpMsg) (d : Int),
     let heard := ({ clock := h.clock, rank, interval := h.interval, heard := s.clk } : PtpMaster);
     let origin := (sec - m.epochTai.toNat) * 16000000000 + ns * 16;
     let target := (Int.ofNat s.mt + (Int.ofNat origin + d - Int.ofNat (s.ptpArrival port))).toNat;
     let u := ({ s with
                     mer := { m with
                              lastSync := some s.clk,
                              ptp := { m.ptp with down := Int.ofNat (s.ptpArrival port) - Int.ofNat origin } } } :
                     State);
     s.isEth port = true → m.sourceSet = true → m.source = 2 → m.port = port →
     ((s.port port).eth.ptpOutside h msg = true → exec (.ptpMessage port h msg) s = .next (s.ethCount port 5 1)) ∧
     ((s.port port).eth.ptpOutside h (.announce rank) = false → ∃ t,
      exec (.ptpMessage port h (.announce rank)) s = .next t ∧
      t.mer.ptp = { m.ptp with masters := heard :: m.ptp.masters.filter fun x => x.clock != h.clock } ∧
      t.mer.announceLog = (t.bestMaster.map fun x => x.interval).getD m.announceLog ∧
      t = { s with mer := { m with ptp := t.mer.ptp, announceLog := t.mer.announceLog } }) ∧
     ((s.port port).eth.ptpOutside h (.sync false sec ns) = false ∧ s.isBest h.clock = true ∧ m.epochTai.toNat ≤ sec ∧
      m.ptp.delay = some d →
      exec (.ptpMessage port h (.sync false sec ns)) s = .next ((u.measured target (w64 target)).askDelay port)) ∧
     ((s.port port).eth.ptpOutside h (.sync true sec ns) = false ∧ s.isBest h.clock = true →
      exec (.ptpMessage port h (.sync true sec ns)) s = .next
        { s with mer := { m with ptp := { m.ptp with waiting := some (h.clock, h.sequence, s.ptpArrival port) } } })) ∧
    (∀ (port : Nat),
     s.fabricActive port = true → (s.port port).lastTimeReq.all (fun r => decide (r.1 + us 1000 ≤ s.clk)) = true → ∃ t,
     exec (.timeExchange port) s = .next t ∧
     t.port port = { s.port port with lastTimeReq := some (s.clk, m.now), lastControlSent := s.clk } ∧
     (∀ j, j ≠ port → t.port j = s.port j) ∧ t.out = .control port 3 [m.now] :: s.out ∧
     t = { s with ports := t.ports, out := t.out }) ∧
    (∀ (port : Nat) (stamp : W64),
     s.fabricActive port = true → ∃ t, exec (.timeReq port stamp) s = .next t ∧ (∀ j, j ≠ port → t.port j = s.port j) ∧
     t = { s with ports := t.ports, out := t.out } ∧ (t.port port).lastGoodControl = s.clk ∧
     t.out =
       (if m.lock = .unlocked then s.out else .control port 4 [m.now, m.now, w64 s.traced.1, w64 s.traced.2] :: s.out)) ∧
    (∀ (port hops source c : Nat) (rx tx epoch sent : W64),
     let off := ((Int.ofNat rx.toNat - Int.ofNat sent.toNat) + (Int.ofNat tx.toNat - Int.ofNat s.mt)) / 2;
     let target := (Int.ofNat s.mt + off).toNat;
     let u := s.modPort port fun x => { x with
                                            lastGoodControl := s.clk, exchange := some s.clk, farHops := hops,
                                            farSource := source, farEpochTai := epoch };
     s.fabricActive port = true → (s.port port).lastTimeReq = some (c, sent) →
     (m.sourceSet = true ∧ m.source = 3 ∧ m.port = port → ∃ t,
      exec (.timeResp port rx tx hops source epoch) s = .next t ∧ t.mer = (u.measured target (w64 target)).mer) ∧
     (¬(m.sourceSet = true ∧ m.source = 3 ∧ m.port = port) → ∃ t,
      exec (.timeResp port rx tx hops source epoch) s = .next t ∧ t.port port = u.port port ∧
      (∀ j, j ≠ port → t.port j = s.port j) ∧ t = { s with ports := t.ports })) ∧
    (let e := if m.sourceSet && m.qualifies then some s.chainOffset else m.e;
     let low := e.any fun x => decide (x ≤ eNs 25);
     let n := { m with
                    e := e, lowSince := if low && m.qualifies then some (m.lowSince.getD s.clk) else none,
                    highSince := if low then none else some (m.highSince.getD s.clk) };
     m.lastEval + us 1 ≤ s.clk → ∃ t, exec .lockEvaluate s = .next t ∧ t.mer.lock = n.nextLock s.clk ∧ t.mer.e = e ∧
     t.mer.lastEval = s.clk ∧ t.mer.now = m.now ∧ t.mer.appointments = m.appointments ∧
     (t.mer.lock = .unlocked → t.mer.window = 0) ∧ (t.mer.lock = .locked → t.mer.window = w32 s.mpl) ∧
     (t.mer.lock = .degraded →
      t.mer.window = w32 (s.mpl - 4 * (e.getD 0 + (if m.holdover then m.driftBound * 625 * 1600 else 0)) / eUnit)) ∧
     t.mem = s.mem ∧ t.queues = s.queues ∧ t.funcs = s.funcs ∧ t.still = s.still) ∧
    (s.fw.awaitingBoot = false → s.fw.alive = true → s.fw.serving = false → m.lock = .unlocked →
     s.fw.bootClk + us 1000000 ≤ s.clk → ∃ t, exec .rejoinDeadline s = .next t ∧ t.fw = { s.fw with serving := true } ∧
     t = { s with fw := t.fw, survey := t.survey }) ∧
    (m.ppsEnable = true → m.lock ≠ .unlocked → s.mt % 16000000000 ≤ 10 → m.ppsOut = false →
     exec .ppsOutPulse s = .next { s with mer := { m with ppsOut := true, ppsOutRise := s.clk } }) ∧
    (m.ppsOut = true → m.ppsOutRise + us 10000 ≤ s.clk →
     exec .ppsOutFall s = .next { s with mer := { m with ppsOut := false } })

/-- R30, R88, R89 and the rules that make appointments: in every quadrant where it stands first among what is due there,
the chart swap makes the named bank ACTIVE and the other RETAINED for one maximum packet lifetime, after which it is
IDLE; a key rotation moves a quadrant to the pending generation, which with the last quadrant becomes the current
one, the old one kept as long; a Survey epoch publishes the counts and begins the next; a collective starts its next
instance, or is deferred behind the one running; a job's heartbeat sends one packet to each of its targets unless the
device is UNLOCKED. -/
def Obligations.AppointmentsFire : Prop :=
  ∀ (s : State),
    (∀ (bank : Bool) (a : Appointment),
     let kind := ApptKind.chartSwap bank;
     s.mer.appointments.filter (fun b => b.kind == kind) = [a] → s.appt? (.chartSwap (!bank)) = none → a.period = 0 →
     ∃ t, exec .chartBankSwap s = .next t ∧ t = { s with mer := t.mer, charts := t.charts } ∧
     (∀ q, q < 4 →
      t.chart q = if s.apptFiresIn kind q = true then (if bank = s.activeBank q then
                                                         { s.chart q with swapPending := false } else
                                                         { s.chart q with
                                                           active := bank, retained := true, swapPending := false,
                                                           retainEnd := w64 (a.time + s.mpl) }) else s.chart q) ∧
     (a.left ≠ [] ∧ a.left.all (fun q => decide (q < 4) && s.apptFiresIn kind q) = true →
      t.mer = { s.mer with appointments := s.mer.appointments.filter fun b => b.kind != kind })) ∧
    (∃ t, exec .retainEnd s = .next t ∧ t = { s with charts := t.charts } ∧ ∀ q, q < 4 →
     t.chart q = if (s.chart q).retained = true ∧
     (s.chart q).retainEnd.toNat < s.mtQ q then { s.chart q with retained := false } else s.chart q) ∧
    (∀ (p : Nat) (job : Option Nat) (g at0 : Nat) (a : Appointment),
     let kind := ApptKind.keyRotation p job;
     let key := fun (t : State) => if job = none then (t.part p).fabric else
           ((t.job? p (job.getD 0)).bind fun x => x.key).getD {};
     s.mer.appointments.filter (fun b => b.kind == kind) = [a] → a.period = 0 → a.left ≠ [] →
     a.left.all (fun q => decide (q < 4)) = true → (key s).pending = some (g, at0) →
     (job = none ∨ ((s.job? p (job.getD 0)).bind fun x => x.key).isSome) → ∃ t, exec (.keyRotation p job) s = .next t ∧
     (∀ q, q ≠ p → t.part q = s.part q) ∧
     t = { s with mer := t.mer, parts := t.parts, fw := t.fw, survey := t.survey } ∧
     (a.left.all (fun q => s.apptFiresIn kind q) = true → (key t).current = g ∧ (key t).pending = none ∧
      (key t).retained = some ((key s).current, at0 + s.mpl) ∧ (key t).moved = [] ∧
      t.mer = { s.mer with appointments := s.mer.appointments.filter fun b => b.kind != kind }) ∧
     (a.left.all (fun q => s.apptFiresIn kind q) = false → (key t).current = (key s).current ∧
      (key t).pending = (key s).pending ∧
      (key t).moved = ([0, 1, 2, 3].filter fun q => s.apptFiresIn kind q).reverse ++ (key s).moved)) ∧
    (∀ (p : Nat) (g stop : Nat),
     let k := (s.part p).fabric;
     k.retained = some (g, stop) → stop ≤ s.mt → ∃ t, exec (.keyRetainEnd p none) s = .next t ∧
     t.part p = { s.part p with fabric := { k with retained := none } } ∧ (∀ q, q ≠ p → t.part q = s.part q) ∧
     t = { s with parts := t.parts }) ∧
    (∀ (p j : Nat) (x : Job) (k : KeyGens) (g stop : Nat),
     s.job? p j = some x → x.key = some k → k.retained = some (g, stop) → stop ≤ s.mt → ∃ t,
     exec (.keyRetainEnd p (some j)) s = .next t ∧
     t.job? p j = some { x with key := some { k with retained := none } } ∧ (∀ i, i ≠ j → t.job? p i = s.job? p i) ∧
     (∀ q, q ≠ p → t.part q = s.part q) ∧ t = { s with parts := t.parts }) ∧
    (∀ (a : Appointment),
     let v := s.survey;
     let next := (v.newEpochUs.map fun n => nextMultiple a.time (mtUs n)).getD (a.time + a.period);
     s.mer.appointments.filter (fun b => b.kind == .surveyEpoch) = [a] → a.period ≠ 0 → a.left ≠ [] →
     a.left.all (fun q => decide (q < 4) && s.apptFiresIn .surveyEpoch q) = true →
     [0, 1, 2, 3].all (fun q => decide (s.mtQ q < next)) = true → ∃ t, exec .surveyEpoch s = .next t ∧
     t = { s with mer := t.mer, survey := t.survey } ∧
     t.survey = { v with
                  snapshot := v.counts, snapDepth := v.depthMax, snapSamples := v.samples, depthMax := [], samples := 0,
                  snapStart := v.snapEnd, snapEnd := w64 a.time, epoch := v.epoch + 1,
                  epochUs := v.newEpochUs.getD v.epochUs, newEpochUs := none } ∧
     t.mer = { s.mer with
               appointments := s.mer.appointments.map fun b => if b.kind == .surveyEpoch then
                 { a with time := next, period := (v.newEpochUs.map mtUs).getD a.period, acted := [] } else b }) ∧
    (∀ (p q : Nat) (id : W32) (a : Appointment) (c : Schedule) (x : Job),
     let kind := ApptKind.collective p id;
     let u := s.apptAct kind q;
     s.mer.appointments.filter (fun b => b.kind == kind) = [a] → a.quadrants = [q] → a.acted = [] → q < 4 →
     s.apptFiresIn kind q = true → s.schedule? p id = some c → c.released = false →
     tblGet (s.part p).jobs c.header.job = some x → x.aborted = false → ∃ t, exec (.collectiveStart p id) s = .next t ∧
     (c.running.isSome = true → t.schedule? p id = some { c with deferred := c.deferred + 1, late := c.late + 1 } ∧
      t.mer = u.mer ∧ t = { s with mer := t.mer, parts := t.parts, survey := t.survey }) ∧
     (c.running = none ∧ c.deferred = 0 →
      (t.schedule? p id).all (fun y => y.started == c.started + 1 && y.deferred == 0 && y.running.all
                                (fun r => r.number == c.started + 1 && r.startMt == a.time)) = true ∧
      (t.seq c.sequencer).owned = true ∧ (t.seq c.sequencer).partition = p ∧ t.mer.now = s.mer.now ∧
      t.mer.appointments.all (fun b => u.mer.appointments.contains b) = true)) ∧
    (∀ (p j q : Nat) (x : Job) (a : Appointment),
     let kind := ApptKind.heartbeat p j;
     let u := s.apptAct kind q;
     s.job? p j = some x → s.mer.appointments.filter (fun b => b.kind == kind) = [a] → a.quadrants = [q] →
     a.acted = [] → q < 4 → s.apptFiresIn kind q = true → x.heartbeat = true →
     exec (.jobHeartbeat p j) s = .next (if s.mer.lock = .unlocked then u else x.targets.foldl
                                           (fun v m => v.inject (v.jobQuadrant p j) (v.heartbeatPacket p j x m)
                                              (some j)) u))

/-- R116 to R124: REGION_REGISTER writes the entry chosen for it, valid, with a check value that differs from the entry's
last, and answers its region key; REGION_REVOKE of a region with that key makes the entry invalid under the next
generation and quarantines it for one maximum packet lifetime, and answers once nothing checked under the old entry
remains; after that time the entry may be issued again. -/
def Obligations.RegionsRegisteredAndRevoked : Prop :=
  ∀ (s : State),
    (∀ (fn m pick check i : Nat) (cores : Cores),
     let k := mbxKey fn m;
     let x := s.mbx k;
     let p := s.boundTo fn;
     let r := s.newRegion p (x.arg 0) (x.arg 1) (x.arg 2) check (s.region i);
     s.Takes fn m { opcode := 0x0401, words := some 3 } → s.regionArgs p (x.arg 0) (x.arg 1) (x.arg 2) = none →
     choose true 0 s.regionFree (s.underQuota p 3 (s.inUse p 3) 1) 1 65535 pick = .index i → cores ≠ .split → ∃ t,
     exec (.regionRegister fn m pick check cores) s = .next t ∧
     s.Answers t fn m Status.ok 0
       [w64 (w32 (i * 65536 + (t.region i).gen.toNat * 256 + (t.region i).check.toNat)).toNat] ∧ s.OnlyServes t cores ∧
     t.region i = r ∧ r.valid = true ∧ r.partition = p ∧ r.kind = x.arg 0 % 4 ∧ r.read = bit (x.arg 0) 2 ∧
     r.write = bit (x.arg 0) 3 ∧ r.atomic = bit (x.arg 0) 4 ∧ r.context = bits (x.arg 0) 27 16 ∧
     ((s.region i).gen ≠ 0 → r.check ≠ (s.region i).check) ∧ (∀ j, j ≠ i → t.region j = s.region j) ∧
     t = { s with
           mailboxes := t.mailboxes, funcs := t.funcs, hosts := t.hosts, out := t.out, fw := s.servedFw cores,
           regions := t.regions }) ∧
    (∀ (fn m : Nat) (cores : Cores),
     let k := mbxKey fn m;
     let key := w32 ((s.mbx k).arg 0);
     let i := keyIndex key;
     s.Takes fn m { opcode := 0x0402 } → (s.region i).valid = true → (s.region i).partition = s.boundTo fn →
     regionKey i (s.region i) = key → cores ≠ .split → ∃ t, exec (.regionRevoke fn m cores) s = .next t ∧
     s.OnlyServes t cores ∧
     (if s.copyUnder i then s.Awaits t fn m (.regionRevoke i) else s.Answers t fn m Status.ok 0 []) ∧
     t.region i = { s.region i with
                    valid := false, gen := nextGen (s.region i).gen, quarantined := true,
                    quarantineEnd := s.mt + s.mpl } ∧ (∀ j, j ≠ i → t.region j = s.region j) ∧
     t = { s with
           mailboxes := t.mailboxes, funcs := t.funcs, hosts := t.hosts, out := t.out, fw := s.servedFw cores,
           regions := t.regions }) ∧
    (∀ (i : Nat),
     (s.region i).quarantined = true → (s.region i).quarantineEnd ≤ s.mt →
     exec (.regionQuarantineEnd i) s = .next (s.modRegion i fun r => { r with quarantined := false }))

/-- R65, R125 to R131, R138: PLACE_ALLOC enters a placement of the size asked at a free offset, of which every byte reads
zero, under the next generation of its entry; PLACE_FREE of a placement that no region names and no window needs
takes it away with its bytes; PLACE_HINT replaces the wishes. No other byte of memory and no other placement changes. -/
def Obligations.PlacementsAllocatedAndFreed : Prop :=
  ∀ (fn m : Nat) (s : State),
    let k := mbxKey fn m;
    let x := s.mbx k;
    let p := s.boundTo fn;
    (∀ (pick pickOffset i off q : Nat) (lpddr : Bool) (cores : Cores),
     let w := parseWish (x.arg 0);
     let size := x.arg 1;
     s.Takes fn m { opcode := 0x0403, words := some 2 } → ((w.pinTier || w.pinQuadrant) = true → 2 ≤ x.version) →
     w.tier ≠ 3 → size ≠ 0 → size % 4096 = 0 →
     (s.allocate w p size pick pickOffset).toOption = some (i, off, lpddr, q) → cores ≠ .split → ∃ t,
     exec (.placeAlloc fn m pick pickOffset cores) s = .next t ∧
     s.Answers t fn m Status.ok 0 [w64 (p * 2 ^ 28 + (t.place i).gen.toNat * 2 ^ 20 + i), w64 off] ∧
     s.OnlyServes t cores ∧ (t.place i).live = true ∧ (t.place i).partition = p ∧ (t.place i).size = size ∧
     (t.place i).offset = off ∧ (t.place i).gen = nextGen (s.place i).gen ∧ (t.place i).tier = w.tier ∧
     (t.place i).pinTier = w.pinTier ∧
     (t.place i).legs = makeLegs lpddr q (size / 4096) (s.pickFrames lpddr q 0 (s.framesUsed lpddr) (size / 4096)) ∧
     (t.place i).legs.all (fun l => l.frames.all fun f => !(s.framesUsed lpddr).contains f) = true ∧
     (∀ j, j ≠ i → t.place j = s.place j) ∧ (∀ j, j < size → memGet t.mem.cells (spaceKey p off + j) = 0) ∧
     (∀ a, a < spaceKey p off ∨ spaceKey p off + size ≤ a → memGet t.mem.cells a = memGet s.mem.cells a) ∧
     t = { s with
           mailboxes := t.mailboxes, funcs := t.funcs, hosts := t.hosts, out := t.out, fw := s.servedFw cores,
           placements := t.placements, mem := t.mem }) ∧
    (∀ (i : Nat) (y : Placement) (cores : Cores),
     s.Takes fn m { opcode := 0x0404 } → s.handle? p (w64 (x.arg 0)) = some (i, y) → s.placeNamed i = false →
     cores ≠ .split → ∃ t, exec (.placeFree fn m cores) s = .next t ∧ s.Answers t fn m Status.ok 0 [] ∧
     s.OnlyServes t cores ∧ t.place i = { gen := (s.place i).gen, partition := (s.place i).partition } ∧
     (∀ j, j ≠ i → t.place j = s.place j) ∧
     (∀ j, j < (s.place i).size → memGet t.mem.cells (spaceKey (s.place i).partition (s.place i).offset + j) = 0) ∧
     t = { s with
           mailboxes := t.mailboxes, funcs := t.funcs, hosts := t.hosts, out := t.out, fw := s.servedFw cores,
           placements := t.placements, mem := t.mem }) ∧
    (∀ (i : Nat) (y : Placement) (cores : Cores),
     let w := parseWish (x.arg 1);
     let u := s.modPlace i fun y => { y with
                                          tier := w.tier, pinTier := w.pinTier, quadrant := w.quadrant,
                                          pinQuadrant := w.pinQuadrant, preferQuadrant := w.preferQuadrant };
     s.Takes fn m { opcode := 0x0405, since := 2, words := some 2 } → s.handle? p (w64 (x.arg 0)) = some (i, y) →
     w.tier ≠ 3 → s.hintCheck y w = none → cores ≠ .split → ∃ t, exec (.placeHint fn m cores) s = .next t ∧
     s.Answers t fn m Status.ok 0 [] ∧ s.OnlyServes t cores ∧
     t.place i = { s.place i with
                   tier := w.tier, pinTier := w.pinTier, quadrant := w.quadrant, pinQuadrant := w.pinQuadrant,
                   preferQuadrant := w.preferQuadrant, legs := (t.place i).legs } ∧
     t.placements = (u.pursuePins i).placements ∧
     ((u.place i).legs.all (fun l => decide (u.pinnedPlace (u.place i) l = (l.lpddr, l.quadrant))) = true →
      (t.place i).legs = (s.place i).legs) ∧ (∀ j, j ≠ i → t.place j = s.place j) ∧
     t = { s with
           mailboxes := t.mailboxes, funcs := t.funcs, hosts := t.hosts, out := t.out, fw := s.servedFw cores,
           placements := t.placements, survey := t.survey })

/-- R94 to R112, R132 to R137: a scrubber writes a corrected line back, counts the correction and keeps it, and a
repeated one makes the region due for retirement; an uncorrectable line is bad, poisoned where a page stands on it,
and its region due; a due region that holds nothing leaves service and waits to be written to the retire map, and one
that holds a leg has the page moved; a migration that may start does, ends its passes ready with at most 8 dirty
pages, starts another pass, or is abandoned after the fourth, cuts over to its new frames, frees its source, and an
abandoned one starts again. -/
def Obligations.ScrubRetireAndMigrate : Prop :=
  ∀ (s : State),
    (∀ (line : Nat) (upsets : List (Nat × Bool × Nat)),
     let l := (false, line);
     let u := s.strike upsets;
     let places := corrections false (u.verdicts l);
     (u.upset l = 0 → exec (.sramScrub line upsets) s = .next u) ∧
     (u.upset l ≠ 0 ∧ (u.verdicts l).contains .uncorrectable = false → ∃ t, exec (.sramScrub line upsets) s = .next t ∧
      t.upset l = 0 ∧ t.mem.corrections = (places.map fun i => (false, line, i, s.clk)) ++ s.mem.corrections ∧
      (dataOff false (u.verdicts l) = 0 → t.mem.cells = s.mem.cells) ∧
      (places.any (fun i => s.mem.corrections.any fun c => !c.1 && c.2.1 == line && c.2.2.1 == i) = true →
       (false, line / 64) ∈ t.mem.retireDue ∨ (line / 64) ∈ t.mem.sramRetired) ∧
      t = { s with mem := t.mem, survey := t.survey }) ∧
     ((u.verdicts l).contains .uncorrectable = true ∧
      (u.spaceLine l).all (fun x => decide (u.physLine x = some l)) = true → ∃ t,
      exec (.sramScrub line upsets) s = .next t ∧ t.upset l = 0 ∧ l ∈ t.mem.badLines ∧
      (∀ x, u.spaceLine l = some x → x ∈ t.mem.poisoned) ∧ t.mem.cells = s.mem.cells ∧ t.still = s.still ∧
      t.firm = s.firm ∧ ((false, line / 64) ∈ t.mem.retireDue ∨ (line / 64) ∈ t.mem.sramRetired))) ∧
    (∀ (line : Nat) (upsets : List (Nat × Bool × Nat)),
     let l := (true, line);
     let u := s.strike upsets;
     let places := corrections true (u.verdicts l);
     (s.mem.inlineEcc = false ∨ u.upset l = 0 → exec (.patrolScrub line upsets) s = .next u) ∧
     (s.mem.inlineEcc = true ∧ u.upset l ≠ 0 ∧ (u.verdicts l).contains .uncorrectable = false → ∃ t,
      exec (.patrolScrub line upsets) s = .next t ∧ t.upset l = 0 ∧
      t.mem.corrections = (places.map fun i => (true, line, i, s.clk)) ++ s.mem.corrections ∧
      (dataOff true (u.verdicts l) = 0 → t.mem.cells = s.mem.cells) ∧
      (places ≠ [] ∧
       s.mem.corrections.any
         (fun c => c.1 && c.2.1 != line && c.2.1 / 64 == line / 64 && decide (s.clk < c.2.2.2 + us 86400000000)) = true
         → (true, line / 64) ∈ t.mem.retireDue ∨ (line / 64) ∈ t.mem.lpddrRetired) ∧
      t = { s with mem := t.mem, survey := t.survey }) ∧
     (s.mem.inlineEcc = true ∧ (u.verdicts l).contains .uncorrectable = true ∧
      (u.spaceLine l).all (fun x => decide (u.physLine x = some l)) = true → ∃ t,
      exec (.patrolScrub line upsets) s = .next t ∧ t.upset l = 0 ∧ l ∈ t.mem.badLines ∧
      (∀ x, u.spaceLine l = some x → x ∈ t.mem.poisoned) ∧ t.mem.cells = s.mem.cells ∧ t.still = s.still ∧
      t.firm = s.firm ∧ ((true, line / 64) ∈ t.mem.retireDue ∨ (line / 64) ∈ t.mem.lpddrRetired))) ∧
    (∀ (lpddr : Bool) (region : Nat),
     ((lpddr, region) ∈ s.mem.retireDue ∨ (lpddr, region) ∈ s.mem.retirePending) → s.holders lpddr region = [] →
     (lpddr = true → s.mem.lpddrRetired.length < 16384) → ∃ t, exec (.regionRetire lpddr region) s = .next t ∧
     region ∈ (if lpddr then t.mem.lpddrRetired else t.mem.sramRetired) ∧ (lpddr, region) ∈ t.mem.mapPending ∧
     (lpddr, region) ∉ t.mem.retireDue ∧ (lpddr, region) ∉ t.mem.retirePending ∧ t.mem.cells = s.mem.cells ∧
     t.still = s.still ∧ t.firm = s.firm) ∧
    (∀ (lpddr : Bool) (region i leg : Nat),
     (lpddr, region) ∈ s.mem.retireDue → s.holders lpddr region = [(i, leg)] →
     (lpddr = true → s.mem.lpddrRetired.length < 16384 ∧ (s.part (s.place i).partition).rekey = none) →
     0 < s.freeIn lpddr (regionQuadrant lpddr region) →
     exec (.regionRetire lpddr region) s = .next (s.moveRegion lpddr region i leg)) ∧
    (let n := RetireMap.sealed
           { sequence := s.mem.mapSequence + 1, sram := s.mem.sramRetired, lpddr := s.mem.lpddrRetired };
     s.mem.mapPending ≠ [] → s.fw.alive = true →
     exec .retireMapWrite s = .next (s.modMem fun m => { m with
                                                         mapPending := [], mapSequence := m.mapSequence + 1,
                                                         map0 := if m.map1.sequence < m.map0.sequence then m.map0 else
                                                           n,
                                                         map1 := if m.map1.sequence < m.map0.sequence then n else
                                                           m.map1 })) ∧
    (∀ (i leg q : Nat) (r : MigrateReason) (lpddr : Bool) (l : Leg) (h : Heat),
     let frames := s.pickFrames lpddr q (leg * 512) (s.framesUsed lpddr) l.pages;
     (s.place i).legs[leg]? = some l → s.mayMigrate (s.place i) leg l r lpddr q = true →
     s.reasonHolds i leg r q h = true → ∃ t, exec (.migrationStart i leg r lpddr q h) s = .next t ∧
     frames.all (fun f => !(s.framesUsed lpddr).contains f) = true ∧
     (t.place i).legs[leg]? = some { l with
                                     migration := some { reason := r, lpddr := lpddr, quadrant := q, frames := frames,
                                                         progressClk := s.clk }, abandoned := none } ∧
     (∀ j, j ≠ leg → (t.place i).legs[j]? = (s.place i).legs[j]?) ∧ (∀ j, j ≠ i → t.place j = s.place j) ∧
     t = { s with placements := t.placements, survey := t.survey }) ∧
    (∀ (i leg : Nat) (g : Migration),
     s.migration? i leg = some g → g.ready = false → s.rekeyBars i leg g = false → s.copyMismatch i leg = none →
     exec (.preCopyPassEnd i leg) s = .next (s.modLeg i leg fun l => if g.dirty.length ≤ 8 then
                                               { l with
                                                 migration := some { g with
                                                                     passes := g.passes + 1, ready := true,
                                                                     progressClk := s.clk } } else if g.passes < 3 then
                                               { l with
                                                 migration := some
                                                   { g with
                                                     passes := g.passes + 1, dirty := [], progressClk := s.clk } } else
                                               { l with
                                                 migration := none, abandoned := some g, lastMove := some s.clk })) ∧
    (∀ (i leg : Nat) (g : Migration),
     let u := s.copyLines i leg;
     s.migration? i leg = some g → g.ready = true → s.rekeyBars i leg g = false →
     exec (.cutOver i leg) s = .next (u.modLeg i leg fun l => { l with
                                                                lpddr := g.lpddr, quadrant := g.quadrant,
                                                                frames := g.frames, migration := none,
                                                                source := some (l.lpddr, l.frames),
                                                                lastMove := some s.clk, moves := l.moves + 1 }).stir ∧
     (s.mem.upsets = [] → u = s)) ∧
    (∀ (i leg : Nat),
     let u := s.modLeg i leg fun l => { l with source := none };
     exec (.sourceFree i leg) s = .next (u.pursuePins i) ∧
     ((u.place i).legs.all (fun l => decide (u.pinnedPlace (u.place i) l = (l.lpddr, l.quadrant))) = true →
      exec (.sourceFree i leg) s = .next u)) ∧
    (∀ (i leg : Nat) (l : Leg) (g : Migration),
     let frames := s.pickFrames g.lpddr g.quadrant (leg * 512) (s.framesUsed g.lpddr) l.pages;
     (s.place i).legs[leg]? = some l → l.abandoned = some g →
     (g.reason ≠ .retirement ∧ s.mayMigrate (s.place i) leg l g.reason g.lpddr g.quadrant = true → ∃ t,
      exec (.migrationRetry i leg) s = .next t ∧
      (t.place i).legs[leg]? = some { l with
                                      migration := some { reason := g.reason, lpddr := g.lpddr, quadrant := g.quadrant,
                                                          frames := frames, progressClk := s.clk }, abandoned := none }
        ∧ (∀ j, j ≠ leg → (t.place i).legs[j]? = (s.place i).legs[j]?) ∧ (∀ j, j ≠ i → t.place j = s.place j) ∧
      t = { s with placements := t.placements, survey := t.survey }) ∧
     (∀ r, g.reason = .retirement ∧ s.mem.retireDue = [(g.lpddr, r)] ∧ (i, leg) ∈ s.holders g.lpddr r →
      exec (.migrationRetry i leg) s = .next (s.moveRegion g.lpddr r i leg)))

/-- R150 to R163: a waiting tile whose pages are translated starts; a completion that is not stale puts its entries first
in the ATC and its tiles go on, a stale one is asked for again before every other miss, and one of a function whose
requests go untranslated is discarded; a response closes its page request group, and its pages are translated again,
or its tiles fault, or fail and stop the function's page requests; 500 ms without one fail them and keep the group's
index for a late response, which frees it; clearing ATS Enable drops every translation of the function; PRI Reset
lets it send page requests again. What then can move, moves (stir). -/
def Obligations.TranslationsAnswered : Prop :=
  ∀ (s : State),
    (∀ (id : Nat) (t : Tile),
     let u := s.startTile id;
     tblGet s.tiles id = some t → (t.state = .waiting ∨ t.state = .cancelled) → s.tileReady t = true →
     exec (.tileStart id) s = .next u.stir ∧ (tblGet u.tiles id).all (fun t => t.state == .started) = true ∧
     u.stir.still = s.still ∧ u.stir.firm = s.firm) ∧
    (∀ (port request : Nat) (w : Walk) (l : List PageResult),
     let entries := l.flatMap fun r => atcEntries w.requester w.pasid r;
     let v := s.modHost port fun h => { h with walks := h.walks.filter fun x => x.id != request };
     let u := v.modHost port fun h => closeFaults (h.fill w.requester w.pasid entries) w.pasid w.requester;
     (s.host port).walks.find? (fun w => w.id == request) = some w →
     (s.translated w.requester = true ∧ w.staleFor l = false →
      exec (.translationCompletion port request (.pages l)) s = .next (w.tiles.foldl
                                                                         (fun s id => State.tileAnswer s id false
                                                                            w.pages)
                                                                         (u.faultAgain port w.pasid w.pages)).issueWalks.stir
        ∧ (∀ x ∈ (u.host port).walks, x.id ≠ request) ∧ (u.host port).atc.take entries.length = entries.take 16384) ∧
     (s.translated w.requester = true ∧ w.staleFor l = true →
      exec (.translationCompletion port request (.pages l)) s = .next
        (v.modHost port fun h => { h with misses := w :: h.misses }).issueWalks) ∧
     (s.translated w.requester = false → exec (.translationCompletion port request (.pages l)) s = .next v.issueWalks)) ∧
    (∀ (port request : Nat) (w : Walk),
     let v := s.modHost port fun h => { h with walks := h.walks.filter fun x => x.id != request };
     let u := v.modHost port fun h => closeFaults (h.fill w.requester w.pasid []) w.pasid w.requester;
     (s.host port).walks.find? (fun w => w.id == request) = some w → s.translated w.requester = true →
     w.staleFor [] = false →
     (w.tiles = [] →
      exec (.translationCompletion port request .failed) s = .next ((u.modHost port fun h =>
                                                                       { h with
                                                                         failed := h.failed ++ w.pages.map fun p =>
                                                                           (w.requester, w.pasid, p) }).faultAgain port
                                                                      w.pasid w.pages).issueWalks.stir) ∧
     (w.tiles ≠ [] →
      exec (.translationCompletion port request .failed) s = .next (w.tiles.foldl
                                                                      (fun s id => State.tileAnswer s id true w.pages)
                                                                      (u.faultAgain port w.pasid w.pages)).issueWalks.stir)) ∧
    (∀ (port group : Nat) (g : Group),
     let ids := (s.host port).groupTiles group;
     let u := s.closeGroup port group false;
     let v := s.answerGroup port group;
     let wr := ((s.host port).groupFaults group).any fun f => f.write;
     (s.host port).groups.find? (fun g => g.id == group) = some g → g.timedOut = false →
     exec (.pageRequestGroupResponse port group .success) s = .next
       ((v.missPages port g.requester g.pasid g.pages wr ids).retryGroups port).stir ∧
     exec (.pageRequestGroupResponse port group .invalidRequest) s = .next
       ((u.failTiles ids Status.translationFault).retryGroups port).stir ∧
     exec (.pageRequestGroupResponse port group .responseFailure) s = .next
       (((u.failTiles ids Status.pageRequestFailed).modFunc g.requester fun f => { f with priStopped := true }).retryGroups
          port).stir ∧ (∀ x ∈ (u.host port).groups, x.id ≠ group) ∧
     (∀ f ∈ (u.host port).faults, f.group = group → f.answered = true ∨ f.again = true) ∧
     (∀ x ∈ (v.host port).groups, x.id ≠ group) ∧
     (∀ f ∈ (v.host port).faults, f.group = group → f.answered = true ∨ f.again = true)) ∧
    (∀ (port group : Nat) (g : Group) (r : PrgResponse),
     (s.host port).groups.find? (fun g => g.id == group) = some g → g.timedOut = true →
     exec (.pageRequestGroupResponse port group r) s = .next ((s.closeGroup port group false).retryGroups port)) ∧
    (∀ (port group : Nat) (g : Group),
     let u := s.closeGroup port group true;
     (s.host port).groups.find? (fun g => g.id == group) = some g → g.timedOut = false → g.sentClk + us 500000 ≤ s.clk →
     exec (.pageRequestTimeout port group) s = .next
       ((u.failTiles ((s.host port).groupTiles group) Status.pageRequestTimeout).retryGroups port).stir ∧
     (∀ x ∈ (u.host port).groups, x.id = group → x.timedOut = true ∧ x.pages = []) ∧
     (∀ f ∈ (u.host port).faults, f.group = group → f.answered = true ∨ f.again = true)) ∧
    (∀ (fn : Nat),
     let u := (s.clearTranslations fn).modFunc fn fun f => { f with atsEnable := false };
     (s.func fn).present = true → exec (.atsEnableClear fn) s = .next u.stir ∧
     (∀ e ∈ (u.host (fnPort fn)).atc, e.requester ≠ fn) ∧
     (∀ r ∈ u.tiles, r.2.requester = fn → r.2.ready = [] ∧ r.2.state ≠ .faulted) ∧
     (∀ w ∈ (u.host (fnPort fn)).misses, w.requester ≠ fn)) ∧
    (∀ (fn : Nat),
     (s.func fn).present = true → exec (.priReset fn) s = .next (s.modFunc fn fun f => { f with priStopped := false }))

/-- R167 to R170: an invalidation request, with fewer than 32 in progress, leaves no ATC entry that overlaps it and
either stays in progress or completes at once; the acknowledgement of the last engine that held a translation in the
range sends the completion; 950 µs after it arrived the host reads issued under the old translation count as never
issued: their data is discarded and their tiles read those bytes again. Only tiles, the host port and what is sent
change. -/
def Obligations.InvalidationsComplete : Prop :=
  ∀ (s : State),
    (∀ (port tag base length : Nat) (pasid : Option Nat) (global : Bool),
     (s.host port).invalidations.length < 32 → (s.host port).invalidations.any (fun v => v.tag == tag) = false → ∃ t,
     exec (.invalidateRequest port tag base length pasid global) s = .next t ∧
     (t.host port).atc = (s.host port).atc.filter
       (fun e => !invCovers base length pasid global e.pasid e.page (e.size / 4096)) ∧
     (∀ w ∈ (s.host port).walks, { w with since := w.since ++ [(base, length, pasid, global)] } ∈ (t.host port).walks) ∧
     ((t.host port).invalidations.any (fun v => v.tag == tag) = true ∨ Out.invalidationDone port tag ∈ t.out) ∧
     t = { s with tiles := t.tiles, out := t.out, hosts := t.hosts }) ∧
    (∀ (port tag engine : Nat) (v : Invalidation),
     let left := v.pending.filter fun e => e != engine;
     (s.host port).invalidations.find? (fun v => v.tag == tag) = some v →
     s.engineHolds port engine v.base v.length v.pasid v.global = false → ∃ t,
     exec (.invalidationAck port tag engine) s = .next t ∧
     t = { s with tiles := t.tiles, out := t.out, hosts := t.hosts } ∧
     (left = [] ∧ (s.host port).linkUp = true → Out.invalidationDone port tag ∈ t.out ∧
      (t.host port).invalidations = (s.host port).invalidations.filter (fun x => x.tag != tag)) ∧
     (¬(left = [] ∧ (s.host port).linkUp = true) →
      (t.host port).invalidations.find? (fun v => v.tag == tag) = some { v with pending := left })) ∧
    (∀ (port tag : Nat) (v : Invalidation),
     let old := (s.host port).reads.filter fun r => r.origin.any fun o => invCovers v.base v.length v.pasid v.global
           r.pasid o.2 1;
     (s.host port).invalidations.find? (fun v => v.tag == tag) = some v → v.arrivedClk + us 950 ≤ s.clk → ∃ t,
     exec (.staleReadExpiry port tag) s = .next t ∧
     (∀ r ∈ (t.host port).reads, ∀ o ∈ old, r.tag = o.tag → r.purpose = .discard ∧ r.origin = none) ∧
     old.all (fun r => t.rereads r) = true ∧ t = { s with tiles := t.tiles, out := t.out, hosts := t.hosts })

/-- R179 to R202: a doorbell within reach sets the producer and has the slots read, a stale one is only counted, one too
far ahead only sets bad_doorbell; a slot read that returns a valid head slot has its descriptor accepted with the
status its checks give, an invalid one is read again after 1 µs at most eight times and then, as a failed read does
at once, puts the queue into ERROR; QUE_CTRL suspends, and restarts a queue in ERROR with a fresh allowance; a round
credits every queue of the quadrant and starts waiting descriptors while credit lasts. -/
def Obligations.SendQueuesTakeWork : Prop :=
  ∀ (s : State),
    (∀ (fn slot qn : Nat) (value : W32) (q : Queue),
     let d := (value - q.producer).toNat;
     let size := slotsOf q.log2;
     let n := min (min 8 ((s.host (fnPort q.fn)).maxRead / slotSize q.version))
           (min (size - q.consumer.toNat % size) size);
     s.slotQueue fn slot = some qn → s.queue? qn = some q → q.state ≠ .draining → (s.func fn).quiescing = false →
     s.mmioOk fn = true →
     ((s.quad q.home).clockStopped = true →
      exec (.queDoorbell fn slot value) s = .next (s.modRec fun r => { r with
                                                                       wakes := r.wakes ++
                                                                         [{ domain := .engine q.home, sinceClk := s.clk,
                                                                            fn := fn, slot := slot, value := value }] }))
       ∧
     ((s.quad q.home).clockStopped = false ∧ (d = 0 ∨ 2 ^ 31 ≤ d) →
      exec (.queDoorbell fn slot value) s = .next (s.count Count.staleDoorbell)) ∧
     ((s.quad q.home).clockStopped = false → 0 < d → d < 2 ^ 31 → size < (value - q.consumer).toNat →
      exec (.queDoorbell fn slot value) s = .next (s.setQueue qn { q with badDoorbell := true })) ∧
     ((s.quad q.home).clockStopped = false → 0 < d → d < 2 ^ 31 → (value - q.consumer).toNat ≤ size → ∃ t,
      exec (.queDoorbell fn slot value) s = .next t ∧ (t.queue? qn).all (fun x => x.producer == value) = true ∧
      t.still = s.still ∧ t.firm = s.firm ∧
      (q.kept = [] → value ≠ q.consumer → q.accepts = true → q.held.length < 64 → q.refetchAt = none →
       s.slotReadOut qn q = false → s.unitDown (.transport q.home) = false → n ≠ 0 → (s.host (fnPort q.fn)).reads = [] →
       (t.host (fnPort q.fn)).reads = [{ fn := q.fn,
                                         addr := w64 (q.base.toNat + q.consumer.toNat % size * slotSize q.version),
                                         length := n * slotSize q.version, purpose := .slots qn q.consumer n,
                                         issuedClk := s.clk, trusted := s.inRun q.fn }]))) ∧
    (∀ (fn slot qn : Nat) (value : W32) (q : Queue),
     let restart := value.getLsbD 1 && q.errorStatus != 0;
     s.slotQueue fn slot = some qn → s.queue? qn = some q → s.mmioOk fn = true →
     exec (.queRestart fn slot value) s = exec (.queSuspend fn slot value) s ∧ ∃ t,
     exec (.queSuspend fn slot value) s = .next t ∧
     (t.queue? qn).all (fun x => x.suspend == value.getLsbD 0 && x.errorStatus == (if restart then 0 else q.errorStatus)
                          && x.producer == q.producer) = true ∧
     (value.getLsbD 0 = true →
      (t.queue? qn).all
        (fun x => x.state == (if q.state = .draining then .draining else .suspended) && x.consumer == q.consumer) =
        true) ∧ t.still = s.still ∧ t.firm = s.firm) ∧
    (∀ (qn : Nat) (q : Queue) (u : State) (b : List Byte),
     let d := parseDesc q.version b;
     let inl := if q.version = 1 then 0 else inlineLen b;
     let st := s.acceptStatus q d 0 inl;
     s.queue? qn = some q → s.takeSlotRead qn q.consumer = some (u, 1) → w32 (field b 0 4) = q.consumer → q.kept = [] →
     q.accepts = true → q.held.length < 64 → q.producer = q.consumer + 1 → extraSlots q.version b = 0 →
     (s.segOf q.context d.localAddr).kind ≠ 1 →
     exec (.slotReadComplete qn q.consumer (some [b])) s = .next (u.setQueue qn
                                                                    { q with
                                                                      consumer := q.consumer + 1, refetches := 0,
                                                                      refetchAt := none, progressClk := s.clk,
                                                                      kept := [],
                                                                      held := q.held ++
                                                                        [{ d with
                                                                           contextGen := (s.ctx q.context).gen,
                                                                           seg := s.segOf q.context d.localAddr,
                                                                           inlineData := if d.inline then inlineBytes b
                                                                             [] inl else [],
                                                                           phase := if st.1 = Status.ok then .accepted
                                                                             else .completed, status := st.1,
                                                                           detail := st.2, acceptedClk := s.clk }] })) ∧
    (∀ (qn n : Nat) (q : Queue) (u : State) (l : List (List Byte)),
     s.queue? qn = some q → s.takeSlotRead qn q.consumer = some (u, n) → 0 < n → q.kept = [] → q.state ≠ .draining →
     q.errorStatus = 0 → q.producer ≠ q.consumer →
     (∀ r ∈ (l.take n).zipIdx, w32 (field r.1 0 4) ≠ q.consumer + w32 r.2) → s.ring? q.ring = none →
     (q.refetches < 8 →
      exec (.slotReadComplete qn q.consumer (some l)) s = .next
        (u.setQueue qn { q with refetchAt := some (s.clk + us 1) })) ∧
     (8 ≤ q.refetches →
      exec (.slotReadComplete qn q.consumer (some l)) s = .next (u.setQueue qn
                                                                   (settle
                                                                      { q with
                                                                        errorStatus := Status.descriptorNotVisible,
                                                                        refetchAt := none, refetches := 0, kept := [] })))
       ∧
     exec (.slotReadComplete qn q.consumer none) s = .next (u.setQueue qn
                                                              (settle { q with
                                                                        errorStatus := Status.hostAccessError,
                                                                        refetchAt := none, refetches := 0, kept := [] }))) ∧
    (∀ (qn : Nat) (q : Queue) (c : Nat),
     s.queue? qn = some q → q.refetchAt = some c → c ≤ s.clk → q.accepts = true →
     s.unitDown (.transport q.home) = false →
     exec (.slotRefetch qn) s = .next
       ((s.setQueue qn { q with refetchAt := none, refetches := q.refetches + 1 }).readSlots qn q q.firstMissing)) ∧
    (∀ (quadrant n : Nat) (q : Queue) (d : Desc),
     let c := creditQueue q;
     (s.quad quadrant).senders.length < 65536 → s.queue? n = some q → q.home = quadrant → c.waits = true →
     c.mayStart = true → 0 < c.credit → 0 < c.burst → nextStart c.held = some d → ∃ t,
     exec (.schedulerRound quadrant) s = .next t ∧ (t.desc? n d.index).all (fun e => e.phase != .accepted) = true ∧
     t.still = s.still ∧ t.firm = s.firm)

/-- R196, R203 to R213: an ended descriptor that is suppressed and OK is retired without an entry; any other writes its
32 bytes at the ring's producer and is retired, or waits for a flush of the other port first; a completed flush that
was issued sends its entry on; a consumer index in range frees space and one out of range only sets bad_consumer;
arming sets armed and starts the holdoff anew; where the count or the holdoff then holds, the ring's interrupt goes
out once and disarms it. -/
def Obligations.CompletionRingsFill : Prop :=
  ∀ (s : State),
    (∀ (fn slot rn : Nat) (value : W32) (r : Ring),
     s.slotRing fn slot = some rn → s.ring? rn = some r → s.mmioOk fn = true →
     (2 ^ 31 ≤ (value - r.consumer).toNat ∨ 2 ^ 31 ≤ (r.producer - value).toNat →
      exec (.cmpConsumer fn slot value) s = .next (s.setRing rn { r with badConsumer := true })) ∧
     ((value - r.consumer).toNat < 2 ^ 31 → (r.producer - value).toNat < 2 ^ 31 → ∃ t,
      exec (.cmpConsumer fn slot value) s = .next t ∧ (t.ring? rn).all (fun x => x.consumer == value) = true ∧
      (r.overflow = [] → r.waiting = [] →
       (t.ring? rn).map (fun x => { x with armed := r.armed }) = some { r with consumer := value }) ∧ t.still = s.still)) ∧
    (∀ (fn slot rn : Nat) (value : W32) (r : Ring),
     s.slotRing fn slot = some rn → s.ring? rn = some r → s.mmioOk fn = true →
     (value.getLsbD 0 = false → exec (.cmpIntArm fn slot value) s = .next s) ∧
     (value.getLsbD 0 = true →
      exec (.cmpIntArm fn slot value) s = .next (s.setRing rn { r with armed := true, firstEntry := none }))) ∧
    (∀ (rn : Nat) (r : Ring),
     let holds := r.count ≤ r.used ∨ r.holdoff ≠ 0 ∧
         (r.firstEntry.any fun c => decide (c + us r.holdoff ≤ s.clk)) = true;
     s.ring? rn = some r →
     (r.intEnable = true ∧ r.armed = true ∧ holds →
      exec (.holdoffExpiry rn) s = .next ((s.setRing rn { r with armed := false }).msix r.fn r.vector)) ∧
     (¬(r.intEnable = true ∧ r.armed = true ∧ holds) → exec (.holdoffExpiry rn) s = .next s)) ∧
    (∀ (qn : Nat) (i : W32) (q : Queue) (d : Desc),
     let u := s.setQueue qn
           { q with held := q.held.filter fun d => d.index != i, completed := q.completed + 1, progressClk := s.clk };
     s.queue? qn = some q → s.desc? qn i = some d → d.phase = .completed → s.entryFormed qn i = false →
     q.state ≠ .draining → d.suppress = true → d.status = Status.ok → exec (.descriptorComplete qn i) s = .next u) ∧
    (∀ (qn : Nat) (i : W32) (q : Queue) (d : Desc) (r : Ring),
     let u := s.setQueue qn
           { q with held := q.held.filter fun d => d.index != i, completed := q.completed + 1, progressClk := s.clk };
     s.queue? qn = some q → s.desc? qn i = some d → d.phase = .completed → s.entryFormed qn i = false →
     q.state ≠ .draining → s.ring? q.ring = some r → (¬(d.suppress = true ∧ d.status = Status.ok)) →
     s.unitDown (.transport r.home) = false →
     (d.lastHostWrite = none → r.full = false → r.overflow = [] → r.waiting = [] → ∃ t,
      exec (.descriptorComplete qn i) s = .next t ∧ t.queues = u.queues ∧
      (t.ring? q.ring).all (fun x => x.producer == r.producer + 1) = true ∧
      ((s.host (fnPort r.fn)).linkUp = true →
       Out.hostWrite (fnPort r.fn) { fn := r.fn, addr := w64 (r.base.toNat + r.producer.toNat % slotsOf r.log2 * 32),
                                     bytes := entryBytes r.producer (entryOf qn q d), relaxed := false } ∈ t.out) ∧
      t = { s with queues := t.queues, rings := t.rings, funcs := t.funcs, out := t.out, hosts := t.hosts }) ∧
     (d.lastHostWrite = none → r.full = true → r.overflow.length < 256 → r.waiting = [] →
      exec (.descriptorComplete qn i) s = .next
        (u.setRing q.ring { r with overflow := r.overflow ++ [entryOf qn q d] })) ∧
     (∀ port addr translated, d.lastHostWrite = some (port, addr, translated) ∧ port ≠ fnPort r.fn → ∃ t,
      exec (.descriptorComplete qn i) s = .next t ∧ t = { s with rings := t.rings, hosts := t.hosts, out := t.out } ∧
      (t.ring? q.ring) = some { r with
                                flushing := r.flushing ++ [{ entry := entryOf qn q d, port := port,
                                                             requester := (s.ctx q.context).requester,
                                                             pasid := (s.ctx q.context).pasid, addr := addr,
                                                             translated := translated }] })) ∧
    (∀ (qn rn : Nat) (i : W32) (r : Ring) (f : Flush),
     let read := ReadUse.flush qn i;
     let mine := fun (f : Flush) => f.entry.queue == qn && f.entry.descIndex == i;
     let u := (s.dropReads 0 read).dropReads 1 read;
     s.rings.find? (fun x => x.2.flushing.any mine) = some (rn, r) → r.flushing.find? mine = some f →
     ([0, 1].any (fun p => (s.host p).reads.any fun x => x.purpose == read) = true →
      exec (.completionFlushDone qn i) s = .next
        ((u.setRing rn { r with flushing := r.flushing.filter fun x => x != f }).ringPush rn f.entry) ∧ ∀ p, p < 2 →
      ∀ x ∈ (u.host p).reads, x.purpose ≠ read) ∧
     ([0, 1].any (fun p => (s.host p).reads.any fun x => x.purpose == read) = false →
      exec (.completionFlushDone qn i) s = .next s))

/-- R189 to R191, R217, R246, R254: a started NOP completes with OK; a started WRITE forms its messages of at most 256
KiB, a READ of at most 64 KiB and an atomic one of 16 bytes, each a READY sender entry of the queue's home quadrant
with the descriptor's destination, region key and class, and runs; on a bound queue they work over the queue pair or
controller; KERNEL_START gives the kernel a free sequencer of the quadrant with the descriptor's operands as its
scalars, and completes with BAD_OBJECT where the partition has no such kernel. -/
def Obligations.DescriptorsStart : Prop :=
  ∀ (s : State) (qn : Nat) (i : W32) (x : Queue) (d : Desc),
    let n := (s.quad x.home).nextMsg;
    let old := (s.quad x.home).senders;
    (s.startedDesc qn i 0 = some (x, d) → (x.bound = .none → exec (.nop qn i) s = .next (s.endDesc qn i Status.ok 0)) ∧
     (∀ c, x.bound = .controller c → exec (.nop qn i) s = .next (s.startBound qn x d)) ∧
     (∀ p, x.bound = .queuePair p → exec (.nop qn i) s = .next (s.endDesc qn i Status.ok 0)) ∧
     (d.phase = .started →
      ((s.endDesc qn i Status.ok 0).desc? qn i).all (fun e => e.phase == .completed && e.status == Status.ok) = true)) ∧
    (let l := messagesOf opWrite d.length;
     s.startedDesc qn i 1 = some (x, d) → d.index = i → x.bound = .none →
     (d.inline = false → d.seg.kind ≠ 1 → inAccelWindow (segTarget d.seg d.localAddr) = true →
      s.accelServes (windowOf (segTarget d.seg d.localAddr)) x.partition = true) → (∀ r ∈ old, r.1 < n) →
     old.length + l.length ≤ 65536 → ∃ t, exec (.write qn i) s = .next t ∧
     (t.desc? qn i).all (fun e => e.phase == .running && e.toSend == []) = true ∧ t.still = s.still ∧ t.firm = s.firm ∧
     (∀ k, k < l.length →
      tblGet (t.quad x.home).senders (n + k) = some
        { descMessage qn x d (l.getD k (0, 0)).1 (l.getD k (0, 0)).2 (k + 1 == l.length) with formed := s.clk }) ∧
     (∀ k, k < n → tblGet (t.quad x.home).senders k = tblGet old k) ∧ (t.quad x.home).nextMsg = n + l.length) ∧
    (let l := messagesOf opReadReq d.length;
     s.startedDesc qn i 2 = some (x, d) → d.index = i → x.bound = .none → (∀ r ∈ old, r.1 < n) →
     old.length + l.length ≤ 65536 → ∃ t, exec (.read qn i) s = .next t ∧
     (t.desc? qn i).all (fun e => e.phase == .running && e.toSend == []) = true ∧
     t = { s with quads := t.quads, queues := t.queues } ∧
     (∀ k, k < l.length →
      tblGet (t.quad x.home).senders (n + k) = some
        { descMessage qn x d (l.getD k (0, 0)).1 (l.getD k (0, 0)).2 (k + 1 == l.length) with formed := s.clk }) ∧
     (∀ k, k < n → tblGet (t.quad x.home).senders k = tblGet old k) ∧ (t.quad x.home).nextMsg = n + l.length) ∧
    (∀ (b : List Byte),
     let e := if x.version = 1 then { d with operandA := w64 (field b 0 8), operandB := w64 (field b 8 8) } else d;
     s.startedDesc qn i d.opcode = some (x, d) → d.index = i → isAtomic d.opcode = true → x.bound = .none →
     (x.version = 1 → (s.localRead (.desc qn i) x.partition d.seg d.localAddr 0 16).toOption = some b) →
     (∀ r ∈ old, r.1 < n) → old.length < 65536 → ∃ t,
     (if d.opcode = 3 then exec (.add64 qn i) s else if d.opcode = 4 then exec (.add32 qn i) s else if d.opcode = 5 then
        exec (.cas64 qn i) s else exec (.cas32 qn i) s) = .next t ∧
     (t.desc? qn i).all (fun y => y.phase == .running && y.toSend == []) = true ∧
     tblGet (t.quad x.home).senders n = some { descMessage qn x e 0 d.length true with formed := s.clk } ∧
     (∀ k, k < n → tblGet (t.quad x.home).senders k = tblGet old k) ∧
     t = { s with quads := t.quads, queues := t.queues }) ∧
    (1 ≤ d.opcode → d.opcode ≤ 2 → s.startedDesc qn i d.opcode = some (x, d) → x.bound ≠ .none →
     (if d.opcode = 1 then exec (.write qn i) s else exec (.read qn i) s) = .next (s.startBound qn x d)) ∧
    (∀ (k : Nat) (image : Kernel),
     s.startedDesc qn i 7 = some (x, d) → d.phase = .started → tblGet s.kernels d.kernelId = some image →
     image.partition = x.partition → seqQuadrant k = x.home → k < 64 → s.seqFree k = true → ∃ t,
     exec (.kernelStart qn i k) s = .next t ∧ t = { s with queues := t.queues, seqs := t.seqs } ∧
     (t.desc? qn i).all (fun e => e.phase == .running) = true ∧
     t.seq k = { s.seq k with
                 owned := true, partition := x.partition, kernelId := d.kernelId,
                 wiping := (s.seq k).owned && (s.seq k).partition != x.partition,
                 running := some { startState d.kernelId image qn x d with progressClk := s.clk } } ∧
     (∀ j, j ≠ k → t.seq j = s.seq j)) ∧
    (∀ (k : Nat),
     s.startedDesc qn i 7 = some (x, d) → d.phase = .started →
     (tblGet s.kernels d.kernelId).all (fun y => y.partition != x.partition) = true →
     exec (.kernelStart qn i k) s = .next (s.endDesc qn i Status.badObject 0))

/-- R218, R219, R240 to R246, R491: a READY message that nothing bars has every packet due and one more message
outstanding at its destination, a READ when its response space fits the pool and else in WAIT_RESV; the due packet
that the scheduler lets go, the first taking the next sequence of its context, leaves sealed under the next transmit
counter and the quadrant's key generation where an engine is free, and the last of a round starts the timer; a
timeout within the cutoff sends the packets not shown again with twice the time, at most 200 µs, and the rate halved;
the end of a refused packet's wait makes it due again, or reissues a message of which nothing landed, at most 64
times; an older message ends with MESSAGE_EXPIRED, and one without an active port for an MPL with
DESTINATION_UNREACHABLE; a written epoch counter lets waiting packets be sealed. -/
def Obligations.MessagesAreSent : Prop :=
  ∀ (s : State) (q m : Nat) (x : Sender),
    (∀ (c : Congest),
     let n := reserveBytes x;
     let o := if x.state = .ready then exec (.messageBegin q m) s else exec (.reservationGrant q m) s;
     s.sender? q m = some x → (x.state = .ready ∨ x.state = .waitResv) → s.unitDown (.transport q) = false →
     s.beginBar q x = .none → s.congest? q x.dst = some c →
     ((s.quad q).reserved + n ≤ 8388608 → ∃ t, o = .next t ∧ t = { s with quads := t.quads } ∧
      (t.quad q).reserved = (s.quad q).reserved + n ∧
      t.congest? q x.dst = some { c with outstanding := c.outstanding + 1, lastUse := s.clk } ∧
      t.sender? q m = some { x with
                             state := .sending, issue := s.stamp q, issueClk := s.clk,
                             reserved := if 0 < n then n else x.reserved, toSend := List.range x.requests, sent := [],
                             tints := [], bitmap := 0, copies := 0, refusedCopies := 0, holds := [], timerStart := none,
                             unreachableSince := none, stepped := false,
                             timeout := max 32000 (2 * c.delay.getD 160000 / 10 + 16000) }) ∧
     (0 < n → 8388608 < (s.quad q).reserved + n → o = .next (s.setSender q m { x with state := .waitResv }) ∨
      (x.state = .waitResv ∧ o = .next s))) ∧
    (s.sender? q m = some x → x.state = .ready → s.unitDown (.transport q) = false →
     (s.beginBar q x = .wait → exec (.messageBegin q m) s = .next s) ∧
     (s.beginBar q x = .exhausted →
      exec (.messageBegin q m) s = .next (s.note Status.keyExhausted 0x17 q (some x.partition))) ∧
     (s.beginBar q x = .unreachable →
      exec (.messageBegin q m) s = .next (s.msgEnded q m Status.destinationUnreachable 0)) ∧
     (s.beginBar q x = .noPort →
      exec (.messageBegin q m) s = .next
        (s.setSender q m { x with unreachableSince := some (x.unreachableSince.getD s.clk) })) ∧
     (s.mer.lock = .unlocked → s.beginBar q x = .wait) ∧
     (s.activePorts = [] → ∀ u, x.unreachableSince = some u → u + s.mplClk ≤ s.clk →
      exec (.unreachableTimeout q m) s = .next (s.msgEnded q m Status.destinationUnreachable 1)) ∧
     (s.activePorts ≠ [] → exec (.unreachableTimeout q m) s = .next s)) ∧
    (∀ (k port busy : Nat) (keys : KeyGens) (b : List Byte),
     let v := s.tintPort port;
     let own := v.ownDst q (v.activeBank q) x.dst;
     let d := v.quad q;
     let y := if x.sent = [] then ({ x with seq := (s.ctx x.context).nextSeq } : Sender) else x;
     let p := v.packetOf q y k b;
     let w := v.sealed { p with
                             route := { p.route with
                                        txCounter := BitVec.ofNat 48 (d.txEpoch.toNat % 256 * 2 ^ 40 + d.txCount),
                                        keyGen := keys.genIn q % 256 },
                             hop := { p.hop with congMark := !own && v.txs.markUtil < busy && b.length != 0 } }
           (keys.genIn q);
     v.sender? q m = some x → v.due q m x = some k → v.egressOk q m x k port = true →
     v.unitDown (.transport q) = false → v.engineFree q false = true → v.keysOf x.partition x.job = some keys →
     (v.payload x k).toOption = some b → d.txCount < 2 ^ 40 → ∃ t, exec (.packetTransmit q m k port busy) s = .next t ∧
     t.out = (if own then .loopback w.route.landQ w else .wire port w) :: v.out ∧
     t.sender? q m = some (y.sentOne v q k) ∧ k ∉ (y.sentOne v q k).toSend ∧ (t.quad q).txCount = d.txCount + 1 ∧
     (t.quad q).txEpoch = d.txEpoch ∧
     (t.ctx x.context).nextSeq = (s.ctx x.context).nextSeq + (if x.sent = [] then 1 else 0) ∧
     t = { s with
           quads := t.quads, contexts := t.contexts, ports := t.ports, recover := t.recover, survey := t.survey,
           out := t.out } ∧ (∀ j, j ≠ port → t.port j = s.port j)) ∧
    (∀ (k port busy : Nat),
     let v := s.tintPort port;
     v.sender? q m = some x →
     (v.due q m x ≠ some k ∨ v.egressOk q m x k port = false → exec (.packetTransmit q m k port busy) s = .next v) ∧
     (v.due q m x = some k ∧ v.egressOk q m x k port = true ∧ v.unitDown (.transport q) = false ∧
      v.engineFree q false = false → exec (.packetTransmit q m k port busy) s = .next (v.askEngine q false))) ∧
    (∀ (t0 : Nat) (c : Congest),
     s.sender? q m = some x → x.state = .waitReply → x.timerStart = some t0 → s.inCutoff q x = true →
     s.congest? q x.dst = some c → (s.clk < t0 + x.timeout → exec (.retransmitTimeout q m) s = .next s) ∧
     (t0 + x.timeout ≤ s.clk → ∃ t, exec (.retransmitTimeout q m) s = .next t ∧
      t = { s with quads := t.quads, survey := t.survey } ∧
      t.sender? q m = some { x with
                             state := .sending, toSend := x.round,
                             timeout := max x.timeout (min 320000 (2 * x.timeout)), timerStart := none } ∧
      t.congest? q x.dst = some (if c.mayDecrease (s.mtQ q) then { c with
                                                                   rate := min 6400 (max s.txs.minRate (c.rate / 2)),
                                                                   lastDecrease := some (s.mtQ q) } else c) ∧
      (∀ j ∈ x.round, x.opcode ≠ 2 → (x.bitmap.getLsbD j = false ∧ j < x.requests) ∨ j = x.requests - 1))) ∧
    (∀ (k u : Nat),
     let y := { x with holds := x.holds.filter fun h => h.1 != k };
     s.sender? q m = some x → (k, u) ∈ x.holds → u ≤ s.clk →
     (s.inCutoff q x = true → exec (.retryAfterEnd q m k) s = .next (s.setSender q m { y with state := .sending })) ∧
     (s.inCutoff q x = false → x.noneLanded = false → exec (.retryAfterEnd q m k) s = .next (s.setSender q m y)) ∧
     (s.inCutoff q x = false → x.noneLanded = true → 64 ≤ x.reissues →
      exec (.retryAfterEnd q m k) s = .next (s.msgEnded q m Status.messageExpired 2)) ∧
     (s.inCutoff q x = false → x.noneLanded = true → x.reissues < 64 → ∃ t, exec (.retryAfterEnd q m k) s = .next t ∧
      t = { s with quads := t.quads } ∧
      (t.sender? q m).all (fun z => z.state == .sending && z.issue == s.stamp q && z.reissue && z.reissues == x.reissues
                             + 1 && z.sent == [] && z.toSend == List.range x.requests) = true)) ∧
    (s.sender? q m = some x →
     (x.state = .waitReply ∨ x.state = .backoff ∨ x.state = .sending ∧ (x.sent ≠ [] ∨ x.stepped = true)) →
     x.noneLanded = false → x.cls ≠ 3 →
     (s.expired q x = true → exec (.messageExpiry q m) s = .next (s.msgEnded q m Status.messageExpired 1)) ∧
     (s.expired q x = false → exec (.messageExpiry q m) s = .next s) ∧
     (∀ a, x.stepped = false → s.msgAge q x = some a → s.expired q x = decide (s.cfg.mplUs * 16000 + 32000 < a))) ∧
    ((s.quad q).epochPending = false → exec (.epochReserved q) s = .next s) ∧
    (let u :=
           (s.modFw fun f => { f with counters := f.counters.set (3 + q) (f.counters.getD (3 + q) 0 + 1) }).modQuad q
           fun d => { d with epochPending := false, unsealed := [] };
     (s.quad q).epochPending = true →
     exec (.epochReserved q) s = .next ((s.quad q).unsealed.foldl (fun s r => State.sendUnsealed s q r) u) ∧
     (3 + q < s.fw.counters.length → u.epochCounter q = s.epochCounter q + 1))

/-- R228 to R248, R258: a packet with an invalid header, from before the last step or older than the window is dropped;
one for another device becomes transit; an UNLOCKED device refuses each for 1 ms; a duplicate is answered by its
record's state at most every 5 µs; a full pool refuses for 5 µs; any other copy is held with its pool space, and
pends in its record, made where there is none; a copy whose tag fails leaves with its space and with a record nothing
else holds; a verified WRITE copy that passes the checks of R121 changes exactly its bytes, and the last of its
message completes the record and draws an ACK that echoes the send stamp; a record older than MPL goes. -/
def Obligations.PacketsArrive : Prop :=
  ∀ (s : State) (q port : Nat) (pkt : Packet),
    let known := s.record? q pkt.key;
    let marked := s.marksReply pkt (s.poolHigh q pkt.route.cls);
    (s.inputOpen port = true →
     (headerValid pkt = false → exec (.packetArrival q port pkt) s = .next (s.note Status.headerInvalid 0x11 q)) ∧
     (headerValid pkt = true ∧ s.ownDst q pkt.route.epoch pkt.route.dst = false →
      exec (.packetArrival q port pkt) s = .next (s.headArrives port pkt))) ∧
    (let u := if port = noPort then s else (s.leaveInput port pkt).cross (port / 8) q pkt.route.cls pkt.size;
     let n := poolSpace pkt.payloadLen;
     let c := pkt.route.cls;
     let fresh := s.mer.lock ≠ .unlocked ∧ s.beforeFloor pkt.issue = false ∧ s.freshEnough q pkt.issue = true;
     let new := pkt.route.opcode = 2 ∨ known.all (fun r => !r.duplicate pkt.pktIndex) = true ∧
         (known ≠ none ∨ (s.quad q).records.length < 262144);
     headerValid pkt = true → s.ownDst q pkt.route.epoch pkt.route.dst = true → isRequest pkt.route.opcode = true →
     pkt.route.landQ = q → s.inputOpen port = true → s.inputCrosses port q pkt = true →
     s.unitDown (.receive q) = false → u.quads = s.quads ∧
     (s.mer.lock = .unlocked → exec (.packetArrival q port pkt) s = .next (u.refuseUnlocked q pkt known.isNone)) ∧
     (s.mer.lock ≠ .unlocked → s.beforeFloor pkt.issue = true → exec (.packetArrival q port pkt) s = .next u) ∧
     (s.mer.lock ≠ .unlocked → s.beforeFloor pkt.issue = false → s.freshEnough q pkt.issue = false →
      exec (.packetArrival q port pkt) s = .next (u.note Status.packetStale 0x11 q)) ∧
     (fresh → new → (s.quad q).pool c + n ≤ poolSize c → ∃ t, exec (.packetArrival q port pkt) s = .next t ∧
      t = { s with quads := t.quads, ports := t.ports, recover := t.recover } ∧ t.ports = u.ports ∧
      t.recover = u.recover ∧
      (t.quad q).copies = (s.quad q).copies ++
        [{ id := (s.quad q).nextCopy, port := port, pkt := pkt, space := n, marked := s.poolHigh q c }] ∧
      (t.quad q).pool c = (s.quad q).pool c + n ∧
      t.record? q pkt.key = (if pkt.route.opcode = 2 then known else some
                               ((known.map fun r => { r with pending := pkt.pktIndex :: r.pending }).getD
                                  { key := pkt.key, issue := pkt.issue, length := pkt.msgLength,
                                    pending := [pkt.pktIndex] })) ∧ (∀ j, j ≠ q → t.quad j = s.quad j)) ∧
     (fresh → new → poolSize c < (s.quad q).pool c + n →
      exec (.packetArrival q port pkt) s = .next
        (if c = 2 then u.count Count.poolDrop else u.refuse q pkt 5 (pkt.route.opcode == 2 || known.isNone) marked))) ∧
    (∀ (r : Record),
     let u := if port = noPort then s else (s.leaveInput port pkt).cross (port / 8) q pkt.route.cls pkt.size;
     headerValid pkt = true → s.ownDst q pkt.route.epoch pkt.route.dst = true → isRequest pkt.route.opcode = true →
     pkt.route.opcode ≠ 2 → pkt.route.landQ = q → s.inputOpen port = true → s.inputCrosses port q pkt = true →
     s.unitDown (.receive q) = false → s.mer.lock ≠ .unlocked → s.beforeFloor pkt.issue = false →
     s.freshEnough q pkt.issue = true → known = some r → r.duplicate pkt.pktIndex = true →
     (r.lastReply.any (fun t => s.clk < t + 8000) = true → exec (.packetArrival q port pkt) s = .next u) ∧
     (r.lastReply.any (fun t => s.clk < t + 8000) = false →
      exec (.packetArrival q port pkt) s = .next (u.stateReply q pkt marked r))) ∧
    (∀ (c : RxCopy) (trailer : List Byte) (r : Record),
     s.copy? q c.id = some c → c.verified = false → s.unitDown (.receive q) = false →
     (s.opens c.pkt = false ∨ s.engineFree q true = true ∧ s.tagOk c.pkt trailer = false) →
     s.record? q c.pkt.key = some r → ∃ t, exec (.tagVerify q c.id trailer) s = .next t ∧ t.copy? q c.id = none ∧
     t.mem = s.mem ∧ t.queues = s.queues ∧ t.firm = s.firm ∧ t.still = s.still ∧
     (r.verified = 0 → r.state = .provisional → r.pending = [c.pkt.pktIndex] → t.record? q c.pkt.key = none) ∧
     (r.verified ≠ 0 → t.record? q c.pkt.key = some { r with pending := r.pending.filter fun i => i != c.pkt.pktIndex })) ∧
    (∀ (c : RxCopy) (trailer : List Byte),
     s.copy? q c.id = some c → c.verified = false → s.unitDown (.receive q) = false → s.opens c.pkt = true →
     s.engineFree q true = false → exec (.tagVerify q c.id trailer) s = .next (s.askEngine q true)) ∧
    (∀ (c : RxCopy) (r : Record) (keys : KeyGens) (key : List Byte),
     let u := s.useEngine q true pkt.size;
     let g := s.region (keyIndex pkt.spec.regionKey);
     let off := (accessOf pkt).1;
     let d := s.quad q;
     let e := s.chartEntry q (s.activeBank q) pkt.key.src;
     let seen := r.verified ||| w64 (2 ^ pkt.pktIndex);
     let done := r.length ≤ r.committed + pkt.payloadLen;
     s.copy? q c.id = some c → c.pkt = pkt → c.verified = false → s.unitDown (.receive q) = false →
     s.openKey pkt = some key → s.engineFree q true = true → pkt.route.opcode = 1 →
     pkt.payload.length = pkt.payloadLen → s.commitCheck pkt = Status.ok → g.kind = 1 →
     s.biasLines g.partition off pkt.payload.length true = [] → s.stalled g.partition off pkt.payload.length = false →
     (u.toPages q pkt.route.cls g.partition off pkt.payload.length).isSome = true → s.mem.wf = true →
     s.mem.upsets = [] → known = some r → r.state ≠ .failed → r.flag = none → pkt.flags.flagFinal = false → ∃ t,
     exec (.tagVerify q c.id (pkt.tag key)) s = .next t ∧ t.copy? q c.id = none ∧
     t.readSpace g.partition off pkt.payload.length = pkt.payload ∧
     (∀ a, a < spaceKey g.partition off ∨ spaceKey g.partition off + pkt.payload.length ≤ a →
      memGet t.mem.cells a = memGet s.mem.cells a) ∧ t.queues = s.queues ∧ t.firm = s.firm ∧ t.still = s.still ∧
     (t.record? q pkt.key).all (fun y => y.verified == seen && y.committed == r.committed + pkt.payloadLen && y.pending
                                  == r.pending.filter (fun i => i != pkt.pktIndex) && y.state ==
                                  (if done then .complete else if r.state = .provisional then .opened else r.state)) =
       true ∧
     (done → s.mer.lock ≠ .unlocked → s.engineFree q false = true → s.keysOf pkt.key.partition none = some keys →
      s.keyAllows q keys = true → d.txCount < 2 ^ 40 → s.ownDst q (s.activeBank q) pkt.key.src = false → e.kind = 2 →
      e.primaryValid = true → e.primary ∈ s.outputs e →
      t.out = .wire e.primary (s.sealed { key := { pkt.key with src := s.cfg.endpoint },
                                          route := { opcode := 0x10, cls := 1, tc := 7, epoch := s.activeBank q,
                                                     dst := pkt.key.src, landQ := pkt.route.replyQ, txQ := q,
                                                     txCounter := BitVec.ofNat 48
                                                       (d.txEpoch.toNat % 256 * 2 ^ 40 + d.txCount),
                                                     keyGen := keys.genIn q % 256 },
                                          hop := { congMark := s.marksReply pkt c.marked },
                                          spec := { result := r.result, bitmap := seen, echo := pkt.send },
                                          issue := s.stamp q, send := s.stamp q, pktIndex := pkt.pktIndex }
                                 (keys.genIn q)) :: s.out)) ∧
    (∀ (c : RxCopy) (r : Record) (key : List Byte),
     let st := s.commitCheck pkt;
     s.copy? q c.id = some c → c.pkt = pkt → c.verified = false → s.unitDown (.receive q) = false →
     s.openKey pkt = some key → s.engineFree q true = true → pkt.route.opcode ≠ 2 → pkt.route.opcode ≠ 0x20 →
     st ≠ Status.ok → known = some r → r.state ≠ .failed → ∃ t, exec (.tagVerify q c.id (pkt.tag key)) s = .next t ∧
     t.copy? q c.id = none ∧ t.mem.cells = s.mem.cells ∧ t.queues = s.queues ∧ t.firm = s.firm ∧ t.still = s.still ∧
     (t.record? q pkt.key).all (fun y => y.state == .failed && y.finalStatus == st && y.flag == none) = true) ∧
    (∀ (key : MsgKey) (r : Record),
     let old := (ageOf (s.mtQ q) r.issue).any fun a => decide (s.mpl < a);
     s.record? q key = some r → (old = false ∨ r.flag ≠ none → exec (.recordExpiry q key) s = .next s) ∧
     (old = true → r.flag = none → (s.quad q).copies.all (fun c => c.pkt.key != key) = true → ∃ t,
      exec (.recordExpiry q key) s = .next t ∧ t.record? q key = none ∧ t = { s with quads := t.quads } ∧
      (∀ k, k ≠ key → t.record? q k = s.record? q k) ∧ (t.quad q).senders = (s.quad q).senders))

/-- R237 to R245, R257, R274: an ACK ends the message it names with OK, and with the last one its descriptor, an atomic's
with the old value; a SACK stores the bitmap and restarts the timer; a NAK with RETRY_AFTER holds its packet for the
microseconds it names, with any other status it ends the message with that status; a reply that names no message or
is stale does nothing; a response packet of a READ is written where its descriptor says and marks its bit once. -/
def Obligations.RepliesEndMessages : Prop :=
  ∀ (s : State) (q m : Nat) (x : Sender) (pkt : Packet),
    (∀ (op : Nat) (u : State),
     s.replyDrop q op pkt = some u → (op = 0x10 → exec (.ack q pkt) s = .next u) ∧
     (op = 0x11 → exec (.sack q pkt) s = .next u) ∧ (op = 0x12 → exec (.nak q pkt) s = .next u) ∧
     (op = 3 → exec (.readResp q pkt) s = .next u)) ∧
    (∀ (op : Nat) (key : List Byte),
     let u := s.useEngine q true pkt.size;
     let o := if op = 0x10 then exec (.ack q pkt) s else if op = 0x11 then exec (.sack q pkt) s else if op = 0x12
           then exec (.nak q pkt) s else exec (.readResp q pkt) s;
     (op = 0x10 ∨ op = 0x11 ∨ op = 0x12 ∨ op = 3) → s.replyDrop q op pkt = none → s.unitDown (.receive q) = false →
     s.openKey pkt = some key → (s.engineFree q true = false → o = .next (s.askEngine q true)) ∧
     (s.engineFree q true = true ∧ pkt.trailer ≠ pkt.tag key → o = .next (u.tagFailed q pkt)) ∧
     (s.engineFree q true = true ∧ pkt.trailer = pkt.tag key ∧ s.relayTo pkt = none ∧ s.replied? q pkt = none →
      o = .next u)) ∧
    (∀ (qn : Nat) (i : W32) (d : Desc) (key : List Byte),
     let v := (s.useEngine q true pkt.size).ccReply q x.dst pkt;
     let u := (if isWireAtomic x.opcode then v.storeResult x.owner pkt.spec.result else v).msgEnded q m Status.ok 0;
     s.replyDrop q 0x10 pkt = none → s.unitDown (.receive q) = false → s.openKey pkt = some key →
     s.engineFree q true = true → pkt.trailer = pkt.tag key → s.relayTo pkt = none → s.replied? q pkt = some (m, x) →
     s.sender? q m = some x → x.opcode ≠ 2 → x.owner = .desc qn i → s.desc? qn i = some d → d.phase = .running →
     d.toSend = [] → s.storesDone (.desc qn i) = true → s.ownerDoomed (.desc qn i) = false →
     (s.freeSender q m).hasSender (.desc qn i) = false → exec (.ack q pkt) s = .next u.pumpAll ∧
     u.pumpAll.still = s.still ∧ u.pumpAll.firm = s.firm ∧
     (u.desc? qn i).all (fun e => e.phase == .completed && e.status == d.status && e.bytesDone == d.bytesDone +
                           (if isWireAtomic x.opcode then 0 else x.length) && e.result ==
                           (if isWireAtomic x.opcode then pkt.spec.result else d.result)) = true) ∧
    (∀ (key : List Byte),
     let y := { x with
                    bitmap := if x.opcode = 2 then x.bitmap else pkt.spec.bitmap,
                    timerStart := x.timerStart.map fun _ => s.clk };
     let k := pkt.pktIndex;
     s.unitDown (.receive q) = false → s.openKey pkt = some key → s.engineFree q true = true →
     pkt.trailer = pkt.tag key → s.relayTo pkt = none → s.replied? q pkt = some (m, x) →
     (s.replyDrop q 0x11 pkt = none → ∃ t, exec (.sack q pkt) s = .next t ∧ t.sender? q m = some y ∧
      t = { s with quads := t.quads, survey := t.survey }) ∧
     (s.replyDrop q 0x12 pkt = none → pkt.spec.status = Status.retryAfter → ∃ t, exec (.nak q pkt) s = .next t ∧
      t = { s with quads := t.quads, survey := t.survey } ∧
      (t.sender? q m).all (fun z => z.holds.head? == some (k, s.clk + 1600 * pkt.spec.retryAfter) && z.toSend.contains k
                             && z.bitmap == y.bitmap && z.seq == x.seq && z.refusedCopies == x.refusedCopies +
                             (if pkt.flags.noRecord then 1 else 0)) = true) ∧
     (s.replyDrop q 0x12 pkt = none → pkt.spec.status ≠ Status.retryAfter → (∀ p i j, x.owner ≠ .coll p i j) →
      exec (.nak q pkt) s = .next
        ((((s.useEngine q true pkt.size).ccReply q x.dst pkt).setSender q m y).msgEnded q m pkt.spec.status 0))) ∧
    (∀ (qn : Nat) (i : W32) (d : Desc) (key : List Byte),
     let u := s.useEngine q true pkt.size;
     let k := pkt.pktIndex;
     let a := segTarget d.seg x.localAddr + (x.offset + k * 4096);
     let y := { x with bitmap := x.bitmap ||| w64 (2 ^ k), reserved := x.reserved - 4160 };
     s.replyDrop q 3 pkt = none → s.unitDown (.receive q) = false → s.openKey pkt = some key →
     s.engineFree q true = true → pkt.trailer = pkt.tag key → s.relayTo pkt = none → s.replied? q pkt = some (m, x) →
     s.sender? q m = some x → x.opcode = 2 → x.owner = .desc qn i → s.desc? qn i = some d → d.seg.kind ≠ 1 →
     inAccelWindow a = false → s.spaceCheck x.partition a pkt.payload.length true = Status.ok →
     s.stalled x.partition a pkt.payload.length = false → s.biasLines x.partition a pkt.payload.length true = [] →
     s.mem.wf = true → s.mem.upsets = [] → (s.quad q).copies = [] → respAgrees x pkt = true →
     pkt.payload.length = pkt.payloadLen → (x.bitmap.getLsbD k = true → exec (.readResp q pkt) s = .next u) ∧
     (x.bitmap.getLsbD k = false → y.bitmap.toNat % 2 ^ packetsOf x.length ≠ 2 ^ packetsOf x.length - 1 → ∃ t,
      exec (.readResp q pkt) s = .next t ∧ t.sender? q m = some y ∧
      t.readSpace x.partition a pkt.payload.length = pkt.payload ∧
      (∀ c, c < spaceKey x.partition a ∨ spaceKey x.partition a + pkt.payload.length ≤ c →
       memGet t.mem.cells c = memGet s.mem.cells c) ∧
      t = { s with quads := t.quads, mem := t.mem, placements := t.placements }) ∧
     (x.bitmap.getLsbD k = false → y.bitmap.toNat % 2 ^ packetsOf x.length = 2 ^ packetsOf x.length - 1 →
      exec (.readResp q pkt) s = .next ((((u.writeSpace x.partition a pkt.payload).setSender q m
                                            { x with bitmap := y.bitmap }).releaseResv q m 4160).msgEnded q m Status.ok
                                          0)))

/-- R271, R273, R278, R284: at a new 10 ms period each current minimum becomes the previous one, and nothing happens
inside a period; an entry with nothing outstanding and no sample for 10 ms rises to init_rate; a round of a port
whose offering pairs have no credit left starts again with the weights SHARE_SET gave, each pair gaining 64 bytes
times its weight up to twice that; the depth maxima are sampled every 1 µs. -/
def Obligations.CongestionAndRounds : Prop :=
  ∀ (s : State) (q : Nat),
    (let d := s.quad q;
     let n := s.mtQ q / 160000000;
     n ≠ d.basePeriod → ∃ t, exec (.ccBasePeriod q) s = .next t ∧ t = { s with quads := t.quads } ∧
     t.quad q = { d with
                  basePeriod := n,
                  congestion := d.congestion.map fun c => { c with basePrev := c.baseNow, baseNow := none } } ∧ ∀ j,
     j ≠ q → t.quad j = s.quad j) ∧
    (s.mtQ q / 160000000 = (s.quad q).basePeriod → exec (.ccBasePeriod q) s = .next s) ∧
    (∀ (dest : Nat) (c : Congest),
     s.congest? q dest = some c →
     (c.outstanding ≠ 0 ∨ s.clk < c.lastSample + 16000000 → exec (.ccIdleRaise q dest) s = .next s) ∧
     (c.outstanding = 0 → c.lastSample + 16000000 ≤ s.clk → ∃ t, exec (.ccIdleRaise q dest) s = .next t ∧
      t = { s with quads := t.quads } ∧
      t.congest? q dest = some { c with rate := max c.rate (min 6400 (max s.txs.minRate s.txs.initRate)) })) ∧
    (∀ (port robin : Nat),
     let v := s.tintPort port;
     let w := v.modPort port fun x => { x.fillMeters s.clk with weights := s.setWeights };
     let l := ((w.offers port).filter fun o => o.robin == robin).map fun o => o.pair;
     (v.pairNow port robin ≠ none → exec (.drrRound port robin) s = .next v) ∧
     (v.pairNow port robin = none → ∃ t, exec (.drrRound port robin) s = .next t ∧ t = { v with ports := t.ports } ∧
      (∀ j, j ≠ port → t.port j = v.port j) ∧ (t.port port).weights = s.setWeights ∧
      (robin < (v.port port).robins.length → ∀ p ∈ l, p ∈ ((t.port port).robins.getD robin {}).left ∧
       (t.port port).credit robin p = min
         ((v.port port).credit robin p + 64 * max 1 (tblGetD s.setWeights (p / 8 * 8 + p % 8) 1))
         (128 * max 1 (tblGetD s.setWeights (p / 8 * 8 + p % 8) 1))))) ∧
    (let v := s.activePorts.foldl State.tintPort s;
     (s.clk % 1600 ≠ 0 → exec .queueSample s = .next v) ∧
     (s.clk % 1600 = 0 → ∃ t, exec .queueSample s = .next t ∧
      t = { v with survey := { v.survey with samples := v.survey.samples + 1, depthMax := t.survey.depthMax } }))

/-- R66, R381 to R386, R407 to R411: a kernel image that passes its checks is held under the lowest free id; an image no
sequencer runs is unloaded; trig points are given at 0 and taken back; a job is created with its member count and
destroyed with its schedules; a schedule that passes every check of admission reserves its sequencer, its pool space
and its appointment; an idle schedule is released at once, a running one when its instance ends. -/
def Obligations.KernelsTrigsJobsAndSchedules : Prop :=
  ∀ (fn m : Nat) (s : State),
    let k := mbxKey fn m;
    let p := s.boundTo fn;
    let x := s.mbx k;
    (∀ (b : Bulk) (i : Nat) (cores : Cores),
     let z := kernelOf p b.data;
     s.Takes fn m closeCmd → s.committing k = some b → b.kind = 1 → s.asOpened fn b = none → loadCheck p b.data = none →
     (z.deadline = 0 ∨ kernelBound z.steps ≤ z.deadline * 1000) → s.underQuota p 7 (s.inUse p 7) 1 = true → i < 256 →
     tblGet s.kernels i = none → (∀ j, j < i → tblGet s.kernels j ≠ none) → cores ≠ .split → ∃ t,
     exec (.kernelImageLoad fn m cores) s = .next t ∧ s.Answers t fn m Status.ok 0 [w64 i] ∧ s.OnlyServes t cores ∧
     (t.mbx k).bulk = none ∧ t.kernels = tblSet s.kernels i z ∧
     t = { s with
           mailboxes := t.mailboxes, funcs := t.funcs, hosts := t.hosts, out := t.out, fw := s.servedFw cores,
           kernels := t.kernels }) ∧
    (∀ (z : Kernel) (cores : Cores),
     let i := x.arg 0 % 256;
     s.Takes fn m { opcode := 0x0501, since := 2 } → tblGet s.kernels i = some z → z.partition = p →
     s.kernelRuns i = false → cores ≠ .split → ∃ t, exec (.kernelUnload fn m cores) s = .next t ∧
     s.Answers t fn m Status.ok 0 [] ∧ s.OnlyServes t cores ∧ t.kernels = tblErase s.kernels i ∧
     t = { s with
           mailboxes := t.mailboxes, funcs := t.funcs, hosts := t.hosts, out := t.out, fw := s.servedFw cores,
           kernels := t.kernels }) ∧
    (∀ (pick i : Nat) (cores : Cores),
     let n := bits (x.arg 0) 14 0;
     s.Takes fn m { opcode := 0x0502, since := 2 } → 1 ≤ n → n ≤ 16384 → s.underQuota p 4 (s.inUse p 4) n = true →
     pickFree (s.trigsFree n) 0 16384 pick = some i → cores ≠ .split → ∃ t,
     exec (.trigAlloc fn m pick cores) s = .next t ∧ s.Answers t fn m Status.ok 0 [w64 i] ∧ s.OnlyServes t cores ∧
     (∀ j, t.trig? j = if i ≤ j ∧ j < i + n then some (p, 0) else s.trig? j) ∧
     t = { s with
           mailboxes := t.mailboxes, funcs := t.funcs, hosts := t.hosts, out := t.out, fw := s.servedFw cores,
           trigs := t.trigs }) ∧
    (∀ (cores : Cores),
     let i := bits (x.arg 0) 13 0;
     let n := bits (x.arg 0) 46 32;
     s.Takes fn m { opcode := 0x0503, since := 2 } → (List.range' i n).all (s.ownsTrig p) = true →
     s.trigsUsed p i n = false → cores ≠ .split → ∃ t, exec (.trigFree fn m cores) s = .next t ∧
     s.Answers t fn m Status.ok 0 [] ∧ s.OnlyServes t cores ∧
     (∀ j, t.trig? j = if i ≤ j ∧ j < i + n then none else s.trig? j) ∧
     t = { s with
           mailboxes := t.mailboxes, funcs := t.funcs, hosts := t.hosts, out := t.out, fw := s.servedFw cores,
           trigs := t.trigs }) ∧
    (∀ (cores : Cores),
     let j := bits (x.arg 0) 23 0;
     let n := bits (x.arg 0) 47 32;
     s.Takes fn m { opcode := 0x0504, since := 2 } → 2 ≤ n → s.job? p j = none → cores ≠ .split → ∃ t,
     exec (.jobCreate fn m cores) s = .next t ∧ s.Answers t fn m Status.ok 0 [] ∧ s.OnlyServes t cores ∧
     t.part p = { s.part p with jobs := tblSet (s.part p).jobs j { members := n } } ∧
     (∀ q, q ≠ p → t.part q = s.part q) ∧
     t = { s with
           mailboxes := t.mailboxes, funcs := t.funcs, hosts := t.hosts, out := t.out, fw := s.servedFw cores,
           parts := t.parts }) ∧
    (∀ (z : Job) (cores : Cores),
     let j := bits (x.arg 0) 23 0;
     s.Takes fn m { opcode := 0x0505, since := 2 } → s.job? p j = some z → cores ≠ .split → ∃ t,
     exec (.jobDestroy fn m cores) s = .next t ∧ s.Answered t fn m Status.ok 0 [] ∧ t.job? p j = none ∧
     (∀ c ∈ (t.part p).schedules, c.header.job ≠ j) ∧ t.still = s.still ∧ t.contexts = s.contexts ∧ t.trigs = s.trigs ∧
     t.mem = s.mem) ∧
    (∀ (b : Bulk) (ports : List Nat) (pick : Nat) (c : Schedule) (cores : Cores),
     let h := parseSchedule b.data;
     let mem := parseMembers b.data h.n;
     let blk := b.data.drop (128 + 4 * h.n);
     let job := b.objectId.toNat % 2 ^ 24;
     s.Takes fn m closeCmd → s.committing k = some b → b.kind = 4 → s.asOpened fn b = none →
     scheduleFault b.data job ((s.job? p job).map fun j => j.members) = none →
     (scheduleOf3 b.data = false ∨ 3 ≤ x.version) → s.admitCheck p h mem blk = none →
     (s.finishAdmission p h mem blk ports pick (Config.freeValue s.free) (Config.freeValue (s.free + 1))).toOption =
       some c → cores ≠ .split → ∃ t, exec (.scheduleAdmission fn m ports pick cores) s = .next t ∧
     s.Answers t fn m Status.ok 0 [w64 h.id.toNat] ∧ s.OnlyServes t cores ∧ (t.mbx k).bulk = none ∧
     (t.part p).schedules = (s.part p).schedules ++ [c] ∧ c.header.id = h.id ∧
     t.seq c.sequencer = { s.seq c.sequencer with reservedBy := some (p, h.id) } ∧
     t.quad c.header.landQ =
       { s.quad c.header.landQ with collReserved := (s.quad c.header.landQ).collReserved + c.reservation } ∧
     (∀ q, q ≠ p → t.part q = s.part q) ∧
     t = { s with
           mailboxes := t.mailboxes, funcs := t.funcs, hosts := t.hosts, out := t.out, fw := s.servedFw cores,
           quads := t.quads, seqs := t.seqs, parts := t.parts, mer := t.mer, free := t.free }) ∧
    (∀ (c : Schedule) (cores : Cores),
     let id := w32 (x.arg 0);
     s.Takes fn m { opcode := 0x0506, since := 2 } → s.schedule? p id = some c → c.running = none → cores ≠ .split →
     ∃ t, exec (.scheduleRelease fn m cores) s = .next t ∧ s.Answers t fn m Status.ok 0 [] ∧ s.OnlyServes t cores ∧
     t.part p = { s.part p with schedules := (s.part p).schedules.filter fun c => c.header.id != id } ∧
     (∀ q, q ≠ p → t.part q = s.part q) ∧ t.seq c.sequencer = { s.seq c.sequencer with reservedBy := none } ∧
     t.quad c.header.landQ =
       { s.quad c.header.landQ with collReserved := (s.quad c.header.landQ).collReserved - c.reservation } ∧
     t.mer = { s.mer with appointments := s.mer.appointments.filter fun a => a.kind != .collective p id } ∧
     t = { s with
           mailboxes := t.mailboxes, funcs := t.funcs, hosts := t.hosts, out := t.out, fw := s.servedFw cores,
           quads := t.quads, seqs := t.seqs, parts := t.parts, mer := t.mer }) ∧
    (∀ (c : Schedule) (y : Instance) (cores : Cores),
     let id := w32 (x.arg 0);
     s.Takes fn m { opcode := 0x0506, since := 2 } → s.schedule? p id = some c → c.running = some y → cores ≠ .split →
     ∃ t, exec (.scheduleRelease fn m cores) s = .next t ∧ s.Awaits t fn m (.scheduleEnd p id) ∧ s.OnlyServes t cores ∧
     t.part p = { s.part p with
                  schedules := (s.part p).schedules.map fun c => if c.header.id == id then
                    { c with released := true, deferred := 0, callers := [] } else c } ∧
     (∀ q, q ≠ p → t.part q = s.part q) ∧ (c.callers = [] → t.seqs = s.seqs) ∧
     t = { s with
           mailboxes := t.mailboxes, funcs := t.funcs, hosts := t.hosts, out := t.out, fw := s.servedFw cores,
           parts := t.parts, seqs := t.seqs })

/-- R305 to R328: the identity that verifies asks for the ciphertext and the signature that verifies brings the session
UP, its ports ACTIVE and its generation one higher, a bad one ends it; a session not complete within 100 ms goes back
to DETECT; returned credits add up; ATT_TRIG adds its increment to a trig point of a permitted partition, anything
else is rejected and counted; a relayed packet that keeps R323 is sealed by the hub and sent, one that does not is
rejected; a done write or read data ends the request it answers; a request unanswered for 100 µs and ATT_RESET end
the session. -/
def Obligations.AttachedAcceleratorsServe : Prop :=
  ∀ (s : State) (a : Nat),
    let x := s.accel a;
    let p := x.inForce.headD 0;
    (∀ (data : List Byte) (ok : Bool),
     let u := s.modAccel a fun x => { x with lastAttempt := some s.clk };
     x.state = .session →
     (x.step = 1 → x.lastAttempt.any (fun t => s.clk < t + 160000000) = true →
      exec (.attSession a 1 ok data) s = .next s) ∧
     (x.step = 1 → x.lastAttempt.any (fun t => s.clk < t + 160000000) = false → data.length ≤ 8192 → ∃ t,
      exec (.attSession a 1 true data) s = .next t ∧
      t.accel a = { x with lastAttempt := some s.clk, step := 3, certDigest := shake256 data 64 } ∧
      t.out = .control p 0x10 [2] :: s.out ∧ t = { s with accels := t.accels, ports := t.ports, out := t.out }) ∧
     (x.step = 1 → x.lastAttempt.any (fun t => s.clk < t + 160000000) = false → ok = false ∨ 8192 < data.length →
      exec (.attSession a 1 ok data) s = .next (u.endSession a)) ∧
     (x.step = 3 → exec (.attSession a 3 false data) s = .next (s.endSession a)) ∧
     (x.step = 3 → ∃ t, exec (.attSession a 3 true data) s = .next t ∧
      t.accel a = { x with
                    state := .up, step := 0, generation := x.generation + 1,
                    upKey := attachKey data a (x.generation + 1) true,
                    downKey := attachKey data a (x.generation + 1) false, upFlits := 0 } ∧
      (∀ q ∈ x.inForce, (s.port q).state = .session → (t.port q).state = .active) ∧
      t = { s with accels := t.accels, ports := t.ports, survey := t.survey }) ∧
     (∀ k, k ≠ x.step → exec (.attSession a k ok data) s = .next s) ∧
     (s.clk < x.sessionStart + 160000000 → exec (.attSessionTimeout a) s = .next s) ∧
     (x.sessionStart + 160000000 ≤ s.clk → ∃ t, exec (.attSessionTimeout a) s = .next t ∧
      t.accel a = { x with state := .none, step := 0, portsInForce := 0, writeCredits := 0, readCredits := 0 } ∧
      (∀ q ∈ x.inForce, (t.port q).state ≠ .session) ∧ t = { s with accels := t.accels, ports := t.ports }) ∧
     exec (.attReset a) s = .next (s.endSession a)) ∧
    (∀ (w r k : Nat) (ok : Bool) (data : List Byte),
     x.state = .up →
     (x.requests = [] → x.relayWaiting = [] →
      exec (.attCredit a w r) s = .next (s.modAccel a fun x => { x with
                                                                 writeCredits := x.writeCredits + w,
                                                                 readCredits := x.readCredits + r,
                                                                 upFlits := x.upFlits + 1 })) ∧
     (exec (.attSession a k ok data) s = .next s) ∧ exec (.attReset a) s = .next (s.endSession a) ∧
     (x.requests = [] → ∃ t, exec (.attReset a) s = .next t ∧
      (t.accel a) = { x with
                      state := .reset, step := 0, writeCredits := 0, readCredits := 0, portsInForce := 0,
                      relayReads := [], relayWaiting := [] } ∧ (∀ q ∈ x.inForce, (t.port q).state ≠ .active) ∧
      t.mem = s.mem ∧ t.queues = s.queues)) ∧
    (∀ (r : AttReq) (n : Nat),
     x.state = .up → x.requests = [r] → r.sentClk = none → r.write = true → x.relayWaiting = [] →
     (32 + r.data.length + 63) / 64 ≤ x.writeCredits + n → ∃ t, exec (.attCredit a n 0) s = .next t ∧
     t.out = .attach a r.header r.data :: s.out ∧
     t.accel a = { x with
                   requests := [{ r with sentClk := some s.clk }],
                   writeCredits := x.writeCredits + n - (32 + r.data.length + 63) / 64, upFlits := x.upFlits + 1 } ∧
     t = { s with accels := t.accels, out := t.out }) ∧
    (∀ (i q : Nat) (v : W64) (inc : W32),
     let u := s.modAccel a fun x => { x with upFlits := x.upFlits + 1 };
     let bad := (s.modAccel a fun x => { x with upFlits := x.upFlits + 1, rejects := min 255 (x.rejects + 1) }).note
           Status.attachReject 0x18 p;
     x.state = .up → (s.trig? i = none → exec (.attTrig a q i inc) s = .next bad) ∧
     (∀ r, s.trig? i = some (r, v) → r ≠ q ∨ x.partitions.getLsbD q = false → exec (.attTrig a q i inc) s = .next bad) ∧
     (s.trig? i = some (q, v) → x.partitions.getLsbD q = true →
      exec (.attTrig a q i inc) s = .next (u.setTrig i q (v + w64 inc.toNat)).trigMoved ∧
      (u.setTrig i q (v + w64 inc.toNat)).trig? i = some (q, v + w64 inc.toNat))) ∧
    (∀ (pkt : Packet) (keys : KeyGens) (u : State),
     let y := s.relayed a pkt;
     let q := x.quadrant;
     let e := s.chartEntry q (s.activeBank q) y.route.dst;
     let sealedPkt := s.sealed { y with
                                     route := { y.route with
                                                txCounter := BitVec.ofNat 48
                                                  ((s.quad q).txEpoch.toNat % 256 * 2 ^ 40 + (s.quad q).txCount),
                                                keyGen := keys.genIn q % 256 } } (keys.genIn q);
     let may := s.relayOk a y && s.mer.lock != .unlocked && s.keysOf pkt.key.partition none == some keys &&
           s.keyAllows q keys && decide ((s.quad q).txCount < 2 ^ 40) && !s.unitDown (.transport q);
     x.state = .up →
     (s.relayOk a y = false →
      exec (.relayUp a pkt) s = .next
        ((s.modAccel a fun x => { x with rejects := min 255 (x.rejects + 1) }).note Status.attachReject 0x18 p)) ∧
     (s.relayOk a y = true → s.mer.lock = .unlocked ∨ s.keysOf pkt.key.partition none = none ∨
      s.unitDown (.transport q) = true → exec (.relayUp a pkt) s = .next s) ∧
     (may = true → s.engineFree q false = false → exec (.relayUp a pkt) s = .next (s.askEngine q false)) ∧
     (may = true → s.engineFree q false = true → s.relayReserve a y = none → exec (.relayUp a pkt) s = .next s) ∧
     (may = true → s.engineFree q false = true → s.relayReserve a y = some u →
      s.ownDst q (s.activeBank q) y.route.dst = true → ∃ t, exec (.relayUp a pkt) s = .next t ∧
      t.out = .loopback y.route.landQ sealedPkt :: s.out ∧ (t.quad q).txCount = (s.quad q).txCount + 1 ∧
      t = { u with quads := t.quads, recover := t.recover, out := t.out }) ∧
     (may = true → s.engineFree q false = true → s.relayReserve a y = some u →
      s.ownDst q (s.activeBank q) y.route.dst = false → e.kind = 2 → e.primaryValid = true →
      (s.outputs e).contains e.primary = true → ∃ t, exec (.relayUp a pkt) s = .next t ∧
      (t.quad q).txCount = (s.quad q).txCount + 1 ∧
      ((t.port e.primary).fallback = (s.port e.primary).fallback ∨
       ((t.port e.primary).fallback.map fun z => z.pkt) = ((s.port e.primary).fallback.map fun z => z.pkt) ++
         [sealedPkt]) ∧ t = { u with quads := t.quads, ports := t.ports, survey := t.survey }) ∧
     (may = true → s.engineFree q false = true → s.relayReserve a y = some u →
      s.ownDst q (s.activeBank q) y.route.dst = false → e.kind ≠ 2 → exec (.relayUp a pkt) s = .next u) ∧
     (pkt.route.opcode ≠ 2 → s.relayReserve a y = some s) ∧
     (y.send = s.stamp q ∧ y.hop = {} ∧ y.key = pkt.key ∧ y.payload = pkt.payload ∧ y.route.txQ = q ∧
      y.route.replyQ = q ∧ y.route.epoch = s.activeBank q ∧ y.route.landQ = landQuadrant pkt.key.src pkt.key.context)) ∧
    (∀ (tag status : Nat) (r : AttReq) (o : TileOwner) (off : Nat) (data : List Byte),
     x.requests.find? (fun z => z.tag == tag && z.write == r.write && z.sentClk.isSome) = some r →
     r.purpose = (if r.write then .store o off else .fetch o off) → (data.length = r.length ∨ status ≠ Status.ok) →
     (r.write = true →
      exec (.memWriteDone a tag status) s = .next (if status = Status.ok then (s.takeRequest a tag).stirOwner o else
                                                     ((s.takeRequest a tag).failOwner o status).stir)) ∧
     (r.write = false →
      exec (.memReadData a tag status data) s = .next (if status = Status.ok then
                                                         ((s.takeRequest a tag).addFetched o off data).stirOwner o else
                                                         ((s.takeRequest a tag).failOwner o status).stir)) ∧
     ((s.takeRequest a tag).accel a).requests = x.requests.filter (fun z => z.tag != tag)) ∧
    (∀ (tag status q id off : Nat) (r : AttReq) (c : RxCopy) (data : List Byte),
     let u := s.takeRequest a tag;
     x.requests.find? (fun z => z.tag == tag && z.write == r.write && z.sentClk.isSome) = some r →
     r.purpose = (if r.write then .commit q id else .readFor q id off) → s.copy? q id = some c → c.rdma = none →
     (data.length = r.length ∨ status ≠ Status.ok) →
     (r.write = true →
      exec (.memWriteDone a tag status) s = .next (if status = Status.ok then (u.freeCopy q c).credit q c.pkt
                                                     (s.marksReply c.pkt c.marked) else (u.freeCopy q c).failRecord q
                                                     c.pkt status (s.marksReply c.pkt c.marked))) ∧
     (r.write = false → status ≠ Status.ok → exec (.memReadData a tag status data) s = .next (u.failRead q c status)) ∧
     (r.write = false → status = Status.ok →
      exec (.memReadData a tag status data) s = .next
        ((u.modCopy q id fun c => { c with got := (off, data) :: c.got }).serveRead q id))) ∧
    (∀ (tag status q id : Nat) (r : AttReq) (c : RxCopy),
     let u := s.takeRequest a tag;
     x.requests.find? (fun z => z.tag == tag && z.write && z.sentClk.isSome) = some r → s.copy? q id = some c →
     (r.purpose = .readInto q id → exec (.memWriteDone a tag status) s = .next (u.respCommitted q c status).stir) ∧
     (∀ qp, c.rdma = some qp → r.purpose = .commit q id → status = Status.ok →
      exec (.memWriteDone a tag status) s = .next ((u.freeCopy q c).rdmaReply qp 1 c.pkt.key.seq.toNat 4 [])) ∧
     (∀ qp, c.rdma = some qp → r.purpose = .commit q id → status ≠ Status.ok →
      exec (.memWriteDone a tag status) s = .next ((u.freeCopy q c).rdmaReply qp 4 c.pkt.key.seq.toNat 4 [0x62]))) ∧
    (∀ (tag t0 : Nat) (r : AttReq),
     x.requests.find? (fun z => z.tag == tag) = some r → r.sentClk = some t0 →
     exec (.attachTimeout a tag) s = .next (if t0 + 160000 ≤ s.clk then s.endSession a else s))

/-- R23, R86, R269, R310 to R314, R523: a header of another device that is fresh, below 63 hops and has a route joins the
input's buffer; a stale one, one of another version, one at 63 hops and one without a route is dropped and logged; a
head takes an output that its charts allow among those that the heads before it leave free and that have credit on
the ring, the primary where it can, leaves with one more hop, a deflection where the output is not productive, and a
mark where it is busy, and the next packet becomes the head; a head whose bank is IDLE is dropped; the replicas of a
beacon leave on the free active ports named; 170 ns of head-time relax and 400 ns press a head. -/
def Obligations.HeadsArriveAndLeave : Prop :=
  ∀ (s : State) (port : Nat),
    let x := s.port port;
    let q := port / 8;
    (∀ (pkt : Packet),
     let idle := s.bankIdle q pkt.route.epoch || (s.chartEntry q pkt.route.epoch pkt.route.dst).kind < 2;
     let u := s.modPort port fun x => { x with
                                            input := x.input ++ [{ pkt := pkt, arrivedClk := s.clk,
                                                                   headSince := if x.input.isEmpty then some s.clk else
                                                                     none }] };
     s.fabricActive port = true → s.ownDst q pkt.route.epoch pkt.route.dst = false →
     (pkt.route.version ≠ 1 → exec (.headArrival port pkt) s = .next (s.note Status.headerInvalid 0x18 port)) ∧
     (pkt.route.version = 1 → s.beforeFloor pkt.issue = true → exec (.headArrival port pkt) s = .next s) ∧
     (pkt.route.version = 1 → s.beforeFloor pkt.issue = false → s.hopFresh port pkt.issue = false →
      exec (.headArrival port pkt) s = .next (s.note Status.packetStale 0x18 port)) ∧
     (pkt.route.version = 1 → s.beforeFloor pkt.issue = false → s.hopFresh port pkt.issue = true →
      pkt.hop.hopCount = 63 →
      exec (.headArrival port pkt) s = .next
        ((s.modPort port fun x => { x with hopLimit := min 0xFFFF (x.hopLimit + 1) }).note Status.hopLimit 0x18 port)) ∧
     (pkt.route.version = 1 → s.beforeFloor pkt.issue = false → s.hopFresh port pkt.issue = true →
      pkt.hop.hopCount ≠ 63 → idle = true →
      exec (.headArrival port pkt) s = .next
        ((s.modPort port fun x => { x with noRoute := min 0xFFFF (x.noRoute + 1) }).note Status.noRoute 0x18 port)) ∧
     (pkt.route.version = 1 → s.beforeFloor pkt.issue = false → s.hopFresh port pkt.issue = true →
      pkt.hop.hopCount ≠ 63 → idle = false → exec (.headArrival port pkt) s = .next u)) ∧
    (∀ (pkt : Packet),
     s.fabricActive port = true → s.ownDst q pkt.route.epoch pkt.route.dst = true →
     (pkt.route.landQ = q → exec (.headArrival port pkt) s = .next s) ∧
     (pkt.route.landQ ≠ q →
      exec (.headArrival port pkt) s = .next (s.modPort port fun x => { x with
                                                                        input := x.input ++
                                                                          [{ pkt := pkt, arrivedClk := s.clk,
                                                                             headSince := if x.input.isEmpty then some
                                                                               s.clk else none }] }))) ∧
    (∀ (free : List (Nat × Nat)) (h : Head) (rest : List Head) (f : Nat × Nat),
     let e := s.chartEntry q h.pkt.route.epoch h.pkt.route.dst;
     let own := s.ownDst q h.pkt.route.epoch h.pkt.route.dst;
     let off := own || !(s.portsIn e.productive).contains f.1;
     let mark := s.txs.markUtil < f.2 && h.pkt.payloadLen != 0 && h.pkt.route.cls != 1;
     x.input = h :: rest → h.replica = none → (own = true ∨ (s.bankIdle q h.pkt.route.epoch = false ∧ 2 ≤ e.kind)) →
     s.headOutput q h (s.freeFor port h.pkt (s.freeInTurn port s.headsInOrder free)) = some f → f ∈ free ∧
     f.1 ∈ s.allowed q h ∧ s.crossOpen q (f.1 / 8) h.pkt.route.cls h.pkt.size = true ∧ ∃ t,
     exec (.headForward port free) s = .next t ∧ t = { s with ports := t.ports, recover := t.recover, out := t.out } ∧
     t.out = .wire f.1 { h.pkt with
                         hop := { hopCount := h.pkt.hop.hopCount + 1,
                                  deflections := if off then min 255 (h.pkt.hop.deflections + 1) else
                                    h.pkt.hop.deflections, congMark := h.pkt.hop.congMark || mark } } :: s.out ∧
     (t.port port).input.length = rest.length ∧
     (t.port port).input.head? = rest.head?.map (fun g => { g with headSince := some s.clk }) ∧
     (t.port f.1).deflected = (s.port f.1).deflected + (if off then 1 else 0)) ∧
    (∀ (free : List (Nat × Nat)) (h : Head) (rest : List Head),
     x.input = h :: rest → h.replica = none → s.ownDst q h.pkt.route.epoch h.pkt.route.dst = false →
     (s.bankIdle q h.pkt.route.epoch = true ∨ (s.chartEntry q h.pkt.route.epoch h.pkt.route.dst).kind < 2) → ∃ t,
     exec (.headForward port free) s = .next t ∧ t.out = s.out ∧ (t.port port).input.length = rest.length ∧
     (t.port port).noRoute = min 65535 (x.noRoute + 1) ∧ t = { s with ports := t.ports, survey := t.survey }) ∧
    (∀ (free : List (Nat × Nat)) (h : Head) (rest : List Head) (ports : List Nat),
     let mine := s.freeFor port h.pkt (s.freeInTurn port s.headsInOrder free);
     x.input = h :: rest → h.replica = some ports → ∃ t, exec (.headForward port free) s = .next t ∧
     t = { s with ports := t.ports, recover := t.recover, out := t.out } ∧
     (∀ p ∈ ports, s.activePorts.contains p = true → (mine.any fun f => f.1 == p) = true →
      .wire p { h.pkt with hop := { h.pkt.hop with hopCount := h.pkt.hop.hopCount + 1 } } ∈ t.out) ∧
     ((∀ p ∈ ports, s.activePorts.contains p = true → (mine.any fun f => f.1 == p) = true) →
      (t.port port).input.length = rest.length)) ∧
    (∀ (h : Head) (rest : List Head),
     x.input = h :: rest →
     exec (.headRelax port) s = .next (s.modPort port fun y => { y with
                                                                 input :=
                                                                   { h with
                                                                     relaxed := h.relaxed || h.headSince.any fun t =>
                                                                       decide (t + 272 ≤ s.clk) } :: rest }) ∧
     (h.pressed = false → h.arrivedClk + 640 ≤ s.clk →
      exec (.headPressed port) s = .next
        ((s.modPort port fun y => { y with input := { h with pressed := true } :: rest }).count Count.pressedHeads)) ∧
     (h.pressed = true ∨ s.clk < h.arrivedClk + 640 → exec (.headPressed port) s = .next s))

/-- R292 to R305: a port passes DETECT, TRAIN, ALIGN and CONFIG, where a HELLO that fits makes it ACTIVE or starts its
attach session and one that does not sets a flag; an Ethernet port is up at its codeword lock; a lost signal, 600 ns
without a control flit and a DOWN_NOTICE mask it, count a down event and return it to DETECT, held masked at the
eighth within 1 s; retrain clears the flags and the hold; a flit that fails its check is counted and ends the packet
in progress; a silent transmitter sends KEEPALIVE. -/
def Obligations.PortsTrainAndMask : Prop :=
  ∀ (s : State) (port : Nat),
    let x := s.port port;
    (x.mode ≠ 0 →
     (x.state = .detect → ∃ t, exec (.portDetect port) s = .next t ∧
      t.port port = { x with state := .train, leftDetect := s.clk } ∧ (∀ j, j ≠ port → t.port j = s.port j) ∧
      t = { s with ports := t.ports }) ∧
     (x.state = .train → exec (.laneTrained port) s = .next (s.modPort port fun x => { x with state := .align })) ∧
     (x.state = .align → x.mode = 3 →
      exec (.codewordLock port) s = .next (s.modPort port fun x => { x with
                                                                     state := .active,
                                                                     width := widthCode (ethLanes x.eth.rate),
                                                                     lastGoodControl := s.clk, rxPartial := none })) ∧
     (x.state = .align → x.zulvon = true → ∃ t, exec (.codewordLock port) s = .next t ∧
      t.port port = { x with state := .config, lastControlSent := s.clk } ∧ (∀ j, j ≠ port → t.port j = s.port j) ∧
      t.out = .control port 1 [w64 (if x.mode = 2 then 2 else 1), w64 s.cfg.endpoint, w64 s.cfg.mplUs, 4, 1] :: s.out ∧
      t = { s with ports := t.ports, out := t.out })) ∧
    (∀ (msg : Hello),
     let mode := msg.role != 1;
     let mpl := msg.mplUs != s.cfg.mplUs;
     let changed := x.heldNeighbour.any fun e => e != BitVec.ofNat 16 msg.endpoint;
     let y := { x with lastGoodControl := s.clk };
     x.state = .config → x.mode = 1 → x.modeMismatch = false → x.mplMismatch = false → x.neighbourChanged = false → ∃ t,
     exec (.hello port msg) s = .next t ∧ t = { s with ports := t.ports } ∧ (∀ j, j ≠ port → t.port j = s.port j) ∧
     t.port port = (if mode || mpl then { y with modeMismatch := mode, mplMismatch := mpl } else if changed then
                      { y with neighbourChanged := true } else { y with
                                                                 neighbour := BitVec.ofNat 16 msg.endpoint,
                                                                 heldNeighbour := none, state := .active,
                                                                 width := widthCode (min 4 msg.lanes),
                                                                 rxPartial := none })) ∧
    (∀ (msg : Hello) (a : Nat),
     x.state = .config → x.mode = 2 → x.modeMismatch = false → x.mplMismatch = false → x.neighbourChanged = false →
     x.heldNeighbour.all (fun e => e == BitVec.ofNat 16 msg.endpoint) = true → s.accelOf port = some a →
     s.attConfigBad a = false → msg.role = 3 → msg.endpoint = (s.accel a).endpoint.toNat → ∃ t,
     exec (.hello port msg) s = .next t ∧ t = { s with ports := t.ports, accels := t.accels } ∧
     (t.port port).neighbour = BitVec.ofNat 16 msg.endpoint ∧ (∀ j, j ≠ a → t.accel j = s.accel j) ∧
     ((s.accel a).state ≠ .session → (s.accel a).state ≠ .up → (t.port port).state = .session ∧
      t.accel a = { s.accel a with
                    state := .session, step := 1, sessionStart := s.clk, portsInForce := w32 (2 ^ port),
                    writeCredits := msg.writeCredits, readCredits := msg.readCredits })) ∧
    ((x.state = .active ∨ x.state = .session) → s.sessionOf port = none → ∃ t, exec (.lossOfSignal port) s = .next t ∧
     t = { s with
           ports := t.ports, out := t.out, power := t.power, survey := t.survey, quads := t.quads, parts := t.parts,
           free := t.free } ∧ (x.fallback = [] → (∀ j, j ≠ port → t.port j = s.port j) ∧ t.free = s.free) ∧
     (x.rxPartial.getD [] = [] → t.quads = s.quads ∧ t.survey = s.survey ∧ t.parts = s.parts) ∧
     (x.zulvon = true → .control port 8 [] ∈ t.out) ∧ (x.zulvon = true → exec (.downNotice port) s = .next t) ∧
     (x.zulvon = true → x.lastGoodControl + 960 ≤ s.clk → exec (.controlFlitTimeout port) s = .next t) ∧
     (t.port port).downEvents = min 65535 (x.downEvents + 1) ∧ (t.port port).width = 0 ∧
     (t.port port).rxPartial = none ∧
     (t.port port).heldNeighbour = (if x.state = .active then some x.neighbour else x.heldNeighbour) ∧
     (t.port port).heldMasked = (x.heldMasked || 7 ≤ (x.downsNow s.clk).length) ∧
     (x.mode ≠ 0 → (t.port port).state = (if (t.port port).heldMasked then .masked else .detect))) ∧
    (x.zulvon = true →
     (x.state = .train ∨ x.state = .align ∨
      (x.state = .config ∧ x.modeMismatch = false ∧ x.mplMismatch = false ∧ x.neighbourChanged = false)) →
     x.leftDetect + us 100000 ≤ s.clk → s.sessionOf port = none →
     exec (.trainingTimeout port) s = .next (s.modPort port fun x => (x.countDown s.clk).toDetect)) ∧
    (∀ (fn : Nat) (value : W32),
     let w := bits value.toNat 1 0;
     isPf fn = true → (s.func fn).present = true → ∃ t, exec (.retrain fn port value) s = .next t ∧
     (t.port port).minWidth = (if w = 3 then x.minWidth else w) ∧
     (bit value.toNat 2 = false ∨ s.diagOnly = true →
      t = s.modPort port fun x => { x with minWidth := if w = 3 then x.minWidth else w }) ∧
     (bit value.toNat 2 = true → s.diagOnly = false → (t.port port).modeMismatch = false ∧
      (t.port port).mplMismatch = false ∧ (t.port port).neighbourChanged = false ∧ (t.port port).heldNeighbour = none ∧
      (t.port port).heldMasked = false ∧ (t.port port).recentDowns = [] ∧
      (s.sessionOf port = none → x.mode ≠ 0 → (t.port port).state = .detect ∧ (t.port port).downEvents = x.downEvents))) ∧
    (x.zulvon = true → (x.state = .config ∨ x.state = .session ∨ x.state = .active) → x.lastControlSent + 320 ≤ s.clk →
     ∃ t, exec (.keepalive port) s = .next t ∧ t.out = .control port 2 [] :: s.out ∧
     t.port port = { x with lastControlSent := s.clk } ∧ (∀ j, j ≠ port → t.port j = s.port j) ∧
     t = { s with ports := t.ports, out := t.out }) ∧
    (∀ (l : List Byte) (a n : Nat) (l' : List Byte),
     let u := s.modAccel a fun y => { y with upFlits := y.upFlits + 1 };
     let recent := (List.replicate (min n 8) s.clk ++ x.recentUncorrectable.filter fun t => s.clk < t + 1600).take
           8;
     x.state = .active → x.zulvon = true →
     (flitGood x.mode l = false → x.mode = 1 ∨ s.sessionOf port = some a → ∃ t, exec (.dataFlit port l 0) s = .next t ∧
      t = { s with
            ports := t.ports, quads := t.quads, parts := t.parts, out := t.out, survey := t.survey, accels := t.accels }
        ∧ (∀ j, j ≠ port → t.port j = s.port j) ∧ (t.port port).crcErrors = min 65535 (x.crcErrors + 1) ∧
      (t.port port).aborted = (if x.rxPartial.getD [] = [] then x.aborted else min 65535 (x.aborted + 1)) ∧
      (t.port port).rxPartial = none ∧
      t.accel a = (if x.mode = 1 then s.accel a else { s.accel a with upFlits := (s.accel a).upFlits + 1 }) ∧
      (x.rxPartial.getD [] = [] → t.port port = { x with crcErrors := min 65535 (x.crcErrors + 1), rxPartial := none } ∧
       t.quads = s.quads)) ∧
     (flitGood x.mode l = true → x.mode = 1 → exec (.dataFlit port l 0) s = .next (s.goodFlit port l) ∧
      (∀ j, j ≠ port → (s.goodFlit port l).port j = s.port j) ∧ ((s.goodFlit port l).port port).crcErrors = x.crcErrors)
       ∧
     (flitGood x.mode l = true → x.mode = 2 → s.sessionOf port = some a →
      openFlit (s.accel a).upKey (s.accel a).upFlits l = some l' →
      exec (.dataFlit port l 0) s = .next (u.goodFlit port l')) ∧
     (flitGood x.mode l = true → x.mode = 2 → s.sessionOf port = some a →
      openFlit (s.accel a).upKey (s.accel a).upFlits l = none → exec (.dataFlit port l 0) s = .next (u.endSession a)) ∧
     (n ≠ 0 → recent.length < 8 →
      exec (.dataFlit port l n) s = exec (.dataFlit port l 0) (s.modPort port fun y =>
                                                                 { y with
                                                                   uncorrectable := min 65535 (x.uncorrectable + n),
                                                                   recentUncorrectable := recent })) ∧
     (n ≠ 0 → 8 ≤ recent.length → s.sessionOf port = none → ∃ t, exec (.dataFlit port l n) s = .next t ∧
      (t.port port).uncorrectable = min 65535 (x.uncorrectable + n) ∧
      (t.port port).downEvents = min 65535 (x.downEvents + 1) ∧
      ((t.port port).state = .detect ∨ (t.port port).state = .masked)))

/-- R300, R301: an ACTIVE port whose peak exceeds the widening limit proposes twice its width once it has leave for the
added lanes; one that is below the narrowing limit both ways long enough proposes half at once; a request to narrow
that this side's own condition confirms is acknowledged and switched, one to widen after leave; an acknowledgement of
the own proposal sends WIDTH_SWITCH; a switch takes the agreed width, and lanes released give their leave back. -/
def Obligations.LaneWidthsChange : Prop :=
  ∀ (s : State) (port : Nat),
    let x := s.port port;
    let n := lanesOf x.width;
    (∀ (a b peak held : Nat),
     x.widthOpen = true → x.proposed = none → x.agreed = none →
     (s.cfg.widenUtil < peak → n < 4 → ∃ t, exec (.widthProposal port a b peak held) s = .next t ∧
      t = { s with ports := t.ports, power := t.power } ∧
      t.port port = { x with proposed := some (2 * n), leaveForLanes := n } ∧
      t.power = { s.power with firstQueue := t.power.firstQueue, nextLeave := s.power.nextLeave + 1 } ∧
      { id := s.power.nextLeave, purpose := .lanes port n, load := 1125 * n, askedClk := s.clk } ∈ t.power.firstQueue ∧
      (∀ l ∈ s.power.firstQueue, l ∈ t.power.firstQueue)) ∧
     (peak ≤ s.cfg.widenUtil → s.narrowHolds x a b held = true → ∃ t,
      exec (.widthProposal port a b peak held) s = .next t ∧ t = { s with ports := t.ports, out := t.out } ∧
      t.port port = { x with proposed := some (n / 2), leaveForLanes := 0, lastControlSent := s.clk } ∧
      t.out = .control port 5 [w64 (n / 2)] :: s.out) ∧
     (peak ≤ s.cfg.widenUtil → s.narrowHolds x a b held = false → exec (.widthProposal port a b peak held) s = .next s)) ∧
    (∀ (lanes a b held : Nat),
     x.widthOpen = true → x.agreed = none → 1 ≤ n →
     (2 * lanes = n → s.narrowHolds x a b held = true → ∃ t, exec (.widthReq port lanes a b held) s = .next t ∧
      t = { s with ports := t.ports, out := t.out } ∧ (∀ j, j ≠ port → t.port j = s.port j) ∧
      t.port port =
        { x with lastGoodControl := s.clk, agreed := some lanes, leaveForLanes := 0, lastControlSent := s.clk } ∧
      t.out = .control port 7 [] :: .control port 6 [w64 lanes] :: s.out) ∧
     (lanes = 2 * n → lanes ≤ 4 → ∃ t, exec (.widthReq port lanes a b held) s = .next t ∧
      t = { s with ports := t.ports, power := t.power } ∧
      t.port port = { x with lastGoodControl := s.clk, agreed := some lanes, leaveForLanes := n } ∧
      { id := s.power.nextLeave, purpose := .lanes port n, load := 1125 * n, askedClk := s.clk } ∈ t.power.firstQueue)) ∧
    (∀ (lanes : Nat),
     x.widthOpen = true → x.proposed = some lanes → ∃ t, exec (.widthAck port lanes) s = .next t ∧
     t = { s with ports := t.ports, out := t.out } ∧
     t.port port = { x with lastGoodControl := s.clk, proposed := none, agreed := some lanes, lastControlSent := s.clk }
       ∧ (∀ j, j ≠ port → t.port j = s.port j) ∧ t.out = .control port 7 [] :: s.out) ∧
    (∀ (lanes : Nat),
     x.widthOpen = true → x.leaveForLanes = 0 → x.agreed = some lanes → ∃ t, exec (.widthSwitch port) s = .next t ∧
     t = { s with ports := t.ports, power := t.power } ∧
     t.port port = { x with lastGoodControl := s.clk, agreed := none, width := widthCode lanes } ∧
     (∀ j, j ≠ port → t.port j = s.port j) ∧ (n ≤ lanes → t.power = s.power) ∧
     (lanes < n → ∀ l ∈ t.power.holders, l.purpose ≠ .lanes port lanes))

/-- R349 to R365: no job ends before its clocks; a job whose vectors are all done ends its step with OK, frees the
graticule, swaps its weight banks and counts one more job; a job of one vector leaves the vector's pass sums, or
their sum with the row, in its accumulator row; a vector whose check fails waits for its repeat, which on success
accumulates it and counts a retry, and otherwise, or where the retry is off, ends the job with GRATICULE_CHECK_FAILED
and makes the graticule suspect until its self-test, whose failure retires it; a wiped unit holds nothing and belongs
to the partition that waits. -/
def Obligations.GraticulesMultiply : Prop :=
  ∀ (s : State) (g : Nat) (x : GratJob) (r : Running) (f : Flight) (bad : Option Nat),
    let y := s.grat g;
    let cls := (pairClass x.record.aFmt x.record.wFmt).getD .full;
    let due := x.grantedClk + jobClocks cls x.record + (s.power.withheld - x.withheld);
    (y.job = some x → s.jobFlight x = some (r, f) → (x.running = false ∨ x.failedVector ≠ none ∨ s.clk < due) →
     exec (.graticuleJobEnd g bad) s = .next s) ∧
    (∀ (d : JobData) (u : State) (z : GratJob),
     y.job = some x → s.jobFlight x = some (r, f) → x.running = true → x.failedVector = none → due ≤ s.clk →
     (s.jobData x f).bind Except.toOption = some d → (s.streamJob g d bad (x.record.m + 1)).done? = some u →
     (u.grat g).job = some z → ∃ t, exec (.graticuleJobEnd g bad) s = .next t ∧
     t = { u with grats := t.grats, power := t.power, seqs := t.seqs, survey := t.survey } ∧
     t.grat g = { u.grat g with
                  job := none, bank := !(u.grat g).bank, jobs := (u.grat g).jobs + 1,
                  invalidCount := if z.flags.invalid then min 15 ((u.grat g).invalidCount + 1) else
                    (u.grat g).invalidCount,
                  overflowCount := if z.flags.overflow then min 15 ((u.grat g).overflowCount + 1) else
                    (u.grat g).overflowCount } ∧ (t.flight? z.sequencer z.slot).all (fun e => e.ended.isSome) = true ∧
     (∀ j, j ≠ g → t.grat j = u.grat j)) ∧
    (∀ (d : JobData) (a : Line),
     let v := runVector d a;
     let old := (s.rowOf g (accKey x.record 0)).1;
     y.job = some x → s.jobFlight x = some (r, f) → x.running = true → x.failedVector = none → due ≤ s.clk →
     (s.jobData x f).bind Except.toOption = some d → x.record.m = 1 → x.next = 0 → x.record.emit = false →
     (s.jobVector x f 0).getRight? = some a → (x.checked = false ∨ (v.check ≠ .fail ∧ bad ≠ some 0)) → ∃ t,
     exec (.graticuleJobEnd g bad) s = .next t ∧
     t = { s with grats := t.grats, power := t.power, seqs := t.seqs, survey := t.survey, free := t.free } ∧
     (y.spoiled.contains (accKey x.record 0) = false → old = tblGetD y.rows (accKey x.record 0) [] ∧ t.free = s.free) ∧
     tblGetD (t.grat g).rows (accKey x.record 0) [] =
       (if x.record.accumulate then (accumulateRow d old v.passes).1 else v.passes) ∧ (t.grat g).job = none ∧
     (t.grat g).bank = !y.bank ∧ (t.grat g).jobs = y.jobs + 1 ∧
     (∀ k, k ≠ accKey x.record 0 → tblGet (t.grat g).rows k = tblGet y.rows k)) ∧
    (∀ (d : JobData) (a : Line),
     y.job = some x → s.jobFlight x = some (r, f) → x.running = true → x.failedVector = none → due ≤ s.clk →
     (s.jobData x f).bind Except.toOption = some d → x.next < x.record.m → (s.jobVector x f x.next).getRight? = some a →
     x.checked = true → bad = some x.next →
     (s.cfg.retry = true →
      exec (.graticuleJobEnd g bad) s = .next
        (s.modGrat g fun y => { y with job := some { x with failedVector := some x.next } })) ∧
     (s.cfg.retry = false → ∃ t, exec (.graticuleJobEnd g bad) s = .next t ∧ (t.grat g).suspect = true ∧
      (t.grat g).job = none ∧ (t.grat g).checkFailed = min 255 (y.checkFailed + 1) ∧ (t.grat g).jobs = y.jobs ∧
      t.mem = s.mem ∧ t.still = s.still)) ∧
    (∀ (d : JobData) (a : Line) (v : Nat),
     y.job = some x → s.jobFlight x = some (r, f) → x.failedVector = some v →
     (s.jobData x f).bind Except.toOption = some d → (s.jobVector x f v).getRight? = some a →
     (∃ t, exec (.checkRepeat g false) s = .next t ∧ (t.grat g).suspect = true ∧ (t.grat g).job = none ∧
      (t.grat g).checkFailed = min 255 (y.checkFailed + 1) ∧ t.mem = s.mem ∧ t.still = s.still) ∧
     ((runVector d a).check ≠ .fail → x.record.emit = false → ∃ t, exec (.checkRepeat g true) s = .next t ∧
      t = { s with grats := t.grats, survey := t.survey, free := t.free } ∧
      (y.spoiled.contains (accKey x.record v) = false → t.free = s.free) ∧
      (t.grat g).retryOk = min 255 (y.retryOk + 1) ∧
      (t.grat g).job.all (fun z => z.next == v + 1 && z.failedVector == none && z.record == x.record) = true ∧
      tblGetD (t.grat g).rows (accKey x.record v) [] =
        (accumulateRow d (s.rowOf g (accKey x.record v)).1 (runVector d a).passes).1 ∧
      (y.spoiled.contains (accKey x.record v) = false →
       (s.rowOf g (accKey x.record v)).1 = tblGetD y.rows (accKey x.record v) []))) ∧
    (y.suspect = true → s.power.holders.any (fun l => l.purpose == .selfTest g) = true →
     (∃ t, exec (.graticuleSelfTestEnd g true) s = .next t ∧ t.grat g = { y with suspect := false } ∧
      t = { s with grats := t.grats, power := t.power } ∧
      t.power.holders = s.power.holders.filter fun l => l.purpose != .selfTest g) ∧ ∃ t,
     exec (.graticuleSelfTestEnd g false) s = .next t ∧ t.grat g = { y with suspect := false, retired := true } ∧
     t.survey.alarms = s.survey.alarms ||| 4 ∧ t.still = s.still) ∧
    ((y.suspect = false ∨ s.power.holders.any (fun l => l.purpose == .selfTest g) = false) →
     exec (.graticuleSelfTestEnd g true) s = .next s ∧ exec (.graticuleSelfTestEnd g false) s = .next s) ∧
    (y.wiping = false → (s.seq g).wiping = false → (s.red g).wiping = false →
     exec (.wipeComplete (.graticule g)) s = .next s ∧ exec (.wipeComplete (.sequencer g)) s = .next s ∧
     exec (.wipeComplete (.reduction g)) s = .next s) ∧
    (y.wiping = true → (s.seq g).wiping = true → (s.red g).wiping = true →
     exec (.wipeComplete (.sequencer g)) s = .next (s.modSeq g fun q => { q with wiping := false }).pumpAll ∧
     (y.job = none →
      exec (.wipeComplete (.graticule g)) s = .next
        ((s.modGrat g fun y => { y with wiping := false, rows := [], spoiled := [], bank := false }).scoreLeave g) ∧
      (y.scoring = none →
       (s.modGrat g fun y => { y with wiping := false, rows := [], spoiled := [], bank := false }).scoreLeave g =
         s.modGrat g fun y => { y with wiping := false, rows := [], spoiled := [], bank := false })) ∧
     (y.job = some x → ∃ t, exec (.wipeComplete (.graticule g)) s = .next t ∧
      t.grat g =
        { y with wiping := false, rows := [], spoiled := [], bank := false, partition := x.partition, owned := true } ∧
      t = { s with grats := t.grats, power := t.power } ∧
      (t.power.firstQueue ++ t.power.secondQueue).any
        (fun l => l.purpose == .graticule g (pairClass x.record.aFmt x.record.wFmt == some .half)) = true) ∧
     ((s.red g).queue = [] →
      exec (.wipeComplete (.reduction g)) s = .next
        (s.modRed g fun y => { y with wiping := false, exactStore := [], holds := none })) ∧
     (∀ w ∈ (s.red g).queue.take 1,
      exec (.wipeComplete (.reduction g)) s = .next
        (s.modRed g fun y => { y with wiping := false, exactStore := [], holds := some w.partition })))

/-- R357 to R359, R379: the unit's first reduction combines every source element with its destination element, or
converts every source element, writes exactly the destination's bytes in the destination's format, adds its flags,
counts one more reduction and leaves the queue; a unit that is being wiped or fenced does nothing. -/
def Obligations.ReductionUnitsReduce : Prop :=
  ∀ (s : State) (u : Nat) (x : Reduction) (rest : List Reduction) (f : Flight) (src dst : List Byte),
    let y := s.red u;
    let o := TileOwner.step x.sequencer x.slot;
    let a := segTarget (f.segs.getD 1 {}) x.dst + 0;
    ((y.wiping = true ∨ s.unitDown (.reduction u) = true ∨ y.queue = []) → exec (.reductionEnd u) s = .next s) ∧
    (let seed := (s.ctx x.context).seed;
     let rc := (reduceArea x seed src dst);
     let cv := (convertArea x seed (areaNums x.inFmt x.count src));
     let res := packElems x.outFmt (if x.convert then cv.1 else rc.1);
     let fl := if x.convert then cv.2.2 else rc.2;
     y.wiping = false → s.unitDown (.reduction u) = false → y.queue = x :: rest →
     s.flight? x.sequencer x.slot = some f → isMx x.outFmt = false →
     (s.localRead o x.partition (f.segs.getD 0 {}) x.src 0 (areaBytes x.inFmt x.count) 0).toOption = some src →
     (x.convert = false →
      (s.localRead o x.partition (f.segs.getD 1 {}) x.dst 0 (areaBytes x.outFmt x.count) 2).toOption = some dst) →
     (f.segs.getD 1 {}).kind ≠ 1 → inAccelWindow a = false → s.spaceCheck x.partition a res.length true = Status.ok →
     s.biasLines x.partition a res.length true = [] → s.mem.wf = true → ∃ t, exec (.reductionEnd u) s = .next t ∧
     (s.mem.upsets = [] → t.readSpace x.partition a res.length = res ∧ ∀ k, k < spaceKey x.partition a ∨
      spaceKey x.partition a + res.length ≤ k → memGet t.mem.cells k = memGet s.mem.cells k) ∧ (t.red u).queue = rest ∧
     (t.red u).reductions = y.reductions + 1 ∧
     (t.red u).invalidCount = (if fl.invalid then min 65535 (y.invalidCount + 1) else y.invalidCount) ∧
     (t.red u).overflowCount = (if fl.overflow then min 65535 (y.overflowCount + 1) else y.overflowCount) ∧
     t.still = s.still ∧ t.queues = s.queues ∧ t.contexts = s.contexts) ∧
    (∀ (v : State),
     let seed := (s.ctx x.context).seed;
     let cv := (convertArea x seed (areaNums x.inFmt x.count src));
     y.wiping = false → s.unitDown (.reduction u) = false → y.queue = x :: rest →
     s.flight? x.sequencer x.slot = some f → x.convert = true →
     (s.localRead o x.partition (f.segs.getD 0 {}) x.src 0 (areaBytes x.inFmt x.count) 0).toOption = some src →
     (s.writePieces s o x.partition (f.segs.getD 1 {}) x.dst 1 (areaPieces x.outFmt x.count cv.1 cv.2.1)).done? = some v
       → exec (.reductionEnd u) s = .next (v.endReduction u x cv.2.2 Status.ok))

/-- R343 to R392: an XFORM GEMM whose record passes its checks gives the chosen graticule the record as its job, which
asks leave, or waits for the wipe of another partition's contents; a REDUCE or CONVERT joins the queue of the
quadrant's unit; a COLL of an idle schedule flies and starts its instance, of a running one waits; EXIT without
flights completes the descriptor with OK, the flags and its scalar; an ended flight leaves, adds its sig and lets the
sequencer go on, a failed one fails the kernel with its status; a step past its timeout is cancelled, counted and
fails with STEP_TIMEOUT. -/
def Obligations.KernelsComputeAndEnd : Prop :=
  ∀ (s : State) (k : Nat) (r : Running) (st : Step),
    (∀ (g : Nat) (l : List Byte),
     let a := segTarget (s.segOf r.context st.a) st.a;
     let j := parseJob l;
     let y := s.grat g;
     let wipe := y.owned && y.partition != r.partition;
     let half := pairClass j.aFmt j.wFmt == some .half;
     let f := ({ slot := r.nextSlot, index := r.step, step := st, trig := r.trigOf st, issuedClk := s.clk,
                     segs := [s.segOf r.context st.a], table := (s.ctx r.context).segments } : Flight);
     s.stepOf k 3 0 = some (r, st) → s.trigsOk r st = true → r.room = true →
     r.flights.all (fun f => f.slot < r.nextSlot) = true → s.stepRange r st.a 64 false = Status.ok →
     (s.segOf r.context st.a).kind ≠ 1 → inAccelWindow a = false → s.spaceCheck r.partition a 64 false = Status.ok →
     s.biasLines r.partition a 64 false = [] → s.readSpace r.partition a 64 = l →
     (s.jobStatus r f l = Status.ok → s.gratChosen k r g = true →
      j.ranges.all
        (fun b => (s.segOf r.context b.2.1).kind != 1 && !inAccelWindow (segTarget (s.segOf r.context b.2.1) b.2.1)) =
        true → ∃ u, exec (.xformGemm k g) s = .next u ∧
      u = { s with grats := u.grats, power := u.power, seqs := u.seqs } ∧
      u.grat g = { y with
                   owned := true, wiping := wipe, partition := if wipe then y.partition else r.partition,
                   boundTo := if r.image.bindGraticule then some k else y.boundTo,
                   job := some { record := j, sequencer := k, slot := r.nextSlot, context := r.context,
                                 partition := r.partition, checked := j.check || s.cfg.forceCheck,
                                 fpTol := s.cfg.fpTol } } ∧ (∀ i, i ≠ g → u.grat i = s.grat i) ∧
      (u.flight? k r.nextSlot).all (fun f => f.step == st && f.ended == none) = true ∧
      (wipe = true → u.power = s.power) ∧
      (wipe = false → (u.power.firstQueue ++ u.power.secondQueue).any (fun l => l.purpose == .graticule g half) = true))
       ∧
     (s.jobStatus r f l = Status.ok → s.gratChosen k r g = false → ∃ u, exec (.xformGemm k g) s = .next u ∧
      u = { s with seqs := u.seqs } ∧ ((u.seq k).running.map fun x => x.waiting) = some (.record r.nextSlot)) ∧
     (s.jobStatus r f l ≠ Status.ok → ∃ u, exec (.xformGemm k g) s = .next u ∧ u = { s with seqs := u.seqs } ∧
      (u.flight? k r.nextSlot).map (fun f => f.ended) = some (some (s.jobStatus r f l, jobCondition j)))) ∧
    (∀ (g slot : Nat) (f : Flight),
     s.kernel? k = some r → r.waiting = .record slot → s.flight? k slot = some f →
     exec (.xformGemm k g) s = .next (s.gemm k g r f)) ∧
    (let u := seqQuadrant k;
     let x := reductionOf k r st (st.sub == 2);
     s.stepOf k 3 st.sub = some (r, st) → (st.sub = 1 ∨ st.sub = 2) → s.trigsOk r st = true → r.room = true →
     (x.status ≠ Status.ok →
      (if st.sub = 1 then exec (.xformReduce k) s else exec (.xformConvert k) s) = .next (s.failStep k r x.status)) ∧
     (x.status = Status.ok → s.stepRange r st.a (areaBytes x.inFmt x.count) false = Status.ok →
      s.stepRange r st.c (areaBytes x.outFmt x.count) true = Status.ok →
      (st.sub = 1 → s.stepRange r st.c (areaBytes x.outFmt x.count) false = Status.ok) →
      (s.segOf r.context st.a).kind ≠ 1 → (s.segOf r.context st.c).kind ≠ 1 →
      inAccelWindow (segTarget (s.segOf r.context st.a) st.a) = false →
      inAccelWindow (segTarget (s.segOf r.context st.c) st.c) = false → ∃ v,
      (if st.sub = 1 then exec (.xformReduce k) s else exec (.xformConvert k) s) = .next v ∧
      v = { s with reds := v.reds, seqs := v.seqs } ∧ (v.red u).queue = (s.red u).queue ++ [x] ∧
      ((s.red u).queue = [] → (s.red u).holds.any (fun h => h != r.partition) = true → (v.red u).wiping = true))) ∧
    (∀ (c : Schedule),
     let w := s.modRun k fun x => { x with
                                        flights := x.flights ++ [{ slot := r.nextSlot, index := r.step, step := st,
                                                                   trig := r.trigOf st, issuedClk := s.clk }],
                                        nextSlot := x.nextSlot + 1, step := x.step + 1, progressClk := s.clk,
                                        waiting := if st.sync then .flight r.nextSlot else .none };
     let alive := (s.job? r.partition c.header.job).any (fun j => !j.aborted);
     s.stepOf k 9 0 = some (r, st) → s.trigsOk r st = true → r.room = true →
     s.schedule? r.partition (w32 (bits st.a.toNat 31 0)) = some c →
     (c.header.startKind ≠ 0 ∨ c.released = true → exec (.coll k) s = .next (s.failStep k r Status.badObject)) ∧
     (c.header.startKind = 0 → c.released = false → alive = false →
      exec (.coll k) s = .next (s.failStep k r Status.jobAborted)) ∧
     (c.header.startKind = 0 → c.released = false → alive = true → c.running = none →
      exec (.coll k) s = .next (w.startInstance r.partition c (s.mtQ (seqQuadrant k)) (some (k, r.nextSlot)))) ∧
     (c.header.startKind = 0 → c.released = false → alive = true → c.running ≠ none →
      exec (.coll k) s = .next ((w.modSchedule r.partition c.header.id fun c =>
                                   { c with callers := c.callers ++ [(k, r.nextSlot)], late := c.late + 1 }).count
                                  Count.collectiveLate))) ∧
    (∀ (d : Desc),
     let w := s.modRun k fun x => { x with waiting := .exit (r.sc st.sx) };
     let v := (if st.sig then w.modTrig (r.trigOf st) (· + 1) else w).checkEnd k;
     s.stepOf k 15 0 = some (r, st) → s.trigsOk r st = true → exec (.exit k) s = .next v.trigMoved ∧
     (r.flights ≠ [] → ((v.seq k).running.map fun x => x.waiting) = some (.exit (r.sc st.sx))) ∧
     (r.flights = [] → s.desc? r.queue r.descIndex = some d → d.phase ≠ .completed → (v.seq k).running = none ∧
      (v.seq k).ended = (s.seq k).ended + 1 ∧ (v.seq k).failed = (s.seq k).failed ∧
      (v.desc? r.queue r.descIndex).all
        (fun e => e.phase == .completed && e.status == Status.ok && e.detail == r.flags.bits && e.result == r.sc st.sx)
        = true)) ∧
    (∀ (slot code detail : Nat) (f : Flight),
     let v := s.completeFlight k slot;
     let others := r.flights.any fun e => e.slot != slot;
     let mine := s.ownsTrig r.partition f.trig;
     (s.seq k).running = some r → s.flight? k slot = some f → f.ended = some (code, detail) →
     s.flightQuiet k slot = true → exec (.stepComplete k slot) s = .next v.trigMoved ∧ v.flight? k slot = none ∧
     (code = Status.ok → f.step.sig = false ∨ mine = true → others = true →
      (v.seq k).running = some { r with
                                 flights := r.flights.filter (fun e => e.slot != slot), progressClk := s.clk,
                                 waiting := if r.waiting = .flight slot then .none else r.waiting }) ∧
     (code = Status.ok → f.step.sig = true → mine = true → v.trigValue f.trig = s.trigValue f.trig + 1) ∧
     (code = Status.ok → f.step.sig = true → mine = false → r.waiting = .none → others = true →
      ((v.seq k).running.map fun x => x.waiting) = some (.failing Status.partitionScope f.index) ∧ v.trigs = s.trigs) ∧
     (code ≠ Status.ok → r.waiting = .none → others = true →
      ((v.seq k).running.map fun x => x.waiting) = some (.failing code f.index)) ∧
     (code ≠ Status.ok → r.waiting = .none → others = false → (v.seq k).running = none ∧
      (v.desc? r.queue r.descIndex).all (fun e => e.phase == .completed) = true)) ∧
    (∀ (slot p : Nat) (f : Flight) (c : Schedule),
     let v := (s.cancelFlight k slot Status.stepTimeout).modSeq k fun q =>
           { q with timeouts := min 65535 (q.timeouts + 1) };
     s.flight? k slot = some f →
     (f.step.timeout = 0 ∨ s.clk < f.issuedClk + 1600 * f.step.timeout ∨ f.ended ≠ none →
      exec (.stepTimeout k slot) s = .next s) ∧
     (f.step.timeout ≠ 0 → f.issuedClk + 1600 * f.step.timeout ≤ s.clk → f.ended = none → s.collOf k slot = none →
      exec (.stepTimeout k slot) s = .next (v.completeFlight k slot) ∧
      (v.seq k).timeouts = min 65535 ((s.seq k).timeouts + 1) ∧
      (v.flight? k slot).all (fun e => e.ended == some (Status.stepTimeout, 0)) = true ∧
      v.hasSender (.step k slot) = false ∧ v.mem = s.mem ∧ v.queues = s.queues) ∧
     (f.step.timeout ≠ 0 → f.issuedClk + 1600 * f.step.timeout ≤ s.clk → f.ended = none →
      s.collOf k slot = some (p, c) →
      exec (.stepTimeout k slot) s = .next ((v.originate p c.header.job 3).completeFlight k slot)))

/-- R387 to R395, R522, R523: verified collective data of a running instance whose step still lacks it is committed and
credited, of a full step it is refused, of an aborted job it is dropped; an instance that is done ends and an
unfinished one only moves on; a member's HEARTBEAT that opens is noted with its time; a watched member silent for
more than 50 µs makes the device originate a beacon, which aborts the job; a beacon not seen before is entered in the
filter, queued for its replicas ahead of other heads and, where its tag verifies, aborts the job here; a known one is
dropped. -/
def Obligations.CollectivesRun : Prop :=
  ∀ (s : State) (p : Nat) (pkt : Packet),
    (s.collCopy p pkt = none → exec (.collData p pkt) s = .next s) ∧
    (∀ (c : RxCopy),
     s.collCopy p pkt = some c → s.failedRecord p c.pkt = true → exec (.collData p pkt) s = .next (s.dropFailed p c) ∧
     (s.dropFailed p c).copy? p c.id = none) ∧
    (∀ (c : RxCopy) (sch : Schedule) (x : Instance) (u : State),
     let k := c.pkt;
     let marked := s.marksReply k c.marked;
     let q := k.key.partition;
     let full := x.stepFull sch k.spec.step k.spec.rank;
     let red := sch.reduces k.spec.step k.spec.rank;
     let open' := !(s.seq sch.sequencer).wiping && !s.unitDown (.receive p);
     let w := if red then u.unitRan p q sch x.flags else u;
     s.collCopy p pkt = some c → s.failedRecord p k = false → s.schedule? q k.spec.schedule = some sch →
     s.instance? q k.spec.schedule = some x →
     (full = true → exec (.collData p pkt) s = .next (s.refuseColl p c) ∧ (s.refuseColl p c).copy? p c.id = none) ∧
     (full = false → open' = false → exec (.collData p pkt) s = .next s) ∧
     (full = false → open' = true → red = true → s.unitDown (.reduction p) = true ∨ (s.red p).queue ≠ [] →
      exec (.collData p pkt) s = .next s) ∧
     (full = false → open' = true → red = true → s.unitDown (.reduction p) = false → (s.red p).queue = [] →
      s.unitReady p q = false → exec (.collData p pkt) s = .next (s.modRed p fun y => { y with wiping := true })) ∧
     (full = false → open' = true → red = false ∨ s.unitReady p q = true →
      (s.collCommit q sch (if red then { x with flags := {} } else x) k.spec.step k.spec.rank
         (k.spec.bufferOffset.toNat + k.pktIndex * 4096) k.payload).done? = some u →
      exec (.collData p pkt) s = .next (((w.freeCopy p c).verifyBit p k).credit p k marked).pumpAll)) ∧
    (∀ (c : RxCopy) (j : Job),
     s.collCopy p pkt = some c → s.failedRecord p c.pkt = false →
     s.instance? c.pkt.key.partition c.pkt.spec.schedule = none → s.job? c.pkt.key.partition c.pkt.spec.job = some j →
     exec (.collData p pkt) s = .next (if j.aborted then s.dropCopy p c else s.refuseColl p c)) ∧
    (∀ (id : W32) (c z : Schedule) (y : Instance),
     let v := s.pumpColl p c;
     s.schedule? p id = some c → (s.instance? p id = none → exec (.instanceEnd p id) s = .next s) ∧
     (v.instance? p id = some y → y.failed = 0 → v.schedule? p id = some z → s.instance? p id ≠ none →
      exec (.instanceEnd p id) s = .next (if v.instanceDone p z y then v.finishInstance p z y else v))) ∧
    (∀ (j : Job) (key : List Byte),
     let q := pkt.key.partition;
     let d := pkt.route.landQ;
     let u := s.useEngine d true pkt.size;
     pkt.route.opcode = 0x21 → headerValid pkt = true → s.ownDst d pkt.route.epoch pkt.route.dst = true →
     s.mer.lock ≠ .unlocked → s.beforeFloor pkt.issue = false → s.freshEnough d pkt.issue = true →
     s.openKey pkt = some key → s.unitDown (.receive d) = false → s.job? q pkt.spec.job = some j →
     (s.engineFree d true = false → exec (.heartbeat pkt) s = .next (s.askEngine d true)) ∧
     (s.engineFree d true = true → pkt.trailer ≠ pkt.tag key → exec (.heartbeat pkt) s = .next (u.tagFailed d pkt)) ∧
     (s.engineFree d true = true → pkt.trailer = pkt.tag key →
      exec (.heartbeat pkt) s = .next (if !j.aborted && j.heartbeat && j.targets.contains pkt.spec.rank then u.modJob q
                                         pkt.spec.job fun j => { j with
                                                                 watched := (pkt.spec.rank, s.mtQ d) :: j.watched.filter
                                                                   fun w => w.1 != pkt.spec.rank } else u)) ∧
     (j.members = 2 → j.targets = [1 - j.rank])) ∧
    (∀ (job rank t0 : Nat) (j : Job),
     let now := s.mtQ j.quadrant;
     s.job? p job = some j → j.watched.find? (fun w => w.1 == rank) = some (rank, t0) →
     (now ≤ t0 + 800000 → exec (.heartbeatSilence p job rank) s = .next s) ∧
     (t0 + 800000 < now → ∃ t, exec (.heartbeatSilence p job rank) s = .next t ∧
      (t.job? p job).all (fun y => y.aborted) = true ∧ (j.aborted = true → t = s) ∧ t.still = s.still ∧
      t.contexts = s.contexts)) ∧
    (∀ (key : List Byte),
     let x := s.port p;
     let q := pkt.key.partition;
     let d := p / 8;
     let known := s.beaconKnown pkt.key.src q pkt.spec.job pkt.issue;
     let member := (s.job? q pkt.spec.job).isSome && s.opens pkt;
     pkt.route.opcode = 0x22 → x.mode = 1 → x.state = .active → pkt.route.version = 1 →
     s.beforeFloor pkt.issue = false → s.hopFresh p pkt.issue = true →
     (pkt.hop.hopCount = 63 →
      exec (.beacon p pkt) s = .next
        ((s.modPort p fun x => { x with hopLimit := min 65535 (x.hopLimit + 1) }).note Status.hopLimit 0x18 p)) ∧
     (pkt.hop.hopCount ≠ 63 → known = true → exec (.beacon p pkt) s = .next s) ∧
     (pkt.hop.hopCount ≠ 63 → known = false → s.floodRoom = false →
      exec (.beacon p pkt) s = .next (s.note Status.beaconLimit 0x14 d)) ∧
     (pkt.hop.hopCount ≠ 63 → known = false → s.floodRoom = true → member = true → s.engineFree d true = false →
      exec (.beacon p pkt) s = .next (s.askEngine d true)) ∧
     (pkt.hop.hopCount ≠ 63 → known = false → s.floodRoom = true → member = false ∨ s.engineFree d true = true → ∃ t,
      exec (.beacon p pkt) s = .next t ∧
      t.recover.filter.head? = some
        { src := pkt.key.src, partition := q, job := pkt.spec.job, issue := pkt.issue, untilClk := s.clk + s.mplClk } ∧
      (∃ h ∈ (t.port p).input, h.pkt = pkt ∧ h.replica = some (s.activePorts.filter fun y => y != p)) ∧
      t.still = s.still ∧
      (s.openKey pkt = some key → pkt.trailer = pkt.tag key → s.unitDown (.receive d) = false →
       (t.job? q pkt.spec.job).all (fun y => y.aborted) = true)))

/-- R373 to R385: a command of another step than the sequencer's next one does nothing; a step that names a trig point of
another partition fails the kernel, which ends with PARTITION_SCOPE and the step's index; SET, SEED, TRIG_ADD,
TRIG_SET and TRIG_READ change exactly the value they name; PRED skips the next a[7:0] steps where its condition is
false; LOOP goes back to its target while its count lasts; WAIT goes on where its condition holds, TRIG_TAKE
subtracting, and else parks, until WAIT_SATISFIED finds that it holds; a DOORBELL reaches the accelerator; a
completed step adds 1 to its trig point where it carries sig. -/
def Obligations.KernelStepsControl : Prop :=
  ∀ (s : State) (k : Nat) (r : Running) (t : Step),
    let tp := r.trigOf t;
    let v := s.trigValue tp;
    let go := fun (u : State) (next : Nat) => if t.sig then
        ((u.modRun k fun x => { x with step := next, progressClk := s.clk }).modTrig tp (· + 1)).trigMoved else u.modRun
        k fun x => { x with step := next, progressClk := s.clk };
    let sc := fun (w : W64) => s.modRun k fun x => { x with scalars := x.scalars.set t.sy w };
    (s.kernel? k = some r → r.waiting ≠ .none →
     ∀ c ∈ [Instr.fetchLocal k, .fetchRemote k, .sendWrite k, .sendWriteFlag k, .sendAdd64 k, .xformReduce k,
            .xformConvert k, .waitTrigGe k, .waitTrigTake k, .waitTime k, .waitWordGe k, .trigAdd k, .trigSet k,
            .doorbell k, .loop k, .predEq k, .predNe k, .predLt k, .predTrigGe k, .predFlags k, .mov k, .setAdd k,
            .load k, .store k, .seed k, .trigRead k, .coll k, .exit k], exec c s = .next s) ∧
    (s.stepOf k 8 t.sub = some (r, t) → s.trigsOk r t = true →
     (t.sub = 0 → exec (.mov k) s = .next (go (sc t.a) (r.step + 1))) ∧
     (t.sub = 1 → exec (.setAdd k) s = .next (go (sc (r.sc t.sy + t.a)) (r.step + 1))) ∧
     (t.sub = 4 → exec (.seed k) s = .next (go (s.modCtx r.context fun c => { c with seed := r.sc t.sy }) (r.step + 1)))
       ∧ (t.sub = 5 → exec (.trigRead k) s = .next (go (sc v) (r.step + 1)))) ∧
    (let holds := if t.sub = 0 then r.sc t.sx == t.b else if t.sub = 1 then r.sc t.sx != t.b else if t.sub = 2 then
           decide ((r.sc t.sx).toNat < t.b.toNat) else if t.sub = 3 then decide (t.b.toNat ≤ v.toNat) else
           r.flags.invalid || r.flags.overflow;
     let next := if holds then r.step + 1 else r.step + 1 + bits t.a.toNat 7 0;
     s.stepOf k 7 t.sub = some (r, t) → s.trigsOk r t = true → (t.sub = 0 → exec (.predEq k) s = .next (go s next)) ∧
     (t.sub = 1 → exec (.predNe k) s = .next (go s next)) ∧ (t.sub = 2 → exec (.predLt k) s = .next (go s next)) ∧
     (t.sub = 3 → exec (.predTrigGe k) s = .next (go s next)) ∧ (t.sub = 4 → exec (.predFlags k) s = .next (go s next))) ∧
    (let n := tblGetD r.loops r.step (r.loopCount t - 1);
     s.stepOf k 6 0 = some (r, t) → s.trigsOk r t = true → bits t.a.toNat 15 0 ≠ 0 →
     (0 < n →
      exec (.loop k) s = .next
        (go (s.modRun k fun x => { x with loops := tblSet x.loops r.step (n - 1) }) (bits t.c.toNat 10 0))) ∧
     (n = 0 →
      exec (.loop k) s = .next (go (s.modRun k fun x => { x with loops := tblErase x.loops r.step }) (r.step + 1))) ∧
     (t.ind = false → r.loopCount t = bits t.a.toNat 15 0)) ∧
    (let trig := fun (f : W64 → W64) => ((s.modTrig tp f).stepDone k r t (r.step + 1)).trigMoved;
     let a := bits t.b.toNat 2 0;
     let mine := (s.accel a).partitions.getLsbD r.partition;
     let before := r.flights.any (fun f => f.targets s.cfg.endpoint a) || s.oldDoorbells a;
     s.stepOf k 5 t.sub = some (r, t) → s.trigsOk r t = true →
     (t.sub = 0 → exec (.trigAdd k) s = .next (trig fun x => x + t.a)) ∧
     (t.sub = 1 → exec (.trigSet k) s = .next (trig fun _ => t.a)) ∧
     (t.sub = 2 → mine = false → exec (.doorbell k) s = .next (s.failStep k r Status.partitionScope)) ∧
     (t.sub = 2 → mine = true → before = true → exec (.doorbell k) s = .next s) ∧
     (t.sub = 2 → mine = true → before = false → s.p2pPort a = none →
      exec (.doorbell k) s = .next (go (s.emit (.attDoorbell a r.partition (bits t.b.toNat 31 16) t.a)) (r.step + 1))) ∧
     (∀ port ∈ s.p2pPort a, t.sub = 2 → mine = true → before = false →
      exec (.doorbell k) s = .next (go (s.hostSend port { fn := port * 256,
                                                          addr := w64 ((tblGetD (s.host port).p2p a {}).base.toNat +
                                                                         r.partition * 0x80000 + bits t.b.toNat 31 16 *
                                                                         8), bytes := leBytes 8 t.a.toNat,
                                                          relaxed := false, doorbell := some a }) (r.step + 1)))) ∧
    (let parked := fun (w : SeqWait) => s.modRun k fun x => { x with
                                                                  flights := x.flights ++
                                                                    [{ slot := r.nextSlot, index := r.step, step := t,
                                                                       trig := tp, issuedClk := s.clk }],
                                                                  nextSlot := x.nextSlot + 1, step := x.step + 1,
                                                                  progressClk := s.clk, waiting := w };
     s.stepOf k 4 t.sub = some (r, t) → s.trigsOk r t = true →
     (t.sub = 0 →
      exec (.waitTrigGe k) s = .next
        (if t.a.toNat ≤ v.toNat then go s (r.step + 1) else parked (.trigGe tp t.a false r.nextSlot))) ∧
     (t.sub = 1 →
      exec (.waitTrigTake k) s = .next (if t.a.toNat ≤ v.toNat then
                                          ((s.modTrig tp fun x => x - t.a).stepDone k r t (r.step + 1)).trigMoved else
                                          parked (.trigGe tp t.a true r.nextSlot))) ∧
     (t.sub = 2 →
      exec (.waitTime k) s = .next
        (if t.a.toNat ≤ s.mtQ (seqQuadrant k) then go s (r.step + 1) else parked (.time t.a r.nextSlot)))) ∧
    (let g := s.segOf r.context t.c;
     let off := segTarget g t.c;
     let check := s.spaceCheck r.partition off 8 false;
     let range := s.stepRange r t.c 8 false;
     let near := g.kind != 1 && s.inSram r.partition off;
     let parked := s.modRun k fun x => { x with
                                             flights := x.flights ++ [{ slot := r.nextSlot, index := r.step, step := t,
                                                                        trig := tp, issuedClk := s.clk }],
                                             nextSlot := x.nextSlot + 1, step := x.step + 1, progressClk := s.clk,
                                             waiting := .wordGe off t.a r.nextSlot };
     s.stepOf k 4 3 = some (r, t) → s.trigsOk r t = true →
     (range ≠ Status.ok → exec (.waitWordGe k) s = .next (s.failStep k r range)) ∧
     (range = Status.ok → near = false → exec (.waitWordGe k) s = .next (s.failStep k r Status.unsupportedTarget)) ∧
     (range = Status.ok → near = true → check ≠ Status.ok →
      exec (.waitWordGe k) s = .next ((s.accessFault r.partition off 8 check).failStep k r check)) ∧
     (range = Status.ok → near = true → check = Status.ok →
      exec (.waitWordGe k) s = .next
        (if t.a.toNat ≤ leNat (s.readSpace r.partition off 8) then go s (r.step + 1) else parked))) ∧
    (∀ (p slot : Nat) (w : W64) (take : Bool),
     let check := s.spaceCheck r.partition p 8 false;
     let done := fun (u : State) => (((u.modRun k fun x => { x with waiting := .none }).endFlight k slot Status.ok
                                            0).completeFlight k slot).trigMoved;
     s.kernel? k = some r →
     (r.waiting = .trigGe p w take slot → s.ownsTrig r.partition p = false →
      exec (.waitSatisfied k) s = .next (s.endFlight k slot Status.partitionScope 0)) ∧
     (r.waiting = .trigGe p w take slot → s.ownsTrig r.partition p = true →
      exec (.waitSatisfied k) s = .next
        (if w.toNat ≤ (s.trigValue p).toNat then done (if take then s.modTrig p fun x => x - w else s) else s)) ∧
     (r.waiting = .time w slot →
      exec (.waitSatisfied k) s = .next (if w.toNat ≤ s.mtQ (seqQuadrant k) then done s else s)) ∧
     (r.waiting = .wordGe p w slot → check ≠ Status.ok →
      exec (.waitSatisfied k) s = .next ((s.accessFault r.partition p 8 check).endFlight k slot check 0)) ∧
     (r.waiting = .wordGe p w slot → check = Status.ok →
      exec (.waitSatisfied k) s = .next (if w.toNat ≤ leNat (s.readSpace r.partition p 8) then done s else s)) ∧
     (r.waiting = .none → exec (.waitSatisfied k) s = .next s)) ∧
    (∀ (op sub : Nat) (d : Desc),
     s.stepOf k op sub = some (r, t) → s.trigsOk r t = false → r.flights = [] → s.desc? r.queue r.descIndex = some d →
     d.phase ≠ .completed → (op = 5 ∨ op = 7 ∨ op = 8) → sub = t.sub → t.op = op → sub ≤ 1 → ∃ u,
     (if op = 5 then (if sub = 0 then exec (.trigAdd k) s else exec (.trigSet k) s) else if op = 7 then
        (if sub = 0 then exec (.predEq k) s else exec (.predNe k) s) else if sub = 0 then exec (.mov k) s else exec
        (.setAdd k) s) = .next u ∧
     (u.desc? r.queue r.descIndex).all
       (fun e => e.phase == .completed && e.status == Status.partitionScope && e.detail == r.step && e.result == 0) =
       true ∧ (u.seq k).running = none ∧ (u.seq k).failed = min 65535 ((s.seq k).failed + 1) ∧
     (u.seq k).ended = (s.seq k).ended + 1 ∧ u.trigs = s.trigs ∧ u.mem = s.mem ∧ u.still = s.still)

/-- R372 to R379: a FETCH LOCAL between ranges of the partition copies exactly count bytes and its flight is done; a LOAD
puts the eight bytes into its scalar and a STORE writes its scalar's eight bytes and no other; FETCH REMOTE forms
READ messages and the SENDs WRITE messages, or one ADD64, each a READY sender entry of the sequencer's quadrant for
the flight; a range the context does not grant fails the kernel with its status and an address of another partition
with PARTITION_SCOPE, and nothing is copied. -/
def Obligations.KernelStepsMoveData : Prop :=
  ∀ (s : State) (k : Nat) (r : Running) (t : Step),
    let q := seqQuadrant k;
    let n := (s.quad q).nextMsg;
    let old := (s.quad q).senders;
    (let src := segTarget (s.segOf r.context t.a) t.a;
     let dst := segTarget (s.segOf r.context t.c) t.c;
     s.stepOf k 1 0 = some (r, t) → s.trigsOk r t = true → r.room = true →
     r.flights.all (fun f => f.slot < r.nextSlot) = true →
     s.tiles.all (fun z => z.2.owner != .step k r.nextSlot) = true → s.stepRange r t.a t.count false = Status.ok →
     s.stepRange r t.c t.count true = Status.ok → (s.segOf r.context t.a).kind ≠ 1 → (s.segOf r.context t.c).kind ≠ 1 →
     inAccelWindow src = false → inAccelWindow dst = false → 0 < t.count →
     s.spaceCheck r.partition src t.count false = Status.ok → s.spaceCheck r.partition dst t.count true = Status.ok →
     s.biasLines r.partition src t.count false = [] → s.biasLines r.partition dst t.count true = [] → s.mem.wf = true →
     s.flightQuiet k r.nextSlot = true → ∃ u, exec (.fetchLocal k) s = .next u ∧
     u.readSpace r.partition dst t.count = s.readSpace r.partition src t.count ∧
     (∀ a, a < spaceKey r.partition dst ∨ spaceKey r.partition dst + t.count ≤ a →
      memGet u.mem.cells a = memGet s.mem.cells a) ∧
     (u.flight? k r.nextSlot).all (fun f => f.ended == some (Status.ok, 0) && f.index == r.step) = true ∧
     u.still = s.still ∧ u.firm = s.firm ∧ u.queues = s.queues ∧ u.quads = s.quads) ∧
    (let a := segTarget (s.segOf r.context t.a) t.a;
     s.stepOf k 8 t.sub = some (r, t) → (t.sub = 2 ∨ t.sub = 3) → s.trigsOk r t = true →
     r.flights.all (fun f => f.slot < r.nextSlot) = true →
     s.tiles.all (fun z => z.2.owner != .step k r.nextSlot) = true → s.stepRange r t.a 8 (t.sub == 3) = Status.ok →
     (s.segOf r.context t.a).kind ≠ 1 → inAccelWindow a = false →
     s.spaceCheck r.partition a 8 (t.sub == 3) = Status.ok → s.biasLines r.partition a 8 (t.sub == 3) = [] →
     s.mem.wf = true → s.flightQuiet k r.nextSlot = true →
     (t.sub = 2 → ∃ u, exec (.load k) s = .next u ∧
      (u.flight? k r.nextSlot).all (fun f => f.ended == some (Status.ok, 0)) = true ∧ u.mem = s.mem ∧
      u.still = s.still ∧ u.firm = s.firm ∧
      ((u.seq k).running.map fun x => x.scalars) = some
        (r.scalars.set t.sy (w64 (leNat (s.readSpace r.partition a 8))))) ∧
     (t.sub = 3 → ∃ u, exec (.store k) s = .next u ∧
      (u.flight? k r.nextSlot).all (fun f => f.ended == some (Status.ok, 0)) = true ∧
      u.readSpace r.partition a 8 = leBytes 8 (r.sc t.sy).toNat ∧
      (∀ c, c < spaceKey r.partition a ∨ spaceKey r.partition a + 8 ≤ c → memGet u.mem.cells c = memGet s.mem.cells c) ∧
      u.still = s.still ∧ u.firm = s.firm)) ∧
    (let remote := if t.op = 1 then t.a else t.c;
     let near := if t.op = 1 then t.c else t.a;
     let op := if t.op = 1 then opReadReq else if t.sub = 2 then opAdd64 else opWrite;
     let len := if t.op = 2 ∧ t.sub = 2 then 8 else t.count;
     let l := messagesOf op len;
     let flight : Flight :=
           { slot := r.nextSlot, index := r.step, step := t, trig := r.trigOf t, issuedClk := s.clk };
     let c := if t.op = 1 then Instr.fetchRemote k else if t.sub = 0 then .sendWrite k else if t.sub = 1 then
           .sendWriteFlag k else .sendAdd64 k;
     s.stepOf k t.op t.sub = some (r, t) → ((t.op = 1 ∧ t.sub = 1) ∨ (t.op = 2 ∧ t.sub ≤ 2)) → s.trigsOk r t = true →
     r.room = true → r.flights.all (fun f => f.slot < r.nextSlot) = true →
     s.tiles.all (fun z => z.2.owner != .step k r.nextSlot) = true → gaPartition remote = r.partition →
     (t.op = 2 ∧ t.sub = 2 ∨
      (s.stepRange r near t.count (t.op == 1) = Status.ok ∧ (s.segOf r.context near).kind ≠ 1 ∧
       inAccelWindow (segTarget (s.segOf r.context near) near) = false)) → (∀ e ∈ old, e.1 < n) →
     old.length + l.length ≤ 65536 → 0 < len → ∃ u, exec c s = .next u ∧ (u.quad q).nextMsg = n + l.length ∧
     (∀ j, j < n → tblGet (u.quad q).senders j = tblGet old j) ∧
     (∀ j, j < l.length →
      (tblGet (u.quad q).senders (n + j)).all (fun x => x == { stepMessage k r flight (l.getD j (0, 0)).1
                                                                 (l.getD j (0, 0)).2 (j + 1 == l.length) with
                                                               formed := s.clk } && x.opcode == op && x.state == .ready)
        = true ∧ (tblGet (u.quad q).senders (n + j)).isSome = true) ∧
     (u.flight? k r.nextSlot).all (fun f => f.toSend == [] && f.ended == none && f.step == t) = true ∧
     u = { s with quads := u.quads, seqs := u.seqs }) ∧
    (∀ (st : Nat),
     s.stepOf k t.op t.sub = some (r, t) → s.trigsOk r t = true → r.room = true →
     (t.op = 1 → t.sub = 0 → s.stepRange r t.a t.count false = st → st ≠ Status.ok →
      exec (.fetchLocal k) s = .next (s.failStep k r st)) ∧
     (t.op = 1 → t.sub = 1 → gaPartition t.a ≠ r.partition →
      exec (.fetchRemote k) s = .next (s.failStep k r Status.partitionScope)) ∧
     (t.op = 2 → gaPartition t.c ≠ r.partition →
      (t.sub = 0 → exec (.sendWrite k) s = .next (s.failStep k r Status.partitionScope)) ∧
      (t.sub = 1 → exec (.sendWriteFlag k) s = .next (s.failStep k r Status.partitionScope)) ∧
      (t.sub = 2 → exec (.sendAdd64 k) s = .next (s.failStep k r Status.partitionScope))) ∧
     (t.op = 8 → t.sub = 2 → s.stepRange r t.a 8 false = st → st ≠ Status.ok →
      exec (.load k) s = .next (s.failStep k r st)) ∧
     (t.op = 8 → t.sub = 3 → s.stepRange r t.a 8 true = st → st ≠ Status.ok →
      exec (.store k) s = .next (s.failStep k r st))) ∧
    (let remote := if t.op = 1 then t.a else t.c;
     let c := if t.op = 1 then (if t.sub = 0 then Instr.fetchLocal k else .fetchRemote k) else if t.sub = 0 then
           .sendWrite k else .sendWriteFlag k;
     s.stepOf k t.op t.sub = some (r, t) → ((t.op = 1 ∧ t.sub ≤ 1) ∨ (t.op = 2 ∧ t.sub ≤ 1)) → s.trigsOk r t = true →
     r.room = true → r.flights.all (fun f => f.slot < r.nextSlot) = true →
     s.tiles.all (fun z => z.2.owner != .step k r.nextSlot) = true → t.count = 0 →
     ((t.op = 1 ∧ t.sub = 0) ∨ gaPartition remote = r.partition) → (t.op = 2 ∨ s.stepRange r t.c 0 true = Status.ok) →
     ((t.op = 1 ∧ t.sub = 1) ∨ s.stepRange r t.a 0 false = Status.ok) → (s.segOf r.context t.a).kind = 2 →
     (s.segOf r.context t.c).kind = 2 → inAccelWindow (segTarget (s.segOf r.context t.a) t.a) = false →
     s.flightQuiet k r.nextSlot = true → ∃ u, exec c s = .next u ∧
     (u.flight? k r.nextSlot).map (fun f => f.ended) = some (some (Status.ok, 0)) ∧ u = { s with seqs := u.seqs })

/-- R434 to R437: DL_Down only marks the link down; DL_Up within 100 ms and at exactly 100 ms sends the held writes in
order and issues the outstanding reads again, and later it resets the port first; a port reset, which a hot reset and
PERST# do at once, frees the backing, takes CXL.mem back and unbinds and resets every function of the port; an FLR
and a cleared Bus Master Enable reset the function, whose generation rises, whose mailboxes and rings go, and which
keeps its binding; a cleared VF Enable takes every VF of the port away, unbound. -/
def Obligations.HostLinksGoDownAndReturn : Prop :=
  ∀ (s : State) (port : Nat),
    let h := s.host port;
    ((h.linkUp = true ∨ h.ready = true) →
     (h.linkUp = true →
      exec (.dlDown port) s = .next
        (s.modHost port fun h => { h with linkUp := false, retraining := true, downClk := s.clk })) ∧
     (h.linkUp = false → exec (.dlDown port) s = .next s) ∧
     (h.linkUp = true ∨ h.ready = false → exec (.dlUp port) s = .next s) ∧
     (h.linkUp = false → h.ready = true → h.retraining = false →
      exec (.dlUp port) s = .next ((s.modHost port fun h => { h with linkUp := true }).reissueReads port)) ∧
     (h.retraining = false ∨ s.clk ≤ h.downClk + 160000000 → exec (.retrainTimeout port) s = .next s) ∧
     (h.retraining = true → h.downClk + 160000000 < s.clk → exec (.retrainTimeout port) s = .next (s.resetPort port)) ∧
     (h.linkUp = false → h.ready = true → h.retraining = true → h.downClk + 160000000 < s.clk →
      exec (.dlUp port) s = .next ((s.resetPort port).modHost port fun h => { h with linkUp := true }))) ∧
    (let u := s.modHost port fun h =>
           { h with linkUp := true, retraining := false, retrains := h.retrains + 1, held := [], engineHeld := [] };
     let v := { u with out := ((h.held ++ h.engineHeld).map fun w => hostOut port w).reverse ++ s.out };
     let w := h.invalidations.foldl (fun s x => s.closeInvalidation port x.tag) v;
     let again := h.reads.map fun r => { r with issuedClk := s.clk };
     let y := v.modHost port fun h => { h with reads := again };
     let z := { y with
                    out := ((again.filter fun (r : HostRead) => r.purpose != ReadUse.discard).map fun r => Out.hostRead
                              port r).reverse ++ y.out };
     h.linkUp = false → h.ready = true → h.retraining = true → s.clk ≤ h.downClk + 160000000 →
     exec (.dlUp port) s = .next (w.reissueReads port).stir ∧ (h.invalidations = [] → w.reissueReads port = z) ∧
     (w.reissueReads port).stir.still = s.still ∧ (w.reissueReads port).stir.firm = s.firm) ∧
    (∀ (f : Nat),
     port < 2 → f / 256 = port → (s.func f).present = true → exec (.hotReset port) s = .next (s.resetPort port) ∧
     ((s.resetPort port).func f).bound = none ∧ ((s.resetPort port).func f).izlis = 0 ∧
     ((s.resetPort port).func f).msixEnable = false ∧ (∀ k, k / 4 = f → tblGet (s.resetPort port).mailboxes k = none) ∧
     (∀ r ∈ (s.resetPort port).rings, r.2.fn ≠ f) ∧ (s.resetPort port).still = s.still ∧ ∃ t,
     exec (.perst port) s = .next t ∧ (t.host port).ready = false ∧
     t.power = (if port = 0 then { s.power with perst0 := false } else { s.power with perst1 := false }) ∧
     t.funcs = (s.resetPort port).funcs) ∧
    (∀ (f : Nat),
     let x := s.func f;
     x.present = true → isPf f = false → ∃ t, exec (.flr f) s = .next t ∧
     t.func f = { present := true, generation := x.generation + 1, bound := x.bound, ideStream := x.ideStream,
                  tdisp := if x.tdisp = 0 then 0 else 3 } ∧ (∀ k, k / 4 = f → tblGet t.mailboxes k = none) ∧
     (∀ k, k / 4 ≠ f → tblGet t.mailboxes k = tblGet s.mailboxes k) ∧ (∀ r ∈ t.rings, r.2.fn ≠ f) ∧
     (∀ c ∈ s.contextsWhere (fun c => c.requester == f), (t.ctx c).state ≠ .live ∧ (t.ctx c).state ≠ .aborted) ∧
     t.still = s.still ∧ t.mem = s.mem) ∧
    (let x := s.func (port * 256);
     let fresh : Func := { present := true, generation := x.generation + 1, bound := x.bound,
                               ideStream := x.ideStream, tdisp := if x.tdisp = 0 then 0 else 3 };
     x.present = true →
     (∃ t, exec (.busMasterEnableClear port) s = .next t ∧ t.func (port * 256) = fresh ∧
      (∀ k, k / 4 = port * 256 → tblGet t.mailboxes k = none) ∧ (∀ r ∈ t.rings, r.2.fn ≠ port * 256) ∧
      t.still = s.still ∧ t.mem = s.mem) ∧ ∃ t, exec (.flr (port * 256)) s = .next t ∧
     (t.func (port * 256)).bound = x.bound ∧ (t.func (port * 256)).busMaster = false ∧
     (∀ f ∈ s.vfsOf port, (t.func f).msixEnable = false ∧ (t.func f).izlis = 0 ∧ ∀ r ∈ t.rings, r.2.fn ≠ f) ∧
     t.still = s.still ∧ t.mem = s.mem) ∧
    (∀ (f : Nat),
     f ∈ s.vfsOf port → ∃ t, exec (.vfEnableClear port) s = .next t ∧ (t.func f).present = false ∧
     (t.func f).bound = none ∧ (t.func f).izlis = 0 ∧ (∀ r ∈ t.rings, r.2.fn ≠ f) ∧ t.still = s.still ∧ t.mem = s.mem) ∧
    (∀ (f : Nat),
     (s.func f).present = false → exec (.flr f) s = .next s ∧
     (f = port * 256 → exec (.busMasterEnableClear port) s = .next s))

/-- R413, R414, R432: a completion of no outstanding read does nothing; one with data gives its tile the bytes, padded to
the length, and one with UR, CA or poison fails the tile's owner with TRANSLATION_FAULT or HOST_ACCESS_ERROR; a read
outstanding for the port's timeout ends as a failed one, unless the port retrains; enabling a peer window reads 8
bytes at its base, and UR, CA or a timeout of that probe sets failed. -/
def Obligations.HostReadsEnd : Prop :=
  ∀ (s : State) (port tag : Nat),
    let w := fun (u : State) => u.modHost port fun h => { h with reads := h.reads.filter fun x => x.tag != tag };
    ((s.host port).reads.any (fun r => r.tag == tag) = false →
     exec (.hostReadCompletion port tag (.data [])) s = .next s ∧ exec (.completionTimeout port tag) s = .next s) ∧
    (∀ (r : HostRead) (id off len : Nat) (x : Tile) (b : List Byte),
     (s.host port).reads.find? (fun r => r.tag == tag) = some r → r.purpose = .tile id off len →
     tblGet s.tiles id = some x →
     exec (.hostReadCompletion port tag (.data b)) s = .next
       ((((w s).tileData id off (padTo len b)).stirOwner x.owner).retryReads port) ∧
     exec (.hostReadCompletion port tag .poisoned) s = .next
       ((((w s).failOwner x.owner Status.hostAccessError).stirOwner x.owner).retryReads port) ∧
     exec (.hostReadCompletion port tag .completerAbort) s = .next ((((w s).failOwner x.owner
                                                                        (if (s.func r.fn).atsEnable then
                                                                           Status.hostAccessError else
                                                                           Status.translationFault)).stirOwner x.owner).retryReads
                                                                      port) ∧
     exec (.hostReadCompletion port tag .unsupportedRequest) s = exec (.hostReadCompletion port tag .completerAbort) s ∧
     (padTo len b).length = len) ∧
    (∀ (r : HostRead),
     (s.host port).reads.find? (fun r => r.tag == tag) = some r →
     ((s.host port).retraining = true ∨ s.clk < r.issuedClk + 1600 * (s.host port).timeoutUs →
      exec (.completionTimeout port tag) s = .next s) ∧
     ((s.host port).retraining = false → r.issuedClk + 1600 * (s.host port).timeoutUs ≤ s.clk →
      (∀ a, r.purpose ≠ .probe a) →
      exec (.completionTimeout port tag) s = exec (.hostReadCompletion port tag .poisoned) s) ∧
     ((s.host port).retraining = false → r.issuedClk + 1600 * (s.host port).timeoutUs ≤ s.clk → ∀ a,
      r.purpose = .probe a →
      exec (.completionTimeout port tag) s = exec (.hostReadCompletion port tag .completerAbort) s)) ∧
    (∀ (a : Nat) (r : HostRead),
     let fail := fun (u : State) => u.modHost port fun h =>
           { h with p2p := tblSet h.p2p a { tblGetD h.p2p a {} with failed := true } };
     (s.host port).reads.find? (fun r => r.tag == tag) = some r → r.purpose = .probe a →
     exec (.hostReadCompletion port tag .unsupportedRequest) s = .next ((fail (w s)).retryReads port) ∧
     exec (.hostReadCompletion port tag .completerAbort) s = .next ((fail (w s)).retryReads port) ∧
     exec (.hostReadCompletion port tag (.data [])) s = .next ((w s).retryReads port) ∧
     exec (.p2pProbeResult port a true) s = .next (s.dropReads port (.probe a)) ∧
     exec (.p2pProbeResult port a false) s = .next (fail (s.dropReads port (.probe a)))) ∧
    (∀ (fn a : Nat) (v : W64),
     let q := fnPort fn;
     let h := s.host q;
     let base := w64 (v.toNat / 0x800000 * 0x800000);
     let set := fun (on due : Bool) => s.modHost q fun h => { h with
                                                                  p2p := tblSet h.p2p a
                                                                    { base := base, enable := on, due := due },
                                                                  reads := h.reads.map fun (r : HostRead) => if
                                                                    r.purpose == .probe a then
                                                                    { r with purpose := .discard } else r };
     let probe := (set true false).hostRead q { fn := q * 256, addr := base, length := 8, purpose := .probe a };
     s.mmioOk fn = true → isPf fn = true → a < 8 →
     (v.getLsbD 0 = false → exec (.p2pEnable fn a v) s = .next (set false false)) ∧
     (v.getLsbD 0 = true → ∃ t, exec (.p2pEnable fn a v) s = .next t ∧
      tblGet (t.host q).p2p a = some { base := base, enable := true, due := !probe.2 } ∧
      (t.host q).reads = (probe.1.host q).reads ∧ t.out = probe.1.out ∧ t = { s with hosts := t.hosts, out := t.out }) ∧
     (v.getLsbD 0 = true → h.reads = [] → h.linkUp = true → ∃ t, exec (.p2pEnable fn a v) s = .next t ∧
      (t.host q).reads = [{ fn := q * 256, addr := base, length := 8, purpose := .probe a, issuedClk := s.clk,
                            trusted := s.inRun (q * 256) }] ∧
      t.out = .hostRead q { fn := q * 256, addr := base, length := 8, purpose := .probe a, issuedClk := s.clk,
                            trusted := s.inRun (q * 256) } :: s.out))

/-- R423 to R429: a commit or a length write backs the window where nothing backs it, an uncommit or a zero length frees
it with its contents; a BAR4 read answers the backing's bytes and all ones above the length, a write changes exactly
the bytes within it; under CXL.mem the BAR4 does not answer; a CXL.mem request of a page in host bias is served, one
of a page in device bias waits for its flip, which Survey counts; a bias change starts when its range lies in the
window, and when it is done the pages have the bias it names; a granted line enters the device cache and lets what
waited for it go on. -/
def Obligations.MemoryWindowServed : Prop :=
  ∀ (s : State) (port : Nat),
    let h := s.host port;
    (∀ (n pick fn : Nat) (v : W64) (u : State),
     port < 2 → 1 ≤ n → n ≤ 1024 → s.backing? port = none → s.allocBacking port n pick = some u →
     (u.host port).hdmLength = n ∧ (u.host port).deviceBias = [] ∧ (u.backing? port).isSome = true ∧ u.still = s.still ∧
     u.queues = s.queues ∧
     exec (.hdmDecoderCommit port n pick) s = .next (u.modHost port fun h => { h with decoder := true }) ∧
     (isPf fn = true → s.mmioOk fn = true → fnPort fn = port → bits v.toNat 10 0 = n → h.cxlMem = false →
      h.hdmLength = 0 → exec (.fnHdmLength fn v pick) s = .next u)) ∧
    (∀ (n pick : Nat),
     (port < 2 → s.allocBacking port n pick = none ∨ (s.backing? port).isSome = true ∨ n = 0 ∨ 1024 < n) →
     exec (.hdmDecoderCommit port n pick) s = .next s) ∧
    (∀ (fn pick i : Nat) (v : W64) (x : Placement),
     fn = port * 256 → s.mmioOk fn = true → s.backing? port = some (i, x) → s.place i = x →
     (h.decoder = true → exec (.hdmDecoderUncommit port) s = .next (s.freeBacking port)) ∧
     (h.decoder = false → exec (.hdmDecoderUncommit port) s = .next s) ∧
     (h.cxlMem = false → h.hdmLength ≠ 0 → bits v.toNat 10 0 = 0 →
      exec (.fnHdmLength fn v pick) s = .next (s.freeBacking port)) ∧
     (h.cxlMem = true ∨ 1024 < bits v.toNat 10 0 → exec (.fnHdmLength fn v pick) s = .next s) ∧
     (h.cxlMem = false → h.hdmLength = 0 → 1 ≤ bits v.toNat 10 0 → bits v.toNat 10 0 ≤ 1024 →
      exec (.fnHdmLength fn v pick) s = .next
        (((s.freeBacking port).allocBacking port (bits v.toNat 10 0) pick).getD s)) ∧
     (s.freeBacking port).host port = { h with
                                        hdmHandle := 0, hdmLength := 0, decoder := false, deviceBias := [], cache := [],
                                        biasWaits := [], biasJob := none } ∧
     ((s.freeBacking port).place i).live = false ∧
     (∀ c ∈ (s.freeBacking port).mem.cells, c.1 < spaceKey x.partition x.offset ∨
      spaceKey x.partition x.offset + x.size ≤ c.1)) ∧
    (∀ (i o n : Nat) (x : Placement) (b : List Byte),
     let size := h.hdmLength * 0x10000000;
     s.mmioOk (port * 256) = true → h.cxlMem = false → s.backing? port = some (i, x) →
     s.spaceCheck x.partition (x.offset + o) n false = Status.ok →
     s.spaceCheck x.partition (x.offset + o) b.length true = Status.ok → b.length = n → s.mem.wf = true → 0 < n →
     (o + n ≤ size →
      exec (.bar4Access port o none n) s = .next ((s.useChannels x.partition (x.offset + o) n).emit
                                                    (.barData port true (s.readSpace x.partition (x.offset + o) n))) ∧
      (s.useChannels x.partition (x.offset + o) n).mem.cells = s.mem.cells) ∧
     (o + n ≤ size → ∃ t, exec (.bar4Access port o (some b) n) s = .next t ∧
      (s.mem.upsets = [] → t.readSpace x.partition (x.offset + o) n = b ∧ ∀ a, a < spaceKey x.partition (x.offset + o) ∨
       spaceKey x.partition (x.offset + o) + n ≤ a → memGet t.mem.cells a = memGet s.mem.cells a) ∧
      t = { s with mem := t.mem, placements := t.placements }) ∧
     (size ≤ o → exec (.bar4Access port o none n) s = .next (s.emit (.barData port true (List.replicate n 0xFF))) ∧
      exec (.bar4Access port o (some b) n) s = .next s)) ∧
    (∀ (i o n : Nat) (x : Placement) (b : List Byte),
     let size := h.hdmLength * 0x10000000;
     let part := size - o;
     s.mmioOk (port * 256) = true → h.cxlMem = false → s.backing? port = some (i, x) → o < size → size < o + n →
     s.spaceCheck x.partition (x.offset + o) part false = Status.ok →
     s.spaceCheck x.partition (x.offset + o) part true = Status.ok → b.length = n → s.mem.wf = true →
     exec (.bar4Access port o none n) s = .next ((s.useChannels x.partition (x.offset + o) part).emit
                                                   (.barData port true
                                                      (s.readSpace x.partition (x.offset + o) part ++ List.replicate
                                                         (n - part) 0xFF))) ∧ ∃ t,
     exec (.bar4Access port o (some b) n) s = .next t ∧
     (s.mem.upsets = [] → t.readSpace x.partition (x.offset + o) part = b.take part ∧ ∀ a,
      a < spaceKey x.partition (x.offset + o) ∨ spaceKey x.partition (x.offset + o) + part ≤ a →
      memGet t.mem.cells a = memGet s.mem.cells a) ∧ t = { s with mem := t.mem, placements := t.placements }) ∧
    (∀ (o n : Nat) (on : Bool),
     port < 2 → exec (.cxlMemEnable port on) s = .next (s.modHost port fun h => { h with cxlMem := on }).stir ∧
     (s.mmioOk (port * 256) = true → h.cxlMem = true →
      exec (.bar4Access port o none n) s = .next (s.emit (.barData port false []))) ∧
     (s.mmioOk (port * 256) = true → h.cxlMem = false → s.backing? port = none →
      exec (.bar4Access port o none n) s = .next (s.emit (.barData port true (List.replicate n 0xFF))))) ∧
    (∀ (i line : Nat) (x : Placement) (b : List Byte),
     let a := x.offset + line * 64;
     let waits := h.biasWaits;
     s.backing? port = some (i, x) → h.cxlMem = true → h.decoder = true → line * 64 < x.size →
     s.spaceCheck x.partition a 64 false = Status.ok → s.spaceCheck x.partition a 64 true = Status.ok → b.length = 64 →
     s.mem.wf = true →
     (line / 64 ∈ h.deviceBias →
      exec (.hostCxlMemRequest port line none) s = .next
        (s.modHost port fun h => { h with biasWaits := waits ++ [{ line := line, fromHost := true }] })) ∧
     (line / 64 ∉ h.deviceBias →
      (∃ t, exec (.hostCxlMemRequest port line none) s = .next t ∧
       t.out = .cxlData port line (s.readSpace x.partition a 64) :: s.out ∧
       (t.host port).cache = h.cache.map (fun c => if c.1 = line then (line, false) else c) ∧
       t.mem.cells = s.mem.cells ∧ t = { s with hosts := t.hosts, out := t.out, mem := t.mem }) ∧ ∃ t,
      exec (.hostCxlMemRequest port line (some b)) s = .next t ∧
      (s.mem.upsets = [] → t.readSpace x.partition a 64 = b ∧ ∀ k, k < spaceKey x.partition a ∨
       spaceKey x.partition a + 64 ≤ k → memGet t.mem.cells k = memGet s.mem.cells k) ∧
      t = { s with hosts := t.hosts, mem := t.mem, placements := t.placements })) ∧
    (∀ (page : Nat),
     let wanted := h.biasWaits.any fun w => w.fromHost && w.line / 64 == page;
     (wanted = true ∨ h.biasWaits = []) → (wanted = false → exec (.biasFlip port page) s = .next s) ∧
     (wanted = true →
      exec (.biasFlip port page) s = .next ((s.toHostBias port fun g => g == page).count Count.biasFlips).stir ∧
      page ∉ ((s.toHostBias port fun g => g == page).host port).deviceBias ∧
      ((s.toHostBias port fun g => g == page).host port).biasWaits.all (fun w => !(w.fromHost && w.line / 64 == page)) =
        true)) ∧
    (∀ (fn : Nat) (v : W32),
     let p := fnPort fn;
     let k := s.host p;
     let pages := bits v.toNat 25 0;
     let u := { k with biasTarget := v.getLsbD 30, biasPages := pages };
     isPf fn = true → s.mmioOk fn = true →
     (v.getLsbD 31 = true → k.biasJob.isSome = true → exec (.biasGo fn v) s = .next s) ∧
     (v.getLsbD 31 = false → exec (.biasGo fn v) s = .next (s.modHost p fun _ => u)) ∧
     (v.getLsbD 31 = true → k.biasJob = none → k.hdmLength * 65536 < k.biasPage + pages → pages ≠ 0 →
      exec (.biasGo fn v) s = .next (s.modHost p fun _ => { u with rangeError := true })) ∧
     (v.getLsbD 31 = true → k.biasJob = none → k.biasPage + pages ≤ k.hdmLength * 65536 → pages ≠ 0 →
      exec (.biasGo fn v) s = .next
        (s.modHost p fun _ => { u with biasJob := some { host := v.getLsbD 30, first := k.biasPage, pages := pages } }))) ∧
    (∀ (j : BiasJob),
     let inside := fun (g : Nat) => decide (j.first ≤ g) && decide (g < j.first + j.pages);
     let served := s.toHostBias port inside;
     h.biasJob = some j →
     (j.host = true →
      exec (.biasChangeDone port) s = .next (served.modHost port fun h => { h with biasJob := none }).stir) ∧
     (j.host = false →
      exec (.biasChangeDone port) s = .next (served.modHost port fun h =>
                                               { h with
                                                 biasJob := none,
                                                 deviceBias := h.deviceBias ++ List.range' j.first j.pages,
                                                 cache := h.cache.filter (fun c => !inside (c.1 / 64)),
                                                 biasWaits := h.biasWaits.filter fun w => !inside (w.line / 64) }).stir)
       ∧ (served.host port).deviceBias = h.deviceBias.filter (fun g => !inside g)) ∧
    (∀ (line : Nat) (owned : Bool),
     let answers := fun (w : BiasWait) => !w.fromHost && w.line == line && (owned || !w.owned);
     h.biasWaits ≠ [] → (h.biasWaits.any answers = false → exec (.cxlCacheLineGrant port line owned) s = .next s) ∧
     (h.biasWaits.any answers = true →
      exec (.cxlCacheLineGrant port line owned) s = .next (s.modHost port fun h =>
                                                             { h with
                                                               biasWaits := h.biasWaits.filter (fun w => !answers w),
                                                               cache :=
                                                                 ((line, owned) :: h.cache.filter fun c => c.1 != line).take
                                                                 16384 }).stir))

/-- R421: LOCK_INTERFACE_REQUEST locks a bound VF that a stream covers, START_INTERFACE_REQUEST runs a locked one and
STOP_INTERFACE_REQUEST unlocks any; each changes the measurement of its partition and nothing else; out of order they
do nothing; a failed stream no longer covers the VF, and a locked or running one is reset into ERROR. -/
def Obligations.InterfacesLockAndStop : Prop :=
  ∀ (s : State) (fn : Nat),
    let x := s.func fn;
    let moved := fun (k : Nat) => (s.modFunc fn fun f => { f with tdisp := k }).count Count.measurementChange;
    (s.isTdi fn = true →
     (x.tdisp = 0 → x.bound.isSome = true → x.ideStream = true → exec (.lockInterfaceRequest fn) s = .next (moved 1)) ∧
     (x.tdisp ≠ 0 ∨ x.bound = none ∨ x.ideStream = false → exec (.lockInterfaceRequest fn) s = .next s) ∧
     exec (.startInterfaceRequest fn) s = .next (if x.tdisp = 1 then moved 2 else s) ∧
     exec (.stopInterfaceRequest fn) s = .next (if x.tdisp = 0 then s else moved 0)) ∧
    (s.isTdi fn = false → exec (.lockInterfaceRequest fn) s = .next s ∧ exec (.startInterfaceRequest fn) s = .next s ∧
     exec (.stopInterfaceRequest fn) s = .next s) ∧
    (let u := s.modFunc fn fun f => { f with ideStream := false };
     x.present = true → x.ideStream = true → (x.tdisp ≠ 1 → x.tdisp ≠ 2 → exec (.ideStreamFailure fn) s = .next u) ∧
     (x.tdisp = 1 ∨ x.tdisp = 2 → ∃ t, exec (.ideStreamFailure fn) s = .next t ∧
      t.func fn = { present := true, generation := x.generation + 1, bound := x.bound, tdisp := 3 } ∧
      t.mmioOk fn = false ∧ t.still = s.still ∧ t.mem = s.mem))

/-- R457 to R465, R468: QP_CREATE enters a queue pair with the attributes asked for at a free index and binds the send
queue named; QP_DESTROY takes it away and unbinds the queue, and of a live queue pair flushes the queue with
QP_FLUSHED; NVME_ATTACH forms the connect commands of the admin queue and each I/O queue and, where the target
connects, enters a controller and binds the queue; NVME_DETACH takes it away, and of a live controller ends the
queue's descriptors with NVME_PATH_LOST. The landed frames of what goes are dropped. No other queue pair and no other
controller changes. -/
def Obligations.BindingsMadeAndEnded : Prop :=
  ∀ (fn m : Nat) (s : State),
    let k := mbxKey fn m;
    let x := s.mbx k;
    let p := s.boundTo fn;
    (∀ (pick i : Nat) (cores : Cores),
     let w0 := x.arg 0;
     let w1 := x.arg 1;
     let y := s.newQp fn p (bits w0 20 16) w1 (x.arg 2) (x.arg 3) (x.arg 4);
     s.Takes fn m { opcode := 0x0901, words := some 5 } → s.qpArgs p (bits w0 20 16) w1 (x.arg 3) (x.arg 4) = none →
     s.queueBindable (bits w1 12 0) = true →
     choose (bit w0 14) (bits w0 13 0) (fun i => (tblGet s.qps i).isNone) (s.underQuota p 8 (s.inUse p 8) 1) 0 16384
       pick = .index i → cores ≠ .split → ∃ t, exec (.qpCreate fn m pick cores) s = .next t ∧
     s.Answers t fn m Status.ok 0 [w64 i] ∧ s.OnlyServes t cores ∧ tblGet t.qps i = some y ∧ y.partition = p ∧
     y.fn = fn ∧ y.port = bits w0 20 16 ∧ y.queue = bits w1 12 0 ∧ y.tc = bits w1 15 13 ∧ y.error = false ∧
     y.requests = [] ∧ y.remoteQp = bits (x.arg 2) 23 0 ∧ y.sendPsn = bits (x.arg 2) 47 24 ∧
     y.expectPsn = bits w1 63 40 ∧ y.retriesLeft = bits w1 25 23 ∧ (∀ j, j ≠ i → tblGet t.qps j = tblGet s.qps j) ∧
     t.queue? (bits w1 12 0) = (s.queue? (bits w1 12 0)).map (fun q => { q with bound := .queuePair i }) ∧
     (∀ j, j ≠ bits w1 12 0 → t.queue? j = s.queue? j) ∧
     t = { s with
           mailboxes := t.mailboxes, funcs := t.funcs, hosts := t.hosts, out := t.out, fw := s.servedFw cores,
           qps := t.qps, queues := t.queues }) ∧
    (∀ (i : Nat) (y : QueuePair) (cores : Cores),
     s.Takes fn m { opcode := 0x0902 } → i = bits (x.arg 0) 13 0 → tblGet s.qps i = some y → y.partition = p →
     cores ≠ .split → ∃ t, exec (.qpDestroy fn m cores) s = .next t ∧ s.Answers t fn m Status.ok 0 [] ∧
     tblGet t.qps i = none ∧ (∀ j, j ≠ i → tblGet t.qps j = tblGet s.qps j) ∧
     (t.queue? y.queue).all (fun q => q.bound == .none) = true ∧ (∀ j, j ≠ y.queue → t.queue? j = s.queue? j) ∧
     (t.queue? y.queue).isSome = (s.queue? y.queue).isSome ∧
     (y.error = false → (t.queue? y.queue).all (fun q => q.errorStatus == Status.qpFlushed) = true ∧ ∀ n,
      (t.desc? y.queue n).all (fun d => d.phase == .completed) = true) ∧
     (y.error = true → t.queue? y.queue = (s.queue? y.queue).map (fun q => { q with bound := .none })) ∧
     t = { s with
           mailboxes := t.mailboxes, funcs := t.funcs, hosts := t.hosts, out := t.out, fw := s.servedFw cores,
           qps := t.qps, queues := t.queues, quads := t.quads, tiles := t.tiles, accels := t.accels, ports := t.ports }
       ∧
     (∀ j < 32,
      (t.port j).eth.landed = (s.port j).eth.landed.filter
        (fun f => j != y.port || (f.1.kind != .roce i false && f.1.kind != .roce i true)))) ∧
    (∀ (pick i mdts : Nat) (cores : Cores),
     let q := bits (x.arg 1) 12 0;
     let y := { s.newController p x with maxData := maxData mdts };
     let tgt := some mdts;
     s.Takes fn m { opcode := 0x0903, since := 3, words := some 9 } →
     s.nvmeArgs p (bits (x.arg 0) 12 8) (x.arg 1) (x.arg 2) (x.arg 3) (x.arg 4) = none → s.queueBindable q = true →
     pickFree (fun i => (tblGet s.controllers i).isNone) 0 256 pick = some i → cores ≠ .split → ∃ t,
     exec (.nvmeAttach fn m pick tgt cores) s = .next t ∧ s.Answers t fn m Status.ok 0 [w64 i] ∧ s.OnlyServes t cores ∧
     tblGet t.controllers i = some y ∧ y.partition = p ∧ y.queue = q ∧ y.tc = bits (x.arg 1) 15 13 ∧ y.failed = false ∧
     y.commands = [] ∧ y.ioQueues = bits (x.arg 2) 4 0 ∧ y.depth = bits (x.arg 2) 15 8 ∧
     y.keyId = bits (x.arg 2) 63 48 ∧ (∀ j, j ≠ i → tblGet t.controllers j = tblGet s.controllers j) ∧
     t.queue? q = (s.queue? q).map (fun z => { z with bound := .controller i }) ∧
     (∀ j, j ≠ q → t.queue? j = s.queue? j) ∧ t.ports = (s.connectFrames i (s.newController p x)).ports ∧
     (t.port y.port).eth.egress.length = (s.port y.port).eth.egress.length + y.ioQueues + 1 ∧
     t = { s with
           mailboxes := t.mailboxes, funcs := t.funcs, hosts := t.hosts, out := t.out, fw := s.servedFw cores,
           controllers := t.controllers, queues := t.queues, ports := t.ports }) ∧
    (∀ (i : Nat) (y : Controller) (cores : Cores),
     s.Takes fn m { opcode := 0x0904, since := 3 } → i = bits (x.arg 0) 15 0 → tblGet s.controllers i = some y →
     y.partition = p → cores ≠ .split → ∃ t, exec (.nvmeDetach fn m cores) s = .next t ∧
     s.Answers t fn m Status.ok 0 [] ∧ tblGet t.controllers i = none ∧
     (∀ j, j ≠ i → tblGet t.controllers j = tblGet s.controllers j) ∧
     (t.queue? y.queue).all (fun q => q.bound == .none) = true ∧ (∀ j, j ≠ y.queue → t.queue? j = s.queue? j) ∧
     (t.queue? y.queue).isSome = (s.queue? y.queue).isSome ∧
     (y.failed = false → (t.queue? y.queue).all (fun q => q.errorStatus == Status.nvmePathLost) = true ∧ ∀ n,
      (t.desc? y.queue n).all (fun d => d.phase == .completed) = true) ∧
     (y.failed = true → t.queue? y.queue = (s.queue? y.queue).map (fun q => { q with bound := .none })) ∧
     t = { s with
           mailboxes := t.mailboxes, funcs := t.funcs, hosts := t.hosts, out := t.out, fw := s.servedFw cores,
           controllers := t.controllers, queues := t.queues, quads := t.quads, tiles := t.tiles, accels := t.accels,
           ports := t.ports } ∧
     (∀ j < 32,
      (t.port j).eth.landed = (s.port j).eth.landed.filter
        (fun f => j != y.port || (f.1.kind != .nvme i false && f.1.kind != .nvme i true))))

/-- R458 to R468: a landed inbound WRITE, FETCH ADD or CMP SWAP in its turn that passes the checks changes exactly its
bytes and is answered, a READ answers its bytes in packets of the path MTU, one that fails the checks draws a remote
access error, one ahead of its turn a sequence error, one longer than a path MTU or of an absent feature an invalid
request, a repeated one its answer again; a landed answer ends its requests or counts their packets; a NAK or an
acknowledgement timeout resends while retries last and else ends the queue pair, its queue in ERROR with every
descriptor completed; a CNP lowers the rate; an NVMe completion ends its command; a Keep Alive goes out every 5 s; a
lost association ends the controller. Each takes up the frame that carried it and releases its landing space. -/
def Obligations.BoundQueuesServed : Prop :=
  ∀ (s : State),
    (∀ (port qp psn : Nat) (q : QueuePair) (va : W64) (key : W32) (b : List Byte) (v : State),
     let p := q.partition;
     tblGet s.qps qp = some q → s.takeFrame port (.roce qp false) = some v → q.error = false → q.port = port →
     psn = q.expectPsn → b.length ≤ q.bytes → va.toNat < 2 ^ 44 →
     v.commitCheck (v.rdmaPacket q psn (.write va key b)) = Status.ok → (v.region (keyIndex key)).kind = 1 →
     v.biasLines p va.toNat b.length true = [] → v.stalled p va.toNat b.length = false →
     (v.toPages (port / 8) 0 p va.toNat b.length).isSome = true → s.mem.wf = true → ∃ t,
     exec (.roceRequest port qp psn (.write va key b)) s = .next t ∧
     tblGet t.qps qp = some { q with expectPsn := (psn + 1) % 2 ^ 24 } ∧
     (∀ j, j ≠ qp → tblGet t.qps j = tblGet s.qps j) ∧
     (t.port port).eth.egress = (s.port port).eth.egress ++ [{ q.frame qp true 17 psn 4 [] with since := s.clk }] ∧
     (t.port port).eth.landed = (v.port port).eth.landed ∧ t.quads = v.quads ∧
     (s.mem.upsets = [] → t.readSpace p va.toNat b.length = b ∧ ∀ a, a < spaceKey p va.toNat ∨
      spaceKey p va.toNat + b.length ≤ a → memGet t.mem.cells a = memGet s.mem.cells a) ∧
     t = { s with
           qps := t.qps, ports := t.ports, quads := t.quads, mem := t.mem, placements := t.placements,
           recover := t.recover }) ∧
    (∀ (port qp psn : Nat) (q : QueuePair) (va add compare swap : W64) (key : W32) (v : State),
     let p := q.partition;
     let old := leNat (s.readSpace p va.toNat 8);
     tblGet s.qps qp = some q → s.takeFrame port (.roce qp false) = some v → q.error = false → q.port = port →
     psn = q.expectPsn → va.toNat < 2 ^ 44 → va.toNat % 8 = 0 →
     v.commitCheck (v.rdmaPacket q psn (.fetchAdd va key add)) = Status.ok → v.biasLines p va.toNat 8 true = [] →
     s.mem.wf = true →
     (∃ t, exec (.roceRequest port qp psn (.fetchAdd va key add)) s = .next t ∧
      (t.port port).eth.egress = (s.port port).eth.egress ++
        [{ q.frame qp true 19 psn 12 [w64 old] with since := s.clk }] ∧ t.quads = v.quads ∧
      tblGet t.qps qp = some
        { q with expectPsn := (psn + 1) % 2 ^ 24, replies := ((psn, w64 old) :: q.replies).take 16 } ∧
      (s.mem.upsets = [] → t.readSpace p va.toNat 8 = leBytes 8 (old + add.toNat) ∧ ∀ a, a < spaceKey p va.toNat ∨
       spaceKey p va.toNat + 8 ≤ a → memGet t.mem.cells a = memGet s.mem.cells a) ∧
      t = { s with qps := t.qps, ports := t.ports, quads := t.quads, mem := t.mem, placements := t.placements }) ∧ ∃ t,
     exec (.roceRequest port qp psn (.cmpSwap va key compare swap)) s = .next t ∧
     (t.port port).eth.egress = (s.port port).eth.egress ++
       [{ q.frame qp true 19 psn 12 [w64 old] with since := s.clk }] ∧ t.quads = v.quads ∧
     tblGet t.qps qp = some { q with expectPsn := (psn + 1) % 2 ^ 24, replies := ((psn, w64 old) :: q.replies).take 16 }
       ∧
     (s.mem.upsets = [] → t.readSpace p va.toNat 8 = leBytes 8 (if old = compare.toNat then swap.toNat else old) ∧ ∀ a,
      a < spaceKey p va.toNat ∨ spaceKey p va.toNat + 8 ≤ a → memGet t.mem.cells a = memGet s.mem.cells a) ∧
     t = { s with qps := t.qps, ports := t.ports, quads := t.quads, mem := t.mem, placements := t.placements }) ∧
    (∀ (port qp psn : Nat) (q : QueuePair) (va : W64) (key : W32) (n : Nat) (v : State),
     let p := q.partition;
     let b := s.readSpace p va.toNat n;
     let part := fun i => slice b (i * q.bytes) (min q.bytes (n - i * q.bytes));
     tblGet s.qps qp = some q → s.takeFrame port (.roce qp false) = some v → q.error = false → q.port = port →
     psn = q.expectPsn → psn < 2 ^ 24 → va.toNat < 2 ^ 44 → v.readsServed port qp < 16 →
     v.commitCheck (v.rdmaPacket q psn (.read va key n)) = Status.ok → (v.region (keyIndex key)).kind = 1 →
     v.biasLines p va.toNat n false = [] → v.rekeyStalled p va.toNat n = false → 0 < n → n ≤ 4096 →
     (∀ c ∈ (v.quad (port / 8)).copies, c.id < (v.quad (port / 8)).nextCopy) → ∃ t,
     exec (.roceRequest port qp psn (.read va key n)) s = .next t ∧
     (t.port port).eth.egress = (s.port port).eth.egress ++ (List.range ((n + q.bytes - 1) / q.bytes)).map
       (fun i => { q.frame qp true 18 ((psn + i) % 2 ^ 24) (4 + ((part i).length + 3) / 4 * 4)
                     (w64 (part i).length :: bytesWords (((part i).length + 7) / 8) (part i)) with
                   since := s.clk }) ∧
     tblGet t.qps qp = some { q with expectPsn := (psn + max 1 ((n + q.bytes - 1) / q.bytes)) % 2 ^ 24 } ∧
     (t.quad (port / 8)).copies = (s.quad (port / 8)).copies ∧ (t.quad (port / 8)).pool 0 = (v.quad (port / 8)).pool 0 ∧
     t.mem.cells = s.mem.cells ∧ t = { s with qps := t.qps, ports := t.ports, quads := t.quads, mem := t.mem }) ∧
    (∀ (port qp psn : Nat) (q : QueuePair) (va : W64) (key : W32) (b : List Byte) (v : State),
     let ahead := (psn + 2 ^ 24 - q.expectPsn) % 2 ^ 24;
     let op := RdmaOp.write va key b;
     let fits := decide (b.length ≤ q.bytes);
     tblGet s.qps qp = some q → s.takeFrame port (.roce qp false) = some v → q.error = false → q.port = port →
     (fits = true → ahead = 0 → v.commitCheck (v.rdmaPacket q psn op) ≠ Status.ok →
      exec (.roceRequest port qp psn op) s = .next (v.queueFrame (q.frame qp true 20 psn 4 [0x62]))) ∧
     (fits = true → 0 < ahead → ahead < 2 ^ 23 →
      exec (.roceRequest port qp psn op) s = .next (v.queueFrame (q.frame qp true 20 q.expectPsn 4 [0x60]))) ∧
     (fits = true → 2 ^ 23 ≤ ahead →
      exec (.roceRequest port qp psn op) s = .next (v.queueFrame (q.frame qp true 17 psn 4 []))) ∧
     (fits = false → exec (.roceRequest port qp psn op) s = .next (v.queueFrame (q.frame qp true 20 psn 4 [0x61]))) ∧
     exec (.roceRequest port qp psn .absent) s = .next (v.queueFrame (q.frame qp true 20 psn 4 [0x61]))) ∧
    (∀ (qp psn : Nat) (data : List Byte) (old : W64) (q : QueuePair) (r : QpRequest) (v : State),
     let y := { q with held := [(psn, data, old)] };
     let before := q.requests.takeWhile fun r => !q.covers r psn;
     let w := before.foldl (fun s b => s.rdmaDone qp y b) (v.modQp qp fun _ => y);
     let last := isAtomic r.opcode || r.behind psn + 1 == q.span 1 r.length;
     let u := if isAtomic r.opcode then (w.modDesc q.queue r.index fun d => { d with result := old }).rdmaDone qp y
           r else if last then w.rdmaDone qp y r else w.rdmaProgress qp r (r.behind psn + 1);
     tblGet s.qps qp = some q → s.takeFrame q.port (.roce qp true) = some v → q.error = false → q.held = [] →
     q.requests.find? (fun r => q.covers r psn) = some r → before.any (fun b => b.opcode != 1) = false →
     (r.opcode = 1 ∨ isAtomic r.opcode = true) →
     exec (.queuePairReply qp psn data old) s = .next ((u.modQp qp fun y => { y with held := [] }).pumpBound q.queue) ∧
     (tblGet u.qps qp).all (fun y => (y.requests.all (fun z => z.psn != r.psn) || !last) && y.retriesLeft == q.retries
                              && y.rnrLeft == q.rnrRetries) = true ∧
     (last = false →
      (tblGet u.qps qp).all (fun y => y.requests.any fun z => z.psn == r.psn && r.behind psn + 1 ≤ z.acked) = true) ∧
     (isAtomic r.opcode = true → (u.desc? q.queue r.index).all (fun d => d.result == old) = true)) ∧
    (∀ (qp psn : Nat) (data : List Byte) (old : W64) (q : QueuePair) (r : QpRequest) (x : Queue) (d : Desc) (v : State),
     let k := r.behind psn;
     let y := { q with held := [(psn, data, old)] };
     let w := v.modQp qp fun _ => y;
     let a := segTarget d.seg d.localAddr + (r.offset + k * q.bytes);
     let z := w.writeSpace x.partition a data;
     let u := if k + 1 = q.span 2 r.length then z.rdmaDone qp y r else z.rdmaProgress qp r (k + 1);
     tblGet s.qps qp = some q → s.takeFrame q.port (.roce qp true) = some v → q.error = false → q.held = [] →
     q.requests.head? = some r → q.covers r psn = true → r.opcode = 2 → k = r.acked → s.queue? q.queue = some x →
     s.desc? q.queue r.index = some d → data.length = q.part r.length k → d.seg.kind ≠ 1 → inAccelWindow a = false →
     w.spaceCheck x.partition a data.length true = Status.ok → w.stalled x.partition a data.length = false →
     w.biasLines x.partition a data.length true = [] →
     exec (.queuePairReply qp psn data old) s = .next ((u.modQp qp fun y => { y with held := [] }).pumpBound q.queue) ∧
     (tblGet u.qps qp).all (fun y => if k + 1 = q.span 2 r.length then y.requests.all (fun z => z.psn != r.psn) else
                              y.requests.any (fun z => z.psn == r.psn && k + 1 ≤ z.acked)) = true) ∧
    (∀ (qp psn syndrome : Nat) (q y : QueuePair) (i : W32) (v : State),
     let w := v.ackBefore qp psn;
     let rnr := isRnr syndrome;
     let retried := if rnr then 0 < y.rnrLeft ∨ y.rnrRetries = 7 else syndrome = 0x60 ∧ 0 < y.retriesLeft;
     let status := if rnr ∨ syndrome = 0x60 then Status.qpRetryExceeded else Status.qpRemoteError;
     let detail := if rnr ∨ syndrome = 0x60 then 0 else syndrome;
     tblGet s.qps qp = some q → s.takeFrame q.port (.roce qp true) = some v → q.error = false → q.requests ≠ [] →
     tblGet w.qps qp = some y → y.requests.head?.map (fun r => r.index) = some i → ∃ t,
     exec (.roceNak qp psn syndrome) s = .next t ∧
     (retried →
      (tblGet t.qps qp).map (fun z => { z with cc := y.cc }) = some (if rnr then
                                                                       { y with
                                                                         rnrLeft := y.rnrLeft - 1,
                                                                         rnrUntil := some
                                                                           (s.clk + rnrClocks (bits syndrome 4 0)) }
                                                                       else
                                                                       { y with
                                                                         retriesLeft := y.retriesLeft - 1,
                                                                         rnrUntil := none }) ∧
      t = { s with
            qps := t.qps, ports := t.ports, quads := t.quads, tiles := t.tiles, queues := t.queues, parts := t.parts,
            out := t.out, hosts := t.hosts, mem := t.mem, survey := t.survey }) ∧
     (retried → rnr = true → t.qpWaiting y.port qp = false) ∧
     (¬ retried → (tblGet t.qps qp).all (fun y => y.error && y.requests == []) = true ∧
      (t.queue? y.queue).all (fun x => x.errorStatus == status) = true ∧
      (∀ n, (t.desc? y.queue n).all (fun d => d.phase == .completed) = true) ∧
      ((w.desc? y.queue i).all (fun d => d.phase != .completed) = true →
       (t.desc? y.queue i).all (fun d => d.status == status && d.detail == detail) = true) ∧
      t = { s with
            quads := t.quads, qps := t.qps, ports := t.ports, tiles := t.tiles, accels := t.accels, queues := t.queues,
            hosts := t.hosts })) ∧
    (∀ (qp : Nat) (q : QueuePair) (i : W32),
     tblGet s.qps qp = some q → q.error = false → q.rnrUntil = none → s.qpWaiting q.port qp = false →
     q.requests.head?.map (fun r => r.index) = some i → q.cc.lastUse + q.timeout ≤ s.clk → ∃ t,
     exec (.qpAckTimeout qp) s = .next t ∧
     (0 < q.retriesLeft →
      t = ((s.modQp qp fun q => { q with
                                  retriesLeft := q.retriesLeft - 1,
                                  cc := q.cc.decrease s.txs (s.mtQ (s.queueHome q.queue)) (q.cc.rate / 2) }).resendRdma
             qp) ∧
      (tblGet t.qps qp).map (fun y => { y with cc := q.cc }) = some { q with retriesLeft := q.retriesLeft - 1 } ∧
      t = { s with
            qps := t.qps, ports := t.ports, parts := t.parts, out := t.out, hosts := t.hosts, mem := t.mem,
            survey := t.survey }) ∧
     (q.retriesLeft = 0 → (tblGet t.qps qp).all (fun y => y.error && y.requests == []) = true ∧
      (t.queue? q.queue).all (fun x => x.errorStatus == Status.qpRetryExceeded) = true ∧
      ((s.desc? q.queue i).all (fun d => d.phase != .completed) = true →
       (t.desc? q.queue i).all (fun d => d.status == Status.qpRetryExceeded) = true) ∧
      t = { s with
            quads := t.quads, qps := t.qps, ports := t.ports, tiles := t.tiles, accels := t.accels, queues := t.queues,
            hosts := t.hosts })) ∧
    (∀ (qp : Nat) (q : QueuePair) (v : State),
     tblGet s.qps qp = some q → s.takeFrame q.port (.roce qp true) = some v →
     exec (.cnp qp) s = .next
       { v with qps := tblSet s.qps qp { q with cc := q.cc.react s.txs (s.mtQ (s.queueHome q.queue)) none true } } ∧
     v = { s with quads := v.quads, ports := v.ports }) ∧
    (∀ (c id status : Nat) (data : List Byte) (x : Controller) (y : NvmeCmd) (u : State),
     let v := (u.modCtl c fun x =>
                     { x with held := [(id, status, data)], commands := x.commands.filter fun k => k.id != id });
     let w := if status ≠ 0 then v.cutDesc x.queue y.index Status.nvmeStatus status else if identifyFits x.sector
           data then v.modCtl c fun x => { x with namespaces := y.nsid :: x.namespaces } else v.cutDesc x.queue y.index
           Status.unsupportedTarget 0;
     tblGet s.controllers c = some x → s.takeFrames x.port (.nvme c x.tcp) = some u → x.held = [] →
     x.commands.find? (fun k => k.id == id) = some y → (status ≠ 0 ∨ y.opcode = 6) →
     exec (.nvmeCompletion c id status data) s = .next ((w.modCtl c fun x => { x with held := [] }).pumpBound x.queue) ∧
     (tblGet w.controllers c).all (fun x => x.commands.all fun k => k.id != id) = true ∧
     (status ≠ 0 → (s.desc? x.queue y.index).all (fun d => d.phase != .completed) = true →
      (w.desc? x.queue y.index).all
        (fun d => d.phase == .completed && d.status == Status.nvmeStatus && d.detail == status) = true)) ∧
    (∀ (c id : Nat) (data : List Byte) (x : Controller) (y : NvmeCmd) (d : Desc) (u w : State),
     let z := u.modCtl c fun x => { x with held := [(id, 0, data)] };
     let v := ((w.modDesc x.queue y.index fun d => { d with bytesDone := d.bytesDone + y.length }).modCtl c fun x =>
                     { x with commands := x.commands.filter fun k => k.id != id });
     tblGet s.controllers c = some x → s.takeFrames x.port (.nvme c x.tcp) = some u → x.held = [] →
     x.commands.find? (fun k => k.id == id) = some y → s.desc? x.queue y.index = some d →
     ((y.opcode < 2 ∧ w = z) ∨
      (y.opcode = 2 ∧ data.length = y.length ∧
       (z.localWrite (.desc x.queue y.index) x.partition d.seg d.localAddr y.offset
          (sectorCipher true (s.storageKey x.partition x.keyId y.nsid) x.sector
             ((bits d.remote.toNat 47 0 + y.offset) / x.sector) data)).done? = some w)) →
     (s.queue? x.queue).map (fun q => q.partition) = some x.partition →
     exec (.nvmeCompletion c id 0 data) s = .next
       (((v.settleBound x.queue y.index).modCtl c fun x => { x with held := [] }).pumpBound x.queue) ∧
     (v.desc? x.queue y.index).all (fun z => z.bytesDone == d.bytesDone + y.length) = true ∧
     (tblGet v.controllers c).all (fun x => x.commands.all fun k => k.id != id) = true) ∧
    (∀ (c : Nat) (x : Controller),
     tblGet s.controllers c = some x → x.failed = false → x.lastKeepAlive + us 5000000 ≤ s.clk → ∃ t,
     exec (.keepAlive c) s = .next t ∧
     (t.port x.port).eth.egress = (s.port x.port).eth.egress ++ [{ x.frame c 0x18 100 [] with since := s.clk }] ∧
     tblGet t.controllers c = some { x with lastKeepAlive := s.clk } ∧
     (∀ j, j ≠ c → tblGet t.controllers j = tblGet s.controllers j) ∧
     t = { s with controllers := t.controllers, ports := t.ports }) ∧
    (∀ (c : Nat) (x : Controller),
     tblGet s.controllers c = some x → x.failed = false → ∃ t, exec (.associationLoss c) s = .next t ∧
     tblGet t.controllers c = some { x with failed := true, commands := [], held := [] } ∧
     (t.queue? x.queue).all (fun q => q.errorStatus == Status.nvmePathLost) = true ∧
     (∀ n, (t.desc? x.queue n).all (fun d => d.phase == .completed) = true) ∧
     (∀ n, (s.desc? x.queue n).all (fun d => d.phase != .completed) = true →
      (t.desc? x.queue n).all (fun d => d.status == Status.nvmePathLost) = true) ∧
     t = { s with
           controllers := t.controllers, quads := t.quads, tiles := t.tiles, accels := t.accels, queues := t.queues,
           hosts := t.hosts })

/-- R443 to R456: a frame a port wants enters the receive buffer and is counted, any other is dropped whole and counted
once under its reason; the oldest leaves it for its landing pool, is dropped where that has no room, and is filtered
where its object is gone; a PFC frame pauses an honoured priority for its quanta or ends its pause, and a pause that
has run out goes; an ARP request or neighbour solicitation for the port's own address is answered by a frame of the
port; a gate-list swap fixes its boundary when its appointment fires, and takes over there. Only the port, the
landing pool and, for a CNP, the queue pair change. -/
def Obligations.EthernetPortsServe : Prop :=
  ∀ (s : State) (port : Nat),
    let x := (s.port port).eth;
    (∀ (f : Frame),
     let reason : Nat := if rxBuffer < (x.buffer.map fun f => f.length).sum + x.maxFrame then 4 else if f.fcsOk =
           false then 2 else if f.length < 64 ∨
         x.maxFrame < f.length then 3 else if s.frameWanted port f = false then 5 else 0;
     s.isEth port = true → x.counters.length = 10 → ∃ t, exec (.frameReceive port f) s = .next t ∧
     t = { s with ports := t.ports, parts := t.parts } ∧
     t.parts = (if reason = 0 then (s.noteFrame f).parts else s.parts) ∧
     t.port port =
       { s.port port with eth := { x with buffer := (t.port port).eth.buffer, counters := (t.port port).eth.counters } }
       ∧ (t.port port).eth.buffer = (if reason = 0 then x.buffer ++ [f] else x.buffer) ∧
     ((t.port port).eth.counters.getD reason 0).toNat = min (2 ^ 64 - 1) ((x.counters.getD reason 0).toNat + 1) ∧
     (∀ j, j ≠ reason → ¬(reason = 0 ∧ j = 1) → (t.port port).eth.counters.getD j 0 = x.counters.getD j 0) ∧
     (reason = 0 →
      ((t.port port).eth.counters.getD 1 0).toNat = min (2 ^ 64 - 1) ((x.counters.getD 1 0).toNat + f.length)) ∧
     (∀ j, j ≠ port → t.port j = s.port j)) ∧
    (∀ (f : Frame),
     s.isEth port = false → exec (.frameReceive port f) s = .next s) ∧
    (∀ (f : Frame) (rest : List Frame),
     let u := s.modPort port fun y => { y with eth := { y.eth with buffer := rest } };
     let gone := !s.frameHasObject f;
     let full := decide (landSpace f ≠ 0 ∧ poolSize 0 < (s.quad (port / 8)).pool 0 + landSpace f);
     x.buffer = f :: rest → ∃ t, exec (.frameLeaveBuffer port) s = .next t ∧ (t.port port).eth.buffer = rest ∧
     (gone = true → t = u.ethCount port 5 1) ∧ (gone = false → full = true → t = u.ethCount port 4 1) ∧
     (gone = false → full = false → ownsObject f = true → (t.port port).eth.landed = x.landed ++ [(f, landSpace f)] ∧
      t.quads = (s.modQuad (port / 8) fun d => d.setPool 0 (d.pool 0 + landSpace f)).quads ∧
      (f.ce = false →
       t.ports =
         (u.modPort port fun y => { y with eth := { y.eth with landed := y.eth.landed ++ [(f, landSpace f)] } }).ports ∧
       t.qps = s.qps)) ∧ (ownsObject f = false → t = u) ∧
     t = { s with ports := t.ports, qps := t.qps, quads := t.quads }) ∧
    (∀ (f : Frame) (rest : List Frame) (qp : Nat) (response : Bool) (q : QueuePair),
     x.buffer = f :: rest → f.kind = .roce qp response → f.ce = true →
     (s.quad (port / 8)).pool 0 + poolSpace f.length ≤ poolSize 0 → tblGet s.qps qp = some q →
     (∀ c, q.lastCnp = some c → c + us 50 ≤ s.clk) → ∃ t, exec (.frameLeaveBuffer port) s = .next t ∧
     (t.port port).eth.buffer = rest ∧
     (q.port = port → (t.port port).eth.egress = x.egress ++ [{ q.frame qp true 8 0 16 [] with since := s.clk }]) ∧
     (t.port port).eth.landed = x.landed ++ [(f, landSpace f)] ∧
     tblGet t.qps qp = some { q with lastCnp := some s.clk } ∧
     t = { s with ports := t.ports, qps := t.qps, quads := t.quads }) ∧
    (∀ (pr n : Nat),
     s.isEth port = true → ∃ t, exec (.pfcFrame port [(pr, n)]) s = .next t ∧ t = { s with ports := t.ports } ∧
     (∀ j, j ≠ port → t.port j = s.port j) ∧
     (t.port port).eth.paused = (if x.pfcHonour.getLsbD pr = false then x.paused else if n = 0 then x.paused.filter
                                   (fun p => p.1 != pr) else x.paused.filter (fun p => p.1 != pr) ++
                                   [(pr, s.clk + pauseClocks x.rate n)])) ∧
    (∀ (pr : Nat),
     exec (.pfcPauseExpiry port pr) s = .next (s.modPort port fun y =>
                                                 { y with
                                                   eth := { y.eth with
                                                            paused := y.eth.paused.filter fun p =>
                                                              !(p.1 == pr && decide (p.2 ≤ s.clk)) } })) ∧
    (∀ (mac : BitVec 48),
     s.isEth port = true → x.ip4 ≠ 0 → ∃ t, exec (.arpRequest port x.ip4 mac) s = .next t ∧
     (t.port port).eth.egress = x.egress ++ [{ env := { port, dst := mac.toNat, octets := 64 },
                                               body := .own 1 [mac.toNat, portMac port, x.ip4.toNat], since := s.clk }]
       ∧ (∀ j, j ≠ port → t.port j = s.port j) ∧ t = { s with ports := t.ports }) ∧
    (∀ (mac : BitVec 48) (target : BitVec 128),
     s.isEth port = true → x.ip6hi.toNat * 2 ^ 64 + x.ip6lo.toNat = target.toNat → target ≠ 0 → ∃ t,
     exec (.neighborSolicitation port target mac) s = .next t ∧
     (t.port port).eth.egress = x.egress ++ [{ env := { port, dst := mac.toNat, octets := 90 },
                                               body := .own 2 [mac.toNat, portMac port, target.toNat], since := s.clk }]
       ∧ (∀ j, j ≠ port → t.port j = s.port j) ∧ t = { s with ports := t.ports }) ∧
    (∀ (a : Appointment),
     s.appt? (.gateSwap port) = some a → a.left = [port / 8] → port < 32 → a.period = 0 →
     s.apptFiresIn (.gateSwap port) (port / 8) = true → ∃ t, exec (.gateSwapAppointment port) s = .next t ∧
     t = { s with ports := t.ports, mer := t.mer } ∧
     t.port port = { s.port port with eth := { x with takeover := some (x.boundary a.time) } } ∧
     t.mer = (s.apptAct (.gateSwap port) (port / 8)).mer ∧ (∀ j, j ≠ port → t.port j = s.port j)) ∧
    (∀ (b : Nat) (g : GateList),
     x.takeover = some b → x.pending = some g → b ≤ s.mtPort port →
     exec (.gateListTakeover port) s = .next (s.modPort port fun y => { y with
                                                                        eth :=
                                                                          { y.eth with
                                                                            active := some g, pending := none,
                                                                            gateBase := w64 b, swapPending := false,
                                                                            takeover := none } }))

/-- R53, R57, R58, R68, R482, R484, R554, R555: with flash writes allowed, a good image put by the mailbox or by PLDM
fills the slot that the selector does not name; FW_ACTIVATE moves the selector to a slot whose image passes;
DIAG_REPORT and DUMP_LIST answer the topology and the dumps; a finished write of the sealed state leaves one of the
two copies as it was, advances counter 2 and releases the waiting answers. -/
def Obligations.FirmwareImagesAndDiagnosis : Prop :=
  ∀ (fn m : Nat) (s : State),
    let k := mbxKey fn m;
    let x := s.mbx k;
    (∀ (b : Bulk) (ok : Bool),
     let i := b.objectId.toNat;
     s.Takes fn m closeCmd → s.committing k = some b → b.kind = 2 → s.asOpened fn b = none → s.power.flashWpN = true →
     i ≠ s.fw.selector → imageFault s.firstServe.fw.floor b.data ok = none → ∃ t,
     exec (.firmwareImageWrite fn m ok) s = .next t ∧ s.Answers t fn m Status.ok 0 [] ∧ s.OnlyInterrupts t ∧
     (t.mbx k).bulk = none ∧ t.fw = s.firstServe.fw.setSlot i (slotOf b.data) ∧
     t = { s with mailboxes := t.mailboxes, funcs := t.funcs, hosts := t.hosts, out := t.out, fw := t.fw }) ∧
    (∀ (ok : Bool),
     let i := x.arg 0 % 2;
     s.Takes fn m { opcode := 0x0801, rights := .pf0, diag := true, needsKey := false } → s.power.flashWpN = true →
     (s.fw.slot i).present = true → ok = true → s.firstServe.fw.floor ≤ (s.fw.slot i).svn → ∃ t,
     exec (.fwActivate fn m ok) s = .next t ∧ s.Answers t fn m Status.ok 0 [] ∧ s.OnlyInterrupts t ∧
     t.fw = { s.firstServe.fw with selector := i } ∧
     t = { s with mailboxes := t.mailboxes, funcs := t.funcs, hosts := t.hosts, out := t.out, fw := t.fw }) ∧
    (∀ (slot : Nat) (image : List Byte) (ok : Bool),
     s.fw.alive = true → s.power.state = .on → s.power.flashWpN = true → slot < 2 → slot ≠ s.fw.selector →
     imageFault s.fw.floor image ok = none →
     exec (.pldmFirmwareUpdate slot image ok) s = .next { s with fw := s.fw.setSlot slot (slotOf image) }) ∧
    (s.Takes fn m { opcode := 0x0802, rights := .pf, words := some 0, diag := true, needsKey := false } → ∃ t,
     exec (.diagReport fn m) s = .next t ∧
     s.Answers t fn m Status.ok 0
       [w64 s.fw.topology.toNat, w64 (if s.fw.mode = .recovery then s.fw.failedStep else s.fw.firstSelfTest)] ∧
     s.OnlyServes t ∧
     t = { s with mailboxes := t.mailboxes, funcs := t.funcs, hosts := t.hosts, out := t.out, fw := s.firstServe.fw }) ∧
    (s.Takes fn m { opcode := 0x0803, rights := .any, words := some 0, diag := true, needsKey := false } → ∃ t,
     exec (.dumpList fn m) s = .next t ∧ s.OnlyServes t ∧
     s.Answers t fn m Status.ok 0 [w64 (s.dumpBits + b2n s.fw.deviceDump * 2 ^ 16)] ∧
     t = { s with mailboxes := t.mailboxes, funcs := t.funcs, hosts := t.hosts, out := t.out, fw := s.firstServe.fw }) ∧
    (∀ (st d : Nat) (ws : List W64),
     s.fw.sealing = true → s.fw.alive = true → s.mailboxes = [(k, x)] → x.wait = some (.sealedState st d ws) → ∃ t,
     exec .sealedStateWritten s = .next t ∧ (t.mbx k).busy = false ∧ (t.mbx k).done = true ∧
     (t.mbx k).resp = w64 (st + d % 65536 * 2 ^ 16 + x.seq.toNat * 2 ^ 32 + ws.length * 2 ^ 48) ∧
     t.fw = { s.fw.storeSealed s.sealedParts with
              sealing := false, counters := s.fw.counters.set 2 (s.fw.counters.getD 2 0 + 1) } ∧
     (t.fw.copy0 = s.fw.copy0 ∨ t.fw.copy1 = s.fw.copy1) ∧ s.OnlyInterrupts t ∧
     t = { s with mailboxes := t.mailboxes, funcs := t.funcs, hosts := t.hosts, out := t.out, fw := t.fw })

/-- R68, R484, R499: PARTITION_REKEY starts a rekey to the next key generation with no LPDDR5X leg of the partition left
migrating, and answers only after the sealed state is written; REKEY_STATUS answers the pointer while it runs; a step
over memory without the partition's frames only moves the pointer on, one with frames asks leave and once it has it
stages the lines; when they are written the leave is given back, the pointer moves on, every 8 GiB through the sealed
state, and what the step stalled goes on. -/
def Obligations.RekeyWalksMemory : Prop :=
  ∀ (s : State),
    (∀ (fn m : Nat) (cores : Cores),
     let p := s.boundTo fn;
     s.Takes fn m { opcode := 0x0701, since := 3, words := some 0 } → (s.part p).rekey = none → cores ≠ .split → ∃ t,
     exec (.partitionRekey fn m cores) s = .next t ∧
     s.Awaits t fn m (.sealedState Status.ok 0 [w64 (((s.part p).memGen + 1) % 256)]) ∧ s.OnlyInterrupts t ∧
     t.fw = { s.servedFw cores with sealing := true } ∧
     t.part p = { s.part p with rekey := some { old := (s.part p).memGen, new := (s.part p).memGen + 1 } } ∧
     (∀ j, j ≠ p → t.part j = s.part j) ∧ t.placements = (s.abandonLpddr p).placements ∧
     t.placements.all
       (fun z => !(z.2.live && z.2.partition == p) || z.2.legs.all fun l => !l.lpddr || l.migration.isNone) = true ∧
     t = { s with
           mailboxes := t.mailboxes, funcs := t.funcs, hosts := t.hosts, out := t.out, fw := t.fw, parts := t.parts,
           placements := t.placements, survey := t.survey }) ∧
    (∀ (fn m : Nat),
     let p := s.boundTo fn;
     s.Takes fn m { opcode := 0x0702, since := 3, words := some 0 } → ∃ t, exec (.rekeyStatus fn m) s = .next t ∧
     s.OnlyServes t ∧
     t = { s with mailboxes := t.mailboxes, funcs := t.funcs, hosts := t.hosts, out := t.out, fw := s.firstServe.fw } ∧
     s.Answers t fn m Status.ok 0 [(s.part p).rekey.elim 0 fun r => w64 (r.pointer % 2 ^ 40 + 2 ^ 63)]) ∧
    (∀ (p : Nat) (r : Rekey),
     (s.part p).rekey = some r → r.staged = false → s.rekeyUnsealed p = false → s.rekeyHolds p r.pointer = false →
     r.pointer + 0x100000 < 0x8000000000 →
     ((r.pointer + 0x100000) % 0x200000000 ≠ 0 →
      exec (.rekeyStep p) s = .next
        (s.modPart p fun x => { x with rekey := some { r with pointer := r.pointer + 0x100000, staged := false } })) ∧
     ((r.pointer + 0x100000) % 0x200000000 = 0 →
      exec (.rekeyStep p) s = .next ((s.modPart p fun x => { x with
                                                             rekey := some
                                                               { r with
                                                                 pointer := r.pointer + 0x100000,
                                                                 journal := r.pointer + 0x100000, staged := false } }).startSeal))) ∧
    (∀ (p : Nat) (r : Rekey),
     (s.part p).rekey = some r → r.staged = false → s.rekeyUnsealed p = false → s.rekeyHolds p r.pointer = true →
     (s.power.holders.any fun l => l.purpose == .rekey p) = false →
     (s.power.secondQueue.any fun l => l.purpose == .rekey p) = false →
     exec (.rekeyStep p) s = .next (s.askLeave (.rekey p))) ∧
    (∀ (p : Nat) (r : Rekey),
     (s.part p).rekey = some r → r.staged = false → s.rekeyUnsealed p = false → s.rekeyHolds p r.pointer = true →
     (s.power.holders.any fun l => l.purpose == .rekey p) = true →
     exec (.rekeyStep p) s = .next (s.modPart p fun x => { x with rekey := some { r with staged := true } })) ∧
    (∀ (p : Nat) (r : Rekey),
     (s.part p).rekey = some r → r.staged = true → r.pointer + 0x100000 < 0x8000000000 →
     ((r.pointer + 0x100000) % 0x200000000 ≠ 0 →
      exec (.rekeyStepWritten p) s = .next ((s.endLeave (.rekey p)).modPart p fun x =>
                                              { x with
                                                rekey := some
                                                  { r with pointer := r.pointer + 0x100000, staged := false } }).stir) ∧
     ((r.pointer + 0x100000) % 0x200000000 = 0 →
      exec (.rekeyStepWritten p) s = .next (((s.endLeave (.rekey p)).modPart p fun x =>
                                               { x with
                                                 rekey := some { r with
                                                                 pointer := r.pointer + 0x100000,
                                                                 journal := r.pointer + 0x100000, staged := false } }).startSeal).stir))

/-- R503 to R505: a master claims the free keybox; its owner starts it with a key source that is not reserved; a block
takes 640 clocks and 320 more with a new key, and ends with its result in the output, done set and start and busy
clear; a release by its owner zeroes key, input and output, as does the expiry 10 ms after the claim, which says so.
A master that is not the owner changes nothing. Nothing else of the device changes. -/
def Obligations.KeyboxCommands : Prop :=
  ∀ (s : State),
    (∀ (n : Nat),
     s.kbx.owner = 0 → kbxMaster n = true →
     exec (.kbxClaim n) s = .next { s with kbx := { s.kbx with owner := n, claimedClk := s.clk } }) ∧
    (∀ (n : Nat),
     s.kbx.owner ≠ 0 → exec (.kbxClaim n) s = .next s) ∧
    (∀ (n : Nat),
     s.kbx.owner = n → n ≠ 0 →
     exec (.kbxRelease n) s = .next
       { s with kbx := { s.kbx with owner := 0, key := 0, input := 0, output := 0, started := false, busy := false } }) ∧
    (∀ (n : Nat),
     s.kbx.owner ≠ n → exec (.kbxRelease n) s = .next s) ∧
    (∀ (n : Nat) (v : W32),
     s.kbx.owner = n → n ≠ 0 → bits v.toNat 7 4 < 2 →
     exec (.kbxStart n v) s = .next { s with
                                      kbx := { s.kbx with
                                               keySource := bits v.toNat 7 4, decrypt := bit v.toNat 1,
                                               started := s.kbx.started || bit v.toNat 0,
                                               busy := s.kbx.busy || bit v.toNat 0,
                                               newKey := (s.kbx.newKey || s.kbx.keySource != bits v.toNat 7 4) &&
                                                 !(bit v.toNat 0 && !s.kbx.busy),
                                               dueClk := if bit v.toNat 0 && !s.kbx.busy then s.clk +
                                                 (if s.kbx.newKey || s.kbx.keySource != bits v.toNat 7 4 then 960 else
                                                    640) else s.kbx.dueClk } }) ∧
    (s.kbx.busy = true → s.kbx.dueClk ≤ s.clk →
     exec .kbxBlockDone s = .next { s with
                                    kbx := { s.kbx with
                                             output := BitVec.ofNat 128 (leNat s.kbx.result), started := false,
                                             busy := false, done := true } }) ∧
    (s.kbx.owner ≠ 0 → s.kbx.claimedClk + us 10000 ≤ s.clk →
     exec .kbxExpiry s = .next { s with
                                 kbx := { s.kbx with
                                          owner := 0, key := 0, input := 0, output := 0, started := false,
                                          busy := false, expired := true } })

/-- R487 to R494, R457: a good ACCEPT derives the session keys from the KEM's shared secret and the two messages' digest
and moves the session to step 3; a key-session command in a good envelope takes the session's next step, and its
status and result stand in the response to be read: INSTALL_ROOT keys the partition at generation 1, JOB_KEY gives a
job a key, ROTATE arms the next generation at a time, SA_INSTALL and SA_REMOVE change the security associations, END
ends the session once its response is read; 10 s without a step end it. Those that change the sealed state are
answered after it is written. -/
def Obligations.KeySessionCommands : Prop :=
  ∀ (fn m : Nat) (s : State),
    let k := mbxKey fn m;
    let p := s.boundTo fn;
    (∀ (b : Bulk) (y : KeySession),
     let secret := Config.kemShared y.kem (slice b.data 8 1568);
     let keys := kmac256 secret (shake256 (y.offer ++ b.data) 64)
           (ascii ['G', 'X', '5', ' ', 'S', 'E', 'S', 'S', 'I', 'O', 'N']) 64;
     let owner := shake256 (slice b.data 1576 1793) 64;
     s.Takes fn m closeCmd → s.committing k = some b → b.kind = 8 → b.objectId = 2 → s.asOpened fn b = none →
     (s.part p).session = some y → y.next = 2 → b.data.length = 4660 → field b.data 0 4 = 2 → field b.data 4 4 = y.id →
     ((s.part p).keyed = true → (s.part p).owner = owner) → ∃ t, exec (.accept fn m true) s = .next t ∧
     s.Answers t fn m Status.ok 0 [] ∧ s.OnlyServes t ∧ (t.mbx k).bulk = none ∧ (∀ j, j ≠ p → t.part j = s.part j) ∧
     t = { s with
           mailboxes := t.mailboxes, funcs := t.funcs, hosts := t.hosts, out := t.out, fw := s.firstServe.fw,
           parts := t.parts } ∧
     t.part p = { s.part p with
                  session := some { y with
                                    next := 3, established := true, owner := owner, lastClk := s.clk,
                                    commandKey := keys.take 32, responseKey := keys.drop 32 } }) ∧
    (∀ (b : Bulk) (y : KeySession) (plain : List Byte) (cores : Cores),
     s.Takes fn m closeCmd → s.committing k = some b → b.kind = 8 → b.objectId.toNat % 2 = 1 → s.asOpened fn b = none →
     (s.part p).session = some y → y.openCmd b.data = some plain → y.envelopeOk b = true → field plain 0 1 = 1 →
     plain.length = 36 → (s.part p).keyed = false → cores ≠ .split → ∃ t, exec (.installRoot fn m cores) s = .next t ∧
     s.Awaits t fn m (.sealedState Status.ok 0 []) ∧ s.OnlyInterrupts t ∧
     t.part p = { s.part p with
                  keyed := true, root := slice plain 4 32, owner := y.owner, memGen := 1, fabric := s.newKey 1,
                  jobGens := [],
                  session := some { y with
                                    next := y.next + 1, lastClk := s.clk, ending := false,
                                    response := [0, 0, 0, 0] ++ workKey (slice plain 4 32) p 6 0 0 32 } } ∧
     (∀ j, j ≠ p → t.part j = s.part j) ∧ t.fw = { s.servedFw cores with sealing := true } ∧
     t = { s with
           mailboxes := t.mailboxes, funcs := t.funcs, hosts := t.hosts, out := t.out, parts := t.parts, fw := t.fw,
           survey := t.survey }) ∧
    (∀ (b : Bulk) (y : KeySession) (plain : List Byte) (z : Job) (cores : Cores),
     let j := field plain 4 3;
     s.Takes fn m closeCmd → s.committing k = some b → b.kind = 8 → b.objectId.toNat % 2 = 1 → s.asOpened fn b = none →
     (s.part p).session = some y → y.openCmd b.data = some plain → y.envelopeOk b = true → field plain 0 1 = 2 →
     plain.length = 11 → (s.part p).keyed = true → s.job? p j = some z → cores ≠ .split → ∃ t,
     exec (.jobKey fn m cores) s = .next t ∧ s.Awaits t fn m (.sealedState Status.ok 0 []) ∧ s.OnlyInterrupts t ∧
     t.job? p j = some { z with key := some (s.newJobKey p j (field plain 7 4)) } ∧
     (∀ i, i ≠ j → t.job? p i = s.job? p i) ∧
     (t.part p).session = some
       { y with next := y.next + 1, lastClk := s.clk, ending := false, response := [0, 0, 0, 0] } ∧
     (∀ j, j ≠ p → t.part j = s.part j) ∧ t.fw = { s.servedFw cores with sealing := true } ∧
     t.mer = { s.mer with appointments := s.mer.appointments.filter fun a => a.kind != .keyRotation p (some j) } ∧
     t = { s with
           mailboxes := t.mailboxes, funcs := t.funcs, hosts := t.hosts, out := t.out, parts := t.parts, fw := t.fw,
           mer := t.mer }) ∧
    (∀ (b : Bulk) (y : KeySession) (plain : List Byte) (cores : Cores),
     let gen := field plain 8 4;
     let due := field plain 12 8;
     s.Takes fn m closeCmd → s.committing k = some b → b.kind = 8 → b.objectId.toNat % 2 = 1 → s.asOpened fn b = none →
     (s.part p).session = some y → y.openCmd b.data = some plain → y.envelopeOk b = true → field plain 0 1 = 3 →
     plain.length = 20 → (s.part p).keyed = true → field plain 4 1 = 1 → gen = (s.part p).fabric.current + 1 →
     (s.part p).fabric.pending = none → (s.mbx k).doorbellMt + mtUs 500 ≤ due →
     due ≤ (s.mbx k).doorbellMt + mtUs 60000000 → s.mer.lock ≠ .unlocked → s.apptRoom [0, 1, 2, 3] = true →
     cores ≠ .split → ∃ t, exec (.rotate fn m cores) s = .next t ∧ s.Awaits t fn m (.sealedState Status.ok 0 []) ∧
     s.OnlyInterrupts t ∧
     t.part p = { s.part p with
                  fabric := { (s.part p).fabric with pending := some (gen, due) },
                  session := some
                    { y with next := y.next + 1, lastClk := s.clk, ending := false, response := [0, 0, 0, 0] } } ∧
     (∀ j, j ≠ p → t.part j = s.part j) ∧ t.fw = { s.servedFw cores with sealing := true } ∧
     t.mer = { s.mer with
               appointments := s.mer.appointments ++
                 [{ kind := .keyRotation p none, time := due, slots := [0, 1, 2, 3].map s.apptSlot }] } ∧
     t = { s with
           mailboxes := t.mailboxes, funcs := t.funcs, hosts := t.hosts, out := t.out, parts := t.parts, fw := t.fw,
           mer := t.mer }) ∧
    (∀ (b : Bulk) (y : KeySession) (plain : List Byte) (z : Job) (g : KeyGens) (cores : Cores),
     let gen := field plain 8 4;
     let due := field plain 12 8;
     let j := field plain 5 3;
     s.Takes fn m closeCmd → s.committing k = some b → b.kind = 8 → b.objectId.toNat % 2 = 1 → s.asOpened fn b = none →
     (s.part p).session = some y → y.openCmd b.data = some plain → y.envelopeOk b = true → field plain 0 1 = 3 →
     plain.length = 20 → (s.part p).keyed = true → field plain 4 1 = 3 → s.job? p j = some z → z.key = some g →
     gen = g.current + 1 → g.pending = none → (s.mbx k).doorbellMt + mtUs 500 ≤ due →
     due ≤ (s.mbx k).doorbellMt + mtUs 60000000 → s.mer.lock ≠ .unlocked → s.apptRoom [0, 1, 2, 3] = true →
     cores ≠ .split → ∃ t, exec (.rotate fn m cores) s = .next t ∧ s.Awaits t fn m (.sealedState Status.ok 0 []) ∧
     s.OnlyInterrupts t ∧ t.job? p j = some { z with key := some { g with pending := some (gen, due) } } ∧
     (∀ i, i ≠ j → t.job? p i = s.job? p i) ∧
     (t.part p).session = some
       { y with next := y.next + 1, lastClk := s.clk, ending := false, response := [0, 0, 0, 0] } ∧
     (∀ j, j ≠ p → t.part j = s.part j) ∧ t.fw = { s.servedFw cores with sealing := true } ∧
     t.mer = { s.mer with
               appointments := s.mer.appointments ++
                 [{ kind := .keyRotation p (some j), time := due, slots := [0, 1, 2, 3].map s.apptSlot }] } ∧
     t = { s with
           mailboxes := t.mailboxes, funcs := t.funcs, hosts := t.hosts, out := t.out, parts := t.parts, fw := t.fw,
           mer := t.mer }) ∧
    (∀ (b : Bulk) (y : KeySession) (plain : List Byte) (cores : Cores),
     let ip := slice plain 4 16;
     let fam := field plain 20 1;
     s.Takes fn m closeCmd → s.committing k = some b → b.kind = 8 → b.objectId.toNat % 2 = 1 → s.asOpened fn b = none →
     (s.part p).session = some y → y.openCmd b.data = some plain → y.envelopeOk b = true → field plain 0 1 = 4 →
     plain.length = 29 → (s.part p).keyed = true → fam < 2 → cores ≠ .split → ∃ t,
     exec (.saInstall fn m cores) s = .next t ∧ s.Answers t fn m Status.ok 0 [] ∧ s.OnlyServes t cores ∧
     t.part p = { s.part p with
                  sas := (s.part p).withoutSa ip fam ++ [{ ip := ip, family := fam, outSpi := w32 (field plain 21 4),
                                                           inSpi := w32 (field plain 25 4),
                                                           outKey := workKey (s.part p).root p 7 (field plain 21 4) 0
                                                             36,
                                                           inKey := workKey (s.part p).root p 7 (field plain 25 4) 1
                                                             36 }],
                  session := some
                    { y with next := y.next + 1, lastClk := s.clk, ending := false, response := [0, 0, 0, 0] } } ∧
     (∀ j, j ≠ p → t.part j = s.part j) ∧
     t = { s with
           mailboxes := t.mailboxes, funcs := t.funcs, hosts := t.hosts, out := t.out, fw := s.servedFw cores,
           parts := t.parts }) ∧
    (∀ (b : Bulk) (y : KeySession) (plain : List Byte) (a : SecAssoc) (cores : Cores),
     let ip := slice plain 4 16;
     let fam := field plain 20 1;
     s.Takes fn m closeCmd → s.committing k = some b → b.kind = 8 → b.objectId.toNat % 2 = 1 → s.asOpened fn b = none →
     (s.part p).session = some y → y.openCmd b.data = some plain → y.envelopeOk b = true → field plain 0 1 = 5 →
     plain.length = 21 → (s.part p).keyed = true → (s.part p).sa? ip fam = some a → s.saUsed p ip fam = false →
     cores ≠ .split → ∃ t, exec (.saRemove fn m cores) s = .next t ∧ s.Answers t fn m Status.ok 0 [] ∧
     s.OnlyServes t cores ∧
     t.part p = { s.part p with
                  sas := (s.part p).withoutSa ip fam,
                  session := some
                    { y with next := y.next + 1, lastClk := s.clk, ending := false, response := [0, 0, 0, 0] } } ∧
     (∀ j, j ≠ p → t.part j = s.part j) ∧
     t = { s with
           mailboxes := t.mailboxes, funcs := t.funcs, hosts := t.hosts, out := t.out, fw := s.servedFw cores,
           parts := t.parts }) ∧
    (∀ (b : Bulk) (y : KeySession) (plain : List Byte),
     s.Takes fn m closeCmd → s.committing k = some b → b.kind = 8 → b.objectId.toNat % 2 = 1 → s.asOpened fn b = none →
     (s.part p).session = some y → y.openCmd b.data = some plain → y.envelopeOk b = true → field plain 0 1 = 6 →
     plain.length = 4 → ∃ t, exec (.keyEnd fn m) s = .next t ∧ s.Answers t fn m Status.ok 0 [] ∧ s.OnlyServes t ∧
     t.part p = { s.part p with
                  session := some
                    { y with next := y.next + 1, lastClk := s.clk, ending := true, response := [0, 0, 0, 0] } } ∧
     (∀ j, j ≠ p → t.part j = s.part j) ∧
     t = { s with
           mailboxes := t.mailboxes, funcs := t.funcs, hosts := t.hosts, out := t.out, fw := s.firstServe.fw,
           parts := t.parts }) ∧
    (∀ (q : Nat) (y : KeySession),
     (s.part q).session = some y → y.lastClk + us 10000000 ≤ s.clk →
     exec (.keySessionIdle q) s = .next (s.modPart q fun x => { x with session := none }))

/-- R506 to R508, with the message codes and the request order of DMTF SPDM (assumption log 12, PRESUMED): a responder
that serves answers GET_VERSION with 1.2 and 1.3 and starts afresh, takes no capabilities before it and no algorithms
before those, and serves everything else after the algorithms; slot 0 alone holds a chain; a session ends with the
check of FINISH, with END_SESSION and no other way, and never more than 4 of a PF or 2 of MCTP are held; a
measurement block the table does not name is refused; a selective IDE stream is keyed up to 8 on a port, the link
stream and CXL.cachemem by their own standards, and TDISP's report is read. The bytes of signatures, nonces and
ciphertexts are free values (log 3). -/
def Obligations.SpdmResponds : Prop :=
  ∀ (s : State) (ep : Nat),
    let x := s.spdmOf ep;
    let err := fun (u : State) (e : SpdmErr) => { s with out := .spdm ep 0x7F [e.code] :: s.out } = u;
    let c := s.certChain;
    (∀ (v id op std fn index slot off n : Nat) (a b d e sign ok : Bool) (nonce : BitVec 256),
     s.spdmServes ep = false → exec (.getVersion ep) s = .next s ∧ exec (.getCapabilities ep v) s = .next s ∧
     exec (.negotiateAlgorithms ep a b d e) s = .next s ∧ exec (.getDigests ep) s = .next s ∧
     exec (.getCertificate ep slot off n) s = .next s ∧ exec (.challenge ep slot nonce) s = .next s ∧
     exec (.getMeasurements ep index sign nonce) s = .next s ∧ exec (.keyExchange ep nonce) s = .next s ∧
     exec (.finish ep id ok) s = .next s ∧ exec (.spdmHeartbeat ep id) s = .next s ∧
     exec (.keyUpdate ep id op) s = .next s ∧ exec (.endSession ep id) s = .next s ∧
     exec (.vendorDefinedRequest ep id std fn) s = .next s) ∧
    (∀ (v : Nat) (a b d e : Bool),
     s.spdmServes ep = true →
     (∃ t, exec (.getVersion ep) s = .next t ∧ t = { s with spdm := t.spdm, out := t.out } ∧
      t.out = .spdm ep 0x04 [0x12, 0x13] :: s.out ∧ t.spdmOf ep = { nextSession := x.nextSession, version := 0x10 } ∧
      ∀ j, j ≠ ep → t.spdmOf j = s.spdmOf j) ∧
     (∃ t, exec (.getCapabilities ep v) s = .next t ∧ t = { s with spdm := t.spdm, out := t.out } ∧
      (x.version = 0 → err t .unexpectedRequest) ∧ (x.version ≠ 0 → v ≠ 0x12 → v ≠ 0x13 → err t .versionMismatch) ∧
      (x.version ≠ 0 → (v = 0x12 ∨ v = 0x13) → t.out = .spdm ep 0x61 [0xD6, 0x62, 0, 0] :: s.out ∧
       t.spdmOf ep = { x with version := v, capabilities := true, algorithms := false }) ∧ ∀ j, j ≠ ep →
      t.spdmOf j = s.spdmOf j) ∧
     (∃ t, exec (.negotiateAlgorithms ep a b d e) s = .next t ∧ t = { s with spdm := t.spdm, out := t.out } ∧
      (x.capabilities = false → err t .unexpectedRequest) ∧
      (x.capabilities = true → (a && b && d && e) = false → err t .invalidRequest) ∧
      (x.capabilities = true → (a && b && d && e) = true → t.out = .spdm ep 0x63 [1, 1, 1, 1] :: s.out ∧
       t.spdmOf ep = { x with algorithms := true }) ∧ ∀ j, j ≠ ep → t.spdmOf j = s.spdmOf j)) ∧
    (∀ (id op std fn index slot off n : Nat) (sign ok : Bool) (nonce : BitVec 256),
     s.spdmServes ep = true → x.algorithms = false →
     (∃ t, exec (.getDigests ep) s = .next t ∧ err t .unexpectedRequest) ∧
     (∃ t, exec (.getCertificate ep slot off n) s = .next t ∧ err t .unexpectedRequest) ∧
     (∃ t, exec (.challenge ep slot nonce) s = .next t ∧ err t .unexpectedRequest) ∧
     (∃ t, exec (.getMeasurements ep index sign nonce) s = .next t ∧ err t .unexpectedRequest) ∧
     (∃ t, exec (.keyExchange ep nonce) s = .next t ∧ err t .unexpectedRequest) ∧
     (∃ t, exec (.finish ep id ok) s = .next t ∧ err t .unexpectedRequest) ∧
     (∃ t, exec (.spdmHeartbeat ep id) s = .next t ∧ err t .unexpectedRequest) ∧
     (∃ t, exec (.keyUpdate ep id op) s = .next t ∧ err t .unexpectedRequest) ∧
     (∃ t, exec (.endSession ep id) s = .next t ∧ err t .unexpectedRequest) ∧
     (∃ t, exec (.vendorDefinedRequest ep id std fn) s = .next t ∧ err t .unexpectedRequest)) ∧
    (∀ (index slot off n : Nat) (nonce : BitVec 256),
     s.spdmServes ep = true → x.algorithms = true →
     (∃ t, exec (.getDigests ep) s = .next t ∧ t = { s with out := t.out } ∧
      t.out = .spdm ep 0x01 (1 :: shake256 c 64) :: s.out) ∧
     (∃ t, exec (.getCertificate ep slot off n) s = .next t ∧ t = { s with out := t.out } ∧
      ((slot ≠ 0 ∨ c.length ≤ off) → err t .invalidRequest) ∧
      (slot = 0 → off + n ≤ c.length → 0 < n →
       t.out = .spdm ep 0x02 (0 :: leBytes 2 n ++ leBytes 2 (c.length - off - n) ++ slice c off n) :: s.out)) ∧
     (∃ t, exec (.challenge ep slot nonce) s = .next t ∧ t = { s with out := t.out, free := t.free } ∧
      (slot ≠ 0 → err t .invalidRequest) ∧
      (slot = 0 → ∃ l, t.out = .spdm ep 0x03 (shake256 c 64 ++ leBytes 32 nonce.toNat ++ l) :: s.out)) ∧
     (∃ t, exec (.getMeasurements ep index false nonce) s = .next t ∧ t = { s with out := t.out } ∧
      (index = 0 → t.out = .spdm ep 0x60 [23] :: s.out) ∧
      (index ∈ measurementIndices → t.out = .spdm ep 0x60 (1 :: s.measurementBlock index) :: s.out) ∧
      (index = 255 → t.out = .spdm ep 0x60 (23 :: measurementIndices.flatMap s.measurementBlock) :: s.out) ∧
      (index ≠ 0 → index ≠ 255 → index ∉ measurementIndices → err t .invalidRequest)) ∧
     (∃ t, exec (.getMeasurements ep index true nonce) s = .next t ∧ t = { s with out := t.out, free := t.free } ∧
      (index ∈ measurementIndices → ∃ l,
       t.out = .spdm ep 0x60 (1 :: s.measurementBlock index ++ leBytes 32 nonce.toNat ++ l) :: s.out) ∧
      (index ≠ 0 → index ≠ 255 → index ∉ measurementIndices → err t .invalidRequest))) ∧
    (∀ (nonce : BitVec 256),
     let most := if ep = 2 then 2 else 4;
     s.spdmServes ep = true → x.algorithms = true → ∃ t, exec (.keyExchange ep nonce) s = .next t ∧
     t = { s with spdm := t.spdm, out := t.out, free := t.free } ∧ (most ≤ x.sessions.length → err t .sessionLimit) ∧
     (x.sessions.length < most →
      t.spdmOf ep = { x with sessions := x.sessions ++ [(x.nextSession, false, 0)], nextSession := x.nextSession + 1 } ∧
      ∃ l, t.out = .spdm ep 0x64 (leBytes 4 x.nextSession ++ leBytes 32 nonce.toNat ++ l) :: s.out) ∧ ∀ j, j ≠ ep →
     t.spdmOf j = s.spdmOf j) ∧
    (∀ (id : Nat) (ok : Bool),
     s.spdmServes ep = true → x.algorithms = true → ∃ t, exec (.finish ep id ok) s = .next t ∧
     t = { s with spdm := t.spdm, out := t.out } ∧ (x.session? id = none → err t .invalidSession) ∧
     ((x.session? id).all (fun y => y.1) = true → x.session? id ≠ none → err t .unexpectedRequest) ∧
     ((x.session? id).all (fun y => !y.1) = true → x.session? id ≠ none →
      t.out = (if ok then .spdm ep 0x65 [] else .spdm ep 0x7F [6]) :: s.out ∧
      (t.spdmOf ep).session? id = (if ok then (x.session? id).map (fun y => (true, y.2)) else none)) ∧
     (∀ i, i ≠ id → (t.spdmOf ep).session? i = x.session? i) ∧ ∀ j, j ≠ ep → t.spdmOf j = s.spdmOf j) ∧
    (∀ (id op std fn : Nat),
     let e := if x.session? id = none then SpdmErr.invalidSession else .unexpectedRequest;
     s.spdmServes ep = true → x.algorithms = true → (x.session? id).all (fun y => !y.1) = true →
     (∃ t, exec (.spdmHeartbeat ep id) s = .next t ∧ err t e) ∧
     (∃ t, exec (.keyUpdate ep id op) s = .next t ∧ err t e) ∧ (∃ t, exec (.endSession ep id) s = .next t ∧ err t e) ∧
     (∃ t, exec (.vendorDefinedRequest ep id std fn) s = .next t ∧ err t e)) ∧
    (∀ (id op n : Nat),
     s.spdmServes ep = true → x.algorithms = true → x.session? id = some (true, n) →
     exec (.spdmHeartbeat ep id) s = .next { s with out := .spdm ep 0x68 [] :: s.out } ∧
     (∃ t, exec (.keyUpdate ep id op) s = .next t ∧ t = { s with spdm := t.spdm, out := t.out } ∧
      ((op = 0 ∨ 3 < op) → err t .invalidRequest) ∧
      (1 ≤ op → op ≤ 3 → t.out = .spdm ep 0x69 [BitVec.ofNat 8 op] :: s.out ∧
       (t.spdmOf ep).session? id = some (true, if op = 3 then n else n + 1)) ∧
      (∀ i, i ≠ id → (t.spdmOf ep).session? i = x.session? i) ∧ ∀ j, j ≠ ep → t.spdmOf j = s.spdmOf j) ∧
     (∃ t, exec (.endSession ep id) s = .next t ∧ t = { s with spdm := t.spdm, out := t.out } ∧
      t.out = .spdm ep 0x6C [] :: s.out ∧ (t.spdmOf ep).session? id = none ∧
      (∀ i, i ≠ id → (t.spdmOf ep).session? i = x.session? i) ∧ ∀ j, j ≠ ep → t.spdmOf j = s.spdmOf j)) ∧
    (∀ (id std fn n : Nat),
     s.spdmServes ep = true → x.algorithms = true → x.session? id = some (true, n) → ∃ t,
     exec (.vendorDefinedRequest ep id std fn) s = .next t ∧
     t = { s with funcs := t.funcs, hosts := t.hosts, out := t.out } ∧
     ((ep = 2 ∨ 3 < std) → err t .unsupportedRequest) ∧
     (ep ≠ 2 → std = 2 → t = (s.modHost ep fun h => { h with linkIde := true }).spdmSend ep 0x7E [0]) ∧
     (ep ≠ 2 → std = 3 → t = (s.modHost ep fun h => { h with cxlIde := true }).spdmSend ep 0x7E [0]) ∧
     (std < 2 → t.hosts = s.hosts) ∧
     (ep ≠ 2 → std ≤ 1 → (fnPort fn ≠ ep ∨ (s.func fn).present = false) → err t .invalidRequest) ∧
     (ep ≠ 2 → std = 1 → fnPort fn = ep → (s.func fn).present = true →
      t = { s with out := .spdm ep 0x7E ([1] ++ s.tdiReport fn) :: s.out }) ∧
     (ep ≠ 2 → std = 0 → fnPort fn = ep → (s.func fn).present = true → (s.func fn).ideStream = false →
      8 ≤ s.ideStreams ep → err t .invalidRequest) ∧
     (ep ≠ 2 → std = 0 → fnPort fn = ep → (s.func fn).present = true → s.ideStreams ep < 8 →
      t.out = .spdm ep 0x7E [0] :: s.out ∧ t.func fn = { s.func fn with ideStream := true }) ∧ ∀ f, f ≠ fn →
     t.func f = s.func f)

/-- R511 to R526, R480, R535, R556: a warm reset leaves no object, the boot awaited, Meridian time counting in UNLOCKED,
the endpoint and MPL, every partition's root and a capture of each keyed one; ActivateFirmware and a failed firmware
image are warm resets; losing power, an input out of range for 10 µs or a thermal trip turns the module off with
nothing but boot flash kept, and power comes back to a cold reset; the boot advances the epoch counters and starts
the firmware, loads the sealed copy whose version counter 2 allows or empties every partition with an alarm, or stays
in recovery at the step that failed; a firmware restart completes uncommitted commands with FIRMWARE_RESTARTED and
keeps memory and objects. -/
def Obligations.ResetsAndBoot : Prop :=
  ∀ (s : State),
    (∀ (fatal : Bool),
     s.power.state = .on → ∃ t, exec (.warmReset fatal) s = .next t ∧ t.Bare ∧ t.pending = s.pending ∧ t.clk = s.clk ∧
     t.cfg = { endpoint := s.cfg.endpoint, mplUs := s.cfg.mplUs } ∧ t.mer.now = s.mer.now ∧ t.mer.lock = .unlocked ∧
     t.fw.awaitingBoot = true ∧ t.fw.alive = false ∧ t.fw.coldBoot = false ∧ t.fw.counters = s.fw.counters ∧
     t.fw.deviceDump = true ∧ t.power = s.power.physical ∧
     (∀ p, (t.part p).keyed = (s.part p).keyed ∧ (t.part p).root = (s.part p).root ∧
      (t.part p).owner = (s.part p).owner ∧ (t.part p).memGen = (s.part p).memGen ∧ (t.part p).jobs = [] ∧
      (t.part p).quotas = []) ∧
     (∀ r ∈ s.parts, r.2.keyed = true → (t.part r.1).keyed = true → (t.part r.1).capture.isSome = true)) ∧
    (s.power.state = .on → s.fw.alive = true → exec .activateFirmware s = exec (.warmReset false) s ∧
     (s.fw.awaitingBoot = false → s.fw.mode ≠ .recovery → exec (.firmwareRestart false) s = exec (.warmReset false) s)) ∧
    (exec .fwAliveLapse s = .next { s with fw := { s.fw with alive := false } }) ∧
    (s.power.state = .on → s.fw.awaitingBoot = false → s.fw.mode ≠ .recovery → s.thirdRestart = false → ∃ t,
     exec (.firmwareRestart true) s = .next t ∧
     t = { s with
           parts := t.parts, mailboxes := t.mailboxes, spdm := t.spdm, funcs := t.funcs, fw := t.fw, out := t.out,
           free := t.free, hosts := t.hosts, survey := t.survey } ∧ t.fw.alive = true ∧ t.fw.lastBeat = s.clk ∧
     t.fw.restarts = s.clk :: s.fw.restarts ∧ t.fw.deviceDump = true ∧ t.spdm = [] ∧
     (∀ r ∈ t.parts, r.2.session = none) ∧ ∀ fn m, (s.func fn).present = true → m < mailboxesOf fn →
     (t.mbx (mbxKey fn m)).restarted = true ∧ (t.mbx (mbxKey fn m)).bulk = none ∧
     ((s.mbx (mbxKey fn m)).busy = true → (s.mbx (mbxKey fn m)).wait = none → (t.mbx (mbxKey fn m)).busy = false ∧
      (t.mbx (mbxKey fn m)).done = true ∧ bits (t.mbx (mbxKey fn m)).resp.toNat 15 0 = Status.firmwareRestarted)) ∧
    (∀ (facts : BootFacts),
     s.power.state = .on → s.fw.awaitingBoot = true → facts.pufOk = true → s.fw.configTaken facts = true →
     s.fw.counters.length = 8 → slotPasses s.fw.raiseConfig facts s.fw.selector = true → ∃ t,
     exec (.boot facts) s = .next t ∧ t.fw.alive = true ∧ t.fw.awaitingBoot = false ∧ t.fw.bootClk = s.clk ∧
     t.fw.runningSlot = s.fw.selector ∧ t.fw.mode = .normal ∧ t.fw.topology = facts.topology ∧
     t.fw.serving = t.fw.rejoinPending.isEmpty ∧
     (∀ q, q < 4 → (t.quad q).txEpoch = s.fw.counters.getD (3 + q) 0 + 1 ∧ (t.quad q).txCount = 0) ∧
     (∀ p, (t.part p).capture = none) ∧ t.mem.inlineEcc = facts.inlineEcc ∧
     (facts.topology = 0x00FFFFFF → ∀ r ∈ t.ports, r.2.state ≠ .down ∨ r.2.mode = 0) ∧
     (facts.topology ≠ 0x00FFFFFF → t.ports = s.ports) ∧
     (s.fw.sealedCopy facts = none → (∀ r ∈ t.parts, r.2.keyed = false) ∧ t.survey.alarms.getLsbD 5 = true) ∧
     (∀ c, s.fw.sealedCopy facts = some c → ∀ r ∈ s.parts, (t.part r.1).keyed = ((tblGet c.parts r.1).getD {}).keyed)) ∧
    (∀ (facts : BootFacts),
     let step := if facts.pufOk = false then 1 else if s.fw.configTaken facts = false then 2 else 3;
     let f := if step = 3 then s.fw.raiseConfig else s.fw;
     s.power.state = .on → s.fw.awaitingBoot = true →
     (facts.pufOk = false ∨ s.fw.configTaken facts = false ∨ slotPasses s.fw.raiseConfig facts s.fw.selector = false ∧
      slotPasses s.fw.raiseConfig facts (1 - s.fw.selector) = false) →
     exec (.boot facts) s = .next { s with
                                    fw := { f with
                                            mode := .recovery, failedStep := step, awaitingBoot := false,
                                            alive := false, serving := false } }) ∧
    (∀ (facts : BootFacts),
     s.power.state = .on → s.fw.awaitingBoot = true → facts.pufOk = true → s.fw.configTaken facts = true →
     slotPasses s.fw.raiseConfig facts s.fw.selector = false →
     slotPasses s.fw.raiseConfig facts (1 - s.fw.selector) = true → ∃ t, exec (.boot facts) s = .next t ∧
     t.fw.alive = true ∧ t.fw.mode = .fallback ∧ t.fw.runningSlot = 1 - s.fw.selector ∧ t.survey.alarms.getLsbD 6 = true) ∧
    (∀ (mv n : Nat),
     s.power.state = .on →
     (∃ u, exec .lossOfPowerGood s = .next u ∧ u.Bare ∧ u.power.state = .off ∧ u.power.pwrgd = false ∧
      u.mem.cells = [] ∧ u.fw.coldBoot = true ∧ u.fw.awaitingBoot = true ∧ u.fw.counters = s.fw.counters ∧ u.cfg = {} ∧
      u.placements = [] ∧ u.ports = [] ∧ (∀ p, (u.part p).root = (s.part p).root ∧ (u.part p).dump = none)) ∧
     (inputOk mv = false → n < 10 → ∃ u, exec (.inputExcursion mv n) s = .next u ∧
      u.power = { s.power with inputMv := mv, excursions := s.power.excursions + 1 } ∧
      u = { s with power := u.power, survey := u.survey }) ∧
     (inputOk mv = false → 10 ≤ n →
      exec (.inputExcursion mv n) s = exec .lossOfPowerGood (s.modPower fun p => { p with inputMv := mv })) ∧
     (inputOk mv = true → exec (.inputExcursion mv n) s = .next { s with power := { s.power with inputMv := mv } })) ∧
    (∀ (what : Thermal) (celsius : Nat),
     s.power.state = .on → (s.power.limits what).2.2 ≤ celsius → ∃ u, exec (.thermalTrip what celsius) s = .next u ∧
     u.Bare ∧ u.power.state = .off ∧ u.power.tripped = true ∧ exec .coldPowerUp u = .next u) ∧
    (s.power.state = .off → exec .thermalTripRelease s = .next { s with power := { s.power with tripped := false } } ∧
     (s.power.tripped = false → ∃ u, exec .coldPowerUp s = .next u ∧ u.Bare ∧ u.power.state = .on ∧
      u.power.pwrgd = true ∧ 36000 ≤ u.power.inputMv ∧ u.fw.coldBoot = true ∧ u.fw.awaitingBoot = true ∧
      u.fw.counters = s.fw.counters ∧ u.mem.cells = [])) ∧
    (∀ (mv : Nat),
     s.power.state = .off → s.power.tripped = false → 37500 ≤ mv → mv ≤ 49000 → ∃ u,
     exec (.inputRestored mv) s = .next u ∧ u.Bare ∧ u.power.state = .on ∧ u.power.pwrgd = true ∧ u.power.inputMv = mv ∧
     u.fw.awaitingBoot = true ∧ u.mem.cells = [])

/-- R513 to R517: a unit hangs that has the work its watchdog looks for and has made no progress for its limit; a hang of
an SRAM quadrant, an LPDDR5X subsystem or the governor is a fatal warm reset; a hung copier abandons its migrations;
any other unit is fenced and reset, loses the work in it, and is retired at a second hang within 1 s, which for a
transport engine or a receive pipeline is a warm reset; the self-test ends the fence or retires; a woken domain runs
and takes up what waited for it; a crossing timeout discards the oldest item that has waited its 2 µs, ends the
operation that owned the item with CDC_TIMEOUT, raises alarm 8, and at the third within 1 ms fails the domain's unit. -/
def Obligations.HungUnitsRecovered : Prop :=
  ∀ (s : State) (u : UnitId),
    let y := s.unitRec u;
    let again := (s.recover.units.any fun r => r.unit == u && decide (s.clk ≤ r.lastHang + us 1000000));
    ((s.power.state = .off ∨ y.fenced = true ∨ y.retired = true ∨ s.hungNow u = false) → exec (.unitHung u) s = .next s) ∧
    (∀ (q : Nat),
     s.power.state = .on → s.unitDown u = false → s.hungNow u = true → (u = .sram q ∨ u = .lpddr q ∨ u = .governor) →
     exec (.unitHung u) s = exec (.warmReset true) s) ∧
    (∀ (q : Nat),
     s.power.state = .on → s.unitDown u = false → s.hungNow u = true → (u = .transport q ∨ u = .receive q) →
     again = true → exec (.unitHung u) s = exec (.warmReset false) s) ∧
    (∀ (q h : Nat) (pl : Placement) (l : Leg),
     s.power.state = .on → u = .copier q → s.unitDown u = false → s.hungNow u = true → tblGet s.placements h = some pl →
     l ∈ pl.legs → ∃ t, exec (.unitHung u) s = .next t ∧ t = { s with placements := t.placements } ∧
     (l.migration.isSome = true → l.quadrant % 4 = q →
      { l with migration := none, abandoned := l.migration, lastMove := some s.clk } ∈ (tblGetD t.placements h {}).legs)
       ∧ ((l.migration = none ∨ l.quadrant % 4 ≠ q) → l ∈ (tblGetD t.placements h {}).legs)) ∧
    (∀ (k : Nat),
     s.power.state = .on → s.unitDown u = false → s.hungNow u = true →
     (u = .graticule k ∨ u = .reduction k ∨ u = .sequencer k) → ∃ t, exec (.unitHung u) s = .next t ∧
     (u = .graticule k → (t.grat k).job = none ∧ (t.grat k).wiping = true ∧ (again = true → (t.grat k).retired = true))
       ∧ (u = .reduction k → (t.red k).queue = [] ∧ (t.red k).wiping = true) ∧
     (u = .sequencer k → (t.seq k).running = none ∧ (again = true → (t.seq k).retired = true)) ∧
     t.unitRec u = { unit := u, fenced := !again, lastHang := s.clk, retired := again } ∧
     (again = true → t.recover.unitRetired = true ∧ t.survey.alarms.getLsbD 7 = true) ∧ t.pending = s.pending ∧
     t.clk = s.clk) ∧
    (∀ (q : Nat),
     s.power.state = .on → s.unitDown u = false → s.hungNow u = true → again = false →
     (u = .transport q ∨ u = .receive q) → ∃ t, exec (.unitHung u) s = .next t ∧
     t.unitRec u = { unit := u, fenced := true, lastHang := s.clk } ∧ t.pending = s.pending ∧ t.clk = s.clk ∧
     t.fw = s.fw ∧ t.cfg = s.cfg) ∧
    (∀ (ok : Bool) (q : Nat),
     y.unit = u → ∃ t, exec (.unitSelfTestEnd u ok) s = .next t ∧ (y.fenced = false → t = s) ∧
     (y.fenced = true → (ok = true ∨ u = .transport q ∨ u = .receive q) →
      t = (s.setUnit { y with fenced := false }).backInService u ∧
      (neverRetired u = false → t = { s with recover := t.recover }) ∧ t.unitRec u = { y with fenced := false } ∧ ∀ v,
      (v == u) = false → t.unitRec v = s.unitRec v) ∧
     (y.fenced = true → ok = false → neverRetired u = false →
      t = { s with
            recover := t.recover, grats := t.grats, seqs := t.seqs, survey := t.survey, parts := t.parts, out := t.out,
            free := t.free } ∧ t.unitRec u = { y with fenced := false, retired := true } ∧
      t.recover.unitRetired = true ∧ t.survey.alarms.getLsbD 7 = true ∧
      (∀ k, u = .graticule k → (t.grat k).retired = true) ∧ ∀ k, u = .sequencer k → (t.seq k).retired = true)) ∧
    (∀ (d : Domain),
     let v := s.startDomain d;
     s.power.state = .on → exec (.cdcWake d) s = .next v.stir ∧
     v.recover.stopped = s.recover.stopped.filter (fun e => e != d) ∧
     v.recover.wakes = s.recover.wakes.filter (fun w => w.domain != d) ∧ v.mer = s.mer ∧ v.funcs = s.funcs ∧
     v.mailboxes = s.mailboxes ∧ v.contexts = s.contexts ∧ v.fw = s.fw) ∧
    (∀ (d : Domain) (fn m : Nat) (g : Mailbox),
     let recent := s.recover.cdcTimeouts.filter fun e => e.1 == d && decide (s.clk ≤ e.2 + us 1000);
     s.power.state = .on → recent.length < 2 →
     (s.crossing d).head?.any (fun (w : Wake) => decide (s.clk < w.sinceClk + us 2)) = false →
     tblGet s.mailboxes (mbxKey fn m) = some g →
     (∃ t, exec (.cdcTimeout d .other) s = .next t ∧
      t = { s with recover := t.recover, survey := t.survey, out := t.out, parts := t.parts } ∧
      t.recover = { s.recover with cdcTimeouts := (d, s.clk) :: s.recover.cdcTimeouts, wakes := t.recover.wakes } ∧
      t.recover.wakes =
        ((s.recover.wakes.find? fun w => w.domain == d).elim s.recover.wakes fun w => s.recover.wakes.erase w) ∧
      t.survey.alarms = s.survey.alarms ||| 256 ∧
      tblGetD t.survey.counts Count.crossingDiscards 0 = tblGetD s.survey.counts Count.crossingDiscards 0 + 1) ∧
     (∃ t, exec (.cdcTimeout d (.command fn m)) s = .next t ∧
      t = { s with
            recover := t.recover, survey := t.survey, out := t.out, parts := t.parts, mailboxes := t.mailboxes,
            funcs := t.funcs, hosts := t.hosts } ∧
      (g.busy = true → (t.mbx (mbxKey fn m)).busy = false ∧ (t.mbx (mbxKey fn m)).done = true ∧
       bits (t.mbx (mbxKey fn m)).resp.toNat 15 0 = Status.cdcTimeout) ∧ ∀ k, k ≠ mbxKey fn m → t.mbx k = s.mbx k)) ∧
    (∀ (d : Domain) (q k index : Nat) (i : W32) (e : Desc) (r : Running) (f : Flight),
     let recent := s.recover.cdcTimeouts.filter fun e => e.1 == d && decide (s.clk ≤ e.2 + us 1000);
     s.power.state = .on → recent.length < 2 →
     (s.crossing d).head?.any (fun (w : Wake) => decide (s.clk < w.sinceClk + us 2)) = false →
     (s.seq k).running = some r → (r.flights.find? fun f => f.index == index) = some f → f.ended = none →
     s.desc? q i = some e → s.runnerOf q i = none → e.phase ≠ .completed →
     (∃ t, exec (.cdcTimeout d (.descriptor q i)) s = .next t ∧
      (t.desc? q i).any (fun z => z.phase == .completed && z.status == Status.cdcTimeout && z.opcode == e.opcode) =
        true) ∧
     (∃ t, exec (.cdcTimeout d (.step k index)) s = .next t ∧ (t.flight? k f.slot).all (fun z => z.ended.isSome) = true)) ∧
    (∀ (q core : Nat),
     let late := fun (d : Domain) => !(s.crossing d).head?.any fun (w : Wake) => decide (s.clk < w.sinceClk + us 2);
     let third := fun (d : Domain) => decide
           (2 ≤ (s.recover.cdcTimeouts.filter fun e => e.1 == d && decide (s.clk ≤ e.2 + us 1000)).length);
     s.power.state = .on → (third (.engine q) = true ∨ third (.memory q) = true ∨ third (.tirmon core) = true) →
     (late (.engine q) = true ∧ late (.memory q) = true ∧ late (.tirmon core) = true) →
     (third (.memory q) = true → ∃ t, exec (.cdcTimeout (.memory q) .other) s = .next t ∧ t.Bare ∧
      t.fw.awaitingBoot = true) ∧
     (third (.tirmon core) = true → ∃ t, exec (.cdcTimeout (.tirmon core) .other) s = .next t ∧ t.Bare ∧
      t.fw.awaitingBoot = true) ∧
     (third (.engine q) = true → s.hungAgain (.transport q) = false → ∃ t,
      exec (.cdcTimeout (.engine q) .other) s = .next t ∧
      t.unitRec (.transport q) = { unit := .transport q, fenced := true, lastHang := s.clk } ∧
      ∀ e ∈ t.recover.cdcTimeouts, e.1 ≠ .engine q))

/-- R540 to R558: the request whose turn it is and that fits becomes a holder and counts; one that has waited more than
100 µs is recorded once; the measured input enters the average and the energy; an input above cap_1ms sets the
backstop, counted and saturating, and one 20 W below it releases it; caps are stored at the nearer limit; a warning
sets THERM_ALERT_N, a throttle limit throttles to 75 per cent, and both end 5 °C lower; a quadrant idle for 10 µs and
a channel idle for 2 µs stop; an unpinned home changes, a job that has not started moves to another graticule, and a
schedule takes other ports; PERST_N high on a powered module readies its port. -/
def Obligations.GovernorAndLimits : Prop :=
  ∀ (s : State),
    let p := s.power;
    (∀ (measured : Nat) (l : Leave),
     s.nextGrant measured = some l → isSecond l.purpose = true → ∃ t, exec (.leaveGrant measured) s = .next t ∧
     t.power.holders = p.holders ++ [{ l with grantedClk := s.clk }] ∧ t.power.grants = p.grants + 1 ∧
     (∀ x ∈ t.power.firstQueue ++ t.power.secondQueue, x.id ≠ l.id) ∧
     (∀ g half, l.purpose = .graticule g half →
      (t.grat g).job = (s.grat g).job.map (fun x => { x with running := true, grantedClk := s.clk })) ∧
     t = { s with power := t.power, grats := t.grats }) ∧
    (∀ (measured port added : Nat) (l : Leave),
     s.nextGrant measured = some l → l.purpose = .lanes port added → ∃ t, exec (.leaveGrant measured) s = .next t ∧
     t.power.holders = p.holders ++ [{ l with grantedClk := s.clk }] ∧ t.power.grants = p.grants + 1 ∧
     (∀ x ∈ t.power.firstQueue ++ t.power.secondQueue, x.id ≠ l.id) ∧ (∀ j, j ≠ port → t.port j = s.port j)) ∧
    (∀ (measured q : Nat) (o : Bool) (l : Leave),
     let u := s.takeGrant l;
     s.nextGrant measured = some l → l.purpose = .engine q o → exec (.leaveGrant measured) s = .next u.sealWaiting ∧
     u.power.holders = p.holders ++ [{ l with grantedClk := s.clk }] ∧ u.power.grants = p.grants + 1 ∧
     (∀ x ∈ u.power.firstQueue ++ u.power.secondQueue, x.id ≠ l.id) ∧ u = { s with power := u.power }) ∧
    (∀ (id : Nat) (l : Leave),
     (p.firstQueue ++ p.secondQueue).find? (fun l => l.id == id) = some l → l.recorded = false →
     l.askedClk + us 100 < s.clk → ∃ t, exec (.noLeave id) s = .next t ∧
     t.power = { p with
                 waits := min 65535 (p.waits + 1), firstQueue := markWait id p.firstQueue,
                 secondQueue := markWait id p.secondQueue } ∧
     t.survey.log.head?.map (fun r => r.status) = some Status.noLeave ∧ exec (.noLeave id) t = .next t) ∧
    (∀ (mw : Nat),
     p.state = .on →
     exec (.powerAverageUpdate mw) s = .next { s with
                                               power := { p with
                                                          avg1s := (p.avg1s * 999 + mw) / 1000, last1ms := mw,
                                                          energy := p.energy + w64 ((p.energyFrac + mw) / 1000),
                                                          energyFrac := (p.energyFrac + mw) % 1000 } }) ∧
    (∀ (mw : Nat),
     (p.cap p.cap1ms < mw → p.backstop = false →
      exec (.backstop mw) s = .next
        { s with power := { p with backstop := true, backstops := min 65535 (p.backstops + 1) } }) ∧
     (mw ≤ p.cap p.cap1ms → exec (.backstop mw) s = .next s) ∧
     (mw + 20000 < p.cap p.cap1ms →
      exec (.backstopRelease mw) s = .next { s with power := { p with backstop := false } }) ∧
     (p.cap p.cap1ms ≤ mw + 20000 → exec (.backstopRelease mw) s = .next s)) ∧
    (∀ (fn w : Nat) (v : W32),
     (isPf fn = true → s.mmioOk fn = true →
      exec (.pwrCapWrite fn v) s = .next { s with
                                           power := { p with
                                                      cap1ms := min 1000 (max 400 (bits v.toNat 31 16)),
                                                      capSus := min 850 (max 300 (bits v.toNat 15 0)) } }) ∧
     (isPf fn = false → exec (.pwrCapWrite fn v) s = .next s) ∧
     (s.sideband = true →
      exec (.capEffecter true w) s = .next { s with power := { p with capSus := min 850 (max 300 w) } } ∧
      exec (.capEffecter false w) s = .next { s with power := { p with cap1ms := min 1000 (max 400 w) } })) ∧
    (∀ (what : Thermal) (c : Nat),
     p.state = .on →
     ((p.limits what).1 ≤ c → ∃ t, exec (.thermalWarning what c) s = .next t ∧ t.power.thermalAlert = true ∧
      t.power.readings.head? = some (what, c) ∧ (what = .lpddr → t.power.refreshDoubled = true) ∧
      t.survey.log.head?.map (fun r => r.severity) = some 0 ∧
      t = { s with power := t.power, survey := t.survey, free := t.free }) ∧
     ((p.limits what).2.1 ≤ c → ∃ t, exec (.thermalThrottle what c) s = .next t ∧ t.power.throttled = true ∧
      (∀ w, t.power.cap w = w * 750) ∧ t = { s with power := t.power }) ∧
     (c < (p.limits what).1 → exec (.thermalWarning what c) s = .next s) ∧
     (c < (p.limits what).2.1 → exec (.thermalThrottle what c) s = .next s)) ∧
    (p.state = .on → p.throttled = true → p.thermalAlert = true →
     (∃ t, exec .throttleExit s = .next t ∧ t.power.throttled = false ∧
      (∀ r ∈ t.power.readings, ∀ n, r.1 = .die n → r.2 ≤ 95) ∧ t = { s with power := t.power }) ∧ ∃ t,
     exec .thermAlertRelease s = .next t ∧ t.power.thermalAlert = false ∧ t.power.refreshDoubled = false ∧
     (∀ r ∈ t.power.readings, r.2 ≤ (p.limits r.1).1 - 5) ∧ t = { s with power := t.power }) ∧
    ((p.throttled = false → exec .throttleExit s = .next s) ∧
     (p.thermalAlert = false → exec .thermAlertRelease s = .next s)) ∧
    (∀ (q c : Nat),
     let quiet := decide ((s.quad q).sentClk + us 10 ≤ s.clk ∧ (s.quad q).commitClk + us 10 ≤ s.clk ∧
                              (s.quad q).idleSince + us 10 ≤ s.clk);
     q < 4 → c < 32 →
     (quiet = true → s.quadrantBusy q = false → (s.quad q).clockStopped = false → ∃ t,
      exec (.quadrantIdle q) s = .next t ∧ t.quad q = { s.quad q with clockStopped := true, idleSince := s.clk } ∧
      t.recover = { s.recover with stopped := .engine q :: s.recover.stopped } ∧ (∀ j, j ≠ q → t.quad j = s.quad j) ∧
      t = { s with quads := t.quads, recover := t.recover }) ∧
     (quiet = false ∨ s.quadrantBusy q = true → exec (.quadrantIdle q) s = .next s) ∧
     (c ∉ s.mem.channelsDown → tblGetD s.mem.channelUse c 0 + us 2 ≤ s.clk →
      exec (.channelPowerDown c) s = .next { s with mem := { s.mem with channelsDown := c :: s.mem.channelsDown } }) ∧
     (s.clk < tblGetD s.mem.channelUse c 0 + us 2 → exec (.channelPowerDown c) s = .next s)) ∧
    (∀ (n home : Nat) (x : Queue) (y : Ring),
     s.queue? n = some x → s.ring? n = some y →
     (x.pinHome = false → home < 4 →
      exec (.atlasChoiceChange (.queueHome n home)) s = .next (s.setQueue n { x with home := home })) ∧
     (x.pinHome = true → exec (.atlasChoiceChange (.queueHome n home)) s = .next (s.setQueue n x)) ∧
     (y.pinHome = false → home < 4 →
      exec (.atlasChoiceChange (.ringHome n home)) s = .next
        { s with rings := tblSet s.rings n { y with home := home } }) ∧
     (y.pinHome = true → exec (.atlasChoiceChange (.ringHome n home)) s = .next { s with rings := tblSet s.rings n y })) ∧
    (∀ (g h k : Nat) (x : GratJob) (id : W32) (ports : List Nat) (z : Schedule),
     (s.grat g).job = some x → g ≠ h → s.schedule? k id = some z →
     (s.mayMove x h = true → ∃ t, exec (.atlasChoiceChange (.graticule g h)) s = .next t ∧ (t.grat g).job = none ∧
      (t.grat h).job = some x ∧ (t.grat h).owned = true ∧
      ((t.grat h).wiping = false → (t.grat h).partition = x.partition ∧
       (t.power.secondQueue.any fun l => l.purpose == .graticule h (halfRate x.record.aFmt x.record.wFmt)) = true) ∧
      ((t.grat h).wiping = ((s.grat h).owned && (s.grat h).partition != x.partition)) ∧
      (∀ j, j ≠ g → j ≠ h → t.grat j = s.grat j) ∧ t = { s with grats := t.grats, power := t.power }) ∧
     (s.mayMove x h = false → exec (.atlasChoiceChange (.graticule g h)) s = .next s) ∧
     (∃ t, exec (.atlasChoiceChange (.portSet k id ports)) s = .next t ∧ t = { s with parts := t.parts } ∧
      (t.schedule? k id) = some { z with
                                  ports := (z.header.others.map fun r => s.portsFor z.header.landQ ports
                                              (z.members.getD r (0, 0)).1).flatten.eraseDups })) ∧
    (∀ (high : Bool),
     exec (.flashWpNChange high) s = .next { s with power := { p with flashWpN := high } } ∧
     (∃ t, exec (.perstNDeassertion 0) s = .next t ∧ t.power = { p with perst0 := true } ∧
      t.host 0 = { s.host 0 with ready := (s.host 0).ready || p.pwrgd } ∧ (∀ j, j ≠ 0 → t.host j = s.host j) ∧
      t = { s with power := t.power, hosts := t.hosts }) ∧ ∃ t, exec (.perstNDeassertion 1) s = .next t ∧
     t.power = { p with perst1 := true } ∧ t.host 1 = { s.host 1 with ready := (s.host 1).ready || p.pwrgd } ∧
     (∀ j, j ≠ 1 → t.host j = s.host j) ∧ t = { s with power := t.power, hosts := t.hosts })

/-- R6, R8, R10, R416: a write to a function that is not presented changes nothing, a misaligned one is counted; the low
half of a 64-bit register waits for the high half; the registers that have commands of their own act as those do; the
device settings keep their fields in their ranges, and no other; a mailbox that is busy, a half of its registers too,
or a doorbell with another sequence, only sets overrun, and a doorbell notes its order and its time; the PF's blocks
are not there on a VF; a written doorbell is a doorbell; an unmasked vector sends its pending message; the capability
controls and the keybox space have the numbers of log entry 13. -/
def Obligations.RegisterWritesTakeEffect : Prop :=
  ∀ (s : State) (fn o : Nat) (v : W64),
    let n := v.toNat;
    (∀ (bar w : Nat),
     s.mmioOk fn = false → bar ≠ 14 → bar ≠ 15 → exec (.registerWrite fn bar o w v) s = .next s ∧
     exec (.readClear fn bar o w) s = .next (s.emit (.barData (fnPort fn) false [])) ∧
     exec (.lowHalfRead fn bar o) s = .next (s.emit (.barData (fnPort fn) false [])) ∧
     (∀ k, exec (.msixUnmask fn k) s = .next s) ∧
     (∀ k, exec (.fnHdmLength fn v k) s = .next s ∧ exec (.p2pEnable fn k v) s = .next s) ∧
     exec (.biasGo fn (w32 n)) s = .next s) ∧
    (∀ (w : Nat),
     s.mmioOk fn = true → ((w ≠ 4 ∧ w ≠ 8) ∨ o % w ≠ 0) →
     exec (.registerWrite fn 0 o w v) s = .next (s.count Count.misaligned) ∧
     exec (.readClear fn 0 o w) s = .next ((s.count Count.misaligned).emit (.readData fn 0)) ∧
     (o % 4 ≠ 0 → exec (.lowHalfRead fn 0 o) s = .next ((s.count Count.misaligned).emit (.readData fn 0)))) ∧
    (s.mmioOk fn = true → o % 8 = 0 → s.wide fn o = true → s.wide fn (o + 4) = false →
     exec (.registerWrite fn 0 o 4 v) s = .next (s.modFunc fn fun f => { f with lowHeld := tblSet f.lowHeld o (w32 n) })
       ∧ exec (.registerWrite fn 0 o 8 v) s = .next (s.writeReg fn o n) ∧
     (∀ l, tblGet (s.func fn).lowHeld o = some l →
      exec (.registerWrite fn 0 (o + 4) 4 v) s = .next ((s.modFunc fn fun f =>
                                                           { f with lowHeld := tblErase f.lowHeld o }).writeReg fn o
                                                          (l.toNat + n % 2 ^ 32 * 2 ^ 32)))) ∧
    (∀ (k port a : Nat),
     s.mmioOk fn = true → isPf fn = true → k < 8192 → port < 32 → a < 8 →
     exec (.registerWrite fn 0 0x20 8 v) s = exec (.fnHdmLength fn v 0) s ∧
     exec (.registerWrite fn 0 0x30 4 v) s = exec (.biasGo fn (w32 n)) s ∧
     exec (.registerWrite fn 0 (0x100 + 16 * a) 8 v) s = exec (.p2pEnable fn a v) s ∧
     exec (.registerWrite fn 0 0x50004 4 v) s = exec (.pwrCapWrite fn (w32 n)) s ∧
     exec (.registerWrite fn 0 (0xA0104 + 0x20 * port) 4 v) s = exec (.retrain fn port (w32 n)) s ∧
     exec (.registerWrite fn 0 (0x10000C + 0x40 * k) 4 v) s = exec (.queRestart fn k (w32 n)) s ∧
     exec (.registerWrite fn 0 (0x180004 + 0x40 * k) 4 v) s = exec (.cmpConsumer fn k (w32 n)) s ∧
     exec (.registerWrite fn 0 (0x18000C + 0x40 * k) 4 v) s = exec (.cmpIntArm fn k (w32 n)) s ∧
     exec (.registerWrite fn 2 (64 * k) 8 v) s = exec (.queDoorbell fn k (w32 n)) s ∧
     exec (.registerWrite fn 2 (64 * k + 8) 8 v) s = .next (s.count Count.bar2Discarded)) ∧
    (s.mmioOk fn = true → isPf fn = true →
     exec (.registerWrite fn 0 0x80000 4 v) s = .next { s with
                                                        txs := { s.txs with
                                                                 mdFloor := max 1 (bits n 29 27), beta := bits n 26 24,
                                                                 ai := bits n 23 16, targetSlack := bits n 15 0 } } ∧
     exec (.registerWrite fn 0 0x80004 4 v) s = .next
       { s with txs := { s.txs with minRate := max 1 (bits n 28 16), initRate := bits n 12 0 } } ∧
     exec (.registerWrite fn 0 0x80008 4 v) s = .next { s with
                                                        txs := { s.txs with
                                                                 deflEcho := max 1 (bits n 31 24),
                                                                 markUtil := min 100 (bits n 23 16),
                                                                 increasePeriod := bits n 15 0 } } ∧
     exec (.registerWrite fn 0 0xA0010 4 v) s = .next { s with
                                                        cfg := { s.cfg with
                                                                 widenUtil := min 100 (bits n 31 24),
                                                                 narrowUtil := min 100 (bits n 23 16),
                                                                 narrowWindow := max 1 (bits n 15 0) } } ∧
     exec (.registerWrite fn 0 0xC0000 4 v) s = .next
       { s with cfg := { s.cfg with fpTol := clamp 8 20 (bits n 15 8), forceCheck := bit n 1, retry := bit n 0 } } ∧
     exec (.registerWrite fn 0 0x5000C 4 v) s = .next
       { s with power := { s.power with warn := clamp 80 100 (bits n 7 0) } } ∧
     exec (.registerWrite fn 0 0x400018 8 v) s = .next
       { s with mer := { s.mer with preset := v, presetWritten := true } } ∧
     exec (.registerWrite fn 0 0x400020 8 v) s = .next { s with mer := { s.mer with epochTai := v } } ∧
     exec (.registerWrite fn 0 0x200004 4 v) s = .next
       { s with survey := { s.survey with alarms := s.survey.alarms &&& ~~~(BitVec.ofNat 9 n) } } ∧
     exec (.registerWrite fn 0 0x50000 4 v) s = .next s ∧ exec (.registerWrite fn 0 0xE0000 4 v) s = .next s) ∧
    (∀ (port : Nat),
     let old := (s.port port).eth;
     let done := fun (r : Nat) => exec
           (.registerWrite fn 0 (0x60000 + 0x100 * port + r) (if r = 0 ∨ r = 0x18 then 4 else 8) v) s;
     s.mmioOk fn = true → isPf fn = true → port < 32 → (s.isEth port = false → done 0 = .next s ∧ done 0x10 = .next s) ∧
     (s.isEth port = true →
      done 0x10 = .next (s.modPort port fun y => { y with eth := { old with router := BitVec.ofNat 48 n } }) ∧
      done 0x18 = .next (s.modPort port fun y => { y with eth := { old with ip4 := w32 n } }) ∧
      done 0x20 = .next (s.modPort port fun y => { y with eth := { old with ip6lo := v } }) ∧
      done 0x28 = .next (s.modPort port fun y => { y with eth := { old with ip6hi := v } }) ∧
      (bits n 1 0 ≠ 3 →
       done 0 = .next (s.modPort port fun y => { y with
                                                 eth := { old with
                                                          maxFrame := clamp 1522 9238 (bits n 31 18),
                                                          pfcHonour := BitVec.ofNat 8 (bits n 17 10),
                                                          ptpDomain := BitVec.ofNat 8 (bits n 9 2),
                                                          ptpTransport := bits n 1 0 } })))) ∧
    (∀ (m j : Nat),
     let k := mbxKey fn m;
     let base := 0x10000 + 0x400 * m;
     let x := s.mbx k;
     s.mmioOk fn = true → m < mailboxesOf fn → j < 32 →
     (x.busy = true → exec (.registerWrite fn 0 base 8 v) s = .next (s.modMbx k fun y => { y with overrun := true }) ∧
      exec (.registerWrite fn 0 (base + 0x100 + 8 * j) 8 v) s = .next (s.modMbx k fun y => { y with overrun := true }))
       ∧
     (x.busy = false →
      exec (.registerWrite fn 0 base 8 v) s = .next (s.modMbx k fun y => { y with cmd := w64 (n % 2 ^ 56) }) ∧
      exec (.registerWrite fn 0 (base + 0x100 + 8 * j) 8 v) s = .next
        (s.modMbx k fun y => { y with data := y.data.set j v })) ∧
     (x.busy = true ∨ bits n 15 0 ≠ x.seq.toNat →
      exec (.registerWrite fn 0 (base + 8) 4 v) s = .next (s.modMbx k fun y => { y with overrun := true })) ∧
     (x.busy = false → bits n 15 0 = x.seq.toNat → izlisOpcode x.opcode = true →
      exec (.registerWrite fn 0 (base + 8) 4 v) s = .next (({ s with
                                                              fw := { s.fw with doorbells := s.fw.doorbells + 1 } } :
                                                              State).modMbx k fun y =>
                                                             { y with
                                                               busy := true, done := false, order := s.fw.doorbells,
                                                               doorbellClk := s.clk, doorbellMt := s.mt })) ∧
     (x.busy = true → exec (.registerWrite fn 0 base 4 v) s = .next (s.modMbx k fun y => { y with overrun := true }) ∧
      exec (.registerWrite fn 0 (base + 4) 4 v) s = .next (s.modMbx k fun y => { y with overrun := true }) ∧
      exec (.registerWrite fn 0 (base + 0x100 + 8 * j) 4 v) s = .next (s.modMbx k fun y => { y with overrun := true }))
       ∧
     exec (.registerWrite fn 0 (base + 0x18) 4 v) s = .next (s.modMbx k fun y =>
                                                               { y with
                                                                 restarted := y.restarted && !bit n 3,
                                                                 overrun := y.overrun && !bit n 2,
                                                                 done := y.done && !bit n 1 })) ∧
    (s.mmioOk fn = true → isPf fn = false → 0x50004 ≤ o → o < 0x100000 → o % 4 = 0 →
     exec (.registerWrite fn 0 o 4 v) s = .next s ∧ exec (.readClear fn 0 o 4) s = .next (s.emit (.readData fn 0))) ∧
    (∀ (k : Nat),
     let f := s.func fn;
     let e := { tblGetD f.msix k {} with masked := false };
     s.mmioOk fn = true → k < msixCount fn → (f.tdisp ≠ 0 → exec (.msixUnmask fn k) s = .next (s.resetFunction fn)) ∧
     (f.tdisp = 0 → (f.msixEnable = false ∨ f.functionMask = true ∨ f.pba = []) →
      exec (.msixUnmask fn k) s = .next (s.modFunc fn fun x => { x with msix := tblSet x.msix k e })) ∧
     (f.tdisp = 0 → f.msixEnable = true → f.functionMask = false → f.pba = [k] →
      exec (.msixUnmask fn k) s = .next ((s.modFunc fn fun x => { x with msix := tblSet x.msix k e, pba := [] }).hostSend
                                           (fnPort fn) { fn := fn, addr := e.addr, bytes := leBytes 4 e.data.toNat,
                                                         relaxed := false, msix := some k }))) ∧
    (∀ (w : Nat),
     s.mmioOk fn = true → (s.kbx.owner ≠ fn ∨ fn = 0) → exec (.registerWrite fn 14 4 w v) s = .next s ∧
     exec (.registerWrite fn 14 0x20 w v) s = .next s ∧
     exec (.registerWrite fn 15 0xC w v) s = .next (s.modFunc fn fun f => { f with priEnable := v.toNat != 0 }))

/-- R6, R9, R154, R180, R421: a read of a register answers with its value and clears its RC fields, a 64-bit one in one
access; a 32-bit read of the low half of a 64-bit register answers that half and latches the other, which the read of
the high half then answers; the counters of ports, accelerators, graticules, Reduction Units, sequencers and
PWR_GRANTS are zero after their read and read zero the next time; BAR2 reads zero; the capability space shows ATS's
and PASID's values under the numbers of log entry 13; a locked VF in RUN refuses a request that does not come through
IDE. -/
def Obligations.RegisterReadsAnswer : Prop :=
  ∀ (s : State) (fn o v : Nat),
    (s.mmioOk fn = true → o % 4 = 0 → s.reg fn o = some (4, v) →
     exec (.readClear fn 0 o 4) s = .next ((s.clearReg fn o).emit (.readData fn (w64 v))) ∧
     exec (.lowHalfRead fn 0 o) s = exec (.readClear fn 0 o 4) s) ∧
    (let u := s.modFunc fn fun f => { f with highLatch := tblSet f.highLatch (o + 4) (w32 (v / 2 ^ 32)) };
     s.mmioOk fn = true → o % 8 = 0 → s.reg fn o = some (8, v) →
     exec (.readClear fn 0 o 8) s = .next ((s.clearReg fn o).emit (.readData fn (w64 v))) ∧
     exec (.lowHalfRead fn 0 o) s = .next ((u.clearReg fn o).emit (.readData fn (w64 (v % 2 ^ 32)))) ∧
     (∀ h, s.reg fn (o + 4) = none → tblGet (s.func fn).highLatch (o + 4) = some h →
      exec (.readClear fn 0 (o + 4) 4) s = .next
        ((s.modFunc fn fun f => { f with highLatch := tblErase f.highLatch (o + 4) }).emit (.readData fn (w64 h.toNat))))) ∧
    (∀ (port g k : Nat),
     s.mmioOk fn = true → isPf fn = true → port < 32 → g < 8 → k < 64 →
     s.reg fn 0x50018 = some (8, at' 32 s.power.grants.toNat + at' 16 s.power.waits + s.power.backstops) ∧
     s.clearReg fn 0x50018 = { s with power := { s.power with grants := 0, waits := 0, backstops := 0 } } ∧
     s.reg fn (0xA0108 + 0x20 * port) = some (8,
                                              at' 48 (s.port port).uncorrectable + at' 32 (s.port port).crcErrors + at'
                                                16 (s.port port).aborted + (s.port port).downEvents) ∧
     s.clearReg fn (0xA0108 + 0x20 * port) = s.modPort port
       (fun x => { x with uncorrectable := 0, crcErrors := 0, aborted := 0, downEvents := 0 }) ∧
     s.clearReg fn (0xA0110 + 0x20 * port) = s.modPort port
       (fun x => { x with deflected := 0, hopLimit := 0, noRoute := 0 }) ∧
     s.clearReg fn (0xC0108 + 0x10 * g) = s.modGrat g (fun y => { y with
                                                                  jobs := 0, checkFailed := 0, retryOk := 0,
                                                                  skipped := 0, invalidCount := 0, overflowCount := 0 })
       ∧
     s.clearReg fn (0xC0208 + 0x10 * g) = s.modRed g
       (fun y => { y with reductions := 0, invalidCount := 0, overflowCount := 0 }) ∧
     s.clearReg fn (0xE0008 + 0x10 * k) = s.modSeq k (fun x => { x with ended := 0, failed := 0, timeouts := 0 }) ∧
     s.clearReg fn (0xA0608 + 0x10 * g) = s.modAccel g (fun x => { x with rejects := 0 }) ∧
     s.clearReg fn 0x18 = s.modHost (fnPort fn) (fun h => { h with retrains := 0 }) ∧ s.clearReg fn 0x50008 = s ∧
     s.clearReg fn 0x400000 = s) ∧
    (∀ (m j : Nat),
     m < mailboxesOf fn → j < 32 →
     (∃ w, s.reg fn (0x10000 + 0x400 * m + 0x18) = some (4, w) ∧ bit w 0 = (s.mbx (mbxKey fn m)).busy ∧
      bit w 1 = (s.mbx (mbxKey fn m)).done ∧ bit w 4 = s.fw.alive) ∧
     s.reg fn (0x10000 + 0x400 * m + 0x10) = some (8, (s.mbx (mbxKey fn m)).resp.toNat) ∧
     s.reg fn (0x10000 + 0x400 * m + 8) = some (4, 0) ∧
     s.reg fn (0x10000 + 0x400 * m + 0x100 + 8 * j) = some
       (8, if (s.mbx (mbxKey fn m)).busy then 0 else (s.mbx (mbxKey fn m)).arg j)) ∧
    (∀ (w : Nat),
     s.mmioOk fn = true → isPf fn = true → exec (.readClear fn 2 o w) s = .next (s.emit (.readData fn 0)) ∧
     exec (.lowHalfRead fn 2 o) s = .next (s.emit (.readData fn 0)) ∧
     exec (.readClear fn 15 0x104 4) s = .next (s.emit (.readData fn 1)) ∧
     exec (.readClear fn 15 0x108 4) s = .next (s.emit (.readData fn 1)) ∧
     exec (.readClear fn 15 0x10C 4) s = .next (s.emit (.readData fn 20)) ∧
     exec (.readClear fn 15 0x118 4) s = .next (s.emit (.readData fn 512)) ∧
     exec (.readClear fn 14 0x20 4) s = .next (s.emit (.readData fn 0))) ∧
    (s.mmioOk fn = true → s.inRun fn = true →
     exec (.readClear fn 32 o 4) s = .next (s.emit (.barData (fnPort fn) false [])) ∧
     exec (.lowHalfRead fn 32 o) s = .next (s.emit (.barData (fnPort fn) false [])) ∧
     exec (.registerWrite fn 32 o 4 (w64 v)) s = .next s)
end

