-- ==== Sys2Proof/Laws/Crypto.lean ====
section
/-!
SUPPORT. Laws/Crypto.lean: AES-256 answers whole blocks, counter mode undoes itself, and a sealed KEY_CMD opens to its
plaintext.
-/

namespace Sys2Proof.Machine

/-! ## Lengths -/

@[simp] theorem xorBytes_length (a b : List Byte) : (xorBytes a b).length = min a.length b.length := by
  simp [xorBytes]

@[simp] theorem slice_length (l : List Byte) (off n : Nat) : (slice l off n).length = min n (l.length - off) := by
  simp [slice]

@[simp] theorem shiftRows_length (back : Bool) (b : List Byte) : (shiftRows back b).length = 16 := by simp [shiftRows]

/-- A word of the key schedule has 4 bytes where the words before it do. -/
theorem nextKeyWord_length {i : Nat} {ws : List (List Byte)} (h : ∀ w ∈ ws, w.length = 4) (n : 8 ≤ ws.length) :
    (nextKeyWord i ws).length = 4 := by
  have back : (ws.getD 7 []).length = 4 := by
    rw [List.getD_eq_getElem?_getD, List.getElem?_eq_getElem (by omega)]
    exact h _ (List.getElem_mem _)
  match ws with
  | [] => simp at n
  | p :: r =>
    have hp : p.length = 4 := h p (by simp)
    simp only [nextKeyWord, List.headD_cons, xorBytes_length, back]
    have four : ∀ l : List Byte, l.length = 4 → min 4 l.length = 4 := fun l h => by omega
    apply four
    split
    · match p, hp with
      | [a, b, c, d], _ => simp
    · split <;> simp [hp]

/-- The key schedule keeps words of 4 bytes, each step adding one. -/
theorem keyWords_length (l : List Nat) (ws : List (List Byte)) (h : ∀ w ∈ ws, w.length = 4) (n : 8 ≤ ws.length) :
    (∀ w ∈ l.foldl (fun ws j => nextKeyWord (j + 8) ws :: ws) ws, w.length = 4) ∧
      (l.foldl (fun ws j => nextKeyWord (j + 8) ws :: ws) ws).length = ws.length + l.length := by
  induction l generalizing ws with
  | nil => exact ⟨h, rfl⟩
  | cons j l ih =>
    have g : ∀ w ∈ nextKeyWord (j + 8) ws :: ws, w.length = 4 := by
      intro w hw
      rcases List.mem_cons.mp hw with rfl | hw
      · exact nextKeyWord_length h n
      · exact h w hw
    have := ih (nextKeyWord (j + 8) ws :: ws) g (by simp; omega)
    refine ⟨this.1, ?_⟩
    simp only [List.foldl_cons, List.length_cons] at this ⊢
    omega

/-- Four words of 4 bytes are a block. -/
theorem flatten_length {l : List (List Byte)} (h : ∀ w ∈ l, w.length = 4) : l.flatten.length = 4 * l.length := by
  induction l with
  | nil => rfl
  | cons w l ih =>
    simp only [List.flatten_cons, List.length_append, List.length_cons, h w (by simp), ih fun w hw => h w (by simp [hw])]
    omega

/-- The last round key of a 32-B key has 16 bytes. -/
theorem roundKeys_last {key : List Byte} (hk : key.length = 32) : ((roundKeys key).getD 14 []).length = 16 := by
  have hf : ∀ w ∈ ((List.range 8).map fun i => slice key (4 * i) 4).reverse, w.length = 4 := by
    intro w hw
    simp only [List.mem_reverse, List.mem_map, List.mem_range] at hw
    obtain ⟨i, hi, rfl⟩ := hw
    simp only [slice_length, hk]
    omega
  have hw := keyWords_length (List.range 52) _ hf (by simp)
  simp only [List.length_reverse, List.length_map, List.length_range] at hw
  rw [List.getD_eq_getElem?_getD, List.getElem?_eq_getElem (by simp [roundKeys])]
  simp only [roundKeys, List.getElem_map, List.getElem_range, roundKeys.slice', Option.getD_some]
  rw [flatten_length]
  · simp only [List.length_take, List.length_drop, List.length_reverse, hw.2]
    omega
  · intro w h
    exact hw.1 w (List.mem_reverse.mp (List.mem_of_mem_drop (List.mem_of_mem_take h)))

/-- AES-256 answers a whole block. -/
theorem aesEncrypt_length {key : List Byte} (hk : key.length = 32) (block : List Byte) :
    (aesEncrypt key block).length = 16 := by
  simp only [aesEncrypt, xorBytes_length, shiftRows_length, roundKeys_last hk, Nat.min_self]

theorem leBytes_length (n v : Nat) : (leBytes n v).length = n := by
  induction n generalizing v with
  | zero => rfl
  | succ n ih => simp [leBytes, ih]

/-- A tag has 16 bytes. -/
theorem gcmTag_length {key : List Byte} (hk : key.length = 32) (nonce aad c : List Byte) :
    (gcmTag key nonce aad c).length = 16 := by
  simp [gcmTag, aesEncrypt_length hk, beFixed, leBytes_length]

/-! ## Counter mode undoes itself -/

theorem xorBytes_cancel (a b : List Byte) (h : a.length ≤ b.length) : xorBytes (xorBytes a b) b = a := by
  induction a generalizing b with
  | nil => simp [xorBytes]
  | cons x a ih =>
    match b with
    | [] => simp at h
    | y :: b =>
      have := ih b (by simpa using h)
      simp only [xorBytes, List.zipWith_cons_cons, List.cons.injEq] at this ⊢
      exact ⟨by rw [BitVec.xor_assoc, BitVec.xor_self, BitVec.xor_zero], this⟩

/-- Blocks combined with a key stream of 16-B blocks. -/
def streamed (k : Nat → List Byte) (n : Nat) (l : List Byte) : List Byte :=
  (List.range n).flatMap fun i => xorBytes (slice l (16 * i) 16) (k i)

theorem streamed_succ (k : Nat → List Byte) (n : Nat) (l : List Byte) :
    streamed k (n + 1) l = xorBytes (l.take 16) (k 0) ++ streamed (fun i => k (i + 1)) n (l.drop 16) := by
  simp only [streamed, List.range_succ_eq_map, List.flatMap_cons, List.flatMap_map, slice, Nat.mul_zero, List.drop_zero,
    List.drop_drop]
  congr 1
  congr 1
  funext i
  rw [show 16 * (i + 1) = 16 + 16 * i by omega]

/-- Combining twice with one key stream changes nothing. -/
theorem streamed_twice (n : Nat) (k : Nat → List Byte) (hk : ∀ i, (k i).length = 16) (l : List Byte) (h : l.length ≤ 16 * n) :
    (streamed k n l).length = l.length ∧ streamed k n (streamed k n l) = l := by
  induction n generalizing k l with
  | zero =>
    have : l = [] := by simpa using h
    simp [streamed, this]
  | succ n ih =>
    have := ih (fun i => k (i + 1)) (fun i => hk _) (l.drop 16) (by simp; omega)
    simp only [List.length_drop] at this
    refine ⟨by simp only [streamed_succ, List.length_append, xorBytes_length, List.length_take, hk, this.1]; omega, ?_⟩
    rw [streamed_succ k n l, streamed_succ]
    have hd : (xorBytes (l.take 16) (k 0)).length = min 16 l.length := by simp [hk]
    by_cases hl : 16 ≤ l.length
    · rw [List.take_append_of_le_length (by omega), List.take_of_length_le (by omega), List.drop_append,
        List.drop_eq_nil_of_le (by omega), hd, show 16 - min 16 l.length = 0 by omega, List.drop_zero, List.nil_append, this.2,
        xorBytes_cancel _ _ (by simp only [hk, List.length_take]; omega)]
      exact List.take_append_drop 16 l
    · have hz : l.drop 16 = [] := List.drop_eq_nil_of_le (by omega)
      have he : streamed (fun i => k (i + 1)) n (l.drop 16) = [] := by
        apply List.eq_nil_of_length_eq_zero
        rw [this.1]
        omega
      rw [he, List.append_nil, List.take_of_length_le (by omega), List.drop_eq_nil_of_le (by omega),
        xorBytes_cancel _ _ (by simp only [hk, List.length_take]; omega)]
      rw [hz] at he
      rw [he, List.append_nil]
      exact List.take_of_length_le (by omega)

theorem gcmCipher_twice {key : List Byte} (hk : key.length = 32) (nonce l : List Byte) :
    (gcmCipher key nonce l).length = l.length ∧ gcmCipher key nonce (gcmCipher key nonce l) = l := by
  have := streamed_twice ((l.length + 15) / 16) (fun i => aesEncrypt key (nonce ++ beFixed 4 (i + 2)))
    (fun i => aesEncrypt_length hk _) l (by omega)
  have hc : gcmCipher key nonce l = streamed (fun i => aesEncrypt key (nonce ++ beFixed 4 (i + 2))) ((l.length + 15) / 16) l := rfl
  refine ⟨hc ▸ this.1, ?_⟩
  rw [gcmCipher, hc, this.1]
  exact this.2

/-! ## KEY_CMD -/

/-- What opening a KEY_CMD makes of its header, ciphertext and tag. -/
theorem openCmd_parts (x : KeySession) (head c tag : List Byte) (hh : head.length = 16) (ht : tag.length = 16) :
    x.openCmd (head ++ (c ++ tag)) =
      if tag == gcmTag x.commandKey (leBytes 12 (field head 8 4)) head c then
        some (gcmCipher x.commandKey (leBytes 12 (field head 8 4)) c) else none := by
  have hn : (head ++ (c ++ tag)).length - 32 = c.length := by
    simp only [List.length_append, hh, ht]
    omega
  have hf : field (head ++ (c ++ tag)) 8 4 = field head 8 4 := by
    simp only [field, slice]
    rw [List.drop_append_of_le_length (by omega), List.take_append_of_le_length (by simp [hh])]
  have h1 : (head ++ (c ++ tag)).take 16 = head := by
    rw [List.take_append_of_le_length (by omega), List.take_of_length_le (by omega)]
  have h2 : slice (head ++ (c ++ tag)) 16 c.length = c := by
    simp only [slice]
    rw [List.drop_append, List.drop_eq_nil_of_le (by omega), hh, Nat.sub_self, List.drop_zero, List.nil_append,
      List.take_append_of_le_length (by omega), List.take_of_length_le (by omega)]
  have h3 : (head ++ (c ++ tag)).drop (16 + c.length) = tag := by
    rw [← List.append_assoc, List.drop_append, List.drop_eq_nil_of_le (by simp [hh]), List.length_append, hh]
    simp
  have h4 : 32 ≤ (head ++ (c ++ tag)).length := by
    simp only [List.length_append, hh, ht]
    omega
  simp only [KeySession.openCmd, hn, hf, h1, h2, h3, h4, decide_true, Bool.true_and]

/-- A KEY_CMD sealed under the session's command key opens to its plaintext (R489). -/
theorem openCmd_seal (x : KeySession) (hk : x.commandKey.length = 32) (head plain : List Byte) (hh : head.length = 16) :
    x.openCmd (head ++ gcmSeal x.commandKey (leBytes 12 (field head 8 4)) head plain) = some plain := by
  rw [gcmSeal, openCmd_parts x head _ _ hh (gcmTag_length hk _ _ _), (gcmCipher_twice hk _ plain).2]
  simp

/-- The tag does not cover the trailer. -/
theorem Packet.tag_trailer (p : Packet) (l key : List Byte) : Packet.tag { p with trailer := l } key = p.tag key := by
  cases p; rfl

/-- A sealed packet carries its own tag (R225). -/
theorem Packet.seal_tag (p : Packet) (key : List Byte) : (p.seal key).trailer = (p.seal key).tag key :=
  (Packet.tag_trailer p (p.tag key) key).symm

end Sys2Proof.Machine
end

