-- ==== Sys2Proof/Laws/Still.lean ====
section
/-!
SUPPORT. Laws/Still.lean: what leaves the queue, the engine clock, the settings, the transmit settings, the keybox, the
SPDM sessions, the charts and the kernels alone: one lemma for each operation that touches none of them.
-/

namespace Sys2Proof.Machine

@[simp] theorem State.still_mk (s : State) (free out mer funcs mailboxes hosts parts contexts queues rings regions placements mem tiles quads
    ports accels grats reds seqs trigs qps controllers fw power survey recover) :
    State.still ⟨s.pending, s.clk, free, out, s.cfg, s.txs, mer, funcs, mailboxes, hosts, parts, contexts, queues,
      rings, regions, placements, mem, tiles, quads, ports, s.charts, accels, grats, reds, seqs, s.kernels, trigs, qps,
      controllers, fw, s.kbx, s.spdm, power, survey, recover⟩ = s.still := rfl

@[simp] theorem still_ite (c : Prop) [Decidable c] (a b : State) :
    (if c then a else b).still = if c then a.still else b.still := apply_ite State.still c a b

@[simp] theorem fst_ite {α β : Type} (c : Prop) [Decidable c] (a b : α × β) :
    (if c then a else b).1 = if c then a.1 else b.1 := apply_ite Prod.fst c a b

@[simp] theorem snd_ite {α β : Type} (c : Prop) [Decidable c] (a b : α × β) :
    (if c then a else b).2 = if c then a.2 else b.2 := apply_ite Prod.snd c a b

@[simp] theorem still_foldl {α : Type} (g : State → α → State) (l : List α) (s : State)
    (h : ∀ s a, (g s a).still = s.still) : (l.foldl g s).still = s.still := by
  induction l generalizing s with
  | nil => rfl
  | cons a l ih => exact (ih (g s a)).trans (h s a)

@[simp] theorem stateAfter_next (s t : State) : stateAfter s (.next t) = t := rfl

@[simp] theorem stateAfter_ite (c : Prop) [Decidable c] (s : State) (a b : Host.Outcome State Fault Refusal) :
    stateAfter s (if c then a else b) = if c then stateAfter s a else stateAfter s b := apply_ite (stateAfter s) c a b

@[simp] theorem Answer.state_reply (s st d w) : (Answer.reply s st d w).state = s := rfl

@[simp] theorem Answer.state_stored (s w) : (Answer.stored s w).state = s := rfl

@[simp] theorem Answer.state_hold (s w) : (Answer.hold s w).state = s := rfl

@[simp] theorem Answer.state_ite (c : Prop) [Decidable c] (a b : Answer) :
    (if c then a else b).state = if c then a.state else b.state := apply_ite Answer.state c a b

@[simp] theorem Inner.state_ite (c : Prop) [Decidable c] (a b : Inner) :
    (if c then a else b).state = if c then a.state else b.state := apply_ite Inner.state c a b

@[simp] theorem okWith_state (s w) : (okWith s w).state = s := rfl

@[simp] theorem failWith_state (s st d) : (failWith s st d).state = s := rfl

/-- What every state in a result keeps. -/
def Got.Keeps (v : Still) : Got → Prop
  | .bytes _ => True
  | .wait t => t.still = v
  | .fail t _ => t.still = v

def Commit.Keeps (v : Still) : Commit → Prop
  | .done t => t.still = v
  | .wait t => t.still = v
  | .fail t _ => t.still = v

def Land.Keeps (v : Still) : Land → Prop
  | .done t => t.still = v
  | .sent t => t.still = v
  | .wait t => t.still = v
  | .retry t _ => t.still = v
  | .fail t _ => t.still = v

def Stream.Keeps (v : Still) : Stream → Prop
  | .done t => t.still = v
  | .wait t => t.still = v
  | .check t _ => t.still = v
  | .fail t _ => t.still = v

@[simp] theorem Got.keeps_bytes (v l) : (Got.bytes l).Keeps v = True := rfl

@[simp] theorem Got.keeps_wait (v t) : (Got.wait t).Keeps v = (t.still = v) := rfl

@[simp] theorem Got.keeps_fail (v t n) : (Got.fail t n).Keeps v = (t.still = v) := rfl

@[simp] theorem Commit.keeps_done (v t) : (Commit.done t).Keeps v = (t.still = v) := rfl

@[simp] theorem Commit.keeps_wait (v t) : (Commit.wait t).Keeps v = (t.still = v) := rfl

@[simp] theorem Commit.keeps_fail (v t n) : (Commit.fail t n).Keeps v = (t.still = v) := rfl

@[simp] theorem Land.keeps_done (v t) : (Land.done t).Keeps v = (t.still = v) := rfl

@[simp] theorem Land.keeps_sent (v t) : (Land.sent t).Keeps v = (t.still = v) := rfl

@[simp] theorem Land.keeps_wait (v t) : (Land.wait t).Keeps v = (t.still = v) := rfl

@[simp] theorem Land.keeps_retry (v t n) : (Land.retry t n).Keeps v = (t.still = v) := rfl

@[simp] theorem Land.keeps_fail (v t n) : (Land.fail t n).Keeps v = (t.still = v) := rfl

@[simp] theorem Stream.keeps_done (v t) : (Stream.done t).Keeps v = (t.still = v) := rfl

@[simp] theorem Stream.keeps_wait (v t) : (Stream.wait t).Keeps v = (t.still = v) := rfl

@[simp] theorem Stream.keeps_check (v t n) : (Stream.check t n).Keeps v = (t.still = v) := rfl

@[simp] theorem Stream.keeps_fail (v t n) : (Stream.fail t n).Keeps v = (t.still = v) := rfl

@[simp] theorem State.modQuad_still (s : State) (q : Nat) (g : Quadrant → Quadrant) :
    (State.modQuad s q g).still = s.still := by
  simp [State.modQuad]

@[simp] theorem State.modPower_still (s : State) (g : Power → Power) :
    (State.modPower s g).still = s.still := by
  simp [State.modPower]

@[simp] theorem State.askLeave_still (s : State) (u : LeaveFor) :
    (State.askLeave s u).still = s.still := by
  simp [State.askLeave]

@[simp] theorem State.askEngine_still (s : Machine.State) (q : Nat) (opening : Bool) :
    (State.askEngine s q opening).still = s.still := by
  simp [State.askEngine]

@[simp] theorem State.draw_still (s : State) :
    (State.draw s).2.still = s.still := by
  simp [State.draw]

@[simp] theorem State.count_still (s : State) (id : Nat) (n : Nat) :
    (State.count s id n).still = s.still := by
  simp [State.count]

@[simp] theorem State.countIn_still (s : Machine.State) (scope : Nat) (id : Nat) (n : Nat) :
    (State.countIn s scope id n).still = s.still := by
  simp [State.countIn]

@[simp] theorem State.modPart_still (s : State) (p : Nat) (g : Partition → Partition) :
    (State.modPart s p g).still = s.still := by
  simp [State.modPart]

@[simp] theorem State.emit_still (s : State) (o : Out) :
    (State.emit s o).still = s.still := by
  simp [State.emit]

@[simp] theorem State.log_still (s : State) (r : LogRecord) (w : W64) : (State.log s r w).still = s.still := by
  unfold State.log; cases r.partition <;> (simp only []; (repeat' split) <;> simp)

@[simp] theorem State.alarm_still (s : State) (i : Nat) (p : Option Nat) :
    (State.alarm s i p).still = s.still := by
  unfold State.alarm; (repeat' split) <;> simp

@[simp] theorem State.alarmRecord_still (s : State) (i : Nat) (r : LogRecord) (p : Option Nat) :
    (State.alarmRecord s i r p).still = s.still := by
  simp [State.alarmRecord]

@[simp] theorem State.warnKeys_still (s : State) (q : Nat) :
    (State.warnKeys s q).still = s.still := by
  simp [State.warnKeys]

@[simp] theorem State.takeCounter_still (s : State) (q : Nat) :
    (State.takeCounter s q).1.still = s.still := by
  simp [State.takeCounter]

theorem State.takeCounter_pair (s : State) (q : Nat) {t' : State} {b' : BitVec 48}
    (h : State.takeCounter s q = (t', b')) : t'.still = s.still := by
  have k := State.takeCounter_still s q; rw [h] at k; exact k

@[simp] theorem State.modRec_still (s : State) (g : Recover → Recover) :
    (State.modRec s g).still = s.still := by
  simp [State.modRec]

@[simp] theorem State.takePath_still (s : Machine.State) (cls : Nat) (n : Nat) (path : List Nat) :
    (State.takePath s cls n path).still = s.still := by
  simp [State.takePath]

@[simp] theorem State.cross_still (s : Machine.State) (a : Nat) (b : Nat) (cls : Nat) (n : Nat) :
    (State.cross s a b cls n).still = s.still := by
  simp [State.cross]

@[simp] theorem State.sendOn_still (s : State) (port : Option Nat) (pkt : Packet) :
    (State.sendOn s port pkt).still = s.still := by
  unfold State.sendOn; (repeat' split) <;> simp

@[simp] theorem State.pickOutput_still (s : State) (e : ChartEntry) :
    (State.pickOutput s e).1.still = s.still := by
  simp [State.pickOutput]

theorem State.pickOutput_pair (s : State) (e : ChartEntry) {t' : State} {b' : Option Nat}
    (h : State.pickOutput s e = (t', b')) : t'.still = s.still := by
  have k := State.pickOutput_still s e; rw [h] at k; exact k

@[simp] theorem State.useEngine_still (s : Machine.State) (q : Nat) (opening : Bool) (n : Nat) :
    (State.useEngine s q opening n).still = s.still := by
  simp [State.useEngine]

@[simp] theorem State.inject_still (s : State) (q : Nat) (pkt : Packet) (job : Option Nat) (r85 : Bool) :
    (State.inject s q pkt job r85).still = s.still := by
  unfold State.inject; (repeat' split) <;> (try simp) <;> grind [State.modQuad_still, State.askEngine_still, State.takeCounter_still, State.sendOn_still, State.pickOutput_still, State.useEngine_still]

@[simp] theorem State.reply_still (s : State) (q : Nat) (pkt : Packet) (op : Nat) (status : Nat) (retry : Nat) (noRecord : Bool) (r : Option Record) (marked : Bool) (r85 : Bool) :
    (State.reply s q pkt op status retry noRecord r marked r85).still = s.still := by
  simp [State.reply]

@[simp] theorem State.modRecord_still (s : State) (q : Nat) (k : MsgKey) (g : Record → Record) :
    (State.modRecord s q k g).still = s.still := by
  simp [State.modRecord]

@[simp] theorem State.replied_still (s : Machine.State) (q : Nat) (k : MsgKey) (state : RecState) :
    (State.replied s q k state).still = s.still := by
  simp [State.replied]

@[simp] theorem State.stateReply_still (s : State) (q : Nat) (pkt : Packet) (marked : Bool) (r : Record) :
    (State.stateReply s q pkt marked r).still = s.still := by
  unfold State.stateReply; (repeat' split) <;> simp

@[simp] theorem State.repeatReply_still (s : State) (q : Nat) (pkt : Packet) (marked : Bool) :
    (State.repeatReply s q pkt marked).still = s.still := by
  unfold State.repeatReply; (repeat' split) <;> simp

@[simp] theorem State.completeRecord_still (s : State) (q : Nat) (pkt : Packet) (marked : Bool) :
    (State.completeRecord s q pkt marked).still = s.still := by
  unfold State.completeRecord; simp only []; (repeat' split) <;> simp

@[simp] theorem State.freePool_still (s : State) (q : Nat) (c : Nat) (n : Nat) :
    (State.freePool s q c n).still = s.still := by
  simp [State.freePool]

@[simp] theorem State.freeFlag_still (s : State) (q : Nat) (r : Record) :
    (State.freeFlag s q r).still = s.still := by
  unfold State.freeFlag; (repeat' split) <;> simp

@[simp] theorem State.refuse_still (s : State) (q : Nat) (pkt : Packet) (retry : Nat) (noRecord : Bool) (marked : Bool) :
    (State.refuse s q pkt retry noRecord marked).still = s.still := by
  simp [State.refuse]

@[simp] theorem State.modHost_still (s : State) (p : Nat) (g : HostPort → HostPort) :
    (State.modHost s p g).still = s.still := by
  simp [State.modHost]

@[simp] theorem State.touchPages_still (s : State) (r : Region) (addr : Nat) (n : Nat) :
    (State.touchPages s r addr n).still = s.still := by
  simp [State.touchPages]

@[simp] theorem State.walk_still (s : State) (p : Nat) (w : Walk) :
    (State.walk s p w).still = s.still := by
  simp [State.walk]

@[simp] theorem State.serveMisses_still (s : State) (x1 : Nat) :
    (State.serveMisses s x1).still = s.still := by
  fun_induction State.serveMisses s x1 <;> simp_all

@[simp] theorem State.issueWalks_still (s : State) :
    (State.issueWalks s).still = s.still := by
  simp [State.issueWalks]

@[simp] theorem State.missPages_still (s : Machine.State) (p : Nat) (rq : Nat) (pasid : Option Nat) (pages : List Nat) (write : Bool) (tiles : List Nat) :
    (State.missPages s p rq pasid pages write tiles).still = s.still := by
  simp [State.missPages]

theorem State.sendGroup_some (s : State) (p : Nat) (rq : Nat) (pasid : Option Nat) (l : List (Nat × Bool)) {t' : State} {b' : Nat}
    (h : State.sendGroup s p rq pasid l = some (t', b')) : t'.still = s.still := by
  unfold State.sendGroup at h; (repeat' split at h) <;> (first | (cases h; simp; done) | (simp at h; done) | grind [State.modHost_still, State.emit_still])

@[simp] theorem State.requestPages_still (s : State) (p : Nat) (rq : Nat) (pasid : Option Nat) (pages : List Nat) (write : Bool) (tiles : List Nat) :
    (State.requestPages s p rq pasid pages write tiles).still = s.still := by
  unfold State.requestPages; simp only [stateAfter_next]; (repeat' split) <;> (try simp) <;> grind [→ State.sendGroup_some, State.modHost_still]

theorem State.hostPages_keeps (s : State) (r : Region) (a n : Nat) (w : Bool) {l : Land}
    (h : s.hostPages r a n w = some l) : l.Keeps s.still := by
  unfold State.hostPages at h; simp only [] at h; (repeat' split at h) <;> (try simp at h) <;> (try subst h) <;> (try simp) <;> grind [Land.Keeps, State.walk_still]

theorem State.hostPages_retry (s : State) (r : Region) (a n : Nat) (w : Bool) {t : State} {k : Nat}
    (h : s.hostPages r a n w = some (.retry t k)) : t.still = s.still := by
  simpa using State.hostPages_keeps s r a n w h

theorem State.hostPages_fail (s : State) (r : Region) (a n : Nat) (w : Bool) {t : State} {k : Nat}
    (h : s.hostPages r a n w = some (.fail t k)) : t.still = s.still := by
  simpa using State.hostPages_keeps s r a n w h

theorem State.hostPages_wait (s : State) (r : Region) (a n : Nat) (w : Bool) {t : State}
    (h : s.hostPages r a n w = some (.wait t)) : t.still = s.still := by
  simpa using State.hostPages_keeps s r a n w h

theorem State.toHub_some (s : State) (q : Nat) (cls : Nat) (n : Nat) {t : State}
    (h : State.toHub s q cls n = some t) : t.still = s.still := by
  unfold State.toHub at h; grind [State.takePath_still]

@[simp] theorem State.askLines_still (s : State) (l : List (Nat × Nat)) (owned : Bool) :
    (State.askLines s l owned).still = s.still := by
  simp [State.askLines]

theorem State.toPages_some (s : State) (q cls p off n : Nat) {t : State} (h : s.toPages q cls p off n = some t) :
    t.still = s.still := by
  unfold State.toPages at h
  have fold : ∀ (l : List Nat) (f : State → Nat → Option State) (e : Option State),
      (∀ u a t, u.still = s.still → f u a = some t → t.still = s.still) → (∀ t, e = some t → t.still = s.still) →
      ∀ t, l.foldl (fun o a => o.bind fun u => f u a) e = some t → t.still = s.still := by
    intro l; induction l with
    | nil => intro f e _ he; exact he
    | cons a l ih =>
      intro f e hf he
      refine ih f _ hf fun t ht => ?_
      cases e with
      | none => simp at ht
      | some u => exact hf u a t (he u rfl) (by simpa using ht)
  refine fold _ _ _ ?_ ?_ t h
  · intro u a t hu ht
    simp only [] at ht
    split at ht
    · cases ht; simpa using hu
    · cases ht
  · intro t ht; cases ht; rfl

@[simp] theorem State.hostSend_still (s : State) (port : Nat) (w : HostWrite) :
    (State.hostSend s port w).still = s.still := by
  simp [State.hostSend]

@[simp] theorem State.landHost_still (s : Machine.State) (c : Machine.Context) (a : Nat) (b : List Byte) :
    (State.landHost s c a b).still = s.still := by
  simp [State.landHost]

@[simp] theorem State.modAccel_still (s : State) (a : Nat) (g : Accel → Accel) :
    (State.modAccel s a g).still = s.still := by
  simp [State.modAccel]

@[simp] theorem State.attSendOne_still (s : State) (a : Nat) (write : Bool) :
    (State.attSendOne s a write).still = s.still := by
  unfold State.attSendOne; simp only []; (repeat' split) <;> simp

@[simp] theorem State.attPump_still (s : State) (a n : Nat) : (State.attPump s a n).still = s.still := by
  induction n generalizing s with
  | zero => rfl
  | succ n ih => simp [State.attPump, ih]

@[simp] theorem State.attRequest_still (s : State) (a : Nat) (purpose : AttUse) (write : Bool) (offset : Nat) (data : List Byte) (length : Nat) (partition : Nat) :
    (State.attRequest s a purpose write offset data length partition).still = s.still := by
  simp [State.attRequest]

@[simp] theorem State.modMem_still (s : State) (g : Memory → Memory) :
    (State.modMem s g).still = s.still := by
  simp [State.modMem]

@[simp] theorem State.useChannels_still (s : Machine.State) (p : Nat) (off : Nat) (n : Nat) :
    (State.useChannels s p off n).still = s.still := by
  simp [State.useChannels]

@[simp] theorem State.foldUpsets_still (s : Machine.State) (a : Nat) (n : Nat) :
    (State.foldUpsets s a n).still = s.still := by
  unfold State.foldUpsets; (repeat' (first | rfl | split | (refine (still_foldl _ _ _ ?_).trans ?_; intros) | simp))

@[simp] theorem State.freshFrames_still (s : Machine.State) (p : Nat) (off : Nat) (n : Nat) :
    (State.freshFrames s p off n).still = s.still := by
  simp [State.freshFrames]

@[simp] theorem State.modPlace_still (s : State) (i : Nat) (g : Placement → Placement) :
    (State.modPlace s i g).still = s.still := by
  simp [State.modPlace]

@[simp] theorem State.markSpace_still (s : Machine.State) (p : Nat) (off : Nat) (n : Nat) :
    (State.markSpace s p off n).still = s.still := by
  unfold State.markSpace; (repeat' split) <;> simp

@[simp] theorem State.writeSpace_still (s : State) (p : Nat) (off : Nat) (b : List Byte) :
    (State.writeSpace s p off b).still = s.still := by
  unfold State.writeSpace; simp only []; (repeat' split) <;> simp

@[simp] theorem State.landBytes_keeps (s : State) (q copy : Nat) (r : Region) (off : Nat) (b : List Byte) (cls : Nat) :
    (State.landBytes s q copy r off b cls).Keeps s.still := by
  unfold State.landBytes
  split
  · simp only []
    split
    · simp
    · split
      · simp
      · split
        · rename_i h; simp [State.toPages_some _ _ _ _ _ _ h]
        · simp
  · split
    · simp
    · simp only []
      split
      · rename_i h; exact State.hostPages_keeps _ _ _ _ _ h
      · split
        · simp
        · split
          · rename_i h; simp [State.toHub_some _ _ _ _ h]
          · simp

theorem State.landBytes_done (s : State) (q copy : Nat) (r : Region) (off : Nat) (b : List Byte) (cls : Nat) {t : State}
    (h : State.landBytes s q copy r off b cls = .done t) : t.still = s.still := by
  have k := State.landBytes_keeps s q copy r off b cls; rw [h] at k; exact k

theorem State.landBytes_sent (s : State) (q copy : Nat) (r : Region) (off : Nat) (b : List Byte) (cls : Nat) {t : State}
    (h : State.landBytes s q copy r off b cls = .sent t) : t.still = s.still := by
  have k := State.landBytes_keeps s q copy r off b cls; rw [h] at k; exact k

theorem State.landBytes_wait (s : State) (q copy : Nat) (r : Region) (off : Nat) (b : List Byte) (cls : Nat) {t : State}
    (h : State.landBytes s q copy r off b cls = .wait t) : t.still = s.still := by
  have k := State.landBytes_keeps s q copy r off b cls; rw [h] at k; exact k

theorem State.landBytes_retry (s : State) (q copy : Nat) (r : Region) (off : Nat) (b : List Byte) (cls : Nat) {t : State} {v : Nat}
    (h : State.landBytes s q copy r off b cls = .retry t v) : t.still = s.still := by
  have k := State.landBytes_keeps s q copy r off b cls; rw [h] at k; exact k

theorem State.landBytes_fail (s : State) (q copy : Nat) (r : Region) (off : Nat) (b : List Byte) (cls : Nat) {t : State} {v : Nat}
    (h : State.landBytes s q copy r off b cls = .fail t v) : t.still = s.still := by
  have k := State.landBytes_keeps s q copy r off b cls; rw [h] at k; exact k

@[simp] theorem State.failRecord_still (s : State) (q : Nat) (pkt : Packet) (status : Nat) (marked : Bool) :
    (State.failRecord s q pkt status marked).still = s.still := by
  unfold State.failRecord; simp only []; (repeat' split) <;> simp

@[simp] theorem State.releaseFlag_still (s : State) (q : Nat) (k : MsgKey) (marked : Bool) :
    (State.releaseFlag s q k marked).still = s.still := by
  unfold State.releaseFlag; simp only [stateAfter_next]; (repeat' split) <;> (try simp) <;> grind [State.modQuad_still, State.modRecord_still, State.freeFlag_still, State.refuse_still, State.completeRecord_still, → State.landBytes_done, → State.landBytes_wait, → State.landBytes_sent, → State.landBytes_retry, → State.landBytes_fail, State.failRecord_still]

@[simp] theorem State.credit_still (s : State) (q : Nat) (pkt : Packet) (marked : Bool) :
    (State.credit s q pkt marked).still = s.still := by
  unfold State.credit; simp only []; (repeat' split) <;> simp

@[simp] theorem State.modCopy_still (s : State) (q : Nat) (id : Nat) (g : RxCopy → RxCopy) :
    (State.modCopy s q id g).still = s.still := by
  simp [State.modCopy]

@[simp] theorem State.takeCopy_still (s : State) (q : Nat) (id : Nat) :
    (State.takeCopy s q id).still = s.still := by
  simp [State.takeCopy]

@[simp] theorem State.verifyBit_still (s : State) (q : Nat) (pkt : Packet) :
    (State.verifyBit s q pkt).still = s.still := by
  simp [State.verifyBit]

@[simp] theorem State.freeCopy_still (s : State) (q : Nat) (c : RxCopy) :
    (State.freeCopy s q c).still = s.still := by
  simp [State.freeCopy]

@[simp] theorem State.holdFlag_still (s : State) (q : Nat) (c : RxCopy) (marked : Bool) :
    (State.holdFlag s q c marked).still = s.still := by
  simp [State.holdFlag]

@[simp] theorem State.landWrite_still (s : State) (q : Nat) (c : RxCopy) (marked : Bool) :
    (State.landWrite s q c marked).still = s.still := by
  unfold State.landWrite; simp only [stateAfter_next]; (repeat' split) <;> (try simp) <;> grind [State.credit_still, State.repeatReply_still, State.modRecord_still, State.refuse_still, State.modCopy_still, → State.landBytes_done, → State.landBytes_wait, → State.landBytes_sent, → State.landBytes_retry, → State.landBytes_fail, State.holdFlag_still, State.verifyBit_still, State.freeCopy_still, State.failRecord_still]

@[simp] theorem State.dirtySpace_still (s : Machine.State) (p : Nat) (off : Nat) (n : Nat) :
    (State.dirtySpace s p off n).still = s.still := by
  unfold State.dirtySpace; (repeat' split) <;> simp

@[simp] theorem State.atomicAt_still (s : State) (p : Nat) (off : Nat) (n : Nat) (op : Nat) (a : W64) (b : W64) :
    (State.atomicAt s p off n op a b).1.still = s.still := by
  unfold State.atomicAt; simp only []; (repeat' split) <;> simp

theorem State.atomicAt_pair (s : State) (p : Nat) (off : Nat) (n : Nat) (op : Nat) (a : W64) (b : W64) {t' : State} {b' : W64}
    (h : State.atomicAt s p off n op a b = (t', b')) : t'.still = s.still := by
  have k := State.atomicAt_still s p off n op a b; rw [h] at k; exact k

@[simp] theorem State.landAtomic_still (s : State) (q : Nat) (c : RxCopy) (marked : Bool) :
    (State.landAtomic s q c marked).still = s.still := by
  unfold State.landAtomic; simp only [stateAfter_next]; (repeat' split) <;> (try simp) <;> grind [State.repeatReply_still, State.modRecord_still, State.atomicAt_still, → State.atomicAt_pair, State.askLines_still, → State.toPages_some, State.completeRecord_still, State.modCopy_still, State.verifyBit_still, State.freeCopy_still]

@[simp] theorem State.modPort_still (s : State) (p : Nat) (g : Port → Port) :
    (State.modPort s p g).still = s.still := by
  simp [State.modPort]

@[simp] theorem State.queueFrame_still (s : Machine.State) (f : EthFrame) :
    (State.queueFrame s f).still = s.still := by
  simp [State.queueFrame]

@[simp] theorem State.rdmaReply_still (s : State) (qp : Nat) (kind : Nat) (psn : Nat) (n : Nat) (body : List W64) :
    (State.rdmaReply s qp kind psn n body).still = s.still := by
  unfold State.rdmaReply; (repeat' split) <;> simp

@[simp] theorem State.finalNak_still (s : State) (q : Nat) (pkt : Packet) (status : Nat) (marked : Bool) :
    (State.finalNak s q pkt status marked).still = s.still := by
  simp [State.finalNak]

@[simp] theorem State.failRead_still (s : State) (q : Nat) (c : RxCopy) (status : Nat) :
    (State.failRead s q c status).still = s.still := by
  unfold State.failRead; (repeat' split) <;> simp

@[simp] theorem State.hostRead_still (s : State) (port : Nat) (r : HostRead) :
    (State.hostRead s port r).1.still = s.still := by
  unfold State.hostRead; simp only []; (repeat' split) <;> simp

theorem State.hostRead_pair (s : State) (port : Nat) (r : HostRead) {t' : State} {b' : Bool}
    (h : State.hostRead s port r = (t', b')) : t'.still = s.still := by
  have k := State.hostRead_still s port r; rw [h] at k; exact k

@[simp] theorem State.pumpServed_still (s : State) (q : Nat) (id : Nat) (x3 : Nat) :
    (State.pumpServed s q id x3).still = s.still := by
  fun_induction State.pumpServed s q id x3 <;> grind [State.hostRead_still, → State.hostRead_pair, State.modCopy_still]

@[simp] theorem State.responderReads_still (s : State) (q : Nat) (id : Nat) (c : Context) (addr : Nat) (off : Nat) (n : Nat) :
    (State.responderReads s q id c addr off n).still = s.still := by
  simp [State.responderReads]

@[simp] theorem State.rdmaData_still (s : Machine.State) (qp : Nat) (psn : Nat) (k : Nat) (b : List Byte) :
    (State.rdmaData s qp psn k b).still = s.still := by
  simp [State.rdmaData]

@[simp] theorem State.sendRead_still (s : State) (q : Nat) (pkt : Packet) (k : Nat) (b : List Byte) :
    (State.sendRead s q pkt k b).still = s.still := by
  simp [State.sendRead]

@[simp] theorem State.sendServed_still (s : State) (q : Nat) (c : RxCopy) (k : Nat) (b : List Byte) :
    (State.sendServed s q c k b).still = s.still := by
  unfold State.sendServed; (repeat' split) <;> simp

@[simp] theorem State.landRead_still (s : State) (q : Nat) (c : RxCopy) :
    (State.landRead s q c).still = s.still := by
  unfold State.landRead; simp only [stateAfter_next]; (repeat' split) <;> (try simp) <;> grind [State.touchPages_still, State.failRead_still, State.responderReads_still, State.useChannels_still, → State.hostPages_wait, → State.hostPages_retry, → State.hostPages_fail, State.refuse_still, State.askLines_still, State.modCopy_still, State.attRequest_still, State.sendServed_still, State.freeCopy_still]

@[simp] theorem State.landCopy_still (s : State) (q : Nat) (c : RxCopy) :
    (State.landCopy s q c).still = s.still := by
  simp [State.landCopy]

@[simp] theorem State.startFlood_still (s : State) (e : BeaconEntry) :
    (State.startFlood s e).still = s.still := by
  simp [State.startFlood]

@[simp] theorem State.floodOn_still (s : State) (port : Nat) (pkt : Packet) :
    (State.floodOn s port pkt).still = s.still := by
  simp [State.floodOn]

@[simp] theorem State.modFunc_still (s : State) (f : Nat) (g : Func → Func) :
    (State.modFunc s f g).still = s.still := by
  simp [State.modFunc]

@[simp] theorem State.forgetTiles_still (s : State) (ids : List Nat) :
    (State.forgetTiles s ids).still = s.still := by
  simp [State.forgetTiles]

@[simp] theorem State.clearTranslations_still (s : State) (fn : Nat) :
    (State.clearTranslations s fn).still = s.still := by
  simp [State.clearTranslations]

@[simp] theorem State.modQp_still (s : State) (i : Nat) (g : QueuePair → QueuePair) :
    (State.modQp s i g).still = s.still := by
  unfold State.modQp; (repeat' split) <;> simp

@[simp] theorem State.dropQpFrames_still (s : Machine.State) (port : Nat) (qp : Nat) :
    (State.dropQpFrames s port qp).still = s.still := by
  simp [State.dropQpFrames]

@[simp] theorem State.dueRetire_still (s : State) (lpddr : Bool) (region : Nat) :
    (State.dueRetire s lpddr region).still = s.still := by
  simp [State.dueRetire]

@[simp] theorem State.poisonLine_still (s : State) (line : Nat) :
    (State.poisonLine s line).still = s.still := by
  unfold State.poisonLine; (repeat' split) <;> simp

@[simp] theorem State.tagEvent_still (s : State) (p : Nat) (status : Nat) (info : W64) :
    (State.tagEvent s p status info).still = s.still := by
  simp [State.tagEvent]

@[simp] theorem State.accessFault_still (s : Machine.State) (p : Nat) (off : Nat) (len : Nat) (status : Nat) :
    (State.accessFault s p off len status).still = s.still := by
  simp [State.accessFault]

@[simp] theorem State.localRead_keeps (s : State) (o : TileOwner) (p : Nat) (g : Segment) (a : W64) (off : Nat) (len : Nat) (buf : Nat) :
    (State.localRead s o p g a off len buf).Keeps s.still := by
  unfold State.localRead; simp only []; (repeat' split) <;> simp

theorem State.localRead_wait (s : State) (o : TileOwner) (p : Nat) (g : Segment) (a : W64) (off : Nat) (len : Nat) (buf : Nat) {t : State}
    (h : State.localRead s o p g a off len buf = .wait t) : t.still = s.still := by
  have k := State.localRead_keeps s o p g a off len buf; rw [h] at k; exact k

theorem State.localRead_fail (s : State) (o : TileOwner) (p : Nat) (g : Segment) (a : W64) (off : Nat) (len : Nat) (buf : Nat) {t : State} {n : Nat}
    (h : State.localRead s o p g a off len buf = .fail t n) : t.still = s.still := by
  have k := State.localRead_keeps s o p g a off len buf; rw [h] at k; exact k

@[simp] theorem State.sendRdma_still (s : State) (qp : Nat) (q : QueuePair) (d : Desc) (r : QpRequest) (b : List Byte) :
    (State.sendRdma s qp q d r b).still = s.still := by
  simp [State.sendRdma]

@[simp] theorem State.resendFrom_still (s : State) (qp : Nat) (q : QueuePair) (x3 : List QpRequest) :
    (State.resendFrom s qp q x3).still = s.still := by
  fun_induction State.resendFrom s qp q x3 <;> grind [→ State.localRead_wait, → State.localRead_fail, State.sendRdma_still]

@[simp] theorem State.resendRdma_still (s : State) (qp : Nat) :
    (State.resendRdma s qp).still = s.still := by
  unfold State.resendRdma; (repeat' split) <;> simp

@[simp] theorem State.setQueue_still (s : State) (q : Nat) (x2 : Queue) :
    (State.setQueue s q x2).still = s.still := by
  simp [State.setQueue]

@[simp] theorem State.modQueue_still (s : State) (q : Nat) (g : Queue → Queue) :
    (State.modQueue s q g).still = s.still := by
  unfold State.modQueue; (repeat' split) <;> simp

@[simp] theorem State.modDesc_still (s : State) (q : Nat) (i : W32) (g : Desc → Desc) :
    (State.modDesc s q i g).still = s.still := by
  simp [State.modDesc]

@[simp] theorem State.freeSender_still (s : State) (q : Nat) (m : Nat) :
    (State.freeSender s q m).still = s.still := by
  unfold State.freeSender; (repeat' split) <;> simp

@[simp] theorem State.freeSendersIn_still (s : State) (q : Nat) (pick : Sender → Bool) :
    (State.freeSendersIn s q pick).still = s.still := by
  simp [State.freeSendersIn]

@[simp] theorem State.freeSenders_still (s : State) (pick : Sender → Bool) :
    (State.freeSenders s pick).still = s.still := by
  simp [State.freeSenders]

@[simp] theorem State.endAttach_still (s : State) (o : TileOwner) :
    (State.endAttach s o).still = s.still := by
  simp [State.endAttach]

@[simp] theorem State.endDesc_still (s : State) (q : Nat) (i : W32) (status : Nat) (detail : Nat) :
    (State.endDesc s q i status detail).still = s.still := by
  simp [State.endDesc]

@[simp] theorem State.dropTiles_still (s : State) (o : TileOwner) :
    (State.dropTiles s o).still = s.still := by
  simp [State.dropTiles]

@[simp] theorem State.endTiles_still (s : State) (o : TileOwner) :
    (State.endTiles s o).still = s.still := by
  simp [State.endTiles]

@[simp] theorem State.cutDesc_still (s : State) (q : Nat) (i : W32) (status : Nat) (detail : Nat) :
    (State.cutDesc s q i status detail).still = s.still := by
  unfold State.cutDesc; (repeat' split) <;> simp

@[simp] theorem State.modCtl_still (s : State) (c : Nat) (g : Controller → Controller) :
    (State.modCtl s c g).still = s.still := by
  unfold State.modCtl; (repeat' split) <;> simp

@[simp] theorem State.sendNvme_still (s : State) (c : Nat) (x2 : Controller) (k : NvmeCmd) (lba : Nat) (b : List Byte) :
    (State.sendNvme s c x2 k lba b).still = s.still := by
  simp [State.sendNvme]

@[simp] theorem State.issueNvme_still (s : State) (qn : Nat) (c : Nat) (q : Queue) (i : W32) :
    (State.issueNvme s qn c q i).still = s.still := by
  unfold State.issueNvme; (repeat' split) <;> grind [→ State.localRead_wait, → State.localRead_fail, State.modDesc_still, State.cutDesc_still, State.sendNvme_still]

@[simp] theorem State.issueRdma_still (s : State) (qn : Nat) (qp : Nat) (x3 : Queue) (i : W32) :
    (State.issueRdma s qn qp x3 i).still = s.still := by
  unfold State.issueRdma; (repeat' split) <;> grind [State.modQuad_still, → State.localRead_wait, → State.localRead_fail, State.modQp_still, State.modDesc_still, State.cutDesc_still, State.sendRdma_still]

@[simp] theorem State.pumpBound_still (s : State) (qn : Nat) :
    (State.pumpBound s qn).still = s.still := by
  unfold State.pumpBound; (repeat' split) <;> simp

@[simp] theorem State.settleBound_still (s : State) (qn : Nat) (i : W32) :
    (State.settleBound s qn i).still = s.still := by
  unfold State.settleBound; (repeat' split) <;> simp

@[simp] theorem State.releaseRdma_still (s : State) (qp : Nat) (port : Nat) (n : Nat) :
    (State.releaseRdma s qp port n).still = s.still := by
  simp [State.releaseRdma]

@[simp] theorem State.rdmaDone_still (s : State) (qp : Nat) (q : QueuePair) (r : QpRequest) :
    (State.rdmaDone s qp q r).still = s.still := by
  simp [State.rdmaDone]

@[simp] theorem State.rdmaProgress_still (s : Machine.State) (qp : Nat) (r : QpRequest) (n : Nat) :
    (State.rdmaProgress s qp r n).still = s.still := by
  simp [State.rdmaProgress]

@[simp] theorem State.modTile_still (s : State) (id : Nat) (g : Tile → Tile) :
    (State.modTile s id g).still = s.still := by
  unfold State.modTile; (repeat' split) <;> simp

@[simp] theorem State.tileWrote_still (s : State) (id : Nat) (off : Nat) (n : Nat) :
    (State.tileWrote s id off n).still = s.still := by
  unfold State.tileWrote; (repeat' split) <;> simp

@[simp] theorem State.noteWrite_still (s : Machine.State) (o : TileOwner) (port : Nat) (a : W64) (translated : Bool) :
    (State.noteWrite s o port a translated).still = s.still := by
  unfold State.noteWrite; (repeat' split) <;> simp

@[simp] theorem State.walkTile_still (s : State) (id : Nat) :
    (State.walkTile s id).still = s.still := by
  unfold State.walkTile; (repeat' split) <;> simp

@[simp] theorem State.untranslated_still (s : Machine.State) (id : Nat) :
    (State.untranslated s id).still = s.still := by
  simp [State.untranslated]

@[simp] theorem State.hostCommit_keeps (s : State) (o : TileOwner) (off : Nat) (b : List Byte) (n : Nat) :
    (State.hostCommit s o off b n).Keeps s.still := by
  fun_induction State.hostCommit s o off b n <;> simp_all

theorem State.hostCommit_done (s : State) (o : TileOwner) (off : Nat) (b : List Byte) (n : Nat) {t : State}
    (h : State.hostCommit s o off b n = .done t) : t.still = s.still := by
  have k := State.hostCommit_keeps s o off b n; rw [h] at k; exact k

theorem State.hostCommit_wait (s : State) (o : TileOwner) (off : Nat) (b : List Byte) (n : Nat) {t : State}
    (h : State.hostCommit s o off b n = .wait t) : t.still = s.still := by
  have k := State.hostCommit_keeps s o off b n; rw [h] at k; exact k

@[simp] theorem State.localWrite_keeps (s : State) (o : TileOwner) (p : Nat) (g : Segment) (a : W64) (off : Nat)
    (b : List Byte) (buf : Nat) : (State.localWrite s o p g a off b buf).Keeps s.still := by
  unfold State.localWrite; simp only []
  split
  · exact State.hostCommit_keeps _ _ _ _ _
  · (repeat' split) <;> simp only [Commit.keeps_done, Commit.keeps_wait, Commit.keeps_fail] <;> simp

theorem State.localWrite_done (s : State) (o : TileOwner) (p : Nat) (g : Segment) (a : W64) (off : Nat)
    (b : List Byte) (buf : Nat) {t : State}
    (h : State.localWrite s o p g a off b buf = .done t) : t.still = s.still := by
  have k := State.localWrite_keeps s o p g a off b buf; rw [h] at k; exact k

theorem State.localWrite_wait (s : State) (o : TileOwner) (p : Nat) (g : Segment) (a : W64) (off : Nat)
    (b : List Byte) (buf : Nat) {t : State}
    (h : State.localWrite s o p g a off b buf = .wait t) : t.still = s.still := by
  have k := State.localWrite_keeps s o p g a off b buf; rw [h] at k; exact k

theorem State.localWrite_fail (s : State) (o : TileOwner) (p : Nat) (g : Segment) (a : W64) (off : Nat)
    (b : List Byte) (buf : Nat) {t : State} {v : Nat}
    (h : State.localWrite s o p g a off b buf = .fail t v) : t.still = s.still := by
  have k := State.localWrite_keeps s o p g a off b buf; rw [h] at k; exact k

@[simp] theorem State.rdmaReadData_still (s : State) (qp : Nat) (q : QueuePair) (r : QpRequest) (k : Nat) (data : List Byte) :
    (State.rdmaReadData s qp q r k data).1.still = s.still := by
  unfold State.rdmaReadData; (repeat' split) <;> grind [State.rdmaDone_still, State.rdmaProgress_still, State.cutDesc_still, → State.localWrite_done, → State.localWrite_wait, → State.localWrite_fail]

theorem State.rdmaReadData_pair (s : State) (qp : Nat) (q : QueuePair) (r : QpRequest) (k : Nat) (data : List Byte) {t' : State} {b' : Bool}
    (h : State.rdmaReadData s qp q r k data = (t', b')) : t'.still = s.still := by
  have k := State.rdmaReadData_still s qp q r k data; rw [h] at k; exact k

@[simp] theorem State.qpAnswer_still (s : Machine.State) (qp : Nat) (psn : Nat) (data : List Byte) (old : W64) :
    (State.qpAnswer s qp psn data old).1.still = s.still := by
  unfold State.qpAnswer; (repeat' split) <;> simp

theorem State.qpAnswer_pair (s : State) (qp : Nat) (psn : Nat) (data : List Byte) (old : W64) {t' : State} {b' : Bool}
    (h : State.qpAnswer s qp psn data old = (t', b')) : t'.still = s.still := by
  have k := State.qpAnswer_still s qp psn data old; rw [h] at k; exact k

@[simp] theorem State.answerHeld_still (s : State) (qp : Nat) (x2 : Nat) :
    (State.answerHeld s qp x2).still = s.still := by
  fun_induction State.answerHeld s qp x2 <;> grind [State.modQp_still, State.qpAnswer_still, → State.qpAnswer_pair]

@[simp] theorem State.nvmeDone_still (s : State) (qn : Nat) (x2 : Controller) (k : NvmeCmd) (data : List Byte) :
    (State.nvmeDone s qn x2 k data).1.still = s.still := by
  unfold State.nvmeDone; simp only [stateAfter_next]; (repeat' split) <;> (try simp) <;> grind [State.modDesc_still, State.cutDesc_still, → State.localWrite_done, → State.localWrite_wait, → State.localWrite_fail]

theorem State.nvmeDone_pair (s : State) (qn : Nat) (x2 : Controller) (k : NvmeCmd) (data : List Byte) {t' : State} {b' : Bool}
    (h : State.nvmeDone s qn x2 k data = (t', b')) : t'.still = s.still := by
  have k := State.nvmeDone_still s qn x2 k data; rw [h] at k; exact k

@[simp] theorem State.nvmeAnswer_still (s : State) (c : Nat) (command : Nat) (status : Nat) (data : List Byte) :
    (State.nvmeAnswer s c command status data).1.still = s.still := by
  unfold State.nvmeAnswer; (repeat' split) <;> grind [State.nvmeDone_still, State.modCtl_still, State.settleBound_still, State.cutDesc_still]

theorem State.nvmeAnswer_pair (s : State) (c : Nat) (command : Nat) (status : Nat) (data : List Byte) {t' : State} {b' : Bool}
    (h : State.nvmeAnswer s c command status data = (t', b')) : t'.still = s.still := by
  have k := State.nvmeAnswer_still s c command status data; rw [h] at k; exact k

@[simp] theorem State.completeHeld_still (s : State) (c : Nat) (x2 : Nat) :
    (State.completeHeld s c x2).still = s.still := by
  fun_induction State.completeHeld s c x2 <;> grind [State.modCtl_still, State.nvmeAnswer_still, → State.nvmeAnswer_pair]

@[simp] theorem State.pumpBounds_still (s : Machine.State) :
    (State.pumpBounds s).still = s.still := by
  simp [State.pumpBounds]

@[simp] theorem State.collRead_keeps (s : State) (p : Nat) (id : W32) (x3 : Instance) (buf : Nat) (a : W64) (off : Nat) (len : Nat) :
    (State.collRead s p id x3 buf a off len).Keeps s.still := by
  simp [State.collRead]

theorem State.collRead_wait (s : State) (p : Nat) (id : W32) (x3 : Instance) (buf : Nat) (a : W64) (off : Nat) (len : Nat) {t : State}
    (h : State.collRead s p id x3 buf a off len = .wait t) : t.still = s.still := by
  have k := State.collRead_keeps s p id x3 buf a off len; rw [h] at k; exact k

theorem State.collRead_fail (s : State) (p : Nat) (id : W32) (x3 : Instance) (buf : Nat) (a : W64) (off : Nat) (len : Nat) {t : State} {n : Nat}
    (h : State.collRead s p id x3 buf a off len = .fail t n) : t.still = s.still := by
  have k := State.collRead_keeps s p id x3 buf a off len; rw [h] at k; exact k

@[simp] theorem State.modInstance_still (s : State) (p : Nat) (id : W32) (g : Instance → Instance) :
    (State.modInstance s p id g).still = s.still := by
  simp [State.modInstance]

@[simp] theorem State.failInstance_still (s : State) (p : Nat) (id : W32) (status : Nat) :
    (State.failInstance s p id status).still = s.still := by
  simp [State.failInstance]

theorem State.collWant_error (s : State) (p : Nat) (id : W32) (x : Instance) (buf : Nat) (a : W64) (off len : Nat) {t : State}
    (h : s.collWant p id x buf a off len = .error t) : t.still = s.still := by
  unfold State.collWant at h; split at h <;> simp at h <;> subst h
  · rename_i h; exact State.collRead_wait _ _ _ _ _ _ _ _ h
  · rename_i h; simpa using State.collRead_fail _ _ _ _ _ _ _ _ h

@[simp] theorem State.queueSend_still (s : State) (p : Nat) (id : W32) (h : SchedHeader) (step : Nat) (peer : Nat) (base : Nat) (b : List Byte) :
    (State.queueSend s p id h step peer base b).still = s.still := by
  simp [State.queueSend]

@[simp] theorem State.embedServe_still (s : State) (p : Nat) (c : Schedule) (x3 : Instance) (r : Nat) :
    (State.embedServe s p c x3 r).still = s.still := by
  unfold State.embedServe; simp only [stateAfter_next]; (repeat' split) <;> (try simp) <;> grind [→ State.collWant_error, State.modInstance_still, State.queueSend_still]

@[simp] theorem State.markPhase_still (s : State) (p : Nat) (id : W32) (n : Nat) :
    (State.markPhase s p id n).still = s.still := by
  simp [State.markPhase]

@[simp] theorem State.keepOwn_still (s : State) (p : Nat) (id : W32) (step : Nat) (rank : Nat) (off : Nat) (b : List Byte) :
    (State.keepOwn s p id step rank off b).still = s.still := by
  simp [State.keepOwn]

@[simp] theorem State.modSeq_still (s : State) (k : Nat) (g : Sequencer → Sequencer) :
    (State.modSeq s k g).still = s.still := by
  simp [State.modSeq]

@[simp] theorem State.modRun_still (s : State) (k : Nat) (g : Running → Running) :
    (State.modRun s k g).still = s.still := by
  simp [State.modRun]

@[simp] theorem State.modFlight_still (s : State) (k : Nat) (slot : Nat) (g : Flight → Flight) :
    (State.modFlight s k slot g).still = s.still := by
  simp [State.modFlight]

@[simp] theorem State.stopMessages_still (s : Machine.State) (o : TileOwner) (limit : Nat) :
    (State.stopMessages s o limit).still = s.still := by
  unfold State.stopMessages; (repeat' split) <;> simp

@[simp] theorem State.endFlight_still (s : State) (k : Nat) (slot : Nat) (status : Nat) (detail : Nat) :
    (State.endFlight s k slot status detail).still = s.still := by
  simp [State.endFlight]

@[simp] theorem State.cutFlight_still (s : State) (k : Nat) (slot : Nat) (status : Nat) (detail : Nat) :
    (State.cutFlight s k slot status detail).still = s.still := by
  simp [State.cutFlight]

@[simp] theorem State.failOwner_still (s : State) (o : TileOwner) (status : Nat) (detail : Nat) :
    (State.failOwner s o status detail).still = s.still := by
  unfold State.failOwner; (repeat' split) <;> simp

@[simp] theorem State.reapTile_still (s : Machine.State) (id : Nat) :
    (State.reapTile s id).still = s.still := by
  unfold State.reapTile; (repeat' split) <;> simp

@[simp] theorem State.doomTile_still (s : Machine.State) (id : Nat) (status : Nat) :
    (State.doomTile s id status).still = s.still := by
  unfold State.doomTile; (repeat' split) <;> simp

@[simp] theorem State.faultTile_still (s : State) (id : Nat) :
    (State.faultTile s id).still = s.still := by
  unfold State.faultTile; (repeat' split) <;> simp

@[simp] theorem State.lookTile_still (s : State) (id : Nat) :
    (State.lookTile s id).still = s.still := by
  unfold State.lookTile; (repeat' split) <;> simp

@[simp] theorem State.translateTile_still (s : State) (id : Nat) :
    (State.translateTile s id).still = s.still := by
  unfold State.translateTile; simp only []; (repeat' split) <;> simp

@[simp] theorem State.addTile_still (s : State) (owner : TileOwner) (engine : Nat) (c : Nat) (g : Segment) (addr : Nat) (len : Nat) (write : Bool) (base : Nat) (i : Nat) :
    (State.addTile s owner engine c g addr len write base i).still = s.still := by
  unfold State.addTile; (repeat' split) <;> simp

@[simp] theorem State.addTiles_still (s : State) (owner : TileOwner) (engine : Nat) (c : Nat) (g : Segment) (addr : Nat) (len : Nat) (write : Bool) (base : Nat) :
    (State.addTiles s owner engine c g addr len write base).still = s.still := by
  simp [State.addTiles]

@[simp] theorem State.startFetch_still (s : State) (o : TileOwner) (engine : Nat) (c : Nat) (p : Nat) (g : Segment) (a : W64) (len : Nat) (buf : Nat) :
    (State.startFetch s o engine c p g a len buf).still = s.still := by
  simp [State.startFetch]

@[simp] theorem State.embedSend_still (s : State) (p : Nat) (c : Schedule) (engine : Nat) (x4 : Instance) :
    (State.embedSend s p c engine x4).still = s.still := by
  unfold State.embedSend; simp only [stateAfter_next]; (repeat' split) <;> (try simp) <;> grind [→ State.collWant_error, State.markPhase_still, State.keepOwn_still, State.startFetch_still, State.failInstance_still, State.queueSend_still]

@[simp] theorem State.writePieces_keeps (s0 s : State) (o : TileOwner) (p : Nat) (g : Segment) (a : W64) (buf : Nat)
    (l : List (Nat × List Byte)) (hs : s.still = s0.still) : (State.writePieces s0 s o p g a buf l).Keeps s0.still := by
  induction l generalizing s with
  | nil => simpa [State.writePieces] using hs
  | cons y l ih =>
    unfold State.writePieces
    split
    · rename_i h; exact ih _ ((State.localWrite_done _ _ _ _ _ _ _ _ h).trans hs)
    · rename_i h; simpa using (State.localWrite_fail _ _ _ _ _ _ _ _ h).trans hs
    · split
      · rename_i h; simpa using State.localWrite_wait _ _ _ _ _ _ _ _ h
      · simp
      · rename_i h; simpa using State.localWrite_fail _ _ _ _ _ _ _ _ h

theorem State.writePieces_done (s0 s : State) (o : TileOwner) (p : Nat) (g : Segment) (a : W64) (buf : Nat)
    (l : List (Nat × List Byte)) {t : State} (hs : s.still = s0.still)
    (h : State.writePieces s0 s o p g a buf l = .done t) : t.still = s0.still := by
  have k := State.writePieces_keeps s0 s o p g a buf l hs; rw [h] at k; exact k

theorem State.writePieces_wait (s0 s : State) (o : TileOwner) (p : Nat) (g : Segment) (a : W64) (buf : Nat)
    (l : List (Nat × List Byte)) {t : State} (hs : s.still = s0.still)
    (h : State.writePieces s0 s o p g a buf l = .wait t) : t.still = s0.still := by
  have k := State.writePieces_keeps s0 s o p g a buf l hs; rw [h] at k; exact k

theorem State.writePieces_fail (s0 s : State) (o : TileOwner) (p : Nat) (g : Segment) (a : W64) (buf : Nat)
    (l : List (Nat × List Byte)) {t : State} {n : Nat} (hs : s.still = s0.still)
    (h : State.writePieces s0 s o p g a buf l = .fail t n) : t.still = s0.still := by
  have k := State.writePieces_keeps s0 s o p g a buf l hs; rw [h] at k; exact k

@[simp] theorem State.collWrite_keeps (s : State) (p : Nat) (id : W32) (x : Instance) (buf : Nat) (a : W64)
    (l : List (Nat × List Byte)) : (State.collWrite s p id x buf a l).Keeps s.still := by
  unfold State.collWrite; exact State.writePieces_keeps _ _ _ _ _ _ _ _ rfl

theorem State.collWrite_done (s : State) (p : Nat) (id : W32) (x : Instance) (buf : Nat) (a : W64)
    (l : List (Nat × List Byte)) {t : State}
    (h : State.collWrite s p id x buf a l = .done t) : t.still = s.still := by
  have k := State.collWrite_keeps s p id x buf a l; rw [h] at k; exact k

theorem State.collWrite_wait (s : State) (p : Nat) (id : W32) (x : Instance) (buf : Nat) (a : W64)
    (l : List (Nat × List Byte)) {t : State}
    (h : State.collWrite s p id x buf a l = .wait t) : t.still = s.still := by
  have k := State.collWrite_keeps s p id x buf a l; rw [h] at k; exact k

theorem State.collWrite_fail (s : State) (p : Nat) (id : W32) (x : Instance) (buf : Nat) (a : W64)
    (l : List (Nat × List Byte)) {t : State} {v : Nat}
    (h : State.collWrite s p id x buf a l = .fail t v) : t.still = s.still := by
  have k := State.collWrite_keeps s p id x buf a l; rw [h] at k; exact k

@[simp] theorem State.embedFinish_still (s : State) (p : Nat) (c : Schedule) (x3 : Instance) :
    (State.embedFinish s p c x3).still = s.still := by
  unfold State.embedFinish; simp only [stateAfter_next]; (repeat' split) <;> (try simp) <;> grind [→ State.collWant_error, State.markPhase_still, State.modInstance_still, → State.collWrite_done, → State.collWrite_wait, → State.collWrite_fail, State.failInstance_still]

@[simp] theorem State.embedPump_still (s : State) (p : Nat) (c : Schedule) (engine : Nat) :
    (State.embedPump s p c engine).still = s.still := by
  unfold State.embedPump; (repeat' (first | rfl | split | (refine (still_foldl _ _ _ ?_).trans ?_; intros) | simp))

@[simp] theorem State.ownPair_still (s : State) (p : Nat) (id : W32) (h : SchedHeader) (x4 : Instance) :
    (State.ownPair s p id h x4).still = s.still := by
  unfold State.ownPair; simp only [stateAfter_next]; (repeat' split) <;> (try simp) <;> grind [→ State.collRead_wait, → State.collRead_fail, State.modInstance_still, → State.collWrite_done, → State.collWrite_wait, → State.collWrite_fail, State.failInstance_still]

theorem State.inputCarry_wait (s : State) (p : Nat) (id : W32) (h : SchedHeader) (x : Instance) (e : Nat) {t : State}
    (k : s.inputCarry p id h x e = .error (.wait t)) : t.still = s.still := by
  unfold State.inputCarry at k; simp only [] at k; grind [→ State.collRead_wait]

theorem State.inputCarry_fail (s : State) (p : Nat) (id : W32) (h : SchedHeader) (x : Instance) (e : Nat) {t : State} {n : Nat}
    (k : s.inputCarry p id h x e = .error (.fail t n)) : t.still = s.still := by
  unfold State.inputCarry at k; simp only [] at k; grind [→ State.collRead_fail]

theorem State.partialOf_wait (s : State) (p : Nat) (id : W32) (h : SchedHeader) (x : Instance) (e : Nat) {t : State}
    (k : s.partialOf p id h x e = .error (.wait t)) : t.still = s.still := by
  unfold State.partialOf at k; grind [→ State.inputCarry_wait]

theorem State.partialOf_fail (s : State) (p : Nat) (id : W32) (h : SchedHeader) (x : Instance) (e : Nat) {t : State} {n : Nat}
    (k : s.partialOf p id h x e = .error (.fail t n)) : t.still = s.still := by
  unfold State.partialOf at k; grind [→ State.inputCarry_fail]

theorem State.carries_wait (s : State) (p : Nat) (id : W32) (h : SchedHeader) (x : Instance) (l : List Nat) {t : State}
    (k : s.carries p id h x l = .error (.wait t)) : t.still = s.still := by
  induction l with
  | nil => simp [State.carries] at k
  | cons e l ih => unfold State.carries at k; grind [→ State.partialOf_wait]

theorem State.carries_fail (s : State) (p : Nat) (id : W32) (h : SchedHeader) (x : Instance) (l : List Nat) {t : State} {n : Nat}
    (k : s.carries p id h x l = .error (.fail t n)) : t.still = s.still := by
  induction l with
  | nil => simp [State.carries] at k
  | cons e l ih => unfold State.carries at k; grind [→ State.partialOf_fail]

theorem State.optimise_ok (s : State) (p : Nat) (id : W32) (h : SchedHeader) (x : Instance) (b : List Byte)
    (g : List (BitVec 384)) {r : State × List W32} (k : s.optimise p id h x b g = .ok r) : r.1.still = s.still := by
  unfold State.optimise at k; simp only [] at k; grind [→ State.collWrite_done]

theorem State.optimise_fail (s : State) (p : Nat) (id : W32) (h : SchedHeader) (x : Instance) (b : List Byte)
    (g : List (BitVec 384)) {t : State} {n : Nat} (k : s.optimise p id h x b g = .error (.fail t n)) :
    t.still = s.still := by
  unfold State.optimise at k; simp only [] at k
  grind [→ State.collWrite_done, → State.collWrite_fail, → State.collRead_fail]

@[simp] theorem State.roundOwn_still (s : State) (p : Nat) (id : W32) (c : Schedule) (x : Instance) :
    (State.roundOwn s p id c x).still = s.still := by
  unfold State.roundOwn; simp only []
  split
  · rfl
  · split
    · rename_i h; simpa using State.carries_fail _ _ _ _ _ _ h
    · rfl
    · rename_i cs _
      split
      · rename_i h; rw [State.failInstance_still]; split at h
        · split at h
          · simp at h
          · rename_i ho; simp at h; subst h; exact State.optimise_fail _ _ _ _ _ _ _ ho
        · simp at h
      · rfl
      · rename_i s1 out h
        have k : s1.still = s.still := by
          split at h
          · split at h
            · rename_i r ho; simp at h; rw [← h.1]; exact State.optimise_ok _ _ _ _ _ _ _ ho
            · simp at h
          · simp at h; rw [← h.1]
        split
        · rename_i hw; rw [State.modInstance_still, State.collWrite_done _ _ _ _ _ _ _ hw, k]
        · rename_i hw; split
          · rfl
          · rw [State.collWrite_wait _ _ _ _ _ _ _ hw, k]
        · rename_i hw; rw [State.failInstance_still, State.collWrite_fail _ _ _ _ _ _ _ hw, k]

@[simp] theorem State.addSender_still (s : State) (q : Nat) (x2 : Sender) :
    (State.addSender s q x2).still = s.still := by
  simp [State.addSender]

@[simp] theorem State.releaseOne_still (s : State) (p : Nat) (c : Schedule) (m : Nat × Nat × Nat × List Byte) :
    (State.releaseOne s p c m).still = s.still := by
  simp [State.releaseOne]

@[simp] theorem State.releaseBacklog_still (s : State) (p : Nat) (c : Schedule) :
    (State.releaseBacklog s p c).still = s.still := by
  unfold State.releaseBacklog; (repeat' split) <;> simp

theorem State.sendBytes_wait (s : State) (p : Nat) (id : W32) (h : SchedHeader) (x : Instance) (d : Send) {t : State}
    (k : s.sendBytes p id h x d = .wait t) : t.still = s.still := by
  unfold State.sendBytes at k; grind [→ State.carries_wait, → State.collRead_wait]

theorem State.sendBytes_fail (s : State) (p : Nat) (id : W32) (h : SchedHeader) (x : Instance) (d : Send) {t : State} {n : Nat}
    (k : s.sendBytes p id h x d = .fail t n) : t.still = s.still := by
  unfold State.sendBytes at k; grind [→ State.carries_fail, → State.collRead_fail]

@[simp] theorem State.trySend_still (s : State) (p : Nat) (id : W32) (h : SchedHeader) (t : Send) :
    (State.trySend s p id h t).still = s.still := by
  unfold State.trySend; simp only [stateAfter_next]; (repeat' split) <;> (try simp) <;> grind [State.modInstance_still, State.failInstance_still, → State.sendBytes_wait, → State.sendBytes_fail, State.queueSend_still]

theorem State.outputsReady_error (s : State) (p : Nat) (c : Schedule) (x : Instance) (b : TokenBlock) {t : State}
    (h : s.outputsReady p c x b = .error t) : t.still = s.still := by
  have fold : ∀ {α : Type} (g : Except State Unit → α → Except State Unit) (l : List α) (e : Except State Unit),
      (∀ e a, (∀ t, e = .error t → t.still = s.still) → ∀ t, g e a = .error t → t.still = s.still) →
      (∀ t, e = .error t → t.still = s.still) → ∀ t, l.foldl g e = .error t → t.still = s.still := by
    intro α g l; induction l with
    | nil => intro e _ he; exact he
    | cons a l ih => intro e hg he; exact ih _ hg (hg e a he)
  refine fold _ _ _ ?_ ?_ t h
  · intro e r he t ht
    split at ht
    · refine fold _ _ _ ?_ ?_ t ht
      · intro e y he t ht
        split at ht
        · split at ht <;> simp at ht
          rename_i hw; subst ht; exact State.collWant_error _ _ _ _ _ _ _ _ hw
        · exact he t ht
      · intro t ht; simp at ht
    · exact he t ht
  · intro t ht; simp at ht

@[simp] theorem State.commitRows_keeps (s : State) (p : Nat) (c : Schedule) (x3 : Instance) (step : Nat) (rank : Nat) (off : Nat) (b : List Byte) :
    (State.commitRows s p c x3 step rank off b).Keeps s.still := by
  unfold State.commitRows; simp only [stateAfter_next]; (repeat' split) <;> (try simp) <;> grind [State.keepOwn_still, → State.collWrite_done, → State.collWrite_wait, → State.collWrite_fail]

theorem State.commitRows_done (s : State) (p : Nat) (c : Schedule) (x3 : Instance) (step : Nat) (rank : Nat) (off : Nat) (b : List Byte) {t : State}
    (h : State.commitRows s p c x3 step rank off b = .done t) : t.still = s.still := by
  have k := State.commitRows_keeps s p c x3 step rank off b; rw [h] at k; exact k

theorem State.commitRows_wait (s : State) (p : Nat) (c : Schedule) (x3 : Instance) (step : Nat) (rank : Nat) (off : Nat) (b : List Byte) {t : State}
    (h : State.commitRows s p c x3 step rank off b = .wait t) : t.still = s.still := by
  have k := State.commitRows_keeps s p c x3 step rank off b; rw [h] at k; exact k

theorem State.commitRows_fail (s : State) (p : Nat) (c : Schedule) (x3 : Instance) (step : Nat) (rank : Nat) (off : Nat) (b : List Byte) {t : State} {n : Nat}
    (h : State.commitRows s p c x3 step rank off b = .fail t n) : t.still = s.still := by
  have k := State.commitRows_keeps s p c x3 step rank off b; rw [h] at k; exact k

@[simp] theorem State.sendOrKeep_still (s : State) (p : Nat) (c : Schedule) (step : Nat) (rank : Nat) (off : Nat) (b : List Byte) :
    (State.sendOrKeep s p c step rank off b).still = s.still := by
  unfold State.sendOrKeep; (repeat' split) <;> grind [→ State.commitRows_done, → State.commitRows_wait, → State.commitRows_fail, State.failInstance_still, State.queueSend_still]

@[simp] theorem State.tokenReturn_still (s : State) (p : Nat) (c : Schedule) (x3 : Instance) (b : TokenBlock) (r : Nat) :
    (State.tokenReturn s p c x3 b r).still = s.still := by
  unfold State.tokenReturn; simp only []; (repeat' (first | split | (refine (still_foldl _ _ _ ?_).trans ?_; intros))) <;> (try simp) <;> grind [→ State.collWant_error, State.sendOrKeep_still]

@[simp] theorem State.tokenBack_still (s : State) (p : Nat) (c : Schedule) (engine : Nat) (x : Instance) :
    (State.tokenBack s p c engine x).still = s.still := by
  unfold State.tokenBack; simp only []
  split
  · rfl
  · split
    · rename_i h; rw [State.outputsReady_error _ _ _ _ _ h]; split <;> simp
    · rw [still_foldl _ _ _ fun s r => State.tokenReturn_still s _ _ _ _ _]; simp

@[simp] theorem State.tokenFinish_still (s : State) (p : Nat) (c : Schedule) (x3 : Instance) :
    (State.tokenFinish s p c x3).still = s.still := by
  unfold State.tokenFinish; simp only [stateAfter_next]; (repeat' split) <;> (try simp) <;> grind [State.markPhase_still, State.modInstance_still, → State.collWrite_done, → State.collWrite_wait, → State.collWrite_fail, State.failInstance_still]

@[simp] theorem State.setTrig_still (s : State) (i : Nat) (p : Nat) (v : W64) :
    (State.setTrig s i p v).still = s.still := by
  simp [State.setTrig]

@[simp] theorem State.modTrig_still (s : State) (i : Nat) (g : W64 → W64) :
    (State.modTrig s i g).still = s.still := by
  unfold State.modTrig; (repeat' split) <;> simp

@[simp] theorem State.tokenSignal_still (s : State) (p : Nat) (c : Schedule) (x3 : Instance) :
    (State.tokenSignal s p c x3).still = s.still := by
  simp [State.tokenSignal]

@[simp] theorem State.countFor_still (s : State) (p : Nat) (id : Nat) (yes : Bool) :
    (State.countFor s p id yes).still = s.still := by
  simp [State.countFor]

@[simp] theorem State.countFlags_still (s : State) (p : Nat) (id : Nat) (fl : NumFlags) :
    (State.countFlags s p id fl).still = s.still := by
  simp [State.countFlags]

@[simp] theorem State.modGrat_still (s : State) (g : Nat) (h : Graticule → Graticule) :
    (State.modGrat s g h).still = s.still := by
  simp [State.modGrat]

@[simp] theorem State.scoreLeave_still (s : State) (g : Nat) :
    (State.scoreLeave s g).still = s.still := by
  unfold State.scoreLeave; (repeat' split) <;> simp

@[simp] theorem State.bindScores_still (s : State) (p : Nat) (c : Schedule) :
    (State.bindScores s p c).still = s.still := by
  unfold State.bindScores; (repeat' split) <;> simp

@[simp] theorem State.tokenSend_still (s : State) (p : Nat) (c : Schedule) (x3 : Instance) :
    (State.tokenSend s p c x3).still = s.still := by
  unfold State.tokenSend; simp only []; (repeat' (first | split | (refine (still_foldl _ _ _ ?_).trans ?_; intros))) <;> (try simp) <;> grind [→ State.collWant_error, State.markPhase_still, State.modInstance_still, State.countFlags_still, State.countIn_still, State.bindScores_still, State.modGrat_still, State.sendOrKeep_still]

@[simp] theorem State.tokenPump_still (s : State) (p : Nat) (c : Schedule) (engine : Nat) :
    (State.tokenPump s p c engine).still = s.still := by
  unfold State.tokenPump; simp only []; (repeat' split) <;> simp

@[simp] theorem State.pumpColl_still (s : State) (p : Nat) (c : Schedule) :
    (State.pumpColl s p c).still = s.still := by
  unfold State.pumpColl; simp only []; (repeat' split) <;> simp

@[simp] theorem State.pumpAll_still (s : State) :
    (State.pumpAll s).still = s.still := by
  simp [State.pumpAll]

@[simp] theorem State.keepResp_still (s : State) (q : Nat) (pkt : Packet) (waiting : Option Nat) :
    (State.keepResp s q pkt waiting).still = s.still := by
  unfold State.keepResp; (repeat' split) <;> simp

@[simp] theorem State.feedFlight_still (s : State) (k slot : Nat) (l : List (Nat × Nat)) :
    (State.feedFlight s k slot l).still = s.still := by
  induction l generalizing s with
  | nil => rfl
  | cons y l ih => unfold State.feedFlight; (repeat' split) <;> simp [ih]

@[simp] theorem State.feedDesc_still (s : State) (qn : Nat) (i : W32) (l : List (Nat × Nat)) :
    (State.feedDesc s qn i l).still = s.still := by
  induction l generalizing s with
  | nil => rfl
  | cons y l ih => unfold State.feedDesc; (repeat' split) <;> simp [ih]

@[simp] theorem State.feedAll_still (s : State) (q : Nat) :
    (State.feedAll s q).still = s.still := by
  simp [State.feedAll]

@[simp] theorem State.modCtx_still (s : State) (c : Nat) (g : Context → Context) :
    (State.modCtx s c g).still = s.still := by
  simp [State.modCtx]

@[simp] theorem State.reapTiles_still (s : State) :
    (State.reapTiles s).still = s.still := by
  simp [State.reapTiles]

@[simp] theorem State.settleDesc_still (s : State) (qn : Nat) (i : W32) :
    (State.settleDesc s qn i).still = s.still := by
  unfold State.settleDesc; (repeat' split) <;> simp

@[simp] theorem State.settleFlight_still (s : State) (k : Nat) (slot : Nat) :
    (State.settleFlight s k slot).still = s.still := by
  unfold State.settleFlight; (repeat' split) <;> simp

@[simp] theorem State.ownerEnded_still (s : State) (o : MsgOwner) (status : Nat) (detail : Nat) (bytes : Nat) :
    (State.ownerEnded s o status detail bytes).still = s.still := by
  unfold State.ownerEnded; (repeat' split) <;> simp

@[simp] theorem State.msgEnded_still (s : State) (q : Nat) (m : Nat) (status : Nat) (detail : Nat) :
    (State.msgEnded s q m status detail).still = s.still := by
  unfold State.msgEnded; (repeat' split) <;> simp

@[simp] theorem State.setSender_still (s : State) (q : Nat) (m : Nat) (x3 : Sender) :
    (State.setSender s q m x3).still = s.still := by
  simp [State.setSender]

@[simp] theorem State.releaseResv_still (s : State) (q : Nat) (m : Nat) (n : Nat) :
    (State.releaseResv s q m n).still = s.still := by
  unfold State.releaseResv; (repeat' split) <;> simp

@[simp] theorem State.readLanded_still (s : State) (q : Nat) (m : Nat) (pkt : Packet) :
    (State.readLanded s q m pkt).still = s.still := by
  unfold State.readLanded; (repeat' split) <;> simp

@[simp] theorem State.commitRead_still (s : State) (q : Nat) (m : Nat) (x3 : Sender) (pkt : Packet) (waiting : Option Nat) :
    (State.commitRead s q m x3 pkt waiting).still = s.still := by
  unfold State.commitRead; simp only [stateAfter_next]; (repeat' split) <;> (try simp) <;> grind [State.takeCopy_still, State.keepResp_still, State.msgEnded_still, State.modCopy_still, State.attRequest_still, → State.localWrite_done, → State.localWrite_wait, → State.localWrite_fail, State.readLanded_still]

@[simp] theorem State.recommitIn_still (s : State) (q : Nat) :
    (State.recommitIn s q).still = s.still := by
  unfold State.recommitIn; (repeat' (first | rfl | split | (refine still_foldl _ _ _ ?_; intros) | simp))

@[simp] theorem State.recommit_still (s : State) :
    (State.recommit s).still = s.still := by
  simp [State.recommit]

@[simp] theorem State.progress_still (s : State) (k : Nat) (slot : Nat) :
    (State.progress s k slot).still = s.still := by
  unfold State.progress; simp only [stateAfter_next]; (repeat' split) <;> (try simp) <;> grind [→ State.writePieces_done, → State.writePieces_wait, → State.writePieces_fail, → State.localRead_wait, → State.localRead_fail, State.modRun_still, State.modFlight_still, → State.localWrite_done, → State.localWrite_wait, → State.localWrite_fail, State.cutFlight_still, State.settleFlight_still]

@[simp] theorem State.stir_still (s : State) :
    (State.stir s).still = s.still := by
  simp [State.stir]

@[simp] theorem execAtsEnableClear_still (fn : Nat) (s : State) :
    (stateAfter s (execAtsEnableClear fn s)).still = s.still := by
  simp [execAtsEnableClear]

@[simp] theorem State.startBound_still (s : State) (qn : Nat) (x2 : Queue) (d : Desc) :
    (State.startBound s qn x2 d).still = s.still := by
  simp [State.startBound]

@[simp] theorem State.note_still (s : State) (status : Nat) (unit : Nat) (index : Nat) (p : Option Nat) (info : W64) (severity : Nat) :
    (State.note s status unit index p info severity).still = s.still := by
  simp [State.note]

@[simp] theorem State.dropAt_still (s : State) (port : Nat) (noRoute : Bool) :
    (State.dropAt s port noRoute).still = s.still := by
  simp [State.dropAt]

@[simp] theorem State.headArrives_still (s : State) (port : Nat) (pkt : Packet) :
    (State.headArrives s port pkt).still = s.still := by
  simp [State.headArrives]

@[simp] theorem State.attReject_still (s : State) (a : Nat) :
    (State.attReject s a).still = s.still := by
  simp [State.attReject]

@[simp] theorem State.modFw_still (s : State) (g : Firmware → Firmware) :
    (State.modFw s g).still = s.still := by
  simp [State.modFw]

@[simp] theorem State.tearSeal_still (s : State) :
    (State.tearSeal s).still = s.still := by
  simp [State.tearSeal]

@[simp] theorem State.backingRead_still (s : State) (x1 : Placement) (off : Nat) (len : Nat) :
    (State.backingRead s x1 off len).2.still = s.still := by
  unfold State.backingRead; (repeat' split) <;> simp

@[simp] theorem State.backingWrite_still (s : State) (x1 : Placement) (off : Nat) (b : List Byte) :
    (State.backingWrite s x1 off b).still = s.still := by
  unfold State.backingWrite; (repeat' split) <;> simp

@[simp] theorem State.serveCxl_still (s : State) (port : Nat) (x2 : Placement) (line : Nat) (write : Option (List Byte)) :
    (State.serveCxl s port x2 line write).still = s.still := by
  unfold State.serveCxl; (repeat' split) <;> simp

@[simp] theorem State.toHostBias_still (s : State) (port : Nat) (pick : Nat → Bool) :
    (State.toHostBias s port pick).still = s.still := by
  unfold State.toHostBias; simp only []; (repeat' split) <;> simp

@[simp] theorem execBiasChangeDone_still (port : Nat) (s : State) :
    (stateAfter s (execBiasChangeDone port s)).still = s.still := by
  unfold execBiasChangeDone; (repeat' split) <;> simp

@[simp] theorem execThermAlertRelease_still (s : State) :
    (stateAfter s (execThermAlertRelease s)).still = s.still := by
  simp [execThermAlertRelease]

@[simp] theorem State.closeGroup_still (s : State) (port : Nat) (group : Nat) (keep : Bool) :
    (State.closeGroup s port group keep).still = s.still := by
  simp [State.closeGroup]

@[simp] theorem State.modMbx_still (s : State) (k : Nat) (g : Mailbox → Mailbox) :
    (State.modMbx s k g).still = s.still := by
  simp [State.modMbx]

@[simp] theorem State.msix_still (s : State) (f : Nat) (v : Nat) :
    (State.msix s f v).still = s.still := by
  simp [State.msix]

@[simp] theorem State.respond_still (s : State) (k : Nat) (status : Nat) (detail : Nat) (words : List W64) :
    (State.respond s k status detail words).still = s.still := by
  simp [State.respond]

@[simp] theorem State.mismatch_still (s : State) :
    (State.mismatch s).still = s.still := by
  simp [State.mismatch]

@[simp] theorem State.startSeal_still (s : State) :
    (State.startSeal s).still = s.still := by
  simp [State.startSeal]

@[simp] theorem State.giveAnswer_still (k : Nat) (a : Answer) : (State.giveAnswer k a).still = a.state.still := by
  cases a <;> simp [State.giveAnswer]

@[simp] theorem State.crossCheck_still (s : State) (k : Nat) (cores : Cores) (a : Answer) (h : a.state.still = s.still) :
    (State.crossCheck s k cores a).still = s.still := by
  unfold State.crossCheck; (repeat' split) <;> simp [h]

@[simp] theorem State.firstServe_still (s : State) :
    (State.firstServe s).still = s.still := by
  simp [State.firstServe]

@[simp] theorem State.acceptSeq_still (s : State) (k : Nat) :
    (State.acceptSeq s k).still = s.still := by
  simp [State.acceptSeq]

@[simp] theorem State.serve_still (s : State) (fn m : Nat) (c : Cmd) (body : State → Nat → Mailbox → Answer)
    (h : ∀ s p x, (body s p x).state.still = s.still) : (State.serve s fn m c body).still = s.still := by
  unfold State.serve; simp only []; split
  · split
    · split <;> simp
    · rw [State.crossCheck_still]
      · simp
      · simp [h]
  · rfl

@[simp] theorem failWith_still (s : State) (status : Nat) (detail : Nat) :
    (failWith s status detail).state.still = s.still := by
  simp [failWith]

@[simp] theorem okWith_still (s : State) (words : List W64) :
    (okWith s words).state.still = s.still := by
  simp [okWith]

@[simp] theorem execQpCreate_still (fn : Nat) (m : Nat) (pick : Nat) (cores : Cores) (s : State) :
    (stateAfter s (execQpCreate fn m pick cores s)).still = s.still := by
  unfold execQpCreate; simp only [stateAfter_next]; refine State.serve_still _ _ _ _ _ ?_; intro s p x; (repeat' split) <;> (try simp) <;> grind [State.serve_still, failWith_still, okWith_still, State.modQueue_still]

@[simp] theorem State.modSchedule_still (s : State) (p : Nat) (id : W32) (g : Schedule → Schedule) :
    (State.modSchedule s p id g).still = s.still := by
  simp [State.modSchedule]

@[simp] theorem State.modMer_still (s : State) (g : Meridian → Meridian) :
    (State.modMer s g).still = s.still := by
  simp [State.modMer]

@[simp] theorem State.dropAppt_still (s : State) (k : ApptKind) :
    (State.dropAppt s k).still = s.still := by
  simp [State.dropAppt]

@[simp] theorem State.dropSchedule_still (s : State) (p : Nat) (id : W32) :
    (State.dropSchedule s p id).still = s.still := by
  unfold State.dropSchedule; (repeat' split) <;> simp

@[simp] theorem State.endCallers_still (s : State) (p : Nat) (c : Schedule) (status : Nat) :
    (State.endCallers s p c status).still = s.still := by
  simp [State.endCallers]

@[simp] theorem execScheduleRelease_still (fn : Nat) (m : Nat) (cores : Cores) (s : State) :
    (stateAfter s (execScheduleRelease fn m cores s)).still = s.still := by
  unfold execScheduleRelease; simp only [stateAfter_next]; refine State.serve_still _ _ _ _ _ ?_; intro s p x; (repeat' split) <;> (try simp) <;> grind [State.serve_still, failWith_still, okWith_still, State.modSchedule_still, State.dropSchedule_still, State.endCallers_still]

@[simp] theorem State.endLeave_still (s : State) (u : LeaveFor) :
    (State.endLeave s u).still = s.still := by
  simp [State.endLeave]

@[simp] theorem State.modRed_still (s : State) (u : Nat) (g : RedUnit → RedUnit) :
    (State.modRed s u g).still = s.still := by
  simp [State.modRed]

@[simp] theorem State.dropCrossing_still (s : State) (d : Domain) :
    (State.dropCrossing s d).still = s.still := by
  simp [State.dropCrossing]

@[simp] theorem State.loseCopy_still (s : State) (q : Nat) (c : RxCopy) :
    (State.loseCopy s q c).still = s.still := by
  simp [State.loseCopy]

@[simp] theorem State.resetUnit_still (s : State) (x1 : UnitId) :
    (State.resetUnit s x1).still = s.still := by
  unfold State.resetUnit; (repeat' split) <;> simp

@[simp] theorem State.endColl_still (s : State) (x1 : Instance) (status : Nat) :
    (State.endColl s x1 status).still = s.still := by
  unfold State.endColl; (repeat' split) <;> simp

@[simp] theorem State.answer_still (s : State) (k : Nat) (status : Nat) (detail : Nat) (words : List W64) :
    (State.answer s k status detail words).still = s.still := by
  simp [State.answer]

@[simp] theorem State.releaseWaits_still (s : State) (pick : Wait → Bool) (status : Nat) (detail : Nat) (words : List W64) :
    (State.releaseWaits s pick status detail words).still = s.still := by
  simp [State.releaseWaits]

@[simp] theorem State.unbind_still (s : State) (k : Nat) :
    (State.unbind s k).still = s.still := by
  simp [State.unbind]

@[simp] theorem State.endScores_still (s : State) (p : Nat) (c : Schedule) :
    (State.endScores s p c).still = s.still := by
  unfold State.endScores; (repeat' split) <;> simp

@[simp] theorem State.clearInstance_still (s : State) (p : Nat) (c : Schedule) :
    (State.clearInstance s p c).still = s.still := by
  simp [State.clearInstance]

@[simp] theorem State.quenchInstance_still (s : State) (p : Nat) (id : W32) :
    (State.quenchInstance s p id).still = s.still := by
  simp [State.quenchInstance]

@[simp] theorem State.stopInstance_still (s : State) (p : Nat) (id : W32) (status : Nat) :
    (State.stopInstance s p id status).still = s.still := by
  unfold State.stopInstance; (repeat' split) <;> simp

@[simp] theorem State.modJob_still (s : State) (p : Nat) (j : Nat) (g : Job → Job) :
    (State.modJob s p j g).still = s.still := by
  unfold State.modJob; (repeat' split) <;> simp

@[simp] theorem State.abortJob_still (s : State) (p : Nat) (j : Nat) (status : Nat) :
    (State.abortJob s p j status).still = s.still := by
  simp [State.abortJob]

@[simp] theorem State.sendBeacon_still (s : State) (p : Nat) (j : Nat) (reason : Nat) :
    (State.sendBeacon s p j reason).still = s.still := by
  unfold State.sendBeacon; (repeat' split) <;> simp

@[simp] theorem State.originate_still (s : State) (p : Nat) (j : Nat) (reason : Nat) (status : Nat) :
    (State.originate s p j reason status).still = s.still := by
  unfold State.originate; (repeat' split) <;> simp

@[simp] theorem State.dropContextTiles_still (s : State) (c : Nat) (gen : BitVec 8) :
    (State.dropContextTiles s c gen).still = s.still := by
  simp [State.dropContextTiles]

@[simp] theorem State.endKernel_still (s : State) (k : Nat) (r : Running) (status : Nat) (detail : Nat) (result : W64) :
    (State.endKernel s k r status detail result).still = s.still := by
  simp [State.endKernel]

@[simp] theorem State.stopJobs_still (s : State) (k : Nat) (slot : Nat) :
    (State.stopJobs s k slot).still = s.still := by
  unfold State.stopJobs; (repeat' (first | rfl | split | (refine still_foldl _ _ _ ?_; intros) | simp))

@[simp] theorem State.wipeHead_still (s : State) (u : Nat) :
    (State.wipeHead s u).still = s.still := by
  unfold State.wipeHead; (repeat' split) <;> simp

@[simp] theorem State.stopReductions_still (s : State) (k : Nat) (slot : Nat) :
    (State.stopReductions s k slot).still = s.still := by
  simp [State.stopReductions]

@[simp] theorem State.cancelFlight_still (s : State) (k : Nat) (slot : Nat) (status : Nat) :
    (State.cancelFlight s k slot status).still = s.still := by
  simp [State.cancelFlight]

@[simp] theorem State.killKernel_still (s : State) (k : Nat) (status : Nat) (detail : Nat) :
    (State.killKernel s k status detail).still = s.still := by
  unfold State.killKernel; (repeat' split) <;> simp

@[simp] theorem State.endRegions_still (s : State) (c : Nat) (gen : BitVec 8) :
    (State.endRegions s c gen).still = s.still := by
  simp [State.endRegions]

@[simp] theorem State.bumpContext_still (s : State) (c : Nat) (detail : Nat) :
    (State.bumpContext s c detail).still = s.still := by
  simp [State.bumpContext]

@[simp] theorem State.abortContext_still (s : State) (c : Nat) (detail : Nat) :
    (State.abortContext s c detail).still = s.still := by
  simp [State.abortContext]

@[simp] theorem State.setUnit_still (s : State) (r : Recovery) :
    (State.setUnit s r).still = s.still := by
  simp [State.setUnit]

@[simp] theorem State.sendControl_still (s : State) (port : Nat) (code : Nat) (words : List W64) :
    (State.sendControl s port code words).still = s.still := by
  simp [State.sendControl]

@[simp] theorem State.resetNotices_still (s : State) :
    (State.resetNotices s).still = s.still := by
  simp [State.resetNotices]

@[simp] theorem State.clearSpace_still (s : State) (p : Nat) (off : Nat) (size : Nat) :
    (State.clearSpace s p off size).still = s.still := by
  simp [State.clearSpace]

@[simp] theorem State.freePlacement_still (s : State) (i : Nat) :
    (State.freePlacement s i).still = s.still := by
  simp [State.freePlacement]

@[simp] theorem State.keepPlacements_still (s : State) :
    (State.keepPlacements s).still = s.still := by
  simp [State.keepPlacements]

@[simp] theorem State.newDeviceDump_still (s : State) (trigger : Nat) :
    (State.newDeviceDump s trigger).still = s.still := by
  simp [State.newDeviceDump]

@[simp] theorem State.resetBeacons_still (s : State) :
    (State.resetBeacons s).still = s.still := by
  simp [State.resetBeacons]

@[simp] theorem State.capture_still (s : State) (trigger : Nat) :
    (State.capture s trigger).still = s.still := by
  simp [State.capture]

@[simp] theorem State.retireUnit_still (s : State) (u : UnitId) :
    (State.retireUnit s u).still = s.still := by
  unfold State.retireUnit; (repeat' split) <;> simp

@[simp] theorem State.popHead_still (s : State) (port : Nat) :
    (State.popHead s port).still = s.still := by
  simp [State.popHead]

@[simp] theorem State.sendHead_still (s : State) (port : Nat) (h : Head) (o : Nat) (busy : Nat) :
    (State.sendHead s port h o busy).still = s.still := by
  simp [State.sendHead]

@[simp] theorem State.sendCnp_still (s : State) (qp : Nat) :
    (State.sendCnp s qp).still = s.still := by
  unfold State.sendCnp; (repeat' split) <;> simp

@[simp] theorem State.landFrame_still (s : State) (port : Nat) (f : Frame) :
    (State.landFrame s port f).still = s.still := by
  unfold State.landFrame; (repeat' split) <;> simp

@[simp] theorem State.abandonLpddr_still (s : State) (p : Nat) :
    (State.abandonLpddr s p).still = s.still := by
  simp [State.abandonLpddr]

@[simp] theorem State.fly_still (s : State) (k : Nat) (r : Running) (t : Step) (segs : List Segment) :
    (State.fly s k r t segs).still = s.still := by
  simp [State.fly]

@[simp] theorem State.park_still (s : State) (k : Nat) (r : Running) (t : Step) (w : SeqWait) :
    (State.park s k r t w).still = s.still := by
  simp [State.park]

@[simp] theorem execBar4Access_still (port : Nat) (offset : Nat) (write : Option (List Byte)) (length : Nat) (s : State) :
    (stateAfter s (execBar4Access port offset write length s)).still = s.still := by
  unfold execBar4Access; (repeat' split) <;> simp

@[simp] theorem State.setRing_still (s : State) (r : Nat) (x2 : Ring) :
    (State.setRing s r x2).still = s.still := by
  simp [State.setRing]

@[simp] theorem State.ringTrigger_still (s : State) (rn : Nat) :
    (State.ringTrigger s rn).still = s.still := by
  unfold State.ringTrigger; (repeat' split) <;> simp

@[simp] theorem State.ringWrite_still (s : State) (rn : Nat) (e : Entry) :
    (State.ringWrite s rn e).still = s.still := by
  unfold State.ringWrite; (repeat' split) <;> simp

@[simp] theorem State.retire_still (s : State) (q : Nat) (i : W32) :
    (State.retire s q i).still = s.still := by
  simp [State.retire]

@[simp] theorem State.retireEntry_still (s : State) (e : Entry) :
    (State.retireEntry s e).still = s.still := by
  simp [State.retireEntry]

@[simp] theorem State.ringStall_still (s : State) (rn : Nat) (r : Ring) (e : Entry) :
    (State.ringStall s rn r e).still = s.still := by
  simp [State.ringStall]

@[simp] theorem State.ringPush_still (s : State) (rn : Nat) (e : Entry) :
    (State.ringPush s rn e).still = s.still := by
  unfold State.ringPush; (repeat' split) <;> simp

@[simp] theorem State.queueError_still (s : State) (q : Nat) (status : Nat) :
    (State.queueError s q status).still = s.still := by
  unfold State.queueError; (repeat' split) <;> simp

@[simp] theorem State.slotsFailed_still (s : State) (qn : Nat) (first : W32) :
    (State.slotsFailed s qn first).still = s.still := by
  unfold State.slotsFailed; (repeat' split) <;> simp

@[simp] theorem State.readSlots_still (s : State) (qn : Nat) (q : Queue) (j : Nat) :
    (State.readSlots s qn q j).still = s.still := by
  simp [State.readSlots]

@[simp] theorem State.fetchSlots_still (s : State) (qn : Nat) :
    (State.fetchSlots s qn).still = s.still := by
  unfold State.fetchSlots; (repeat' split) <;> simp

@[simp] theorem State.acceptOne_still (s : State) (qn : Nat) :
    (State.acceptOne s qn).1.still = s.still := by
  unfold State.acceptOne; simp only []; (repeat' split) <;> simp

theorem State.acceptOne_pair (s : State) (qn : Nat) {t' : State} {b' : Bool}
    (h : State.acceptOne s qn = (t', b')) : t'.still = s.still := by
  have k := State.acceptOne_still s qn; rw [h] at k; exact k

@[simp] theorem State.acceptAll_still (s : State) (q n : Nat) : (State.acceptAll s q n).still = s.still := by
  induction n generalizing s with
  | zero => rfl
  | succ n ih => unfold State.acceptAll; (repeat' split) <;> grind [State.acceptOne_still]

@[simp] theorem State.slotInvalid_still (s : State) (qn : Nat) (q : Queue) :
    (State.slotInvalid s qn q).still = s.still := by
  simp [State.slotInvalid]

@[simp] theorem State.slotsRead_still (s : State) (qn : Nat) (first : W32) (l : List (List Byte)) (count : Nat) :
    (State.slotsRead s qn first l count).still = s.still := by
  unfold State.slotsRead; simp only []; (repeat' split) <;> simp

@[simp] theorem State.stirOwner_still (s : State) (o : TileOwner) :
    (State.stirOwner s o).still = s.still := by
  unfold State.stirOwner; (repeat' split) <;> simp

@[simp] theorem State.pumpTile_still (s : State) (id : Nat) (x2 : Nat) :
    (State.pumpTile s id x2).still = s.still := by
  fun_induction State.pumpTile s id x2 <;> grind [State.hostRead_still, → State.hostRead_pair, State.untranslated_still, State.modTile_still]

@[simp] theorem State.pumpTiles_still (s : State) :
    (State.pumpTiles s).still = s.still := by
  simp [State.pumpTiles]

@[simp] theorem State.addFetched_still (s : State) (o : TileOwner) (off : Nat) (b : List Byte) :
    (State.addFetched s o off b).still = s.still := by
  unfold State.addFetched; (repeat' split) <;> simp

@[simp] theorem State.finishTile_still (s : State) (id : Nat) :
    (State.finishTile s id).still = s.still := by
  unfold State.finishTile; (repeat' split) <;> simp

@[simp] theorem State.tileData_still (s : State) (id : Nat) (off : Nat) (b : List Byte) :
    (State.tileData s id off b).still = s.still := by
  unfold State.tileData; (repeat' split) <;> simp

@[simp] theorem State.endTileRead_still (s : State) (id : Nat) (off : Nat) (len : Nat) (status : Nat) (b : Option (List Byte)) :
    (State.endTileRead s id off len status b).still = s.still := by
  unfold State.endTileRead; (repeat' split) <;> simp

@[simp] theorem State.probeFailed_still (s : State) (port : Nat) (a : Nat) :
    (State.probeFailed s port a).still = s.still := by
  simp [State.probeFailed]

@[simp] theorem State.serveRead_still (s : State) (q : Nat) (id : Nat) :
    (State.serveRead s q id).still = s.still := by
  unfold State.serveRead; (repeat' split) <;> simp

@[simp] theorem State.endServedRead_still (s : State) (q : Nat) (id : Nat) (off : Nat) (len : Nat) (status : Nat) (b : Option (List Byte)) :
    (State.endServedRead s q id off len status b).still = s.still := by
  unfold State.endServedRead; (repeat' split) <;> simp

@[simp] theorem State.flushDone_still (s : State) (queue : Nat) (index : W32) :
    (State.flushDone s queue index).still = s.still := by
  unfold State.flushDone; simp only []; (repeat' split) <;> simp

@[simp] theorem State.flushRead_still (s : State) (f : Flush) :
    (State.flushRead s f).still = s.still := by
  simp [State.flushRead]

@[simp] theorem State.flushReads_still (s : State) :
    (State.flushReads s).still = s.still := by
  simp [State.flushReads]

@[simp] theorem State.probeP2p_still (s : State) (port : Nat) (a : Nat) :
    (State.probeP2p s port a).still = s.still := by
  simp [State.probeP2p]

@[simp] theorem State.pumpServedAll_still (s : State) :
    (State.pumpServedAll s).still = s.still := by
  simp [State.pumpServedAll]

@[simp] theorem State.retryReads_still (s : State) (port : Nat) :
    (State.retryReads s port).still = s.still := by
  simp [State.retryReads]

@[simp] theorem State.endHostRead_still (s : State) (port : Nat) (r : HostRead) (status : Nat) (b : Option (List Byte)) (refused : Bool) :
    (State.endHostRead s port r status b refused).still = s.still := by
  unfold State.endHostRead; simp only []; (repeat' split) <;> simp

@[simp] theorem State.giveTrigs_still (s : State) (p : Nat) (i : Nat) (n : Nat) :
    (State.giveTrigs s p i n).still = s.still := by
  simp [State.giveTrigs]

@[simp] theorem State.checkEnd_still (s : State) (k : Nat) :
    (State.checkEnd s k).still = s.still := by
  unfold State.checkEnd; (repeat' split) <;> simp

@[simp] theorem State.failKernel_still (s : State) (k : Nat) (status : Nat) (index : Nat) :
    (State.failKernel s k status index).still = s.still := by
  unfold State.failKernel; (repeat' split) <;> simp

@[simp] theorem State.failStep_still (s : State) (k : Nat) (r : Running) (status : Nat) :
    (State.failStep s k r status).still = s.still := by
  simp [State.failStep]

@[simp] theorem State.issueStep_still (s : State) (k op sub : Nat) (act : Running → Step → State)
    (h : ∀ r t, (act r t).still = s.still) : (State.issueStep s k op sub act).still = s.still := by
  unfold State.issueStep; (repeat' split) <;> simp [h]

@[simp] theorem State.takeRequest_still (s : State) (a : Nat) (tag : Nat) :
    (State.takeRequest s a tag).still = s.still := by
  simp [State.takeRequest]

@[simp] theorem execPpsOutFall_still (s : State) :
    (stateAfter s (execPpsOutFall s)).still = s.still := by
  simp [execPpsOutFall]

@[simp] theorem State.deleteRecord_still (s : State) (q : Nat) (k : MsgKey) :
    (State.deleteRecord s q k).still = s.still := by
  unfold State.deleteRecord; (repeat' split) <;> simp

@[simp] theorem State.dropCopy_still (s : State) (q : Nat) (c : RxCopy) :
    (State.dropCopy s q c).still = s.still := by
  unfold State.dropCopy; simp only []; (repeat' split) <;> simp

@[simp] theorem State.dropAborted_still (s : State) (port : Nat) (part : List Byte) :
    (State.dropAborted s port part).still = s.still := by
  simp [State.dropAborted]

@[simp] theorem State.abortPacket_still (s : State) (port : Nat) :
    (State.abortPacket s port).still = s.still := by
  simp [State.abortPacket]

@[simp] theorem State.goodFlit_still (s : State) (port : Nat) (l : List Byte) :
    (State.goodFlit s port l).still = s.still := by
  simp [State.goodFlit]

@[simp] theorem State.endLaneLeave_still (s : State) (port : Nat) :
    (State.endLaneLeave s port).still = s.still := by
  simp [State.endLaneLeave]

@[simp] theorem State.moveFallback_still (s : State) (port : Nat) :
    (State.moveFallback s port).still = s.still := by
  unfold State.moveFallback; (repeat' (first | rfl | split | simp only [] | (refine (still_foldl _ _ _ ?_).trans ?_; intros))) <;> grind [State.modPort_still, State.pickOutput_still]

@[simp] theorem State.maskRaw_still (s : State) (port : Nat) (counted : Bool) :
    (State.maskRaw s port counted).still = s.still := by
  simp [State.maskRaw]

@[simp] theorem State.respCommitted_still (s : State) (q : Nat) (c : RxCopy) (status : Nat) :
    (State.respCommitted s q c status).still = s.still := by
  unfold State.respCommitted; simp only []; (repeat' split) <;> simp

@[simp] theorem State.loseRequest_still (s : State) (r : AttReq) :
    (State.loseRequest s r).still = s.still := by
  unfold State.loseRequest; (repeat' split) <;> simp

@[simp] theorem State.endSession_still (s : State) (a : Nat) :
    (State.endSession s a).still = s.still := by
  simp [State.endSession]

@[simp] theorem State.badFlit_still (s : State) (port : Nat) :
    (State.badFlit s port).still = s.still := by
  simp [State.badFlit]

@[simp] theorem State.attachFlit_still (s : State) (port : Nat) (bytes : List Byte) :
    (State.attachFlit s port bytes).still = s.still := by
  unfold State.attachFlit; simp only []; (repeat' split) <;> simp

@[simp] theorem State.checkSession_still (s : State) (port : Nat) :
    (State.checkSession s port).still = s.still := by
  unfold State.checkSession; (repeat' split) <;> simp

@[simp] theorem State.maskPort_still (s : State) (port : Nat) :
    (State.maskPort s port).still = s.still := by
  simp [State.maskPort]

@[simp] theorem State.countCodewords_still (s : State) (port : Nat) (n : Nat) :
    (State.countCodewords s port n).still = s.still := by
  simp [State.countCodewords]

@[simp] theorem execDataFlit_still (port : Nat) (bytes : List Byte) (uncorrectable : Nat) (s : State) :
    (stateAfter s (execDataFlit port bytes uncorrectable s)).still = s.still := by
  simp [execDataFlit]

@[simp] theorem State.queueReduction_still (s : State) (u : Nat) (x2 : Reduction) :
    (State.queueReduction s u x2).still = s.still := by
  simp [State.queueReduction]

@[simp] theorem State.openSegment_still (s : State) (g : Segment) (k : Nat) (slot : Nat) (r : Running) (a : W64) (len : Nat) (write : Bool) (buf : Nat) :
    (State.openSegment s g k slot r a len write buf).still = s.still := by
  simp [State.openSegment]

@[simp] theorem State.openRange_still (s : State) (k : Nat) (slot : Nat) (r : Running) (a : W64) (len : Nat) (write : Bool) (buf : Nat) :
    (State.openRange s k slot r a len write buf).still = s.still := by
  simp [State.openRange]

@[simp] theorem State.reduceStep_still (s : State) (k : Nat) (r : Running) (t : Step) (convert : Bool) :
    (State.reduceStep s k r t convert).still = s.still := by
  simp [State.reduceStep]

@[simp] theorem execXformConvert_still (k : Nat) (s : State) :
    (stateAfter s (execXformConvert k s)).still = s.still := by
  simp [execXformConvert]

@[simp] theorem State.stepDone_still (s : State) (k : Nat) (r : Running) (t : Step) (next : Nat) :
    (State.stepDone s k r t next).still = s.still := by
  simp [State.stepDone]

@[simp] theorem execWidthProposal_still (port : Nat) (outBusy : Nat) (inBusy : Nat) (peakBusy : Nat) (heldUs : Nat) (s : State) :
    (stateAfter s (execWidthProposal port outBusy inBusy peakBusy heldUs s)).still = s.still := by
  simp [execWidthProposal]

@[simp] theorem State.feedRunning_still (s : State) (q : Nat) (i : W32) (l : List (Nat × Nat)) :
    (State.feedRunning s q i l).still = s.still := by
  unfold State.feedRunning; (repeat' split) <;> simp

@[simp] theorem State.formEntry_still (s : State) (q : Nat) (i : W32) (skipFlush : Bool) :
    (State.formEntry s q i skipFlush).still = s.still := by
  unfold State.formEntry; (repeat' split) <;> simp

@[simp] theorem State.formAll_still (s : State) (q : Nat) (skipFlush : Bool) :
    (State.formAll s q skipFlush).still = s.still := by
  unfold State.formAll; (repeat' split) <;> simp

@[simp] theorem State.cutWork_still (s : State) (q : Nat) (i : W32) (status : Nat) (detail : Nat) :
    (State.cutWork s q i status detail).still = s.still := by
  unfold State.cutWork; (repeat' split) <;> simp

@[simp] theorem State.cutQueue_still (s : State) (q : Nat) (status : Nat) :
    (State.cutQueue s q status).1.still = s.still := by
  simp [State.cutQueue]

theorem State.cutQueue_pair (s : State) (q : Nat) (status : Nat) {t' : State} {b' : Nat}
    (h : State.cutQueue s q status = (t', b')) : t'.still = s.still := by
  have k := State.cutQueue_still s q status; rw [h] at k; exact k

@[simp] theorem State.orphanReads_still (s : State) (pick : ReadUse → Bool) :
    (State.orphanReads s pick).still = s.still := by
  simp [State.orphanReads]

@[simp] theorem State.dropQueue_still (s : State) (q : Nat) :
    (State.dropQueue s q).still = s.still := by
  simp [State.dropQueue]

@[simp] theorem State.endQueue_still (s : State) (q : Nat) (skipFlush : Bool) :
    (State.endQueue s q skipFlush).still = s.still := by
  simp [State.endQueue]

@[simp] theorem innerFail_still (s : State) (status : Nat) (detail : Nat) :
    (innerFail s status detail).state.still = s.still := by
  simp [innerFail]

@[simp] theorem State.modSession_still (s : State) (p : Nat) (g : KeySession → KeySession) :
    (State.modSession s p g).still = s.still := by
  simp [State.modSession]

@[simp] theorem State.keyStep_still (s : State) (p : Nat) (i : Inner) (l : Bool) :
    (State.keyStep s p i l).still = i.state.still := by
  simp [State.keyStep]

@[simp] theorem State.endBulk_still (s : State) (k : Nat) :
    (State.endBulk s k).still = s.still := by
  simp [State.endBulk]

@[simp] theorem State.lapsed_still (s : State) (k : Nat) :
    (State.lapsed s k).state.still = s.still := by
  simp [State.lapsed]

theorem State.onBulk_state (s : State) (fn k : Nat) (x : Mailbox) (f : Bulk → Answer)
    (h : ∀ b, (f b).state.still = s.still) : (State.onBulk s fn k x f).state.still = s.still := by
  unfold State.onBulk; (repeat' split) <;> simp [h]

@[simp] theorem State.serveCommit_still (s : State) (fn m kind : Nat) (pick : Bulk → Bool)
    (body : State → Nat → Bulk → Answer) (cores : Cores) (h : ∀ s p b, (body s p b).state.still = s.still) :
    (State.serveCommit s fn m kind pick body cores).still = s.still := by
  unfold State.serveCommit
  (repeat' split) <;> simp only [] <;> (repeat' split) <;> (try rfl)
  refine State.serve_still _ _ _ _ _ ?_; intro s p x
  exact State.onBulk_state _ _ _ _ _ fun b => (h _ _ _).trans (by simp)

@[simp] theorem State.runKeyCmd_still (s : State) (p code : Nat) (x : KeySession) (plain : List Byte)
    (body : State → KeySession → Inner) (h : ∀ s x, (body s x).state.still = s.still) :
    (State.runKeyCmd s p code x plain body).state.still = s.still := by
  unfold State.runKeyCmd; (repeat' split) <;> simp [h, innerFail]

@[simp] theorem State.serveKeyCmd_still (s : State) (fn m code args : Nat)
    (body : State → Nat → KeySession → List Byte → Inner) (cores : Cores)
    (h : ∀ s p x l, (body s p x l).state.still = s.still) :
    (State.serveKeyCmd s fn m code args body cores).still = s.still := by
  unfold State.serveKeyCmd
  refine State.serveCommit_still _ _ _ _ _ _ _ ?_; intro s p b
  split
  · rfl
  · split
    · rfl
    · rename_i x _ _ plain _
      split
      · rfl
      · simp only []
        have r : (s.runKeyCmd p code x plain fun s x =>
            if plain.length ≠ 4 + args then innerFail s Status.reservedEncoding else body s p x plain).state.still = s.still :=
          State.runKeyCmd_still _ _ _ _ _ _ fun s x => by split <;> simp [h, innerFail]
        generalize (s.runKeyCmd p code x plain fun s x =>
            if plain.length ≠ 4 + args then innerFail s Status.reservedEncoding else body s p x plain) = i at r ⊢
        split <;> simp [r]

@[simp] theorem State.addAppt_still (s : State) (a : Appointment) :
    (State.addAppt s a).still = s.still := by
  simp [State.addAppt]

@[simp] theorem State.modKey_still (s : State) (p : Nat) (job : Option Nat) (g : KeyGens → KeyGens) :
    (State.modKey s p job g).still = s.still := by
  unfold State.modKey; (repeat' split) <;> simp

@[simp] theorem State.rotateCmd_still (s : State) (now : Nat) (p : Nat) (job : Option Nat) (gen : Nat) (t : Nat) :
    (State.rotateCmd s now p job gen t).state.still = s.still := by
  unfold State.rotateCmd; (repeat' split) <;> simp

@[simp] theorem execRotate_still (fn : Nat) (m : Nat) (cores : Cores) (s : State) :
    (stateAfter s (execRotate fn m cores s)).still = s.still := by
  unfold execRotate; rw [stateAfter_next]; refine State.serveCommit_still _ _ _ _ _ _ _ ?_; intro s p x; (try simp only []); (repeat' split) <;> (try simp) <;> grind [innerFail_still, State.rotateCmd_still]

@[simp] theorem execTrainingTimeout_still (port : Nat) (s : State) :
    (stateAfter s (execTrainingTimeout port s)).still = s.still := by
  simp [execTrainingTimeout]

@[simp] theorem execBulkTimeout_still (fn : Nat) (m : Nat) (s : State) :
    (stateAfter s (execBulkTimeout fn m s)).still = s.still := by
  simp [execBulkTimeout]

@[simp] theorem State.openBulk_still (s : State) (k : Nat) (b : Bulk) :
    (State.openBulk s k b).still = s.still := by
  simp [State.openBulk]

@[simp] theorem execBulkPut_still (fn m : Nat) (s : State) : (stateAfter s (execBulkPut fn m s)).still = s.still := by
  unfold execBulkPut; simp only []; rw [stateAfter_next]
  refine State.serve_still _ _ _ _ _ ?_; intro s p x
  refine State.onBulk_state _ _ _ _ _ fun b => ?_
  (repeat' split) <;> simp

@[simp] theorem execDumpList_still (fn : Nat) (m : Nat) (s : State) :
    (stateAfter s (execDumpList fn m s)).still = s.still := by
  unfold execDumpList; simp only [stateAfter_next]; refine State.serve_still _ _ _ _ _ ?_; intro s p x; (repeat' split) <;> (try simp) <;> grind [State.serve_still, okWith_still]

@[simp] theorem State.modCongest_still (s : State) (q : Nat) (dst : Nat) (g : Congest → Congest) :
    (State.modCongest s q dst g).still = s.still := by
  simp [State.modCongest]

@[simp] theorem State.startMessage_still (s : State) (q : Nat) (m : Nat) (x3 : Sender) :
    (State.startMessage s q m x3).still = s.still := by
  simp [State.startMessage]

theorem State.ensureCongest_some (s : State) (q d : Nat) {t : State} (h : s.ensureCongest q d = some t) :
    t.still = s.still := by
  unfold State.ensureCongest at h; simp only [] at h; grind [State.modQuad_still, State.countIn_still]

@[simp] theorem State.beginMessage_still (s : State) (q : Nat) (m : Nat) (x3 : Sender) :
    (State.beginMessage s q m x3).still = s.still := by
  unfold State.beginMessage; simp only [stateAfter_next]; (repeat' split) <;> (try simp) <;> grind [State.modQuad_still, State.countIn_still, State.startMessage_still, → State.ensureCongest_some, State.setSender_still]

@[simp] theorem State.tryBegin_still (s : State) (q : Nat) (m : Nat) (x3 : Sender) :
    (State.tryBegin s q m x3).still = s.still := by
  unfold State.tryBegin; (repeat' split) <;> simp

@[simp] theorem execMessageBegin_still (quadrant : Nat) (msg : Nat) (s : State) :
    (stateAfter s (execMessageBegin quadrant msg s)).still = s.still := by
  unfold execMessageBegin; (repeat' split) <;> simp

@[simp] theorem State.ringDrain_still (s : State) (r n : Nat) : (State.ringDrain s r n).still = s.still := by
  induction n generalizing s with
  | zero => rfl
  | succ n ih => unfold State.ringDrain; (repeat' split) <;> simp [ih]

@[simp] theorem State.resumeFeeders_still (s : State) (rn : Nat) :
    (State.resumeFeeders s rn).still = s.still := by
  simp [State.resumeFeeders]

@[simp] theorem execCmpConsumer_still (fn : Nat) (slot : Nat) (value : W32) (s : State) :
    (stateAfter s (execCmpConsumer fn slot value s)).still = s.still := by
  unfold execCmpConsumer; (repeat' split) <;> simp

@[simp] theorem State.modRing_still (s : State) (r : Nat) (g : Ring → Ring) :
    (State.modRing s r g).still = s.still := by
  unfold State.modRing; (repeat' split) <;> simp

@[simp] theorem execCmpIntArm_still (fn : Nat) (slot : Nat) (value : W32) (s : State) :
    (stateAfter s (execCmpIntArm fn slot value s)).still = s.still := by
  unfold execCmpIntArm; (repeat' split) <;> simp

@[simp] theorem State.writeCmp_still (s : State) (fn : Nat) (o : Nat) (v : Nat) :
    (State.writeCmp s fn o v).still = s.still := by
  unfold State.writeCmp; (repeat' split) <;> simp

@[simp] theorem State.startNative_still (s : State) (q : Nat) (x2 : Queue) (d : Desc) (l : List (Nat × Nat)) :
    (State.startNative s q x2 d l).still = s.still := by
  simp [State.startNative]

@[simp] theorem State.freeBacking_still (s : State) (port : Nat) :
    (State.freeBacking s port).still = s.still := by
  unfold State.freeBacking; (repeat' split) <;> simp

@[simp] theorem State.newPlacement_still (s : State) (i : Nat) (p : Nat) (size : Nat) (off : Nat) (w : Wish) (lpddr : Bool) (quadrant : Nat) (hdm : Option Nat) :
    (State.newPlacement s i p size off w lpddr quadrant hdm).still = s.still := by
  simp [State.newPlacement]

theorem State.allocBacking_some (s : State) (p l k : Nat) {t : State} (h : s.allocBacking p l k = some t) :
    t.still = s.still := by
  unfold State.allocBacking at h; simp only [] at h; grind [State.modHost_still, State.newPlacement_still]

@[simp] theorem State.writeHdmLength_still (s : State) (port n pick : Nat) :
    (State.writeHdmLength s port n pick).still = s.still := by
  unfold State.writeHdmLength; simp only []
  (repeat' split) <;> (try simp)
  cases h : (s.freeBacking port).allocBacking port n pick
  · simp
  · simpa using State.allocBacking_some _ _ _ _ h

@[simp] theorem State.deferStarts_still (s : State) (p : Nat) (id : W32) (n : Nat) :
    (State.deferStarts s p id n).still = s.still := by
  simp [State.deferStarts]

@[simp] theorem State.openBuffer_still (s : State) (p : Nat) (c : Schedule) (r : Nat × W64 × Nat × Bool) :
    (State.openBuffer s p c r).still = s.still := by
  simp [State.openBuffer]

@[simp] theorem State.startInstance_still (s : State) (p : Nat) (c : Schedule) (mt : Nat) (coll : Option (Nat × Nat)) :
    (State.startInstance s p c mt coll).still = s.still := by
  simp [State.startInstance]

@[simp] theorem State.startDue_still (s : State) (p : Nat) (id : W32) (mt : Nat) (n : Nat) :
    (State.startDue s p id mt n).still = s.still := by
  unfold State.startDue; (repeat' split) <;> simp

@[simp] theorem State.trigStart_still (s : State) (p : Nat) (id : W32) :
    (State.trigStart s p id).still = s.still := by
  unfold State.trigStart; (repeat' split) <;> simp

@[simp] theorem State.trigMoved_still (s : State) :
    (State.trigMoved s).still = s.still := by
  simp [State.trigMoved]

@[simp] theorem State.stepNow_still (s : State) (k : Nat) (r : Running) (t : Step) (next : Nat) :
    (State.stepNow s k r t next).still = s.still := by
  simp [State.stepNow]

@[simp] theorem State.holdLow_still (s : State) (fn : Nat) (o : Nat) (v : Nat) :
    (State.holdLow s fn o v).still = s.still := by
  simp [State.holdLow]

@[simp] theorem State.unread_still (s : State) (port : Nat) (r : HostRead) :
    (State.unread s port r).still = s.still := by
  unfold State.unread; (repeat' split) <;> simp

@[simp] theorem State.crossQuarantines_still (s : State) (old : Nat) (new : Nat) :
    (State.crossQuarantines s old new).still = s.still := by
  simp [State.crossQuarantines]

@[simp] theorem State.freeFlags_still (s : State) (q : Nat) :
    (State.freeFlags s q).still = s.still := by
  simp [State.freeFlags]

@[simp] theorem State.sendHeartbeats_still (s : State) (p : Nat) (job : Nat) :
    (State.sendHeartbeats s p job).still = s.still := by
  unfold State.sendHeartbeats; (repeat' split) <;> simp

@[simp] theorem State.gateTakeoverAt_still (s : State) (port : Nat) (time : Nat) :
    (State.gateTakeoverAt s port time).still = s.still := by
  simp [State.gateTakeoverAt]

@[simp] theorem State.rotatePart_still (s : State) (p : Nat) (job : Option Nat) (q : Nat) (last : Bool) :
    (State.rotatePart s p job q last).still = s.still := by
  unfold State.rotatePart; simp only []; (repeat' split) <;> simp

@[simp] theorem State.endEpoch_still (s : State) (time : Nat) :
    (State.endEpoch s time).still = s.still := by
  unfold State.endEpoch; simp only []; (repeat' split) <;> simp

@[simp] theorem State.apptAct_still (s : State) (k : ApptKind) (q : Nat) :
    (State.apptAct s k q).still = s.still := by
  simp [State.apptAct]

@[simp] theorem execHostCxlMemRequest_still (port : Nat) (line : Nat) (write : Option (List Byte)) (s : State) :
    (stateAfter s (execHostCxlMemRequest port line write s)).still = s.still := by
  unfold execHostCxlMemRequest; (repeat' split) <;> simp

@[simp] theorem State.startAtomic_still (s : State) (q : Nat) (i : W32) (op : Nat) :
    (State.startAtomic s q i op).still = s.still := by
  unfold State.startAtomic; (repeat' split) <;> grind [State.startBound_still, → State.localRead_wait, → State.localRead_fail, State.modDesc_still, State.startFetch_still, State.cutDesc_still, State.startNative_still]

@[simp] theorem execAdd64_still (queue : Nat) (index : W32) (s : State) :
    (stateAfter s (execAdd64 queue index s)).still = s.still := by
  simp [execAdd64]

@[simp] theorem execContextQuarantineEnd_still (context : Nat) (s : State) :
    (stateAfter s (execContextQuarantineEnd context s)).still = s.still := by
  simp [execContextQuarantineEnd]

@[simp] theorem State.holdRdma_still (s : State) (q : Nat) (qp : Nat) (pkt : Packet) (att : Option Nat) :
    (State.holdRdma s q qp pkt att).1.still = s.still := by
  simp [State.holdRdma]

theorem State.holdRdma_pair (s : State) (q : Nat) (qp : Nat) (pkt : Packet) (att : Option Nat) {t' : State} {b' : Nat}
    (h : State.holdRdma s q qp pkt att = (t', b')) : t'.still = s.still := by
  have k := State.holdRdma_still s q qp pkt att; rw [h] at k; exact k

@[simp] theorem State.rdmaNotReady_still (s : State) (qp : Nat) (psn : Nat) :
    (State.rdmaNotReady s qp psn).still = s.still := by
  simp [State.rdmaNotReady]

@[simp] theorem State.rdmaAccess_still (s : State) (qp : Nat) (psn : Nat) :
    (State.rdmaAccess s qp psn).still = s.still := by
  simp [State.rdmaAccess]

@[simp] theorem State.rdmaLand_still (s : State) (port : Nat) (qp : Nat) (psn : Nat) (q : QueuePair) (op : RdmaOp) (pkt : Packet) :
    (State.rdmaLand s port qp psn q op pkt).still = s.still := by
  unfold State.rdmaLand; simp only [stateAfter_next]; (repeat' split) <;> (try simp) <;> grind [State.rdmaReply_still, State.modQp_still, State.atomicAt_still, → State.atomicAt_pair, State.askLines_still, State.holdRdma_still, → State.holdRdma_pair, State.rdmaNotReady_still, State.rdmaAccess_still, → State.landBytes_done, → State.landBytes_wait, → State.landBytes_sent, → State.landBytes_retry, → State.landBytes_fail, State.landRead_still]

@[simp] theorem State.spdmSend_still (s : State) (ep : Nat) (code : Nat) (body : List Byte) :
    (State.spdmSend s ep code body).still = s.still := by
  simp [State.spdmSend]

@[simp] theorem State.spdmFail_still (s : State) (ep : Nat) (e : SpdmErr) :
    (State.spdmFail s ep e).still = s.still := by
  simp [State.spdmFail]

@[simp] theorem State.ackBefore_still (s : State) (qp : Nat) (psn : Nat) :
    (State.ackBefore s qp psn).still = s.still := by
  unfold State.ackBefore; (repeat' split) <;> simp

@[simp] theorem State.flushBound_still (s : State) (qn : Nat) (queueStatus : Nat) (flushStatus : Nat) :
    (State.flushBound s qn queueStatus flushStatus).still = s.still := by
  unfold State.flushBound; (repeat' split) <;> simp

@[simp] theorem State.failQp_still (s : State) (qp : Nat) (concerned : Option W32) (status : Nat) (detail : Nat) :
    (State.failQp s qp concerned status detail).still = s.still := by
  unfold State.failQp; (repeat' split) <;> simp

@[simp] theorem State.rnrNak_still (s : State) (qp : Nat) (q : QueuePair) (syndrome : Nat) :
    (State.rnrNak s qp q syndrome).still = s.still := by
  simp [State.rnrNak]

theorem State.takeFrame_some (s : State) (port : Nat) (kind : FrameKind) {t : State}
    (h : State.takeFrame s port kind = some t) : t.still = s.still := by
  revert h; unfold State.takeFrame; simp only []; (repeat' split) <;> intro h <;> simp at h <;> grind [State.modPort_still, State.modQuad_still]

@[simp] theorem execRoceNak_still (qp : Nat) (psn : Nat) (syndrome : Nat) (s : State) :
    (stateAfter s (execRoceNak qp psn syndrome s)).still = s.still := by
  unfold execRoceNak; simp only [stateAfter_next]; (repeat' split) <;> (try simp) <;> grind [State.resendRdma_still, State.ackBefore_still, State.modQp_still, State.rnrNak_still, → State.takeFrame_some, State.failQp_still]

@[simp] theorem State.endRekey_still (s : State) (p : Nat) (r : Rekey) :
    (State.endRekey s p r).still = s.still := by
  simp [State.endRekey]

@[simp] theorem State.advanceRekey_still (s : State) (p : Nat) (r : Rekey) :
    (State.advanceRekey s p r).still = s.still := by
  simp [State.advanceRekey]

@[simp] theorem State.unbind?_still (s : State) (fn : Nat) :
    (State.unbind? s fn).still = s.still := by
  simp [State.unbind?]

@[simp] theorem State.dropRing_still (s : State) (rn : Nat) :
    (State.dropRing s rn).still = s.still := by
  unfold State.dropRing; (repeat' split) <;> simp

@[simp] theorem State.destroyContext_still (s : State) (c : Nat) :
    (State.destroyContext s c).still = s.still := by
  unfold State.destroyContext; simp only []; (repeat' split) <;> simp

@[simp] theorem State.resetMailboxes_still (s : State) (fn : Nat) :
    (State.resetMailboxes s fn).still = s.still := by
  simp [State.resetMailboxes]

@[simp] theorem State.discardEntries_still (s : State) (c : Nat) (gen : BitVec 8) :
    (State.discardEntries s c gen).still = s.still := by
  simp [State.discardEntries]

@[simp] theorem State.resetFunction_still (s : State) (fn : Nat) (skipFlush : Bool) :
    (State.resetFunction s fn skipFlush).still = s.still := by
  simp [State.resetFunction]

@[simp] theorem State.resetDesc_still (s : State) (port : Nat) (q : Nat) (d : Desc) (held : Nat) :
    (State.resetDesc s port q d held).still = s.still := by
  simp [State.resetDesc]

@[simp] theorem State.resetContext_still (s : State) (port : Nat) (c : Nat) :
    (State.resetContext s port c).still = s.still := by
  unfold State.resetContext; (repeat' (first | rfl | split | (refine (still_foldl _ _ _ ?_).trans ?_; intros) | simp))

@[simp] theorem State.resetPort_still (s : State) (port : Nat) :
    (State.resetPort s port).still = s.still := by
  simp [State.resetPort]

@[simp] theorem execRekeyStep_still (p : Nat) (s : State) : (stateAfter s (execRekeyStep p s)).still = s.still := by
  unfold execRekeyStep; rw [stateAfter_next]
  split
  · rfl
  · split
    · rfl
    · split
      · exact State.advanceRekey_still _ _ _
      · split
        · exact State.modPart_still _ _ _
        · split
          · rfl
          · exact State.askLeave_still _ _

@[simp] theorem execBackstop_still (milliwatts : Nat) (s : State) :
    (stateAfter s (execBackstop milliwatts s)).still = s.still := by
  simp [execBackstop]

@[simp] theorem State.setTdisp_still (s : State) (fn : Nat) (state : Nat) :
    (State.setTdisp s fn state).still = s.still := by
  simp [State.setTdisp]

@[simp] theorem execStopInterfaceRequest_still (fn : Nat) (s : State) :
    (stateAfter s (execStopInterfaceRequest fn s)).still = s.still := by
  simp [execStopInterfaceRequest]

@[simp] theorem execLossOfSignal_still (port : Nat) (s : State) :
    (stateAfter s (execLossOfSignal port s)).still = s.still := by
  simp [execLossOfSignal]

@[simp] theorem State.modSa_still (s : State) (p : Nat) (ip : List Byte) (family : Nat) (g : SecAssoc → SecAssoc) :
    (State.modSa s p ip family g).still = s.still := by
  simp [State.modSa]

@[simp] theorem State.espNote_still (s : State) (p : Nat) (v6 : Bool) (ip : List Byte) (e : Option EspHead) :
    (State.espNote s p v6 ip e).still = s.still := by
  unfold State.espNote; (repeat' split) <;> simp

@[simp] theorem State.noteFrame_still (s : State) (f : Frame) :
    (State.noteFrame s f).still = s.still := by
  unfold State.noteFrame; (repeat' split) <;> simp

@[simp] theorem State.tagFailed_still (s : State) (q : Nat) (pkt : Packet) :
    (State.tagFailed s q pkt).still = s.still := by
  simp [State.tagFailed]

@[simp] theorem State.openPacket_still (s : State) (q : Nat) (pkt : Packet) (f : State → State)
    (h : ∀ s, (f s).still = s.still) : (State.openPacket s q pkt f).still = s.still := by
  unfold State.openPacket; (repeat' split) <;> simp [h]

@[simp] theorem State.leaveInput_still (s : State) (port : Nat) (pkt : Packet) :
    (State.leaveInput s port pkt).still = s.still := by
  simp [State.leaveInput]

@[simp] theorem State.startTile_still (s : State) (id : Nat) :
    (State.startTile s id).still = s.still := by
  unfold State.startTile; (repeat' split) <;> simp

@[simp] theorem execTileStart_still (tile : Nat) (s : State) :
    (stateAfter s (execTileStart tile s)).still = s.still := by
  simp [execTileStart]

@[simp] theorem execSaRemove_still (fn : Nat) (m : Nat) (cores : Cores) (s : State) :
    (stateAfter s (execSaRemove fn m cores s)).still = s.still := by
  unfold execSaRemove; rw [stateAfter_next]; refine State.serveCommit_still _ _ _ _ _ _ _ ?_; intro s p x; (try simp only []); (repeat' split) <;> (try simp) <;> grind [innerFail_still, State.modPart_still]

@[simp] theorem State.upMessage_still (s : State) (a : Nat) :
    (State.upMessage s a).still = s.still := by
  simp [State.upMessage]

@[simp] theorem execAttTrig_still (a : Nat) (partition : Nat) (index : Nat) (increment : W32) (s : State) :
    (stateAfter s (execAttTrig a partition index increment s)).still = s.still := by
  unfold execAttTrig; simp only []; (repeat' split) <;> simp

@[simp] theorem execThermalTripRelease_still (s : State) :
    (stateAfter s (execThermalTripRelease s)).still = s.still := by
  simp [execThermalTripRelease]

@[simp] theorem State.sendReplicas_still (s : State) (port : Nat) (h : Head) (ports : List Nat) (free : List (Nat × Nat)) :
    (State.sendReplicas s port h ports free).still = s.still := by
  simp [State.sendReplicas]

@[simp] theorem State.blankSlots_still (s : State) (fn : Nat) (base : W64) (n : Nat) (size : Nat) :
    (State.blankSlots s fn base n size).still = s.still := by
  simp [State.blankSlots]

@[simp] theorem execQueueCreate_still (fn : Nat) (m : Nat) (pick : Nat) (pickHome : Nat) (cores : Cores) (s : State) :
    (stateAfter s (execQueueCreate fn m pick pickHome cores s)).still = s.still := by
  unfold execQueueCreate; simp only [stateAfter_next]; refine State.serve_still _ _ _ _ _ ?_; intro s p x; (repeat' split) <;> (try simp) <;> grind [State.setQueue_still, State.serve_still, State.blankSlots_still, failWith_still, okWith_still]

@[simp] theorem State.rdmaAgain_still (s : State) (port : Nat) (qp : Nat) (psn : Nat) (q : QueuePair) (op : RdmaOp) (pkt : Packet) :
    (State.rdmaAgain s port qp psn q op pkt).still = s.still := by
  unfold State.rdmaAgain; simp only []; (repeat' split) <;> simp

@[simp] theorem execRoceRequest_still (port : Nat) (qp : Nat) (psn : Nat) (op : RdmaOp) (s : State) :
    (stateAfter s (execRoceRequest port qp psn op s)).still = s.still := by
  unfold execRoceRequest; simp only [stateAfter_next]; (repeat' split) <;> (try simp) <;> grind [State.rdmaLand_still, State.rdmaReply_still, State.rdmaAccess_still, → State.takeFrame_some, State.rdmaAgain_still]

@[simp] theorem execPartitionAssign_still (fn : Nat) (m : Nat) (cores : Cores) (s : State) :
    (stateAfter s (execPartitionAssign fn m cores s)).still = s.still := by
  simp [execPartitionAssign]

@[simp] theorem State.queueOwn_still (s : State) (port : Nat) (dst : Nat) (octets : Nat) (kind : Nat) (body : List Nat) :
    (State.queueOwn s port dst octets kind body).still = s.still := by
  simp [State.queueOwn]

@[simp] theorem State.queCtrl_still (s : State) (fn : Nat) (slot : Nat) (value : W32) :
    (State.queCtrl s fn slot value).still = s.still := by
  unfold State.queCtrl; (repeat' split) <;> simp

@[simp] theorem execQueSuspend_still (fn : Nat) (slot : Nat) (value : W32) (s : State) :
    (stateAfter s (execQueSuspend fn slot value s)).still = s.still := by
  simp [execQueSuspend]

@[simp] theorem State.restartClock_still (s : State) (x1 : Domain) :
    (State.restartClock s x1).still = s.still := by
  unfold State.restartClock; (repeat' split) <;> simp

@[simp] theorem execHeartbeatSilence_still (p : Nat) (job : Nat) (rank : Nat) (s : State) :
    (stateAfter s (execHeartbeatSilence p job rank s)).still = s.still := by
  unfold execHeartbeatSilence; (repeat' split) <;> simp

@[simp] theorem State.meterCount_still (s : State) (port : Nat) (p : Nat) (tc : Nat) (colour : Nat) (n : Nat) :
    (State.meterCount s port p tc colour n).still = s.still := by
  simp [State.meterCount]

@[simp] theorem State.tintFrame_still (s : State) (port : Nat) (o : Offer) :
    (State.tintFrame s port o).still = s.still := by
  simp [State.tintFrame]

@[simp] theorem State.tintHead_still (s : State) (port : Nat) (o : Offer) :
    (State.tintHead s port o).still = s.still := by
  unfold State.tintHead; (repeat' split) <;> simp

@[simp] theorem State.judgeDoorbell_still (s : State) (fn : Nat) (slot : Nat) (value : W32) :
    (State.judgeDoorbell s fn slot value).still = s.still := by
  unfold State.judgeDoorbell; (repeat' split) <;> simp

@[simp] theorem State.doorbell_still (s : State) (fn : Nat) (slot : Nat) (value : W32) :
    (State.doorbell s fn slot value).still = s.still := by
  unfold State.doorbell; (repeat' split) <;> simp

@[simp] theorem State.startDomain_still (s : State) (d : Domain) :
    (State.startDomain s d).still = s.still := by
  unfold State.startDomain; (repeat' split) <;> simp

@[simp] theorem execCdcWake_still (domain : Domain) (s : State) :
    (stateAfter s (execCdcWake domain s)).still = s.still := by
  simp [execCdcWake]

@[simp] theorem State.releaseSchedule_still (s : State) (p : Nat) (id : W32) :
    (State.releaseSchedule s p id).still = s.still := by
  simp [State.releaseSchedule]

@[simp] theorem State.destroyJob_still (s : State) (p : Nat) (j : Nat) :
    (State.destroyJob s p j).still = s.still := by
  simp [State.destroyJob]

@[simp] theorem execJobDestroy_still (fn : Nat) (m : Nat) (cores : Cores) (s : State) :
    (stateAfter s (execJobDestroy fn m cores s)).still = s.still := by
  simp [execJobDestroy]

@[simp] theorem State.writeMer_still (s : State) (fn : Nat) (o : Nat) (v : Nat) :
    (State.writeMer s fn o v).still = s.still := by
  simp [State.writeMer]

@[simp] theorem State.drainDone_still (s : State) (q : Nat) :
    (State.drainDone s q).still = s.still := by
  unfold State.drainDone; (repeat' split) <;> simp

@[simp] theorem State.msixRelease_still (s : State) (fn : Nat) :
    (State.msixRelease s fn).still = s.still := by
  unfold State.msixRelease; (repeat' (first | rfl | split | (refine still_foldl _ _ _ ?_; intros) | simp))

@[simp] theorem execMsixUnmask_still (fn : Nat) (vector : Nat) (s : State) :
    (stateAfter s (execMsixUnmask fn vector s)).still = s.still := by
  simp [execMsixUnmask]

@[simp] theorem State.drawRow_still (s : State) (n : Nat) : (State.drawRow s n).2.still = s.still := by
  induction n generalizing s with
  | zero => rfl
  | succ n ih => simp [State.drawRow, ih]

@[simp] theorem State.rowOf_still (s : State) (g : Nat) (k : Nat) :
    (State.rowOf s g k).2.still = s.still := by
  simp [State.rowOf]

theorem State.takeVector_done (s : State) (g : Nat) (x : GratJob) (f : Flight) (d : JobData) (i : Nat) (v : Vector1)
    {t : State} {fl : NumFlags} (h : s.takeVector g x f d i v = (.done t, fl)) : t.still = s.still := by
  unfold State.takeVector at h; simp only [] at h; grind [→ State.writePieces_done, State.modGrat_still, State.rowOf_still]

theorem State.takeVector_wait (s : State) (g : Nat) (x : GratJob) (f : Flight) (d : JobData) (i : Nat) (v : Vector1)
    {t : State} {fl : NumFlags} (h : s.takeVector g x f d i v = (.wait t, fl)) : t.still = s.still := by
  unfold State.takeVector at h; simp only [] at h; grind [→ State.writePieces_wait, State.modGrat_still, State.rowOf_still]

theorem State.takeVector_fail (s : State) (g : Nat) (x : GratJob) (f : Flight) (d : JobData) (i : Nat) (v : Vector1)
    {t : State} {n : Nat} {fl : NumFlags} (h : s.takeVector g x f d i v = (.fail t n, fl)) : t.still = s.still := by
  unfold State.takeVector at h; simp only [] at h; grind [→ State.writePieces_fail, State.modGrat_still, State.rowOf_still]

@[simp] theorem execPlaceFree_still (fn : Nat) (m : Nat) (cores : Cores) (s : State) :
    (stateAfter s (execPlaceFree fn m cores s)).still = s.still := by
  unfold execPlaceFree; simp only [stateAfter_next]; refine State.serve_still _ _ _ _ _ ?_; intro s p x; (repeat' split) <;> (try simp) <;> grind [State.serve_still, failWith_still, okWith_still, State.freePlacement_still]

@[simp] theorem State.modLeg_still (s : State) (i : Nat) (leg : Nat) (g : Leg → Leg) :
    (State.modLeg s i leg g).still = s.still := by
  simp [State.modLeg]

@[simp] theorem State.beginMigration_still (s : State) (i : Nat) (leg : Nat) (r : MigrateReason) (lpddr : Bool) (q : Nat) (frames : List Nat) :
    (State.beginMigration s i leg r lpddr q frames).still = s.still := by
  simp [State.beginMigration]

@[simp] theorem State.startMigration_still (s : State) (i : Nat) (leg : Nat) (r : MigrateReason) (lpddr : Bool) (q : Nat) :
    (State.startMigration s i leg r lpddr q).still = s.still := by
  unfold State.startMigration; simp only []; (repeat' split) <;> simp

@[simp] theorem State.pursuePins_still (s : State) (i : Nat) :
    (State.pursuePins s i).still = s.still := by
  unfold State.pursuePins; simp only []; (repeat' split) <;> simp

@[simp] theorem State.completeFlight_still (s : State) (k : Nat) (slot : Nat) :
    (State.completeFlight s k slot).still = s.still := by
  unfold State.completeFlight; (repeat' split) <;> simp

@[simp] theorem State.waited_still (s : State) (k : Nat) (slot : Nat) :
    (State.waited s k slot).still = s.still := by
  simp [State.waited]

@[simp] theorem State.retrainPort_still (s : State) (port : Nat) :
    (State.retrainPort s port).still = s.still := by
  simp [State.retrainPort]

@[simp] theorem execRetrain_still (fn : Nat) (port : Nat) (value : W32) (s : State) :
    (stateAfter s (execRetrain fn port value s)).still = s.still := by
  simp [execRetrain]

@[simp] theorem State.writeQue_still (s : State) (fn : Nat) (o : Nat) (v : Nat) :
    (State.writeQue s fn o v).still = s.still := by
  unfold State.writeQue; (repeat' split) <;> simp

@[simp] theorem State.writePwr_still (s : State) (o : Nat) (v : Nat) :
    (State.writePwr s o v).still = s.still := by
  simp [State.writePwr]

@[simp] theorem State.writeMsix_still (s : State) (fn : Nat) (o : Nat) (v : Nat) :
    (State.writeMsix s fn o v).still = s.still := by
  simp [State.writeMsix]

@[simp] theorem State.writeEth_still (s : State) (o : Nat) (v : Nat) :
    (State.writeEth s o v).still = s.still := by
  simp [State.writeEth]

@[simp] theorem State.writeAlarms_still (s : State) (fn : Nat) (v : Nat) :
    (State.writeAlarms s fn v).still = s.still := by
  unfold State.writeAlarms; (repeat' split) <;> simp

@[simp] theorem State.writeSvy_still (s : State) (fn : Nat) (o : Nat) (v : Nat) :
    (State.writeSvy s fn o v).still = s.still := by
  simp [State.writeSvy]

@[simp] theorem State.modIdleMbx_still (s : State) (k : Nat) (g : Mailbox → Mailbox) :
    (State.modIdleMbx s k g).still = s.still := by
  simp [State.modIdleMbx]

@[simp] theorem State.refuseUnknown_still (s : State) (fn : Nat) (k : Nat) :
    (State.refuseUnknown s fn k).still = s.still := by
  simp [State.refuseUnknown]

@[simp] theorem State.writeMbxDoorbell_still (s : State) (fn : Nat) (k : Nat) (v : Nat) :
    (State.writeMbxDoorbell s fn k v).still = s.still := by
  simp [State.writeMbxDoorbell]

@[simp] theorem State.writeMbx_still (s : State) (fn : Nat) (o : Nat) (v : Nat) :
    (State.writeMbx s fn o v).still = s.still := by
  simp [State.writeMbx]

@[simp] theorem State.writeBiasCtrl_still (s : State) (port : Nat) (value : W32) :
    (State.writeBiasCtrl s port value).still = s.still := by
  simp [State.writeBiasCtrl]

@[simp] theorem State.writeP2p_still (s : State) (port : Nat) (a : Nat) (value : W64) :
    (State.writeP2p s port a value).still = s.still := by
  simp [State.writeP2p]

@[simp] theorem State.writeFn_still (s : State) (fn : Nat) (o : Nat) (v : Nat) :
    (State.writeFn s fn o v).still = s.still := by
  simp [State.writeFn]

@[simp] theorem State.resumeRekey_still (s : State) (cold : Bool) (recordOk : Bool) (p : Nat) :
    (State.resumeRekey s cold recordOk p).still = s.still := by
  unfold State.resumeRekey; (repeat' split) <;> simp

@[simp] theorem State.sign_still (s : State) (message : List Byte) :
    (State.sign s message).2.still = s.still := by
  simp [State.sign]

@[simp] theorem State.drawBytes_still (s : State) (n : Nat) :
    (State.drawBytes s n).2.still = s.still := by
  simp [State.drawBytes]

@[simp] theorem State.spdmServe_still (s : State) (ep : Nat) (body : State → State)
    (h : ∀ s, (body s).still = s.still) : (State.spdmServe s ep body).still = s.still := by
  unfold State.spdmServe; (repeat' split) <;> simp [h]

@[simp] theorem State.connectFailure_still (s : State) :
    (State.connectFailure s).state.still = s.still := by
  simp [State.connectFailure]

@[simp] theorem State.countReduction_still (s : State) (p : Nat) (ok : Bool) (fl : NumFlags) :
    (State.countReduction s p ok fl).still = s.still := by
  simp [State.countReduction]

@[simp] theorem execStaleReadExpiry_still (port : Nat) (tag : Nat) (s : State) :
    (stateAfter s (execStaleReadExpiry port tag s)).still = s.still := by
  unfold execStaleReadExpiry; (repeat' split) <;> simp

@[simp] theorem execCcBasePeriod_still (quadrant : Nat) (s : State) :
    (stateAfter s (execCcBasePeriod quadrant s)).still = s.still := by
  simp [execCcBasePeriod]

@[simp] theorem execHdmDecoderCommit_still (port : Nat) (length : Nat) (pick : Nat) (s : State) :
    (stateAfter s (execHdmDecoderCommit port length pick s)).still = s.still := by
  unfold execHdmDecoderCommit; (repeat' split) <;> (try simp) <;> grind [→ State.allocBacking_some, State.modHost_still]

@[simp] theorem execTimeExchange_still (port : Nat) (s : State) :
    (stateAfter s (execTimeExchange port s)).still = s.still := by
  simp [execTimeExchange]

@[simp] theorem State.endDrain_still (s : State) (x1 : Wait) :
    (State.endDrain s x1).still = s.still := by
  unfold State.endDrain; (repeat' split) <;> simp

@[simp] theorem execQueueDestroyTimeout_still (fn : Nat) (m : Nat) (s : State) :
    (stateAfter s (execQueueDestroyTimeout fn m s)).still = s.still := by
  unfold execQueueDestroyTimeout; (repeat' split) <;> simp

@[simp] theorem State.tintPort_still (s : State) (port : Nat) :
    (State.tintPort s port).still = s.still := by
  simp [State.tintPort]

@[simp] theorem State.paceQp_still (s : State) (qp : Nat) (n : Nat) :
    (State.paceQp s qp n).still = s.still := by
  simp [State.paceQp]

@[simp] theorem State.noteDeparture_still (s : State) (port : Nat) (b : EthBody) :
    (State.noteDeparture s port b).still = s.still := by
  unfold State.noteDeparture; (repeat' split) <;> simp

@[simp] theorem State.sealFrame_still (s : State) (f : EthFrame) :
    (State.sealFrame s f).1.still = s.still := by
  unfold State.sealFrame; (repeat' split) <;> simp

theorem State.sealFrame_pair (s : State) (f : EthFrame) {t' : State} {b' : Option (W32 × Nat)}
    (h : State.sealFrame s f = (t', b')) : t'.still = s.still := by
  have k := State.sealFrame_still s f; rw [h] at k; exact k

@[simp] theorem State.ethCount_still (s : State) (port : Nat) (i : Nat) (n : Nat) :
    (State.ethCount s port i n).still = s.still := by
  simp [State.ethCount]

@[simp] theorem State.sendFrame_still (s : State) (port : Nat) (i : Nat) :
    (State.sendFrame s port i).still = s.still := by
  unfold State.sendFrame; simp only []; (repeat' split) <;> simp

@[simp] theorem State.noteDeferred_still (s : State) (port : Nat) :
    (State.noteDeferred s port).still = s.still := by
  simp [State.noteDeferred]

@[simp] theorem State.ethClock_still (s : State) (port : Nat) :
    (State.ethClock s port).still = s.still := by
  unfold State.ethClock; simp only []; (repeat' split) <;> simp

@[simp] theorem State.sendRelayed_still (s : State) (port : Nat) (o : Offer) :
    (State.sendRelayed s port o).still = s.still := by
  unfold State.sendRelayed; simp only []; (repeat' split) <;> simp

@[simp] theorem State.portClock_still (s : State) (port : Nat) :
    (State.portClock s port).still = s.still := by
  unfold State.portClock; simp only []; (repeat' split) <;> simp

@[simp] theorem State.portClocks_still (s : State) :
    (State.portClocks s).still = s.still := by
  simp [State.portClocks]

@[simp] theorem State.sendRejoin_still (s : State) (p : Nat) (j : Nat) (gen : Nat) (rank : Nat) :
    (State.sendRejoin s p j gen rank).still = s.still := by
  simp [State.sendRejoin]

@[simp] theorem State.rejoin_still (s : State) :
    (State.rejoin s).still = s.still := by
  simp [State.rejoin]

@[simp] theorem State.enterLock_still (s : State) (l : Lock) :
    (State.enterLock s l).still = s.still := by
  simp [State.enterLock]

@[simp] theorem State.evaluate_still (s : State) :
    (State.evaluate s).still = s.still := by
  simp [State.evaluate]

@[simp] theorem execLockEvaluate_still (s : State) :
    (stateAfter s (execLockEvaluate s)).still = s.still := by
  simp [execLockEvaluate]

@[simp] theorem execRingDestroy_still (fn : Nat) (m : Nat) (cores : Cores) (s : State) :
    (stateAfter s (execRingDestroy fn m cores s)).still = s.still := by
  simp [execRingDestroy]

@[simp] theorem execPlaceHint_still (fn : Nat) (m : Nat) (cores : Cores) (s : State) :
    (stateAfter s (execPlaceHint fn m cores s)).still = s.still := by
  unfold execPlaceHint; simp only [stateAfter_next]; refine State.serve_still _ _ _ _ _ ?_; intro s p x; (repeat' split) <;> (try simp) <;> grind [State.serve_still, failWith_still, okWith_still, State.modPlace_still, State.pursuePins_still]

@[simp] theorem State.dropReads_still (s : State) (p : Nat) (u : ReadUse) :
    (State.dropReads s p u).still = s.still := by
  simp [State.dropReads]

@[simp] theorem execP2pProbeResult_still (port : Nat) (a : Nat) (ok : Bool) (s : State) :
    (stateAfter s (execP2pProbeResult port a ok s)).still = s.still := by
  simp [execP2pProbeResult]

@[simp] theorem State.releaseRelay_still (s : State) (a : Nat) (pkt : Packet) :
    (State.releaseRelay s a pkt).still = s.still := by
  simp [State.releaseRelay]

@[simp] theorem State.relayPump_still (s : State) (a n : Nat) : (State.relayPump s a n).still = s.still := by
  induction n generalizing s with
  | zero => rfl
  | succ n ih => unfold State.relayPump; (repeat' split) <;> simp only [] <;> (repeat' split) <;> simp [ih]

@[simp] theorem execAttCredit_still (a : Nat) (writes : Nat) (reads : Nat) (s : State) :
    (stateAfter s (execAttCredit a writes reads s)).still = s.still := by
  simp [execAttCredit]

@[simp] theorem execQueuePairReply_still (qp : Nat) (psn : Nat) (data : List Byte) (old : W64) (s : State) :
    (stateAfter s (execQueuePairReply qp psn data old s)).still = s.still := by
  unfold execQueuePairReply; simp only [stateAfter_next]; (repeat' split) <;> (try simp) <;> grind [State.modQp_still, State.pumpBound_still, State.answerHeld_still, → State.takeFrame_some]

@[simp] theorem State.rearmRotations_still (s : State) :
    (State.rearmRotations s).still = s.still := by
  unfold State.rearmRotations; (repeat' (first | rfl | split | (refine (still_foldl _ _ _ ?_).trans ?_; intros) | simp))

@[simp] theorem State.loadSealed_still (s : State) (facts : BootFacts) :
    (State.loadSealed s facts).still = s.still := by
  unfold State.loadSealed; (repeat' split) <;> simp

@[simp] theorem State.reissue_still (s : State) (q : Nat) (m : Nat) (x3 : Sender) :
    (State.reissue s q m x3).still = s.still := by
  simp [State.reissue]

@[simp] theorem execRetryAfterEnd_still (quadrant : Nat) (msg : Nat) (index : Nat) (s : State) :
    (stateAfter s (execRetryAfterEnd quadrant msg index s)).still = s.still := by
  unfold execRetryAfterEnd; (repeat' split) <;> simp

@[simp] theorem execHoldoffExpiry_still (ring : Nat) (s : State) :
    (stateAfter s (execHoldoffExpiry ring s)).still = s.still := by
  simp [execHoldoffExpiry]

@[simp] theorem State.agreeWidth_still (s : State) (port : Nat) (lanes : Nat) :
    (State.agreeWidth s port lanes).still = s.still := by
  simp [State.agreeWidth]

@[simp] theorem State.activate_still (s : State) (port : Nat) (lanes : Nat) :
    (State.activate s port lanes).still = s.still := by
  simp [State.activate]

@[simp] theorem execQueDoorbell_still (fn : Nat) (slot : Nat) (value : W32) (s : State) :
    (stateAfter s (execQueDoorbell fn slot value s)).still = s.still := by
  simp [execQueDoorbell]

@[simp] theorem State.endKeySession_still (s : State) (p : Nat) :
    (State.endKeySession s p).still = s.still := by
  simp [State.endKeySession]

@[simp] theorem execKeySessionIdle_still (p : Nat) (s : State) :
    (stateAfter s (execKeySessionIdle p s)).still = s.still := by
  unfold execKeySessionIdle; (repeat' split) <;> simp

@[simp] theorem execSourceFree_still (placement : Nat) (leg : Nat) (s : State) :
    (stateAfter s (execSourceFree placement leg s)).still = s.still := by
  simp [execSourceFree]

@[simp] theorem State.closeMailbox_still (s : State) (fn : Nat) (m : Nat) :
    (State.closeMailbox s fn m).still = s.still := by
  simp [State.closeMailbox]

@[simp] theorem execCloseSession_still (fn : Nat) (m : Nat) (s : State) :
    (stateAfter s (execCloseSession fn m s)).still = s.still := by
  simp [execCloseSession]

@[simp] theorem State.refuseColl_still (s : State) (q : Nat) (c : RxCopy) :
    (State.refuseColl s q c).still = s.still := by
  simp [State.refuseColl]

@[simp] theorem State.modHead_still (s : State) (port : Nat) (g : Head → Head) :
    (State.modHead s port g).still = s.still := by
  simp [State.modHead]

@[simp] theorem execHeadPressed_still (port : Nat) (s : State) :
    (stateAfter s (execHeadPressed port s)).still = s.still := by
  unfold execHeadPressed; (repeat' split) <;> simp

@[simp] theorem execWaitSatisfied_still (k : Nat) (s : State) :
    (stateAfter s (execWaitSatisfied k s)).still = s.still := by
  unfold execWaitSatisfied; (repeat' split) <;> simp

@[simp] theorem execRetrainTimeout_still (port : Nat) (s : State) :
    (stateAfter s (execRetrainTimeout port s)).still = s.still := by
  simp [execRetrainTimeout]

@[simp] theorem execHeadForward_still (port : Nat) (free : List (Nat × Nat)) (s : State) :
    (stateAfter s (execHeadForward port free s)).still = s.still := by
  unfold execHeadForward; simp only []; (repeat' split) <;> simp

@[simp] theorem State.payAnswers_still (s : State) :
    (State.payAnswers s).still = s.still := by
  unfold State.payAnswers; (repeat' (first | rfl | split | (refine (still_foldl _ _ _ ?_).trans ?_; intros) | simp))

@[simp] theorem State.schedRound_still (s : State) (quadrant : Nat) :
    (State.schedRound s quadrant).still = s.still := by
  unfold State.schedRound; simp only []; (repeat' split) <;> simp

@[simp] theorem execReservationGrant_still (quadrant : Nat) (msg : Nat) (s : State) :
    (stateAfter s (execReservationGrant quadrant msg s)).still = s.still := by
  unfold execReservationGrant; (repeat' split) <;> simp

@[simp] theorem execRekeyStepWritten_still (p : Nat) (s : State) :
    (stateAfter s (execRekeyStepWritten p s)).still = s.still := by
  unfold execRekeyStepWritten; simp only [stateAfter_next]; (repeat' split) <;> (try simp) <;> grind [State.advanceRekey_still, State.endLeave_still, State.stir_still]

@[simp] theorem State.startHeartbeat_still (s : State) (p : Nat) (h : SchedHeader) (members : List (Nat × Nat)) :
    (State.startHeartbeat s p h members).still = s.still := by
  unfold State.startHeartbeat; (repeat' split) <;> simp

@[simp] theorem State.takeSchedule_still (s : State) (p : Nat) (c : Schedule) :
    (State.takeSchedule s p c).still = s.still := by
  simp [State.takeSchedule]

@[simp] theorem execStore_still (k : Nat) (s : State) :
    (stateAfter s (execStore k s)).still = s.still := by
  simp [execStore]

@[simp] theorem execStepTimeout_still (k : Nat) (slot : Nat) (s : State) :
    (stateAfter s (execStepTimeout k slot s)).still = s.still := by
  unfold execStepTimeout; simp only []; (repeat' split) <;> simp

@[simp] theorem State.repeatFaults_still (s : State) (p : Nat) :
    (State.repeatFaults s p).still = s.still := by
  unfold State.repeatFaults; simp only [stateAfter_next]; (repeat' split) <;> (try simp) <;> grind [→ State.sendGroup_some, State.modHost_still]

@[simp] theorem State.retryGroups_still (s : State) (p : Nat) :
    (State.retryGroups s p).still = s.still := by
  simp [State.retryGroups]

@[simp] theorem State.enableVfs_still (s : State) (port : Nat) (n : Nat) :
    (State.enableVfs s port n).still = s.still := by
  simp [State.enableVfs]

@[simp] theorem execVfEnableClear_still (port : Nat) (s : State) :
    (stateAfter s (execVfEnableClear port s)).still = s.still := by
  simp [execVfEnableClear]

@[simp] theorem State.enableAts_still (s : State) (fn : Nat) :
    (State.enableAts s fn).still = s.still := by
  simp [State.enableAts]

@[simp] theorem execBusMasterEnableClear_still (port : Nat) (s : State) :
    (stateAfter s (execBusMasterEnableClear port s)).still = s.still := by
  simp [execBusMasterEnableClear]

@[simp] theorem State.writeControl_still (s : State) (fn : Nat) (o : Nat) (v : Nat) :
    (State.writeControl s fn o v).still = s.still := by
  simp [State.writeControl]

@[simp] theorem State.tileAnswer_still (s : State) (id : Nat) (failed : Bool) (pages : List Nat) :
    (State.tileAnswer s id failed pages).still = s.still := by
  unfold State.tileAnswer; simp only []; (repeat' split) <;> simp

theorem State.reduceElem_wait (s : State) (p : Nat) (id : W32) (h : SchedHeader) (x : Instance) (fmt e : Nat) (b : List Byte)
    {t : State} (k : s.reduceElem p id h x fmt e b = .error (.wait t)) : t.still = s.still := by
  unfold State.reduceElem at k; grind [→ State.partialOf_wait]

theorem State.reduceElem_fail (s : State) (p : Nat) (id : W32) (h : SchedHeader) (x : Instance) (fmt e : Nat) (b : List Byte)
    {t : State} {n : Nat} (k : s.reduceElem p id h x fmt e b = .error (.fail t n)) : t.still = s.still := by
  unfold State.reduceElem at k; grind [→ State.partialOf_fail]

theorem State.reduceElems_wait (s : State) (p : Nat) (id : W32) (h : SchedHeader) (fmt : Nat) (l : List (Nat × List Byte))
    (x : Instance) {t : State} (k : s.reduceElems p id h fmt l x = .error (.wait t)) : t.still = s.still := by
  induction l generalizing x with
  | nil => simp [State.reduceElems] at k
  | cons e l ih => unfold State.reduceElems at k; grind [→ State.reduceElem_wait]

theorem State.reduceElems_fail (s : State) (p : Nat) (id : W32) (h : SchedHeader) (fmt : Nat) (l : List (Nat × List Byte))
    (x : Instance) {t : State} {n : Nat} (k : s.reduceElems p id h fmt l x = .error (.fail t n)) : t.still = s.still := by
  induction l generalizing x with
  | nil => simp [State.reduceElems] at k
  | cons e l ih => unfold State.reduceElems at k; grind [→ State.reduceElem_fail]

@[simp] theorem State.collBytes_keeps (s : State) (p : Nat) (c : Schedule) (x3 : Instance) (r : Recv) (off : Nat) (b : List Byte) :
    (State.collBytes s p c x3 r off b).Keeps s.still := by
  unfold State.collBytes; simp only [stateAfter_next]; (repeat' split) <;> (try simp) <;> grind [State.modInstance_still, → State.reduceElems_wait, → State.reduceElems_fail, → State.collWrite_done, → State.collWrite_wait, → State.collWrite_fail]

theorem State.collBytes_done (s : State) (p : Nat) (c : Schedule) (x3 : Instance) (r : Recv) (off : Nat) (b : List Byte) {t : State}
    (h : State.collBytes s p c x3 r off b = .done t) : t.still = s.still := by
  have k := State.collBytes_keeps s p c x3 r off b; rw [h] at k; exact k

theorem State.collBytes_wait (s : State) (p : Nat) (c : Schedule) (x3 : Instance) (r : Recv) (off : Nat) (b : List Byte) {t : State}
    (h : State.collBytes s p c x3 r off b = .wait t) : t.still = s.still := by
  have k := State.collBytes_keeps s p c x3 r off b; rw [h] at k; exact k

theorem State.collBytes_fail (s : State) (p : Nat) (c : Schedule) (x3 : Instance) (r : Recv) (off : Nat) (b : List Byte) {t : State} {n : Nat}
    (h : State.collBytes s p c x3 r off b = .fail t n) : t.still = s.still := by
  have k := State.collBytes_keeps s p c x3 r off b; rw [h] at k; exact k

@[simp] theorem State.askGateSwap_still (s : State) (now : Nat) (port : Nat) (t : Nat) :
    (State.askGateSwap s now port t).state.still = s.still := by
  unfold State.askGateSwap; (repeat' split) <;> simp

@[simp] theorem execTrigAlloc_still (fn : Nat) (m : Nat) (pick : Nat) (cores : Cores) (s : State) :
    (stateAfter s (execTrigAlloc fn m pick cores s)).still = s.still := by
  unfold execTrigAlloc; simp only [stateAfter_next]; refine State.serve_still _ _ _ _ _ ?_; intro s p x; (repeat' split) <;> (try simp) <;> grind [State.serve_still, failWith_still, okWith_still, State.giveTrigs_still]

@[simp] theorem State.holdCopy_still (s : State) (q : Nat) (port : Nat) (pkt : Packet) (marked : Bool) :
    (State.holdCopy s q port pkt marked).still = s.still := by
  unfold State.holdCopy; simp only []; (repeat' split) <;> simp

@[simp] theorem State.arrive_still (s : State) (q : Nat) (port : Nat) (pkt : Packet) :
    (State.arrive s q port pkt).still = s.still := by
  simp [State.arrive]

@[simp] theorem State.clockStep_still (s : State) :
    (State.clockStep s).still = s.still := by
  simp [State.clockStep]

@[simp] theorem execThrottleExit_still (s : State) :
    (stateAfter s (execThrottleExit s)).still = s.still := by
  simp [execThrottleExit]

@[simp] theorem State.installJobKey_still (s : State) (p : Nat) (j : Nat) (gen : Nat) :
    (State.installJobKey s p j gen).state.still = s.still := by
  simp [State.installJobKey]

@[simp] theorem execJobKey_still (fn : Nat) (m : Nat) (cores : Cores) (s : State) :
    (stateAfter s (execJobKey fn m cores s)).still = s.still := by
  unfold execJobKey; rw [stateAfter_next]; refine State.serveCommit_still _ _ _ _ _ _ _ ?_; intro s p x; (try simp only []); (repeat' split) <;> (try simp) <;> grind [State.installJobKey_still]

@[simp] theorem execAttSessionTimeout_still (a : Nat) (s : State) :
    (stateAfter s (execAttSessionTimeout a s)).still = s.still := by
  simp [execAttSessionTimeout]

@[simp] theorem execDlDown_still (port : Nat) (s : State) :
    (stateAfter s (execDlDown port s)).still = s.still := by
  simp [execDlDown]

theorem State.collStray_some (s : State) (q : Nat) (p : Packet) {t : State} (h : s.collStray q p = some t) :
    t.still = s.still := by
  unfold State.collStray at h; simp only [] at h; grind [State.note_still]

@[simp] theorem State.dropOldest_still (s : State) (d : Domain) :
    (State.dropOldest s d).still = s.still := by
  unfold State.dropOldest; (repeat' split) <;> simp

@[simp] theorem State.abandonMigrations_still (s : State) (q : Nat) :
    (State.abandonMigrations s q).still = s.still := by
  simp [State.abandonMigrations]

@[simp] theorem State.cdcOwnerEnds_still (s : State) (x1 : CdcOwner) :
    (State.cdcOwnerEnds s x1).still = s.still := by
  unfold State.cdcOwnerEnds; (repeat' split) <;> simp

@[simp] theorem execCompletionTimeout_still (port : Nat) (tag : Nat) (s : State) :
    (stateAfter s (execCompletionTimeout port tag s)).still = s.still := by
  unfold execCompletionTimeout; (repeat' split) <;> simp

@[simp] theorem State.startTransfer_still (s : State) (q : Nat) (i : W32) (op : Nat) (wire : Nat) :
    (State.startTransfer s q i op wire).still = s.still := by
  unfold State.startTransfer; (repeat' split) <;> simp

@[simp] theorem State.makeOffer_still (s : State) (p : Nat) (id : Nat) (kem : Nat) :
    (State.makeOffer s p id kem).2.still = s.still := by
  simp [State.makeOffer]

@[simp] theorem execXformReduce_still (k : Nat) (s : State) :
    (stateAfter s (execXformReduce k s)).still = s.still := by
  simp [execXformReduce]

theorem State.replyDrop_some (s : State) (q : Nat) (op : Nat) (pkt : Packet) {t : State}
    (h : State.replyDrop s q op pkt = some t) : t.still = s.still := by
  unfold State.replyDrop at h; (repeat' split at h) <;> (first | (cases h; simp; done) | (simp at h; done) | grind [State.note_still])

@[simp] theorem State.openSession_still (s : State) (fn : Nat) (k : Nat) (v : Nat) :
    (State.openSession s fn k v).still = s.still := by
  simp [State.openSession]

@[simp] theorem execOpenSession_still (fn : Nat) (m : Nat) (s : State) :
    (stateAfter s (execOpenSession fn m s)).still = s.still := by
  unfold execOpenSession; simp only []; (repeat' split) <;> simp

@[simp] theorem State.pace_still (s : State) (q : Nat) (dst : Nat) (n : Nat) :
    (State.pace s q dst n).still = s.still := by
  simp [State.pace]

@[simp] theorem execWrite_still (queue : Nat) (index : W32) (s : State) :
    (stateAfter s (execWrite queue index s)).still = s.still := by
  simp [execWrite]

@[simp] theorem State.clearBlock_still (s : State) (fn : Nat) (o : Nat) (x3 : Block) :
    (State.clearBlock s fn o x3).still = s.still := by
  unfold State.clearBlock; (repeat' split) <;> simp

@[simp] theorem execHeadArrival_still (port : Nat) (pkt : Packet) (s : State) :
    (stateAfter s (execHeadArrival port pkt s)).still = s.still := by
  simp [execHeadArrival]

@[simp] theorem State.failTiles_still (s : State) (ids : List Nat) (status : Nat) :
    (State.failTiles s ids status).still = s.still := by
  unfold State.failTiles; (repeat' (first | rfl | split | (refine still_foldl _ _ _ ?_; intros) | simp))

@[simp] theorem State.writeBack_still (s : State) (l : Bool × Nat) :
    (State.writeBack s l).still = s.still := by
  unfold State.writeBack; (repeat' split) <;> simp

@[simp] theorem execLoop_still (k : Nat) (s : State) :
    (stateAfter s (execLoop k s)).still = s.still := by
  simp [execLoop]

@[simp] theorem execCcIdleRaise_still (quadrant : Nat) (dest : Nat) (s : State) :
    (stateAfter s (execCcIdleRaise quadrant dest s)).still = s.still := by
  unfold execCcIdleRaise; (repeat' split) <;> simp

@[simp] theorem execFnHdmLength_still (fn : Nat) (value : W64) (pick : Nat) (s : State) :
    (stateAfter s (execFnHdmLength fn value pick s)).still = s.still := by
  simp [execFnHdmLength]

@[simp] theorem execGateListSwap_still (fn : Nat) (m : Nat) (cores : Cores) (s : State) :
    (stateAfter s (execGateListSwap fn m cores s)).still = s.still := by
  simp [execGateListSwap]

@[simp] theorem execPartitionRekey_still (fn : Nat) (m : Nat) (cores : Cores) (s : State) :
    (stateAfter s (execPartitionRekey fn m cores s)).still = s.still := by
  simp [execPartitionRekey]

@[simp] theorem execAttReset_still (a : Nat) (s : State) :
    (stateAfter s (execAttReset a s)).still = s.still := by
  simp [execAttReset]

@[simp] theorem execSeed_still (k : Nat) (s : State) :
    (stateAfter s (execSeed k s)).still = s.still := by
  simp [execSeed]

@[simp] theorem State.dropFrames_still (s : State) (port : Nat) (pick : FrameKind → Bool) :
    (State.dropFrames s port pick).still = s.still := by
  simp [State.dropFrames]

@[simp] theorem State.failController_still (s : State) (c : Nat) :
    (State.failController s c).still = s.still := by
  unfold State.failController; (repeat' split) <;> simp

@[simp] theorem execNvmeDetach_still (fn : Nat) (m : Nat) (cores : Cores) (s : State) :
    (stateAfter s (execNvmeDetach fn m cores s)).still = s.still := by
  unfold execNvmeDetach; simp only [stateAfter_next]; refine State.serve_still _ _ _ _ _ ?_; intro s p x; (repeat' split) <;> (try simp) <;> grind [State.dropFrames_still, State.serve_still, failWith_still, okWith_still, State.failController_still, State.modQueue_still]

@[simp] theorem execArpRequest_still (port : Nat) (target : W32) (senderMac : BitVec 48) (s : State) :
    (stateAfter s (execArpRequest port target senderMac s)).still = s.still := by
  simp [execArpRequest]

@[simp] theorem execAssociationLoss_still (controller : Nat) (s : State) :
    (stateAfter s (execAssociationLoss controller s)).still = s.still := by
  unfold execAssociationLoss; (repeat' split) <;> simp

@[simp] theorem execSegmentSet_still (fn : Nat) (m : Nat) (cores : Cores) (s : State) :
    (stateAfter s (execSegmentSet fn m cores s)).still = s.still := by
  unfold execSegmentSet; simp only [stateAfter_next]; refine State.serve_still _ _ _ _ _ ?_; intro s p x; (repeat' split) <;> (try simp) <;> grind [State.serve_still, failWith_still, okWith_still, State.modCtx_still]

@[simp] theorem State.dropFailed_still (s : State) (q : Nat) (c : RxCopy) :
    (State.dropFailed s q c).still = s.still := by
  simp [State.dropFailed]

@[simp] theorem State.commitCopy_still (s : State) (q : Nat) (c : RxCopy) :
    (State.commitCopy s q c).still = s.still := by
  unfold State.commitCopy; simp only []; (repeat' split) <;> simp

@[simp] theorem State.goodControl_still (s : State) (port : Nat) :
    (State.goodControl s port).still = s.still := by
  simp [State.goodControl]

@[simp] theorem execWidthSwitch_still (port : Nat) (s : State) :
    (stateAfter s (execWidthSwitch port s)).still = s.still := by
  unfold execWidthSwitch; simp only []; (repeat' split) <;> simp

theorem State.takeSlotRead_some (s : State) (q : Nat) (i : W32) {t : State} {n : Nat} (h : s.takeSlotRead q i = some (t, n)) :
    t.still = s.still := by
  unfold State.takeSlotRead at h; simp only [] at h; grind [State.modHost_still]

@[simp] theorem execSlotReadComplete_still (queue : Nat) (first : W32) (slots : Option (List (List Byte))) (s : State) :
    (stateAfter s (execSlotReadComplete queue first slots s)).still = s.still := by
  unfold execSlotReadComplete; (repeat' split) <;> (try simp) <;> grind [State.slotsFailed_still, State.slotsRead_still, → State.takeSlotRead_some]

@[simp] theorem State.releaseSealed_still (s : State) :
    (State.releaseSealed s).still = s.still := by
  unfold State.releaseSealed; (repeat' (first | rfl | split | (refine still_foldl _ _ _ ?_; intros) | simp))

@[simp] theorem State.endSeal_still (s : State) :
    (State.endSeal s).still = s.still := by
  simp [State.endSeal]

@[simp] theorem execSealedStateWritten_still (s : State) :
    (stateAfter s (execSealedStateWritten s)).still = s.still := by
  simp [execSealedStateWritten]

@[simp] theorem State.storeGates_still (s : State) (port : Nat) (l : List Byte) :
    (State.storeGates s port l).state.still = s.still := by
  unfold State.storeGates; simp only []; (repeat' split) <;> simp

@[simp] theorem execGateListStore_still (fn : Nat) (m : Nat) (cores : Cores) (s : State) :
    (stateAfter s (execGateListStore fn m cores s)).still = s.still := by
  simp [execGateListStore]

@[simp] theorem State.setStep_still (s : State) (k : Nat) (r : Running) (t : Step) (v : W64) :
    (State.setStep s k r t v).still = s.still := by
  simp [State.setStep]

@[simp] theorem execMov_still (k : Nat) (s : State) :
    (stateAfter s (execMov k s)).still = s.still := by
  simp [execMov]

@[simp] theorem State.acceptSession_still (s : State) (p : Nat) (x2 : KeySession) (l : List Byte) (signatureOk : Bool) :
    (State.acceptSession s p x2 l signatureOk).state.still = s.still := by
  simp [State.acceptSession]

@[simp] theorem execAccept_still (fn : Nat) (m : Nat) (signatureOk : Bool) (s : State) :
    (stateAfter s (execAccept fn m signatureOk s)).still = s.still := by
  unfold execAccept; (repeat' split) <;> (try simp) <;> grind [failWith_still, State.acceptSession_still, State.serveCommit_still]

@[simp] theorem execChallenge_still (ep : Nat) (slot : Nat) (nonce : BitVec 256) (s : State) :
    (stateAfter s (execChallenge ep slot nonce s)).still = s.still := by
  simp [execChallenge]

@[simp] theorem State.trainTo_still (s : State) (port : Nat) (a : PortState) (b : PortState) :
    (State.trainTo s port a b).still = s.still := by
  simp [State.trainTo]

@[simp] theorem execPortDetect_still (port : Nat) (s : State) :
    (stateAfter s (execPortDetect port s)).still = s.still := by
  simp [execPortDetect]

@[simp] theorem State.loseSource_still (s : State) :
    (State.loseSource s).still = s.still := by
  simp [State.loseSource]

@[simp] theorem execDownNotice_still (port : Nat) (s : State) :
    (stateAfter s (execDownNotice port s)).still = s.still := by
  simp [execDownNotice]

@[simp] theorem execRekeyStatus_still (fn : Nat) (m : Nat) (s : State) :
    (stateAfter s (execRekeyStatus fn m s)).still = s.still := by
  unfold execRekeyStatus; simp only [stateAfter_next]; refine State.serve_still _ _ _ _ _ ?_; intro s p x; (repeat' split) <;> (try simp) <;> grind [State.serve_still, okWith_still]

@[simp] theorem State.ringTriggers_still (s : State) :
    (State.ringTriggers s).still = s.still := by
  simp [State.ringTriggers]

@[simp] theorem State.lanesGranted_still (s : State) (port : Nat) :
    (State.lanesGranted s port).still = s.still := by
  unfold State.lanesGranted; simp only []; (repeat' split) <;> simp

@[simp] theorem execStepComplete_still (k : Nat) (slot : Nat) (s : State) :
    (stateAfter s (execStepComplete k slot s)).still = s.still := by
  simp [execStepComplete]

@[simp] theorem State.wakeBusy_still (s : State) :
    (State.wakeBusy s).still = s.still := by
  simp [State.wakeBusy]

@[simp] theorem State.linkClock_still (s : State) :
    (State.linkClock s).still = s.still := by
  simp [State.linkClock]

@[simp] theorem State.releaseRevokes_still (s : State) :
    (State.releaseRevokes s).still = s.still := by
  simp [State.releaseRevokes]

@[simp] theorem State.withhold_still (s : State) :
    (State.withhold s).still = s.still := by
  simp [State.withhold]

@[simp] theorem State.sendUnsealed_still (s : State) (q : Nat) (r : Bool × Packet) :
    (State.sendUnsealed s q r).still = s.still := by
  simp [State.sendUnsealed]

@[simp] theorem State.sealWaiting_still (s : State) :
    (State.sealWaiting s).still = s.still := by
  simp [State.sealWaiting]

@[simp] theorem State.rejoinLate_still (s : State) :
    (State.rejoinLate s).still = s.still := by
  simp [State.rejoinLate]

@[simp] theorem State.expireEngines_still (s : State) :
    (State.expireEngines s).still = s.still := by
  simp [State.expireEngines]

@[simp] theorem execWaitTrigGe_still (k : Nat) (s : State) :
    (stateAfter s (execWaitTrigGe k s)).still = s.still := by
  simp [execWaitTrigGe]

@[simp] theorem State.endJob_still (s : State) (g : Nat) (x2 : GratJob) (status : Nat) :
    (State.endJob s g x2 status).still = s.still := by
  simp [State.endJob]

@[simp] theorem execPerst_still (port : Nat) (s : State) :
    (stateAfter s (execPerst port s)).still = s.still := by
  simp [execPerst]

@[simp] theorem State.predStep_still (s : State) (k : Nat) (r : Running) (t : Step) (holds : Bool) :
    (State.predStep s k r t holds).still = s.still := by
  simp [State.predStep]

@[simp] theorem execPredTrigGe_still (k : Nat) (s : State) :
    (stateAfter s (execPredTrigGe k s)).still = s.still := by
  simp [execPredTrigGe]

@[simp] theorem execWidthAck_still (port : Nat) (lanes : Nat) (s : State) :
    (stateAfter s (execWidthAck port lanes s)).still = s.still := by
  simp [execWidthAck]

@[simp] theorem State.takeGrant_still (s : State) (l : Leave) :
    (State.takeGrant s l).still = s.still := by
  simp [State.takeGrant]

@[simp] theorem State.startGranted_still (s : State) (x1 : LeaveFor) :
    (State.startGranted s x1).still = s.still := by
  unfold State.startGranted; (repeat' split) <;> simp

@[simp] theorem execLeaveGrant_still (measured10us : Nat) (s : State) :
    (stateAfter s (execLeaveGrant measured10us s)).still = s.still := by
  unfold execLeaveGrant; (repeat' split) <;> simp

@[simp] theorem State.modRegion_still (s : State) (i : Nat) (g : Region → Region) :
    (State.modRegion s i g).still = s.still := by
  simp [State.modRegion]

@[simp] theorem execRegionRevoke_still (fn : Nat) (m : Nat) (cores : Cores) (s : State) :
    (stateAfter s (execRegionRevoke fn m cores s)).still = s.still := by
  simp [execRegionRevoke]

@[simp] theorem execKeyRetainEnd_still (p : Nat) (job : Option Nat) (s : State) :
    (stateAfter s (execKeyRetainEnd p job s)).still = s.still := by
  simp [execKeyRetainEnd]

@[simp] theorem execEpochReserved_still (quadrant : Nat) (s : State) :
    (stateAfter s (execEpochReserved quadrant s)).still = s.still := by
  simp [execEpochReserved]

@[simp] theorem execPredFlags_still (k : Nat) (s : State) :
    (stateAfter s (execPredFlags k s)).still = s.still := by
  simp [execPredFlags]

@[simp] theorem execQuadrantIdle_still (q : Nat) (s : State) :
    (stateAfter s (execQuadrantIdle q s)).still = s.still := by
  simp [execQuadrantIdle]

@[simp] theorem State.spdmInSession_still (s : State) (ep session : Nat) (body : State → Nat → State)
    (h : ∀ s n, (body s n).still = s.still) : (State.spdmInSession s ep session body).still = s.still := by
  unfold State.spdmInSession
  refine State.spdmServe_still _ _ _ fun s => ?_
  split <;> simp [h]

@[simp] theorem execSpdmHeartbeat_still (ep session : Nat) (s : State) :
    (stateAfter s (execSpdmHeartbeat ep session s)).still = s.still := by
  unfold execSpdmHeartbeat; rw [stateAfter_next]
  exact State.spdmInSession_still _ _ _ _ fun s n => State.spdmSend_still _ _ _ _

@[simp] theorem execTrigFree_still (fn : Nat) (m : Nat) (cores : Cores) (s : State) :
    (stateAfter s (execTrigFree fn m cores s)).still = s.still := by
  simp [execTrigFree]

@[simp] theorem execPriReset_still (fn : Nat) (s : State) :
    (stateAfter s (execPriReset fn s)).still = s.still := by
  simp [execPriReset]

@[simp] theorem State.enterRecovery_still (s : State) (step : Nat) :
    (State.enterRecovery s step).still = s.still := by
  simp [State.enterRecovery]

@[simp] theorem State.selfTest_still (s : State) (facts : BootFacts) :
    (State.selfTest s facts).still = s.still := by
  simp [State.selfTest]

@[simp] theorem State.makeDump_still (s : State) (p : Nat) :
    (State.makeDump s p).still = s.still := by
  unfold State.makeDump; (repeat' split) <;> simp

@[simp] theorem State.beginService_still (s : State) (slot : Nat) (fallback : Bool) :
    (State.beginService s slot fallback).still = s.still := by
  simp [State.beginService]

@[simp] theorem State.nextEpochs_still (s : State) :
    (State.nextEpochs s).still = s.still := by
  simp [State.nextEpochs]

@[simp] theorem State.bootSlot_still (s : State) (facts : BootFacts) (slot : Nat) (fallback : Bool) :
    (State.bootSlot s facts slot fallback).still = s.still := by
  simp [State.bootSlot]

@[simp] theorem execBoot_still (facts : BootFacts) (s : State) :
    (stateAfter s (execBoot facts s)).still = s.still := by
  simp [execBoot]

theorem State.relayReserve_some (s : State) (a : Nat) (p : Packet) {t : State} (h : s.relayReserve a p = some t) :
    t.still = s.still := by
  unfold State.relayReserve at h; simp only [] at h; grind [State.modQuad_still, State.modAccel_still]

@[simp] theorem State.relayQueue_still (s : State) (port : Nat) (pkt : Packet) :
    (State.relayQueue s port pkt).still = s.still := by
  simp [State.relayQueue]

@[simp] theorem State.relaySend_still (s : State) (pkt : Packet) (k : KeyGens) :
    (State.relaySend s pkt k).still = s.still := by
  unfold State.relaySend; (repeat' split) <;> grind [State.relayQueue_still, State.takeCounter_still, State.sendOn_still, State.pickOutput_still, State.useEngine_still]

@[simp] theorem execRelayUp_still (a : Nat) (pkt : Packet) (s : State) :
    (stateAfter s (execRelayUp a pkt s)).still = s.still := by
  unfold execRelayUp; (repeat' split) <;> (try simp) <;> grind [State.askEngine_still, → State.relayReserve_some, State.attReject_still, State.relaySend_still]

@[simp] theorem State.heedBeacon_still (s : State) (port : Nat) (pkt : Packet) :
    (State.heedBeacon s port pkt).still = s.still := by
  unfold State.heedBeacon; simp only []; (repeat' split) <;> simp

@[simp] theorem State.faultAgain_still (s : State) (port : Nat) (pasid : Option Nat) (pages : List Nat) :
    (State.faultAgain s port pasid pages).still = s.still := by
  simp [State.faultAgain]

@[simp] theorem execTranslationCompletion_still (port : Nat) (request : Nat) (result : XlateEnd) (s : State) :
    (stateAfter s (execTranslationCompletion port request result s)).still = s.still := by
  unfold execTranslationCompletion; (repeat' split) <;> simp

@[simp] theorem execQueueSet_still (fn : Nat) (m : Nat) (cores : Cores) (s : State) :
    (stateAfter s (execQueueSet fn m cores s)).still = s.still := by
  unfold execQueueSet; simp only [stateAfter_next]; refine State.serve_still _ _ _ _ _ ?_; intro s p x; (repeat' split) <;> (try simp) <;> grind [State.setQueue_still, State.serve_still, failWith_still, okWith_still]

@[simp] theorem execHeadRelax_still (port : Nat) (s : State) :
    (stateAfter s (execHeadRelax port s)).still = s.still := by
  simp [execHeadRelax]

@[simp] theorem State.sessionUp_still (s : State) (a : Nat) :
    (State.sessionUp s a).still = s.still := by
  simp [State.sessionUp]

@[simp] theorem State.attKeys_still (s : State) (a : Nat) (secret : List Byte) :
    (State.attKeys s a secret).still = s.still := by
  simp [State.attKeys]

@[simp] theorem execAttSession_still (a : Nat) (step : Nat) (ok : Bool) (data : List Byte) (s : State) :
    (stateAfter s (execAttSession a step ok data s)).still = s.still := by
  simp [execAttSession]

@[simp] theorem State.unitRan_still (s : State) (q : Nat) (p : Nat) (c : Schedule) (before : NumFlags) :
    (State.unitRan s q p c before).still = s.still := by
  simp [State.unitRan]

@[simp] theorem State.collCommit_keeps (s : State) (p : Nat) (c : Schedule) (x3 : Instance) (step : Nat) (rank : Nat) (off : Nat) (b : List Byte) :
    (State.collCommit s p c x3 step rank off b).Keeps s.still := by
  unfold State.collCommit; simp only []; (repeat' split) <;> simp

theorem State.collCommit_done (s : State) (p : Nat) (c : Schedule) (x3 : Instance) (step : Nat) (rank : Nat) (off : Nat) (b : List Byte) {t : State}
    (h : State.collCommit s p c x3 step rank off b = .done t) : t.still = s.still := by
  have k := State.collCommit_keeps s p c x3 step rank off b; rw [h] at k; exact k

theorem State.collCommit_wait (s : State) (p : Nat) (c : Schedule) (x3 : Instance) (step : Nat) (rank : Nat) (off : Nat) (b : List Byte) {t : State}
    (h : State.collCommit s p c x3 step rank off b = .wait t) : t.still = s.still := by
  have k := State.collCommit_keeps s p c x3 step rank off b; rw [h] at k; exact k

theorem State.collCommit_fail (s : State) (p : Nat) (c : Schedule) (x3 : Instance) (step : Nat) (rank : Nat) (off : Nat) (b : List Byte) {t : State} {n : Nat}
    (h : State.collCommit s p c x3 step rank off b = .fail t n) : t.still = s.still := by
  have k := State.collCommit_keeps s p c x3 step rank off b; rw [h] at k; exact k

@[simp] theorem execCollData_still (quadrant : Nat) (pkt : Packet) (s : State) :
    (stateAfter s (execCollData quadrant pkt s)).still = s.still := by
  unfold execCollData; (repeat' split) <;> (try simp) <;> grind [State.unitRan_still, State.credit_still, → State.collCommit_done, → State.collCommit_wait, → State.collCommit_fail, State.refuseColl_still, State.pumpAll_still, State.modRed_still, State.dropFailed_still, State.failInstance_still, State.dropCopy_still, State.verifyBit_still, State.freeCopy_still, State.failRecord_still]

@[simp] theorem State.refuseUnlocked_still (s : State) (q : Nat) (pkt : Packet) (noRecord : Bool) :
    (State.refuseUnlocked s q pkt noRecord).still = s.still := by
  simp [State.refuseUnlocked]

@[simp] theorem execPacketArrival_still (quadrant : Nat) (port : Nat) (pkt : Packet) (s : State) :
    (stateAfter s (execPacketArrival quadrant port pkt s)).still = s.still := by
  unfold execPacketArrival; (repeat' split) <;> (try simp) <;> grind [State.cross_still, State.note_still, State.refuseUnlocked_still, State.leaveInput_still, State.headArrives_still, State.arrive_still, → State.collStray_some]

@[simp] theorem State.sendHello_still (s : State) (port : Nat) :
    (State.sendHello s port).still = s.still := by
  simp [State.sendHello]

@[simp] theorem execJobCreate_still (fn : Nat) (m : Nat) (cores : Cores) (s : State) :
    (stateAfter s (execJobCreate fn m cores s)).still = s.still := by
  simp [execJobCreate]

@[simp] theorem execLoad_still (k : Nat) (s : State) :
    (stateAfter s (execLoad k s)).still = s.still := by
  simp [execLoad]

@[simp] theorem execPwrCapWrite_still (fn : Nat) (value : W32) (s : State) :
    (stateAfter s (execPwrCapWrite fn value s)).still = s.still := by
  simp [execPwrCapWrite]

@[simp] theorem execUnreachableTimeout_still (quadrant : Nat) (msg : Nat) (s : State) :
    (stateAfter s (execUnreachableTimeout quadrant msg s)).still = s.still := by
  unfold execUnreachableTimeout; (repeat' split) <;> simp

@[simp] theorem State.closeInvalidation_still (s : State) (port : Nat) (tag : Nat) :
    (State.closeInvalidation s port tag).still = s.still := by
  unfold State.closeInvalidation; (repeat' split) <;> simp

@[simp] theorem execInvalidationAck_still (port : Nat) (tag : Nat) (engine : Nat) (s : State) :
    (stateAfter s (execInvalidationAck port tag engine s)).still = s.still := by
  unfold execInvalidationAck; (repeat' split) <;> simp

@[simp] theorem execTrigRead_still (k : Nat) (s : State) :
    (stateAfter s (execTrigRead k s)).still = s.still := by
  simp [execTrigRead]

@[simp] theorem State.relayReply_still (s : State) (a : Nat) (pkt : Packet) :
    (State.relayReply s a pkt).still = s.still := by
  simp [State.relayReply]

@[simp] theorem execContextDestroy_still (fn : Nat) (m : Nat) (cores : Cores) (s : State) :
    (stateAfter s (execContextDestroy fn m cores s)).still = s.still := by
  unfold execContextDestroy; simp only [stateAfter_next]; refine State.serve_still _ _ _ _ _ ?_; intro s p x; (repeat' split) <;> (try simp) <;> grind [State.serve_still, failWith_still, okWith_still, State.destroyContext_still, State.stir_still]

@[simp] theorem State.onReply_still (s : State) (q op : Nat) (pkt : Packet) (f : State → Nat → Sender → State)
    (h : ∀ s m x, (f s m x).still = s.still) : (State.onReply s q op pkt f).still = s.still := by
  unfold State.onReply
  split
  · rename_i hd; exact State.replyDrop_some _ _ _ _ hd
  · rw [State.openPacket_still]
    intro s; (repeat' split) <;> simp [h]

@[simp] theorem State.deferCall_still (s : State) (p : Nat) (id : W32) (caller : Nat × Nat) :
    (State.deferCall s p id caller).still = s.still := by
  simp [State.deferCall]

@[simp] theorem execColl_still (k : Nat) (s : State) :
    (stateAfter s (execColl k s)).still = s.still := by
  unfold execColl; (repeat' split) <;> (try simp) <;> grind [State.failStep_still, State.issueStep_still, State.startInstance_still, State.deferCall_still, State.fly_still]

@[simp] theorem execKeepAlive_still (controller : Nat) (s : State) :
    (stateAfter s (execKeepAlive controller s)).still = s.still := by
  unfold execKeepAlive; (repeat' split) <;> simp

@[simp] theorem State.admission_still (s : State) (p : Nat) (l : List Byte) (oid : Nat) (ports : List Nat) (pick : Nat) :
    (State.admission s p l oid ports pick).state.still = s.still := by
  unfold State.admission; simp only []; (repeat' split) <;> simp

@[simp] theorem execLaneTrained_still (port : Nat) (s : State) :
    (stateAfter s (execLaneTrained port s)).still = s.still := by
  simp [execLaneTrained]

@[simp] theorem execBiasFlip_still (port : Nat) (page : Nat) (s : State) :
    (stateAfter s (execBiasFlip port page s)).still = s.still := by
  simp [execBiasFlip]

@[simp] theorem State.countDecrease_still (s : State) (q : Nat) (event : Nat) :
    (State.countDecrease s q event).still = s.still := by
  simp [State.countDecrease]

@[simp] theorem State.ccReply_still (s : State) (q : Nat) (dst : Nat) (pkt : Packet) :
    (State.ccReply s q dst pkt).still = s.still := by
  unfold State.ccReply; simp only []; (repeat' split) <;> simp

@[simp] theorem State.storeResult_still (s : State) (o : MsgOwner) (v : W64) :
    (State.storeResult s o v).still = s.still := by
  unfold State.storeResult; (repeat' split) <;> simp

@[simp] theorem execAck_still (quadrant : Nat) (pkt : Packet) (s : State) :
    (stateAfter s (execAck quadrant pkt s)).still = s.still := by
  simp [execAck]

@[simp] theorem State.recordRead_still (s : State) (k : Nat) (slot : Nat) (t : Step) :
    (State.recordRead s k slot t).still = s.still := by
  simp [State.recordRead]

@[simp] theorem State.startJob_still (s : State) (k : Nat) (g : Nat) (r : Running) (f : Flight) (l : List Byte) :
    (State.startJob s k g r f l).still = s.still := by
  simp [State.startJob]

@[simp] theorem State.gemm_still (s : State) (k : Nat) (g : Nat) (r : Running) (f : Flight) :
    (State.gemm s k g r f).still = s.still := by
  unfold State.gemm; (repeat' split) <;> grind [→ State.localRead_wait, → State.localRead_fail, State.endFlight_still, State.recordRead_still, State.startJob_still]

@[simp] theorem execXformGemm_still (k : Nat) (g : Nat) (s : State) :
    (stateAfter s (execXformGemm k g s)).still = s.still := by
  unfold execXformGemm; (repeat' split) <;> (try simp) <;> grind [State.failStep_still, State.modRun_still, State.issueStep_still, State.gemm_still, State.modFlight_still, State.fly_still, State.openRange_still]

@[simp] theorem State.startDeferred_still (s : State) (p : Nat) (id : W32) (mt : Nat) :
    (State.startDeferred s p id mt).still = s.still := by
  unfold State.startDeferred; (repeat' split) <;> simp

@[simp] theorem State.finishInstance_still (s : State) (p : Nat) (c : Schedule) (x3 : Instance) :
    (State.finishInstance s p c x3).still = s.still := by
  unfold State.finishInstance; simp only []; (repeat' split) <;> simp

@[simp] theorem execInstanceEnd_still (p : Nat) (schedule : W32) (s : State) :
    (stateAfter s (execInstanceEnd p schedule s)).still = s.still := by
  unfold execInstanceEnd; simp only []; (repeat' split) <;> simp

@[simp] theorem execWidthReq_still (port : Nat) (lanes : Nat) (outBusy : Nat) (inBusy : Nat) (heldUs : Nat) (s : State) :
    (stateAfter s (execWidthReq port lanes outBusy inBusy heldUs s)).still = s.still := by
  simp [execWidthReq]

@[simp] theorem execCodewordLock_still (port : Nat) (s : State) :
    (stateAfter s (execCodewordLock port s)).still = s.still := by
  simp [execCodewordLock]

@[simp] theorem execSchedulerRound_still (quadrant : Nat) (s : State) :
    (stateAfter s (execSchedulerRound quadrant s)).still = s.still := by
  simp [execSchedulerRound]

@[simp] theorem State.clearReg_still (s : State) (fn : Nat) (o : Nat) :
    (State.clearReg s fn o).still = s.still := by
  unfold State.clearReg; (repeat' split) <;> simp

@[simp] theorem State.modPtp_still (s : State) (g : Ptp → Ptp) :
    (State.modPtp s g).still = s.still := by
  simp [State.modPtp]

@[simp] theorem State.askDelay_still (s : State) (port : Nat) :
    (State.askDelay s port).still = s.still := by
  simp [State.askDelay]

@[simp] theorem State.announced_still (s : State) (h : PtpHead) (rank : List Nat) :
    (State.announced s h rank).still = s.still := by
  unfold State.announced; simp only []; (repeat' split) <;> simp

@[simp] theorem State.delayFrom_still (s : State) (h : PtpHead) (g : Nat → Int) :
    (State.delayFrom s h g).still = s.still := by
  unfold State.delayFrom; (repeat' split) <;> simp

@[simp] theorem execQuotaSet_still (fn : Nat) (m : Nat) (cores : Cores) (s : State) :
    (stateAfter s (execQuotaSet fn m cores s)).still = s.still := by
  simp [execQuotaSet]

@[simp] theorem execControlFlitTimeout_still (port : Nat) (s : State) :
    (stateAfter s (execControlFlitTimeout port s)).still = s.still := by
  simp [execControlFlitTimeout]

@[simp] theorem State.endReduction_still (s : State) (u : Nat) (x2 : Reduction) (fl : NumFlags) (status : Nat) :
    (State.endReduction s u x2 fl status).still = s.still := by
  simp [State.endReduction]

@[simp] theorem State.runReduction_still (s : State) (u : Nat) :
    (State.runReduction s u).still = s.still := by
  unfold State.runReduction; simp only [stateAfter_next]; (repeat' split) <;> (try simp) <;> grind [→ State.writePieces_done, → State.writePieces_wait, → State.writePieces_fail, State.wipeHead_still, → State.localRead_wait, → State.localRead_fail, State.endReduction_still, State.modRed_still]

@[simp] theorem execReductionEnd_still (u : Nat) (s : State) :
    (stateAfter s (execReductionEnd u s)).still = s.still := by
  simp [execReductionEnd]

@[simp] theorem execSack_still (quadrant : Nat) (pkt : Packet) (s : State) :
    (stateAfter s (execSack quadrant pkt s)).still = s.still := by
  simp [execSack]

@[simp] theorem State.read32_still (s : State) (fn : Nat) (o : Nat) :
    (State.read32 s fn o).2.still = s.still := by
  unfold State.read32; simp only []; (repeat' split) <;> simp

@[simp] theorem State.read64_still (s : State) (fn : Nat) (o : Nat) :
    (State.read64 s fn o).2.still = s.still := by
  unfold State.read64; simp only []; (repeat' split) <;> simp

@[simp] theorem State.attCommitted_still (s : State) (q : Nat) (c : RxCopy) (status : Nat) :
    (State.attCommitted s q c status).still = s.still := by
  unfold State.attCommitted; (repeat' split) <;> simp

@[simp] theorem execMemWriteDone_still (a : Nat) (tag : Nat) (status : Nat) (s : State) :
    (stateAfter s (execMemWriteDone a tag status s)).still = s.still := by
  unfold execMemWriteDone; simp only []; (repeat' split) <;> simp

@[simp] theorem State.connectFrames_still (s : State) (i : Nat) (x2 : Controller) :
    (State.connectFrames s i x2).still = s.still := by
  simp [State.connectFrames]

@[simp] theorem execPerstNDeassertion_still (port : Nat) (s : State) :
    (stateAfter s (execPerstNDeassertion port s)).still = s.still := by
  simp [execPerstNDeassertion]

@[simp] theorem execHdmDecoderUncommit_still (port : Nat) (s : State) :
    (stateAfter s (execHdmDecoderUncommit port s)).still = s.still := by
  simp [execHdmDecoderUncommit]

@[simp] theorem execExit_still (k : Nat) (s : State) :
    (stateAfter s (execExit k s)).still = s.still := by
  simp [execExit]

@[simp] theorem execMessageExpiry_still (quadrant : Nat) (msg : Nat) (s : State) :
    (stateAfter s (execMessageExpiry quadrant msg s)).still = s.still := by
  unfold execMessageExpiry; (repeat' split) <;> simp

@[simp] theorem State.ringDoorbell_still (s : State) (a : Nat) (p : Nat) (index : Nat) (value : W64) :
    (State.ringDoorbell s a p index value).still = s.still := by
  unfold State.ringDoorbell; (repeat' split) <;> simp

@[simp] theorem execDoorbell_still (k : Nat) (s : State) :
    (stateAfter s (execDoorbell k s)).still = s.still := by
  simp [execDoorbell]

@[simp] theorem execPortModeSet_still (fn : Nat) (m : Nat) (cores : Cores) (s : State) :
    (stateAfter s (execPortModeSet fn m cores s)).still = s.still := by
  simp [execPortModeSet]

@[simp] theorem execPredEq_still (k : Nat) (s : State) :
    (stateAfter s (execPredEq k s)).still = s.still := by
  simp [execPredEq]

@[simp] theorem State.chargeOut_still (s : State) (x1 : Sender) (k : Nat) (x3 : Option Nat) :
    (State.chargeOut s x1 k x3).still = s.still := by
  unfold State.chargeOut; (repeat' split) <;> simp

@[simp] theorem execQpDestroy_still (fn : Nat) (m : Nat) (cores : Cores) (s : State) :
    (stateAfter s (execQpDestroy fn m cores s)).still = s.still := by
  unfold execQpDestroy; simp only [stateAfter_next]; refine State.serve_still _ _ _ _ _ ?_; intro s p x; (repeat' split) <;> (try simp) <;> grind [State.dropFrames_still, State.serve_still, failWith_still, okWith_still, State.modQueue_still, State.failQp_still]

@[simp] theorem execGetDigests_still (ep : Nat) (s : State) :
    (stateAfter s (execGetDigests ep s)).still = s.still := by
  simp [execGetDigests]

@[simp] theorem State.backInService_still (s : State) (x1 : UnitId) :
    (State.backInService s x1).still = s.still := by
  unfold State.backInService; (repeat' split) <;> simp

@[simp] theorem State.messageRead_still (s : State) (p : Nat) :
    (State.messageRead s p).still = s.still := by
  simp [State.messageRead]

@[simp] theorem State.enterSession_still (s : State) (port : Nat) (a : Nat) (m : Hello) :
    (State.enterSession s port a m).still = s.still := by
  simp [State.enterSession]

@[simp] theorem execHello_still (port : Nat) (msg : Hello) (s : State) :
    (stateAfter s (execHello port msg s)).still = s.still := by
  unfold execHello; simp only []; (repeat' split) <;> simp

@[simp] theorem execGetCertificate_still (ep : Nat) (slot : Nat) (offset : Nat) (length : Nat) (s : State) :
    (stateAfter s (execGetCertificate ep slot offset length s)).still = s.still := by
  simp [execGetCertificate]

@[simp] theorem execCnp_still (qp : Nat) (s : State) : (stateAfter s (execCnp qp s)).still = s.still := by
  unfold execCnp; rw [stateAfter_next]; split
  · rfl
  · rename_i h
    obtain ⟨q, _, hq⟩ := Option.bind_eq_some_iff.mp h
    simpa using State.takeFrame_some _ _ _ hq

@[simp] theorem execP2pEnable_still (fn : Nat) (a : Nat) (value : W64) (s : State) :
    (stateAfter s (execP2pEnable fn a value s)).still = s.still := by
  simp [execP2pEnable]

@[simp] theorem State.jobRead_keeps (s : State) (x1 : GratJob) (f : Flight) (buf : Nat) (a : W64) (off : Nat) (len : Nat) :
    (State.jobRead s x1 f buf a off len).Keeps s.still := by
  simp [State.jobRead]

theorem State.jobRead_wait (s : State) (x1 : GratJob) (f : Flight) (buf : Nat) (a : W64) (off : Nat) (len : Nat) {t : State}
    (h : State.jobRead s x1 f buf a off len = .wait t) : t.still = s.still := by
  have k := State.jobRead_keeps s x1 f buf a off len; rw [h] at k; exact k

theorem State.jobRead_fail (s : State) (x1 : GratJob) (f : Flight) (buf : Nat) (a : W64) (off : Nat) (len : Nat) {t : State} {n : Nat}
    (h : State.jobRead s x1 f buf a off len = .fail t n) : t.still = s.still := by
  have k := State.jobRead_keeps s x1 f buf a off len; rw [h] at k; exact k

@[simp] theorem execTagVerify_still (quadrant : Nat) (copy : Nat) (trailer : List Byte) (s : State) :
    (stateAfter s (execTagVerify quadrant copy trailer s)).still = s.still := by
  unfold execTagVerify; (repeat' split) <;> simp

theorem State.jobVector_wait (s : State) (x : GratJob) (f : Flight) (i : Nat) {t : State}
    (h : s.jobVector x f i = .inl (.wait t)) : t.still = s.still := by
  unfold State.jobVector at h; simp only [] at h; grind [→ State.jobRead_wait]

theorem State.jobVector_fail (s : State) (x : GratJob) (f : Flight) (i : Nat) {t : State} {n : Nat}
    (h : s.jobVector x f i = .inl (.fail t n)) : t.still = s.still := by
  unfold State.jobVector at h; simp only [] at h; grind [→ State.jobRead_fail]

@[simp] theorem execDrrRound_still (port : Nat) (robin : Nat) (s : State) :
    (stateAfter s (execDrrRound port robin s)).still = s.still := by
  simp [execDrrRound]

@[simp] theorem execAdd32_still (queue : Nat) (index : W32) (s : State) :
    (stateAfter s (execAdd32 queue index s)).still = s.still := by
  simp [execAdd32]

@[simp] theorem State.repick_still (s : State) (p : Nat) (id : W32) (ports : List Nat) :
    (State.repick s p id ports).still = s.still := by
  simp [State.repick]

@[simp] theorem execFwAliveLapse_still (s : State) :
    (stateAfter s (execFwAliveLapse s)).still = s.still := by
  simp [execFwAliveLapse]

@[simp] theorem execAttachTimeout_still (a : Nat) (tag : Nat) (s : State) :
    (stateAfter s (execAttachTimeout a tag s)).still = s.still := by
  unfold execAttachTimeout; (repeat' split) <;> simp

@[simp] theorem execRecordExpiry_still (quadrant : Nat) (key : MsgKey) (s : State) :
    (stateAfter s (execRecordExpiry quadrant key s)).still = s.still := by
  unfold execRecordExpiry; (repeat' split) <;> simp

@[simp] theorem execFrameLeaveBuffer_still (port : Nat) (s : State) :
    (stateAfter s (execFrameLeaveBuffer port s)).still = s.still := by
  unfold execFrameLeaveBuffer; (repeat' split) <;> simp

@[simp] theorem State.answerGroup_still (s : State) (port : Nat) (group : Nat) :
    (State.answerGroup s port group).still = s.still := by
  simp [State.answerGroup]

@[simp] theorem execRetireMapWrite_still (s : State) :
    (stateAfter s (execRetireMapWrite s)).still = s.still := by
  simp [execRetireMapWrite]

@[simp] theorem execSlotRefetch_still (queue : Nat) (s : State) :
    (stateAfter s (execSlotRefetch queue s)).still = s.still := by
  unfold execSlotRefetch; (repeat' split) <;> simp

@[simp] theorem State.takeSeq_still (s : State) (x1 : Sender) :
    (State.takeSeq s x1).2.still = s.still := by
  simp [State.takeSeq]

@[simp] theorem State.transmit_still (s : State) (q : Nat) (m : Nat) (x3 : Sender) (k : Nat) (b : List Byte) (port : Option Nat) (busyPercent : Nat) :
    (State.transmit s q m x3 k b port busyPercent).still = s.still := by
  unfold State.transmit; simp only []; (repeat' split) <;> simp

@[simp] theorem State.scrubBad_still (s : State) (l : Bool × Nat) :
    (State.scrubBad s l).still = s.still := by
  unfold State.scrubBad; (repeat' split) <;> simp

@[simp] theorem State.scrub_still (s : State) (l : Bool × Nat) (again : Nat → Bool) :
    (State.scrub s l again).still = s.still := by
  simp [State.scrub]

@[simp] theorem State.refuseRead_still (s : State) (fn : Nat) :
    (State.refuseRead s fn).still = s.still := by
  simp [State.refuseRead]

@[simp] theorem execPldmFirmwareUpdate_still (slot : Nat) (image : List Byte) (signatureOk : Bool) (s : State) :
    (stateAfter s (execPldmFirmwareUpdate slot image signatureOk s)).still = s.still := by
  simp [execPldmFirmwareUpdate]

@[simp] theorem State.startKeySession_still (s : State) (p : Nat) :
    (State.startKeySession s p).still = s.still := by
  simp [State.startKeySession]

theorem State.jobData_error (s : State) (x : GratJob) (f : Flight) {t : State} {n : Nat}
    (h : s.jobData x f = some (.error (t, n))) : t.still = s.still := by
  unfold State.jobData at h; simp only [] at h; grind [→ State.jobRead_fail]

@[simp] theorem execQueryLimits_still (fn : Nat) (m : Nat) (s : State) :
    (stateAfter s (execQueryLimits fn m s)).still = s.still := by
  simp [execQueryLimits]

@[simp] theorem State.launch_still (s : State) (k : Nat) (slot : Nat) (op : Nat) (n : Nat) :
    (State.launch s k slot op n).still = s.still := by
  simp [State.launch]

@[simp] theorem execFetchRemote_still (k : Nat) (s : State) :
    (stateAfter s (execFetchRemote k s)).still = s.still := by
  simp [execFetchRemote]

@[simp] theorem State.moveRegion_still (s : State) (lpddr : Bool) (region : Nat) (i : Nat) (leg : Nat) :
    (State.moveRegion s lpddr region i leg).still = s.still := by
  unfold State.moveRegion; simp only []; (repeat' split) <;> simp

@[simp] theorem execMigrationRetry_still (placement : Nat) (leg : Nat) (s : State) :
    (stateAfter s (execMigrationRetry placement leg s)).still = s.still := by
  unfold execMigrationRetry; (repeat' split) <;> simp

@[simp] theorem execQpAckTimeout_still (qp : Nat) (s : State) :
    (stateAfter s (execQpAckTimeout qp s)).still = s.still := by
  unfold execQpAckTimeout; (repeat' split) <;> simp

@[simp] theorem execNvmeAttach_still (fn : Nat) (m : Nat) (pick : Nat) (target : Option Nat) (cores : Cores) (s : State) :
    (stateAfter s (execNvmeAttach fn m pick target cores s)).still = s.still := by
  unfold execNvmeAttach; simp only [stateAfter_next]; refine State.serve_still _ _ _ _ _ ?_; intro s p x; (repeat' split) <;> (try simp) <;> grind [State.connectFrames_still, State.serve_still, failWith_still, State.connectFailure_still, okWith_still, State.modQueue_still]

@[simp] theorem execTrigAdd_still (k : Nat) (s : State) :
    (stateAfter s (execTrigAdd k s)).still = s.still := by
  simp [execTrigAdd]

@[simp] theorem execRead_still (queue : Nat) (index : W32) (s : State) :
    (stateAfter s (execRead queue index s)).still = s.still := by
  simp [execRead]

@[simp] theorem execSourceLost_still (s : State) :
    (stateAfter s (execSourceLost s)).still = s.still := by
  simp [execSourceLost]

@[simp] theorem execFetchLocal_still (k : Nat) (s : State) :
    (stateAfter s (execFetchLocal k s)).still = s.still := by
  simp [execFetchLocal]

@[simp] theorem execKeyEnd_still (fn : Nat) (m : Nat) (s : State) :
    (stateAfter s (execKeyEnd fn m s)).still = s.still := by
  unfold execKeyEnd; rw [stateAfter_next]; refine State.serveCommit_still _ _ _ _ _ _ _ ?_; intro s p x; (try simp only []); (repeat' split) <;> (try simp) <;> grind []

@[simp] theorem execCxlMemEnable_still (port : Nat) (on : Bool) (s : State) :
    (stateAfter s (execCxlMemEnable port on s)).still = s.still := by
  simp [execCxlMemEnable]

@[simp] theorem execDiagReport_still (fn : Nat) (m : Nat) (s : State) :
    (stateAfter s (execDiagReport fn m s)).still = s.still := by
  unfold execDiagReport; simp only [stateAfter_next]; refine State.serve_still _ _ _ _ _ ?_; intro s p x; (repeat' split) <;> (try simp) <;> grind [State.serve_still, okWith_still]

@[simp] theorem execTimeReq_still (port : Nat) (_stamp : W64) (s : State) :
    (stateAfter s (execTimeReq port _stamp s)).still = s.still := by
  simp [execTimeReq]

@[simp] theorem execCas32_still (queue : Nat) (index : W32) (s : State) :
    (stateAfter s (execCas32 queue index s)).still = s.still := by
  simp [execCas32]

@[simp] theorem execSetAdd_still (k : Nat) (s : State) :
    (stateAfter s (execSetAdd k s)).still = s.still := by
  simp [execSetAdd]

@[simp] theorem execPfcFrame_still (port : Nat) (priorities : List (Nat × Nat)) (s : State) :
    (stateAfter s (execPfcFrame port priorities s)).still = s.still := by
  simp [execPfcFrame]

@[simp] theorem execUnitSelfTestEnd_still (unit : UnitId) (passed : Bool) (s : State) :
    (stateAfter s (execUnitSelfTestEnd unit passed s)).still = s.still := by
  simp [execUnitSelfTestEnd]

@[simp] theorem execQueRestart_still (fn : Nat) (slot : Nat) (value : W32) (s : State) :
    (stateAfter s (execQueRestart fn slot value s)).still = s.still := by
  simp [execQueRestart]

@[simp] theorem execNoLeave_still (request : Nat) (s : State) :
    (stateAfter s (execNoLeave request s)).still = s.still := by
  unfold execNoLeave; (repeat' split) <;> simp

@[simp] theorem execQueueSample_still (s : State) :
    (stateAfter s (execQueueSample s)).still = s.still := by
  simp [execQueueSample]

@[simp] theorem execGetMeasurements_still (ep : Nat) (index : Nat) (sign : Bool) (nonce : BitVec 256) (s : State) :
    (stateAfter s (execGetMeasurements ep index sign nonce s)).still = s.still := by
  unfold execGetMeasurements; (repeat' split) <;> simp

@[simp] theorem State.ccHalve_still (s : State) (q : Nat) (dst : Nat) (event : Nat) :
    (State.ccHalve s q dst event).still = s.still := by
  unfold State.ccHalve; (repeat' split) <;> simp

@[simp] theorem execNak_still (quadrant : Nat) (pkt : Packet) (s : State) :
    (stateAfter s (execNak quadrant pkt s)).still = s.still := by
  simp [execNak]

theorem State.takeFrames_some (s : State) (port : Nat) (kind : FrameKind) {t : State}
    (h : State.takeFrames s port kind = some t) : t.still = s.still := by
  unfold State.takeFrames at h; grind [State.modPort_still, State.modQuad_still]

@[simp] theorem execNvmeCompletion_still (controller : Nat) (command : Nat) (status : Nat) (data : List Byte) (s : State) :
    (stateAfter s (execNvmeCompletion controller command status data s)).still = s.still := by
  unfold execNvmeCompletion; simp only [stateAfter_next]; (repeat' split) <;> (try simp) <;> grind [State.modCtl_still, State.pumpBound_still, State.completeHeld_still, → State.takeFrames_some]

@[simp] theorem execPredLt_still (k : Nat) (s : State) :
    (stateAfter s (execPredLt k s)).still = s.still := by
  simp [execPredLt]

@[simp] theorem execPageRequestTimeout_still (port : Nat) (group : Nat) (s : State) :
    (stateAfter s (execPageRequestTimeout port group s)).still = s.still := by
  unfold execPageRequestTimeout; (repeat' split) <;> simp

@[simp] theorem execFrameReceive_still (port : Nat) (frame : Frame) (s : State) :
    (stateAfter s (execFrameReceive port frame s)).still = s.still := by
  simp [execFrameReceive]

@[simp] theorem State.sendStep_still (s : State) (k : Nat) (r : Running) (t : Step) :
    (State.sendStep s k r t).still = s.still := by
  simp [State.sendStep]

@[simp] theorem execSendWrite_still (k : Nat) (s : State) :
    (stateAfter s (execSendWrite k s)).still = s.still := by
  simp [execSendWrite]

@[simp] theorem State.retireNow_still (s : State) (lpddr : Bool) (region : Nat) :
    (State.retireNow s lpddr region).still = s.still := by
  simp [State.retireNow]

@[simp] theorem execRegionRetire_still (lpddr : Bool) (region : Nat) (s : State) :
    (stateAfter s (execRegionRetire lpddr region s)).still = s.still := by
  unfold execRegionRetire; simp only []; (repeat' split) <;> simp

@[simp] theorem execPpsOutPulse_still (s : State) :
    (stateAfter s (execPpsOutPulse s)).still = s.still := by
  simp [execPpsOutPulse]

@[simp] theorem execNeighborSolicitation_still (port : Nat) (target : BitVec 128) (senderMac : BitVec 48) (s : State) :
    (stateAfter s (execNeighborSolicitation port target senderMac s)).still = s.still := by
  simp [execNeighborSolicitation]

@[simp] theorem execReadResp_still (quadrant : Nat) (pkt : Packet) (s : State) :
    (stateAfter s (execReadResp quadrant pkt s)).still = s.still := by
  simp [execReadResp]

@[simp] theorem execPlaceAlloc_still (fn : Nat) (m : Nat) (pick : Nat) (pickOffset : Nat) (cores : Cores) (s : State) :
    (stateAfter s (execPlaceAlloc fn m pick pickOffset cores s)).still = s.still := by
  unfold execPlaceAlloc; simp only [stateAfter_next]; refine State.serve_still _ _ _ _ _ ?_; intro s p x; (repeat' split) <;> (try simp) <;> grind [State.serve_still, failWith_still, okWith_still, State.newPlacement_still]

@[simp] theorem execRejoinDeadline_still (s : State) :
    (stateAfter s (execRejoinDeadline s)).still = s.still := by
  simp [execRejoinDeadline]

@[simp] theorem execFwActivate_still (fn : Nat) (m : Nat) (signatureOk : Bool) (s : State) :
    (stateAfter s (execFwActivate fn m signatureOk s)).still = s.still := by
  simp [execFwActivate]

@[simp] theorem execPowerAverageUpdate_still (milliwatts : Nat) (s : State) :
    (stateAfter s (execPowerAverageUpdate milliwatts s)).still = s.still := by
  simp [execPowerAverageUpdate]

@[simp] theorem execChannelPowerDown_still (c : Nat) (s : State) :
    (stateAfter s (execChannelPowerDown c s)).still = s.still := by
  simp [execChannelPowerDown]

@[simp] theorem execCapEffecter_still (sustained : Bool) (watts : Nat) (s : State) :
    (stateAfter s (execCapEffecter sustained watts s)).still = s.still := by
  simp [execCapEffecter]

@[simp] theorem State.dropSchedules_still (s : State) (p : Nat) :
    (State.dropSchedules s p).still = s.still := by
  simp [State.dropSchedules]

@[simp] theorem State.dropRotations_still (s : State) (p : Nat) :
    (State.dropRotations s p).still = s.still := by
  simp [State.dropRotations]

@[simp] theorem execWaitTrigTake_still (k : Nat) (s : State) :
    (stateAfter s (execWaitTrigTake k s)).still = s.still := by
  simp [execWaitTrigTake]

@[simp] theorem execShareSet_still (fn : Nat) (m : Nat) (cores : Cores) (s : State) :
    (stateAfter s (execShareSet fn m cores s)).still = s.still := by
  simp [execShareSet]

@[simp] theorem execPreCopyPassEnd_still (placement : Nat) (leg : Nat) (s : State) :
    (stateAfter s (execPreCopyPassEnd placement leg s)).still = s.still := by
  unfold execPreCopyPassEnd; (repeat' split) <;> simp

@[simp] theorem execDescriptorComplete_still (queue : Nat) (index : W32) (s : State) :
    (stateAfter s (execDescriptorComplete queue index s)).still = s.still := by
  unfold execDescriptorComplete; (repeat' split) <;> simp

@[simp] theorem execRegionRegister_still (fn : Nat) (m : Nat) (pick : Nat) (check : Nat) (cores : Cores) (s : State) :
    (stateAfter s (execRegionRegister fn m pick check cores s)).still = s.still := by
  unfold execRegionRegister; simp only [stateAfter_next]; refine State.serve_still _ _ _ _ _ ?_; intro s p x; (repeat' split) <;> (try simp) <;> grind [State.serve_still, failWith_still, okWith_still, State.modRegion_still]

@[simp] theorem execQueueDestroy_still (fn m : Nat) (cores : Cores) (s : State) :
    (stateAfter s (execQueueDestroy fn m cores s)).still = s.still := by
  unfold execQueueDestroy; rw [stateAfter_next, State.drainDone_still]
  refine State.serve_still _ _ _ _ _ ?_; intro s p x
  simp only []
  split
  · rfl
  · split <;> simp

@[simp] theorem State.reissueReads_still (s : State) (port : Nat) :
    (State.reissueReads s port).still = s.still := by
  simp [State.reissueReads]

@[simp] theorem State.linkReturns_still (s : State) (port : Nat) :
    (State.linkReturns s port).still = s.still := by
  simp [State.linkReturns]

@[simp] theorem execDlUp_still (port : Nat) (s : State) :
    (stateAfter s (execDlUp port s)).still = s.still := by
  simp [execDlUp]

@[simp] theorem execHotReset_still (port : Nat) (s : State) :
    (stateAfter s (execHotReset port s)).still = s.still := by
  simp [execHotReset]

@[simp] theorem execSendAdd64_still (k : Nat) (s : State) :
    (stateAfter s (execSendAdd64 k s)).still = s.still := by
  simp [execSendAdd64]

@[simp] theorem State.moveJob_still (s : State) (g : Nat) (h : Nat) :
    (State.moveJob s g h).still = s.still := by
  unfold State.moveJob; (repeat' split) <;> simp

@[simp] theorem execAtlasChoiceChange_still (choice : AtlasChoice) (s : State) :
    (stateAfter s (execAtlasChoiceChange choice s)).still = s.still := by
  unfold execAtlasChoiceChange; (repeat' split) <;> simp

@[simp] theorem execNop_still (queue : Nat) (index : W32) (s : State) :
    (stateAfter s (execNop queue index s)).still = s.still := by
  unfold execNop; (repeat' split) <;> simp

@[simp] theorem execWaitTime_still (k : Nat) (s : State) :
    (stateAfter s (execWaitTime k s)).still = s.still := by
  simp [execWaitTime]

@[simp] theorem execTrigSet_still (k : Nat) (s : State) :
    (stateAfter s (execTrigSet k s)).still = s.still := by
  simp [execTrigSet]

@[simp] theorem execWipeComplete_still (unit : UnitId) (s : State) :
    (stateAfter s (execWipeComplete unit s)).still = s.still := by
  unfold execWipeComplete; simp only []; (repeat' split) <;> simp

@[simp] theorem execSaInstall_still (fn : Nat) (m : Nat) (cores : Cores) (s : State) :
    (stateAfter s (execSaInstall fn m cores s)).still = s.still := by
  unfold execSaInstall; rw [stateAfter_next]; refine State.serveCommit_still _ _ _ _ _ _ _ ?_; intro s p x; (try simp only []); (repeat' split) <;> (try simp) <;> grind [innerFail_still, State.modPart_still]

@[simp] theorem State.copyLines_still (s : State) (i : Nat) (leg : Nat) :
    (State.copyLines s i leg).still = s.still := by
  unfold State.copyLines; (repeat' (first | rfl | split | (refine (still_foldl _ _ _ ?_).trans ?_; intros) | simp))

@[simp] theorem execCutOver_still (placement : Nat) (leg : Nat) (s : State) :
    (stateAfter s (execCutOver placement leg s)).still = s.still := by
  unfold execCutOver; (repeat' split) <;> simp

@[simp] theorem execCompletionFlushDone_still (queue : Nat) (index : W32) (s : State) :
    (stateAfter s (execCompletionFlushDone queue index s)).still = s.still := by
  simp [execCompletionFlushDone]

@[simp] theorem execPfcPauseExpiry_still (port : Nat) (priority : Nat) (s : State) :
    (stateAfter s (execPfcPauseExpiry port priority s)).still = s.still := by
  simp [execPfcPauseExpiry]

@[simp] theorem execBulkClose_still (fn m : Nat) (s : State) : (stateAfter s (execBulkClose fn m s)).still = s.still := by
  unfold execBulkClose; simp only []; rw [stateAfter_next]
  split
  · rfl
  refine State.serve_still _ _ _ _ _ ?_; intro s p x
  refine State.onBulk_state _ _ _ _ _ fun b => ?_
  (repeat' split) <;> simp <;> (try (split <;> simp))

@[simp] theorem execInvalidateRequest_still (port : Nat) (tag : Nat) (base : Nat) (length : Nat) (pasid : Option Nat) (global : Bool) (s : State) :
    (stateAfter s (execInvalidateRequest port tag base length pasid global s)).still = s.still := by
  simp [execInvalidateRequest]

theorem State.bulkReadObject_ok (s : State) (fn p k o : Nat) {t : State} {l : List Byte}
    (h : s.bulkReadObject fn p k o = .ok (l, t)) : t.still = s.still := by
  unfold State.bulkReadObject at h; simp only [] at h; grind [State.startKeySession_still]

@[simp] theorem execBulkOpen_still (fn m : Nat) (s : State) : (stateAfter s (execBulkOpen fn m s)).still = s.still := by
  unfold execBulkOpen; rw [stateAfter_next]
  refine State.serve_still _ _ _ _ _ ?_; intro s p x
  simp only []
  split
  · simp
  · split
    · rfl
    · split
      · rfl
      · split
        · split <;> simp
        · split
          · rfl
          · rename_i h; rw [okWith_state, State.openBulk_still]; exact State.bulkReadObject_ok _ _ _ _ _ h

@[simp] theorem State.installRoot_still (s : State) (p : Nat) (owner : List Byte) (root : List Byte) :
    (State.installRoot s p owner root).state.still = s.still := by
  simp [State.installRoot]

@[simp] theorem execInstallRoot_still (fn : Nat) (m : Nat) (cores : Cores) (s : State) :
    (stateAfter s (execInstallRoot fn m cores s)).still = s.still := by
  unfold execInstallRoot; rw [stateAfter_next]; refine State.serveCommit_still _ _ _ _ _ _ _ ?_; intro s p x; (try simp only []); (repeat' split) <;> (try simp) <;> grind [State.installRoot_still]

@[simp] theorem execThermalWarning_still (what : Thermal) (celsius : Nat) (s : State) :
    (stateAfter s (execThermalWarning what celsius s)).still = s.still := by
  simp [execThermalWarning]

@[simp] theorem execPageRequestGroupResponse_still (port : Nat) (group : Nat) (response : PrgResponse) (s : State) :
    (stateAfter s (execPageRequestGroupResponse port group response s)).still = s.still := by
  unfold execPageRequestGroupResponse; (repeat' split) <;> simp

@[simp] theorem execFlr_still (fn : Nat) (s : State) :
    (stateAfter s (execFlr fn s)).still = s.still := by
  simp [execFlr]

@[simp] theorem execLockInterfaceRequest_still (fn : Nat) (s : State) :
    (stateAfter s (execLockInterfaceRequest fn s)).still = s.still := by
  simp [execLockInterfaceRequest]

@[simp] theorem execGateListTakeover_still (port : Nat) (s : State) :
    (stateAfter s (execGateListTakeover port s)).still = s.still := by
  unfold execGateListTakeover; simp only []; (repeat' split) <;> simp

@[simp] theorem execMemReadData_still (a : Nat) (tag : Nat) (status : Nat) (data : List Byte) (s : State) :
    (stateAfter s (execMemReadData a tag status data s)).still = s.still := by
  unfold execMemReadData; simp only []; (repeat' split) <;> simp

@[simp] theorem execContextCreate_still (fn : Nat) (m : Nat) (pick : Nat) (cores : Cores) (s : State) :
    (stateAfter s (execContextCreate fn m pick cores s)).still = s.still := by
  unfold execContextCreate; simp only [stateAfter_next]; refine State.serve_still _ _ _ _ _ ?_; intro s p x; (repeat' split) <;> (try simp) <;> grind [State.serve_still, failWith_still, okWith_still, State.modCtx_still]

@[simp] theorem execRetransmitTimeout_still (quadrant : Nat) (msg : Nat) (s : State) :
    (stateAfter s (execRetransmitTimeout quadrant msg s)).still = s.still := by
  unfold execRetransmitTimeout; (repeat' split) <;> simp

@[simp] theorem State.answerRead_still (s : State) (fn : Nat) (v : Nat) :
    (State.answerRead s fn v).still = s.still := by
  simp [State.answerRead]

@[simp] theorem execReadClear_still (fn : Nat) (bar : Nat) (offset : Nat) (width : Nat) (s : State) :
    (stateAfter s (execReadClear fn bar offset width s)).still = s.still := by
  simp [execReadClear]

@[simp] theorem execPredNe_still (k : Nat) (s : State) :
    (stateAfter s (execPredNe k s)).still = s.still := by
  simp [execPredNe]

@[simp] theorem execStartInterfaceRequest_still (fn : Nat) (s : State) :
    (stateAfter s (execStartInterfaceRequest fn s)).still = s.still := by
  simp [execStartInterfaceRequest]

@[simp] theorem execBiasGo_still (fn : Nat) (value : W32) (s : State) :
    (stateAfter s (execBiasGo fn value s)).still = s.still := by
  simp [execBiasGo]

@[simp] theorem execBeacon_still (port : Nat) (pkt : Packet) (s : State) :
    (stateAfter s (execBeacon port pkt s)).still = s.still := by
  simp [execBeacon]

@[simp] theorem State.failJob_still (s : State) (g : Nat) (x2 : GratJob) :
    (State.failJob s g x2).still = s.still := by
  simp [State.failJob]

@[simp] theorem State.streamJob_keeps (s : State) (g : Nat) (d : JobData) (b : Option Nat) (n : Nat) :
    (State.streamJob s g d b n).Keeps s.still := by
  induction n generalizing s with
  | zero => simp [State.streamJob]
  | succ n ih =>
    have ih' : ∀ u, u.still = s.still → (State.streamJob u g d b n).Keeps s.still := fun u hu => hu ▸ ih u
    unfold State.streamJob
    (repeat' split) <;> (try simp only []) <;> (repeat' split) <;> (try simp) <;> grind [Stream.Keeps, → State.jobVector_wait, → State.jobVector_fail, → State.takeVector_fail, → State.takeVector_wait, → State.takeVector_done, State.modGrat_still, State.countFor_still]

theorem State.streamJob_done (s : State) (g : Nat) (d : JobData) (b : Option Nat) (n : Nat) {t : State}
    (h : State.streamJob s g d b n = .done t) : t.still = s.still := by
  have k := State.streamJob_keeps s g d b n; rw [h] at k; exact k

theorem State.streamJob_wait (s : State) (g : Nat) (d : JobData) (b : Option Nat) (n : Nat) {t : State}
    (h : State.streamJob s g d b n = .wait t) : t.still = s.still := by
  have k := State.streamJob_keeps s g d b n; rw [h] at k; exact k

theorem State.streamJob_check (s : State) (g : Nat) (d : JobData) (b : Option Nat) (n : Nat) {t : State} {v : Nat}
    (h : State.streamJob s g d b n = .check t v) : t.still = s.still := by
  have k := State.streamJob_keeps s g d b n; rw [h] at k; exact k

theorem State.streamJob_fail (s : State) (g : Nat) (d : JobData) (b : Option Nat) (n : Nat) {t : State} {v : Nat}
    (h : State.streamJob s g d b n = .fail t v) : t.still = s.still := by
  have k := State.streamJob_keeps s g d b n; rw [h] at k; exact k

@[simp] theorem State.scoresEnd_still (s : State) (g : Nat) :
    (State.scoresEnd s g).still = s.still := by
  unfold State.scoresEnd; simp only []; (repeat' split) <;> simp

@[simp] theorem execGraticuleJobEnd_still (g : Nat) (checkFailed : Option Nat) (s : State) :
    (stateAfter s (execGraticuleJobEnd g checkFailed s)).still = s.still := by
  unfold execGraticuleJobEnd; simp only [stateAfter_next]; (repeat' split) <;> (try simp) <;> grind [State.failJob_still, State.stopJobs_still, State.modGrat_still, → State.streamJob_done, → State.streamJob_wait, → State.streamJob_check, → State.streamJob_fail, → State.jobData_error, State.endJob_still, State.scoresEnd_still]

@[simp] theorem execVendorDefinedRequest_still (ep session standard fn : Nat) (s : State) :
    (stateAfter s (execVendorDefinedRequest ep session standard fn s)).still = s.still := by
  unfold execVendorDefinedRequest; rw [stateAfter_next]
  refine State.spdmInSession_still _ _ _ _ fun s n => ?_
  (repeat' split) <;> simp

@[simp] theorem State.payload_keeps (s : State) (x1 : Sender) (k : Nat) :
    (State.payload s x1 k).Keeps s.still := by
  unfold State.payload; (repeat' split) <;> simp

theorem State.payload_wait (s : State) (x1 : Sender) (k : Nat) {t : State}
    (h : State.payload s x1 k = .wait t) : t.still = s.still := by
  have k := State.payload_keeps s x1 k; rw [h] at k; exact k

theorem State.payload_fail (s : State) (x1 : Sender) (k : Nat) {t : State} {n : Nat}
    (h : State.payload s x1 k = .fail t n) : t.still = s.still := by
  have k := State.payload_keeps s x1 k; rw [h] at k; exact k

@[simp] theorem execPacketTransmit_still (quadrant : Nat) (msg : Nat) (index : Nat) (port : Nat) (busyPercent : Nat) (s : State) :
    (stateAfter s (execPacketTransmit quadrant msg index port busyPercent s)).still = s.still := by
  unfold execPacketTransmit; (repeat' split) <;> (try simp) <;> grind [State.askEngine_still, State.tintPort_still, State.msgEnded_still, State.transmit_still, → State.payload_wait, → State.payload_fail, State.chargeOut_still]

@[simp] theorem State.writeBar2_still (s : State) (fn : Nat) (o : Nat) (width : Nat) (v : Nat) :
    (State.writeBar2 s fn o width v).still = s.still := by
  simp [State.writeBar2]

@[simp] theorem execThermalThrottle_still (what : Thermal) (celsius : Nat) (s : State) :
    (stateAfter s (execThermalThrottle what celsius s)).still = s.still := by
  simp [execThermalThrottle]

@[simp] theorem execWaitWordGe_still (k : Nat) (s : State) :
    (stateAfter s (execWaitWordGe k s)).still = s.still := by
  simp [execWaitWordGe]

@[simp] theorem execSendWriteFlag_still (k : Nat) (s : State) :
    (stateAfter s (execSendWriteFlag k s)).still = s.still := by
  simp [execSendWriteFlag]

@[simp] theorem execCxlCacheLineGrant_still (port : Nat) (line : Nat) (owned : Bool) (s : State) :
    (stateAfter s (execCxlCacheLineGrant port line owned s)).still = s.still := by
  simp [execCxlCacheLineGrant]

@[simp] theorem State.strike_still (s : State) (l : List (Nat × Bool × Nat)) :
    (State.strike s l).still = s.still := by
  simp [State.strike]

@[simp] theorem execPatrolScrub_still (line : Nat) (upsets : List (Nat × Bool × Nat)) (s : State) :
    (stateAfter s (execPatrolScrub line upsets s)).still = s.still := by
  simp [execPatrolScrub]

@[simp] theorem execGraticuleSelfTestEnd_still (g : Nat) (passed : Bool) (s : State) :
    (stateAfter s (execGraticuleSelfTestEnd g passed s)).still = s.still := by
  simp [execGraticuleSelfTestEnd]

@[simp] theorem execBackstopRelease_still (milliwatts : Nat) (s : State) :
    (stateAfter s (execBackstopRelease milliwatts s)).still = s.still := by
  simp [execBackstopRelease]

@[simp] theorem execFirmwareImageWrite_still (fn : Nat) (m : Nat) (signatureOk : Bool) (s : State) :
    (stateAfter s (execFirmwareImageWrite fn m signatureOk s)).still = s.still := by
  unfold execFirmwareImageWrite; (repeat' split) <;> (try simp) <;> grind [failWith_still, okWith_still, State.serveCommit_still, State.modFw_still]

@[simp] theorem execKernelStart_still (queue : Nat) (index : W32) (sequencer : Nat) (s : State) :
    (stateAfter s (execKernelStart queue index sequencer s)).still = s.still := by
  unfold execKernelStart; (repeat' split) <;> simp

@[simp] theorem execRegionQuarantineEnd_still (index : Nat) (s : State) :
    (stateAfter s (execRegionQuarantineEnd index s)).still = s.still := by
  simp [execRegionQuarantineEnd]

@[simp] theorem execFlashWpNChange_still (high : Bool) (s : State) :
    (stateAfter s (execFlashWpNChange high s)).still = s.still := by
  simp [execFlashWpNChange]

@[simp] theorem execCheckRepeat_still (g : Nat) (passed : Bool) (s : State) :
    (stateAfter s (execCheckRepeat g passed s)).still = s.still := by
  unfold execCheckRepeat; simp only [stateAfter_next]; (repeat' split) <;> (try simp) <;> grind [State.failJob_still, → State.takeVector_done, → State.takeVector_wait, → State.takeVector_fail, State.modGrat_still, → State.jobData_error, State.countFor_still, → State.jobVector_wait, → State.jobVector_fail, State.endJob_still]

@[simp] theorem execScheduleAdmission_still (fn : Nat) (m : Nat) (ports : List Nat) (sequencer : Nat) (cores : Cores) (s : State) :
    (stateAfter s (execScheduleAdmission fn m ports sequencer cores s)).still = s.still := by
  simp [execScheduleAdmission]

@[simp] theorem execHostReadCompletion_still (port : Nat) (tag : Nat) (result : ReadEnd) (s : State) :
    (stateAfter s (execHostReadCompletion port tag result s)).still = s.still := by
  unfold execHostReadCompletion; (repeat' split) <;> simp

@[simp] theorem execLowHalfRead_still (fn : Nat) (bar : Nat) (offset : Nat) (s : State) :
    (stateAfter s (execLowHalfRead fn bar offset s)).still = s.still := by
  simp [execLowHalfRead]

@[simp] theorem execRingCreate_still (fn : Nat) (m : Nat) (pick : Nat) (pickHome : Nat) (cores : Cores) (s : State) :
    (stateAfter s (execRingCreate fn m pick pickHome cores s)).still = s.still := by
  unfold execRingCreate; simp only [stateAfter_next]; refine State.serve_still _ _ _ _ _ ?_; intro s p x; (repeat' split) <;> (try simp) <;> grind [State.serve_still, State.blankSlots_still, failWith_still, okWith_still, State.setRing_still]

@[simp] theorem execMigrationStart_still (placement : Nat) (leg : Nat) (reason : MigrateReason) (lpddr : Bool) (quadrant : Nat) (heat : Heat) (s : State) :
    (stateAfter s (execMigrationStart placement leg reason lpddr quadrant heat s)).still = s.still := by
  simp [execMigrationStart]

@[simp] theorem execIdeStreamFailure_still (fn : Nat) (s : State) :
    (stateAfter s (execIdeStreamFailure fn s)).still = s.still := by
  simp [execIdeStreamFailure]

@[simp] theorem execBulkGet_still (fn m : Nat) (s : State) : (stateAfter s (execBulkGet fn m s)).still = s.still := by
  unfold execBulkGet; simp only []; rw [stateAfter_next]
  refine State.serve_still _ _ _ _ _ ?_; intro s p x
  refine State.onBulk_state _ _ _ _ _ fun b => ?_
  (repeat' split) <;> simp

@[simp] theorem execSramScrub_still (line : Nat) (upsets : List (Nat × Bool × Nat)) (s : State) :
    (stateAfter s (execSramScrub line upsets s)).still = s.still := by
  simp [execSramScrub]

@[simp] theorem execKeepalive_still (port : Nat) (s : State) :
    (stateAfter s (execKeepalive port s)).still = s.still := by
  simp [execKeepalive]

@[simp] theorem execCas64_still (queue : Nat) (index : W32) (s : State) :
    (stateAfter s (execCas64 queue index s)).still = s.still := by
  simp [execCas64]

@[simp] theorem State.restartMailbox_still (s : State) (k : Nat) :
    (State.restartMailbox s k).still = s.still := by
  simp [State.restartMailbox]

@[simp] theorem execHeartbeat_still (pkt : Packet) (s : State) :
    (stateAfter s (execHeartbeat pkt s)).still = s.still := by
  unfold execHeartbeat; simp only [stateAfter_next]; (repeat' split) <;> (try simp) <;> grind [State.openPacket_still, State.note_still, State.refuseUnlocked_still, State.modJob_still]

@[simp] theorem State.settleOwner_still (s : State) (o : TileOwner) :
    (State.settleOwner s o).still = s.still := by
  unfold State.settleOwner; (repeat' split) <;> simp

end Sys2Proof.Machine
end

