-- ==== Sys2Proof/Laws/Firm.lean ====
section
/-!
SUPPORT. Laws/Firm.lean: what leaves the clock Meridian, the functions and mailboxes, the rings and regions, the
reduction units and the firmware alone: one lemma for each operation that touches none of them.
-/

namespace Sys2Proof.Machine

@[simp] theorem State.firm_mk (s : State) pending clk free out cfg txs hosts parts contexts queues placements mem tiles quads ports charts accels grats seqs kernels trigs qps controllers kbx spdm power survey recover :
    State.firm ⟨pending, clk, free, out, cfg, txs, s.mer, s.funcs, s.mailboxes, hosts, parts, contexts, queues, s.rings, s.regions, placements, mem, tiles, quads, ports, charts, accels, grats, s.reds, seqs, kernels, trigs, qps, controllers, s.fw, kbx, spdm, power, survey, recover⟩ = s.firm := rfl

@[simp] theorem firm_ite (c : Prop) [Decidable c] (a b : State) :
    (if c then a else b).firm = if c then a.firm else b.firm := apply_ite State.firm c a b

@[simp] theorem firm_foldl {α : Type} (g : State → α → State) (l : List α) (s : State)
    (h : ∀ s a, (g s a).firm = s.firm) : (l.foldl g s).firm = s.firm := by
  induction l generalizing s with
  | nil => rfl
  | cons a l ih => exact (ih (g s a)).trans (h s a)

/-- What every state in a result keeps. -/
def Got.KeepsF (v : Firm) : Got → Prop
  | .bytes _ => True
  | .wait t => t.firm = v
  | .fail t _ => t.firm = v

def Commit.KeepsF (v : Firm) : Commit → Prop
  | .done t => t.firm = v
  | .wait t => t.firm = v
  | .fail t _ => t.firm = v

def Land.KeepsF (v : Firm) : Land → Prop
  | .done t => t.firm = v
  | .sent t => t.firm = v
  | .wait t => t.firm = v
  | .retry t _ => t.firm = v
  | .fail t _ => t.firm = v

def Stream.KeepsF (v : Firm) : Stream → Prop
  | .done t => t.firm = v
  | .wait t => t.firm = v
  | .check t _ => t.firm = v
  | .fail t _ => t.firm = v

@[simp] theorem Got.keeps_bytesF (v l) : (Got.bytes l).KeepsF v = True := rfl

@[simp] theorem Got.keeps_waitF (v t) : (Got.wait t).KeepsF v = (t.firm = v) := rfl

@[simp] theorem Got.keeps_failF (v t n) : (Got.fail t n).KeepsF v = (t.firm = v) := rfl

@[simp] theorem Commit.keeps_doneF (v t) : (Commit.done t).KeepsF v = (t.firm = v) := rfl

@[simp] theorem Commit.keeps_waitF (v t) : (Commit.wait t).KeepsF v = (t.firm = v) := rfl

@[simp] theorem Commit.keeps_failF (v t n) : (Commit.fail t n).KeepsF v = (t.firm = v) := rfl

@[simp] theorem Land.keeps_doneF (v t) : (Land.done t).KeepsF v = (t.firm = v) := rfl

@[simp] theorem Land.keeps_sentF (v t) : (Land.sent t).KeepsF v = (t.firm = v) := rfl

@[simp] theorem Land.keeps_waitF (v t) : (Land.wait t).KeepsF v = (t.firm = v) := rfl

@[simp] theorem Land.keeps_retryF (v t n) : (Land.retry t n).KeepsF v = (t.firm = v) := rfl

@[simp] theorem Land.keeps_failF (v t n) : (Land.fail t n).KeepsF v = (t.firm = v) := rfl

@[simp] theorem Stream.keeps_doneF (v t) : (Stream.done t).KeepsF v = (t.firm = v) := rfl

@[simp] theorem Stream.keeps_waitF (v t) : (Stream.wait t).KeepsF v = (t.firm = v) := rfl

@[simp] theorem Stream.keeps_checkF (v t n) : (Stream.check t n).KeepsF v = (t.firm = v) := rfl

@[simp] theorem Stream.keeps_failF (v t n) : (Stream.fail t n).KeepsF v = (t.firm = v) := rfl

@[simp] theorem State.modQuad_firm (s : State) (q : Nat) (g : Quadrant → Quadrant) :
    (State.modQuad s q g).firm = s.firm := by
  simp [State.modQuad]

@[simp] theorem State.modPower_firm (s : State) (g : Power → Power) :
    (State.modPower s g).firm = s.firm := by
  simp [State.modPower]

@[simp] theorem State.askLeave_firm (s : State) (u : LeaveFor) :
    (State.askLeave s u).firm = s.firm := by
  simp [State.askLeave]

@[simp] theorem State.askEngine_firm (s : Machine.State) (q : Nat) (opening : Bool) :
    (State.askEngine s q opening).firm = s.firm := by
  simp [State.askEngine]

@[simp] theorem State.draw_firm (s : State) :
    (State.draw s).2.firm = s.firm := by
  simp [State.draw]

@[simp] theorem State.count_firm (s : State) (id : Nat) (n : Nat) :
    (State.count s id n).firm = s.firm := by
  simp [State.count]

@[simp] theorem State.countIn_firm (s : Machine.State) (scope : Nat) (id : Nat) (n : Nat) :
    (State.countIn s scope id n).firm = s.firm := by
  simp [State.countIn]

@[simp] theorem State.modPart_firm (s : State) (p : Nat) (g : Partition → Partition) :
    (State.modPart s p g).firm = s.firm := by
  simp [State.modPart]

@[simp] theorem State.emit_firm (s : State) (o : Out) :
    (State.emit s o).firm = s.firm := by
  simp [State.emit]

@[simp] theorem State.log_firm (s : State) (r : LogRecord) (w : W64) : (State.log s r w).firm = s.firm := by
  unfold State.log; cases r.partition <;> (simp only []; (repeat' split) <;> simp)

@[simp] theorem State.alarm_firm (s : State) (i : Nat) (p : Option Nat) :
    (State.alarm s i p).firm = s.firm := by
  unfold State.alarm; (repeat' split) <;> simp

@[simp] theorem State.alarmRecord_firm (s : State) (i : Nat) (r : LogRecord) (p : Option Nat) :
    (State.alarmRecord s i r p).firm = s.firm := by
  simp [State.alarmRecord]

@[simp] theorem State.warnKeys_firm (s : State) (q : Nat) :
    (State.warnKeys s q).firm = s.firm := by
  simp [State.warnKeys]

@[simp] theorem State.takeCounter_firm (s : State) (q : Nat) :
    (State.takeCounter s q).1.firm = s.firm := by
  simp [State.takeCounter]

theorem State.takeCounter_pairF (s : State) (q : Nat) {t' : State} {b' : BitVec 48}
    (h : State.takeCounter s q = (t', b')) : t'.firm = s.firm := by
  have k := State.takeCounter_firm s q; rw [h] at k; exact k

@[simp] theorem State.modRec_firm (s : State) (g : Recover → Recover) :
    (State.modRec s g).firm = s.firm := by
  simp [State.modRec]

@[simp] theorem State.takePath_firm (s : Machine.State) (cls : Nat) (n : Nat) (path : List Nat) :
    (State.takePath s cls n path).firm = s.firm := by
  simp [State.takePath]

@[simp] theorem State.cross_firm (s : Machine.State) (a : Nat) (b : Nat) (cls : Nat) (n : Nat) :
    (State.cross s a b cls n).firm = s.firm := by
  simp [State.cross]

@[simp] theorem State.sendOn_firm (s : State) (port : Option Nat) (pkt : Packet) :
    (State.sendOn s port pkt).firm = s.firm := by
  unfold State.sendOn; (repeat' split) <;> simp

@[simp] theorem State.pickOutput_firm (s : State) (e : ChartEntry) :
    (State.pickOutput s e).1.firm = s.firm := by
  simp [State.pickOutput]

theorem State.pickOutput_pairF (s : State) (e : ChartEntry) {t' : State} {b' : Option Nat}
    (h : State.pickOutput s e = (t', b')) : t'.firm = s.firm := by
  have k := State.pickOutput_firm s e; rw [h] at k; exact k

@[simp] theorem State.useEngine_firm (s : Machine.State) (q : Nat) (opening : Bool) (n : Nat) :
    (State.useEngine s q opening n).firm = s.firm := by
  simp [State.useEngine]

@[simp] theorem State.inject_firm (s : State) (q : Nat) (pkt : Packet) (job : Option Nat) (r85 : Bool) :
    (State.inject s q pkt job r85).firm = s.firm := by
  unfold State.inject; (repeat' split) <;> (try simp) <;> grind [State.modQuad_firm, State.askEngine_firm, State.takeCounter_firm, State.sendOn_firm, State.pickOutput_firm, State.useEngine_firm]

@[simp] theorem State.reply_firm (s : State) (q : Nat) (pkt : Packet) (op : Nat) (status : Nat) (retry : Nat) (noRecord : Bool) (r : Option Record) (marked : Bool) (r85 : Bool) :
    (State.reply s q pkt op status retry noRecord r marked r85).firm = s.firm := by
  simp [State.reply]

@[simp] theorem State.modRecord_firm (s : State) (q : Nat) (k : MsgKey) (g : Record → Record) :
    (State.modRecord s q k g).firm = s.firm := by
  simp [State.modRecord]

@[simp] theorem State.replied_firm (s : Machine.State) (q : Nat) (k : MsgKey) (state : RecState) :
    (State.replied s q k state).firm = s.firm := by
  simp [State.replied]

@[simp] theorem State.stateReply_firm (s : State) (q : Nat) (pkt : Packet) (marked : Bool) (r : Record) :
    (State.stateReply s q pkt marked r).firm = s.firm := by
  unfold State.stateReply; (repeat' split) <;> simp

@[simp] theorem State.repeatReply_firm (s : State) (q : Nat) (pkt : Packet) (marked : Bool) :
    (State.repeatReply s q pkt marked).firm = s.firm := by
  unfold State.repeatReply; (repeat' split) <;> simp

@[simp] theorem State.completeRecord_firm (s : State) (q : Nat) (pkt : Packet) (marked : Bool) :
    (State.completeRecord s q pkt marked).firm = s.firm := by
  unfold State.completeRecord; simp only []; (repeat' split) <;> simp

@[simp] theorem State.freePool_firm (s : State) (q : Nat) (c : Nat) (n : Nat) :
    (State.freePool s q c n).firm = s.firm := by
  simp [State.freePool]

@[simp] theorem State.freeFlag_firm (s : State) (q : Nat) (r : Record) :
    (State.freeFlag s q r).firm = s.firm := by
  unfold State.freeFlag; (repeat' split) <;> simp

@[simp] theorem State.refuse_firm (s : State) (q : Nat) (pkt : Packet) (retry : Nat) (noRecord : Bool) (marked : Bool) :
    (State.refuse s q pkt retry noRecord marked).firm = s.firm := by
  simp [State.refuse]

@[simp] theorem State.modHost_firm (s : State) (p : Nat) (g : HostPort → HostPort) :
    (State.modHost s p g).firm = s.firm := by
  simp [State.modHost]

@[simp] theorem State.touchPages_firm (s : State) (r : Region) (addr : Nat) (n : Nat) :
    (State.touchPages s r addr n).firm = s.firm := by
  simp [State.touchPages]

@[simp] theorem State.walk_firm (s : State) (p : Nat) (w : Walk) :
    (State.walk s p w).firm = s.firm := by
  simp [State.walk]

@[simp] theorem State.serveMisses_firm (s : State) (x1 : Nat) :
    (State.serveMisses s x1).firm = s.firm := by
  fun_induction State.serveMisses s x1 <;> simp_all

@[simp] theorem State.issueWalks_firm (s : State) :
    (State.issueWalks s).firm = s.firm := by
  simp [State.issueWalks]

@[simp] theorem State.missPages_firm (s : Machine.State) (p : Nat) (rq : Nat) (pasid : Option Nat) (pages : List Nat) (write : Bool) (tiles : List Nat) :
    (State.missPages s p rq pasid pages write tiles).firm = s.firm := by
  simp [State.missPages]

theorem State.sendGroup_someF (s : State) (p : Nat) (rq : Nat) (pasid : Option Nat) (l : List (Nat × Bool)) {t' : State} {b' : Nat}
    (h : State.sendGroup s p rq pasid l = some (t', b')) : t'.firm = s.firm := by
  unfold State.sendGroup at h; (repeat' split at h) <;> (first | (cases h; simp; done) | (simp at h; done) | grind [State.modHost_firm, State.emit_firm])

@[simp] theorem State.requestPages_firm (s : State) (p : Nat) (rq : Nat) (pasid : Option Nat) (pages : List Nat) (write : Bool) (tiles : List Nat) :
    (State.requestPages s p rq pasid pages write tiles).firm = s.firm := by
  unfold State.requestPages; simp only [stateAfter_next]; (repeat' split) <;> (try simp) <;> grind [→ State.sendGroup_someF, State.modHost_firm]

theorem State.hostPages_keepsF (s : State) (r : Region) (a n : Nat) (w : Bool) {l : Land}
    (h : s.hostPages r a n w = some l) : l.KeepsF s.firm := by
  unfold State.hostPages at h; simp only [] at h; (repeat' split at h) <;> (try simp at h) <;> (try subst h) <;> (try simp) <;> grind [Land.KeepsF, State.walk_firm]

theorem State.hostPages_retryF (s : State) (r : Region) (a n : Nat) (w : Bool) {t : State} {k : Nat}
    (h : s.hostPages r a n w = some (.retry t k)) : t.firm = s.firm := by
  simpa using State.hostPages_keepsF s r a n w h

theorem State.hostPages_failF (s : State) (r : Region) (a n : Nat) (w : Bool) {t : State} {k : Nat}
    (h : s.hostPages r a n w = some (.fail t k)) : t.firm = s.firm := by
  simpa using State.hostPages_keepsF s r a n w h

theorem State.hostPages_waitF (s : State) (r : Region) (a n : Nat) (w : Bool) {t : State}
    (h : s.hostPages r a n w = some (.wait t)) : t.firm = s.firm := by
  simpa using State.hostPages_keepsF s r a n w h

theorem State.toHub_someF (s : State) (q : Nat) (cls : Nat) (n : Nat) {t : State}
    (h : State.toHub s q cls n = some t) : t.firm = s.firm := by
  unfold State.toHub at h; grind [State.takePath_firm]

@[simp] theorem State.askLines_firm (s : State) (l : List (Nat × Nat)) (owned : Bool) :
    (State.askLines s l owned).firm = s.firm := by
  simp [State.askLines]

theorem State.toPages_someF (s : State) (q cls p off n : Nat) {t : State} (h : s.toPages q cls p off n = some t) :
    t.firm = s.firm := by
  unfold State.toPages at h
  have fold : ∀ (l : List Nat) (f : State → Nat → Option State) (e : Option State),
      (∀ u a t, u.firm = s.firm → f u a = some t → t.firm = s.firm) → (∀ t, e = some t → t.firm = s.firm) →
      ∀ t, l.foldl (fun o a => o.bind fun u => f u a) e = some t → t.firm = s.firm := by
    intro l; induction l with
    | nil => intro f e _ he; exact he
    | cons a l ih =>
      intro f e hf he
      refine ih f _ hf fun t ht => ?_
      cases e with
      | none => simp at ht
      | some u => exact hf u a t (he u rfl) (by simpa using ht)
  refine fold _ _ _ ?_ ?_ t h
  · intro u a t hu ht
    simp only [] at ht
    split at ht
    · cases ht; simpa using hu
    · cases ht
  · intro t ht; cases ht; rfl

@[simp] theorem State.hostSend_firm (s : State) (port : Nat) (w : HostWrite) :
    (State.hostSend s port w).firm = s.firm := by
  simp [State.hostSend]

@[simp] theorem State.landHost_firm (s : Machine.State) (c : Machine.Context) (a : Nat) (b : List Byte) :
    (State.landHost s c a b).firm = s.firm := by
  simp [State.landHost]

@[simp] theorem State.modAccel_firm (s : State) (a : Nat) (g : Accel → Accel) :
    (State.modAccel s a g).firm = s.firm := by
  simp [State.modAccel]

@[simp] theorem State.attSendOne_firm (s : State) (a : Nat) (write : Bool) :
    (State.attSendOne s a write).firm = s.firm := by
  unfold State.attSendOne; simp only []; (repeat' split) <;> simp

@[simp] theorem State.attPump_firm (s : State) (a n : Nat) : (State.attPump s a n).firm = s.firm := by
  induction n generalizing s with
  | zero => rfl
  | succ n ih => simp [State.attPump, ih]

@[simp] theorem State.attRequest_firm (s : State) (a : Nat) (purpose : AttUse) (write : Bool) (offset : Nat) (data : List Byte) (length : Nat) (partition : Nat) :
    (State.attRequest s a purpose write offset data length partition).firm = s.firm := by
  simp [State.attRequest]

@[simp] theorem State.modMem_firm (s : State) (g : Memory → Memory) :
    (State.modMem s g).firm = s.firm := by
  simp [State.modMem]

@[simp] theorem State.useChannels_firm (s : Machine.State) (p : Nat) (off : Nat) (n : Nat) :
    (State.useChannels s p off n).firm = s.firm := by
  simp [State.useChannels]

@[simp] theorem State.foldUpsets_firm (s : Machine.State) (a : Nat) (n : Nat) :
    (State.foldUpsets s a n).firm = s.firm := by
  unfold State.foldUpsets; (repeat' (first | rfl | split | (refine (firm_foldl _ _ _ ?_).trans ?_; intros) | simp))

@[simp] theorem State.freshFrames_firm (s : Machine.State) (p : Nat) (off : Nat) (n : Nat) :
    (State.freshFrames s p off n).firm = s.firm := by
  simp [State.freshFrames]

@[simp] theorem State.modPlace_firm (s : State) (i : Nat) (g : Placement → Placement) :
    (State.modPlace s i g).firm = s.firm := by
  simp [State.modPlace]

@[simp] theorem State.markSpace_firm (s : Machine.State) (p : Nat) (off : Nat) (n : Nat) :
    (State.markSpace s p off n).firm = s.firm := by
  unfold State.markSpace; (repeat' split) <;> simp

@[simp] theorem State.writeSpace_firm (s : State) (p : Nat) (off : Nat) (b : List Byte) :
    (State.writeSpace s p off b).firm = s.firm := by
  unfold State.writeSpace; simp only []; (repeat' split) <;> simp

@[simp] theorem State.landBytes_keepsF (s : State) (q copy : Nat) (r : Region) (off : Nat) (b : List Byte) (cls : Nat) :
    (State.landBytes s q copy r off b cls).KeepsF s.firm := by
  unfold State.landBytes
  split
  · simp only []
    split
    · simp
    · split
      · simp
      · split
        · rename_i h; simp [State.toPages_someF _ _ _ _ _ _ h]
        · simp
  · split
    · simp
    · simp only []
      split
      · rename_i h; exact State.hostPages_keepsF _ _ _ _ _ h
      · split
        · simp
        · split
          · rename_i h; simp [State.toHub_someF _ _ _ _ h]
          · simp

theorem State.landBytes_doneF (s : State) (q copy : Nat) (r : Region) (off : Nat) (b : List Byte) (cls : Nat) {t : State}
    (h : State.landBytes s q copy r off b cls = .done t) : t.firm = s.firm := by
  have k := State.landBytes_keepsF s q copy r off b cls; rw [h] at k; exact k

theorem State.landBytes_sentF (s : State) (q copy : Nat) (r : Region) (off : Nat) (b : List Byte) (cls : Nat) {t : State}
    (h : State.landBytes s q copy r off b cls = .sent t) : t.firm = s.firm := by
  have k := State.landBytes_keepsF s q copy r off b cls; rw [h] at k; exact k

theorem State.landBytes_waitF (s : State) (q copy : Nat) (r : Region) (off : Nat) (b : List Byte) (cls : Nat) {t : State}
    (h : State.landBytes s q copy r off b cls = .wait t) : t.firm = s.firm := by
  have k := State.landBytes_keepsF s q copy r off b cls; rw [h] at k; exact k

theorem State.landBytes_retryF (s : State) (q copy : Nat) (r : Region) (off : Nat) (b : List Byte) (cls : Nat) {t : State} {v : Nat}
    (h : State.landBytes s q copy r off b cls = .retry t v) : t.firm = s.firm := by
  have k := State.landBytes_keepsF s q copy r off b cls; rw [h] at k; exact k

theorem State.landBytes_failF (s : State) (q copy : Nat) (r : Region) (off : Nat) (b : List Byte) (cls : Nat) {t : State} {v : Nat}
    (h : State.landBytes s q copy r off b cls = .fail t v) : t.firm = s.firm := by
  have k := State.landBytes_keepsF s q copy r off b cls; rw [h] at k; exact k

@[simp] theorem State.failRecord_firm (s : State) (q : Nat) (pkt : Packet) (status : Nat) (marked : Bool) :
    (State.failRecord s q pkt status marked).firm = s.firm := by
  unfold State.failRecord; simp only []; (repeat' split) <;> simp

@[simp] theorem State.releaseFlag_firm (s : State) (q : Nat) (k : MsgKey) (marked : Bool) :
    (State.releaseFlag s q k marked).firm = s.firm := by
  unfold State.releaseFlag; simp only [stateAfter_next]; (repeat' split) <;> (try simp) <;> grind [State.modQuad_firm, State.modRecord_firm, State.freeFlag_firm, State.refuse_firm, State.completeRecord_firm, → State.landBytes_doneF, → State.landBytes_waitF, → State.landBytes_sentF, → State.landBytes_retryF, → State.landBytes_failF, State.failRecord_firm]

@[simp] theorem State.credit_firm (s : State) (q : Nat) (pkt : Packet) (marked : Bool) :
    (State.credit s q pkt marked).firm = s.firm := by
  unfold State.credit; simp only []; (repeat' split) <;> simp

@[simp] theorem State.modCopy_firm (s : State) (q : Nat) (id : Nat) (g : RxCopy → RxCopy) :
    (State.modCopy s q id g).firm = s.firm := by
  simp [State.modCopy]

@[simp] theorem State.takeCopy_firm (s : State) (q : Nat) (id : Nat) :
    (State.takeCopy s q id).firm = s.firm := by
  simp [State.takeCopy]

@[simp] theorem State.verifyBit_firm (s : State) (q : Nat) (pkt : Packet) :
    (State.verifyBit s q pkt).firm = s.firm := by
  simp [State.verifyBit]

@[simp] theorem State.freeCopy_firm (s : State) (q : Nat) (c : RxCopy) :
    (State.freeCopy s q c).firm = s.firm := by
  simp [State.freeCopy]

@[simp] theorem State.holdFlag_firm (s : State) (q : Nat) (c : RxCopy) (marked : Bool) :
    (State.holdFlag s q c marked).firm = s.firm := by
  simp [State.holdFlag]

@[simp] theorem State.landWrite_firm (s : State) (q : Nat) (c : RxCopy) (marked : Bool) :
    (State.landWrite s q c marked).firm = s.firm := by
  unfold State.landWrite; simp only [stateAfter_next]; (repeat' split) <;> (try simp) <;> grind [State.credit_firm, State.repeatReply_firm, State.modRecord_firm, State.refuse_firm, State.modCopy_firm, → State.landBytes_doneF, → State.landBytes_waitF, → State.landBytes_sentF, → State.landBytes_retryF, → State.landBytes_failF, State.holdFlag_firm, State.verifyBit_firm, State.freeCopy_firm, State.failRecord_firm]

@[simp] theorem State.dirtySpace_firm (s : Machine.State) (p : Nat) (off : Nat) (n : Nat) :
    (State.dirtySpace s p off n).firm = s.firm := by
  unfold State.dirtySpace; (repeat' split) <;> simp

@[simp] theorem State.atomicAt_firm (s : State) (p : Nat) (off : Nat) (n : Nat) (op : Nat) (a : W64) (b : W64) :
    (State.atomicAt s p off n op a b).1.firm = s.firm := by
  unfold State.atomicAt; simp only []; (repeat' split) <;> simp

theorem State.atomicAt_pairF (s : State) (p : Nat) (off : Nat) (n : Nat) (op : Nat) (a : W64) (b : W64) {t' : State} {b' : W64}
    (h : State.atomicAt s p off n op a b = (t', b')) : t'.firm = s.firm := by
  have k := State.atomicAt_firm s p off n op a b; rw [h] at k; exact k

@[simp] theorem State.landAtomic_firm (s : State) (q : Nat) (c : RxCopy) (marked : Bool) :
    (State.landAtomic s q c marked).firm = s.firm := by
  unfold State.landAtomic; simp only [stateAfter_next]; (repeat' split) <;> (try simp) <;> grind [State.repeatReply_firm, State.modRecord_firm, State.atomicAt_firm, → State.atomicAt_pairF, State.askLines_firm, → State.toPages_someF, State.completeRecord_firm, State.modCopy_firm, State.verifyBit_firm, State.freeCopy_firm]

@[simp] theorem State.modPort_firm (s : State) (p : Nat) (g : Port → Port) :
    (State.modPort s p g).firm = s.firm := by
  simp [State.modPort]

@[simp] theorem State.queueFrame_firm (s : Machine.State) (f : EthFrame) :
    (State.queueFrame s f).firm = s.firm := by
  simp [State.queueFrame]

@[simp] theorem State.rdmaReply_firm (s : State) (qp : Nat) (kind : Nat) (psn : Nat) (n : Nat) (body : List W64) :
    (State.rdmaReply s qp kind psn n body).firm = s.firm := by
  unfold State.rdmaReply; (repeat' split) <;> simp

@[simp] theorem State.finalNak_firm (s : State) (q : Nat) (pkt : Packet) (status : Nat) (marked : Bool) :
    (State.finalNak s q pkt status marked).firm = s.firm := by
  simp [State.finalNak]

@[simp] theorem State.failRead_firm (s : State) (q : Nat) (c : RxCopy) (status : Nat) :
    (State.failRead s q c status).firm = s.firm := by
  unfold State.failRead; (repeat' split) <;> simp

@[simp] theorem State.hostRead_firm (s : State) (port : Nat) (r : HostRead) :
    (State.hostRead s port r).1.firm = s.firm := by
  unfold State.hostRead; simp only []; (repeat' split) <;> simp

theorem State.hostRead_pairF (s : State) (port : Nat) (r : HostRead) {t' : State} {b' : Bool}
    (h : State.hostRead s port r = (t', b')) : t'.firm = s.firm := by
  have k := State.hostRead_firm s port r; rw [h] at k; exact k

@[simp] theorem State.pumpServed_firm (s : State) (q : Nat) (id : Nat) (x3 : Nat) :
    (State.pumpServed s q id x3).firm = s.firm := by
  fun_induction State.pumpServed s q id x3 <;> grind [State.hostRead_firm, → State.hostRead_pairF, State.modCopy_firm]

@[simp] theorem State.responderReads_firm (s : State) (q : Nat) (id : Nat) (c : Context) (addr : Nat) (off : Nat) (n : Nat) :
    (State.responderReads s q id c addr off n).firm = s.firm := by
  simp [State.responderReads]

@[simp] theorem State.rdmaData_firm (s : Machine.State) (qp : Nat) (psn : Nat) (k : Nat) (b : List Byte) :
    (State.rdmaData s qp psn k b).firm = s.firm := by
  simp [State.rdmaData]

@[simp] theorem State.sendRead_firm (s : State) (q : Nat) (pkt : Packet) (k : Nat) (b : List Byte) :
    (State.sendRead s q pkt k b).firm = s.firm := by
  simp [State.sendRead]

@[simp] theorem State.sendServed_firm (s : State) (q : Nat) (c : RxCopy) (k : Nat) (b : List Byte) :
    (State.sendServed s q c k b).firm = s.firm := by
  unfold State.sendServed; (repeat' split) <;> simp

@[simp] theorem State.landRead_firm (s : State) (q : Nat) (c : RxCopy) :
    (State.landRead s q c).firm = s.firm := by
  unfold State.landRead; simp only [stateAfter_next]; (repeat' split) <;> (try simp) <;> grind [State.touchPages_firm, State.failRead_firm, State.responderReads_firm, State.useChannels_firm, → State.hostPages_waitF, → State.hostPages_retryF, → State.hostPages_failF, State.refuse_firm, State.askLines_firm, State.modCopy_firm, State.attRequest_firm, State.sendServed_firm, State.freeCopy_firm]

@[simp] theorem State.landCopy_firm (s : State) (q : Nat) (c : RxCopy) :
    (State.landCopy s q c).firm = s.firm := by
  simp [State.landCopy]

@[simp] theorem State.startFlood_firm (s : State) (e : BeaconEntry) :
    (State.startFlood s e).firm = s.firm := by
  simp [State.startFlood]

@[simp] theorem State.floodOn_firm (s : State) (port : Nat) (pkt : Packet) :
    (State.floodOn s port pkt).firm = s.firm := by
  simp [State.floodOn]

@[simp] theorem State.forgetTiles_firm (s : State) (ids : List Nat) :
    (State.forgetTiles s ids).firm = s.firm := by
  simp [State.forgetTiles]

@[simp] theorem State.clearTranslations_firm (s : State) (fn : Nat) :
    (State.clearTranslations s fn).firm = s.firm := by
  simp [State.clearTranslations]

@[simp] theorem State.modQp_firm (s : State) (i : Nat) (g : QueuePair → QueuePair) :
    (State.modQp s i g).firm = s.firm := by
  unfold State.modQp; (repeat' split) <;> simp

@[simp] theorem State.dropQpFrames_firm (s : Machine.State) (port : Nat) (qp : Nat) :
    (State.dropQpFrames s port qp).firm = s.firm := by
  simp [State.dropQpFrames]

@[simp] theorem State.dueRetire_firm (s : State) (lpddr : Bool) (region : Nat) :
    (State.dueRetire s lpddr region).firm = s.firm := by
  simp [State.dueRetire]

@[simp] theorem State.poisonLine_firm (s : State) (line : Nat) :
    (State.poisonLine s line).firm = s.firm := by
  unfold State.poisonLine; (repeat' split) <;> simp

@[simp] theorem State.tagEvent_firm (s : State) (p : Nat) (status : Nat) (info : W64) :
    (State.tagEvent s p status info).firm = s.firm := by
  simp [State.tagEvent]

@[simp] theorem State.accessFault_firm (s : Machine.State) (p : Nat) (off : Nat) (len : Nat) (status : Nat) :
    (State.accessFault s p off len status).firm = s.firm := by
  simp [State.accessFault]

@[simp] theorem State.localRead_keepsF (s : State) (o : TileOwner) (p : Nat) (g : Segment) (a : W64) (off : Nat) (len : Nat) (buf : Nat) :
    (State.localRead s o p g a off len buf).KeepsF s.firm := by
  unfold State.localRead; simp only []; (repeat' split) <;> simp

theorem State.localRead_waitF (s : State) (o : TileOwner) (p : Nat) (g : Segment) (a : W64) (off : Nat) (len : Nat) (buf : Nat) {t : State}
    (h : State.localRead s o p g a off len buf = .wait t) : t.firm = s.firm := by
  have k := State.localRead_keepsF s o p g a off len buf; rw [h] at k; exact k

theorem State.localRead_failF (s : State) (o : TileOwner) (p : Nat) (g : Segment) (a : W64) (off : Nat) (len : Nat) (buf : Nat) {t : State} {n : Nat}
    (h : State.localRead s o p g a off len buf = .fail t n) : t.firm = s.firm := by
  have k := State.localRead_keepsF s o p g a off len buf; rw [h] at k; exact k

@[simp] theorem State.sendRdma_firm (s : State) (qp : Nat) (q : QueuePair) (d : Desc) (r : QpRequest) (b : List Byte) :
    (State.sendRdma s qp q d r b).firm = s.firm := by
  simp [State.sendRdma]

@[simp] theorem State.resendFrom_firm (s : State) (qp : Nat) (q : QueuePair) (x3 : List QpRequest) :
    (State.resendFrom s qp q x3).firm = s.firm := by
  fun_induction State.resendFrom s qp q x3 <;> grind [→ State.localRead_waitF, → State.localRead_failF, State.sendRdma_firm]

@[simp] theorem State.resendRdma_firm (s : State) (qp : Nat) :
    (State.resendRdma s qp).firm = s.firm := by
  unfold State.resendRdma; (repeat' split) <;> simp

@[simp] theorem State.setQueue_firm (s : State) (q : Nat) (x2 : Queue) :
    (State.setQueue s q x2).firm = s.firm := by
  simp [State.setQueue]

@[simp] theorem State.modQueue_firm (s : State) (q : Nat) (g : Queue → Queue) :
    (State.modQueue s q g).firm = s.firm := by
  unfold State.modQueue; (repeat' split) <;> simp

@[simp] theorem State.modDesc_firm (s : State) (q : Nat) (i : W32) (g : Desc → Desc) :
    (State.modDesc s q i g).firm = s.firm := by
  simp [State.modDesc]

@[simp] theorem State.freeSender_firm (s : State) (q : Nat) (m : Nat) :
    (State.freeSender s q m).firm = s.firm := by
  unfold State.freeSender; (repeat' split) <;> simp

@[simp] theorem State.freeSendersIn_firm (s : State) (q : Nat) (pick : Sender → Bool) :
    (State.freeSendersIn s q pick).firm = s.firm := by
  simp [State.freeSendersIn]

@[simp] theorem State.freeSenders_firm (s : State) (pick : Sender → Bool) :
    (State.freeSenders s pick).firm = s.firm := by
  simp [State.freeSenders]

@[simp] theorem State.endAttach_firm (s : State) (o : TileOwner) :
    (State.endAttach s o).firm = s.firm := by
  simp [State.endAttach]

@[simp] theorem State.endDesc_firm (s : State) (q : Nat) (i : W32) (status : Nat) (detail : Nat) :
    (State.endDesc s q i status detail).firm = s.firm := by
  simp [State.endDesc]

@[simp] theorem State.dropTiles_firm (s : State) (o : TileOwner) :
    (State.dropTiles s o).firm = s.firm := by
  simp [State.dropTiles]

@[simp] theorem State.endTiles_firm (s : State) (o : TileOwner) :
    (State.endTiles s o).firm = s.firm := by
  simp [State.endTiles]

@[simp] theorem State.cutDesc_firm (s : State) (q : Nat) (i : W32) (status : Nat) (detail : Nat) :
    (State.cutDesc s q i status detail).firm = s.firm := by
  unfold State.cutDesc; (repeat' split) <;> simp

@[simp] theorem State.modCtl_firm (s : State) (c : Nat) (g : Controller → Controller) :
    (State.modCtl s c g).firm = s.firm := by
  unfold State.modCtl; (repeat' split) <;> simp

@[simp] theorem State.sendNvme_firm (s : State) (c : Nat) (x2 : Controller) (k : NvmeCmd) (lba : Nat) (b : List Byte) :
    (State.sendNvme s c x2 k lba b).firm = s.firm := by
  simp [State.sendNvme]

@[simp] theorem State.issueNvme_firm (s : State) (qn : Nat) (c : Nat) (q : Queue) (i : W32) :
    (State.issueNvme s qn c q i).firm = s.firm := by
  unfold State.issueNvme; (repeat' split) <;> grind [→ State.localRead_waitF, → State.localRead_failF, State.modDesc_firm, State.cutDesc_firm, State.sendNvme_firm]

@[simp] theorem State.issueRdma_firm (s : State) (qn : Nat) (qp : Nat) (x3 : Queue) (i : W32) :
    (State.issueRdma s qn qp x3 i).firm = s.firm := by
  unfold State.issueRdma; (repeat' split) <;> grind [State.modQuad_firm, → State.localRead_waitF, → State.localRead_failF, State.modQp_firm, State.modDesc_firm, State.cutDesc_firm, State.sendRdma_firm]

@[simp] theorem State.pumpBound_firm (s : State) (qn : Nat) :
    (State.pumpBound s qn).firm = s.firm := by
  unfold State.pumpBound; (repeat' split) <;> simp

@[simp] theorem State.settleBound_firm (s : State) (qn : Nat) (i : W32) :
    (State.settleBound s qn i).firm = s.firm := by
  unfold State.settleBound; (repeat' split) <;> simp

@[simp] theorem State.releaseRdma_firm (s : State) (qp : Nat) (port : Nat) (n : Nat) :
    (State.releaseRdma s qp port n).firm = s.firm := by
  simp [State.releaseRdma]

@[simp] theorem State.rdmaDone_firm (s : State) (qp : Nat) (q : QueuePair) (r : QpRequest) :
    (State.rdmaDone s qp q r).firm = s.firm := by
  simp [State.rdmaDone]

@[simp] theorem State.rdmaProgress_firm (s : Machine.State) (qp : Nat) (r : QpRequest) (n : Nat) :
    (State.rdmaProgress s qp r n).firm = s.firm := by
  simp [State.rdmaProgress]

@[simp] theorem State.modTile_firm (s : State) (id : Nat) (g : Tile → Tile) :
    (State.modTile s id g).firm = s.firm := by
  unfold State.modTile; (repeat' split) <;> simp

@[simp] theorem State.tileWrote_firm (s : State) (id : Nat) (off : Nat) (n : Nat) :
    (State.tileWrote s id off n).firm = s.firm := by
  unfold State.tileWrote; (repeat' split) <;> simp

@[simp] theorem State.noteWrite_firm (s : Machine.State) (o : TileOwner) (port : Nat) (a : W64) (translated : Bool) :
    (State.noteWrite s o port a translated).firm = s.firm := by
  unfold State.noteWrite; (repeat' split) <;> simp

@[simp] theorem State.walkTile_firm (s : State) (id : Nat) :
    (State.walkTile s id).firm = s.firm := by
  unfold State.walkTile; (repeat' split) <;> simp

@[simp] theorem State.untranslated_firm (s : Machine.State) (id : Nat) :
    (State.untranslated s id).firm = s.firm := by
  simp [State.untranslated]

@[simp] theorem State.hostCommit_keepsF (s : State) (o : TileOwner) (off : Nat) (b : List Byte) (n : Nat) :
    (State.hostCommit s o off b n).KeepsF s.firm := by
  fun_induction State.hostCommit s o off b n <;> simp_all

theorem State.hostCommit_doneF (s : State) (o : TileOwner) (off : Nat) (b : List Byte) (n : Nat) {t : State}
    (h : State.hostCommit s o off b n = .done t) : t.firm = s.firm := by
  have k := State.hostCommit_keepsF s o off b n; rw [h] at k; exact k

theorem State.hostCommit_waitF (s : State) (o : TileOwner) (off : Nat) (b : List Byte) (n : Nat) {t : State}
    (h : State.hostCommit s o off b n = .wait t) : t.firm = s.firm := by
  have k := State.hostCommit_keepsF s o off b n; rw [h] at k; exact k

@[simp] theorem State.localWrite_keepsF (s : State) (o : TileOwner) (p : Nat) (g : Segment) (a : W64) (off : Nat)
    (b : List Byte) (buf : Nat) : (State.localWrite s o p g a off b buf).KeepsF s.firm := by
  unfold State.localWrite; simp only []
  split
  · exact State.hostCommit_keepsF _ _ _ _ _
  · (repeat' split) <;> simp only [Commit.keeps_doneF, Commit.keeps_waitF, Commit.keeps_failF] <;> simp

theorem State.localWrite_doneF (s : State) (o : TileOwner) (p : Nat) (g : Segment) (a : W64) (off : Nat)
    (b : List Byte) (buf : Nat) {t : State}
    (h : State.localWrite s o p g a off b buf = .done t) : t.firm = s.firm := by
  have k := State.localWrite_keepsF s o p g a off b buf; rw [h] at k; exact k

theorem State.localWrite_waitF (s : State) (o : TileOwner) (p : Nat) (g : Segment) (a : W64) (off : Nat)
    (b : List Byte) (buf : Nat) {t : State}
    (h : State.localWrite s o p g a off b buf = .wait t) : t.firm = s.firm := by
  have k := State.localWrite_keepsF s o p g a off b buf; rw [h] at k; exact k

theorem State.localWrite_failF (s : State) (o : TileOwner) (p : Nat) (g : Segment) (a : W64) (off : Nat)
    (b : List Byte) (buf : Nat) {t : State} {v : Nat}
    (h : State.localWrite s o p g a off b buf = .fail t v) : t.firm = s.firm := by
  have k := State.localWrite_keepsF s o p g a off b buf; rw [h] at k; exact k

@[simp] theorem State.rdmaReadData_firm (s : State) (qp : Nat) (q : QueuePair) (r : QpRequest) (k : Nat) (data : List Byte) :
    (State.rdmaReadData s qp q r k data).1.firm = s.firm := by
  unfold State.rdmaReadData; (repeat' split) <;> grind [State.rdmaDone_firm, State.rdmaProgress_firm, State.cutDesc_firm, → State.localWrite_doneF, → State.localWrite_waitF, → State.localWrite_failF]

theorem State.rdmaReadData_pairF (s : State) (qp : Nat) (q : QueuePair) (r : QpRequest) (k : Nat) (data : List Byte) {t' : State} {b' : Bool}
    (h : State.rdmaReadData s qp q r k data = (t', b')) : t'.firm = s.firm := by
  have k := State.rdmaReadData_firm s qp q r k data; rw [h] at k; exact k

@[simp] theorem State.qpAnswer_firm (s : Machine.State) (qp : Nat) (psn : Nat) (data : List Byte) (old : W64) :
    (State.qpAnswer s qp psn data old).1.firm = s.firm := by
  unfold State.qpAnswer; (repeat' split) <;> simp

theorem State.qpAnswer_pairF (s : State) (qp : Nat) (psn : Nat) (data : List Byte) (old : W64) {t' : State} {b' : Bool}
    (h : State.qpAnswer s qp psn data old = (t', b')) : t'.firm = s.firm := by
  have k := State.qpAnswer_firm s qp psn data old; rw [h] at k; exact k

@[simp] theorem State.answerHeld_firm (s : State) (qp : Nat) (x2 : Nat) :
    (State.answerHeld s qp x2).firm = s.firm := by
  fun_induction State.answerHeld s qp x2 <;> grind [State.modQp_firm, State.qpAnswer_firm, → State.qpAnswer_pairF]

@[simp] theorem State.nvmeDone_firm (s : State) (qn : Nat) (x2 : Controller) (k : NvmeCmd) (data : List Byte) :
    (State.nvmeDone s qn x2 k data).1.firm = s.firm := by
  unfold State.nvmeDone; simp only [stateAfter_next]; (repeat' split) <;> (try simp) <;> grind [State.modDesc_firm, State.cutDesc_firm, → State.localWrite_doneF, → State.localWrite_waitF, → State.localWrite_failF]

theorem State.nvmeDone_pairF (s : State) (qn : Nat) (x2 : Controller) (k : NvmeCmd) (data : List Byte) {t' : State} {b' : Bool}
    (h : State.nvmeDone s qn x2 k data = (t', b')) : t'.firm = s.firm := by
  have k := State.nvmeDone_firm s qn x2 k data; rw [h] at k; exact k

@[simp] theorem State.nvmeAnswer_firm (s : State) (c : Nat) (command : Nat) (status : Nat) (data : List Byte) :
    (State.nvmeAnswer s c command status data).1.firm = s.firm := by
  unfold State.nvmeAnswer; (repeat' split) <;> grind [State.nvmeDone_firm, State.modCtl_firm, State.settleBound_firm, State.cutDesc_firm]

theorem State.nvmeAnswer_pairF (s : State) (c : Nat) (command : Nat) (status : Nat) (data : List Byte) {t' : State} {b' : Bool}
    (h : State.nvmeAnswer s c command status data = (t', b')) : t'.firm = s.firm := by
  have k := State.nvmeAnswer_firm s c command status data; rw [h] at k; exact k

@[simp] theorem State.completeHeld_firm (s : State) (c : Nat) (x2 : Nat) :
    (State.completeHeld s c x2).firm = s.firm := by
  fun_induction State.completeHeld s c x2 <;> grind [State.modCtl_firm, State.nvmeAnswer_firm, → State.nvmeAnswer_pairF]

@[simp] theorem State.pumpBounds_firm (s : Machine.State) :
    (State.pumpBounds s).firm = s.firm := by
  simp [State.pumpBounds]

@[simp] theorem State.collRead_keepsF (s : State) (p : Nat) (id : W32) (x3 : Instance) (buf : Nat) (a : W64) (off : Nat) (len : Nat) :
    (State.collRead s p id x3 buf a off len).KeepsF s.firm := by
  simp [State.collRead]

theorem State.collRead_waitF (s : State) (p : Nat) (id : W32) (x3 : Instance) (buf : Nat) (a : W64) (off : Nat) (len : Nat) {t : State}
    (h : State.collRead s p id x3 buf a off len = .wait t) : t.firm = s.firm := by
  have k := State.collRead_keepsF s p id x3 buf a off len; rw [h] at k; exact k

theorem State.collRead_failF (s : State) (p : Nat) (id : W32) (x3 : Instance) (buf : Nat) (a : W64) (off : Nat) (len : Nat) {t : State} {n : Nat}
    (h : State.collRead s p id x3 buf a off len = .fail t n) : t.firm = s.firm := by
  have k := State.collRead_keepsF s p id x3 buf a off len; rw [h] at k; exact k

@[simp] theorem State.modInstance_firm (s : State) (p : Nat) (id : W32) (g : Instance → Instance) :
    (State.modInstance s p id g).firm = s.firm := by
  simp [State.modInstance]

@[simp] theorem State.failInstance_firm (s : State) (p : Nat) (id : W32) (status : Nat) :
    (State.failInstance s p id status).firm = s.firm := by
  simp [State.failInstance]

theorem State.collWant_errorF (s : State) (p : Nat) (id : W32) (x : Instance) (buf : Nat) (a : W64) (off len : Nat) {t : State}
    (h : s.collWant p id x buf a off len = .error t) : t.firm = s.firm := by
  unfold State.collWant at h; split at h <;> simp at h <;> subst h
  · rename_i h; exact State.collRead_waitF _ _ _ _ _ _ _ _ h
  · rename_i h; simpa using State.collRead_failF _ _ _ _ _ _ _ _ h

@[simp] theorem State.queueSend_firm (s : State) (p : Nat) (id : W32) (h : SchedHeader) (step : Nat) (peer : Nat) (base : Nat) (b : List Byte) :
    (State.queueSend s p id h step peer base b).firm = s.firm := by
  simp [State.queueSend]

@[simp] theorem State.embedServe_firm (s : State) (p : Nat) (c : Schedule) (x3 : Instance) (r : Nat) :
    (State.embedServe s p c x3 r).firm = s.firm := by
  unfold State.embedServe; simp only [stateAfter_next]; (repeat' split) <;> (try simp) <;> grind [→ State.collWant_errorF, State.modInstance_firm, State.queueSend_firm]

@[simp] theorem State.markPhase_firm (s : State) (p : Nat) (id : W32) (n : Nat) :
    (State.markPhase s p id n).firm = s.firm := by
  simp [State.markPhase]

@[simp] theorem State.keepOwn_firm (s : State) (p : Nat) (id : W32) (step : Nat) (rank : Nat) (off : Nat) (b : List Byte) :
    (State.keepOwn s p id step rank off b).firm = s.firm := by
  simp [State.keepOwn]

@[simp] theorem State.modSeq_firm (s : State) (k : Nat) (g : Sequencer → Sequencer) :
    (State.modSeq s k g).firm = s.firm := by
  simp [State.modSeq]

@[simp] theorem State.modRun_firm (s : State) (k : Nat) (g : Running → Running) :
    (State.modRun s k g).firm = s.firm := by
  simp [State.modRun]

@[simp] theorem State.modFlight_firm (s : State) (k : Nat) (slot : Nat) (g : Flight → Flight) :
    (State.modFlight s k slot g).firm = s.firm := by
  simp [State.modFlight]

@[simp] theorem State.stopMessages_firm (s : Machine.State) (o : TileOwner) (limit : Nat) :
    (State.stopMessages s o limit).firm = s.firm := by
  unfold State.stopMessages; (repeat' split) <;> simp

@[simp] theorem State.endFlight_firm (s : State) (k : Nat) (slot : Nat) (status : Nat) (detail : Nat) :
    (State.endFlight s k slot status detail).firm = s.firm := by
  simp [State.endFlight]

@[simp] theorem State.cutFlight_firm (s : State) (k : Nat) (slot : Nat) (status : Nat) (detail : Nat) :
    (State.cutFlight s k slot status detail).firm = s.firm := by
  simp [State.cutFlight]

@[simp] theorem State.failOwner_firm (s : State) (o : TileOwner) (status : Nat) (detail : Nat) :
    (State.failOwner s o status detail).firm = s.firm := by
  unfold State.failOwner; (repeat' split) <;> simp

@[simp] theorem State.reapTile_firm (s : Machine.State) (id : Nat) :
    (State.reapTile s id).firm = s.firm := by
  unfold State.reapTile; (repeat' split) <;> simp

@[simp] theorem State.doomTile_firm (s : Machine.State) (id : Nat) (status : Nat) :
    (State.doomTile s id status).firm = s.firm := by
  unfold State.doomTile; (repeat' split) <;> simp

@[simp] theorem State.faultTile_firm (s : State) (id : Nat) :
    (State.faultTile s id).firm = s.firm := by
  unfold State.faultTile; (repeat' split) <;> simp

@[simp] theorem State.lookTile_firm (s : State) (id : Nat) :
    (State.lookTile s id).firm = s.firm := by
  unfold State.lookTile; (repeat' split) <;> simp

@[simp] theorem State.translateTile_firm (s : State) (id : Nat) :
    (State.translateTile s id).firm = s.firm := by
  unfold State.translateTile; simp only []; (repeat' split) <;> simp

@[simp] theorem State.addTile_firm (s : State) (owner : TileOwner) (engine : Nat) (c : Nat) (g : Segment) (addr : Nat) (len : Nat) (write : Bool) (base : Nat) (i : Nat) :
    (State.addTile s owner engine c g addr len write base i).firm = s.firm := by
  unfold State.addTile; (repeat' split) <;> simp

@[simp] theorem State.addTiles_firm (s : State) (owner : TileOwner) (engine : Nat) (c : Nat) (g : Segment) (addr : Nat) (len : Nat) (write : Bool) (base : Nat) :
    (State.addTiles s owner engine c g addr len write base).firm = s.firm := by
  simp [State.addTiles]

@[simp] theorem State.startFetch_firm (s : State) (o : TileOwner) (engine : Nat) (c : Nat) (p : Nat) (g : Segment) (a : W64) (len : Nat) (buf : Nat) :
    (State.startFetch s o engine c p g a len buf).firm = s.firm := by
  simp [State.startFetch]

@[simp] theorem State.embedSend_firm (s : State) (p : Nat) (c : Schedule) (engine : Nat) (x4 : Instance) :
    (State.embedSend s p c engine x4).firm = s.firm := by
  unfold State.embedSend; simp only [stateAfter_next]; (repeat' split) <;> (try simp) <;> grind [→ State.collWant_errorF, State.markPhase_firm, State.keepOwn_firm, State.startFetch_firm, State.failInstance_firm, State.queueSend_firm]

@[simp] theorem State.writePieces_keepsF (s0 s : State) (o : TileOwner) (p : Nat) (g : Segment) (a : W64) (buf : Nat)
    (l : List (Nat × List Byte)) (hs : s.firm = s0.firm) : (State.writePieces s0 s o p g a buf l).KeepsF s0.firm := by
  induction l generalizing s with
  | nil => simpa [State.writePieces] using hs
  | cons y l ih =>
    unfold State.writePieces
    split
    · rename_i h; exact ih _ ((State.localWrite_doneF _ _ _ _ _ _ _ _ h).trans hs)
    · rename_i h; simpa using (State.localWrite_failF _ _ _ _ _ _ _ _ h).trans hs
    · split
      · rename_i h; simpa using State.localWrite_waitF _ _ _ _ _ _ _ _ h
      · simp
      · rename_i h; simpa using State.localWrite_failF _ _ _ _ _ _ _ _ h

theorem State.writePieces_doneF (s0 s : State) (o : TileOwner) (p : Nat) (g : Segment) (a : W64) (buf : Nat)
    (l : List (Nat × List Byte)) {t : State} (hs : s.firm = s0.firm)
    (h : State.writePieces s0 s o p g a buf l = .done t) : t.firm = s0.firm := by
  have k := State.writePieces_keepsF s0 s o p g a buf l hs; rw [h] at k; exact k

theorem State.writePieces_waitF (s0 s : State) (o : TileOwner) (p : Nat) (g : Segment) (a : W64) (buf : Nat)
    (l : List (Nat × List Byte)) {t : State} (hs : s.firm = s0.firm)
    (h : State.writePieces s0 s o p g a buf l = .wait t) : t.firm = s0.firm := by
  have k := State.writePieces_keepsF s0 s o p g a buf l hs; rw [h] at k; exact k

theorem State.writePieces_failF (s0 s : State) (o : TileOwner) (p : Nat) (g : Segment) (a : W64) (buf : Nat)
    (l : List (Nat × List Byte)) {t : State} {n : Nat} (hs : s.firm = s0.firm)
    (h : State.writePieces s0 s o p g a buf l = .fail t n) : t.firm = s0.firm := by
  have k := State.writePieces_keepsF s0 s o p g a buf l hs; rw [h] at k; exact k

@[simp] theorem State.collWrite_keepsF (s : State) (p : Nat) (id : W32) (x : Instance) (buf : Nat) (a : W64)
    (l : List (Nat × List Byte)) : (State.collWrite s p id x buf a l).KeepsF s.firm := by
  unfold State.collWrite; exact State.writePieces_keepsF _ _ _ _ _ _ _ _ rfl

theorem State.collWrite_doneF (s : State) (p : Nat) (id : W32) (x : Instance) (buf : Nat) (a : W64)
    (l : List (Nat × List Byte)) {t : State}
    (h : State.collWrite s p id x buf a l = .done t) : t.firm = s.firm := by
  have k := State.collWrite_keepsF s p id x buf a l; rw [h] at k; exact k

theorem State.collWrite_waitF (s : State) (p : Nat) (id : W32) (x : Instance) (buf : Nat) (a : W64)
    (l : List (Nat × List Byte)) {t : State}
    (h : State.collWrite s p id x buf a l = .wait t) : t.firm = s.firm := by
  have k := State.collWrite_keepsF s p id x buf a l; rw [h] at k; exact k

theorem State.collWrite_failF (s : State) (p : Nat) (id : W32) (x : Instance) (buf : Nat) (a : W64)
    (l : List (Nat × List Byte)) {t : State} {v : Nat}
    (h : State.collWrite s p id x buf a l = .fail t v) : t.firm = s.firm := by
  have k := State.collWrite_keepsF s p id x buf a l; rw [h] at k; exact k

@[simp] theorem State.embedFinish_firm (s : State) (p : Nat) (c : Schedule) (x3 : Instance) :
    (State.embedFinish s p c x3).firm = s.firm := by
  unfold State.embedFinish; simp only [stateAfter_next]; (repeat' split) <;> (try simp) <;> grind [→ State.collWant_errorF, State.markPhase_firm, State.modInstance_firm, → State.collWrite_doneF, → State.collWrite_waitF, → State.collWrite_failF, State.failInstance_firm]

@[simp] theorem State.embedPump_firm (s : State) (p : Nat) (c : Schedule) (engine : Nat) :
    (State.embedPump s p c engine).firm = s.firm := by
  unfold State.embedPump; (repeat' (first | rfl | split | (refine (firm_foldl _ _ _ ?_).trans ?_; intros) | simp))

@[simp] theorem State.ownPair_firm (s : State) (p : Nat) (id : W32) (h : SchedHeader) (x4 : Instance) :
    (State.ownPair s p id h x4).firm = s.firm := by
  unfold State.ownPair; simp only [stateAfter_next]; (repeat' split) <;> (try simp) <;> grind [→ State.collRead_waitF, → State.collRead_failF, State.modInstance_firm, → State.collWrite_doneF, → State.collWrite_waitF, → State.collWrite_failF, State.failInstance_firm]

theorem State.inputCarry_waitF (s : State) (p : Nat) (id : W32) (h : SchedHeader) (x : Instance) (e : Nat) {t : State}
    (k : s.inputCarry p id h x e = .error (.wait t)) : t.firm = s.firm := by
  unfold State.inputCarry at k; simp only [] at k; grind [→ State.collRead_waitF]

theorem State.inputCarry_failF (s : State) (p : Nat) (id : W32) (h : SchedHeader) (x : Instance) (e : Nat) {t : State} {n : Nat}
    (k : s.inputCarry p id h x e = .error (.fail t n)) : t.firm = s.firm := by
  unfold State.inputCarry at k; simp only [] at k; grind [→ State.collRead_failF]

theorem State.partialOf_waitF (s : State) (p : Nat) (id : W32) (h : SchedHeader) (x : Instance) (e : Nat) {t : State}
    (k : s.partialOf p id h x e = .error (.wait t)) : t.firm = s.firm := by
  unfold State.partialOf at k; grind [→ State.inputCarry_waitF]

theorem State.partialOf_failF (s : State) (p : Nat) (id : W32) (h : SchedHeader) (x : Instance) (e : Nat) {t : State} {n : Nat}
    (k : s.partialOf p id h x e = .error (.fail t n)) : t.firm = s.firm := by
  unfold State.partialOf at k; grind [→ State.inputCarry_failF]

theorem State.carries_waitF (s : State) (p : Nat) (id : W32) (h : SchedHeader) (x : Instance) (l : List Nat) {t : State}
    (k : s.carries p id h x l = .error (.wait t)) : t.firm = s.firm := by
  induction l with
  | nil => simp [State.carries] at k
  | cons e l ih => unfold State.carries at k; grind [→ State.partialOf_waitF]

theorem State.carries_failF (s : State) (p : Nat) (id : W32) (h : SchedHeader) (x : Instance) (l : List Nat) {t : State} {n : Nat}
    (k : s.carries p id h x l = .error (.fail t n)) : t.firm = s.firm := by
  induction l with
  | nil => simp [State.carries] at k
  | cons e l ih => unfold State.carries at k; grind [→ State.partialOf_failF]

theorem State.optimise_okF (s : State) (p : Nat) (id : W32) (h : SchedHeader) (x : Instance) (b : List Byte)
    (g : List (BitVec 384)) {r : State × List W32} (k : s.optimise p id h x b g = .ok r) : r.1.firm = s.firm := by
  unfold State.optimise at k; simp only [] at k; grind [→ State.collWrite_doneF]

theorem State.optimise_failF (s : State) (p : Nat) (id : W32) (h : SchedHeader) (x : Instance) (b : List Byte)
    (g : List (BitVec 384)) {t : State} {n : Nat} (k : s.optimise p id h x b g = .error (.fail t n)) :
    t.firm = s.firm := by
  unfold State.optimise at k; simp only [] at k
  grind [→ State.collWrite_doneF, → State.collWrite_failF, → State.collRead_failF]

@[simp] theorem State.roundOwn_firm (s : State) (p : Nat) (id : W32) (c : Schedule) (x : Instance) :
    (State.roundOwn s p id c x).firm = s.firm := by
  unfold State.roundOwn; simp only []
  split
  · rfl
  · split
    · rename_i h; simpa using State.carries_failF _ _ _ _ _ _ h
    · rfl
    · rename_i cs _
      split
      · rename_i h; rw [State.failInstance_firm]; split at h
        · split at h
          · simp at h
          · rename_i ho; simp at h; subst h; exact State.optimise_failF _ _ _ _ _ _ _ ho
        · simp at h
      · rfl
      · rename_i s1 out h
        have k : s1.firm = s.firm := by
          split at h
          · split at h
            · rename_i r ho; simp at h; rw [← h.1]; exact State.optimise_okF _ _ _ _ _ _ _ ho
            · simp at h
          · simp at h; rw [← h.1]
        split
        · rename_i hw; rw [State.modInstance_firm, State.collWrite_doneF _ _ _ _ _ _ _ hw, k]
        · rename_i hw; split
          · rfl
          · rw [State.collWrite_waitF _ _ _ _ _ _ _ hw, k]
        · rename_i hw; rw [State.failInstance_firm, State.collWrite_failF _ _ _ _ _ _ _ hw, k]

@[simp] theorem State.addSender_firm (s : State) (q : Nat) (x2 : Sender) :
    (State.addSender s q x2).firm = s.firm := by
  simp [State.addSender]

@[simp] theorem State.releaseOne_firm (s : State) (p : Nat) (c : Schedule) (m : Nat × Nat × Nat × List Byte) :
    (State.releaseOne s p c m).firm = s.firm := by
  simp [State.releaseOne]

@[simp] theorem State.releaseBacklog_firm (s : State) (p : Nat) (c : Schedule) :
    (State.releaseBacklog s p c).firm = s.firm := by
  unfold State.releaseBacklog; (repeat' split) <;> simp

theorem State.sendBytes_waitF (s : State) (p : Nat) (id : W32) (h : SchedHeader) (x : Instance) (d : Send) {t : State}
    (k : s.sendBytes p id h x d = .wait t) : t.firm = s.firm := by
  unfold State.sendBytes at k; grind [→ State.carries_waitF, → State.collRead_waitF]

theorem State.sendBytes_failF (s : State) (p : Nat) (id : W32) (h : SchedHeader) (x : Instance) (d : Send) {t : State} {n : Nat}
    (k : s.sendBytes p id h x d = .fail t n) : t.firm = s.firm := by
  unfold State.sendBytes at k; grind [→ State.carries_failF, → State.collRead_failF]

@[simp] theorem State.trySend_firm (s : State) (p : Nat) (id : W32) (h : SchedHeader) (t : Send) :
    (State.trySend s p id h t).firm = s.firm := by
  unfold State.trySend; simp only [stateAfter_next]; (repeat' split) <;> (try simp) <;> grind [State.modInstance_firm, State.failInstance_firm, → State.sendBytes_waitF, → State.sendBytes_failF, State.queueSend_firm]

theorem State.outputsReady_errorF (s : State) (p : Nat) (c : Schedule) (x : Instance) (b : TokenBlock) {t : State}
    (h : s.outputsReady p c x b = .error t) : t.firm = s.firm := by
  have fold : ∀ {α : Type} (g : Except State Unit → α → Except State Unit) (l : List α) (e : Except State Unit),
      (∀ e a, (∀ t, e = .error t → t.firm = s.firm) → ∀ t, g e a = .error t → t.firm = s.firm) →
      (∀ t, e = .error t → t.firm = s.firm) → ∀ t, l.foldl g e = .error t → t.firm = s.firm := by
    intro α g l; induction l with
    | nil => intro e _ he; exact he
    | cons a l ih => intro e hg he; exact ih _ hg (hg e a he)
  refine fold _ _ _ ?_ ?_ t h
  · intro e r he t ht
    split at ht
    · refine fold _ _ _ ?_ ?_ t ht
      · intro e y he t ht
        split at ht
        · split at ht <;> simp at ht
          rename_i hw; subst ht; exact State.collWant_errorF _ _ _ _ _ _ _ _ hw
        · exact he t ht
      · intro t ht; simp at ht
    · exact he t ht
  · intro t ht; simp at ht

@[simp] theorem State.commitRows_keepsF (s : State) (p : Nat) (c : Schedule) (x3 : Instance) (step : Nat) (rank : Nat) (off : Nat) (b : List Byte) :
    (State.commitRows s p c x3 step rank off b).KeepsF s.firm := by
  unfold State.commitRows; simp only [stateAfter_next]; (repeat' split) <;> (try simp) <;> grind [State.keepOwn_firm, → State.collWrite_doneF, → State.collWrite_waitF, → State.collWrite_failF]

theorem State.commitRows_doneF (s : State) (p : Nat) (c : Schedule) (x3 : Instance) (step : Nat) (rank : Nat) (off : Nat) (b : List Byte) {t : State}
    (h : State.commitRows s p c x3 step rank off b = .done t) : t.firm = s.firm := by
  have k := State.commitRows_keepsF s p c x3 step rank off b; rw [h] at k; exact k

theorem State.commitRows_waitF (s : State) (p : Nat) (c : Schedule) (x3 : Instance) (step : Nat) (rank : Nat) (off : Nat) (b : List Byte) {t : State}
    (h : State.commitRows s p c x3 step rank off b = .wait t) : t.firm = s.firm := by
  have k := State.commitRows_keepsF s p c x3 step rank off b; rw [h] at k; exact k

theorem State.commitRows_failF (s : State) (p : Nat) (c : Schedule) (x3 : Instance) (step : Nat) (rank : Nat) (off : Nat) (b : List Byte) {t : State} {n : Nat}
    (h : State.commitRows s p c x3 step rank off b = .fail t n) : t.firm = s.firm := by
  have k := State.commitRows_keepsF s p c x3 step rank off b; rw [h] at k; exact k

@[simp] theorem State.sendOrKeep_firm (s : State) (p : Nat) (c : Schedule) (step : Nat) (rank : Nat) (off : Nat) (b : List Byte) :
    (State.sendOrKeep s p c step rank off b).firm = s.firm := by
  unfold State.sendOrKeep; (repeat' split) <;> grind [→ State.commitRows_doneF, → State.commitRows_waitF, → State.commitRows_failF, State.failInstance_firm, State.queueSend_firm]

@[simp] theorem State.tokenReturn_firm (s : State) (p : Nat) (c : Schedule) (x3 : Instance) (b : TokenBlock) (r : Nat) :
    (State.tokenReturn s p c x3 b r).firm = s.firm := by
  unfold State.tokenReturn; simp only []; (repeat' (first | split | (refine (firm_foldl _ _ _ ?_).trans ?_; intros))) <;> (try simp) <;> grind [→ State.collWant_errorF, State.sendOrKeep_firm]

@[simp] theorem State.tokenBack_firm (s : State) (p : Nat) (c : Schedule) (engine : Nat) (x : Instance) :
    (State.tokenBack s p c engine x).firm = s.firm := by
  unfold State.tokenBack; simp only []
  split
  · rfl
  · split
    · rename_i h; rw [State.outputsReady_errorF _ _ _ _ _ h]; split <;> simp
    · rw [firm_foldl _ _ _ fun s r => State.tokenReturn_firm s _ _ _ _ _]; simp

@[simp] theorem State.tokenFinish_firm (s : State) (p : Nat) (c : Schedule) (x3 : Instance) :
    (State.tokenFinish s p c x3).firm = s.firm := by
  unfold State.tokenFinish; simp only [stateAfter_next]; (repeat' split) <;> (try simp) <;> grind [State.markPhase_firm, State.modInstance_firm, → State.collWrite_doneF, → State.collWrite_waitF, → State.collWrite_failF, State.failInstance_firm]

@[simp] theorem State.setTrig_firm (s : State) (i : Nat) (p : Nat) (v : W64) :
    (State.setTrig s i p v).firm = s.firm := by
  simp [State.setTrig]

@[simp] theorem State.modTrig_firm (s : State) (i : Nat) (g : W64 → W64) :
    (State.modTrig s i g).firm = s.firm := by
  unfold State.modTrig; (repeat' split) <;> simp

@[simp] theorem State.tokenSignal_firm (s : State) (p : Nat) (c : Schedule) (x3 : Instance) :
    (State.tokenSignal s p c x3).firm = s.firm := by
  simp [State.tokenSignal]

@[simp] theorem State.countFor_firm (s : State) (p : Nat) (id : Nat) (yes : Bool) :
    (State.countFor s p id yes).firm = s.firm := by
  simp [State.countFor]

@[simp] theorem State.countFlags_firm (s : State) (p : Nat) (id : Nat) (fl : NumFlags) :
    (State.countFlags s p id fl).firm = s.firm := by
  simp [State.countFlags]

@[simp] theorem State.modGrat_firm (s : State) (g : Nat) (h : Graticule → Graticule) :
    (State.modGrat s g h).firm = s.firm := by
  simp [State.modGrat]

@[simp] theorem State.scoreLeave_firm (s : State) (g : Nat) :
    (State.scoreLeave s g).firm = s.firm := by
  unfold State.scoreLeave; (repeat' split) <;> simp

@[simp] theorem State.bindScores_firm (s : State) (p : Nat) (c : Schedule) :
    (State.bindScores s p c).firm = s.firm := by
  unfold State.bindScores; (repeat' split) <;> simp

@[simp] theorem State.tokenSend_firm (s : State) (p : Nat) (c : Schedule) (x3 : Instance) :
    (State.tokenSend s p c x3).firm = s.firm := by
  unfold State.tokenSend; simp only []; (repeat' (first | split | (refine (firm_foldl _ _ _ ?_).trans ?_; intros))) <;> (try simp) <;> grind [→ State.collWant_errorF, State.markPhase_firm, State.modInstance_firm, State.countFlags_firm, State.countIn_firm, State.bindScores_firm, State.modGrat_firm, State.sendOrKeep_firm]

@[simp] theorem State.tokenPump_firm (s : State) (p : Nat) (c : Schedule) (engine : Nat) :
    (State.tokenPump s p c engine).firm = s.firm := by
  unfold State.tokenPump; simp only []; (repeat' split) <;> simp

@[simp] theorem State.pumpColl_firm (s : State) (p : Nat) (c : Schedule) :
    (State.pumpColl s p c).firm = s.firm := by
  unfold State.pumpColl; simp only []; (repeat' split) <;> simp

@[simp] theorem State.pumpAll_firm (s : State) :
    (State.pumpAll s).firm = s.firm := by
  simp [State.pumpAll]

@[simp] theorem State.keepResp_firm (s : State) (q : Nat) (pkt : Packet) (waiting : Option Nat) :
    (State.keepResp s q pkt waiting).firm = s.firm := by
  unfold State.keepResp; (repeat' split) <;> simp

@[simp] theorem State.feedFlight_firm (s : State) (k slot : Nat) (l : List (Nat × Nat)) :
    (State.feedFlight s k slot l).firm = s.firm := by
  induction l generalizing s with
  | nil => rfl
  | cons y l ih => unfold State.feedFlight; (repeat' split) <;> simp [ih]

@[simp] theorem State.feedDesc_firm (s : State) (qn : Nat) (i : W32) (l : List (Nat × Nat)) :
    (State.feedDesc s qn i l).firm = s.firm := by
  induction l generalizing s with
  | nil => rfl
  | cons y l ih => unfold State.feedDesc; (repeat' split) <;> simp [ih]

@[simp] theorem State.feedAll_firm (s : State) (q : Nat) :
    (State.feedAll s q).firm = s.firm := by
  simp [State.feedAll]

@[simp] theorem State.modCtx_firm (s : State) (c : Nat) (g : Context → Context) :
    (State.modCtx s c g).firm = s.firm := by
  simp [State.modCtx]

@[simp] theorem State.reapTiles_firm (s : State) :
    (State.reapTiles s).firm = s.firm := by
  simp [State.reapTiles]

@[simp] theorem State.settleDesc_firm (s : State) (qn : Nat) (i : W32) :
    (State.settleDesc s qn i).firm = s.firm := by
  unfold State.settleDesc; (repeat' split) <;> simp

@[simp] theorem State.settleFlight_firm (s : State) (k : Nat) (slot : Nat) :
    (State.settleFlight s k slot).firm = s.firm := by
  unfold State.settleFlight; (repeat' split) <;> simp

@[simp] theorem State.ownerEnded_firm (s : State) (o : MsgOwner) (status : Nat) (detail : Nat) (bytes : Nat) :
    (State.ownerEnded s o status detail bytes).firm = s.firm := by
  unfold State.ownerEnded; (repeat' split) <;> simp

@[simp] theorem State.msgEnded_firm (s : State) (q : Nat) (m : Nat) (status : Nat) (detail : Nat) :
    (State.msgEnded s q m status detail).firm = s.firm := by
  unfold State.msgEnded; (repeat' split) <;> simp

@[simp] theorem State.setSender_firm (s : State) (q : Nat) (m : Nat) (x3 : Sender) :
    (State.setSender s q m x3).firm = s.firm := by
  simp [State.setSender]

@[simp] theorem State.releaseResv_firm (s : State) (q : Nat) (m : Nat) (n : Nat) :
    (State.releaseResv s q m n).firm = s.firm := by
  unfold State.releaseResv; (repeat' split) <;> simp

@[simp] theorem State.readLanded_firm (s : State) (q : Nat) (m : Nat) (pkt : Packet) :
    (State.readLanded s q m pkt).firm = s.firm := by
  unfold State.readLanded; (repeat' split) <;> simp

@[simp] theorem State.commitRead_firm (s : State) (q : Nat) (m : Nat) (x3 : Sender) (pkt : Packet) (waiting : Option Nat) :
    (State.commitRead s q m x3 pkt waiting).firm = s.firm := by
  unfold State.commitRead; simp only [stateAfter_next]; (repeat' split) <;> (try simp) <;> grind [State.takeCopy_firm, State.keepResp_firm, State.msgEnded_firm, State.modCopy_firm, State.attRequest_firm, → State.localWrite_doneF, → State.localWrite_waitF, → State.localWrite_failF, State.readLanded_firm]

@[simp] theorem State.recommitIn_firm (s : State) (q : Nat) :
    (State.recommitIn s q).firm = s.firm := by
  unfold State.recommitIn; (repeat' (first | rfl | split | (refine firm_foldl _ _ _ ?_; intros) | simp))

@[simp] theorem State.recommit_firm (s : State) :
    (State.recommit s).firm = s.firm := by
  simp [State.recommit]

@[simp] theorem State.progress_firm (s : State) (k : Nat) (slot : Nat) :
    (State.progress s k slot).firm = s.firm := by
  unfold State.progress; simp only [stateAfter_next]; (repeat' split) <;> (try simp) <;> grind [→ State.writePieces_doneF, → State.writePieces_waitF, → State.writePieces_failF, → State.localRead_waitF, → State.localRead_failF, State.modRun_firm, State.modFlight_firm, → State.localWrite_doneF, → State.localWrite_waitF, → State.localWrite_failF, State.cutFlight_firm, State.settleFlight_firm]

@[simp] theorem State.stir_firm (s : State) :
    (State.stir s).firm = s.firm := by
  simp [State.stir]

@[simp] theorem State.startBound_firm (s : State) (qn : Nat) (x2 : Queue) (d : Desc) :
    (State.startBound s qn x2 d).firm = s.firm := by
  simp [State.startBound]

@[simp] theorem State.note_firm (s : State) (status : Nat) (unit : Nat) (index : Nat) (p : Option Nat) (info : W64) (severity : Nat) :
    (State.note s status unit index p info severity).firm = s.firm := by
  simp [State.note]

@[simp] theorem State.dropAt_firm (s : State) (port : Nat) (noRoute : Bool) :
    (State.dropAt s port noRoute).firm = s.firm := by
  simp [State.dropAt]

@[simp] theorem State.headArrives_firm (s : State) (port : Nat) (pkt : Packet) :
    (State.headArrives s port pkt).firm = s.firm := by
  simp [State.headArrives]

@[simp] theorem State.attReject_firm (s : State) (a : Nat) :
    (State.attReject s a).firm = s.firm := by
  simp [State.attReject]

@[simp] theorem State.backingRead_firm (s : State) (x1 : Placement) (off : Nat) (len : Nat) :
    (State.backingRead s x1 off len).2.firm = s.firm := by
  unfold State.backingRead; (repeat' split) <;> simp

@[simp] theorem State.backingWrite_firm (s : State) (x1 : Placement) (off : Nat) (b : List Byte) :
    (State.backingWrite s x1 off b).firm = s.firm := by
  unfold State.backingWrite; (repeat' split) <;> simp

@[simp] theorem State.serveCxl_firm (s : State) (port : Nat) (x2 : Placement) (line : Nat) (write : Option (List Byte)) :
    (State.serveCxl s port x2 line write).firm = s.firm := by
  unfold State.serveCxl; (repeat' split) <;> simp

@[simp] theorem State.toHostBias_firm (s : State) (port : Nat) (pick : Nat → Bool) :
    (State.toHostBias s port pick).firm = s.firm := by
  unfold State.toHostBias; simp only []; (repeat' split) <;> simp

@[simp] theorem execBiasChangeDone_firm (port : Nat) (s : State) :
    (stateAfter s (execBiasChangeDone port s)).firm = s.firm := by
  unfold execBiasChangeDone; (repeat' split) <;> simp

@[simp] theorem execThermAlertRelease_firm (s : State) :
    (stateAfter s (execThermAlertRelease s)).firm = s.firm := by
  simp [execThermAlertRelease]

@[simp] theorem State.closeGroup_firm (s : State) (port : Nat) (group : Nat) (keep : Bool) :
    (State.closeGroup s port group keep).firm = s.firm := by
  simp [State.closeGroup]

@[simp] theorem failWith_firm (s : State) (status : Nat) (detail : Nat) :
    (failWith s status detail).state.firm = s.firm := by
  simp [failWith]

@[simp] theorem okWith_firm (s : State) (words : List W64) :
    (okWith s words).state.firm = s.firm := by
  simp [okWith]

@[simp] theorem State.modSchedule_firm (s : State) (p : Nat) (id : W32) (g : Schedule → Schedule) :
    (State.modSchedule s p id g).firm = s.firm := by
  simp [State.modSchedule]

@[simp] theorem State.endCallers_firm (s : State) (p : Nat) (c : Schedule) (status : Nat) :
    (State.endCallers s p c status).firm = s.firm := by
  simp [State.endCallers]

@[simp] theorem State.endLeave_firm (s : State) (u : LeaveFor) :
    (State.endLeave s u).firm = s.firm := by
  simp [State.endLeave]

@[simp] theorem State.dropCrossing_firm (s : State) (d : Domain) :
    (State.dropCrossing s d).firm = s.firm := by
  simp [State.dropCrossing]

@[simp] theorem State.loseCopy_firm (s : State) (q : Nat) (c : RxCopy) :
    (State.loseCopy s q c).firm = s.firm := by
  simp [State.loseCopy]

@[simp] theorem State.endColl_firm (s : State) (x1 : Instance) (status : Nat) :
    (State.endColl s x1 status).firm = s.firm := by
  unfold State.endColl; (repeat' split) <;> simp

@[simp] theorem State.unbind_firm (s : State) (k : Nat) :
    (State.unbind s k).firm = s.firm := by
  simp [State.unbind]

@[simp] theorem State.endScores_firm (s : State) (p : Nat) (c : Schedule) :
    (State.endScores s p c).firm = s.firm := by
  unfold State.endScores; (repeat' split) <;> simp

@[simp] theorem State.quenchInstance_firm (s : State) (p : Nat) (id : W32) :
    (State.quenchInstance s p id).firm = s.firm := by
  simp [State.quenchInstance]

@[simp] theorem State.modJob_firm (s : State) (p : Nat) (j : Nat) (g : Job → Job) :
    (State.modJob s p j g).firm = s.firm := by
  unfold State.modJob; (repeat' split) <;> simp

@[simp] theorem State.sendBeacon_firm (s : State) (p : Nat) (j : Nat) (reason : Nat) :
    (State.sendBeacon s p j reason).firm = s.firm := by
  unfold State.sendBeacon; (repeat' split) <;> simp

@[simp] theorem State.dropContextTiles_firm (s : State) (c : Nat) (gen : BitVec 8) :
    (State.dropContextTiles s c gen).firm = s.firm := by
  simp [State.dropContextTiles]

@[simp] theorem State.endKernel_firm (s : State) (k : Nat) (r : Running) (status : Nat) (detail : Nat) (result : W64) :
    (State.endKernel s k r status detail result).firm = s.firm := by
  simp [State.endKernel]

@[simp] theorem State.stopJobs_firm (s : State) (k : Nat) (slot : Nat) :
    (State.stopJobs s k slot).firm = s.firm := by
  unfold State.stopJobs; (repeat' (first | rfl | split | (refine firm_foldl _ _ _ ?_; intros) | simp))

@[simp] theorem State.setUnit_firm (s : State) (r : Recovery) :
    (State.setUnit s r).firm = s.firm := by
  simp [State.setUnit]

@[simp] theorem State.sendControl_firm (s : State) (port : Nat) (code : Nat) (words : List W64) :
    (State.sendControl s port code words).firm = s.firm := by
  simp [State.sendControl]

@[simp] theorem State.resetNotices_firm (s : State) :
    (State.resetNotices s).firm = s.firm := by
  simp [State.resetNotices]

@[simp] theorem State.clearSpace_firm (s : State) (p : Nat) (off : Nat) (size : Nat) :
    (State.clearSpace s p off size).firm = s.firm := by
  simp [State.clearSpace]

@[simp] theorem State.freePlacement_firm (s : State) (i : Nat) :
    (State.freePlacement s i).firm = s.firm := by
  simp [State.freePlacement]

@[simp] theorem State.keepPlacements_firm (s : State) :
    (State.keepPlacements s).firm = s.firm := by
  simp [State.keepPlacements]

@[simp] theorem State.capture_firm (s : State) (trigger : Nat) :
    (State.capture s trigger).firm = s.firm := by
  simp [State.capture]

@[simp] theorem State.retireUnit_firm (s : State) (u : UnitId) :
    (State.retireUnit s u).firm = s.firm := by
  unfold State.retireUnit; (repeat' split) <;> simp

@[simp] theorem State.popHead_firm (s : State) (port : Nat) :
    (State.popHead s port).firm = s.firm := by
  simp [State.popHead]

@[simp] theorem State.sendHead_firm (s : State) (port : Nat) (h : Head) (o : Nat) (busy : Nat) :
    (State.sendHead s port h o busy).firm = s.firm := by
  simp [State.sendHead]

@[simp] theorem State.modKbx_firm (s : State) (g : Keybox → Keybox) :
    (State.modKbx s g).firm = s.firm := by
  simp [State.modKbx]

@[simp] theorem State.sendCnp_firm (s : State) (qp : Nat) :
    (State.sendCnp s qp).firm = s.firm := by
  unfold State.sendCnp; (repeat' split) <;> simp

@[simp] theorem State.landFrame_firm (s : State) (port : Nat) (f : Frame) :
    (State.landFrame s port f).firm = s.firm := by
  unfold State.landFrame; (repeat' split) <;> simp

@[simp] theorem State.abandonLpddr_firm (s : State) (p : Nat) :
    (State.abandonLpddr s p).firm = s.firm := by
  simp [State.abandonLpddr]

@[simp] theorem State.fly_firm (s : State) (k : Nat) (r : Running) (t : Step) (segs : List Segment) :
    (State.fly s k r t segs).firm = s.firm := by
  simp [State.fly]

@[simp] theorem State.park_firm (s : State) (k : Nat) (r : Running) (t : Step) (w : SeqWait) :
    (State.park s k r t w).firm = s.firm := by
  simp [State.park]

@[simp] theorem execBar4Access_firm (port : Nat) (offset : Nat) (write : Option (List Byte)) (length : Nat) (s : State) :
    (stateAfter s (execBar4Access port offset write length s)).firm = s.firm := by
  unfold execBar4Access; (repeat' split) <;> simp

@[simp] theorem State.retire_firm (s : State) (q : Nat) (i : W32) :
    (State.retire s q i).firm = s.firm := by
  simp [State.retire]

@[simp] theorem State.retireEntry_firm (s : State) (e : Entry) :
    (State.retireEntry s e).firm = s.firm := by
  simp [State.retireEntry]

@[simp] theorem State.readSlots_firm (s : State) (qn : Nat) (q : Queue) (j : Nat) :
    (State.readSlots s qn q j).firm = s.firm := by
  simp [State.readSlots]

@[simp] theorem State.fetchSlots_firm (s : State) (qn : Nat) :
    (State.fetchSlots s qn).firm = s.firm := by
  unfold State.fetchSlots; (repeat' split) <;> simp

@[simp] theorem State.acceptOne_firm (s : State) (qn : Nat) :
    (State.acceptOne s qn).1.firm = s.firm := by
  unfold State.acceptOne; simp only []; (repeat' split) <;> simp

theorem State.acceptOne_pairF (s : State) (qn : Nat) {t' : State} {b' : Bool}
    (h : State.acceptOne s qn = (t', b')) : t'.firm = s.firm := by
  have k := State.acceptOne_firm s qn; rw [h] at k; exact k

@[simp] theorem State.acceptAll_firm (s : State) (q n : Nat) : (State.acceptAll s q n).firm = s.firm := by
  induction n generalizing s with
  | zero => rfl
  | succ n ih => unfold State.acceptAll; (repeat' split) <;> grind [State.acceptOne_firm]

@[simp] theorem State.stirOwner_firm (s : State) (o : TileOwner) :
    (State.stirOwner s o).firm = s.firm := by
  unfold State.stirOwner; (repeat' split) <;> simp

@[simp] theorem State.pumpTile_firm (s : State) (id : Nat) (x2 : Nat) :
    (State.pumpTile s id x2).firm = s.firm := by
  fun_induction State.pumpTile s id x2 <;> grind [State.hostRead_firm, → State.hostRead_pairF, State.untranslated_firm, State.modTile_firm]

@[simp] theorem State.pumpTiles_firm (s : State) :
    (State.pumpTiles s).firm = s.firm := by
  simp [State.pumpTiles]

@[simp] theorem State.addFetched_firm (s : State) (o : TileOwner) (off : Nat) (b : List Byte) :
    (State.addFetched s o off b).firm = s.firm := by
  unfold State.addFetched; (repeat' split) <;> simp

@[simp] theorem State.finishTile_firm (s : State) (id : Nat) :
    (State.finishTile s id).firm = s.firm := by
  unfold State.finishTile; (repeat' split) <;> simp

@[simp] theorem State.tileData_firm (s : State) (id : Nat) (off : Nat) (b : List Byte) :
    (State.tileData s id off b).firm = s.firm := by
  unfold State.tileData; (repeat' split) <;> simp

@[simp] theorem State.endTileRead_firm (s : State) (id : Nat) (off : Nat) (len : Nat) (status : Nat) (b : Option (List Byte)) :
    (State.endTileRead s id off len status b).firm = s.firm := by
  unfold State.endTileRead; (repeat' split) <;> simp

@[simp] theorem State.probeFailed_firm (s : State) (port : Nat) (a : Nat) :
    (State.probeFailed s port a).firm = s.firm := by
  simp [State.probeFailed]

@[simp] theorem State.serveRead_firm (s : State) (q : Nat) (id : Nat) :
    (State.serveRead s q id).firm = s.firm := by
  unfold State.serveRead; (repeat' split) <;> simp

@[simp] theorem State.endServedRead_firm (s : State) (q : Nat) (id : Nat) (off : Nat) (len : Nat) (status : Nat) (b : Option (List Byte)) :
    (State.endServedRead s q id off len status b).firm = s.firm := by
  unfold State.endServedRead; (repeat' split) <;> simp

@[simp] theorem State.flushRead_firm (s : State) (f : Flush) :
    (State.flushRead s f).firm = s.firm := by
  simp [State.flushRead]

@[simp] theorem State.flushReads_firm (s : State) :
    (State.flushReads s).firm = s.firm := by
  simp [State.flushReads]

@[simp] theorem State.probeP2p_firm (s : State) (port : Nat) (a : Nat) :
    (State.probeP2p s port a).firm = s.firm := by
  simp [State.probeP2p]

@[simp] theorem State.pumpServedAll_firm (s : State) :
    (State.pumpServedAll s).firm = s.firm := by
  simp [State.pumpServedAll]

@[simp] theorem State.retryReads_firm (s : State) (port : Nat) :
    (State.retryReads s port).firm = s.firm := by
  simp [State.retryReads]

@[simp] theorem State.giveTrigs_firm (s : State) (p : Nat) (i : Nat) (n : Nat) :
    (State.giveTrigs s p i n).firm = s.firm := by
  simp [State.giveTrigs]

@[simp] theorem State.checkEnd_firm (s : State) (k : Nat) :
    (State.checkEnd s k).firm = s.firm := by
  unfold State.checkEnd; (repeat' split) <;> simp

@[simp] theorem State.failKernel_firm (s : State) (k : Nat) (status : Nat) (index : Nat) :
    (State.failKernel s k status index).firm = s.firm := by
  unfold State.failKernel; (repeat' split) <;> simp

@[simp] theorem State.failStep_firm (s : State) (k : Nat) (r : Running) (status : Nat) :
    (State.failStep s k r status).firm = s.firm := by
  simp [State.failStep]

@[simp] theorem State.issueStep_firm (s : State) (k op sub : Nat) (act : Running → Step → State)
    (h : ∀ r t, (act r t).firm = s.firm) : (State.issueStep s k op sub act).firm = s.firm := by
  unfold State.issueStep; (repeat' split) <;> simp [h]

@[simp] theorem State.takeRequest_firm (s : State) (a : Nat) (tag : Nat) :
    (State.takeRequest s a tag).firm = s.firm := by
  simp [State.takeRequest]

@[simp] theorem State.deleteRecord_firm (s : State) (q : Nat) (k : MsgKey) :
    (State.deleteRecord s q k).firm = s.firm := by
  unfold State.deleteRecord; (repeat' split) <;> simp

@[simp] theorem State.dropCopy_firm (s : State) (q : Nat) (c : RxCopy) :
    (State.dropCopy s q c).firm = s.firm := by
  unfold State.dropCopy; simp only []; (repeat' split) <;> simp

@[simp] theorem State.dropAborted_firm (s : State) (port : Nat) (part : List Byte) :
    (State.dropAborted s port part).firm = s.firm := by
  simp [State.dropAborted]

@[simp] theorem State.abortPacket_firm (s : State) (port : Nat) :
    (State.abortPacket s port).firm = s.firm := by
  simp [State.abortPacket]

@[simp] theorem State.goodFlit_firm (s : State) (port : Nat) (l : List Byte) :
    (State.goodFlit s port l).firm = s.firm := by
  simp [State.goodFlit]

@[simp] theorem State.endLaneLeave_firm (s : State) (port : Nat) :
    (State.endLaneLeave s port).firm = s.firm := by
  simp [State.endLaneLeave]

@[simp] theorem State.moveFallback_firm (s : State) (port : Nat) :
    (State.moveFallback s port).firm = s.firm := by
  unfold State.moveFallback; (repeat' (first | rfl | split | simp only [] | (refine (firm_foldl _ _ _ ?_).trans ?_; intros))) <;> grind [State.modPort_firm, State.pickOutput_firm]

@[simp] theorem State.maskRaw_firm (s : State) (port : Nat) (counted : Bool) :
    (State.maskRaw s port counted).firm = s.firm := by
  simp [State.maskRaw]

@[simp] theorem State.respCommitted_firm (s : State) (q : Nat) (c : RxCopy) (status : Nat) :
    (State.respCommitted s q c status).firm = s.firm := by
  unfold State.respCommitted; simp only []; (repeat' split) <;> simp

@[simp] theorem State.loseRequest_firm (s : State) (r : AttReq) :
    (State.loseRequest s r).firm = s.firm := by
  unfold State.loseRequest; (repeat' split) <;> simp

@[simp] theorem State.endSession_firm (s : State) (a : Nat) :
    (State.endSession s a).firm = s.firm := by
  simp [State.endSession]

@[simp] theorem State.badFlit_firm (s : State) (port : Nat) :
    (State.badFlit s port).firm = s.firm := by
  simp [State.badFlit]

@[simp] theorem State.attachFlit_firm (s : State) (port : Nat) (bytes : List Byte) :
    (State.attachFlit s port bytes).firm = s.firm := by
  unfold State.attachFlit; simp only []; (repeat' split) <;> simp

@[simp] theorem State.checkSession_firm (s : State) (port : Nat) :
    (State.checkSession s port).firm = s.firm := by
  unfold State.checkSession; (repeat' split) <;> simp

@[simp] theorem State.maskPort_firm (s : State) (port : Nat) :
    (State.maskPort s port).firm = s.firm := by
  simp [State.maskPort]

@[simp] theorem State.countCodewords_firm (s : State) (port : Nat) (n : Nat) :
    (State.countCodewords s port n).firm = s.firm := by
  simp [State.countCodewords]

@[simp] theorem execDataFlit_firm (port : Nat) (bytes : List Byte) (uncorrectable : Nat) (s : State) :
    (stateAfter s (execDataFlit port bytes uncorrectable s)).firm = s.firm := by
  simp [execDataFlit]

@[simp] theorem State.openSegment_firm (s : State) (g : Segment) (k : Nat) (slot : Nat) (r : Running) (a : W64) (len : Nat) (write : Bool) (buf : Nat) :
    (State.openSegment s g k slot r a len write buf).firm = s.firm := by
  simp [State.openSegment]

@[simp] theorem State.openRange_firm (s : State) (k : Nat) (slot : Nat) (r : Running) (a : W64) (len : Nat) (write : Bool) (buf : Nat) :
    (State.openRange s k slot r a len write buf).firm = s.firm := by
  simp [State.openRange]

@[simp] theorem State.stepDone_firm (s : State) (k : Nat) (r : Running) (t : Step) (next : Nat) :
    (State.stepDone s k r t next).firm = s.firm := by
  simp [State.stepDone]

@[simp] theorem execWidthProposal_firm (port : Nat) (outBusy : Nat) (inBusy : Nat) (peakBusy : Nat) (heldUs : Nat) (s : State) :
    (stateAfter s (execWidthProposal port outBusy inBusy peakBusy heldUs s)).firm = s.firm := by
  simp [execWidthProposal]

@[simp] theorem State.feedRunning_firm (s : State) (q : Nat) (i : W32) (l : List (Nat × Nat)) :
    (State.feedRunning s q i l).firm = s.firm := by
  unfold State.feedRunning; (repeat' split) <;> simp

@[simp] theorem State.orphanReads_firm (s : State) (pick : ReadUse → Bool) :
    (State.orphanReads s pick).firm = s.firm := by
  simp [State.orphanReads]

@[simp] theorem innerFail_firm (s : State) (status : Nat) (detail : Nat) :
    (innerFail s status detail).state.firm = s.firm := by
  simp [innerFail]

@[simp] theorem State.modSession_firm (s : State) (p : Nat) (g : KeySession → KeySession) :
    (State.modSession s p g).firm = s.firm := by
  simp [State.modSession]

@[simp] theorem State.keyStep_firm (s : State) (p : Nat) (i : Inner) (l : Bool) :
    (State.keyStep s p i l).firm = i.state.firm := by
  simp [State.keyStep]

@[simp] theorem State.runKeyCmd_firm (s : State) (p code : Nat) (x : KeySession) (plain : List Byte)
    (body : State → KeySession → Inner) (h : ∀ s x, (body s x).state.firm = s.firm) :
    (State.runKeyCmd s p code x plain body).state.firm = s.firm := by
  unfold State.runKeyCmd; (repeat' split) <;> simp [h, innerFail]

@[simp] theorem State.modKey_firm (s : State) (p : Nat) (job : Option Nat) (g : KeyGens → KeyGens) :
    (State.modKey s p job g).firm = s.firm := by
  unfold State.modKey; (repeat' split) <;> simp

@[simp] theorem execTrainingTimeout_firm (port : Nat) (s : State) :
    (stateAfter s (execTrainingTimeout port s)).firm = s.firm := by
  simp [execTrainingTimeout]

@[simp] theorem execKbxRelease_firm (master : Nat) (s : State) :
    (stateAfter s (execKbxRelease master s)).firm = s.firm := by
  simp [execKbxRelease]

@[simp] theorem execKbxClaim_firm (master : Nat) (s : State) :
    (stateAfter s (execKbxClaim master s)).firm = s.firm := by
  simp [execKbxClaim]

@[simp] theorem State.writeKbxLock_firm (s : State) (master : Nat) (v : Nat) :
    (State.writeKbxLock s master v).firm = s.firm := by
  simp [State.writeKbxLock]

@[simp] theorem execKbxStart_firm (master : Nat) (value : W32) (s : State) :
    (stateAfter s (execKbxStart master value s)).firm = s.firm := by
  simp [execKbxStart]

@[simp] theorem State.writeKbx_firm (s : State) (master : Nat) (o : Nat) (v : Nat) :
    (State.writeKbx s master o v).firm = s.firm := by
  simp [State.writeKbx]

@[simp] theorem State.modCongest_firm (s : State) (q : Nat) (dst : Nat) (g : Congest → Congest) :
    (State.modCongest s q dst g).firm = s.firm := by
  simp [State.modCongest]

@[simp] theorem State.startMessage_firm (s : State) (q : Nat) (m : Nat) (x3 : Sender) :
    (State.startMessage s q m x3).firm = s.firm := by
  simp [State.startMessage]

theorem State.ensureCongest_someF (s : State) (q d : Nat) {t : State} (h : s.ensureCongest q d = some t) :
    t.firm = s.firm := by
  unfold State.ensureCongest at h; simp only [] at h; grind [State.modQuad_firm, State.countIn_firm]

@[simp] theorem State.beginMessage_firm (s : State) (q : Nat) (m : Nat) (x3 : Sender) :
    (State.beginMessage s q m x3).firm = s.firm := by
  unfold State.beginMessage; simp only [stateAfter_next]; (repeat' split) <;> (try simp) <;> grind [State.modQuad_firm, State.countIn_firm, State.startMessage_firm, → State.ensureCongest_someF, State.setSender_firm]

@[simp] theorem State.tryBegin_firm (s : State) (q : Nat) (m : Nat) (x3 : Sender) :
    (State.tryBegin s q m x3).firm = s.firm := by
  unfold State.tryBegin; (repeat' split) <;> simp

@[simp] theorem execMessageBegin_firm (quadrant : Nat) (msg : Nat) (s : State) :
    (stateAfter s (execMessageBegin quadrant msg s)).firm = s.firm := by
  unfold execMessageBegin; (repeat' split) <;> simp

@[simp] theorem State.resumeFeeders_firm (s : State) (rn : Nat) :
    (State.resumeFeeders s rn).firm = s.firm := by
  simp [State.resumeFeeders]

@[simp] theorem State.startNative_firm (s : State) (q : Nat) (x2 : Queue) (d : Desc) (l : List (Nat × Nat)) :
    (State.startNative s q x2 d l).firm = s.firm := by
  simp [State.startNative]

@[simp] theorem State.freeBacking_firm (s : State) (port : Nat) :
    (State.freeBacking s port).firm = s.firm := by
  unfold State.freeBacking; (repeat' split) <;> simp

@[simp] theorem State.newPlacement_firm (s : State) (i : Nat) (p : Nat) (size : Nat) (off : Nat) (w : Wish) (lpddr : Bool) (quadrant : Nat) (hdm : Option Nat) :
    (State.newPlacement s i p size off w lpddr quadrant hdm).firm = s.firm := by
  simp [State.newPlacement]

theorem State.allocBacking_someF (s : State) (p l k : Nat) {t : State} (h : s.allocBacking p l k = some t) :
    t.firm = s.firm := by
  unfold State.allocBacking at h; simp only [] at h; grind [State.modHost_firm, State.newPlacement_firm]

@[simp] theorem State.writeHdmLength_firm (s : State) (port n pick : Nat) :
    (State.writeHdmLength s port n pick).firm = s.firm := by
  unfold State.writeHdmLength; simp only []
  (repeat' split) <;> (try simp)
  cases h : (s.freeBacking port).allocBacking port n pick
  · simp
  · simpa using State.allocBacking_someF _ _ _ _ h

@[simp] theorem State.deferStarts_firm (s : State) (p : Nat) (id : W32) (n : Nat) :
    (State.deferStarts s p id n).firm = s.firm := by
  simp [State.deferStarts]

@[simp] theorem State.openBuffer_firm (s : State) (p : Nat) (c : Schedule) (r : Nat × W64 × Nat × Bool) :
    (State.openBuffer s p c r).firm = s.firm := by
  simp [State.openBuffer]

@[simp] theorem State.startInstance_firm (s : State) (p : Nat) (c : Schedule) (mt : Nat) (coll : Option (Nat × Nat)) :
    (State.startInstance s p c mt coll).firm = s.firm := by
  simp [State.startInstance]

@[simp] theorem State.startDue_firm (s : State) (p : Nat) (id : W32) (mt : Nat) (n : Nat) :
    (State.startDue s p id mt n).firm = s.firm := by
  unfold State.startDue; (repeat' split) <;> simp

@[simp] theorem State.trigStart_firm (s : State) (p : Nat) (id : W32) :
    (State.trigStart s p id).firm = s.firm := by
  unfold State.trigStart; (repeat' split) <;> simp

@[simp] theorem State.trigMoved_firm (s : State) :
    (State.trigMoved s).firm = s.firm := by
  simp [State.trigMoved]

@[simp] theorem State.stepNow_firm (s : State) (k : Nat) (r : Running) (t : Step) (next : Nat) :
    (State.stepNow s k r t next).firm = s.firm := by
  simp [State.stepNow]

@[simp] theorem State.unread_firm (s : State) (port : Nat) (r : HostRead) :
    (State.unread s port r).firm = s.firm := by
  unfold State.unread; (repeat' split) <;> simp

@[simp] theorem State.freeFlags_firm (s : State) (q : Nat) :
    (State.freeFlags s q).firm = s.firm := by
  simp [State.freeFlags]

@[simp] theorem State.modChart_firm (s : State) (q : Nat) (g : Charts → Charts) :
    (State.modChart s q g).firm = s.firm := by
  simp [State.modChart]

@[simp] theorem State.sendHeartbeats_firm (s : State) (p : Nat) (job : Nat) :
    (State.sendHeartbeats s p job).firm = s.firm := by
  unfold State.sendHeartbeats; (repeat' split) <;> simp

@[simp] theorem State.gateTakeoverAt_firm (s : State) (port : Nat) (time : Nat) :
    (State.gateTakeoverAt s port time).firm = s.firm := by
  simp [State.gateTakeoverAt]

@[simp] theorem execHostCxlMemRequest_firm (port : Nat) (line : Nat) (write : Option (List Byte)) (s : State) :
    (stateAfter s (execHostCxlMemRequest port line write s)).firm = s.firm := by
  unfold execHostCxlMemRequest; (repeat' split) <;> simp

@[simp] theorem State.startAtomic_firm (s : State) (q : Nat) (i : W32) (op : Nat) :
    (State.startAtomic s q i op).firm = s.firm := by
  unfold State.startAtomic; (repeat' split) <;> grind [State.startBound_firm, → State.localRead_waitF, → State.localRead_failF, State.modDesc_firm, State.startFetch_firm, State.cutDesc_firm, State.startNative_firm]

@[simp] theorem execAdd64_firm (queue : Nat) (index : W32) (s : State) :
    (stateAfter s (execAdd64 queue index s)).firm = s.firm := by
  simp [execAdd64]

@[simp] theorem execContextQuarantineEnd_firm (context : Nat) (s : State) :
    (stateAfter s (execContextQuarantineEnd context s)).firm = s.firm := by
  simp [execContextQuarantineEnd]

@[simp] theorem State.holdRdma_firm (s : State) (q : Nat) (qp : Nat) (pkt : Packet) (att : Option Nat) :
    (State.holdRdma s q qp pkt att).1.firm = s.firm := by
  simp [State.holdRdma]

theorem State.holdRdma_pairF (s : State) (q : Nat) (qp : Nat) (pkt : Packet) (att : Option Nat) {t' : State} {b' : Nat}
    (h : State.holdRdma s q qp pkt att = (t', b')) : t'.firm = s.firm := by
  have k := State.holdRdma_firm s q qp pkt att; rw [h] at k; exact k

@[simp] theorem State.rdmaNotReady_firm (s : State) (qp : Nat) (psn : Nat) :
    (State.rdmaNotReady s qp psn).firm = s.firm := by
  simp [State.rdmaNotReady]

@[simp] theorem State.rdmaAccess_firm (s : State) (qp : Nat) (psn : Nat) :
    (State.rdmaAccess s qp psn).firm = s.firm := by
  simp [State.rdmaAccess]

@[simp] theorem State.rdmaLand_firm (s : State) (port : Nat) (qp : Nat) (psn : Nat) (q : QueuePair) (op : RdmaOp) (pkt : Packet) :
    (State.rdmaLand s port qp psn q op pkt).firm = s.firm := by
  unfold State.rdmaLand; simp only [stateAfter_next]; (repeat' split) <;> (try simp) <;> grind [State.rdmaReply_firm, State.modQp_firm, State.atomicAt_firm, → State.atomicAt_pairF, State.askLines_firm, State.holdRdma_firm, → State.holdRdma_pairF, State.rdmaNotReady_firm, State.rdmaAccess_firm, → State.landBytes_doneF, → State.landBytes_waitF, → State.landBytes_sentF, → State.landBytes_retryF, → State.landBytes_failF, State.landRead_firm]

@[simp] theorem State.spdmSend_firm (s : State) (ep : Nat) (code : Nat) (body : List Byte) :
    (State.spdmSend s ep code body).firm = s.firm := by
  simp [State.spdmSend]

@[simp] theorem State.spdmFail_firm (s : State) (ep : Nat) (e : SpdmErr) :
    (State.spdmFail s ep e).firm = s.firm := by
  simp [State.spdmFail]

@[simp] theorem State.ackBefore_firm (s : State) (qp : Nat) (psn : Nat) :
    (State.ackBefore s qp psn).firm = s.firm := by
  unfold State.ackBefore; (repeat' split) <;> simp

@[simp] theorem State.flushBound_firm (s : State) (qn : Nat) (queueStatus : Nat) (flushStatus : Nat) :
    (State.flushBound s qn queueStatus flushStatus).firm = s.firm := by
  unfold State.flushBound; (repeat' split) <;> simp

@[simp] theorem State.failQp_firm (s : State) (qp : Nat) (concerned : Option W32) (status : Nat) (detail : Nat) :
    (State.failQp s qp concerned status detail).firm = s.firm := by
  unfold State.failQp; (repeat' split) <;> simp

@[simp] theorem State.rnrNak_firm (s : State) (qp : Nat) (q : QueuePair) (syndrome : Nat) :
    (State.rnrNak s qp q syndrome).firm = s.firm := by
  simp [State.rnrNak]

theorem State.takeFrame_someF (s : State) (port : Nat) (kind : FrameKind) {t : State}
    (h : State.takeFrame s port kind = some t) : t.firm = s.firm := by
  revert h; unfold State.takeFrame; simp only []; (repeat' split) <;> intro h <;> simp at h <;> grind [State.modPort_firm, State.modQuad_firm]

@[simp] theorem execRoceNak_firm (qp : Nat) (psn : Nat) (syndrome : Nat) (s : State) :
    (stateAfter s (execRoceNak qp psn syndrome s)).firm = s.firm := by
  unfold execRoceNak; simp only [stateAfter_next]; (repeat' split) <;> (try simp) <;> grind [State.resendRdma_firm, State.ackBefore_firm, State.modQp_firm, State.rnrNak_firm, → State.takeFrame_someF, State.failQp_firm]

@[simp] theorem State.discardEntries_firm (s : State) (c : Nat) (gen : BitVec 8) :
    (State.discardEntries s c gen).firm = s.firm := by
  simp [State.discardEntries]

@[simp] theorem execBackstop_firm (milliwatts : Nat) (s : State) :
    (stateAfter s (execBackstop milliwatts s)).firm = s.firm := by
  simp [execBackstop]

@[simp] theorem execLossOfSignal_firm (port : Nat) (s : State) :
    (stateAfter s (execLossOfSignal port s)).firm = s.firm := by
  simp [execLossOfSignal]

@[simp] theorem State.modSa_firm (s : State) (p : Nat) (ip : List Byte) (family : Nat) (g : SecAssoc → SecAssoc) :
    (State.modSa s p ip family g).firm = s.firm := by
  simp [State.modSa]

@[simp] theorem State.espNote_firm (s : State) (p : Nat) (v6 : Bool) (ip : List Byte) (e : Option EspHead) :
    (State.espNote s p v6 ip e).firm = s.firm := by
  unfold State.espNote; (repeat' split) <;> simp

@[simp] theorem State.noteFrame_firm (s : State) (f : Frame) :
    (State.noteFrame s f).firm = s.firm := by
  unfold State.noteFrame; (repeat' split) <;> simp

@[simp] theorem State.tagFailed_firm (s : State) (q : Nat) (pkt : Packet) :
    (State.tagFailed s q pkt).firm = s.firm := by
  simp [State.tagFailed]

@[simp] theorem State.openPacket_firm (s : State) (q : Nat) (pkt : Packet) (f : State → State)
    (h : ∀ s, (f s).firm = s.firm) : (State.openPacket s q pkt f).firm = s.firm := by
  unfold State.openPacket; (repeat' split) <;> simp [h]

@[simp] theorem State.leaveInput_firm (s : State) (port : Nat) (pkt : Packet) :
    (State.leaveInput s port pkt).firm = s.firm := by
  simp [State.leaveInput]

@[simp] theorem State.startTile_firm (s : State) (id : Nat) :
    (State.startTile s id).firm = s.firm := by
  unfold State.startTile; (repeat' split) <;> simp

@[simp] theorem execTileStart_firm (tile : Nat) (s : State) :
    (stateAfter s (execTileStart tile s)).firm = s.firm := by
  simp [execTileStart]

@[simp] theorem State.upMessage_firm (s : State) (a : Nat) :
    (State.upMessage s a).firm = s.firm := by
  simp [State.upMessage]

@[simp] theorem execAttTrig_firm (a : Nat) (partition : Nat) (index : Nat) (increment : W32) (s : State) :
    (stateAfter s (execAttTrig a partition index increment s)).firm = s.firm := by
  unfold execAttTrig; simp only []; (repeat' split) <;> simp

@[simp] theorem execThermalTripRelease_firm (s : State) :
    (stateAfter s (execThermalTripRelease s)).firm = s.firm := by
  simp [execThermalTripRelease]

@[simp] theorem State.sendReplicas_firm (s : State) (port : Nat) (h : Head) (ports : List Nat) (free : List (Nat × Nat)) :
    (State.sendReplicas s port h ports free).firm = s.firm := by
  simp [State.sendReplicas]

@[simp] theorem State.blankSlots_firm (s : State) (fn : Nat) (base : W64) (n : Nat) (size : Nat) :
    (State.blankSlots s fn base n size).firm = s.firm := by
  simp [State.blankSlots]

@[simp] theorem State.rdmaAgain_firm (s : State) (port : Nat) (qp : Nat) (psn : Nat) (q : QueuePair) (op : RdmaOp) (pkt : Packet) :
    (State.rdmaAgain s port qp psn q op pkt).firm = s.firm := by
  unfold State.rdmaAgain; simp only []; (repeat' split) <;> simp

@[simp] theorem execRoceRequest_firm (port : Nat) (qp : Nat) (psn : Nat) (op : RdmaOp) (s : State) :
    (stateAfter s (execRoceRequest port qp psn op s)).firm = s.firm := by
  unfold execRoceRequest; simp only [stateAfter_next]; (repeat' split) <;> (try simp) <;> grind [State.rdmaLand_firm, State.rdmaReply_firm, State.rdmaAccess_firm, → State.takeFrame_someF, State.rdmaAgain_firm]

@[simp] theorem State.queueOwn_firm (s : State) (port : Nat) (dst : Nat) (octets : Nat) (kind : Nat) (body : List Nat) :
    (State.queueOwn s port dst octets kind body).firm = s.firm := by
  simp [State.queueOwn]

@[simp] theorem State.queCtrl_firm (s : State) (fn : Nat) (slot : Nat) (value : W32) :
    (State.queCtrl s fn slot value).firm = s.firm := by
  unfold State.queCtrl; (repeat' split) <;> simp

@[simp] theorem execQueSuspend_firm (fn : Nat) (slot : Nat) (value : W32) (s : State) :
    (stateAfter s (execQueSuspend fn slot value s)).firm = s.firm := by
  simp [execQueSuspend]

@[simp] theorem State.modCharts_firm (s : State) (g : Charts → Charts) :
    (State.modCharts s g).firm = s.firm := by
  simp [State.modCharts]

@[simp] theorem State.restartClock_firm (s : State) (x1 : Domain) :
    (State.restartClock s x1).firm = s.firm := by
  unfold State.restartClock; (repeat' split) <;> simp

@[simp] theorem State.meterCount_firm (s : State) (port : Nat) (p : Nat) (tc : Nat) (colour : Nat) (n : Nat) :
    (State.meterCount s port p tc colour n).firm = s.firm := by
  simp [State.meterCount]

@[simp] theorem State.tintFrame_firm (s : State) (port : Nat) (o : Offer) :
    (State.tintFrame s port o).firm = s.firm := by
  simp [State.tintFrame]

@[simp] theorem State.tintHead_firm (s : State) (port : Nat) (o : Offer) :
    (State.tintHead s port o).firm = s.firm := by
  unfold State.tintHead; (repeat' split) <;> simp

@[simp] theorem State.judgeDoorbell_firm (s : State) (fn : Nat) (slot : Nat) (value : W32) :
    (State.judgeDoorbell s fn slot value).firm = s.firm := by
  unfold State.judgeDoorbell; (repeat' split) <;> simp

@[simp] theorem State.doorbell_firm (s : State) (fn : Nat) (slot : Nat) (value : W32) :
    (State.doorbell s fn slot value).firm = s.firm := by
  unfold State.doorbell; (repeat' split) <;> simp

@[simp] theorem State.startDomain_firm (s : State) (d : Domain) :
    (State.startDomain s d).firm = s.firm := by
  unfold State.startDomain; (repeat' split) <;> simp

@[simp] theorem execCdcWake_firm (domain : Domain) (s : State) :
    (stateAfter s (execCdcWake domain s)).firm = s.firm := by
  simp [execCdcWake]

@[simp] theorem State.drawRow_firm (s : State) (n : Nat) : (State.drawRow s n).2.firm = s.firm := by
  induction n generalizing s with
  | zero => rfl
  | succ n ih => simp [State.drawRow, ih]

@[simp] theorem State.rowOf_firm (s : State) (g : Nat) (k : Nat) :
    (State.rowOf s g k).2.firm = s.firm := by
  simp [State.rowOf]

theorem State.takeVector_doneF (s : State) (g : Nat) (x : GratJob) (f : Flight) (d : JobData) (i : Nat) (v : Vector1)
    {t : State} {fl : NumFlags} (h : s.takeVector g x f d i v = (.done t, fl)) : t.firm = s.firm := by
  unfold State.takeVector at h; simp only [] at h; grind [→ State.writePieces_doneF, State.modGrat_firm, State.rowOf_firm]

theorem State.takeVector_waitF (s : State) (g : Nat) (x : GratJob) (f : Flight) (d : JobData) (i : Nat) (v : Vector1)
    {t : State} {fl : NumFlags} (h : s.takeVector g x f d i v = (.wait t, fl)) : t.firm = s.firm := by
  unfold State.takeVector at h; simp only [] at h; grind [→ State.writePieces_waitF, State.modGrat_firm, State.rowOf_firm]

theorem State.takeVector_failF (s : State) (g : Nat) (x : GratJob) (f : Flight) (d : JobData) (i : Nat) (v : Vector1)
    {t : State} {n : Nat} {fl : NumFlags} (h : s.takeVector g x f d i v = (.fail t n, fl)) : t.firm = s.firm := by
  unfold State.takeVector at h; simp only [] at h; grind [→ State.writePieces_failF, State.modGrat_firm, State.rowOf_firm]

@[simp] theorem State.modLeg_firm (s : State) (i : Nat) (leg : Nat) (g : Leg → Leg) :
    (State.modLeg s i leg g).firm = s.firm := by
  simp [State.modLeg]

@[simp] theorem State.beginMigration_firm (s : State) (i : Nat) (leg : Nat) (r : MigrateReason) (lpddr : Bool) (q : Nat) (frames : List Nat) :
    (State.beginMigration s i leg r lpddr q frames).firm = s.firm := by
  simp [State.beginMigration]

@[simp] theorem State.startMigration_firm (s : State) (i : Nat) (leg : Nat) (r : MigrateReason) (lpddr : Bool) (q : Nat) :
    (State.startMigration s i leg r lpddr q).firm = s.firm := by
  unfold State.startMigration; simp only []; (repeat' split) <;> simp

@[simp] theorem State.pursuePins_firm (s : State) (i : Nat) :
    (State.pursuePins s i).firm = s.firm := by
  unfold State.pursuePins; simp only []; (repeat' split) <;> simp

@[simp] theorem State.completeFlight_firm (s : State) (k : Nat) (slot : Nat) :
    (State.completeFlight s k slot).firm = s.firm := by
  unfold State.completeFlight; (repeat' split) <;> simp

@[simp] theorem State.waited_firm (s : State) (k : Nat) (slot : Nat) :
    (State.waited s k slot).firm = s.firm := by
  simp [State.waited]

@[simp] theorem State.retrainPort_firm (s : State) (port : Nat) :
    (State.retrainPort s port).firm = s.firm := by
  simp [State.retrainPort]

@[simp] theorem execRetrain_firm (fn : Nat) (port : Nat) (value : W32) (s : State) :
    (stateAfter s (execRetrain fn port value s)).firm = s.firm := by
  simp [execRetrain]

@[simp] theorem State.writeFab_firm (s : State) (fn : Nat) (o : Nat) (v : Nat) :
    (State.writeFab s fn o v).firm = s.firm := by
  simp [State.writeFab]

@[simp] theorem State.writeQue_firm (s : State) (fn : Nat) (o : Nat) (v : Nat) :
    (State.writeQue s fn o v).firm = s.firm := by
  unfold State.writeQue; (repeat' split) <;> simp

@[simp] theorem State.writePwr_firm (s : State) (o : Nat) (v : Nat) :
    (State.writePwr s o v).firm = s.firm := by
  simp [State.writePwr]

@[simp] theorem State.writeGrt_firm (s : State) (o : Nat) (v : Nat) :
    (State.writeGrt s o v).firm = s.firm := by
  simp [State.writeGrt]

@[simp] theorem State.writeEth_firm (s : State) (o : Nat) (v : Nat) :
    (State.writeEth s o v).firm = s.firm := by
  simp [State.writeEth]

@[simp] theorem State.writeTxs_firm (s : State) (o : Nat) (v : Nat) :
    (State.writeTxs s o v).firm = s.firm := by
  simp [State.writeTxs]

@[simp] theorem State.writeAlarms_firm (s : State) (fn : Nat) (v : Nat) :
    (State.writeAlarms s fn v).firm = s.firm := by
  unfold State.writeAlarms; (repeat' split) <;> simp

@[simp] theorem State.writeSvy_firm (s : State) (fn : Nat) (o : Nat) (v : Nat) :
    (State.writeSvy s fn o v).firm = s.firm := by
  simp [State.writeSvy]

@[simp] theorem State.writeBiasCtrl_firm (s : State) (port : Nat) (value : W32) :
    (State.writeBiasCtrl s port value).firm = s.firm := by
  simp [State.writeBiasCtrl]

@[simp] theorem State.writeP2p_firm (s : State) (port : Nat) (a : Nat) (value : W64) :
    (State.writeP2p s port a value).firm = s.firm := by
  simp [State.writeP2p]

@[simp] theorem State.writeFn_firm (s : State) (fn : Nat) (o : Nat) (v : Nat) :
    (State.writeFn s fn o v).firm = s.firm := by
  simp [State.writeFn]

@[simp] theorem State.sign_firm (s : State) (message : List Byte) :
    (State.sign s message).2.firm = s.firm := by
  simp [State.sign]

@[simp] theorem State.modSpdm_firm (s : State) (ep : Nat) (g : Spdm → Spdm) :
    (State.modSpdm s ep g).firm = s.firm := by
  simp [State.modSpdm]

@[simp] theorem State.drawBytes_firm (s : State) (n : Nat) :
    (State.drawBytes s n).2.firm = s.firm := by
  simp [State.drawBytes]

@[simp] theorem State.spdmServe_firm (s : State) (ep : Nat) (body : State → State)
    (h : ∀ s, (body s).firm = s.firm) : (State.spdmServe s ep body).firm = s.firm := by
  unfold State.spdmServe; (repeat' split) <;> simp [h]

@[simp] theorem execKeyExchange_firm (ep : Nat) (nonce : BitVec 256) (s : State) :
    (stateAfter s (execKeyExchange ep nonce s)).firm = s.firm := by
  simp [execKeyExchange]

@[simp] theorem State.connectFailure_firm (s : State) :
    (State.connectFailure s).state.firm = s.firm := by
  simp [State.connectFailure]

@[simp] theorem State.countReduction_firm (s : State) (p : Nat) (ok : Bool) (fl : NumFlags) :
    (State.countReduction s p ok fl).firm = s.firm := by
  simp [State.countReduction]

@[simp] theorem execStaleReadExpiry_firm (port : Nat) (tag : Nat) (s : State) :
    (stateAfter s (execStaleReadExpiry port tag s)).firm = s.firm := by
  unfold execStaleReadExpiry; (repeat' split) <;> simp

@[simp] theorem execCcBasePeriod_firm (quadrant : Nat) (s : State) :
    (stateAfter s (execCcBasePeriod quadrant s)).firm = s.firm := by
  simp [execCcBasePeriod]

@[simp] theorem execHdmDecoderCommit_firm (port : Nat) (length : Nat) (pick : Nat) (s : State) :
    (stateAfter s (execHdmDecoderCommit port length pick s)).firm = s.firm := by
  unfold execHdmDecoderCommit; (repeat' split) <;> (try simp) <;> grind [→ State.allocBacking_someF, State.modHost_firm]

@[simp] theorem execTimeExchange_firm (port : Nat) (s : State) :
    (stateAfter s (execTimeExchange port s)).firm = s.firm := by
  simp [execTimeExchange]

@[simp] theorem State.tintPort_firm (s : State) (port : Nat) :
    (State.tintPort s port).firm = s.firm := by
  simp [State.tintPort]

@[simp] theorem State.paceQp_firm (s : State) (qp : Nat) (n : Nat) :
    (State.paceQp s qp n).firm = s.firm := by
  simp [State.paceQp]

@[simp] theorem State.sealFrame_firm (s : State) (f : EthFrame) :
    (State.sealFrame s f).1.firm = s.firm := by
  unfold State.sealFrame; (repeat' split) <;> simp

theorem State.sealFrame_pairF (s : State) (f : EthFrame) {t' : State} {b' : Option (W32 × Nat)}
    (h : State.sealFrame s f = (t', b')) : t'.firm = s.firm := by
  have k := State.sealFrame_firm s f; rw [h] at k; exact k

@[simp] theorem State.ethCount_firm (s : State) (port : Nat) (i : Nat) (n : Nat) :
    (State.ethCount s port i n).firm = s.firm := by
  simp [State.ethCount]

@[simp] theorem State.noteDeferred_firm (s : State) (port : Nat) :
    (State.noteDeferred s port).firm = s.firm := by
  simp [State.noteDeferred]

@[simp] theorem State.sendRelayed_firm (s : State) (port : Nat) (o : Offer) :
    (State.sendRelayed s port o).firm = s.firm := by
  unfold State.sendRelayed; simp only []; (repeat' split) <;> simp

@[simp] theorem State.portClock_firm (s : State) (port : Nat) :
    (State.portClock s port).firm = s.firm := by
  unfold State.portClock; simp only []; (repeat' split) <;> simp

@[simp] theorem State.sendRejoin_firm (s : State) (p : Nat) (j : Nat) (gen : Nat) (rank : Nat) :
    (State.sendRejoin s p j gen rank).firm = s.firm := by
  simp [State.sendRejoin]

@[simp] theorem State.dropReads_firm (s : State) (p : Nat) (u : ReadUse) :
    (State.dropReads s p u).firm = s.firm := by
  simp [State.dropReads]

@[simp] theorem execP2pProbeResult_firm (port : Nat) (a : Nat) (ok : Bool) (s : State) :
    (stateAfter s (execP2pProbeResult port a ok s)).firm = s.firm := by
  simp [execP2pProbeResult]

@[simp] theorem State.releaseRelay_firm (s : State) (a : Nat) (pkt : Packet) :
    (State.releaseRelay s a pkt).firm = s.firm := by
  simp [State.releaseRelay]

@[simp] theorem State.relayPump_firm (s : State) (a n : Nat) : (State.relayPump s a n).firm = s.firm := by
  induction n generalizing s with
  | zero => rfl
  | succ n ih => unfold State.relayPump; (repeat' split) <;> simp only [] <;> (repeat' split) <;> simp [ih]

@[simp] theorem execAttCredit_firm (a : Nat) (writes : Nat) (reads : Nat) (s : State) :
    (stateAfter s (execAttCredit a writes reads s)).firm = s.firm := by
  simp [execAttCredit]

@[simp] theorem execQueuePairReply_firm (qp : Nat) (psn : Nat) (data : List Byte) (old : W64) (s : State) :
    (stateAfter s (execQueuePairReply qp psn data old s)).firm = s.firm := by
  unfold execQueuePairReply; simp only [stateAfter_next]; (repeat' split) <;> (try simp) <;> grind [State.modQp_firm, State.pumpBound_firm, State.answerHeld_firm, → State.takeFrame_someF]

@[simp] theorem State.reissue_firm (s : State) (q : Nat) (m : Nat) (x3 : Sender) :
    (State.reissue s q m x3).firm = s.firm := by
  simp [State.reissue]

@[simp] theorem execRetryAfterEnd_firm (quadrant : Nat) (msg : Nat) (index : Nat) (s : State) :
    (stateAfter s (execRetryAfterEnd quadrant msg index s)).firm = s.firm := by
  unfold execRetryAfterEnd; (repeat' split) <;> simp

@[simp] theorem State.agreeWidth_firm (s : State) (port : Nat) (lanes : Nat) :
    (State.agreeWidth s port lanes).firm = s.firm := by
  simp [State.agreeWidth]

@[simp] theorem State.activate_firm (s : State) (port : Nat) (lanes : Nat) :
    (State.activate s port lanes).firm = s.firm := by
  simp [State.activate]

@[simp] theorem execQueDoorbell_firm (fn : Nat) (slot : Nat) (value : W32) (s : State) :
    (stateAfter s (execQueDoorbell fn slot value s)).firm = s.firm := by
  simp [execQueDoorbell]

@[simp] theorem State.endKeySession_firm (s : State) (p : Nat) :
    (State.endKeySession s p).firm = s.firm := by
  simp [State.endKeySession]

@[simp] theorem execKeySessionIdle_firm (p : Nat) (s : State) :
    (stateAfter s (execKeySessionIdle p s)).firm = s.firm := by
  unfold execKeySessionIdle; (repeat' split) <;> simp

@[simp] theorem execSourceFree_firm (placement : Nat) (leg : Nat) (s : State) :
    (stateAfter s (execSourceFree placement leg s)).firm = s.firm := by
  simp [execSourceFree]

@[simp] theorem State.refuseColl_firm (s : State) (q : Nat) (c : RxCopy) :
    (State.refuseColl s q c).firm = s.firm := by
  simp [State.refuseColl]

@[simp] theorem State.modHead_firm (s : State) (port : Nat) (g : Head → Head) :
    (State.modHead s port g).firm = s.firm := by
  simp [State.modHead]

@[simp] theorem execHeadPressed_firm (port : Nat) (s : State) :
    (stateAfter s (execHeadPressed port s)).firm = s.firm := by
  unfold execHeadPressed; (repeat' split) <;> simp

@[simp] theorem execWaitSatisfied_firm (k : Nat) (s : State) :
    (stateAfter s (execWaitSatisfied k s)).firm = s.firm := by
  unfold execWaitSatisfied; (repeat' split) <;> simp

@[simp] theorem execHeadForward_firm (port : Nat) (free : List (Nat × Nat)) (s : State) :
    (stateAfter s (execHeadForward port free s)).firm = s.firm := by
  unfold execHeadForward; simp only []; (repeat' split) <;> simp

@[simp] theorem State.schedRound_firm (s : State) (quadrant : Nat) :
    (State.schedRound s quadrant).firm = s.firm := by
  unfold State.schedRound; simp only []; (repeat' split) <;> simp

@[simp] theorem execReservationGrant_firm (quadrant : Nat) (msg : Nat) (s : State) :
    (stateAfter s (execReservationGrant quadrant msg s)).firm = s.firm := by
  unfold execReservationGrant; (repeat' split) <;> simp

@[simp] theorem execStore_firm (k : Nat) (s : State) :
    (stateAfter s (execStore k s)).firm = s.firm := by
  simp [execStore]

@[simp] theorem State.repeatFaults_firm (s : State) (p : Nat) :
    (State.repeatFaults s p).firm = s.firm := by
  unfold State.repeatFaults; simp only [stateAfter_next]; (repeat' split) <;> (try simp) <;> grind [→ State.sendGroup_someF, State.modHost_firm]

@[simp] theorem State.retryGroups_firm (s : State) (p : Nat) :
    (State.retryGroups s p).firm = s.firm := by
  simp [State.retryGroups]

@[simp] theorem State.tileAnswer_firm (s : State) (id : Nat) (failed : Bool) (pages : List Nat) :
    (State.tileAnswer s id failed pages).firm = s.firm := by
  unfold State.tileAnswer; simp only []; (repeat' split) <;> simp

theorem State.reduceElem_waitF (s : State) (p : Nat) (id : W32) (h : SchedHeader) (x : Instance) (fmt e : Nat) (b : List Byte)
    {t : State} (k : s.reduceElem p id h x fmt e b = .error (.wait t)) : t.firm = s.firm := by
  unfold State.reduceElem at k; grind [→ State.partialOf_waitF]

theorem State.reduceElem_failF (s : State) (p : Nat) (id : W32) (h : SchedHeader) (x : Instance) (fmt e : Nat) (b : List Byte)
    {t : State} {n : Nat} (k : s.reduceElem p id h x fmt e b = .error (.fail t n)) : t.firm = s.firm := by
  unfold State.reduceElem at k; grind [→ State.partialOf_failF]

theorem State.reduceElems_waitF (s : State) (p : Nat) (id : W32) (h : SchedHeader) (fmt : Nat) (l : List (Nat × List Byte))
    (x : Instance) {t : State} (k : s.reduceElems p id h fmt l x = .error (.wait t)) : t.firm = s.firm := by
  induction l generalizing x with
  | nil => simp [State.reduceElems] at k
  | cons e l ih => unfold State.reduceElems at k; grind [→ State.reduceElem_waitF]

theorem State.reduceElems_failF (s : State) (p : Nat) (id : W32) (h : SchedHeader) (fmt : Nat) (l : List (Nat × List Byte))
    (x : Instance) {t : State} {n : Nat} (k : s.reduceElems p id h fmt l x = .error (.fail t n)) : t.firm = s.firm := by
  induction l generalizing x with
  | nil => simp [State.reduceElems] at k
  | cons e l ih => unfold State.reduceElems at k; grind [→ State.reduceElem_failF]

@[simp] theorem State.collBytes_keepsF (s : State) (p : Nat) (c : Schedule) (x3 : Instance) (r : Recv) (off : Nat) (b : List Byte) :
    (State.collBytes s p c x3 r off b).KeepsF s.firm := by
  unfold State.collBytes; simp only [stateAfter_next]; (repeat' split) <;> (try simp) <;> grind [State.modInstance_firm, → State.reduceElems_waitF, → State.reduceElems_failF, → State.collWrite_doneF, → State.collWrite_waitF, → State.collWrite_failF]

theorem State.collBytes_doneF (s : State) (p : Nat) (c : Schedule) (x3 : Instance) (r : Recv) (off : Nat) (b : List Byte) {t : State}
    (h : State.collBytes s p c x3 r off b = .done t) : t.firm = s.firm := by
  have k := State.collBytes_keepsF s p c x3 r off b; rw [h] at k; exact k

theorem State.collBytes_waitF (s : State) (p : Nat) (c : Schedule) (x3 : Instance) (r : Recv) (off : Nat) (b : List Byte) {t : State}
    (h : State.collBytes s p c x3 r off b = .wait t) : t.firm = s.firm := by
  have k := State.collBytes_keepsF s p c x3 r off b; rw [h] at k; exact k

theorem State.collBytes_failF (s : State) (p : Nat) (c : Schedule) (x3 : Instance) (r : Recv) (off : Nat) (b : List Byte) {t : State} {n : Nat}
    (h : State.collBytes s p c x3 r off b = .fail t n) : t.firm = s.firm := by
  have k := State.collBytes_keepsF s p c x3 r off b; rw [h] at k; exact k

@[simp] theorem State.holdCopy_firm (s : State) (q : Nat) (port : Nat) (pkt : Packet) (marked : Bool) :
    (State.holdCopy s q port pkt marked).firm = s.firm := by
  unfold State.holdCopy; simp only []; (repeat' split) <;> simp

@[simp] theorem State.arrive_firm (s : State) (q : Nat) (port : Nat) (pkt : Packet) :
    (State.arrive s q port pkt).firm = s.firm := by
  simp [State.arrive]

@[simp] theorem execThrottleExit_firm (s : State) :
    (stateAfter s (execThrottleExit s)).firm = s.firm := by
  simp [execThrottleExit]

@[simp] theorem execAttSessionTimeout_firm (a : Nat) (s : State) :
    (stateAfter s (execAttSessionTimeout a s)).firm = s.firm := by
  simp [execAttSessionTimeout]

@[simp] theorem execDlDown_firm (port : Nat) (s : State) :
    (stateAfter s (execDlDown port s)).firm = s.firm := by
  simp [execDlDown]

theorem State.collStray_someF (s : State) (q : Nat) (p : Packet) {t : State} (h : s.collStray q p = some t) :
    t.firm = s.firm := by
  unfold State.collStray at h; simp only [] at h; grind [State.note_firm]

@[simp] theorem State.dropOldest_firm (s : State) (d : Domain) :
    (State.dropOldest s d).firm = s.firm := by
  unfold State.dropOldest; (repeat' split) <;> simp

@[simp] theorem State.abandonMigrations_firm (s : State) (q : Nat) :
    (State.abandonMigrations s q).firm = s.firm := by
  simp [State.abandonMigrations]

@[simp] theorem State.startTransfer_firm (s : State) (q : Nat) (i : W32) (op : Nat) (wire : Nat) :
    (State.startTransfer s q i op wire).firm = s.firm := by
  unfold State.startTransfer; (repeat' split) <;> simp

@[simp] theorem State.makeOffer_firm (s : State) (p : Nat) (id : Nat) (kem : Nat) :
    (State.makeOffer s p id kem).2.firm = s.firm := by
  simp [State.makeOffer]

theorem State.replyDrop_someF (s : State) (q : Nat) (op : Nat) (pkt : Packet) {t : State}
    (h : State.replyDrop s q op pkt = some t) : t.firm = s.firm := by
  unfold State.replyDrop at h; (repeat' split at h) <;> (first | (cases h; simp; done) | (simp at h; done) | grind [State.note_firm])

@[simp] theorem State.pace_firm (s : State) (q : Nat) (dst : Nat) (n : Nat) :
    (State.pace s q dst n).firm = s.firm := by
  simp [State.pace]

@[simp] theorem execWrite_firm (queue : Nat) (index : W32) (s : State) :
    (stateAfter s (execWrite queue index s)).firm = s.firm := by
  simp [execWrite]

@[simp] theorem execHeadArrival_firm (port : Nat) (pkt : Packet) (s : State) :
    (stateAfter s (execHeadArrival port pkt s)).firm = s.firm := by
  simp [execHeadArrival]

@[simp] theorem State.failTiles_firm (s : State) (ids : List Nat) (status : Nat) :
    (State.failTiles s ids status).firm = s.firm := by
  unfold State.failTiles; (repeat' (first | rfl | split | (refine firm_foldl _ _ _ ?_; intros) | simp))

@[simp] theorem State.writeBack_firm (s : State) (l : Bool × Nat) :
    (State.writeBack s l).firm = s.firm := by
  unfold State.writeBack; (repeat' split) <;> simp

@[simp] theorem execLoop_firm (k : Nat) (s : State) :
    (stateAfter s (execLoop k s)).firm = s.firm := by
  simp [execLoop]

@[simp] theorem execCcIdleRaise_firm (quadrant : Nat) (dest : Nat) (s : State) :
    (stateAfter s (execCcIdleRaise quadrant dest s)).firm = s.firm := by
  unfold execCcIdleRaise; (repeat' split) <;> simp

@[simp] theorem execFnHdmLength_firm (fn : Nat) (value : W64) (pick : Nat) (s : State) :
    (stateAfter s (execFnHdmLength fn value pick s)).firm = s.firm := by
  simp [execFnHdmLength]

@[simp] theorem execAttReset_firm (a : Nat) (s : State) :
    (stateAfter s (execAttReset a s)).firm = s.firm := by
  simp [execAttReset]

@[simp] theorem execSeed_firm (k : Nat) (s : State) :
    (stateAfter s (execSeed k s)).firm = s.firm := by
  simp [execSeed]

@[simp] theorem State.dropFrames_firm (s : State) (port : Nat) (pick : FrameKind → Bool) :
    (State.dropFrames s port pick).firm = s.firm := by
  simp [State.dropFrames]

@[simp] theorem State.failController_firm (s : State) (c : Nat) :
    (State.failController s c).firm = s.firm := by
  unfold State.failController; (repeat' split) <;> simp

@[simp] theorem execArpRequest_firm (port : Nat) (target : W32) (senderMac : BitVec 48) (s : State) :
    (stateAfter s (execArpRequest port target senderMac s)).firm = s.firm := by
  simp [execArpRequest]

@[simp] theorem execAssociationLoss_firm (controller : Nat) (s : State) :
    (stateAfter s (execAssociationLoss controller s)).firm = s.firm := by
  unfold execAssociationLoss; (repeat' split) <;> simp

@[simp] theorem State.dropFailed_firm (s : State) (q : Nat) (c : RxCopy) :
    (State.dropFailed s q c).firm = s.firm := by
  simp [State.dropFailed]

@[simp] theorem State.commitCopy_firm (s : State) (q : Nat) (c : RxCopy) :
    (State.commitCopy s q c).firm = s.firm := by
  unfold State.commitCopy; simp only []; (repeat' split) <;> simp

@[simp] theorem State.goodControl_firm (s : State) (port : Nat) :
    (State.goodControl s port).firm = s.firm := by
  simp [State.goodControl]

@[simp] theorem execWidthSwitch_firm (port : Nat) (s : State) :
    (stateAfter s (execWidthSwitch port s)).firm = s.firm := by
  unfold execWidthSwitch; simp only []; (repeat' split) <;> simp

theorem State.takeSlotRead_someF (s : State) (q : Nat) (i : W32) {t : State} {n : Nat} (h : s.takeSlotRead q i = some (t, n)) :
    t.firm = s.firm := by
  unfold State.takeSlotRead at h; simp only [] at h; grind [State.modHost_firm]

@[simp] theorem State.storeGates_firm (s : State) (port : Nat) (l : List Byte) :
    (State.storeGates s port l).state.firm = s.firm := by
  unfold State.storeGates; simp only []; (repeat' split) <;> simp

@[simp] theorem State.setStep_firm (s : State) (k : Nat) (r : Running) (t : Step) (v : W64) :
    (State.setStep s k r t v).firm = s.firm := by
  simp [State.setStep]

@[simp] theorem execMov_firm (k : Nat) (s : State) :
    (stateAfter s (execMov k s)).firm = s.firm := by
  simp [execMov]

@[simp] theorem State.acceptSession_firm (s : State) (p : Nat) (x2 : KeySession) (l : List Byte) (signatureOk : Bool) :
    (State.acceptSession s p x2 l signatureOk).state.firm = s.firm := by
  simp [State.acceptSession]

@[simp] theorem execChallenge_firm (ep : Nat) (slot : Nat) (nonce : BitVec 256) (s : State) :
    (stateAfter s (execChallenge ep slot nonce s)).firm = s.firm := by
  simp [execChallenge]

@[simp] theorem State.trainTo_firm (s : State) (port : Nat) (a : PortState) (b : PortState) :
    (State.trainTo s port a b).firm = s.firm := by
  simp [State.trainTo]

@[simp] theorem execPortDetect_firm (port : Nat) (s : State) :
    (stateAfter s (execPortDetect port s)).firm = s.firm := by
  simp [execPortDetect]

@[simp] theorem execDownNotice_firm (port : Nat) (s : State) :
    (stateAfter s (execDownNotice port s)).firm = s.firm := by
  simp [execDownNotice]

@[simp] theorem State.lanesGranted_firm (s : State) (port : Nat) :
    (State.lanesGranted s port).firm = s.firm := by
  unfold State.lanesGranted; simp only []; (repeat' split) <;> simp

@[simp] theorem execStepComplete_firm (k : Nat) (slot : Nat) (s : State) :
    (stateAfter s (execStepComplete k slot s)).firm = s.firm := by
  simp [execStepComplete]

@[simp] theorem State.wakeBusy_firm (s : State) :
    (State.wakeBusy s).firm = s.firm := by
  simp [State.wakeBusy]

@[simp] theorem State.linkClock_firm (s : State) :
    (State.linkClock s).firm = s.firm := by
  simp [State.linkClock]

@[simp] theorem State.withhold_firm (s : State) :
    (State.withhold s).firm = s.firm := by
  simp [State.withhold]

@[simp] theorem State.sendUnsealed_firm (s : State) (q : Nat) (r : Bool × Packet) :
    (State.sendUnsealed s q r).firm = s.firm := by
  simp [State.sendUnsealed]

@[simp] theorem State.sealWaiting_firm (s : State) :
    (State.sealWaiting s).firm = s.firm := by
  simp [State.sealWaiting]

@[simp] theorem State.expireEngines_firm (s : State) :
    (State.expireEngines s).firm = s.firm := by
  simp [State.expireEngines]

@[simp] theorem execWaitTrigGe_firm (k : Nat) (s : State) :
    (stateAfter s (execWaitTrigGe k s)).firm = s.firm := by
  simp [execWaitTrigGe]

@[simp] theorem State.endJob_firm (s : State) (g : Nat) (x2 : GratJob) (status : Nat) :
    (State.endJob s g x2 status).firm = s.firm := by
  simp [State.endJob]

@[simp] theorem State.predStep_firm (s : State) (k : Nat) (r : Running) (t : Step) (holds : Bool) :
    (State.predStep s k r t holds).firm = s.firm := by
  simp [State.predStep]

@[simp] theorem execPredTrigGe_firm (k : Nat) (s : State) :
    (stateAfter s (execPredTrigGe k s)).firm = s.firm := by
  simp [execPredTrigGe]

@[simp] theorem execWidthAck_firm (port : Nat) (lanes : Nat) (s : State) :
    (stateAfter s (execWidthAck port lanes s)).firm = s.firm := by
  simp [execWidthAck]

@[simp] theorem State.takeGrant_firm (s : State) (l : Leave) :
    (State.takeGrant s l).firm = s.firm := by
  simp [State.takeGrant]

@[simp] theorem State.startGranted_firm (s : State) (x1 : LeaveFor) :
    (State.startGranted s x1).firm = s.firm := by
  unfold State.startGranted; (repeat' split) <;> simp

@[simp] theorem execLeaveGrant_firm (measured10us : Nat) (s : State) :
    (stateAfter s (execLeaveGrant measured10us s)).firm = s.firm := by
  unfold execLeaveGrant; (repeat' split) <;> simp

@[simp] theorem execKeyRetainEnd_firm (p : Nat) (job : Option Nat) (s : State) :
    (stateAfter s (execKeyRetainEnd p job s)).firm = s.firm := by
  simp [execKeyRetainEnd]

@[simp] theorem execPredFlags_firm (k : Nat) (s : State) :
    (stateAfter s (execPredFlags k s)).firm = s.firm := by
  simp [execPredFlags]

@[simp] theorem execQuadrantIdle_firm (q : Nat) (s : State) :
    (stateAfter s (execQuadrantIdle q s)).firm = s.firm := by
  simp [execQuadrantIdle]

@[simp] theorem State.spdmInSession_firm (s : State) (ep session : Nat) (body : State → Nat → State)
    (h : ∀ s n, (body s n).firm = s.firm) : (State.spdmInSession s ep session body).firm = s.firm := by
  unfold State.spdmInSession
  refine State.spdmServe_firm _ _ _ fun s => ?_
  split <;> simp [h]

@[simp] theorem execSpdmHeartbeat_firm (ep session : Nat) (s : State) :
    (stateAfter s (execSpdmHeartbeat ep session s)).firm = s.firm := by
  unfold execSpdmHeartbeat; rw [stateAfter_next]
  exact State.spdmInSession_firm _ _ _ _ fun s n => State.spdmSend_firm _ _ _ _

theorem State.relayReserve_someF (s : State) (a : Nat) (p : Packet) {t : State} (h : s.relayReserve a p = some t) :
    t.firm = s.firm := by
  unfold State.relayReserve at h; simp only [] at h; grind [State.modQuad_firm, State.modAccel_firm]

@[simp] theorem State.relayQueue_firm (s : State) (port : Nat) (pkt : Packet) :
    (State.relayQueue s port pkt).firm = s.firm := by
  simp [State.relayQueue]

@[simp] theorem State.relaySend_firm (s : State) (pkt : Packet) (k : KeyGens) :
    (State.relaySend s pkt k).firm = s.firm := by
  unfold State.relaySend; (repeat' split) <;> grind [State.relayQueue_firm, State.takeCounter_firm, State.sendOn_firm, State.pickOutput_firm, State.useEngine_firm]

@[simp] theorem execRelayUp_firm (a : Nat) (pkt : Packet) (s : State) :
    (stateAfter s (execRelayUp a pkt s)).firm = s.firm := by
  unfold execRelayUp; (repeat' split) <;> (try simp) <;> grind [State.askEngine_firm, → State.relayReserve_someF, State.attReject_firm, State.relaySend_firm]

@[simp] theorem State.faultAgain_firm (s : State) (port : Nat) (pasid : Option Nat) (pages : List Nat) :
    (State.faultAgain s port pasid pages).firm = s.firm := by
  simp [State.faultAgain]

@[simp] theorem execTranslationCompletion_firm (port : Nat) (request : Nat) (result : XlateEnd) (s : State) :
    (stateAfter s (execTranslationCompletion port request result s)).firm = s.firm := by
  unfold execTranslationCompletion; (repeat' split) <;> simp

@[simp] theorem execHeadRelax_firm (port : Nat) (s : State) :
    (stateAfter s (execHeadRelax port s)).firm = s.firm := by
  simp [execHeadRelax]

@[simp] theorem State.sessionUp_firm (s : State) (a : Nat) :
    (State.sessionUp s a).firm = s.firm := by
  simp [State.sessionUp]

@[simp] theorem State.attKeys_firm (s : State) (a : Nat) (secret : List Byte) :
    (State.attKeys s a secret).firm = s.firm := by
  simp [State.attKeys]

@[simp] theorem execAttSession_firm (a : Nat) (step : Nat) (ok : Bool) (data : List Byte) (s : State) :
    (stateAfter s (execAttSession a step ok data s)).firm = s.firm := by
  simp [execAttSession]

@[simp] theorem State.collCommit_keepsF (s : State) (p : Nat) (c : Schedule) (x3 : Instance) (step : Nat) (rank : Nat) (off : Nat) (b : List Byte) :
    (State.collCommit s p c x3 step rank off b).KeepsF s.firm := by
  unfold State.collCommit; simp only []; (repeat' split) <;> simp

theorem State.collCommit_doneF (s : State) (p : Nat) (c : Schedule) (x3 : Instance) (step : Nat) (rank : Nat) (off : Nat) (b : List Byte) {t : State}
    (h : State.collCommit s p c x3 step rank off b = .done t) : t.firm = s.firm := by
  have k := State.collCommit_keepsF s p c x3 step rank off b; rw [h] at k; exact k

theorem State.collCommit_waitF (s : State) (p : Nat) (c : Schedule) (x3 : Instance) (step : Nat) (rank : Nat) (off : Nat) (b : List Byte) {t : State}
    (h : State.collCommit s p c x3 step rank off b = .wait t) : t.firm = s.firm := by
  have k := State.collCommit_keepsF s p c x3 step rank off b; rw [h] at k; exact k

theorem State.collCommit_failF (s : State) (p : Nat) (c : Schedule) (x3 : Instance) (step : Nat) (rank : Nat) (off : Nat) (b : List Byte) {t : State} {n : Nat}
    (h : State.collCommit s p c x3 step rank off b = .fail t n) : t.firm = s.firm := by
  have k := State.collCommit_keepsF s p c x3 step rank off b; rw [h] at k; exact k

@[simp] theorem State.refuseUnlocked_firm (s : State) (q : Nat) (pkt : Packet) (noRecord : Bool) :
    (State.refuseUnlocked s q pkt noRecord).firm = s.firm := by
  simp [State.refuseUnlocked]

@[simp] theorem execPacketArrival_firm (quadrant : Nat) (port : Nat) (pkt : Packet) (s : State) :
    (stateAfter s (execPacketArrival quadrant port pkt s)).firm = s.firm := by
  unfold execPacketArrival; (repeat' split) <;> (try simp) <;> grind [State.cross_firm, State.note_firm, State.refuseUnlocked_firm, State.leaveInput_firm, State.headArrives_firm, State.arrive_firm, → State.collStray_someF]

@[simp] theorem State.sendHello_firm (s : State) (port : Nat) :
    (State.sendHello s port).firm = s.firm := by
  simp [State.sendHello]

@[simp] theorem execLoad_firm (k : Nat) (s : State) :
    (stateAfter s (execLoad k s)).firm = s.firm := by
  simp [execLoad]

@[simp] theorem execPwrCapWrite_firm (fn : Nat) (value : W32) (s : State) :
    (stateAfter s (execPwrCapWrite fn value s)).firm = s.firm := by
  simp [execPwrCapWrite]

@[simp] theorem execUnreachableTimeout_firm (quadrant : Nat) (msg : Nat) (s : State) :
    (stateAfter s (execUnreachableTimeout quadrant msg s)).firm = s.firm := by
  unfold execUnreachableTimeout; (repeat' split) <;> simp

@[simp] theorem State.closeInvalidation_firm (s : State) (port : Nat) (tag : Nat) :
    (State.closeInvalidation s port tag).firm = s.firm := by
  unfold State.closeInvalidation; (repeat' split) <;> simp

@[simp] theorem execInvalidationAck_firm (port : Nat) (tag : Nat) (engine : Nat) (s : State) :
    (stateAfter s (execInvalidationAck port tag engine s)).firm = s.firm := by
  unfold execInvalidationAck; (repeat' split) <;> simp

@[simp] theorem execTrigRead_firm (k : Nat) (s : State) :
    (stateAfter s (execTrigRead k s)).firm = s.firm := by
  simp [execTrigRead]

@[simp] theorem State.relayReply_firm (s : State) (a : Nat) (pkt : Packet) :
    (State.relayReply s a pkt).firm = s.firm := by
  simp [State.relayReply]

@[simp] theorem State.onReply_firm (s : State) (q op : Nat) (pkt : Packet) (f : State → Nat → Sender → State)
    (h : ∀ s m x, (f s m x).firm = s.firm) : (State.onReply s q op pkt f).firm = s.firm := by
  unfold State.onReply
  split
  · rename_i hd; exact State.replyDrop_someF _ _ _ _ hd
  · rw [State.openPacket_firm]
    intro s; (repeat' split) <;> simp [h]

@[simp] theorem State.deferCall_firm (s : State) (p : Nat) (id : W32) (caller : Nat × Nat) :
    (State.deferCall s p id caller).firm = s.firm := by
  simp [State.deferCall]

@[simp] theorem execColl_firm (k : Nat) (s : State) :
    (stateAfter s (execColl k s)).firm = s.firm := by
  unfold execColl; (repeat' split) <;> (try simp) <;> grind [State.failStep_firm, State.issueStep_firm, State.startInstance_firm, State.deferCall_firm, State.fly_firm]

@[simp] theorem execKeepAlive_firm (controller : Nat) (s : State) :
    (stateAfter s (execKeepAlive controller s)).firm = s.firm := by
  unfold execKeepAlive; (repeat' split) <;> simp

@[simp] theorem execLaneTrained_firm (port : Nat) (s : State) :
    (stateAfter s (execLaneTrained port s)).firm = s.firm := by
  simp [execLaneTrained]

@[simp] theorem execBiasFlip_firm (port : Nat) (page : Nat) (s : State) :
    (stateAfter s (execBiasFlip port page s)).firm = s.firm := by
  simp [execBiasFlip]

@[simp] theorem State.countDecrease_firm (s : State) (q : Nat) (event : Nat) :
    (State.countDecrease s q event).firm = s.firm := by
  simp [State.countDecrease]

@[simp] theorem State.ccReply_firm (s : State) (q : Nat) (dst : Nat) (pkt : Packet) :
    (State.ccReply s q dst pkt).firm = s.firm := by
  unfold State.ccReply; simp only []; (repeat' split) <;> simp

@[simp] theorem State.storeResult_firm (s : State) (o : MsgOwner) (v : W64) :
    (State.storeResult s o v).firm = s.firm := by
  unfold State.storeResult; (repeat' split) <;> simp

@[simp] theorem execAck_firm (quadrant : Nat) (pkt : Packet) (s : State) :
    (stateAfter s (execAck quadrant pkt s)).firm = s.firm := by
  simp [execAck]

@[simp] theorem State.recordRead_firm (s : State) (k : Nat) (slot : Nat) (t : Step) :
    (State.recordRead s k slot t).firm = s.firm := by
  simp [State.recordRead]

@[simp] theorem State.startJob_firm (s : State) (k : Nat) (g : Nat) (r : Running) (f : Flight) (l : List Byte) :
    (State.startJob s k g r f l).firm = s.firm := by
  simp [State.startJob]

@[simp] theorem State.gemm_firm (s : State) (k : Nat) (g : Nat) (r : Running) (f : Flight) :
    (State.gemm s k g r f).firm = s.firm := by
  unfold State.gemm; (repeat' split) <;> grind [→ State.localRead_waitF, → State.localRead_failF, State.endFlight_firm, State.recordRead_firm, State.startJob_firm]

@[simp] theorem execXformGemm_firm (k : Nat) (g : Nat) (s : State) :
    (stateAfter s (execXformGemm k g s)).firm = s.firm := by
  unfold execXformGemm; (repeat' split) <;> (try simp) <;> grind [State.failStep_firm, State.modRun_firm, State.issueStep_firm, State.gemm_firm, State.modFlight_firm, State.fly_firm, State.openRange_firm]

@[simp] theorem State.startDeferred_firm (s : State) (p : Nat) (id : W32) (mt : Nat) :
    (State.startDeferred s p id mt).firm = s.firm := by
  unfold State.startDeferred; (repeat' split) <;> simp

@[simp] theorem execWidthReq_firm (port : Nat) (lanes : Nat) (outBusy : Nat) (inBusy : Nat) (heldUs : Nat) (s : State) :
    (stateAfter s (execWidthReq port lanes outBusy inBusy heldUs s)).firm = s.firm := by
  simp [execWidthReq]

@[simp] theorem execCodewordLock_firm (port : Nat) (s : State) :
    (stateAfter s (execCodewordLock port s)).firm = s.firm := by
  simp [execCodewordLock]

@[simp] theorem execSchedulerRound_firm (quadrant : Nat) (s : State) :
    (stateAfter s (execSchedulerRound quadrant s)).firm = s.firm := by
  simp [execSchedulerRound]

@[simp] theorem execControlFlitTimeout_firm (port : Nat) (s : State) :
    (stateAfter s (execControlFlitTimeout port s)).firm = s.firm := by
  simp [execControlFlitTimeout]

@[simp] theorem execFinish_firm (ep : Nat) (session : Nat) (macOk : Bool) (s : State) :
    (stateAfter s (execFinish ep session macOk s)).firm = s.firm := by
  unfold execFinish; (repeat' split) <;> (try simp) <;> grind [State.modSpdm_firm, State.spdmSend_firm, State.spdmFail_firm, State.spdmServe_firm]

@[simp] theorem execSack_firm (quadrant : Nat) (pkt : Packet) (s : State) :
    (stateAfter s (execSack quadrant pkt s)).firm = s.firm := by
  simp [execSack]

@[simp] theorem execEndSession_firm (ep : Nat) (session : Nat) (s : State) :
    (stateAfter s (execEndSession ep session s)).firm = s.firm := by
  simp [execEndSession]

@[simp] theorem State.attCommitted_firm (s : State) (q : Nat) (c : RxCopy) (status : Nat) :
    (State.attCommitted s q c status).firm = s.firm := by
  unfold State.attCommitted; (repeat' split) <;> simp

@[simp] theorem execMemWriteDone_firm (a : Nat) (tag : Nat) (status : Nat) (s : State) :
    (stateAfter s (execMemWriteDone a tag status s)).firm = s.firm := by
  unfold execMemWriteDone; simp only []; (repeat' split) <;> simp

@[simp] theorem State.connectFrames_firm (s : State) (i : Nat) (x2 : Controller) :
    (State.connectFrames s i x2).firm = s.firm := by
  simp [State.connectFrames]

@[simp] theorem execPerstNDeassertion_firm (port : Nat) (s : State) :
    (stateAfter s (execPerstNDeassertion port s)).firm = s.firm := by
  simp [execPerstNDeassertion]

@[simp] theorem execHdmDecoderUncommit_firm (port : Nat) (s : State) :
    (stateAfter s (execHdmDecoderUncommit port s)).firm = s.firm := by
  simp [execHdmDecoderUncommit]

@[simp] theorem execExit_firm (k : Nat) (s : State) :
    (stateAfter s (execExit k s)).firm = s.firm := by
  simp [execExit]

@[simp] theorem State.ringDoorbell_firm (s : State) (a : Nat) (p : Nat) (index : Nat) (value : W64) :
    (State.ringDoorbell s a p index value).firm = s.firm := by
  unfold State.ringDoorbell; (repeat' split) <;> simp

@[simp] theorem execDoorbell_firm (k : Nat) (s : State) :
    (stateAfter s (execDoorbell k s)).firm = s.firm := by
  simp [execDoorbell]

@[simp] theorem execPredEq_firm (k : Nat) (s : State) :
    (stateAfter s (execPredEq k s)).firm = s.firm := by
  simp [execPredEq]

@[simp] theorem State.chargeOut_firm (s : State) (x1 : Sender) (k : Nat) (x3 : Option Nat) :
    (State.chargeOut s x1 k x3).firm = s.firm := by
  unfold State.chargeOut; (repeat' split) <;> simp

@[simp] theorem execGetDigests_firm (ep : Nat) (s : State) :
    (stateAfter s (execGetDigests ep s)).firm = s.firm := by
  simp [execGetDigests]

@[simp] theorem State.messageRead_firm (s : State) (p : Nat) :
    (State.messageRead s p).firm = s.firm := by
  simp [State.messageRead]

@[simp] theorem State.enterSession_firm (s : State) (port : Nat) (a : Nat) (m : Hello) :
    (State.enterSession s port a m).firm = s.firm := by
  simp [State.enterSession]

@[simp] theorem execHello_firm (port : Nat) (msg : Hello) (s : State) :
    (stateAfter s (execHello port msg s)).firm = s.firm := by
  unfold execHello; simp only []; (repeat' split) <;> simp

@[simp] theorem execGetCertificate_firm (ep : Nat) (slot : Nat) (offset : Nat) (length : Nat) (s : State) :
    (stateAfter s (execGetCertificate ep slot offset length s)).firm = s.firm := by
  simp [execGetCertificate]

@[simp] theorem execCnp_firm (qp : Nat) (s : State) : (stateAfter s (execCnp qp s)).firm = s.firm := by
  unfold execCnp; rw [stateAfter_next]; split
  · rfl
  · rename_i h
    obtain ⟨q, _, hq⟩ := Option.bind_eq_some_iff.mp h
    simpa using State.takeFrame_someF _ _ _ hq

@[simp] theorem execP2pEnable_firm (fn : Nat) (a : Nat) (value : W64) (s : State) :
    (stateAfter s (execP2pEnable fn a value s)).firm = s.firm := by
  simp [execP2pEnable]

@[simp] theorem State.jobRead_keepsF (s : State) (x1 : GratJob) (f : Flight) (buf : Nat) (a : W64) (off : Nat) (len : Nat) :
    (State.jobRead s x1 f buf a off len).KeepsF s.firm := by
  simp [State.jobRead]

theorem State.jobRead_waitF (s : State) (x1 : GratJob) (f : Flight) (buf : Nat) (a : W64) (off : Nat) (len : Nat) {t : State}
    (h : State.jobRead s x1 f buf a off len = .wait t) : t.firm = s.firm := by
  have k := State.jobRead_keepsF s x1 f buf a off len; rw [h] at k; exact k

theorem State.jobRead_failF (s : State) (x1 : GratJob) (f : Flight) (buf : Nat) (a : W64) (off : Nat) (len : Nat) {t : State} {n : Nat}
    (h : State.jobRead s x1 f buf a off len = .fail t n) : t.firm = s.firm := by
  have k := State.jobRead_keepsF s x1 f buf a off len; rw [h] at k; exact k

@[simp] theorem execTagVerify_firm (quadrant : Nat) (copy : Nat) (trailer : List Byte) (s : State) :
    (stateAfter s (execTagVerify quadrant copy trailer s)).firm = s.firm := by
  unfold execTagVerify; (repeat' split) <;> simp

theorem State.jobVector_waitF (s : State) (x : GratJob) (f : Flight) (i : Nat) {t : State}
    (h : s.jobVector x f i = .inl (.wait t)) : t.firm = s.firm := by
  unfold State.jobVector at h; simp only [] at h; grind [→ State.jobRead_waitF]

theorem State.jobVector_failF (s : State) (x : GratJob) (f : Flight) (i : Nat) {t : State} {n : Nat}
    (h : s.jobVector x f i = .inl (.fail t n)) : t.firm = s.firm := by
  unfold State.jobVector at h; simp only [] at h; grind [→ State.jobRead_failF]

@[simp] theorem execDrrRound_firm (port : Nat) (robin : Nat) (s : State) :
    (stateAfter s (execDrrRound port robin s)).firm = s.firm := by
  simp [execDrrRound]

@[simp] theorem execAdd32_firm (queue : Nat) (index : W32) (s : State) :
    (stateAfter s (execAdd32 queue index s)).firm = s.firm := by
  simp [execAdd32]

@[simp] theorem State.repick_firm (s : State) (p : Nat) (id : W32) (ports : List Nat) :
    (State.repick s p id ports).firm = s.firm := by
  simp [State.repick]

@[simp] theorem execAttachTimeout_firm (a : Nat) (tag : Nat) (s : State) :
    (stateAfter s (execAttachTimeout a tag s)).firm = s.firm := by
  unfold execAttachTimeout; (repeat' split) <;> simp

@[simp] theorem execRecordExpiry_firm (quadrant : Nat) (key : MsgKey) (s : State) :
    (stateAfter s (execRecordExpiry quadrant key s)).firm = s.firm := by
  unfold execRecordExpiry; (repeat' split) <;> simp

@[simp] theorem execFrameLeaveBuffer_firm (port : Nat) (s : State) :
    (stateAfter s (execFrameLeaveBuffer port s)).firm = s.firm := by
  unfold execFrameLeaveBuffer; (repeat' split) <;> simp

@[simp] theorem State.answerGroup_firm (s : State) (port : Nat) (group : Nat) :
    (State.answerGroup s port group).firm = s.firm := by
  simp [State.answerGroup]

@[simp] theorem execRetireMapWrite_firm (s : State) :
    (stateAfter s (execRetireMapWrite s)).firm = s.firm := by
  simp [execRetireMapWrite]

@[simp] theorem execSlotRefetch_firm (queue : Nat) (s : State) :
    (stateAfter s (execSlotRefetch queue s)).firm = s.firm := by
  unfold execSlotRefetch; (repeat' split) <;> simp

@[simp] theorem State.takeSeq_firm (s : State) (x1 : Sender) :
    (State.takeSeq s x1).2.firm = s.firm := by
  simp [State.takeSeq]

@[simp] theorem State.transmit_firm (s : State) (q : Nat) (m : Nat) (x3 : Sender) (k : Nat) (b : List Byte) (port : Option Nat) (busyPercent : Nat) :
    (State.transmit s q m x3 k b port busyPercent).firm = s.firm := by
  unfold State.transmit; simp only []; (repeat' split) <;> simp

@[simp] theorem State.scrubBad_firm (s : State) (l : Bool × Nat) :
    (State.scrubBad s l).firm = s.firm := by
  unfold State.scrubBad; (repeat' split) <;> simp

@[simp] theorem State.scrub_firm (s : State) (l : Bool × Nat) (again : Nat → Bool) :
    (State.scrub s l again).firm = s.firm := by
  simp [State.scrub]

@[simp] theorem State.refuseRead_firm (s : State) (fn : Nat) :
    (State.refuseRead s fn).firm = s.firm := by
  simp [State.refuseRead]

@[simp] theorem State.startKeySession_firm (s : State) (p : Nat) :
    (State.startKeySession s p).firm = s.firm := by
  simp [State.startKeySession]

theorem State.jobData_errorF (s : State) (x : GratJob) (f : Flight) {t : State} {n : Nat}
    (h : s.jobData x f = some (.error (t, n))) : t.firm = s.firm := by
  unfold State.jobData at h; simp only [] at h; grind [→ State.jobRead_failF]

@[simp] theorem State.launch_firm (s : State) (k : Nat) (slot : Nat) (op : Nat) (n : Nat) :
    (State.launch s k slot op n).firm = s.firm := by
  simp [State.launch]

@[simp] theorem execFetchRemote_firm (k : Nat) (s : State) :
    (stateAfter s (execFetchRemote k s)).firm = s.firm := by
  simp [execFetchRemote]

@[simp] theorem State.moveRegion_firm (s : State) (lpddr : Bool) (region : Nat) (i : Nat) (leg : Nat) :
    (State.moveRegion s lpddr region i leg).firm = s.firm := by
  unfold State.moveRegion; simp only []; (repeat' split) <;> simp

@[simp] theorem execMigrationRetry_firm (placement : Nat) (leg : Nat) (s : State) :
    (stateAfter s (execMigrationRetry placement leg s)).firm = s.firm := by
  unfold execMigrationRetry; (repeat' split) <;> simp

@[simp] theorem execNegotiateAlgorithms_firm (ep : Nat) (falcon : Bool) (shake : Bool) (mlkem : Bool) (aesGcm : Bool) (s : State) :
    (stateAfter s (execNegotiateAlgorithms ep falcon shake mlkem aesGcm s)).firm = s.firm := by
  simp [execNegotiateAlgorithms]

@[simp] theorem execQpAckTimeout_firm (qp : Nat) (s : State) :
    (stateAfter s (execQpAckTimeout qp s)).firm = s.firm := by
  unfold execQpAckTimeout; (repeat' split) <;> simp

@[simp] theorem execTrigAdd_firm (k : Nat) (s : State) :
    (stateAfter s (execTrigAdd k s)).firm = s.firm := by
  simp [execTrigAdd]

@[simp] theorem execRead_firm (queue : Nat) (index : W32) (s : State) :
    (stateAfter s (execRead queue index s)).firm = s.firm := by
  simp [execRead]

@[simp] theorem execFetchLocal_firm (k : Nat) (s : State) :
    (stateAfter s (execFetchLocal k s)).firm = s.firm := by
  simp [execFetchLocal]

@[simp] theorem execCxlMemEnable_firm (port : Nat) (on : Bool) (s : State) :
    (stateAfter s (execCxlMemEnable port on s)).firm = s.firm := by
  simp [execCxlMemEnable]

@[simp] theorem execTimeReq_firm (port : Nat) (_stamp : W64) (s : State) :
    (stateAfter s (execTimeReq port _stamp s)).firm = s.firm := by
  simp [execTimeReq]

@[simp] theorem execCas32_firm (queue : Nat) (index : W32) (s : State) :
    (stateAfter s (execCas32 queue index s)).firm = s.firm := by
  simp [execCas32]

@[simp] theorem execSetAdd_firm (k : Nat) (s : State) :
    (stateAfter s (execSetAdd k s)).firm = s.firm := by
  simp [execSetAdd]

@[simp] theorem execPfcFrame_firm (port : Nat) (priorities : List (Nat × Nat)) (s : State) :
    (stateAfter s (execPfcFrame port priorities s)).firm = s.firm := by
  simp [execPfcFrame]

@[simp] theorem execQueRestart_firm (fn : Nat) (slot : Nat) (value : W32) (s : State) :
    (stateAfter s (execQueRestart fn slot value s)).firm = s.firm := by
  simp [execQueRestart]

@[simp] theorem execNoLeave_firm (request : Nat) (s : State) :
    (stateAfter s (execNoLeave request s)).firm = s.firm := by
  unfold execNoLeave; (repeat' split) <;> simp

@[simp] theorem execQueueSample_firm (s : State) :
    (stateAfter s (execQueueSample s)).firm = s.firm := by
  simp [execQueueSample]

@[simp] theorem execGetMeasurements_firm (ep : Nat) (index : Nat) (sign : Bool) (nonce : BitVec 256) (s : State) :
    (stateAfter s (execGetMeasurements ep index sign nonce s)).firm = s.firm := by
  unfold execGetMeasurements; (repeat' split) <;> simp

@[simp] theorem State.ccHalve_firm (s : State) (q : Nat) (dst : Nat) (event : Nat) :
    (State.ccHalve s q dst event).firm = s.firm := by
  unfold State.ccHalve; (repeat' split) <;> simp

@[simp] theorem execNak_firm (quadrant : Nat) (pkt : Packet) (s : State) :
    (stateAfter s (execNak quadrant pkt s)).firm = s.firm := by
  simp [execNak]

theorem State.takeFrames_someF (s : State) (port : Nat) (kind : FrameKind) {t : State}
    (h : State.takeFrames s port kind = some t) : t.firm = s.firm := by
  unfold State.takeFrames at h; grind [State.modPort_firm, State.modQuad_firm]

@[simp] theorem execNvmeCompletion_firm (controller : Nat) (command : Nat) (status : Nat) (data : List Byte) (s : State) :
    (stateAfter s (execNvmeCompletion controller command status data s)).firm = s.firm := by
  unfold execNvmeCompletion; simp only [stateAfter_next]; (repeat' split) <;> (try simp) <;> grind [State.modCtl_firm, State.pumpBound_firm, State.completeHeld_firm, → State.takeFrames_someF]

@[simp] theorem execPredLt_firm (k : Nat) (s : State) :
    (stateAfter s (execPredLt k s)).firm = s.firm := by
  simp [execPredLt]

@[simp] theorem execPageRequestTimeout_firm (port : Nat) (group : Nat) (s : State) :
    (stateAfter s (execPageRequestTimeout port group s)).firm = s.firm := by
  unfold execPageRequestTimeout; (repeat' split) <;> simp

@[simp] theorem execFrameReceive_firm (port : Nat) (frame : Frame) (s : State) :
    (stateAfter s (execFrameReceive port frame s)).firm = s.firm := by
  simp [execFrameReceive]

@[simp] theorem State.sendStep_firm (s : State) (k : Nat) (r : Running) (t : Step) :
    (State.sendStep s k r t).firm = s.firm := by
  simp [State.sendStep]

@[simp] theorem execSendWrite_firm (k : Nat) (s : State) :
    (stateAfter s (execSendWrite k s)).firm = s.firm := by
  simp [execSendWrite]

@[simp] theorem State.retireNow_firm (s : State) (lpddr : Bool) (region : Nat) :
    (State.retireNow s lpddr region).firm = s.firm := by
  simp [State.retireNow]

@[simp] theorem execRegionRetire_firm (lpddr : Bool) (region : Nat) (s : State) :
    (stateAfter s (execRegionRetire lpddr region s)).firm = s.firm := by
  unfold execRegionRetire; simp only []; (repeat' split) <;> simp

@[simp] theorem execNeighborSolicitation_firm (port : Nat) (target : BitVec 128) (senderMac : BitVec 48) (s : State) :
    (stateAfter s (execNeighborSolicitation port target senderMac s)).firm = s.firm := by
  simp [execNeighborSolicitation]

@[simp] theorem execKbxExpiry_firm (s : State) :
    (stateAfter s (execKbxExpiry s)).firm = s.firm := by
  simp [execKbxExpiry]

@[simp] theorem execReadResp_firm (quadrant : Nat) (pkt : Packet) (s : State) :
    (stateAfter s (execReadResp quadrant pkt s)).firm = s.firm := by
  simp [execReadResp]

@[simp] theorem execKeyUpdate_firm (ep : Nat) (session : Nat) (op : Nat) (s : State) :
    (stateAfter s (execKeyUpdate ep session op s)).firm = s.firm := by
  simp [execKeyUpdate]

@[simp] theorem execPowerAverageUpdate_firm (milliwatts : Nat) (s : State) :
    (stateAfter s (execPowerAverageUpdate milliwatts s)).firm = s.firm := by
  simp [execPowerAverageUpdate]

@[simp] theorem execChannelPowerDown_firm (c : Nat) (s : State) :
    (stateAfter s (execChannelPowerDown c s)).firm = s.firm := by
  simp [execChannelPowerDown]

@[simp] theorem execCapEffecter_firm (sustained : Bool) (watts : Nat) (s : State) :
    (stateAfter s (execCapEffecter sustained watts s)).firm = s.firm := by
  simp [execCapEffecter]

@[simp] theorem execWaitTrigTake_firm (k : Nat) (s : State) :
    (stateAfter s (execWaitTrigTake k s)).firm = s.firm := by
  simp [execWaitTrigTake]

@[simp] theorem execPreCopyPassEnd_firm (placement : Nat) (leg : Nat) (s : State) :
    (stateAfter s (execPreCopyPassEnd placement leg s)).firm = s.firm := by
  unfold execPreCopyPassEnd; (repeat' split) <;> simp

@[simp] theorem execGetVersion_firm (ep : Nat) (s : State) :
    (stateAfter s (execGetVersion ep s)).firm = s.firm := by
  simp [execGetVersion]

@[simp] theorem State.reissueReads_firm (s : State) (port : Nat) :
    (State.reissueReads s port).firm = s.firm := by
  simp [State.reissueReads]

@[simp] theorem State.linkReturns_firm (s : State) (port : Nat) :
    (State.linkReturns s port).firm = s.firm := by
  simp [State.linkReturns]

@[simp] theorem execSendAdd64_firm (k : Nat) (s : State) :
    (stateAfter s (execSendAdd64 k s)).firm = s.firm := by
  simp [execSendAdd64]

@[simp] theorem State.moveJob_firm (s : State) (g : Nat) (h : Nat) :
    (State.moveJob s g h).firm = s.firm := by
  unfold State.moveJob; (repeat' split) <;> simp

@[simp] theorem execNop_firm (queue : Nat) (index : W32) (s : State) :
    (stateAfter s (execNop queue index s)).firm = s.firm := by
  unfold execNop; (repeat' split) <;> simp

@[simp] theorem execWaitTime_firm (k : Nat) (s : State) :
    (stateAfter s (execWaitTime k s)).firm = s.firm := by
  simp [execWaitTime]

@[simp] theorem execTrigSet_firm (k : Nat) (s : State) :
    (stateAfter s (execTrigSet k s)).firm = s.firm := by
  simp [execTrigSet]

@[simp] theorem State.copyLines_firm (s : State) (i : Nat) (leg : Nat) :
    (State.copyLines s i leg).firm = s.firm := by
  unfold State.copyLines; (repeat' (first | rfl | split | (refine (firm_foldl _ _ _ ?_).trans ?_; intros) | simp))

@[simp] theorem execCutOver_firm (placement : Nat) (leg : Nat) (s : State) :
    (stateAfter s (execCutOver placement leg s)).firm = s.firm := by
  unfold execCutOver; (repeat' split) <;> simp

@[simp] theorem execPfcPauseExpiry_firm (port : Nat) (priority : Nat) (s : State) :
    (stateAfter s (execPfcPauseExpiry port priority s)).firm = s.firm := by
  simp [execPfcPauseExpiry]

@[simp] theorem execInvalidateRequest_firm (port : Nat) (tag : Nat) (base : Nat) (length : Nat) (pasid : Option Nat) (global : Bool) (s : State) :
    (stateAfter s (execInvalidateRequest port tag base length pasid global s)).firm = s.firm := by
  simp [execInvalidateRequest]

theorem State.bulkReadObject_okF (s : State) (fn p k o : Nat) {t : State} {l : List Byte}
    (h : s.bulkReadObject fn p k o = .ok (l, t)) : t.firm = s.firm := by
  unfold State.bulkReadObject at h; simp only [] at h; grind [State.startKeySession_firm]

@[simp] theorem State.installRoot_firm (s : State) (p : Nat) (owner : List Byte) (root : List Byte) :
    (State.installRoot s p owner root).state.firm = s.firm := by
  simp [State.installRoot]

@[simp] theorem execThermalWarning_firm (what : Thermal) (celsius : Nat) (s : State) :
    (stateAfter s (execThermalWarning what celsius s)).firm = s.firm := by
  simp [execThermalWarning]

@[simp] theorem execGetCapabilities_firm (ep : Nat) (version : Nat) (s : State) :
    (stateAfter s (execGetCapabilities ep version s)).firm = s.firm := by
  simp [execGetCapabilities]

@[simp] theorem execGateListTakeover_firm (port : Nat) (s : State) :
    (stateAfter s (execGateListTakeover port s)).firm = s.firm := by
  unfold execGateListTakeover; simp only []; (repeat' split) <;> simp

@[simp] theorem execMemReadData_firm (a : Nat) (tag : Nat) (status : Nat) (data : List Byte) (s : State) :
    (stateAfter s (execMemReadData a tag status data s)).firm = s.firm := by
  unfold execMemReadData; simp only []; (repeat' split) <;> simp

@[simp] theorem execRetransmitTimeout_firm (quadrant : Nat) (msg : Nat) (s : State) :
    (stateAfter s (execRetransmitTimeout quadrant msg s)).firm = s.firm := by
  unfold execRetransmitTimeout; (repeat' split) <;> simp

@[simp] theorem State.answerRead_firm (s : State) (fn : Nat) (v : Nat) :
    (State.answerRead s fn v).firm = s.firm := by
  simp [State.answerRead]

@[simp] theorem execPredNe_firm (k : Nat) (s : State) :
    (stateAfter s (execPredNe k s)).firm = s.firm := by
  simp [execPredNe]

@[simp] theorem execBiasGo_firm (fn : Nat) (value : W32) (s : State) :
    (stateAfter s (execBiasGo fn value s)).firm = s.firm := by
  simp [execBiasGo]

@[simp] theorem State.failJob_firm (s : State) (g : Nat) (x2 : GratJob) :
    (State.failJob s g x2).firm = s.firm := by
  simp [State.failJob]

@[simp] theorem State.streamJob_keepsF (s : State) (g : Nat) (d : JobData) (b : Option Nat) (n : Nat) :
    (State.streamJob s g d b n).KeepsF s.firm := by
  induction n generalizing s with
  | zero => simp [State.streamJob]
  | succ n ih =>
    have ih' : ∀ u, u.firm = s.firm → (State.streamJob u g d b n).KeepsF s.firm := fun u hu => hu ▸ ih u
    unfold State.streamJob
    (repeat' split) <;> (try simp only []) <;> (repeat' split) <;> (try simp) <;> grind [Stream.KeepsF, → State.jobVector_waitF, → State.jobVector_failF, → State.takeVector_failF, → State.takeVector_waitF, → State.takeVector_doneF, State.modGrat_firm, State.countFor_firm]

theorem State.streamJob_doneF (s : State) (g : Nat) (d : JobData) (b : Option Nat) (n : Nat) {t : State}
    (h : State.streamJob s g d b n = .done t) : t.firm = s.firm := by
  have k := State.streamJob_keepsF s g d b n; rw [h] at k; exact k

theorem State.streamJob_waitF (s : State) (g : Nat) (d : JobData) (b : Option Nat) (n : Nat) {t : State}
    (h : State.streamJob s g d b n = .wait t) : t.firm = s.firm := by
  have k := State.streamJob_keepsF s g d b n; rw [h] at k; exact k

theorem State.streamJob_checkF (s : State) (g : Nat) (d : JobData) (b : Option Nat) (n : Nat) {t : State} {v : Nat}
    (h : State.streamJob s g d b n = .check t v) : t.firm = s.firm := by
  have k := State.streamJob_keepsF s g d b n; rw [h] at k; exact k

theorem State.streamJob_failF (s : State) (g : Nat) (d : JobData) (b : Option Nat) (n : Nat) {t : State} {v : Nat}
    (h : State.streamJob s g d b n = .fail t v) : t.firm = s.firm := by
  have k := State.streamJob_keepsF s g d b n; rw [h] at k; exact k

@[simp] theorem State.scoresEnd_firm (s : State) (g : Nat) :
    (State.scoresEnd s g).firm = s.firm := by
  unfold State.scoresEnd; simp only []; (repeat' split) <;> simp

@[simp] theorem execGraticuleJobEnd_firm (g : Nat) (checkFailed : Option Nat) (s : State) :
    (stateAfter s (execGraticuleJobEnd g checkFailed s)).firm = s.firm := by
  unfold execGraticuleJobEnd; simp only [stateAfter_next]; (repeat' split) <;> (try simp) <;> grind [State.failJob_firm, State.stopJobs_firm, State.modGrat_firm, → State.streamJob_doneF, → State.streamJob_waitF, → State.streamJob_checkF, → State.streamJob_failF, → State.jobData_errorF, State.endJob_firm, State.scoresEnd_firm]

@[simp] theorem State.payload_keepsF (s : State) (x1 : Sender) (k : Nat) :
    (State.payload s x1 k).KeepsF s.firm := by
  unfold State.payload; (repeat' split) <;> simp

theorem State.payload_waitF (s : State) (x1 : Sender) (k : Nat) {t : State}
    (h : State.payload s x1 k = .wait t) : t.firm = s.firm := by
  have k := State.payload_keepsF s x1 k; rw [h] at k; exact k

theorem State.payload_failF (s : State) (x1 : Sender) (k : Nat) {t : State} {n : Nat}
    (h : State.payload s x1 k = .fail t n) : t.firm = s.firm := by
  have k := State.payload_keepsF s x1 k; rw [h] at k; exact k

@[simp] theorem execPacketTransmit_firm (quadrant : Nat) (msg : Nat) (index : Nat) (port : Nat) (busyPercent : Nat) (s : State) :
    (stateAfter s (execPacketTransmit quadrant msg index port busyPercent s)).firm = s.firm := by
  unfold execPacketTransmit; (repeat' split) <;> (try simp) <;> grind [State.askEngine_firm, State.tintPort_firm, State.msgEnded_firm, State.transmit_firm, → State.payload_waitF, → State.payload_failF, State.chargeOut_firm]

@[simp] theorem State.writeBar2_firm (s : State) (fn : Nat) (o : Nat) (width : Nat) (v : Nat) :
    (State.writeBar2 s fn o width v).firm = s.firm := by
  simp [State.writeBar2]

@[simp] theorem execKbxBlockDone_firm (s : State) :
    (stateAfter s (execKbxBlockDone s)).firm = s.firm := by
  simp [execKbxBlockDone]

@[simp] theorem execThermalThrottle_firm (what : Thermal) (celsius : Nat) (s : State) :
    (stateAfter s (execThermalThrottle what celsius s)).firm = s.firm := by
  simp [execThermalThrottle]

@[simp] theorem execWaitWordGe_firm (k : Nat) (s : State) :
    (stateAfter s (execWaitWordGe k s)).firm = s.firm := by
  simp [execWaitWordGe]

@[simp] theorem execSendWriteFlag_firm (k : Nat) (s : State) :
    (stateAfter s (execSendWriteFlag k s)).firm = s.firm := by
  simp [execSendWriteFlag]

@[simp] theorem execCxlCacheLineGrant_firm (port : Nat) (line : Nat) (owned : Bool) (s : State) :
    (stateAfter s (execCxlCacheLineGrant port line owned s)).firm = s.firm := by
  simp [execCxlCacheLineGrant]

@[simp] theorem State.strike_firm (s : State) (l : List (Nat × Bool × Nat)) :
    (State.strike s l).firm = s.firm := by
  simp [State.strike]

@[simp] theorem execPatrolScrub_firm (line : Nat) (upsets : List (Nat × Bool × Nat)) (s : State) :
    (stateAfter s (execPatrolScrub line upsets s)).firm = s.firm := by
  simp [execPatrolScrub]

@[simp] theorem execGraticuleSelfTestEnd_firm (g : Nat) (passed : Bool) (s : State) :
    (stateAfter s (execGraticuleSelfTestEnd g passed s)).firm = s.firm := by
  simp [execGraticuleSelfTestEnd]

@[simp] theorem execBackstopRelease_firm (milliwatts : Nat) (s : State) :
    (stateAfter s (execBackstopRelease milliwatts s)).firm = s.firm := by
  simp [execBackstopRelease]

@[simp] theorem execKernelStart_firm (queue : Nat) (index : W32) (sequencer : Nat) (s : State) :
    (stateAfter s (execKernelStart queue index sequencer s)).firm = s.firm := by
  unfold execKernelStart; (repeat' split) <;> simp

@[simp] theorem execFlashWpNChange_firm (high : Bool) (s : State) :
    (stateAfter s (execFlashWpNChange high s)).firm = s.firm := by
  simp [execFlashWpNChange]

@[simp] theorem execCheckRepeat_firm (g : Nat) (passed : Bool) (s : State) :
    (stateAfter s (execCheckRepeat g passed s)).firm = s.firm := by
  unfold execCheckRepeat; simp only [stateAfter_next]; (repeat' split) <;> (try simp) <;> grind [State.failJob_firm, → State.takeVector_doneF, → State.takeVector_waitF, → State.takeVector_failF, State.modGrat_firm, → State.jobData_errorF, State.countFor_firm, → State.jobVector_waitF, → State.jobVector_failF, State.endJob_firm]

@[simp] theorem execRetainEnd_firm (s : State) :
    (stateAfter s (execRetainEnd s)).firm = s.firm := by
  simp [execRetainEnd]

@[simp] theorem execMigrationStart_firm (placement : Nat) (leg : Nat) (reason : MigrateReason) (lpddr : Bool) (quadrant : Nat) (heat : Heat) (s : State) :
    (stateAfter s (execMigrationStart placement leg reason lpddr quadrant heat s)).firm = s.firm := by
  simp [execMigrationStart]

@[simp] theorem execSramScrub_firm (line : Nat) (upsets : List (Nat × Bool × Nat)) (s : State) :
    (stateAfter s (execSramScrub line upsets s)).firm = s.firm := by
  simp [execSramScrub]

@[simp] theorem execKeepalive_firm (port : Nat) (s : State) :
    (stateAfter s (execKeepalive port s)).firm = s.firm := by
  simp [execKeepalive]

@[simp] theorem execCas64_firm (queue : Nat) (index : W32) (s : State) :
    (stateAfter s (execCas64 queue index s)).firm = s.firm := by
  simp [execCas64]

@[simp] theorem execHeartbeat_firm (pkt : Packet) (s : State) :
    (stateAfter s (execHeartbeat pkt s)).firm = s.firm := by
  unfold execHeartbeat; simp only [stateAfter_next]; (repeat' split) <;> (try simp) <;> grind [State.openPacket_firm, State.note_firm, State.refuseUnlocked_firm, State.modJob_firm]

@[simp] theorem State.settleOwner_firm (s : State) (o : TileOwner) :
    (State.settleOwner s o).firm = s.firm := by
  unfold State.settleOwner; (repeat' split) <;> simp

@[simp] theorem State.withFetchWord_firm (s : State) (nbits : Nat) (w : Nat) :
    (State.withFetchWord s nbits w).firm = s.firm := by
  unfold State.withFetchWord; (repeat' split) <;> simp

end Sys2Proof.Machine
end

