-- ==== Sys2Proof/Laws/State.lean ====
section
/-!
SUPPORT. Laws/State.lean: one lemma for each field under each named update of the state, all by computation, and what a
sparse table answers after a row is put in or taken out.
-/

namespace Sys2Proof.Machine

@[simp] theorem tblGet_set_same {α : Type} (t : Table α) (k : Nat) (v : α) : tblGet (tblSet t k v) k = some v := by
  induction t with
  | nil => simp [tblSet, tblGet]
  | cons h t ih => obtain ⟨i, x⟩ := h; simp only [tblSet]; (repeat' split) <;> simp_all [tblGet]; grind

theorem tblGet_set_other {α : Type} (t : Table α) {j k : Nat} (v : α) (h : j ≠ k) :
    tblGet (tblSet t k v) j = tblGet t j := by
  induction t with
  | nil => simp [tblSet, tblGet, Ne.symm h]
  | cons a t ih => obtain ⟨i, x⟩ := a; simp only [tblSet]; (repeat' split) <;> simp_all [tblGet, Ne.symm h]; grind

@[simp] theorem tblGetD_set_same {α : Type} (t : Table α) (k : Nat) (v d : α) : tblGetD (tblSet t k v) k d = v := by
  simp [tblGetD]

theorem tblGetD_set_other {α : Type} (t : Table α) {j k : Nat} (v d : α) (h : j ≠ k) :
    tblGetD (tblSet t k v) j d = tblGetD t j d := by simp [tblGetD, tblGet_set_other t v h]

@[simp] theorem tblGet_erase_same {α : Type} (t : Table α) (k : Nat) : tblGet (tblErase t k) k = none := by
  induction t with
  | nil => rfl
  | cons h t ih => obtain ⟨i, x⟩ := h; by_cases e : i = k <;> simp_all [tblErase, tblGet]

theorem tblGet_erase_other {α : Type} (t : Table α) {j k : Nat} (h : j ≠ k) : tblGet (tblErase t k) j = tblGet t j := by
  induction t with
  | nil => rfl
  | cons a t ih =>
    obtain ⟨i, x⟩ := a
    by_cases e : i = k
    · subst e; simp_all [tblErase, tblGet, Ne.symm h]
    · by_cases e' : i = j <;> simp_all [tblErase, tblGet]

@[simp] theorem State.modFunc_same (s : State) (f : Nat) (g : Func → Func) : (s.modFunc f g).func f = g (s.func f) := by
  simp [State.func, State.modFunc]

theorem State.modFunc_other (s : State) (f j : Nat) (g : Func → Func) (h : j ≠ f) : (s.modFunc f g).func j = s.func j := by
  simp [State.func, State.modFunc, tblGetD_set_other _ _ _ h]

@[simp] theorem State.modFunc_pending (s : State) (f : Nat) (g : Func → Func) : (s.modFunc f g).pending = s.pending := rfl
@[simp] theorem State.modFunc_clk (s : State) (f : Nat) (g : Func → Func) : (s.modFunc f g).clk = s.clk := rfl
@[simp] theorem State.modFunc_free (s : State) (f : Nat) (g : Func → Func) : (s.modFunc f g).free = s.free := rfl
@[simp] theorem State.modFunc_out (s : State) (f : Nat) (g : Func → Func) : (s.modFunc f g).out = s.out := rfl
@[simp] theorem State.modFunc_cfg (s : State) (f : Nat) (g : Func → Func) : (s.modFunc f g).cfg = s.cfg := rfl
@[simp] theorem State.modFunc_txs (s : State) (f : Nat) (g : Func → Func) : (s.modFunc f g).txs = s.txs := rfl
@[simp] theorem State.modFunc_mer (s : State) (f : Nat) (g : Func → Func) : (s.modFunc f g).mer = s.mer := rfl
@[simp] theorem State.modFunc_mailboxes (s : State) (f : Nat) (g : Func → Func) : (s.modFunc f g).mailboxes = s.mailboxes := rfl
@[simp] theorem State.modFunc_hosts (s : State) (f : Nat) (g : Func → Func) : (s.modFunc f g).hosts = s.hosts := rfl
@[simp] theorem State.modFunc_parts (s : State) (f : Nat) (g : Func → Func) : (s.modFunc f g).parts = s.parts := rfl
@[simp] theorem State.modFunc_contexts (s : State) (f : Nat) (g : Func → Func) : (s.modFunc f g).contexts = s.contexts := rfl
@[simp] theorem State.modFunc_queues (s : State) (f : Nat) (g : Func → Func) : (s.modFunc f g).queues = s.queues := rfl
@[simp] theorem State.modFunc_rings (s : State) (f : Nat) (g : Func → Func) : (s.modFunc f g).rings = s.rings := rfl
@[simp] theorem State.modFunc_regions (s : State) (f : Nat) (g : Func → Func) : (s.modFunc f g).regions = s.regions := rfl
@[simp] theorem State.modFunc_placements (s : State) (f : Nat) (g : Func → Func) : (s.modFunc f g).placements = s.placements := rfl
@[simp] theorem State.modFunc_mem (s : State) (f : Nat) (g : Func → Func) : (s.modFunc f g).mem = s.mem := rfl
@[simp] theorem State.modFunc_tiles (s : State) (f : Nat) (g : Func → Func) : (s.modFunc f g).tiles = s.tiles := rfl
@[simp] theorem State.modFunc_quads (s : State) (f : Nat) (g : Func → Func) : (s.modFunc f g).quads = s.quads := rfl
@[simp] theorem State.modFunc_ports (s : State) (f : Nat) (g : Func → Func) : (s.modFunc f g).ports = s.ports := rfl
@[simp] theorem State.modFunc_charts (s : State) (f : Nat) (g : Func → Func) : (s.modFunc f g).charts = s.charts := rfl
@[simp] theorem State.modFunc_accels (s : State) (f : Nat) (g : Func → Func) : (s.modFunc f g).accels = s.accels := rfl
@[simp] theorem State.modFunc_grats (s : State) (f : Nat) (g : Func → Func) : (s.modFunc f g).grats = s.grats := rfl
@[simp] theorem State.modFunc_reds (s : State) (f : Nat) (g : Func → Func) : (s.modFunc f g).reds = s.reds := rfl
@[simp] theorem State.modFunc_seqs (s : State) (f : Nat) (g : Func → Func) : (s.modFunc f g).seqs = s.seqs := rfl
@[simp] theorem State.modFunc_kernels (s : State) (f : Nat) (g : Func → Func) : (s.modFunc f g).kernels = s.kernels := rfl
@[simp] theorem State.modFunc_trigs (s : State) (f : Nat) (g : Func → Func) : (s.modFunc f g).trigs = s.trigs := rfl
@[simp] theorem State.modFunc_qps (s : State) (f : Nat) (g : Func → Func) : (s.modFunc f g).qps = s.qps := rfl
@[simp] theorem State.modFunc_controllers (s : State) (f : Nat) (g : Func → Func) : (s.modFunc f g).controllers = s.controllers := rfl
@[simp] theorem State.modFunc_fw (s : State) (f : Nat) (g : Func → Func) : (s.modFunc f g).fw = s.fw := rfl
@[simp] theorem State.modFunc_kbx (s : State) (f : Nat) (g : Func → Func) : (s.modFunc f g).kbx = s.kbx := rfl
@[simp] theorem State.modFunc_spdm (s : State) (f : Nat) (g : Func → Func) : (s.modFunc f g).spdm = s.spdm := rfl
@[simp] theorem State.modFunc_power (s : State) (f : Nat) (g : Func → Func) : (s.modFunc f g).power = s.power := rfl
@[simp] theorem State.modFunc_survey (s : State) (f : Nat) (g : Func → Func) : (s.modFunc f g).survey = s.survey := rfl
@[simp] theorem State.modFunc_recover (s : State) (f : Nat) (g : Func → Func) : (s.modFunc f g).recover = s.recover := rfl

@[simp] theorem State.modMbx_same (s : State) (k : Nat) (g : Mailbox → Mailbox) : (s.modMbx k g).mbx k = g (s.mbx k) := by
  simp [State.mbx, State.modMbx]

theorem State.modMbx_other (s : State) (k j : Nat) (g : Mailbox → Mailbox) (h : j ≠ k) : (s.modMbx k g).mbx j = s.mbx j := by
  simp [State.mbx, State.modMbx, tblGetD_set_other _ _ _ h]

@[simp] theorem State.modMbx_pending (s : State) (k : Nat) (g : Mailbox → Mailbox) : (s.modMbx k g).pending = s.pending := rfl
@[simp] theorem State.modMbx_clk (s : State) (k : Nat) (g : Mailbox → Mailbox) : (s.modMbx k g).clk = s.clk := rfl
@[simp] theorem State.modMbx_free (s : State) (k : Nat) (g : Mailbox → Mailbox) : (s.modMbx k g).free = s.free := rfl
@[simp] theorem State.modMbx_out (s : State) (k : Nat) (g : Mailbox → Mailbox) : (s.modMbx k g).out = s.out := rfl
@[simp] theorem State.modMbx_cfg (s : State) (k : Nat) (g : Mailbox → Mailbox) : (s.modMbx k g).cfg = s.cfg := rfl
@[simp] theorem State.modMbx_txs (s : State) (k : Nat) (g : Mailbox → Mailbox) : (s.modMbx k g).txs = s.txs := rfl
@[simp] theorem State.modMbx_mer (s : State) (k : Nat) (g : Mailbox → Mailbox) : (s.modMbx k g).mer = s.mer := rfl
@[simp] theorem State.modMbx_funcs (s : State) (k : Nat) (g : Mailbox → Mailbox) : (s.modMbx k g).funcs = s.funcs := rfl
@[simp] theorem State.modMbx_hosts (s : State) (k : Nat) (g : Mailbox → Mailbox) : (s.modMbx k g).hosts = s.hosts := rfl
@[simp] theorem State.modMbx_parts (s : State) (k : Nat) (g : Mailbox → Mailbox) : (s.modMbx k g).parts = s.parts := rfl
@[simp] theorem State.modMbx_contexts (s : State) (k : Nat) (g : Mailbox → Mailbox) : (s.modMbx k g).contexts = s.contexts := rfl
@[simp] theorem State.modMbx_queues (s : State) (k : Nat) (g : Mailbox → Mailbox) : (s.modMbx k g).queues = s.queues := rfl
@[simp] theorem State.modMbx_rings (s : State) (k : Nat) (g : Mailbox → Mailbox) : (s.modMbx k g).rings = s.rings := rfl
@[simp] theorem State.modMbx_regions (s : State) (k : Nat) (g : Mailbox → Mailbox) : (s.modMbx k g).regions = s.regions := rfl
@[simp] theorem State.modMbx_placements (s : State) (k : Nat) (g : Mailbox → Mailbox) : (s.modMbx k g).placements = s.placements := rfl
@[simp] theorem State.modMbx_mem (s : State) (k : Nat) (g : Mailbox → Mailbox) : (s.modMbx k g).mem = s.mem := rfl
@[simp] theorem State.modMbx_tiles (s : State) (k : Nat) (g : Mailbox → Mailbox) : (s.modMbx k g).tiles = s.tiles := rfl
@[simp] theorem State.modMbx_quads (s : State) (k : Nat) (g : Mailbox → Mailbox) : (s.modMbx k g).quads = s.quads := rfl
@[simp] theorem State.modMbx_ports (s : State) (k : Nat) (g : Mailbox → Mailbox) : (s.modMbx k g).ports = s.ports := rfl
@[simp] theorem State.modMbx_charts (s : State) (k : Nat) (g : Mailbox → Mailbox) : (s.modMbx k g).charts = s.charts := rfl
@[simp] theorem State.modMbx_accels (s : State) (k : Nat) (g : Mailbox → Mailbox) : (s.modMbx k g).accels = s.accels := rfl
@[simp] theorem State.modMbx_grats (s : State) (k : Nat) (g : Mailbox → Mailbox) : (s.modMbx k g).grats = s.grats := rfl
@[simp] theorem State.modMbx_reds (s : State) (k : Nat) (g : Mailbox → Mailbox) : (s.modMbx k g).reds = s.reds := rfl
@[simp] theorem State.modMbx_seqs (s : State) (k : Nat) (g : Mailbox → Mailbox) : (s.modMbx k g).seqs = s.seqs := rfl
@[simp] theorem State.modMbx_kernels (s : State) (k : Nat) (g : Mailbox → Mailbox) : (s.modMbx k g).kernels = s.kernels := rfl
@[simp] theorem State.modMbx_trigs (s : State) (k : Nat) (g : Mailbox → Mailbox) : (s.modMbx k g).trigs = s.trigs := rfl
@[simp] theorem State.modMbx_qps (s : State) (k : Nat) (g : Mailbox → Mailbox) : (s.modMbx k g).qps = s.qps := rfl
@[simp] theorem State.modMbx_controllers (s : State) (k : Nat) (g : Mailbox → Mailbox) : (s.modMbx k g).controllers = s.controllers := rfl
@[simp] theorem State.modMbx_fw (s : State) (k : Nat) (g : Mailbox → Mailbox) : (s.modMbx k g).fw = s.fw := rfl
@[simp] theorem State.modMbx_kbx (s : State) (k : Nat) (g : Mailbox → Mailbox) : (s.modMbx k g).kbx = s.kbx := rfl
@[simp] theorem State.modMbx_spdm (s : State) (k : Nat) (g : Mailbox → Mailbox) : (s.modMbx k g).spdm = s.spdm := rfl
@[simp] theorem State.modMbx_power (s : State) (k : Nat) (g : Mailbox → Mailbox) : (s.modMbx k g).power = s.power := rfl
@[simp] theorem State.modMbx_survey (s : State) (k : Nat) (g : Mailbox → Mailbox) : (s.modMbx k g).survey = s.survey := rfl
@[simp] theorem State.modMbx_recover (s : State) (k : Nat) (g : Mailbox → Mailbox) : (s.modMbx k g).recover = s.recover := rfl

@[simp] theorem State.modHost_same (s : State) (p : Nat) (g : HostPort → HostPort) : (s.modHost p g).host p = g (s.host p) := by
  simp [State.host, State.modHost]

theorem State.modHost_other (s : State) (p j : Nat) (g : HostPort → HostPort) (h : j ≠ p) : (s.modHost p g).host j = s.host j := by
  simp [State.host, State.modHost, tblGetD_set_other _ _ _ h]

@[simp] theorem State.modHost_pending (s : State) (p : Nat) (g : HostPort → HostPort) : (s.modHost p g).pending = s.pending := rfl
@[simp] theorem State.modHost_clk (s : State) (p : Nat) (g : HostPort → HostPort) : (s.modHost p g).clk = s.clk := rfl
@[simp] theorem State.modHost_free (s : State) (p : Nat) (g : HostPort → HostPort) : (s.modHost p g).free = s.free := rfl
@[simp] theorem State.modHost_out (s : State) (p : Nat) (g : HostPort → HostPort) : (s.modHost p g).out = s.out := rfl
@[simp] theorem State.modHost_cfg (s : State) (p : Nat) (g : HostPort → HostPort) : (s.modHost p g).cfg = s.cfg := rfl
@[simp] theorem State.modHost_txs (s : State) (p : Nat) (g : HostPort → HostPort) : (s.modHost p g).txs = s.txs := rfl
@[simp] theorem State.modHost_mer (s : State) (p : Nat) (g : HostPort → HostPort) : (s.modHost p g).mer = s.mer := rfl
@[simp] theorem State.modHost_funcs (s : State) (p : Nat) (g : HostPort → HostPort) : (s.modHost p g).funcs = s.funcs := rfl
@[simp] theorem State.modHost_mailboxes (s : State) (p : Nat) (g : HostPort → HostPort) : (s.modHost p g).mailboxes = s.mailboxes := rfl
@[simp] theorem State.modHost_parts (s : State) (p : Nat) (g : HostPort → HostPort) : (s.modHost p g).parts = s.parts := rfl
@[simp] theorem State.modHost_contexts (s : State) (p : Nat) (g : HostPort → HostPort) : (s.modHost p g).contexts = s.contexts := rfl
@[simp] theorem State.modHost_queues (s : State) (p : Nat) (g : HostPort → HostPort) : (s.modHost p g).queues = s.queues := rfl
@[simp] theorem State.modHost_rings (s : State) (p : Nat) (g : HostPort → HostPort) : (s.modHost p g).rings = s.rings := rfl
@[simp] theorem State.modHost_regions (s : State) (p : Nat) (g : HostPort → HostPort) : (s.modHost p g).regions = s.regions := rfl
@[simp] theorem State.modHost_placements (s : State) (p : Nat) (g : HostPort → HostPort) : (s.modHost p g).placements = s.placements := rfl
@[simp] theorem State.modHost_mem (s : State) (p : Nat) (g : HostPort → HostPort) : (s.modHost p g).mem = s.mem := rfl
@[simp] theorem State.modHost_tiles (s : State) (p : Nat) (g : HostPort → HostPort) : (s.modHost p g).tiles = s.tiles := rfl
@[simp] theorem State.modHost_quads (s : State) (p : Nat) (g : HostPort → HostPort) : (s.modHost p g).quads = s.quads := rfl
@[simp] theorem State.modHost_ports (s : State) (p : Nat) (g : HostPort → HostPort) : (s.modHost p g).ports = s.ports := rfl
@[simp] theorem State.modHost_charts (s : State) (p : Nat) (g : HostPort → HostPort) : (s.modHost p g).charts = s.charts := rfl
@[simp] theorem State.modHost_accels (s : State) (p : Nat) (g : HostPort → HostPort) : (s.modHost p g).accels = s.accels := rfl
@[simp] theorem State.modHost_grats (s : State) (p : Nat) (g : HostPort → HostPort) : (s.modHost p g).grats = s.grats := rfl
@[simp] theorem State.modHost_reds (s : State) (p : Nat) (g : HostPort → HostPort) : (s.modHost p g).reds = s.reds := rfl
@[simp] theorem State.modHost_seqs (s : State) (p : Nat) (g : HostPort → HostPort) : (s.modHost p g).seqs = s.seqs := rfl
@[simp] theorem State.modHost_kernels (s : State) (p : Nat) (g : HostPort → HostPort) : (s.modHost p g).kernels = s.kernels := rfl
@[simp] theorem State.modHost_trigs (s : State) (p : Nat) (g : HostPort → HostPort) : (s.modHost p g).trigs = s.trigs := rfl
@[simp] theorem State.modHost_qps (s : State) (p : Nat) (g : HostPort → HostPort) : (s.modHost p g).qps = s.qps := rfl
@[simp] theorem State.modHost_controllers (s : State) (p : Nat) (g : HostPort → HostPort) : (s.modHost p g).controllers = s.controllers := rfl
@[simp] theorem State.modHost_fw (s : State) (p : Nat) (g : HostPort → HostPort) : (s.modHost p g).fw = s.fw := rfl
@[simp] theorem State.modHost_kbx (s : State) (p : Nat) (g : HostPort → HostPort) : (s.modHost p g).kbx = s.kbx := rfl
@[simp] theorem State.modHost_spdm (s : State) (p : Nat) (g : HostPort → HostPort) : (s.modHost p g).spdm = s.spdm := rfl
@[simp] theorem State.modHost_power (s : State) (p : Nat) (g : HostPort → HostPort) : (s.modHost p g).power = s.power := rfl
@[simp] theorem State.modHost_survey (s : State) (p : Nat) (g : HostPort → HostPort) : (s.modHost p g).survey = s.survey := rfl
@[simp] theorem State.modHost_recover (s : State) (p : Nat) (g : HostPort → HostPort) : (s.modHost p g).recover = s.recover := rfl

@[simp] theorem State.modPart_same (s : State) (p : Nat) (g : Partition → Partition) : (s.modPart p g).part p = g (s.part p) := by
  simp [State.part, State.modPart]

theorem State.modPart_other (s : State) (p j : Nat) (g : Partition → Partition) (h : j ≠ p) : (s.modPart p g).part j = s.part j := by
  simp [State.part, State.modPart, tblGetD_set_other _ _ _ h]

@[simp] theorem State.modPart_pending (s : State) (p : Nat) (g : Partition → Partition) : (s.modPart p g).pending = s.pending := rfl
@[simp] theorem State.modPart_clk (s : State) (p : Nat) (g : Partition → Partition) : (s.modPart p g).clk = s.clk := rfl
@[simp] theorem State.modPart_free (s : State) (p : Nat) (g : Partition → Partition) : (s.modPart p g).free = s.free := rfl
@[simp] theorem State.modPart_out (s : State) (p : Nat) (g : Partition → Partition) : (s.modPart p g).out = s.out := rfl
@[simp] theorem State.modPart_cfg (s : State) (p : Nat) (g : Partition → Partition) : (s.modPart p g).cfg = s.cfg := rfl
@[simp] theorem State.modPart_txs (s : State) (p : Nat) (g : Partition → Partition) : (s.modPart p g).txs = s.txs := rfl
@[simp] theorem State.modPart_mer (s : State) (p : Nat) (g : Partition → Partition) : (s.modPart p g).mer = s.mer := rfl
@[simp] theorem State.modPart_funcs (s : State) (p : Nat) (g : Partition → Partition) : (s.modPart p g).funcs = s.funcs := rfl
@[simp] theorem State.modPart_mailboxes (s : State) (p : Nat) (g : Partition → Partition) : (s.modPart p g).mailboxes = s.mailboxes := rfl
@[simp] theorem State.modPart_hosts (s : State) (p : Nat) (g : Partition → Partition) : (s.modPart p g).hosts = s.hosts := rfl
@[simp] theorem State.modPart_contexts (s : State) (p : Nat) (g : Partition → Partition) : (s.modPart p g).contexts = s.contexts := rfl
@[simp] theorem State.modPart_queues (s : State) (p : Nat) (g : Partition → Partition) : (s.modPart p g).queues = s.queues := rfl
@[simp] theorem State.modPart_rings (s : State) (p : Nat) (g : Partition → Partition) : (s.modPart p g).rings = s.rings := rfl
@[simp] theorem State.modPart_regions (s : State) (p : Nat) (g : Partition → Partition) : (s.modPart p g).regions = s.regions := rfl
@[simp] theorem State.modPart_placements (s : State) (p : Nat) (g : Partition → Partition) : (s.modPart p g).placements = s.placements := rfl
@[simp] theorem State.modPart_mem (s : State) (p : Nat) (g : Partition → Partition) : (s.modPart p g).mem = s.mem := rfl
@[simp] theorem State.modPart_tiles (s : State) (p : Nat) (g : Partition → Partition) : (s.modPart p g).tiles = s.tiles := rfl
@[simp] theorem State.modPart_quads (s : State) (p : Nat) (g : Partition → Partition) : (s.modPart p g).quads = s.quads := rfl
@[simp] theorem State.modPart_ports (s : State) (p : Nat) (g : Partition → Partition) : (s.modPart p g).ports = s.ports := rfl
@[simp] theorem State.modPart_charts (s : State) (p : Nat) (g : Partition → Partition) : (s.modPart p g).charts = s.charts := rfl
@[simp] theorem State.modPart_accels (s : State) (p : Nat) (g : Partition → Partition) : (s.modPart p g).accels = s.accels := rfl
@[simp] theorem State.modPart_grats (s : State) (p : Nat) (g : Partition → Partition) : (s.modPart p g).grats = s.grats := rfl
@[simp] theorem State.modPart_reds (s : State) (p : Nat) (g : Partition → Partition) : (s.modPart p g).reds = s.reds := rfl
@[simp] theorem State.modPart_seqs (s : State) (p : Nat) (g : Partition → Partition) : (s.modPart p g).seqs = s.seqs := rfl
@[simp] theorem State.modPart_kernels (s : State) (p : Nat) (g : Partition → Partition) : (s.modPart p g).kernels = s.kernels := rfl
@[simp] theorem State.modPart_trigs (s : State) (p : Nat) (g : Partition → Partition) : (s.modPart p g).trigs = s.trigs := rfl
@[simp] theorem State.modPart_qps (s : State) (p : Nat) (g : Partition → Partition) : (s.modPart p g).qps = s.qps := rfl
@[simp] theorem State.modPart_controllers (s : State) (p : Nat) (g : Partition → Partition) : (s.modPart p g).controllers = s.controllers := rfl
@[simp] theorem State.modPart_fw (s : State) (p : Nat) (g : Partition → Partition) : (s.modPart p g).fw = s.fw := rfl
@[simp] theorem State.modPart_kbx (s : State) (p : Nat) (g : Partition → Partition) : (s.modPart p g).kbx = s.kbx := rfl
@[simp] theorem State.modPart_spdm (s : State) (p : Nat) (g : Partition → Partition) : (s.modPart p g).spdm = s.spdm := rfl
@[simp] theorem State.modPart_power (s : State) (p : Nat) (g : Partition → Partition) : (s.modPart p g).power = s.power := rfl
@[simp] theorem State.modPart_survey (s : State) (p : Nat) (g : Partition → Partition) : (s.modPart p g).survey = s.survey := rfl
@[simp] theorem State.modPart_recover (s : State) (p : Nat) (g : Partition → Partition) : (s.modPart p g).recover = s.recover := rfl

@[simp] theorem State.modCtx_same (s : State) (c : Nat) (g : Context → Context) : (s.modCtx c g).ctx c = g (s.ctx c) := by
  simp [State.ctx, State.modCtx]

theorem State.modCtx_other (s : State) (c j : Nat) (g : Context → Context) (h : j ≠ c) : (s.modCtx c g).ctx j = s.ctx j := by
  simp [State.ctx, State.modCtx, tblGetD_set_other _ _ _ h]

@[simp] theorem State.modCtx_pending (s : State) (c : Nat) (g : Context → Context) : (s.modCtx c g).pending = s.pending := rfl
@[simp] theorem State.modCtx_clk (s : State) (c : Nat) (g : Context → Context) : (s.modCtx c g).clk = s.clk := rfl
@[simp] theorem State.modCtx_free (s : State) (c : Nat) (g : Context → Context) : (s.modCtx c g).free = s.free := rfl
@[simp] theorem State.modCtx_out (s : State) (c : Nat) (g : Context → Context) : (s.modCtx c g).out = s.out := rfl
@[simp] theorem State.modCtx_cfg (s : State) (c : Nat) (g : Context → Context) : (s.modCtx c g).cfg = s.cfg := rfl
@[simp] theorem State.modCtx_txs (s : State) (c : Nat) (g : Context → Context) : (s.modCtx c g).txs = s.txs := rfl
@[simp] theorem State.modCtx_mer (s : State) (c : Nat) (g : Context → Context) : (s.modCtx c g).mer = s.mer := rfl
@[simp] theorem State.modCtx_funcs (s : State) (c : Nat) (g : Context → Context) : (s.modCtx c g).funcs = s.funcs := rfl
@[simp] theorem State.modCtx_mailboxes (s : State) (c : Nat) (g : Context → Context) : (s.modCtx c g).mailboxes = s.mailboxes := rfl
@[simp] theorem State.modCtx_hosts (s : State) (c : Nat) (g : Context → Context) : (s.modCtx c g).hosts = s.hosts := rfl
@[simp] theorem State.modCtx_parts (s : State) (c : Nat) (g : Context → Context) : (s.modCtx c g).parts = s.parts := rfl
@[simp] theorem State.modCtx_queues (s : State) (c : Nat) (g : Context → Context) : (s.modCtx c g).queues = s.queues := rfl
@[simp] theorem State.modCtx_rings (s : State) (c : Nat) (g : Context → Context) : (s.modCtx c g).rings = s.rings := rfl
@[simp] theorem State.modCtx_regions (s : State) (c : Nat) (g : Context → Context) : (s.modCtx c g).regions = s.regions := rfl
@[simp] theorem State.modCtx_placements (s : State) (c : Nat) (g : Context → Context) : (s.modCtx c g).placements = s.placements := rfl
@[simp] theorem State.modCtx_mem (s : State) (c : Nat) (g : Context → Context) : (s.modCtx c g).mem = s.mem := rfl
@[simp] theorem State.modCtx_tiles (s : State) (c : Nat) (g : Context → Context) : (s.modCtx c g).tiles = s.tiles := rfl
@[simp] theorem State.modCtx_quads (s : State) (c : Nat) (g : Context → Context) : (s.modCtx c g).quads = s.quads := rfl
@[simp] theorem State.modCtx_ports (s : State) (c : Nat) (g : Context → Context) : (s.modCtx c g).ports = s.ports := rfl
@[simp] theorem State.modCtx_charts (s : State) (c : Nat) (g : Context → Context) : (s.modCtx c g).charts = s.charts := rfl
@[simp] theorem State.modCtx_accels (s : State) (c : Nat) (g : Context → Context) : (s.modCtx c g).accels = s.accels := rfl
@[simp] theorem State.modCtx_grats (s : State) (c : Nat) (g : Context → Context) : (s.modCtx c g).grats = s.grats := rfl
@[simp] theorem State.modCtx_reds (s : State) (c : Nat) (g : Context → Context) : (s.modCtx c g).reds = s.reds := rfl
@[simp] theorem State.modCtx_seqs (s : State) (c : Nat) (g : Context → Context) : (s.modCtx c g).seqs = s.seqs := rfl
@[simp] theorem State.modCtx_kernels (s : State) (c : Nat) (g : Context → Context) : (s.modCtx c g).kernels = s.kernels := rfl
@[simp] theorem State.modCtx_trigs (s : State) (c : Nat) (g : Context → Context) : (s.modCtx c g).trigs = s.trigs := rfl
@[simp] theorem State.modCtx_qps (s : State) (c : Nat) (g : Context → Context) : (s.modCtx c g).qps = s.qps := rfl
@[simp] theorem State.modCtx_controllers (s : State) (c : Nat) (g : Context → Context) : (s.modCtx c g).controllers = s.controllers := rfl
@[simp] theorem State.modCtx_fw (s : State) (c : Nat) (g : Context → Context) : (s.modCtx c g).fw = s.fw := rfl
@[simp] theorem State.modCtx_kbx (s : State) (c : Nat) (g : Context → Context) : (s.modCtx c g).kbx = s.kbx := rfl
@[simp] theorem State.modCtx_spdm (s : State) (c : Nat) (g : Context → Context) : (s.modCtx c g).spdm = s.spdm := rfl
@[simp] theorem State.modCtx_power (s : State) (c : Nat) (g : Context → Context) : (s.modCtx c g).power = s.power := rfl
@[simp] theorem State.modCtx_survey (s : State) (c : Nat) (g : Context → Context) : (s.modCtx c g).survey = s.survey := rfl
@[simp] theorem State.modCtx_recover (s : State) (c : Nat) (g : Context → Context) : (s.modCtx c g).recover = s.recover := rfl

@[simp] theorem State.modRegion_same (s : State) (i : Nat) (g : Region → Region) : (s.modRegion i g).region i = g (s.region i) := by
  simp [State.region, State.modRegion]

theorem State.modRegion_other (s : State) (i j : Nat) (g : Region → Region) (h : j ≠ i) : (s.modRegion i g).region j = s.region j := by
  simp [State.region, State.modRegion, tblGetD_set_other _ _ _ h]

@[simp] theorem State.modRegion_pending (s : State) (i : Nat) (g : Region → Region) : (s.modRegion i g).pending = s.pending := rfl
@[simp] theorem State.modRegion_clk (s : State) (i : Nat) (g : Region → Region) : (s.modRegion i g).clk = s.clk := rfl
@[simp] theorem State.modRegion_free (s : State) (i : Nat) (g : Region → Region) : (s.modRegion i g).free = s.free := rfl
@[simp] theorem State.modRegion_out (s : State) (i : Nat) (g : Region → Region) : (s.modRegion i g).out = s.out := rfl
@[simp] theorem State.modRegion_cfg (s : State) (i : Nat) (g : Region → Region) : (s.modRegion i g).cfg = s.cfg := rfl
@[simp] theorem State.modRegion_txs (s : State) (i : Nat) (g : Region → Region) : (s.modRegion i g).txs = s.txs := rfl
@[simp] theorem State.modRegion_mer (s : State) (i : Nat) (g : Region → Region) : (s.modRegion i g).mer = s.mer := rfl
@[simp] theorem State.modRegion_funcs (s : State) (i : Nat) (g : Region → Region) : (s.modRegion i g).funcs = s.funcs := rfl
@[simp] theorem State.modRegion_mailboxes (s : State) (i : Nat) (g : Region → Region) : (s.modRegion i g).mailboxes = s.mailboxes := rfl
@[simp] theorem State.modRegion_hosts (s : State) (i : Nat) (g : Region → Region) : (s.modRegion i g).hosts = s.hosts := rfl
@[simp] theorem State.modRegion_parts (s : State) (i : Nat) (g : Region → Region) : (s.modRegion i g).parts = s.parts := rfl
@[simp] theorem State.modRegion_contexts (s : State) (i : Nat) (g : Region → Region) : (s.modRegion i g).contexts = s.contexts := rfl
@[simp] theorem State.modRegion_queues (s : State) (i : Nat) (g : Region → Region) : (s.modRegion i g).queues = s.queues := rfl
@[simp] theorem State.modRegion_rings (s : State) (i : Nat) (g : Region → Region) : (s.modRegion i g).rings = s.rings := rfl
@[simp] theorem State.modRegion_placements (s : State) (i : Nat) (g : Region → Region) : (s.modRegion i g).placements = s.placements := rfl
@[simp] theorem State.modRegion_mem (s : State) (i : Nat) (g : Region → Region) : (s.modRegion i g).mem = s.mem := rfl
@[simp] theorem State.modRegion_tiles (s : State) (i : Nat) (g : Region → Region) : (s.modRegion i g).tiles = s.tiles := rfl
@[simp] theorem State.modRegion_quads (s : State) (i : Nat) (g : Region → Region) : (s.modRegion i g).quads = s.quads := rfl
@[simp] theorem State.modRegion_ports (s : State) (i : Nat) (g : Region → Region) : (s.modRegion i g).ports = s.ports := rfl
@[simp] theorem State.modRegion_charts (s : State) (i : Nat) (g : Region → Region) : (s.modRegion i g).charts = s.charts := rfl
@[simp] theorem State.modRegion_accels (s : State) (i : Nat) (g : Region → Region) : (s.modRegion i g).accels = s.accels := rfl
@[simp] theorem State.modRegion_grats (s : State) (i : Nat) (g : Region → Region) : (s.modRegion i g).grats = s.grats := rfl
@[simp] theorem State.modRegion_reds (s : State) (i : Nat) (g : Region → Region) : (s.modRegion i g).reds = s.reds := rfl
@[simp] theorem State.modRegion_seqs (s : State) (i : Nat) (g : Region → Region) : (s.modRegion i g).seqs = s.seqs := rfl
@[simp] theorem State.modRegion_kernels (s : State) (i : Nat) (g : Region → Region) : (s.modRegion i g).kernels = s.kernels := rfl
@[simp] theorem State.modRegion_trigs (s : State) (i : Nat) (g : Region → Region) : (s.modRegion i g).trigs = s.trigs := rfl
@[simp] theorem State.modRegion_qps (s : State) (i : Nat) (g : Region → Region) : (s.modRegion i g).qps = s.qps := rfl
@[simp] theorem State.modRegion_controllers (s : State) (i : Nat) (g : Region → Region) : (s.modRegion i g).controllers = s.controllers := rfl
@[simp] theorem State.modRegion_fw (s : State) (i : Nat) (g : Region → Region) : (s.modRegion i g).fw = s.fw := rfl
@[simp] theorem State.modRegion_kbx (s : State) (i : Nat) (g : Region → Region) : (s.modRegion i g).kbx = s.kbx := rfl
@[simp] theorem State.modRegion_spdm (s : State) (i : Nat) (g : Region → Region) : (s.modRegion i g).spdm = s.spdm := rfl
@[simp] theorem State.modRegion_power (s : State) (i : Nat) (g : Region → Region) : (s.modRegion i g).power = s.power := rfl
@[simp] theorem State.modRegion_survey (s : State) (i : Nat) (g : Region → Region) : (s.modRegion i g).survey = s.survey := rfl
@[simp] theorem State.modRegion_recover (s : State) (i : Nat) (g : Region → Region) : (s.modRegion i g).recover = s.recover := rfl

@[simp] theorem State.modPlace_same (s : State) (i : Nat) (g : Placement → Placement) : (s.modPlace i g).place i = g (s.place i) := by
  simp [State.place, State.modPlace]

theorem State.modPlace_other (s : State) (i j : Nat) (g : Placement → Placement) (h : j ≠ i) : (s.modPlace i g).place j = s.place j := by
  simp [State.place, State.modPlace, tblGetD_set_other _ _ _ h]

@[simp] theorem State.modPlace_pending (s : State) (i : Nat) (g : Placement → Placement) : (s.modPlace i g).pending = s.pending := rfl
@[simp] theorem State.modPlace_clk (s : State) (i : Nat) (g : Placement → Placement) : (s.modPlace i g).clk = s.clk := rfl
@[simp] theorem State.modPlace_free (s : State) (i : Nat) (g : Placement → Placement) : (s.modPlace i g).free = s.free := rfl
@[simp] theorem State.modPlace_out (s : State) (i : Nat) (g : Placement → Placement) : (s.modPlace i g).out = s.out := rfl
@[simp] theorem State.modPlace_cfg (s : State) (i : Nat) (g : Placement → Placement) : (s.modPlace i g).cfg = s.cfg := rfl
@[simp] theorem State.modPlace_txs (s : State) (i : Nat) (g : Placement → Placement) : (s.modPlace i g).txs = s.txs := rfl
@[simp] theorem State.modPlace_mer (s : State) (i : Nat) (g : Placement → Placement) : (s.modPlace i g).mer = s.mer := rfl
@[simp] theorem State.modPlace_funcs (s : State) (i : Nat) (g : Placement → Placement) : (s.modPlace i g).funcs = s.funcs := rfl
@[simp] theorem State.modPlace_mailboxes (s : State) (i : Nat) (g : Placement → Placement) : (s.modPlace i g).mailboxes = s.mailboxes := rfl
@[simp] theorem State.modPlace_hosts (s : State) (i : Nat) (g : Placement → Placement) : (s.modPlace i g).hosts = s.hosts := rfl
@[simp] theorem State.modPlace_parts (s : State) (i : Nat) (g : Placement → Placement) : (s.modPlace i g).parts = s.parts := rfl
@[simp] theorem State.modPlace_contexts (s : State) (i : Nat) (g : Placement → Placement) : (s.modPlace i g).contexts = s.contexts := rfl
@[simp] theorem State.modPlace_queues (s : State) (i : Nat) (g : Placement → Placement) : (s.modPlace i g).queues = s.queues := rfl
@[simp] theorem State.modPlace_rings (s : State) (i : Nat) (g : Placement → Placement) : (s.modPlace i g).rings = s.rings := rfl
@[simp] theorem State.modPlace_regions (s : State) (i : Nat) (g : Placement → Placement) : (s.modPlace i g).regions = s.regions := rfl
@[simp] theorem State.modPlace_mem (s : State) (i : Nat) (g : Placement → Placement) : (s.modPlace i g).mem = s.mem := rfl
@[simp] theorem State.modPlace_tiles (s : State) (i : Nat) (g : Placement → Placement) : (s.modPlace i g).tiles = s.tiles := rfl
@[simp] theorem State.modPlace_quads (s : State) (i : Nat) (g : Placement → Placement) : (s.modPlace i g).quads = s.quads := rfl
@[simp] theorem State.modPlace_ports (s : State) (i : Nat) (g : Placement → Placement) : (s.modPlace i g).ports = s.ports := rfl
@[simp] theorem State.modPlace_charts (s : State) (i : Nat) (g : Placement → Placement) : (s.modPlace i g).charts = s.charts := rfl
@[simp] theorem State.modPlace_accels (s : State) (i : Nat) (g : Placement → Placement) : (s.modPlace i g).accels = s.accels := rfl
@[simp] theorem State.modPlace_grats (s : State) (i : Nat) (g : Placement → Placement) : (s.modPlace i g).grats = s.grats := rfl
@[simp] theorem State.modPlace_reds (s : State) (i : Nat) (g : Placement → Placement) : (s.modPlace i g).reds = s.reds := rfl
@[simp] theorem State.modPlace_seqs (s : State) (i : Nat) (g : Placement → Placement) : (s.modPlace i g).seqs = s.seqs := rfl
@[simp] theorem State.modPlace_kernels (s : State) (i : Nat) (g : Placement → Placement) : (s.modPlace i g).kernels = s.kernels := rfl
@[simp] theorem State.modPlace_trigs (s : State) (i : Nat) (g : Placement → Placement) : (s.modPlace i g).trigs = s.trigs := rfl
@[simp] theorem State.modPlace_qps (s : State) (i : Nat) (g : Placement → Placement) : (s.modPlace i g).qps = s.qps := rfl
@[simp] theorem State.modPlace_controllers (s : State) (i : Nat) (g : Placement → Placement) : (s.modPlace i g).controllers = s.controllers := rfl
@[simp] theorem State.modPlace_fw (s : State) (i : Nat) (g : Placement → Placement) : (s.modPlace i g).fw = s.fw := rfl
@[simp] theorem State.modPlace_kbx (s : State) (i : Nat) (g : Placement → Placement) : (s.modPlace i g).kbx = s.kbx := rfl
@[simp] theorem State.modPlace_spdm (s : State) (i : Nat) (g : Placement → Placement) : (s.modPlace i g).spdm = s.spdm := rfl
@[simp] theorem State.modPlace_power (s : State) (i : Nat) (g : Placement → Placement) : (s.modPlace i g).power = s.power := rfl
@[simp] theorem State.modPlace_survey (s : State) (i : Nat) (g : Placement → Placement) : (s.modPlace i g).survey = s.survey := rfl
@[simp] theorem State.modPlace_recover (s : State) (i : Nat) (g : Placement → Placement) : (s.modPlace i g).recover = s.recover := rfl

@[simp] theorem State.modQuad_same (s : State) (q : Nat) (g : Quadrant → Quadrant) : (s.modQuad q g).quad q = g (s.quad q) := by
  simp [State.quad, State.modQuad]

theorem State.modQuad_other (s : State) (q j : Nat) (g : Quadrant → Quadrant) (h : j ≠ q) : (s.modQuad q g).quad j = s.quad j := by
  simp [State.quad, State.modQuad, tblGetD_set_other _ _ _ h]

@[simp] theorem State.modQuad_pending (s : State) (q : Nat) (g : Quadrant → Quadrant) : (s.modQuad q g).pending = s.pending := rfl
@[simp] theorem State.modQuad_clk (s : State) (q : Nat) (g : Quadrant → Quadrant) : (s.modQuad q g).clk = s.clk := rfl
@[simp] theorem State.modQuad_free (s : State) (q : Nat) (g : Quadrant → Quadrant) : (s.modQuad q g).free = s.free := rfl
@[simp] theorem State.modQuad_out (s : State) (q : Nat) (g : Quadrant → Quadrant) : (s.modQuad q g).out = s.out := rfl
@[simp] theorem State.modQuad_cfg (s : State) (q : Nat) (g : Quadrant → Quadrant) : (s.modQuad q g).cfg = s.cfg := rfl
@[simp] theorem State.modQuad_txs (s : State) (q : Nat) (g : Quadrant → Quadrant) : (s.modQuad q g).txs = s.txs := rfl
@[simp] theorem State.modQuad_mer (s : State) (q : Nat) (g : Quadrant → Quadrant) : (s.modQuad q g).mer = s.mer := rfl
@[simp] theorem State.modQuad_funcs (s : State) (q : Nat) (g : Quadrant → Quadrant) : (s.modQuad q g).funcs = s.funcs := rfl
@[simp] theorem State.modQuad_mailboxes (s : State) (q : Nat) (g : Quadrant → Quadrant) : (s.modQuad q g).mailboxes = s.mailboxes := rfl
@[simp] theorem State.modQuad_hosts (s : State) (q : Nat) (g : Quadrant → Quadrant) : (s.modQuad q g).hosts = s.hosts := rfl
@[simp] theorem State.modQuad_parts (s : State) (q : Nat) (g : Quadrant → Quadrant) : (s.modQuad q g).parts = s.parts := rfl
@[simp] theorem State.modQuad_contexts (s : State) (q : Nat) (g : Quadrant → Quadrant) : (s.modQuad q g).contexts = s.contexts := rfl
@[simp] theorem State.modQuad_queues (s : State) (q : Nat) (g : Quadrant → Quadrant) : (s.modQuad q g).queues = s.queues := rfl
@[simp] theorem State.modQuad_rings (s : State) (q : Nat) (g : Quadrant → Quadrant) : (s.modQuad q g).rings = s.rings := rfl
@[simp] theorem State.modQuad_regions (s : State) (q : Nat) (g : Quadrant → Quadrant) : (s.modQuad q g).regions = s.regions := rfl
@[simp] theorem State.modQuad_placements (s : State) (q : Nat) (g : Quadrant → Quadrant) : (s.modQuad q g).placements = s.placements := rfl
@[simp] theorem State.modQuad_mem (s : State) (q : Nat) (g : Quadrant → Quadrant) : (s.modQuad q g).mem = s.mem := rfl
@[simp] theorem State.modQuad_tiles (s : State) (q : Nat) (g : Quadrant → Quadrant) : (s.modQuad q g).tiles = s.tiles := rfl
@[simp] theorem State.modQuad_ports (s : State) (q : Nat) (g : Quadrant → Quadrant) : (s.modQuad q g).ports = s.ports := rfl
@[simp] theorem State.modQuad_charts (s : State) (q : Nat) (g : Quadrant → Quadrant) : (s.modQuad q g).charts = s.charts := rfl
@[simp] theorem State.modQuad_accels (s : State) (q : Nat) (g : Quadrant → Quadrant) : (s.modQuad q g).accels = s.accels := rfl
@[simp] theorem State.modQuad_grats (s : State) (q : Nat) (g : Quadrant → Quadrant) : (s.modQuad q g).grats = s.grats := rfl
@[simp] theorem State.modQuad_reds (s : State) (q : Nat) (g : Quadrant → Quadrant) : (s.modQuad q g).reds = s.reds := rfl
@[simp] theorem State.modQuad_seqs (s : State) (q : Nat) (g : Quadrant → Quadrant) : (s.modQuad q g).seqs = s.seqs := rfl
@[simp] theorem State.modQuad_kernels (s : State) (q : Nat) (g : Quadrant → Quadrant) : (s.modQuad q g).kernels = s.kernels := rfl
@[simp] theorem State.modQuad_trigs (s : State) (q : Nat) (g : Quadrant → Quadrant) : (s.modQuad q g).trigs = s.trigs := rfl
@[simp] theorem State.modQuad_qps (s : State) (q : Nat) (g : Quadrant → Quadrant) : (s.modQuad q g).qps = s.qps := rfl
@[simp] theorem State.modQuad_controllers (s : State) (q : Nat) (g : Quadrant → Quadrant) : (s.modQuad q g).controllers = s.controllers := rfl
@[simp] theorem State.modQuad_fw (s : State) (q : Nat) (g : Quadrant → Quadrant) : (s.modQuad q g).fw = s.fw := rfl
@[simp] theorem State.modQuad_kbx (s : State) (q : Nat) (g : Quadrant → Quadrant) : (s.modQuad q g).kbx = s.kbx := rfl
@[simp] theorem State.modQuad_spdm (s : State) (q : Nat) (g : Quadrant → Quadrant) : (s.modQuad q g).spdm = s.spdm := rfl
@[simp] theorem State.modQuad_power (s : State) (q : Nat) (g : Quadrant → Quadrant) : (s.modQuad q g).power = s.power := rfl
@[simp] theorem State.modQuad_survey (s : State) (q : Nat) (g : Quadrant → Quadrant) : (s.modQuad q g).survey = s.survey := rfl
@[simp] theorem State.modQuad_recover (s : State) (q : Nat) (g : Quadrant → Quadrant) : (s.modQuad q g).recover = s.recover := rfl

@[simp] theorem State.modPort_same (s : State) (p : Nat) (g : Port → Port) : (s.modPort p g).port p = g (s.port p) := by
  simp [State.port, State.modPort]

theorem State.modPort_other (s : State) (p j : Nat) (g : Port → Port) (h : j ≠ p) : (s.modPort p g).port j = s.port j := by
  simp [State.port, State.modPort, tblGetD_set_other _ _ _ h]

@[simp] theorem State.modPort_pending (s : State) (p : Nat) (g : Port → Port) : (s.modPort p g).pending = s.pending := rfl
@[simp] theorem State.modPort_clk (s : State) (p : Nat) (g : Port → Port) : (s.modPort p g).clk = s.clk := rfl
@[simp] theorem State.modPort_free (s : State) (p : Nat) (g : Port → Port) : (s.modPort p g).free = s.free := rfl
@[simp] theorem State.modPort_out (s : State) (p : Nat) (g : Port → Port) : (s.modPort p g).out = s.out := rfl
@[simp] theorem State.modPort_cfg (s : State) (p : Nat) (g : Port → Port) : (s.modPort p g).cfg = s.cfg := rfl
@[simp] theorem State.modPort_txs (s : State) (p : Nat) (g : Port → Port) : (s.modPort p g).txs = s.txs := rfl
@[simp] theorem State.modPort_mer (s : State) (p : Nat) (g : Port → Port) : (s.modPort p g).mer = s.mer := rfl
@[simp] theorem State.modPort_funcs (s : State) (p : Nat) (g : Port → Port) : (s.modPort p g).funcs = s.funcs := rfl
@[simp] theorem State.modPort_mailboxes (s : State) (p : Nat) (g : Port → Port) : (s.modPort p g).mailboxes = s.mailboxes := rfl
@[simp] theorem State.modPort_hosts (s : State) (p : Nat) (g : Port → Port) : (s.modPort p g).hosts = s.hosts := rfl
@[simp] theorem State.modPort_parts (s : State) (p : Nat) (g : Port → Port) : (s.modPort p g).parts = s.parts := rfl
@[simp] theorem State.modPort_contexts (s : State) (p : Nat) (g : Port → Port) : (s.modPort p g).contexts = s.contexts := rfl
@[simp] theorem State.modPort_queues (s : State) (p : Nat) (g : Port → Port) : (s.modPort p g).queues = s.queues := rfl
@[simp] theorem State.modPort_rings (s : State) (p : Nat) (g : Port → Port) : (s.modPort p g).rings = s.rings := rfl
@[simp] theorem State.modPort_regions (s : State) (p : Nat) (g : Port → Port) : (s.modPort p g).regions = s.regions := rfl
@[simp] theorem State.modPort_placements (s : State) (p : Nat) (g : Port → Port) : (s.modPort p g).placements = s.placements := rfl
@[simp] theorem State.modPort_mem (s : State) (p : Nat) (g : Port → Port) : (s.modPort p g).mem = s.mem := rfl
@[simp] theorem State.modPort_tiles (s : State) (p : Nat) (g : Port → Port) : (s.modPort p g).tiles = s.tiles := rfl
@[simp] theorem State.modPort_quads (s : State) (p : Nat) (g : Port → Port) : (s.modPort p g).quads = s.quads := rfl
@[simp] theorem State.modPort_charts (s : State) (p : Nat) (g : Port → Port) : (s.modPort p g).charts = s.charts := rfl
@[simp] theorem State.modPort_accels (s : State) (p : Nat) (g : Port → Port) : (s.modPort p g).accels = s.accels := rfl
@[simp] theorem State.modPort_grats (s : State) (p : Nat) (g : Port → Port) : (s.modPort p g).grats = s.grats := rfl
@[simp] theorem State.modPort_reds (s : State) (p : Nat) (g : Port → Port) : (s.modPort p g).reds = s.reds := rfl
@[simp] theorem State.modPort_seqs (s : State) (p : Nat) (g : Port → Port) : (s.modPort p g).seqs = s.seqs := rfl
@[simp] theorem State.modPort_kernels (s : State) (p : Nat) (g : Port → Port) : (s.modPort p g).kernels = s.kernels := rfl
@[simp] theorem State.modPort_trigs (s : State) (p : Nat) (g : Port → Port) : (s.modPort p g).trigs = s.trigs := rfl
@[simp] theorem State.modPort_qps (s : State) (p : Nat) (g : Port → Port) : (s.modPort p g).qps = s.qps := rfl
@[simp] theorem State.modPort_controllers (s : State) (p : Nat) (g : Port → Port) : (s.modPort p g).controllers = s.controllers := rfl
@[simp] theorem State.modPort_fw (s : State) (p : Nat) (g : Port → Port) : (s.modPort p g).fw = s.fw := rfl
@[simp] theorem State.modPort_kbx (s : State) (p : Nat) (g : Port → Port) : (s.modPort p g).kbx = s.kbx := rfl
@[simp] theorem State.modPort_spdm (s : State) (p : Nat) (g : Port → Port) : (s.modPort p g).spdm = s.spdm := rfl
@[simp] theorem State.modPort_power (s : State) (p : Nat) (g : Port → Port) : (s.modPort p g).power = s.power := rfl
@[simp] theorem State.modPort_survey (s : State) (p : Nat) (g : Port → Port) : (s.modPort p g).survey = s.survey := rfl
@[simp] theorem State.modPort_recover (s : State) (p : Nat) (g : Port → Port) : (s.modPort p g).recover = s.recover := rfl

@[simp] theorem State.modAccel_same (s : State) (a : Nat) (g : Accel → Accel) : (s.modAccel a g).accel a = g (s.accel a) := by
  simp [State.accel, State.modAccel]

theorem State.modAccel_other (s : State) (a j : Nat) (g : Accel → Accel) (h : j ≠ a) : (s.modAccel a g).accel j = s.accel j := by
  simp [State.accel, State.modAccel, tblGetD_set_other _ _ _ h]

@[simp] theorem State.modAccel_pending (s : State) (a : Nat) (g : Accel → Accel) : (s.modAccel a g).pending = s.pending := rfl
@[simp] theorem State.modAccel_clk (s : State) (a : Nat) (g : Accel → Accel) : (s.modAccel a g).clk = s.clk := rfl
@[simp] theorem State.modAccel_free (s : State) (a : Nat) (g : Accel → Accel) : (s.modAccel a g).free = s.free := rfl
@[simp] theorem State.modAccel_out (s : State) (a : Nat) (g : Accel → Accel) : (s.modAccel a g).out = s.out := rfl
@[simp] theorem State.modAccel_cfg (s : State) (a : Nat) (g : Accel → Accel) : (s.modAccel a g).cfg = s.cfg := rfl
@[simp] theorem State.modAccel_txs (s : State) (a : Nat) (g : Accel → Accel) : (s.modAccel a g).txs = s.txs := rfl
@[simp] theorem State.modAccel_mer (s : State) (a : Nat) (g : Accel → Accel) : (s.modAccel a g).mer = s.mer := rfl
@[simp] theorem State.modAccel_funcs (s : State) (a : Nat) (g : Accel → Accel) : (s.modAccel a g).funcs = s.funcs := rfl
@[simp] theorem State.modAccel_mailboxes (s : State) (a : Nat) (g : Accel → Accel) : (s.modAccel a g).mailboxes = s.mailboxes := rfl
@[simp] theorem State.modAccel_hosts (s : State) (a : Nat) (g : Accel → Accel) : (s.modAccel a g).hosts = s.hosts := rfl
@[simp] theorem State.modAccel_parts (s : State) (a : Nat) (g : Accel → Accel) : (s.modAccel a g).parts = s.parts := rfl
@[simp] theorem State.modAccel_contexts (s : State) (a : Nat) (g : Accel → Accel) : (s.modAccel a g).contexts = s.contexts := rfl
@[simp] theorem State.modAccel_queues (s : State) (a : Nat) (g : Accel → Accel) : (s.modAccel a g).queues = s.queues := rfl
@[simp] theorem State.modAccel_rings (s : State) (a : Nat) (g : Accel → Accel) : (s.modAccel a g).rings = s.rings := rfl
@[simp] theorem State.modAccel_regions (s : State) (a : Nat) (g : Accel → Accel) : (s.modAccel a g).regions = s.regions := rfl
@[simp] theorem State.modAccel_placements (s : State) (a : Nat) (g : Accel → Accel) : (s.modAccel a g).placements = s.placements := rfl
@[simp] theorem State.modAccel_mem (s : State) (a : Nat) (g : Accel → Accel) : (s.modAccel a g).mem = s.mem := rfl
@[simp] theorem State.modAccel_tiles (s : State) (a : Nat) (g : Accel → Accel) : (s.modAccel a g).tiles = s.tiles := rfl
@[simp] theorem State.modAccel_quads (s : State) (a : Nat) (g : Accel → Accel) : (s.modAccel a g).quads = s.quads := rfl
@[simp] theorem State.modAccel_ports (s : State) (a : Nat) (g : Accel → Accel) : (s.modAccel a g).ports = s.ports := rfl
@[simp] theorem State.modAccel_charts (s : State) (a : Nat) (g : Accel → Accel) : (s.modAccel a g).charts = s.charts := rfl
@[simp] theorem State.modAccel_grats (s : State) (a : Nat) (g : Accel → Accel) : (s.modAccel a g).grats = s.grats := rfl
@[simp] theorem State.modAccel_reds (s : State) (a : Nat) (g : Accel → Accel) : (s.modAccel a g).reds = s.reds := rfl
@[simp] theorem State.modAccel_seqs (s : State) (a : Nat) (g : Accel → Accel) : (s.modAccel a g).seqs = s.seqs := rfl
@[simp] theorem State.modAccel_kernels (s : State) (a : Nat) (g : Accel → Accel) : (s.modAccel a g).kernels = s.kernels := rfl
@[simp] theorem State.modAccel_trigs (s : State) (a : Nat) (g : Accel → Accel) : (s.modAccel a g).trigs = s.trigs := rfl
@[simp] theorem State.modAccel_qps (s : State) (a : Nat) (g : Accel → Accel) : (s.modAccel a g).qps = s.qps := rfl
@[simp] theorem State.modAccel_controllers (s : State) (a : Nat) (g : Accel → Accel) : (s.modAccel a g).controllers = s.controllers := rfl
@[simp] theorem State.modAccel_fw (s : State) (a : Nat) (g : Accel → Accel) : (s.modAccel a g).fw = s.fw := rfl
@[simp] theorem State.modAccel_kbx (s : State) (a : Nat) (g : Accel → Accel) : (s.modAccel a g).kbx = s.kbx := rfl
@[simp] theorem State.modAccel_spdm (s : State) (a : Nat) (g : Accel → Accel) : (s.modAccel a g).spdm = s.spdm := rfl
@[simp] theorem State.modAccel_power (s : State) (a : Nat) (g : Accel → Accel) : (s.modAccel a g).power = s.power := rfl
@[simp] theorem State.modAccel_survey (s : State) (a : Nat) (g : Accel → Accel) : (s.modAccel a g).survey = s.survey := rfl
@[simp] theorem State.modAccel_recover (s : State) (a : Nat) (g : Accel → Accel) : (s.modAccel a g).recover = s.recover := rfl

@[simp] theorem State.modGrat_same (s : State) (n : Nat) (g : Graticule → Graticule) : (s.modGrat n g).grat n = g (s.grat n) := by
  simp [State.grat, State.modGrat]

theorem State.modGrat_other (s : State) (n j : Nat) (g : Graticule → Graticule) (h : j ≠ n) : (s.modGrat n g).grat j = s.grat j := by
  simp [State.grat, State.modGrat, tblGetD_set_other _ _ _ h]

@[simp] theorem State.modGrat_pending (s : State) (n : Nat) (g : Graticule → Graticule) : (s.modGrat n g).pending = s.pending := rfl
@[simp] theorem State.modGrat_clk (s : State) (n : Nat) (g : Graticule → Graticule) : (s.modGrat n g).clk = s.clk := rfl
@[simp] theorem State.modGrat_free (s : State) (n : Nat) (g : Graticule → Graticule) : (s.modGrat n g).free = s.free := rfl
@[simp] theorem State.modGrat_out (s : State) (n : Nat) (g : Graticule → Graticule) : (s.modGrat n g).out = s.out := rfl
@[simp] theorem State.modGrat_cfg (s : State) (n : Nat) (g : Graticule → Graticule) : (s.modGrat n g).cfg = s.cfg := rfl
@[simp] theorem State.modGrat_txs (s : State) (n : Nat) (g : Graticule → Graticule) : (s.modGrat n g).txs = s.txs := rfl
@[simp] theorem State.modGrat_mer (s : State) (n : Nat) (g : Graticule → Graticule) : (s.modGrat n g).mer = s.mer := rfl
@[simp] theorem State.modGrat_funcs (s : State) (n : Nat) (g : Graticule → Graticule) : (s.modGrat n g).funcs = s.funcs := rfl
@[simp] theorem State.modGrat_mailboxes (s : State) (n : Nat) (g : Graticule → Graticule) : (s.modGrat n g).mailboxes = s.mailboxes := rfl
@[simp] theorem State.modGrat_hosts (s : State) (n : Nat) (g : Graticule → Graticule) : (s.modGrat n g).hosts = s.hosts := rfl
@[simp] theorem State.modGrat_parts (s : State) (n : Nat) (g : Graticule → Graticule) : (s.modGrat n g).parts = s.parts := rfl
@[simp] theorem State.modGrat_contexts (s : State) (n : Nat) (g : Graticule → Graticule) : (s.modGrat n g).contexts = s.contexts := rfl
@[simp] theorem State.modGrat_queues (s : State) (n : Nat) (g : Graticule → Graticule) : (s.modGrat n g).queues = s.queues := rfl
@[simp] theorem State.modGrat_rings (s : State) (n : Nat) (g : Graticule → Graticule) : (s.modGrat n g).rings = s.rings := rfl
@[simp] theorem State.modGrat_regions (s : State) (n : Nat) (g : Graticule → Graticule) : (s.modGrat n g).regions = s.regions := rfl
@[simp] theorem State.modGrat_placements (s : State) (n : Nat) (g : Graticule → Graticule) : (s.modGrat n g).placements = s.placements := rfl
@[simp] theorem State.modGrat_mem (s : State) (n : Nat) (g : Graticule → Graticule) : (s.modGrat n g).mem = s.mem := rfl
@[simp] theorem State.modGrat_tiles (s : State) (n : Nat) (g : Graticule → Graticule) : (s.modGrat n g).tiles = s.tiles := rfl
@[simp] theorem State.modGrat_quads (s : State) (n : Nat) (g : Graticule → Graticule) : (s.modGrat n g).quads = s.quads := rfl
@[simp] theorem State.modGrat_ports (s : State) (n : Nat) (g : Graticule → Graticule) : (s.modGrat n g).ports = s.ports := rfl
@[simp] theorem State.modGrat_charts (s : State) (n : Nat) (g : Graticule → Graticule) : (s.modGrat n g).charts = s.charts := rfl
@[simp] theorem State.modGrat_accels (s : State) (n : Nat) (g : Graticule → Graticule) : (s.modGrat n g).accels = s.accels := rfl
@[simp] theorem State.modGrat_reds (s : State) (n : Nat) (g : Graticule → Graticule) : (s.modGrat n g).reds = s.reds := rfl
@[simp] theorem State.modGrat_seqs (s : State) (n : Nat) (g : Graticule → Graticule) : (s.modGrat n g).seqs = s.seqs := rfl
@[simp] theorem State.modGrat_kernels (s : State) (n : Nat) (g : Graticule → Graticule) : (s.modGrat n g).kernels = s.kernels := rfl
@[simp] theorem State.modGrat_trigs (s : State) (n : Nat) (g : Graticule → Graticule) : (s.modGrat n g).trigs = s.trigs := rfl
@[simp] theorem State.modGrat_qps (s : State) (n : Nat) (g : Graticule → Graticule) : (s.modGrat n g).qps = s.qps := rfl
@[simp] theorem State.modGrat_controllers (s : State) (n : Nat) (g : Graticule → Graticule) : (s.modGrat n g).controllers = s.controllers := rfl
@[simp] theorem State.modGrat_fw (s : State) (n : Nat) (g : Graticule → Graticule) : (s.modGrat n g).fw = s.fw := rfl
@[simp] theorem State.modGrat_kbx (s : State) (n : Nat) (g : Graticule → Graticule) : (s.modGrat n g).kbx = s.kbx := rfl
@[simp] theorem State.modGrat_spdm (s : State) (n : Nat) (g : Graticule → Graticule) : (s.modGrat n g).spdm = s.spdm := rfl
@[simp] theorem State.modGrat_power (s : State) (n : Nat) (g : Graticule → Graticule) : (s.modGrat n g).power = s.power := rfl
@[simp] theorem State.modGrat_survey (s : State) (n : Nat) (g : Graticule → Graticule) : (s.modGrat n g).survey = s.survey := rfl
@[simp] theorem State.modGrat_recover (s : State) (n : Nat) (g : Graticule → Graticule) : (s.modGrat n g).recover = s.recover := rfl

@[simp] theorem State.modRed_same (s : State) (u : Nat) (g : RedUnit → RedUnit) : (s.modRed u g).red u = g (s.red u) := by
  simp [State.red, State.modRed]

theorem State.modRed_other (s : State) (u j : Nat) (g : RedUnit → RedUnit) (h : j ≠ u) : (s.modRed u g).red j = s.red j := by
  simp [State.red, State.modRed, tblGetD_set_other _ _ _ h]

@[simp] theorem State.modRed_pending (s : State) (u : Nat) (g : RedUnit → RedUnit) : (s.modRed u g).pending = s.pending := rfl
@[simp] theorem State.modRed_clk (s : State) (u : Nat) (g : RedUnit → RedUnit) : (s.modRed u g).clk = s.clk := rfl
@[simp] theorem State.modRed_free (s : State) (u : Nat) (g : RedUnit → RedUnit) : (s.modRed u g).free = s.free := rfl
@[simp] theorem State.modRed_out (s : State) (u : Nat) (g : RedUnit → RedUnit) : (s.modRed u g).out = s.out := rfl
@[simp] theorem State.modRed_cfg (s : State) (u : Nat) (g : RedUnit → RedUnit) : (s.modRed u g).cfg = s.cfg := rfl
@[simp] theorem State.modRed_txs (s : State) (u : Nat) (g : RedUnit → RedUnit) : (s.modRed u g).txs = s.txs := rfl
@[simp] theorem State.modRed_mer (s : State) (u : Nat) (g : RedUnit → RedUnit) : (s.modRed u g).mer = s.mer := rfl
@[simp] theorem State.modRed_funcs (s : State) (u : Nat) (g : RedUnit → RedUnit) : (s.modRed u g).funcs = s.funcs := rfl
@[simp] theorem State.modRed_mailboxes (s : State) (u : Nat) (g : RedUnit → RedUnit) : (s.modRed u g).mailboxes = s.mailboxes := rfl
@[simp] theorem State.modRed_hosts (s : State) (u : Nat) (g : RedUnit → RedUnit) : (s.modRed u g).hosts = s.hosts := rfl
@[simp] theorem State.modRed_parts (s : State) (u : Nat) (g : RedUnit → RedUnit) : (s.modRed u g).parts = s.parts := rfl
@[simp] theorem State.modRed_contexts (s : State) (u : Nat) (g : RedUnit → RedUnit) : (s.modRed u g).contexts = s.contexts := rfl
@[simp] theorem State.modRed_queues (s : State) (u : Nat) (g : RedUnit → RedUnit) : (s.modRed u g).queues = s.queues := rfl
@[simp] theorem State.modRed_rings (s : State) (u : Nat) (g : RedUnit → RedUnit) : (s.modRed u g).rings = s.rings := rfl
@[simp] theorem State.modRed_regions (s : State) (u : Nat) (g : RedUnit → RedUnit) : (s.modRed u g).regions = s.regions := rfl
@[simp] theorem State.modRed_placements (s : State) (u : Nat) (g : RedUnit → RedUnit) : (s.modRed u g).placements = s.placements := rfl
@[simp] theorem State.modRed_mem (s : State) (u : Nat) (g : RedUnit → RedUnit) : (s.modRed u g).mem = s.mem := rfl
@[simp] theorem State.modRed_tiles (s : State) (u : Nat) (g : RedUnit → RedUnit) : (s.modRed u g).tiles = s.tiles := rfl
@[simp] theorem State.modRed_quads (s : State) (u : Nat) (g : RedUnit → RedUnit) : (s.modRed u g).quads = s.quads := rfl
@[simp] theorem State.modRed_ports (s : State) (u : Nat) (g : RedUnit → RedUnit) : (s.modRed u g).ports = s.ports := rfl
@[simp] theorem State.modRed_charts (s : State) (u : Nat) (g : RedUnit → RedUnit) : (s.modRed u g).charts = s.charts := rfl
@[simp] theorem State.modRed_accels (s : State) (u : Nat) (g : RedUnit → RedUnit) : (s.modRed u g).accels = s.accels := rfl
@[simp] theorem State.modRed_grats (s : State) (u : Nat) (g : RedUnit → RedUnit) : (s.modRed u g).grats = s.grats := rfl
@[simp] theorem State.modRed_seqs (s : State) (u : Nat) (g : RedUnit → RedUnit) : (s.modRed u g).seqs = s.seqs := rfl
@[simp] theorem State.modRed_kernels (s : State) (u : Nat) (g : RedUnit → RedUnit) : (s.modRed u g).kernels = s.kernels := rfl
@[simp] theorem State.modRed_trigs (s : State) (u : Nat) (g : RedUnit → RedUnit) : (s.modRed u g).trigs = s.trigs := rfl
@[simp] theorem State.modRed_qps (s : State) (u : Nat) (g : RedUnit → RedUnit) : (s.modRed u g).qps = s.qps := rfl
@[simp] theorem State.modRed_controllers (s : State) (u : Nat) (g : RedUnit → RedUnit) : (s.modRed u g).controllers = s.controllers := rfl
@[simp] theorem State.modRed_fw (s : State) (u : Nat) (g : RedUnit → RedUnit) : (s.modRed u g).fw = s.fw := rfl
@[simp] theorem State.modRed_kbx (s : State) (u : Nat) (g : RedUnit → RedUnit) : (s.modRed u g).kbx = s.kbx := rfl
@[simp] theorem State.modRed_spdm (s : State) (u : Nat) (g : RedUnit → RedUnit) : (s.modRed u g).spdm = s.spdm := rfl
@[simp] theorem State.modRed_power (s : State) (u : Nat) (g : RedUnit → RedUnit) : (s.modRed u g).power = s.power := rfl
@[simp] theorem State.modRed_survey (s : State) (u : Nat) (g : RedUnit → RedUnit) : (s.modRed u g).survey = s.survey := rfl
@[simp] theorem State.modRed_recover (s : State) (u : Nat) (g : RedUnit → RedUnit) : (s.modRed u g).recover = s.recover := rfl

@[simp] theorem State.modSeq_same (s : State) (k : Nat) (g : Sequencer → Sequencer) : (s.modSeq k g).seq k = g (s.seq k) := by
  simp [State.seq, State.modSeq]

theorem State.modSeq_other (s : State) (k j : Nat) (g : Sequencer → Sequencer) (h : j ≠ k) : (s.modSeq k g).seq j = s.seq j := by
  simp [State.seq, State.modSeq, tblGetD_set_other _ _ _ h]

@[simp] theorem State.modSeq_pending (s : State) (k : Nat) (g : Sequencer → Sequencer) : (s.modSeq k g).pending = s.pending := rfl
@[simp] theorem State.modSeq_clk (s : State) (k : Nat) (g : Sequencer → Sequencer) : (s.modSeq k g).clk = s.clk := rfl
@[simp] theorem State.modSeq_free (s : State) (k : Nat) (g : Sequencer → Sequencer) : (s.modSeq k g).free = s.free := rfl
@[simp] theorem State.modSeq_out (s : State) (k : Nat) (g : Sequencer → Sequencer) : (s.modSeq k g).out = s.out := rfl
@[simp] theorem State.modSeq_cfg (s : State) (k : Nat) (g : Sequencer → Sequencer) : (s.modSeq k g).cfg = s.cfg := rfl
@[simp] theorem State.modSeq_txs (s : State) (k : Nat) (g : Sequencer → Sequencer) : (s.modSeq k g).txs = s.txs := rfl
@[simp] theorem State.modSeq_mer (s : State) (k : Nat) (g : Sequencer → Sequencer) : (s.modSeq k g).mer = s.mer := rfl
@[simp] theorem State.modSeq_funcs (s : State) (k : Nat) (g : Sequencer → Sequencer) : (s.modSeq k g).funcs = s.funcs := rfl
@[simp] theorem State.modSeq_mailboxes (s : State) (k : Nat) (g : Sequencer → Sequencer) : (s.modSeq k g).mailboxes = s.mailboxes := rfl
@[simp] theorem State.modSeq_hosts (s : State) (k : Nat) (g : Sequencer → Sequencer) : (s.modSeq k g).hosts = s.hosts := rfl
@[simp] theorem State.modSeq_parts (s : State) (k : Nat) (g : Sequencer → Sequencer) : (s.modSeq k g).parts = s.parts := rfl
@[simp] theorem State.modSeq_contexts (s : State) (k : Nat) (g : Sequencer → Sequencer) : (s.modSeq k g).contexts = s.contexts := rfl
@[simp] theorem State.modSeq_queues (s : State) (k : Nat) (g : Sequencer → Sequencer) : (s.modSeq k g).queues = s.queues := rfl
@[simp] theorem State.modSeq_rings (s : State) (k : Nat) (g : Sequencer → Sequencer) : (s.modSeq k g).rings = s.rings := rfl
@[simp] theorem State.modSeq_regions (s : State) (k : Nat) (g : Sequencer → Sequencer) : (s.modSeq k g).regions = s.regions := rfl
@[simp] theorem State.modSeq_placements (s : State) (k : Nat) (g : Sequencer → Sequencer) : (s.modSeq k g).placements = s.placements := rfl
@[simp] theorem State.modSeq_mem (s : State) (k : Nat) (g : Sequencer → Sequencer) : (s.modSeq k g).mem = s.mem := rfl
@[simp] theorem State.modSeq_tiles (s : State) (k : Nat) (g : Sequencer → Sequencer) : (s.modSeq k g).tiles = s.tiles := rfl
@[simp] theorem State.modSeq_quads (s : State) (k : Nat) (g : Sequencer → Sequencer) : (s.modSeq k g).quads = s.quads := rfl
@[simp] theorem State.modSeq_ports (s : State) (k : Nat) (g : Sequencer → Sequencer) : (s.modSeq k g).ports = s.ports := rfl
@[simp] theorem State.modSeq_charts (s : State) (k : Nat) (g : Sequencer → Sequencer) : (s.modSeq k g).charts = s.charts := rfl
@[simp] theorem State.modSeq_accels (s : State) (k : Nat) (g : Sequencer → Sequencer) : (s.modSeq k g).accels = s.accels := rfl
@[simp] theorem State.modSeq_grats (s : State) (k : Nat) (g : Sequencer → Sequencer) : (s.modSeq k g).grats = s.grats := rfl
@[simp] theorem State.modSeq_reds (s : State) (k : Nat) (g : Sequencer → Sequencer) : (s.modSeq k g).reds = s.reds := rfl
@[simp] theorem State.modSeq_kernels (s : State) (k : Nat) (g : Sequencer → Sequencer) : (s.modSeq k g).kernels = s.kernels := rfl
@[simp] theorem State.modSeq_trigs (s : State) (k : Nat) (g : Sequencer → Sequencer) : (s.modSeq k g).trigs = s.trigs := rfl
@[simp] theorem State.modSeq_qps (s : State) (k : Nat) (g : Sequencer → Sequencer) : (s.modSeq k g).qps = s.qps := rfl
@[simp] theorem State.modSeq_controllers (s : State) (k : Nat) (g : Sequencer → Sequencer) : (s.modSeq k g).controllers = s.controllers := rfl
@[simp] theorem State.modSeq_fw (s : State) (k : Nat) (g : Sequencer → Sequencer) : (s.modSeq k g).fw = s.fw := rfl
@[simp] theorem State.modSeq_kbx (s : State) (k : Nat) (g : Sequencer → Sequencer) : (s.modSeq k g).kbx = s.kbx := rfl
@[simp] theorem State.modSeq_spdm (s : State) (k : Nat) (g : Sequencer → Sequencer) : (s.modSeq k g).spdm = s.spdm := rfl
@[simp] theorem State.modSeq_power (s : State) (k : Nat) (g : Sequencer → Sequencer) : (s.modSeq k g).power = s.power := rfl
@[simp] theorem State.modSeq_survey (s : State) (k : Nat) (g : Sequencer → Sequencer) : (s.modSeq k g).survey = s.survey := rfl
@[simp] theorem State.modSeq_recover (s : State) (k : Nat) (g : Sequencer → Sequencer) : (s.modSeq k g).recover = s.recover := rfl

@[simp] theorem State.modMer_same (s : State) (g : Meridian → Meridian) : (s.modMer g).mer = g s.mer := rfl
@[simp] theorem State.modMer_pending (s : State) (g : Meridian → Meridian) : (s.modMer g).pending = s.pending := rfl
@[simp] theorem State.modMer_clk (s : State) (g : Meridian → Meridian) : (s.modMer g).clk = s.clk := rfl
@[simp] theorem State.modMer_free (s : State) (g : Meridian → Meridian) : (s.modMer g).free = s.free := rfl
@[simp] theorem State.modMer_out (s : State) (g : Meridian → Meridian) : (s.modMer g).out = s.out := rfl
@[simp] theorem State.modMer_cfg (s : State) (g : Meridian → Meridian) : (s.modMer g).cfg = s.cfg := rfl
@[simp] theorem State.modMer_txs (s : State) (g : Meridian → Meridian) : (s.modMer g).txs = s.txs := rfl
@[simp] theorem State.modMer_funcs (s : State) (g : Meridian → Meridian) : (s.modMer g).funcs = s.funcs := rfl
@[simp] theorem State.modMer_mailboxes (s : State) (g : Meridian → Meridian) : (s.modMer g).mailboxes = s.mailboxes := rfl
@[simp] theorem State.modMer_hosts (s : State) (g : Meridian → Meridian) : (s.modMer g).hosts = s.hosts := rfl
@[simp] theorem State.modMer_parts (s : State) (g : Meridian → Meridian) : (s.modMer g).parts = s.parts := rfl
@[simp] theorem State.modMer_contexts (s : State) (g : Meridian → Meridian) : (s.modMer g).contexts = s.contexts := rfl
@[simp] theorem State.modMer_queues (s : State) (g : Meridian → Meridian) : (s.modMer g).queues = s.queues := rfl
@[simp] theorem State.modMer_rings (s : State) (g : Meridian → Meridian) : (s.modMer g).rings = s.rings := rfl
@[simp] theorem State.modMer_regions (s : State) (g : Meridian → Meridian) : (s.modMer g).regions = s.regions := rfl
@[simp] theorem State.modMer_placements (s : State) (g : Meridian → Meridian) : (s.modMer g).placements = s.placements := rfl
@[simp] theorem State.modMer_mem (s : State) (g : Meridian → Meridian) : (s.modMer g).mem = s.mem := rfl
@[simp] theorem State.modMer_tiles (s : State) (g : Meridian → Meridian) : (s.modMer g).tiles = s.tiles := rfl
@[simp] theorem State.modMer_quads (s : State) (g : Meridian → Meridian) : (s.modMer g).quads = s.quads := rfl
@[simp] theorem State.modMer_ports (s : State) (g : Meridian → Meridian) : (s.modMer g).ports = s.ports := rfl
@[simp] theorem State.modMer_charts (s : State) (g : Meridian → Meridian) : (s.modMer g).charts = s.charts := rfl
@[simp] theorem State.modMer_accels (s : State) (g : Meridian → Meridian) : (s.modMer g).accels = s.accels := rfl
@[simp] theorem State.modMer_grats (s : State) (g : Meridian → Meridian) : (s.modMer g).grats = s.grats := rfl
@[simp] theorem State.modMer_reds (s : State) (g : Meridian → Meridian) : (s.modMer g).reds = s.reds := rfl
@[simp] theorem State.modMer_seqs (s : State) (g : Meridian → Meridian) : (s.modMer g).seqs = s.seqs := rfl
@[simp] theorem State.modMer_kernels (s : State) (g : Meridian → Meridian) : (s.modMer g).kernels = s.kernels := rfl
@[simp] theorem State.modMer_trigs (s : State) (g : Meridian → Meridian) : (s.modMer g).trigs = s.trigs := rfl
@[simp] theorem State.modMer_qps (s : State) (g : Meridian → Meridian) : (s.modMer g).qps = s.qps := rfl
@[simp] theorem State.modMer_controllers (s : State) (g : Meridian → Meridian) : (s.modMer g).controllers = s.controllers := rfl
@[simp] theorem State.modMer_fw (s : State) (g : Meridian → Meridian) : (s.modMer g).fw = s.fw := rfl
@[simp] theorem State.modMer_kbx (s : State) (g : Meridian → Meridian) : (s.modMer g).kbx = s.kbx := rfl
@[simp] theorem State.modMer_spdm (s : State) (g : Meridian → Meridian) : (s.modMer g).spdm = s.spdm := rfl
@[simp] theorem State.modMer_power (s : State) (g : Meridian → Meridian) : (s.modMer g).power = s.power := rfl
@[simp] theorem State.modMer_survey (s : State) (g : Meridian → Meridian) : (s.modMer g).survey = s.survey := rfl
@[simp] theorem State.modMer_recover (s : State) (g : Meridian → Meridian) : (s.modMer g).recover = s.recover := rfl

@[simp] theorem State.modFw_same (s : State) (g : Firmware → Firmware) : (s.modFw g).fw = g s.fw := rfl
@[simp] theorem State.modFw_pending (s : State) (g : Firmware → Firmware) : (s.modFw g).pending = s.pending := rfl
@[simp] theorem State.modFw_clk (s : State) (g : Firmware → Firmware) : (s.modFw g).clk = s.clk := rfl
@[simp] theorem State.modFw_free (s : State) (g : Firmware → Firmware) : (s.modFw g).free = s.free := rfl
@[simp] theorem State.modFw_out (s : State) (g : Firmware → Firmware) : (s.modFw g).out = s.out := rfl
@[simp] theorem State.modFw_cfg (s : State) (g : Firmware → Firmware) : (s.modFw g).cfg = s.cfg := rfl
@[simp] theorem State.modFw_txs (s : State) (g : Firmware → Firmware) : (s.modFw g).txs = s.txs := rfl
@[simp] theorem State.modFw_mer (s : State) (g : Firmware → Firmware) : (s.modFw g).mer = s.mer := rfl
@[simp] theorem State.modFw_funcs (s : State) (g : Firmware → Firmware) : (s.modFw g).funcs = s.funcs := rfl
@[simp] theorem State.modFw_mailboxes (s : State) (g : Firmware → Firmware) : (s.modFw g).mailboxes = s.mailboxes := rfl
@[simp] theorem State.modFw_hosts (s : State) (g : Firmware → Firmware) : (s.modFw g).hosts = s.hosts := rfl
@[simp] theorem State.modFw_parts (s : State) (g : Firmware → Firmware) : (s.modFw g).parts = s.parts := rfl
@[simp] theorem State.modFw_contexts (s : State) (g : Firmware → Firmware) : (s.modFw g).contexts = s.contexts := rfl
@[simp] theorem State.modFw_queues (s : State) (g : Firmware → Firmware) : (s.modFw g).queues = s.queues := rfl
@[simp] theorem State.modFw_rings (s : State) (g : Firmware → Firmware) : (s.modFw g).rings = s.rings := rfl
@[simp] theorem State.modFw_regions (s : State) (g : Firmware → Firmware) : (s.modFw g).regions = s.regions := rfl
@[simp] theorem State.modFw_placements (s : State) (g : Firmware → Firmware) : (s.modFw g).placements = s.placements := rfl
@[simp] theorem State.modFw_mem (s : State) (g : Firmware → Firmware) : (s.modFw g).mem = s.mem := rfl
@[simp] theorem State.modFw_tiles (s : State) (g : Firmware → Firmware) : (s.modFw g).tiles = s.tiles := rfl
@[simp] theorem State.modFw_quads (s : State) (g : Firmware → Firmware) : (s.modFw g).quads = s.quads := rfl
@[simp] theorem State.modFw_ports (s : State) (g : Firmware → Firmware) : (s.modFw g).ports = s.ports := rfl
@[simp] theorem State.modFw_charts (s : State) (g : Firmware → Firmware) : (s.modFw g).charts = s.charts := rfl
@[simp] theorem State.modFw_accels (s : State) (g : Firmware → Firmware) : (s.modFw g).accels = s.accels := rfl
@[simp] theorem State.modFw_grats (s : State) (g : Firmware → Firmware) : (s.modFw g).grats = s.grats := rfl
@[simp] theorem State.modFw_reds (s : State) (g : Firmware → Firmware) : (s.modFw g).reds = s.reds := rfl
@[simp] theorem State.modFw_seqs (s : State) (g : Firmware → Firmware) : (s.modFw g).seqs = s.seqs := rfl
@[simp] theorem State.modFw_kernels (s : State) (g : Firmware → Firmware) : (s.modFw g).kernels = s.kernels := rfl
@[simp] theorem State.modFw_trigs (s : State) (g : Firmware → Firmware) : (s.modFw g).trigs = s.trigs := rfl
@[simp] theorem State.modFw_qps (s : State) (g : Firmware → Firmware) : (s.modFw g).qps = s.qps := rfl
@[simp] theorem State.modFw_controllers (s : State) (g : Firmware → Firmware) : (s.modFw g).controllers = s.controllers := rfl
@[simp] theorem State.modFw_kbx (s : State) (g : Firmware → Firmware) : (s.modFw g).kbx = s.kbx := rfl
@[simp] theorem State.modFw_spdm (s : State) (g : Firmware → Firmware) : (s.modFw g).spdm = s.spdm := rfl
@[simp] theorem State.modFw_power (s : State) (g : Firmware → Firmware) : (s.modFw g).power = s.power := rfl
@[simp] theorem State.modFw_survey (s : State) (g : Firmware → Firmware) : (s.modFw g).survey = s.survey := rfl
@[simp] theorem State.modFw_recover (s : State) (g : Firmware → Firmware) : (s.modFw g).recover = s.recover := rfl

@[simp] theorem State.modPower_same (s : State) (g : Power → Power) : (s.modPower g).power = g s.power := rfl
@[simp] theorem State.modPower_pending (s : State) (g : Power → Power) : (s.modPower g).pending = s.pending := rfl
@[simp] theorem State.modPower_clk (s : State) (g : Power → Power) : (s.modPower g).clk = s.clk := rfl
@[simp] theorem State.modPower_free (s : State) (g : Power → Power) : (s.modPower g).free = s.free := rfl
@[simp] theorem State.modPower_out (s : State) (g : Power → Power) : (s.modPower g).out = s.out := rfl
@[simp] theorem State.modPower_cfg (s : State) (g : Power → Power) : (s.modPower g).cfg = s.cfg := rfl
@[simp] theorem State.modPower_txs (s : State) (g : Power → Power) : (s.modPower g).txs = s.txs := rfl
@[simp] theorem State.modPower_mer (s : State) (g : Power → Power) : (s.modPower g).mer = s.mer := rfl
@[simp] theorem State.modPower_funcs (s : State) (g : Power → Power) : (s.modPower g).funcs = s.funcs := rfl
@[simp] theorem State.modPower_mailboxes (s : State) (g : Power → Power) : (s.modPower g).mailboxes = s.mailboxes := rfl
@[simp] theorem State.modPower_hosts (s : State) (g : Power → Power) : (s.modPower g).hosts = s.hosts := rfl
@[simp] theorem State.modPower_parts (s : State) (g : Power → Power) : (s.modPower g).parts = s.parts := rfl
@[simp] theorem State.modPower_contexts (s : State) (g : Power → Power) : (s.modPower g).contexts = s.contexts := rfl
@[simp] theorem State.modPower_queues (s : State) (g : Power → Power) : (s.modPower g).queues = s.queues := rfl
@[simp] theorem State.modPower_rings (s : State) (g : Power → Power) : (s.modPower g).rings = s.rings := rfl
@[simp] theorem State.modPower_regions (s : State) (g : Power → Power) : (s.modPower g).regions = s.regions := rfl
@[simp] theorem State.modPower_placements (s : State) (g : Power → Power) : (s.modPower g).placements = s.placements := rfl
@[simp] theorem State.modPower_mem (s : State) (g : Power → Power) : (s.modPower g).mem = s.mem := rfl
@[simp] theorem State.modPower_tiles (s : State) (g : Power → Power) : (s.modPower g).tiles = s.tiles := rfl
@[simp] theorem State.modPower_quads (s : State) (g : Power → Power) : (s.modPower g).quads = s.quads := rfl
@[simp] theorem State.modPower_ports (s : State) (g : Power → Power) : (s.modPower g).ports = s.ports := rfl
@[simp] theorem State.modPower_charts (s : State) (g : Power → Power) : (s.modPower g).charts = s.charts := rfl
@[simp] theorem State.modPower_accels (s : State) (g : Power → Power) : (s.modPower g).accels = s.accels := rfl
@[simp] theorem State.modPower_grats (s : State) (g : Power → Power) : (s.modPower g).grats = s.grats := rfl
@[simp] theorem State.modPower_reds (s : State) (g : Power → Power) : (s.modPower g).reds = s.reds := rfl
@[simp] theorem State.modPower_seqs (s : State) (g : Power → Power) : (s.modPower g).seqs = s.seqs := rfl
@[simp] theorem State.modPower_kernels (s : State) (g : Power → Power) : (s.modPower g).kernels = s.kernels := rfl
@[simp] theorem State.modPower_trigs (s : State) (g : Power → Power) : (s.modPower g).trigs = s.trigs := rfl
@[simp] theorem State.modPower_qps (s : State) (g : Power → Power) : (s.modPower g).qps = s.qps := rfl
@[simp] theorem State.modPower_controllers (s : State) (g : Power → Power) : (s.modPower g).controllers = s.controllers := rfl
@[simp] theorem State.modPower_fw (s : State) (g : Power → Power) : (s.modPower g).fw = s.fw := rfl
@[simp] theorem State.modPower_kbx (s : State) (g : Power → Power) : (s.modPower g).kbx = s.kbx := rfl
@[simp] theorem State.modPower_spdm (s : State) (g : Power → Power) : (s.modPower g).spdm = s.spdm := rfl
@[simp] theorem State.modPower_survey (s : State) (g : Power → Power) : (s.modPower g).survey = s.survey := rfl
@[simp] theorem State.modPower_recover (s : State) (g : Power → Power) : (s.modPower g).recover = s.recover := rfl

@[simp] theorem State.modMem_same (s : State) (g : Memory → Memory) : (s.modMem g).mem = g s.mem := rfl
@[simp] theorem State.modMem_pending (s : State) (g : Memory → Memory) : (s.modMem g).pending = s.pending := rfl
@[simp] theorem State.modMem_clk (s : State) (g : Memory → Memory) : (s.modMem g).clk = s.clk := rfl
@[simp] theorem State.modMem_free (s : State) (g : Memory → Memory) : (s.modMem g).free = s.free := rfl
@[simp] theorem State.modMem_out (s : State) (g : Memory → Memory) : (s.modMem g).out = s.out := rfl
@[simp] theorem State.modMem_cfg (s : State) (g : Memory → Memory) : (s.modMem g).cfg = s.cfg := rfl
@[simp] theorem State.modMem_txs (s : State) (g : Memory → Memory) : (s.modMem g).txs = s.txs := rfl
@[simp] theorem State.modMem_mer (s : State) (g : Memory → Memory) : (s.modMem g).mer = s.mer := rfl
@[simp] theorem State.modMem_funcs (s : State) (g : Memory → Memory) : (s.modMem g).funcs = s.funcs := rfl
@[simp] theorem State.modMem_mailboxes (s : State) (g : Memory → Memory) : (s.modMem g).mailboxes = s.mailboxes := rfl
@[simp] theorem State.modMem_hosts (s : State) (g : Memory → Memory) : (s.modMem g).hosts = s.hosts := rfl
@[simp] theorem State.modMem_parts (s : State) (g : Memory → Memory) : (s.modMem g).parts = s.parts := rfl
@[simp] theorem State.modMem_contexts (s : State) (g : Memory → Memory) : (s.modMem g).contexts = s.contexts := rfl
@[simp] theorem State.modMem_queues (s : State) (g : Memory → Memory) : (s.modMem g).queues = s.queues := rfl
@[simp] theorem State.modMem_rings (s : State) (g : Memory → Memory) : (s.modMem g).rings = s.rings := rfl
@[simp] theorem State.modMem_regions (s : State) (g : Memory → Memory) : (s.modMem g).regions = s.regions := rfl
@[simp] theorem State.modMem_placements (s : State) (g : Memory → Memory) : (s.modMem g).placements = s.placements := rfl
@[simp] theorem State.modMem_tiles (s : State) (g : Memory → Memory) : (s.modMem g).tiles = s.tiles := rfl
@[simp] theorem State.modMem_quads (s : State) (g : Memory → Memory) : (s.modMem g).quads = s.quads := rfl
@[simp] theorem State.modMem_ports (s : State) (g : Memory → Memory) : (s.modMem g).ports = s.ports := rfl
@[simp] theorem State.modMem_charts (s : State) (g : Memory → Memory) : (s.modMem g).charts = s.charts := rfl
@[simp] theorem State.modMem_accels (s : State) (g : Memory → Memory) : (s.modMem g).accels = s.accels := rfl
@[simp] theorem State.modMem_grats (s : State) (g : Memory → Memory) : (s.modMem g).grats = s.grats := rfl
@[simp] theorem State.modMem_reds (s : State) (g : Memory → Memory) : (s.modMem g).reds = s.reds := rfl
@[simp] theorem State.modMem_seqs (s : State) (g : Memory → Memory) : (s.modMem g).seqs = s.seqs := rfl
@[simp] theorem State.modMem_kernels (s : State) (g : Memory → Memory) : (s.modMem g).kernels = s.kernels := rfl
@[simp] theorem State.modMem_trigs (s : State) (g : Memory → Memory) : (s.modMem g).trigs = s.trigs := rfl
@[simp] theorem State.modMem_qps (s : State) (g : Memory → Memory) : (s.modMem g).qps = s.qps := rfl
@[simp] theorem State.modMem_controllers (s : State) (g : Memory → Memory) : (s.modMem g).controllers = s.controllers := rfl
@[simp] theorem State.modMem_fw (s : State) (g : Memory → Memory) : (s.modMem g).fw = s.fw := rfl
@[simp] theorem State.modMem_kbx (s : State) (g : Memory → Memory) : (s.modMem g).kbx = s.kbx := rfl
@[simp] theorem State.modMem_spdm (s : State) (g : Memory → Memory) : (s.modMem g).spdm = s.spdm := rfl
@[simp] theorem State.modMem_power (s : State) (g : Memory → Memory) : (s.modMem g).power = s.power := rfl
@[simp] theorem State.modMem_survey (s : State) (g : Memory → Memory) : (s.modMem g).survey = s.survey := rfl
@[simp] theorem State.modMem_recover (s : State) (g : Memory → Memory) : (s.modMem g).recover = s.recover := rfl

@[simp] theorem State.modRec_same (s : State) (g : Recover → Recover) : (s.modRec g).recover = g s.recover := rfl
@[simp] theorem State.modRec_pending (s : State) (g : Recover → Recover) : (s.modRec g).pending = s.pending := rfl
@[simp] theorem State.modRec_clk (s : State) (g : Recover → Recover) : (s.modRec g).clk = s.clk := rfl
@[simp] theorem State.modRec_free (s : State) (g : Recover → Recover) : (s.modRec g).free = s.free := rfl
@[simp] theorem State.modRec_out (s : State) (g : Recover → Recover) : (s.modRec g).out = s.out := rfl
@[simp] theorem State.modRec_cfg (s : State) (g : Recover → Recover) : (s.modRec g).cfg = s.cfg := rfl
@[simp] theorem State.modRec_txs (s : State) (g : Recover → Recover) : (s.modRec g).txs = s.txs := rfl
@[simp] theorem State.modRec_mer (s : State) (g : Recover → Recover) : (s.modRec g).mer = s.mer := rfl
@[simp] theorem State.modRec_funcs (s : State) (g : Recover → Recover) : (s.modRec g).funcs = s.funcs := rfl
@[simp] theorem State.modRec_mailboxes (s : State) (g : Recover → Recover) : (s.modRec g).mailboxes = s.mailboxes := rfl
@[simp] theorem State.modRec_hosts (s : State) (g : Recover → Recover) : (s.modRec g).hosts = s.hosts := rfl
@[simp] theorem State.modRec_parts (s : State) (g : Recover → Recover) : (s.modRec g).parts = s.parts := rfl
@[simp] theorem State.modRec_contexts (s : State) (g : Recover → Recover) : (s.modRec g).contexts = s.contexts := rfl
@[simp] theorem State.modRec_queues (s : State) (g : Recover → Recover) : (s.modRec g).queues = s.queues := rfl
@[simp] theorem State.modRec_rings (s : State) (g : Recover → Recover) : (s.modRec g).rings = s.rings := rfl
@[simp] theorem State.modRec_regions (s : State) (g : Recover → Recover) : (s.modRec g).regions = s.regions := rfl
@[simp] theorem State.modRec_placements (s : State) (g : Recover → Recover) : (s.modRec g).placements = s.placements := rfl
@[simp] theorem State.modRec_mem (s : State) (g : Recover → Recover) : (s.modRec g).mem = s.mem := rfl
@[simp] theorem State.modRec_tiles (s : State) (g : Recover → Recover) : (s.modRec g).tiles = s.tiles := rfl
@[simp] theorem State.modRec_quads (s : State) (g : Recover → Recover) : (s.modRec g).quads = s.quads := rfl
@[simp] theorem State.modRec_ports (s : State) (g : Recover → Recover) : (s.modRec g).ports = s.ports := rfl
@[simp] theorem State.modRec_charts (s : State) (g : Recover → Recover) : (s.modRec g).charts = s.charts := rfl
@[simp] theorem State.modRec_accels (s : State) (g : Recover → Recover) : (s.modRec g).accels = s.accels := rfl
@[simp] theorem State.modRec_grats (s : State) (g : Recover → Recover) : (s.modRec g).grats = s.grats := rfl
@[simp] theorem State.modRec_reds (s : State) (g : Recover → Recover) : (s.modRec g).reds = s.reds := rfl
@[simp] theorem State.modRec_seqs (s : State) (g : Recover → Recover) : (s.modRec g).seqs = s.seqs := rfl
@[simp] theorem State.modRec_kernels (s : State) (g : Recover → Recover) : (s.modRec g).kernels = s.kernels := rfl
@[simp] theorem State.modRec_trigs (s : State) (g : Recover → Recover) : (s.modRec g).trigs = s.trigs := rfl
@[simp] theorem State.modRec_qps (s : State) (g : Recover → Recover) : (s.modRec g).qps = s.qps := rfl
@[simp] theorem State.modRec_controllers (s : State) (g : Recover → Recover) : (s.modRec g).controllers = s.controllers := rfl
@[simp] theorem State.modRec_fw (s : State) (g : Recover → Recover) : (s.modRec g).fw = s.fw := rfl
@[simp] theorem State.modRec_kbx (s : State) (g : Recover → Recover) : (s.modRec g).kbx = s.kbx := rfl
@[simp] theorem State.modRec_spdm (s : State) (g : Recover → Recover) : (s.modRec g).spdm = s.spdm := rfl
@[simp] theorem State.modRec_power (s : State) (g : Recover → Recover) : (s.modRec g).power = s.power := rfl
@[simp] theorem State.modRec_survey (s : State) (g : Recover → Recover) : (s.modRec g).survey = s.survey := rfl

@[simp] theorem State.setQueue_pending (s : State) (q : Nat) (x : Queue) : (s.setQueue q x).pending = s.pending := rfl
@[simp] theorem State.setQueue_clk (s : State) (q : Nat) (x : Queue) : (s.setQueue q x).clk = s.clk := rfl
@[simp] theorem State.setQueue_free (s : State) (q : Nat) (x : Queue) : (s.setQueue q x).free = s.free := rfl
@[simp] theorem State.setQueue_out (s : State) (q : Nat) (x : Queue) : (s.setQueue q x).out = s.out := rfl
@[simp] theorem State.setQueue_cfg (s : State) (q : Nat) (x : Queue) : (s.setQueue q x).cfg = s.cfg := rfl
@[simp] theorem State.setQueue_txs (s : State) (q : Nat) (x : Queue) : (s.setQueue q x).txs = s.txs := rfl
@[simp] theorem State.setQueue_mer (s : State) (q : Nat) (x : Queue) : (s.setQueue q x).mer = s.mer := rfl
@[simp] theorem State.setQueue_funcs (s : State) (q : Nat) (x : Queue) : (s.setQueue q x).funcs = s.funcs := rfl
@[simp] theorem State.setQueue_mailboxes (s : State) (q : Nat) (x : Queue) : (s.setQueue q x).mailboxes = s.mailboxes := rfl
@[simp] theorem State.setQueue_hosts (s : State) (q : Nat) (x : Queue) : (s.setQueue q x).hosts = s.hosts := rfl
@[simp] theorem State.setQueue_parts (s : State) (q : Nat) (x : Queue) : (s.setQueue q x).parts = s.parts := rfl
@[simp] theorem State.setQueue_contexts (s : State) (q : Nat) (x : Queue) : (s.setQueue q x).contexts = s.contexts := rfl
@[simp] theorem State.setQueue_rings (s : State) (q : Nat) (x : Queue) : (s.setQueue q x).rings = s.rings := rfl
@[simp] theorem State.setQueue_regions (s : State) (q : Nat) (x : Queue) : (s.setQueue q x).regions = s.regions := rfl
@[simp] theorem State.setQueue_placements (s : State) (q : Nat) (x : Queue) : (s.setQueue q x).placements = s.placements := rfl
@[simp] theorem State.setQueue_mem (s : State) (q : Nat) (x : Queue) : (s.setQueue q x).mem = s.mem := rfl
@[simp] theorem State.setQueue_tiles (s : State) (q : Nat) (x : Queue) : (s.setQueue q x).tiles = s.tiles := rfl
@[simp] theorem State.setQueue_quads (s : State) (q : Nat) (x : Queue) : (s.setQueue q x).quads = s.quads := rfl
@[simp] theorem State.setQueue_ports (s : State) (q : Nat) (x : Queue) : (s.setQueue q x).ports = s.ports := rfl
@[simp] theorem State.setQueue_charts (s : State) (q : Nat) (x : Queue) : (s.setQueue q x).charts = s.charts := rfl
@[simp] theorem State.setQueue_accels (s : State) (q : Nat) (x : Queue) : (s.setQueue q x).accels = s.accels := rfl
@[simp] theorem State.setQueue_grats (s : State) (q : Nat) (x : Queue) : (s.setQueue q x).grats = s.grats := rfl
@[simp] theorem State.setQueue_reds (s : State) (q : Nat) (x : Queue) : (s.setQueue q x).reds = s.reds := rfl
@[simp] theorem State.setQueue_seqs (s : State) (q : Nat) (x : Queue) : (s.setQueue q x).seqs = s.seqs := rfl
@[simp] theorem State.setQueue_kernels (s : State) (q : Nat) (x : Queue) : (s.setQueue q x).kernels = s.kernels := rfl
@[simp] theorem State.setQueue_trigs (s : State) (q : Nat) (x : Queue) : (s.setQueue q x).trigs = s.trigs := rfl
@[simp] theorem State.setQueue_qps (s : State) (q : Nat) (x : Queue) : (s.setQueue q x).qps = s.qps := rfl
@[simp] theorem State.setQueue_controllers (s : State) (q : Nat) (x : Queue) : (s.setQueue q x).controllers = s.controllers := rfl
@[simp] theorem State.setQueue_fw (s : State) (q : Nat) (x : Queue) : (s.setQueue q x).fw = s.fw := rfl
@[simp] theorem State.setQueue_kbx (s : State) (q : Nat) (x : Queue) : (s.setQueue q x).kbx = s.kbx := rfl
@[simp] theorem State.setQueue_spdm (s : State) (q : Nat) (x : Queue) : (s.setQueue q x).spdm = s.spdm := rfl
@[simp] theorem State.setQueue_power (s : State) (q : Nat) (x : Queue) : (s.setQueue q x).power = s.power := rfl
@[simp] theorem State.setQueue_survey (s : State) (q : Nat) (x : Queue) : (s.setQueue q x).survey = s.survey := rfl
@[simp] theorem State.setQueue_recover (s : State) (q : Nat) (x : Queue) : (s.setQueue q x).recover = s.recover := rfl

@[simp] theorem State.setRing_pending (s : State) (r : Nat) (x : Ring) : (s.setRing r x).pending = s.pending := rfl
@[simp] theorem State.setRing_clk (s : State) (r : Nat) (x : Ring) : (s.setRing r x).clk = s.clk := rfl
@[simp] theorem State.setRing_free (s : State) (r : Nat) (x : Ring) : (s.setRing r x).free = s.free := rfl
@[simp] theorem State.setRing_out (s : State) (r : Nat) (x : Ring) : (s.setRing r x).out = s.out := rfl
@[simp] theorem State.setRing_cfg (s : State) (r : Nat) (x : Ring) : (s.setRing r x).cfg = s.cfg := rfl
@[simp] theorem State.setRing_txs (s : State) (r : Nat) (x : Ring) : (s.setRing r x).txs = s.txs := rfl
@[simp] theorem State.setRing_mer (s : State) (r : Nat) (x : Ring) : (s.setRing r x).mer = s.mer := rfl
@[simp] theorem State.setRing_funcs (s : State) (r : Nat) (x : Ring) : (s.setRing r x).funcs = s.funcs := rfl
@[simp] theorem State.setRing_mailboxes (s : State) (r : Nat) (x : Ring) : (s.setRing r x).mailboxes = s.mailboxes := rfl
@[simp] theorem State.setRing_hosts (s : State) (r : Nat) (x : Ring) : (s.setRing r x).hosts = s.hosts := rfl
@[simp] theorem State.setRing_parts (s : State) (r : Nat) (x : Ring) : (s.setRing r x).parts = s.parts := rfl
@[simp] theorem State.setRing_contexts (s : State) (r : Nat) (x : Ring) : (s.setRing r x).contexts = s.contexts := rfl
@[simp] theorem State.setRing_queues (s : State) (r : Nat) (x : Ring) : (s.setRing r x).queues = s.queues := rfl
@[simp] theorem State.setRing_regions (s : State) (r : Nat) (x : Ring) : (s.setRing r x).regions = s.regions := rfl
@[simp] theorem State.setRing_placements (s : State) (r : Nat) (x : Ring) : (s.setRing r x).placements = s.placements := rfl
@[simp] theorem State.setRing_mem (s : State) (r : Nat) (x : Ring) : (s.setRing r x).mem = s.mem := rfl
@[simp] theorem State.setRing_tiles (s : State) (r : Nat) (x : Ring) : (s.setRing r x).tiles = s.tiles := rfl
@[simp] theorem State.setRing_quads (s : State) (r : Nat) (x : Ring) : (s.setRing r x).quads = s.quads := rfl
@[simp] theorem State.setRing_ports (s : State) (r : Nat) (x : Ring) : (s.setRing r x).ports = s.ports := rfl
@[simp] theorem State.setRing_charts (s : State) (r : Nat) (x : Ring) : (s.setRing r x).charts = s.charts := rfl
@[simp] theorem State.setRing_accels (s : State) (r : Nat) (x : Ring) : (s.setRing r x).accels = s.accels := rfl
@[simp] theorem State.setRing_grats (s : State) (r : Nat) (x : Ring) : (s.setRing r x).grats = s.grats := rfl
@[simp] theorem State.setRing_reds (s : State) (r : Nat) (x : Ring) : (s.setRing r x).reds = s.reds := rfl
@[simp] theorem State.setRing_seqs (s : State) (r : Nat) (x : Ring) : (s.setRing r x).seqs = s.seqs := rfl
@[simp] theorem State.setRing_kernels (s : State) (r : Nat) (x : Ring) : (s.setRing r x).kernels = s.kernels := rfl
@[simp] theorem State.setRing_trigs (s : State) (r : Nat) (x : Ring) : (s.setRing r x).trigs = s.trigs := rfl
@[simp] theorem State.setRing_qps (s : State) (r : Nat) (x : Ring) : (s.setRing r x).qps = s.qps := rfl
@[simp] theorem State.setRing_controllers (s : State) (r : Nat) (x : Ring) : (s.setRing r x).controllers = s.controllers := rfl
@[simp] theorem State.setRing_fw (s : State) (r : Nat) (x : Ring) : (s.setRing r x).fw = s.fw := rfl
@[simp] theorem State.setRing_kbx (s : State) (r : Nat) (x : Ring) : (s.setRing r x).kbx = s.kbx := rfl
@[simp] theorem State.setRing_spdm (s : State) (r : Nat) (x : Ring) : (s.setRing r x).spdm = s.spdm := rfl
@[simp] theorem State.setRing_power (s : State) (r : Nat) (x : Ring) : (s.setRing r x).power = s.power := rfl
@[simp] theorem State.setRing_survey (s : State) (r : Nat) (x : Ring) : (s.setRing r x).survey = s.survey := rfl
@[simp] theorem State.setRing_recover (s : State) (r : Nat) (x : Ring) : (s.setRing r x).recover = s.recover := rfl

@[simp] theorem State.setTrig_pending (s : State) (i p : Nat) (v : W64) : (s.setTrig i p v).pending = s.pending := rfl
@[simp] theorem State.setTrig_clk (s : State) (i p : Nat) (v : W64) : (s.setTrig i p v).clk = s.clk := rfl
@[simp] theorem State.setTrig_free (s : State) (i p : Nat) (v : W64) : (s.setTrig i p v).free = s.free := rfl
@[simp] theorem State.setTrig_out (s : State) (i p : Nat) (v : W64) : (s.setTrig i p v).out = s.out := rfl
@[simp] theorem State.setTrig_cfg (s : State) (i p : Nat) (v : W64) : (s.setTrig i p v).cfg = s.cfg := rfl
@[simp] theorem State.setTrig_txs (s : State) (i p : Nat) (v : W64) : (s.setTrig i p v).txs = s.txs := rfl
@[simp] theorem State.setTrig_mer (s : State) (i p : Nat) (v : W64) : (s.setTrig i p v).mer = s.mer := rfl
@[simp] theorem State.setTrig_funcs (s : State) (i p : Nat) (v : W64) : (s.setTrig i p v).funcs = s.funcs := rfl
@[simp] theorem State.setTrig_mailboxes (s : State) (i p : Nat) (v : W64) : (s.setTrig i p v).mailboxes = s.mailboxes := rfl
@[simp] theorem State.setTrig_hosts (s : State) (i p : Nat) (v : W64) : (s.setTrig i p v).hosts = s.hosts := rfl
@[simp] theorem State.setTrig_parts (s : State) (i p : Nat) (v : W64) : (s.setTrig i p v).parts = s.parts := rfl
@[simp] theorem State.setTrig_contexts (s : State) (i p : Nat) (v : W64) : (s.setTrig i p v).contexts = s.contexts := rfl
@[simp] theorem State.setTrig_queues (s : State) (i p : Nat) (v : W64) : (s.setTrig i p v).queues = s.queues := rfl
@[simp] theorem State.setTrig_rings (s : State) (i p : Nat) (v : W64) : (s.setTrig i p v).rings = s.rings := rfl
@[simp] theorem State.setTrig_regions (s : State) (i p : Nat) (v : W64) : (s.setTrig i p v).regions = s.regions := rfl
@[simp] theorem State.setTrig_placements (s : State) (i p : Nat) (v : W64) : (s.setTrig i p v).placements = s.placements := rfl
@[simp] theorem State.setTrig_mem (s : State) (i p : Nat) (v : W64) : (s.setTrig i p v).mem = s.mem := rfl
@[simp] theorem State.setTrig_tiles (s : State) (i p : Nat) (v : W64) : (s.setTrig i p v).tiles = s.tiles := rfl
@[simp] theorem State.setTrig_quads (s : State) (i p : Nat) (v : W64) : (s.setTrig i p v).quads = s.quads := rfl
@[simp] theorem State.setTrig_ports (s : State) (i p : Nat) (v : W64) : (s.setTrig i p v).ports = s.ports := rfl
@[simp] theorem State.setTrig_charts (s : State) (i p : Nat) (v : W64) : (s.setTrig i p v).charts = s.charts := rfl
@[simp] theorem State.setTrig_accels (s : State) (i p : Nat) (v : W64) : (s.setTrig i p v).accels = s.accels := rfl
@[simp] theorem State.setTrig_grats (s : State) (i p : Nat) (v : W64) : (s.setTrig i p v).grats = s.grats := rfl
@[simp] theorem State.setTrig_reds (s : State) (i p : Nat) (v : W64) : (s.setTrig i p v).reds = s.reds := rfl
@[simp] theorem State.setTrig_seqs (s : State) (i p : Nat) (v : W64) : (s.setTrig i p v).seqs = s.seqs := rfl
@[simp] theorem State.setTrig_kernels (s : State) (i p : Nat) (v : W64) : (s.setTrig i p v).kernels = s.kernels := rfl
@[simp] theorem State.setTrig_qps (s : State) (i p : Nat) (v : W64) : (s.setTrig i p v).qps = s.qps := rfl
@[simp] theorem State.setTrig_controllers (s : State) (i p : Nat) (v : W64) : (s.setTrig i p v).controllers = s.controllers := rfl
@[simp] theorem State.setTrig_fw (s : State) (i p : Nat) (v : W64) : (s.setTrig i p v).fw = s.fw := rfl
@[simp] theorem State.setTrig_kbx (s : State) (i p : Nat) (v : W64) : (s.setTrig i p v).kbx = s.kbx := rfl
@[simp] theorem State.setTrig_spdm (s : State) (i p : Nat) (v : W64) : (s.setTrig i p v).spdm = s.spdm := rfl
@[simp] theorem State.setTrig_power (s : State) (i p : Nat) (v : W64) : (s.setTrig i p v).power = s.power := rfl
@[simp] theorem State.setTrig_survey (s : State) (i p : Nat) (v : W64) : (s.setTrig i p v).survey = s.survey := rfl
@[simp] theorem State.setTrig_recover (s : State) (i p : Nat) (v : W64) : (s.setTrig i p v).recover = s.recover := rfl
@[simp] theorem State.emit_pending (s : State) (o : Out) : (s.emit o).pending = s.pending := rfl
@[simp] theorem State.emit_clk (s : State) (o : Out) : (s.emit o).clk = s.clk := rfl
@[simp] theorem State.emit_free (s : State) (o : Out) : (s.emit o).free = s.free := rfl
@[simp] theorem State.emit_cfg (s : State) (o : Out) : (s.emit o).cfg = s.cfg := rfl
@[simp] theorem State.emit_txs (s : State) (o : Out) : (s.emit o).txs = s.txs := rfl
@[simp] theorem State.emit_mer (s : State) (o : Out) : (s.emit o).mer = s.mer := rfl
@[simp] theorem State.emit_funcs (s : State) (o : Out) : (s.emit o).funcs = s.funcs := rfl
@[simp] theorem State.emit_mailboxes (s : State) (o : Out) : (s.emit o).mailboxes = s.mailboxes := rfl
@[simp] theorem State.emit_hosts (s : State) (o : Out) : (s.emit o).hosts = s.hosts := rfl
@[simp] theorem State.emit_parts (s : State) (o : Out) : (s.emit o).parts = s.parts := rfl
@[simp] theorem State.emit_contexts (s : State) (o : Out) : (s.emit o).contexts = s.contexts := rfl
@[simp] theorem State.emit_queues (s : State) (o : Out) : (s.emit o).queues = s.queues := rfl
@[simp] theorem State.emit_rings (s : State) (o : Out) : (s.emit o).rings = s.rings := rfl
@[simp] theorem State.emit_regions (s : State) (o : Out) : (s.emit o).regions = s.regions := rfl
@[simp] theorem State.emit_placements (s : State) (o : Out) : (s.emit o).placements = s.placements := rfl
@[simp] theorem State.emit_mem (s : State) (o : Out) : (s.emit o).mem = s.mem := rfl
@[simp] theorem State.emit_tiles (s : State) (o : Out) : (s.emit o).tiles = s.tiles := rfl
@[simp] theorem State.emit_quads (s : State) (o : Out) : (s.emit o).quads = s.quads := rfl
@[simp] theorem State.emit_ports (s : State) (o : Out) : (s.emit o).ports = s.ports := rfl
@[simp] theorem State.emit_charts (s : State) (o : Out) : (s.emit o).charts = s.charts := rfl
@[simp] theorem State.emit_accels (s : State) (o : Out) : (s.emit o).accels = s.accels := rfl
@[simp] theorem State.emit_grats (s : State) (o : Out) : (s.emit o).grats = s.grats := rfl
@[simp] theorem State.emit_reds (s : State) (o : Out) : (s.emit o).reds = s.reds := rfl
@[simp] theorem State.emit_seqs (s : State) (o : Out) : (s.emit o).seqs = s.seqs := rfl
@[simp] theorem State.emit_kernels (s : State) (o : Out) : (s.emit o).kernels = s.kernels := rfl
@[simp] theorem State.emit_trigs (s : State) (o : Out) : (s.emit o).trigs = s.trigs := rfl
@[simp] theorem State.emit_qps (s : State) (o : Out) : (s.emit o).qps = s.qps := rfl
@[simp] theorem State.emit_controllers (s : State) (o : Out) : (s.emit o).controllers = s.controllers := rfl
@[simp] theorem State.emit_fw (s : State) (o : Out) : (s.emit o).fw = s.fw := rfl
@[simp] theorem State.emit_kbx (s : State) (o : Out) : (s.emit o).kbx = s.kbx := rfl
@[simp] theorem State.emit_spdm (s : State) (o : Out) : (s.emit o).spdm = s.spdm := rfl
@[simp] theorem State.emit_power (s : State) (o : Out) : (s.emit o).power = s.power := rfl
@[simp] theorem State.emit_survey (s : State) (o : Out) : (s.emit o).survey = s.survey := rfl
@[simp] theorem State.emit_recover (s : State) (o : Out) : (s.emit o).recover = s.recover := rfl
@[simp] theorem State.count_pending (s : State) (id n : Nat) : (s.count id n).pending = s.pending := rfl
@[simp] theorem State.count_clk (s : State) (id n : Nat) : (s.count id n).clk = s.clk := rfl
@[simp] theorem State.count_free (s : State) (id n : Nat) : (s.count id n).free = s.free := rfl
@[simp] theorem State.count_out (s : State) (id n : Nat) : (s.count id n).out = s.out := rfl
@[simp] theorem State.count_cfg (s : State) (id n : Nat) : (s.count id n).cfg = s.cfg := rfl
@[simp] theorem State.count_txs (s : State) (id n : Nat) : (s.count id n).txs = s.txs := rfl
@[simp] theorem State.count_mer (s : State) (id n : Nat) : (s.count id n).mer = s.mer := rfl
@[simp] theorem State.count_funcs (s : State) (id n : Nat) : (s.count id n).funcs = s.funcs := rfl
@[simp] theorem State.count_mailboxes (s : State) (id n : Nat) : (s.count id n).mailboxes = s.mailboxes := rfl
@[simp] theorem State.count_hosts (s : State) (id n : Nat) : (s.count id n).hosts = s.hosts := rfl
@[simp] theorem State.count_parts (s : State) (id n : Nat) : (s.count id n).parts = s.parts := rfl
@[simp] theorem State.count_contexts (s : State) (id n : Nat) : (s.count id n).contexts = s.contexts := rfl
@[simp] theorem State.count_queues (s : State) (id n : Nat) : (s.count id n).queues = s.queues := rfl
@[simp] theorem State.count_rings (s : State) (id n : Nat) : (s.count id n).rings = s.rings := rfl
@[simp] theorem State.count_regions (s : State) (id n : Nat) : (s.count id n).regions = s.regions := rfl
@[simp] theorem State.count_placements (s : State) (id n : Nat) : (s.count id n).placements = s.placements := rfl
@[simp] theorem State.count_mem (s : State) (id n : Nat) : (s.count id n).mem = s.mem := rfl
@[simp] theorem State.count_tiles (s : State) (id n : Nat) : (s.count id n).tiles = s.tiles := rfl
@[simp] theorem State.count_quads (s : State) (id n : Nat) : (s.count id n).quads = s.quads := rfl
@[simp] theorem State.count_ports (s : State) (id n : Nat) : (s.count id n).ports = s.ports := rfl
@[simp] theorem State.count_charts (s : State) (id n : Nat) : (s.count id n).charts = s.charts := rfl
@[simp] theorem State.count_accels (s : State) (id n : Nat) : (s.count id n).accels = s.accels := rfl
@[simp] theorem State.count_grats (s : State) (id n : Nat) : (s.count id n).grats = s.grats := rfl
@[simp] theorem State.count_reds (s : State) (id n : Nat) : (s.count id n).reds = s.reds := rfl
@[simp] theorem State.count_seqs (s : State) (id n : Nat) : (s.count id n).seqs = s.seqs := rfl
@[simp] theorem State.count_kernels (s : State) (id n : Nat) : (s.count id n).kernels = s.kernels := rfl
@[simp] theorem State.count_trigs (s : State) (id n : Nat) : (s.count id n).trigs = s.trigs := rfl
@[simp] theorem State.count_qps (s : State) (id n : Nat) : (s.count id n).qps = s.qps := rfl
@[simp] theorem State.count_controllers (s : State) (id n : Nat) : (s.count id n).controllers = s.controllers := rfl
@[simp] theorem State.count_fw (s : State) (id n : Nat) : (s.count id n).fw = s.fw := rfl
@[simp] theorem State.count_kbx (s : State) (id n : Nat) : (s.count id n).kbx = s.kbx := rfl
@[simp] theorem State.count_spdm (s : State) (id n : Nat) : (s.count id n).spdm = s.spdm := rfl
@[simp] theorem State.count_power (s : State) (id n : Nat) : (s.count id n).power = s.power := rfl
@[simp] theorem State.count_recover (s : State) (id n : Nat) : (s.count id n).recover = s.recover := rfl
@[simp] theorem State.draw_pending (s : State)  : (s.draw.2).pending = s.pending := rfl
@[simp] theorem State.draw_clk (s : State)  : (s.draw.2).clk = s.clk := rfl
@[simp] theorem State.draw_out (s : State)  : (s.draw.2).out = s.out := rfl
@[simp] theorem State.draw_cfg (s : State)  : (s.draw.2).cfg = s.cfg := rfl
@[simp] theorem State.draw_txs (s : State)  : (s.draw.2).txs = s.txs := rfl
@[simp] theorem State.draw_mer (s : State)  : (s.draw.2).mer = s.mer := rfl
@[simp] theorem State.draw_funcs (s : State)  : (s.draw.2).funcs = s.funcs := rfl
@[simp] theorem State.draw_mailboxes (s : State)  : (s.draw.2).mailboxes = s.mailboxes := rfl
@[simp] theorem State.draw_hosts (s : State)  : (s.draw.2).hosts = s.hosts := rfl
@[simp] theorem State.draw_parts (s : State)  : (s.draw.2).parts = s.parts := rfl
@[simp] theorem State.draw_contexts (s : State)  : (s.draw.2).contexts = s.contexts := rfl
@[simp] theorem State.draw_queues (s : State)  : (s.draw.2).queues = s.queues := rfl
@[simp] theorem State.draw_rings (s : State)  : (s.draw.2).rings = s.rings := rfl
@[simp] theorem State.draw_regions (s : State)  : (s.draw.2).regions = s.regions := rfl
@[simp] theorem State.draw_placements (s : State)  : (s.draw.2).placements = s.placements := rfl
@[simp] theorem State.draw_mem (s : State)  : (s.draw.2).mem = s.mem := rfl
@[simp] theorem State.draw_tiles (s : State)  : (s.draw.2).tiles = s.tiles := rfl
@[simp] theorem State.draw_quads (s : State)  : (s.draw.2).quads = s.quads := rfl
@[simp] theorem State.draw_ports (s : State)  : (s.draw.2).ports = s.ports := rfl
@[simp] theorem State.draw_charts (s : State)  : (s.draw.2).charts = s.charts := rfl
@[simp] theorem State.draw_accels (s : State)  : (s.draw.2).accels = s.accels := rfl
@[simp] theorem State.draw_grats (s : State)  : (s.draw.2).grats = s.grats := rfl
@[simp] theorem State.draw_reds (s : State)  : (s.draw.2).reds = s.reds := rfl
@[simp] theorem State.draw_seqs (s : State)  : (s.draw.2).seqs = s.seqs := rfl
@[simp] theorem State.draw_kernels (s : State)  : (s.draw.2).kernels = s.kernels := rfl
@[simp] theorem State.draw_trigs (s : State)  : (s.draw.2).trigs = s.trigs := rfl
@[simp] theorem State.draw_qps (s : State)  : (s.draw.2).qps = s.qps := rfl
@[simp] theorem State.draw_controllers (s : State)  : (s.draw.2).controllers = s.controllers := rfl
@[simp] theorem State.draw_fw (s : State)  : (s.draw.2).fw = s.fw := rfl
@[simp] theorem State.draw_kbx (s : State)  : (s.draw.2).kbx = s.kbx := rfl
@[simp] theorem State.draw_spdm (s : State)  : (s.draw.2).spdm = s.spdm := rfl
@[simp] theorem State.draw_power (s : State)  : (s.draw.2).power = s.power := rfl
@[simp] theorem State.draw_survey (s : State)  : (s.draw.2).survey = s.survey := rfl
@[simp] theorem State.draw_recover (s : State)  : (s.draw.2).recover = s.recover := rfl

@[simp] theorem State.modFunc_mbx (s : State) (f : Nat) (g : Func → Func) (j : Nat) : (s.modFunc f g).mbx j = s.mbx j := rfl
@[simp] theorem State.modFunc_host (s : State) (f : Nat) (g : Func → Func) (j : Nat) : (s.modFunc f g).host j = s.host j := rfl
@[simp] theorem State.modFunc_part (s : State) (f : Nat) (g : Func → Func) (j : Nat) : (s.modFunc f g).part j = s.part j := rfl
@[simp] theorem State.modFunc_ctx (s : State) (f : Nat) (g : Func → Func) (j : Nat) : (s.modFunc f g).ctx j = s.ctx j := rfl
@[simp] theorem State.modFunc_region (s : State) (f : Nat) (g : Func → Func) (j : Nat) : (s.modFunc f g).region j = s.region j := rfl
@[simp] theorem State.modFunc_place (s : State) (f : Nat) (g : Func → Func) (j : Nat) : (s.modFunc f g).place j = s.place j := rfl
@[simp] theorem State.modFunc_quad (s : State) (f : Nat) (g : Func → Func) (j : Nat) : (s.modFunc f g).quad j = s.quad j := rfl
@[simp] theorem State.modFunc_port (s : State) (f : Nat) (g : Func → Func) (j : Nat) : (s.modFunc f g).port j = s.port j := rfl
@[simp] theorem State.modFunc_accel (s : State) (f : Nat) (g : Func → Func) (j : Nat) : (s.modFunc f g).accel j = s.accel j := rfl
@[simp] theorem State.modFunc_grat (s : State) (f : Nat) (g : Func → Func) (j : Nat) : (s.modFunc f g).grat j = s.grat j := rfl
@[simp] theorem State.modFunc_red (s : State) (f : Nat) (g : Func → Func) (j : Nat) : (s.modFunc f g).red j = s.red j := rfl
@[simp] theorem State.modFunc_seq (s : State) (f : Nat) (g : Func → Func) (j : Nat) : (s.modFunc f g).seq j = s.seq j := rfl
@[simp] theorem State.modFunc_queue_get (s : State) (f : Nat) (g : Func → Func) (j : Nat) : (s.modFunc f g).queue? j = s.queue? j := rfl
@[simp] theorem State.modFunc_ring_get (s : State) (f : Nat) (g : Func → Func) (j : Nat) : (s.modFunc f g).ring? j = s.ring? j := rfl
@[simp] theorem State.modFunc_trig_get (s : State) (f : Nat) (g : Func → Func) (j : Nat) : (s.modFunc f g).trig? j = s.trig? j := rfl
@[simp] theorem State.modFunc_mt (s : State) (f : Nat) (g : Func → Func)  : (s.modFunc f g).mt = s.mt := rfl
@[simp] theorem State.modFunc_mpl (s : State) (f : Nat) (g : Func → Func)  : (s.modFunc f g).mpl = s.mpl := rfl
@[simp] theorem State.modFunc_mplClk (s : State) (f : Nat) (g : Func → Func)  : (s.modFunc f g).mplClk = s.mplClk := rfl

@[simp] theorem State.modMbx_func (s : State) (k : Nat) (g : Mailbox → Mailbox) (j : Nat) : (s.modMbx k g).func j = s.func j := rfl
@[simp] theorem State.modMbx_host (s : State) (k : Nat) (g : Mailbox → Mailbox) (j : Nat) : (s.modMbx k g).host j = s.host j := rfl
@[simp] theorem State.modMbx_part (s : State) (k : Nat) (g : Mailbox → Mailbox) (j : Nat) : (s.modMbx k g).part j = s.part j := rfl
@[simp] theorem State.modMbx_ctx (s : State) (k : Nat) (g : Mailbox → Mailbox) (j : Nat) : (s.modMbx k g).ctx j = s.ctx j := rfl
@[simp] theorem State.modMbx_region (s : State) (k : Nat) (g : Mailbox → Mailbox) (j : Nat) : (s.modMbx k g).region j = s.region j := rfl
@[simp] theorem State.modMbx_place (s : State) (k : Nat) (g : Mailbox → Mailbox) (j : Nat) : (s.modMbx k g).place j = s.place j := rfl
@[simp] theorem State.modMbx_quad (s : State) (k : Nat) (g : Mailbox → Mailbox) (j : Nat) : (s.modMbx k g).quad j = s.quad j := rfl
@[simp] theorem State.modMbx_port (s : State) (k : Nat) (g : Mailbox → Mailbox) (j : Nat) : (s.modMbx k g).port j = s.port j := rfl
@[simp] theorem State.modMbx_accel (s : State) (k : Nat) (g : Mailbox → Mailbox) (j : Nat) : (s.modMbx k g).accel j = s.accel j := rfl
@[simp] theorem State.modMbx_grat (s : State) (k : Nat) (g : Mailbox → Mailbox) (j : Nat) : (s.modMbx k g).grat j = s.grat j := rfl
@[simp] theorem State.modMbx_red (s : State) (k : Nat) (g : Mailbox → Mailbox) (j : Nat) : (s.modMbx k g).red j = s.red j := rfl
@[simp] theorem State.modMbx_seq (s : State) (k : Nat) (g : Mailbox → Mailbox) (j : Nat) : (s.modMbx k g).seq j = s.seq j := rfl
@[simp] theorem State.modMbx_queue_get (s : State) (k : Nat) (g : Mailbox → Mailbox) (j : Nat) : (s.modMbx k g).queue? j = s.queue? j := rfl
@[simp] theorem State.modMbx_ring_get (s : State) (k : Nat) (g : Mailbox → Mailbox) (j : Nat) : (s.modMbx k g).ring? j = s.ring? j := rfl
@[simp] theorem State.modMbx_trig_get (s : State) (k : Nat) (g : Mailbox → Mailbox) (j : Nat) : (s.modMbx k g).trig? j = s.trig? j := rfl
@[simp] theorem State.modMbx_mt (s : State) (k : Nat) (g : Mailbox → Mailbox)  : (s.modMbx k g).mt = s.mt := rfl
@[simp] theorem State.modMbx_mpl (s : State) (k : Nat) (g : Mailbox → Mailbox)  : (s.modMbx k g).mpl = s.mpl := rfl
@[simp] theorem State.modMbx_mplClk (s : State) (k : Nat) (g : Mailbox → Mailbox)  : (s.modMbx k g).mplClk = s.mplClk := rfl

@[simp] theorem State.modHost_func (s : State) (p : Nat) (g : HostPort → HostPort) (j : Nat) : (s.modHost p g).func j = s.func j := rfl
@[simp] theorem State.modHost_mbx (s : State) (p : Nat) (g : HostPort → HostPort) (j : Nat) : (s.modHost p g).mbx j = s.mbx j := rfl
@[simp] theorem State.modHost_part (s : State) (p : Nat) (g : HostPort → HostPort) (j : Nat) : (s.modHost p g).part j = s.part j := rfl
@[simp] theorem State.modHost_ctx (s : State) (p : Nat) (g : HostPort → HostPort) (j : Nat) : (s.modHost p g).ctx j = s.ctx j := rfl
@[simp] theorem State.modHost_region (s : State) (p : Nat) (g : HostPort → HostPort) (j : Nat) : (s.modHost p g).region j = s.region j := rfl
@[simp] theorem State.modHost_place (s : State) (p : Nat) (g : HostPort → HostPort) (j : Nat) : (s.modHost p g).place j = s.place j := rfl
@[simp] theorem State.modHost_quad (s : State) (p : Nat) (g : HostPort → HostPort) (j : Nat) : (s.modHost p g).quad j = s.quad j := rfl
@[simp] theorem State.modHost_port (s : State) (p : Nat) (g : HostPort → HostPort) (j : Nat) : (s.modHost p g).port j = s.port j := rfl
@[simp] theorem State.modHost_accel (s : State) (p : Nat) (g : HostPort → HostPort) (j : Nat) : (s.modHost p g).accel j = s.accel j := rfl
@[simp] theorem State.modHost_grat (s : State) (p : Nat) (g : HostPort → HostPort) (j : Nat) : (s.modHost p g).grat j = s.grat j := rfl
@[simp] theorem State.modHost_red (s : State) (p : Nat) (g : HostPort → HostPort) (j : Nat) : (s.modHost p g).red j = s.red j := rfl
@[simp] theorem State.modHost_seq (s : State) (p : Nat) (g : HostPort → HostPort) (j : Nat) : (s.modHost p g).seq j = s.seq j := rfl
@[simp] theorem State.modHost_queue_get (s : State) (p : Nat) (g : HostPort → HostPort) (j : Nat) : (s.modHost p g).queue? j = s.queue? j := rfl
@[simp] theorem State.modHost_ring_get (s : State) (p : Nat) (g : HostPort → HostPort) (j : Nat) : (s.modHost p g).ring? j = s.ring? j := rfl
@[simp] theorem State.modHost_trig_get (s : State) (p : Nat) (g : HostPort → HostPort) (j : Nat) : (s.modHost p g).trig? j = s.trig? j := rfl
@[simp] theorem State.modHost_mt (s : State) (p : Nat) (g : HostPort → HostPort)  : (s.modHost p g).mt = s.mt := rfl
@[simp] theorem State.modHost_mpl (s : State) (p : Nat) (g : HostPort → HostPort)  : (s.modHost p g).mpl = s.mpl := rfl
@[simp] theorem State.modHost_mplClk (s : State) (p : Nat) (g : HostPort → HostPort)  : (s.modHost p g).mplClk = s.mplClk := rfl

@[simp] theorem State.modPart_func (s : State) (p : Nat) (g : Partition → Partition) (j : Nat) : (s.modPart p g).func j = s.func j := rfl
@[simp] theorem State.modPart_mbx (s : State) (p : Nat) (g : Partition → Partition) (j : Nat) : (s.modPart p g).mbx j = s.mbx j := rfl
@[simp] theorem State.modPart_host (s : State) (p : Nat) (g : Partition → Partition) (j : Nat) : (s.modPart p g).host j = s.host j := rfl
@[simp] theorem State.modPart_ctx (s : State) (p : Nat) (g : Partition → Partition) (j : Nat) : (s.modPart p g).ctx j = s.ctx j := rfl
@[simp] theorem State.modPart_region (s : State) (p : Nat) (g : Partition → Partition) (j : Nat) : (s.modPart p g).region j = s.region j := rfl
@[simp] theorem State.modPart_place (s : State) (p : Nat) (g : Partition → Partition) (j : Nat) : (s.modPart p g).place j = s.place j := rfl
@[simp] theorem State.modPart_quad (s : State) (p : Nat) (g : Partition → Partition) (j : Nat) : (s.modPart p g).quad j = s.quad j := rfl
@[simp] theorem State.modPart_port (s : State) (p : Nat) (g : Partition → Partition) (j : Nat) : (s.modPart p g).port j = s.port j := rfl
@[simp] theorem State.modPart_accel (s : State) (p : Nat) (g : Partition → Partition) (j : Nat) : (s.modPart p g).accel j = s.accel j := rfl
@[simp] theorem State.modPart_grat (s : State) (p : Nat) (g : Partition → Partition) (j : Nat) : (s.modPart p g).grat j = s.grat j := rfl
@[simp] theorem State.modPart_red (s : State) (p : Nat) (g : Partition → Partition) (j : Nat) : (s.modPart p g).red j = s.red j := rfl
@[simp] theorem State.modPart_seq (s : State) (p : Nat) (g : Partition → Partition) (j : Nat) : (s.modPart p g).seq j = s.seq j := rfl
@[simp] theorem State.modPart_queue_get (s : State) (p : Nat) (g : Partition → Partition) (j : Nat) : (s.modPart p g).queue? j = s.queue? j := rfl
@[simp] theorem State.modPart_ring_get (s : State) (p : Nat) (g : Partition → Partition) (j : Nat) : (s.modPart p g).ring? j = s.ring? j := rfl
@[simp] theorem State.modPart_trig_get (s : State) (p : Nat) (g : Partition → Partition) (j : Nat) : (s.modPart p g).trig? j = s.trig? j := rfl
@[simp] theorem State.modPart_mt (s : State) (p : Nat) (g : Partition → Partition)  : (s.modPart p g).mt = s.mt := rfl
@[simp] theorem State.modPart_mpl (s : State) (p : Nat) (g : Partition → Partition)  : (s.modPart p g).mpl = s.mpl := rfl
@[simp] theorem State.modPart_mplClk (s : State) (p : Nat) (g : Partition → Partition)  : (s.modPart p g).mplClk = s.mplClk := rfl

@[simp] theorem State.modCtx_func (s : State) (c : Nat) (g : Context → Context) (j : Nat) : (s.modCtx c g).func j = s.func j := rfl
@[simp] theorem State.modCtx_mbx (s : State) (c : Nat) (g : Context → Context) (j : Nat) : (s.modCtx c g).mbx j = s.mbx j := rfl
@[simp] theorem State.modCtx_host (s : State) (c : Nat) (g : Context → Context) (j : Nat) : (s.modCtx c g).host j = s.host j := rfl
@[simp] theorem State.modCtx_part (s : State) (c : Nat) (g : Context → Context) (j : Nat) : (s.modCtx c g).part j = s.part j := rfl
@[simp] theorem State.modCtx_region (s : State) (c : Nat) (g : Context → Context) (j : Nat) : (s.modCtx c g).region j = s.region j := rfl
@[simp] theorem State.modCtx_place (s : State) (c : Nat) (g : Context → Context) (j : Nat) : (s.modCtx c g).place j = s.place j := rfl
@[simp] theorem State.modCtx_quad (s : State) (c : Nat) (g : Context → Context) (j : Nat) : (s.modCtx c g).quad j = s.quad j := rfl
@[simp] theorem State.modCtx_port (s : State) (c : Nat) (g : Context → Context) (j : Nat) : (s.modCtx c g).port j = s.port j := rfl
@[simp] theorem State.modCtx_accel (s : State) (c : Nat) (g : Context → Context) (j : Nat) : (s.modCtx c g).accel j = s.accel j := rfl
@[simp] theorem State.modCtx_grat (s : State) (c : Nat) (g : Context → Context) (j : Nat) : (s.modCtx c g).grat j = s.grat j := rfl
@[simp] theorem State.modCtx_red (s : State) (c : Nat) (g : Context → Context) (j : Nat) : (s.modCtx c g).red j = s.red j := rfl
@[simp] theorem State.modCtx_seq (s : State) (c : Nat) (g : Context → Context) (j : Nat) : (s.modCtx c g).seq j = s.seq j := rfl
@[simp] theorem State.modCtx_queue_get (s : State) (c : Nat) (g : Context → Context) (j : Nat) : (s.modCtx c g).queue? j = s.queue? j := rfl
@[simp] theorem State.modCtx_ring_get (s : State) (c : Nat) (g : Context → Context) (j : Nat) : (s.modCtx c g).ring? j = s.ring? j := rfl
@[simp] theorem State.modCtx_trig_get (s : State) (c : Nat) (g : Context → Context) (j : Nat) : (s.modCtx c g).trig? j = s.trig? j := rfl
@[simp] theorem State.modCtx_mt (s : State) (c : Nat) (g : Context → Context)  : (s.modCtx c g).mt = s.mt := rfl
@[simp] theorem State.modCtx_mpl (s : State) (c : Nat) (g : Context → Context)  : (s.modCtx c g).mpl = s.mpl := rfl
@[simp] theorem State.modCtx_mplClk (s : State) (c : Nat) (g : Context → Context)  : (s.modCtx c g).mplClk = s.mplClk := rfl

@[simp] theorem State.modRegion_func (s : State) (i : Nat) (g : Region → Region) (j : Nat) : (s.modRegion i g).func j = s.func j := rfl
@[simp] theorem State.modRegion_mbx (s : State) (i : Nat) (g : Region → Region) (j : Nat) : (s.modRegion i g).mbx j = s.mbx j := rfl
@[simp] theorem State.modRegion_host (s : State) (i : Nat) (g : Region → Region) (j : Nat) : (s.modRegion i g).host j = s.host j := rfl
@[simp] theorem State.modRegion_part (s : State) (i : Nat) (g : Region → Region) (j : Nat) : (s.modRegion i g).part j = s.part j := rfl
@[simp] theorem State.modRegion_ctx (s : State) (i : Nat) (g : Region → Region) (j : Nat) : (s.modRegion i g).ctx j = s.ctx j := rfl
@[simp] theorem State.modRegion_place (s : State) (i : Nat) (g : Region → Region) (j : Nat) : (s.modRegion i g).place j = s.place j := rfl
@[simp] theorem State.modRegion_quad (s : State) (i : Nat) (g : Region → Region) (j : Nat) : (s.modRegion i g).quad j = s.quad j := rfl
@[simp] theorem State.modRegion_port (s : State) (i : Nat) (g : Region → Region) (j : Nat) : (s.modRegion i g).port j = s.port j := rfl
@[simp] theorem State.modRegion_accel (s : State) (i : Nat) (g : Region → Region) (j : Nat) : (s.modRegion i g).accel j = s.accel j := rfl
@[simp] theorem State.modRegion_grat (s : State) (i : Nat) (g : Region → Region) (j : Nat) : (s.modRegion i g).grat j = s.grat j := rfl
@[simp] theorem State.modRegion_red (s : State) (i : Nat) (g : Region → Region) (j : Nat) : (s.modRegion i g).red j = s.red j := rfl
@[simp] theorem State.modRegion_seq (s : State) (i : Nat) (g : Region → Region) (j : Nat) : (s.modRegion i g).seq j = s.seq j := rfl
@[simp] theorem State.modRegion_queue_get (s : State) (i : Nat) (g : Region → Region) (j : Nat) : (s.modRegion i g).queue? j = s.queue? j := rfl
@[simp] theorem State.modRegion_ring_get (s : State) (i : Nat) (g : Region → Region) (j : Nat) : (s.modRegion i g).ring? j = s.ring? j := rfl
@[simp] theorem State.modRegion_trig_get (s : State) (i : Nat) (g : Region → Region) (j : Nat) : (s.modRegion i g).trig? j = s.trig? j := rfl
@[simp] theorem State.modRegion_mt (s : State) (i : Nat) (g : Region → Region)  : (s.modRegion i g).mt = s.mt := rfl
@[simp] theorem State.modRegion_mpl (s : State) (i : Nat) (g : Region → Region)  : (s.modRegion i g).mpl = s.mpl := rfl
@[simp] theorem State.modRegion_mplClk (s : State) (i : Nat) (g : Region → Region)  : (s.modRegion i g).mplClk = s.mplClk := rfl

@[simp] theorem State.modPlace_func (s : State) (i : Nat) (g : Placement → Placement) (j : Nat) : (s.modPlace i g).func j = s.func j := rfl
@[simp] theorem State.modPlace_mbx (s : State) (i : Nat) (g : Placement → Placement) (j : Nat) : (s.modPlace i g).mbx j = s.mbx j := rfl
@[simp] theorem State.modPlace_host (s : State) (i : Nat) (g : Placement → Placement) (j : Nat) : (s.modPlace i g).host j = s.host j := rfl
@[simp] theorem State.modPlace_part (s : State) (i : Nat) (g : Placement → Placement) (j : Nat) : (s.modPlace i g).part j = s.part j := rfl
@[simp] theorem State.modPlace_ctx (s : State) (i : Nat) (g : Placement → Placement) (j : Nat) : (s.modPlace i g).ctx j = s.ctx j := rfl
@[simp] theorem State.modPlace_region (s : State) (i : Nat) (g : Placement → Placement) (j : Nat) : (s.modPlace i g).region j = s.region j := rfl
@[simp] theorem State.modPlace_quad (s : State) (i : Nat) (g : Placement → Placement) (j : Nat) : (s.modPlace i g).quad j = s.quad j := rfl
@[simp] theorem State.modPlace_port (s : State) (i : Nat) (g : Placement → Placement) (j : Nat) : (s.modPlace i g).port j = s.port j := rfl
@[simp] theorem State.modPlace_accel (s : State) (i : Nat) (g : Placement → Placement) (j : Nat) : (s.modPlace i g).accel j = s.accel j := rfl
@[simp] theorem State.modPlace_grat (s : State) (i : Nat) (g : Placement → Placement) (j : Nat) : (s.modPlace i g).grat j = s.grat j := rfl
@[simp] theorem State.modPlace_red (s : State) (i : Nat) (g : Placement → Placement) (j : Nat) : (s.modPlace i g).red j = s.red j := rfl
@[simp] theorem State.modPlace_seq (s : State) (i : Nat) (g : Placement → Placement) (j : Nat) : (s.modPlace i g).seq j = s.seq j := rfl
@[simp] theorem State.modPlace_queue_get (s : State) (i : Nat) (g : Placement → Placement) (j : Nat) : (s.modPlace i g).queue? j = s.queue? j := rfl
@[simp] theorem State.modPlace_ring_get (s : State) (i : Nat) (g : Placement → Placement) (j : Nat) : (s.modPlace i g).ring? j = s.ring? j := rfl
@[simp] theorem State.modPlace_trig_get (s : State) (i : Nat) (g : Placement → Placement) (j : Nat) : (s.modPlace i g).trig? j = s.trig? j := rfl
@[simp] theorem State.modPlace_mt (s : State) (i : Nat) (g : Placement → Placement)  : (s.modPlace i g).mt = s.mt := rfl
@[simp] theorem State.modPlace_mpl (s : State) (i : Nat) (g : Placement → Placement)  : (s.modPlace i g).mpl = s.mpl := rfl
@[simp] theorem State.modPlace_mplClk (s : State) (i : Nat) (g : Placement → Placement)  : (s.modPlace i g).mplClk = s.mplClk := rfl

@[simp] theorem State.modQuad_func (s : State) (q : Nat) (g : Quadrant → Quadrant) (j : Nat) : (s.modQuad q g).func j = s.func j := rfl
@[simp] theorem State.modQuad_mbx (s : State) (q : Nat) (g : Quadrant → Quadrant) (j : Nat) : (s.modQuad q g).mbx j = s.mbx j := rfl
@[simp] theorem State.modQuad_host (s : State) (q : Nat) (g : Quadrant → Quadrant) (j : Nat) : (s.modQuad q g).host j = s.host j := rfl
@[simp] theorem State.modQuad_part (s : State) (q : Nat) (g : Quadrant → Quadrant) (j : Nat) : (s.modQuad q g).part j = s.part j := rfl
@[simp] theorem State.modQuad_ctx (s : State) (q : Nat) (g : Quadrant → Quadrant) (j : Nat) : (s.modQuad q g).ctx j = s.ctx j := rfl
@[simp] theorem State.modQuad_region (s : State) (q : Nat) (g : Quadrant → Quadrant) (j : Nat) : (s.modQuad q g).region j = s.region j := rfl
@[simp] theorem State.modQuad_place (s : State) (q : Nat) (g : Quadrant → Quadrant) (j : Nat) : (s.modQuad q g).place j = s.place j := rfl
@[simp] theorem State.modQuad_port (s : State) (q : Nat) (g : Quadrant → Quadrant) (j : Nat) : (s.modQuad q g).port j = s.port j := rfl
@[simp] theorem State.modQuad_accel (s : State) (q : Nat) (g : Quadrant → Quadrant) (j : Nat) : (s.modQuad q g).accel j = s.accel j := rfl
@[simp] theorem State.modQuad_grat (s : State) (q : Nat) (g : Quadrant → Quadrant) (j : Nat) : (s.modQuad q g).grat j = s.grat j := rfl
@[simp] theorem State.modQuad_red (s : State) (q : Nat) (g : Quadrant → Quadrant) (j : Nat) : (s.modQuad q g).red j = s.red j := rfl
@[simp] theorem State.modQuad_seq (s : State) (q : Nat) (g : Quadrant → Quadrant) (j : Nat) : (s.modQuad q g).seq j = s.seq j := rfl
@[simp] theorem State.modQuad_queue_get (s : State) (q : Nat) (g : Quadrant → Quadrant) (j : Nat) : (s.modQuad q g).queue? j = s.queue? j := rfl
@[simp] theorem State.modQuad_ring_get (s : State) (q : Nat) (g : Quadrant → Quadrant) (j : Nat) : (s.modQuad q g).ring? j = s.ring? j := rfl
@[simp] theorem State.modQuad_trig_get (s : State) (q : Nat) (g : Quadrant → Quadrant) (j : Nat) : (s.modQuad q g).trig? j = s.trig? j := rfl
@[simp] theorem State.modQuad_mt (s : State) (q : Nat) (g : Quadrant → Quadrant)  : (s.modQuad q g).mt = s.mt := rfl
@[simp] theorem State.modQuad_mpl (s : State) (q : Nat) (g : Quadrant → Quadrant)  : (s.modQuad q g).mpl = s.mpl := rfl
@[simp] theorem State.modQuad_mplClk (s : State) (q : Nat) (g : Quadrant → Quadrant)  : (s.modQuad q g).mplClk = s.mplClk := rfl

@[simp] theorem State.modPort_func (s : State) (p : Nat) (g : Port → Port) (j : Nat) : (s.modPort p g).func j = s.func j := rfl
@[simp] theorem State.modPort_mbx (s : State) (p : Nat) (g : Port → Port) (j : Nat) : (s.modPort p g).mbx j = s.mbx j := rfl
@[simp] theorem State.modPort_host (s : State) (p : Nat) (g : Port → Port) (j : Nat) : (s.modPort p g).host j = s.host j := rfl
@[simp] theorem State.modPort_part (s : State) (p : Nat) (g : Port → Port) (j : Nat) : (s.modPort p g).part j = s.part j := rfl
@[simp] theorem State.modPort_ctx (s : State) (p : Nat) (g : Port → Port) (j : Nat) : (s.modPort p g).ctx j = s.ctx j := rfl
@[simp] theorem State.modPort_region (s : State) (p : Nat) (g : Port → Port) (j : Nat) : (s.modPort p g).region j = s.region j := rfl
@[simp] theorem State.modPort_place (s : State) (p : Nat) (g : Port → Port) (j : Nat) : (s.modPort p g).place j = s.place j := rfl
@[simp] theorem State.modPort_quad (s : State) (p : Nat) (g : Port → Port) (j : Nat) : (s.modPort p g).quad j = s.quad j := rfl
@[simp] theorem State.modPort_accel (s : State) (p : Nat) (g : Port → Port) (j : Nat) : (s.modPort p g).accel j = s.accel j := rfl
@[simp] theorem State.modPort_grat (s : State) (p : Nat) (g : Port → Port) (j : Nat) : (s.modPort p g).grat j = s.grat j := rfl
@[simp] theorem State.modPort_red (s : State) (p : Nat) (g : Port → Port) (j : Nat) : (s.modPort p g).red j = s.red j := rfl
@[simp] theorem State.modPort_seq (s : State) (p : Nat) (g : Port → Port) (j : Nat) : (s.modPort p g).seq j = s.seq j := rfl
@[simp] theorem State.modPort_queue_get (s : State) (p : Nat) (g : Port → Port) (j : Nat) : (s.modPort p g).queue? j = s.queue? j := rfl
@[simp] theorem State.modPort_ring_get (s : State) (p : Nat) (g : Port → Port) (j : Nat) : (s.modPort p g).ring? j = s.ring? j := rfl
@[simp] theorem State.modPort_trig_get (s : State) (p : Nat) (g : Port → Port) (j : Nat) : (s.modPort p g).trig? j = s.trig? j := rfl
@[simp] theorem State.modPort_mt (s : State) (p : Nat) (g : Port → Port)  : (s.modPort p g).mt = s.mt := rfl
@[simp] theorem State.modPort_mpl (s : State) (p : Nat) (g : Port → Port)  : (s.modPort p g).mpl = s.mpl := rfl
@[simp] theorem State.modPort_mplClk (s : State) (p : Nat) (g : Port → Port)  : (s.modPort p g).mplClk = s.mplClk := rfl

@[simp] theorem State.modAccel_func (s : State) (a : Nat) (g : Accel → Accel) (j : Nat) : (s.modAccel a g).func j = s.func j := rfl
@[simp] theorem State.modAccel_mbx (s : State) (a : Nat) (g : Accel → Accel) (j : Nat) : (s.modAccel a g).mbx j = s.mbx j := rfl
@[simp] theorem State.modAccel_host (s : State) (a : Nat) (g : Accel → Accel) (j : Nat) : (s.modAccel a g).host j = s.host j := rfl
@[simp] theorem State.modAccel_part (s : State) (a : Nat) (g : Accel → Accel) (j : Nat) : (s.modAccel a g).part j = s.part j := rfl
@[simp] theorem State.modAccel_ctx (s : State) (a : Nat) (g : Accel → Accel) (j : Nat) : (s.modAccel a g).ctx j = s.ctx j := rfl
@[simp] theorem State.modAccel_region (s : State) (a : Nat) (g : Accel → Accel) (j : Nat) : (s.modAccel a g).region j = s.region j := rfl
@[simp] theorem State.modAccel_place (s : State) (a : Nat) (g : Accel → Accel) (j : Nat) : (s.modAccel a g).place j = s.place j := rfl
@[simp] theorem State.modAccel_quad (s : State) (a : Nat) (g : Accel → Accel) (j : Nat) : (s.modAccel a g).quad j = s.quad j := rfl
@[simp] theorem State.modAccel_port (s : State) (a : Nat) (g : Accel → Accel) (j : Nat) : (s.modAccel a g).port j = s.port j := rfl
@[simp] theorem State.modAccel_grat (s : State) (a : Nat) (g : Accel → Accel) (j : Nat) : (s.modAccel a g).grat j = s.grat j := rfl
@[simp] theorem State.modAccel_red (s : State) (a : Nat) (g : Accel → Accel) (j : Nat) : (s.modAccel a g).red j = s.red j := rfl
@[simp] theorem State.modAccel_seq (s : State) (a : Nat) (g : Accel → Accel) (j : Nat) : (s.modAccel a g).seq j = s.seq j := rfl
@[simp] theorem State.modAccel_queue_get (s : State) (a : Nat) (g : Accel → Accel) (j : Nat) : (s.modAccel a g).queue? j = s.queue? j := rfl
@[simp] theorem State.modAccel_ring_get (s : State) (a : Nat) (g : Accel → Accel) (j : Nat) : (s.modAccel a g).ring? j = s.ring? j := rfl
@[simp] theorem State.modAccel_trig_get (s : State) (a : Nat) (g : Accel → Accel) (j : Nat) : (s.modAccel a g).trig? j = s.trig? j := rfl
@[simp] theorem State.modAccel_mt (s : State) (a : Nat) (g : Accel → Accel)  : (s.modAccel a g).mt = s.mt := rfl
@[simp] theorem State.modAccel_mpl (s : State) (a : Nat) (g : Accel → Accel)  : (s.modAccel a g).mpl = s.mpl := rfl
@[simp] theorem State.modAccel_mplClk (s : State) (a : Nat) (g : Accel → Accel)  : (s.modAccel a g).mplClk = s.mplClk := rfl

@[simp] theorem State.modGrat_func (s : State) (n : Nat) (g : Graticule → Graticule) (j : Nat) : (s.modGrat n g).func j = s.func j := rfl
@[simp] theorem State.modGrat_mbx (s : State) (n : Nat) (g : Graticule → Graticule) (j : Nat) : (s.modGrat n g).mbx j = s.mbx j := rfl
@[simp] theorem State.modGrat_host (s : State) (n : Nat) (g : Graticule → Graticule) (j : Nat) : (s.modGrat n g).host j = s.host j := rfl
@[simp] theorem State.modGrat_part (s : State) (n : Nat) (g : Graticule → Graticule) (j : Nat) : (s.modGrat n g).part j = s.part j := rfl
@[simp] theorem State.modGrat_ctx (s : State) (n : Nat) (g : Graticule → Graticule) (j : Nat) : (s.modGrat n g).ctx j = s.ctx j := rfl
@[simp] theorem State.modGrat_region (s : State) (n : Nat) (g : Graticule → Graticule) (j : Nat) : (s.modGrat n g).region j = s.region j := rfl
@[simp] theorem State.modGrat_place (s : State) (n : Nat) (g : Graticule → Graticule) (j : Nat) : (s.modGrat n g).place j = s.place j := rfl
@[simp] theorem State.modGrat_quad (s : State) (n : Nat) (g : Graticule → Graticule) (j : Nat) : (s.modGrat n g).quad j = s.quad j := rfl
@[simp] theorem State.modGrat_port (s : State) (n : Nat) (g : Graticule → Graticule) (j : Nat) : (s.modGrat n g).port j = s.port j := rfl
@[simp] theorem State.modGrat_accel (s : State) (n : Nat) (g : Graticule → Graticule) (j : Nat) : (s.modGrat n g).accel j = s.accel j := rfl
@[simp] theorem State.modGrat_red (s : State) (n : Nat) (g : Graticule → Graticule) (j : Nat) : (s.modGrat n g).red j = s.red j := rfl
@[simp] theorem State.modGrat_seq (s : State) (n : Nat) (g : Graticule → Graticule) (j : Nat) : (s.modGrat n g).seq j = s.seq j := rfl
@[simp] theorem State.modGrat_queue_get (s : State) (n : Nat) (g : Graticule → Graticule) (j : Nat) : (s.modGrat n g).queue? j = s.queue? j := rfl
@[simp] theorem State.modGrat_ring_get (s : State) (n : Nat) (g : Graticule → Graticule) (j : Nat) : (s.modGrat n g).ring? j = s.ring? j := rfl
@[simp] theorem State.modGrat_trig_get (s : State) (n : Nat) (g : Graticule → Graticule) (j : Nat) : (s.modGrat n g).trig? j = s.trig? j := rfl
@[simp] theorem State.modGrat_mt (s : State) (n : Nat) (g : Graticule → Graticule)  : (s.modGrat n g).mt = s.mt := rfl
@[simp] theorem State.modGrat_mpl (s : State) (n : Nat) (g : Graticule → Graticule)  : (s.modGrat n g).mpl = s.mpl := rfl
@[simp] theorem State.modGrat_mplClk (s : State) (n : Nat) (g : Graticule → Graticule)  : (s.modGrat n g).mplClk = s.mplClk := rfl

@[simp] theorem State.modRed_func (s : State) (u : Nat) (g : RedUnit → RedUnit) (j : Nat) : (s.modRed u g).func j = s.func j := rfl
@[simp] theorem State.modRed_mbx (s : State) (u : Nat) (g : RedUnit → RedUnit) (j : Nat) : (s.modRed u g).mbx j = s.mbx j := rfl
@[simp] theorem State.modRed_host (s : State) (u : Nat) (g : RedUnit → RedUnit) (j : Nat) : (s.modRed u g).host j = s.host j := rfl
@[simp] theorem State.modRed_part (s : State) (u : Nat) (g : RedUnit → RedUnit) (j : Nat) : (s.modRed u g).part j = s.part j := rfl
@[simp] theorem State.modRed_ctx (s : State) (u : Nat) (g : RedUnit → RedUnit) (j : Nat) : (s.modRed u g).ctx j = s.ctx j := rfl
@[simp] theorem State.modRed_region (s : State) (u : Nat) (g : RedUnit → RedUnit) (j : Nat) : (s.modRed u g).region j = s.region j := rfl
@[simp] theorem State.modRed_place (s : State) (u : Nat) (g : RedUnit → RedUnit) (j : Nat) : (s.modRed u g).place j = s.place j := rfl
@[simp] theorem State.modRed_quad (s : State) (u : Nat) (g : RedUnit → RedUnit) (j : Nat) : (s.modRed u g).quad j = s.quad j := rfl
@[simp] theorem State.modRed_port (s : State) (u : Nat) (g : RedUnit → RedUnit) (j : Nat) : (s.modRed u g).port j = s.port j := rfl
@[simp] theorem State.modRed_accel (s : State) (u : Nat) (g : RedUnit → RedUnit) (j : Nat) : (s.modRed u g).accel j = s.accel j := rfl
@[simp] theorem State.modRed_grat (s : State) (u : Nat) (g : RedUnit → RedUnit) (j : Nat) : (s.modRed u g).grat j = s.grat j := rfl
@[simp] theorem State.modRed_seq (s : State) (u : Nat) (g : RedUnit → RedUnit) (j : Nat) : (s.modRed u g).seq j = s.seq j := rfl
@[simp] theorem State.modRed_queue_get (s : State) (u : Nat) (g : RedUnit → RedUnit) (j : Nat) : (s.modRed u g).queue? j = s.queue? j := rfl
@[simp] theorem State.modRed_ring_get (s : State) (u : Nat) (g : RedUnit → RedUnit) (j : Nat) : (s.modRed u g).ring? j = s.ring? j := rfl
@[simp] theorem State.modRed_trig_get (s : State) (u : Nat) (g : RedUnit → RedUnit) (j : Nat) : (s.modRed u g).trig? j = s.trig? j := rfl
@[simp] theorem State.modRed_mt (s : State) (u : Nat) (g : RedUnit → RedUnit)  : (s.modRed u g).mt = s.mt := rfl
@[simp] theorem State.modRed_mpl (s : State) (u : Nat) (g : RedUnit → RedUnit)  : (s.modRed u g).mpl = s.mpl := rfl
@[simp] theorem State.modRed_mplClk (s : State) (u : Nat) (g : RedUnit → RedUnit)  : (s.modRed u g).mplClk = s.mplClk := rfl

@[simp] theorem State.modSeq_func (s : State) (k : Nat) (g : Sequencer → Sequencer) (j : Nat) : (s.modSeq k g).func j = s.func j := rfl
@[simp] theorem State.modSeq_mbx (s : State) (k : Nat) (g : Sequencer → Sequencer) (j : Nat) : (s.modSeq k g).mbx j = s.mbx j := rfl
@[simp] theorem State.modSeq_host (s : State) (k : Nat) (g : Sequencer → Sequencer) (j : Nat) : (s.modSeq k g).host j = s.host j := rfl
@[simp] theorem State.modSeq_part (s : State) (k : Nat) (g : Sequencer → Sequencer) (j : Nat) : (s.modSeq k g).part j = s.part j := rfl
@[simp] theorem State.modSeq_ctx (s : State) (k : Nat) (g : Sequencer → Sequencer) (j : Nat) : (s.modSeq k g).ctx j = s.ctx j := rfl
@[simp] theorem State.modSeq_region (s : State) (k : Nat) (g : Sequencer → Sequencer) (j : Nat) : (s.modSeq k g).region j = s.region j := rfl
@[simp] theorem State.modSeq_place (s : State) (k : Nat) (g : Sequencer → Sequencer) (j : Nat) : (s.modSeq k g).place j = s.place j := rfl
@[simp] theorem State.modSeq_quad (s : State) (k : Nat) (g : Sequencer → Sequencer) (j : Nat) : (s.modSeq k g).quad j = s.quad j := rfl
@[simp] theorem State.modSeq_port (s : State) (k : Nat) (g : Sequencer → Sequencer) (j : Nat) : (s.modSeq k g).port j = s.port j := rfl
@[simp] theorem State.modSeq_accel (s : State) (k : Nat) (g : Sequencer → Sequencer) (j : Nat) : (s.modSeq k g).accel j = s.accel j := rfl
@[simp] theorem State.modSeq_grat (s : State) (k : Nat) (g : Sequencer → Sequencer) (j : Nat) : (s.modSeq k g).grat j = s.grat j := rfl
@[simp] theorem State.modSeq_red (s : State) (k : Nat) (g : Sequencer → Sequencer) (j : Nat) : (s.modSeq k g).red j = s.red j := rfl
@[simp] theorem State.modSeq_queue_get (s : State) (k : Nat) (g : Sequencer → Sequencer) (j : Nat) : (s.modSeq k g).queue? j = s.queue? j := rfl
@[simp] theorem State.modSeq_ring_get (s : State) (k : Nat) (g : Sequencer → Sequencer) (j : Nat) : (s.modSeq k g).ring? j = s.ring? j := rfl
@[simp] theorem State.modSeq_trig_get (s : State) (k : Nat) (g : Sequencer → Sequencer) (j : Nat) : (s.modSeq k g).trig? j = s.trig? j := rfl
@[simp] theorem State.modSeq_mt (s : State) (k : Nat) (g : Sequencer → Sequencer)  : (s.modSeq k g).mt = s.mt := rfl
@[simp] theorem State.modSeq_mpl (s : State) (k : Nat) (g : Sequencer → Sequencer)  : (s.modSeq k g).mpl = s.mpl := rfl
@[simp] theorem State.modSeq_mplClk (s : State) (k : Nat) (g : Sequencer → Sequencer)  : (s.modSeq k g).mplClk = s.mplClk := rfl

@[simp] theorem State.modMer_func (s : State) (g : Meridian → Meridian) (j : Nat) : (s.modMer g).func j = s.func j := rfl
@[simp] theorem State.modMer_mbx (s : State) (g : Meridian → Meridian) (j : Nat) : (s.modMer g).mbx j = s.mbx j := rfl
@[simp] theorem State.modMer_host (s : State) (g : Meridian → Meridian) (j : Nat) : (s.modMer g).host j = s.host j := rfl
@[simp] theorem State.modMer_part (s : State) (g : Meridian → Meridian) (j : Nat) : (s.modMer g).part j = s.part j := rfl
@[simp] theorem State.modMer_ctx (s : State) (g : Meridian → Meridian) (j : Nat) : (s.modMer g).ctx j = s.ctx j := rfl
@[simp] theorem State.modMer_region (s : State) (g : Meridian → Meridian) (j : Nat) : (s.modMer g).region j = s.region j := rfl
@[simp] theorem State.modMer_place (s : State) (g : Meridian → Meridian) (j : Nat) : (s.modMer g).place j = s.place j := rfl
@[simp] theorem State.modMer_quad (s : State) (g : Meridian → Meridian) (j : Nat) : (s.modMer g).quad j = s.quad j := rfl
@[simp] theorem State.modMer_port (s : State) (g : Meridian → Meridian) (j : Nat) : (s.modMer g).port j = s.port j := rfl
@[simp] theorem State.modMer_accel (s : State) (g : Meridian → Meridian) (j : Nat) : (s.modMer g).accel j = s.accel j := rfl
@[simp] theorem State.modMer_grat (s : State) (g : Meridian → Meridian) (j : Nat) : (s.modMer g).grat j = s.grat j := rfl
@[simp] theorem State.modMer_red (s : State) (g : Meridian → Meridian) (j : Nat) : (s.modMer g).red j = s.red j := rfl
@[simp] theorem State.modMer_seq (s : State) (g : Meridian → Meridian) (j : Nat) : (s.modMer g).seq j = s.seq j := rfl
@[simp] theorem State.modMer_queue_get (s : State) (g : Meridian → Meridian) (j : Nat) : (s.modMer g).queue? j = s.queue? j := rfl
@[simp] theorem State.modMer_ring_get (s : State) (g : Meridian → Meridian) (j : Nat) : (s.modMer g).ring? j = s.ring? j := rfl
@[simp] theorem State.modMer_trig_get (s : State) (g : Meridian → Meridian) (j : Nat) : (s.modMer g).trig? j = s.trig? j := rfl
@[simp] theorem State.modMer_mpl (s : State) (g : Meridian → Meridian)  : (s.modMer g).mpl = s.mpl := rfl
@[simp] theorem State.modMer_mplClk (s : State) (g : Meridian → Meridian)  : (s.modMer g).mplClk = s.mplClk := rfl

@[simp] theorem State.modFw_func (s : State) (g : Firmware → Firmware) (j : Nat) : (s.modFw g).func j = s.func j := rfl
@[simp] theorem State.modFw_mbx (s : State) (g : Firmware → Firmware) (j : Nat) : (s.modFw g).mbx j = s.mbx j := rfl
@[simp] theorem State.modFw_host (s : State) (g : Firmware → Firmware) (j : Nat) : (s.modFw g).host j = s.host j := rfl
@[simp] theorem State.modFw_part (s : State) (g : Firmware → Firmware) (j : Nat) : (s.modFw g).part j = s.part j := rfl
@[simp] theorem State.modFw_ctx (s : State) (g : Firmware → Firmware) (j : Nat) : (s.modFw g).ctx j = s.ctx j := rfl
@[simp] theorem State.modFw_region (s : State) (g : Firmware → Firmware) (j : Nat) : (s.modFw g).region j = s.region j := rfl
@[simp] theorem State.modFw_place (s : State) (g : Firmware → Firmware) (j : Nat) : (s.modFw g).place j = s.place j := rfl
@[simp] theorem State.modFw_quad (s : State) (g : Firmware → Firmware) (j : Nat) : (s.modFw g).quad j = s.quad j := rfl
@[simp] theorem State.modFw_port (s : State) (g : Firmware → Firmware) (j : Nat) : (s.modFw g).port j = s.port j := rfl
@[simp] theorem State.modFw_accel (s : State) (g : Firmware → Firmware) (j : Nat) : (s.modFw g).accel j = s.accel j := rfl
@[simp] theorem State.modFw_grat (s : State) (g : Firmware → Firmware) (j : Nat) : (s.modFw g).grat j = s.grat j := rfl
@[simp] theorem State.modFw_red (s : State) (g : Firmware → Firmware) (j : Nat) : (s.modFw g).red j = s.red j := rfl
@[simp] theorem State.modFw_seq (s : State) (g : Firmware → Firmware) (j : Nat) : (s.modFw g).seq j = s.seq j := rfl
@[simp] theorem State.modFw_queue_get (s : State) (g : Firmware → Firmware) (j : Nat) : (s.modFw g).queue? j = s.queue? j := rfl
@[simp] theorem State.modFw_ring_get (s : State) (g : Firmware → Firmware) (j : Nat) : (s.modFw g).ring? j = s.ring? j := rfl
@[simp] theorem State.modFw_trig_get (s : State) (g : Firmware → Firmware) (j : Nat) : (s.modFw g).trig? j = s.trig? j := rfl
@[simp] theorem State.modFw_mt (s : State) (g : Firmware → Firmware)  : (s.modFw g).mt = s.mt := rfl
@[simp] theorem State.modFw_mpl (s : State) (g : Firmware → Firmware)  : (s.modFw g).mpl = s.mpl := rfl
@[simp] theorem State.modFw_mplClk (s : State) (g : Firmware → Firmware)  : (s.modFw g).mplClk = s.mplClk := rfl

@[simp] theorem State.modPower_func (s : State) (g : Power → Power) (j : Nat) : (s.modPower g).func j = s.func j := rfl
@[simp] theorem State.modPower_mbx (s : State) (g : Power → Power) (j : Nat) : (s.modPower g).mbx j = s.mbx j := rfl
@[simp] theorem State.modPower_host (s : State) (g : Power → Power) (j : Nat) : (s.modPower g).host j = s.host j := rfl
@[simp] theorem State.modPower_part (s : State) (g : Power → Power) (j : Nat) : (s.modPower g).part j = s.part j := rfl
@[simp] theorem State.modPower_ctx (s : State) (g : Power → Power) (j : Nat) : (s.modPower g).ctx j = s.ctx j := rfl
@[simp] theorem State.modPower_region (s : State) (g : Power → Power) (j : Nat) : (s.modPower g).region j = s.region j := rfl
@[simp] theorem State.modPower_place (s : State) (g : Power → Power) (j : Nat) : (s.modPower g).place j = s.place j := rfl
@[simp] theorem State.modPower_quad (s : State) (g : Power → Power) (j : Nat) : (s.modPower g).quad j = s.quad j := rfl
@[simp] theorem State.modPower_port (s : State) (g : Power → Power) (j : Nat) : (s.modPower g).port j = s.port j := rfl
@[simp] theorem State.modPower_accel (s : State) (g : Power → Power) (j : Nat) : (s.modPower g).accel j = s.accel j := rfl
@[simp] theorem State.modPower_grat (s : State) (g : Power → Power) (j : Nat) : (s.modPower g).grat j = s.grat j := rfl
@[simp] theorem State.modPower_red (s : State) (g : Power → Power) (j : Nat) : (s.modPower g).red j = s.red j := rfl
@[simp] theorem State.modPower_seq (s : State) (g : Power → Power) (j : Nat) : (s.modPower g).seq j = s.seq j := rfl
@[simp] theorem State.modPower_queue_get (s : State) (g : Power → Power) (j : Nat) : (s.modPower g).queue? j = s.queue? j := rfl
@[simp] theorem State.modPower_ring_get (s : State) (g : Power → Power) (j : Nat) : (s.modPower g).ring? j = s.ring? j := rfl
@[simp] theorem State.modPower_trig_get (s : State) (g : Power → Power) (j : Nat) : (s.modPower g).trig? j = s.trig? j := rfl
@[simp] theorem State.modPower_mt (s : State) (g : Power → Power)  : (s.modPower g).mt = s.mt := rfl
@[simp] theorem State.modPower_mpl (s : State) (g : Power → Power)  : (s.modPower g).mpl = s.mpl := rfl
@[simp] theorem State.modPower_mplClk (s : State) (g : Power → Power)  : (s.modPower g).mplClk = s.mplClk := rfl

@[simp] theorem State.modMem_func (s : State) (g : Memory → Memory) (j : Nat) : (s.modMem g).func j = s.func j := rfl
@[simp] theorem State.modMem_mbx (s : State) (g : Memory → Memory) (j : Nat) : (s.modMem g).mbx j = s.mbx j := rfl
@[simp] theorem State.modMem_host (s : State) (g : Memory → Memory) (j : Nat) : (s.modMem g).host j = s.host j := rfl
@[simp] theorem State.modMem_part (s : State) (g : Memory → Memory) (j : Nat) : (s.modMem g).part j = s.part j := rfl
@[simp] theorem State.modMem_ctx (s : State) (g : Memory → Memory) (j : Nat) : (s.modMem g).ctx j = s.ctx j := rfl
@[simp] theorem State.modMem_region (s : State) (g : Memory → Memory) (j : Nat) : (s.modMem g).region j = s.region j := rfl
@[simp] theorem State.modMem_place (s : State) (g : Memory → Memory) (j : Nat) : (s.modMem g).place j = s.place j := rfl
@[simp] theorem State.modMem_quad (s : State) (g : Memory → Memory) (j : Nat) : (s.modMem g).quad j = s.quad j := rfl
@[simp] theorem State.modMem_port (s : State) (g : Memory → Memory) (j : Nat) : (s.modMem g).port j = s.port j := rfl
@[simp] theorem State.modMem_accel (s : State) (g : Memory → Memory) (j : Nat) : (s.modMem g).accel j = s.accel j := rfl
@[simp] theorem State.modMem_grat (s : State) (g : Memory → Memory) (j : Nat) : (s.modMem g).grat j = s.grat j := rfl
@[simp] theorem State.modMem_red (s : State) (g : Memory → Memory) (j : Nat) : (s.modMem g).red j = s.red j := rfl
@[simp] theorem State.modMem_seq (s : State) (g : Memory → Memory) (j : Nat) : (s.modMem g).seq j = s.seq j := rfl
@[simp] theorem State.modMem_queue_get (s : State) (g : Memory → Memory) (j : Nat) : (s.modMem g).queue? j = s.queue? j := rfl
@[simp] theorem State.modMem_ring_get (s : State) (g : Memory → Memory) (j : Nat) : (s.modMem g).ring? j = s.ring? j := rfl
@[simp] theorem State.modMem_trig_get (s : State) (g : Memory → Memory) (j : Nat) : (s.modMem g).trig? j = s.trig? j := rfl
@[simp] theorem State.modMem_mt (s : State) (g : Memory → Memory)  : (s.modMem g).mt = s.mt := rfl
@[simp] theorem State.modMem_mpl (s : State) (g : Memory → Memory)  : (s.modMem g).mpl = s.mpl := rfl
@[simp] theorem State.modMem_mplClk (s : State) (g : Memory → Memory)  : (s.modMem g).mplClk = s.mplClk := rfl

@[simp] theorem State.modRec_func (s : State) (g : Recover → Recover) (j : Nat) : (s.modRec g).func j = s.func j := rfl
@[simp] theorem State.modRec_mbx (s : State) (g : Recover → Recover) (j : Nat) : (s.modRec g).mbx j = s.mbx j := rfl
@[simp] theorem State.modRec_host (s : State) (g : Recover → Recover) (j : Nat) : (s.modRec g).host j = s.host j := rfl
@[simp] theorem State.modRec_part (s : State) (g : Recover → Recover) (j : Nat) : (s.modRec g).part j = s.part j := rfl
@[simp] theorem State.modRec_ctx (s : State) (g : Recover → Recover) (j : Nat) : (s.modRec g).ctx j = s.ctx j := rfl
@[simp] theorem State.modRec_region (s : State) (g : Recover → Recover) (j : Nat) : (s.modRec g).region j = s.region j := rfl
@[simp] theorem State.modRec_place (s : State) (g : Recover → Recover) (j : Nat) : (s.modRec g).place j = s.place j := rfl
@[simp] theorem State.modRec_quad (s : State) (g : Recover → Recover) (j : Nat) : (s.modRec g).quad j = s.quad j := rfl
@[simp] theorem State.modRec_port (s : State) (g : Recover → Recover) (j : Nat) : (s.modRec g).port j = s.port j := rfl
@[simp] theorem State.modRec_accel (s : State) (g : Recover → Recover) (j : Nat) : (s.modRec g).accel j = s.accel j := rfl
@[simp] theorem State.modRec_grat (s : State) (g : Recover → Recover) (j : Nat) : (s.modRec g).grat j = s.grat j := rfl
@[simp] theorem State.modRec_red (s : State) (g : Recover → Recover) (j : Nat) : (s.modRec g).red j = s.red j := rfl
@[simp] theorem State.modRec_seq (s : State) (g : Recover → Recover) (j : Nat) : (s.modRec g).seq j = s.seq j := rfl
@[simp] theorem State.modRec_queue_get (s : State) (g : Recover → Recover) (j : Nat) : (s.modRec g).queue? j = s.queue? j := rfl
@[simp] theorem State.modRec_ring_get (s : State) (g : Recover → Recover) (j : Nat) : (s.modRec g).ring? j = s.ring? j := rfl
@[simp] theorem State.modRec_trig_get (s : State) (g : Recover → Recover) (j : Nat) : (s.modRec g).trig? j = s.trig? j := rfl
@[simp] theorem State.modRec_mt (s : State) (g : Recover → Recover)  : (s.modRec g).mt = s.mt := rfl
@[simp] theorem State.modRec_mpl (s : State) (g : Recover → Recover)  : (s.modRec g).mpl = s.mpl := rfl
@[simp] theorem State.modRec_mplClk (s : State) (g : Recover → Recover)  : (s.modRec g).mplClk = s.mplClk := rfl

@[simp] theorem State.setQueue_func (s : State) (q : Nat) (x : Queue) (j : Nat) : (s.setQueue q x).func j = s.func j := rfl
@[simp] theorem State.setQueue_mbx (s : State) (q : Nat) (x : Queue) (j : Nat) : (s.setQueue q x).mbx j = s.mbx j := rfl
@[simp] theorem State.setQueue_host (s : State) (q : Nat) (x : Queue) (j : Nat) : (s.setQueue q x).host j = s.host j := rfl
@[simp] theorem State.setQueue_part (s : State) (q : Nat) (x : Queue) (j : Nat) : (s.setQueue q x).part j = s.part j := rfl
@[simp] theorem State.setQueue_ctx (s : State) (q : Nat) (x : Queue) (j : Nat) : (s.setQueue q x).ctx j = s.ctx j := rfl
@[simp] theorem State.setQueue_region (s : State) (q : Nat) (x : Queue) (j : Nat) : (s.setQueue q x).region j = s.region j := rfl
@[simp] theorem State.setQueue_place (s : State) (q : Nat) (x : Queue) (j : Nat) : (s.setQueue q x).place j = s.place j := rfl
@[simp] theorem State.setQueue_quad (s : State) (q : Nat) (x : Queue) (j : Nat) : (s.setQueue q x).quad j = s.quad j := rfl
@[simp] theorem State.setQueue_port (s : State) (q : Nat) (x : Queue) (j : Nat) : (s.setQueue q x).port j = s.port j := rfl
@[simp] theorem State.setQueue_accel (s : State) (q : Nat) (x : Queue) (j : Nat) : (s.setQueue q x).accel j = s.accel j := rfl
@[simp] theorem State.setQueue_grat (s : State) (q : Nat) (x : Queue) (j : Nat) : (s.setQueue q x).grat j = s.grat j := rfl
@[simp] theorem State.setQueue_red (s : State) (q : Nat) (x : Queue) (j : Nat) : (s.setQueue q x).red j = s.red j := rfl
@[simp] theorem State.setQueue_seq (s : State) (q : Nat) (x : Queue) (j : Nat) : (s.setQueue q x).seq j = s.seq j := rfl
@[simp] theorem State.setQueue_ring_get (s : State) (q : Nat) (x : Queue) (j : Nat) : (s.setQueue q x).ring? j = s.ring? j := rfl
@[simp] theorem State.setQueue_trig_get (s : State) (q : Nat) (x : Queue) (j : Nat) : (s.setQueue q x).trig? j = s.trig? j := rfl
@[simp] theorem State.setQueue_mt (s : State) (q : Nat) (x : Queue)  : (s.setQueue q x).mt = s.mt := rfl
@[simp] theorem State.setQueue_mpl (s : State) (q : Nat) (x : Queue)  : (s.setQueue q x).mpl = s.mpl := rfl
@[simp] theorem State.setQueue_mplClk (s : State) (q : Nat) (x : Queue)  : (s.setQueue q x).mplClk = s.mplClk := rfl

@[simp] theorem State.setRing_func (s : State) (r : Nat) (x : Ring) (j : Nat) : (s.setRing r x).func j = s.func j := rfl
@[simp] theorem State.setRing_mbx (s : State) (r : Nat) (x : Ring) (j : Nat) : (s.setRing r x).mbx j = s.mbx j := rfl
@[simp] theorem State.setRing_host (s : State) (r : Nat) (x : Ring) (j : Nat) : (s.setRing r x).host j = s.host j := rfl
@[simp] theorem State.setRing_part (s : State) (r : Nat) (x : Ring) (j : Nat) : (s.setRing r x).part j = s.part j := rfl
@[simp] theorem State.setRing_ctx (s : State) (r : Nat) (x : Ring) (j : Nat) : (s.setRing r x).ctx j = s.ctx j := rfl
@[simp] theorem State.setRing_region (s : State) (r : Nat) (x : Ring) (j : Nat) : (s.setRing r x).region j = s.region j := rfl
@[simp] theorem State.setRing_place (s : State) (r : Nat) (x : Ring) (j : Nat) : (s.setRing r x).place j = s.place j := rfl
@[simp] theorem State.setRing_quad (s : State) (r : Nat) (x : Ring) (j : Nat) : (s.setRing r x).quad j = s.quad j := rfl
@[simp] theorem State.setRing_port (s : State) (r : Nat) (x : Ring) (j : Nat) : (s.setRing r x).port j = s.port j := rfl
@[simp] theorem State.setRing_accel (s : State) (r : Nat) (x : Ring) (j : Nat) : (s.setRing r x).accel j = s.accel j := rfl
@[simp] theorem State.setRing_grat (s : State) (r : Nat) (x : Ring) (j : Nat) : (s.setRing r x).grat j = s.grat j := rfl
@[simp] theorem State.setRing_red (s : State) (r : Nat) (x : Ring) (j : Nat) : (s.setRing r x).red j = s.red j := rfl
@[simp] theorem State.setRing_seq (s : State) (r : Nat) (x : Ring) (j : Nat) : (s.setRing r x).seq j = s.seq j := rfl
@[simp] theorem State.setRing_queue_get (s : State) (r : Nat) (x : Ring) (j : Nat) : (s.setRing r x).queue? j = s.queue? j := rfl
@[simp] theorem State.setRing_trig_get (s : State) (r : Nat) (x : Ring) (j : Nat) : (s.setRing r x).trig? j = s.trig? j := rfl
@[simp] theorem State.setRing_mt (s : State) (r : Nat) (x : Ring)  : (s.setRing r x).mt = s.mt := rfl
@[simp] theorem State.setRing_mpl (s : State) (r : Nat) (x : Ring)  : (s.setRing r x).mpl = s.mpl := rfl
@[simp] theorem State.setRing_mplClk (s : State) (r : Nat) (x : Ring)  : (s.setRing r x).mplClk = s.mplClk := rfl

@[simp] theorem State.setTrig_func (s : State) (i p : Nat) (v : W64) (j : Nat) : (s.setTrig i p v).func j = s.func j := rfl
@[simp] theorem State.setTrig_mbx (s : State) (i p : Nat) (v : W64) (j : Nat) : (s.setTrig i p v).mbx j = s.mbx j := rfl
@[simp] theorem State.setTrig_host (s : State) (i p : Nat) (v : W64) (j : Nat) : (s.setTrig i p v).host j = s.host j := rfl
@[simp] theorem State.setTrig_part (s : State) (i p : Nat) (v : W64) (j : Nat) : (s.setTrig i p v).part j = s.part j := rfl
@[simp] theorem State.setTrig_ctx (s : State) (i p : Nat) (v : W64) (j : Nat) : (s.setTrig i p v).ctx j = s.ctx j := rfl
@[simp] theorem State.setTrig_region (s : State) (i p : Nat) (v : W64) (j : Nat) : (s.setTrig i p v).region j = s.region j := rfl
@[simp] theorem State.setTrig_place (s : State) (i p : Nat) (v : W64) (j : Nat) : (s.setTrig i p v).place j = s.place j := rfl
@[simp] theorem State.setTrig_quad (s : State) (i p : Nat) (v : W64) (j : Nat) : (s.setTrig i p v).quad j = s.quad j := rfl
@[simp] theorem State.setTrig_port (s : State) (i p : Nat) (v : W64) (j : Nat) : (s.setTrig i p v).port j = s.port j := rfl
@[simp] theorem State.setTrig_accel (s : State) (i p : Nat) (v : W64) (j : Nat) : (s.setTrig i p v).accel j = s.accel j := rfl
@[simp] theorem State.setTrig_grat (s : State) (i p : Nat) (v : W64) (j : Nat) : (s.setTrig i p v).grat j = s.grat j := rfl
@[simp] theorem State.setTrig_red (s : State) (i p : Nat) (v : W64) (j : Nat) : (s.setTrig i p v).red j = s.red j := rfl
@[simp] theorem State.setTrig_seq (s : State) (i p : Nat) (v : W64) (j : Nat) : (s.setTrig i p v).seq j = s.seq j := rfl
@[simp] theorem State.setTrig_queue_get (s : State) (i p : Nat) (v : W64) (j : Nat) : (s.setTrig i p v).queue? j = s.queue? j := rfl
@[simp] theorem State.setTrig_ring_get (s : State) (i p : Nat) (v : W64) (j : Nat) : (s.setTrig i p v).ring? j = s.ring? j := rfl
@[simp] theorem State.setTrig_mt (s : State) (i p : Nat) (v : W64)  : (s.setTrig i p v).mt = s.mt := rfl
@[simp] theorem State.setTrig_mpl (s : State) (i p : Nat) (v : W64)  : (s.setTrig i p v).mpl = s.mpl := rfl
@[simp] theorem State.setTrig_mplClk (s : State) (i p : Nat) (v : W64)  : (s.setTrig i p v).mplClk = s.mplClk := rfl

@[simp] theorem State.emit_func (s : State) (o : Out) (j : Nat) : (s.emit o).func j = s.func j := rfl
@[simp] theorem State.emit_mbx (s : State) (o : Out) (j : Nat) : (s.emit o).mbx j = s.mbx j := rfl
@[simp] theorem State.emit_host (s : State) (o : Out) (j : Nat) : (s.emit o).host j = s.host j := rfl
@[simp] theorem State.emit_part (s : State) (o : Out) (j : Nat) : (s.emit o).part j = s.part j := rfl
@[simp] theorem State.emit_ctx (s : State) (o : Out) (j : Nat) : (s.emit o).ctx j = s.ctx j := rfl
@[simp] theorem State.emit_region (s : State) (o : Out) (j : Nat) : (s.emit o).region j = s.region j := rfl
@[simp] theorem State.emit_place (s : State) (o : Out) (j : Nat) : (s.emit o).place j = s.place j := rfl
@[simp] theorem State.emit_quad (s : State) (o : Out) (j : Nat) : (s.emit o).quad j = s.quad j := rfl
@[simp] theorem State.emit_port (s : State) (o : Out) (j : Nat) : (s.emit o).port j = s.port j := rfl
@[simp] theorem State.emit_accel (s : State) (o : Out) (j : Nat) : (s.emit o).accel j = s.accel j := rfl
@[simp] theorem State.emit_grat (s : State) (o : Out) (j : Nat) : (s.emit o).grat j = s.grat j := rfl
@[simp] theorem State.emit_red (s : State) (o : Out) (j : Nat) : (s.emit o).red j = s.red j := rfl
@[simp] theorem State.emit_seq (s : State) (o : Out) (j : Nat) : (s.emit o).seq j = s.seq j := rfl
@[simp] theorem State.emit_queue_get (s : State) (o : Out) (j : Nat) : (s.emit o).queue? j = s.queue? j := rfl
@[simp] theorem State.emit_ring_get (s : State) (o : Out) (j : Nat) : (s.emit o).ring? j = s.ring? j := rfl
@[simp] theorem State.emit_trig_get (s : State) (o : Out) (j : Nat) : (s.emit o).trig? j = s.trig? j := rfl
@[simp] theorem State.emit_mt (s : State) (o : Out)  : (s.emit o).mt = s.mt := rfl
@[simp] theorem State.emit_mpl (s : State) (o : Out)  : (s.emit o).mpl = s.mpl := rfl
@[simp] theorem State.emit_mplClk (s : State) (o : Out)  : (s.emit o).mplClk = s.mplClk := rfl

@[simp] theorem State.count_func (s : State) (id n : Nat) (j : Nat) : (s.count id n).func j = s.func j := rfl
@[simp] theorem State.count_mbx (s : State) (id n : Nat) (j : Nat) : (s.count id n).mbx j = s.mbx j := rfl
@[simp] theorem State.count_host (s : State) (id n : Nat) (j : Nat) : (s.count id n).host j = s.host j := rfl
@[simp] theorem State.count_part (s : State) (id n : Nat) (j : Nat) : (s.count id n).part j = s.part j := rfl
@[simp] theorem State.count_ctx (s : State) (id n : Nat) (j : Nat) : (s.count id n).ctx j = s.ctx j := rfl
@[simp] theorem State.count_region (s : State) (id n : Nat) (j : Nat) : (s.count id n).region j = s.region j := rfl
@[simp] theorem State.count_place (s : State) (id n : Nat) (j : Nat) : (s.count id n).place j = s.place j := rfl
@[simp] theorem State.count_quad (s : State) (id n : Nat) (j : Nat) : (s.count id n).quad j = s.quad j := rfl
@[simp] theorem State.count_port (s : State) (id n : Nat) (j : Nat) : (s.count id n).port j = s.port j := rfl
@[simp] theorem State.count_accel (s : State) (id n : Nat) (j : Nat) : (s.count id n).accel j = s.accel j := rfl
@[simp] theorem State.count_grat (s : State) (id n : Nat) (j : Nat) : (s.count id n).grat j = s.grat j := rfl
@[simp] theorem State.count_red (s : State) (id n : Nat) (j : Nat) : (s.count id n).red j = s.red j := rfl
@[simp] theorem State.count_seq (s : State) (id n : Nat) (j : Nat) : (s.count id n).seq j = s.seq j := rfl
@[simp] theorem State.count_queue_get (s : State) (id n : Nat) (j : Nat) : (s.count id n).queue? j = s.queue? j := rfl
@[simp] theorem State.count_ring_get (s : State) (id n : Nat) (j : Nat) : (s.count id n).ring? j = s.ring? j := rfl
@[simp] theorem State.count_trig_get (s : State) (id n : Nat) (j : Nat) : (s.count id n).trig? j = s.trig? j := rfl
@[simp] theorem State.count_mt (s : State) (id n : Nat)  : (s.count id n).mt = s.mt := rfl
@[simp] theorem State.count_mpl (s : State) (id n : Nat)  : (s.count id n).mpl = s.mpl := rfl
@[simp] theorem State.count_mplClk (s : State) (id n : Nat)  : (s.count id n).mplClk = s.mplClk := rfl

@[simp] theorem State.draw_func (s : State)  (j : Nat) : (s.draw.2).func j = s.func j := rfl
@[simp] theorem State.draw_mbx (s : State)  (j : Nat) : (s.draw.2).mbx j = s.mbx j := rfl
@[simp] theorem State.draw_host (s : State)  (j : Nat) : (s.draw.2).host j = s.host j := rfl
@[simp] theorem State.draw_part (s : State)  (j : Nat) : (s.draw.2).part j = s.part j := rfl
@[simp] theorem State.draw_ctx (s : State)  (j : Nat) : (s.draw.2).ctx j = s.ctx j := rfl
@[simp] theorem State.draw_region (s : State)  (j : Nat) : (s.draw.2).region j = s.region j := rfl
@[simp] theorem State.draw_place (s : State)  (j : Nat) : (s.draw.2).place j = s.place j := rfl
@[simp] theorem State.draw_quad (s : State)  (j : Nat) : (s.draw.2).quad j = s.quad j := rfl
@[simp] theorem State.draw_port (s : State)  (j : Nat) : (s.draw.2).port j = s.port j := rfl
@[simp] theorem State.draw_accel (s : State)  (j : Nat) : (s.draw.2).accel j = s.accel j := rfl
@[simp] theorem State.draw_grat (s : State)  (j : Nat) : (s.draw.2).grat j = s.grat j := rfl
@[simp] theorem State.draw_red (s : State)  (j : Nat) : (s.draw.2).red j = s.red j := rfl
@[simp] theorem State.draw_seq (s : State)  (j : Nat) : (s.draw.2).seq j = s.seq j := rfl
@[simp] theorem State.draw_queue_get (s : State)  (j : Nat) : (s.draw.2).queue? j = s.queue? j := rfl
@[simp] theorem State.draw_ring_get (s : State)  (j : Nat) : (s.draw.2).ring? j = s.ring? j := rfl
@[simp] theorem State.draw_trig_get (s : State)  (j : Nat) : (s.draw.2).trig? j = s.trig? j := rfl
@[simp] theorem State.draw_mt (s : State)   : (s.draw.2).mt = s.mt := rfl
@[simp] theorem State.draw_mpl (s : State)   : (s.draw.2).mpl = s.mpl := rfl
@[simp] theorem State.draw_mplClk (s : State)   : (s.draw.2).mplClk = s.mplClk := rfl


end Sys2Proof.Machine
end

