-- ==== Sys2Proof/Laws/Mailbox.lean ====
section
/-!
SUPPORT. Laws/Mailbox.lean: what serving a mailbox command does, once: the common checks passed, the answer given, and
all that the answer's interrupt may touch.
-/

namespace Sys2Proof.Machine

/-! ## Sending toward a host -/

theorem State.hostSend_ex (s : State) (p : Nat) (w : HostWrite) :
    ∃ h o, s.hostSend p w = { s with hosts := h, out := o } := by
  unfold State.hostSend; simp only []; (repeat' split) <;> exact ⟨_, _, rfl⟩

theorem State.hostSend_eq (s : State) (p : Nat) (w : HostWrite) :
    s.hostSend p w = { s with hosts := (s.hostSend p w).hosts, out := (s.hostSend p w).out } := by
  obtain ⟨h, o, e⟩ := State.hostSend_ex s p w
  rw [e]

theorem State.modHost_held (s : State) (p j : Nat) (g : HostPort → HostPort)
    (hg : ∀ x, ∃ a b, g x = { x with held := a, engineHeld := b }) :
    ∃ a b, (s.modHost p g).host j = { s.host j with held := a, engineHeld := b } := by
  by_cases e : j = p
  · subst e; simp only [State.modHost_same]; exact hg _
  · rw [State.modHost_other _ _ _ _ e]; exact ⟨_, _, rfl⟩

theorem State.hostSend_host (s : State) (p : Nat) (w : HostWrite) (j : Nat) :
    ∃ a b, (s.hostSend p w).host j = { s.host j with held := a, engineHeld := b } := by
  unfold State.hostSend; simp only []
  (repeat' split)
  · exact ⟨_, _, rfl⟩
  · exact ⟨_, _, rfl⟩
  · exact State.modHost_held _ _ _ _ fun _ => ⟨_, _, rfl⟩
  · exact State.modHost_held _ _ _ _ fun _ => ⟨_, _, rfl⟩

theorem State.msix_ex (s : State) (f v : Nat) :
    ∃ g h o, s.msix f v = { s with funcs := g, hosts := h, out := o } := by
  unfold State.msix; simp only []; split
  · obtain ⟨h, o, e⟩ := State.hostSend_ex s (fnPort f)
      { fn := f, addr := (tblGetD (s.func f).msix v {}).addr,
        bytes := leBytes 4 (tblGetD (s.func f).msix v {}).data.toNat, relaxed := false, msix := some v }
    exact ⟨_, h, o, e⟩
  · exact ⟨_, _, _, rfl⟩

theorem State.msix_eq (s : State) (f v : Nat) :
    s.msix f v = { s with funcs := (s.msix f v).funcs, hosts := (s.msix f v).hosts, out := (s.msix f v).out } := by
  obtain ⟨g, h, o, e⟩ := State.msix_ex s f v
  rw [e]

theorem State.msix_func (s : State) (f v j : Nat) : ∃ l, (s.msix f v).func j = { s.func j with pba := l } := by
  unfold State.msix; simp only []; split
  · rw [State.hostSend_eq]; exact ⟨_, rfl⟩
  · by_cases e : j = f
    · subst e; rw [State.modFunc_same]; exact ⟨_, rfl⟩
    · rw [State.modFunc_other _ _ _ _ e]; exact ⟨_, rfl⟩

theorem State.msix_host (s : State) (f v j : Nat) :
    ∃ a b, (s.msix f v).host j = { s.host j with held := a, engineHeld := b } := by
  unfold State.msix; simp only []; split
  · exact State.hostSend_host ..
  · exact ⟨_, _, rfl⟩

/-! ## The response -/

theorem State.respond_ex (s : State) (k st d : Nat) (ws : List W64) :
    ∃ m g h o, s.respond k st d ws = { s with mailboxes := m, funcs := g, hosts := h, out := o } := by
  unfold State.respond; simp only []; split
  · rw [State.msix_eq]; exact ⟨_, _, _, _, rfl⟩
  · exact ⟨_, _, _, _, rfl⟩

theorem State.respond_eq (s : State) (k st d : Nat) (ws : List W64) :
    s.respond k st d ws = { s with
      mailboxes := (s.respond k st d ws).mailboxes, funcs := (s.respond k st d ws).funcs
      hosts := (s.respond k st d ws).hosts, out := (s.respond k st d ws).out } := by
  obtain ⟨m, g, h, o, e⟩ := State.respond_ex s k st d ws
  rw [e]

theorem State.mbx_of_eq {s t : State} (h : t.mailboxes = s.mailboxes) (k : Nat) : t.mbx k = s.mbx k := by
  simp [State.mbx, h]

@[simp] theorem State.msix_mbx (s : State) (f v k : Nat) : (s.msix f v).mbx k = s.mbx k := by
  rw [State.msix_eq]; rfl

/-- The mailbox after a response. -/
theorem State.respond_mbx (s : State) (k st d : Nat) (ws : List W64) :
    (s.respond k st d ws).mbx k = { s.mbx k with
      resp := w64 (st + d % 65536 * 2 ^ 16 + (s.mbx k).seq.toNat * 2 ^ 32 + ws.length * 2 ^ 48)
      data := (ws ++ List.replicate 32 0).take 32
      busy := false, done := true, wait := none } := by
  unfold State.respond; simp only []; split <;> simp

theorem State.respond_mbx_other (s : State) (k st d : Nat) (ws : List W64) (j : Nat) (h : j ≠ k) :
    (s.respond k st d ws).mbx j = s.mbx j := by
  unfold State.respond; simp only []; split <;> simp [State.modMbx_other _ _ _ _ h]

theorem State.respond_func (s : State) (k st d : Nat) (ws : List W64) (j : Nat) :
    ∃ l, (s.respond k st d ws).func j = { s.func j with pba := l } := by
  unfold State.respond; simp only []; split
  · obtain ⟨l, e⟩ := State.msix_func (s.modMbx k fun x => { x with
      resp := w64 (st + d % 65536 * 2 ^ 16 + x.seq.toNat * 2 ^ 32 + ws.length * 2 ^ 48)
      data := (ws ++ List.replicate 32 0).take 32
      busy := false, done := true, wait := none }) (k / 4) (s.mbx k).intVector j
    exact ⟨l, e⟩
  · exact ⟨_, rfl⟩

theorem State.respond_host (s : State) (k st d : Nat) (ws : List W64) (j : Nat) :
    ∃ a b, (s.respond k st d ws).host j = { s.host j with held := a, engineHeld := b } := by
  unfold State.respond; simp only []; split
  · obtain ⟨a, b, e⟩ := State.msix_host (s.modMbx k fun x => { x with
      resp := w64 (st + d % 65536 * 2 ^ 16 + x.seq.toNat * 2 ^ 32 + ws.length * 2 ^ 48)
      data := (ws ++ List.replicate 32 0).take 32
      busy := false, done := true, wait := none }) (k / 4) (s.mbx k).intVector j
    exact ⟨a, b, e⟩
  · exact ⟨_, _, rfl⟩

@[simp] theorem State.respond_pending (s : State) (k st d : Nat) (ws : List W64) : (s.respond k st d ws).pending = s.pending := by
  rw [State.respond_eq]
@[simp] theorem State.respond_clk (s : State) (k st d : Nat) (ws : List W64) : (s.respond k st d ws).clk = s.clk := by
  rw [State.respond_eq]
@[simp] theorem State.respond_free (s : State) (k st d : Nat) (ws : List W64) : (s.respond k st d ws).free = s.free := by
  rw [State.respond_eq]
@[simp] theorem State.respond_cfg (s : State) (k st d : Nat) (ws : List W64) : (s.respond k st d ws).cfg = s.cfg := by
  rw [State.respond_eq]
@[simp] theorem State.respond_txs (s : State) (k st d : Nat) (ws : List W64) : (s.respond k st d ws).txs = s.txs := by
  rw [State.respond_eq]
@[simp] theorem State.respond_mer (s : State) (k st d : Nat) (ws : List W64) : (s.respond k st d ws).mer = s.mer := by
  rw [State.respond_eq]
@[simp] theorem State.respond_parts (s : State) (k st d : Nat) (ws : List W64) : (s.respond k st d ws).parts = s.parts := by
  rw [State.respond_eq]
@[simp] theorem State.respond_contexts (s : State) (k st d : Nat) (ws : List W64) : (s.respond k st d ws).contexts = s.contexts := by
  rw [State.respond_eq]
@[simp] theorem State.respond_queues (s : State) (k st d : Nat) (ws : List W64) : (s.respond k st d ws).queues = s.queues := by
  rw [State.respond_eq]
@[simp] theorem State.respond_rings (s : State) (k st d : Nat) (ws : List W64) : (s.respond k st d ws).rings = s.rings := by
  rw [State.respond_eq]
@[simp] theorem State.respond_regions (s : State) (k st d : Nat) (ws : List W64) : (s.respond k st d ws).regions = s.regions := by
  rw [State.respond_eq]
@[simp] theorem State.respond_placements (s : State) (k st d : Nat) (ws : List W64) : (s.respond k st d ws).placements = s.placements := by
  rw [State.respond_eq]
@[simp] theorem State.respond_mem (s : State) (k st d : Nat) (ws : List W64) : (s.respond k st d ws).mem = s.mem := by
  rw [State.respond_eq]
@[simp] theorem State.respond_tiles (s : State) (k st d : Nat) (ws : List W64) : (s.respond k st d ws).tiles = s.tiles := by
  rw [State.respond_eq]
@[simp] theorem State.respond_quads (s : State) (k st d : Nat) (ws : List W64) : (s.respond k st d ws).quads = s.quads := by
  rw [State.respond_eq]
@[simp] theorem State.respond_ports (s : State) (k st d : Nat) (ws : List W64) : (s.respond k st d ws).ports = s.ports := by
  rw [State.respond_eq]
@[simp] theorem State.respond_charts (s : State) (k st d : Nat) (ws : List W64) : (s.respond k st d ws).charts = s.charts := by
  rw [State.respond_eq]
@[simp] theorem State.respond_accels (s : State) (k st d : Nat) (ws : List W64) : (s.respond k st d ws).accels = s.accels := by
  rw [State.respond_eq]
@[simp] theorem State.respond_grats (s : State) (k st d : Nat) (ws : List W64) : (s.respond k st d ws).grats = s.grats := by
  rw [State.respond_eq]
@[simp] theorem State.respond_reds (s : State) (k st d : Nat) (ws : List W64) : (s.respond k st d ws).reds = s.reds := by
  rw [State.respond_eq]
@[simp] theorem State.respond_seqs (s : State) (k st d : Nat) (ws : List W64) : (s.respond k st d ws).seqs = s.seqs := by
  rw [State.respond_eq]
@[simp] theorem State.respond_kernels (s : State) (k st d : Nat) (ws : List W64) : (s.respond k st d ws).kernels = s.kernels := by
  rw [State.respond_eq]
@[simp] theorem State.respond_trigs (s : State) (k st d : Nat) (ws : List W64) : (s.respond k st d ws).trigs = s.trigs := by
  rw [State.respond_eq]
@[simp] theorem State.respond_qps (s : State) (k st d : Nat) (ws : List W64) : (s.respond k st d ws).qps = s.qps := by
  rw [State.respond_eq]
@[simp] theorem State.respond_controllers (s : State) (k st d : Nat) (ws : List W64) : (s.respond k st d ws).controllers = s.controllers := by
  rw [State.respond_eq]
@[simp] theorem State.respond_fw (s : State) (k st d : Nat) (ws : List W64) : (s.respond k st d ws).fw = s.fw := by
  rw [State.respond_eq]
@[simp] theorem State.respond_kbx (s : State) (k st d : Nat) (ws : List W64) : (s.respond k st d ws).kbx = s.kbx := by
  rw [State.respond_eq]
@[simp] theorem State.respond_spdm (s : State) (k st d : Nat) (ws : List W64) : (s.respond k st d ws).spdm = s.spdm := by
  rw [State.respond_eq]
@[simp] theorem State.respond_power (s : State) (k st d : Nat) (ws : List W64) : (s.respond k st d ws).power = s.power := by
  rw [State.respond_eq]
@[simp] theorem State.respond_survey (s : State) (k st d : Nat) (ws : List W64) : (s.respond k st d ws).survey = s.survey := by
  rw [State.respond_eq]
@[simp] theorem State.respond_recover (s : State) (k st d : Nat) (ws : List W64) : (s.respond k st d ws).recover = s.recover := by
  rw [State.respond_eq]

/-! ## Taking a command up -/

theorem State.firstServe_eq (s : State) : s.firstServe = { s with fw := s.firstServe.fw } := by
  unfold State.firstServe; split <;> rfl

@[simp] theorem State.firstServe_mbx (s : State) (k : Nat) : s.firstServe.mbx k = s.mbx k := by
  rw [State.firstServe_eq]; rfl

@[simp] theorem State.firstServe_commonCheck (s : State) (fn k : Nat) (c : Cmd) :
    s.firstServe.commonCheck fn k c = s.commonCheck fn k c := by
  unfold State.firstServe; split <;> rfl

@[simp] theorem State.firstServe_boundTo (s : State) (fn : Nat) : s.firstServe.boundTo fn = s.boundTo fn := by
  rw [State.firstServe_eq]; rfl

/-- The state in which a command's own checks begin: taken up, its sequence accepted. -/
def State.taken (s : State) (k : Nat) : State := s.firstServe.acceptSeq k

theorem State.taken_eq (s : State) (k : Nat) :
    s.taken k = { s with fw := s.firstServe.fw, mailboxes := (s.taken k).mailboxes } := by
  unfold State.taken State.acceptSeq State.modMbx; rw [State.firstServe_eq]

@[simp] theorem State.taken_mbx (s : State) (k : Nat) : (s.taken k).mbx k = { s.mbx k with lastSeq := (s.mbx k).seq } := by
  simp [State.taken, State.acceptSeq]

theorem State.taken_mbx_other (s : State) (k j : Nat) (h : j ≠ k) : (s.taken k).mbx j = s.mbx j := by
  simp [State.taken, State.acceptSeq, State.modMbx_other _ _ _ _ h]

@[simp] theorem State.taken_fw (s : State) (k : Nat) : (s.taken k).fw = s.firstServe.fw := rfl

@[simp] theorem State.taken_pending (s : State) (k : Nat) : (s.taken k).pending = s.pending := by rw [State.taken_eq]
@[simp] theorem State.taken_clk (s : State) (k : Nat) : (s.taken k).clk = s.clk := by rw [State.taken_eq]
@[simp] theorem State.taken_free (s : State) (k : Nat) : (s.taken k).free = s.free := by rw [State.taken_eq]
@[simp] theorem State.taken_out (s : State) (k : Nat) : (s.taken k).out = s.out := by rw [State.taken_eq]
@[simp] theorem State.taken_cfg (s : State) (k : Nat) : (s.taken k).cfg = s.cfg := by rw [State.taken_eq]
@[simp] theorem State.taken_txs (s : State) (k : Nat) : (s.taken k).txs = s.txs := by rw [State.taken_eq]
@[simp] theorem State.taken_mer (s : State) (k : Nat) : (s.taken k).mer = s.mer := by rw [State.taken_eq]
@[simp] theorem State.taken_funcs (s : State) (k : Nat) : (s.taken k).funcs = s.funcs := by rw [State.taken_eq]
@[simp] theorem State.taken_hosts (s : State) (k : Nat) : (s.taken k).hosts = s.hosts := by rw [State.taken_eq]
@[simp] theorem State.taken_parts (s : State) (k : Nat) : (s.taken k).parts = s.parts := by rw [State.taken_eq]
@[simp] theorem State.taken_contexts (s : State) (k : Nat) : (s.taken k).contexts = s.contexts := by rw [State.taken_eq]
@[simp] theorem State.taken_queues (s : State) (k : Nat) : (s.taken k).queues = s.queues := by rw [State.taken_eq]
@[simp] theorem State.taken_rings (s : State) (k : Nat) : (s.taken k).rings = s.rings := by rw [State.taken_eq]
@[simp] theorem State.taken_regions (s : State) (k : Nat) : (s.taken k).regions = s.regions := by rw [State.taken_eq]
@[simp] theorem State.taken_placements (s : State) (k : Nat) : (s.taken k).placements = s.placements := by rw [State.taken_eq]
@[simp] theorem State.taken_mem (s : State) (k : Nat) : (s.taken k).mem = s.mem := by rw [State.taken_eq]
@[simp] theorem State.taken_tiles (s : State) (k : Nat) : (s.taken k).tiles = s.tiles := by rw [State.taken_eq]
@[simp] theorem State.taken_quads (s : State) (k : Nat) : (s.taken k).quads = s.quads := by rw [State.taken_eq]
@[simp] theorem State.taken_ports (s : State) (k : Nat) : (s.taken k).ports = s.ports := by rw [State.taken_eq]
@[simp] theorem State.taken_charts (s : State) (k : Nat) : (s.taken k).charts = s.charts := by rw [State.taken_eq]
@[simp] theorem State.taken_accels (s : State) (k : Nat) : (s.taken k).accels = s.accels := by rw [State.taken_eq]
@[simp] theorem State.taken_grats (s : State) (k : Nat) : (s.taken k).grats = s.grats := by rw [State.taken_eq]
@[simp] theorem State.taken_reds (s : State) (k : Nat) : (s.taken k).reds = s.reds := by rw [State.taken_eq]
@[simp] theorem State.taken_seqs (s : State) (k : Nat) : (s.taken k).seqs = s.seqs := by rw [State.taken_eq]
@[simp] theorem State.taken_kernels (s : State) (k : Nat) : (s.taken k).kernels = s.kernels := by rw [State.taken_eq]
@[simp] theorem State.taken_trigs (s : State) (k : Nat) : (s.taken k).trigs = s.trigs := by rw [State.taken_eq]
@[simp] theorem State.taken_qps (s : State) (k : Nat) : (s.taken k).qps = s.qps := by rw [State.taken_eq]
@[simp] theorem State.taken_controllers (s : State) (k : Nat) : (s.taken k).controllers = s.controllers := by rw [State.taken_eq]
@[simp] theorem State.taken_kbx (s : State) (k : Nat) : (s.taken k).kbx = s.kbx := by rw [State.taken_eq]
@[simp] theorem State.taken_spdm (s : State) (k : Nat) : (s.taken k).spdm = s.spdm := by rw [State.taken_eq]
@[simp] theorem State.taken_power (s : State) (k : Nat) : (s.taken k).power = s.power := by rw [State.taken_eq]
@[simp] theorem State.taken_survey (s : State) (k : Nat) : (s.taken k).survey = s.survey := by rw [State.taken_eq]
@[simp] theorem State.taken_recover (s : State) (k : Nat) : (s.taken k).recover = s.recover := by rw [State.taken_eq]

/-- A command that passes the common checks is carried out by its body, as far as two control cores agree (R521). -/
theorem State.serve_takes {s : State} {fn m : Nat} {c : Cmd} (h : s.Takes fn m c) (body : State → Nat → Mailbox → Answer) :
    s.serve fn m c body =
      (s.taken (mbxKey fn m)).crossCheck (mbxKey fn m) c.cores
        (body (s.taken (mbxKey fn m)) (s.boundTo fn) (s.mbx (mbxKey fn m))) := by
  obtain ⟨h1, h2, h3⟩ := h
  simp [State.serve, h1, h2, h3, State.taken]

/-- With its control cores agreed, the body's answer is given. -/
@[simp] theorem State.crossCheck_agree (s : State) (k : Nat) (a : Answer) : s.crossCheck k .agree a = State.giveAnswer k a := rfl

/-- With one core outvoted, the answer is given and the mismatch counted. -/
theorem State.crossCheck_outvoted (s : State) (k : Nat) (a : Answer) :
    s.crossCheck k .outvoted a = if a.takesEffect then (State.giveAnswer k a).mismatch else State.giveAnswer k a := rfl

/-- With no two cores agreed, a command that would take effect completes with CONTROL_CHECK_FAILED. -/
theorem State.crossCheck_split (s : State) (k : Nat) (a : Answer) :
    s.crossCheck k .split a =
      if a.takesEffect then (s.respond k Status.controlCheckFailed 0 []).mismatch else State.giveAnswer k a := rfl

/-- A command that passes the common checks, with its control cores agreed, answers what its body says. -/
theorem State.serve_agrees {s : State} {fn m : Nat} {c : Cmd} (h : s.Takes fn m c) (hc : c.cores = .agree)
    (body : State → Nat → Mailbox → Answer) :
    s.serve fn m c body =
      State.giveAnswer (mbxKey fn m) (body (s.taken (mbxKey fn m)) (s.boundTo fn) (s.mbx (mbxKey fn m))) := by
  rw [State.serve_takes h, hc]; rfl

/-- An answer given at once by a body that changed no other mailbox and kept the submitted command. -/
theorem State.answers_of {s u : State} {fn m st d : Nat} {ws : List W64}
    (hc : (u.mbx (mbxKey fn m)).cmd = (s.mbx (mbxKey fn m)).cmd)
    (hl : (u.mbx (mbxKey fn m)).lastSeq = (s.mbx (mbxKey fn m)).seq)
    (ho : ∀ j, j ≠ mbxKey fn m → u.mbx j = s.mbx j) : s.Answers (u.respond (mbxKey fn m) st d ws) fn m st d ws := by
  have r := State.respond_mbx u (mbxKey fn m) st d ws
  have e : (u.mbx (mbxKey fn m)).seq = (s.mbx (mbxKey fn m)).seq := by simp [Mailbox.seq, hc]
  refine ⟨⟨by rw [r], by rw [r], by rw [r], by rw [r]; exact hl, by rw [r, e], by rw [r]⟩, ?_⟩
  intro j hj
  rw [State.respond_mbx_other _ _ _ _ _ _ hj, ho j hj]

/-- An answer given at once by a body that left its mailbox as it was taken up. -/
theorem State.answers_respond {s u : State} {fn m st d : Nat} {ws : List W64}
    (h : u.mailboxes = (s.taken (mbxKey fn m)).mailboxes) : s.Answers (u.respond (mbxKey fn m) st d ws) fn m st d ws := by
  have e : ∀ j, u.mbx j = (s.taken (mbxKey fn m)).mbx j := State.mbx_of_eq h
  exact State.answers_of (by rw [e]; simp) (by rw [e]; simp) fun j hj => by rw [e, State.taken_mbx_other _ _ _ hj]

/-- What a body leaves of the functions and the hosts, its answer leaves too. -/
theorem State.onlyInterrupts_respond {s u : State} {k st d : Nat} {ws : List W64}
    (hf : u.funcs = s.funcs) (hh : u.hosts = s.hosts) : s.OnlyInterrupts (u.respond k st d ws) := by
  refine ⟨fun f => ?_, fun p => ?_⟩
  · have : u.func f = s.func f := by simp [State.func, hf]
    rw [← this]; exact State.respond_func ..
  · have : u.host p = s.host p := by simp [State.host, hh]
    rw [← this]; exact State.respond_host ..

/-- What a body leaves of the functions, the hosts and the firmware, its answer leaves too. -/
theorem State.onlyServes_respond {s u : State} {k st d : Nat} {ws : List W64}
    (hf : u.funcs = s.funcs) (hh : u.hosts = s.hosts) (hw : u.fw = s.firstServe.fw) :
    s.OnlyServes (u.respond k st d ws) := ⟨State.onlyInterrupts_respond hf hh, by simp [hw, State.servedFw]⟩

end Sys2Proof.Machine
end

