-- ==== Sys2Proof/Laws/Memory.lean ====
section
/-!
SUPPORT. Laws/Memory.lean: a byte reads back what was written there and every other byte is left alone; every
operation on the list of cells keeps its canonical form; equal reads mean equal lists.
-/

namespace Sys2Proof.Machine

/-! ## Reads after writes -/

/-- Nothing is listed below the bound of a canonical list. -/
theorem memGet_below {lo a : Nat} {l : List Host.Cell} (h : cellsWf lo l = true) (ha : a < lo) : memGet l a = 0 := by
  induction l generalizing lo with
  | nil => rfl
  | cons c t ih =>
    obtain ⟨x, y⟩ := c
    simp only [cellsWf, Bool.and_eq_true, decide_eq_true_eq] at h
    have hx : x ≠ a := by omega
    simp [memGet, hx, ih h.2 (by omega)]

/-- A byte reads what was put there (R128). -/
theorem memGet_put_same {lo : Nat} {l : List Host.Cell} (h : cellsWf lo l = true) (a : Nat) (b : Byte) :
    memGet (memPut l a b) a = b := by
  induction l generalizing lo with
  | nil =>
    unfold memPut
    split
    · next hb => rw [hb]; rfl
    · simp [memGet]
  | cons c t ih =>
    obtain ⟨x, y⟩ := c
    simp only [cellsWf, Bool.and_eq_true, decide_eq_true_eq] at h
    unfold memPut
    split
    · split
      · next hx hb =>
        have hx' : x ≠ a := by omega
        simp [memGet, hx', hb, memGet_below h.2 (show a < x + 1 by omega)]
      · simp [memGet]
    · split
      · split
        · next hx hb => subst hx; rw [memGet_below h.2 (show a < a + 1 by omega), hb]
        · simp [memGet]
      · next h1 h2 =>
        have hx' : x ≠ a := fun e => h2 e.symm
        simp [memGet, hx', ih h.2]

/-- Every other byte reads as before. -/
theorem memGet_put_other {lo : Nat} {l : List Host.Cell} (h : cellsWf lo l = true) {a c : Nat} (b : Byte) (hc : c ≠ a) :
    memGet (memPut l a b) c = memGet l c := by
  induction l generalizing lo with
  | nil =>
    unfold memPut
    split
    · rfl
    · simp only [memGet]; rw [if_neg fun e => hc e.symm]
  | cons d t ih =>
    obtain ⟨x, y⟩ := d
    simp only [cellsWf, Bool.and_eq_true, decide_eq_true_eq] at h
    have hac : a ≠ c := fun e => hc e.symm
    unfold memPut
    split
    · split
      · rfl
      · simp [memGet, hac]
    · split
      · next hx =>
        have hxc : x ≠ c := fun e => hac (hx.trans e)
        split
        · simp [memGet, hxc]
        · simp [memGet, hxc, hac]
      · by_cases e : x = c
        · simp [memGet, e]
        · simp [memGet, e, ih h.2]

/-! ## The canonical form -/

/-- A canonical list is canonical above a lower bound. -/
theorem cellsWf_mono {lo lo' : Nat} {l : List Host.Cell} (h : cellsWf lo l = true) (hl : lo' ≤ lo) :
    cellsWf lo' l = true := by
  cases l with
  | nil => rfl
  | cons c t =>
    obtain ⟨x, y⟩ := c
    simp only [cellsWf, Bool.and_eq_true, decide_eq_true_eq] at h ⊢
    exact ⟨⟨by omega, h.1.2⟩, h.2⟩

/-- Writing a byte keeps the canonical form. -/
theorem cellsWf_put {lo a : Nat} {l : List Host.Cell} (h : cellsWf lo l = true) (ha : lo ≤ a) (b : Byte) :
    cellsWf lo (memPut l a b) = true := by
  induction l generalizing lo with
  | nil =>
    unfold memPut
    split
    · rfl
    · next hb =>
      simp only [cellsWf, Bool.and_eq_true, decide_eq_true_eq, bne_iff_ne, ne_eq]
      exact ⟨⟨ha, hb⟩, trivial⟩
  | cons c t ih =>
    obtain ⟨x, y⟩ := c
    simp only [cellsWf, Bool.and_eq_true, decide_eq_true_eq, bne_iff_ne, ne_eq] at h
    unfold memPut
    split
    · split
      · simp only [cellsWf, Bool.and_eq_true, decide_eq_true_eq, bne_iff_ne, ne_eq]
        exact h
      · next hx hb =>
        simp only [cellsWf, Bool.and_eq_true, decide_eq_true_eq, bne_iff_ne, ne_eq]
        exact ⟨⟨ha, hb⟩, ⟨by omega, h.1.2⟩, h.2⟩
    · split
      · next hx =>
        split
        · exact cellsWf_mono h.2 (by omega)
        · next hb =>
          simp only [cellsWf, Bool.and_eq_true, decide_eq_true_eq, bne_iff_ne, ne_eq]
          exact ⟨⟨ha, hb⟩, by rw [hx]; exact h.2⟩
      · simp only [cellsWf, Bool.and_eq_true, decide_eq_true_eq, bne_iff_ne, ne_eq]
        exact ⟨⟨h.1.1, h.1.2⟩, ih h.2 (by omega)⟩

/-- Writing bytes keeps the canonical form. -/
theorem cellsWf_write {l : List Host.Cell} (h : cellsWf 0 l = true) (a : Nat) (b : List Byte) :
    cellsWf 0 (memWrite l a b) = true := by
  induction b generalizing l a with
  | nil => exact h
  | cons x r ih => exact ih (cellsWf_put h (by omega) x) (a + 1)

/-- Leaving entries out keeps the canonical form. -/
theorem cellsWf_filter {lo : Nat} {l : List Host.Cell} (h : cellsWf lo l = true) (p : Host.Cell → Bool) :
    cellsWf lo (l.filter p) = true := by
  induction l generalizing lo with
  | nil => rfl
  | cons c t ih =>
    obtain ⟨x, y⟩ := c
    simp only [cellsWf, Bool.and_eq_true, decide_eq_true_eq, bne_iff_ne, ne_eq] at h
    by_cases hp : p (x, y)
    · simp only [List.filter_cons, hp, if_true, cellsWf, Bool.and_eq_true, decide_eq_true_eq, bne_iff_ne, ne_eq]
      exact ⟨h.1, ih h.2⟩
    · simp only [List.filter_cons, hp, if_false, Bool.false_eq_true]
      exact cellsWf_mono (ih h.2) (by omega)

/-- Forgetting bytes keeps the canonical form. -/
theorem cellsWf_clear {l : List Host.Cell} (h : cellsWf 0 l = true) (a n : Nat) : cellsWf 0 (memClear l a n) = true :=
  cellsWf_filter h _

/-! ## Runs of bytes -/

/-- A write of bytes leaves a byte outside them alone. -/
theorem memGet_write_other {l : List Host.Cell} (h : cellsWf 0 l = true) (a : Nat) (b : List Byte) {c : Nat}
    (hc : c < a ∨ a + b.length ≤ c) : memGet (memWrite l a b) c = memGet l c := by
  induction b generalizing l a with
  | nil => rfl
  | cons x r ih =>
    simp only [List.length_cons] at hc
    rw [memWrite, ih (cellsWf_put h (by omega) x) (a + 1) (by omega)]
    exact memGet_put_other h x (by omega)

/-- A write of bytes reads back byte for byte. -/
theorem memRead_write {l : List Host.Cell} (h : cellsWf 0 l = true) (a : Nat) (b : List Byte) :
    memRead (memWrite l a b) a b.length = b := by
  induction b generalizing l a with
  | nil => rfl
  | cons x r ih =>
    have hp := cellsWf_put h (Nat.zero_le a) x
    simp only [List.length_cons, memRead, memWrite]
    rw [memGet_write_other hp (a + 1) r (by omega), memGet_put_same h, ih hp (a + 1)]

/-- A forgotten byte reads 0. -/
theorem memGet_clear_in (l : List Host.Cell) {a n c : Nat} (h1 : a ≤ c) (h2 : c < a + n) :
    memGet (memClear l a n) c = 0 := by
  induction l with
  | nil => rfl
  | cons d t ih =>
    obtain ⟨x, y⟩ := d
    have ih : memGet (t.filter fun d => !(decide (a ≤ d.1) && decide (d.1 < a + n))) c = 0 := ih
    simp only [memClear, List.filter_cons]
    split
    · next hp =>
      have hx : x ≠ c := by rintro rfl; simp [h1, h2] at hp
      simp only [memGet]; rw [if_neg hx]; exact ih
    · exact ih

/-- A byte outside the forgotten ones reads as before. -/
theorem memGet_clear_out (l : List Host.Cell) {a n c : Nat} (h : c < a ∨ a + n ≤ c) :
    memGet (memClear l a n) c = memGet l c := by
  induction l with
  | nil => rfl
  | cons d t ih =>
    obtain ⟨x, y⟩ := d
    have ih : memGet (t.filter fun d => !(decide (a ≤ d.1) && decide (d.1 < a + n))) c = memGet t c := ih
    simp only [memClear, List.filter_cons]
    split
    · by_cases e : x = c
      · simp [memGet, e]
      · simp only [memGet]; rw [if_neg e, if_neg e]; exact ih
    · next hp =>
      have hx : x ≠ c := by rintro rfl; apply hp; simp; omega
      simp only [memGet]; rw [if_neg hx]; exact ih

/-- Two canonical lists that read alike everywhere are equal. -/
theorem cells_ext {lo : Nat} {l m : List Host.Cell} (hl : cellsWf lo l = true) (hm : cellsWf lo m = true)
    (h : ∀ a, memGet l a = memGet m a) : l = m := by
  induction l generalizing lo m with
  | nil =>
    cases m with
    | nil => rfl
    | cons d t =>
      obtain ⟨x, y⟩ := d
      simp only [cellsWf, Bool.and_eq_true, bne_iff_ne, ne_eq] at hm
      exact absurd (by simpa [memGet] using (h x).symm) hm.1.2
  | cons c t ih =>
    obtain ⟨x, y⟩ := c
    have hl' := hl
    simp only [cellsWf, Bool.and_eq_true, decide_eq_true_eq, bne_iff_ne, ne_eq] at hl
    cases m with
    | nil => exact absurd (by simpa [memGet] using h x) hl.1.2
    | cons d u =>
      obtain ⟨x', y'⟩ := d
      have hm' := hm
      simp only [cellsWf, Bool.and_eq_true, decide_eq_true_eq, bne_iff_ne, ne_eq] at hm
      have ex : x = x' := by
        rcases Nat.lt_trichotomy x x' with e | e | e
        · have hb : cellsWf x' ((x', y') :: u) = true := by
            simp only [cellsWf, Bool.and_eq_true, decide_eq_true_eq, bne_iff_ne, ne_eq]
            exact ⟨⟨Nat.le_refl _, hm.1.2⟩, hm.2⟩
          have k := h x
          rw [memGet_below hb e] at k
          exact absurd (by simpa [memGet] using k) hl.1.2
        · exact e
        · have hb : cellsWf x ((x, y) :: t) = true := by
            simp only [cellsWf, Bool.and_eq_true, decide_eq_true_eq, bne_iff_ne, ne_eq]
            exact ⟨⟨Nat.le_refl _, hl.1.2⟩, hl.2⟩
          have k := h x'
          rw [memGet_below hb e] at k
          exact absurd (by simpa [memGet] using k.symm) hm.1.2
      subst ex
      have ey : y = y' := by simpa [memGet] using h x
      subst ey
      have et : t = u := ih hl.2 hm.2 fun a => by
        by_cases e : x = a
        · subst e; rw [memGet_below hl.2 (by omega), memGet_below hm.2 (by omega)]
        · simpa [memGet, e] using h a
      rw [et]

/-- Memory after reset is canonical. -/
theorem State.reset_mem_wf : State.reset.mem.wf = true := rfl

/-! ## A partition's space -/

/-- Where no line is upset, a read returns the bytes as the memory holds them. -/
theorem State.readSpace_clean {s : State} (h : s.mem.upsets = []) (p off n : Nat) :
    s.readSpace p off n = memRead s.mem.cells (spaceKey p off) n := by
  simp [State.readSpace, State.spaceCells, h]

@[simp] theorem State.useChannels_cells (s : State) (p off n : Nat) : (s.useChannels p off n).mem.cells = s.mem.cells := by
  unfold State.useChannels; simp only []; split <;> simp [State.modMem]

@[simp] theorem State.freshFrames_cells (s : State) (p off n : Nat) : (s.freshFrames p off n).mem.cells = s.mem.cells := by
  unfold State.freshFrames; split <;> simp [State.modMem]

@[simp] theorem State.markSpace_mem (s : State) (p off n : Nat) : (s.markSpace p off n).mem = s.mem := by
  unfold State.markSpace; split <;> rfl

/-- Where no line is upset, a write stores its bytes and changes no other. -/
theorem State.writeSpace_cells {s : State} (h : s.mem.upsets = []) (p off : Nat) (b : List Byte) :
    (s.writeSpace p off b).mem.cells = memWrite s.mem.cells (spaceKey p off) b := by
  have e : s.foldUpsets (spaceKey p off) b.length = s := by simp [State.foldUpsets, h]
  simp [State.writeSpace, e]

/-- Storing again what the codes of upset lines passed keeps the canonical form. -/
theorem State.foldUpsets_wf {s : State} (h : s.mem.wf = true) (a n : Nat) : (s.foldUpsets a n).mem.wf = true := by
  have words : ∀ (l : List Nat) (g : Nat → Nat) (d : Nat → List Byte) (c : List Host.Cell), cellsWf 0 c = true →
      cellsWf 0 (l.foldl (fun c k => memWrite c (g k) (d k)) c) = true := by
    intro l; induction l with
    | nil => intro g d c hc; exact hc
    | cons k l ih => intro g d c hc; exact ih g d _ (cellsWf_write hc _ _)
  have lines : ∀ (f : State → Nat → State) (l : List Nat) (s : State),
      (∀ s k, s.mem.wf = true → (f s k).mem.wf = true) → s.mem.wf = true → (l.foldl f s).mem.wf = true := by
    intro f l; induction l with
    | nil => intro s _ hs; exact hs
    | cons k l ih => intro s hf hs; exact ih _ hf (hf s k hs)
  unfold State.foldUpsets; split
  · exact h
  · refine lines _ _ _ (fun s k hs => ?_) h
    split
    · exact hs
    · simp only []
      split
      · exact hs
      · exact words _ _ _ _ hs

/-- A write keeps the canonical form. -/
theorem State.writeSpace_wf {s : State} (h : s.mem.wf = true) (p off : Nat) (b : List Byte) :
    (s.writeSpace p off b).mem.wf = true := by
  have k := State.foldUpsets_wf h (spaceKey p off) b.length
  simp only [State.writeSpace, State.markSpace_mem, Memory.wf]
  simpa using cellsWf_write k _ _

end Sys2Proof.Machine
end

