-- ==== Sys2Proof/WellFormed.lean ====
section
/-!
DEFINITION. WellFormed.lean: the ranges of a command's operands, from the counts of R18, R19 and R566. A command
outside them names something the device does not have; its meaning then finds no object and changes nothing.
-/

namespace Sys2Proof.Wf

/-- A function number: port × 256 + index, two ports of a PF and up to 255 VFs (R413). -/
def fn (n : Nat) : Bool := n < 512

/-- An access of 1, 2, 4 or 8 bytes; R8 discards the first two. -/
def width (w : Nat) : Bool := w == 1 || w == 2 || w == 4 || w == 8

/-- An access of a function: BAR0, BAR2, the capability controls (15), or the hub's control space of a keybox master
(14, 32 bits wide); 32 more for a request whose T bit is 0. -/
def access (f b w : Nat) : Bool :=
  if b == 14 then ((1 ≤ f && f ≤ 0x10) || f == 0x1F) && w == 4
  else fn f && (b == 0 || b == 2 || b == 15 || b == 32 || b == 34) && width w

/-- A mailbox of a function: 0 to 3 on a PF, 0 on a VF (R38). -/
def mailbox (f m : Nat) : Bool := fn f && (if f % 256 == 0 then m < 4 else m == 0)

/-- A fabric, attach or Ethernet port P0 to P31 (R18). -/
def port (n : Nat) : Bool := n < 32

/-- A host port 0 or 1 (chapter 12). -/
def hostPort (n : Nat) : Bool := n < 2

/-- A quadrant Q0 to Q3 (R18). -/
def quadrant (n : Nat) : Bool := n < 4

/-- A partition 0 to 15 (R472). -/
def partition (n : Nat) : Bool := n < 16

/-- A kernel sequencer K0 to K63 (R18). -/
def sequencer (n : Nat) : Bool := n < 64

/-- An accelerator 0 to 7 (R317). -/
def accel (n : Nat) : Bool := n < 8

/-- A graticule G0 to G7 (R18). -/
def graticule (n : Nat) : Bool := n < 8

/-- A send queue or completion ring (R19). -/
def queue (n : Nat) : Bool := n < 8192

/-- A RoCEv2 queue pair (R458). -/
def queuePair (n : Nat) : Bool := n < 16384

/-- An NVMe-oF controller (R464). -/
def controller (n : Nat) : Bool := n < 256

/-- A packet's payload is at most 4,096 B and as long as its header says (R221). -/
def packet (p : Packet) : Bool := p.payload.length ≤ 4096 && p.payload.length == p.payloadLen

/-- An SPDM endpoint: the DOE of PF0, of PF1, or the sideband (R506). -/
def spdm (ep : Nat) : Bool := ep < 3

/-- A keybox master id: a Tirmon core or the boot ROM (R503). -/
def master (n : Nat) : Bool := (1 ≤ n && n ≤ 0x10) || n == 0x1F

end Sys2Proof.Wf

namespace Sys2Proof

/-- The operands of a command lie in the ranges the device has. -/
def Instr.wf : Instr → Bool
  | .registerWrite f b _ w _ => Wf.access f b w
  | .readClear f b _ w => Wf.access f b w
  | .lowHalfRead f b _ => Wf.access f b 4
  | .openSession f m | .closeSession f m | .queryLimits f m | .bulkOpen f m | .bulkPut f m | .bulkGet f m
  | .bulkClose f m | .keyEnd f m | .bulkTimeout f m | .queueDestroyTimeout f m | .rekeyStatus f m | .diagReport f m
  | .dumpList f m => Wf.mailbox f m
  | .kernelImageLoad f m _ | .chartBlock f m _ | .gateListStore f m _ | .installRoot f m _ | .jobKey f m _
  | .rotate f m _ | .saInstall f m _ | .saRemove f m _ | .partitionAssign f m _ | .quotaSet f m _ | .shareSet f m _
  | .partitionErase f m _ | .contextDestroy f m _ | .segmentSet f m _ | .queueSet f m _ | .queueDestroy f m _
  | .ringDestroy f m _ | .regionRevoke f m _ | .placeFree f m _ | .placeHint f m _ | .kernelUnload f m _
  | .trigFree f m _ | .jobCreate f m _ | .jobDestroy f m _ | .scheduleRelease f m _ | .endpointSet f m _
  | .portModeSet f m _ | .chartSwap f m _ | .gateListSwap f m _ | .timeSourceSet f m _ | .partitionRekey f m _
  | .qpDestroy f m _ | .nvmeDetach f m _ | .firmwareImageWrite f m _ | .accept f m _ | .fwActivate f m _ => Wf.mailbox f m
  | .scheduleAdmission f m ps k _ => Wf.mailbox f m && ps.all Wf.port && Wf.sequencer k
  | .contextCreate f m _ _ | .trigAlloc f m _ _ | .qpCreate f m _ _ => Wf.mailbox f m
  | .queueCreate f m _ h _ | .ringCreate f m _ h _ => Wf.mailbox f m && Wf.quadrant h
  | .regionRegister f m _ c _ => Wf.mailbox f m && c < 256
  | .placeAlloc f m _ _ _ => Wf.mailbox f m
  | .nvmeAttach f m _ _ _ => Wf.mailbox f m
  | .keySessionIdle p => Wf.partition p
  | .contextQuarantineEnd c => c < 4096
  | .regionQuarantineEnd i => 1 ≤ i && i < 65536
  | .fwAliveLapse | .firmwareRestart _ | .sourceLost | .sourceQualifies _ | .ppsInPulse _ _ | .lockEvaluate
  | .rejoinDeadline | .ppsOutPulse | .chartBankSwap | .retainEnd | .surveyEpoch | .retireMapWrite | .queueSample
  | .sealedStateWritten | .kbxBlockDone | .kbxExpiry | .warmReset _ | .activateFirmware | .coldPowerUp | .boot _
  | .throttleExit | .thermAlertRelease | .thermalTripRelease | .ppsOutFall | .lossOfPowerGood => true
  | .ptpMessage p _ _ | .timeExchange p | .timeReq p _ | .timeResp p _ _ _ _ _ | .gateSwapAppointment p
  | .gateListTakeover p | .drrRound p _ | .portDetect p | .laneTrained p | .codewordLock p | .hello p _
  | .trainingTimeout p | .lossOfSignal p | .controlFlitTimeout p | .downNotice p | .dataFlit p _ _ | .keepalive p
  | .widthProposal p _ _ _ _ | .widthReq p _ _ _ _ | .widthAck p _ | .widthSwitch p | .headForward p _
  | .headRelax p | .headPressed p | .frameReceive p _ | .frameLeaveBuffer p | .pfcFrame p _ | .arpRequest p _ _
  | .neighborSolicitation p _ _ | .pfcPauseExpiry p _ => Wf.port p
  | .retrain f p _ => Wf.fn f && Wf.port p
  | .headArrival p k => Wf.port p && Wf.packet k
  | .beacon p k => Wf.port p && Wf.packet k
  | .keyRotation p _ | .keyRetainEnd p _ | .collectiveStart p _ | .jobHeartbeat p _ | .instanceEnd p _
  | .heartbeatSilence p _ _ | .rekeyStep p | .rekeyStepWritten p => Wf.partition p
  | .sramScrub l _ => l < 33554432
  | .patrolScrub l _ => l < 8589934592
  | .regionRetire l r => if l then r < 134217728 else r < 524288
  | .migrationStart p _ _ _ q _ => p < 32768 && q ≤ 4
  | .preCopyPassEnd p _ | .cutOver p _ | .sourceFree p _ | .migrationRetry p _ => p < 32768
  | .tileStart _ => true
  | .translationCompletion p _ _ | .pageRequestGroupResponse p _ _ | .pageRequestTimeout p _
  | .invalidateRequest p _ _ _ _ _ | .staleReadExpiry p _ => Wf.hostPort p
  | .invalidationAck p _ e => Wf.hostPort p && e < 68
  | .atsEnableClear f | .priReset f | .flr f | .lockInterfaceRequest f | .startInterfaceRequest f
  | .stopInterfaceRequest f | .ideStreamFailure f => Wf.fn f
  | .queDoorbell f _ _ | .queRestart f _ _ | .queSuspend f _ _ | .cmpConsumer f _ _ | .cmpIntArm f _ _ => Wf.fn f
  | .slotReadComplete q _ _ | .slotRefetch q | .nop q _ | .write q _ | .read q _ | .add64 q _ | .add32 q _
  | .cas64 q _ | .cas32 q _ | .descriptorComplete q _ | .completionFlushDone q _ => Wf.queue q
  | .kernelStart q _ k => Wf.queue q && Wf.sequencer k
  | .holdoffExpiry r => Wf.queue r
  | .msixUnmask f v => Wf.fn f && v < 2048
  | .schedulerRound q | .epochReserved q | .ccBasePeriod q | .quadrantIdle q => Wf.quadrant q
  | .messageBegin q _ | .reservationGrant q _ | .tagVerify q _ _ | .recordExpiry q _ | .retransmitTimeout q _
  | .retryAfterEnd q _ _ | .messageExpiry q _ | .unreachableTimeout q _ => Wf.quadrant q
  | .ccIdleRaise q d => Wf.quadrant q && d < 65536
  | .packetTransmit q _ i p b => Wf.quadrant q && i < 64 && Wf.port p && b ≤ 100
  | .packetArrival q p k => Wf.quadrant q && Wf.port p && Wf.packet k
  | .ack q k | .sack q k | .nak q k | .readResp q k | .collData q k => Wf.quadrant q && Wf.packet k
  | .attSession a _ _ _ | .attSessionTimeout a | .attCredit a _ _ | .attReset a | .memWriteDone a _ _
  | .memReadData a _ _ _ | .attachTimeout a _ => Wf.accel a
  | .attTrig a p i _ => Wf.accel a && Wf.partition p && i < 16384
  | .relayUp a k => Wf.accel a && Wf.packet k
  | .graticuleJobEnd g _ | .checkRepeat g _ | .graticuleSelfTestEnd g _ => Wf.graticule g
  | .wipeComplete _ | .unitHung _ | .unitSelfTestEnd _ _ => true
  | .reductionEnd u => Wf.quadrant u
  | .xformGemm k g => Wf.sequencer k && Wf.graticule g
  | .fetchLocal k | .fetchRemote k | .sendWrite k | .sendWriteFlag k | .sendAdd64 k | .xformReduce k
  | .xformConvert k | .waitTrigGe k | .waitTrigTake k | .waitTime k | .waitWordGe k | .waitSatisfied k | .trigAdd k
  | .trigSet k | .doorbell k | .loop k | .predEq k | .predNe k | .predLt k | .predTrigGe k | .predFlags k | .mov k
  | .setAdd k | .load k | .store k | .seed k | .trigRead k | .coll k | .exit k | .stepComplete k _
  | .stepTimeout k _ => Wf.sequencer k
  | .heartbeat k => Wf.packet k
  | .dlDown p | .dlUp p | .retrainTimeout p | .hotReset p | .perst p | .busMasterEnableClear p | .vfEnableClear p
  | .hostReadCompletion p _ _ | .completionTimeout p _ | .hdmDecoderCommit p _ _ | .hdmDecoderUncommit p
  | .bar4Access p _ _ _ | .hostCxlMemRequest p _ _ | .biasFlip p _ | .biasChangeDone p | .perstNDeassertion p
  | .cxlMemEnable p _ | .cxlCacheLineGrant p _ _ => Wf.hostPort p
  | .p2pProbeResult p a _ => Wf.hostPort p && Wf.accel a
  | .fnHdmLength f _ _ | .biasGo f _ | .pwrCapWrite f _ => Wf.fn f
  | .p2pEnable f a _ => Wf.fn f && Wf.accel a
  | .getVersion e | .getCapabilities e _ | .negotiateAlgorithms e _ _ _ _ | .getDigests e | .getCertificate e _ _ _
  | .challenge e _ _ | .getMeasurements e _ _ _ | .keyExchange e _ | .finish e _ _ | .spdmHeartbeat e _
  | .keyUpdate e _ _ | .endSession e _ | .vendorDefinedRequest e _ _ _ => Wf.spdm e
  | .roceRequest p q _ _ => Wf.port p && Wf.queuePair q
  | .roceNak q _ _ | .cnp q | .qpAckTimeout q | .queuePairReply q _ _ _ => Wf.queuePair q
  | .nvmeCompletion c _ _ _ | .keepAlive c | .associationLoss c => Wf.controller c
  | .kbxClaim m | .kbxRelease m | .kbxStart m _ => Wf.master m
  | .cdcWake _ | .cdcTimeout _ _ => true
  | .pldmFirmwareUpdate s _ _ => s < 2
  | .inputExcursion _ _ | .inputRestored _ | .leaveGrant _ | .noLeave _ | .powerAverageUpdate _ | .backstop _
  | .capEffecter _ _ | .thermalWarning _ _ | .thermalThrottle _ _ | .thermalTrip _ _ | .flashWpNChange _
  | .backstopRelease _ => true
  | .channelPowerDown c => Wf.port c
  | .atlasChoiceChange c => match c with
    | .queueHome q h => Wf.queue q && Wf.quadrant h
    | .ringHome r h => Wf.queue r && Wf.quadrant h
    | .graticule g h => decide (g < 8) && decide (h < 8)
    | .portSet p _ l => Wf.partition p && l.all Wf.port

end Sys2Proof
end

