-- ==== Sys2Proof/Laws/PerInstr.lean ====
section
/-!
SUPPORT. Laws/PerInstr.lean: the family of per-command laws `FnRange`: a well-formed command names only functions that
the device's function numbers reach (R413: two host ports of a physical function and up to 255 virtual ones).
-/

namespace Sys2Proof

/-- The function a command names, for the commands that come from or act on one function. -/
def Instr.function? : Instr → Option Nat
  | .registerWrite fn _ _ _ _ => some fn
  | .readClear fn _ _ _ => some fn
  | .lowHalfRead fn _ _ => some fn
  | .openSession fn _ => some fn
  | .closeSession fn _ => some fn
  | .queryLimits fn _ => some fn
  | .bulkOpen fn _ => some fn
  | .bulkPut fn _ => some fn
  | .bulkGet fn _ => some fn
  | .bulkClose fn _ => some fn
  | .kernelImageLoad fn _ _ => some fn
  | .firmwareImageWrite fn _ _ => some fn
  | .chartBlock fn _ _ => some fn
  | .scheduleAdmission fn _ _ _ _ => some fn
  | .gateListStore fn _ _ => some fn
  | .accept fn _ _ => some fn
  | .installRoot fn _ _ => some fn
  | .jobKey fn _ _ => some fn
  | .rotate fn _ _ => some fn
  | .saInstall fn _ _ => some fn
  | .saRemove fn _ _ => some fn
  | .keyEnd fn _ => some fn
  | .keySessionIdle _ => none
  | .bulkTimeout fn _ => some fn
  | .partitionAssign fn _ _ => some fn
  | .quotaSet fn _ _ => some fn
  | .shareSet fn _ _ => some fn
  | .partitionErase fn _ _ => some fn
  | .contextCreate fn _ _ _ => some fn
  | .contextDestroy fn _ _ => some fn
  | .contextQuarantineEnd _ => none
  | .segmentSet fn _ _ => some fn
  | .queueCreate fn _ _ _ _ => some fn
  | .queueSet fn _ _ => some fn
  | .queueDestroy fn _ _ => some fn
  | .queueDestroyTimeout fn _ => some fn
  | .ringCreate fn _ _ _ _ => some fn
  | .ringDestroy fn _ _ => some fn
  | .regionRegister fn _ _ _ _ => some fn
  | .regionRevoke fn _ _ => some fn
  | .regionQuarantineEnd _ => none
  | .placeAlloc fn _ _ _ _ => some fn
  | .placeFree fn _ _ => some fn
  | .placeHint fn _ _ => some fn
  | .kernelUnload fn _ _ => some fn
  | .trigAlloc fn _ _ _ => some fn
  | .trigFree fn _ _ => some fn
  | .jobCreate fn _ _ => some fn
  | .jobDestroy fn _ _ => some fn
  | .scheduleRelease fn _ _ => some fn
  | .endpointSet fn _ _ => some fn
  | .portModeSet fn _ _ => some fn
  | .chartSwap fn _ _ => some fn
  | .gateListSwap fn _ _ => some fn
  | .timeSourceSet fn _ _ => some fn
  | .partitionRekey fn _ _ => some fn
  | .rekeyStatus fn _ => some fn
  | .fwActivate fn _ _ => some fn
  | .diagReport fn _ => some fn
  | .dumpList fn _ => some fn
  | .qpCreate fn _ _ _ => some fn
  | .qpDestroy fn _ _ => some fn
  | .nvmeAttach fn _ _ _ _ => some fn
  | .nvmeDetach fn _ _ => some fn
  | .fwAliveLapse => none
  | .firmwareRestart _ => none
  | .sourceLost => none
  | .sourceQualifies _ => none
  | .ppsInPulse _ _ => none
  | .ptpMessage _ _ _ => none
  | .timeExchange _ => none
  | .timeReq _ _ => none
  | .timeResp _ _ _ _ _ _ => none
  | .lockEvaluate => none
  | .rejoinDeadline => none
  | .ppsOutPulse => none
  | .chartBankSwap => none
  | .retainEnd => none
  | .gateSwapAppointment _ => none
  | .gateListTakeover _ => none
  | .keyRotation _ _ => none
  | .keyRetainEnd _ _ => none
  | .surveyEpoch => none
  | .collectiveStart _ _ => none
  | .jobHeartbeat _ _ => none
  | .sramScrub _ _ => none
  | .patrolScrub _ _ => none
  | .regionRetire _ _ => none
  | .retireMapWrite => none
  | .migrationStart _ _ _ _ _ _ => none
  | .preCopyPassEnd _ _ => none
  | .cutOver _ _ => none
  | .sourceFree _ _ => none
  | .migrationRetry _ _ => none
  | .tileStart _ => none
  | .translationCompletion _ _ _ => none
  | .pageRequestGroupResponse _ _ _ => none
  | .pageRequestTimeout _ _ => none
  | .invalidateRequest _ _ _ _ _ _ => none
  | .invalidationAck _ _ _ => none
  | .staleReadExpiry _ _ => none
  | .atsEnableClear fn => some fn
  | .priReset fn => some fn
  | .queDoorbell fn _ _ => some fn
  | .slotReadComplete _ _ _ => none
  | .slotRefetch _ => none
  | .queRestart fn _ _ => some fn
  | .queSuspend fn _ _ => some fn
  | .schedulerRound _ => none
  | .nop _ _ => none
  | .write _ _ => none
  | .read _ _ => none
  | .add64 _ _ => none
  | .add32 _ _ => none
  | .cas64 _ _ => none
  | .cas32 _ _ => none
  | .kernelStart _ _ _ => none
  | .descriptorComplete _ _ => none
  | .completionFlushDone _ _ => none
  | .cmpConsumer fn _ _ => some fn
  | .cmpIntArm fn _ _ => some fn
  | .holdoffExpiry _ => none
  | .msixUnmask fn _ => some fn
  | .messageBegin _ _ => none
  | .reservationGrant _ _ => none
  | .packetTransmit _ _ _ _ _ => none
  | .epochReserved _ => none
  | .packetArrival _ _ _ => none
  | .tagVerify _ _ _ => none
  | .recordExpiry _ _ => none
  | .ack _ _ => none
  | .sack _ _ => none
  | .nak _ _ => none
  | .readResp _ _ => none
  | .retransmitTimeout _ _ => none
  | .retryAfterEnd _ _ _ => none
  | .messageExpiry _ _ => none
  | .unreachableTimeout _ _ => none
  | .ccBasePeriod _ => none
  | .ccIdleRaise _ _ => none
  | .drrRound _ _ => none
  | .queueSample => none
  | .portDetect _ => none
  | .laneTrained _ => none
  | .codewordLock _ => none
  | .hello _ _ => none
  | .trainingTimeout _ => none
  | .lossOfSignal _ => none
  | .controlFlitTimeout _ => none
  | .downNotice _ => none
  | .retrain fn _ _ => some fn
  | .dataFlit _ _ _ => none
  | .keepalive _ => none
  | .widthProposal _ _ _ _ _ => none
  | .widthReq _ _ _ _ _ => none
  | .widthAck _ _ => none
  | .widthSwitch _ => none
  | .headArrival _ _ => none
  | .headForward _ _ => none
  | .headRelax _ => none
  | .headPressed _ => none
  | .attSession _ _ _ _ => none
  | .attSessionTimeout _ => none
  | .attCredit _ _ _ => none
  | .attTrig _ _ _ _ => none
  | .attReset _ => none
  | .relayUp _ _ => none
  | .memWriteDone _ _ _ => none
  | .memReadData _ _ _ _ => none
  | .attachTimeout _ _ => none
  | .graticuleJobEnd _ _ => none
  | .checkRepeat _ _ => none
  | .graticuleSelfTestEnd _ _ => none
  | .wipeComplete _ => none
  | .reductionEnd _ => none
  | .fetchLocal _ => none
  | .fetchRemote _ => none
  | .sendWrite _ => none
  | .sendWriteFlag _ => none
  | .sendAdd64 _ => none
  | .xformGemm _ _ => none
  | .xformReduce _ => none
  | .xformConvert _ => none
  | .waitTrigGe _ => none
  | .waitTrigTake _ => none
  | .waitTime _ => none
  | .waitWordGe _ => none
  | .waitSatisfied _ => none
  | .trigAdd _ => none
  | .trigSet _ => none
  | .doorbell _ => none
  | .loop _ => none
  | .predEq _ => none
  | .predNe _ => none
  | .predLt _ => none
  | .predTrigGe _ => none
  | .predFlags _ => none
  | .mov _ => none
  | .setAdd _ => none
  | .load _ => none
  | .store _ => none
  | .seed _ => none
  | .trigRead _ => none
  | .coll _ => none
  | .exit _ => none
  | .stepComplete _ _ => none
  | .stepTimeout _ _ => none
  | .collData _ _ => none
  | .instanceEnd _ _ => none
  | .heartbeat _ => none
  | .heartbeatSilence _ _ _ => none
  | .beacon _ _ => none
  | .dlDown _ => none
  | .dlUp _ => none
  | .retrainTimeout _ => none
  | .hotReset _ => none
  | .perst _ => none
  | .busMasterEnableClear _ => none
  | .flr fn => some fn
  | .vfEnableClear _ => none
  | .hostReadCompletion _ _ _ => none
  | .completionTimeout _ _ => none
  | .hdmDecoderCommit _ _ _ => none
  | .hdmDecoderUncommit _ => none
  | .fnHdmLength fn _ _ => some fn
  | .bar4Access _ _ _ _ => none
  | .hostCxlMemRequest _ _ _ => none
  | .biasFlip _ _ => none
  | .biasGo fn _ => some fn
  | .biasChangeDone _ => none
  | .p2pEnable fn _ _ => some fn
  | .p2pProbeResult _ _ _ => none
  | .lockInterfaceRequest fn => some fn
  | .startInterfaceRequest fn => some fn
  | .stopInterfaceRequest fn => some fn
  | .ideStreamFailure fn => some fn
  | .getVersion _ => none
  | .getCapabilities _ _ => none
  | .negotiateAlgorithms _ _ _ _ _ => none
  | .getDigests _ => none
  | .getCertificate _ _ _ _ => none
  | .challenge _ _ _ => none
  | .getMeasurements _ _ _ _ => none
  | .keyExchange _ _ => none
  | .finish _ _ _ => none
  | .spdmHeartbeat _ _ => none
  | .keyUpdate _ _ _ => none
  | .endSession _ _ => none
  | .vendorDefinedRequest _ _ _ _ => none
  | .frameReceive _ _ => none
  | .frameLeaveBuffer _ => none
  | .pfcFrame _ _ => none
  | .arpRequest _ _ _ => none
  | .neighborSolicitation _ _ _ => none
  | .roceRequest _ _ _ _ => none
  | .roceNak _ _ _ => none
  | .cnp _ => none
  | .qpAckTimeout _ => none
  | .nvmeCompletion _ _ _ _ => none
  | .keepAlive _ => none
  | .associationLoss _ => none
  | .sealedStateWritten => none
  | .rekeyStep _ => none
  | .rekeyStepWritten _ => none
  | .kbxClaim _ => none
  | .kbxRelease _ => none
  | .kbxStart _ _ => none
  | .kbxBlockDone => none
  | .kbxExpiry => none
  | .warmReset _ => none
  | .cdcWake _ => none
  | .cdcTimeout _ _ => none
  | .unitHung _ => none
  | .unitSelfTestEnd _ _ => none
  | .activateFirmware => none
  | .pldmFirmwareUpdate _ _ _ => none
  | .coldPowerUp => none
  | .boot _ => none
  | .inputExcursion _ _ => none
  | .inputRestored _ => none
  | .leaveGrant _ => none
  | .noLeave _ => none
  | .powerAverageUpdate _ => none
  | .backstop _ => none
  | .pwrCapWrite fn _ => some fn
  | .capEffecter _ _ => none
  | .thermalWarning _ _ => none
  | .thermalThrottle _ _ => none
  | .throttleExit => none
  | .thermalTrip _ _ => none
  | .quadrantIdle _ => none
  | .channelPowerDown _ => none
  | .atlasChoiceChange _ => none
  | .perstNDeassertion _ => none
  | .flashWpNChange _ => none
  | .cxlMemEnable _ _ => none
  | .cxlCacheLineGrant _ _ _ => none
  | .backstopRelease _ => none
  | .thermAlertRelease => none
  | .thermalTripRelease => none
  | .ppsOutFall => none
  | .pfcPauseExpiry _ _ => none
  | .queuePairReply _ _ _ _ => none
  | .lossOfPowerGood => none

/-- A well-formed command names a function number below 512. -/
def Laws.FnRange.Statement (i : Instr) : Prop := i.wf = true → ∀ n, i.function? = some n → n < 512

end Sys2Proof

namespace Sys2Proof.Laws.FnRange

theorem of_mailbox {f m : Nat} (h : Wf.mailbox f m = true) : f < 512 := by
  simp [Wf.mailbox, Wf.fn] at h; exact h.1

theorem of_fn {f : Nat} (h : Wf.fn f = true) : f < 512 := by simpa [Wf.fn] using h

theorem of_left {a b : Bool} (h : (a && b) = true) : a = true := by revert h; cases a <;> simp

theorem of_access {f b w : Nat} (h : Wf.access f b w = true) : f < 512 := by
  revert h; simp [Wf.access, Wf.fn]; grind

theorem registerWrite : ∀ a0 a1 a2 a3 a4, Statement (.registerWrite a0 a1 a2 a3 a4) :=
  fun _ _ _ _ _ h _ e => Option.some.inj e ▸ of_access h
theorem readClear : ∀ a0 a1 a2 a3, Statement (.readClear a0 a1 a2 a3) :=
  fun _ _ _ _ h _ e => Option.some.inj e ▸ of_access h
theorem lowHalfRead : ∀ a0 a1 a2, Statement (.lowHalfRead a0 a1 a2) :=
  fun _ _ _ h _ e => Option.some.inj e ▸ of_access h
theorem openSession : ∀ a0 a1, Statement (.openSession a0 a1) :=
  fun _ _ h _ e => Option.some.inj e ▸ of_mailbox h
theorem closeSession : ∀ a0 a1, Statement (.closeSession a0 a1) :=
  fun _ _ h _ e => Option.some.inj e ▸ of_mailbox h
theorem queryLimits : ∀ a0 a1, Statement (.queryLimits a0 a1) :=
  fun _ _ h _ e => Option.some.inj e ▸ of_mailbox h
theorem bulkOpen : ∀ a0 a1, Statement (.bulkOpen a0 a1) :=
  fun _ _ h _ e => Option.some.inj e ▸ of_mailbox h
theorem bulkPut : ∀ a0 a1, Statement (.bulkPut a0 a1) :=
  fun _ _ h _ e => Option.some.inj e ▸ of_mailbox h
theorem bulkGet : ∀ a0 a1, Statement (.bulkGet a0 a1) :=
  fun _ _ h _ e => Option.some.inj e ▸ of_mailbox h
theorem bulkClose : ∀ a0 a1, Statement (.bulkClose a0 a1) :=
  fun _ _ h _ e => Option.some.inj e ▸ of_mailbox h
theorem kernelImageLoad : ∀ a0 a1 a2, Statement (.kernelImageLoad a0 a1 a2) :=
  fun _ _ _ h _ e => Option.some.inj e ▸ of_mailbox h
theorem firmwareImageWrite : ∀ a0 a1 a2, Statement (.firmwareImageWrite a0 a1 a2) :=
  fun _ _ _ h _ e => Option.some.inj e ▸ of_mailbox h
theorem chartBlock : ∀ a0 a1 a2, Statement (.chartBlock a0 a1 a2) :=
  fun _ _ _ h _ e => Option.some.inj e ▸ of_mailbox h
theorem scheduleAdmission : ∀ a0 a1 a2 a3 a4, Statement (.scheduleAdmission a0 a1 a2 a3 a4) :=
  fun _ _ _ _ _ h _ e => Option.some.inj e ▸ of_mailbox (of_left (of_left h))
theorem gateListStore : ∀ a0 a1 a2, Statement (.gateListStore a0 a1 a2) :=
  fun _ _ _ h _ e => Option.some.inj e ▸ of_mailbox h
theorem accept : ∀ a0 a1 a2, Statement (.accept a0 a1 a2) :=
  fun _ _ _ h _ e => Option.some.inj e ▸ of_mailbox h
theorem installRoot : ∀ a0 a1 a2, Statement (.installRoot a0 a1 a2) :=
  fun _ _ _ h _ e => Option.some.inj e ▸ of_mailbox h
theorem jobKey : ∀ a0 a1 a2, Statement (.jobKey a0 a1 a2) :=
  fun _ _ _ h _ e => Option.some.inj e ▸ of_mailbox h
theorem rotate : ∀ a0 a1 a2, Statement (.rotate a0 a1 a2) :=
  fun _ _ _ h _ e => Option.some.inj e ▸ of_mailbox h
theorem saInstall : ∀ a0 a1 a2, Statement (.saInstall a0 a1 a2) :=
  fun _ _ _ h _ e => Option.some.inj e ▸ of_mailbox h
theorem saRemove : ∀ a0 a1 a2, Statement (.saRemove a0 a1 a2) :=
  fun _ _ _ h _ e => Option.some.inj e ▸ of_mailbox h
theorem keyEnd : ∀ a0 a1, Statement (.keyEnd a0 a1) :=
  fun _ _ h _ e => Option.some.inj e ▸ of_mailbox h
theorem keySessionIdle : ∀ a0, Statement (.keySessionIdle a0) := fun _ _ _ e => nomatch e
theorem bulkTimeout : ∀ a0 a1, Statement (.bulkTimeout a0 a1) :=
  fun _ _ h _ e => Option.some.inj e ▸ of_mailbox h
theorem partitionAssign : ∀ a0 a1 a2, Statement (.partitionAssign a0 a1 a2) :=
  fun _ _ _ h _ e => Option.some.inj e ▸ of_mailbox h
theorem quotaSet : ∀ a0 a1 a2, Statement (.quotaSet a0 a1 a2) :=
  fun _ _ _ h _ e => Option.some.inj e ▸ of_mailbox h
theorem shareSet : ∀ a0 a1 a2, Statement (.shareSet a0 a1 a2) :=
  fun _ _ _ h _ e => Option.some.inj e ▸ of_mailbox h
theorem partitionErase : ∀ a0 a1 a2, Statement (.partitionErase a0 a1 a2) :=
  fun _ _ _ h _ e => Option.some.inj e ▸ of_mailbox h
theorem contextCreate : ∀ a0 a1 a2 a3, Statement (.contextCreate a0 a1 a2 a3) :=
  fun _ _ _ _ h _ e => Option.some.inj e ▸ of_mailbox h
theorem contextDestroy : ∀ a0 a1 a2, Statement (.contextDestroy a0 a1 a2) :=
  fun _ _ _ h _ e => Option.some.inj e ▸ of_mailbox h
theorem contextQuarantineEnd : ∀ a0, Statement (.contextQuarantineEnd a0) := fun _ _ _ e => nomatch e
theorem segmentSet : ∀ a0 a1 a2, Statement (.segmentSet a0 a1 a2) :=
  fun _ _ _ h _ e => Option.some.inj e ▸ of_mailbox h
theorem queueCreate : ∀ a0 a1 a2 a3 a4, Statement (.queueCreate a0 a1 a2 a3 a4) :=
  fun _ _ _ _ _ h _ e => Option.some.inj e ▸ of_mailbox (of_left h)
theorem queueSet : ∀ a0 a1 a2, Statement (.queueSet a0 a1 a2) :=
  fun _ _ _ h _ e => Option.some.inj e ▸ of_mailbox h
theorem queueDestroy : ∀ a0 a1 a2, Statement (.queueDestroy a0 a1 a2) :=
  fun _ _ _ h _ e => Option.some.inj e ▸ of_mailbox h
theorem queueDestroyTimeout : ∀ a0 a1, Statement (.queueDestroyTimeout a0 a1) :=
  fun _ _ h _ e => Option.some.inj e ▸ of_mailbox h
theorem ringCreate : ∀ a0 a1 a2 a3 a4, Statement (.ringCreate a0 a1 a2 a3 a4) :=
  fun _ _ _ _ _ h _ e => Option.some.inj e ▸ of_mailbox (of_left h)
theorem ringDestroy : ∀ a0 a1 a2, Statement (.ringDestroy a0 a1 a2) :=
  fun _ _ _ h _ e => Option.some.inj e ▸ of_mailbox h
theorem regionRegister : ∀ a0 a1 a2 a3 a4, Statement (.regionRegister a0 a1 a2 a3 a4) :=
  fun _ _ _ _ _ h _ e => Option.some.inj e ▸ of_mailbox (of_left h)
theorem regionRevoke : ∀ a0 a1 a2, Statement (.regionRevoke a0 a1 a2) :=
  fun _ _ _ h _ e => Option.some.inj e ▸ of_mailbox h
theorem regionQuarantineEnd : ∀ a0, Statement (.regionQuarantineEnd a0) := fun _ _ _ e => nomatch e
theorem placeAlloc : ∀ a0 a1 a2 a3 a4, Statement (.placeAlloc a0 a1 a2 a3 a4) :=
  fun _ _ _ _ _ h _ e => Option.some.inj e ▸ of_mailbox h
theorem placeFree : ∀ a0 a1 a2, Statement (.placeFree a0 a1 a2) :=
  fun _ _ _ h _ e => Option.some.inj e ▸ of_mailbox h
theorem placeHint : ∀ a0 a1 a2, Statement (.placeHint a0 a1 a2) :=
  fun _ _ _ h _ e => Option.some.inj e ▸ of_mailbox h
theorem kernelUnload : ∀ a0 a1 a2, Statement (.kernelUnload a0 a1 a2) :=
  fun _ _ _ h _ e => Option.some.inj e ▸ of_mailbox h
theorem trigAlloc : ∀ a0 a1 a2 a3, Statement (.trigAlloc a0 a1 a2 a3) :=
  fun _ _ _ _ h _ e => Option.some.inj e ▸ of_mailbox h
theorem trigFree : ∀ a0 a1 a2, Statement (.trigFree a0 a1 a2) :=
  fun _ _ _ h _ e => Option.some.inj e ▸ of_mailbox h
theorem jobCreate : ∀ a0 a1 a2, Statement (.jobCreate a0 a1 a2) :=
  fun _ _ _ h _ e => Option.some.inj e ▸ of_mailbox h
theorem jobDestroy : ∀ a0 a1 a2, Statement (.jobDestroy a0 a1 a2) :=
  fun _ _ _ h _ e => Option.some.inj e ▸ of_mailbox h
theorem scheduleRelease : ∀ a0 a1 a2, Statement (.scheduleRelease a0 a1 a2) :=
  fun _ _ _ h _ e => Option.some.inj e ▸ of_mailbox h
theorem endpointSet : ∀ a0 a1 a2, Statement (.endpointSet a0 a1 a2) :=
  fun _ _ _ h _ e => Option.some.inj e ▸ of_mailbox h
theorem portModeSet : ∀ a0 a1 a2, Statement (.portModeSet a0 a1 a2) :=
  fun _ _ _ h _ e => Option.some.inj e ▸ of_mailbox h
theorem chartSwap : ∀ a0 a1 a2, Statement (.chartSwap a0 a1 a2) :=
  fun _ _ _ h _ e => Option.some.inj e ▸ of_mailbox h
theorem gateListSwap : ∀ a0 a1 a2, Statement (.gateListSwap a0 a1 a2) :=
  fun _ _ _ h _ e => Option.some.inj e ▸ of_mailbox h
theorem timeSourceSet : ∀ a0 a1 a2, Statement (.timeSourceSet a0 a1 a2) :=
  fun _ _ _ h _ e => Option.some.inj e ▸ of_mailbox h
theorem partitionRekey : ∀ a0 a1 a2, Statement (.partitionRekey a0 a1 a2) :=
  fun _ _ _ h _ e => Option.some.inj e ▸ of_mailbox h
theorem rekeyStatus : ∀ a0 a1, Statement (.rekeyStatus a0 a1) :=
  fun _ _ h _ e => Option.some.inj e ▸ of_mailbox h
theorem fwActivate : ∀ a0 a1 a2, Statement (.fwActivate a0 a1 a2) :=
  fun _ _ _ h _ e => Option.some.inj e ▸ of_mailbox h
theorem diagReport : ∀ a0 a1, Statement (.diagReport a0 a1) :=
  fun _ _ h _ e => Option.some.inj e ▸ of_mailbox h
theorem dumpList : ∀ a0 a1, Statement (.dumpList a0 a1) :=
  fun _ _ h _ e => Option.some.inj e ▸ of_mailbox h
theorem qpCreate : ∀ a0 a1 a2 a3, Statement (.qpCreate a0 a1 a2 a3) :=
  fun _ _ _ _ h _ e => Option.some.inj e ▸ of_mailbox h
theorem qpDestroy : ∀ a0 a1 a2, Statement (.qpDestroy a0 a1 a2) :=
  fun _ _ _ h _ e => Option.some.inj e ▸ of_mailbox h
theorem nvmeAttach : ∀ a0 a1 a2 a3 a4, Statement (.nvmeAttach a0 a1 a2 a3 a4) :=
  fun _ _ _ _ _ h _ e => Option.some.inj e ▸ of_mailbox h
theorem nvmeDetach : ∀ a0 a1 a2, Statement (.nvmeDetach a0 a1 a2) :=
  fun _ _ _ h _ e => Option.some.inj e ▸ of_mailbox h
theorem fwAliveLapse : Statement .fwAliveLapse := fun _ _ e => nomatch e
theorem firmwareRestart : ∀ a0, Statement (.firmwareRestart a0) := fun _ _ _ e => nomatch e
theorem sourceLost : Statement .sourceLost := fun _ _ e => nomatch e
theorem sourceQualifies : ∀ a0, Statement (.sourceQualifies a0) := fun _ _ _ e => nomatch e
theorem ppsInPulse : ∀ a0 a1, Statement (.ppsInPulse a0 a1) := fun _ _ _ _ e => nomatch e
theorem ptpMessage : ∀ a0 a1 a2, Statement (.ptpMessage a0 a1 a2) := fun _ _ _ _ _ e => nomatch e
theorem timeExchange : ∀ a0, Statement (.timeExchange a0) := fun _ _ _ e => nomatch e
theorem timeReq : ∀ a0 a1, Statement (.timeReq a0 a1) := fun _ _ _ _ e => nomatch e
theorem timeResp : ∀ a0 a1 a2 a3 a4 a5, Statement (.timeResp a0 a1 a2 a3 a4 a5) := fun _ _ _ _ _ _ _ _ e => nomatch e
theorem lockEvaluate : Statement .lockEvaluate := fun _ _ e => nomatch e
theorem rejoinDeadline : Statement .rejoinDeadline := fun _ _ e => nomatch e
theorem ppsOutPulse : Statement .ppsOutPulse := fun _ _ e => nomatch e
theorem chartBankSwap : Statement .chartBankSwap := fun _ _ e => nomatch e
theorem retainEnd : Statement .retainEnd := fun _ _ e => nomatch e
theorem gateSwapAppointment : ∀ a0, Statement (.gateSwapAppointment a0) := fun _ _ _ e => nomatch e
theorem gateListTakeover : ∀ a0, Statement (.gateListTakeover a0) := fun _ _ _ e => nomatch e
theorem keyRotation : ∀ a0 a1, Statement (.keyRotation a0 a1) := fun _ _ _ _ e => nomatch e
theorem keyRetainEnd : ∀ a0 a1, Statement (.keyRetainEnd a0 a1) := fun _ _ _ _ e => nomatch e
theorem surveyEpoch : Statement .surveyEpoch := fun _ _ e => nomatch e
theorem collectiveStart : ∀ a0 a1, Statement (.collectiveStart a0 a1) := fun _ _ _ _ e => nomatch e
theorem jobHeartbeat : ∀ a0 a1, Statement (.jobHeartbeat a0 a1) := fun _ _ _ _ e => nomatch e
theorem sramScrub : ∀ a0 a1, Statement (.sramScrub a0 a1) := fun _ _ _ _ e => nomatch e
theorem patrolScrub : ∀ a0 a1, Statement (.patrolScrub a0 a1) := fun _ _ _ _ e => nomatch e
theorem regionRetire : ∀ a0 a1, Statement (.regionRetire a0 a1) := fun _ _ _ _ e => nomatch e
theorem retireMapWrite : Statement .retireMapWrite := fun _ _ e => nomatch e
theorem migrationStart : ∀ a0 a1 a2 a3 a4 a5, Statement (.migrationStart a0 a1 a2 a3 a4 a5) := fun _ _ _ _ _ _ _ _ e => nomatch e
theorem preCopyPassEnd : ∀ a0 a1, Statement (.preCopyPassEnd a0 a1) := fun _ _ _ _ e => nomatch e
theorem cutOver : ∀ a0 a1, Statement (.cutOver a0 a1) := fun _ _ _ _ e => nomatch e
theorem sourceFree : ∀ a0 a1, Statement (.sourceFree a0 a1) := fun _ _ _ _ e => nomatch e
theorem migrationRetry : ∀ a0 a1, Statement (.migrationRetry a0 a1) := fun _ _ _ _ e => nomatch e
theorem tileStart : ∀ a0, Statement (.tileStart a0) := fun _ _ _ e => nomatch e
theorem translationCompletion : ∀ a0 a1 a2, Statement (.translationCompletion a0 a1 a2) := fun _ _ _ _ _ e => nomatch e
theorem pageRequestGroupResponse : ∀ a0 a1 a2, Statement (.pageRequestGroupResponse a0 a1 a2) := fun _ _ _ _ _ e => nomatch e
theorem pageRequestTimeout : ∀ a0 a1, Statement (.pageRequestTimeout a0 a1) := fun _ _ _ _ e => nomatch e
theorem invalidateRequest : ∀ a0 a1 a2 a3 a4 a5, Statement (.invalidateRequest a0 a1 a2 a3 a4 a5) := fun _ _ _ _ _ _ _ _ e => nomatch e
theorem invalidationAck : ∀ a0 a1 a2, Statement (.invalidationAck a0 a1 a2) := fun _ _ _ _ _ e => nomatch e
theorem staleReadExpiry : ∀ a0 a1, Statement (.staleReadExpiry a0 a1) := fun _ _ _ _ e => nomatch e
theorem atsEnableClear : ∀ a0, Statement (.atsEnableClear a0) :=
  fun _ h _ e => Option.some.inj e ▸ of_fn h
theorem priReset : ∀ a0, Statement (.priReset a0) :=
  fun _ h _ e => Option.some.inj e ▸ of_fn h
theorem queDoorbell : ∀ a0 a1 a2, Statement (.queDoorbell a0 a1 a2) :=
  fun _ _ _ h _ e => Option.some.inj e ▸ of_fn h
theorem slotReadComplete : ∀ a0 a1 a2, Statement (.slotReadComplete a0 a1 a2) := fun _ _ _ _ _ e => nomatch e
theorem slotRefetch : ∀ a0, Statement (.slotRefetch a0) := fun _ _ _ e => nomatch e
theorem queRestart : ∀ a0 a1 a2, Statement (.queRestart a0 a1 a2) :=
  fun _ _ _ h _ e => Option.some.inj e ▸ of_fn h
theorem queSuspend : ∀ a0 a1 a2, Statement (.queSuspend a0 a1 a2) :=
  fun _ _ _ h _ e => Option.some.inj e ▸ of_fn h
theorem schedulerRound : ∀ a0, Statement (.schedulerRound a0) := fun _ _ _ e => nomatch e
theorem nop : ∀ a0 a1, Statement (.nop a0 a1) := fun _ _ _ _ e => nomatch e
theorem write : ∀ a0 a1, Statement (.write a0 a1) := fun _ _ _ _ e => nomatch e
theorem read : ∀ a0 a1, Statement (.read a0 a1) := fun _ _ _ _ e => nomatch e
theorem add64 : ∀ a0 a1, Statement (.add64 a0 a1) := fun _ _ _ _ e => nomatch e
theorem add32 : ∀ a0 a1, Statement (.add32 a0 a1) := fun _ _ _ _ e => nomatch e
theorem cas64 : ∀ a0 a1, Statement (.cas64 a0 a1) := fun _ _ _ _ e => nomatch e
theorem cas32 : ∀ a0 a1, Statement (.cas32 a0 a1) := fun _ _ _ _ e => nomatch e
theorem kernelStart : ∀ a0 a1 a2, Statement (.kernelStart a0 a1 a2) := fun _ _ _ _ _ e => nomatch e
theorem descriptorComplete : ∀ a0 a1, Statement (.descriptorComplete a0 a1) := fun _ _ _ _ e => nomatch e
theorem completionFlushDone : ∀ a0 a1, Statement (.completionFlushDone a0 a1) := fun _ _ _ _ e => nomatch e
theorem cmpConsumer : ∀ a0 a1 a2, Statement (.cmpConsumer a0 a1 a2) :=
  fun _ _ _ h _ e => Option.some.inj e ▸ of_fn h
theorem cmpIntArm : ∀ a0 a1 a2, Statement (.cmpIntArm a0 a1 a2) :=
  fun _ _ _ h _ e => Option.some.inj e ▸ of_fn h
theorem holdoffExpiry : ∀ a0, Statement (.holdoffExpiry a0) := fun _ _ _ e => nomatch e
theorem msixUnmask : ∀ a0 a1, Statement (.msixUnmask a0 a1) :=
  fun _ _ h _ e => Option.some.inj e ▸ of_fn (of_left h)
theorem messageBegin : ∀ a0 a1, Statement (.messageBegin a0 a1) := fun _ _ _ _ e => nomatch e
theorem reservationGrant : ∀ a0 a1, Statement (.reservationGrant a0 a1) := fun _ _ _ _ e => nomatch e
theorem packetTransmit : ∀ a0 a1 a2 a3 a4, Statement (.packetTransmit a0 a1 a2 a3 a4) := fun _ _ _ _ _ _ _ e => nomatch e
theorem epochReserved : ∀ a0, Statement (.epochReserved a0) := fun _ _ _ e => nomatch e
theorem packetArrival : ∀ a0 a1 a2, Statement (.packetArrival a0 a1 a2) := fun _ _ _ _ _ e => nomatch e
theorem tagVerify : ∀ a0 a1 a2, Statement (.tagVerify a0 a1 a2) := fun _ _ _ _ _ e => nomatch e
theorem recordExpiry : ∀ a0 a1, Statement (.recordExpiry a0 a1) := fun _ _ _ _ e => nomatch e
theorem ack : ∀ a0 a1, Statement (.ack a0 a1) := fun _ _ _ _ e => nomatch e
theorem sack : ∀ a0 a1, Statement (.sack a0 a1) := fun _ _ _ _ e => nomatch e
theorem nak : ∀ a0 a1, Statement (.nak a0 a1) := fun _ _ _ _ e => nomatch e
theorem readResp : ∀ a0 a1, Statement (.readResp a0 a1) := fun _ _ _ _ e => nomatch e
theorem retransmitTimeout : ∀ a0 a1, Statement (.retransmitTimeout a0 a1) := fun _ _ _ _ e => nomatch e
theorem retryAfterEnd : ∀ a0 a1 a2, Statement (.retryAfterEnd a0 a1 a2) := fun _ _ _ _ _ e => nomatch e
theorem messageExpiry : ∀ a0 a1, Statement (.messageExpiry a0 a1) := fun _ _ _ _ e => nomatch e
theorem unreachableTimeout : ∀ a0 a1, Statement (.unreachableTimeout a0 a1) := fun _ _ _ _ e => nomatch e
theorem ccBasePeriod : ∀ a0, Statement (.ccBasePeriod a0) := fun _ _ _ e => nomatch e
theorem ccIdleRaise : ∀ a0 a1, Statement (.ccIdleRaise a0 a1) := fun _ _ _ _ e => nomatch e
theorem drrRound : ∀ a0 a1, Statement (.drrRound a0 a1) := fun _ _ _ _ e => nomatch e
theorem queueSample : Statement .queueSample := fun _ _ e => nomatch e
theorem portDetect : ∀ a0, Statement (.portDetect a0) := fun _ _ _ e => nomatch e
theorem laneTrained : ∀ a0, Statement (.laneTrained a0) := fun _ _ _ e => nomatch e
theorem codewordLock : ∀ a0, Statement (.codewordLock a0) := fun _ _ _ e => nomatch e
theorem hello : ∀ a0 a1, Statement (.hello a0 a1) := fun _ _ _ _ e => nomatch e
theorem trainingTimeout : ∀ a0, Statement (.trainingTimeout a0) := fun _ _ _ e => nomatch e
theorem lossOfSignal : ∀ a0, Statement (.lossOfSignal a0) := fun _ _ _ e => nomatch e
theorem controlFlitTimeout : ∀ a0, Statement (.controlFlitTimeout a0) := fun _ _ _ e => nomatch e
theorem downNotice : ∀ a0, Statement (.downNotice a0) := fun _ _ _ e => nomatch e
theorem retrain : ∀ a0 a1 a2, Statement (.retrain a0 a1 a2) :=
  fun _ _ _ h _ e => Option.some.inj e ▸ of_fn (of_left h)
theorem dataFlit : ∀ a0 a1 a2, Statement (.dataFlit a0 a1 a2) := fun _ _ _ _ _ e => nomatch e
theorem keepalive : ∀ a0, Statement (.keepalive a0) := fun _ _ _ e => nomatch e
theorem widthProposal : ∀ a0 a1 a2 a3 a4, Statement (.widthProposal a0 a1 a2 a3 a4) := fun _ _ _ _ _ _ _ e => nomatch e
theorem widthReq : ∀ a0 a1 a2 a3 a4, Statement (.widthReq a0 a1 a2 a3 a4) := fun _ _ _ _ _ _ _ e => nomatch e
theorem widthAck : ∀ a0 a1, Statement (.widthAck a0 a1) := fun _ _ _ _ e => nomatch e
theorem widthSwitch : ∀ a0, Statement (.widthSwitch a0) := fun _ _ _ e => nomatch e
theorem headArrival : ∀ a0 a1, Statement (.headArrival a0 a1) := fun _ _ _ _ e => nomatch e
theorem headForward : ∀ a0 a1, Statement (.headForward a0 a1) := fun _ _ _ _ e => nomatch e
theorem headRelax : ∀ a0, Statement (.headRelax a0) := fun _ _ _ e => nomatch e
theorem headPressed : ∀ a0, Statement (.headPressed a0) := fun _ _ _ e => nomatch e
theorem attSession : ∀ a0 a1 a2 a3, Statement (.attSession a0 a1 a2 a3) := fun _ _ _ _ _ _ e => nomatch e
theorem attSessionTimeout : ∀ a0, Statement (.attSessionTimeout a0) := fun _ _ _ e => nomatch e
theorem attCredit : ∀ a0 a1 a2, Statement (.attCredit a0 a1 a2) := fun _ _ _ _ _ e => nomatch e
theorem attTrig : ∀ a0 a1 a2 a3, Statement (.attTrig a0 a1 a2 a3) := fun _ _ _ _ _ _ e => nomatch e
theorem attReset : ∀ a0, Statement (.attReset a0) := fun _ _ _ e => nomatch e
theorem relayUp : ∀ a0 a1, Statement (.relayUp a0 a1) := fun _ _ _ _ e => nomatch e
theorem memWriteDone : ∀ a0 a1 a2, Statement (.memWriteDone a0 a1 a2) := fun _ _ _ _ _ e => nomatch e
theorem memReadData : ∀ a0 a1 a2 a3, Statement (.memReadData a0 a1 a2 a3) := fun _ _ _ _ _ _ e => nomatch e
theorem attachTimeout : ∀ a0 a1, Statement (.attachTimeout a0 a1) := fun _ _ _ _ e => nomatch e
theorem graticuleJobEnd : ∀ a0 a1, Statement (.graticuleJobEnd a0 a1) := fun _ _ _ _ e => nomatch e
theorem checkRepeat : ∀ a0 a1, Statement (.checkRepeat a0 a1) := fun _ _ _ _ e => nomatch e
theorem graticuleSelfTestEnd : ∀ a0 a1, Statement (.graticuleSelfTestEnd a0 a1) := fun _ _ _ _ e => nomatch e
theorem wipeComplete : ∀ a0, Statement (.wipeComplete a0) := fun _ _ _ e => nomatch e
theorem reductionEnd : ∀ a0, Statement (.reductionEnd a0) := fun _ _ _ e => nomatch e
theorem fetchLocal : ∀ a0, Statement (.fetchLocal a0) := fun _ _ _ e => nomatch e
theorem fetchRemote : ∀ a0, Statement (.fetchRemote a0) := fun _ _ _ e => nomatch e
theorem sendWrite : ∀ a0, Statement (.sendWrite a0) := fun _ _ _ e => nomatch e
theorem sendWriteFlag : ∀ a0, Statement (.sendWriteFlag a0) := fun _ _ _ e => nomatch e
theorem sendAdd64 : ∀ a0, Statement (.sendAdd64 a0) := fun _ _ _ e => nomatch e
theorem xformGemm : ∀ a0 a1, Statement (.xformGemm a0 a1) := fun _ _ _ _ e => nomatch e
theorem xformReduce : ∀ a0, Statement (.xformReduce a0) := fun _ _ _ e => nomatch e
theorem xformConvert : ∀ a0, Statement (.xformConvert a0) := fun _ _ _ e => nomatch e
theorem waitTrigGe : ∀ a0, Statement (.waitTrigGe a0) := fun _ _ _ e => nomatch e
theorem waitTrigTake : ∀ a0, Statement (.waitTrigTake a0) := fun _ _ _ e => nomatch e
theorem waitTime : ∀ a0, Statement (.waitTime a0) := fun _ _ _ e => nomatch e
theorem waitWordGe : ∀ a0, Statement (.waitWordGe a0) := fun _ _ _ e => nomatch e
theorem waitSatisfied : ∀ a0, Statement (.waitSatisfied a0) := fun _ _ _ e => nomatch e
theorem trigAdd : ∀ a0, Statement (.trigAdd a0) := fun _ _ _ e => nomatch e
theorem trigSet : ∀ a0, Statement (.trigSet a0) := fun _ _ _ e => nomatch e
theorem doorbell : ∀ a0, Statement (.doorbell a0) := fun _ _ _ e => nomatch e
theorem loop : ∀ a0, Statement (.loop a0) := fun _ _ _ e => nomatch e
theorem predEq : ∀ a0, Statement (.predEq a0) := fun _ _ _ e => nomatch e
theorem predNe : ∀ a0, Statement (.predNe a0) := fun _ _ _ e => nomatch e
theorem predLt : ∀ a0, Statement (.predLt a0) := fun _ _ _ e => nomatch e
theorem predTrigGe : ∀ a0, Statement (.predTrigGe a0) := fun _ _ _ e => nomatch e
theorem predFlags : ∀ a0, Statement (.predFlags a0) := fun _ _ _ e => nomatch e
theorem mov : ∀ a0, Statement (.mov a0) := fun _ _ _ e => nomatch e
theorem setAdd : ∀ a0, Statement (.setAdd a0) := fun _ _ _ e => nomatch e
theorem load : ∀ a0, Statement (.load a0) := fun _ _ _ e => nomatch e
theorem store : ∀ a0, Statement (.store a0) := fun _ _ _ e => nomatch e
theorem seed : ∀ a0, Statement (.seed a0) := fun _ _ _ e => nomatch e
theorem trigRead : ∀ a0, Statement (.trigRead a0) := fun _ _ _ e => nomatch e
theorem coll : ∀ a0, Statement (.coll a0) := fun _ _ _ e => nomatch e
theorem exit : ∀ a0, Statement (.exit a0) := fun _ _ _ e => nomatch e
theorem stepComplete : ∀ a0 a1, Statement (.stepComplete a0 a1) := fun _ _ _ _ e => nomatch e
theorem stepTimeout : ∀ a0 a1, Statement (.stepTimeout a0 a1) := fun _ _ _ _ e => nomatch e
theorem collData : ∀ a0 a1, Statement (.collData a0 a1) := fun _ _ _ _ e => nomatch e
theorem instanceEnd : ∀ a0 a1, Statement (.instanceEnd a0 a1) := fun _ _ _ _ e => nomatch e
theorem heartbeat : ∀ a0, Statement (.heartbeat a0) := fun _ _ _ e => nomatch e
theorem heartbeatSilence : ∀ a0 a1 a2, Statement (.heartbeatSilence a0 a1 a2) := fun _ _ _ _ _ e => nomatch e
theorem beacon : ∀ a0 a1, Statement (.beacon a0 a1) := fun _ _ _ _ e => nomatch e
theorem dlDown : ∀ a0, Statement (.dlDown a0) := fun _ _ _ e => nomatch e
theorem dlUp : ∀ a0, Statement (.dlUp a0) := fun _ _ _ e => nomatch e
theorem retrainTimeout : ∀ a0, Statement (.retrainTimeout a0) := fun _ _ _ e => nomatch e
theorem hotReset : ∀ a0, Statement (.hotReset a0) := fun _ _ _ e => nomatch e
theorem perst : ∀ a0, Statement (.perst a0) := fun _ _ _ e => nomatch e
theorem busMasterEnableClear : ∀ a0, Statement (.busMasterEnableClear a0) := fun _ _ _ e => nomatch e
theorem flr : ∀ a0, Statement (.flr a0) :=
  fun _ h _ e => Option.some.inj e ▸ of_fn h
theorem vfEnableClear : ∀ a0, Statement (.vfEnableClear a0) := fun _ _ _ e => nomatch e
theorem hostReadCompletion : ∀ a0 a1 a2, Statement (.hostReadCompletion a0 a1 a2) := fun _ _ _ _ _ e => nomatch e
theorem completionTimeout : ∀ a0 a1, Statement (.completionTimeout a0 a1) := fun _ _ _ _ e => nomatch e
theorem hdmDecoderCommit : ∀ a0 a1 a2, Statement (.hdmDecoderCommit a0 a1 a2) := fun _ _ _ _ _ e => nomatch e
theorem hdmDecoderUncommit : ∀ a0, Statement (.hdmDecoderUncommit a0) := fun _ _ _ e => nomatch e
theorem fnHdmLength : ∀ a0 a1 a2, Statement (.fnHdmLength a0 a1 a2) :=
  fun _ _ _ h _ e => Option.some.inj e ▸ of_fn h
theorem bar4Access : ∀ a0 a1 a2 a3, Statement (.bar4Access a0 a1 a2 a3) := fun _ _ _ _ _ _ e => nomatch e
theorem hostCxlMemRequest : ∀ a0 a1 a2, Statement (.hostCxlMemRequest a0 a1 a2) := fun _ _ _ _ _ e => nomatch e
theorem biasFlip : ∀ a0 a1, Statement (.biasFlip a0 a1) := fun _ _ _ _ e => nomatch e
theorem biasGo : ∀ a0 a1, Statement (.biasGo a0 a1) :=
  fun _ _ h _ e => Option.some.inj e ▸ of_fn h
theorem biasChangeDone : ∀ a0, Statement (.biasChangeDone a0) := fun _ _ _ e => nomatch e
theorem p2pEnable : ∀ a0 a1 a2, Statement (.p2pEnable a0 a1 a2) :=
  fun _ _ _ h _ e => Option.some.inj e ▸ of_fn (of_left h)
theorem p2pProbeResult : ∀ a0 a1 a2, Statement (.p2pProbeResult a0 a1 a2) := fun _ _ _ _ _ e => nomatch e
theorem lockInterfaceRequest : ∀ a0, Statement (.lockInterfaceRequest a0) :=
  fun _ h _ e => Option.some.inj e ▸ of_fn h
theorem startInterfaceRequest : ∀ a0, Statement (.startInterfaceRequest a0) :=
  fun _ h _ e => Option.some.inj e ▸ of_fn h
theorem stopInterfaceRequest : ∀ a0, Statement (.stopInterfaceRequest a0) :=
  fun _ h _ e => Option.some.inj e ▸ of_fn h
theorem ideStreamFailure : ∀ a0, Statement (.ideStreamFailure a0) :=
  fun _ h _ e => Option.some.inj e ▸ of_fn h
theorem getVersion : ∀ a0, Statement (.getVersion a0) := fun _ _ _ e => nomatch e
theorem getCapabilities : ∀ a0 a1, Statement (.getCapabilities a0 a1) := fun _ _ _ _ e => nomatch e
theorem negotiateAlgorithms : ∀ a0 a1 a2 a3 a4, Statement (.negotiateAlgorithms a0 a1 a2 a3 a4) := fun _ _ _ _ _ _ _ e => nomatch e
theorem getDigests : ∀ a0, Statement (.getDigests a0) := fun _ _ _ e => nomatch e
theorem getCertificate : ∀ a0 a1 a2 a3, Statement (.getCertificate a0 a1 a2 a3) := fun _ _ _ _ _ _ e => nomatch e
theorem challenge : ∀ a0 a1 a2, Statement (.challenge a0 a1 a2) := fun _ _ _ _ _ e => nomatch e
theorem getMeasurements : ∀ a0 a1 a2 a3, Statement (.getMeasurements a0 a1 a2 a3) := fun _ _ _ _ _ _ e => nomatch e
theorem keyExchange : ∀ a0 a1, Statement (.keyExchange a0 a1) := fun _ _ _ _ e => nomatch e
theorem finish : ∀ a0 a1 a2, Statement (.finish a0 a1 a2) := fun _ _ _ _ _ e => nomatch e
theorem spdmHeartbeat : ∀ a0 a1, Statement (.spdmHeartbeat a0 a1) := fun _ _ _ _ e => nomatch e
theorem keyUpdate : ∀ a0 a1 a2, Statement (.keyUpdate a0 a1 a2) := fun _ _ _ _ _ e => nomatch e
theorem endSession : ∀ a0 a1, Statement (.endSession a0 a1) := fun _ _ _ _ e => nomatch e
theorem vendorDefinedRequest : ∀ a0 a1 a2 a3, Statement (.vendorDefinedRequest a0 a1 a2 a3) := fun _ _ _ _ _ _ e => nomatch e
theorem frameReceive : ∀ a0 a1, Statement (.frameReceive a0 a1) := fun _ _ _ _ e => nomatch e
theorem frameLeaveBuffer : ∀ a0, Statement (.frameLeaveBuffer a0) := fun _ _ _ e => nomatch e
theorem pfcFrame : ∀ a0 a1, Statement (.pfcFrame a0 a1) := fun _ _ _ _ e => nomatch e
theorem arpRequest : ∀ a0 a1 a2, Statement (.arpRequest a0 a1 a2) := fun _ _ _ _ _ e => nomatch e
theorem neighborSolicitation : ∀ a0 a1 a2, Statement (.neighborSolicitation a0 a1 a2) := fun _ _ _ _ _ e => nomatch e
theorem roceRequest : ∀ a0 a1 a2 a3, Statement (.roceRequest a0 a1 a2 a3) := fun _ _ _ _ _ _ e => nomatch e
theorem roceNak : ∀ a0 a1 a2, Statement (.roceNak a0 a1 a2) := fun _ _ _ _ _ e => nomatch e
theorem cnp : ∀ a0, Statement (.cnp a0) := fun _ _ _ e => nomatch e
theorem qpAckTimeout : ∀ a0, Statement (.qpAckTimeout a0) := fun _ _ _ e => nomatch e
theorem nvmeCompletion : ∀ a0 a1 a2 a3, Statement (.nvmeCompletion a0 a1 a2 a3) := fun _ _ _ _ _ _ e => nomatch e
theorem keepAlive : ∀ a0, Statement (.keepAlive a0) := fun _ _ _ e => nomatch e
theorem associationLoss : ∀ a0, Statement (.associationLoss a0) := fun _ _ _ e => nomatch e
theorem sealedStateWritten : Statement .sealedStateWritten := fun _ _ e => nomatch e
theorem rekeyStep : ∀ a0, Statement (.rekeyStep a0) := fun _ _ _ e => nomatch e
theorem rekeyStepWritten : ∀ a0, Statement (.rekeyStepWritten a0) := fun _ _ _ e => nomatch e
theorem kbxClaim : ∀ a0, Statement (.kbxClaim a0) := fun _ _ _ e => nomatch e
theorem kbxRelease : ∀ a0, Statement (.kbxRelease a0) := fun _ _ _ e => nomatch e
theorem kbxStart : ∀ a0 a1, Statement (.kbxStart a0 a1) := fun _ _ _ _ e => nomatch e
theorem kbxBlockDone : Statement .kbxBlockDone := fun _ _ e => nomatch e
theorem kbxExpiry : Statement .kbxExpiry := fun _ _ e => nomatch e
theorem warmReset : ∀ a0, Statement (.warmReset a0) := fun _ _ _ e => nomatch e
theorem cdcWake : ∀ a0, Statement (.cdcWake a0) := fun _ _ _ e => nomatch e
theorem cdcTimeout : ∀ a0 a1, Statement (.cdcTimeout a0 a1) := fun _ _ _ _ e => nomatch e
theorem unitHung : ∀ a0, Statement (.unitHung a0) := fun _ _ _ e => nomatch e
theorem unitSelfTestEnd : ∀ a0 a1, Statement (.unitSelfTestEnd a0 a1) := fun _ _ _ _ e => nomatch e
theorem activateFirmware : Statement .activateFirmware := fun _ _ e => nomatch e
theorem pldmFirmwareUpdate : ∀ a0 a1 a2, Statement (.pldmFirmwareUpdate a0 a1 a2) := fun _ _ _ _ _ e => nomatch e
theorem coldPowerUp : Statement .coldPowerUp := fun _ _ e => nomatch e
theorem boot : ∀ a0, Statement (.boot a0) := fun _ _ _ e => nomatch e
theorem inputExcursion : ∀ a0 a1, Statement (.inputExcursion a0 a1) := fun _ _ _ _ e => nomatch e
theorem inputRestored : ∀ a0, Statement (.inputRestored a0) := fun _ _ _ e => nomatch e
theorem leaveGrant : ∀ a0, Statement (.leaveGrant a0) := fun _ _ _ e => nomatch e
theorem noLeave : ∀ a0, Statement (.noLeave a0) := fun _ _ _ e => nomatch e
theorem powerAverageUpdate : ∀ a0, Statement (.powerAverageUpdate a0) := fun _ _ _ e => nomatch e
theorem backstop : ∀ a0, Statement (.backstop a0) := fun _ _ _ e => nomatch e
theorem pwrCapWrite : ∀ a0 a1, Statement (.pwrCapWrite a0 a1) :=
  fun _ _ h _ e => Option.some.inj e ▸ of_fn h
theorem capEffecter : ∀ a0 a1, Statement (.capEffecter a0 a1) := fun _ _ _ _ e => nomatch e
theorem thermalWarning : ∀ a0 a1, Statement (.thermalWarning a0 a1) := fun _ _ _ _ e => nomatch e
theorem thermalThrottle : ∀ a0 a1, Statement (.thermalThrottle a0 a1) := fun _ _ _ _ e => nomatch e
theorem throttleExit : Statement .throttleExit := fun _ _ e => nomatch e
theorem thermalTrip : ∀ a0 a1, Statement (.thermalTrip a0 a1) := fun _ _ _ _ e => nomatch e
theorem quadrantIdle : ∀ a0, Statement (.quadrantIdle a0) := fun _ _ _ e => nomatch e
theorem channelPowerDown : ∀ a0, Statement (.channelPowerDown a0) := fun _ _ _ e => nomatch e
theorem atlasChoiceChange : ∀ a0, Statement (.atlasChoiceChange a0) := fun _ _ _ e => nomatch e
theorem perstNDeassertion : ∀ a0, Statement (.perstNDeassertion a0) := fun _ _ _ e => nomatch e
theorem flashWpNChange : ∀ a0, Statement (.flashWpNChange a0) := fun _ _ _ e => nomatch e
theorem cxlMemEnable : ∀ a0 a1, Statement (.cxlMemEnable a0 a1) := fun _ _ _ _ e => nomatch e
theorem cxlCacheLineGrant : ∀ a0 a1 a2, Statement (.cxlCacheLineGrant a0 a1 a2) := fun _ _ _ _ _ e => nomatch e
theorem backstopRelease : ∀ a0, Statement (.backstopRelease a0) := fun _ _ _ e => nomatch e
theorem thermAlertRelease : Statement .thermAlertRelease := fun _ _ e => nomatch e
theorem thermalTripRelease : Statement .thermalTripRelease := fun _ _ e => nomatch e
theorem ppsOutFall : Statement .ppsOutFall := fun _ _ e => nomatch e
theorem pfcPauseExpiry : ∀ a0 a1, Statement (.pfcPauseExpiry a0 a1) := fun _ _ _ _ e => nomatch e
theorem queuePairReply : ∀ a0 a1 a2 a3, Statement (.queuePairReply a0 a1 a2 a3) := fun _ _ _ _ _ _ e => nomatch e
theorem lossOfPowerGood : Statement .lossOfPowerGood := fun _ _ e => nomatch e

end Sys2Proof.Laws.FnRange
end

