-- ==== Sys2Proof/Tests/Slice0.lean ====
section
/-!
SUPPORT. Tests/Slice0.lean: small states to try the block on, the checks of well-formedness, tests of single commands
against the manual's examples, and for every statement a state and operands that meet its hypotheses.
-/

namespace Sys2Proof.Tests

open Sys2Proof.Machine

set_option Elab.async false

/-! ## Small states -/

/-- A mailbox that holds a command with its arguments, sequence 1. -/
def mail (op words : Nat) (args : List Nat) : Mailbox :=
  { cmd := w64 (op + 2 ^ 32 + words * 2 ^ 48), data := (args.map w64 ++ List.replicate 32 0).take 32
    busy := true, version := 3 }

/-- A device past its boot: firmware serving, both links up, PF0 bound to partition 3, which has a key. -/
def dev : State :=
  { State.reset with
    clk := 2000000000
    power := { State.reset.power with flashWpN := true }
    fw := { alive := true, serving := true, svnServed := true, awaitingBoot := false }
    funcs := [(0, { present := true, bound := some 3, busMaster := true, izlis := 3 }), (256, { present := true })]
    hosts := [(0, { linkUp := true, ready := true }), (1, { linkUp := true, ready := true })]
    parts := [(3, { keyed := true, quotas := [(0, 64), (1, 64), (2, 64), (3, 64), (4, 64), (5, 64), (6, 64), (7, 64), (8, 64)] })] }

/-- That device with a command in PF0's mailbox 0. -/
def cmd (op words : Nat) (args : List Nat) : State := { dev with mailboxes := [(0, mail op words args)] }

/-- The same on a device whose firmware serves a newer image for the first time. -/
def newImage (s : State) : State := { s with fw := { s.fw with svnServed := false } }

/-- A change to PF0's mailbox 0. -/
def withMbx (s : State) (g : Mailbox → Mailbox) : State := s.modMbx 0 g

/-- A firmware image without a body: the header of R479 with the digest of nothing. -/
def image : List Byte :=
  leBytes 4 0x57465847 ++ List.replicate 20 0 ++ shake256 [] 64 ++ List.replicate 1960 0

/-- What an option holds is what it answers, where it holds something. -/
theorem some_getD {α : Type} {x : Option α} {d : α} (h : x.isSome = true) : x = some (x.getD d) := by
  cases x with
  | none => cases h
  | some a => rfl

/-- That image passes the checks of R479 on the device as it stands. -/
theorem image_passes : imageFault dev.fw.floor image true = none := by decide +kernel

/-- A rekey at its first step. -/
def rekeyed : Rekey := { old := 0, new := 1 }

/-- A device that rekeys partition 3, which has one LPDDR5X page. -/
def rekeying : State :=
  { dev with
    parts := [(3, { rekey := some rekeyed })]
    placements := [(0, { live := true, partition := 3, size := 4096, legs := [{ lpddr := true, pages := 1, frames := [0] }] })] }

/-- A whole key-session message of a step, written to the open transfer of PF0's mailbox 0. -/
def keyBulk (step : Nat) (l : List Byte) : Bulk :=
  { kind := 8, bound := some 3, length := l.length, objectId := w64 step, writing := true, nextChunk := (l.length + 255) / 256, data := l }

/-- Its commit, with partition 3's key session. -/
def keyWrite (step : Nat) (l : List Byte) (y : KeySession) : State :=
  { cmd 0x104 1 [1] with
    mailboxes := [(0, { mail 0x104 1 [1] with bulk := some (keyBulk step l) })]
    parts := [(3, { keyed := true, owner := shake256 (slice l 1576 1793) 64, session := some y })] }

/-- An ACCEPT of session 0. -/
def acceptBytes : List Byte := leBytes 4 2 ++ List.replicate 4656 0

/-- A key session that waits for its first command. -/
def keyed : KeySession := { next := 3, established := true, commandKey := List.replicate 32 9 }

/-- The header of the first KEY_CMD: type 3, session 0, sequence 1. -/
def keyHead : List Byte := leBytes 4 3 ++ leBytes 4 0 ++ leBytes 4 1 ++ leBytes 4 0

/-- A KEY_CMD of a plaintext, wholly put: sealed under the command key of the session. -/
def sealedBulk (plain : List Byte) : Bulk :=
  { kind := 8, bound := some 3, length := plain.length + 32, objectId := 3, writing := true, nextChunk := 1
    data := keyHead ++ gcmSeal keyed.commandKey (leBytes 12 (field keyHead 8 4)) keyHead plain }

/-- Its commit, with partition 3's key session. -/
def sealedWrite (plain : List Byte) : State :=
  { cmd 0x104 1 [1] with
    mailboxes := [(0, { mail 0x104 1 [1] with bulk := some (sealedBulk plain) })]
    parts := [(3, { keyed := true, session := some keyed })] }

/-- The same chart in every quadrant. -/
def everyQuadrant (x : Charts) : Table Charts := [(0, x), (1, x), (2, x), (3, x)]

/-- A whole chart block of one entry for bank B. -/
def chartBulk : Bulk :=
  { kind := 3, length := 16, objectId := 0x50001, writing := true, nextChunk := 1, data := List.replicate 16 3 }

/-- A whole gate list for port 4: one entry, every gate open, a cycle of 1 µs. -/
def gateBulk : Bulk :=
  { kind := 7, length := 24, objectId := 4, writing := true, nextChunk := 1
    data := leBytes 4 1 ++ leBytes 4 1000 ++ leBytes 8 0 ++ leBytes 4 255 ++ leBytes 4 1000 }

/-- A kernel image of one EXIT step. -/
def kernelImage : List Byte :=
  let body := leBytes 32 15
  leBytes 32 (0x475A4B + 2 ^ 24 + 2 ^ 32) ++ shake256 body 32 ++ body

/-- That image, wholly put. -/
def kernelBulk : Bulk := { kind := 1, length := 96, writing := true, nextChunk := 1, data := kernelImage, bound := some 3 }

/-- A schedule object of job 9: an all-gather (operation 3) of 16 FP32 elements between endpoints 0 and 1. -/
def schedBytes : List Byte :=
  leBytes 4 1 ++ leBytes 4 9 ++ [3, 0, 0, 0x11] ++ leBytes 2 2 ++ leBytes 2 0 ++ leBytes 2 5 ++ [1, 0] ++ leBytes 8 0
    ++ leBytes 2 0 ++ [0, 0] ++ leBytes 8 16 ++ leBytes 8 0 ++ leBytes 8 0 ++ leBytes 8 0 ++ List.replicate 64 0
    ++ leBytes 4 0 ++ leBytes 4 1

/-- That object, wholly put. -/
def schedBulk : Bulk := { kind := 4, length := 136, objectId := 9, writing := true, nextChunk := 1, data := schedBytes, bound := some 3 }

/-- The commit of that object on a device whose partition 3 has all the schedule names. -/
def admitting : State :=
  { withMbx (cmd 0x104 1 [1]) (fun x => { x with bulk := some schedBulk }) with
    parts := [(3, { keyed := true, jobs := [(9, { members := 2, key := some {} })] })]
    contexts := [(5, { state := .live, gen := 1, partition := 3, segments := [(0, { kind := 1, length := 4096, read := true, write := true })] })]
    trigs := [(0, (3, 0)), (1, (3, 0)), (2, (3, 0)), (3, (3, 0))]
    charts := everyQuadrant { bankA := [(0, { kind := 1 }), (1, { kind := 1, productive := 1 })] }
    ports := [(0, { mode := 1, state := .active, width := 4 })]
    mer := { lock := .locked } }

/-- The schedule it becomes. -/
def schedC : Schedule :=
  { header := { parseSchedule schedBytes with algorithm := 3, depth := 2, msgSize := 16384 }, members := [(0, 0), (1, 0)], bound := 231773, reservation := 33280, ports := [0]
    sequencer := 7 }

/-- A placement of one page of partition 3, generation 1. -/
def placed : Placement :=
  { live := true, partition := 3, gen := 1, size := 4096, offset := 0x80000000000, legs := [{ pages := 1 }] }

/-- A port in Ethernet mode with an IPv4 address, up at 200 Gb/s. -/
def ethPort : Port := { mode := 3, state := .active, width := 4, eth := { ip4 := 5, rate := 200 } }

/-- A queue pair of partition 3 on port 4 that expects sequence number 8. -/
def roceQp : QueuePair := { partition := 3, port := 4, queue := 2, expectPsn := 8 }

/-- A device with that queue pair and a region of partition 3 over its placement. -/
def roce : State :=
  { dev with
    ports := [(4, ethPort)]
    qps := [(6, roceQp)]
    placements := [(6, placed)]
    contexts := [(5, { state := .live, gen := 1, partition := 3 })]
    regions := [(7, { valid := true, kind := 1, read := true, write := true, atomic := true, partition := 3, check := 9, gen := 1
                      context := 5, contextGen := 1, base := 0x80000000000, length := 4096 })] }

/-- A segment entry that names partition space. -/
def partSeg : Segment := { kind := 2, base := 0, length := 0xFFFFFFFFFFF, read := true, write := true }

/-- A queue pair that waits for the answer to one request. -/
def requester (op : Nat) : QueuePair :=
  { partition := 3, port := 4, queue := 2, retries := 3, rnrRetries := 3, retriesLeft := 2, rnrLeft := 1
    requests := [{ psn := 8, opcode := op, length := 8 }] }

/-- Its queue, with the descriptor of the request. -/
def requestQueue (op : Nat) : Queue :=
  { partition := 3, bound := .queuePair 6
    held := [{ phase := .running, opcode := op, length := 8, localAddr := 0x80000000000, seg := partSeg }] }

/-- A device with both. -/
def requesting (op : Nat) : State :=
  { dev with
    ports := [(4, ethPort)]
    qps := [(6, requester op)]
    placements := [(6, placed)]
    queues := [(2, requestQueue op)] }

/-- A controller with one Write outstanding. -/
def stored : Controller := { partition := 3, port := 4, queue := 2, commands := [{ id := 4, opcode := 1, length := 512 }] }

/-- A device with it and its queue. -/
def storing : State :=
  { dev with
    ports := [(4, ethPort)]
    controllers := [(6, stored)]
    queues := [(2, { partition := 3, bound := .controller 6, held := [{ phase := .running, opcode := 1, length := 512 }] })] }

/-- A device on whose port 4 one frame of a kind has landed. -/
def landedFor (s : State) (k : FrameKind) : State :=
  s.modPort 4 fun p => { p with eth := { p.eth with landed := [({ kind := k }, 0)] } }

/-- That queue pair after a NAK that acknowledges nothing: its retries count afresh. -/
def freshRequester : QueuePair := { requester 1 with retriesLeft := 3, rnrLeft := 3, cc := { lastUse := 2000000000 } }

/-- A queue pair that waits for three packets to be acknowledged. -/
def longRequester : QueuePair := { requester 1 with requests := [{ psn := 8, opcode := 1, length := 3000 }] }

/-- A queue that covers the slot at its consumer, 7. -/
def slotQ : Queue := { producer := 8, consumer := 7, context := 5, contextGen := 1, weight := 1 }

/-- A device that reads that slot. -/
def slotRead : State :=
  { dev with
    queues := [(2, slotQ)]
    contexts := [(5, { state := .live, gen := 1, partition := 3 })]
    hosts := [(0, { linkUp := true, ready := true, reads := [{ purpose := .slots 2 7 1, length := 32 }] }), (1, { linkUp := true, ready := true })] }

/-- A started descriptor of an opcode and a length. -/
def startD (op n : Nat) : Desc :=
  { index := 5, opcode := op, length := n, phase := .started, remote := 0x0007380000000000, regionKey := 0x70109
    localAddr := 0x80000000000, seg := partSeg }

/-- Its queue; one of ADD64 is of version 1. -/
def startQ (op n : Nat) : Queue :=
  { version := if op = 3 then 1 else 2, partition := 3, context := 5, contextGen := 1, held := [startD op n] }

/-- A device with it. -/
def starting (op n : Nat) : State := { dev with queues := [(2, startQ op n)], placements := [(6, placed)] }

/-- An ACTIVE port in fabric mode. -/
def fabPort : Port := { mode := 1, state := .active, width := 3 }

/-- A WRITE packet of another device for endpoint 7. -/
def transitPkt : Packet :=
  { key := { src := 9, partition := 3 }, route := { opcode := 1, dst := 7 }, msgLength := 8, payloadLen := 8, issue := 100, send := 100 }

/-- A device between them: port 5 is productive for endpoint 7. -/
def transit : State :=
  { dev with
    ports := [(4, fabPort), (5, fabPort)]
    charts := everyQuadrant { bankA := [(7, { kind := 2, productive := 32, near := 48 })] }
    mer := { now := 100, lock := .locked } }


/-- A congestion-cache entry for endpoint 7. -/
def cong : Congest := { dest := 7, rate := 1600 }

/-- A device with one message to endpoint 7 in quadrant 0; port 5's robin of green classes has credit for its pair. -/
def sending (x : Sender) : State :=
  { transit with
    contexts := [(5, { state := .live, gen := 1, partition := 3, nextSeq := 12 })]
    ports := [(4, fabPort), (5, { fabPort with robins := [{}, { credits := [(24, 640)], left := [24] }, {}, {}] })]
    queues := [(2, { partition := 3, context := 5, contextGen := 1
                     held := [{ index := 5, opcode := 1, phase := .running, inline := true, inlineData := [1, 2, 3, 4, 5, 6, 7, 8] }] })]
    quads := [(0, { senders := [(3, x)], nextMsg := 4, congestion := [cong], txCount := 6 })] }

/-- A message of an 8-byte WRITE, ready. -/
def outMsg : Sender :=
  { owner := .desc 2 5, opcode := 1, partition := 3, context := 5, gen := 1, dst := 7, length := 8, packets := 1 }

/-- That message begun at stamp 100. -/
def begun : Sender := { outMsg with state := .sending, seq := 12, issue := 100, issueClk := 2000000000, toSend := [0] }

/-- The same once port 5 has coloured its packet. -/
def tinted : Sender := { begun with tints := [{ port := 5, index := 0, colour := 0, since := 2000000000 }] }

/-- The same with its packet sent. -/
def waiting : Sender :=
  { begun with state := .waitReply, toSend := [], sent := [0], copies := 1, timerStart := some 1999900000 }

/-- A reply to it from endpoint 7. -/
def replyPkt (op : Nat) : Packet :=
  { key := { src := 7, partition := 3, context := 5, gen := 1, seq := 12 }, route := { opcode := op, cls := 1, dst := 0 }, issue := 100, send := 90 }

/-- An 8-byte WRITE of endpoint 9 to region 7. -/
def landPkt : Packet :=
  { key := { src := 9, partition := 3 }, route := { opcode := 1, dst := 0, landQ := 1, replyQ := 2 }, flags := { last := true }
    spec := { address := 0x0000080000000010, regionKey := 0x70109 }, issue := 100, send := 100
    msgLength := 8, payloadLen := 8, payload := [1, 2, 3, 4, 5, 6, 7, 8] }

/-- A device it arrives at, its quadrant 1 as given; endpoint 9 lies beyond port 4. -/
def landing (d : Quadrant) : State :=
  { roce with
    ports := [(4, fabPort)]
    charts := everyQuadrant { bankA := [(9, { kind := 2, productive := 16, primary := 4, primaryValid := true })] }
    mer := { now := 100, lock := .locked }, quads := [(1, d)] }

/-- The copy of that packet, held. -/
def landCopy : RxCopy := { id := 2, port := 4, pkt := landPkt, space := 128 }

/-- Its record. -/
def landRec : Record := { key := landPkt.key, issue := 100, length := 8, pending := [0] }

/-- A device whose VF 1 has a context, a queue, a ring and an open mailbox. -/
def withVf : State :=
  { dev with
    funcs := [(0, { present := true, bound := some 3 }), (1, { present := true, bound := some 3, izlis := 3, msixEnable := true })]
    contexts := [(5, { state := .live, gen := 1, partition := 3, requester := 1 })]
    rings := [(2, { fn := 1, partition := 3, base := 4096 })]
    queues := [(2, { slotQ with fn := 1, partition := 3, ring := 2 })]
    mailboxes := [(4, { version := 3 })] }

/-- A device with an HDM backing of one unit on port 0, some of it in device bias. -/
def backed : State :=
  { dev with
    placements := [(6, { placed with size := 0x10000000, offset := hdmBase 0, hdmPort := some 0, legs := List.replicate 128 { lpddr := true, pages := 512 } })]
    hosts := [(0, { linkUp := true, ready := true, hdmLength := 1, hdmHandle := 0x10006, deviceBias := [2], cache := [(130, true), (7, true)] })] }

/-- That device with the decoder committed, CXL.mem in use. -/
def cxl : State := backed.modHost 0 fun h => { h with cxlMem := true, decoder := true }

/-- A memory request sent to accelerator 2. -/
def attReq : AttReq := { tag := 5, purpose := .store (.desc 2 5) 0, write := true, length := 8, partition := 3, sentClk := some 1999000000 }

/-- A device with accelerator 2 UP on port 4. -/
def attached : State :=
  { landing { txCount := 6 } with
    ports := [(4, { fabPort with mode := 2 })]
    accels := [(2, { state := .up, partitions := 8, endpoint := 40, ports := 16, portsInForce := 16, writeCredits := 9, readCredits := 9 })]
    trigs := [(6, (3, 5))], hosts := [] }

/-- That device with the request outstanding. -/
def asking : State := attached.modAccel 2 fun x => { x with requests := [attReq] }

/-- A WRITE packet of accelerator 2 toward this device. -/
def upPkt : Packet :=
  { landPkt with key := { src := 40, partition := 3 }, route := { opcode := 1, dst := 0, landQ := 0 } }

/-- An INT8 job of one vector: A holds 3 and -2, W holds 1, 2 above 5, 7, each row of W 16 bytes. -/
def jobRec : JobRecord :=
  { aAddress := 0x80000000000, wAddress := 0x80000000100, outAddress := 0x80000000200, m := 1, k := 2, n := 2
    aFmt := 0xB, wFmt := 0xB, outFmt := 0xD, aStride := 1, outStride := 1, aScale := 0x3F800000, wScale := 0x3F800000 }

/-- The job as graticule 1 runs it for the step in slot 0 of sequencer 4. -/
def gratJob : GratJob := { record := jobRec, sequencer := 4, context := 5, partition := 3, running := true }

/-- The step's flight. -/
def gemm : Flight := { step := { op := 3 }, segs := List.replicate 6 partSeg }

/-- A kernel of partition 3 on sequencer 4 with flights. -/
def kernelOn (fs : List Flight) : Running :=
  { image := { partition := 3 }, queue := 2, descIndex := 5, context := 5, contextGen := 1, partition := 3, flights := fs
    nextSlot := fs.length }

/-- A device whose sequencer 4 runs it; partition 3 has one placement with the operands of the job. -/
def computing (fs : List Flight) : State :=
  { dev with
    seqs := [(4, { owned := true, partition := 3, running := some (kernelOn fs) })]
    placements := [(6, placed)]
    contexts := [(5, { state := .live, gen := 1, partition := 3 })]
    mem := { cells := [(3 * 2 ^ 44 + 0x80000000000, 3), (3 * 2 ^ 44 + 0x80000000001, 254), (3 * 2 ^ 44 + 0x80000000100, 1)
                       , (3 * 2 ^ 44 + 0x80000000101, 2), (3 * 2 ^ 44 + 0x80000000110, 5), (3 * 2 ^ 44 + 0x80000000111, 7)] } }

/-- The same with the job on graticule 1. -/
def multiplying (x : GratJob) : State := { computing [gemm] with grats := [(1, { owned := true, partition := 3, job := some x })] }

/-- A device whose job has not started and may move. -/
def moving : State :=
  { multiplying { gratJob with running := false } with parts := [(3, { keyed := true, schedules := [schedC] })] }

/-- A reduction of two INT32 elements, and one more of the bytes of A and W. -/
def reduction : Reduction :=
  { sequencer := 4, context := 5, partition := 3, src := 0x80000000000, dst := 0x80000000100, count := 2, inFmt := 0xD
    outFmt := 0xD, mode := 3 }

/-- A conversion of two INT8 elements to an MX code. -/
def convRed : Reduction := { reduction with convert := true, inFmt := 0xB, outFmt := 7 }

/-- A device whose unit 1 runs it. -/
def converting : State := { computing [{ gemm with step := { op := 4 } }] with reds := [(1, { queue := [convRed] })] }

/-- That device after the unit's writes. -/
def converted : State :=
  let cv := convertArea convRed 0 (areaNums 0xB convRed.count [3, 254])
  (converting.writePieces converting (.step 4 0) 3 partSeg convRed.dst 1 (areaPieces 7 2 cv.1 cv.2.1)).done?.getD dev

/-- A kernel of partition 3 whose next step is the one given, its scalars 0, 1 and 2 holding 7, 8 and 9. -/
def runningStep (t : Step) : Running :=
  { kernelOn [] with image := { partition := 3, steps := [t] }, scalars := [7, 8, 9] ++ List.replicate 13 0 }

/-- A device whose sequencer 4 runs it, trig point 6 holding 5, in a context whose segment 0 is partition space. -/
def stepping (t : Step) : State :=
  { computing [] with
    seqs := [(4, { owned := true, partition := 3, running := some (runningStep t) })]
    queues := [(2, { partition := 3, context := 5, contextGen := 1, held := [{ index := 5, opcode := 7, phase := .running }] })]
    contexts := [(5, { state := .live, gen := 1, partition := 3, segments := [(0, { partSeg with base := 0x80000000000 })] })]
    trigs := [(6, (3, 5))], mer := { now := 100, lock := .locked } }

/-- The bytes of a job record that reads A at context address 0 and W at 0x100, both INT8, and emits INT32 to 0x200. -/
def recBytes : List Byte :=
  leBytes 64 (0x200 * 2 ^ 448 + 0x100 * 2 ^ 256 + 0x3F800000 * 2 ^ 160 + 0x3F800000 * 2 ^ 128 + 1 * 2 ^ 70 + 2 * 2 ^ 60 + 2 * 2 ^ 51
    + 0xD * 2 ^ 47 + 0xB * 2 ^ 43 + 0xB * 2 ^ 39 + 2 ^ 36 + 2 ^ 16 + 1)

/-- A GEMM step that names it at context address 0x300. -/
def gemmStep : Step := { op := 3, a := 0x300, timeout := 9 }

/-- A device about to run it. -/
def gemming : State :=
  { stepping gemmStep with mem := { cells := memWrite (stepping gemmStep).mem.cells (3 * 2 ^ 44 + 0x80000000300) recBytes } }

/-- An XFORM REDUCE step over two INT32 elements, a sum. -/
def reduceStepOf (sub : Nat) : Step :=
  { op := 3, sub, a := 0, c := 0x100, b := w64 (2 + 0xD * 2 ^ 32 + 0xD * 2 ^ 36 + (if sub = 1 then 3 * 2 ^ 40 else 0)), timeout := 9 }

/-- A job of two members whose heartbeats run. -/
def pair : Job := { members := 2, key := some {}, heartbeat := true, endpoints := [(0, 0), (7, 0)] }

/-- A device with that job, and a schedule of it by which an all-gather's member 0 waits for member 1. -/
def gathering (x : Option Instance) : State :=
  { transit with
    parts := [(3, { keyed := true, jobs := [(9, pair)], schedules := [{ schedC with header := { schedC.header with context := 5, gen := 0 }, running := x }] })]
    contexts := [(5, { state := .live, partition := 3, segments := [(0, { partSeg with base := 0x80000000000 })] })]
    placements := [(6, { placed with size := 0x10000, legs := [{ pages := 16 }] })]
    ports := [(4, { fabPort with mode := 1 }), (5, fabPort)] }

/-- A HEARTBEAT of member 1. -/
def beat : Packet :=
  { key := { src := 7, partition := 3 }, route := { opcode := 0x21, cls := 3, tc := 7 }, flags := { last := true }
    spec := { job := 9, rank := 1 }, issue := 100, send := 100 }

/-- A BEACON of member 1's device. -/
def alarmPkt : Packet := { beat with route := { opcode := 0x22, cls := 3, tc := 7, dst := 7 } }

/-- The all-gather as `gathering` holds it, and the device with an instance of it started. -/
def gatherSched : Schedule := { schedC with header := { schedC.header with context := 5, gen := 0 } }
def gathered : State := (gathering none).startInstance 3 gatherSched 0 none
def gatherInst : Instance := (gathered.instance? 3 1).getD {}

/-- Data of member 1 for it, verified. -/
def gatherPkt : Packet :=
  { beat with
    route := { opcode := 0x20, cls := 3 }, spec := { job := 9, schedule := 1, rank := 1 }, payloadLen := 64, msgLength := 64
    payload := List.replicate 64 7 }
def gatherCopy : RxCopy := { id := 2, verified := true, pkt := gatherPkt }

/-- A device whose DOE responder of PF0 is as given. -/
def responder (x : Spdm) : State := { dev with spdm := [(0, x)] }

/-- A responder with session 1 established and session 2 awaiting FINISH. -/
def inSession : Spdm :=
  { version := 0x12, capabilities := true, algorithms := true, sessions := [(1, true, 4), (2, false, 0)], nextSession := 3 }

/-- A device with a placement and its contents. -/
def placedDev : State := { dev with placements := [(6, placed)], mem := { cells := [(3 * 2 ^ 44 + 0x80000000001, 9), (3 * 2 ^ 44 + 0x80000000004, 8)] } }

/-! ## States and operands that meet the hypotheses of each statement -/

theorem wit_EmptyQueueLetsTimePass_1_1 :
    let s : State := dev;
    s.pending = [] := by decide +kernel

theorem wit_EmptyQueueLetsTimePass_1_2 :
    let s : State := { dev with power := { state := .off } };
    s.pending = [] := by decide +kernel

theorem wit_EmptyQueueLetsTimePass_2 :
    let s : State := { dev with power := { state := .off } };
    s.pending = [] ∧ s.power.state = .off := by decide +kernel

theorem wit_EmptyQueueLetsTimePass_3_1 :
    let s : State := { dev with clk := 160000 };
    s.pending = [] ∧ s.power.state = .on := by decide +kernel

theorem wit_EmptyQueueLetsTimePass_3_2 :
    let s : State := { dev with mer := { sourceSet := true, source := 3, offset := -5000, lock := .locked } };
    s.pending = [] ∧ s.power.state = .on := by decide +kernel

theorem wit_EmptyQueueLetsTimePass_3_3 :
    let s : State := State.reset;
    s.pending = [] ∧ s.power.state = .on := by decide +kernel

theorem wit_EmptyQueueLetsTimePass_4_1 :
    let s : State := { dev with fw := { dev.fw with lastBeat := 2000000000 } };
    s.pending = [] ∧ s.power.state = .on ∧ s.power.throttled = false ∧ s.power.backstop = false ∧
    (s.fw.alive = false ∨ s.clk < s.fw.lastBeat + us 100) ∧ s.fw.rejoinPending = [] ∧ s.fw.orphans = [] ∧
    ([0, 1, 2, 3].all fun q => s.mer.appointments.all fun a => !s.apptDueIn q a) = true ∧
    (s.mailboxes = [] ∧ s.queues = [] ∧ s.rings = [] ∧ s.tiles = [] ∧ s.quads = [] ∧ s.ports = [] ∧ s.seqs = [] ∧
     s.qps = [] ∧ s.controllers = [] ∧ s.recover.links = []) ∧ (s.mer.sourceSet = false ∨ s.mer.source = 0) := by
  decide +kernel

theorem wit_EmptyQueueLetsTimePass_4_2 :
    let s : State := State.reset;
    s.pending = [] ∧ s.power.state = .on ∧ s.power.throttled = false ∧ s.power.backstop = false ∧
    (s.fw.alive = false ∨ s.clk < s.fw.lastBeat + us 100) ∧ s.fw.rejoinPending = [] ∧ s.fw.orphans = [] ∧
    ([0, 1, 2, 3].all fun q => s.mer.appointments.all fun a => !s.apptDueIn q a) = true ∧
    (s.mailboxes = [] ∧ s.queues = [] ∧ s.rings = [] ∧ s.tiles = [] ∧ s.quads = [] ∧ s.ports = [] ∧ s.seqs = [] ∧
     s.qps = [] ∧ s.controllers = [] ∧ s.recover.links = []) ∧ (s.mer.sourceSet = false ∨ s.mer.source = 0) := by
  decide +kernel

theorem wit_ResetLeavesTheseValues_1 :
    let s : State := State.reset;
    s = State.reset := by decide +kernel

theorem wit_SettingsStayInRange_1_1 :
    let s : State := { dev with pending := [.registerWrite 0 0 0x80120 8 0xFFFF] };
    s.SettingsOk := by decide +kernel

theorem wit_SettingsStayInRange_1_2 :
    let s : State := { dev with pending := [.registerWrite 0 0 0x80004 4 0xFFFF] };
    s.SettingsOk := by decide +kernel

theorem wit_SettingsStayInRange_1_3 :
    let s : State := dev;
    s.SettingsOk := by decide +kernel

theorem wit_MemoryStaysCanonical_1 :
    let s : State := { multiplying gratJob with pending := [.graticuleJobEnd 1 none] };
    s.mem.wf = true := by decide +kernel

theorem wit_OnlyTheirCommandsChangeSettings_1 :
    let c : Instr := .kbxExpiry;
    mayReset c = false := by decide +kernel

theorem wit_MemoryReadsBackWhatWasWritten_1 :
    let s : State := placedDev;
    s.mem.wf = true := by decide +kernel

theorem wit_MemoryReadsBackWhatWasWritten_2_1 :
    let s : State := placedDev;
    let p : Nat := 3;
    let off : Nat := 0x80000000000;
    let b : List Byte := [1, 0, 7];
    let q : Nat := 3;
    let o : Nat := 0x80000000003;
    let n : Nat := 4;
    s.mem.wf = true ∧ o + n ≤ 2 ^ 44 ∧ off + b.length ≤ 2 ^ 44 ∧ (q ≠ p ∨ o + n ≤ off ∨ off + b.length ≤ o) ∧
    (s.mem.upsets = [] ∨ s.FramesApart) := by decide +kernel

theorem wit_MemoryReadsBackWhatWasWritten_2_2 :
    let s : State := placedDev;
    let p : Nat := 3;
    let off : Nat := 0x80000000000;
    let b : List Byte := [1, 0, 7];
    let q : Nat := 4;
    let o : Nat := 0x80000000000;
    let n : Nat := 4;
    s.mem.wf = true ∧ o + n ≤ 2 ^ 44 ∧ off + b.length ≤ 2 ^ 44 ∧ (q ≠ p ∨ o + n ≤ off ∨ off + b.length ≤ o) ∧
    (s.mem.upsets = [] ∨ s.FramesApart) := by decide +kernel

theorem wit_MemoryReadsBackWhatWasWritten_2_3 :
    let s : State := { placedDev with mem := { placedDev.mem with upsets := [(9, 4)] } };
    let p : Nat := 3;
    let off : Nat := 0x80000000000;
    let b : List Byte := [1, 0, 7];
    let q : Nat := 3;
    let o : Nat := 0x80000000003;
    let n : Nat := 4;
    s.mem.wf = true ∧ o + n ≤ 2 ^ 44 ∧ off + b.length ≤ 2 ^ 44 ∧ (q ≠ p ∨ o + n ≤ off ∨ off + b.length ≤ o) ∧
    (s.mem.upsets = [] ∨ s.FramesApart) := by decide +kernel

theorem wit_MemoryReadsBackWhatWasWritten_3 :
    let s : State := placedDev;
    let off : Nat := 0x80000000000;
    let o : Nat := 0x80000000000;
    let n : Nat := 4096;
    let m : Nat := 8;
    s.mem.wf = true ∧ s.mem.upsets = [] ∧ off + n ≤ 2 ^ 44 ∧ o + m ≤ 2 ^ 44 := by decide +kernel

theorem wit_MailboxCommandsRefused_1_1 :
    let s : State := cmd 0x101 1 [0];
    let fn : Nat := 0;
    let m : Nat := 0;
    let a : Nat := 0;
    let b : Nat := 0;
    let ok : Bool := true;
    let target : Option Nat := some 6;
    let cores : Cores := .agree;
    let e : Instr × Cmd := (.contextCreate 0 0 0 .agree, { opcode := 0x0301 });
    let k := mbxKey fn m;
    let x := s.mbx k;
    let c := e.2;
    let plain := (e.1 ≠ .queueDestroy fn m cores ∨
                    (s.queue? (bits (x.arg 0) 12 0)).all (fun y => y.state != .draining || !y.held.all fun d => d.phase
                                                            == .completed && s.entryFormed (bits (x.arg 0) 12 0)
                                                            d.index) = true) ∧
      (e.1 ≠ .bulkClose fn m ∨ s.committing k = none);
    e ∈ mailCommands fn m a b ok target cores ∧ plain ∧ (s.serving k c.opcode && s.servesNow c.diag) = false := by
  decide +kernel

theorem wit_MailboxCommandsRefused_1_2 :
    let s : State := { cmd 0x306 1 [2] with fw := {} };
    let fn : Nat := 0;
    let m : Nat := 0;
    let a : Nat := 0;
    let b : Nat := 0;
    let ok : Bool := true;
    let target : Option Nat := some 6;
    let cores : Cores := .agree;
    let e : Instr × Cmd := (.queueDestroy 0 0 .agree, { opcode := 0x0306 });
    let k := mbxKey fn m;
    let x := s.mbx k;
    let c := e.2;
    let plain := (e.1 ≠ .queueDestroy fn m cores ∨
                    (s.queue? (bits (x.arg 0) 12 0)).all (fun y => y.state != .draining || !y.held.all fun d => d.phase
                                                            == .completed && s.entryFormed (bits (x.arg 0) 12 0)
                                                            d.index) = true) ∧
      (e.1 ≠ .bulkClose fn m ∨ s.committing k = none);
    e ∈ mailCommands fn m a b ok target cores ∧ plain ∧ (s.serving k c.opcode && s.servesNow c.diag) = false := by
  decide +kernel

theorem wit_MailboxCommandsRefused_2_1 :
    let s : State := withMbx (cmd 0x301 1 [0]) fun x => { x with version := 0 };
    let fn : Nat := 0;
    let m : Nat := 0;
    let a : Nat := 0;
    let b : Nat := 0;
    let ok : Bool := true;
    let target : Option Nat := some 6;
    let cores : Cores := .agree;
    let e : Instr × Cmd := (.contextCreate 0 0 0 .agree, { opcode := 0x0301 });
    let k := mbxKey fn m;
    let x := s.mbx k;
    let c := e.2;
    let plain := (e.1 ≠ .queueDestroy fn m cores ∨
                    (s.queue? (bits (x.arg 0) 12 0)).all (fun y => y.state != .draining || !y.held.all fun d => d.phase
                                                            == .completed && s.entryFormed (bits (x.arg 0) 12 0)
                                                            d.index) = true) ∧
      (e.1 ≠ .bulkClose fn m ∨ s.committing k = none);
    e ∈ mailCommands fn m a b ok target cores ∧ plain ∧ (s.serving k c.opcode && s.servesNow c.diag) = true ∧
    s.commonCheck fn k c ≠ none := by decide +kernel

theorem wit_MailboxCommandsRefused_2_2 :
    let s : State := withMbx (cmd 0x301 1 [0]) fun x => { x with lastSeq := 1 };
    let fn : Nat := 0;
    let m : Nat := 0;
    let a : Nat := 0;
    let b : Nat := 0;
    let ok : Bool := true;
    let target : Option Nat := some 6;
    let cores : Cores := .agree;
    let e : Instr × Cmd := (.contextCreate 0 0 0 .agree, { opcode := 0x0301 });
    let k := mbxKey fn m;
    let x := s.mbx k;
    let c := e.2;
    let plain := (e.1 ≠ .queueDestroy fn m cores ∨
                    (s.queue? (bits (x.arg 0) 12 0)).all (fun y => y.state != .draining || !y.held.all fun d => d.phase
                                                            == .completed && s.entryFormed (bits (x.arg 0) 12 0)
                                                            d.index) = true) ∧
      (e.1 ≠ .bulkClose fn m ∨ s.committing k = none);
    e ∈ mailCommands fn m a b ok target cores ∧ plain ∧ (s.serving k c.opcode && s.servesNow c.diag) = true ∧
    s.commonCheck fn k c ≠ none := by decide +kernel

theorem wit_MailboxCommandsRefused_2_3 :
    let s : State := withMbx (cmd 0x701 0 []) fun x => { x with version := 2 };
    let fn : Nat := 0;
    let m : Nat := 0;
    let a : Nat := 0;
    let b : Nat := 0;
    let ok : Bool := true;
    let target : Option Nat := some 6;
    let cores : Cores := .agree;
    let e : Instr × Cmd := (.partitionRekey 0 0 .agree, { opcode := 0x0701, since := 3, words := some 0 });
    let k := mbxKey fn m;
    let x := s.mbx k;
    let c := e.2;
    let plain := (e.1 ≠ .queueDestroy fn m cores ∨
                    (s.queue? (bits (x.arg 0) 12 0)).all (fun y => y.state != .draining || !y.held.all fun d => d.phase
                                                            == .completed && s.entryFormed (bits (x.arg 0) 12 0)
                                                            d.index) = true) ∧
      (e.1 ≠ .bulkClose fn m ∨ s.committing k = none);
    e ∈ mailCommands fn m a b ok target cores ∧ plain ∧ (s.serving k c.opcode && s.servesNow c.diag) = true ∧
    s.commonCheck fn k c ≠ none := by decide +kernel

theorem wit_MailboxCommandsRefused_2_4 :
    let s : State := cmd 0x304 2 [0, 0];
    let fn : Nat := 0;
    let m : Nat := 0;
    let a : Nat := 7;
    let b : Nat := 0;
    let ok : Bool := true;
    let target : Option Nat := some 6;
    let cores : Cores := .agree;
    let e : Instr × Cmd := (.queueCreate 0 0 7 0 .agree, { opcode := 0x0304, words := some 3 });
    let k := mbxKey fn m;
    let x := s.mbx k;
    let c := e.2;
    let plain := (e.1 ≠ .queueDestroy fn m cores ∨
                    (s.queue? (bits (x.arg 0) 12 0)).all (fun y => y.state != .draining || !y.held.all fun d => d.phase
                                                            == .completed && s.entryFormed (bits (x.arg 0) 12 0)
                                                            d.index) = true) ∧
      (e.1 ≠ .bulkClose fn m ∨ s.committing k = none);
    e ∈ mailCommands fn m a b ok target cores ∧ plain ∧ (s.serving k c.opcode && s.servesNow c.diag) = true ∧
    s.commonCheck fn k c ≠ none := by decide +kernel

theorem wit_MailboxCommandsRefused_2_5 :
    let s : State := cmd 0x102 33 [];
    let fn : Nat := 0;
    let m : Nat := 0;
    let a : Nat := 7;
    let b : Nat := 0;
    let ok : Bool := true;
    let target : Option Nat := some 6;
    let cores : Cores := .agree;
    let e : Instr × Cmd := (.bulkPut 0 0,
                              { opcode := 0x0102, rights := .any, words := none, diag := true, inBulk := true,
                                needsKey := false });
    let k := mbxKey fn m;
    let x := s.mbx k;
    let c := e.2;
    let plain := (e.1 ≠ .queueDestroy fn m cores ∨
                    (s.queue? (bits (x.arg 0) 12 0)).all (fun y => y.state != .draining || !y.held.all fun d => d.phase
                                                            == .completed && s.entryFormed (bits (x.arg 0) 12 0)
                                                            d.index) = true) ∧
      (e.1 ≠ .bulkClose fn m ∨ s.committing k = none);
    e ∈ mailCommands fn m a b ok target cores ∧ plain ∧ (s.serving k c.opcode && s.servesNow c.diag) = true ∧
    s.commonCheck fn k c ≠ none := by decide +kernel

theorem wit_MailboxCommandsRefused_2_6 :
    let s : State := withMbx (cmd 0x301 1 [0]) (fun x => { x with bulk := some {} });
    let fn : Nat := 0;
    let m : Nat := 0;
    let a : Nat := 0;
    let b : Nat := 0;
    let ok : Bool := true;
    let target : Option Nat := some 6;
    let cores : Cores := .agree;
    let e : Instr × Cmd := (.contextCreate 0 0 0 .agree, { opcode := 0x0301 });
    let k := mbxKey fn m;
    let x := s.mbx k;
    let c := e.2;
    let plain := (e.1 ≠ .queueDestroy fn m cores ∨
                    (s.queue? (bits (x.arg 0) 12 0)).all (fun y => y.state != .draining || !y.held.all fun d => d.phase
                                                            == .completed && s.entryFormed (bits (x.arg 0) 12 0)
                                                            d.index) = true) ∧
      (e.1 ≠ .bulkClose fn m ∨ s.committing k = none);
    e ∈ mailCommands fn m a b ok target cores ∧ plain ∧ (s.serving k c.opcode && s.servesNow c.diag) = true ∧
    s.commonCheck fn k c ≠ none := by decide +kernel

theorem wit_MailboxCommandsRefused_2_7 :
    let s : State :=
        { cmd 0x202 1 [0] with funcs := [(1, { present := true })], mailboxes := [(4, mail 0x202 1 [0])] };
    let fn : Nat := 1;
    let m : Nat := 0;
    let a : Nat := 0;
    let b : Nat := 0;
    let ok : Bool := true;
    let target : Option Nat := some 6;
    let cores : Cores := .agree;
    let e : Instr × Cmd := (.quotaSet 1 0 .agree, { opcode := 0x0202, rights := .pf, needsKey := false });
    let k := mbxKey fn m;
    let x := s.mbx k;
    let c := e.2;
    let plain := (e.1 ≠ .queueDestroy fn m cores ∨
                    (s.queue? (bits (x.arg 0) 12 0)).all (fun y => y.state != .draining || !y.held.all fun d => d.phase
                                                            == .completed && s.entryFormed (bits (x.arg 0) 12 0)
                                                            d.index) = true) ∧
      (e.1 ≠ .bulkClose fn m ∨ s.committing k = none);
    e ∈ mailCommands fn m a b ok target cores ∧ plain ∧ (s.serving k c.opcode && s.servesNow c.diag) = true ∧
    s.commonCheck fn k c ≠ none := by decide +kernel

theorem wit_MailboxCommandsRefused_2_8 :
    let s : State := { cmd 0x301 1 [0] with parts := [] };
    let fn : Nat := 0;
    let m : Nat := 0;
    let a : Nat := 0;
    let b : Nat := 0;
    let ok : Bool := true;
    let target : Option Nat := some 6;
    let cores : Cores := .agree;
    let e : Instr × Cmd := (.contextCreate 0 0 0 .agree, { opcode := 0x0301 });
    let k := mbxKey fn m;
    let x := s.mbx k;
    let c := e.2;
    let plain := (e.1 ≠ .queueDestroy fn m cores ∨
                    (s.queue? (bits (x.arg 0) 12 0)).all (fun y => y.state != .draining || !y.held.all fun d => d.phase
                                                            == .completed && s.entryFormed (bits (x.arg 0) 12 0)
                                                            d.index) = true) ∧
      (e.1 ≠ .bulkClose fn m ∨ s.committing k = none);
    e ∈ mailCommands fn m a b ok target cores ∧ plain ∧ (s.serving k c.opcode && s.servesNow c.diag) = true ∧
    s.commonCheck fn k c ≠ none := by decide +kernel

theorem wit_MailboxCommandsRefused_2_9 :
    let s : State := { cmd 0x301 1 [0] with fw := { dev.fw with mode := .recovery } };
    let fn : Nat := 0;
    let m : Nat := 0;
    let a : Nat := 0;
    let b : Nat := 0;
    let ok : Bool := true;
    let target : Option Nat := some 6;
    let cores : Cores := .agree;
    let e : Instr × Cmd := (.contextCreate 0 0 0 .agree, { opcode := 0x0301 });
    let k := mbxKey fn m;
    let x := s.mbx k;
    let c := e.2;
    let plain := (e.1 ≠ .queueDestroy fn m cores ∨
                    (s.queue? (bits (x.arg 0) 12 0)).all (fun y => y.state != .draining || !y.held.all fun d => d.phase
                                                            == .completed && s.entryFormed (bits (x.arg 0) 12 0)
                                                            d.index) = true) ∧
      (e.1 ≠ .bulkClose fn m ∨ s.committing k = none);
    e ∈ mailCommands fn m a b ok target cores ∧ plain ∧ (s.serving k c.opcode && s.servesNow c.diag) = true ∧
    s.commonCheck fn k c ≠ none := by decide +kernel

theorem wit_MailboxCommandsRefused_3_1 :
    let s : State := cmd 0x301 1 [0x1000];
    let fn : Nat := 0;
    let m : Nat := 0;
    let a : Nat := 0;
    let b : Nat := 0;
    let ok : Bool := true;
    let target : Option Nat := none;
    let k := mbxKey fn m;
    let x := s.mbx k;
    let i : Nat := 10;
    let f : Instr × Cmd := (.contextCreate 0 0 0 .agree, { opcode := 0x0301 });
    let g : Instr × Cmd := (.contextCreate 0 0 0 .split, { opcode := 0x0301 });
    let u : State := stateAfter dev (execContextCreate 0 0 0 .agree (cmd 0x301 1 [0x1000]));
    (mailCommands fn m a b ok target .agree)[i]? = some f ∧ (mailCommands fn m a b ok target .split)[i]? = some g ∧
    f.1 ≠ g.1 ∧ s.Takes fn m f.2 ∧
    (f.1 = .queueDestroy fn m .agree →
     (s.queue? (bits (x.arg 0) 12 0)).all (fun y => y.state != .draining || !y.held.all fun d => d.phase == .completed
                                             && s.entryFormed (bits (x.arg 0) 12 0) d.index) = true) ∧
    exec f.1 s = .next u :=
  ⟨by decide +kernel, by decide +kernel, by decide +kernel, by decide +kernel, by decide +kernel, rfl⟩

theorem wit_MailboxCommandsRefused_3_2 :
    let s : State := cmd 0x302 1 [5];
    let fn : Nat := 0;
    let m : Nat := 0;
    let a : Nat := 0;
    let b : Nat := 0;
    let ok : Bool := true;
    let target : Option Nat := none;
    let k := mbxKey fn m;
    let x := s.mbx k;
    let i : Nat := 11;
    let f : Instr × Cmd := (.contextDestroy 0 0 .agree, { opcode := 0x0302 });
    let g : Instr × Cmd := (.contextDestroy 0 0 .split, { opcode := 0x0302 });
    let u : State := stateAfter dev (execContextDestroy 0 0 .agree (cmd 0x302 1 [5]));
    (mailCommands fn m a b ok target .agree)[i]? = some f ∧ (mailCommands fn m a b ok target .split)[i]? = some g ∧
    f.1 ≠ g.1 ∧ s.Takes fn m f.2 ∧
    (f.1 = .queueDestroy fn m .agree →
     (s.queue? (bits (x.arg 0) 12 0)).all (fun y => y.state != .draining || !y.held.all fun d => d.phase == .completed
                                             && s.entryFormed (bits (x.arg 0) 12 0) d.index) = true) ∧
    exec f.1 s = .next u :=
  ⟨by decide +kernel, by decide +kernel, by decide +kernel, by decide +kernel, by decide +kernel, rfl⟩

theorem wit_SequenceRule_1 :
    let s : State := withMbx (cmd 0x301 1 [0]) fun x => { x with lastSeq := 0xFFFF };
    let fn : Nat := 0;
    let m : Nat := 0;
    let k := mbxKey fn m;
    let x := s.mbx k;
    let a : Nat := 0;
    let b : Nat := 0;
    let ok : Bool := true;
    let target : Option Nat := some 6;
    let cores : Cores := .agree;
    let e : Instr × Cmd := (.contextCreate 0 0 0 .agree, { opcode := 0x0301 });
    e ∈ mailCommands fn m a b ok target cores ∧
    (e.1 ≠ .queueDestroy fn m cores ∨
     (s.queue? (bits (x.arg 0) 12 0)).all (fun y => y.state != .draining || !y.held.all fun d => d.phase == .completed
                                             && s.entryFormed (bits (x.arg 0) 12 0) d.index) = true) ∧
    (e.1 ≠ .bulkClose fn m ∨ s.committing k = none) ∧ s.serving k e.2.opcode = true ∧ s.servesNow e.2.diag = true ∧
    x.version ≠ 0 ∧ x.seq ≠ x.lastSeq + 1 := by decide +kernel

theorem wit_SequenceRule_2 :
    let s : State := withMbx (cmd 0x104 1 [1]) fun x =>
        { x with lastSeq := 7, bulk := some { kind := 4, writing := true } };
    let fn : Nat := 0;
    let m : Nat := 0;
    let k := mbxKey fn m;
    let x := s.mbx k;
    let b : Bulk := { kind := 4, writing := true };
    let ports : List Nat := [];
    let sequencer : Nat := 0;
    let ok : Bool := true;
    let cores : Cores := .split;
    let c : Instr := .scheduleAdmission 0 0 [] 0 .split;
    s.serving k 0x104 = true ∧ s.servesNow true = true ∧ x.version ≠ 0 ∧ x.seq ≠ x.lastSeq + 1 ∧
    s.committing k = some b ∧
    ((b.kind = 1 ∧ c = .kernelImageLoad fn m cores) ∨ (b.kind = 2 ∧ c = .firmwareImageWrite fn m ok) ∨
     (b.kind = 3 ∧ c = .chartBlock fn m cores) ∨ (b.kind = 4 ∧ c = .scheduleAdmission fn m ports sequencer cores) ∨
     (b.kind = 7 ∧ c = .gateListStore fn m cores) ∨ (b.kind = 8 ∧ b.objectId = 2 ∧ c = .accept fn m ok)) := by
  decide +kernel

theorem wit_SequenceRule_3 :
    let s : State := withMbx (cmd 0x104 1 [1]) fun x =>
        { x with lastSeq := 7, bulk := some { kind := 8, objectId := 5, writing := true } };
    let fn : Nat := 0;
    let m : Nat := 0;
    let k := mbxKey fn m;
    let x := s.mbx k;
    let b : Bulk := { kind := 8, objectId := 5, writing := true };
    let cores : Cores := .agree;
    let c : Instr := .installRoot 0 0 .agree;
    let n : Nat := 1;
    s.serving k 0x104 = true ∧ s.servesNow true = true ∧ x.version ≠ 0 ∧ x.seq ≠ x.lastSeq + 1 ∧
    s.committing k = some b ∧ b.kind = 8 ∧ b.objectId.toNat % 2 = 1 ∧
    (c, n) ∈ [(Instr.installRoot fn m cores, 1), (.jobKey fn m cores, 2), (.rotate fn m cores, 3),
              (.saInstall fn m cores, 4), (.saRemove fn m cores, 5), (.keyEnd fn m, 6)] ∧ s.keyRow fn n b = true := by
  decide +kernel

theorem wit_SequenceRule_4 :
    let s : State := withMbx (cmd 1 1 [0x0301]) fun x => { x with version := 0, lastSeq := 77 };
    let fn : Nat := 0;
    let m : Nat := 0;
    let k := mbxKey fn m;
    let x := s.mbx k;
    let v : Nat := 3;
    s.serving k 1 = true ∧ s.servesNow true = true ∧ s.openCheck fn x = none ∧
    (s.chooseVersion fn m (x.arg 0 % 256) (bits (x.arg 0) 15 8)).toOption = some v := by decide +kernel

theorem wit_BusyMailboxHoldsItsCommand_1_1 :
    let s : State := cmd 0x101 1 [0];
    let fn : Nat := 0;
    let m : Nat := 0;
    let j : Nat := 31;
    let k := mbxKey fn m;
    let x := s.mbx k;
    s.barOk fn 0 = true ∧ m < mailboxesOf fn ∧ j < 32 ∧ x.busy = true := by decide +kernel

theorem wit_BusyMailboxHoldsItsCommand_1_2 :
    let s : State := { cmd 0x101 1 [0] with
                         funcs := [(0,
                                    { present := true, bound := some 3, izlis := 3,
                                      lowHeld := [(0x10000, 7), (0x10108, 9)] })] };
    let fn : Nat := 0;
    let m : Nat := 0;
    let j : Nat := 1;
    let k := mbxKey fn m;
    let x := s.mbx k;
    s.barOk fn 0 = true ∧ m < mailboxesOf fn ∧ j < 32 ∧ x.busy = true := by decide +kernel

theorem wit_FabricSettings_1 :
    let fn : Nat := 0;
    let m : Nat := 0;
    let s : State := cmd 0x601 1 [7 + 100 * 2 ^ 32];
    let k := mbxKey fn m;
    let x := s.mbx k;
    let cores : Cores := .agree;
    s.Takes fn m { opcode := 0x0601, rights := .pf, needsKey := false } ∧ s.contextsWhere (fun _ => true) = [] ∧
    100 ≤ bits (x.arg 0) 42 32 ∧ bits (x.arg 0) 42 32 ≤ 2000 ∧ cores ≠ .split := by decide +kernel

theorem wit_FabricSettings_2 :
    let fn : Nat := 0;
    let m : Nat := 0;
    let s : State := cmd 0x602 1 [5 + 3 * 32 + 2 * 256];
    let k := mbxKey fn m;
    let x := s.mbx k;
    let cores : Cores := .agree;
    let port := bits (x.arg 0) 4 0;
    let mode := bits (x.arg 0) 7 5;
    let mac := if s.macTaken port 0 then 1 else 0;
    s.Takes fn m { opcode := 0x0602, rights := .pf, needsKey := false } ∧ mode ≤ 3 ∧
    (s.isEth port = true → mode ≠ 3 → s.ethNamed port = false) ∧ (mode = 3 → s.macTaken port mac = false) ∧
    cores ≠ .split := by decide +kernel

theorem wit_FabricSettings_3 :
    let fn : Nat := 0;
    let m : Nat := 0;
    let s : State := withMbx (cmd 0x104 1 [1]) (fun x => { x with bulk := some chartBulk });
    let k := mbxKey fn m;
    let b : Bulk := chartBulk;
    let cores : Cores := .agree;
    let oid := b.objectId.toNat;
    s.Takes fn m closeCmd ∧ s.committing k = some b ∧ b.kind = 3 ∧ s.asOpened fn b = none ∧
    ([0, 1, 2, 3].all fun q => s.bankIdle q (bit oid 0)) = true ∧ cores ≠ .split := by decide +kernel

theorem wit_FabricSettings_4 :
    let fn : Nat := 0;
    let m : Nat := 0;
    let s : State := { cmd 0x603 2 [1, 16000000] with mer := { lock := .degraded } };
    let k := mbxKey fn m;
    let x := s.mbx k;
    let cores : Cores := .agree;
    let bank := bit (x.arg 0) 0;
    s.Takes fn m { opcode := 0x0603, rights := .pf, words := some 2, needsKey := false } ∧
    x.doorbellMt + mtUs 500 ≤ x.arg 1 ∧ x.arg 1 ≤ x.doorbellMt + mtUs 60000000 ∧ s.mer.lock ≠ .unlocked ∧
    s.apptRoom [0, 1, 2, 3] = true ∧ s.chartPending = false ∧ s.retainedAt bank (x.arg 1) = false ∧ cores ≠ .split := by
  decide +kernel

theorem wit_FabricSettings_5 :
    let fn : Nat := 0;
    let m : Nat := 0;
    let s : State := { withMbx (cmd 0x104 1 [1]) (fun x => { x with bulk := some gateBulk }) with
                         ports := [(4, { mode := 3, eth := { rate := 400 } })] };
    let k := mbxKey fn m;
    let b : Bulk := gateBulk;
    let cores : Cores := .agree;
    let port := b.objectId.toNat % 32;
    let g := parseGates b.data;
    s.Takes fn m closeCmd ∧ s.committing k = some b ∧ b.kind = 7 ∧ s.asOpened fn b = none ∧ s.isEth port = true ∧
    (s.port port).eth.swapPending = false ∧ b.data.length = 16 + 8 * field b.data 0 2 ∧
    (gateFaults b.data).all (fun f => !f.2) = true ∧ g.check (s.port port) = none ∧ cores ≠ .split := by
  decide +kernel

theorem wit_FabricSettings_6 :
    let fn : Nat := 0;
    let m : Nat := 0;
    let s : State := { cmd 0x604 2 [4, 16000000] with
                         mer := { lock := .locked },
                         ports := [(4, { mode := 3, eth := { rate := 400, pending := some {} } })] };
    let k := mbxKey fn m;
    let x := s.mbx k;
    let g : GateList := {};
    let cores : Cores := .agree;
    let port := bits (x.arg 0) 4 0;
    s.Takes fn m { opcode := 0x0604, rights := .pf, words := some 2, needsKey := false } ∧ s.isEth port = true ∧
    (s.port port).eth.pending = some g ∧ x.doorbellMt + mtUs 500 ≤ x.arg 1 ∧ x.arg 1 ≤ x.doorbellMt + mtUs 60000000 ∧
    s.mer.lock ≠ .unlocked ∧ s.apptRoom [port / 8] = true ∧ (s.port port).eth.swapPending = false ∧ cores ≠ .split := by
  decide +kernel

theorem wit_FabricSettings_7_1 :
    let fn : Nat := 0;
    let m : Nat := 0;
    let s : State := { cmd 0x605 1 [2 + 4 * 256] with ports := [(4, { mode := 3 })] };
    let k := mbxKey fn m;
    let x := s.mbx k;
    let cores : Cores := .agree;
    let source := bits (x.arg 0) 2 0;
    let port := bits (x.arg 0) 12 8;
    s.Takes fn m { opcode := 0x0605, rights := .pf, needsKey := false } ∧ source ≤ 3 ∧ s.sourceBad source port = false ∧
    s.mer.inForce source port = false ∧ (source ≠ 0 ∨ s.mer.lock ≠ .unlocked) ∧ cores ≠ .split := by decide +kernel

theorem wit_FabricSettings_7_2 :
    let fn : Nat := 0;
    let m : Nat := 0;
    let s : State := { cmd 0x605 1 [0] with mer := { lock := .locked, sourceSet := true, source := 1 } };
    let k := mbxKey fn m;
    let x := s.mbx k;
    let cores : Cores := .agree;
    let source := bits (x.arg 0) 2 0;
    let port := bits (x.arg 0) 12 8;
    s.Takes fn m { opcode := 0x0605, rights := .pf, needsKey := false } ∧ source ≤ 3 ∧ s.sourceBad source port = false ∧
    s.mer.inForce source port = false ∧ (source ≠ 0 ∨ s.mer.lock ≠ .unlocked) ∧ cores ≠ .split := by decide +kernel

theorem wit_FabricSettings_8 :
    let fn : Nat := 0;
    let m : Nat := 0;
    let s : State := { cmd 0x605 1 [1] with mer := { source := 1, sourceSet := true } };
    let k := mbxKey fn m;
    let x := s.mbx k;
    let cores : Cores := .agree;
    let source := bits (x.arg 0) 2 0;
    let port := bits (x.arg 0) 12 8;
    s.Takes fn m { opcode := 0x0605, rights := .pf, needsKey := false } ∧ source ≤ 3 ∧ s.sourceBad source port = false ∧
    s.mer.inForce source port = true ∧ cores ≠ .split := by decide +kernel

theorem wit_FabricSettings_9 :
    let fn : Nat := 0;
    let m : Nat := 0;
    let s : State := cmd 0x605 1 [0];
    let k := mbxKey fn m;
    let x := s.mbx k;
    let cores : Cores := .agree;
    s.Takes fn m { opcode := 0x0605, rights := .pf, needsKey := false } ∧ bits (x.arg 0) 2 0 = 0 ∧
    s.mer.inForce 0 (bits (x.arg 0) 12 8) = false ∧ s.mer.lock = .unlocked ∧ cores ≠ .split := by decide +kernel

theorem wit_PartitionAdministration_1 :
    let fn : Nat := 0;
    let m : Nat := 0;
    let s : State := { cmd 0x201 1 [1 + 5 * 256] with funcs := [(0, { present := true }), (1, { present := true })] };
    let k := mbxKey fn m;
    let x := s.mbx k;
    let cores : Cores := .agree;
    let f := fnPort fn * 256 + x.arg 0 % 256;
    s.Takes fn m { opcode := 0x0201, rights := .pf, needsKey := false } ∧ (s.func f).present = true ∧
    s.bindingHeld f = false ∧ cores ≠ .split := by decide +kernel

theorem wit_PartitionAdministration_2 :
    let fn : Nat := 0;
    let m : Nat := 0;
    let s : State := cmd 0x202 1 [3 + 8 * 256 + 9 * 2 ^ 32];
    let k := mbxKey fn m;
    let x := s.mbx k;
    let cores : Cores := .agree;
    let kind := bits (x.arg 0) 15 8;
    s.Takes fn m { opcode := 0x0202, rights := .pf, needsKey := false } ∧ kind < 9 ∧ cores ≠ .split := by
  decide +kernel

theorem wit_PartitionAdministration_3 :
    let fn : Nat := 0;
    let m : Nat := 0;
    let s : State := cmd 0x203 1 [3 + 6 * 256 + 9 * 2 ^ 16];
    let k := mbxKey fn m;
    let x := s.mbx k;
    let cores : Cores := .agree;
    let tc := bits (x.arg 0) 10 8;
    s.Takes fn m { opcode := 0x0203, rights := .pf, needsKey := false } ∧ tc ≠ 7 ∧ cores ≠ .split := by decide +kernel

theorem wit_PartitionAdministration_4 :
    let fn : Nat := 0;
    let m : Nat := 0;
    let s : State := { cmd 0x204 1 [3] with
                         kernels := [(0, { partition := 3 })], queues := [(1, { partition := 3 })],
                         contexts := [(5, { state := .live, partition := 3 })],
                         placements := [(0, { live := true, partition := 3, size := 4096, legs := [{ pages := 1 }] })] };
    let cores : Cores := .agree;
    s.Takes fn m { opcode := 0x0204, rights := .pf, needsKey := false } ∧ cores ≠ .split := by decide +kernel

theorem wit_ContextsAndSegments_1_1 :
    let s : State := cmd 0x301 1 [0x1000];
    let fn : Nat := 0;
    let m : Nat := 0;
    let pick : Nat := 9;
    let r : Nat := 0;
    let c : Nat := 9;
    let cores : Cores := .agree;
    let k := mbxKey fn m;
    let p := s.boundTo fn;
    let w := (s.mbx k).arg 0;
    s.Takes fn m { opcode := 0x0301 } ∧ s.requesterOn p (b2n (bit w 13)) = some r ∧
    choose (bit w 12) (bits w 11 0) s.ctxFree (s.underQuota p 0 (s.inUse p 0) 1) 0 4096 pick = .index c ∧ cores ≠ .split := by
  decide +kernel

theorem wit_ContextsAndSegments_1_2 :
    let s : State := cmd 0x301 1 [4];
    let fn : Nat := 0;
    let m : Nat := 0;
    let pick : Nat := 9;
    let r : Nat := 0;
    let c : Nat := 4;
    let cores : Cores := .agree;
    let k := mbxKey fn m;
    let p := s.boundTo fn;
    let w := (s.mbx k).arg 0;
    s.Takes fn m { opcode := 0x0301 } ∧ s.requesterOn p (b2n (bit w 13)) = some r ∧
    choose (bit w 12) (bits w 11 0) s.ctxFree (s.underQuota p 0 (s.inUse p 0) 1) 0 4096 pick = .index c ∧ cores ≠ .split := by
  decide +kernel

theorem wit_ContextsAndSegments_2_1 :
    let s : State := { cmd 0x302 1 [5 + 4096] with contexts := [(5, { state := .live, gen := 1, partition := 3 })] };
    let fn : Nat := 0;
    let m : Nat := 0;
    let y : Context := { state := .live, gen := 1, partition := 3 };
    let cores : Cores := .agree;
    let k := mbxKey fn m;
    let p := s.boundTo fn;
    let w := (s.mbx k).arg 0;
    let c := bits w 11 0;
    let g := bits w 19 12;
    s.Takes fn m { opcode := 0x0302 } ∧ s.ctxOf p c = some y ∧
    (y.gen.toNat = g ∨ (y.state = .aborted ∧ y.abortedGen.toNat = g)) ∧
    s.queues.any (fun r => r.2.context == c) = false ∧ cores ≠ .split := by decide +kernel

theorem wit_ContextsAndSegments_2_2 :
    let s : State := { cmd 0x302 1 [5 + 4096] with
                         contexts := [(5, { state := .aborted, gen := 2, abortedGen := 1, partition := 3 })] };
    let fn : Nat := 0;
    let m : Nat := 0;
    let y : Context := { state := .aborted, gen := 2, abortedGen := 1, partition := 3 };
    let cores : Cores := .agree;
    let k := mbxKey fn m;
    let p := s.boundTo fn;
    let w := (s.mbx k).arg 0;
    let c := bits w 11 0;
    let g := bits w 19 12;
    s.Takes fn m { opcode := 0x0302 } ∧ s.ctxOf p c = some y ∧
    (y.gen.toNat = g ∨ (y.state = .aborted ∧ y.abortedGen.toNat = g)) ∧
    s.queues.any (fun r => r.2.context == c) = false ∧ cores ≠ .split := by decide +kernel

theorem wit_ContextsAndSegments_3 :
    let s : State :=
        { dev with contexts := [(5, { state := .quarantined, quarantineEnd := 7 })], mer := { now := 7 } };
    let c : Nat := 5;
    (s.ctx c).state = .quarantined ∧ (s.ctx c).quarantineEnd ≤ s.mt := by decide +kernel

theorem wit_ContextsAndSegments_4 :
    let s : State := { cmd 0x303 4 [5 + 4096 + 2 ^ 20, 4096, 64, 0xD] with
                         contexts := [(5, { state := .live, gen := 1, partition := 3 })] };
    let fn : Nat := 0;
    let m : Nat := 0;
    let cores : Cores := .agree;
    let k := mbxKey fn m;
    let x := s.mbx k;
    let p := s.boundTo fn;
    let c := bits (x.arg 0) 11 0;
    s.Takes fn m { opcode := 0x0303, words := some 4 } ∧ s.ctxLive c (BitVec.ofNat 8 (bits (x.arg 0) 19 12)) = true ∧
    (s.ctx c).partition = p ∧ segmentCheck (x.arg 3 % 4) (x.arg 1) (x.arg 2) = none ∧ cores ≠ .split := by
  decide +kernel

theorem wit_QueuesAndRingsCreated_1 :
    let fn : Nat := 0;
    let m : Nat := 0;
    let s : State := { cmd 0x304 3 [0x2000 + 6 * 2 ^ 14 + 2 ^ 19 + 2 * 2 ^ 32, 4096, 5 + 2 ^ 16 + 2 ^ 32] with
                         contexts := [(5, { state := .live, gen := 1, partition := 3 })],
                         rings := [(2, { partition := 3 })] };
    let k := mbxKey fn m;
    let x := s.mbx k;
    let p := s.boundTo fn;
    let pick : Nat := 8;
    let q : Nat := 8;
    let cores : Cores := .agree;
    let w0 := x.arg 0;
    let w2 := x.arg 2;
    s.Takes fn m { opcode := 0x0304, words := some 3 } ∧ (bits w0 20 19 = 2 → 2 ≤ x.version) ∧
    s.queueArgs p w0 (x.arg 1) w2 = none ∧
    choose (bit w0 13) (bits w0 12 0) (s.queueFree fn) (s.underQuota p 1 (s.inUse p 1) 1) 0 8192 pick = .index q ∧
    cores ≠ .split := by decide +kernel

theorem wit_QueuesAndRingsCreated_2 :
    let fn : Nat := 0;
    let m : Nat := 0;
    let s : State := { cmd 0x305 1 [8 + 2 ^ 16 + 2 ^ 32] with queues := [(8, { partition := 3 })] };
    let k := mbxKey fn m;
    let x := s.mbx k;
    let p := s.boundTo fn;
    let y : Queue := { partition := 3 };
    let cores : Cores := .agree;
    let q := bits (x.arg 0) 12 0;
    s.Takes fn m { opcode := 0x0305 } ∧ s.queueOf p q = some y ∧ bits (x.arg 0) 39 32 ≠ 0 ∧ cores ≠ .split := by
  decide +kernel

theorem wit_QueuesAndRingsCreated_3 :
    let fn : Nat := 0;
    let m : Nat := 0;
    let s : State := { cmd 0x306 1 [8] with queues := [(8, { partition := 3, held := [{}] })] };
    let k := mbxKey fn m;
    let x := s.mbx k;
    let p := s.boundTo fn;
    let y : Queue := { partition := 3, held := [{}] };
    let d : Desc := {};
    let cores : Cores := .agree;
    let q := bits (x.arg 0) 12 0;
    s.Takes fn m { opcode := 0x0306 } ∧ s.queueOf p q = some y ∧ y.state ≠ .draining ∧ d ∈ y.held ∧
    d.phase ≠ .completed ∧ cores ≠ .split := by decide +kernel

theorem wit_QueuesAndRingsCreated_4 :
    let fn : Nat := 0;
    let m : Nat := 0;
    let s : State := { cmd 0x306 1 [8] with queues := [(8, { partition := 3 })] };
    let k := mbxKey fn m;
    let x := s.mbx k;
    let p := s.boundTo fn;
    let y : Queue := { partition := 3 };
    let cores : Cores := .agree;
    let q := bits (x.arg 0) 12 0;
    s.Takes fn m { opcode := 0x0306 } ∧ s.queueOf p q = some y ∧ y.state ≠ .draining ∧ y.held = [] ∧
    (s.servedFw cores).alive = true := by decide +kernel

theorem wit_QueuesAndRingsCreated_5 :
    let fn : Nat := 0;
    let m : Nat := 0;
    let s : State := withMbx { dev with queues := [(8, { partition := 3, held := [{}] })] }
        (fun x => { x with busy := true, wait := some (.queueDrain 8 7) });
    let k := mbxKey fn m;
    let x := s.mbx k;
    let q : Nat := 8;
    let due : Nat := 7;
    let y : Queue := { partition := 3, held := [{}] };
    x.wait = some (.queueDrain q due) ∧ due ≤ s.clk ∧ s.queue? q = some y ∧ s.fw.alive = true := by decide +kernel

theorem wit_QueuesAndRingsCreated_6 :
    let fn : Nat := 0;
    let m : Nat := 0;
    let s : State := cmd 0x307 3 [4 + 6 * 2 ^ 14, 8192, 7 + 2 ^ 11];
    let k := mbxKey fn m;
    let x := s.mbx k;
    let p := s.boundTo fn;
    let pick : Nat := 8;
    let r : Nat := 4;
    let cores : Cores := .agree;
    let w0 := x.arg 0;
    let w2 := x.arg 2;
    s.Takes fn m { opcode := 0x0307, words := some 3 } ∧ ringArgs fn w0 (x.arg 1) w2 = none ∧
    choose (bit w0 13) (bits w0 12 0) (s.ringFree fn) (s.underQuota p 2 (s.inUse p 2) 1) 0 8192 pick = .index r ∧
    cores ≠ .split := by decide +kernel

theorem wit_QueuesAndRingsCreated_7 :
    let fn : Nat := 0;
    let m : Nat := 0;
    let s : State := { cmd 0x308 1 [4] with rings := [(4, { partition := 3 })] };
    let k := mbxKey fn m;
    let x := s.mbx k;
    let p := s.boundTo fn;
    let y : Ring := { partition := 3 };
    let cores : Cores := .agree;
    let r := bits (x.arg 0) 12 0;
    s.Takes fn m { opcode := 0x0308 } ∧ s.ringOf p r = some y ∧ s.queues.any (fun q => q.2.ring == r) = false ∧
    cores ≠ .split := by decide +kernel

theorem wit_OpenOpensMailbox_1_1 :
    let fn : Nat := 0;
    let m : Nat := 0;
    let v : Nat := 3;
    let s : State := withMbx (cmd 1 1 [0x0301]) fun x => { x with version := 0 };
    let k := mbxKey fn m;
    let x := s.mbx k;
    s.serving k 0x0001 = true ∧ s.servesNow true = true ∧ x.argWords = 1 ∧ (s.diagOnly = false ∨ fn = 0) ∧
    x.arg 0 % 256 ≤ v ∧ v ≤ bits (x.arg 0) 15 8 ∧ 1 ≤ v ∧
    (if s.othersOpen fn m = true then v = (s.func fn).izlis ∧ v ≤ 3 else v = min 3 (bits (x.arg 0) 15 8)) := by
  decide +kernel

theorem wit_OpenOpensMailbox_1_2 :
    let fn : Nat := 0;
    let m : Nat := 0;
    let v : Nat := 2;
    let s : State := newImage { cmd 1 1 [0x0201] with
                                  mailboxes := [(0, mail 1 1 [0x0201]), (1, { version := 2 })],
                                  funcs := [(0, { present := true, izlis := 2 })] };
    let k := mbxKey fn m;
    let x := s.mbx k;
    s.serving k 0x0001 = true ∧ s.servesNow true = true ∧ x.argWords = 1 ∧ (s.diagOnly = false ∨ fn = 0) ∧
    x.arg 0 % 256 ≤ v ∧ v ≤ bits (x.arg 0) 15 8 ∧ 1 ≤ v ∧
    (if s.othersOpen fn m = true then v = (s.func fn).izlis ∧ v ≤ 3 else v = min 3 (bits (x.arg 0) 15 8)) := by
  decide +kernel

theorem wit_SessionsEnd_1 :
    let fn : Nat := 0;
    let m : Nat := 0;
    let s : State := cmd 2 0 [];
    s.Takes fn m { opcode := 0x0002, rights := .any, words := some 0, diag := true, inBulk := true, needsKey := false } := by
  decide +kernel

theorem wit_SessionsEnd_2 :
    let fn : Nat := 0;
    let m : Nat := 0;
    let s : State := cmd 3 1 [8];
    let k := mbxKey fn m;
    let x := s.mbx k;
    let p : Nat := 3;
    s.Takes fn m { opcode := 0x0003, rights := .any, needsKey := false } ∧ (s.func fn).bound = some p ∧
    x.arg 0 % 256 < 9 := by decide +kernel

theorem wit_SessionsEnd_3 :
    let fn : Nat := 0;
    let m : Nat := 0;
    let s : State := withMbx dev (fun x => { x with bulk := some {} });
    let k := mbxKey fn m;
    let x := s.mbx k;
    let b : Bulk := {};
    x.bulk = some b ∧ b.lastClk + us 1000000 ≤ s.clk := by decide +kernel

theorem wit_BulkTransfersMove_1 :
    let fn : Nat := 0;
    let m : Nat := 0;
    let s : State := cmd 0x101 2 [1 + 256 * 2 ^ 32, 0];
    let k := mbxKey fn m;
    let x := s.mbx k;
    let b : BulkKind := { since := 2 };
    let kind := x.arg 0 % 256;
    let len := x.arg 0 / 2 ^ 32;
    s.Takes fn m { opcode := 0x0101, rights := .any, words := some 2, diag := true, needsKey := false } ∧
    x.bulkLapsed = false ∧ bulkKind kind (x.arg 1) = some b ∧ b.writing = true ∧ s.bulkCheck fn x b = none ∧
    s.bulkWriteCheck (s.boundTo fn) kind len (x.arg 1) = none := by decide +kernel

theorem wit_BulkTransfersMove_2 :
    let fn : Nat := 0;
    let m : Nat := 0;
    let s : State := cmd 0x101 2 [6, 0];
    let k := mbxKey fn m;
    let x := s.mbx k;
    let b : BulkKind := { rights := .any, writing := false };
    let l : List Byte := (cmd 0x101 2 [6, 0]).snapshotObject 0;
    let kind := x.arg 0 % 256;
    s.Takes fn m { opcode := 0x0101, rights := .any, words := some 2, diag := true, needsKey := false } ∧
    x.bulkLapsed = false ∧ bulkKind kind (x.arg 1) = some b ∧ b.writing = false ∧ s.bulkCheck fn x b = none ∧
    (s.bulkReadObject fn (s.boundTo fn) kind (x.arg 1)).toOption = some (l, s) :=
  ⟨by decide +kernel, by decide +kernel, by decide +kernel, by decide +kernel, by decide +kernel, rfl⟩

theorem wit_BulkTransfersMove_3 :
    let fn : Nat := 0;
    let m : Nat := 0;
    let s : State := cmd 0x101 2 [9, 1];
    let k := mbxKey fn m;
    let x := s.mbx k;
    s.Takes fn m { opcode := 0x0101, rights := .any, words := some 2, diag := true, needsKey := false } ∧
    x.bulkLapsed = false ∧ x.arg 0 % 256 = 9 ∧ x.arg 1 = 1 ∧ s.bulkCheck fn x { writing := false, empty := true } = none := by
  decide +kernel

theorem wit_BulkTransfersMove_4 :
    let fn : Nat := 0;
    let m : Nat := 0;
    let s : State := withMbx (cmd 0x102 1 [7])
        (fun x => { x with bulk := some { kind := 3, length := 8, writing := true } });
    let k := mbxKey fn m;
    let x := s.mbx k;
    let b : Bulk := { kind := 3, length := 8, writing := true };
    s.Takes fn m { opcode := 0x0102, rights := .any, words := none, diag := true, inBulk := true, needsKey := false } ∧
    x.bulkLapsed = false ∧ x.bulk = some b ∧ b.writing = true ∧ s.asOpened fn b = none ∧ x.chunk = b.nextChunk ∧
    b.nextChunk < b.chunks ∧ x.argWords = b.wordsIn b.nextChunk := by decide +kernel

theorem wit_BulkTransfersMove_5 :
    let fn : Nat := 0;
    let m : Nat := 0;
    let s : State := withMbx (cmd 0x103 0 [])
        (fun x => { x with bulk := some { kind := 6, length := 8, data := [1, 2, 3, 4, 5, 6, 7, 8] } });
    let k := mbxKey fn m;
    let x := s.mbx k;
    let b : Bulk := { kind := 6, length := 8, data := [1, 2, 3, 4, 5, 6, 7, 8] };
    s.Takes fn m { opcode := 0x0103, rights := .any, words := some 0, diag := true, inBulk := true, needsKey := false }
      ∧ x.bulkLapsed = false ∧ x.bulk = some b ∧ b.writing = false ∧ s.asOpened fn b = none ∧ x.chunk < b.chunks := by
  decide +kernel

theorem wit_BulkTransfersMove_6_1 :
    let fn : Nat := 0;
    let m : Nat := 0;
    let s : State := withMbx (cmd 0x104 1 [0])
        (fun x => { x with bulk := some { kind := 3, length := 8, writing := true } });
    let k := mbxKey fn m;
    let x := s.mbx k;
    let b : Bulk := { kind := 3, length := 8, writing := true };
    s.Takes fn m closeCmd ∧ x.bulkLapsed = false ∧ x.bulk = some b ∧ s.asOpened fn b = none ∧
    (if b.writing then bit (x.arg 0) 0 = false else (b.kind ≠ 9 ∨ s.nextStepOf (s.boundTo fn) ≠ some b.objectId.toNat)) := by
  decide +kernel

theorem wit_BulkTransfersMove_6_2 :
    let fn : Nat := 0;
    let m : Nat := 0;
    let s : State := withMbx (cmd 0x104 1 [1]) (fun x => { x with bulk := some { kind := 6, length := 8 } });
    let k := mbxKey fn m;
    let x := s.mbx k;
    let b : Bulk := { kind := 6, length := 8 };
    s.Takes fn m closeCmd ∧ x.bulkLapsed = false ∧ x.bulk = some b ∧ s.asOpened fn b = none ∧
    (if b.writing then bit (x.arg 0) 0 = false else (b.kind ≠ 9 ∨ s.nextStepOf (s.boundTo fn) ≠ some b.objectId.toNat)) := by
  decide +kernel

theorem wit_BulkTransfersMove_7 :
    let fn : Nat := 0;
    let m : Nat := 0;
    let s : State := withMbx { cmd 0x104 1 [0] with parts := [(3, { keyed := true, session := some {} })] }
        (fun x => { x with bulk := some { kind := 9, objectId := 2, bound := some 3 } });
    let k := mbxKey fn m;
    let x := s.mbx k;
    let b : Bulk := { kind := 9, objectId := 2, bound := some 3 };
    let y : KeySession := {};
    let p := s.boundTo fn;
    s.Takes fn m closeCmd ∧ x.bulkLapsed = false ∧ x.bulk = some b ∧ b.writing = false ∧ b.kind = 9 ∧
    s.asOpened fn b = none ∧ (s.part p).session = some y ∧ y.next = b.objectId.toNat := by decide +kernel

theorem wit_MeridianTimeKept_1 :
    let s : State := { dev with mer := { sourceSet := true, qualifies := true, source := 3 } };
    let m := s.mer;
    m.sourceSet = true ∧ m.qualifies = true ∧ m.source ≠ 0 ∧ (m.source = 1 ∨ s.sourceGood = false) := by
  decide +kernel

theorem wit_MeridianTimeKept_2_1 :
    let s : State := { dev with mer := { sourceSet := true } };
    let m := s.mer;
    m.sourceSet = true ∧ m.qualifies = false ∧ s.sourceGood = true := by decide +kernel

theorem wit_MeridianTimeKept_2_2 :
    let s : State := { dev with mer := { sourceSet := true, source := 2, lastSync := some 2000000000 } };
    let m := s.mer;
    m.sourceSet = true ∧ m.qualifies = false ∧ s.sourceGood = true := by decide +kernel

theorem wit_MeridianTimeKept_4_1 :
    let s : State := { dev with mer := { sourceSet := true, source := 1, lastPulse := some 5, now := 16000000007 } };
    let m := s.mer;
    m.sourceSet = true ∧ m.source = 1 := by decide +kernel

theorem wit_MeridianTimeKept_4_2 :
    let s : State := { dev with mer := { sourceSet := true, source := 1, lastPulse := some 5, qualifies := true } };
    let m := s.mer;
    m.sourceSet = true ∧ m.source = 1 := by decide +kernel

theorem wit_MeridianTimeKept_5 :
    let s : State := { roce with
                         mer := { sourceSet := true, source := 2, port := 4, epochTai := 5,
                                  ptp := { masters := [{ clock := 7, heard := 5 }], delay := some 50 } } };
    let m := s.mer;
    let port : Nat := 4;
    s.isEth port = true ∧ m.sourceSet = true ∧ m.source = 2 ∧ m.port = port := by decide +kernel

theorem wit_MeridianTimeKept_6 :
    let s : State := { dev with ports := [(0, { mode := 1, state := .active })] };
    let port : Nat := 0;
    s.fabricActive port = true ∧ (s.port port).lastTimeReq.all (fun r => decide (r.1 + us 1000 ≤ s.clk)) = true := by
  decide +kernel

theorem wit_MeridianTimeKept_7_1 :
    let s : State := { dev with ports := [(0, { mode := 1, state := .active })], mer := { lock := .locked } };
    let port : Nat := 0;
    s.fabricActive port = true := by decide +kernel

theorem wit_MeridianTimeKept_7_2 :
    let s : State := { dev with ports := [(0, { mode := 1, state := .active })] };
    let port : Nat := 0;
    s.fabricActive port = true := by decide +kernel

theorem wit_MeridianTimeKept_8_1 :
    let s : State := { dev with
                         ports := [(0, { mode := 1, state := .active, lastTimeReq := some (5, 100) })],
                         mer := { sourceSet := true, source := 3, now := 120, lock := .locked } };
    let port : Nat := 0;
    let c : Nat := 5;
    let sent : W64 := 100;
    s.fabricActive port = true ∧ (s.port port).lastTimeReq = some (c, sent) := by decide +kernel

theorem wit_MeridianTimeKept_8_2 :
    let s : State :=
        { dev with
          ports := [(0, { mode := 1, state := .active, lastTimeReq := some (5, 100) })], mer := { now := 120 } };
    let port : Nat := 0;
    let c : Nat := 5;
    let sent : W64 := 100;
    s.fabricActive port = true ∧ (s.port port).lastTimeReq = some (c, sent) := by decide +kernel

theorem wit_MeridianTimeKept_9_1 :
    let s : State := { dev with mer := { sourceSet := true, qualifies := true } };
    let m := s.mer;
    m.lastEval + us 1 ≤ s.clk := by decide +kernel

theorem wit_MeridianTimeKept_9_2 :
    let s : State :=
        { dev with mer := { sourceSet := true, qualifies := true, lock := .degraded, lowSince := some 5 } };
    let m := s.mer;
    m.lastEval + us 1 ≤ s.clk := by decide +kernel

theorem wit_MeridianTimeKept_9_3 :
    let s : State := { dev with mer := { lock := .locked } };
    let m := s.mer;
    m.lastEval + us 1 ≤ s.clk := by decide +kernel

theorem wit_MeridianTimeKept_10 :
    let s : State := { dev with fw := { dev.fw with serving := false } };
    let m := s.mer;
    s.fw.awaitingBoot = false ∧ s.fw.alive = true ∧ s.fw.serving = false ∧ m.lock = .unlocked ∧
    s.fw.bootClk + us 1000000 ≤ s.clk := by decide +kernel

theorem wit_MeridianTimeKept_11 :
    let s : State := { dev with mer := { ppsEnable := true, lock := .degraded, now := 16000000003 } };
    let m := s.mer;
    m.ppsEnable = true ∧ m.lock ≠ .unlocked ∧ s.mt % 16000000000 ≤ 10 ∧ m.ppsOut = false := by decide +kernel

theorem wit_MeridianTimeKept_12 :
    let s : State := { dev with mer := { ppsOut := true } };
    let m := s.mer;
    m.ppsOut = true ∧ m.ppsOutRise + us 10000 ≤ s.clk := by decide +kernel

theorem wit_AppointmentsFire_1 :
    let s : State := { dev with
                         charts := [(0, { pendingBank := true, swapPending := true })],
                         mer := { now := 100, appointments := [{ kind := .chartSwap true, time := 90 }] } };
    let bank : Bool := true;
    let a : Appointment := { kind := .chartSwap true, time := 90 };
    let kind := ApptKind.chartSwap bank;
    s.mer.appointments.filter (fun b => b.kind == kind) = [a] ∧ s.appt? (.chartSwap (!bank)) = none ∧ a.period = 0 := by
  decide +kernel

theorem wit_AppointmentsFire_3_1 :
    let s : State := { dev with
                         mer := { now := 100, appointments := [{ kind := .keyRotation 3 none, time := 90 }] },
                         parts := [(3, { keyed := true, fabric := { current := 1, pending := some (2, 90) } })] };
    let p : Nat := 3;
    let job : Option Nat := none;
    let g : Nat := 2;
    let at0 : Nat := 90;
    let a : Appointment := { kind := .keyRotation 3 none, time := 90 };
    let kind := ApptKind.keyRotation p job;
    let key := fun (t : State) => if job = none then (t.part p).fabric else
        ((t.job? p (job.getD 0)).bind fun x => x.key).getD {};
    s.mer.appointments.filter (fun b => b.kind == kind) = [a] ∧ a.period = 0 ∧ a.left ≠ [] ∧
    a.left.all (fun q => decide (q < 4)) = true ∧ (key s).pending = some (g, at0) ∧
    (job = none ∨ ((s.job? p (job.getD 0)).bind fun x => x.key).isSome) := by decide +kernel

theorem wit_AppointmentsFire_3_2 :
    let s : State := { dev with
                         mer := { now := 100, skews := [10, 20, 0, 15, 16, 10, 10, 10, 10, 10, 10, 10, 10],
                                  appointments := [{ kind := .keyRotation 3 (some 9), time := 95 }] },
                         parts := [(3,
                                    { keyed := true,
                                      jobs := [(9, { key := some { current := 1, pending := some (2, 90) } })] })] };
    let p : Nat := 3;
    let job : Option Nat := some 9;
    let g : Nat := 2;
    let at0 : Nat := 90;
    let a : Appointment := { kind := .keyRotation 3 (some 9), time := 95 };
    let kind := ApptKind.keyRotation p job;
    let key := fun (t : State) => if job = none then (t.part p).fabric else
        ((t.job? p (job.getD 0)).bind fun x => x.key).getD {};
    s.mer.appointments.filter (fun b => b.kind == kind) = [a] ∧ a.period = 0 ∧ a.left ≠ [] ∧
    a.left.all (fun q => decide (q < 4)) = true ∧ (key s).pending = some (g, at0) ∧
    (job = none ∨ ((s.job? p (job.getD 0)).bind fun x => x.key).isSome) := by decide +kernel

theorem wit_AppointmentsFire_4 :
    let s : State := { dev with mer := { now := 100 }, parts := [(3, { fabric := { retained := some (1, 90) } })] };
    let p : Nat := 3;
    let g : Nat := 1;
    let stop : Nat := 90;
    let k := (s.part p).fabric;
    k.retained = some (g, stop) ∧ stop ≤ s.mt := by decide +kernel

theorem wit_AppointmentsFire_5 :
    let s : State := { dev with
                         mer := { now := 100 },
                         parts := [(3, { jobs := [(9, { key := some { retained := some (1, 90) } })] })] };
    let p : Nat := 3;
    let j : Nat := 9;
    let x : Job := { key := some { retained := some (1, 90) } };
    let k : KeyGens := { retained := some (1, 90) };
    let g : Nat := 1;
    let stop : Nat := 90;
    s.job? p j = some x ∧ x.key = some k ∧ k.retained = some (g, stop) ∧ stop ≤ s.mt := by decide +kernel

theorem wit_AppointmentsFire_6_1 :
    let s : State := { dev with mer := { now := 100, appointments := [{ time := 90, period := 16000000 }] } };
    let a : Appointment := { time := 90, period := 16000000 };
    let v := s.survey;
    let next := (v.newEpochUs.map fun n => nextMultiple a.time (mtUs n)).getD (a.time + a.period);
    s.mer.appointments.filter (fun b => b.kind == .surveyEpoch) = [a] ∧ a.period ≠ 0 ∧ a.left ≠ [] ∧
    a.left.all (fun q => decide (q < 4) && s.apptFiresIn .surveyEpoch q) = true ∧
    [0, 1, 2, 3].all (fun q => decide (s.mtQ q < next)) = true := by decide +kernel

theorem wit_AppointmentsFire_6_2 :
    let s : State := { dev with
                         mer := { now := 100, appointments := [{ time := 90, period := 16000000 }] },
                         survey := { newEpochUs := some 500 } };
    let a : Appointment := { time := 90, period := 16000000 };
    let v := s.survey;
    let next := (v.newEpochUs.map fun n => nextMultiple a.time (mtUs n)).getD (a.time + a.period);
    s.mer.appointments.filter (fun b => b.kind == .surveyEpoch) = [a] ∧ a.period ≠ 0 ∧ a.left ≠ [] ∧
    a.left.all (fun q => decide (q < 4) && s.apptFiresIn .surveyEpoch q) = true ∧
    [0, 1, 2, 3].all (fun q => decide (s.mtQ q < next)) = true := by decide +kernel

theorem wit_AppointmentsFire_7_1 :
    let s : State := { admitting with
                         parts := [(3,
                                    { keyed := true, jobs := [(9, { members := 2, key := some {} })],
                                      schedules := [schedC] })],
                         mer := { now := 100, lock := .locked,
                                  appointments := [{ kind := .collective 3 1, time := 90, quadrants := [0] }] } };
    let p : Nat := 3;
    let q : Nat := 0;
    let id : W32 := 1;
    let a : Appointment := { kind := .collective 3 1, time := 90, quadrants := [0] };
    let c : Schedule := schedC;
    let x : Job := { members := 2, key := some {} };
    let kind := ApptKind.collective p id;
    s.mer.appointments.filter (fun b => b.kind == kind) = [a] ∧ a.quadrants = [q] ∧ a.acted = [] ∧ q < 4 ∧
    s.apptFiresIn kind q = true ∧ s.schedule? p id = some c ∧ c.released = false ∧
    tblGet (s.part p).jobs c.header.job = some x ∧ x.aborted = false := by decide +kernel

theorem wit_AppointmentsFire_7_2 :
    let s : State := { admitting with
                         parts := [(3,
                                    { keyed := true, jobs := [(9, { members := 2, key := some {} })],
                                      schedules := [{ schedC with running := some {} }] })],
                         mer := { now := 100, lock := .locked,
                                  appointments := [{ kind := .collective 3 1, time := 90, quadrants := [0] }] } };
    let p : Nat := 3;
    let q : Nat := 0;
    let id : W32 := 1;
    let a : Appointment := { kind := .collective 3 1, time := 90, quadrants := [0] };
    let c : Schedule := { schedC with running := some {} };
    let x : Job := { members := 2, key := some {} };
    let kind := ApptKind.collective p id;
    s.mer.appointments.filter (fun b => b.kind == kind) = [a] ∧ a.quadrants = [q] ∧ a.acted = [] ∧ q < 4 ∧
    s.apptFiresIn kind q = true ∧ s.schedule? p id = some c ∧ c.released = false ∧
    tblGet (s.part p).jobs c.header.job = some x ∧ x.aborted = false := by decide +kernel

theorem wit_AppointmentsFire_8 :
    let s : State := { dev with
                         mer := { now := 100, lock := .locked,
                                  appointments := [{ kind := .heartbeat 3 9, time := 90, quadrants := [0] }] },
                         parts := [(3,
                                    { keyed := true,
                                      jobs := [(9,
                                                { heartbeat := true, watched := [(1, 0)], endpoints := [(0, 0), (1, 0)],
                                                  key := some {} })] })] };
    let p : Nat := 3;
    let j : Nat := 9;
    let q : Nat := 0;
    let x : Job := { heartbeat := true, watched := [(1, 0)], endpoints := [(0, 0), (1, 0)], key := some {} };
    let a : Appointment := { kind := .heartbeat 3 9, time := 90, quadrants := [0] };
    let kind := ApptKind.heartbeat p j;
    s.job? p j = some x ∧ s.mer.appointments.filter (fun b => b.kind == kind) = [a] ∧ a.quadrants = [q] ∧ a.acted = [] ∧
    q < 4 ∧ s.apptFiresIn kind q = true ∧ x.heartbeat = true := by decide +kernel

theorem wit_RegionsRegisteredAndRevoked_1 :
    let s : State :=
        { cmd 0x401 3 [0xC + 5 * 2 ^ 16, 4096, 64] with
          contexts := [(5, { state := .live, gen := 1, partition := 3 })] };
    let fn : Nat := 0;
    let m : Nat := 0;
    let pick : Nat := 7;
    let i : Nat := 7;
    let cores : Cores := .agree;
    let k := mbxKey fn m;
    let x := s.mbx k;
    let p := s.boundTo fn;
    s.Takes fn m { opcode := 0x0401, words := some 3 } ∧ s.regionArgs p (x.arg 0) (x.arg 1) (x.arg 2) = none ∧
    choose true 0 s.regionFree (s.underQuota p 3 (s.inUse p 3) 1) 1 65535 pick = .index i ∧ cores ≠ .split := by
  decide +kernel

theorem wit_RegionsRegisteredAndRevoked_2_1 :
    let s : State := { cmd 0x402 1 [7 * 65536 + 256 + 9] with
                         regions := [(7, { valid := true, partition := 3, gen := 1, check := 9 })] };
    let fn : Nat := 0;
    let m : Nat := 0;
    let cores : Cores := .agree;
    let k := mbxKey fn m;
    let key := w32 ((s.mbx k).arg 0);
    let i := keyIndex key;
    s.Takes fn m { opcode := 0x0402 } ∧ (s.region i).valid = true ∧ (s.region i).partition = s.boundTo fn ∧
    regionKey i (s.region i) = key ∧ cores ≠ .split := by decide +kernel

theorem wit_RegionsRegisteredAndRevoked_2_2 :
    let s : State := { cmd 0x402 1 [7 * 65536 + 256 + 9] with
                         regions := [(7, { valid := true, partition := 3, gen := 1, check := 9 })],
                         quads := [(0,
                                    { copies := [{ verified := true,
                                                   pkt :=
                                                     { route := { opcode := 1 }, spec := { regionKey := 0x70109 } } }] })] };
    let fn : Nat := 0;
    let m : Nat := 0;
    let cores : Cores := .agree;
    let k := mbxKey fn m;
    let key := w32 ((s.mbx k).arg 0);
    let i := keyIndex key;
    s.Takes fn m { opcode := 0x0402 } ∧ (s.region i).valid = true ∧ (s.region i).partition = s.boundTo fn ∧
    regionKey i (s.region i) = key ∧ cores ≠ .split := by decide +kernel

theorem wit_RegionsRegisteredAndRevoked_3 :
    let s : State := { dev with mer := { now := 9 }, regions := [(7, { quarantined := true, quarantineEnd := 3 })] };
    let i : Nat := 7;
    (s.region i).quarantined = true ∧ (s.region i).quarantineEnd ≤ s.mt := by decide +kernel

theorem wit_PlacementsAllocatedAndFreed_1 :
    let fn : Nat := 0;
    let m : Nat := 0;
    let s : State := { cmd 0x403 2 [0, 4096] with mem := { cells := [(5, 1)] } };
    let k := mbxKey fn m;
    let x := s.mbx k;
    let p := s.boundTo fn;
    let pick : Nat := 6;
    let pickOffset : Nat := 0x80000000000;
    let i : Nat := 6;
    let off : Nat := 0x80000000000;
    let q : Nat := 0;
    let lpddr : Bool := false;
    let cores : Cores := .agree;
    let w := parseWish (x.arg 0);
    let size := x.arg 1;
    s.Takes fn m { opcode := 0x0403, words := some 2 } ∧ ((w.pinTier || w.pinQuadrant) = true → 2 ≤ x.version) ∧
    w.tier ≠ 3 ∧ size ≠ 0 ∧ size % 4096 = 0 ∧ (s.allocate w p size pick pickOffset).toOption = some (i, off, lpddr, q) ∧
    cores ≠ .split := by decide +kernel

theorem wit_PlacementsAllocatedAndFreed_2 :
    let fn : Nat := 0;
    let m : Nat := 0;
    let s : State := { cmd 0x404 1 [3 * 2 ^ 28 + 2 ^ 20 + 6] with placements := [(6, placed)] };
    let k := mbxKey fn m;
    let x := s.mbx k;
    let p := s.boundTo fn;
    let i : Nat := 6;
    let y : Placement := placed;
    let cores : Cores := .agree;
    s.Takes fn m { opcode := 0x0404 } ∧ s.handle? p (w64 (x.arg 0)) = some (i, y) ∧ s.placeNamed i = false ∧
    cores ≠ .split := by decide +kernel

theorem wit_PlacementsAllocatedAndFreed_3 :
    let fn : Nat := 0;
    let m : Nat := 0;
    let s : State := { cmd 0x405 2 [3 * 2 ^ 28 + 2 ^ 20 + 6, 2] with placements := [(6, placed)] };
    let k := mbxKey fn m;
    let x := s.mbx k;
    let p := s.boundTo fn;
    let i : Nat := 6;
    let y : Placement := placed;
    let cores : Cores := .agree;
    let w := parseWish (x.arg 1);
    s.Takes fn m { opcode := 0x0405, since := 2, words := some 2 } ∧ s.handle? p (w64 (x.arg 0)) = some (i, y) ∧
    w.tier ≠ 3 ∧ s.hintCheck y w = none ∧ cores ≠ .split := by decide +kernel

theorem wit_ScrubRetireAndMigrate_3 :
    let s : State := { dev with mem := { retireDue := [(true, 9)] } };
    let lpddr : Bool := true;
    let region : Nat := 9;
    ((lpddr, region) ∈ s.mem.retireDue ∨ (lpddr, region) ∈ s.mem.retirePending) ∧ s.holders lpddr region = [] ∧
    (lpddr = true → s.mem.lpddrRetired.length < 16384) := by decide +kernel

theorem wit_ScrubRetireAndMigrate_4 :
    let s : State := { dev with
                         mem := { retireDue := [(false, 9)] },
                         placements := [(6, { placed with legs := [{ pages := 1, frames := [9] }] })] };
    let lpddr : Bool := false;
    let region : Nat := 9;
    let i : Nat := 6;
    let leg : Nat := 0;
    (lpddr, region) ∈ s.mem.retireDue ∧ s.holders lpddr region = [(i, leg)] ∧
    (lpddr = true → s.mem.lpddrRetired.length < 16384 ∧ (s.part (s.place i).partition).rekey = none) ∧
    0 < s.freeIn lpddr (regionQuadrant lpddr region) := by decide +kernel

theorem wit_ScrubRetireAndMigrate_5 :
    let s : State := { dev with mem := { mapPending := [(true, 9)] } };
    s.mem.mapPending ≠ [] ∧ s.fw.alive = true := by decide +kernel

theorem wit_ScrubRetireAndMigrate_6 :
    let s : State := { dev with placements := [(6, placed)] };
    let i : Nat := 6;
    let leg : Nat := 0;
    let q : Nat := 2;
    let r : MigrateReason := .locality;
    let lpddr : Bool := false;
    let l : Leg := { pages := 1 };
    let h : Heat := { byQuadrant := [1, 0, 9, 0] };
    (s.place i).legs[leg]? = some l ∧ s.mayMigrate (s.place i) leg l r lpddr q = true ∧ s.reasonHolds i leg r q h = true := by
  decide +kernel

theorem wit_ScrubRetireAndMigrate_7_1 :
    let s : State := { dev with placements := [(6, { placed with legs := [{ pages := 1, migration := some {} }] })] };
    let i : Nat := 6;
    let leg : Nat := 0;
    let g : Migration := {};
    s.migration? i leg = some g ∧ g.ready = false ∧ s.rekeyBars i leg g = false ∧ s.copyMismatch i leg = none := by
  decide +kernel

theorem wit_ScrubRetireAndMigrate_7_2 :
    let s : State := { dev with
                         placements := [(6,
                                         { placed with
                                           legs := [{ pages := 1,
                                                      migration := some
                                                        { passes := 2, dirty := [0, 1, 2, 3, 4, 5, 6, 7, 8] } }] })] };
    let i : Nat := 6;
    let leg : Nat := 0;
    let g : Migration := { passes := 2, dirty := [0, 1, 2, 3, 4, 5, 6, 7, 8] };
    s.migration? i leg = some g ∧ g.ready = false ∧ s.rekeyBars i leg g = false ∧ s.copyMismatch i leg = none := by
  decide +kernel

theorem wit_ScrubRetireAndMigrate_7_3 :
    let s : State := { dev with
                         placements := [(6,
                                         { placed with
                                           legs := [{ pages := 1,
                                                      migration := some
                                                        { passes := 3, dirty := [0, 1, 2, 3, 4, 5, 6, 7, 8] } }] })] };
    let i : Nat := 6;
    let leg : Nat := 0;
    let g : Migration := { passes := 3, dirty := [0, 1, 2, 3, 4, 5, 6, 7, 8] };
    s.migration? i leg = some g ∧ g.ready = false ∧ s.rekeyBars i leg g = false ∧ s.copyMismatch i leg = none := by
  decide +kernel

theorem wit_ScrubRetireAndMigrate_8 :
    let s : State := { dev with
                         placements := [(6,
                                         { placed with
                                           legs :=
                                             [{ pages := 1, migration := some { ready := true, quadrant := 2 } }] })] };
    let i : Nat := 6;
    let leg : Nat := 0;
    let g : Migration := { ready := true, quadrant := 2 };
    s.migration? i leg = some g ∧ g.ready = true ∧ s.rekeyBars i leg g = false := by decide +kernel

theorem wit_ScrubRetireAndMigrate_10_1 :
    let s : State := { dev with
                         placements := [(6,
                                         { placed with
                                           legs :=
                                             [{ pages := 1, abandoned := some { reason := .locality, quadrant := 2 } }] })] };
    let i : Nat := 6;
    let leg : Nat := 0;
    let l : Leg := { pages := 1, abandoned := some { reason := .locality, quadrant := 2 } };
    let g : Migration := { reason := .locality, quadrant := 2 };
    (s.place i).legs[leg]? = some l ∧ l.abandoned = some g := by decide +kernel

theorem wit_ScrubRetireAndMigrate_10_2 :
    let s : State := { dev with
                         mem := { retireDue := [(false, 9)] },
                         placements := [(6,
                                         { placed with
                                           legs := [{ pages := 1, frames := [9],
                                                      abandoned := some { reason := .retirement } }] })] };
    let i : Nat := 6;
    let leg : Nat := 0;
    let l : Leg := { pages := 1, frames := [9], abandoned := some { reason := .retirement } };
    let g : Migration := { reason := .retirement };
    (s.place i).legs[leg]? = some l ∧ l.abandoned = some g := by decide +kernel

theorem wit_TranslationsAnswered_1 :
    let s : State := { dev with tiles := [(4, { addr := 4096, length := 64, total := 64 })] };
    let id : Nat := 4;
    let t : Tile := { addr := 4096, length := 64, total := 64 };
    tblGet s.tiles id = some t ∧ (t.state = .waiting ∨ t.state = .cancelled) ∧ s.tileReady t = true := by
  decide +kernel

theorem wit_TranslationsAnswered_2_1 :
    let s : State := { dev with
                         funcs := [(0, { present := true, atsEnable := true })],
                         hosts := [(0, { linkUp := true, walks := [{ id := 2, pages := [1], tiles := [4] }] })],
                         tiles := [(4, { addr := 4096, length := 64, total := 64 })] };
    let port : Nat := 0;
    let request : Nat := 2;
    let w : Walk := { id := 2, pages := [1], tiles := [4] };
    (s.host port).walks.find? (fun w => w.id == request) = some w := by decide +kernel

theorem wit_TranslationsAnswered_2_2 :
    let s : State := { dev with
                         funcs := [(0, { present := true, atsEnable := true })],
                         hosts := [(0,
                                    { linkUp := true,
                                      walks :=
                                        [{ id := 2, pages := [1], tiles := [4], since := [(0, 2097152, none, true)] }] })] };
    let port : Nat := 0;
    let request : Nat := 2;
    let w : Walk := { id := 2, pages := [1], tiles := [4], since := [(0, 2097152, none, true)] };
    (s.host port).walks.find? (fun w => w.id == request) = some w := by decide +kernel

theorem wit_TranslationsAnswered_3 :
    let s : State := { dev with
                         funcs := [(0, { present := true, atsEnable := true })],
                         hosts := [(0, { linkUp := true, walks := [{ id := 2, pages := [1] }] })] };
    let port : Nat := 0;
    let request : Nat := 2;
    let w : Walk := { id := 2, pages := [1] };
    (s.host port).walks.find? (fun w => w.id == request) = some w ∧ s.translated w.requester = true ∧
    w.staleFor [] = false := by decide +kernel

theorem wit_TranslationsAnswered_4 :
    let s : State := { dev with
                         hosts := [(0,
                                    { linkUp := true, groups := [{ id := 2, pages := [1] }],
                                      faults := [{ page := 1, group := 2 }] })] };
    let port : Nat := 0;
    let group : Nat := 2;
    let g : Group := { id := 2, pages := [1] };
    (s.host port).groups.find? (fun g => g.id == group) = some g ∧ g.timedOut = false := by decide +kernel

theorem wit_TranslationsAnswered_5 :
    let s : State := { dev with hosts := [(0, { linkUp := true, groups := [{ id := 2, timedOut := true }] })] };
    let port : Nat := 0;
    let group : Nat := 2;
    let g : Group := { id := 2, timedOut := true };
    (s.host port).groups.find? (fun g => g.id == group) = some g ∧ g.timedOut = true := by decide +kernel

theorem wit_TranslationsAnswered_6 :
    let s : State := { dev with hosts := [(0, { linkUp := true, groups := [{ id := 2, pages := [1] }] })] };
    let port : Nat := 0;
    let group : Nat := 2;
    let g : Group := { id := 2, pages := [1] };
    (s.host port).groups.find? (fun g => g.id == group) = some g ∧ g.timedOut = false ∧ g.sentClk + us 500000 ≤ s.clk := by
  decide +kernel

theorem wit_TranslationsAnswered_7 :
    let s : State := { dev with
                         hosts := [(0, { linkUp := true, atc := [{ page := 1 }], walks := [{}] })],
                         tiles := [(4, { addr := 4096, length := 64, total := 64, ready := [(1, 1)] })] };
    let fn : Nat := 0;
    (s.func fn).present = true := by decide +kernel

theorem wit_TranslationsAnswered_8 :
    let s : State := dev;
    let fn : Nat := 0;
    (s.func fn).present = true := by decide +kernel

theorem wit_InvalidationsComplete_1_1 :
    let s : State := { dev with hosts := [(0, { linkUp := true, atc := [{ page := 1 }, { page := 9 }] })] };
    let port : Nat := 0;
    let tag : Nat := 3;
    (s.host port).invalidations.length < 32 ∧ (s.host port).invalidations.any (fun v => v.tag == tag) = false := by
  decide +kernel

theorem wit_InvalidationsComplete_1_2 :
    let s : State := { dev with
                         hosts := [(0, { linkUp := true, atc := [{ page := 1 }, { page := 9 }] })],
                         tiles := [(4,
                                    { addr := 4096, length := 64, total := 64, ready := [(1, 1)], state := .started,
                                      issued := 64 })] };
    let port : Nat := 0;
    let tag : Nat := 3;
    (s.host port).invalidations.length < 32 ∧ (s.host port).invalidations.any (fun v => v.tag == tag) = false := by
  decide +kernel

theorem wit_InvalidationsComplete_2_1 :
    let s : State := { dev with hosts := [(0, { linkUp := true, invalidations := [{ tag := 3, pending := [5] }] })] };
    let port : Nat := 0;
    let tag : Nat := 3;
    let engine : Nat := 5;
    let v : Invalidation := { tag := 3, pending := [5] };
    (s.host port).invalidations.find? (fun v => v.tag == tag) = some v ∧
    s.engineHolds port engine v.base v.length v.pasid v.global = false := by decide +kernel

theorem wit_InvalidationsComplete_2_2 :
    let s : State :=
        { dev with hosts := [(0, { linkUp := true, invalidations := [{ tag := 3, pending := [5, 6] }] })] };
    let port : Nat := 0;
    let tag : Nat := 3;
    let engine : Nat := 5;
    let v : Invalidation := { tag := 3, pending := [5, 6] };
    (s.host port).invalidations.find? (fun v => v.tag == tag) = some v ∧
    s.engineHolds port engine v.base v.length v.pasid v.global = false := by decide +kernel

theorem wit_InvalidationsComplete_3 :
    let s : State := { dev with
                         hosts := [(0,
                                    { linkUp := true,
                                      invalidations := [{ tag := 3, base := 4096, length := 4096, pending := [5] }],
                                      reads := [{ purpose := .tile 4 0 64, origin := some (5, 1) }] })],
                         tiles := [(4,
                                    { addr := 4096, length := 64, total := 64, ready := [(1, 1)], state := .started,
                                      issued := 64 })] };
    let port : Nat := 0;
    let tag : Nat := 3;
    let v : Invalidation := { tag := 3, base := 4096, length := 4096, pending := [5] };
    (s.host port).invalidations.find? (fun v => v.tag == tag) = some v ∧ v.arrivedClk + us 950 ≤ s.clk := by
  decide +kernel

theorem wit_SendQueuesTakeWork_1_1 :
    let s : State := { dev with queues := [(2, { producer := 7, consumer := 7 })] };
    let fn : Nat := 0;
    let slot : Nat := 2;
    let qn : Nat := 2;
    let q : Queue := { producer := 7, consumer := 7 };
    s.slotQueue fn slot = some qn ∧ s.queue? qn = some q ∧ q.state ≠ .draining ∧ (s.func fn).quiescing = false ∧
    s.mmioOk fn = true := by decide +kernel

theorem wit_SendQueuesTakeWork_1_2 :
    let s : State := { dev with queues := [(2, { producer := 7, consumer := 7 })] };
    let fn : Nat := 0;
    let slot : Nat := 2;
    let qn : Nat := 2;
    let q : Queue := { producer := 7, consumer := 7 };
    s.slotQueue fn slot = some qn ∧ s.queue? qn = some q ∧ q.state ≠ .draining ∧ (s.func fn).quiescing = false ∧
    s.mmioOk fn = true := by decide +kernel

theorem wit_SendQueuesTakeWork_1_3 :
    let s : State := { dev with queues := [(2, { producer := 7, consumer := 7 })] };
    let fn : Nat := 0;
    let slot : Nat := 2;
    let qn : Nat := 2;
    let q : Queue := { producer := 7, consumer := 7 };
    s.slotQueue fn slot = some qn ∧ s.queue? qn = some q ∧ q.state ≠ .draining ∧ (s.func fn).quiescing = false ∧
    s.mmioOk fn = true := by decide +kernel

theorem wit_SendQueuesTakeWork_1_4 :
    let s : State :=
        { dev with quads := [(0, { clockStopped := true })], queues := [(2, { producer := 7, consumer := 7 })] };
    let fn : Nat := 0;
    let slot : Nat := 2;
    let qn : Nat := 2;
    let q : Queue := { producer := 7, consumer := 7 };
    s.slotQueue fn slot = some qn ∧ s.queue? qn = some q ∧ q.state ≠ .draining ∧ (s.func fn).quiescing = false ∧
    s.mmioOk fn = true := by decide +kernel

theorem wit_SendQueuesTakeWork_2_1 :
    let s : State :=
        { dev with queues := [(2, { producer := 7, consumer := 7, errorStatus := 0x603, state := .error })] };
    let fn : Nat := 0;
    let slot : Nat := 2;
    let qn : Nat := 2;
    let q : Queue := { producer := 7, consumer := 7, errorStatus := 0x603, state := .error };
    s.slotQueue fn slot = some qn ∧ s.queue? qn = some q ∧ s.mmioOk fn = true := by decide +kernel

theorem wit_SendQueuesTakeWork_2_2 :
    let s : State := { dev with queues := [(2, { producer := 7, consumer := 7, weight := 1 })] };
    let fn : Nat := 0;
    let slot : Nat := 2;
    let qn : Nat := 2;
    let q : Queue := { producer := 7, consumer := 7, weight := 1 };
    s.slotQueue fn slot = some qn ∧ s.queue? qn = some q ∧ s.mmioOk fn = true := by decide +kernel

theorem wit_SendQueuesTakeWork_3 :
    let s : State := slotRead;
    let qn : Nat := 2;
    let q : Queue := slotQ;
    let u : State :=
        { slotRead with hosts := [(0, { linkUp := true, ready := true }), (1, { linkUp := true, ready := true })] };
    let b : List Byte := leBytes 32 7;
    let d := parseDesc q.version b;
    s.queue? qn = some q ∧ s.takeSlotRead qn q.consumer = some (u, 1) ∧ w32 (field b 0 4) = q.consumer ∧ q.kept = [] ∧
    q.accepts = true ∧ q.held.length < 64 ∧ q.producer = q.consumer + 1 ∧ extraSlots q.version b = 0 ∧
    (s.segOf q.context d.localAddr).kind ≠ 1 := by decide +kernel

theorem wit_SendQueuesTakeWork_4 :
    let s : State := slotRead;
    let qn : Nat := 2;
    let n : Nat := 1;
    let q : Queue := slotQ;
    let u : State :=
        { slotRead with hosts := [(0, { linkUp := true, ready := true }), (1, { linkUp := true, ready := true })] };
    let l : List (List Byte) := [leBytes 32 6];
    s.queue? qn = some q ∧ s.takeSlotRead qn q.consumer = some (u, n) ∧ 0 < n ∧ q.kept = [] ∧ q.state ≠ .draining ∧
    q.errorStatus = 0 ∧ q.producer ≠ q.consumer ∧
    (∀ r ∈ (l.take n).zipIdx, w32 (field r.1 0 4) ≠ q.consumer + w32 r.2) ∧ s.ring? q.ring = none := by decide +kernel

theorem wit_SendQueuesTakeWork_5 :
    let s : State := { dev with queues := [(2, { slotQ with refetchAt := some 5 })] };
    let qn : Nat := 2;
    let q : Queue := { slotQ with refetchAt := some 5 };
    let c : Nat := 5;
    s.queue? qn = some q ∧ q.refetchAt = some c ∧ c ≤ s.clk ∧ q.accepts = true ∧ s.unitDown (.transport q.home) = false := by
  decide +kernel

theorem wit_SendQueuesTakeWork_6 :
    let s : State :=
        { dev with queues := [(2, { weight := 2, held := [{ index := 5, opcode := 1, length := 4096 }] })] };
    let quadrant : Nat := 0;
    let n : Nat := 2;
    let q : Queue := { weight := 2, held := [{ index := 5, opcode := 1, length := 4096 }] };
    let d : Desc := { index := 5, opcode := 1, length := 4096 };
    let c := creditQueue q;
    (s.quad quadrant).senders.length < 65536 ∧ s.queue? n = some q ∧ q.home = quadrant ∧ c.waits = true ∧
    c.mayStart = true ∧ 0 < c.credit ∧ 0 < c.burst ∧ nextStart c.held = some d := by decide +kernel

theorem wit_CompletionRingsFill_1_1 :
    let s : State := { dev with rings := [(1, { producer := 9, consumer := 7 })] };
    let fn : Nat := 0;
    let slot : Nat := 1;
    let rn : Nat := 1;
    let r : Ring := { producer := 9, consumer := 7 };
    s.slotRing fn slot = some rn ∧ s.ring? rn = some r ∧ s.mmioOk fn = true := by decide +kernel

theorem wit_CompletionRingsFill_1_2 :
    let s : State := { dev with rings := [(1, { producer := 9, consumer := 7 })] };
    let fn : Nat := 0;
    let slot : Nat := 1;
    let rn : Nat := 1;
    let r : Ring := { producer := 9, consumer := 7 };
    s.slotRing fn slot = some rn ∧ s.ring? rn = some r ∧ s.mmioOk fn = true := by decide +kernel

theorem wit_CompletionRingsFill_2 :
    let s : State := { dev with rings := [(1, { producer := 9, consumer := 7, intEnable := true })] };
    let fn : Nat := 0;
    let slot : Nat := 1;
    let rn : Nat := 1;
    let r : Ring := { producer := 9, consumer := 7, intEnable := true };
    s.slotRing fn slot = some rn ∧ s.ring? rn = some r ∧ s.mmioOk fn = true := by decide +kernel

theorem wit_CompletionRingsFill_3 :
    let s : State :=
        { dev with
          rings := [(1, { intEnable := true, armed := true, firstEntry := some 4, holdoff := 3, count := 9 })] };
    let rn : Nat := 1;
    let r : Ring := { intEnable := true, armed := true, firstEntry := some 4, holdoff := 3, count := 9 };
    s.ring? rn = some r := by decide +kernel

theorem wit_CompletionRingsFill_4 :
    let s : State := { dev with
                         queues :=
                           [(2, { ring := 1, held := [{ index := 5, phase := .completed, suppress := true }] })],
                         rings := [(1, {})] };
    let qn : Nat := 2;
    let i : W32 := 5;
    let q : Queue := { ring := 1, held := [{ index := 5, phase := .completed, suppress := true }] };
    let d : Desc := { index := 5, phase := .completed, suppress := true };
    s.queue? qn = some q ∧ s.desc? qn i = some d ∧ d.phase = .completed ∧ s.entryFormed qn i = false ∧
    q.state ≠ .draining ∧ d.suppress = true ∧ d.status = Status.ok := by decide +kernel

theorem wit_CompletionRingsFill_5_1 :
    let s : State :=
        { dev with queues := [(2, { ring := 1, held := [{ index := 5, phase := .completed }] })], rings := [(1, {})] };
    let qn : Nat := 2;
    let i : W32 := 5;
    let q : Queue := { ring := 1, held := [{ index := 5, phase := .completed }] };
    let d : Desc := { index := 5, phase := .completed };
    let r : Ring := {};
    s.queue? qn = some q ∧ s.desc? qn i = some d ∧ d.phase = .completed ∧ s.entryFormed qn i = false ∧
    q.state ≠ .draining ∧ s.ring? q.ring = some r ∧ (¬(d.suppress = true ∧ d.status = Status.ok)) ∧
    s.unitDown (.transport r.home) = false := by decide +kernel

theorem wit_CompletionRingsFill_5_2 :
    let s : State := { dev with
                         queues := [(2, { ring := 1, held := [{ index := 5, phase := .completed }] })],
                         rings := [(1, { producer := 64 })] };
    let qn : Nat := 2;
    let i : W32 := 5;
    let q : Queue := { ring := 1, held := [{ index := 5, phase := .completed }] };
    let d : Desc := { index := 5, phase := .completed };
    let r : Ring := { producer := 64 };
    s.queue? qn = some q ∧ s.desc? qn i = some d ∧ d.phase = .completed ∧ s.entryFormed qn i = false ∧
    q.state ≠ .draining ∧ s.ring? q.ring = some r ∧ (¬(d.suppress = true ∧ d.status = Status.ok)) ∧
    s.unitDown (.transport r.home) = false := by decide +kernel

theorem wit_CompletionRingsFill_5_3 :
    let s : State := { dev with
                         queues := [(2,
                                     { ring := 1,
                                       held :=
                                         [{ index := 5, phase := .completed, lastHostWrite := some (1, 64, false) }] })],
                         rings := [(1, {})] };
    let qn : Nat := 2;
    let i : W32 := 5;
    let q : Queue :=
        { ring := 1, held := [{ index := 5, phase := .completed, lastHostWrite := some (1, 64, false) }] };
    let d : Desc := { index := 5, phase := .completed, lastHostWrite := some (1, 64, false) };
    let r : Ring := {};
    s.queue? qn = some q ∧ s.desc? qn i = some d ∧ d.phase = .completed ∧ s.entryFormed qn i = false ∧
    q.state ≠ .draining ∧ s.ring? q.ring = some r ∧ (¬(d.suppress = true ∧ d.status = Status.ok)) ∧
    s.unitDown (.transport r.home) = false := by decide +kernel

theorem wit_CompletionRingsFill_6 :
    let s : State := { dev with
                         hosts :=
                           [(0, { linkUp := true }), (1, { linkUp := true, reads := [{ purpose := .flush 2 5 }] })],
                         queues := [(2, { ring := 1, held := [{ index := 5, phase := .completed }] })],
                         rings := [(1, { flushing := [{ entry := { queue := 2, descIndex := 5 } }] })] };
    let qn : Nat := 2;
    let rn : Nat := 1;
    let i : W32 := 5;
    let r : Ring := { flushing := [{ entry := { queue := 2, descIndex := 5 } }] };
    let f : Flush := { entry := { queue := 2, descIndex := 5 } };
    let mine := fun (f : Flush) => f.entry.queue == qn && f.entry.descIndex == i;
    s.rings.find? (fun x => x.2.flushing.any mine) = some (rn, r) ∧ r.flushing.find? mine = some f := by
  decide +kernel

theorem wit_DescriptorsStart_1 :
    let s : State := starting 0 0;
    let qn : Nat := 2;
    let i : W32 := 5;
    let x : Queue := startQ 0 0;
    let d : Desc := startD 0 0;
    s.startedDesc qn i 0 = some (x, d) := by decide +kernel

theorem wit_DescriptorsStart_2 :
    let s : State := starting 1 300000;
    let qn : Nat := 2;
    let i : W32 := 5;
    let x : Queue := startQ 1 300000;
    let d : Desc := startD 1 300000;
    let n := (s.quad x.home).nextMsg;
    let old := (s.quad x.home).senders;
    let l := messagesOf opWrite d.length;
    s.startedDesc qn i 1 = some (x, d) ∧ d.index = i ∧ x.bound = .none ∧
    (d.inline = false → d.seg.kind ≠ 1 → inAccelWindow (segTarget d.seg d.localAddr) = true →
     s.accelServes (windowOf (segTarget d.seg d.localAddr)) x.partition = true) ∧ (∀ r ∈ old, r.1 < n) ∧
    old.length + l.length ≤ 65536 := by decide +kernel

theorem wit_DescriptorsStart_3 :
    let s : State := starting 2 70000;
    let qn : Nat := 2;
    let i : W32 := 5;
    let x : Queue := startQ 2 70000;
    let d : Desc := startD 2 70000;
    let n := (s.quad x.home).nextMsg;
    let old := (s.quad x.home).senders;
    let l := messagesOf opReadReq d.length;
    s.startedDesc qn i 2 = some (x, d) ∧ d.index = i ∧ x.bound = .none ∧ (∀ r ∈ old, r.1 < n) ∧
    old.length + l.length ≤ 65536 := by decide +kernel

theorem wit_DescriptorsStart_4_1 :
    let s : State := starting 4 4;
    let qn : Nat := 2;
    let i : W32 := 5;
    let x : Queue := startQ 4 4;
    let d : Desc := startD 4 4;
    let n := (s.quad x.home).nextMsg;
    let old := (s.quad x.home).senders;
    let b : List Byte := List.replicate 16 0;
    s.startedDesc qn i d.opcode = some (x, d) ∧ d.index = i ∧ isAtomic d.opcode = true ∧ x.bound = .none ∧
    (x.version = 1 → (s.localRead (.desc qn i) x.partition d.seg d.localAddr 0 16).toOption = some b) ∧
    (∀ r ∈ old, r.1 < n) ∧ old.length < 65536 := by decide +kernel

theorem wit_DescriptorsStart_4_2 :
    let s : State := starting 3 8;
    let qn : Nat := 2;
    let i : W32 := 5;
    let x : Queue := startQ 3 8;
    let d : Desc := startD 3 8;
    let n := (s.quad x.home).nextMsg;
    let old := (s.quad x.home).senders;
    let b : List Byte := List.replicate 16 0;
    s.startedDesc qn i d.opcode = some (x, d) ∧ d.index = i ∧ isAtomic d.opcode = true ∧ x.bound = .none ∧
    (x.version = 1 → (s.localRead (.desc qn i) x.partition d.seg d.localAddr 0 16).toOption = some b) ∧
    (∀ r ∈ old, r.1 < n) ∧ old.length < 65536 := by decide +kernel

theorem wit_DescriptorsStart_5 :
    let s : State := { starting 1 8 with queues := [(2, { startQ 1 8 with bound := .queuePair 6 })] };
    let qn : Nat := 2;
    let i : W32 := 5;
    let x : Queue := { startQ 1 8 with bound := .queuePair 6 };
    let d : Desc := startD 1 8;
    1 ≤ d.opcode ∧ d.opcode ≤ 2 ∧ s.startedDesc qn i d.opcode = some (x, d) ∧ x.bound ≠ .none := by decide +kernel

theorem wit_DescriptorsStart_6 :
    let s : State := { starting 7 0 with kernels := [(0, { partition := 3 })] };
    let qn : Nat := 2;
    let i : W32 := 5;
    let x : Queue := startQ 7 0;
    let d : Desc := startD 7 0;
    let k : Nat := 4;
    let image : Kernel := { partition := 3 };
    s.startedDesc qn i 7 = some (x, d) ∧ d.phase = .started ∧ tblGet s.kernels d.kernelId = some image ∧
    image.partition = x.partition ∧ seqQuadrant k = x.home ∧ k < 64 ∧ s.seqFree k = true := by decide +kernel

theorem wit_DescriptorsStart_7 :
    let s : State := starting 7 0;
    let qn : Nat := 2;
    let i : W32 := 5;
    let x : Queue := startQ 7 0;
    let d : Desc := startD 7 0;
    s.startedDesc qn i 7 = some (x, d) ∧ d.phase = .started ∧
    (tblGet s.kernels d.kernelId).all (fun y => y.partition != x.partition) = true := by decide +kernel

theorem wit_MessagesAreSent_1_1 :
    let s : State := sending outMsg;
    let q : Nat := 0;
    let m : Nat := 3;
    let x : Sender := outMsg;
    let c : Congest := cong;
    s.sender? q m = some x ∧ (x.state = .ready ∨ x.state = .waitResv) ∧ s.unitDown (.transport q) = false ∧
    s.beginBar q x = .none ∧ s.congest? q x.dst = some c := by decide +kernel

theorem wit_MessagesAreSent_1_2 :
    let s : State := sending { outMsg with opcode := 2, length := 5000 };
    let q : Nat := 0;
    let m : Nat := 3;
    let x : Sender := { outMsg with opcode := 2, length := 5000 };
    let c : Congest := cong;
    s.sender? q m = some x ∧ (x.state = .ready ∨ x.state = .waitResv) ∧ s.unitDown (.transport q) = false ∧
    s.beginBar q x = .none ∧ s.congest? q x.dst = some c := by decide +kernel

theorem wit_MessagesAreSent_1_3 :
    let s : State := (sending { outMsg with opcode := 2, length := 5000 }).modQuad 0 fun d =>
        { d with reserved := 8388608 };
    let q : Nat := 0;
    let m : Nat := 3;
    let x : Sender := { outMsg with opcode := 2, length := 5000 };
    let c : Congest := cong;
    s.sender? q m = some x ∧ (x.state = .ready ∨ x.state = .waitResv) ∧ s.unitDown (.transport q) = false ∧
    s.beginBar q x = .none ∧ s.congest? q x.dst = some c := by decide +kernel

theorem wit_MessagesAreSent_1_4 :
    let s : State := sending { outMsg with opcode := 2, length := 5000, state := .waitResv };
    let q : Nat := 0;
    let m : Nat := 3;
    let x : Sender := { outMsg with opcode := 2, length := 5000, state := .waitResv };
    let c : Congest := cong;
    s.sender? q m = some x ∧ (x.state = .ready ∨ x.state = .waitResv) ∧ s.unitDown (.transport q) = false ∧
    s.beginBar q x = .none ∧ s.congest? q x.dst = some c := by decide +kernel

theorem wit_MessagesAreSent_2_1 :
    let s : State := { sending { outMsg with unreachableSince := some 5 } with ports := [] };
    let q : Nat := 0;
    let m : Nat := 3;
    let x : Sender := { outMsg with unreachableSince := some 5 };
    s.sender? q m = some x ∧ x.state = .ready ∧ s.unitDown (.transport q) = false := by decide +kernel

theorem wit_MessagesAreSent_2_2 :
    let s : State := { sending outMsg with charts := [] };
    let q : Nat := 0;
    let m : Nat := 3;
    let x : Sender := outMsg;
    s.sender? q m = some x ∧ x.state = .ready ∧ s.unitDown (.transport q) = false := by decide +kernel

theorem wit_MessagesAreSent_3_1 :
    let s : State := sending begun;
    let q : Nat := 0;
    let m : Nat := 3;
    let x : Sender := tinted;
    let k : Nat := 0;
    let port : Nat := 5;
    let keys : KeyGens := {};
    let b : List Byte := [1, 2, 3, 4, 5, 6, 7, 8];
    let v := s.tintPort port;
    let d := v.quad q;
    v.sender? q m = some x ∧ v.due q m x = some k ∧ v.egressOk q m x k port = true ∧ v.unitDown (.transport q) = false ∧
    v.engineFree q false = true ∧ v.keysOf x.partition x.job = some keys ∧ (v.payload x k).toOption = some b ∧
    d.txCount < 2 ^ 40 := by decide +kernel

theorem wit_MessagesAreSent_3_2 :
    let s : State := { sending { begun with dst := 0 } with
                         quads := [(0,
                                    { senders := [(3, { begun with dst := 0 })], nextMsg := 4,
                                      congestion := [{ cong with dest := 0 }] })] };
    let q : Nat := 0;
    let m : Nat := 3;
    let x : Sender := { begun with dst := 0 };
    let k : Nat := 0;
    let port : Nat := 5;
    let keys : KeyGens := {};
    let b : List Byte := [1, 2, 3, 4, 5, 6, 7, 8];
    let v := s.tintPort port;
    let d := v.quad q;
    v.sender? q m = some x ∧ v.due q m x = some k ∧ v.egressOk q m x k port = true ∧ v.unitDown (.transport q) = false ∧
    v.engineFree q false = true ∧ v.keysOf x.partition x.job = some keys ∧ (v.payload x k).toOption = some b ∧
    d.txCount < 2 ^ 40 := by decide +kernel

theorem wit_MessagesAreSent_4 :
    let s : State := sending waiting;
    let q : Nat := 0;
    let m : Nat := 3;
    let x : Sender := waiting;
    let port : Nat := 5;
    let v := s.tintPort port;
    v.sender? q m = some x := by decide +kernel

theorem wit_MessagesAreSent_5 :
    let s : State := sending waiting;
    let q : Nat := 0;
    let m : Nat := 3;
    let x : Sender := waiting;
    let t0 : Nat := 1999900000;
    let c : Congest := cong;
    s.sender? q m = some x ∧ x.state = .waitReply ∧ x.timerStart = some t0 ∧ s.inCutoff q x = true ∧
    s.congest? q x.dst = some c := by decide +kernel

theorem wit_MessagesAreSent_6_1 :
    let s : State := sending { waiting with holds := [(0, 5)], state := .backoff, toSend := [0] };
    let q : Nat := 0;
    let m : Nat := 3;
    let x : Sender := { waiting with holds := [(0, 5)], state := .backoff, toSend := [0] };
    let k : Nat := 0;
    let u : Nat := 5;
    s.sender? q m = some x ∧ (k, u) ∈ x.holds ∧ u ≤ s.clk := by decide +kernel

theorem wit_MessagesAreSent_6_2 :
    let s : State := sending { waiting with holds := [(0, 5)], refusedCopies := 1, stepped := true };
    let q : Nat := 0;
    let m : Nat := 3;
    let x : Sender := { waiting with holds := [(0, 5)], refusedCopies := 1, stepped := true };
    let k : Nat := 0;
    let u : Nat := 5;
    s.sender? q m = some x ∧ (k, u) ∈ x.holds ∧ u ≤ s.clk := by decide +kernel

theorem wit_MessagesAreSent_6_3 :
    let s : State := sending { waiting with holds := [(0, 5)], refusedCopies := 1, stepped := true, reissues := 64 };
    let q : Nat := 0;
    let m : Nat := 3;
    let x : Sender := { waiting with holds := [(0, 5)], refusedCopies := 1, stepped := true, reissues := 64 };
    let k : Nat := 0;
    let u : Nat := 5;
    s.sender? q m = some x ∧ (k, u) ∈ x.holds ∧ u ≤ s.clk := by decide +kernel

theorem wit_MessagesAreSent_6_4 :
    let s : State := sending { waiting with holds := [(0, 5)], stepped := true };
    let q : Nat := 0;
    let m : Nat := 3;
    let x : Sender := { waiting with holds := [(0, 5)], stepped := true };
    let k : Nat := 0;
    let u : Nat := 5;
    s.sender? q m = some x ∧ (k, u) ∈ x.holds ∧ u ≤ s.clk := by decide +kernel

theorem wit_MessagesAreSent_7_1 :
    let s : State := sending { waiting with issue := 4280000000 };
    let q : Nat := 0;
    let m : Nat := 3;
    let x : Sender := { waiting with issue := 4280000000 };
    s.sender? q m = some x ∧
    (x.state = .waitReply ∨ x.state = .backoff ∨ x.state = .sending ∧ (x.sent ≠ [] ∨ x.stepped = true)) ∧
    x.noneLanded = false ∧ x.cls ≠ 3 := by decide +kernel

theorem wit_MessagesAreSent_7_2 :
    let s : State := sending waiting;
    let q : Nat := 0;
    let m : Nat := 3;
    let x : Sender := waiting;
    s.sender? q m = some x ∧
    (x.state = .waitReply ∨ x.state = .backoff ∨ x.state = .sending ∧ (x.sent ≠ [] ∨ x.stepped = true)) ∧
    x.noneLanded = false ∧ x.cls ≠ 3 := by decide +kernel

theorem wit_MessagesAreSent_8 :
    let s : State := dev;
    let q : Nat := 1;
    (s.quad q).epochPending = false := by decide +kernel

theorem wit_MessagesAreSent_9 :
    let s : State := { dev with quads := [(1, { epochPending := true })] };
    let q : Nat := 1;
    (s.quad q).epochPending = true := by decide +kernel

theorem wit_PacketsArrive_1_1 :
    let s : State := transit;
    let port : Nat := 4;
    s.inputOpen port = true := by decide +kernel

theorem wit_PacketsArrive_1_2 :
    let s : State := transit;
    let port : Nat := 4;
    s.inputOpen port = true := by decide +kernel

theorem wit_PacketsArrive_2_1 :
    let s : State := { landing {} with mer := {} };
    let q : Nat := 1;
    let port : Nat := 4;
    let pkt : Packet := landPkt;
    headerValid pkt = true ∧ s.ownDst q pkt.route.epoch pkt.route.dst = true ∧ isRequest pkt.route.opcode = true ∧
    pkt.route.landQ = q ∧ s.inputOpen port = true ∧ s.inputCrosses port q pkt = true ∧ s.unitDown (.receive q) = false := by
  decide +kernel

theorem wit_PacketsArrive_2_2 :
    let s : State := landing {};
    let q : Nat := 1;
    let port : Nat := 4;
    let pkt : Packet := { landPkt with issue := 3000000000 };
    headerValid pkt = true ∧ s.ownDst q pkt.route.epoch pkt.route.dst = true ∧ isRequest pkt.route.opcode = true ∧
    pkt.route.landQ = q ∧ s.inputOpen port = true ∧ s.inputCrosses port q pkt = true ∧ s.unitDown (.receive q) = false := by
  decide +kernel

theorem wit_PacketsArrive_2_3 :
    let s : State := { landing {} with mer := { now := 100, lock := .locked, floor := some (200, 3000000000) } };
    let q : Nat := 1;
    let port : Nat := 4;
    let pkt : Packet := landPkt;
    headerValid pkt = true ∧ s.ownDst q pkt.route.epoch pkt.route.dst = true ∧ isRequest pkt.route.opcode = true ∧
    pkt.route.landQ = q ∧ s.inputOpen port = true ∧ s.inputCrosses port q pkt = true ∧ s.unitDown (.receive q) = false := by
  decide +kernel

theorem wit_PacketsArrive_2_4 :
    let s : State := landing {};
    let q : Nat := 1;
    let port : Nat := 4;
    let pkt : Packet := landPkt;
    headerValid pkt = true ∧ s.ownDst q pkt.route.epoch pkt.route.dst = true ∧ isRequest pkt.route.opcode = true ∧
    pkt.route.landQ = q ∧ s.inputOpen port = true ∧ s.inputCrosses port q pkt = true ∧ s.unitDown (.receive q) = false := by
  decide +kernel

theorem wit_PacketsArrive_2_5 :
    let s : State := landing { records := [{ landRec with pending := [], length := 5000 }] };
    let q : Nat := 1;
    let port : Nat := 4;
    let pkt : Packet := landPkt;
    headerValid pkt = true ∧ s.ownDst q pkt.route.epoch pkt.route.dst = true ∧ isRequest pkt.route.opcode = true ∧
    pkt.route.landQ = q ∧ s.inputOpen port = true ∧ s.inputCrosses port q pkt = true ∧ s.unitDown (.receive q) = false := by
  decide +kernel

theorem wit_PacketsArrive_2_6 :
    let s : State := landing { pool0 := 4194304 };
    let q : Nat := 1;
    let port : Nat := 4;
    let pkt : Packet := landPkt;
    headerValid pkt = true ∧ s.ownDst q pkt.route.epoch pkt.route.dst = true ∧ isRequest pkt.route.opcode = true ∧
    pkt.route.landQ = q ∧ s.inputOpen port = true ∧ s.inputCrosses port q pkt = true ∧ s.unitDown (.receive q) = false := by
  decide +kernel

theorem wit_PacketsArrive_3_1 :
    let s : State := landing
        { records := [{ landRec with state := .complete, verified := 1, lastReply := some 1999999999 }] };
    let q : Nat := 1;
    let port : Nat := 4;
    let pkt : Packet := landPkt;
    let known := s.record? q pkt.key;
    let r : Record := { landRec with state := .complete, verified := 1, lastReply := some 1999999999 };
    headerValid pkt = true ∧ s.ownDst q pkt.route.epoch pkt.route.dst = true ∧ isRequest pkt.route.opcode = true ∧
    pkt.route.opcode ≠ 2 ∧ pkt.route.landQ = q ∧ s.inputOpen port = true ∧ s.inputCrosses port q pkt = true ∧
    s.unitDown (.receive q) = false ∧ s.mer.lock ≠ .unlocked ∧ s.beforeFloor pkt.issue = false ∧
    s.freshEnough q pkt.issue = true ∧ known = some r ∧ r.duplicate pkt.pktIndex = true := by decide +kernel

theorem wit_PacketsArrive_3_2 :
    let s : State := landing { records := [{ landRec with state := .complete, verified := 1 }] };
    let q : Nat := 1;
    let port : Nat := 4;
    let pkt : Packet := landPkt;
    let known := s.record? q pkt.key;
    let r : Record := { landRec with state := .complete, verified := 1 };
    headerValid pkt = true ∧ s.ownDst q pkt.route.epoch pkt.route.dst = true ∧ isRequest pkt.route.opcode = true ∧
    pkt.route.opcode ≠ 2 ∧ pkt.route.landQ = q ∧ s.inputOpen port = true ∧ s.inputCrosses port q pkt = true ∧
    s.unitDown (.receive q) = false ∧ s.mer.lock ≠ .unlocked ∧ s.beforeFloor pkt.issue = false ∧
    s.freshEnough q pkt.issue = true ∧ known = some r ∧ r.duplicate pkt.pktIndex = true := by decide +kernel

theorem wit_PacketsArrive_4_1 :
    let s : State := landing { records := [landRec],
                                 copies := [{ landCopy with
                                              pkt := { landPkt with route := { landPkt.route with keyGen := 9 } } }],
                                 pool0 := 128 };
    let q : Nat := 1;
    let c : RxCopy := { landCopy with pkt := { landPkt with route := { landPkt.route with keyGen := 9 } } };
    let trailer : List Byte := [];
    let r : Record := landRec;
    s.copy? q c.id = some c ∧ c.verified = false ∧ s.unitDown (.receive q) = false ∧
    (s.opens c.pkt = false ∨ s.engineFree q true = true ∧ s.tagOk c.pkt trailer = false) ∧
    s.record? q c.pkt.key = some r := by decide +kernel

theorem wit_PacketsArrive_4_2 :
    let s : State := landing { records := [{ landRec with verified := 2 }],
                                 copies := [{ landCopy with
                                              pkt := { landPkt with route := { landPkt.route with keyGen := 9 } } }] };
    let q : Nat := 1;
    let c : RxCopy := { landCopy with pkt := { landPkt with route := { landPkt.route with keyGen := 9 } } };
    let trailer : List Byte := [];
    let r : Record := { landRec with verified := 2 };
    s.copy? q c.id = some c ∧ c.verified = false ∧ s.unitDown (.receive q) = false ∧
    (s.opens c.pkt = false ∨ s.engineFree q true = true ∧ s.tagOk c.pkt trailer = false) ∧
    s.record? q c.pkt.key = some r := by decide +kernel

theorem wit_PacketsArrive_5 :
    let s : State := landing { records := [landRec], copies := [landCopy], pool0 := 128,
                                 opening := [3000000000, 3000000000, 3000000000, 3000000000] };
    let q : Nat := 1;
    let c : RxCopy := landCopy;
    s.copy? q c.id = some c ∧ c.verified = false ∧ s.unitDown (.receive q) = false ∧ s.opens c.pkt = true ∧
    s.engineFree q true = false := by decide +kernel

theorem wit_PacketsArrive_6_1 :
    let s : State := landing { records := [landRec], copies := [landCopy], pool0 := 128 };
    let q : Nat := 1;
    let pkt : Packet := landPkt;
    let known := s.record? q pkt.key;
    let c : RxCopy := landCopy;
    let r : Record := landRec;
    let key : List Byte := workKey [] 3 1 0 0 32;
    let u := s.useEngine q true pkt.size;
    let g := s.region (keyIndex pkt.spec.regionKey);
    let off := (accessOf pkt).1;
    s.copy? q c.id = some c ∧ c.pkt = pkt ∧ c.verified = false ∧ s.unitDown (.receive q) = false ∧
    s.openKey pkt = some key ∧ s.engineFree q true = true ∧ pkt.route.opcode = 1 ∧ pkt.payload.length = pkt.payloadLen ∧
    s.commitCheck pkt = Status.ok ∧ g.kind = 1 ∧ s.biasLines g.partition off pkt.payload.length true = [] ∧
    s.stalled g.partition off pkt.payload.length = false ∧
    (u.toPages q pkt.route.cls g.partition off pkt.payload.length).isSome = true ∧ s.mem.wf = true ∧ s.mem.upsets = [] ∧
    known = some r ∧ r.state ≠ .failed ∧ r.flag = none ∧ pkt.flags.flagFinal = false :=
  ⟨by decide +kernel, by decide +kernel, by decide +kernel, by decide +kernel, rfl, by decide +kernel,
   by decide +kernel, by decide +kernel, by decide +kernel, by decide +kernel, by decide +kernel, by decide +kernel,
   by decide +kernel, by decide +kernel, by decide +kernel, by decide +kernel, by decide +kernel, by decide +kernel,
   by decide +kernel⟩

theorem wit_PacketsArrive_6_2 :
    let s : State := landing { records := [{ landRec with length := 5000 }], copies := [landCopy], pool0 := 128 };
    let q : Nat := 1;
    let pkt : Packet := landPkt;
    let known := s.record? q pkt.key;
    let c : RxCopy := landCopy;
    let r : Record := { landRec with length := 5000 };
    let key : List Byte := workKey [] 3 1 0 0 32;
    let u := s.useEngine q true pkt.size;
    let g := s.region (keyIndex pkt.spec.regionKey);
    let off := (accessOf pkt).1;
    s.copy? q c.id = some c ∧ c.pkt = pkt ∧ c.verified = false ∧ s.unitDown (.receive q) = false ∧
    s.openKey pkt = some key ∧ s.engineFree q true = true ∧ pkt.route.opcode = 1 ∧ pkt.payload.length = pkt.payloadLen ∧
    s.commitCheck pkt = Status.ok ∧ g.kind = 1 ∧ s.biasLines g.partition off pkt.payload.length true = [] ∧
    s.stalled g.partition off pkt.payload.length = false ∧
    (u.toPages q pkt.route.cls g.partition off pkt.payload.length).isSome = true ∧ s.mem.wf = true ∧ s.mem.upsets = [] ∧
    known = some r ∧ r.state ≠ .failed ∧ r.flag = none ∧ pkt.flags.flagFinal = false :=
  ⟨by decide +kernel, by decide +kernel, by decide +kernel, by decide +kernel, rfl, by decide +kernel,
   by decide +kernel, by decide +kernel, by decide +kernel, by decide +kernel, by decide +kernel, by decide +kernel,
   by decide +kernel, by decide +kernel, by decide +kernel, by decide +kernel, by decide +kernel, by decide +kernel,
   by decide +kernel⟩

theorem wit_PacketsArrive_7 :
    let s : State := { landing { records := [landRec], copies := [landCopy], pool0 := 128 } with regions := [] };
    let q : Nat := 1;
    let pkt : Packet := landPkt;
    let known := s.record? q pkt.key;
    let c : RxCopy := landCopy;
    let r : Record := landRec;
    let key : List Byte := workKey [] 3 1 0 0 32;
    let st := s.commitCheck pkt;
    s.copy? q c.id = some c ∧ c.pkt = pkt ∧ c.verified = false ∧ s.unitDown (.receive q) = false ∧
    s.openKey pkt = some key ∧ s.engineFree q true = true ∧ pkt.route.opcode ≠ 2 ∧ pkt.route.opcode ≠ 0x20 ∧
    st ≠ Status.ok ∧ known = some r ∧ r.state ≠ .failed :=
  ⟨by decide +kernel, by decide +kernel, by decide +kernel, by decide +kernel, rfl, by decide +kernel,
   by decide +kernel, by decide +kernel, by decide +kernel, by decide +kernel, by decide +kernel⟩

theorem wit_PacketsArrive_8 :
    let s : State := landing { records := [{ landRec with issue := 4280000000 }] };
    let q : Nat := 1;
    let key : MsgKey := landPkt.key;
    let r : Record := { landRec with issue := 4280000000 };
    s.record? q key = some r := by decide +kernel

theorem wit_RepliesEndMessages_1 :
    let s : State := sending waiting;
    let q : Nat := 0;
    let pkt : Packet := { replyPkt 0x10 with
                            key := { (replyPkt 0x10).key with seq := 11 },
                            route := { (replyPkt 0x10).route with landQ := 2 } };
    let op : Nat := 0x10;
    let u : State := sending waiting;
    s.replyDrop q op pkt = some u := by decide +kernel

theorem wit_RepliesEndMessages_2 :
    let s : State := sending waiting;
    let q : Nat := 0;
    let pkt : Packet := { replyPkt 0x10 with key := { (replyPkt 0x10).key with seq := 11 } };
    let op : Nat := 0x10;
    let key : List Byte := workKey [] 3 1 0 0 32;
    (op = 0x10 ∨ op = 0x11 ∨ op = 0x12 ∨ op = 3) ∧ s.replyDrop q op pkt = none ∧ s.unitDown (.receive q) = false ∧
    s.openKey pkt = some key :=
  ⟨by decide +kernel, by decide +kernel, by decide +kernel, rfl⟩

theorem wit_RepliesEndMessages_3 :
    let s : State := sending waiting;
    let q : Nat := 0;
    let m : Nat := 3;
    let x : Sender := waiting;
    let pkt : Packet := (replyPkt 0x10).seal (workKey [] 3 1 0 0 32);
    let qn : Nat := 2;
    let i : W32 := 5;
    let d : Desc :=
        { index := 5, opcode := 1, phase := .running, inline := true, inlineData := [1, 2, 3, 4, 5, 6, 7, 8] };
    let key : List Byte := workKey [] 3 1 0 0 32;
    s.replyDrop q 0x10 pkt = none ∧ s.unitDown (.receive q) = false ∧ s.openKey pkt = some key ∧
    s.engineFree q true = true ∧ pkt.trailer = pkt.tag key ∧ s.relayTo pkt = none ∧ s.replied? q pkt = some (m, x) ∧
    s.sender? q m = some x ∧ x.opcode ≠ 2 ∧ x.owner = .desc qn i ∧ s.desc? qn i = some d ∧ d.phase = .running ∧
    d.toSend = [] ∧ s.storesDone (.desc qn i) = true ∧ s.ownerDoomed (.desc qn i) = false ∧
    (s.freeSender q m).hasSender (.desc qn i) = false :=
  ⟨by decide +kernel, by decide +kernel, rfl, by decide +kernel, Packet.seal_tag _ _, by decide +kernel,
   by decide +kernel, by decide +kernel, by decide +kernel, by decide +kernel, by decide +kernel, by decide +kernel,
   by decide +kernel, by decide +kernel, by decide +kernel, by decide +kernel⟩

theorem wit_RepliesEndMessages_4_1 :
    let s : State := sending waiting;
    let q : Nat := 0;
    let m : Nat := 3;
    let x : Sender := waiting;
    let pkt : Packet := (replyPkt 0x11).seal (workKey [] 3 1 0 0 32);
    let key : List Byte := workKey [] 3 1 0 0 32;
    s.unitDown (.receive q) = false ∧ s.openKey pkt = some key ∧ s.engineFree q true = true ∧
    pkt.trailer = pkt.tag key ∧ s.relayTo pkt = none ∧ s.replied? q pkt = some (m, x) :=
  ⟨by decide +kernel, rfl, by decide +kernel, Packet.seal_tag _ _, by decide +kernel, by decide +kernel⟩

theorem wit_RepliesEndMessages_4_2 :
    let s : State := sending waiting;
    let q : Nat := 0;
    let m : Nat := 3;
    let x : Sender := waiting;
    let pkt : Packet :=
        ({ replyPkt 0x12 with spec := { status := Status.retryAfter, retryAfter := 5 } } : Packet).seal
        (workKey [] 3 1 0 0 32);
    let key : List Byte := workKey [] 3 1 0 0 32;
    s.unitDown (.receive q) = false ∧ s.openKey pkt = some key ∧ s.engineFree q true = true ∧
    pkt.trailer = pkt.tag key ∧ s.relayTo pkt = none ∧ s.replied? q pkt = some (m, x) :=
  ⟨by decide +kernel, rfl, by decide +kernel, Packet.seal_tag _ _, by decide +kernel, by decide +kernel⟩

theorem wit_RepliesEndMessages_4_3 :
    let s : State := sending waiting;
    let q : Nat := 0;
    let m : Nat := 3;
    let x : Sender := waiting;
    let pkt : Packet := ({ replyPkt 0x12 with spec := { status := Status.accessDenied } } : Packet).seal
        (workKey [] 3 1 0 0 32);
    let key : List Byte := workKey [] 3 1 0 0 32;
    s.unitDown (.receive q) = false ∧ s.openKey pkt = some key ∧ s.engineFree q true = true ∧
    pkt.trailer = pkt.tag key ∧ s.relayTo pkt = none ∧ s.replied? q pkt = some (m, x) :=
  ⟨by decide +kernel, rfl, by decide +kernel, Packet.seal_tag _ _, by decide +kernel, by decide +kernel⟩

theorem wit_RepliesEndMessages_5_1 :
    let s : State := { sending { waiting with opcode := 2, length := 5000, localAddr := 0x80000000000 } with
                         placements := [(6, { placed with size := 8192, legs := [{ pages := 2 }] })],
                         queues := [(2,
                                     { partition := 3,
                                       held := [{ index := 5, opcode := 2, phase := .running, seg := partSeg }] })] };
    let q : Nat := 0;
    let m : Nat := 3;
    let x : Sender := { waiting with opcode := 2, length := 5000, localAddr := 0x80000000000 };
    let pkt : Packet := ({ replyPkt 3 with
                             pktIndex := 1, flags := { last := true }, payloadLen := 904,
                             payload := List.replicate 904 7 } : Packet).seal (workKey [] 3 1 0 0 32);
    let qn : Nat := 2;
    let i : W32 := 5;
    let d : Desc := { index := 5, opcode := 2, phase := .running, seg := partSeg };
    let key : List Byte := workKey [] 3 1 0 0 32;
    let k := pkt.pktIndex;
    let a := segTarget d.seg x.localAddr + (x.offset + k * 4096);
    s.replyDrop q 3 pkt = none ∧ s.unitDown (.receive q) = false ∧ s.openKey pkt = some key ∧
    s.engineFree q true = true ∧ pkt.trailer = pkt.tag key ∧ s.relayTo pkt = none ∧ s.replied? q pkt = some (m, x) ∧
    s.sender? q m = some x ∧ x.opcode = 2 ∧ x.owner = .desc qn i ∧ s.desc? qn i = some d ∧ d.seg.kind ≠ 1 ∧
    inAccelWindow a = false ∧ s.spaceCheck x.partition a pkt.payload.length true = Status.ok ∧
    s.stalled x.partition a pkt.payload.length = false ∧ s.biasLines x.partition a pkt.payload.length true = [] ∧
    s.mem.wf = true ∧ s.mem.upsets = [] ∧ (s.quad q).copies = [] ∧ respAgrees x pkt = true ∧
    pkt.payload.length = pkt.payloadLen :=
  ⟨by decide +kernel, by decide +kernel, rfl, by decide +kernel, Packet.seal_tag _ _, by decide +kernel,
   by decide +kernel, by decide +kernel, by decide +kernel, by decide +kernel, by decide +kernel, by decide +kernel,
   by decide +kernel, by decide +kernel, by decide +kernel, by decide +kernel, by decide +kernel, by decide +kernel,
   by decide +kernel, by decide +kernel, by decide +kernel⟩

theorem wit_RepliesEndMessages_5_2 :
    let s : State := { sending { waiting with opcode := 2, length := 8, localAddr := 0x80000000000 } with
                         placements := [(6, placed)],
                         queues := [(2,
                                     { partition := 3,
                                       held := [{ index := 5, opcode := 2, phase := .running, seg := partSeg }] })] };
    let q : Nat := 0;
    let m : Nat := 3;
    let x : Sender := { waiting with opcode := 2, length := 8, localAddr := 0x80000000000 };
    let pkt : Packet :=
        ({ replyPkt 3 with flags := { last := true }, payloadLen := 8, payload := List.replicate 8 7 } : Packet).seal
        (workKey [] 3 1 0 0 32);
    let qn : Nat := 2;
    let i : W32 := 5;
    let d : Desc := { index := 5, opcode := 2, phase := .running, seg := partSeg };
    let key : List Byte := workKey [] 3 1 0 0 32;
    let k := pkt.pktIndex;
    let a := segTarget d.seg x.localAddr + (x.offset + k * 4096);
    s.replyDrop q 3 pkt = none ∧ s.unitDown (.receive q) = false ∧ s.openKey pkt = some key ∧
    s.engineFree q true = true ∧ pkt.trailer = pkt.tag key ∧ s.relayTo pkt = none ∧ s.replied? q pkt = some (m, x) ∧
    s.sender? q m = some x ∧ x.opcode = 2 ∧ x.owner = .desc qn i ∧ s.desc? qn i = some d ∧ d.seg.kind ≠ 1 ∧
    inAccelWindow a = false ∧ s.spaceCheck x.partition a pkt.payload.length true = Status.ok ∧
    s.stalled x.partition a pkt.payload.length = false ∧ s.biasLines x.partition a pkt.payload.length true = [] ∧
    s.mem.wf = true ∧ s.mem.upsets = [] ∧ (s.quad q).copies = [] ∧ respAgrees x pkt = true ∧
    pkt.payload.length = pkt.payloadLen :=
  ⟨by decide +kernel, by decide +kernel, rfl, by decide +kernel, Packet.seal_tag _ _, by decide +kernel,
   by decide +kernel, by decide +kernel, by decide +kernel, by decide +kernel, by decide +kernel, by decide +kernel,
   by decide +kernel, by decide +kernel, by decide +kernel, by decide +kernel, by decide +kernel, by decide +kernel,
   by decide +kernel, by decide +kernel, by decide +kernel⟩

theorem wit_CongestionAndRounds_1 :
    let s : State := { sending outMsg with mer := { now := 160000000 } };
    let q : Nat := 0;
    let d := s.quad q;
    let n := s.mtQ q / 160000000;
    n ≠ d.basePeriod := by decide +kernel

theorem wit_CongestionAndRounds_2 :
    let s : State := sending outMsg;
    let q : Nat := 0;
    s.mtQ q / 160000000 = (s.quad q).basePeriod := by decide +kernel

theorem wit_CongestionAndRounds_3 :
    let s : State := sending outMsg;
    let q : Nat := 0;
    let dest : Nat := 7;
    let c : Congest := cong;
    s.congest? q dest = some c := by decide +kernel

theorem wit_KernelsTrigsJobsAndSchedules_1 :
    let fn : Nat := 0;
    let m : Nat := 0;
    let s : State := withMbx (cmd 0x104 1 [1]) (fun x => { x with bulk := some kernelBulk });
    let k := mbxKey fn m;
    let p := s.boundTo fn;
    let b : Bulk := kernelBulk;
    let i : Nat := 0;
    let cores : Cores := .agree;
    let z := kernelOf p b.data;
    s.Takes fn m closeCmd ∧ s.committing k = some b ∧ b.kind = 1 ∧ s.asOpened fn b = none ∧ loadCheck p b.data = none ∧
    (z.deadline = 0 ∨ kernelBound z.steps ≤ z.deadline * 1000) ∧ s.underQuota p 7 (s.inUse p 7) 1 = true ∧ i < 256 ∧
    tblGet s.kernels i = none ∧ (∀ j, j < i → tblGet s.kernels j ≠ none) ∧ cores ≠ .split :=
  ⟨by decide +kernel, rfl, rfl, rfl, by decide +kernel, by decide +kernel, by decide +kernel, by decide, rfl,
    fun _ h => absurd h (Nat.not_lt_zero _), by decide⟩

theorem wit_KernelsTrigsJobsAndSchedules_2 :
    let fn : Nat := 0;
    let m : Nat := 0;
    let s : State := { cmd 0x501 1 [2] with kernels := [(2, { partition := 3 })] };
    let k := mbxKey fn m;
    let p := s.boundTo fn;
    let x := s.mbx k;
    let z : Kernel := { partition := 3 };
    let cores : Cores := .agree;
    let i := x.arg 0 % 256;
    s.Takes fn m { opcode := 0x0501, since := 2 } ∧ tblGet s.kernels i = some z ∧ z.partition = p ∧
    s.kernelRuns i = false ∧ cores ≠ .split := by decide +kernel

theorem wit_KernelsTrigsJobsAndSchedules_3 :
    let fn : Nat := 0;
    let m : Nat := 0;
    let s : State := { cmd 0x502 1 [4] with trigs := [(0, (3, 7))] };
    let k := mbxKey fn m;
    let p := s.boundTo fn;
    let x := s.mbx k;
    let pick : Nat := 5;
    let i : Nat := 5;
    let cores : Cores := .agree;
    let n := bits (x.arg 0) 14 0;
    s.Takes fn m { opcode := 0x0502, since := 2 } ∧ 1 ≤ n ∧ n ≤ 16384 ∧ s.underQuota p 4 (s.inUse p 4) n = true ∧
    pickFree (s.trigsFree n) 0 16384 pick = some i ∧ cores ≠ .split := by decide +kernel

theorem wit_KernelsTrigsJobsAndSchedules_4 :
    let fn : Nat := 0;
    let m : Nat := 0;
    let s : State := { cmd 0x503 1 [4 + 2 * 2 ^ 32] with trigs := [(4, (3, 7)), (5, (3, 8)), (6, (3, 9))] };
    let k := mbxKey fn m;
    let p := s.boundTo fn;
    let x := s.mbx k;
    let cores : Cores := .agree;
    let i := bits (x.arg 0) 13 0;
    let n := bits (x.arg 0) 46 32;
    s.Takes fn m { opcode := 0x0503, since := 2 } ∧ (List.range' i n).all (s.ownsTrig p) = true ∧
    s.trigsUsed p i n = false ∧ cores ≠ .split := by decide +kernel

theorem wit_KernelsTrigsJobsAndSchedules_5 :
    let fn : Nat := 0;
    let m : Nat := 0;
    let s : State := cmd 0x504 1 [9 + 2 * 2 ^ 32];
    let k := mbxKey fn m;
    let p := s.boundTo fn;
    let x := s.mbx k;
    let cores : Cores := .agree;
    let j := bits (x.arg 0) 23 0;
    let n := bits (x.arg 0) 47 32;
    s.Takes fn m { opcode := 0x0504, since := 2 } ∧ 2 ≤ n ∧ s.job? p j = none ∧ cores ≠ .split := by decide +kernel

theorem wit_KernelsTrigsJobsAndSchedules_6 :
    let fn : Nat := 0;
    let m : Nat := 0;
    let s : State := { cmd 0x505 1 [9] with
                         parts := [(3,
                                    { keyed := true, jobs := [(9, {})],
                                      schedules := [{ header := { id := 1, job := 9 } }] })] };
    let k := mbxKey fn m;
    let p := s.boundTo fn;
    let x := s.mbx k;
    let z : Job := {};
    let cores : Cores := .agree;
    let j := bits (x.arg 0) 23 0;
    s.Takes fn m { opcode := 0x0505, since := 2 } ∧ s.job? p j = some z ∧ cores ≠ .split := by decide +kernel

theorem wit_KernelsTrigsJobsAndSchedules_7 :
    let fn : Nat := 0;
    let m : Nat := 0;
    let s : State := admitting;
    let k := mbxKey fn m;
    let p := s.boundTo fn;
    let x := s.mbx k;
    let b : Bulk := schedBulk;
    let ports : List Nat := [0];
    let pick : Nat := 7;
    let c : Schedule := schedC;
    let cores : Cores := .agree;
    let h := parseSchedule b.data;
    let mem := parseMembers b.data h.n;
    let blk := b.data.drop (128 + 4 * h.n);
    let job := b.objectId.toNat % 2 ^ 24;
    s.Takes fn m closeCmd ∧ s.committing k = some b ∧ b.kind = 4 ∧ s.asOpened fn b = none ∧
    scheduleFault b.data job ((s.job? p job).map fun j => j.members) = none ∧
    (scheduleOf3 b.data = false ∨ 3 ≤ x.version) ∧ s.admitCheck p h mem blk = none ∧
    (s.finishAdmission p h mem blk ports pick (Config.freeValue s.free) (Config.freeValue (s.free + 1))).toOption = some
      c ∧ cores ≠ .split := by decide +kernel

theorem wit_KernelsTrigsJobsAndSchedules_8 :
    let fn : Nat := 0;
    let m : Nat := 0;
    let s : State := { cmd 0x506 1 [1] with
                         parts :=
                           [(3, { keyed := true, schedules := [{ header := { id := 1 }, reservation := 64 }] })] };
    let k := mbxKey fn m;
    let p := s.boundTo fn;
    let x := s.mbx k;
    let c : Schedule := { header := { id := 1 }, reservation := 64 };
    let cores : Cores := .agree;
    let id := w32 (x.arg 0);
    s.Takes fn m { opcode := 0x0506, since := 2 } ∧ s.schedule? p id = some c ∧ c.running = none ∧ cores ≠ .split := by
  decide +kernel

theorem wit_KernelsTrigsJobsAndSchedules_9 :
    let fn : Nat := 0;
    let m : Nat := 0;
    let s : State := { cmd 0x506 1 [1] with
                         parts := [(3,
                                    { keyed := true,
                                      schedules :=
                                        [{ header := { id := 1 }, running := some {}, callers := [(2, 1)] }] })] };
    let k := mbxKey fn m;
    let p := s.boundTo fn;
    let x := s.mbx k;
    let c : Schedule := { header := { id := 1 }, running := some {}, callers := [(2, 1)] };
    let y : Instance := {};
    let cores : Cores := .agree;
    let id := w32 (x.arg 0);
    s.Takes fn m { opcode := 0x0506, since := 2 } ∧ s.schedule? p id = some c ∧ c.running = some y ∧ cores ≠ .split := by
  decide +kernel

theorem wit_AttachedAcceleratorsServe_1_1 :
    let s : State := attached.modAccel 2 fun x => { x with state := .session, step := 1 };
    let a : Nat := 2;
    let x := s.accel a;
    x.state = .session := by decide +kernel

theorem wit_AttachedAcceleratorsServe_1_2 :
    let s : State :=
        (attached.modAccel 2 fun x => { x with state := .session, step := 3, sessionStart := 2000000000 }).modPort 4 fun
        x => { x with state := .session };
    let a : Nat := 2;
    let x := s.accel a;
    x.state = .session := by decide +kernel

theorem wit_AttachedAcceleratorsServe_1_3 :
    let s : State := attached.modAccel 2 fun x =>
        { x with state := .session, step := 1, lastAttempt := some 1999999999 };
    let a : Nat := 2;
    let x := s.accel a;
    x.state = .session := by decide +kernel

theorem wit_AttachedAcceleratorsServe_2 :
    let s : State := attached;
    let a : Nat := 2;
    let x := s.accel a;
    x.state = .up := by decide +kernel

theorem wit_AttachedAcceleratorsServe_3 :
    let s : State := attached.modAccel 2 fun x =>
        { x with requests := [{ attReq with sentClk := none }], writeCredits := 0 };
    let a : Nat := 2;
    let x := s.accel a;
    let r : AttReq := { attReq with sentClk := none };
    let n : Nat := 4;
    x.state = .up ∧ x.requests = [r] ∧ r.sentClk = none ∧ r.write = true ∧ x.relayWaiting = [] ∧
    (32 + r.data.length + 63) / 64 ≤ x.writeCredits + n := by decide +kernel

theorem wit_AttachedAcceleratorsServe_4_1 :
    let s : State := attached;
    let a : Nat := 2;
    let x := s.accel a;
    x.state = .up := by decide +kernel

theorem wit_AttachedAcceleratorsServe_4_2 :
    let s : State := attached;
    let a : Nat := 2;
    let x := s.accel a;
    x.state = .up := by decide +kernel

theorem wit_AttachedAcceleratorsServe_4_3 :
    let s : State := { attached with trigs := [(6, (1, 5))] };
    let a : Nat := 2;
    let x := s.accel a;
    x.state = .up := by decide +kernel

theorem wit_AttachedAcceleratorsServe_5_1 :
    let s : State := attached;
    let a : Nat := 2;
    let x := s.accel a;
    x.state = .up := by decide +kernel

theorem wit_AttachedAcceleratorsServe_5_2 :
    let s : State := attached;
    let a : Nat := 2;
    let x := s.accel a;
    x.state = .up := by decide +kernel

theorem wit_AttachedAcceleratorsServe_5_3 :
    let s : State := { attached with mer := {} };
    let a : Nat := 2;
    let x := s.accel a;
    x.state = .up := by decide +kernel

theorem wit_AttachedAcceleratorsServe_5_4 :
    let s : State := { attached with
                         charts := everyQuadrant { bankA := [(7,
                                                              { kind := 2, productive := 32, near := 48, primary := 5,
                                                                primaryValid := true })] },
                         ports := [(4, { fabPort with mode := 2 }), (5, fabPort)] };
    let a : Nat := 2;
    let x := s.accel a;
    x.state = .up := by decide +kernel

theorem wit_AttachedAcceleratorsServe_6_1 :
    let s : State := asking;
    let a : Nat := 2;
    let x := s.accel a;
    let tag : Nat := 5;
    let status : Nat := 0;
    let r : AttReq := attReq;
    let o : TileOwner := .desc 2 5;
    let off : Nat := 0;
    let data : List Byte := List.replicate 8 0;
    x.requests.find? (fun z => z.tag == tag && z.write == r.write && z.sentClk.isSome) = some r ∧
    r.purpose = (if r.write then .store o off else .fetch o off) ∧ (data.length = r.length ∨ status ≠ Status.ok) := by
  decide +kernel

theorem wit_AttachedAcceleratorsServe_6_2 :
    let s : State := attached.modAccel 2 fun x =>
        { x with requests := [{ attReq with write := false, purpose := .fetch (.desc 2 5) 0 }] };
    let a : Nat := 2;
    let x := s.accel a;
    let tag : Nat := 5;
    let status : Nat := 0;
    let r : AttReq := { attReq with write := false, purpose := .fetch (.desc 2 5) 0 };
    let o : TileOwner := .desc 2 5;
    let off : Nat := 0;
    let data : List Byte := List.replicate 8 0;
    x.requests.find? (fun z => z.tag == tag && z.write == r.write && z.sentClk.isSome) = some r ∧
    r.purpose = (if r.write then .store o off else .fetch o off) ∧ (data.length = r.length ∨ status ≠ Status.ok) := by
  decide +kernel

theorem wit_AttachedAcceleratorsServe_7_1 :
    let s : State := { asking with
                         accels := [(2, { state := .up, requests := [{ attReq with purpose := .commit 1 2 }] })],
                         quads := [(1, { copies := [landCopy], records := [landRec] })] };
    let a : Nat := 2;
    let x := s.accel a;
    let tag : Nat := 5;
    let status : Nat := 0;
    let q : Nat := 1;
    let id : Nat := 2;
    let off : Nat := 0;
    let r : AttReq := { attReq with purpose := .commit 1 2 };
    let c : RxCopy := landCopy;
    let data : List Byte := List.replicate 8 0;
    x.requests.find? (fun z => z.tag == tag && z.write == r.write && z.sentClk.isSome) = some r ∧
    r.purpose = (if r.write then .commit q id else .readFor q id off) ∧ s.copy? q id = some c ∧ c.rdma = none ∧
    (data.length = r.length ∨ status ≠ Status.ok) := by decide +kernel

theorem wit_AttachedAcceleratorsServe_7_2 :
    let s : State := { asking with
                         accels := [(2,
                                     { state := .up,
                                       requests := [{ attReq with write := false, purpose := .readFor 1 2 0 }] })],
                         quads := [(1, { copies := [landCopy] })] };
    let a : Nat := 2;
    let x := s.accel a;
    let tag : Nat := 5;
    let status : Nat := 0;
    let q : Nat := 1;
    let id : Nat := 2;
    let off : Nat := 0;
    let r : AttReq := { attReq with write := false, purpose := .readFor 1 2 0 };
    let c : RxCopy := landCopy;
    let data : List Byte := List.replicate 8 0;
    x.requests.find? (fun z => z.tag == tag && z.write == r.write && z.sentClk.isSome) = some r ∧
    r.purpose = (if r.write then .commit q id else .readFor q id off) ∧ s.copy? q id = some c ∧ c.rdma = none ∧
    (data.length = r.length ∨ status ≠ Status.ok) := by decide +kernel

theorem wit_AttachedAcceleratorsServe_8_1 :
    let s : State := { asking with
                         accels := [(2, { state := .up, requests := [{ attReq with purpose := .readInto 1 2 }] })],
                         quads := [(1, { copies := [landCopy], records := [landRec] })] };
    let a : Nat := 2;
    let x := s.accel a;
    let tag : Nat := 5;
    let q : Nat := 1;
    let id : Nat := 2;
    let r : AttReq := { attReq with purpose := .readInto 1 2 };
    let c : RxCopy := landCopy;
    x.requests.find? (fun z => z.tag == tag && z.write && z.sentClk.isSome) = some r ∧ s.copy? q id = some c := by
  decide +kernel

theorem wit_AttachedAcceleratorsServe_8_2 :
    let s : State := { asking with
                         accels := [(2, { state := .up, requests := [{ attReq with purpose := .commit 1 2 }] })],
                         quads := [(1, { copies := [{ landCopy with rdma := some 3 }] })] };
    let a : Nat := 2;
    let x := s.accel a;
    let tag : Nat := 5;
    let q : Nat := 1;
    let id : Nat := 2;
    let r : AttReq := { attReq with purpose := .commit 1 2 };
    let c : RxCopy := { landCopy with rdma := some 3 };
    x.requests.find? (fun z => z.tag == tag && z.write && z.sentClk.isSome) = some r ∧ s.copy? q id = some c := by
  decide +kernel

theorem wit_AttachedAcceleratorsServe_9 :
    let s : State := asking;
    let a : Nat := 2;
    let x := s.accel a;
    let tag : Nat := 5;
    let t0 : Nat := 1999000000;
    let r : AttReq := attReq;
    x.requests.find? (fun z => z.tag == tag) = some r ∧ r.sentClk = some t0 := by decide +kernel

theorem wit_HeadsArriveAndLeave_1_1 :
    let s : State := transit;
    let port : Nat := 4;
    let q := port / 8;
    let pkt : Packet := transitPkt;
    s.fabricActive port = true ∧ s.ownDst q pkt.route.epoch pkt.route.dst = false := by decide +kernel

theorem wit_HeadsArriveAndLeave_1_2 :
    let s : State := transit;
    let port : Nat := 4;
    let q := port / 8;
    let pkt : Packet := { transitPkt with hop := { hopCount := 63 } };
    s.fabricActive port = true ∧ s.ownDst q pkt.route.epoch pkt.route.dst = false := by decide +kernel

theorem wit_HeadsArriveAndLeave_1_3 :
    let s : State := transit;
    let port : Nat := 4;
    let q := port / 8;
    let pkt : Packet := { transitPkt with route := { transitPkt.route with epoch := true } };
    s.fabricActive port = true ∧ s.ownDst q pkt.route.epoch pkt.route.dst = false := by decide +kernel

theorem wit_HeadsArriveAndLeave_2 :
    let s : State := transit;
    let port : Nat := 4;
    let q := port / 8;
    let pkt : Packet := { transitPkt with route := { transitPkt.route with dst := 0, landQ := 2 } };
    s.fabricActive port = true ∧ s.ownDst q pkt.route.epoch pkt.route.dst = true := by decide +kernel

theorem wit_HeadsArriveAndLeave_3 :
    let s : State := { transit with
                         ports := [(4,
                                    { fabPort with
                                      input :=
                                        [{ pkt := transitPkt, arrivedClk := 2000000000 }, { pkt := transitPkt }] }),
                                   (5, fabPort)] };
    let port : Nat := 4;
    let x := s.port port;
    let q := port / 8;
    let free : List (Nat × Nat) := [(4, 10), (5, 80)];
    let h : Head := { pkt := transitPkt, arrivedClk := 2000000000 };
    let rest : List Head := [{ pkt := transitPkt }];
    let f : Nat × Nat := (5, 80);
    let e := s.chartEntry q h.pkt.route.epoch h.pkt.route.dst;
    let own := s.ownDst q h.pkt.route.epoch h.pkt.route.dst;
    x.input = h :: rest ∧ h.replica = none ∧ (own = true ∨ (s.bankIdle q h.pkt.route.epoch = false ∧ 2 ≤ e.kind)) ∧
    s.headOutput q h (s.freeFor port h.pkt (s.freeInTurn port s.headsInOrder free)) = some f := by decide +kernel

theorem wit_HeadsArriveAndLeave_4 :
    let s : State := { transit with charts := [], ports := [(4, { fabPort with input := [{ pkt := transitPkt }] })] };
    let port : Nat := 4;
    let x := s.port port;
    let q := port / 8;
    let h : Head := { pkt := transitPkt };
    let rest : List Head := [];
    x.input = h :: rest ∧ h.replica = none ∧ s.ownDst q h.pkt.route.epoch h.pkt.route.dst = false ∧
    (s.bankIdle q h.pkt.route.epoch = true ∨ (s.chartEntry q h.pkt.route.epoch h.pkt.route.dst).kind < 2) := by
  decide +kernel

theorem wit_HeadsArriveAndLeave_5 :
    let s : State := { transit with
                         ports := [(4, { fabPort with input := [{ pkt := transitPkt, replica := some [5, 6] }] }),
                                   (5, fabPort)] };
    let port : Nat := 4;
    let x := s.port port;
    let h : Head := { pkt := transitPkt, replica := some [5, 6] };
    let rest : List Head := [];
    let ports : List Nat := [5, 6];
    x.input = h :: rest ∧ h.replica = some ports := by decide +kernel

theorem wit_HeadsArriveAndLeave_6 :
    let s : State :=
        { transit with ports := [(4, { fabPort with input := [{ pkt := transitPkt, headSince := some 5 }] })] };
    let port : Nat := 4;
    let x := s.port port;
    let h : Head := { pkt := transitPkt, headSince := some 5 };
    let rest : List Head := [];
    x.input = h :: rest := by decide +kernel

theorem wit_PortsTrainAndMask_1_1 :
    let s : State := { dev with ports := [(4, { mode := 1, state := .align })] };
    let port : Nat := 4;
    let x := s.port port;
    x.mode ≠ 0 := by decide +kernel

theorem wit_PortsTrainAndMask_1_2 :
    let s : State := { dev with ports := [(4, { mode := 3, state := .align, eth := { rate := 400 } })] };
    let port : Nat := 4;
    let x := s.port port;
    x.mode ≠ 0 := by decide +kernel

theorem wit_PortsTrainAndMask_1_3 :
    let s : State := { dev with ports := [(4, { mode := 2, state := .detect })] };
    let port : Nat := 4;
    let x := s.port port;
    x.mode ≠ 0 := by decide +kernel

theorem wit_PortsTrainAndMask_2_1 :
    let s : State := { dev with ports := [(4, { mode := 1, state := .config })] };
    let port : Nat := 4;
    let x := s.port port;
    x.state = .config ∧ x.mode = 1 ∧ x.modeMismatch = false ∧ x.mplMismatch = false ∧ x.neighbourChanged = false := by
  decide +kernel

theorem wit_PortsTrainAndMask_2_2 :
    let s : State := { dev with ports := [(4, { mode := 1, state := .config, heldNeighbour := some 8 })] };
    let port : Nat := 4;
    let x := s.port port;
    x.state = .config ∧ x.mode = 1 ∧ x.modeMismatch = false ∧ x.mplMismatch = false ∧ x.neighbourChanged = false := by
  decide +kernel

theorem wit_PortsTrainAndMask_2_3 :
    let s : State := { dev with ports := [(4, { mode := 1, state := .config })] };
    let port : Nat := 4;
    let x := s.port port;
    x.state = .config ∧ x.mode = 1 ∧ x.modeMismatch = false ∧ x.mplMismatch = false ∧ x.neighbourChanged = false := by
  decide +kernel

theorem wit_PortsTrainAndMask_3 :
    let s : State :=
        { dev with ports := [(4, { mode := 2, state := .config })], accels := [(2, { ports := 16, endpoint := 9 })] };
    let port : Nat := 4;
    let x := s.port port;
    let msg : Hello := { role := 3, endpoint := 9, writeCredits := 5 };
    let a : Nat := 2;
    x.state = .config ∧ x.mode = 2 ∧ x.modeMismatch = false ∧ x.mplMismatch = false ∧ x.neighbourChanged = false ∧
    x.heldNeighbour.all (fun e => e == BitVec.ofNat 16 msg.endpoint) = true ∧ s.accelOf port = some a ∧
    s.attConfigBad a = false ∧ msg.role = 3 ∧ msg.endpoint = (s.accel a).endpoint.toNat := by decide +kernel

theorem wit_PortsTrainAndMask_4_1 :
    let s : State := { dev with ports := [(4, { mode := 1, state := .active, width := 3, neighbour := 9 })] };
    let port : Nat := 4;
    let x := s.port port;
    (x.state = .active ∨ x.state = .session) ∧ s.sessionOf port = none := by decide +kernel

theorem wit_PortsTrainAndMask_4_2 :
    let s : State := { dev with ports := [(4, { ethPort with recentDowns := List.replicate 7 2000000000 })] };
    let port : Nat := 4;
    let x := s.port port;
    (x.state = .active ∨ x.state = .session) ∧ s.sessionOf port = none := by decide +kernel

theorem wit_PortsTrainAndMask_4_3 :
    let s : State := { dev with ports := [(4, { mode := 1, state := .active, width := 3, rxPartial := some [1] })] };
    let port : Nat := 4;
    let x := s.port port;
    (x.state = .active ∨ x.state = .session) ∧ s.sessionOf port = none := by decide +kernel

theorem wit_PortsTrainAndMask_5 :
    let s : State := { dev with ports := [(4, { mode := 1, state := .config })] };
    let port : Nat := 4;
    let x := s.port port;
    x.zulvon = true ∧
    (x.state = .train ∨ x.state = .align ∨
     (x.state = .config ∧ x.modeMismatch = false ∧ x.mplMismatch = false ∧ x.neighbourChanged = false)) ∧
    x.leftDetect + us 100000 ≤ s.clk ∧ s.sessionOf port = none := by decide +kernel

theorem wit_PortsTrainAndMask_6 :
    let s : State := { dev with ports := [(4, { mode := 1, state := .active, width := 3, neighbour := 9 })] };
    let fn : Nat := 0;
    isPf fn = true ∧ (s.func fn).present = true := by decide +kernel

theorem wit_PortsTrainAndMask_7 :
    let s : State := { dev with ports := [(4, { mode := 1, state := .active })] };
    let port : Nat := 4;
    let x := s.port port;
    x.zulvon = true ∧ (x.state = .config ∨ x.state = .session ∨ x.state = .active) ∧ x.lastControlSent + 320 ≤ s.clk := by
  decide +kernel

theorem wit_PortsTrainAndMask_8_1 :
    let s : State := { dev with ports := [(4, { mode := 1, state := .active, rxPartial := some [1] })] };
    let port : Nat := 4;
    let x := s.port port;
    x.state = .active ∧ x.zulvon = true := by decide +kernel

theorem wit_PortsTrainAndMask_8_2 :
    let s : State := { dev with ports := [(4, { mode := 1, state := .active })] };
    let port : Nat := 4;
    let x := s.port port;
    x.state = .active ∧ x.zulvon = true := by decide +kernel

theorem wit_PortsTrainAndMask_8_3 :
    let s : State := { attached with ports := [(4, { mode := 2, state := .active })] };
    let port : Nat := 4;
    let x := s.port port;
    x.state = .active ∧ x.zulvon = true := by decide +kernel

theorem wit_LaneWidthsChange_1_1 :
    let s : State := { dev with ports := [(4, { mode := 1, state := .active, width := 2 })] };
    let port : Nat := 4;
    let x := s.port port;
    x.widthOpen = true ∧ x.proposed = none ∧ x.agreed = none := by decide +kernel

theorem wit_LaneWidthsChange_1_2 :
    let s : State := { dev with ports := [(4, { mode := 1, state := .active, width := 2 })] };
    let port : Nat := 4;
    let x := s.port port;
    x.widthOpen = true ∧ x.proposed = none ∧ x.agreed = none := by decide +kernel

theorem wit_LaneWidthsChange_2_1 :
    let s : State := { dev with ports := [(4, { mode := 1, state := .active, width := 2 })] };
    let port : Nat := 4;
    let x := s.port port;
    let n := lanesOf x.width;
    x.widthOpen = true ∧ x.agreed = none ∧ 1 ≤ n := by decide +kernel

theorem wit_LaneWidthsChange_2_2 :
    let s : State := { dev with ports := [(4, { mode := 1, state := .active, width := 2 })] };
    let port : Nat := 4;
    let x := s.port port;
    let n := lanesOf x.width;
    x.widthOpen = true ∧ x.agreed = none ∧ 1 ≤ n := by decide +kernel

theorem wit_LaneWidthsChange_3 :
    let s : State := { dev with ports := [(4, { mode := 1, state := .active, width := 2, proposed := some 4 })] };
    let port : Nat := 4;
    let x := s.port port;
    let lanes : Nat := 4;
    x.widthOpen = true ∧ x.proposed = some lanes := by decide +kernel

theorem wit_LaneWidthsChange_4 :
    let s : State := { dev with ports := [(4, { mode := 1, state := .active, width := 3, agreed := some 2 })] };
    let port : Nat := 4;
    let x := s.port port;
    let lanes : Nat := 2;
    x.widthOpen = true ∧ x.leaveForLanes = 0 ∧ x.agreed = some lanes := by decide +kernel

theorem wit_GraticulesMultiply_1 :
    let s : State := multiplying { gratJob with grantedClk := 2000000000 };
    let g : Nat := 1;
    let x : GratJob := { gratJob with grantedClk := 2000000000 };
    let r : Running := kernelOn [gemm];
    let f : Flight := gemm;
    let y := s.grat g;
    let cls := (pairClass x.record.aFmt x.record.wFmt).getD .full;
    let due := x.grantedClk + jobClocks cls x.record + (s.power.withheld - x.withheld);
    y.job = some x ∧ s.jobFlight x = some (r, f) ∧ (x.running = false ∨ x.failedVector ≠ none ∨ s.clk < due) := by
  decide +kernel

theorem wit_GraticulesMultiply_2 :
    let s : State := multiplying { gratJob with record := { jobRec with emit := true } };
    let g : Nat := 1;
    let x : GratJob := { gratJob with record := { jobRec with emit := true } };
    let r : Running := kernelOn [gemm];
    let f : Flight := gemm;
    let bad : Option Nat := none;
    let y := s.grat g;
    let cls := (pairClass x.record.aFmt x.record.wFmt).getD .full;
    let due := x.grantedClk + jobClocks cls x.record + (s.power.withheld - x.withheld);
    let d : JobData :=
        ((multiplying gratJob).jobData { gratJob with record := { jobRec with emit := true } } gemm).bind
        Except.toOption |>.getD { cls := .int, job := {}, seed := 0, tol := 0, checked := false, cols := [] };
    let u : State := ((multiplying { gratJob with record := { jobRec with emit := true } }).streamJob 1
                          (((multiplying gratJob).jobData { gratJob with record := { jobRec with emit := true } } gemm).bind
                             Except.toOption |>.getD
                             { cls := .int, job := {}, seed := 0, tol := 0, checked := false, cols := [] }) none 2).done?.getD
        dev;
    let z : GratJob := { gratJob with record := { jobRec with emit := true }, next := 1 };
    y.job = some x ∧ s.jobFlight x = some (r, f) ∧ x.running = true ∧ x.failedVector = none ∧ due ≤ s.clk ∧
    (s.jobData x f).bind Except.toOption = some d ∧ (s.streamJob g d bad (x.record.m + 1)).done? = some u ∧
    (u.grat g).job = some z := by decide +kernel

theorem wit_GraticulesMultiply_3 :
    let s : State := multiplying gratJob;
    let g : Nat := 1;
    let x : GratJob := gratJob;
    let r : Running := kernelOn [gemm];
    let f : Flight := gemm;
    let bad : Option Nat := none;
    let y := s.grat g;
    let cls := (pairClass x.record.aFmt x.record.wFmt).getD .full;
    let due := x.grantedClk + jobClocks cls x.record + (s.power.withheld - x.withheld);
    let d : JobData := ((multiplying gratJob).jobData gratJob gemm).bind Except.toOption |>.getD
        { cls := .int, job := {}, seed := 0, tol := 0, checked := false, cols := [] };
    let a : Line := ((multiplying gratJob).jobVector gratJob gemm 0).getRight?.getD { vals := [], scales := [] };
    let v := runVector d a;
    y.job = some x ∧ s.jobFlight x = some (r, f) ∧ x.running = true ∧ x.failedVector = none ∧ due ≤ s.clk ∧
    (s.jobData x f).bind Except.toOption = some d ∧ x.record.m = 1 ∧ x.next = 0 ∧ x.record.emit = false ∧
    (s.jobVector x f 0).getRight? = some a ∧ (x.checked = false ∨ (v.check ≠ .fail ∧ bad ≠ some 0)) := by
  decide +kernel

theorem wit_GraticulesMultiply_4_1 :
    let s : State := multiplying { gratJob with checked := true };
    let g : Nat := 1;
    let x : GratJob := { gratJob with checked := true };
    let r : Running := kernelOn [gemm];
    let f : Flight := gemm;
    let bad : Option Nat := some 0;
    let y := s.grat g;
    let cls := (pairClass x.record.aFmt x.record.wFmt).getD .full;
    let due := x.grantedClk + jobClocks cls x.record + (s.power.withheld - x.withheld);
    let d : JobData := ((multiplying gratJob).jobData { gratJob with checked := true } gemm).bind Except.toOption
        |>.getD { cls := .int, job := {}, seed := 0, tol := 0, checked := false, cols := [] };
    let a : Line := ((multiplying gratJob).jobVector gratJob gemm 0).getRight?.getD { vals := [], scales := [] };
    y.job = some x ∧ s.jobFlight x = some (r, f) ∧ x.running = true ∧ x.failedVector = none ∧ due ≤ s.clk ∧
    (s.jobData x f).bind Except.toOption = some d ∧ x.next < x.record.m ∧ (s.jobVector x f x.next).getRight? = some a ∧
    x.checked = true ∧ bad = some x.next := by decide +kernel

theorem wit_GraticulesMultiply_4_2 :
    let s : State := { multiplying { gratJob with checked := true } with cfg := { retry := false } };
    let g : Nat := 1;
    let x : GratJob := { gratJob with checked := true };
    let r : Running := kernelOn [gemm];
    let f : Flight := gemm;
    let bad : Option Nat := some 0;
    let y := s.grat g;
    let cls := (pairClass x.record.aFmt x.record.wFmt).getD .full;
    let due := x.grantedClk + jobClocks cls x.record + (s.power.withheld - x.withheld);
    let d : JobData := ((multiplying gratJob).jobData { gratJob with checked := true } gemm).bind Except.toOption
        |>.getD { cls := .int, job := {}, seed := 0, tol := 0, checked := false, cols := [] };
    let a : Line := ((multiplying gratJob).jobVector gratJob gemm 0).getRight?.getD { vals := [], scales := [] };
    y.job = some x ∧ s.jobFlight x = some (r, f) ∧ x.running = true ∧ x.failedVector = none ∧ due ≤ s.clk ∧
    (s.jobData x f).bind Except.toOption = some d ∧ x.next < x.record.m ∧ (s.jobVector x f x.next).getRight? = some a ∧
    x.checked = true ∧ bad = some x.next := by decide +kernel

theorem wit_GraticulesMultiply_5 :
    let s : State := multiplying { gratJob with checked := true, failedVector := some 0 };
    let g : Nat := 1;
    let x : GratJob := { gratJob with checked := true, failedVector := some 0 };
    let r : Running := kernelOn [gemm];
    let f : Flight := gemm;
    let y := s.grat g;
    let d : JobData := ((multiplying gratJob).jobData { gratJob with checked := true } gemm).bind Except.toOption
        |>.getD { cls := .int, job := {}, seed := 0, tol := 0, checked := false, cols := [] };
    let a : Line := ((multiplying gratJob).jobVector gratJob gemm 0).getRight?.getD { vals := [], scales := [] };
    let v : Nat := 0;
    y.job = some x ∧ s.jobFlight x = some (r, f) ∧ x.failedVector = some v ∧
    (s.jobData x f).bind Except.toOption = some d ∧ (s.jobVector x f v).getRight? = some a := by decide +kernel

theorem wit_GraticulesMultiply_6 :
    let s : State := { dev with
                         grats := [(1, { suspect := true })],
                         power := { dev.power with holders := [{ purpose := .selfTest 1 }] } };
    let g : Nat := 1;
    let y := s.grat g;
    y.suspect = true ∧ s.power.holders.any (fun l => l.purpose == .selfTest g) = true := by decide +kernel

theorem wit_GraticulesMultiply_7 :
    let s : State := dev;
    let g : Nat := 1;
    let y := s.grat g;
    (y.suspect = false ∨ s.power.holders.any (fun l => l.purpose == .selfTest g) = false) := by decide +kernel

theorem wit_GraticulesMultiply_8 :
    let s : State := dev;
    let g : Nat := 1;
    let y := s.grat g;
    y.wiping = false ∧ (s.seq g).wiping = false ∧ (s.red g).wiping = false := by decide +kernel

theorem wit_GraticulesMultiply_9_1 :
    let s : State := { multiplying gratJob with
                         seqs := [(1, { wiping := true })], reds := [(1, { wiping := true, queue := [reduction] })],
                         grats := [(1, { owned := true, wiping := true, partition := 2, job := some gratJob })] };
    let g : Nat := 1;
    let y := s.grat g;
    y.wiping = true ∧ (s.seq g).wiping = true ∧ (s.red g).wiping = true := by decide +kernel

theorem wit_GraticulesMultiply_9_2 :
    let s : State := { dev with
                         seqs := [(1, { wiping := true })], reds := [(1, { wiping := true })],
                         grats := [(1, { owned := true, wiping := true, partition := 2 })] };
    let g : Nat := 1;
    let y := s.grat g;
    y.wiping = true ∧ (s.seq g).wiping = true ∧ (s.red g).wiping = true := by decide +kernel

theorem wit_ReductionUnitsReduce_1 :
    let s : State := dev;
    let u : Nat := 1;
    let y := s.red u;
    (y.wiping = true ∨ s.unitDown (.reduction u) = true ∨ y.queue = []) := by decide +kernel

theorem wit_ReductionUnitsReduce_2_1 :
    let s : State := { computing [{ gemm with step := { op := 4 } }] with reds := [(1, { queue := [reduction] })] };
    let u : Nat := 1;
    let x : Reduction := reduction;
    let rest : List Reduction := [];
    let f : Flight := { gemm with step := { op := 4 } };
    let src : List Byte := [3, 254, 0, 0, 0, 0, 0, 0];
    let dst : List Byte := [1, 2, 0, 0, 0, 0, 0, 0];
    let y := s.red u;
    let o := TileOwner.step x.sequencer x.slot;
    let a := segTarget (f.segs.getD 1 {}) x.dst + 0;
    let seed := (s.ctx x.context).seed;
    let rc := (reduceArea x seed src dst);
    let cv := (convertArea x seed (areaNums x.inFmt x.count src));
    let res := packElems x.outFmt (if x.convert then cv.1 else rc.1);
    y.wiping = false ∧ s.unitDown (.reduction u) = false ∧ y.queue = x :: rest ∧ s.flight? x.sequencer x.slot = some f ∧
    isMx x.outFmt = false ∧
    (s.localRead o x.partition (f.segs.getD 0 {}) x.src 0 (areaBytes x.inFmt x.count) 0).toOption = some src ∧
    (x.convert = false →
     (s.localRead o x.partition (f.segs.getD 1 {}) x.dst 0 (areaBytes x.outFmt x.count) 2).toOption = some dst) ∧
    (f.segs.getD 1 {}).kind ≠ 1 ∧ inAccelWindow a = false ∧ s.spaceCheck x.partition a res.length true = Status.ok ∧
    s.biasLines x.partition a res.length true = [] ∧ s.mem.wf = true := by decide +kernel

theorem wit_ReductionUnitsReduce_2_2 :
    let s : State := { computing [{ gemm with step := { op := 4 } }] with
                         reds := [(1, { queue := [{ reduction with convert := true, inFmt := 0xB }] })] };
    let u : Nat := 1;
    let x : Reduction := { reduction with convert := true, inFmt := 0xB };
    let rest : List Reduction := [];
    let f : Flight := { gemm with step := { op := 4 } };
    let src : List Byte := [3, 254];
    let dst : List Byte := [];
    let y := s.red u;
    let o := TileOwner.step x.sequencer x.slot;
    let a := segTarget (f.segs.getD 1 {}) x.dst + 0;
    let seed := (s.ctx x.context).seed;
    let rc := (reduceArea x seed src dst);
    let cv := (convertArea x seed (areaNums x.inFmt x.count src));
    let res := packElems x.outFmt (if x.convert then cv.1 else rc.1);
    y.wiping = false ∧ s.unitDown (.reduction u) = false ∧ y.queue = x :: rest ∧ s.flight? x.sequencer x.slot = some f ∧
    isMx x.outFmt = false ∧
    (s.localRead o x.partition (f.segs.getD 0 {}) x.src 0 (areaBytes x.inFmt x.count) 0).toOption = some src ∧
    (x.convert = false →
     (s.localRead o x.partition (f.segs.getD 1 {}) x.dst 0 (areaBytes x.outFmt x.count) 2).toOption = some dst) ∧
    (f.segs.getD 1 {}).kind ≠ 1 ∧ inAccelWindow a = false ∧ s.spaceCheck x.partition a res.length true = Status.ok ∧
    s.biasLines x.partition a res.length true = [] ∧ s.mem.wf = true := by decide +kernel

theorem wit_ReductionUnitsReduce_3 :
    let s : State := converting;
    let u : Nat := 1;
    let x : Reduction := convRed;
    let rest : List Reduction := [];
    let f : Flight := { gemm with step := { op := 4 } };
    let src : List Byte := [3, 254];
    let y := s.red u;
    let o := TileOwner.step x.sequencer x.slot;
    let v : State := converted;
    let seed := (s.ctx x.context).seed;
    let cv := (convertArea x seed (areaNums x.inFmt x.count src));
    y.wiping = false ∧ s.unitDown (.reduction u) = false ∧ y.queue = x :: rest ∧ s.flight? x.sequencer x.slot = some f ∧
    x.convert = true ∧
    (s.localRead o x.partition (f.segs.getD 0 {}) x.src 0 (areaBytes x.inFmt x.count) 0).toOption = some src ∧
    (s.writePieces s o x.partition (f.segs.getD 1 {}) x.dst 1 (areaPieces x.outFmt x.count cv.1 cv.2.1)).done? = some v := by
  decide +kernel

theorem wit_KernelsComputeAndEnd_1_1 :
    let s : State := gemming;
    let k : Nat := 4;
    let r : Running := runningStep gemmStep;
    let st : Step := gemmStep;
    let l : List Byte := recBytes;
    let a := segTarget (s.segOf r.context st.a) st.a;
    let f := ({ slot := r.nextSlot, index := r.step, step := st, trig := r.trigOf st, issuedClk := s.clk,
                  segs := [s.segOf r.context st.a], table := (s.ctx r.context).segments } : Flight);
    s.stepOf k 3 0 = some (r, st) ∧ s.trigsOk r st = true ∧ r.room = true ∧
    r.flights.all (fun f => f.slot < r.nextSlot) = true ∧ s.stepRange r st.a 64 false = Status.ok ∧
    (s.segOf r.context st.a).kind ≠ 1 ∧ inAccelWindow a = false ∧ s.spaceCheck r.partition a 64 false = Status.ok ∧
    s.biasLines r.partition a 64 false = [] ∧ s.readSpace r.partition a 64 = l := by decide +kernel

theorem wit_KernelsComputeAndEnd_1_2 :
    let s : State := { gemming with grats := [(0, { owned := true, partition := 2 })] };
    let k : Nat := 4;
    let r : Running := runningStep gemmStep;
    let st : Step := gemmStep;
    let l : List Byte := recBytes;
    let a := segTarget (s.segOf r.context st.a) st.a;
    let f := ({ slot := r.nextSlot, index := r.step, step := st, trig := r.trigOf st, issuedClk := s.clk,
                  segs := [s.segOf r.context st.a], table := (s.ctx r.context).segments } : Flight);
    s.stepOf k 3 0 = some (r, st) ∧ s.trigsOk r st = true ∧ r.room = true ∧
    r.flights.all (fun f => f.slot < r.nextSlot) = true ∧ s.stepRange r st.a 64 false = Status.ok ∧
    (s.segOf r.context st.a).kind ≠ 1 ∧ inAccelWindow a = false ∧ s.spaceCheck r.partition a 64 false = Status.ok ∧
    s.biasLines r.partition a 64 false = [] ∧ s.readSpace r.partition a 64 = l := by decide +kernel

theorem wit_KernelsComputeAndEnd_1_3 :
    let s : State := gemming;
    let k : Nat := 4;
    let r : Running := runningStep gemmStep;
    let st : Step := gemmStep;
    let l : List Byte := recBytes;
    let a := segTarget (s.segOf r.context st.a) st.a;
    let f := ({ slot := r.nextSlot, index := r.step, step := st, trig := r.trigOf st, issuedClk := s.clk,
                  segs := [s.segOf r.context st.a], table := (s.ctx r.context).segments } : Flight);
    s.stepOf k 3 0 = some (r, st) ∧ s.trigsOk r st = true ∧ r.room = true ∧
    r.flights.all (fun f => f.slot < r.nextSlot) = true ∧ s.stepRange r st.a 64 false = Status.ok ∧
    (s.segOf r.context st.a).kind ≠ 1 ∧ inAccelWindow a = false ∧ s.spaceCheck r.partition a 64 false = Status.ok ∧
    s.biasLines r.partition a 64 false = [] ∧ s.readSpace r.partition a 64 = l := by decide +kernel

theorem wit_KernelsComputeAndEnd_1_4 :
    let s : State := { gemming with mem := {} };
    let k : Nat := 4;
    let r : Running := runningStep gemmStep;
    let st : Step := gemmStep;
    let l : List Byte := List.replicate 64 0;
    let a := segTarget (s.segOf r.context st.a) st.a;
    let f := ({ slot := r.nextSlot, index := r.step, step := st, trig := r.trigOf st, issuedClk := s.clk,
                  segs := [s.segOf r.context st.a], table := (s.ctx r.context).segments } : Flight);
    s.stepOf k 3 0 = some (r, st) ∧ s.trigsOk r st = true ∧ r.room = true ∧
    r.flights.all (fun f => f.slot < r.nextSlot) = true ∧ s.stepRange r st.a 64 false = Status.ok ∧
    (s.segOf r.context st.a).kind ≠ 1 ∧ inAccelWindow a = false ∧ s.spaceCheck r.partition a 64 false = Status.ok ∧
    s.biasLines r.partition a 64 false = [] ∧ s.readSpace r.partition a 64 = l := by decide +kernel

theorem wit_KernelsComputeAndEnd_2 :
    let s : State := gemming.modRun 4 fun x =>
        { x with waiting := .record 0, flights := [{ gemm with step := gemmStep }] };
    let k : Nat := 4;
    let r : Running :=
        { runningStep gemmStep with waiting := .record 0, flights := [{ gemm with step := gemmStep }] };
    let slot : Nat := 0;
    let f : Flight := { gemm with step := gemmStep };
    s.kernel? k = some r ∧ r.waiting = .record slot ∧ s.flight? k slot = some f := by decide +kernel

theorem wit_KernelsComputeAndEnd_3_1 :
    let s : State := stepping (reduceStepOf 1);
    let k : Nat := 4;
    let r : Running := runningStep (reduceStepOf 1);
    let st : Step := reduceStepOf 1;
    s.stepOf k 3 st.sub = some (r, st) ∧ (st.sub = 1 ∨ st.sub = 2) ∧ s.trigsOk r st = true ∧ r.room = true := by
  decide +kernel

theorem wit_KernelsComputeAndEnd_3_2 :
    let s : State :=
        { stepping (reduceStepOf 2) with reds := [(0, { owned := true, partition := 1, holds := some 1 })] };
    let k : Nat := 4;
    let r : Running := runningStep (reduceStepOf 2);
    let st : Step := reduceStepOf 2;
    s.stepOf k 3 st.sub = some (r, st) ∧ (st.sub = 1 ∨ st.sub = 2) ∧ s.trigsOk r st = true ∧ r.room = true := by
  decide +kernel

theorem wit_KernelsComputeAndEnd_4_1 :
    let s : State :=
        { gathering none with seqs := [(4, { running := some (runningStep { op := 9, a := 1, timeout := 9 }) })] };
    let k : Nat := 4;
    let r : Running := runningStep { op := 9, a := 1, timeout := 9 };
    let st : Step := { op := 9, a := 1, timeout := 9 };
    let c : Schedule := gatherSched;
    s.stepOf k 9 0 = some (r, st) ∧ s.trigsOk r st = true ∧ r.room = true ∧
    s.schedule? r.partition (w32 (bits st.a.toNat 31 0)) = some c := by decide +kernel

theorem wit_KernelsComputeAndEnd_4_2 :
    let s : State :=
        { gathering (some {}) with seqs := [(4, { running := some (runningStep { op := 9, a := 1, timeout := 9 }) })] };
    let k : Nat := 4;
    let r : Running := runningStep { op := 9, a := 1, timeout := 9 };
    let st : Step := { op := 9, a := 1, timeout := 9 };
    let c : Schedule := { gatherSched with running := some {} };
    s.stepOf k 9 0 = some (r, st) ∧ s.trigsOk r st = true ∧ r.room = true ∧
    s.schedule? r.partition (w32 (bits st.a.toNat 31 0)) = some c := by decide +kernel

theorem wit_KernelsComputeAndEnd_5 :
    let s : State := stepping { op := 15, sx := 1 };
    let k : Nat := 4;
    let r : Running := runningStep { op := 15, sx := 1 };
    let st : Step := { op := 15, sx := 1 };
    s.stepOf k 15 0 = some (r, st) ∧ s.trigsOk r st = true := by decide +kernel

theorem wit_KernelsComputeAndEnd_6_1 :
    let s : State := (stepping {}).modRun 4 fun x => { x with
                                                         waiting := .flight 0,
                                                         flights := [{ gemm with
                                                                       step := { op := 1, sig := true, trig := 6 },
                                                                       trig := 6, ended := some (0, 0) }, { slot := 1 }] };
    let k : Nat := 4;
    let r : Running := { runningStep {} with
                           waiting := .flight 0,
                           flights := [{ gemm with
                                         step := { op := 1, sig := true, trig := 6 }, trig := 6, ended := some (0, 0) },
                                       { slot := 1 }] };
    let slot : Nat := 0;
    let code : Nat := 0;
    let detail : Nat := 0;
    let f : Flight := { gemm with step := { op := 1, sig := true, trig := 6 }, trig := 6, ended := some (0, 0) };
    (s.seq k).running = some r ∧ s.flight? k slot = some f ∧ f.ended = some (code, detail) ∧ s.flightQuiet k slot = true := by
  decide +kernel

theorem wit_KernelsComputeAndEnd_6_2 :
    let s : State := (stepping {}).modRun 4 fun x => { x with flights := [{ gemm with ended := some (0x503, 0) }] };
    let k : Nat := 4;
    let r : Running := { runningStep {} with flights := [{ gemm with ended := some (0x503, 0) }] };
    let slot : Nat := 0;
    let code : Nat := 0x503;
    let detail : Nat := 0;
    let f : Flight := { gemm with ended := some (0x503, 0) };
    (s.seq k).running = some r ∧ s.flight? k slot = some f ∧ f.ended = some (code, detail) ∧ s.flightQuiet k slot = true := by
  decide +kernel

theorem wit_KernelsComputeAndEnd_6_3 :
    let s : State := (stepping {}).modRun 4 fun x => { x with
                                                         flights := [{ gemm with
                                                                       step := { op := 1, sig := true, trig := 6 },
                                                                       trig := 7, ended := some (0, 0) }, { slot := 1 }] };
    let k : Nat := 4;
    let r : Running := { runningStep {} with
                           flights := [{ gemm with
                                         step := { op := 1, sig := true, trig := 6 }, trig := 7, ended := some (0, 0) },
                                       { slot := 1 }] };
    let slot : Nat := 0;
    let code : Nat := 0;
    let detail : Nat := 0;
    let f : Flight := { gemm with step := { op := 1, sig := true, trig := 6 }, trig := 7, ended := some (0, 0) };
    (s.seq k).running = some r ∧ s.flight? k slot = some f ∧ f.ended = some (code, detail) ∧ s.flightQuiet k slot = true := by
  decide +kernel

theorem wit_KernelsComputeAndEnd_7_1 :
    let s : State := (stepping {}).modRun 4 fun x =>
        { x with flights := [{ gemm with step := { op := 1, timeout := 9 } }] };
    let k : Nat := 4;
    let slot : Nat := 0;
    let f : Flight := { gemm with step := { op := 1, timeout := 9 } };
    s.flight? k slot = some f := by decide +kernel

theorem wit_KernelsComputeAndEnd_7_2 :
    let s : State := (stepping {}).modRun 4 fun x =>
        { x with flights := [{ gemm with step := { op := 1, timeout := 9 }, issuedClk := 1999999999 }] };
    let k : Nat := 4;
    let slot : Nat := 0;
    let f : Flight := { gemm with step := { op := 1, timeout := 9 }, issuedClk := 1999999999 };
    s.flight? k slot = some f := by decide +kernel

theorem wit_CollectivesRun_1 :
    let s : State := dev;
    let p : Nat := 0;
    let pkt : Packet := {};
    s.collCopy p pkt = none := by decide +kernel

theorem wit_CollectivesRun_2 :
    let s : State := { gathered with
                         quads :=
                           [(0, { copies := [gatherCopy], records := [{ key := gatherPkt.key, state := .failed }] })] };
    let p : Nat := 0;
    let pkt : Packet := gatherPkt;
    let c : RxCopy := gatherCopy;
    s.collCopy p pkt = some c ∧ s.failedRecord p c.pkt = true := by decide +kernel

theorem wit_CollectivesRun_3_1 :
    let s : State := { gathered with quads := [(0, { copies := [gatherCopy] })] };
    let p : Nat := 0;
    let pkt : Packet := gatherPkt;
    let c : RxCopy := gatherCopy;
    let sch : Schedule := { gatherSched with running := some gatherInst, started := 1 };
    let x : Instance := gatherInst;
    let k := c.pkt;
    let q := k.key.partition;
    s.collCopy p pkt = some c ∧ s.failedRecord p k = false ∧ s.schedule? q k.spec.schedule = some sch ∧
    s.instance? q k.spec.schedule = some x := by decide +kernel

theorem wit_CollectivesRun_3_2 :
    let s : State := { gathering (some { gatherInst with received := [(0, 1, 0, gatherPkt.payload)] }) with
                         quads := [(0, { copies := [gatherCopy] })] };
    let p : Nat := 0;
    let pkt : Packet := gatherPkt;
    let c : RxCopy := gatherCopy;
    let sch : Schedule :=
        { gatherSched with running := some { gatherInst with received := [(0, 1, 0, gatherPkt.payload)] } };
    let x : Instance := { gatherInst with received := [(0, 1, 0, gatherPkt.payload)] };
    let k := c.pkt;
    let q := k.key.partition;
    s.collCopy p pkt = some c ∧ s.failedRecord p k = false ∧ s.schedule? q k.spec.schedule = some sch ∧
    s.instance? q k.spec.schedule = some x := by decide +kernel

theorem wit_CollectivesRun_4 :
    let s : State := { gathering none with
                         quads := [(0,
                                    { copies := [{ id := 2, verified := true,
                                                   pkt := { beat with route := { opcode := 0x20, cls := 3 } } }] })] };
    let p : Nat := 0;
    let pkt : Packet := { beat with route := { opcode := 0x20, cls := 3 } };
    let c : RxCopy := { id := 2, verified := true, pkt := { beat with route := { opcode := 0x20, cls := 3 } } };
    let j : Job := pair;
    s.collCopy p pkt = some c ∧ s.failedRecord p c.pkt = false ∧
    s.instance? c.pkt.key.partition c.pkt.spec.schedule = none ∧ s.job? c.pkt.key.partition c.pkt.spec.job = some j := by
  decide +kernel

theorem wit_CollectivesRun_5_1 :
    let s : State := gathering none;
    let p : Nat := 3;
    let id : W32 := 1;
    let c : Schedule := gatherSched;
    s.schedule? p id = some c := by decide +kernel

theorem wit_CollectivesRun_5_2 :
    let s : State := gathered;
    let p : Nat := 3;
    let id : W32 := 1;
    let c : Schedule := { gatherSched with running := some gatherInst, started := 1 };
    s.schedule? p id = some c := by decide +kernel

theorem wit_CollectivesRun_6_1 :
    let s : State := gathering none;
    let pkt : Packet := beat.seal (workKey [] 3 3 0 9 32);
    let j : Job := pair;
    let key : List Byte := workKey [] 3 3 0 9 32;
    let q := pkt.key.partition;
    let d := pkt.route.landQ;
    pkt.route.opcode = 0x21 ∧ headerValid pkt = true ∧ s.ownDst d pkt.route.epoch pkt.route.dst = true ∧
    s.mer.lock ≠ .unlocked ∧ s.beforeFloor pkt.issue = false ∧ s.freshEnough d pkt.issue = true ∧
    s.openKey pkt = some key ∧ s.unitDown (.receive d) = false ∧ s.job? q pkt.spec.job = some j :=
  ⟨by decide +kernel, by decide +kernel, by decide +kernel, by decide +kernel, by decide +kernel, by decide +kernel,
   rfl, by decide +kernel, by decide +kernel⟩

theorem wit_CollectivesRun_6_2 :
    let s : State := gathering none;
    let pkt : Packet := beat;
    let j : Job := pair;
    let key : List Byte := workKey [] 3 3 0 9 32;
    let q := pkt.key.partition;
    let d := pkt.route.landQ;
    pkt.route.opcode = 0x21 ∧ headerValid pkt = true ∧ s.ownDst d pkt.route.epoch pkt.route.dst = true ∧
    s.mer.lock ≠ .unlocked ∧ s.beforeFloor pkt.issue = false ∧ s.freshEnough d pkt.issue = true ∧
    s.openKey pkt = some key ∧ s.unitDown (.receive d) = false ∧ s.job? q pkt.spec.job = some j :=
  ⟨by decide +kernel, by decide +kernel, by decide +kernel, by decide +kernel, by decide +kernel, by decide +kernel,
   rfl, by decide +kernel, by decide +kernel⟩

theorem wit_CollectivesRun_7 :
    let s : State := { gathering none with
                         parts := [(3, { keyed := true, jobs := [(9, { pair with watched := [(1, 100)] })] })],
                         mer := { now := 900000, lock := .locked } };
    let p : Nat := 3;
    let job : Nat := 9;
    let rank : Nat := 1;
    let t0 : Nat := 100;
    let j : Job := { pair with watched := [(1, 100)] };
    s.job? p job = some j ∧ j.watched.find? (fun w => w.1 == rank) = some (rank, t0) := by decide +kernel

theorem wit_CollectivesRun_8_1 :
    let s : State := gathering none;
    let p : Nat := 4;
    let pkt : Packet := alarmPkt.seal (workKey [] 3 3 0 9 32);
    let x := s.port p;
    pkt.route.opcode = 0x22 ∧ x.mode = 1 ∧ x.state = .active ∧ pkt.route.version = 1 ∧ s.beforeFloor pkt.issue = false ∧
    s.hopFresh p pkt.issue = true := by decide +kernel

theorem wit_CollectivesRun_8_2 :
    let s : State := gathering none;
    let p : Nat := 4;
    let pkt : Packet := { alarmPkt with hop := { hopCount := 63 } };
    let x := s.port p;
    pkt.route.opcode = 0x22 ∧ x.mode = 1 ∧ x.state = .active ∧ pkt.route.version = 1 ∧ s.beforeFloor pkt.issue = false ∧
    s.hopFresh p pkt.issue = true := by decide +kernel

theorem wit_CollectivesRun_8_3 :
    let s : State := { gathering none with
                         recover :=
                           { filter := [{ src := 7, partition := 3, job := 9, issue := 100, untilClk := 3000000000 }] } };
    let p : Nat := 4;
    let pkt : Packet := alarmPkt;
    let x := s.port p;
    pkt.route.opcode = 0x22 ∧ x.mode = 1 ∧ x.state = .active ∧ pkt.route.version = 1 ∧ s.beforeFloor pkt.issue = false ∧
    s.hopFresh p pkt.issue = true := by decide +kernel

theorem wit_KernelStepsControl_1 :
    let s : State := (stepping { op := 8 }).modRun 4 fun x => { x with waiting := .flight 0 };
    let k : Nat := 4;
    let r : Running := { runningStep { op := 8 } with waiting := .flight 0 };
    s.kernel? k = some r ∧ r.waiting ≠ .none := by decide +kernel

theorem wit_KernelStepsControl_2_1 :
    let s : State := stepping { op := 8, sub := 1, sy := 2, a := 5 };
    let k : Nat := 4;
    let r : Running := runningStep { op := 8, sub := 1, sy := 2, a := 5 };
    let t : Step := { op := 8, sub := 1, sy := 2, a := 5 };
    s.stepOf k 8 t.sub = some (r, t) ∧ s.trigsOk r t = true := by decide +kernel

theorem wit_KernelStepsControl_2_2 :
    let s : State := stepping { op := 8, sub := 5, sy := 2, trig := 6, sig := true };
    let k : Nat := 4;
    let r : Running := runningStep { op := 8, sub := 5, sy := 2, trig := 6, sig := true };
    let t : Step := { op := 8, sub := 5, sy := 2, trig := 6, sig := true };
    s.stepOf k 8 t.sub = some (r, t) ∧ s.trigsOk r t = true := by decide +kernel

theorem wit_KernelStepsControl_3_1 :
    let s : State := stepping { op := 7, sx := 1, b := 8, a := 3 };
    let k : Nat := 4;
    let r : Running := runningStep { op := 7, sx := 1, b := 8, a := 3 };
    let t : Step := { op := 7, sx := 1, b := 8, a := 3 };
    s.stepOf k 7 t.sub = some (r, t) ∧ s.trigsOk r t = true := by decide +kernel

theorem wit_KernelStepsControl_3_2 :
    let s : State := stepping { op := 7, sub := 3, trig := 6, b := 8, a := 3 };
    let k : Nat := 4;
    let r : Running := runningStep { op := 7, sub := 3, trig := 6, b := 8, a := 3 };
    let t : Step := { op := 7, sub := 3, trig := 6, b := 8, a := 3 };
    s.stepOf k 7 t.sub = some (r, t) ∧ s.trigsOk r t = true := by decide +kernel

theorem wit_KernelStepsControl_4 :
    let s : State := stepping { op := 6, a := 3, c := 0 };
    let k : Nat := 4;
    let r : Running := runningStep { op := 6, a := 3, c := 0 };
    let t : Step := { op := 6, a := 3, c := 0 };
    s.stepOf k 6 0 = some (r, t) ∧ s.trigsOk r t = true ∧ bits t.a.toNat 15 0 ≠ 0 := by decide +kernel

theorem wit_KernelStepsControl_5_1 :
    let s : State := stepping { op := 5, trig := 6, a := 4 };
    let k : Nat := 4;
    let r : Running := runningStep { op := 5, trig := 6, a := 4 };
    let t : Step := { op := 5, trig := 6, a := 4 };
    s.stepOf k 5 t.sub = some (r, t) ∧ s.trigsOk r t = true := by decide +kernel

theorem wit_KernelStepsControl_5_2 :
    let s : State :=
        { stepping { op := 5, sub := 2, a := 4, b := 0x30002 } with accels := [(2, { partitions := 8 })] };
    let k : Nat := 4;
    let r : Running := runningStep { op := 5, sub := 2, a := 4, b := 0x30002 };
    let t : Step := { op := 5, sub := 2, a := 4, b := 0x30002 };
    s.stepOf k 5 t.sub = some (r, t) ∧ s.trigsOk r t = true := by decide +kernel

theorem wit_KernelStepsControl_6_1 :
    let s : State := stepping { op := 4, trig := 6, a := 4, timeout := 9 };
    let k : Nat := 4;
    let r : Running := runningStep { op := 4, trig := 6, a := 4, timeout := 9 };
    let t : Step := { op := 4, trig := 6, a := 4, timeout := 9 };
    s.stepOf k 4 t.sub = some (r, t) ∧ s.trigsOk r t = true := by decide +kernel

theorem wit_KernelStepsControl_6_2 :
    let s : State := stepping { op := 4, sub := 1, trig := 6, a := 6, timeout := 9 };
    let k : Nat := 4;
    let r : Running := runningStep { op := 4, sub := 1, trig := 6, a := 6, timeout := 9 };
    let t : Step := { op := 4, sub := 1, trig := 6, a := 6, timeout := 9 };
    s.stepOf k 4 t.sub = some (r, t) ∧ s.trigsOk r t = true := by decide +kernel

theorem wit_KernelStepsControl_7_1 :
    let s : State := stepping { op := 4, sub := 3, a := 4, c := 0x100, timeout := 9 };
    let k : Nat := 4;
    let r : Running := runningStep { op := 4, sub := 3, a := 4, c := 0x100, timeout := 9 };
    let t : Step := { op := 4, sub := 3, a := 4, c := 0x100, timeout := 9 };
    s.stepOf k 4 3 = some (r, t) ∧ s.trigsOk r t = true := by decide +kernel

theorem wit_KernelStepsControl_7_2 :
    let s : State := { stepping { op := 4, sub := 3, a := 4, c := 0x100, timeout := 9 } with placements := [] };
    let k : Nat := 4;
    let r : Running := runningStep { op := 4, sub := 3, a := 4, c := 0x100, timeout := 9 };
    let t : Step := { op := 4, sub := 3, a := 4, c := 0x100, timeout := 9 };
    s.stepOf k 4 3 = some (r, t) ∧ s.trigsOk r t = true := by decide +kernel

theorem wit_KernelStepsControl_8_1 :
    let s : State := (stepping {}).modRun 4 fun x => { x with waiting := .trigGe 6 5 true 0, flights := [gemm] };
    let k : Nat := 4;
    let r : Running := { runningStep {} with waiting := .trigGe 6 5 true 0, flights := [gemm] };
    s.kernel? k = some r := by decide +kernel

theorem wit_KernelStepsControl_8_2 :
    let s : State := (stepping {}).modRun 4 fun x => { x with waiting := .trigGe 7 5 true 0, flights := [gemm] };
    let k : Nat := 4;
    let r : Running := { runningStep {} with waiting := .trigGe 7 5 true 0, flights := [gemm] };
    s.kernel? k = some r := by decide +kernel

theorem wit_KernelStepsControl_9_1 :
    let s : State := stepping { op := 5, trig := 7, a := 4 };
    let k : Nat := 4;
    let r : Running := runningStep { op := 5, trig := 7, a := 4 };
    let t : Step := { op := 5, trig := 7, a := 4 };
    let op : Nat := 5;
    let sub : Nat := 0;
    let d : Desc := { index := 5, opcode := 7, phase := .running };
    s.stepOf k op sub = some (r, t) ∧ s.trigsOk r t = false ∧ r.flights = [] ∧ s.desc? r.queue r.descIndex = some d ∧
    d.phase ≠ .completed ∧ (op = 5 ∨ op = 7 ∨ op = 8) ∧ sub = t.sub ∧ t.op = op ∧ sub ≤ 1 := by decide +kernel

theorem wit_KernelStepsControl_9_2 :
    let s : State := stepping { op := 8, trig := 7, sig := true };
    let k : Nat := 4;
    let r : Running := runningStep { op := 8, trig := 7, sig := true };
    let t : Step := { op := 8, trig := 7, sig := true };
    let op : Nat := 8;
    let sub : Nat := 0;
    let d : Desc := { index := 5, opcode := 7, phase := .running };
    s.stepOf k op sub = some (r, t) ∧ s.trigsOk r t = false ∧ r.flights = [] ∧ s.desc? r.queue r.descIndex = some d ∧
    d.phase ≠ .completed ∧ (op = 5 ∨ op = 7 ∨ op = 8) ∧ sub = t.sub ∧ t.op = op ∧ sub ≤ 1 := by decide +kernel

theorem wit_KernelStepsMoveData_1 :
    let s : State := stepping { op := 1, a := 0, b := 2, c := 0x102, timeout := 9 };
    let k : Nat := 4;
    let r : Running := runningStep { op := 1, a := 0, b := 2, c := 0x102, timeout := 9 };
    let t : Step := { op := 1, a := 0, b := 2, c := 0x102, timeout := 9 };
    let src := segTarget (s.segOf r.context t.a) t.a;
    let dst := segTarget (s.segOf r.context t.c) t.c;
    s.stepOf k 1 0 = some (r, t) ∧ s.trigsOk r t = true ∧ r.room = true ∧
    r.flights.all (fun f => f.slot < r.nextSlot) = true ∧
    s.tiles.all (fun z => z.2.owner != .step k r.nextSlot) = true ∧ s.stepRange r t.a t.count false = Status.ok ∧
    s.stepRange r t.c t.count true = Status.ok ∧ (s.segOf r.context t.a).kind ≠ 1 ∧ (s.segOf r.context t.c).kind ≠ 1 ∧
    inAccelWindow src = false ∧ inAccelWindow dst = false ∧ 0 < t.count ∧
    s.spaceCheck r.partition src t.count false = Status.ok ∧ s.spaceCheck r.partition dst t.count true = Status.ok ∧
    s.biasLines r.partition src t.count false = [] ∧ s.biasLines r.partition dst t.count true = [] ∧ s.mem.wf = true ∧
    s.flightQuiet k r.nextSlot = true := by decide +kernel

theorem wit_KernelStepsMoveData_2_1 :
    let s : State := stepping { op := 8, sub := 2, sy := 1, a := 0x100, timeout := 9 };
    let k : Nat := 4;
    let r : Running := runningStep { op := 8, sub := 2, sy := 1, a := 0x100, timeout := 9 };
    let t : Step := { op := 8, sub := 2, sy := 1, a := 0x100, timeout := 9 };
    let a := segTarget (s.segOf r.context t.a) t.a;
    s.stepOf k 8 t.sub = some (r, t) ∧ (t.sub = 2 ∨ t.sub = 3) ∧ s.trigsOk r t = true ∧
    r.flights.all (fun f => f.slot < r.nextSlot) = true ∧
    s.tiles.all (fun z => z.2.owner != .step k r.nextSlot) = true ∧ s.stepRange r t.a 8 (t.sub == 3) = Status.ok ∧
    (s.segOf r.context t.a).kind ≠ 1 ∧ inAccelWindow a = false ∧ s.spaceCheck r.partition a 8 (t.sub == 3) = Status.ok ∧
    s.biasLines r.partition a 8 (t.sub == 3) = [] ∧ s.mem.wf = true ∧ s.flightQuiet k r.nextSlot = true := by
  decide +kernel

theorem wit_KernelStepsMoveData_2_2 :
    let s : State := stepping { op := 8, sub := 3, sy := 1, a := 0x100, timeout := 9 };
    let k : Nat := 4;
    let r : Running := runningStep { op := 8, sub := 3, sy := 1, a := 0x100, timeout := 9 };
    let t : Step := { op := 8, sub := 3, sy := 1, a := 0x100, timeout := 9 };
    let a := segTarget (s.segOf r.context t.a) t.a;
    s.stepOf k 8 t.sub = some (r, t) ∧ (t.sub = 2 ∨ t.sub = 3) ∧ s.trigsOk r t = true ∧
    r.flights.all (fun f => f.slot < r.nextSlot) = true ∧
    s.tiles.all (fun z => z.2.owner != .step k r.nextSlot) = true ∧ s.stepRange r t.a 8 (t.sub == 3) = Status.ok ∧
    (s.segOf r.context t.a).kind ≠ 1 ∧ inAccelWindow a = false ∧ s.spaceCheck r.partition a 8 (t.sub == 3) = Status.ok ∧
    s.biasLines r.partition a 8 (t.sub == 3) = [] ∧ s.mem.wf = true ∧ s.flightQuiet k r.nextSlot = true := by
  decide +kernel

theorem wit_KernelStepsMoveData_3_1 :
    let s : State := stepping
        { op := 1, sub := 1, a := 0x0007300000000000, b := 0x70109 * 2 ^ 32 + 70000, c := 0, timeout := 9 };
    let k : Nat := 4;
    let r : Running := runningStep
        { op := 1, sub := 1, a := 0x0007300000000000, b := 0x70109 * 2 ^ 32 + 70000, c := 0, timeout := 9 };
    let t : Step :=
        { op := 1, sub := 1, a := 0x0007300000000000, b := 0x70109 * 2 ^ 32 + 70000, c := 0, timeout := 9 };
    let q := seqQuadrant k;
    let n := (s.quad q).nextMsg;
    let old := (s.quad q).senders;
    let remote := if t.op = 1 then t.a else t.c;
    let near := if t.op = 1 then t.c else t.a;
    let op := if t.op = 1 then opReadReq else if t.sub = 2 then opAdd64 else opWrite;
    let len := if t.op = 2 ∧ t.sub = 2 then 8 else t.count;
    let l := messagesOf op len;
    s.stepOf k t.op t.sub = some (r, t) ∧ ((t.op = 1 ∧ t.sub = 1) ∨ (t.op = 2 ∧ t.sub ≤ 2)) ∧ s.trigsOk r t = true ∧
    r.room = true ∧ r.flights.all (fun f => f.slot < r.nextSlot) = true ∧
    s.tiles.all (fun z => z.2.owner != .step k r.nextSlot) = true ∧ gaPartition remote = r.partition ∧
    (t.op = 2 ∧ t.sub = 2 ∨
     (s.stepRange r near t.count (t.op == 1) = Status.ok ∧ (s.segOf r.context near).kind ≠ 1 ∧
      inAccelWindow (segTarget (s.segOf r.context near) near) = false)) ∧ (∀ e ∈ old, e.1 < n) ∧
    old.length + l.length ≤ 65536 ∧ 0 < len := by decide +kernel

theorem wit_KernelStepsMoveData_3_2 :
    let s : State := stepping
        { op := 2, sub := 1, c := 0x0007300000000000, b := 0x70109 * 2 ^ 32 + 8, a := 0, timeout := 9 };
    let k : Nat := 4;
    let r : Running := runningStep
        { op := 2, sub := 1, c := 0x0007300000000000, b := 0x70109 * 2 ^ 32 + 8, a := 0, timeout := 9 };
    let t : Step := { op := 2, sub := 1, c := 0x0007300000000000, b := 0x70109 * 2 ^ 32 + 8, a := 0, timeout := 9 };
    let q := seqQuadrant k;
    let n := (s.quad q).nextMsg;
    let old := (s.quad q).senders;
    let remote := if t.op = 1 then t.a else t.c;
    let near := if t.op = 1 then t.c else t.a;
    let op := if t.op = 1 then opReadReq else if t.sub = 2 then opAdd64 else opWrite;
    let len := if t.op = 2 ∧ t.sub = 2 then 8 else t.count;
    let l := messagesOf op len;
    s.stepOf k t.op t.sub = some (r, t) ∧ ((t.op = 1 ∧ t.sub = 1) ∨ (t.op = 2 ∧ t.sub ≤ 2)) ∧ s.trigsOk r t = true ∧
    r.room = true ∧ r.flights.all (fun f => f.slot < r.nextSlot) = true ∧
    s.tiles.all (fun z => z.2.owner != .step k r.nextSlot) = true ∧ gaPartition remote = r.partition ∧
    (t.op = 2 ∧ t.sub = 2 ∨
     (s.stepRange r near t.count (t.op == 1) = Status.ok ∧ (s.segOf r.context near).kind ≠ 1 ∧
      inAccelWindow (segTarget (s.segOf r.context near) near) = false)) ∧ (∀ e ∈ old, e.1 < n) ∧
    old.length + l.length ≤ 65536 ∧ 0 < len := by decide +kernel

theorem wit_KernelStepsMoveData_3_3 :
    let s : State := stepping
        { op := 2, sub := 2, c := 0x0007300000000000, b := 0x70109 * 2 ^ 32, a := 3, sy := 1, timeout := 9 };
    let k : Nat := 4;
    let r : Running := runningStep
        { op := 2, sub := 2, c := 0x0007300000000000, b := 0x70109 * 2 ^ 32, a := 3, sy := 1, timeout := 9 };
    let t : Step :=
        { op := 2, sub := 2, c := 0x0007300000000000, b := 0x70109 * 2 ^ 32, a := 3, sy := 1, timeout := 9 };
    let q := seqQuadrant k;
    let n := (s.quad q).nextMsg;
    let old := (s.quad q).senders;
    let remote := if t.op = 1 then t.a else t.c;
    let near := if t.op = 1 then t.c else t.a;
    let op := if t.op = 1 then opReadReq else if t.sub = 2 then opAdd64 else opWrite;
    let len := if t.op = 2 ∧ t.sub = 2 then 8 else t.count;
    let l := messagesOf op len;
    s.stepOf k t.op t.sub = some (r, t) ∧ ((t.op = 1 ∧ t.sub = 1) ∨ (t.op = 2 ∧ t.sub ≤ 2)) ∧ s.trigsOk r t = true ∧
    r.room = true ∧ r.flights.all (fun f => f.slot < r.nextSlot) = true ∧
    s.tiles.all (fun z => z.2.owner != .step k r.nextSlot) = true ∧ gaPartition remote = r.partition ∧
    (t.op = 2 ∧ t.sub = 2 ∨
     (s.stepRange r near t.count (t.op == 1) = Status.ok ∧ (s.segOf r.context near).kind ≠ 1 ∧
      inAccelWindow (segTarget (s.segOf r.context near) near) = false)) ∧ (∀ e ∈ old, e.1 < n) ∧
    old.length + l.length ≤ 65536 ∧ 0 < len := by decide +kernel

theorem wit_KernelStepsMoveData_4_1 :
    let s : State := stepping { op := 1, a := 0x100000000000000, b := 2, c := 0x102, timeout := 9 };
    let k : Nat := 4;
    let r : Running := runningStep { op := 1, a := 0x100000000000000, b := 2, c := 0x102, timeout := 9 };
    let t : Step := { op := 1, a := 0x100000000000000, b := 2, c := 0x102, timeout := 9 };
    s.stepOf k t.op t.sub = some (r, t) ∧ s.trigsOk r t = true ∧ r.room = true := by decide +kernel

theorem wit_KernelStepsMoveData_4_2 :
    let s : State := stepping { op := 2, sub := 1, c := 0x0007100000000000, b := 2, timeout := 9 };
    let k : Nat := 4;
    let r : Running := runningStep { op := 2, sub := 1, c := 0x0007100000000000, b := 2, timeout := 9 };
    let t : Step := { op := 2, sub := 1, c := 0x0007100000000000, b := 2, timeout := 9 };
    s.stepOf k t.op t.sub = some (r, t) ∧ s.trigsOk r t = true ∧ r.room = true := by decide +kernel

theorem wit_KernelStepsMoveData_5 :
    let s : State := stepping { op := 1, a := 0, b := 0, c := 0x102, timeout := 9 };
    let k : Nat := 4;
    let r : Running := runningStep { op := 1, a := 0, b := 0, c := 0x102, timeout := 9 };
    let t : Step := { op := 1, a := 0, b := 0, c := 0x102, timeout := 9 };
    let remote := if t.op = 1 then t.a else t.c;
    s.stepOf k t.op t.sub = some (r, t) ∧ ((t.op = 1 ∧ t.sub ≤ 1) ∨ (t.op = 2 ∧ t.sub ≤ 1)) ∧ s.trigsOk r t = true ∧
    r.room = true ∧ r.flights.all (fun f => f.slot < r.nextSlot) = true ∧
    s.tiles.all (fun z => z.2.owner != .step k r.nextSlot) = true ∧ t.count = 0 ∧
    ((t.op = 1 ∧ t.sub = 0) ∨ gaPartition remote = r.partition) ∧ (t.op = 2 ∨ s.stepRange r t.c 0 true = Status.ok) ∧
    ((t.op = 1 ∧ t.sub = 1) ∨ s.stepRange r t.a 0 false = Status.ok) ∧ (s.segOf r.context t.a).kind = 2 ∧
    (s.segOf r.context t.c).kind = 2 ∧ inAccelWindow (segTarget (s.segOf r.context t.a) t.a) = false ∧
    s.flightQuiet k r.nextSlot = true := by decide +kernel

theorem wit_HostLinksGoDownAndReturn_1_1 :
    let s : State := dev;
    let port : Nat := 0;
    let h := s.host port;
    (h.linkUp = true ∨ h.ready = true) := by decide +kernel

theorem wit_HostLinksGoDownAndReturn_1_2 :
    let s : State := { dev with hosts := [(0, { ready := true, retraining := true })] };
    let port : Nat := 0;
    let h := s.host port;
    (h.linkUp = true ∨ h.ready = true) := by decide +kernel

theorem wit_HostLinksGoDownAndReturn_1_3 :
    let s : State := { dev with hosts := [(0, { ready := true })] };
    let port : Nat := 0;
    let h := s.host port;
    (h.linkUp = true ∨ h.ready = true) := by decide +kernel

theorem wit_HostLinksGoDownAndReturn_2 :
    let s : State := { dev with
                         hosts := [(0,
                                    { ready := true, retraining := true, downClk := 1900000000,
                                      held := [{ addr := 4096, bytes := [1] }],
                                      engineHeld := [{ addr := 8192, bytes := [2] }],
                                      reads := [{ tag := 3, length := 64 }] })] };
    let port : Nat := 0;
    let h := s.host port;
    h.linkUp = false ∧ h.ready = true ∧ h.retraining = true ∧ s.clk ≤ h.downClk + 160000000 := by decide +kernel

theorem wit_HostLinksGoDownAndReturn_3 :
    let s : State := withVf;
    let port : Nat := 0;
    let f : Nat := 1;
    port < 2 ∧ f / 256 = port ∧ (s.func f).present = true := by decide +kernel

theorem wit_HostLinksGoDownAndReturn_4 :
    let s : State := withVf;
    let f : Nat := 1;
    let x := s.func f;
    x.present = true ∧ isPf f = false := by decide +kernel

theorem wit_HostLinksGoDownAndReturn_5 :
    let s : State := withVf;
    let port : Nat := 0;
    let x := s.func (port * 256);
    x.present = true := by decide +kernel

theorem wit_HostLinksGoDownAndReturn_6 :
    let s : State := withVf;
    let port : Nat := 0;
    let f : Nat := 1;
    f ∈ s.vfsOf port := by decide +kernel

theorem wit_HostLinksGoDownAndReturn_7 :
    let s : State := dev;
    let f : Nat := 9;
    (s.func f).present = false := by decide +kernel

theorem wit_HostReadsEnd_1 :
    let s : State := dev;
    let port : Nat := 0;
    let tag : Nat := 5;
    (s.host port).reads.any (fun r => r.tag == tag) = false := by decide +kernel

theorem wit_HostReadsEnd_2 :
    let s : State := { dev with
                         tiles := [(4, {})],
                         hosts :=
                           [(0, { linkUp := true, reads := [{ tag := 5, purpose := .tile 4 0 8, length := 8 }] })] };
    let port : Nat := 0;
    let tag : Nat := 5;
    let r : HostRead := { tag := 5, purpose := .tile 4 0 8, length := 8 };
    let id : Nat := 4;
    let off : Nat := 0;
    let len : Nat := 8;
    let x : Tile := {};
    (s.host port).reads.find? (fun r => r.tag == tag) = some r ∧ r.purpose = .tile id off len ∧
    tblGet s.tiles id = some x := by decide +kernel

theorem wit_HostReadsEnd_3_1 :
    let s : State :=
        { dev with hosts := [(0, { linkUp := true, reads := [{ tag := 5, purpose := .probe 2, length := 8 }] })] };
    let port : Nat := 0;
    let tag : Nat := 5;
    let r : HostRead := { tag := 5, purpose := .probe 2, length := 8 };
    (s.host port).reads.find? (fun r => r.tag == tag) = some r := by decide +kernel

theorem wit_HostReadsEnd_3_2 :
    let s : State := { dev with
                         hosts := [(0,
                                    { linkUp := true,
                                      reads :=
                                        [{ tag := 5, purpose := .discard, length := 8, issuedClk := 1999999999 }] })] };
    let port : Nat := 0;
    let tag : Nat := 5;
    let r : HostRead := { tag := 5, purpose := .discard, length := 8, issuedClk := 1999999999 };
    (s.host port).reads.find? (fun r => r.tag == tag) = some r := by decide +kernel

theorem wit_HostReadsEnd_4 :
    let s : State :=
        { dev with hosts := [(0, { linkUp := true, reads := [{ tag := 5, purpose := .probe 2, length := 8 }] })] };
    let port : Nat := 0;
    let tag : Nat := 5;
    let a : Nat := 2;
    let r : HostRead := { tag := 5, purpose := .probe 2, length := 8 };
    (s.host port).reads.find? (fun r => r.tag == tag) = some r ∧ r.purpose = .probe a := by decide +kernel

theorem wit_HostReadsEnd_5_1 :
    let s : State := dev;
    let fn : Nat := 0;
    let a : Nat := 2;
    s.mmioOk fn = true ∧ isPf fn = true ∧ a < 8 := by decide +kernel

theorem wit_HostReadsEnd_5_2 :
    let s : State := dev;
    let fn : Nat := 0;
    let a : Nat := 2;
    s.mmioOk fn = true ∧ isPf fn = true ∧ a < 8 := by decide +kernel

theorem wit_HostReadsEnd_5_3 :
    let s : State := { dev with hosts := [(0, { linkUp := true, reads := [{ tag := 1, purpose := .probe 2 }] })] };
    let fn : Nat := 0;
    let a : Nat := 2;
    s.mmioOk fn = true ∧ isPf fn = true ∧ a < 8 := by decide +kernel

theorem wit_MemoryWindowServed_1 :
    let s : State := { dev with parts := [(3, { quotas := [(0, 64), (6, 1000000)] })] };
    let port : Nat := 0;
    let n : Nat := 1;
    let pick : Nat := 0;
    let u : State := ({ dev with parts := [(3, { quotas := [(0, 64), (6, 1000000)] })] }.allocBacking 0 1 0).getD dev;
    port < 2 ∧ 1 ≤ n ∧ n ≤ 1024 ∧ s.backing? port = none ∧ s.allocBacking port n pick = some u :=
  ⟨by decide, by decide, by decide, by decide +kernel, some_getD (by decide +kernel)⟩

theorem wit_MemoryWindowServed_2_1 :
    let s : State := backed;
    let port : Nat := 0;
    let n : Nat := 1;
    let pick : Nat := 0;
    (port < 2 → s.allocBacking port n pick = none ∨ (s.backing? port).isSome = true ∨ n = 0 ∨ 1024 < n) := by
  decide +kernel

theorem wit_MemoryWindowServed_2_2 :
    let s : State := { dev with funcs := [(0, { present := true })] };
    let port : Nat := 0;
    let n : Nat := 1;
    let pick : Nat := 0;
    (port < 2 → s.allocBacking port n pick = none ∨ (s.backing? port).isSome = true ∨ n = 0 ∨ 1024 < n) := by
  decide +kernel

theorem wit_MemoryWindowServed_3_1 :
    let s : State := backed;
    let port : Nat := 0;
    let fn : Nat := 0;
    let i : Nat := 6;
    let x : Placement := { placed with
                             size := 0x10000000, offset := hdmBase 0, hdmPort := some 0,
                             legs := List.replicate 128 { lpddr := true, pages := 512 } };
    fn = port * 256 ∧ s.mmioOk fn = true ∧ s.backing? port = some (i, x) ∧ s.place i = x := by decide +kernel

theorem wit_MemoryWindowServed_3_2 :
    let s : State := cxl;
    let port : Nat := 0;
    let fn : Nat := 0;
    let i : Nat := 6;
    let x : Placement := { placed with
                             size := 0x10000000, offset := hdmBase 0, hdmPort := some 0,
                             legs := List.replicate 128 { lpddr := true, pages := 512 } };
    fn = port * 256 ∧ s.mmioOk fn = true ∧ s.backing? port = some (i, x) ∧ s.place i = x := by decide +kernel

theorem wit_MemoryWindowServed_4_1 :
    let s : State := backed;
    let port : Nat := 0;
    let h := s.host port;
    let i : Nat := 6;
    let o : Nat := 64;
    let n : Nat := 4;
    let x : Placement := { placed with
                             size := 0x10000000, offset := hdmBase 0, hdmPort := some 0,
                             legs := List.replicate 128 { lpddr := true, pages := 512 } };
    let b : List Byte := [1, 2, 3, 4];
    s.mmioOk (port * 256) = true ∧ h.cxlMem = false ∧ s.backing? port = some (i, x) ∧
    s.spaceCheck x.partition (x.offset + o) n false = Status.ok ∧
    s.spaceCheck x.partition (x.offset + o) b.length true = Status.ok ∧ b.length = n ∧ s.mem.wf = true ∧ 0 < n := by
  decide +kernel

theorem wit_MemoryWindowServed_4_2 :
    let s : State := backed.modHost 0 fun h => { h with hdmLength := 0 };
    let port : Nat := 0;
    let h := s.host port;
    let i : Nat := 6;
    let o : Nat := 64;
    let n : Nat := 4;
    let x : Placement := { placed with
                             size := 0x10000000, offset := hdmBase 0, hdmPort := some 0,
                             legs := List.replicate 128 { lpddr := true, pages := 512 } };
    let b : List Byte := [1, 2, 3, 4];
    s.mmioOk (port * 256) = true ∧ h.cxlMem = false ∧ s.backing? port = some (i, x) ∧
    s.spaceCheck x.partition (x.offset + o) n false = Status.ok ∧
    s.spaceCheck x.partition (x.offset + o) b.length true = Status.ok ∧ b.length = n ∧ s.mem.wf = true ∧ 0 < n := by
  decide +kernel

theorem wit_MemoryWindowServed_5 :
    let s : State := backed;
    let port : Nat := 0;
    let h := s.host port;
    let i : Nat := 6;
    let o : Nat := 0xFFFFFFE;
    let n : Nat := 4;
    let x : Placement := { placed with
                             size := 0x10000000, offset := hdmBase 0, hdmPort := some 0,
                             legs := List.replicate 128 { lpddr := true, pages := 512 } };
    let b : List Byte := [1, 2, 3, 4];
    let size := h.hdmLength * 0x10000000;
    let part := size - o;
    s.mmioOk (port * 256) = true ∧ h.cxlMem = false ∧ s.backing? port = some (i, x) ∧ o < size ∧ size < o + n ∧
    s.spaceCheck x.partition (x.offset + o) part false = Status.ok ∧
    s.spaceCheck x.partition (x.offset + o) part true = Status.ok ∧ b.length = n ∧ s.mem.wf = true := by
  decide +kernel

theorem wit_MemoryWindowServed_6 :
    let port : Nat := 0;
    port < 2 := by decide +kernel

theorem wit_MemoryWindowServed_7_1 :
    let s : State := cxl;
    let port : Nat := 0;
    let h := s.host port;
    let i : Nat := 6;
    let line : Nat := 7;
    let x : Placement := { placed with
                             size := 0x10000000, offset := hdmBase 0, hdmPort := some 0,
                             legs := List.replicate 128 { lpddr := true, pages := 512 } };
    let b : List Byte := List.replicate 64 5;
    let a := x.offset + line * 64;
    s.backing? port = some (i, x) ∧ h.cxlMem = true ∧ h.decoder = true ∧ line * 64 < x.size ∧
    s.spaceCheck x.partition a 64 false = Status.ok ∧ s.spaceCheck x.partition a 64 true = Status.ok ∧ b.length = 64 ∧
    s.mem.wf = true := by decide +kernel

theorem wit_MemoryWindowServed_7_2 :
    let s : State := cxl;
    let port : Nat := 0;
    let h := s.host port;
    let i : Nat := 6;
    let line : Nat := 130;
    let x : Placement := { placed with
                             size := 0x10000000, offset := hdmBase 0, hdmPort := some 0,
                             legs := List.replicate 128 { lpddr := true, pages := 512 } };
    let b : List Byte := List.replicate 64 5;
    let a := x.offset + line * 64;
    s.backing? port = some (i, x) ∧ h.cxlMem = true ∧ h.decoder = true ∧ line * 64 < x.size ∧
    s.spaceCheck x.partition a 64 false = Status.ok ∧ s.spaceCheck x.partition a 64 true = Status.ok ∧ b.length = 64 ∧
    s.mem.wf = true := by decide +kernel

theorem wit_MemoryWindowServed_8_1 :
    let s : State := cxl.modHost 0 fun h => { h with biasWaits := [{ line := 130, fromHost := true }] };
    let port : Nat := 0;
    let h := s.host port;
    let page : Nat := 2;
    let wanted := h.biasWaits.any fun w => w.fromHost && w.line / 64 == page;
    (wanted = true ∨ h.biasWaits = []) := by decide +kernel

theorem wit_MemoryWindowServed_8_2 :
    let s : State := cxl;
    let port : Nat := 0;
    let h := s.host port;
    let page : Nat := 2;
    let wanted := h.biasWaits.any fun w => w.fromHost && w.line / 64 == page;
    (wanted = true ∨ h.biasWaits = []) := by decide +kernel

theorem wit_MemoryWindowServed_9_1 :
    let s : State := backed;
    let fn : Nat := 0;
    isPf fn = true ∧ s.mmioOk fn = true := by decide +kernel

theorem wit_MemoryWindowServed_9_2 :
    let s : State := backed;
    let fn : Nat := 0;
    isPf fn = true ∧ s.mmioOk fn = true := by decide +kernel

theorem wit_MemoryWindowServed_10 :
    let s : State := backed.modHost 0 fun h => { h with biasJob := some { first := 1, pages := 3 } };
    let port : Nat := 0;
    let h := s.host port;
    let j : BiasJob := { first := 1, pages := 3 };
    h.biasJob = some j := by decide +kernel

theorem wit_MemoryWindowServed_11_1 :
    let s : State := cxl.modHost 0 fun h => { h with biasWaits := [{ line := 131 }] };
    let port : Nat := 0;
    let h := s.host port;
    h.biasWaits ≠ [] := by decide +kernel

theorem wit_MemoryWindowServed_11_2 :
    let s : State := cxl.modHost 0 fun h => { h with biasWaits := [{ line := 131, owned := true }] };
    let port : Nat := 0;
    let h := s.host port;
    h.biasWaits ≠ [] := by decide +kernel

theorem wit_InterfacesLockAndStop_1_1 :
    let s : State :=
        { dev with funcs := [(0, { present := true }), (1, { present := true, bound := some 3, ideStream := true })] };
    let fn : Nat := 1;
    s.isTdi fn = true := by decide +kernel

theorem wit_InterfacesLockAndStop_1_2 :
    let s : State :=
        { dev with funcs := [(0, { present := true }), (1, { present := true, bound := some 3, tdisp := 1 })] };
    let fn : Nat := 1;
    s.isTdi fn = true := by decide +kernel

theorem wit_InterfacesLockAndStop_2 :
    let s : State := dev;
    let fn : Nat := 0;
    s.isTdi fn = false := by decide +kernel

theorem wit_InterfacesLockAndStop_3 :
    let s : State := { dev with
                         funcs := [(0, { present := true }),
                                   (1, { present := true, bound := some 3, ideStream := true, tdisp := 2 })] };
    let fn : Nat := 1;
    let x := s.func fn;
    x.present = true ∧ x.ideStream = true := by decide +kernel

theorem wit_BindingsMadeAndEnded_1 :
    let fn : Nat := 0;
    let m : Nat := 0;
    let s : State := { cmd 0x901 5
                           [4 * 2 ^ 16 + 2 ^ 14, 2 + 2 ^ 19 + 3 * 2 ^ 23 + 7 * 2 ^ 40, 9 + 8 * 2 ^ 24, 0x01020304] with
                         ports := [(4, ethPort)], queues := [(2, { partition := 3 })] };
    let k := mbxKey fn m;
    let x := s.mbx k;
    let p := s.boundTo fn;
    let pick : Nat := 6;
    let i : Nat := 6;
    let cores : Cores := .agree;
    let w0 := x.arg 0;
    let w1 := x.arg 1;
    s.Takes fn m { opcode := 0x0901, words := some 5 } ∧ s.qpArgs p (bits w0 20 16) w1 (x.arg 3) (x.arg 4) = none ∧
    s.queueBindable (bits w1 12 0) = true ∧
    choose (bit w0 14) (bits w0 13 0) (fun i => (tblGet s.qps i).isNone) (s.underQuota p 8 (s.inUse p 8) 1) 0 16384 pick
      = .index i ∧ cores ≠ .split := by decide +kernel

theorem wit_BindingsMadeAndEnded_2_1 :
    let fn : Nat := 0;
    let m : Nat := 0;
    let s : State := { cmd 0x902 1 [6] with
                         qps := [(6, { partition := 3, queue := 2 })],
                         queues := [(2,
                                     { partition := 3, bound := .queuePair 6,
                                       held := [{ phase := .running }, { index := 1 }] })] };
    let k := mbxKey fn m;
    let x := s.mbx k;
    let p := s.boundTo fn;
    let i : Nat := 6;
    let y : QueuePair := { partition := 3, queue := 2 };
    let cores : Cores := .agree;
    s.Takes fn m { opcode := 0x0902 } ∧ i = bits (x.arg 0) 13 0 ∧ tblGet s.qps i = some y ∧ y.partition = p ∧
    cores ≠ .split := by decide +kernel

theorem wit_BindingsMadeAndEnded_2_2 :
    let fn : Nat := 0;
    let m : Nat := 0;
    let s : State := { cmd 0x902 1 [6] with
                         qps := [(6, { partition := 3, queue := 2, error := true })],
                         queues := [(2, { partition := 3, bound := .queuePair 6 })] };
    let k := mbxKey fn m;
    let x := s.mbx k;
    let p := s.boundTo fn;
    let i : Nat := 6;
    let y : QueuePair := { partition := 3, queue := 2, error := true };
    let cores : Cores := .agree;
    s.Takes fn m { opcode := 0x0902 } ∧ i = bits (x.arg 0) 13 0 ∧ tblGet s.qps i = some y ∧ y.partition = p ∧
    cores ≠ .split := by decide +kernel

theorem wit_BindingsMadeAndEnded_3 :
    let fn : Nat := 0;
    let m : Nat := 0;
    let s : State := { cmd 0x903 9 [4 * 2 ^ 8, 2, 4 + 32 * 2 ^ 8, 0x01020304] with
                         ports := [(4, ethPort)], queues := [(2, { partition := 3 })] };
    let k := mbxKey fn m;
    let x := s.mbx k;
    let p := s.boundTo fn;
    let pick : Nat := 6;
    let i : Nat := 6;
    let cores : Cores := .agree;
    let q := bits (x.arg 1) 12 0;
    s.Takes fn m { opcode := 0x0903, since := 3, words := some 9 } ∧
    s.nvmeArgs p (bits (x.arg 0) 12 8) (x.arg 1) (x.arg 2) (x.arg 3) (x.arg 4) = none ∧ s.queueBindable q = true ∧
    pickFree (fun i => (tblGet s.controllers i).isNone) 0 256 pick = some i ∧ cores ≠ .split := by decide +kernel

theorem wit_BindingsMadeAndEnded_4 :
    let fn : Nat := 0;
    let m : Nat := 0;
    let s : State := { cmd 0x904 1 [6] with
                         controllers := [(6, { partition := 3, queue := 2 })],
                         queues := [(2,
                                     { partition := 3, bound := .controller 6,
                                       held := [{ phase := .running }, { index := 1 }] })] };
    let k := mbxKey fn m;
    let x := s.mbx k;
    let p := s.boundTo fn;
    let i : Nat := 6;
    let y : Controller := { partition := 3, queue := 2 };
    let cores : Cores := .agree;
    s.Takes fn m { opcode := 0x0904, since := 3 } ∧ i = bits (x.arg 0) 15 0 ∧ tblGet s.controllers i = some y ∧
    y.partition = p ∧ cores ≠ .split := by decide +kernel

theorem wit_BoundQueuesServed_1 :
    let s : State := landedFor roce (.roce 6 false);
    let port : Nat := 4;
    let qp : Nat := 6;
    let psn : Nat := 8;
    let q : QueuePair := roceQp;
    let va : W64 := 0x80000000010;
    let key : W32 := 0x70109;
    let b : List Byte := [1, 2, 3];
    let v : State := ((landedFor roce (.roce 6 false)).takeFrame 4 (.roce 6 false)).getD dev;
    let p := q.partition;
    tblGet s.qps qp = some q ∧ s.takeFrame port (.roce qp false) = some v ∧ q.error = false ∧ q.port = port ∧
    psn = q.expectPsn ∧ b.length ≤ q.bytes ∧ va.toNat < 2 ^ 44 ∧
    v.commitCheck (v.rdmaPacket q psn (.write va key b)) = Status.ok ∧ (v.region (keyIndex key)).kind = 1 ∧
    v.biasLines p va.toNat b.length true = [] ∧ v.stalled p va.toNat b.length = false ∧
    (v.toPages (port / 8) 0 p va.toNat b.length).isSome = true ∧ s.mem.wf = true := by decide +kernel

theorem wit_BoundQueuesServed_2 :
    let s : State := landedFor { roce with mem := { cells := [(3 * 2 ^ 44 + 0x80000000010, 5)] } } (.roce 6 false);
    let port : Nat := 4;
    let qp : Nat := 6;
    let psn : Nat := 8;
    let q : QueuePair := roceQp;
    let va : W64 := 0x80000000010;
    let add : W64 := 7;
    let key : W32 := 0x70109;
    let v : State := ((landedFor { roce with mem := { cells := [(3 * 2 ^ 44 + 0x80000000010, 5)] } } (.roce 6 false)).takeFrame
                          4 (.roce 6 false)).getD dev;
    let p := q.partition;
    tblGet s.qps qp = some q ∧ s.takeFrame port (.roce qp false) = some v ∧ q.error = false ∧ q.port = port ∧
    psn = q.expectPsn ∧ va.toNat < 2 ^ 44 ∧ va.toNat % 8 = 0 ∧
    v.commitCheck (v.rdmaPacket q psn (.fetchAdd va key add)) = Status.ok ∧ v.biasLines p va.toNat 8 true = [] ∧
    s.mem.wf = true := by decide +kernel

theorem wit_BoundQueuesServed_3 :
    let s : State := landedFor { roce with mem := { cells := [(3 * 2 ^ 44 + 0x80000000010, 5)] } } (.roce 6 false);
    let port : Nat := 4;
    let qp : Nat := 6;
    let psn : Nat := 8;
    let q : QueuePair := roceQp;
    let va : W64 := 0x80000000010;
    let key : W32 := 0x70109;
    let n : Nat := 16;
    let v : State := ((landedFor { roce with mem := { cells := [(3 * 2 ^ 44 + 0x80000000010, 5)] } } (.roce 6 false)).takeFrame
                          4 (.roce 6 false)).getD dev;
    let p := q.partition;
    tblGet s.qps qp = some q ∧ s.takeFrame port (.roce qp false) = some v ∧ q.error = false ∧ q.port = port ∧
    psn = q.expectPsn ∧ psn < 2 ^ 24 ∧ va.toNat < 2 ^ 44 ∧ v.readsServed port qp < 16 ∧
    v.commitCheck (v.rdmaPacket q psn (.read va key n)) = Status.ok ∧ (v.region (keyIndex key)).kind = 1 ∧
    v.biasLines p va.toNat n false = [] ∧ v.rekeyStalled p va.toNat n = false ∧ 0 < n ∧ n ≤ 4096 ∧
    (∀ c ∈ (v.quad (port / 8)).copies, c.id < (v.quad (port / 8)).nextCopy) := by decide +kernel

theorem wit_BoundQueuesServed_4_1 :
    let s : State := landedFor roce (.roce 6 false);
    let port : Nat := 4;
    let qp : Nat := 6;
    let q : QueuePair := roceQp;
    let v : State := ((landedFor roce (.roce 6 false)).takeFrame 4 (.roce 6 false)).getD dev;
    tblGet s.qps qp = some q ∧ s.takeFrame port (.roce qp false) = some v ∧ q.error = false ∧ q.port = port := by
  decide +kernel

theorem wit_BoundQueuesServed_4_2 :
    let s : State := landedFor roce (.roce 6 false);
    let port : Nat := 4;
    let qp : Nat := 6;
    let q : QueuePair := roceQp;
    let v : State := ((landedFor roce (.roce 6 false)).takeFrame 4 (.roce 6 false)).getD dev;
    tblGet s.qps qp = some q ∧ s.takeFrame port (.roce qp false) = some v ∧ q.error = false ∧ q.port = port := by
  decide +kernel

theorem wit_BoundQueuesServed_4_3 :
    let s : State := landedFor roce (.roce 6 false);
    let port : Nat := 4;
    let qp : Nat := 6;
    let q : QueuePair := roceQp;
    let v : State := ((landedFor roce (.roce 6 false)).takeFrame 4 (.roce 6 false)).getD dev;
    tblGet s.qps qp = some q ∧ s.takeFrame port (.roce qp false) = some v ∧ q.error = false ∧ q.port = port := by
  decide +kernel

theorem wit_BoundQueuesServed_4_4 :
    let s : State := landedFor roce (.roce 6 false);
    let port : Nat := 4;
    let qp : Nat := 6;
    let q : QueuePair := roceQp;
    let v : State := ((landedFor roce (.roce 6 false)).takeFrame 4 (.roce 6 false)).getD dev;
    tblGet s.qps qp = some q ∧ s.takeFrame port (.roce qp false) = some v ∧ q.error = false ∧ q.port = port := by
  decide +kernel

theorem wit_BoundQueuesServed_5_1 :
    let s : State := landedFor (requesting 3) (.roce 6 true);
    let qp : Nat := 6;
    let psn : Nat := 8;
    let q : QueuePair := requester 3;
    let r : QpRequest := { psn := 8, opcode := 3, length := 8 };
    let v : State := ((landedFor (requesting 3) (.roce 6 true)).takeFrame 4 (.roce 6 true)).getD dev;
    let before := q.requests.takeWhile fun r => !q.covers r psn;
    tblGet s.qps qp = some q ∧ s.takeFrame q.port (.roce qp true) = some v ∧ q.error = false ∧ q.held = [] ∧
    q.requests.find? (fun r => q.covers r psn) = some r ∧ before.any (fun b => b.opcode != 1) = false ∧
    (r.opcode = 1 ∨ isAtomic r.opcode = true) := by decide +kernel

theorem wit_BoundQueuesServed_5_2 :
    let s : State := landedFor (requesting 1) (.roce 6 true);
    let qp : Nat := 6;
    let psn : Nat := 8;
    let q : QueuePair := requester 1;
    let r : QpRequest := { psn := 8, opcode := 1, length := 8 };
    let v : State := ((landedFor (requesting 1) (.roce 6 true)).takeFrame 4 (.roce 6 true)).getD dev;
    let before := q.requests.takeWhile fun r => !q.covers r psn;
    tblGet s.qps qp = some q ∧ s.takeFrame q.port (.roce qp true) = some v ∧ q.error = false ∧ q.held = [] ∧
    q.requests.find? (fun r => q.covers r psn) = some r ∧ before.any (fun b => b.opcode != 1) = false ∧
    (r.opcode = 1 ∨ isAtomic r.opcode = true) := by decide +kernel

theorem wit_BoundQueuesServed_5_3 :
    let s : State := landedFor { requesting 1 with qps := [(6, longRequester)] } (.roce 6 true);
    let qp : Nat := 6;
    let psn : Nat := 8;
    let q : QueuePair := longRequester;
    let r : QpRequest := { psn := 8, opcode := 1, length := 3000 };
    let v : State :=
        ((landedFor { requesting 1 with qps := [(6, longRequester)] } (.roce 6 true)).takeFrame 4 (.roce 6 true)).getD
        dev;
    let before := q.requests.takeWhile fun r => !q.covers r psn;
    tblGet s.qps qp = some q ∧ s.takeFrame q.port (.roce qp true) = some v ∧ q.error = false ∧ q.held = [] ∧
    q.requests.find? (fun r => q.covers r psn) = some r ∧ before.any (fun b => b.opcode != 1) = false ∧
    (r.opcode = 1 ∨ isAtomic r.opcode = true) := by decide +kernel

theorem wit_BoundQueuesServed_6 :
    let s : State := landedFor (requesting 2) (.roce 6 true);
    let qp : Nat := 6;
    let psn : Nat := 8;
    let data : List Byte := [1, 2, 3, 4, 5, 6, 7, 8];
    let old : W64 := 0;
    let q : QueuePair := requester 2;
    let r : QpRequest := { psn := 8, opcode := 2, length := 8 };
    let x : Queue := requestQueue 2;
    let d : Desc := { phase := .running, opcode := 2, length := 8, localAddr := 0x80000000000, seg := partSeg };
    let v : State := ((landedFor (requesting 2) (.roce 6 true)).takeFrame 4 (.roce 6 true)).getD dev;
    let k := r.behind psn;
    let y := { q with held := [(psn, data, old)] };
    let w := v.modQp qp fun _ => y;
    let a := segTarget d.seg d.localAddr + (r.offset + k * q.bytes);
    tblGet s.qps qp = some q ∧ s.takeFrame q.port (.roce qp true) = some v ∧ q.error = false ∧ q.held = [] ∧
    q.requests.head? = some r ∧ q.covers r psn = true ∧ r.opcode = 2 ∧ k = r.acked ∧ s.queue? q.queue = some x ∧
    s.desc? q.queue r.index = some d ∧ data.length = q.part r.length k ∧ d.seg.kind ≠ 1 ∧ inAccelWindow a = false ∧
    w.spaceCheck x.partition a data.length true = Status.ok ∧ w.stalled x.partition a data.length = false ∧
    w.biasLines x.partition a data.length true = [] := by decide +kernel

theorem wit_BoundQueuesServed_7_1 :
    let s : State := landedFor (requesting 1) (.roce 6 true);
    let qp : Nat := 6;
    let psn : Nat := 8;
    let q : QueuePair := requester 1;
    let y : QueuePair := freshRequester;
    let i : W32 := 0;
    let v : State := ((landedFor (requesting 1) (.roce 6 true)).takeFrame 4 (.roce 6 true)).getD dev;
    let w := v.ackBefore qp psn;
    tblGet s.qps qp = some q ∧ s.takeFrame q.port (.roce qp true) = some v ∧ q.error = false ∧ q.requests ≠ [] ∧
    tblGet w.qps qp = some y ∧ y.requests.head?.map (fun r => r.index) = some i := by decide +kernel

theorem wit_BoundQueuesServed_7_2 :
    let s : State := landedFor (requesting 1) (.roce 6 true);
    let qp : Nat := 6;
    let psn : Nat := 8;
    let q : QueuePair := requester 1;
    let y : QueuePair := freshRequester;
    let i : W32 := 0;
    let v : State := ((landedFor (requesting 1) (.roce 6 true)).takeFrame 4 (.roce 6 true)).getD dev;
    let w := v.ackBefore qp psn;
    tblGet s.qps qp = some q ∧ s.takeFrame q.port (.roce qp true) = some v ∧ q.error = false ∧ q.requests ≠ [] ∧
    tblGet w.qps qp = some y ∧ y.requests.head?.map (fun r => r.index) = some i := by decide +kernel

theorem wit_BoundQueuesServed_7_3 :
    let s : State := landedFor (requesting 1) (.roce 6 true);
    let qp : Nat := 6;
    let psn : Nat := 8;
    let q : QueuePair := requester 1;
    let y : QueuePair := freshRequester;
    let i : W32 := 0;
    let v : State := ((landedFor (requesting 1) (.roce 6 true)).takeFrame 4 (.roce 6 true)).getD dev;
    let w := v.ackBefore qp psn;
    tblGet s.qps qp = some q ∧ s.takeFrame q.port (.roce qp true) = some v ∧ q.error = false ∧ q.requests ≠ [] ∧
    tblGet w.qps qp = some y ∧ y.requests.head?.map (fun r => r.index) = some i := by decide +kernel

theorem wit_BoundQueuesServed_8_1 :
    let s : State := requesting 1;
    let qp : Nat := 6;
    let q : QueuePair := requester 1;
    let i : W32 := 0;
    tblGet s.qps qp = some q ∧ q.error = false ∧ q.rnrUntil = none ∧ s.qpWaiting q.port qp = false ∧
    q.requests.head?.map (fun r => r.index) = some i ∧ q.cc.lastUse + q.timeout ≤ s.clk := by decide +kernel

theorem wit_BoundQueuesServed_8_2 :
    let s : State := { requesting 1 with qps := [(6, { requester 1 with retriesLeft := 0 })] };
    let qp : Nat := 6;
    let q : QueuePair := { requester 1 with retriesLeft := 0 };
    let i : W32 := 0;
    tblGet s.qps qp = some q ∧ q.error = false ∧ q.rnrUntil = none ∧ s.qpWaiting q.port qp = false ∧
    q.requests.head?.map (fun r => r.index) = some i ∧ q.cc.lastUse + q.timeout ≤ s.clk := by decide +kernel

theorem wit_BoundQueuesServed_9 :
    let s : State := landedFor (requesting 1) (.roce 6 true);
    let qp : Nat := 6;
    let q : QueuePair := requester 1;
    let v : State := ((landedFor (requesting 1) (.roce 6 true)).takeFrame 4 (.roce 6 true)).getD dev;
    tblGet s.qps qp = some q ∧ s.takeFrame q.port (.roce qp true) = some v := by decide +kernel

theorem wit_BoundQueuesServed_10_1 :
    let s : State := landedFor storing (.nvme 6 false);
    let c : Nat := 6;
    let id : Nat := 4;
    let status : Nat := 5;
    let x : Controller := stored;
    let y : NvmeCmd := { id := 4, opcode := 1, length := 512 };
    let u : State := ((landedFor storing (.nvme 6 false)).takeFrames 4 (.nvme 6 false)).getD dev;
    tblGet s.controllers c = some x ∧ s.takeFrames x.port (.nvme c x.tcp) = some u ∧ x.held = [] ∧
    x.commands.find? (fun k => k.id == id) = some y ∧ (status ≠ 0 ∨ y.opcode = 6) := by decide +kernel

theorem wit_BoundQueuesServed_10_2 :
    let s : State := landedFor
        { storing with controllers := [(6, { stored with commands := [{ id := 4, opcode := 6, nsid := 1 }] })] }
        (.nvme 6 false);
    let c : Nat := 6;
    let id : Nat := 4;
    let status : Nat := 0;
    let x : Controller := { stored with commands := [{ id := 4, opcode := 6, nsid := 1 }] };
    let y : NvmeCmd := { id := 4, opcode := 6, nsid := 1 };
    let u : State := ((landedFor { storing with
                                     controllers :=
                                       [(6, { stored with commands := [{ id := 4, opcode := 6, nsid := 1 }] })] }
                           (.nvme 6 false)).takeFrames 4 (.nvme 6 false)).getD dev;
    tblGet s.controllers c = some x ∧ s.takeFrames x.port (.nvme c x.tcp) = some u ∧ x.held = [] ∧
    x.commands.find? (fun k => k.id == id) = some y ∧ (status ≠ 0 ∨ y.opcode = 6) := by decide +kernel

theorem wit_BoundQueuesServed_11 :
    let s : State := landedFor storing (.nvme 6 false);
    let c : Nat := 6;
    let id : Nat := 4;
    let data : List Byte := [];
    let x : Controller := stored;
    let y : NvmeCmd := { id := 4, opcode := 1, length := 512 };
    let d : Desc := { phase := .running, opcode := 1, length := 512 };
    let u : State := ((landedFor storing (.nvme 6 false)).takeFrames 4 (.nvme 6 false)).getD dev;
    let w : State := (((landedFor storing (.nvme 6 false)).takeFrames 4 (.nvme 6 false)).getD dev).modCtl 6 fun x =>
        { x with held := [(4, 0, [])] };
    let z := u.modCtl c fun x => { x with held := [(id, 0, data)] };
    tblGet s.controllers c = some x ∧ s.takeFrames x.port (.nvme c x.tcp) = some u ∧ x.held = [] ∧
    x.commands.find? (fun k => k.id == id) = some y ∧ s.desc? x.queue y.index = some d ∧
    ((y.opcode < 2 ∧ w = z) ∨
     (y.opcode = 2 ∧ data.length = y.length ∧
      (z.localWrite (.desc x.queue y.index) x.partition d.seg d.localAddr y.offset
         (sectorCipher true (s.storageKey x.partition x.keyId y.nsid) x.sector
            ((bits d.remote.toNat 47 0 + y.offset) / x.sector) data)).done? = some w)) ∧
    (s.queue? x.queue).map (fun q => q.partition) = some x.partition := by decide +kernel

theorem wit_BoundQueuesServed_12 :
    let s : State := { storing with clk := 8000000000 };
    let c : Nat := 6;
    let x : Controller := stored;
    tblGet s.controllers c = some x ∧ x.failed = false ∧ x.lastKeepAlive + us 5000000 ≤ s.clk := by decide +kernel

theorem wit_BoundQueuesServed_13 :
    let s : State := storing;
    let c : Nat := 6;
    let x : Controller := stored;
    tblGet s.controllers c = some x ∧ x.failed = false := by decide +kernel

theorem wit_EthernetPortsServe_1_1 :
    let s : State := roce;
    let port : Nat := 4;
    let x := (s.port port).eth;
    s.isEth port = true ∧ x.counters.length = 10 := by decide +kernel

theorem wit_EthernetPortsServe_1_2 :
    let s : State := roce;
    let port : Nat := 4;
    let x := (s.port port).eth;
    s.isEth port = true ∧ x.counters.length = 10 := by decide +kernel

theorem wit_EthernetPortsServe_1_3 :
    let s : State := roce;
    let port : Nat := 4;
    let x := (s.port port).eth;
    s.isEth port = true ∧ x.counters.length = 10 := by decide +kernel

theorem wit_EthernetPortsServe_1_4 :
    let s : State := roce;
    let port : Nat := 4;
    let x := (s.port port).eth;
    s.isEth port = true ∧ x.counters.length = 10 := by decide +kernel

theorem wit_EthernetPortsServe_1_5 :
    let s : State :=
        { roce with ports := [(4, { ethPort with eth := { ethPort.eth with buffer := [{ length := 524288 }] } })] };
    let port : Nat := 4;
    let x := (s.port port).eth;
    s.isEth port = true ∧ x.counters.length = 10 := by decide +kernel

theorem wit_EthernetPortsServe_2 :
    let s : State := dev;
    let port : Nat := 4;
    s.isEth port = false := by decide +kernel

theorem wit_EthernetPortsServe_3_1 :
    let s : State := { roce with
                         ports := [(4,
                                    { ethPort with
                                      eth := { ethPort.eth with buffer := [{ kind := .roce 6 false, ce := true }] } })] };
    let port : Nat := 4;
    let x := (s.port port).eth;
    let f : Frame := { kind := .roce 6 false, ce := true };
    let rest : List Frame := [];
    x.buffer = f :: rest := by decide +kernel

theorem wit_EthernetPortsServe_3_2 :
    let s : State :=
        { roce with ports := [(4, { ethPort with eth := { ethPort.eth with buffer := [{ kind := .nvme 6 true }] } })] };
    let port : Nat := 4;
    let x := (s.port port).eth;
    let f : Frame := { kind := .nvme 6 true };
    let rest : List Frame := [];
    x.buffer = f :: rest := by decide +kernel

theorem wit_EthernetPortsServe_3_3 :
    let s : State :=
        { roce with ports := [(4, { ethPort with eth := { ethPort.eth with buffer := [{ kind := .ptp }] } })] };
    let port : Nat := 4;
    let x := (s.port port).eth;
    let f : Frame := { kind := .ptp };
    let rest : List Frame := [];
    x.buffer = f :: rest := by decide +kernel

theorem wit_EthernetPortsServe_4 :
    let s : State := { roce with
                         ports := [(4,
                                    { ethPort with
                                      eth := { ethPort.eth with buffer := [{ kind := .roce 6 false, ce := true }] } })] };
    let port : Nat := 4;
    let x := (s.port port).eth;
    let f : Frame := { kind := .roce 6 false, ce := true };
    let rest : List Frame := [];
    let qp : Nat := 6;
    let response : Bool := false;
    let q : QueuePair := roceQp;
    x.buffer = f :: rest ∧ f.kind = .roce qp response ∧ f.ce = true ∧
    (s.quad (port / 8)).pool 0 + poolSpace f.length ≤ poolSize 0 ∧ tblGet s.qps qp = some q ∧
    (∀ c, q.lastCnp = some c → c + us 50 ≤ s.clk) := by decide +kernel

theorem wit_EthernetPortsServe_5_1 :
    let s : State := roce;
    let port : Nat := 4;
    s.isEth port = true := by decide +kernel

theorem wit_EthernetPortsServe_5_2 :
    let s : State := roce;
    let port : Nat := 4;
    s.isEth port = true := by decide +kernel

theorem wit_EthernetPortsServe_7 :
    let s : State := roce;
    let port : Nat := 4;
    let x := (s.port port).eth;
    s.isEth port = true ∧ x.ip4 ≠ 0 := by decide +kernel

theorem wit_EthernetPortsServe_8 :
    let s : State := { roce with ports := [(4, { ethPort with eth := { ip6lo := 9 } })] };
    let port : Nat := 4;
    let x := (s.port port).eth;
    let target : BitVec 128 := 9;
    s.isEth port = true ∧ x.ip6hi.toNat * 2 ^ 64 + x.ip6lo.toNat = target.toNat ∧ target ≠ 0 := by decide +kernel

theorem wit_EthernetPortsServe_9 :
    let s : State :=
        { roce with mer := { now := 100, appointments := [{ kind := .gateSwap 4, time := 90, quadrants := [0] }] } };
    let port : Nat := 4;
    let a : Appointment := { kind := .gateSwap 4, time := 90, quadrants := [0] };
    s.appt? (.gateSwap port) = some a ∧ a.left = [port / 8] ∧ port < 32 ∧ a.period = 0 ∧
    s.apptFiresIn (.gateSwap port) (port / 8) = true := by decide +kernel

theorem wit_EthernetPortsServe_10 :
    let s : State := { roce with
                         mer := { now := 100 },
                         ports := [(4, { ethPort with eth := { takeover := some 100, pending := some {} } })] };
    let port : Nat := 4;
    let x := (s.port port).eth;
    let b : Nat := 100;
    let g : GateList := {};
    x.takeover = some b ∧ x.pending = some g ∧ b ≤ s.mtPort port := by decide +kernel

theorem wit_FirmwareImagesAndDiagnosis_1 :
    let fn : Nat := 0;
    let m : Nat := 0;
    let s : State := withMbx (cmd 0x104 1 [1]) (fun x => { x with
                                                             bulk := some
                                                               { kind := 2, length := 2048, objectId := 1,
                                                                 writing := true, nextChunk := 8, data := image } });
    let k := mbxKey fn m;
    let b : Bulk := { kind := 2, length := 2048, objectId := 1, writing := true, nextChunk := 8, data := image };
    let ok : Bool := true;
    let i := b.objectId.toNat;
    s.Takes fn m closeCmd ∧ s.committing k = some b ∧ b.kind = 2 ∧ s.asOpened fn b = none ∧ s.power.flashWpN = true ∧
    i ≠ s.fw.selector ∧ imageFault s.firstServe.fw.floor b.data ok = none :=
  ⟨by decide +kernel, rfl, rfl, rfl, rfl, by decide +kernel, image_passes⟩

theorem wit_FirmwareImagesAndDiagnosis_2 :
    let fn : Nat := 0;
    let m : Nat := 0;
    let s : State := { cmd 0x801 1 [1] with fw := { dev.fw with slot1 := { svn := 2, image := [1] } } };
    let k := mbxKey fn m;
    let x := s.mbx k;
    let ok : Bool := true;
    let i := x.arg 0 % 2;
    s.Takes fn m { opcode := 0x0801, rights := .pf0, diag := true, needsKey := false } ∧ s.power.flashWpN = true ∧
    (s.fw.slot i).present = true ∧ ok = true ∧ s.firstServe.fw.floor ≤ (s.fw.slot i).svn := by decide +kernel

theorem wit_FirmwareImagesAndDiagnosis_3 :
    let s : State := dev;
    let slot : Nat := 1;
    let image : List Byte := Tests.image;
    let ok : Bool := true;
    s.fw.alive = true ∧ s.power.state = .on ∧ s.power.flashWpN = true ∧ slot < 2 ∧ slot ≠ s.fw.selector ∧
    imageFault s.fw.floor image ok = none :=
  ⟨rfl, rfl, rfl, by decide, by decide +kernel, image_passes⟩

theorem wit_FirmwareImagesAndDiagnosis_4 :
    let fn : Nat := 0;
    let m : Nat := 0;
    let s : State := cmd 0x802 0 [];
    s.Takes fn m { opcode := 0x0802, rights := .pf, words := some 0, diag := true, needsKey := false } := by
  decide +kernel

theorem wit_FirmwareImagesAndDiagnosis_5 :
    let fn : Nat := 0;
    let m : Nat := 0;
    let s : State := { cmd 0x803 0 [] with parts := [(3, { keyed := true, dump := some {} })] };
    s.Takes fn m { opcode := 0x0803, rights := .any, words := some 0, diag := true, needsKey := false } := by
  decide +kernel

theorem wit_FirmwareImagesAndDiagnosis_6 :
    let fn : Nat := 0;
    let m : Nat := 0;
    let s : State := withMbx { dev with fw := { dev.fw with sealing := true } }
        (fun x => { x with busy := true, wait := some (.sealedState 0 0 [5]) });
    let k := mbxKey fn m;
    let x := s.mbx k;
    let st : Nat := 0;
    let d : Nat := 0;
    let ws : List W64 := [5];
    s.fw.sealing = true ∧ s.fw.alive = true ∧ s.mailboxes = [(k, x)] ∧ x.wait = some (.sealedState st d ws) := by
  decide +kernel

theorem wit_RekeyWalksMemory_1 :
    let s : State := cmd 0x701 0 [];
    let fn : Nat := 0;
    let m : Nat := 0;
    let cores : Cores := .agree;
    let p := s.boundTo fn;
    s.Takes fn m { opcode := 0x0701, since := 3, words := some 0 } ∧ (s.part p).rekey = none ∧ cores ≠ .split := by
  decide +kernel

theorem wit_RekeyWalksMemory_2 :
    let s : State := { cmd 0x702 0 [] with
                         parts := [(3, { keyed := true, rekey := some { old := 0, new := 1, pointer := 0x100000 } })] };
    let fn : Nat := 0;
    let m : Nat := 0;
    s.Takes fn m { opcode := 0x0702, since := 3, words := some 0 } := by decide +kernel

theorem wit_RekeyWalksMemory_3_1 :
    let s : State := { dev with parts := [(3, { rekey := some { old := 0, new := 1 } })] };
    let p : Nat := 3;
    let r : Rekey := { old := 0, new := 1 };
    (s.part p).rekey = some r ∧ r.staged = false ∧ s.rekeyUnsealed p = false ∧ s.rekeyHolds p r.pointer = false ∧
    r.pointer + 0x100000 < 0x8000000000 := by decide +kernel

theorem wit_RekeyWalksMemory_3_2 :
    let s : State := { dev with parts := [(3, { rekey := some { old := 0, new := 1, pointer := 0x1FFF00000 } })] };
    let p : Nat := 3;
    let r : Rekey := { old := 0, new := 1, pointer := 0x1FFF00000 };
    (s.part p).rekey = some r ∧ r.staged = false ∧ s.rekeyUnsealed p = false ∧ s.rekeyHolds p r.pointer = false ∧
    r.pointer + 0x100000 < 0x8000000000 := by decide +kernel

theorem wit_RekeyWalksMemory_4 :
    let s : State := rekeying;
    let p : Nat := 3;
    let r : Rekey := rekeyed;
    (s.part p).rekey = some r ∧ r.staged = false ∧ s.rekeyUnsealed p = false ∧ s.rekeyHolds p r.pointer = true ∧
    (s.power.holders.any fun l => l.purpose == .rekey p) = false ∧
    (s.power.secondQueue.any fun l => l.purpose == .rekey p) = false := by decide +kernel

theorem wit_RekeyWalksMemory_5 :
    let s : State :=
        { rekeying with power := { dev.power with holders := [{ id := 0, purpose := .rekey 3, load := 6000 }] } };
    let p : Nat := 3;
    let r : Rekey := rekeyed;
    (s.part p).rekey = some r ∧ r.staged = false ∧ s.rekeyUnsealed p = false ∧ s.rekeyHolds p r.pointer = true ∧
    (s.power.holders.any fun l => l.purpose == .rekey p) = true := by decide +kernel

theorem wit_RekeyWalksMemory_6 :
    let s : State := { dev with parts := [(3, { rekey := some { old := 0, new := 1, staged := true } })] };
    let p : Nat := 3;
    let r : Rekey := { old := 0, new := 1, staged := true };
    (s.part p).rekey = some r ∧ r.staged = true ∧ r.pointer + 0x100000 < 0x8000000000 := by decide +kernel

theorem wit_KeyboxCommands_1 :
    let s : State := State.reset;
    let n : Nat := 0x1F;
    s.kbx.owner = 0 ∧ kbxMaster n = true := by decide +kernel

theorem wit_KeyboxCommands_2 :
    let s : State := { State.reset with kbx := { owner := 2 } };
    s.kbx.owner ≠ 0 := by decide +kernel

theorem wit_KeyboxCommands_3 :
    let s : State := { State.reset with kbx := { owner := 2, key := 7 } };
    let n : Nat := 2;
    s.kbx.owner = n ∧ n ≠ 0 := by decide +kernel

theorem wit_KeyboxCommands_4 :
    let s : State := { State.reset with kbx := { owner := 2, key := 7 } };
    let n : Nat := 3;
    s.kbx.owner ≠ n := by decide +kernel

theorem wit_KeyboxCommands_5 :
    let s : State := { State.reset with kbx := { owner := 2 } };
    let n : Nat := 2;
    let v : W32 := 0x13;
    s.kbx.owner = n ∧ n ≠ 0 ∧ bits v.toNat 7 4 < 2 := by decide +kernel

theorem wit_KeyboxCommands_6 :
    let s : State := { State.reset with kbx := { owner := 2, busy := true } };
    s.kbx.busy = true ∧ s.kbx.dueClk ≤ s.clk := by decide +kernel

theorem wit_KeyboxCommands_7 :
    let s : State := { dev with kbx := { owner := 2 } };
    s.kbx.owner ≠ 0 ∧ s.kbx.claimedClk + us 10000 ≤ s.clk := by decide +kernel

set_option maxRecDepth 20000 in
theorem wit_KeySessionCommands_1 :
    let fn : Nat := 0;
    let m : Nat := 0;
    let s : State := { keyWrite 2 acceptBytes { next := 2 } with parts := [(3, { session := some { next := 2 } })] };
    let k := mbxKey fn m;
    let p := s.boundTo fn;
    let b : Bulk := keyBulk 2 acceptBytes;
    let y : KeySession := { next := 2 };
    let owner := shake256 (slice b.data 1576 1793) 64;
    s.Takes fn m closeCmd ∧ s.committing k = some b ∧ b.kind = 8 ∧ b.objectId = 2 ∧ s.asOpened fn b = none ∧
    (s.part p).session = some y ∧ y.next = 2 ∧ b.data.length = 4660 ∧ field b.data 0 4 = 2 ∧ field b.data 4 4 = y.id ∧
    ((s.part p).keyed = true → (s.part p).owner = owner) :=
  ⟨by decide +kernel, rfl, rfl, rfl, rfl, rfl, rfl, by simp [keyBulk, acceptBytes, leBytes], by decide +kernel, by decide +kernel,
    fun h => nomatch h⟩

theorem wit_KeySessionCommands_2 :
    let fn : Nat := 0;
    let m : Nat := 0;
    let s : State :=
        { sealedWrite (leBytes 4 1 ++ List.replicate 32 7) with parts := [(3, { session := some keyed })] };
    let k := mbxKey fn m;
    let p := s.boundTo fn;
    let b : Bulk := sealedBulk (leBytes 4 1 ++ List.replicate 32 7);
    let y : KeySession := keyed;
    let plain : List Byte := leBytes 4 1 ++ List.replicate 32 7;
    let cores : Cores := .agree;
    s.Takes fn m closeCmd ∧ s.committing k = some b ∧ b.kind = 8 ∧ b.objectId.toNat % 2 = 1 ∧ s.asOpened fn b = none ∧
    (s.part p).session = some y ∧ y.openCmd b.data = some plain ∧ y.envelopeOk b = true ∧ field plain 0 1 = 1 ∧
    plain.length = 36 ∧ (s.part p).keyed = false ∧ cores ≠ .split :=
  ⟨by decide +kernel, rfl, by decide +kernel, by decide +kernel, by decide +kernel, rfl,
   openCmd_seal keyed (by decide) keyHead _ (by decide), by decide +kernel, by decide +kernel, by decide +kernel,
   by decide +kernel, by decide +kernel⟩

theorem wit_KeySessionCommands_3 :
    let fn : Nat := 0;
    let m : Nat := 0;
    let s : State := { sealedWrite (leBytes 4 2 ++ leBytes 3 9 ++ leBytes 4 5) with
                         parts := [(3, { keyed := true, session := some keyed, jobs := [(9, {})] })] };
    let k := mbxKey fn m;
    let p := s.boundTo fn;
    let b : Bulk := sealedBulk (leBytes 4 2 ++ leBytes 3 9 ++ leBytes 4 5);
    let y : KeySession := keyed;
    let plain : List Byte := leBytes 4 2 ++ leBytes 3 9 ++ leBytes 4 5;
    let z : Job := {};
    let cores : Cores := .agree;
    let j := field plain 4 3;
    s.Takes fn m closeCmd ∧ s.committing k = some b ∧ b.kind = 8 ∧ b.objectId.toNat % 2 = 1 ∧ s.asOpened fn b = none ∧
    (s.part p).session = some y ∧ y.openCmd b.data = some plain ∧ y.envelopeOk b = true ∧ field plain 0 1 = 2 ∧
    plain.length = 11 ∧ (s.part p).keyed = true ∧ s.job? p j = some z ∧ cores ≠ .split :=
  ⟨by decide +kernel, rfl, by decide +kernel, by decide +kernel, by decide +kernel, rfl,
   openCmd_seal keyed (by decide) keyHead _ (by decide), by decide +kernel, by decide +kernel, by decide +kernel,
   by decide +kernel, by decide +kernel, by decide +kernel⟩

theorem wit_KeySessionCommands_4 :
    let fn : Nat := 0;
    let m : Nat := 0;
    let s : State :=
        { sealedWrite (leBytes 4 3 ++ leBytes 4 1 ++ leBytes 4 1 ++ leBytes 8 16000000) with
          mer := { lock := .locked } };
    let k := mbxKey fn m;
    let p := s.boundTo fn;
    let b : Bulk := sealedBulk (leBytes 4 3 ++ leBytes 4 1 ++ leBytes 4 1 ++ leBytes 8 16000000);
    let y : KeySession := keyed;
    let plain : List Byte := leBytes 4 3 ++ leBytes 4 1 ++ leBytes 4 1 ++ leBytes 8 16000000;
    let cores : Cores := .agree;
    let gen := field plain 8 4;
    let due := field plain 12 8;
    s.Takes fn m closeCmd ∧ s.committing k = some b ∧ b.kind = 8 ∧ b.objectId.toNat % 2 = 1 ∧ s.asOpened fn b = none ∧
    (s.part p).session = some y ∧ y.openCmd b.data = some plain ∧ y.envelopeOk b = true ∧ field plain 0 1 = 3 ∧
    plain.length = 20 ∧ (s.part p).keyed = true ∧ field plain 4 1 = 1 ∧ gen = (s.part p).fabric.current + 1 ∧
    (s.part p).fabric.pending = none ∧ (s.mbx k).doorbellMt + mtUs 500 ≤ due ∧
    due ≤ (s.mbx k).doorbellMt + mtUs 60000000 ∧ s.mer.lock ≠ .unlocked ∧ s.apptRoom [0, 1, 2, 3] = true ∧
    cores ≠ .split :=
  ⟨by decide +kernel, rfl, by decide +kernel, by decide +kernel, by decide +kernel, rfl,
   openCmd_seal keyed (by decide) keyHead _ (by decide), by decide +kernel, by decide +kernel, by decide +kernel,
   by decide +kernel, by decide +kernel, by decide +kernel, by decide +kernel, by decide +kernel, by decide +kernel,
   by decide +kernel, by decide +kernel, by decide +kernel⟩

theorem wit_KeySessionCommands_5 :
    let fn : Nat := 0;
    let m : Nat := 0;
    let s : State := { sealedWrite (leBytes 4 3 ++ leBytes 1 3 ++ leBytes 3 9 ++ leBytes 4 1 ++ leBytes 8 16000000) with
                         mer := { lock := .locked },
                         parts := [(3, { keyed := true, session := some keyed, jobs := [(9, { key := some {} })] })] };
    let k := mbxKey fn m;
    let p := s.boundTo fn;
    let b : Bulk := sealedBulk (leBytes 4 3 ++ leBytes 1 3 ++ leBytes 3 9 ++ leBytes 4 1 ++ leBytes 8 16000000);
    let y : KeySession := keyed;
    let plain : List Byte := leBytes 4 3 ++ leBytes 1 3 ++ leBytes 3 9 ++ leBytes 4 1 ++ leBytes 8 16000000;
    let z : Job := { key := some {} };
    let g : KeyGens := {};
    let cores : Cores := .agree;
    let gen := field plain 8 4;
    let due := field plain 12 8;
    let j := field plain 5 3;
    s.Takes fn m closeCmd ∧ s.committing k = some b ∧ b.kind = 8 ∧ b.objectId.toNat % 2 = 1 ∧ s.asOpened fn b = none ∧
    (s.part p).session = some y ∧ y.openCmd b.data = some plain ∧ y.envelopeOk b = true ∧ field plain 0 1 = 3 ∧
    plain.length = 20 ∧ (s.part p).keyed = true ∧ field plain 4 1 = 3 ∧ s.job? p j = some z ∧ z.key = some g ∧
    gen = g.current + 1 ∧ g.pending = none ∧ (s.mbx k).doorbellMt + mtUs 500 ≤ due ∧
    due ≤ (s.mbx k).doorbellMt + mtUs 60000000 ∧ s.mer.lock ≠ .unlocked ∧ s.apptRoom [0, 1, 2, 3] = true ∧
    cores ≠ .split :=
  ⟨by decide +kernel, rfl, by decide +kernel, by decide +kernel, by decide +kernel, rfl,
   openCmd_seal keyed (by decide) keyHead _ (by decide), by decide +kernel, by decide +kernel, by decide +kernel,
   by decide +kernel, by decide +kernel, by decide +kernel, by decide +kernel, by decide +kernel, by decide +kernel,
   by decide +kernel, by decide +kernel, by decide +kernel, by decide +kernel, by decide +kernel⟩

theorem wit_KeySessionCommands_6 :
    let fn : Nat := 0;
    let m : Nat := 0;
    let s : State := sealedWrite (leBytes 4 4 ++ List.replicate 25 0);
    let k := mbxKey fn m;
    let p := s.boundTo fn;
    let b : Bulk := sealedBulk (leBytes 4 4 ++ List.replicate 25 0);
    let y : KeySession := keyed;
    let plain : List Byte := leBytes 4 4 ++ List.replicate 25 0;
    let cores : Cores := .agree;
    let fam := field plain 20 1;
    s.Takes fn m closeCmd ∧ s.committing k = some b ∧ b.kind = 8 ∧ b.objectId.toNat % 2 = 1 ∧ s.asOpened fn b = none ∧
    (s.part p).session = some y ∧ y.openCmd b.data = some plain ∧ y.envelopeOk b = true ∧ field plain 0 1 = 4 ∧
    plain.length = 29 ∧ (s.part p).keyed = true ∧ fam < 2 ∧ cores ≠ .split :=
  ⟨by decide +kernel, rfl, by decide +kernel, by decide +kernel, by decide +kernel, rfl,
   openCmd_seal keyed (by decide) keyHead _ (by decide), by decide +kernel, by decide +kernel, by decide +kernel,
   by decide +kernel, by decide +kernel, by decide +kernel⟩

theorem wit_KeySessionCommands_7 :
    let fn : Nat := 0;
    let m : Nat := 0;
    let s : State := { sealedWrite (leBytes 4 5 ++ List.replicate 17 0) with
                         parts :=
                           [(3, { keyed := true, session := some keyed, sas := [{ ip := List.replicate 16 0 }] })] };
    let k := mbxKey fn m;
    let p := s.boundTo fn;
    let b : Bulk := sealedBulk (leBytes 4 5 ++ List.replicate 17 0);
    let y : KeySession := keyed;
    let plain : List Byte := leBytes 4 5 ++ List.replicate 17 0;
    let a : SecAssoc := { ip := List.replicate 16 0 };
    let cores : Cores := .agree;
    let ip := slice plain 4 16;
    let fam := field plain 20 1;
    s.Takes fn m closeCmd ∧ s.committing k = some b ∧ b.kind = 8 ∧ b.objectId.toNat % 2 = 1 ∧ s.asOpened fn b = none ∧
    (s.part p).session = some y ∧ y.openCmd b.data = some plain ∧ y.envelopeOk b = true ∧ field plain 0 1 = 5 ∧
    plain.length = 21 ∧ (s.part p).keyed = true ∧ (s.part p).sa? ip fam = some a ∧ s.saUsed p ip fam = false ∧
    cores ≠ .split :=
  ⟨by decide +kernel, rfl, by decide +kernel, by decide +kernel, by decide +kernel, rfl,
   openCmd_seal keyed (by decide) keyHead _ (by decide), by decide +kernel, by decide +kernel, by decide +kernel,
   by decide +kernel, by decide +kernel, by decide +kernel, by decide +kernel⟩

theorem wit_KeySessionCommands_8 :
    let fn : Nat := 0;
    let m : Nat := 0;
    let s : State := sealedWrite (leBytes 4 6);
    let k := mbxKey fn m;
    let p := s.boundTo fn;
    let b : Bulk := sealedBulk (leBytes 4 6);
    let y : KeySession := keyed;
    let plain : List Byte := leBytes 4 6;
    s.Takes fn m closeCmd ∧ s.committing k = some b ∧ b.kind = 8 ∧ b.objectId.toNat % 2 = 1 ∧ s.asOpened fn b = none ∧
    (s.part p).session = some y ∧ y.openCmd b.data = some plain ∧ y.envelopeOk b = true ∧ field plain 0 1 = 6 ∧
    plain.length = 4 :=
  ⟨by decide +kernel, rfl, by decide +kernel, by decide +kernel, by decide +kernel, rfl,
   openCmd_seal keyed (by decide) keyHead _ (by decide), by decide +kernel, by decide +kernel, by decide +kernel⟩

theorem wit_KeySessionCommands_9 :
    let s : State := { dev with clk := 16000000000, parts := [(3, { session := some {} })] };
    let q : Nat := 3;
    let y : KeySession := {};
    (s.part q).session = some y ∧ y.lastClk + us 10000000 ≤ s.clk := by decide +kernel

theorem wit_SpdmResponds_1_1 :
    let s : State := dev;
    let ep : Nat := 3;
    s.spdmServes ep = false := by decide +kernel

theorem wit_SpdmResponds_1_2 :
    let s : State := { dev with fw := { dev.fw with mode := .recovery } };
    let ep : Nat := 0;
    s.spdmServes ep = false := by decide +kernel

theorem wit_SpdmResponds_2_1 :
    let s : State := responder {};
    let ep : Nat := 0;
    s.spdmServes ep = true := by decide +kernel

theorem wit_SpdmResponds_2_2 :
    let s : State := responder { version := 0x10 };
    let ep : Nat := 0;
    s.spdmServes ep = true := by decide +kernel

theorem wit_SpdmResponds_2_3 :
    let s : State := responder { version := 0x10 };
    let ep : Nat := 0;
    s.spdmServes ep = true := by decide +kernel

theorem wit_SpdmResponds_2_4 :
    let s : State := responder { version := 0x12, capabilities := true };
    let ep : Nat := 0;
    s.spdmServes ep = true := by decide +kernel

theorem wit_SpdmResponds_2_5 :
    let s : State := responder { version := 0x12, capabilities := true };
    let ep : Nat := 0;
    s.spdmServes ep = true := by decide +kernel

theorem wit_SpdmResponds_3 :
    let s : State := responder { version := 0x12, capabilities := true };
    let ep : Nat := 0;
    let x := s.spdmOf ep;
    s.spdmServes ep = true ∧ x.algorithms = false := by decide +kernel

theorem wit_SpdmResponds_4_1 :
    let s : State := responder { version := 0x12, capabilities := true, algorithms := true };
    let ep : Nat := 0;
    let x := s.spdmOf ep;
    s.spdmServes ep = true ∧ x.algorithms = true := by decide +kernel

theorem wit_SpdmResponds_4_2 :
    let s : State := responder { version := 0x12, capabilities := true, algorithms := true };
    let ep : Nat := 0;
    let x := s.spdmOf ep;
    s.spdmServes ep = true ∧ x.algorithms = true := by decide +kernel

theorem wit_SpdmResponds_4_3 :
    let s : State := responder { version := 0x12, capabilities := true, algorithms := true };
    let ep : Nat := 0;
    let x := s.spdmOf ep;
    s.spdmServes ep = true ∧ x.algorithms = true := by decide +kernel

theorem wit_SpdmResponds_5_1 :
    let s : State := responder { version := 0x12, capabilities := true, algorithms := true };
    let ep : Nat := 0;
    let x := s.spdmOf ep;
    s.spdmServes ep = true ∧ x.algorithms = true := by decide +kernel

theorem wit_SpdmResponds_5_2 :
    let s : State := responder { version := 0x12, capabilities := true, algorithms := true,
                                   sessions := [(0, true, 0), (1, true, 0), (2, true, 0), (3, true, 0)] };
    let ep : Nat := 0;
    let x := s.spdmOf ep;
    s.spdmServes ep = true ∧ x.algorithms = true := by decide +kernel

theorem wit_SpdmResponds_6_1 :
    let s : State := responder inSession;
    let ep : Nat := 0;
    let x := s.spdmOf ep;
    s.spdmServes ep = true ∧ x.algorithms = true := by decide +kernel

theorem wit_SpdmResponds_6_2 :
    let s : State := responder inSession;
    let ep : Nat := 0;
    let x := s.spdmOf ep;
    s.spdmServes ep = true ∧ x.algorithms = true := by decide +kernel

theorem wit_SpdmResponds_6_3 :
    let s : State := responder inSession;
    let ep : Nat := 0;
    let x := s.spdmOf ep;
    s.spdmServes ep = true ∧ x.algorithms = true := by decide +kernel

theorem wit_SpdmResponds_6_4 :
    let s : State := responder inSession;
    let ep : Nat := 0;
    let x := s.spdmOf ep;
    s.spdmServes ep = true ∧ x.algorithms = true := by decide +kernel

theorem wit_SpdmResponds_7_1 :
    let s : State := responder inSession;
    let ep : Nat := 0;
    let x := s.spdmOf ep;
    let id : Nat := 7;
    s.spdmServes ep = true ∧ x.algorithms = true ∧ (x.session? id).all (fun y => !y.1) = true := by decide +kernel

theorem wit_SpdmResponds_7_2 :
    let s : State := responder inSession;
    let ep : Nat := 0;
    let x := s.spdmOf ep;
    let id : Nat := 2;
    s.spdmServes ep = true ∧ x.algorithms = true ∧ (x.session? id).all (fun y => !y.1) = true := by decide +kernel

theorem wit_SpdmResponds_8_1 :
    let s : State := responder inSession;
    let ep : Nat := 0;
    let x := s.spdmOf ep;
    let id : Nat := 1;
    let n : Nat := 4;
    s.spdmServes ep = true ∧ x.algorithms = true ∧ x.session? id = some (true, n) := by decide +kernel

theorem wit_SpdmResponds_8_2 :
    let s : State := responder inSession;
    let ep : Nat := 0;
    let x := s.spdmOf ep;
    let id : Nat := 1;
    let n : Nat := 4;
    s.spdmServes ep = true ∧ x.algorithms = true ∧ x.session? id = some (true, n) := by decide +kernel

theorem wit_SpdmResponds_8_3 :
    let s : State := responder inSession;
    let ep : Nat := 0;
    let x := s.spdmOf ep;
    let id : Nat := 1;
    let n : Nat := 4;
    s.spdmServes ep = true ∧ x.algorithms = true ∧ x.session? id = some (true, n) := by decide +kernel

theorem wit_SpdmResponds_9_1 :
    let s : State := responder inSession;
    let ep : Nat := 0;
    let x := s.spdmOf ep;
    let id : Nat := 1;
    let n : Nat := 4;
    s.spdmServes ep = true ∧ x.algorithms = true ∧ x.session? id = some (true, n) := by decide +kernel

theorem wit_SpdmResponds_9_2 :
    let s : State := responder inSession;
    let ep : Nat := 0;
    let x := s.spdmOf ep;
    let id : Nat := 1;
    let n : Nat := 4;
    s.spdmServes ep = true ∧ x.algorithms = true ∧ x.session? id = some (true, n) := by decide +kernel

theorem wit_SpdmResponds_9_3 :
    let s : State := responder inSession;
    let ep : Nat := 0;
    let x := s.spdmOf ep;
    let id : Nat := 1;
    let n : Nat := 4;
    s.spdmServes ep = true ∧ x.algorithms = true ∧ x.session? id = some (true, n) := by decide +kernel

theorem wit_SpdmResponds_9_4 :
    let s : State := responder inSession;
    let ep : Nat := 0;
    let x := s.spdmOf ep;
    let id : Nat := 1;
    let n : Nat := 4;
    s.spdmServes ep = true ∧ x.algorithms = true ∧ x.session? id = some (true, n) := by decide +kernel

theorem wit_SpdmResponds_9_5 :
    let s : State := responder inSession;
    let ep : Nat := 0;
    let x := s.spdmOf ep;
    let id : Nat := 1;
    let n : Nat := 4;
    s.spdmServes ep = true ∧ x.algorithms = true ∧ x.session? id = some (true, n) := by decide +kernel

theorem wit_SpdmResponds_9_6 :
    let s : State := responder inSession;
    let ep : Nat := 0;
    let x := s.spdmOf ep;
    let id : Nat := 1;
    let n : Nat := 4;
    s.spdmServes ep = true ∧ x.algorithms = true ∧ x.session? id = some (true, n) := by decide +kernel

theorem wit_SpdmResponds_9_7 :
    let s : State :=
        { responder inSession with funcs := (List.range 9).map fun f => (f, { present := true, ideStream := f != 3 }) };
    let ep : Nat := 0;
    let x := s.spdmOf ep;
    let id : Nat := 1;
    let n : Nat := 4;
    s.spdmServes ep = true ∧ x.algorithms = true ∧ x.session? id = some (true, n) := by decide +kernel

theorem wit_ResetsAndBoot_1_1 :
    let s : State := { starting 1 8 with mer := { now := 99, lock := .locked } };
    s.power.state = .on := by decide +kernel

theorem wit_ResetsAndBoot_1_2 :
    let s : State := { starting 1 8 with mer := { now := 99, lock := .locked } };
    s.power.state = .on := by decide +kernel

theorem wit_ResetsAndBoot_2 :
    let s : State := dev;
    s.power.state = .on ∧ s.fw.alive = true := by decide +kernel

theorem wit_ResetsAndBoot_4 :
    let s : State := cmd 0x101 1 [0];
    s.power.state = .on ∧ s.fw.awaitingBoot = false ∧ s.fw.mode ≠ .recovery ∧ s.thirdRestart = false := by
  decide +kernel

theorem wit_ResetsAndBoot_5_1 :
    let s : State := { State.reset with parts := [(3, { keyed := true, capture := some {} })] };
    let facts : BootFacts := {};
    s.power.state = .on ∧ s.fw.awaitingBoot = true ∧ facts.pufOk = true ∧ s.fw.configTaken facts = true ∧
    s.fw.counters.length = 8 ∧ slotPasses s.fw.raiseConfig facts s.fw.selector = true := by decide +kernel

theorem wit_ResetsAndBoot_5_2 :
    let s : State := { State.reset with parts := [(3, { keyed := true, capture := some {} })] };
    let facts : BootFacts := { sealed0Ok := false, sealed1Ok := false };
    s.power.state = .on ∧ s.fw.awaitingBoot = true ∧ facts.pufOk = true ∧ s.fw.configTaken facts = true ∧
    s.fw.counters.length = 8 ∧ slotPasses s.fw.raiseConfig facts s.fw.selector = true := by decide +kernel

theorem wit_ResetsAndBoot_6_1 :
    let s : State := State.reset;
    let facts : BootFacts := { slot0Ok := false, slot1Ok := false };
    s.power.state = .on ∧ s.fw.awaitingBoot = true ∧
    (facts.pufOk = false ∨ s.fw.configTaken facts = false ∨ slotPasses s.fw.raiseConfig facts s.fw.selector = false ∧
     slotPasses s.fw.raiseConfig facts (1 - s.fw.selector) = false) := by decide +kernel

theorem wit_ResetsAndBoot_6_2 :
    let s : State := State.reset;
    let facts : BootFacts := { configForDevice := false };
    s.power.state = .on ∧ s.fw.awaitingBoot = true ∧
    (facts.pufOk = false ∨ s.fw.configTaken facts = false ∨ slotPasses s.fw.raiseConfig facts s.fw.selector = false ∧
     slotPasses s.fw.raiseConfig facts (1 - s.fw.selector) = false) := by decide +kernel

theorem wit_ResetsAndBoot_7 :
    let s : State := State.reset;
    let facts : BootFacts := { slot0Ok := false };
    s.power.state = .on ∧ s.fw.awaitingBoot = true ∧ facts.pufOk = true ∧ s.fw.configTaken facts = true ∧
    slotPasses s.fw.raiseConfig facts s.fw.selector = false ∧
    slotPasses s.fw.raiseConfig facts (1 - s.fw.selector) = true := by decide +kernel

theorem wit_ResetsAndBoot_8_1 :
    let s : State := starting 1 8;
    s.power.state = .on := by decide +kernel

theorem wit_ResetsAndBoot_8_2 :
    let s : State := starting 1 8;
    s.power.state = .on := by decide +kernel

theorem wit_ResetsAndBoot_9 :
    let s : State := starting 1 8;
    let what : Thermal := .die 3;
    let celsius : Nat := 110;
    s.power.state = .on ∧ (s.power.limits what).2.2 ≤ celsius := by decide +kernel

theorem wit_ResetsAndBoot_10 :
    let s : State := { dev with power := { state := .off } };
    s.power.state = .off := by decide +kernel

theorem wit_ResetsAndBoot_11 :
    let s : State := { dev with power := { state := .off } };
    let mv : Nat := 37500;
    s.power.state = .off ∧ s.power.tripped = false ∧ 37500 ≤ mv ∧ mv ≤ 49000 := by decide +kernel

theorem wit_HungUnitsRecovered_1_1 :
    let s : State := { dev with recover := { units := [{ unit := .reduction 5, fenced := true }] } };
    let u : UnitId := .reduction 5;
    let y := s.unitRec u;
    (s.power.state = .off ∨ y.fenced = true ∨ y.retired = true ∨ s.hungNow u = false) := by decide +kernel

theorem wit_HungUnitsRecovered_1_2 :
    let s : State := dev;
    let u : UnitId := .copier 2;
    let y := s.unitRec u;
    (s.power.state = .off ∨ y.fenced = true ∨ y.retired = true ∨ s.hungNow u = false) := by decide +kernel

theorem wit_HungUnitsRecovered_2_1 :
    let s : State := dev;
    let u : UnitId := .sram 2;
    let q : Nat := 2;
    s.power.state = .on ∧ s.unitDown u = false ∧ s.hungNow u = true ∧ (u = .sram q ∨ u = .lpddr q ∨ u = .governor) := by
  decide +kernel

theorem wit_HungUnitsRecovered_2_2 :
    let s : State :=
        { dev with power := { dev.power with secondQueue := [{ id := 0, purpose := .rekey 3, load := 0 }] } };
    let u : UnitId := .governor;
    let q : Nat := 2;
    s.power.state = .on ∧ s.unitDown u = false ∧ s.hungNow u = true ∧ (u = .sram q ∨ u = .lpddr q ∨ u = .governor) := by
  decide +kernel

theorem wit_HungUnitsRecovered_3 :
    let s : State := { landing { copies := [{ landCopy with verified := true }] } with
                         recover := { units := [{ unit := .receive 1, lastHang := 1999999999 }] } };
    let u : UnitId := .receive 1;
    let again := (s.recover.units.any fun r => r.unit == u && decide (s.clk ≤ r.lastHang + us 1000000));
    let q : Nat := 1;
    s.power.state = .on ∧ s.unitDown u = false ∧ s.hungNow u = true ∧ (u = .transport q ∨ u = .receive q) ∧ again = true := by
  decide +kernel

theorem wit_HungUnitsRecovered_4_1 :
    let s : State := { dev with
                         placements := [(6,
                                         { placed with
                                           legs := [{ quadrant := 2, migration := some {} },
                                                    { quadrant := 1, migration := some {} }] })] };
    let u : UnitId := .copier 2;
    let q : Nat := 2;
    let h : Nat := 6;
    let pl : Placement :=
        { placed with legs := [{ quadrant := 2, migration := some {} }, { quadrant := 1, migration := some {} }] };
    let l : Leg := { quadrant := 2, migration := some {} };
    s.power.state = .on ∧ u = .copier q ∧ s.unitDown u = false ∧ s.hungNow u = true ∧ tblGet s.placements h = some pl ∧
    l ∈ pl.legs := by decide +kernel

theorem wit_HungUnitsRecovered_4_2 :
    let s : State := { dev with
                         placements := [(6,
                                         { placed with
                                           legs := [{ quadrant := 2, migration := some {} },
                                                    { quadrant := 1, migration := some {} }] })] };
    let u : UnitId := .copier 1;
    let q : Nat := 1;
    let h : Nat := 6;
    let pl : Placement :=
        { placed with legs := [{ quadrant := 2, migration := some {} }, { quadrant := 1, migration := some {} }] };
    let l : Leg := { quadrant := 2, migration := some {} };
    s.power.state = .on ∧ u = .copier q ∧ s.unitDown u = false ∧ s.hungNow u = true ∧ tblGet s.placements h = some pl ∧
    l ∈ pl.legs := by decide +kernel

theorem wit_HungUnitsRecovered_5_1 :
    let s : State := multiplying gratJob;
    let u : UnitId := .graticule 1;
    let k : Nat := 1;
    s.power.state = .on ∧ s.unitDown u = false ∧ s.hungNow u = true ∧
    (u = .graticule k ∨ u = .reduction k ∨ u = .sequencer k) := by decide +kernel

theorem wit_HungUnitsRecovered_5_2 :
    let s : State :=
        { multiplying gratJob with recover := { units := [{ unit := .graticule 1, lastHang := 1999999999 }] } };
    let u : UnitId := .graticule 1;
    let k : Nat := 1;
    s.power.state = .on ∧ s.unitDown u = false ∧ s.hungNow u = true ∧
    (u = .graticule k ∨ u = .reduction k ∨ u = .sequencer k) := by decide +kernel

theorem wit_HungUnitsRecovered_5_3 :
    let s : State := { dev with reds := [(5, { queue := [reduction] })] };
    let u : UnitId := .reduction 5;
    let k : Nat := 5;
    s.power.state = .on ∧ s.unitDown u = false ∧ s.hungNow u = true ∧
    (u = .graticule k ∨ u = .reduction k ∨ u = .sequencer k) := by decide +kernel

theorem wit_HungUnitsRecovered_5_4 :
    let s : State :=
        { computing [gemm] with recover := { units := [{ unit := .sequencer 4, lastHang := 1999999999 }] } };
    let u : UnitId := .sequencer 4;
    let k : Nat := 4;
    s.power.state = .on ∧ s.unitDown u = false ∧ s.hungNow u = true ∧
    (u = .graticule k ∨ u = .reduction k ∨ u = .sequencer k) := by decide +kernel

theorem wit_HungUnitsRecovered_6_1 :
    let s : State := landing { copies := [{ landCopy with verified := true }] };
    let u : UnitId := .receive 1;
    let again := (s.recover.units.any fun r => r.unit == u && decide (s.clk ≤ r.lastHang + us 1000000));
    let q : Nat := 1;
    s.power.state = .on ∧ s.unitDown u = false ∧ s.hungNow u = true ∧ again = false ∧
    (u = .transport q ∨ u = .receive q) := by decide +kernel

theorem wit_HungUnitsRecovered_6_2 :
    let s : State := { dev with
                         queues := [(2,
                                     { startQ 1 8 with
                                       home := 1, weight := 1, held := [{ startD 1 8 with phase := .accepted }] })] };
    let u : UnitId := .transport 1;
    let again := (s.recover.units.any fun r => r.unit == u && decide (s.clk ≤ r.lastHang + us 1000000));
    let q : Nat := 1;
    s.power.state = .on ∧ s.unitDown u = false ∧ s.hungNow u = true ∧ again = false ∧
    (u = .transport q ∨ u = .receive q) := by decide +kernel

theorem wit_HungUnitsRecovered_7_1 :
    let s : State := dev;
    let u : UnitId := .reduction 5;
    let y := s.unitRec u;
    y.unit = u := by decide +kernel

theorem wit_HungUnitsRecovered_7_2 :
    let s : State := { dev with recover := { units := [{ unit := .receive 1, fenced := true }] } };
    let u : UnitId := .receive 1;
    let y := s.unitRec u;
    y.unit = u := by decide +kernel

theorem wit_HungUnitsRecovered_7_3 :
    let s : State := { dev with recover := { units := [{ unit := .graticule 1, fenced := true }] } };
    let u : UnitId := .graticule 1;
    let y := s.unitRec u;
    y.unit = u := by decide +kernel

theorem wit_HungUnitsRecovered_8 :
    let s : State := { dev with recover := { stopped := [.engine 1], wakes := [{ domain := .engine 1 }] } };
    s.power.state = .on := by decide +kernel

theorem wit_HungUnitsRecovered_9_1 :
    let s : State := cmd 0x101 1 [0];
    let d : Domain := .engine 1;
    let fn : Nat := 0;
    let m : Nat := 0;
    let g : Mailbox := mail 0x101 1 [0];
    let recent := s.recover.cdcTimeouts.filter fun e => e.1 == d && decide (s.clk ≤ e.2 + us 1000);
    s.power.state = .on ∧ recent.length < 2 ∧
    (s.crossing d).head?.any (fun (w : Wake) => decide (s.clk < w.sinceClk + us 2)) = false ∧
    tblGet s.mailboxes (mbxKey fn m) = some g := by decide +kernel

theorem wit_HungUnitsRecovered_9_2 :
    let s : State := { cmd 0x101 1 [0] with recover := { cdcTimeouts := [(.engine 1, 1999999999)] } };
    let d : Domain := .engine 1;
    let fn : Nat := 0;
    let m : Nat := 0;
    let g : Mailbox := mail 0x101 1 [0];
    let recent := s.recover.cdcTimeouts.filter fun e => e.1 == d && decide (s.clk ≤ e.2 + us 1000);
    s.power.state = .on ∧ recent.length < 2 ∧
    (s.crossing d).head?.any (fun (w : Wake) => decide (s.clk < w.sinceClk + us 2)) = false ∧
    tblGet s.mailboxes (mbxKey fn m) = some g := by decide +kernel

theorem wit_HungUnitsRecovered_10 :
    let s : State := { multiplying gratJob with queues := [(3, startQ 1 8)] };
    let d : Domain := .engine 1;
    let q : Nat := 3;
    let k : Nat := 4;
    let index : Nat := 0;
    let i : W32 := 5;
    let e : Desc := startD 1 8;
    let r : Running := kernelOn [gemm];
    let f : Flight := gemm;
    let recent := s.recover.cdcTimeouts.filter fun e => e.1 == d && decide (s.clk ≤ e.2 + us 1000);
    s.power.state = .on ∧ recent.length < 2 ∧
    (s.crossing d).head?.any (fun (w : Wake) => decide (s.clk < w.sinceClk + us 2)) = false ∧
    (s.seq k).running = some r ∧ (r.flights.find? fun f => f.index == index) = some f ∧ f.ended = none ∧
    s.desc? q i = some e ∧ s.runnerOf q i = none ∧ e.phase ≠ .completed := by decide +kernel

theorem wit_HungUnitsRecovered_11_1 :
    let s : State := { dev with recover := { cdcTimeouts := [(.engine 1, 1999999999), (.engine 1, 1999999998)] } };
    let q : Nat := 1;
    let core : Nat := 0;
    let late := fun (d : Domain) => !(s.crossing d).head?.any fun (w : Wake) => decide (s.clk < w.sinceClk + us 2);
    let third := fun (d : Domain) => decide
        (2 ≤ (s.recover.cdcTimeouts.filter fun e => e.1 == d && decide (s.clk ≤ e.2 + us 1000)).length);
    s.power.state = .on ∧ (third (.engine q) = true ∨ third (.memory q) = true ∨ third (.tirmon core) = true) ∧
    (late (.engine q) = true ∧ late (.memory q) = true ∧ late (.tirmon core) = true) := by decide +kernel

theorem wit_HungUnitsRecovered_11_2 :
    let s : State := { dev with recover := { cdcTimeouts := [(.memory 1, 1999999999), (.memory 1, 1999999998)] } };
    let q : Nat := 1;
    let core : Nat := 0;
    let late := fun (d : Domain) => !(s.crossing d).head?.any fun (w : Wake) => decide (s.clk < w.sinceClk + us 2);
    let third := fun (d : Domain) => decide
        (2 ≤ (s.recover.cdcTimeouts.filter fun e => e.1 == d && decide (s.clk ≤ e.2 + us 1000)).length);
    s.power.state = .on ∧ (third (.engine q) = true ∨ third (.memory q) = true ∨ third (.tirmon core) = true) ∧
    (late (.engine q) = true ∧ late (.memory q) = true ∧ late (.tirmon core) = true) := by decide +kernel

theorem wit_GovernorAndLimits_1 :
    let s : State := { dev with power := { dev.power with secondQueue := [{ purpose := .rekey 3, load := 6000 }] } };
    let measured : Nat := 100000;
    let l : Leave := { purpose := .rekey 3, load := 6000 };
    s.nextGrant measured = some l ∧ isSecond l.purpose = true := by decide +kernel

theorem wit_GovernorAndLimits_2 :
    let s : State := { dev with
                         power := { dev.power with firstQueue := [{ purpose := .lanes 4 2, load := 2250 }] },
                         ports := [(4, { mode := 1, proposed := some 4, leaveForLanes := 2 })] };
    let measured : Nat := 100000;
    let port : Nat := 4;
    let added : Nat := 2;
    let l : Leave := { purpose := .lanes 4 2, load := 2250 };
    s.nextGrant measured = some l ∧ l.purpose = .lanes port added := by decide +kernel

theorem wit_GovernorAndLimits_3 :
    let s : State :=
        { dev with power := { dev.power with firstQueue := [{ purpose := .engine 1 false, load := 1500 }] } };
    let measured : Nat := 100000;
    let q : Nat := 1;
    let o : Bool := false;
    let l : Leave := { purpose := .engine 1 false, load := 1500 };
    s.nextGrant measured = some l ∧ l.purpose = .engine q o := by decide +kernel

theorem wit_GovernorAndLimits_4 :
    let s : State := { dev with power := { dev.power with waits := 65535, firstQueue := [{ id := 7 }] } };
    let p := s.power;
    let id : Nat := 7;
    let l : Leave := { id := 7 };
    (p.firstQueue ++ p.secondQueue).find? (fun l => l.id == id) = some l ∧ l.recorded = false ∧
    l.askedClk + us 100 < s.clk := by decide +kernel

theorem wit_GovernorAndLimits_5 :
    let s : State := dev;
    let p := s.power;
    p.state = .on := by decide +kernel

theorem wit_GovernorAndLimits_8_1 :
    let s : State := dev;
    let p := s.power;
    p.state = .on := by decide +kernel

theorem wit_GovernorAndLimits_8_2 :
    let s : State := dev;
    let p := s.power;
    p.state = .on := by decide +kernel

theorem wit_GovernorAndLimits_8_3 :
    let s : State := dev;
    let p := s.power;
    p.state = .on := by decide +kernel

theorem wit_GovernorAndLimits_9 :
    let s : State := { dev with
                         power := { dev.power with
                                    throttled := true, thermalAlert := true, readings := [(.die 1, 101), (.lpddr, 99)] } };
    let p := s.power;
    p.state = .on ∧ p.throttled = true ∧ p.thermalAlert = true := by decide +kernel

theorem wit_GovernorAndLimits_11 :
    let q : Nat := 3;
    let c : Nat := 31;
    q < 4 ∧ c < 32 := by decide +kernel

theorem wit_GovernorAndLimits_12 :
    let s : State := { starting 1 8 with rings := [(2, {})] };
    let n : Nat := 2;
    let x : Queue := startQ 1 8;
    let y : Ring := {};
    s.queue? n = some x ∧ s.ring? n = some y := by decide +kernel

theorem wit_GovernorAndLimits_13 :
    let s : State := moving;
    let g : Nat := 1;
    let h : Nat := 2;
    let k : Nat := 3;
    let x : GratJob := { gratJob with running := false };
    let id : W32 := 1;
    let z : Schedule := schedC;
    (s.grat g).job = some x ∧ g ≠ h ∧ s.schedule? k id = some z := by decide +kernel

theorem wit_RegisterWritesTakeEffect_1 :
    let s : State := dev;
    let fn : Nat := 1;
    let bar : Nat := 0;
    s.mmioOk fn = false ∧ bar ≠ 14 ∧ bar ≠ 15 := by decide +kernel

theorem wit_RegisterWritesTakeEffect_2_1 :
    let s : State := dev;
    let fn : Nat := 0;
    let o : Nat := 6;
    let w : Nat := 4;
    s.mmioOk fn = true ∧ ((w ≠ 4 ∧ w ≠ 8) ∨ o % w ≠ 0) := by decide +kernel

theorem wit_RegisterWritesTakeEffect_2_2 :
    let s : State := dev;
    let fn : Nat := 0;
    let o : Nat := 4;
    let w : Nat := 2;
    s.mmioOk fn = true ∧ ((w ≠ 4 ∧ w ≠ 8) ∨ o % w ≠ 0) := by decide +kernel

theorem wit_RegisterWritesTakeEffect_3 :
    let s : State := { dev with funcs := [(0, { present := true, lowHeld := [(0x400020, 7)] })] };
    let fn : Nat := 0;
    let o : Nat := 0x400020;
    s.mmioOk fn = true ∧ o % 8 = 0 ∧ s.wide fn o = true ∧ s.wide fn (o + 4) = false := by decide +kernel

theorem wit_RegisterWritesTakeEffect_4 :
    let s : State := { dev with queues := [(2, { producer := 7, consumer := 7 })], rings := [(2, {})] };
    let fn : Nat := 0;
    let k : Nat := 2;
    let port : Nat := 4;
    let a : Nat := 3;
    s.mmioOk fn = true ∧ isPf fn = true ∧ k < 8192 ∧ port < 32 ∧ a < 8 := by decide +kernel

theorem wit_RegisterWritesTakeEffect_5 :
    let s : State := dev;
    let fn : Nat := 256;
    s.mmioOk fn = true ∧ isPf fn = true := by decide +kernel

theorem wit_RegisterWritesTakeEffect_6_1 :
    let s : State := roce;
    let fn : Nat := 0;
    let port : Nat := 4;
    s.mmioOk fn = true ∧ isPf fn = true ∧ port < 32 := by decide +kernel

theorem wit_RegisterWritesTakeEffect_6_2 :
    let s : State := transit;
    let fn : Nat := 0;
    let port : Nat := 4;
    s.mmioOk fn = true ∧ isPf fn = true ∧ port < 32 := by decide +kernel

theorem wit_RegisterWritesTakeEffect_7_1 :
    let s : State := cmd 0x101 0 [];
    let fn : Nat := 0;
    let m : Nat := 0;
    let j : Nat := 5;
    s.mmioOk fn = true ∧ m < mailboxesOf fn ∧ j < 32 := by decide +kernel

theorem wit_RegisterWritesTakeEffect_7_2 :
    let s : State := withMbx (cmd 0x101 0 []) fun x => { x with busy := false };
    let fn : Nat := 0;
    let m : Nat := 0;
    let j : Nat := 5;
    s.mmioOk fn = true ∧ m < mailboxesOf fn ∧ j < 32 := by decide +kernel

theorem wit_RegisterWritesTakeEffect_8 :
    let s : State := { dev with funcs := [(1, { present := true })] };
    let fn : Nat := 1;
    let o : Nat := 0x80000;
    s.mmioOk fn = true ∧ isPf fn = false ∧ 0x50004 ≤ o ∧ o < 0x100000 ∧ o % 4 = 0 := by decide +kernel

theorem wit_RegisterWritesTakeEffect_9_1 :
    let s : State := { dev with
                         funcs :=
                           [(0, { present := true, msixEnable := true, pba := [3], msix := [(3, { masked := true })] })] };
    let fn : Nat := 0;
    let k : Nat := 3;
    s.mmioOk fn = true ∧ k < msixCount fn := by decide +kernel

theorem wit_RegisterWritesTakeEffect_9_2 :
    let s : State := { dev with funcs := [(1, { present := true, tdisp := 1 })] };
    let fn : Nat := 1;
    let k : Nat := 3;
    s.mmioOk fn = true ∧ k < msixCount fn := by decide +kernel

theorem wit_RegisterWritesTakeEffect_10 :
    let s : State := dev;
    let fn : Nat := 0;
    s.mmioOk fn = true ∧ (s.kbx.owner ≠ fn ∨ fn = 0) := by decide +kernel

theorem wit_RegisterReadsAnswer_1 :
    let s : State := dev;
    let fn : Nat := 0;
    let o : Nat := 0;
    let v : Nat := 0x00054700;
    s.mmioOk fn = true ∧ o % 4 = 0 ∧ s.reg fn o = some (4, v) := by decide +kernel

theorem wit_RegisterReadsAnswer_2 :
    let s : State := { dev with
                         mer := { dev.mer with now := 0x500000007 },
                         funcs := [(0, { present := true, highLatch := [(0x400004, 9)] })] };
    let fn : Nat := 0;
    let o : Nat := 0x400000;
    let v : Nat := 0x500000007;
    s.mmioOk fn = true ∧ o % 8 = 0 ∧ s.reg fn o = some (8, v) := by decide +kernel

theorem wit_RegisterReadsAnswer_3 :
    let s : State := transit;
    let fn : Nat := 0;
    let port : Nat := 4;
    let g : Nat := 7;
    let k : Nat := 63;
    s.mmioOk fn = true ∧ isPf fn = true ∧ port < 32 ∧ g < 8 ∧ k < 64 := by decide +kernel

theorem wit_RegisterReadsAnswer_4 :
    let fn : Nat := 0;
    let m : Nat := 0;
    let j : Nat := 1;
    m < mailboxesOf fn ∧ j < 32 := by decide +kernel

theorem wit_RegisterReadsAnswer_5 :
    let s : State := dev;
    let fn : Nat := 0;
    s.mmioOk fn = true ∧ isPf fn = true := by decide +kernel

theorem wit_RegisterReadsAnswer_6 :
    let s : State := { dev with funcs := [(1, { present := true, tdisp := 2 })] };
    let fn : Nat := 1;
    s.mmioOk fn = true ∧ s.inRun fn = true := by decide +kernel


/-! ## Well-formedness: each check refuses a term it is there for -/

theorem test_wf_fn : (Instr.flr 511).wf = true ∧ (Instr.flr 512).wf = false := by decide
theorem test_wf_width : (Instr.readClear 0 0 0 8).wf = true ∧ (Instr.readClear 0 0 0 3).wf = false := by decide
theorem test_wf_bar : (Instr.registerWrite 0 2 0 4 0).wf = true ∧ (Instr.registerWrite 0 3 0 4 0).wf = false := by decide
theorem test_wf_mailbox : (Instr.openSession 256 3).wf = true ∧ (Instr.openSession 1 1).wf = false := by decide
theorem test_wf_port : (Instr.headRelax 31).wf = true ∧ (Instr.headRelax 32).wf = false := by decide
theorem test_wf_hostPort : (Instr.dlUp 1).wf = true ∧ (Instr.dlUp 2).wf = false := by decide
theorem test_wf_quadrant : (Instr.schedulerRound 3).wf = true ∧ (Instr.schedulerRound 4).wf = false := by decide
theorem test_wf_partition : (Instr.keySessionIdle 15).wf = true ∧ (Instr.keySessionIdle 16).wf = false := by decide
theorem test_wf_sequencer : (Instr.mov 63).wf = true ∧ (Instr.mov 64).wf = false := by decide
theorem test_wf_accel : (Instr.attReset 7).wf = true ∧ (Instr.attReset 8).wf = false := by decide
theorem test_wf_graticule : (Instr.xformGemm 0 7).wf = true ∧ (Instr.xformGemm 0 8).wf = false := by decide
theorem test_wf_queue : (Instr.write 8191 0).wf = true ∧ (Instr.write 8192 0).wf = false := by decide
theorem test_wf_queuePair : (Instr.cnp 16383).wf = true ∧ (Instr.cnp 16384).wf = false := by decide
theorem test_wf_controller : (Instr.keepAlive 255).wf = true ∧ (Instr.keepAlive 256).wf = false := by decide
theorem test_wf_packet : (Instr.ack 0 landPkt).wf = true ∧ (Instr.ack 0 { landPkt with payload := [] }).wf = false := by decide
theorem test_wf_spdm : (Instr.getVersion 2).wf = true ∧ (Instr.getVersion 3).wf = false := by decide
theorem test_wf_master : (Instr.kbxClaim 0x1F).wf = true ∧ (Instr.kbxClaim 0x11).wf = false := by decide

/-! ## Single commands against the manual -/

/-- What a command leaves. -/
def after (c : Instr) (s : State) : State :=
  match exec c s with
  | .next t => t
  | .fault _ => s
  | .refused _ => s

/-- R347: A = (3, -2), W = ((1, 2), (5, 7)): the sums are 3 - 10 and 6 - 14, in two's complement. -/
theorem test_int8_job : tblGetD ((after (.graticuleJobEnd 1 none) (multiplying gratJob)).grat 1).rows (accKey jobRec 0) []
    = [4294967289, 4294967288] := by decide +kernel

/-- FP32 by IEEE 754: 1.0 + 2^-24 is a tie and stays 1.0, with the next odd value it rounds up to even. -/
theorem test_fp_tie : (fpAdd 0x3F800000 0x33800000).1 = 0x3F800000 ∧ (fpAdd 0x3F800001 0x33800000).1 = 0x3F800002 := by
  decide +kernel

/-- R332: the largest E4M3 value is 0x7E, 448, and 0x7F is NaN. -/
theorem test_e4m3 : floatValue fE4M3 0x7E = .fin false 14 5 ∧ floatValue fE4M3 0x7F = .nan := by decide +kernel

/-- R41: after sequence 0xFFFF comes 0. -/
theorem test_sequence_wraps :
    bits ((after (.queryLimits 0 0) (withMbx (cmd 3 1 [0]) fun x =>
      { x with lastSeq := 0xFFFF, cmd := w64 (3 + 2 ^ 48) })).mbx 0).resp.toNat 15 0 = Status.ok := by decide +kernel

/-- R46: a mailbox that is not open answers NOT_OPEN. -/
theorem test_not_open :
    bits ((after (.queryLimits 0 0) (withMbx (cmd 3 1 [0]) fun x => { x with version := 0 })).mbx 0).resp.toNat 15 0 = 0x0401 := by
  decide +kernel

/-- The command set: QUOTA_SET puts the use in the high half of its answer. -/
theorem test_quota_set :
    ((after (.quotaSet 0 0) (cmd 0x202 1 [3 + 5 * 2 ^ 32])).part 3).quotas.head? = some (0, 5) := by decide +kernel

/-- R503: a second master does not claim the keybox. -/
theorem test_keybox_claimed : (after (.kbxClaim 5) { dev with kbx := { owner := 0x1F } }).kbx.owner = 0x1F := by decide +kernel

/-- Bytes are little-endian (R3). -/
theorem test_byte_order : leNat [1, 2, 0, 0xFF] = 0xFF000201 := by decide

/-- R221: a message of 4,097 bytes takes two packets, the second of one byte. -/
theorem test_wide_packet : packetsOf 4097 = 2 ∧ packetLen 4097 1 = 1 := by decide

/-- A VF that is not presented does not answer a write. -/
theorem test_absent_function : after (.registerWrite 3 0 0x10000 8 5) dev = dev := by decide +kernel

/-- The example after R341: 0x3FA6_6666 to E4M3 is 0x3A by RNE and for r below 0x9999_A000, and 0x3B from there. -/
theorem test_rounding_example :
    (toFloat fE4M3 .rne false (fp 0x3FA66666)).1 = 0x3A ∧ (toFloat fE4M3 (.sr 0x99999FFF) false (fp 0x3FA66666)).1 = 0x3A ∧
      (toFloat fE4M3 (.sr 0x9999A000) false (fp 0x3FA66666)).1 = 0x3B := by decide +kernel

/-- The example after R338's table: 5.0, 0.3 (here 19661 / 2^16) and -2.6 in MXFP4 are 0x6, 0x1 and 0xD under scale 0x7F. -/
theorem test_mxfp4_example :
    let q := quantise 7 (fun _ => .rne) ([Sys2Proof.Machine.Num.fin false 5 0, Sys2Proof.Machine.Num.fin false 19661 (-16), Sys2Proof.Machine.Num.fin true 170394 (-16)] ++ List.replicate 29 Sys2Proof.Machine.Num.zero)
    q.1 = 0x7F ∧ q.2.1.take 3 = [0x6, 0x1, 0xD] := by decide +kernel

/-- The example after R353: the job of 1,024 vectors ends in clock 1,824. -/
theorem test_fp8_job_clocks : jobClocks .full { m := 1024, k := 256, n := 256, aFmt := 1, wFmt := 1, outFmt := 9, emit := true } = 1824 := by
  decide +kernel

/-- A reply of the example after R275, at a time and with a sample in nanoseconds. -/
def replied (c : Congest) (now sample : Nat) : Congest :=
  (c.react {} (now * 16) (some (sample * 16)) false).enter 0 (some (sample * 16))

/-- The example after R275: 1,664, then 1,386 and 1,386, then 1,233 and 1,297 units. -/
theorem test_congestion_example :
    let c := replied { dest := 0x122, rate := 1600, delay := some 51200, baseNow := some 48000 } 2000000 3200
    let d := replied (replied c 2010000 9000) 2015000 10500
    let e := replied d 2027000 8200
    c.rate = 1664 ∧ d.rate = 1386 ∧ e.rate = 1233 ∧ (replied e 2045000 6100).rate = 1297 := by decide +kernel

/-- The all-reduce of the example after R409 of eight members on port 9, 16,777,216 FP32 elements, ring, 256 KiB. -/
def ringHeader : SchedHeader :=
  { op := 1, n := 8, algorithm := 1, depth := 2, msgSize := 262144, count := 16777216, inFmt := 0xC, outFmt := 0xC }
def eight : List (Nat × Nat) := [(0, 0), (1, 0), (2, 0), (3, 0), (4, 0), (5, 0), (6, 0), (7, 0)]
def ringDevice (w : Nat) : State :=
  { dev with
    ports := [(9, { fabPort with weights := [(30, w)] })]
    charts := everyQuadrant { bankA := eight.map fun m => (m.1, { kind := 1, productive := 512, distance := 1 }) } }

/-- Its bound is 4,748.62 µs with weight 16,384 and 2,399.81 µs with 32,768; the reservation is 532,480 B. -/
theorem test_admission_example :
    (ringDevice 16384).instanceBound 3 [9] eight ringHeader [] 0 / 160 = 474862 ∧
      (ringDevice 32768).instanceBound 3 [9] eight ringHeader [] 0 / 160 = 239981 ∧ reservationOf ringHeader 262144 = 532480 := by
  decide +kernel

end Sys2Proof.Tests
end

/-!
What every command leaves alone: the queue of waiting commands and the time base (assumption log 1). Most commands keep
all of `Still` (Laws/Still.lean); the others are followed here through the shared operations that they use.
-/

namespace Sys2Proof.Machine

/-! ## The queue and the time base -/

/-- The queue of waiting commands and the time base: the part of `Still` that even a device reset keeps. -/
def Still.turn (v : Still) : List Instr × Nat := (v.pending, v.clk)

theorem State.turn_eq_iff (s t : State) : t.still.turn = s.still.turn ↔ t.pending = s.pending ∧ t.clk = s.clk :=
  Prod.mk.injEq .. ▸ Iff.rfl

/-- Whatever else of a state is replaced, its queue and time base are what its first two fields say. -/
@[simp] theorem State.turn_mk (s : State) (free out cfg txs mer funcs mailboxes hosts parts contexts queues rings regions
    placements mem tiles quads ports charts accels grats reds seqs kernels trigs qps controllers fw kbx spdm power survey
    recover) :
    (State.still ⟨s.pending, s.clk, free, out, cfg, txs, mer, funcs, mailboxes, hosts, parts, contexts, queues, rings,
      regions, placements, mem, tiles, quads, ports, charts, accels, grats, reds, seqs, kernels, trigs, qps, controllers,
      fw, kbx, spdm, power, survey, recover⟩).turn = s.still.turn := rfl

@[simp] theorem turn_ite (c : Prop) [Decidable c] (a b : Still) :
    (if c then a else b).turn = if c then a.turn else b.turn := apply_ite Still.turn c a b

@[simp] theorem turn_foldl {α : Type} (g : State → α → State) (l : List α) (s : State)
    (h : ∀ s a, (g s a).still.turn = s.still.turn) : (l.foldl g s).still.turn = s.still.turn := by
  induction l generalizing s with
  | nil => rfl
  | cons a l ih => exact (ih (g s a)).trans (h s a)

/-! ## Settings, keybox, SPDM responders, charts -/

@[simp] theorem State.modKbx_turn (s : State) (g : Keybox → Keybox) : (s.modKbx g).still.turn = s.still.turn := rfl

@[simp] theorem State.modSpdm_turn (s : State) (ep : Nat) (g : Spdm → Spdm) :
    (s.modSpdm ep g).still.turn = s.still.turn := rfl

@[simp] theorem State.modChart_turn (s : State) (q : Nat) (g : Charts → Charts) :
    (s.modChart q g).still.turn = s.still.turn := rfl

@[simp] theorem State.modCharts_turn (s : State) (g : Charts → Charts) : (s.modCharts g).still.turn = s.still.turn :=
  turn_foldl _ _ _ fun _ _ => rfl

@[simp] theorem State.writeGrt_turn (s : State) (o v : Nat) : (s.writeGrt o v).still.turn = s.still.turn := by
  unfold State.writeGrt; split <;> rfl

@[simp] theorem State.writeTxs_turn (s : State) (o v : Nat) : (s.writeTxs o v).still.turn = s.still.turn := by
  unfold State.writeTxs; split <;> rfl

@[simp] theorem State.writeFab_turn (s : State) (fn o v : Nat) : (s.writeFab fn o v).still.turn = s.still.turn := by
  unfold State.writeFab; (repeat' split) <;> simp

/-! ## Register writes (R6 to R10) -/

@[simp] theorem State.writeBlock_turn (s : State) (fn o v : Nat) (b : Block) :
    (s.writeBlock fn o v b).still.turn = s.still.turn := by
  cases b <;> simp [State.writeBlock]

@[simp] theorem State.writeReg_turn (s : State) (fn o v : Nat) : (s.writeReg fn o v).still.turn = s.still.turn := by
  unfold State.writeReg; split <;> simp

@[simp] theorem State.commitHigh_turn (s : State) (fn o v : Nat) : (s.commitHigh fn o v).still.turn = s.still.turn := by
  unfold State.commitHigh; split <;> simp

@[simp] theorem State.write32_turn (s : State) (fn o v : Nat) : (s.write32 fn o v).still.turn = s.still.turn := by
  unfold State.write32; (repeat' split) <;> simp

@[simp] theorem State.writeBar0_turn (s : State) (fn o w v : Nat) : (s.writeBar0 fn o w v).still.turn = s.still.turn := by
  unfold State.writeBar0 State.write64; (repeat' split) <;> simp

@[simp] theorem execKbxClaim_turn (master : Nat) (s : State) :
    (stateAfter s (execKbxClaim master s)).still.turn = s.still.turn := by
  simp [execKbxClaim]

@[simp] theorem execKbxRelease_turn (master : Nat) (s : State) :
    (stateAfter s (execKbxRelease master s)).still.turn = s.still.turn := by
  simp [execKbxRelease]

@[simp] theorem execKbxStart_turn (master : Nat) (v : W32) (s : State) :
    (stateAfter s (execKbxStart master v s)).still.turn = s.still.turn := by
  simp [execKbxStart]

@[simp] theorem State.writeKbxLock_turn (s : State) (master v : Nat) :
    (s.writeKbxLock master v).still.turn = s.still.turn := by
  unfold State.writeKbxLock; (repeat' split) <;> simp

@[simp] theorem State.writeKbx_turn (s : State) (master o v : Nat) : (s.writeKbx master o v).still.turn = s.still.turn := by
  unfold State.writeKbx; (repeat' split) <;> simp

/-! ## Appointments and the steps of time (R82, R87 to R90) -/

@[simp] theorem State.actPart_turn (s : State) (k : ApptKind) (time q : Nat) (last : Bool) :
    (s.actPart k time q last).still.turn = s.still.turn := by
  cases k <;> simp [State.actPart]

@[simp] theorem State.firePart_turn (s : State) (k : ApptKind) (q : Nat) : (s.firePart k q).still.turn = s.still.turn := by
  unfold State.firePart; (repeat' split) <;> simp

@[simp] theorem State.fire_turn (s : State) (k : ApptKind) : (s.fire k).still.turn = s.still.turn :=
  turn_foldl _ _ _ fun _ _ => by split <;> simp

@[simp] theorem State.fireLate_turn (s : State) (backward : Bool) : (s.fireLate backward).still.turn = s.still.turn := by
  simp [State.fireLate]

@[simp] theorem State.stepTime_turn (s : State) (t : W64) : (s.stepTime t).still.turn = s.still.turn := by
  simp [State.stepTime]

@[simp] theorem State.freeRun_turn (s : State) : s.freeRun.still.turn = s.still.turn := by
  simp only [State.freeRun]; split <;> simp

@[simp] theorem State.measured_turn (s : State) (target : Nat) (to_ : W64) :
    (s.measured target to_).still.turn = s.still.turn := by
  simp [State.measured]

@[simp] theorem State.synced_turn (s : State) (port arrival : Nat) (origin : Option Nat) :
    (s.synced port arrival origin).still.turn = s.still.turn := by
  cases origin with
  | none => rfl
  | some t => simp only [State.synced, State.askDelay_still]; split <;> simp

@[simp] theorem State.ptpMessage_turn (s : State) (port : Nat) (h : PtpHead) (msg : PtpMsg) :
    (s.ptpMessage port h msg).still.turn = s.still.turn := by
  unfold State.ptpMessage; (repeat' split) <;> simp

/-! ## Mailbox commands (R39 to R44) -/

theorem State.crossCheck_turn (s : State) (k : Nat) (cores : Cores) (a : Answer)
    (h : a.state.still.turn = s.still.turn) : (s.crossCheck k cores a).still.turn = s.still.turn := by
  unfold State.crossCheck; (repeat' split) <;> simp [h]

/-- A command leaves the queue and the time base alone where its body does. -/
theorem State.serve_turn (s : State) (fn m : Nat) (c : Cmd) (body : State → Nat → Mailbox → Answer)
    (h : ∀ s p x, (body s p x).state.still.turn = s.still.turn) : (s.serve fn m c body).still.turn = s.still.turn := by
  unfold State.serve
  simp only []
  split
  · split
    · split <;> simp
    · rw [State.crossCheck_turn _ _ _ _ (h _ _ _)]; simp
  · rfl

theorem State.onBulk_turn (s : State) (fn k : Nat) (x : Mailbox) (body : Bulk → Answer)
    (h : ∀ b, (body b).state.still.turn = s.still.turn) : (s.onBulk fn k x body).state.still.turn = s.still.turn := by
  unfold State.onBulk; (repeat' split) <;> simp [h]

/-- A commit of a whole object leaves them alone where its body does. -/
theorem State.serveCommit_turn (s : State) (fn m kind : Nat) (pick : Bulk → Bool) (body : State → Nat → Bulk → Answer)
    (cores : Cores) (h : ∀ s p b, (body s p b).state.still.turn = s.still.turn) :
    (s.serveCommit fn m kind pick body cores).still.turn = s.still.turn := by
  unfold State.serveCommit
  simp only []
  split
  · split
    · exact State.serve_turn _ _ _ _ _ fun s p x => State.onBulk_turn _ _ _ _ _ fun b => by simp [h]
    · rfl
  · rfl

@[simp] theorem State.dropObjects_turn (s : State) (p : Nat) : (s.dropObjects p).still.turn = s.still.turn :=
  turn_foldl _ _ _ fun _ _ => by split <;> simp

@[simp] theorem State.erasePartition_turn (s : State) (p : Nat) : (s.erasePartition p).still.turn = s.still.turn := by
  simp [State.erasePartition]

/-! ## SPDM (R506) -/

theorem State.spdmServe_turn (s : State) (ep : Nat) (body : State → State)
    (h : ∀ s, (body s).still.turn = s.still.turn) : (s.spdmServe ep body).still.turn = s.still.turn := by
  unfold State.spdmServe; (repeat' split) <;> simp [h]

theorem State.spdmInSession_turn (s : State) (ep id : Nat) (body : State → Nat → State)
    (h : ∀ s n, (body s n).still.turn = s.still.turn) : (s.spdmInSession ep id body).still.turn = s.still.turn :=
  State.spdmServe_turn _ _ _ fun _ => by split <;> simp [h]

/-! ## Resets, restarts and losses of power (R511, R515, R518, R535) -/

@[simp] theorem State.restartFirmware_turn (s : State) : s.restartFirmware.still.turn = s.still.turn := by
  simp [State.restartFirmware]

@[simp] theorem State.warmState_turn (s : State) : s.warmState.still.turn = s.still.turn := by
  simp [State.warmState]

@[simp] theorem State.coldState_turn (s : State) : s.coldState.still.turn = s.still.turn := by
  simp [State.coldState]

@[simp] theorem State.warmReset_turn (s : State) (fatal : Bool) : (s.warmReset fatal).still.turn = s.still.turn := by
  simp [State.warmReset]

@[simp] theorem State.powerUp_turn (s : State) : s.powerUp.still.turn = s.still.turn := by
  simp [State.powerUp]

@[simp] theorem State.powerOff_turn (s : State) : s.powerOff.still.turn = s.still.turn := by
  simp [State.powerOff]

@[simp] theorem State.recoverUnit_turn (s : State) (u : UnitId) : (s.recoverUnit u).still.turn = s.still.turn := by
  unfold State.recoverUnit; simp only []; split <;> simp

@[simp] theorem State.unitHang_turn (s : State) (u : UnitId) : (s.unitHang u).still.turn = s.still.turn := by
  cases u <;> simp [State.unitHang]

@[simp] theorem State.domainFails_turn (s : State) (d : Domain) : (s.domainFails d).still.turn = s.still.turn := by
  cases d <;> simp [State.domainFails]

/-! ## The commands that change a part of `Still` -/

theorem execRegisterWrite_turn (fn bar o w : Nat) (v : W64) (s : State) :
    (stateAfter s (execRegisterWrite fn bar o w v s)).still.turn = s.still.turn := by
  unfold execRegisterWrite; rw [stateAfter_next]; (repeat' split) <;> simp

theorem execKernelImageLoad_turn (fn m : Nat) (cores : Cores) (s : State) :
    (stateAfter s (execKernelImageLoad fn m cores s)).still.turn = s.still.turn := by
  unfold execKernelImageLoad; rw [stateAfter_next]
  refine State.serveCommit_turn _ _ _ _ _ _ _ fun _ _ _ => ?_
  (repeat' split) <;> simp

theorem execChartBlock_turn (fn m : Nat) (cores : Cores) (s : State) :
    (stateAfter s (execChartBlock fn m cores s)).still.turn = s.still.turn := by
  unfold execChartBlock; rw [stateAfter_next]
  refine State.serveCommit_turn _ _ _ _ _ _ _ fun _ _ _ => ?_
  simp

theorem execPartitionErase_turn (fn m : Nat) (cores : Cores) (s : State) :
    (stateAfter s (execPartitionErase fn m cores s)).still.turn = s.still.turn := by
  unfold execPartitionErase; rw [stateAfter_next]
  refine State.serve_turn _ _ _ _ _ fun _ _ _ => ?_
  simp

theorem execKernelUnload_turn (fn m : Nat) (cores : Cores) (s : State) :
    (stateAfter s (execKernelUnload fn m cores s)).still.turn = s.still.turn := by
  unfold execKernelUnload; rw [stateAfter_next]
  refine State.serve_turn _ _ _ _ _ fun _ _ _ => ?_
  simp only []; (repeat' split) <;> simp

theorem execEndpointSet_turn (fn m : Nat) (cores : Cores) (s : State) :
    (stateAfter s (execEndpointSet fn m cores s)).still.turn = s.still.turn := by
  unfold execEndpointSet; rw [stateAfter_next]
  refine State.serve_turn _ _ _ _ _ fun _ _ _ => ?_
  simp only []; (repeat' split) <;> simp

theorem execChartSwap_turn (fn m : Nat) (cores : Cores) (s : State) :
    (stateAfter s (execChartSwap fn m cores s)).still.turn = s.still.turn := by
  unfold execChartSwap; rw [stateAfter_next]
  refine State.serve_turn _ _ _ _ _ fun s _ x => ?_
  cases h : s.swapCheck x.doorbellMt (x.arg 1) [0, 1, 2, 3] s.chartPending (s.retainedAt (bit (x.arg 0) 0) (x.arg 1)) with
  | none => simp [h]
  | some d => simp [h]

theorem execTimeSourceSet_turn (fn m : Nat) (cores : Cores) (s : State) :
    (stateAfter s (execTimeSourceSet fn m cores s)).still.turn = s.still.turn := by
  unfold execTimeSourceSet; rw [stateAfter_next]
  refine State.serve_turn _ _ _ _ _ fun _ _ _ => ?_
  simp only []; (repeat' split) <;> simp

theorem execFirmwareRestart_turn (ok : Bool) (s : State) :
    (stateAfter s (execFirmwareRestart ok s)).still.turn = s.still.turn := by
  simp [execFirmwareRestart]

theorem execSourceQualifies_turn (offset : Int) (s : State) :
    (stateAfter s (execSourceQualifies offset s)).still.turn = s.still.turn := by
  simp [execSourceQualifies]

theorem execPpsInPulse_turn (cycles : Nat) (ref : Bool) (s : State) :
    (stateAfter s (execPpsInPulse cycles ref s)).still.turn = s.still.turn := by
  simp [execPpsInPulse]

theorem execPtpMessage_turn (port : Nat) (head : PtpHead) (msg : PtpMsg) (s : State) :
    (stateAfter s (execPtpMessage port head msg s)).still.turn = s.still.turn := by
  simp [execPtpMessage]

theorem execTimeResp_turn (port : Nat) (rx tx : W64) (hops source : Nat) (epochTai : W64) (s : State) :
    (stateAfter s (execTimeResp port rx tx hops source epochTai s)).still.turn = s.still.turn := by
  unfold execTimeResp; rw [stateAfter_next]
  split
  · simp only []
    (repeat' split) <;> simp
  · rfl

theorem execChartBankSwap_turn (s : State) : (stateAfter s (execChartBankSwap s)).still.turn = s.still.turn := by
  simp [execChartBankSwap]

theorem execRetainEnd_turn (s : State) : (stateAfter s (execRetainEnd s)).still.turn = s.still.turn :=
  turn_foldl _ _ _ fun _ _ => rfl

theorem execGetVersion_turn (ep : Nat) (s : State) : (stateAfter s (execGetVersion ep s)).still.turn = s.still.turn := by
  simp [execGetVersion]

theorem execGetCapabilities_turn (ep version : Nat) (s : State) :
    (stateAfter s (execGetCapabilities ep version s)).still.turn = s.still.turn := by
  simp [execGetCapabilities]

theorem execNegotiateAlgorithms_turn (ep : Nat) (falcon shake mlkem aesGcm : Bool) (s : State) :
    (stateAfter s (execNegotiateAlgorithms ep falcon shake mlkem aesGcm s)).still.turn = s.still.turn := by
  simp [execNegotiateAlgorithms]

theorem execKeyExchange_turn (ep : Nat) (nonce : BitVec 256) (s : State) :
    (stateAfter s (execKeyExchange ep nonce s)).still.turn = s.still.turn := by
  unfold execKeyExchange; rw [stateAfter_next]
  refine State.spdmServe_turn _ _ _ fun _ => ?_
  simp

theorem execFinish_turn (ep session : Nat) (ok : Bool) (s : State) :
    (stateAfter s (execFinish ep session ok s)).still.turn = s.still.turn := by
  unfold execFinish; rw [stateAfter_next]
  refine State.spdmServe_turn _ _ _ fun _ => ?_
  (repeat' split) <;> simp

theorem execKeyUpdate_turn (ep session op : Nat) (s : State) :
    (stateAfter s (execKeyUpdate ep session op s)).still.turn = s.still.turn := by
  unfold execKeyUpdate; rw [stateAfter_next]
  refine State.spdmInSession_turn _ _ _ _ fun _ _ => ?_
  simp

theorem execEndSession_turn (ep session : Nat) (s : State) :
    (stateAfter s (execEndSession ep session s)).still.turn = s.still.turn := by
  unfold execEndSession; rw [stateAfter_next]
  refine State.spdmInSession_turn _ _ _ _ fun _ _ => ?_
  simp

theorem execKbxBlockDone_turn (s : State) : (stateAfter s (execKbxBlockDone s)).still.turn = s.still.turn := by
  simp [execKbxBlockDone]

theorem execKbxExpiry_turn (s : State) : (stateAfter s (execKbxExpiry s)).still.turn = s.still.turn := by
  simp [execKbxExpiry]

theorem execWarmReset_turn (fatal : Bool) (s : State) :
    (stateAfter s (execWarmReset fatal s)).still.turn = s.still.turn := by
  simp [execWarmReset]

theorem execCdcTimeout_turn (d : Domain) (owner : CdcOwner) (s : State) :
    (stateAfter s (execCdcTimeout d owner s)).still.turn = s.still.turn := by
  simp [execCdcTimeout]

theorem execUnitHung_turn (u : UnitId) (s : State) : (stateAfter s (execUnitHung u s)).still.turn = s.still.turn := by
  simp [execUnitHung]

theorem execActivateFirmware_turn (s : State) : (stateAfter s (execActivateFirmware s)).still.turn = s.still.turn := by
  simp [execActivateFirmware]

theorem execColdPowerUp_turn (s : State) : (stateAfter s (execColdPowerUp s)).still.turn = s.still.turn := by
  simp [execColdPowerUp]

theorem execInputExcursion_turn (mv us : Nat) (s : State) :
    (stateAfter s (execInputExcursion mv us s)).still.turn = s.still.turn := by
  simp only [execInputExcursion, stateAfter_next]; (repeat' split) <;> simp

theorem execInputRestored_turn (mv : Nat) (s : State) :
    (stateAfter s (execInputRestored mv s)).still.turn = s.still.turn := by
  simp only [execInputRestored, stateAfter_next]; split <;> simp

theorem execThermalTrip_turn (what : Thermal) (celsius : Nat) (s : State) :
    (stateAfter s (execThermalTrip what celsius s)).still.turn = s.still.turn := by
  simp [execThermalTrip]

theorem execLossOfPowerGood_turn (s : State) : (stateAfter s (execLossOfPowerGood s)).still.turn = s.still.turn := by
  simp [execLossOfPowerGood]

/-! ## The commands that can end in several ways -/

/-- A next state that keeps the queue of waiting commands and the time base. -/
def NextInTurn (s : State) (o : Host.Outcome State Fault Refusal) : Prop :=
  ∃ t, o = .next t ∧ t.pending = s.pending ∧ t.clk = s.clk

theorem nextInTurn_of_turn {s t : State} (h : (stateAfter s (.next t)).still.turn = s.still.turn) :
    NextInTurn s (.next t) := ⟨t, rfl, (State.turn_eq_iff s t).mp h⟩

theorem nextInTurn_of_still {s t : State} (h : (stateAfter s (.next t)).still = s.still) : NextInTurn s (.next t) :=
  nextInTurn_of_turn (congrArg Still.turn h)

theorem execSlotReadComplete_next (queue : Nat) (first : W32) (slots : Option (List (List Byte))) (s : State) :
    execSlotReadComplete queue first slots s = .next (stateAfter s (execSlotReadComplete queue first slots s)) := by
  unfold execSlotReadComplete; (repeat' split) <;> rfl

theorem execSlotRefetch_next (queue : Nat) (s : State) :
    execSlotRefetch queue s = .next (stateAfter s (execSlotRefetch queue s)) := by
  unfold execSlotRefetch; (repeat' split) <;> rfl

theorem execCmpConsumer_next (fn slot : Nat) (v : W32) (s : State) :
    execCmpConsumer fn slot v s = .next (stateAfter s (execCmpConsumer fn slot v s)) := by
  unfold execCmpConsumer; (repeat' split) <;> rfl

theorem execCmpIntArm_next (fn slot : Nat) (v : W32) (s : State) :
    execCmpIntArm fn slot v s = .next (stateAfter s (execCmpIntArm fn slot v s)) := by
  unfold execCmpIntArm; (repeat' split) <;> rfl

theorem nextInTurn_of_next {s : State} {o : Host.Outcome State Fault Refusal} (n : o = .next (stateAfter s o))
    (h : (stateAfter s o).still = s.still) : NextInTurn s o :=
  ⟨_, n, (State.turn_eq_iff s _).mp (congrArg Still.turn h)⟩


/-- One law for each command: it ends in a next state that keeps the queue and the time base. -/
theorem exec_nextInTurn (c : Instr) (s : State) : NextInTurn s (exec c s) := by
  cases c with
  | registerWrite _ _ _ _ _ => exact nextInTurn_of_turn (execRegisterWrite_turn _ _ _ _ _ _)
  | readClear _ _ _ _ => exact nextInTurn_of_still (execReadClear_still _ _ _ _ _)
  | lowHalfRead _ _ _ => exact nextInTurn_of_still (execLowHalfRead_still _ _ _ _)
  | openSession _ _ => exact nextInTurn_of_still (execOpenSession_still _ _ _)
  | closeSession _ _ => exact nextInTurn_of_still (execCloseSession_still _ _ _)
  | queryLimits _ _ => exact nextInTurn_of_still (execQueryLimits_still _ _ _)
  | bulkOpen _ _ => exact nextInTurn_of_still (execBulkOpen_still _ _ _)
  | bulkPut _ _ => exact nextInTurn_of_still (execBulkPut_still _ _ _)
  | bulkGet _ _ => exact nextInTurn_of_still (execBulkGet_still _ _ _)
  | bulkClose _ _ => exact nextInTurn_of_still (execBulkClose_still _ _ _)
  | kernelImageLoad _ _ _ => exact nextInTurn_of_turn (execKernelImageLoad_turn _ _ _ _)
  | firmwareImageWrite _ _ _ => exact nextInTurn_of_still (execFirmwareImageWrite_still _ _ _ _)
  | chartBlock _ _ _ => exact nextInTurn_of_turn (execChartBlock_turn _ _ _ _)
  | scheduleAdmission _ _ _ _ _ => exact nextInTurn_of_still (execScheduleAdmission_still _ _ _ _ _ _)
  | gateListStore _ _ _ => exact nextInTurn_of_still (execGateListStore_still _ _ _ _)
  | accept _ _ _ => exact nextInTurn_of_still (execAccept_still _ _ _ _)
  | installRoot _ _ _ => exact nextInTurn_of_still (execInstallRoot_still _ _ _ _)
  | jobKey _ _ _ => exact nextInTurn_of_still (execJobKey_still _ _ _ _)
  | rotate _ _ _ => exact nextInTurn_of_still (execRotate_still _ _ _ _)
  | saInstall _ _ _ => exact nextInTurn_of_still (execSaInstall_still _ _ _ _)
  | saRemove _ _ _ => exact nextInTurn_of_still (execSaRemove_still _ _ _ _)
  | keyEnd _ _ => exact nextInTurn_of_still (execKeyEnd_still _ _ _)
  | keySessionIdle _ => exact nextInTurn_of_still (execKeySessionIdle_still _ _)
  | bulkTimeout _ _ => exact nextInTurn_of_still (execBulkTimeout_still _ _ _)
  | partitionAssign _ _ _ => exact nextInTurn_of_still (execPartitionAssign_still _ _ _ _)
  | quotaSet _ _ _ => exact nextInTurn_of_still (execQuotaSet_still _ _ _ _)
  | shareSet _ _ _ => exact nextInTurn_of_still (execShareSet_still _ _ _ _)
  | partitionErase _ _ _ => exact nextInTurn_of_turn (execPartitionErase_turn _ _ _ _)
  | contextCreate _ _ _ _ => exact nextInTurn_of_still (execContextCreate_still _ _ _ _ _)
  | contextDestroy _ _ _ => exact nextInTurn_of_still (execContextDestroy_still _ _ _ _)
  | contextQuarantineEnd _ => exact nextInTurn_of_still (execContextQuarantineEnd_still _ _)
  | segmentSet _ _ _ => exact nextInTurn_of_still (execSegmentSet_still _ _ _ _)
  | queueCreate _ _ _ _ _ => exact nextInTurn_of_still (execQueueCreate_still _ _ _ _ _ _)
  | queueSet _ _ _ => exact nextInTurn_of_still (execQueueSet_still _ _ _ _)
  | queueDestroy _ _ _ => exact nextInTurn_of_still (execQueueDestroy_still _ _ _ _)
  | queueDestroyTimeout _ _ => exact nextInTurn_of_still (execQueueDestroyTimeout_still _ _ _)
  | ringCreate _ _ _ _ _ => exact nextInTurn_of_still (execRingCreate_still _ _ _ _ _ _)
  | ringDestroy _ _ _ => exact nextInTurn_of_still (execRingDestroy_still _ _ _ _)
  | regionRegister _ _ _ _ _ => exact nextInTurn_of_still (execRegionRegister_still _ _ _ _ _ _)
  | regionRevoke _ _ _ => exact nextInTurn_of_still (execRegionRevoke_still _ _ _ _)
  | regionQuarantineEnd _ => exact nextInTurn_of_still (execRegionQuarantineEnd_still _ _)
  | placeAlloc _ _ _ _ _ => exact nextInTurn_of_still (execPlaceAlloc_still _ _ _ _ _ _)
  | placeFree _ _ _ => exact nextInTurn_of_still (execPlaceFree_still _ _ _ _)
  | placeHint _ _ _ => exact nextInTurn_of_still (execPlaceHint_still _ _ _ _)
  | kernelUnload _ _ _ => exact nextInTurn_of_turn (execKernelUnload_turn _ _ _ _)
  | trigAlloc _ _ _ _ => exact nextInTurn_of_still (execTrigAlloc_still _ _ _ _ _)
  | trigFree _ _ _ => exact nextInTurn_of_still (execTrigFree_still _ _ _ _)
  | jobCreate _ _ _ => exact nextInTurn_of_still (execJobCreate_still _ _ _ _)
  | jobDestroy _ _ _ => exact nextInTurn_of_still (execJobDestroy_still _ _ _ _)
  | scheduleRelease _ _ _ => exact nextInTurn_of_still (execScheduleRelease_still _ _ _ _)
  | endpointSet _ _ _ => exact nextInTurn_of_turn (execEndpointSet_turn _ _ _ _)
  | portModeSet _ _ _ => exact nextInTurn_of_still (execPortModeSet_still _ _ _ _)
  | chartSwap _ _ _ => exact nextInTurn_of_turn (execChartSwap_turn _ _ _ _)
  | gateListSwap _ _ _ => exact nextInTurn_of_still (execGateListSwap_still _ _ _ _)
  | timeSourceSet _ _ _ => exact nextInTurn_of_turn (execTimeSourceSet_turn _ _ _ _)
  | partitionRekey _ _ _ => exact nextInTurn_of_still (execPartitionRekey_still _ _ _ _)
  | rekeyStatus _ _ => exact nextInTurn_of_still (execRekeyStatus_still _ _ _)
  | fwActivate _ _ _ => exact nextInTurn_of_still (execFwActivate_still _ _ _ _)
  | diagReport _ _ => exact nextInTurn_of_still (execDiagReport_still _ _ _)
  | dumpList _ _ => exact nextInTurn_of_still (execDumpList_still _ _ _)
  | qpCreate _ _ _ _ => exact nextInTurn_of_still (execQpCreate_still _ _ _ _ _)
  | qpDestroy _ _ _ => exact nextInTurn_of_still (execQpDestroy_still _ _ _ _)
  | nvmeAttach _ _ _ _ _ => exact nextInTurn_of_still (execNvmeAttach_still _ _ _ _ _ _)
  | nvmeDetach _ _ _ => exact nextInTurn_of_still (execNvmeDetach_still _ _ _ _)
  | fwAliveLapse => exact nextInTurn_of_still (execFwAliveLapse_still _)
  | firmwareRestart _ => exact nextInTurn_of_turn (execFirmwareRestart_turn _ _)
  | sourceLost => exact nextInTurn_of_still (execSourceLost_still _)
  | sourceQualifies _ => exact nextInTurn_of_turn (execSourceQualifies_turn _ _)
  | ppsInPulse _ _ => exact nextInTurn_of_turn (execPpsInPulse_turn _ _ _)
  | ptpMessage _ _ _ => exact nextInTurn_of_turn (execPtpMessage_turn _ _ _ _)
  | timeExchange _ => exact nextInTurn_of_still (execTimeExchange_still _ _)
  | timeReq _ stamp => exact nextInTurn_of_still (execTimeReq_still _ stamp _)
  | timeResp _ _ _ _ _ _ => exact nextInTurn_of_turn (execTimeResp_turn _ _ _ _ _ _ _)
  | lockEvaluate => exact nextInTurn_of_still (execLockEvaluate_still _)
  | rejoinDeadline => exact nextInTurn_of_still (execRejoinDeadline_still _)
  | ppsOutPulse => exact nextInTurn_of_still (execPpsOutPulse_still _)
  | chartBankSwap => exact nextInTurn_of_turn (execChartBankSwap_turn _)
  | retainEnd => exact nextInTurn_of_turn (execRetainEnd_turn _)
  | gateSwapAppointment _ => exact nextInTurn_of_turn (State.fire_turn _ _)
  | gateListTakeover _ => exact nextInTurn_of_still (execGateListTakeover_still _ _)
  | keyRotation _ _ => exact nextInTurn_of_turn (State.fire_turn _ _)
  | keyRetainEnd _ _ => exact nextInTurn_of_still (execKeyRetainEnd_still _ _ _)
  | surveyEpoch => exact nextInTurn_of_turn (State.fire_turn _ _)
  | collectiveStart _ _ => exact nextInTurn_of_turn (State.fire_turn _ _)
  | jobHeartbeat _ _ => exact nextInTurn_of_turn (State.fire_turn _ _)
  | sramScrub _ _ => exact nextInTurn_of_still (execSramScrub_still _ _ _)
  | patrolScrub _ _ => exact nextInTurn_of_still (execPatrolScrub_still _ _ _)
  | regionRetire _ _ => exact nextInTurn_of_still (execRegionRetire_still _ _ _)
  | retireMapWrite => exact nextInTurn_of_still (execRetireMapWrite_still _)
  | migrationStart _ _ _ _ _ _ => exact nextInTurn_of_still (execMigrationStart_still _ _ _ _ _ _ _)
  | preCopyPassEnd _ _ => exact nextInTurn_of_still (execPreCopyPassEnd_still _ _ _)
  | cutOver _ _ => exact nextInTurn_of_still (execCutOver_still _ _ _)
  | sourceFree _ _ => exact nextInTurn_of_still (execSourceFree_still _ _ _)
  | migrationRetry _ _ => exact nextInTurn_of_still (execMigrationRetry_still _ _ _)
  | tileStart _ => exact nextInTurn_of_still (execTileStart_still _ _)
  | translationCompletion _ _ _ => exact nextInTurn_of_still (execTranslationCompletion_still _ _ _ _)
  | pageRequestGroupResponse _ _ _ => exact nextInTurn_of_still (execPageRequestGroupResponse_still _ _ _ _)
  | pageRequestTimeout _ _ => exact nextInTurn_of_still (execPageRequestTimeout_still _ _ _)
  | invalidateRequest _ _ _ _ _ _ => exact nextInTurn_of_still (execInvalidateRequest_still _ _ _ _ _ _ _)
  | invalidationAck _ _ _ => exact nextInTurn_of_still (execInvalidationAck_still _ _ _ _)
  | staleReadExpiry _ _ => exact nextInTurn_of_still (execStaleReadExpiry_still _ _ _)
  | atsEnableClear _ => exact nextInTurn_of_still (execAtsEnableClear_still _ _)
  | priReset _ => exact nextInTurn_of_still (execPriReset_still _ _)
  | queDoorbell _ _ _ => exact nextInTurn_of_still (execQueDoorbell_still _ _ _ _)
  | slotReadComplete _ _ _ => exact nextInTurn_of_next (execSlotReadComplete_next _ _ _ _) (execSlotReadComplete_still _ _ _ _)
  | slotRefetch _ => exact nextInTurn_of_next (execSlotRefetch_next _ _) (execSlotRefetch_still _ _)
  | queRestart _ _ _ => exact nextInTurn_of_still (execQueRestart_still _ _ _ _)
  | queSuspend _ _ _ => exact nextInTurn_of_still (execQueSuspend_still _ _ _ _)
  | schedulerRound _ => exact nextInTurn_of_still (execSchedulerRound_still _ _)
  | nop _ _ => exact nextInTurn_of_still (execNop_still _ _ _)
  | write _ _ => exact nextInTurn_of_still (execWrite_still _ _ _)
  | read _ _ => exact nextInTurn_of_still (execRead_still _ _ _)
  | add64 _ _ => exact nextInTurn_of_still (execAdd64_still _ _ _)
  | add32 _ _ => exact nextInTurn_of_still (execAdd32_still _ _ _)
  | cas64 _ _ => exact nextInTurn_of_still (execCas64_still _ _ _)
  | cas32 _ _ => exact nextInTurn_of_still (execCas32_still _ _ _)
  | kernelStart _ _ _ => exact nextInTurn_of_still (execKernelStart_still _ _ _ _)
  | descriptorComplete _ _ => exact nextInTurn_of_still (execDescriptorComplete_still _ _ _)
  | completionFlushDone _ _ => exact nextInTurn_of_still (execCompletionFlushDone_still _ _ _)
  | cmpConsumer _ _ _ => exact nextInTurn_of_next (execCmpConsumer_next _ _ _ _) (execCmpConsumer_still _ _ _ _)
  | cmpIntArm _ _ _ => exact nextInTurn_of_next (execCmpIntArm_next _ _ _ _) (execCmpIntArm_still _ _ _ _)
  | holdoffExpiry _ => exact nextInTurn_of_still (execHoldoffExpiry_still _ _)
  | msixUnmask _ _ => exact nextInTurn_of_still (execMsixUnmask_still _ _ _)
  | messageBegin _ _ => exact nextInTurn_of_still (execMessageBegin_still _ _ _)
  | reservationGrant _ _ => exact nextInTurn_of_still (execReservationGrant_still _ _ _)
  | packetTransmit _ _ _ _ _ => exact nextInTurn_of_still (execPacketTransmit_still _ _ _ _ _ _)
  | epochReserved _ => exact nextInTurn_of_still (execEpochReserved_still _ _)
  | packetArrival _ _ _ => exact nextInTurn_of_still (execPacketArrival_still _ _ _ _)
  | tagVerify _ _ _ => exact nextInTurn_of_still (execTagVerify_still _ _ _ _)
  | recordExpiry _ _ => exact nextInTurn_of_still (execRecordExpiry_still _ _ _)
  | ack _ _ => exact nextInTurn_of_still (execAck_still _ _ _)
  | sack _ _ => exact nextInTurn_of_still (execSack_still _ _ _)
  | nak _ _ => exact nextInTurn_of_still (execNak_still _ _ _)
  | readResp _ _ => exact nextInTurn_of_still (execReadResp_still _ _ _)
  | retransmitTimeout _ _ => exact nextInTurn_of_still (execRetransmitTimeout_still _ _ _)
  | retryAfterEnd _ _ _ => exact nextInTurn_of_still (execRetryAfterEnd_still _ _ _ _)
  | messageExpiry _ _ => exact nextInTurn_of_still (execMessageExpiry_still _ _ _)
  | unreachableTimeout _ _ => exact nextInTurn_of_still (execUnreachableTimeout_still _ _ _)
  | ccBasePeriod _ => exact nextInTurn_of_still (execCcBasePeriod_still _ _)
  | ccIdleRaise _ _ => exact nextInTurn_of_still (execCcIdleRaise_still _ _ _)
  | drrRound _ _ => exact nextInTurn_of_still (execDrrRound_still _ _ _)
  | queueSample => exact nextInTurn_of_still (execQueueSample_still _)
  | portDetect _ => exact nextInTurn_of_still (execPortDetect_still _ _)
  | laneTrained _ => exact nextInTurn_of_still (execLaneTrained_still _ _)
  | codewordLock _ => exact nextInTurn_of_still (execCodewordLock_still _ _)
  | hello _ _ => exact nextInTurn_of_still (execHello_still _ _ _)
  | trainingTimeout _ => exact nextInTurn_of_still (execTrainingTimeout_still _ _)
  | lossOfSignal _ => exact nextInTurn_of_still (execLossOfSignal_still _ _)
  | controlFlitTimeout _ => exact nextInTurn_of_still (execControlFlitTimeout_still _ _)
  | downNotice _ => exact nextInTurn_of_still (execDownNotice_still _ _)
  | retrain _ _ _ => exact nextInTurn_of_still (execRetrain_still _ _ _ _)
  | dataFlit _ _ _ => exact nextInTurn_of_still (execDataFlit_still _ _ _ _)
  | keepalive _ => exact nextInTurn_of_still (execKeepalive_still _ _)
  | widthProposal _ _ _ _ _ => exact nextInTurn_of_still (execWidthProposal_still _ _ _ _ _ _)
  | widthReq _ _ _ _ _ => exact nextInTurn_of_still (execWidthReq_still _ _ _ _ _ _)
  | widthAck _ _ => exact nextInTurn_of_still (execWidthAck_still _ _ _)
  | widthSwitch _ => exact nextInTurn_of_still (execWidthSwitch_still _ _)
  | headArrival _ _ => exact nextInTurn_of_still (execHeadArrival_still _ _ _)
  | headForward _ _ => exact nextInTurn_of_still (execHeadForward_still _ _ _)
  | headRelax _ => exact nextInTurn_of_still (execHeadRelax_still _ _)
  | headPressed _ => exact nextInTurn_of_still (execHeadPressed_still _ _)
  | attSession _ _ _ _ => exact nextInTurn_of_still (execAttSession_still _ _ _ _ _)
  | attSessionTimeout _ => exact nextInTurn_of_still (execAttSessionTimeout_still _ _)
  | attCredit _ _ _ => exact nextInTurn_of_still (execAttCredit_still _ _ _ _)
  | attTrig _ _ _ _ => exact nextInTurn_of_still (execAttTrig_still _ _ _ _ _)
  | attReset _ => exact nextInTurn_of_still (execAttReset_still _ _)
  | relayUp _ _ => exact nextInTurn_of_still (execRelayUp_still _ _ _)
  | memWriteDone _ _ _ => exact nextInTurn_of_still (execMemWriteDone_still _ _ _ _)
  | memReadData _ _ _ _ => exact nextInTurn_of_still (execMemReadData_still _ _ _ _ _)
  | attachTimeout _ _ => exact nextInTurn_of_still (execAttachTimeout_still _ _ _)
  | graticuleJobEnd _ _ => exact nextInTurn_of_still (execGraticuleJobEnd_still _ _ _)
  | checkRepeat _ _ => exact nextInTurn_of_still (execCheckRepeat_still _ _ _)
  | graticuleSelfTestEnd _ _ => exact nextInTurn_of_still (execGraticuleSelfTestEnd_still _ _ _)
  | wipeComplete _ => exact nextInTurn_of_still (execWipeComplete_still _ _)
  | reductionEnd _ => exact nextInTurn_of_still (execReductionEnd_still _ _)
  | fetchLocal _ => exact nextInTurn_of_still (execFetchLocal_still _ _)
  | fetchRemote _ => exact nextInTurn_of_still (execFetchRemote_still _ _)
  | sendWrite _ => exact nextInTurn_of_still (execSendWrite_still _ _)
  | sendWriteFlag _ => exact nextInTurn_of_still (execSendWriteFlag_still _ _)
  | sendAdd64 _ => exact nextInTurn_of_still (execSendAdd64_still _ _)
  | xformGemm _ _ => exact nextInTurn_of_still (execXformGemm_still _ _ _)
  | xformReduce _ => exact nextInTurn_of_still (execXformReduce_still _ _)
  | xformConvert _ => exact nextInTurn_of_still (execXformConvert_still _ _)
  | waitTrigGe _ => exact nextInTurn_of_still (execWaitTrigGe_still _ _)
  | waitTrigTake _ => exact nextInTurn_of_still (execWaitTrigTake_still _ _)
  | waitTime _ => exact nextInTurn_of_still (execWaitTime_still _ _)
  | waitWordGe _ => exact nextInTurn_of_still (execWaitWordGe_still _ _)
  | waitSatisfied _ => exact nextInTurn_of_still (execWaitSatisfied_still _ _)
  | trigAdd _ => exact nextInTurn_of_still (execTrigAdd_still _ _)
  | trigSet _ => exact nextInTurn_of_still (execTrigSet_still _ _)
  | doorbell _ => exact nextInTurn_of_still (execDoorbell_still _ _)
  | loop _ => exact nextInTurn_of_still (execLoop_still _ _)
  | predEq _ => exact nextInTurn_of_still (execPredEq_still _ _)
  | predNe _ => exact nextInTurn_of_still (execPredNe_still _ _)
  | predLt _ => exact nextInTurn_of_still (execPredLt_still _ _)
  | predTrigGe _ => exact nextInTurn_of_still (execPredTrigGe_still _ _)
  | predFlags _ => exact nextInTurn_of_still (execPredFlags_still _ _)
  | mov _ => exact nextInTurn_of_still (execMov_still _ _)
  | setAdd _ => exact nextInTurn_of_still (execSetAdd_still _ _)
  | load _ => exact nextInTurn_of_still (execLoad_still _ _)
  | store _ => exact nextInTurn_of_still (execStore_still _ _)
  | seed _ => exact nextInTurn_of_still (execSeed_still _ _)
  | trigRead _ => exact nextInTurn_of_still (execTrigRead_still _ _)
  | coll _ => exact nextInTurn_of_still (execColl_still _ _)
  | exit _ => exact nextInTurn_of_still (execExit_still _ _)
  | stepComplete _ _ => exact nextInTurn_of_still (execStepComplete_still _ _ _)
  | stepTimeout _ _ => exact nextInTurn_of_still (execStepTimeout_still _ _ _)
  | collData _ _ => exact nextInTurn_of_still (execCollData_still _ _ _)
  | instanceEnd _ _ => exact nextInTurn_of_still (execInstanceEnd_still _ _ _)
  | heartbeat _ => exact nextInTurn_of_still (execHeartbeat_still _ _)
  | heartbeatSilence _ _ _ => exact nextInTurn_of_still (execHeartbeatSilence_still _ _ _ _)
  | beacon _ _ => exact nextInTurn_of_still (execBeacon_still _ _ _)
  | dlDown _ => exact nextInTurn_of_still (execDlDown_still _ _)
  | dlUp _ => exact nextInTurn_of_still (execDlUp_still _ _)
  | retrainTimeout _ => exact nextInTurn_of_still (execRetrainTimeout_still _ _)
  | hotReset _ => exact nextInTurn_of_still (execHotReset_still _ _)
  | perst _ => exact nextInTurn_of_still (execPerst_still _ _)
  | busMasterEnableClear _ => exact nextInTurn_of_still (execBusMasterEnableClear_still _ _)
  | flr _ => exact nextInTurn_of_still (execFlr_still _ _)
  | vfEnableClear _ => exact nextInTurn_of_still (execVfEnableClear_still _ _)
  | hostReadCompletion _ _ _ => exact nextInTurn_of_still (execHostReadCompletion_still _ _ _ _)
  | completionTimeout _ _ => exact nextInTurn_of_still (execCompletionTimeout_still _ _ _)
  | hdmDecoderCommit _ _ _ => exact nextInTurn_of_still (execHdmDecoderCommit_still _ _ _ _)
  | hdmDecoderUncommit _ => exact nextInTurn_of_still (execHdmDecoderUncommit_still _ _)
  | fnHdmLength _ _ _ => exact nextInTurn_of_still (execFnHdmLength_still _ _ _ _)
  | bar4Access _ _ _ _ => exact nextInTurn_of_still (execBar4Access_still _ _ _ _ _)
  | hostCxlMemRequest _ _ _ => exact nextInTurn_of_still (execHostCxlMemRequest_still _ _ _ _)
  | biasFlip _ _ => exact nextInTurn_of_still (execBiasFlip_still _ _ _)
  | biasGo _ _ => exact nextInTurn_of_still (execBiasGo_still _ _ _)
  | biasChangeDone _ => exact nextInTurn_of_still (execBiasChangeDone_still _ _)
  | p2pEnable _ _ _ => exact nextInTurn_of_still (execP2pEnable_still _ _ _ _)
  | p2pProbeResult _ _ _ => exact nextInTurn_of_still (execP2pProbeResult_still _ _ _ _)
  | lockInterfaceRequest _ => exact nextInTurn_of_still (execLockInterfaceRequest_still _ _)
  | startInterfaceRequest _ => exact nextInTurn_of_still (execStartInterfaceRequest_still _ _)
  | stopInterfaceRequest _ => exact nextInTurn_of_still (execStopInterfaceRequest_still _ _)
  | ideStreamFailure _ => exact nextInTurn_of_still (execIdeStreamFailure_still _ _)
  | getVersion _ => exact nextInTurn_of_turn (execGetVersion_turn _ _)
  | getCapabilities _ _ => exact nextInTurn_of_turn (execGetCapabilities_turn _ _ _)
  | negotiateAlgorithms _ _ _ _ _ => exact nextInTurn_of_turn (execNegotiateAlgorithms_turn _ _ _ _ _ _)
  | getDigests _ => exact nextInTurn_of_still (execGetDigests_still _ _)
  | getCertificate _ _ _ _ => exact nextInTurn_of_still (execGetCertificate_still _ _ _ _ _)
  | challenge _ _ _ => exact nextInTurn_of_still (execChallenge_still _ _ _ _)
  | getMeasurements _ _ _ _ => exact nextInTurn_of_still (execGetMeasurements_still _ _ _ _ _)
  | keyExchange _ _ => exact nextInTurn_of_turn (execKeyExchange_turn _ _ _)
  | finish _ _ _ => exact nextInTurn_of_turn (execFinish_turn _ _ _ _)
  | spdmHeartbeat _ _ => exact nextInTurn_of_still (execSpdmHeartbeat_still _ _ _)
  | keyUpdate _ _ _ => exact nextInTurn_of_turn (execKeyUpdate_turn _ _ _ _)
  | endSession _ _ => exact nextInTurn_of_turn (execEndSession_turn _ _ _)
  | vendorDefinedRequest _ _ _ _ => exact nextInTurn_of_still (execVendorDefinedRequest_still _ _ _ _ _)
  | frameReceive _ _ => exact nextInTurn_of_still (execFrameReceive_still _ _ _)
  | frameLeaveBuffer _ => exact nextInTurn_of_still (execFrameLeaveBuffer_still _ _)
  | pfcFrame _ _ => exact nextInTurn_of_still (execPfcFrame_still _ _ _)
  | arpRequest _ _ _ => exact nextInTurn_of_still (execArpRequest_still _ _ _ _)
  | neighborSolicitation _ _ _ => exact nextInTurn_of_still (execNeighborSolicitation_still _ _ _ _)
  | roceRequest _ _ _ _ => exact nextInTurn_of_still (execRoceRequest_still _ _ _ _ _)
  | roceNak _ _ _ => exact nextInTurn_of_still (execRoceNak_still _ _ _ _)
  | cnp _ => exact nextInTurn_of_still (execCnp_still _ _)
  | qpAckTimeout _ => exact nextInTurn_of_still (execQpAckTimeout_still _ _)
  | nvmeCompletion _ _ _ _ => exact nextInTurn_of_still (execNvmeCompletion_still _ _ _ _ _)
  | keepAlive _ => exact nextInTurn_of_still (execKeepAlive_still _ _)
  | associationLoss _ => exact nextInTurn_of_still (execAssociationLoss_still _ _)
  | sealedStateWritten => exact nextInTurn_of_still (execSealedStateWritten_still _)
  | rekeyStep _ => exact nextInTurn_of_still (execRekeyStep_still _ _)
  | rekeyStepWritten _ => exact nextInTurn_of_still (execRekeyStepWritten_still _ _)
  | kbxClaim _ => exact nextInTurn_of_turn (execKbxClaim_turn _ _)
  | kbxRelease _ => exact nextInTurn_of_turn (execKbxRelease_turn _ _)
  | kbxStart _ _ => exact nextInTurn_of_turn (execKbxStart_turn _ _ _)
  | kbxBlockDone => exact nextInTurn_of_turn (execKbxBlockDone_turn _)
  | kbxExpiry => exact nextInTurn_of_turn (execKbxExpiry_turn _)
  | warmReset _ => exact nextInTurn_of_turn (execWarmReset_turn _ _)
  | cdcWake _ => exact nextInTurn_of_still (execCdcWake_still _ _)
  | cdcTimeout _ _ => exact nextInTurn_of_turn (execCdcTimeout_turn _ _ _)
  | unitHung _ => exact nextInTurn_of_turn (execUnitHung_turn _ _)
  | unitSelfTestEnd _ _ => exact nextInTurn_of_still (execUnitSelfTestEnd_still _ _ _)
  | activateFirmware => exact nextInTurn_of_turn (execActivateFirmware_turn _)
  | pldmFirmwareUpdate _ _ _ => exact nextInTurn_of_still (execPldmFirmwareUpdate_still _ _ _ _)
  | coldPowerUp => exact nextInTurn_of_turn (execColdPowerUp_turn _)
  | boot _ => exact nextInTurn_of_still (execBoot_still _ _)
  | inputExcursion _ _ => exact nextInTurn_of_turn (execInputExcursion_turn _ _ _)
  | inputRestored _ => exact nextInTurn_of_turn (execInputRestored_turn _ _)
  | leaveGrant _ => exact nextInTurn_of_still (execLeaveGrant_still _ _)
  | noLeave _ => exact nextInTurn_of_still (execNoLeave_still _ _)
  | powerAverageUpdate _ => exact nextInTurn_of_still (execPowerAverageUpdate_still _ _)
  | backstop _ => exact nextInTurn_of_still (execBackstop_still _ _)
  | pwrCapWrite _ _ => exact nextInTurn_of_still (execPwrCapWrite_still _ _ _)
  | capEffecter _ _ => exact nextInTurn_of_still (execCapEffecter_still _ _ _)
  | thermalWarning _ _ => exact nextInTurn_of_still (execThermalWarning_still _ _ _)
  | thermalThrottle _ _ => exact nextInTurn_of_still (execThermalThrottle_still _ _ _)
  | throttleExit => exact nextInTurn_of_still (execThrottleExit_still _)
  | thermalTrip _ _ => exact nextInTurn_of_turn (execThermalTrip_turn _ _ _)
  | quadrantIdle _ => exact nextInTurn_of_still (execQuadrantIdle_still _ _)
  | channelPowerDown _ => exact nextInTurn_of_still (execChannelPowerDown_still _ _)
  | atlasChoiceChange _ => exact nextInTurn_of_still (execAtlasChoiceChange_still _ _)
  | perstNDeassertion _ => exact nextInTurn_of_still (execPerstNDeassertion_still _ _)
  | flashWpNChange _ => exact nextInTurn_of_still (execFlashWpNChange_still _ _)
  | cxlMemEnable _ _ => exact nextInTurn_of_still (execCxlMemEnable_still _ _ _)
  | cxlCacheLineGrant _ _ _ => exact nextInTurn_of_still (execCxlCacheLineGrant_still _ _ _ _)
  | backstopRelease _ => exact nextInTurn_of_still (execBackstopRelease_still _ _)
  | thermAlertRelease => exact nextInTurn_of_still (execThermAlertRelease_still _)
  | thermalTripRelease => exact nextInTurn_of_still (execThermalTripRelease_still _)
  | ppsOutFall => exact nextInTurn_of_still (execPpsOutFall_still _)
  | pfcPauseExpiry _ _ => exact nextInTurn_of_still (execPfcPauseExpiry_still _ _ _)
  | queuePairReply _ _ _ _ => exact nextInTurn_of_still (execQueuePairReply_still _ _ _ _ _)
  | lossOfPowerGood => exact nextInTurn_of_turn (execLossOfPowerGood_turn _)

/-- Settles O6, from the laws of the single commands. -/
theorem everyCommandAnswers : Obligations.EveryCommandAnswers := exec_nextInTurn

end Sys2Proof.Machine

/-!
Register reads (R6 to R10): where a BAR0 offset lies, what a read of each width answers and clears, and what a request
that a function does not take gets.
-/

namespace Sys2Proof.Machine

/-! ## Where an offset lies (R416, R567) -/

/-- The MBX_ block is presented by every function. -/
theorem blockOf_mbx (fn : Nat) {r : Nat} (h : r < 0x10000) : blockOf fn (0x10000 + r) = some (.mbx, r) := by
  grind [blockOf]

theorem blockOf_pwr {fn r : Nat} (hp : isPf fn = true) (h : r < 0x10000) : blockOf fn (0x50000 + r) = some (.pwr, r) := by
  grind [blockOf]

theorem blockOf_fab {fn r : Nat} (hp : isPf fn = true) (h : r < 0x20000) : blockOf fn (0xA0000 + r) = some (.fab, r) := by
  grind [blockOf]

theorem blockOf_grt {fn r : Nat} (hp : isPf fn = true) (h : r < 0x20000) : blockOf fn (0xC0000 + r) = some (.grt, r) := by
  grind [blockOf]

theorem blockOf_ksq {fn r : Nat} (hp : isPf fn = true) (h : r < 0x20000) : blockOf fn (0xE0000 + r) = some (.ksq, r) := by
  grind [blockOf]

theorem State.reg_of_block (s : State) {fn o r : Nat} {b : Block} (h : blockOf fn o = some (b, r)) :
    s.reg fn o = s.readBlock fn r b := by
  simp [State.reg, h]

theorem State.clearReg_of_block (s : State) {fn o r : Nat} {b : Block} (h : blockOf fn o = some (b, r)) :
    s.clearReg fn o = s.clearBlock fn r b := by
  simp [State.clearReg, h]

/-! ## What a request gets (R8, R180, R421) -/

theorem exec_readClear (fn bar o w : Nat) (s : State) :
    exec (.readClear fn bar o w) s = execReadClear fn bar o w s := rfl

theorem exec_lowHalfRead (fn bar o : Nat) (s : State) :
    exec (.lowHalfRead fn bar o) s = execLowHalfRead fn bar o s := rfl

theorem exec_registerWrite (fn bar o w : Nat) (v : W64) (s : State) :
    exec (.registerWrite fn bar o w v) s = execRegisterWrite fn bar o w v s := rfl

theorem State.present_of_mmioOk {s : State} {fn : Nat} (h : s.mmioOk fn = true) : (s.func fn).present = true := by
  simp only [State.mmioOk, Bool.and_eq_true] at h; exact h.1

/-- A function that takes memory requests takes those of every BAR that come through IDE where its state asks for it. -/
theorem State.barOk_of_mmioOk {s : State} {fn bar : Nat} (h : s.mmioOk fn = true) (hb : bar < 32) :
    s.barOk fn bar = true := by
  simp [State.barOk, h, hb]

/-- In RUN a request that does not come through IDE is not taken. -/
theorem State.barOk_of_inRun {s : State} {fn bar : Nat} (h : s.inRun fn = true) (hb : 32 ≤ bar) :
    s.barOk fn bar = false := by
  simp [State.barOk, h]; omega

/-- An aligned 32-bit read of BAR0. -/
theorem execReadClear_dword {s : State} {fn o : Nat} (h : s.mmioOk fn = true) (ho : o % 4 = 0) :
    execReadClear fn 0 o 4 s = .next ((s.read32 fn o).2.answerRead fn (s.read32 fn o).1) := by
  simp [execReadClear, State.barOk_of_mmioOk h, accessOk, ho]

/-- An aligned 64-bit read of BAR0. -/
theorem execReadClear_qword {s : State} {fn o : Nat} (h : s.mmioOk fn = true) (ho : o % 8 = 0) :
    execReadClear fn 0 o 8 s = .next ((s.read64 fn o).2.answerRead fn (s.read64 fn o).1) := by
  simp [execReadClear, State.barOk_of_mmioOk h, accessOk, ho]

/-- LOW_HALF_READ of BAR0 is its 32-bit read. -/
theorem execLowHalfRead_eq_dword {s : State} {fn o : Nat} (h : s.mmioOk fn = true) (ho : o % 4 = 0) :
    execLowHalfRead fn 0 o s = execReadClear fn 0 o 4 s := by
  simp [execReadClear_dword h ho, execLowHalfRead, State.barOk_of_mmioOk h, accessOk, ho]

theorem execReadClear_bar2 {s : State} {fn : Nat} (h : s.mmioOk fn = true) (o w : Nat) :
    execReadClear fn 2 o w s = .next (s.answerRead fn 0) := by
  simp [execReadClear, State.barOk_of_mmioOk h]

theorem execLowHalfRead_bar2 {s : State} {fn : Nat} (h : s.mmioOk fn = true) (o : Nat) :
    execLowHalfRead fn 2 o s = .next (s.answerRead fn 0) := by
  simp [execLowHalfRead, State.barOk_of_mmioOk h]

theorem execReadClear_capability {s : State} {fn : Nat} (h : s.mmioOk fn = true) (o w : Nat) :
    execReadClear fn 15 o w s = .next (s.answerRead fn (s.readControl fn o)) := by
  simp [execReadClear, State.present_of_mmioOk h]

/-! ## What a read of a register answers and clears (R6, R9) -/

theorem State.read32_of_dword {s : State} {fn o v : Nat} (h : s.reg fn o = some (4, v)) :
    s.read32 fn o = (v, s.clearReg fn o) := by
  simp [State.read32, h]

/-- The low half of a 64-bit register: the read latches the high half. -/
theorem State.read32_of_qword {s : State} {fn o v : Nat} (h : s.reg fn o = some (8, v)) :
    s.read32 fn o = (v % 2 ^ 32,
      (s.modFunc fn fun f => { f with highLatch := tblSet f.highLatch (o + 4) (w32 (v / 2 ^ 32)) }).clearReg fn o) := by
  simp [State.read32, h]

/-- The high half of a 64-bit register: the read spends what the read of the low half latched. -/
theorem State.read32_of_latch {s : State} {fn o v : Nat} {x : W32} (ho : o % 8 = 0) (h : s.reg fn o = some (8, v))
    (hn : s.reg fn (o + 4) = none) (hx : tblGet (s.func fn).highLatch (o + 4) = some x) :
    s.read32 fn (o + 4) = (x.toNat, s.modFunc fn fun f => { f with highLatch := tblErase f.highLatch (o + 4) }) := by
  have hm : (o + 4) % 8 = 4 := by omega
  simp [State.read32, h, hn, hm, hx]

theorem State.read64_of_qword {s : State} {fn o v : Nat} (h : s.reg fn o = some (8, v)) :
    s.read64 fn o = (v, s.clearReg fn o) := by
  simp [State.read64, h]

/-! ## Counters that a read clears (R6, R317, R367, R410, R549) -/

/-- The FAB_PORT registers of a port stand 0x20 apart. -/
theorem State.readFab_port (s : State) {port r : Nat} (hn : port < 32) (hr : r < 0x20) :
    s.readFab (0x100 + 0x20 * port + r) = (s.port port).fabRegister r := by
  have hd : (0x100 + 0x20 * port + r - 0x100) / 0x20 = port := by omega
  have hm : (0x100 + 0x20 * port + r - 0x100) % 0x20 = r := by omega
  unfold State.readFab
  rw [if_neg (by omega), if_neg (by omega), if_neg (by omega), if_pos (by omega), hd, hm]

theorem State.clearBlock_fab_port (s : State) (fn : Nat) {port r : Nat} (hn : port < 32) (hr : r < 0x20) :
    s.clearBlock fn (0x100 + 0x20 * port + r) .fab = s.modPort port fun x => x.clearFab r := by
  have hd : (0x100 + 0x20 * port + r - 0x100) / 0x20 = port := by omega
  have hm : (0x100 + 0x20 * port + r - 0x100) % 0x20 = r := by omega
  simp only [State.clearBlock]
  rw [if_pos (by omega), hd, hm]

section Cleared

variable (s : State) {fn : Nat} (hp : isPf fn = true)
include hp

theorem State.reg_fab_port {port r : Nat} (hn : port < 32) (hr : r < 0x20) :
    s.reg fn (0xA0100 + 0x20 * port + r) = (s.port port).fabRegister r := by
  rw [show 0xA0100 + 0x20 * port + r = 0xA0000 + (0x100 + 0x20 * port + r) by omega,
    s.reg_of_block (blockOf_fab hp (by omega))]
  exact s.readFab_port hn hr

theorem State.clearReg_fab_port {port r : Nat} (hn : port < 32) (hr : r < 0x20) :
    s.clearReg fn (0xA0100 + 0x20 * port + r) = s.modPort port fun x => x.clearFab r := by
  rw [show 0xA0100 + 0x20 * port + r = 0xA0000 + (0x100 + 0x20 * port + r) by omega,
    s.clearReg_of_block (blockOf_fab hp (by omega))]
  exact s.clearBlock_fab_port fn hn hr

/-- FAB_ATT_STATUS of an accelerator. -/
theorem State.clearReg_attStatus {a : Nat} (h : a < 8) :
    s.clearReg fn (0xA0608 + 0x10 * a) = s.modAccel a fun x => { x with rejects := 0 } := by
  rw [show 0xA0608 + 0x10 * a = 0xA0000 + (0x608 + 0x10 * a) by omega, s.clearReg_of_block (blockOf_fab hp (by omega))]
  simp only [State.clearBlock]
  rw [if_neg (by omega), if_pos (by omega), show (0x608 + 0x10 * a - 0x600) / 0x10 = a by omega]

theorem State.clearReg_gratCount {g : Nat} (h : g < 8) :
    s.clearReg fn (0xC0108 + 0x10 * g) = s.modGrat g fun y => { y with
      jobs := 0, checkFailed := 0, retryOk := 0, skipped := 0, invalidCount := 0, overflowCount := 0 } := by
  rw [show 0xC0108 + 0x10 * g = 0xC0000 + (0x108 + 0x10 * g) by omega, s.clearReg_of_block (blockOf_grt hp (by omega))]
  simp only [State.clearBlock]
  rw [if_pos (by omega), show (0x108 + 0x10 * g - 0x100) / 0x10 = g by omega]

theorem State.clearReg_redCount {u : Nat} (h : u < 8) :
    s.clearReg fn (0xC0208 + 0x10 * u) =
      s.modRed u fun y => { y with reductions := 0, invalidCount := 0, overflowCount := 0 } := by
  rw [show 0xC0208 + 0x10 * u = 0xC0000 + (0x208 + 0x10 * u) by omega, s.clearReg_of_block (blockOf_grt hp (by omega))]
  simp only [State.clearBlock]
  rw [if_neg (by omega), if_pos (by omega), show (0x208 + 0x10 * u - 0x200) / 0x10 = u by omega]

theorem State.clearReg_seqCount {k : Nat} (h : k < 64) :
    s.clearReg fn (0xE0008 + 0x10 * k) = s.modSeq k fun x => { x with ended := 0, failed := 0, timeouts := 0 } := by
  rw [show 0xE0008 + 0x10 * k = 0xE0000 + (8 + 0x10 * k) by omega, s.clearReg_of_block (blockOf_ksq hp (by omega))]
  simp only [State.clearBlock]
  rw [if_pos (by omega), show (8 + 0x10 * k) / 16 = k by omega]

theorem State.reg_pwrGrants :
    s.reg fn 0x50018 = some (8, at' 32 s.power.grants.toNat + at' 16 s.power.waits + s.power.backstops) :=
  s.reg_of_block (blockOf_pwr (r := 0x18) hp (by omega))

theorem State.clearReg_pwrGrants :
    s.clearReg fn 0x50018 = { s with power := { s.power with grants := 0, waits := 0, backstops := 0 } } :=
  s.clearReg_of_block (blockOf_pwr (r := 0x18) hp (by omega))

/-- PWR_POWER holds no RC field. -/
theorem State.clearReg_pwrPower : s.clearReg fn 0x50008 = s :=
  s.clearReg_of_block (blockOf_pwr (r := 8) hp (by omega))

/-- FN_HOLD of the PF's host port. -/
theorem State.clearReg_fnHold : s.clearReg fn 0x18 = s.modHost (fnPort fn) fun h => { h with retrains := 0 } := by
  rw [s.clearReg_of_block (b := .fn) (r := 0x18) rfl]
  simp [State.clearBlock, hp]

end Cleared

/-- MER_NOW holds no RC field. -/
theorem State.clearReg_merNow (s : State) (fn : Nat) : s.clearReg fn 0x400000 = s :=
  s.clearReg_of_block (b := .mer) (r := 0) rfl

/-! ## The registers of a mailbox (R38, R40) -/

theorem State.reg_mailbox (s : State) {fn m r : Nat} (hm : m < mailboxesOf fn) (hr : r < 0x400) :
    s.reg fn (0x10000 + 0x400 * m + r) = s.readMbx fn (0x400 * m + r) := by
  have h4 : mailboxesOf fn ≤ 4 := by unfold mailboxesOf; split <;> omega
  rw [show 0x10000 + 0x400 * m + r = 0x10000 + (0x400 * m + r) by omega]
  exact s.reg_of_block (blockOf_mbx fn (by omega))

theorem b2n_le_one (b : Bool) : b2n b ≤ 1 := by cases b <;> decide

@[simp] theorem b2n_beq_one (b : Bool) : (b2n b == 1) = b := by cases b <;> rfl

/-- The bits of MBX_STATUS that a host polls: no flag reaches the bit of the next. -/
theorem State.mbxStatus_bits (s : State) (k : Nat) :
    bit (s.mbxStatus k) 0 = (s.mbx k).busy ∧ bit (s.mbxStatus k) 1 = (s.mbx k).done ∧
      bit (s.mbxStatus k) 4 = s.fw.alive := by
  have busy := b2n_le_one (s.mbx k).busy
  have done := b2n_le_one (s.mbx k).done
  have overrun := b2n_le_one (s.mbx k).overrun
  have restarted := b2n_le_one (s.mbx k).restarted
  have alive := b2n_le_one s.fw.alive
  have b0 : s.mbxStatus k / 2 ^ 0 % 2 = b2n (s.mbx k).busy := by simp only [State.mbxStatus, flag, at']; omega
  have b1 : s.mbxStatus k / 2 ^ 1 % 2 = b2n (s.mbx k).done := by simp only [State.mbxStatus, flag, at']; omega
  have b4 : s.mbxStatus k / 2 ^ 4 % 2 = b2n s.fw.alive := by simp only [State.mbxStatus, flag, at']; omega
  simp only [bit, b0, b1, b4, b2n_beq_one, and_self]

section Mailbox

variable (s : State) {fn m : Nat} (hm : m < mailboxesOf fn)
include hm

theorem State.reg_mbxStatus : s.reg fn (0x10000 + 0x400 * m + 0x18) = some (4, s.mbxStatus (mbxKey fn m)) := by
  rw [s.reg_mailbox hm (by omega)]
  have hd : (0x400 * m + 0x18) / 0x400 = m := by omega
  simp [State.readMbx, hd, Nat.not_le.mpr hm]

theorem State.reg_mbxResp : s.reg fn (0x10000 + 0x400 * m + 0x10) = some (8, (s.mbx (mbxKey fn m)).resp.toNat) := by
  rw [s.reg_mailbox hm (by omega)]
  have hd : (0x400 * m + 0x10) / 0x400 = m := by omega
  simp [State.readMbx, hd, Nat.not_le.mpr hm]

theorem State.reg_mbxDoorbell : s.reg fn (0x10000 + 0x400 * m + 8) = some (4, 0) := by
  rw [s.reg_mailbox hm (by omega)]
  have hd : (0x400 * m + 8) / 0x400 = m := by omega
  simp [State.readMbx, hd, Nat.not_le.mpr hm]

theorem State.reg_mbxData {j : Nat} (hj : j < 32) : s.reg fn (0x10000 + 0x400 * m + 0x100 + 8 * j) =
    some (8, if (s.mbx (mbxKey fn m)).busy then 0 else (s.mbx (mbxKey fn m)).arg j) := by
  rw [Nat.add_assoc _ 0x100, s.reg_mailbox hm (by omega)]
  have hd : (0x400 * m + (0x100 + 8 * j)) / 0x400 = m := by omega
  have hr : (0x400 * m + (0x100 + 8 * j)) % 0x400 = 0x100 + 8 * j := by omega
  simp only [State.readMbx, hd, hr]
  rw [if_neg (by omega), if_neg (by omega), if_neg (by omega), if_neg (by omega), if_neg (by omega), if_neg (by omega),
    if_neg (by omega), if_pos (by omega), show (0x100 + 8 * j - 0x100) / 8 = j by omega]

end Mailbox

/-! ## Register reads answer -/

/-- A 32-bit register. -/
theorem dwordRead_answers {s : State} {fn o v : Nat} (hf : s.mmioOk fn = true) (ho : o % 4 = 0)
    (h : s.reg fn o = some (4, v)) :
    exec (.readClear fn 0 o 4) s = .next ((s.clearReg fn o).emit (.readData fn (w64 v))) ∧
      exec (.lowHalfRead fn 0 o) s = exec (.readClear fn 0 o 4) s := by
  refine ⟨?_, execLowHalfRead_eq_dword hf ho⟩
  rw [exec_readClear, execReadClear_dword hf ho, State.read32_of_dword h, State.answerRead]

/-- A 64-bit register, in one access and by halves. -/
theorem qwordRead_answers {s : State} {fn o v : Nat} (hf : s.mmioOk fn = true) (ho : o % 8 = 0)
    (h : s.reg fn o = some (8, v)) :
    let u := s.modFunc fn fun f => { f with highLatch := tblSet f.highLatch (o + 4) (w32 (v / 2 ^ 32)) }
    exec (.readClear fn 0 o 8) s = .next ((s.clearReg fn o).emit (.readData fn (w64 v))) ∧
      exec (.lowHalfRead fn 0 o) s = .next ((u.clearReg fn o).emit (.readData fn (w64 (v % 2 ^ 32)))) ∧
      ∀ x, s.reg fn (o + 4) = none → tblGet (s.func fn).highLatch (o + 4) = some x →
        exec (.readClear fn 0 (o + 4) 4) s = .next
          ((s.modFunc fn fun f => { f with highLatch := tblErase f.highLatch (o + 4) }).emit
            (.readData fn (w64 x.toNat))) := by
  refine ⟨?_, ?_, fun x hn hx => ?_⟩
  · rw [exec_readClear, execReadClear_qword hf ho, State.read64_of_qword h, State.answerRead]
  · rw [exec_lowHalfRead, execLowHalfRead_eq_dword hf (by omega), execReadClear_dword hf (by omega), State.read32_of_qword h,
      State.answerRead]
  · rw [exec_readClear, execReadClear_dword hf (by omega), State.read32_of_latch ho h hn hx, State.answerRead]

/-- Settles O60, register by register. -/
theorem registerReadsAnswer : Obligations.RegisterReadsAnswer := by
  intro s fn o v
  refine ⟨dwordRead_answers, qwordRead_answers, ?counters, ?mailbox, ?others, ?noIde⟩
  case counters =>
    intro port g k _ hp hport hg hk
    refine ⟨s.reg_pwrGrants hp, s.clearReg_pwrGrants hp, ?_, ?_, ?_, s.clearReg_gratCount hp hg, s.clearReg_redCount hp hg,
      s.clearReg_seqCount hp hk, s.clearReg_attStatus hp hg, s.clearReg_fnHold hp, s.clearReg_pwrPower hp,
      s.clearReg_merNow fn⟩
    · rw [show 0xA0108 + 0x20 * port = 0xA0100 + 0x20 * port + 8 by omega, s.reg_fab_port hp hport (by omega)]
      rfl
    · rw [show 0xA0108 + 0x20 * port = 0xA0100 + 0x20 * port + 8 by omega, s.clearReg_fab_port hp hport (by omega)]
      rfl
    · rw [show 0xA0110 + 0x20 * port = 0xA0100 + 0x20 * port + 0x10 by omega, s.clearReg_fab_port hp hport (by omega)]
      rfl
  case mailbox =>
    intro m j hm hj
    exact ⟨⟨_, s.reg_mbxStatus hm, s.mbxStatus_bits _⟩, s.reg_mbxResp hm, s.reg_mbxDoorbell hm, s.reg_mbxData hm hj⟩
  case others =>
    intro w hf hp
    have cap (c : Nat) : exec (.readClear fn 15 c 4) s = .next (s.answerRead fn (s.readControl fn c)) :=
      execReadClear_capability hf c 4
    refine ⟨execReadClear_bar2 hf o w, execLowHalfRead_bar2 hf o, ?_, ?_, ?_, ?_, ?_⟩
    · rw [cap]; rfl
    · rw [cap]; rfl
    · rw [cap]; simp [State.readControl, hp, State.answerRead, w64]
    · rw [cap]; rfl
    · simp [exec_readClear, execReadClear, State.readKbx, State.answerRead, w64]
  case noIde =>
    intro _ hr
    have hb : s.barOk fn 32 = false := State.barOk_of_inRun hr (by omega)
    simp [exec_readClear, exec_lowHalfRead, exec_registerWrite, execReadClear, execLowHalfRead, execRegisterWrite, hb,
      State.refuseRead]

end Sys2Proof.Machine

/-!
A completion entry of a TEE Device Interface in RUN (R205, R421): its posted write carries T at 1.
-/

namespace Sys2Proof.Machine

/-- A send queue of VF 1 that holds an ended descriptor. -/
def tdiQueue : Queue := { fn := 1, ring := 1, held := [{ index := 5, phase := .completed }] }

/-- VF 1 in the TDISP state RUN, with that queue and its ring; its host link is up. -/
def tdiRing : State :=
  { State.reset with
    funcs := [(1, { present := true, tdisp := 2 })]
    hosts := [(0, { linkUp := true })]
    queues := [(2, tdiQueue)]
    rings := [(1, { fn := 1 })] }

/-- The one write that DESCRIPTOR_COMPLETE issues there carries T at 1. -/
theorem tdiRing_entry_trusted :
    (stateAfter tdiRing (exec (.descriptorComplete 2 5) tdiRing)).out =
      [.hostWrite 0 { fn := 1, bytes := entryBytes 0 { queue := 2, descIndex := 5 }, relaxed := false
                      trusted := true }] := by
  decide +kernel

/-- Refutes O27: the write of a completion entry of a VF in the TDISP state RUN carries T at 1 (R421), and the statement
asks for one with T at 0. -/
theorem not_completionRingsFill : ¬ Obligations.CompletionRingsFill := by
  unfold Obligations.CompletionRingsFill
  intro h
  obtain ⟨-, -, -, -, written, -⟩ := h tdiRing
  obtain ⟨plain, -, -⟩ := written 2 5 tdiQueue { index := 5, phase := .completed } { fn := 1 } (by decide +kernel)
    (by decide +kernel) rfl (by decide +kernel) (by decide +kernel) (by decide +kernel) (by decide +kernel)
    (by decide +kernel)
  obtain ⟨t, ht, -, -, sent, -⟩ := plain rfl (by decide +kernel) rfl rfl
  have out := tdiRing_entry_trusted
  rw [ht, stateAfter_next] at out
  have untrusted := sent (by decide +kernel)
  rw [out] at untrusted
  simp at untrusted

end Sys2Proof.Machine

/-!
How descriptors start (R189 to R191, R217, R246, R254, R370 to R372): what a change of a held descriptor leaves alone,
how a message takes the next entry of a quadrant's sender table, and what a started descriptor of each kind does.
-/

namespace Sys2Proof.Machine

/-! ## The descriptors a queue holds -/

/-- A queue with the held descriptors of an index changed. -/
def Queue.withDesc (x : Queue) (i : W32) (g : Desc → Desc) : Queue :=
  { x with held := x.held.map fun d => if d.index == i then g d else d }

/-- A change that keeps the indices changes the first descriptor of an index. -/
theorem Queue.withDesc_find (x : Queue) (i : W32) (g : Desc → Desc) (hg : ∀ d, (g d).index = d.index) :
    ((x.withDesc i g).held.find? fun d => d.index == i) = (x.held.find? fun d => d.index == i).map g := by
  show (x.held.map fun d => if d.index == i then g d else d).find? _ = _
  induction x.held with
  | nil => rfl
  | cons d l ih =>
    rw [List.map_cons, List.find?_cons, List.find?_cons, ih]
    cases h : d.index == i <;> simp [h, hg]

@[simp] theorem State.setQueue_queue_same (s : State) (q : Nat) (x : Queue) : (s.setQueue q x).queue? q = some x :=
  tblGet_set_same _ _ _

theorem State.desc_of_queue {s : State} {q : Nat} {x : Queue} (h : s.queue? q = some x) (i : W32) :
    s.desc? q i = x.held.find? fun d => d.index == i := by
  simp [State.desc?, h]

theorem State.modDesc_of_queue {s : State} {q : Nat} {x : Queue} (h : s.queue? q = some x) (i : W32)
    (g : Desc → Desc) : s.modDesc q i g = s.setQueue q (x.withDesc i g) := by
  simp [State.modDesc, State.modQueue, h, Queue.withDesc]

theorem State.modDesc_queue_same {s : State} {q : Nat} {x : Queue} (h : s.queue? q = some x) (i : W32)
    (g : Desc → Desc) : (s.modDesc q i g).queue? q = some (x.withDesc i g) := by
  rw [s.modDesc_of_queue h, State.setQueue_queue_same]

theorem State.modDesc_desc_same {s : State} {q : Nat} {i : W32} {d : Desc} (h : s.desc? q i = some d)
    (g : Desc → Desc) (hg : ∀ d, (g d).index = d.index) : (s.modDesc q i g).desc? q i = some (g d) := by
  cases hx : s.queue? q with
  | none => simp [State.desc?, hx] at h
  | some x =>
    rw [State.desc_of_queue hx] at h
    rw [State.desc_of_queue (State.modDesc_queue_same hx i g), x.withDesc_find i g hg, h]
    rfl

theorem State.endDesc_desc_same {s : State} {q : Nat} {i : W32} {d : Desc} (h : s.desc? q i = some d)
    (hp : d.phase ≠ .completed) (status detail : Nat) :
    (s.endDesc q i status detail).desc? q i = some { d with phase := .completed, status, detail, toSend := [] } := by
  rw [State.endDesc, State.modDesc_desc_same h _ fun d => by split <;> rfl]
  simp [hp]

theorem State.modDesc_eq (s : State) (q : Nat) (i : W32) (g : Desc → Desc) :
    s.modDesc q i g = { s with queues := (s.modDesc q i g).queues } := by
  unfold State.modDesc State.modQueue; split <;> rfl

@[simp] theorem State.modDesc_quads (s : State) (q : Nat) (i : W32) (g : Desc → Desc) :
    (s.modDesc q i g).quads = s.quads := by
  rw [State.modDesc_eq]

@[simp] theorem State.modDesc_seq (s : State) (q : Nat) (i : W32) (g : Desc → Desc) (k : Nat) :
    (s.modDesc q i g).seq k = s.seq k := by
  rw [State.modDesc_eq]; rfl

@[simp] theorem State.modDesc_quad (s : State) (q : Nat) (i : W32) (g : Desc → Desc) (n : Nat) :
    (s.modDesc q i g).quad n = s.quad n := by
  rw [State.quad, State.modDesc_quads, State.quad]

theorem State.startedDesc_iff (s : State) (q : Nat) (i : W32) (op : Nat) (x : Queue) (d : Desc) :
    s.startedDesc q i op = some (x, d) ↔ s.queue? q = some x ∧ s.desc? q i = some d ∧ d.opcode = op ∧
      x.begunBefore i = true ∧ (d.phase = .started ∨ d.phase = .running ∧ x.bound ≠ .none) := by
  unfold State.startedDesc
  cases s.queue? q <;> cases s.desc? q i <;> simp
  grind

/-- A started descriptor of a queue that is not bound has not begun its work. -/
theorem State.startedDesc_phase {s : State} {q : Nat} {i : W32} {op : Nat} {x : Queue} {d : Desc}
    (h : s.startedDesc q i op = some (x, d)) (hb : x.bound = .none) : d.phase = .started := by
  obtain ⟨-, -, -, -, hp⟩ := (s.startedDesc_iff q i op x d).1 h
  simpa [hb] using hp

/-! ## The part that sending leaves alone -/

/-- The state but for its queues and quadrants. -/
def State.offSend (s : State) : State := { s with quads := [], queues := [] }

theorem State.eq_of_offSend {s t : State} (h : t.offSend = s.offSend) :
    t = { s with quads := t.quads, queues := t.queues } :=
  congrArg (fun u : State => { u with quads := t.quads, queues := t.queues }) h

theorem State.clk_of_offSend {s t : State} (h : t.offSend = s.offSend) : t.clk = s.clk := by
  rw [State.eq_of_offSend h]

@[simp] theorem State.modDesc_offSend (s : State) (q : Nat) (i : W32) (g : Desc → Desc) :
    (s.modDesc q i g).offSend = s.offSend := by
  rw [State.modDesc_eq]; rfl

@[simp] theorem State.addSender_offSend (s : State) (q : Nat) (x : Sender) :
    (s.addSender q x).offSend = s.offSend := rfl

@[simp] theorem State.feedDesc_offSend (s : State) (q : Nat) (i : W32) (l : List (Nat × Nat)) :
    (s.feedDesc q i l).offSend = s.offSend := by
  induction l generalizing s with
  | nil => rfl
  | cons r l ih =>
    unfold State.feedDesc
    split
    · split
      · rw [ih]; simp
      · rfl
    · rfl

/-! ## Entries of a sender table (R246) -/

/-- Every entry of the table has a number below the quadrant's next. -/
def Quadrant.Below (a : Quadrant) : Prop := ∀ r ∈ a.senders, r.1 < a.nextMsg

/-- A quadrant in which a message has taken the next entry. -/
def Quadrant.add (a : Quadrant) (m : Sender) : Quadrant :=
  { a with senders := tblSet a.senders a.nextMsg m, nextMsg := a.nextMsg + 1 }

@[simp] theorem State.addSender_queue (s : State) (q : Nat) (x : Sender) (n : Nat) :
    (s.addSender q x).queue? n = s.queue? n := rfl

@[simp] theorem State.addSender_desc (s : State) (q : Nat) (x : Sender) (n : Nat) (i : W32) :
    (s.addSender q x).desc? n i = s.desc? n i := rfl

theorem State.addSender_quad (s : State) (q : Nat) (x : Sender) :
    (s.addSender q x).quad q = (s.quad q).add { x with formed := s.clk } := by
  simp [State.addSender, Quadrant.add]

theorem tblSet_of_below {α : Type} {t : Table α} {k : Nat} (h : ∀ r ∈ t, r.1 < k) (v : α) :
    tblSet t k v = t ++ [(k, v)] := by
  induction t with
  | nil => rfl
  | cons a t ih =>
    obtain ⟨i, x⟩ := a
    have hi : i < k := h (i, x) (by simp)
    rw [tblSet, if_neg (by omega), if_neg (by omega), ih fun r hr => h r (by simp [hr])]
    rfl

theorem Quadrant.Below.add_senders {a : Quadrant} (h : a.Below) (m : Sender) :
    (a.add m).senders = a.senders ++ [(a.nextMsg, m)] := tblSet_of_below h m

theorem Quadrant.Below.add {a : Quadrant} (h : a.Below) (m : Sender) : (a.add m).Below := by
  intro r hr
  rw [h.add_senders, List.mem_append, List.mem_singleton] at hr
  show r.1 < a.nextMsg + 1
  rcases hr with hr | rfl
  · exact Nat.lt_succ_of_lt (h r hr)
  · exact Nat.lt_succ_self _

/-- From quadrant `a` to `b` the messages of a list have taken the next entries, in order, and no earlier one
changed. -/
structure Quadrant.Takes (a b : Quadrant) (l : List Sender) : Prop where
  next : b.nextMsg = a.nextMsg + l.length
  taken : ∀ k, k < l.length → tblGet b.senders (a.nextMsg + k) = l[k]?
  earlier : ∀ k, k < a.nextMsg → tblGet b.senders k = tblGet a.senders k

theorem Quadrant.Takes.nil (a : Quadrant) : a.Takes a [] := ⟨rfl, by simp, fun _ _ => rfl⟩

/-- The first message takes the next entry, the others follow. -/
theorem Quadrant.Takes.cons {a b : Quadrant} {m : Sender} {l : List Sender} (h : (a.add m).Takes b l) :
    a.Takes b (m :: l) where
  next := by rw [h.next, List.length_cons, Nat.add_comm l.length, ← Nat.add_assoc]; rfl
  taken k hk := by
    cases k with
    | zero => rw [Nat.add_zero, h.earlier _ (Nat.lt_succ_self _)]; exact tblGet_set_same _ _ _
    | succ k =>
      rw [List.getElem?_cons_succ, ← h.taken k (Nat.lt_of_succ_lt_succ hk), Nat.add_comm k, ← Nat.add_assoc]
      rfl
  earlier k hk := by
    rw [h.earlier k (Nat.lt_succ_of_lt hk)]
    exact tblGet_set_other _ _ (Nat.ne_of_lt hk)

/-! ## Messages of a descriptor (R217) -/

/-- The message that a piece of a descriptor becomes at a clock. -/
def pieceMessage (clk q : Nat) (x : Queue) (d : Desc) (r : Nat × Nat) : Sender :=
  { descMessage q x d r.1 r.2 (d.length ≤ r.1 + r.2) with formed := clk }

/-- Where the table has room, every message that a descriptor still has to send takes an entry. -/
theorem State.feedDesc_takes (q : Nat) (i : W32) (l : List (Nat × Nat)) {s : State} {x : Queue} {d : Desc}
    (hx : s.queue? q = some x) (hd : s.desc? q i = some d) (hl : d.toSend = l) (hb : (s.quad x.home).Below)
    (room : (s.quad x.home).senders.length + l.length ≤ 65536) :
    (s.quad x.home).Takes ((s.feedDesc q i l).quad x.home) (l.map (pieceMessage s.clk q x d)) ∧
      (s.feedDesc q i l).desc? q i = some { d with toSend := [] } := by
  induction l generalizing s x d with
  | nil => exact ⟨.nil _, hd.trans (by rw [← hl])⟩
  | cons r l ih =>
    obtain ⟨off, len⟩ := r
    rw [List.length_cons] at room
    have hr : s.senderRoom x.home = true := by simp only [State.senderRoom, decide_eq_true_eq]; omega
    let u := (s.addSender x.home (descMessage q x d off len (d.length ≤ off + len))).modDesc q i
      fun d => { d with toSend := l }
    have hf : s.feedDesc q i ((off, len) :: l) = u.feedDesc q i l := by simp [State.feedDesc, hx, hd, hr, u]
    have hux : u.queue? q = some (x.withDesc i fun d => { d with toSend := l }) :=
      State.modDesc_queue_same ((s.addSender_queue _ _ _).trans hx) _ _
    have hud : u.desc? q i = some { d with toSend := l } :=
      State.modDesc_desc_same ((s.addSender_desc _ _ _ _).trans hd) _ fun _ => rfl
    have huq : u.quad x.home = (s.quad x.home).add (pieceMessage s.clk q x d (off, len)) :=
      (State.modDesc_quad _ _ _ _ _).trans (s.addSender_quad _ _)
    have huc : u.clk = s.clk := State.clk_of_offSend (by simp [u])
    have hur : (u.quad x.home).senders.length = (s.quad x.home).senders.length + 1 := by
      rw [huq, hb.add_senders, List.length_append, List.length_singleton]
    obtain ⟨takes, ends⟩ := ih hux hud rfl (huq ▸ hb.add _) (hur ▸ by omega)
    rw [hf]
    refine ⟨.cons ?_, ends⟩
    rw [← huq, ← huc]
    exact takes

theorem messageSize_cases (op : Nat) : messageSize op = 65536 ∨ messageSize op = 262144 := by
  unfold messageSize; split <;> simp

theorem messagesOf_length (op n : Nat) : (messagesOf op n).length = (n + messageSize op - 1) / messageSize op := by
  simp [messagesOf]

theorem messagesOf_getElem {op n k : Nat} (h : k < (messagesOf op n).length) :
    (messagesOf op n)[k]? = some (k * messageSize op, min (messageSize op) (n - k * messageSize op)) := by
  rw [messagesOf_length] at h
  simp [messagesOf, h]

/-- The message that reaches the end of the bytes is the last one. -/
theorem messagesOf_last {op n k : Nat} (h : k < (messagesOf op n).length) :
    decide (n ≤ k * messageSize op + min (messageSize op) (n - k * messageSize op)) =
      (k + 1 == (messagesOf op n).length) := by
  rw [messagesOf_length] at h ⊢
  rw [Bool.eq_iff_iff, decide_eq_true_eq, beq_iff_eq]
  obtain size | size := messageSize_cases op
  · rw [size] at h ⊢; omega
  · rw [size] at h ⊢; omega

theorem pieceMessage_messagesOf (clk q : Nat) (x : Queue) (d : Desc) (op : Nat) {k : Nat}
    (h : k < (messagesOf op d.length).length) :
    ((messagesOf op d.length).map (pieceMessage clk q x d))[k]? =
      some { descMessage q x d ((messagesOf op d.length).getD k (0, 0)).1 ((messagesOf op d.length).getD k (0, 0)).2
        (k + 1 == (messagesOf op d.length).length) with formed := clk } := by
  simp only [List.getElem?_map, List.getD_eq_getElem?_getD, messagesOf_getElem h, Option.map_some, Option.getD_some,
    pieceMessage, messagesOf_last h]

/-! ## Fetching a local source (R319 to R321) -/

/-- What sending reads and changes: the queues, the quadrants and the clock. -/
def State.sendPart (s : State) : Table Queue × Table Quadrant × Nat := (s.queues, s.quads, s.clk)

@[simp] theorem State.attSendOne_sendPart (s : State) (a : Nat) (write : Bool) :
    (s.attSendOne a write).sendPart = s.sendPart := by
  unfold State.attSendOne; simp only []; (repeat' split) <;> rfl

@[simp] theorem State.attPump_sendPart (s : State) (a n : Nat) : (s.attPump a n).sendPart = s.sendPart := by
  induction n generalizing s with
  | zero => rfl
  | succ n ih => rw [State.attPump, ih]; simp

@[simp] theorem State.attRequest_sendPart (s : State) (a : Nat) (purpose : AttUse) (write : Bool) (offset : Nat)
    (data : List Byte) (length partition : Nat) :
    (s.attRequest a purpose write offset data length partition).sendPart = s.sendPart := by
  rw [State.attRequest, State.attPump_sendPart]; rfl

/-- The accelerator window of a local source serves the partition. -/
def State.sourceServed (s : State) (p : Nat) (g : Segment) (a : W64) : Prop :=
  inAccelWindow (segTarget g a) = true → s.accelServes (windowOf (segTarget g a)) p = true

theorem State.sourceServed.of_offSend {s t : State} {p : Nat} {g : Segment} {a : W64} (h : s.sourceServed p g a)
    (ht : t.offSend = s.offSend) : t.sourceServed p g a := by
  rw [State.eq_of_offSend ht]; exact h

/-- Fetching a source outside host memory leaves the owner's queue alone where its window serves the partition. -/
theorem State.startFetch_sendPart {s : State} {p : Nat} {g : Segment} {a : W64} (hg : g.kind ≠ 1)
    (h : s.sourceServed p g a) (o : TileOwner) (engine c len : Nat) :
    (s.startFetch o engine c p g a len).sendPart = s.sendPart := by
  have folds (l : List Nat) (f : State → Nat → State) (hf : ∀ s k, (f s k).sendPart = s.sendPart) (s : State) :
      (l.foldl f s).sendPart = s.sendPart := by
    induction l generalizing s with
    | nil => rfl
    | cons k l ih => exact (ih _).trans (hf s k)
  unfold State.startFetch
  simp only [hg, if_false]
  split
  · rw [if_pos (h ‹_›)]
    exact folds _ _ (fun _ _ => State.attRequest_sendPart ..) _
  · rfl

/-! ## Transfers on the native transport (R217, R246) -/

theorem State.feedRunning_of_running {s : State} {q : Nat} {i : W32} {d : Desc} (hd : s.desc? q i = some d)
    (hr : d.phase = .running) (l : List (Nat × Nat)) : s.feedRunning q i l = s.feedDesc q i l := by
  simp [State.feedRunning, hd, hr]

@[simp] theorem State.feedRunning_offSend (s : State) (q : Nat) (i : W32) (l : List (Nat × Nat)) :
    (s.feedRunning q i l).offSend = s.offSend := by
  unfold State.feedRunning
  split
  · split
    · exact State.feedDesc_offSend ..
    · rfl
  · rfl

/-- Only a WRITE fetches bytes when it starts. -/
theorem State.startNative_of_not_write {d : Desc} (h : d.opcode ≠ 1) (s : State) (q : Nat) (x : Queue)
    (l : List (Nat × Nat)) : s.startNative q x d l =
      (s.modDesc q d.index fun d => { d with phase := .running, toSend := l }).feedRunning q d.index l := by
  simp [State.startNative, h]

theorem State.startNative_offSend {d : Desc} (h : d.opcode ≠ 1) (s : State) (q : Nat) (x : Queue)
    (l : List (Nat × Nat)) : (s.startNative q x d l).offSend = s.offSend := by
  rw [State.startNative_of_not_write h]; simp

/-- A started descriptor runs, and its messages take the next entries of its queue's home quadrant. -/
theorem State.startNative_takes {s : State} {q : Nat} {x y : Queue} {d : Desc} {l : List (Nat × Nat)}
    (hy : s.queue? q = some y) (hd : s.desc? q d.index = some d)
    (served : d.opcode = 1 → d.inline = false → d.seg.kind ≠ 1 → s.sourceServed x.partition d.seg d.localAddr)
    (hb : (s.quad y.home).Below) (room : (s.quad y.home).senders.length + l.length ≤ 65536) :
    (s.quad y.home).Takes ((s.startNative q x d l).quad y.home) (l.map (pieceMessage s.clk q y d)) ∧
      (s.startNative q x d l).desc? q d.index = some { d with phase := .running, toSend := [] } := by
  let u := s.modDesc q d.index fun d => { d with phase := .running, toSend := l }
  let v := if d.opcode == 1 && !d.inline && d.seg.kind != 1 then
      u.startFetch (.desc q d.index) x.home x.context x.partition d.seg d.localAddr d.length else u
  have hv : v.sendPart = u.sendPart := by
    unfold v
    split
    · rename_i h
      simp only [Bool.and_eq_true, beq_iff_eq, Bool.not_eq_true', bne_iff_ne] at h
      obtain ⟨⟨hop, hinline⟩, hkind⟩ := h
      exact State.startFetch_sendPart hkind ((served hop hinline hkind).of_offSend (by simp [u])) ..
    · rfl
  obtain ⟨hqueues, hquads, hclk⟩ : v.queues = u.queues ∧ v.quads = u.quads ∧ v.clk = u.clk := by
    simpa only [State.sendPart, Prod.mk.injEq] using hv
  have hvy : v.queue? q = some (y.withDesc d.index fun d => { d with phase := .running, toSend := l }) := by
    rw [State.queue?, hqueues]; exact State.modDesc_queue_same hy _ _
  have hvd : v.desc? q d.index = some { d with phase := .running, toSend := l } := by
    rw [State.desc?, State.queue?, hqueues]; exact State.modDesc_desc_same hd _ fun _ => rfl
  have hvq : v.quad y.home = s.quad y.home := by
    rw [State.quad, hquads, State.modDesc_quads]; rfl
  have hvc : v.clk = s.clk := hclk.trans (State.clk_of_offSend (by simp [u]))
  have hf : s.startNative q x d l = v.feedDesc q d.index l := State.feedRunning_of_running hvd rfl l
  obtain ⟨takes, ends⟩ := State.feedDesc_takes q d.index l hvy hvd rfl (hvq.symm ▸ hb) (hvq.symm ▸ room)
  rw [hf, ← hvq, ← hvc]
  exact ⟨takes, ends⟩

/-- Starting a WRITE or a READ on the native transport gives each of its messages an entry. -/
theorem State.startTransfer_forms {s : State} {q : Nat} {i : W32} {op wire : Nat} {x : Queue} {d : Desc}
    (h : s.startedDesc q i op = some (x, d)) (hi : d.index = i) (bound : x.bound = .none)
    (served : d.opcode = 1 → d.inline = false → d.seg.kind ≠ 1 → s.sourceServed x.partition d.seg d.localAddr)
    (below : (s.quad x.home).Below)
    (room : (s.quad x.home).senders.length + (messagesOf wire d.length).length ≤ 65536) :
    (s.quad x.home).Takes ((s.startTransfer q i op wire).quad x.home)
        ((messagesOf wire d.length).map (pieceMessage s.clk q x d)) ∧
      (s.startTransfer q i op wire).desc? q i = some { d with phase := .running, toSend := [] } := by
  obtain ⟨hx, hd, -, -, -⟩ := (s.startedDesc_iff q i op x d).1 h
  subst hi
  have e : s.startTransfer q d.index op wire = s.startNative q x d (messagesOf wire d.length) := by
    simp [State.startTransfer, h, bound]
  rw [e]
  exact State.startNative_takes hx hd served below room

theorem State.startTransfer_offSend {s : State} {q : Nat} {i : W32} {wire : Nat} {x : Queue} {d : Desc}
    (h : s.startedDesc q i 2 = some (x, d)) (bound : x.bound = .none) :
    (s.startTransfer q i 2 wire).offSend = s.offSend := by
  obtain ⟨-, -, hop, -, -⟩ := (s.startedDesc_iff q i 2 x d).1 h
  simp [State.startTransfer, h, bound, State.startNative_offSend (show d.opcode ≠ 1 by omega)]

theorem State.startTransfer_bound {s : State} {q : Nat} {i : W32} {op : Nat} {x : Queue} {d : Desc}
    (h : s.startedDesc q i op = some (x, d)) (bound : x.bound ≠ .none) (wire : Nat) :
    s.startTransfer q i op wire = s.startBound q x d := by
  simp [State.startTransfer, h, bound]

/-! ## Atomics (R191, R254) -/

/-- The descriptor with the operands of its block, which in version 1 stand in local memory. -/
def withOperands (x : Queue) (d : Desc) (b : List Byte) : Desc :=
  if x.version = 1 then { d with operandA := w64 (field b 0 8), operandB := w64 (field b 8 8) } else d

/-- The one message of an atomic carries all of its bytes. -/
theorem pieceMessage_withOperands (clk q : Nat) (x : Queue) (d : Desc) (b : List Byte) :
    pieceMessage clk q x (withOperands x d b) (0, d.length) =
      { descMessage q x (withOperands x d b) 0 d.length true with formed := clk } := by
  have : (withOperands x d b).length = d.length := by unfold withOperands; split <;> rfl
  simp [pieceMessage, this]

theorem Got.toOption_eq_some {g : Got} {b : List Byte} : g.toOption = some b ↔ g = .bytes b := by
  cases g <;> simp [Got.toOption]

/-- The one message of an atomic takes the next entry, from any state that sends as `s` does. -/
theorem State.startNative_atomic {s u : State} {q : Nat} {x y : Queue} {e : Desc} (hu : u.offSend = s.offSend)
    (hquads : u.quads = s.quads) (hy : u.queue? q = some y) (home : y.home = x.home)
    (same : pieceMessage s.clk q y e = pieceMessage s.clk q x e) (he : u.desc? q e.index = some e) (op : e.opcode ≠ 1)
    (below : (s.quad x.home).Below) (room : (s.quad x.home).senders.length < 65536) :
    (s.quad x.home).Takes ((u.startNative q x e [(0, e.length)]).quad x.home)
        [pieceMessage s.clk q x e (0, e.length)] ∧
      (u.startNative q x e [(0, e.length)]).desc? q e.index = some { e with phase := .running, toSend := [] } ∧
      (u.startNative q x e [(0, e.length)]).offSend = s.offSend := by
  have hq : u.quad y.home = s.quad x.home := by rw [State.quad, hquads, home]; rfl
  obtain ⟨takes, runs⟩ := State.startNative_takes (x := x) (l := [(0, e.length)]) hy he (fun h => absurd h op)
    (hq.symm ▸ below) (hq.symm ▸ room)
  refine ⟨?_, runs, (State.startNative_offSend op ..).trans hu⟩
  rw [hq, home, State.clk_of_offSend hu, same] at takes
  exact takes

/-- Starting an atomic on the native transport gives its one message an entry. -/
theorem State.startAtomic_forms {s : State} {q : Nat} {i : W32} {op : Nat} {x : Queue} {d : Desc} {b : List Byte}
    (h : s.startedDesc q i op = some (x, d)) (hi : d.index = i) (notWrite : op ≠ 1) (bound : x.bound = .none)
    (operands : x.version = 1 →
      (s.localRead (.desc q i) x.partition d.seg d.localAddr 0 16).toOption = some b)
    (below : (s.quad x.home).Below) (room : (s.quad x.home).senders.length < 65536) :
    (s.quad x.home).Takes ((s.startAtomic q i op).quad x.home)
        [pieceMessage s.clk q x (withOperands x d b) (0, d.length)] ∧
      (s.startAtomic q i op).desc? q i = some { withOperands x d b with phase := .running, toSend := [] } ∧
      (s.startAtomic q i op).offSend = s.offSend := by
  have phase := State.startedDesc_phase h bound
  obtain ⟨hx, hd, rfl, -, -⟩ := (s.startedDesc_iff q i op x d).1 h
  subst hi
  by_cases version : x.version = 1
  · let e : Desc := { d with operandA := w64 (field b 0 8), operandB := w64 (field b 8 8) }
    let g := fun y : Desc => { y with operandA := e.operandA, operandB := e.operandB }
    have started : s.startAtomic q d.index d.opcode = (s.modDesc q d.index g).startNative q x e [(0, e.length)] := by
      simp [State.startAtomic, h, bound, version, phase, Got.toOption_eq_some.1 (operands version), g, e]
    have kept : withOperands x d b = e := if_pos version
    rw [started, kept]
    exact State.startNative_atomic (State.modDesc_offSend ..) (State.modDesc_quads ..)
      (State.modDesc_queue_same hx d.index g) rfl rfl (State.modDesc_desc_same hd g fun _ => rfl) notWrite below room
  · have started : s.startAtomic q d.index d.opcode = s.startNative q x d [(0, d.length)] := by
      simp [State.startAtomic, h, bound, version]
    have kept : withOperands x d b = d := if_neg version
    rw [started, kept]
    exact State.startNative_atomic rfl rfl hx rfl rfl hd notWrite below room

/-! ## KERNEL_START (R370 to R372) -/

@[simp] theorem State.modSeq_desc (s : State) (k : Nat) (g : Sequencer → Sequencer) (q : Nat) (i : W32) :
    (s.modSeq k g).desc? q i = s.desc? q i := rfl

section KernelStart

variable {s : State} {q : Nat} {i : W32} {x : Queue} {d : Desc} (h : s.startedDesc q i 7 = some (x, d))
  (started : d.phase = .started)
include h started

/-- A kernel of the partition takes a free sequencer of the queue's home quadrant. -/
theorem execKernelStart_takes {k : Nat} {image : Kernel} (hk : tblGet s.kernels d.kernelId = some image)
    (own : image.partition = x.partition) (home : seqQuadrant k = x.home) (range : k < 64) (free : s.seqFree k = true) :
    execKernelStart q i k s = .next ((s.modSeq k fun y => { y with
      owned := true, partition := x.partition, kernelId := d.kernelId
      wiping := y.owned && y.partition != x.partition
      running := some { startState d.kernelId image q x d with progressClk := s.clk } }).modDesc q i fun d =>
        { d with phase := .running }) := by
  obtain ⟨hx, hd, hop, hb, -⟩ := (s.startedDesc_iff q i 7 x d).1 h
  simp [execKernelStart, hx, hd, hop, started, hb, hk, own, home, range, free]

/-- A kernel that the partition does not have ends the descriptor with BAD_OBJECT. -/
theorem execKernelStart_badObject (hk : (tblGet s.kernels d.kernelId).all (fun y => y.partition != x.partition) = true)
    (k : Nat) : execKernelStart q i k s = .next (s.endDesc q i Status.badObject 0) := by
  obtain ⟨hx, hd, hop, hb, -⟩ := (s.startedDesc_iff q i 7 x d).1 h
  cases hi : tblGet s.kernels d.kernelId with
  | none => simp [execKernelStart, hx, hd, hop, started, hb, hi]
  | some image =>
    have other : image.partition ≠ x.partition := by simpa [hi] using hk
    simp [execKernelStart, hx, hd, hop, started, hb, hi, other]

end KernelStart

/-! ## The obligation -/

theorem State.desc_all_running {s : State} {q : Nat} {i : W32} {d : Desc}
    (h : s.desc? q i = some { d with phase := .running, toSend := [] }) :
    (s.desc? q i).all (fun e => e.phase == .running && e.toSend == []) = true := by
  simp [h]

/-- Settles O28, command by command. -/
theorem descriptorsStart : Obligations.DescriptorsStart := by
  intro s q i x d
  refine ⟨?nop, ?write, ?read, ?atomic, ?bound, ?kernel, ?badObject⟩
  case nop =>
    intro h
    have e : exec (.nop q i) s = execNop q i s := rfl
    refine ⟨fun hb => ?_, fun c hb => ?_, fun p hb => ?_, fun hp => ?_⟩
    · simp [e, execNop, h, hb]
    · simp [e, execNop, h, hb]
    · simp [e, execNop, h, hb]
    · obtain ⟨-, hd, -, -, -⟩ := (s.startedDesc_iff q i 0 x d).1 h
      rw [State.endDesc_desc_same hd (by simp [hp])]
      simp
  case write =>
    intro l h hi bound served below room
    obtain ⟨takes, runs⟩ := State.startTransfer_forms h hi bound (fun _ => served) below room
    refine ⟨_, rfl, State.desc_all_running runs, execWrite_still q i s, execWrite_firm q i s, fun k hk => ?_,
      takes.earlier, ?_⟩
    · rw [takes.taken k (by simpa using hk), pieceMessage_messagesOf _ _ _ _ _ hk]
    · rw [takes.next, List.length_map]
  case read =>
    intro l h hi bound below room
    obtain ⟨-, -, hop, -, -⟩ := (s.startedDesc_iff q i 2 x d).1 h
    obtain ⟨takes, runs⟩ := State.startTransfer_forms h hi bound (fun e => by omega) below room
    refine ⟨_, rfl, State.desc_all_running runs, State.eq_of_offSend (State.startTransfer_offSend h bound),
      fun k hk => ?_, takes.earlier, ?_⟩
    · rw [takes.taken k (by simpa using hk), pieceMessage_messagesOf _ _ _ _ _ hk]
    · rw [takes.next, List.length_map]
  case atomic =>
    intro b e h hi atomic bound operands below room
    have ops : 3 ≤ d.opcode ∧ d.opcode ≤ 6 := by simpa [isAtomic] using atomic
    obtain ⟨takes, runs, frame⟩ := State.startAtomic_forms h hi (by omega) bound operands below room
    refine ⟨s.startAtomic q i d.opcode, ?_, State.desc_all_running runs, ?_, takes.earlier,
      State.eq_of_offSend frame⟩
    · obtain hop | hop | hop | hop : d.opcode = 3 ∨ d.opcode = 4 ∨ d.opcode = 5 ∨ d.opcode = 6 := by omega
      all_goals simp only [hop]; rfl
    · exact (takes.taken 0 Nat.one_pos).trans (congrArg some (pieceMessage_withOperands ..))
  case bound =>
    intro low high h bound
    split
    · next hop => rw [hop] at h; exact congrArg _ (State.startTransfer_bound h bound _)
    · next hop =>
      have hop : d.opcode = 2 := by omega
      rw [hop] at h
      exact congrArg _ (State.startTransfer_bound h bound _)
  case kernel =>
    intro k image h started hk own home range free
    obtain ⟨-, hd, -, -, -⟩ := (s.startedDesc_iff q i 7 x d).1 h
    refine ⟨_, execKernelStart_takes h started hk own home range free, ?_, ?_, ?_, ?_⟩
    · rw [State.modDesc_eq]; rfl
    · rw [State.modDesc_desc_same ((s.modSeq_desc _ _ _ _).trans hd) (fun d => { d with phase := .running })
        fun _ => rfl]
      rfl
    · rw [State.modDesc_seq, State.modSeq_same]
    · exact fun j hj => by rw [State.modDesc_seq, State.modSeq_other _ _ _ _ hj]
  case badObject => exact fun k h started hk => execKernelStart_badObject h started hk k

end Sys2Proof.Machine

/-!
The transport's operations on the quadrants (R218 to R248): what each reads back of sender entries, congestion entries,
records and copies, and what it leaves alone.
-/

namespace Sys2Proof.Machine

/-! ## Folds and lists -/

/-- What every step of a fold keeps, the fold keeps. -/
theorem State.foldl_keeps {α β : Type} (v : State → β) (g : State → α → State) (h : ∀ s a, v (g s a) = v s) (l : List α)
    (s : State) : v (l.foldl g s) = v s := by
  induction l generalizing s with
  | nil => rfl
  | cons a l ih => exact (ih (g s a)).trans (h s a)

/-- A change of the elements that a test picks, to ones that it picks too, is seen in the first of them. -/
theorem find?_map_picked {α : Type} (p : α → Bool) (g : α → α) (hg : ∀ a, p (g a) = p a) (l : List α) :
    (l.map fun a => if p a then g a else a).find? p = (l.find? p).map g := by
  induction l with
  | nil => rfl
  | cons a l ih =>
    rw [List.map_cons, List.find?_cons, List.find?_cons, ih]
    cases h : p a <;> simp [h, hg]

/-! ## Quadrants -/

/-- The state but for its quadrants. -/
def State.offQuads (s : State) : State := { s with quads := [] }

theorem State.eq_of_offQuads {s t : State} (h : t.offQuads = s.offQuads) : t = { s with quads := t.quads } :=
  congrArg (fun u : State => { u with quads := t.quads }) h

@[simp] theorem State.modQuad_offQuads (s : State) (q : Nat) (g : Quadrant → Quadrant) :
    (s.modQuad q g).offQuads = s.offQuads := rfl

@[simp] theorem State.setSender_offQuads (s : State) (q m : Nat) (x : Sender) :
    (s.setSender q m x).offQuads = s.offQuads := rfl

@[simp] theorem State.modCongest_offQuads (s : State) (q dst : Nat) (g : Congest → Congest) :
    (s.modCongest q dst g).offQuads = s.offQuads := rfl

/-! ## Sender entries -/

theorem State.sender_of_quad {s t : State} {q : Nat} (h : (t.quad q).senders = (s.quad q).senders) (m : Nat) :
    t.sender? q m = s.sender? q m := by
  rw [State.sender?, h, State.sender?]

@[simp] theorem State.setSender_sender_same (s : State) (q m : Nat) (x : Sender) :
    (s.setSender q m x).sender? q m = some x := by
  simp [State.setSender, State.sender?]

@[simp] theorem State.modCongest_sender (s : State) (q dst : Nat) (g : Congest → Congest) (m : Nat) :
    (s.modCongest q dst g).sender? q m = s.sender? q m := by
  simp [State.modCongest, State.sender?]

/-! ## Congestion entries (R271) -/

@[simp] theorem State.setSender_congest (s : State) (q m : Nat) (x : Sender) (dst : Nat) :
    (s.setSender q m x).congest? q dst = s.congest? q dst := by
  simp [State.setSender, State.congest?]

/-- A change that keeps the destination is seen in its entry. -/
theorem State.modCongest_congest_same {s : State} {q dst : Nat} {c : Congest} (h : s.congest? q dst = some c)
    (g : Congest → Congest) (hg : ∀ c, (g c).dest = c.dest) : (s.modCongest q dst g).congest? q dst = some (g c) := by
  have h : (s.quad q).congestion.find? (fun c => c.dest == dst) = some c := h
  simp only [State.modCongest, State.congest?, State.modQuad_same]
  rw [find?_map_picked _ _ fun c => by rw [hg], h]
  rfl

/-! ## Beginning a message (R218, R246, R261) -/

/-- What keeps a message from beginning while the device is UNLOCKED: it waits (R85). -/
theorem State.beginBar_unlocked {s : State} (h : s.mer.lock = .unlocked) (q : Nat) (x : Sender) :
    s.beginBar q x = .wait := by
  simp [State.beginBar, h]

/-- The entry of a message that begins, with response space `n` reserved for a READ (R218, R240, R246). -/
def Sender.started (x : Sender) (s : State) (q : Nat) (c : Congest) : Sender :=
  { x with
    state := .sending, issue := s.stamp q, issueClk := s.clk
    reserved := if 0 < reserveBytes x then reserveBytes x else x.reserved
    toSend := List.range x.requests, sent := [], tints := [], bitmap := 0, copies := 0, refusedCopies := 0, holds := []
    timerStart := none, unreachableSince := none, stepped := false
    timeout := max 32000 (2 * c.delay.getD 160000 / 10 + 16000) }

/-- A message that starts has every packet due. -/
theorem State.startMessage_sender {s : State} {q : Nat} {x : Sender} {c : Congest} (hc : s.congest? q x.dst = some c)
    (m : Nat) : (s.startMessage q m x).sender? q m = some { x with
      state := .sending, issue := s.stamp q, issueClk := s.clk
      timeout := max 32000 (2 * c.delay.getD 160000 / 10 + 16000)
      toSend := List.range x.requests, sent := [], tints := [], bitmap := 0, copies := 0, refusedCopies := 0
      holds := [], timerStart := none, unreachableSince := none, stepped := false } := by
  simp [State.startMessage, hc, us, mtUs]

theorem State.startMessage_congest {s : State} {q : Nat} {x : Sender} {c : Congest} (hc : s.congest? q x.dst = some c)
    (m : Nat) : (s.startMessage q m x).congest? q x.dst =
      some { c with outstanding := c.outstanding + 1, lastUse := s.clk } :=
  State.modCongest_congest_same ((State.setSender_congest ..).trans hc)
    (fun c => { c with outstanding := c.outstanding + 1, lastUse := s.clk }) fun _ => rfl

@[simp] theorem State.startMessage_reserved (s : State) (q m : Nat) (x : Sender) :
    ((s.startMessage q m x).quad q).reserved = (s.quad q).reserved := by
  simp [State.startMessage, State.setSender, State.modCongest]


/-- Where its response space fits, a message with an entry for its destination begins (R218, R261). -/
theorem State.beginMessage_begins {s : State} {q : Nat} {x : Sender} {c : Congest} (hc : s.congest? q x.dst = some c)
    (room : (s.quad q).reserved + reserveBytes x ≤ responsePool) (m : Nat) :
    (s.beginMessage q m x).offQuads = s.offQuads ∧
      ((s.beginMessage q m x).quad q).reserved = (s.quad q).reserved + reserveBytes x ∧
      (s.beginMessage q m x).congest? q x.dst = some { c with outstanding := c.outstanding + 1, lastUse := s.clk } ∧
      (s.beginMessage q m x).sender? q m = some (x.started s q c) := by
  by_cases none : reserveBytes x = 0
  · have e : s.beginMessage q m x = s.startMessage q m x := by
      simp [State.beginMessage, State.ensureCongest, hc, none]
    rw [e]
    refine ⟨rfl, by simp [none], State.startMessage_congest hc m, ?_⟩
    rw [State.startMessage_sender hc]
    simp [Sender.started, none]
  · let u := s.modQuad q fun d => { d with reserved := d.reserved + reserveBytes x }
    let y : Sender := { x with reserved := reserveBytes x }
    have e : s.beginMessage q m x = u.startMessage q m y := by
      simp [State.beginMessage, State.ensureCongest, hc, none, room, u, y]
    have hu : u.congest? q y.dst = some c := by simpa [u, y, State.congest?] using hc
    rw [e]
    refine ⟨rfl, by simp [u], State.startMessage_congest hu m, ?_⟩
    rw [State.startMessage_sender hu]
    simp only [Sender.started, if_pos (Nat.pos_of_ne_zero none)]
    rfl

/-- A READ whose response space does not fit waits for it (R261). -/
theorem State.beginMessage_waits {s : State} {q : Nat} {x : Sender} {c : Congest} (hc : s.congest? q x.dst = some c)
    (full : responsePool < (s.quad q).reserved + reserveBytes x) (some : 0 < reserveBytes x) (m : Nat) :
    s.beginMessage q m x = s.setSender q m { x with state := .waitResv } := by
  simp [State.beginMessage, State.ensureCongest, hc, Nat.ne_of_gt some, Nat.not_le.mpr full]

theorem State.tryBegin_free {s : State} {q : Nat} {x : Sender} (h : s.beginBar q x = .none) (m : Nat) :
    s.tryBegin q m x = s.beginMessage q m x := by
  simp [State.tryBegin, h]

theorem execMessageBegin_ready {s : State} {q m : Nat} {x : Sender} (hx : s.sender? q m = some x)
    (ready : x.state = .ready) (up : s.unitDown (.transport q) = false) :
    exec (.messageBegin q m) s = .next (s.tryBegin q m x) := by
  show execMessageBegin q m s = _
  simp [execMessageBegin, hx, ready, up]

section ReservationGrant

variable {s : State} {q m : Nat} {x : Sender} (hx : s.sender? q m = some x) (waits : x.state = .waitResv)
include hx waits

theorem execReservationGrant_room (room : (s.quad q).reserved + reserveBytes x ≤ responsePool) :
    exec (.reservationGrant q m) s = .next (s.tryBegin q m x) := by
  show execReservationGrant q m s = _
  simp [execReservationGrant, hx, waits, room]

theorem execReservationGrant_full (full : responsePool < (s.quad q).reserved + reserveBytes x) :
    exec (.reservationGrant q m) s = .next s := by
  show execReservationGrant q m s = _
  simp [execReservationGrant, hx, waits, Nat.not_le.mpr full]

end ReservationGrant

/-! ## Transmitting (R218, R219, R226, R491) -/

/-- The state but for its quadrants, its ports and Survey. -/
def State.offTint (s : State) : State := { s with quads := [], ports := [], survey := {} }

theorem State.eq_of_offTint {s t : State} (h : t.offTint = s.offTint) :
    t = { s with quads := t.quads, ports := t.ports, survey := t.survey } :=
  congrArg (fun u : State => { u with quads := t.quads, ports := t.ports, survey := t.survey }) h

@[simp] theorem State.modPort_offTint (s : State) (p : Nat) (g : Port → Port) : (s.modPort p g).offTint = s.offTint := rfl

@[simp] theorem State.meterCount_offTint (s : State) (port p tc colour n : Nat) :
    (s.meterCount port p tc colour n).offTint = s.offTint := rfl

@[simp] theorem State.setSender_offTint (s : State) (q m : Nat) (x : Sender) :
    (s.setSender q m x).offTint = s.offTint := rfl

theorem State.tintHead_offTint (port : Nat) (s : State) (o : Offer) : (s.tintHead port o).offTint = s.offTint := by
  unfold State.tintHead State.tintFrame; simp only []; (repeat' split) <;> simp only [State.modPort_offTint,
    State.meterCount_offTint, State.setSender_offTint]

/-- Colouring what is offered at a port touches senders, ports and counters only (R281). -/
theorem State.tintPort_offTint (s : State) (port : Nat) : (s.tintPort port).offTint = s.offTint :=
  State.foldl_keeps State.offTint _ (State.tintHead_offTint port) _ s

theorem State.meterCount_port (s : State) (port p tc colour n j : Nat) :
    (s.meterCount port p tc colour n).port j = s.port j := rfl

theorem State.setSender_port (s : State) (q m : Nat) (x : Sender) (j : Nat) : (s.setSender q m x).port j = s.port j := rfl

theorem State.tintHead_port_other {port j : Nat} (hj : j ≠ port) (s : State) (o : Offer) :
    (s.tintHead port o).port j = s.port j := by
  unfold State.tintHead State.tintFrame; simp only []
  (repeat' split) <;>
    simp only [State.modPort_other _ _ _ _ hj, State.meterCount_port, State.setSender_port]

theorem State.tintPort_port_other {port j : Nat} (hj : j ≠ port) (s : State) : (s.tintPort port).port j = s.port j :=
  State.foldl_keeps (fun s => s.port j) _ (State.tintHead_port_other hj) _ s

/-- The state but for what a transmission changes. -/
def State.offSent (s : State) : State :=
  { s with quads := [], contexts := [], ports := [], recover := {}, survey := {}, out := [] }

theorem State.eq_of_offSent {s t : State} (h : t.offSent = s.offSent) :
    t = { s with quads := t.quads, contexts := t.contexts, ports := t.ports, recover := t.recover, survey := t.survey
                 out := t.out } :=
  congrArg (fun u : State => { u with quads := t.quads, contexts := t.contexts, ports := t.ports, recover := t.recover
                                      survey := t.survey, out := t.out }) h

theorem State.tintPort_offSent (s : State) (port : Nat) : (s.tintPort port).offSent = s.offSent := by
  rw [State.eq_of_offTint (s.tintPort_offTint port)]; rfl

/-- The counter that the next copy of a quadrant is sealed under, while its epoch lasts (R226, R491). -/
def Quadrant.counter (d : Quadrant) : BitVec 48 := BitVec.ofNat 48 (d.txEpoch.toNat % 256 * 2 ^ 40 + d.txCount)

/-- A copy is counted in the epoch that the quadrant is in (R491). -/
def State.countCopy (s : State) (q : Nat) : State :=
  s.modQuad q fun d => { d with
    txCount := d.txCount + 1, sentClk := s.clk
    epochPending := d.epochPending || (decide (2 ^ 39 < d.txCount + 1) && d.txEpoch == s.epochCounter q) }

/-- Before 2^40 copies the epoch stays. -/
theorem State.takeCounter_of_room {s : State} {q : Nat} (h : (s.quad q).txCount < 2 ^ 40) :
    s.takeCounter q = (s.countCopy q, (s.quad q).counter) := by
  have h : ¬ 2 ^ 40 ≤ (s.quad q).txCount := Nat.not_le.mpr h
  simp only [State.takeCounter, decide_eq_false h, Bool.false_eq_true, if_false]
  rfl

@[simp] theorem State.useEngine_txCount (s : State) (q : Nat) (opening : Bool) (n : Nat) :
    ((s.useEngine q opening n).quad q).txCount = (s.quad q).txCount := by
  simp only [State.useEngine, State.modQuad_same]; split <;> rfl

@[simp] theorem State.useEngine_txEpoch (s : State) (q : Nat) (opening : Bool) (n : Nat) :
    ((s.useEngine q opening n).quad q).txEpoch = (s.quad q).txEpoch := by
  simp only [State.useEngine, State.modQuad_same]; split <;> rfl

/-- A packet of a message as it leaves: sealed under the next counter and the quadrant's generation, marked or not. -/
def State.sealedCopy (s : State) (q : Nat) (x : Sender) (k : Nat) (b : List Byte) (keys : KeyGens) (mark : Bool) : Packet :=
  let p := s.packetOf q x k b
  s.sealed { p with
    route := { p.route with txCounter := (s.quad q).counter, keyGen := keys.genIn q % 256 }
    hop := { p.hop with congMark := mark } } (keys.genIn q)

/-- A sealed copy of accounted length `n` on its way, its message and its pacing as they stand after it. -/
def State.sentCopy (s : State) (q m : Nat) (x : Sender) (k : Nat) (b : List Byte) (n : Nat) : State :=
  ((((s.takeSeq x).2.useEngine q false (80 + b.length)).countCopy q).setSender q m
    ((s.takeSeq x).1.sentOne s q k)).pace q x.dst n

/-- Taking a sequence touches the contexts only, and of the message its sequence. -/
theorem State.takeSeq_frame (s : State) (x : Sender) :
    (∃ n, (s.takeSeq x).1 = { x with seq := n }) ∧ ∃ c, (s.takeSeq x).2 = { s with contexts := c } := by
  unfold State.takeSeq
  split
  · exact ⟨⟨_, rfl⟩, _, rfl⟩
  · exact ⟨⟨x.seq, rfl⟩, s.contexts, rfl⟩

/-- With a key and room in its epoch, a due packet leaves sealed under the next counter. -/
theorem State.transmit_eq {s : State} {q : Nat} {x : Sender} {keys : KeyGens}
    (hk : s.keysOf x.partition x.job = some keys) (room : (s.quad q).txCount < 2 ^ 40) (m k : Nat) (b : List Byte)
    (port : Option Nat) (busy : Nat) : ∃ n, s.transmit q m x k b port busy =
      (s.sentCopy q m x k b n).sendOn port (s.sealedCopy q (s.takeSeq x).1 k b keys
        (port.isSome && decide (s.txs.markUtil < busy) && b.length != 0)) := by
  obtain ⟨⟨n, hy⟩, c, hu⟩ := s.takeSeq_frame x
  have hq : (s.takeSeq x).2.quad q = s.quad q := by rw [hu]; rfl
  have counted : (((s.takeSeq x).2.useEngine q false (80 + b.length)).quad q).txCount < 2 ^ 40 := by
    rw [State.useEngine_txCount, hq]; exact room
  have counter : (((s.takeSeq x).2.useEngine q false (80 + b.length)).quad q).counter = (s.quad q).counter := by
    rw [Quadrant.counter, State.useEngine_txCount, State.useEngine_txEpoch, hq, Quadrant.counter]
  unfold State.transmit State.sentCopy State.sealedCopy
  rw [hk]
  simp only [State.takeCounter_of_room counted, counter]
  rw [hu, hy]
  cases port with
  | none => exact ⟨_, rfl⟩
  | some p => exact ⟨_, rfl⟩


/-! ## Sealed copies on their way -/

/-- A packet leaves on a port, or into its landing quadrant without one (R310). -/
def wayOut (port : Option Nat) (p : Packet) : Out := port.elim (.loopback p.route.landQ p) fun n => .wire n p

/-- Sending takes credit on the ring, and the packet goes out. -/
theorem State.sendOn_eq (s : State) (port : Option Nat) (p : Packet) :
    ∃ r, s.sendOn port p = { s with recover := r, out := wayOut port p :: s.out } := by
  unfold State.sendOn State.cross
  cases port with
  | none => dsimp only; split <;> exact ⟨_, rfl⟩
  | some n => dsimp only; split <;> exact ⟨_, rfl⟩

@[simp] theorem State.useEngine_offQuads (s : State) (q : Nat) (opening : Bool) (n : Nat) :
    (s.useEngine q opening n).offQuads = s.offQuads := rfl

@[simp] theorem State.countCopy_offQuads (s : State) (q : Nat) : (s.countCopy q).offQuads = s.offQuads := rfl

@[simp] theorem State.pace_offQuads (s : State) (q dst n : Nat) : (s.pace q dst n).offQuads = s.offQuads := rfl

/-- A sealed copy leaves its mark in the quadrants and in its context. -/
theorem State.sentCopy_eq (s : State) (q m : Nat) (x : Sender) (k : Nat) (b : List Byte) (n : Nat) :
    s.sentCopy q m x k b n =
      { s with quads := (s.sentCopy q m x k b n).quads, contexts := (s.takeSeq x).2.contexts } := by
  obtain ⟨-, c, hu⟩ := s.takeSeq_frame x
  have h : (s.sentCopy q m x k b n).offQuads = (s.takeSeq x).2.offQuads := by simp [State.sentCopy]
  have e := State.eq_of_offQuads h
  rw [hu] at e ⊢
  exact e

theorem State.sentCopy_sender (s : State) (q m : Nat) (x : Sender) (k : Nat) (b : List Byte) (n : Nat) :
    (s.sentCopy q m x k b n).sender? q m = some ((s.takeSeq x).1.sentOne s q k) := by
  rw [State.sentCopy, State.pace, State.modCongest_sender, State.setSender_sender_same]

theorem State.sentCopy_counter (s : State) (q m : Nat) (x : Sender) (k : Nat) (b : List Byte) (n : Nat) :
    ((s.sentCopy q m x k b n).quad q).txCount = (s.quad q).txCount + 1 ∧
      ((s.sentCopy q m x k b n).quad q).txEpoch = (s.quad q).txEpoch := by
  obtain ⟨-, c, hu⟩ := s.takeSeq_frame x
  have hq : (s.takeSeq x).2.quad q = s.quad q := by rw [hu]; rfl
  simp [State.sentCopy, State.pace, State.modCongest, State.setSender, State.countCopy, hq]

/-- The first transmission takes the next sequence of the context, a later one none (R218). -/
theorem State.takeSeq_nextSeq (s : State) (x : Sender) : ((s.takeSeq x).2.ctx x.context).nextSeq =
    (s.ctx x.context).nextSeq + (if x.sent = [] then 1 else 0) := by
  by_cases first : x.sent = [] <;> simp [State.takeSeq, first]

theorem State.takeSeq_sender (s : State) (x : Sender) : (s.takeSeq x).1 =
    if x.sent = [] then ({ x with seq := (s.ctx x.context).nextSeq } : Sender) else x := by
  by_cases first : x.sent = [] <;> simp [State.takeSeq, first]


/-! ## Packets go out (R219, R277 to R279, R310, R497) -/

theorem State.chargeOut_eq (s : State) (x : Sender) (k : Nat) (p : Option Nat) :
    s.chargeOut x k p = { s with ports := (s.chargeOut x k p).ports } := by
  cases p <;> rfl

theorem State.chargeOut_port_other {port j : Nat} (hj : j ≠ port) (s : State) (x : Sender) (k : Nat) {p : Option Nat}
    (hp : p = none ∨ p = some port) : (s.chargeOut x k p).port j = s.port j := by
  rcases hp with rfl | rfl
  · rfl
  · exact State.modPort_other _ _ _ _ hj

theorem State.wirePort_isSome (s : State) (q : Nat) (x : Sender) (port : Nat) :
    (s.wirePort q x port).isSome = !s.ownDst q (s.activeBank q) x.dst := by
  unfold State.wirePort; cases s.ownDst q (s.activeBank q) x.dst <;> rfl

theorem State.wirePort_cases (s : State) (q : Nat) (x : Sender) (port : Nat) :
    s.wirePort q x port = none ∨ s.wirePort q x port = some port := by
  unfold State.wirePort; split <;> simp

theorem State.wayOut_wirePort (s : State) (q : Nat) (x : Sender) (port : Nat) (w : Packet) :
    wayOut (s.wirePort q x port) w =
      if s.ownDst q (s.activeBank q) x.dst then .loopback w.route.landQ w else .wire port w := by
  unfold State.wirePort; split <;> rfl

section PacketTransmit

variable {s : State} {q m k port : Nat} {x : Sender} (hx : (s.tintPort port).sender? q m = some x) (busy : Nat)
include hx

/-- What is not due, or not chosen at the port, does not go. -/
theorem execPacketTransmit_held
    (h : (s.tintPort port).due q m x ≠ some k ∨ (s.tintPort port).egressOk q m x k port = false) :
    exec (.packetTransmit q m k port busy) s = .next (s.tintPort port) := by
  show execPacketTransmit q m k port busy s = _
  rcases h with h | h <;> simp [execPacketTransmit, hx, h]

variable (due : (s.tintPort port).due q m x = some k) (open_ : (s.tintPort port).egressOk q m x k port = true)
  (up : (s.tintPort port).unitDown (.transport q) = false)
include due open_ up

/-- With no sealing engine free it asks leave for one more. -/
theorem execPacketTransmit_noEngine (busyEngines : (s.tintPort port).engineFree q false = false) :
    exec (.packetTransmit q m k port busy) s = .next ((s.tintPort port).askEngine q false) := by
  show execPacketTransmit q m k port busy s = _
  simp [execPacketTransmit, hx, due, open_, up, busyEngines]

theorem execPacketTransmit_goes (free : (s.tintPort port).engineFree q false = true) {b : List Byte}
    (payload : (s.tintPort port).payload x k = .bytes b) :
    exec (.packetTransmit q m k port busy) s =
      .next (((s.tintPort port).chargeOut x k ((s.tintPort port).wirePort q x port)).transmit q m x k b
        ((s.tintPort port).wirePort q x port) busy) := by
  show execPacketTransmit q m k port busy s = _
  simp [execPacketTransmit, hx, due, open_, up, free, payload]

end PacketTransmit

/-- With a key and room in its epoch, a packet leaves sealed under the next counter: what its transmission changes. -/
theorem State.transmit_leaves {s : State} {q : Nat} {x : Sender} {keys : KeyGens}
    (hk : s.keysOf x.partition x.job = some keys) (room : (s.quad q).txCount < 2 ^ 40) (m k : Nat) (b : List Byte)
    (port : Option Nat) (busy : Nat) :
    let y := (s.takeSeq x).1
    let t := s.transmit q m x k b port busy
    t.offSent = s.offSent ∧ t.ports = s.ports ∧ t.contexts = (s.takeSeq x).2.contexts ∧
      t.out = wayOut port (s.sealedCopy q y k b keys
        (port.isSome && decide (s.txs.markUtil < busy) && b.length != 0)) :: s.out ∧
      t.sender? q m = some (y.sentOne s q k) ∧
      (t.quad q).txCount = (s.quad q).txCount + 1 ∧ (t.quad q).txEpoch = (s.quad q).txEpoch := by
  intro y t
  obtain ⟨n, sealed⟩ := State.transmit_eq hk room m k b port busy
  obtain ⟨r, sent⟩ := (s.sentCopy q m x k b n).sendOn_eq port
    (s.sealedCopy q y k b keys (port.isSome && decide (s.txs.markUtil < busy) && b.length != 0))
  have ht : t = _ := sealed.trans sent
  have frame := s.sentCopy_eq q m x k b n
  have out : (s.sentCopy q m x k b n).out = s.out := by rw [frame]
  rw [ht, ← out]
  exact ⟨by rw [frame]; rfl, by rw [frame], by rw [frame], rfl, s.sentCopy_sender q m x k b n,
    s.sentCopy_counter q m x k b n⟩


/-- A due packet that the scheduler lets go leaves sealed, and what it costs is charged at its port (R219, R278). -/
theorem State.chargedTransmit_leaves {v : State} {q m k port : Nat} {x : Sender} {keys : KeyGens} {b : List Byte}
    (busy : Nat) (hk : v.keysOf x.partition x.job = some keys) (room : (v.quad q).txCount < 2 ^ 40) :
    let own := v.ownDst q (v.activeBank q) x.dst
    let y := if x.sent = [] then ({ x with seq := (v.ctx x.context).nextSeq } : Sender) else x
    let w := v.sealedCopy q y k b keys (!own && decide (v.txs.markUtil < busy) && b.length != 0)
    let t := (v.chargeOut x k (v.wirePort q x port)).transmit q m x k b (v.wirePort q x port) busy
    t.out = (if own then .loopback w.route.landQ w else .wire port w) :: v.out ∧
      t.sender? q m = some (y.sentOne v q k) ∧
      (t.quad q).txCount = (v.quad q).txCount + 1 ∧ (t.quad q).txEpoch = (v.quad q).txEpoch ∧
      (t.ctx x.context).nextSeq = (v.ctx x.context).nextSeq + (if x.sent = [] then 1 else 0) ∧
      t.offSent = v.offSent ∧ ∀ j, j ≠ port → t.port j = v.port j := by
  intro own y w
  have others (j : Nat) (hj : j ≠ port) : (v.chargeOut x k (v.wirePort q x port)).port j = v.port j :=
    State.chargeOut_port_other hj v x k (v.wirePort_cases q x port)
  have charged := v.chargeOut_eq x k (v.wirePort q x port)
  generalize v.chargeOut x k (v.wirePort q x port) = c at charged others
  have ctx : c.ctx x.context = v.ctx x.context := by rw [charged]; rfl
  have taken : (c.takeSeq x).1 = y := by rw [State.takeSeq_sender, ctx]
  have room : (c.quad q).txCount < 2 ^ 40 := by rw [charged]; exact room
  have hk : c.keysOf x.partition x.job = some keys := by rw [charged]; exact hk
  obtain ⟨frame, ports, contexts, out, sender, count, epoch⟩ :=
    State.transmit_leaves hk room m k b (v.wirePort q x port) busy
  have same : c.sealedCopy q y k b keys (!own && decide (c.txs.markUtil < busy) && b.length != 0) = w := by
    rw [charged]; rfl
  rw [taken, State.wirePort_isSome, same, State.wayOut_wirePort] at out
  rw [taken] at sender
  have seqs := c.takeSeq_nextSeq x
  refine ⟨by rw [out, charged], by rw [sender, charged]; rfl, by rw [count, charged]; rfl, by rw [epoch, charged]; rfl,
    ?_, by rw [frame, charged]; rfl, fun j hj => ?_⟩
  · rw [State.ctx, contexts, ← ctx]; exact seqs
  · rw [State.port, ports]; exact others j hj

theorem Sender.sentOne_toSend (x : Sender) (s : State) (q k : Nat) : k ∉ (x.sentOne s q k).toSend := by
  simp [Sender.sentOne]

/-! ## Timeouts (R240 to R244) -/

@[simp] theorem State.countIn_sender (s : State) (scope id n q m : Nat) :
    (s.countIn scope id n).sender? q m = s.sender? q m := rfl

@[simp] theorem State.countIn_congest (s : State) (scope id n q dst : Nat) :
    (s.countIn scope id n).congest? q dst = s.congest? q dst := rfl

@[simp] theorem State.countDecrease_sender (s : State) (q event r m : Nat) :
    (s.countDecrease q event).sender? r m = s.sender? r m := rfl

/-- The state but for its quadrants and Survey. -/
def State.offRate (s : State) : State := { s with quads := [], survey := {} }

theorem State.eq_of_offRate {s t : State} (h : t.offRate = s.offRate) :
    t = { s with quads := t.quads, survey := t.survey } :=
  congrArg (fun u : State => { u with quads := t.quads, survey := t.survey }) h

@[simp] theorem State.modQuad_offRate (s : State) (q : Nat) (g : Quadrant → Quadrant) :
    (s.modQuad q g).offRate = s.offRate := rfl

@[simp] theorem State.setSender_offRate (s : State) (q m : Nat) (x : Sender) :
    (s.setSender q m x).offRate = s.offRate := rfl

@[simp] theorem State.modCongest_offRate (s : State) (q dst : Nat) (g : Congest → Congest) :
    (s.modCongest q dst g).offRate = s.offRate := rfl

@[simp] theorem State.countIn_offRate (s : State) (scope id n : Nat) : (s.countIn scope id n).offRate = s.offRate := rfl

@[simp] theorem State.countDecrease_offRate (s : State) (q event : Nat) : (s.countDecrease q event).offRate = s.offRate :=
  rfl

@[simp] theorem State.ccHalve_offRate (s : State) (q dst event : Nat) : (s.ccHalve q dst event).offRate = s.offRate := by
  unfold State.ccHalve
  split
  · rfl
  · dsimp only; split <;> simp

@[simp] theorem State.ccHalve_sender (s : State) (q dst event m : Nat) :
    (s.ccHalve q dst event).sender? q m = s.sender? q m := by
  unfold State.ccHalve
  split
  · rfl
  · dsimp only; split <;> simp

/-- A halved rate stays in the limits of R274, and is lowered once in 2d. -/
theorem State.ccHalve_congest {s : State} {q dst : Nat} {c : Congest} (hc : s.congest? q dst = some c) (event : Nat) :
    (s.ccHalve q dst event).congest? q dst = some (c.decrease s.txs (s.mtQ q) (c.rate / 2)) := by
  have lowered := State.modCongest_congest_same hc (fun c => c.decrease s.txs (s.mtQ q) (c.rate / 2))
    fun c => by unfold Congest.decrease; split <;> rfl
  unfold State.ccHalve
  rw [hc]
  dsimp only
  split
  · exact lowered
  · exact lowered

section RetransmitTimeout

variable {s : State} {q m t0 : Nat} {x : Sender} (hx : s.sender? q m = some x) (timer : x.timerStart = some t0)
include hx timer

theorem execRetransmitTimeout_early (early : s.clk < t0 + x.timeout) :
    exec (.retransmitTimeout q m) s = .next s := by
  show execRetransmitTimeout q m s = _
  simp [execRetransmitTimeout, hx, timer, Nat.not_le.mpr early]

theorem execRetransmitTimeout_due (waits : x.state = .waitReply) (cutoff : s.inCutoff q x = true)
    (due : t0 + x.timeout ≤ s.clk) :
    exec (.retransmitTimeout q m) s = .next (((s.setSender q m { x with
      state := .sending, toSend := x.round, timeout := max x.timeout (min 320000 (2 * x.timeout)), timerStart := none
      }).ccHalve q x.dst 4).countIn (scopeWord 1 0 q) Count.retransmissions) := by
  show execRetransmitTimeout q m s = _
  simp [execRetransmitTimeout, hx, waits, timer, cutoff, due, us]

end RetransmitTimeout

/-- A round sends the packets that the last bitmap does not show, or the last packet (R241). -/
theorem Sender.mem_round {x : Sender} {j : Nat} (hj : j ∈ x.round) (notRead : x.opcode ≠ 2) :
    (x.bitmap.getLsbD j = false ∧ j < x.requests) ∨ j = x.requests - 1 := by
  have op : ¬ x.opcode = opReadReq := notRead
  rw [Sender.round, if_neg op] at hj
  dsimp only at hj
  split at hj
  · exact .inr (List.mem_singleton.mp hj)
  · left; simpa [and_comm] using hj

section RetryAfterEnd

variable {s : State} {q m k u : Nat} {x : Sender} (hx : s.sender? q m = some x) (held : (k, u) ∈ x.holds)
  (past : u ≤ s.clk)
include hx held past

/-- The end of a wait: within the cutoff the packet is due again, and else its message is reissued where nothing of it
landed. -/
theorem execRetryAfterEnd_eq :
    exec (.retryAfterEnd q m k) s = .next (
      let y := { x with holds := x.holds.filter fun h => h.1 != k }
      if s.inCutoff q x then s.setSender q m { y with state := .sending }
      else if x.noneLanded then s.reissue q m y
      else s.setSender q m y) := by
  have any : (x.holds.any fun h => h.1 == k && decide (h.2 ≤ s.clk)) = true :=
    List.any_eq_true.mpr ⟨(k, u), held, by simp [past]⟩
  show execRetryAfterEnd q m k s = _
  simp only [execRetryAfterEnd, hx, any, if_true]

end RetryAfterEnd

/-- A reissued message begins again, 64 times at most (R243). -/
theorem State.reissue_starts {s : State} {q m : Nat} {x : Sender} (few : x.reissues < 64) :
    (s.reissue q m x).offQuads = s.offQuads ∧
      ∃ y, (s.reissue q m x).sender? q m = some y ∧ y.state = .sending ∧ y.issue = s.stamp q ∧ y.reissue = true ∧
        y.reissues = x.reissues + 1 ∧ y.sent = [] ∧ y.toSend = List.range x.requests := by
  rw [State.reissue, if_neg (Nat.not_le.mpr few)]
  exact ⟨rfl, _, (State.modCongest_sender ..).trans (State.setSender_sender_same ..), rfl, rfl, rfl, rfl, rfl, rfl⟩

/-- MESSAGE_EXPIRY of a message that has begun and of which something landed, no collective's. -/
theorem execMessageExpiry_begun {s : State} {q m : Nat} {x : Sender} (hx : s.sender? q m = some x)
    (begun : x.state = .waitReply ∨ x.state = .backoff ∨ x.state = .sending ∧ (x.sent ≠ [] ∨ x.stepped = true))
    (landed : x.noneLanded = false) (cls : x.cls ≠ 3) :
    exec (.messageExpiry q m) s = .next (if s.expired q x then s.msgEnded q m Status.messageExpired 1 else s) := by
  show execMessageExpiry q m s = _
  have : (x.state == .waitReply || x.state == .backoff || (x.state == .sending && (!x.sent.isEmpty || x.stepped))) = true := by
    rcases begun with h | h | ⟨h, h'⟩
    · simp [h]
    · simp [h]
    · rcases h' with h' | h' <;> simp [h, h']
  simp only [execMessageExpiry, hx, this, landed, if_neg cls]
  rfl

theorem State.expired_of_age {s : State} {q : Nat} {x : Sender} {a : Nat} (same : x.stepped = false)
    (age : s.msgAge q x = some a) : s.expired q x = decide (s.cfg.mplUs * 16000 + 32000 < a) := by
  rw [State.expired, same, age]; rfl

section UnreachableTimeout

variable {s : State} {q m u : Nat} {x : Sender} (hx : s.sender? q m = some x)
include hx

theorem execUnreachableTimeout_over (ready : x.state = .ready) (ports : s.activePorts = [])
    (since : x.unreachableSince = some u) (past : u + s.mplClk ≤ s.clk) :
    exec (.unreachableTimeout q m) s = .next (s.msgEnded q m Status.destinationUnreachable 1) := by
  show execUnreachableTimeout q m s = _
  simp [execUnreachableTimeout, hx, ready, ports, since, past]

theorem execUnreachableTimeout_ports (ports : s.activePorts ≠ []) : exec (.unreachableTimeout q m) s = .next s := by
  show execUnreachableTimeout q m s = _
  simp [execUnreachableTimeout, hx, ports]

end UnreachableTimeout

/-! ## The epoch counter (R478, R491) -/

/-- A counter of the list that is written reads one more. -/
theorem State.epochCounter_advanced {s : State} {q : Nat} (h : 3 + q < s.fw.counters.length)
    (g : Quadrant → Quadrant) :
    ((s.modFw fun f => { f with
      counters := f.counters.set (3 + q) (f.counters.getD (3 + q) 0 + 1) }).modQuad q g).epochCounter q =
        s.epochCounter q + 1 := by
  simp [State.epochCounter, State.modFw, h]

theorem execEpochReserved_pending {s : State} {q : Nat} (h : (s.quad q).epochPending = true) :
    exec (.epochReserved q) s = .next ((s.quad q).unsealed.foldl (fun s r => s.sendUnsealed q r)
      ((s.modFw fun f => { f with
        counters := f.counters.set (3 + q) (f.counters.getD (3 + q) 0 + 1) }).modQuad q fun d =>
          { d with epochPending := false, unsealed := [] })) := by
  show execEpochReserved q s = _
  rw [execEpochReserved, if_pos h]
  rfl

theorem execEpochReserved_idle {s : State} {q : Nat} (h : (s.quad q).epochPending = false) :
    exec (.epochReserved q) s = .next s := by
  show execEpochReserved q s = _
  simp [execEpochReserved, h]


/-! ## Messages are sent -/

/-- What begins a message in the state it is in: MESSAGE_BEGIN for a READY one, else RESERVATION_GRANT. -/
theorem begin_of_room {s : State} {q m : Nat} {x : Sender} (hx : s.sender? q m = some x)
    (state : x.state = .ready ∨ x.state = .waitResv) (up : s.unitDown (.transport q) = false)
    (room : (s.quad q).reserved + reserveBytes x ≤ responsePool) :
    (if x.state = .ready then exec (.messageBegin q m) s else exec (.reservationGrant q m) s) =
      .next (s.tryBegin q m x) := by
  rcases state with ready | waits
  · rw [if_pos ready, execMessageBegin_ready hx ready up]
  · rw [if_neg (by simp [waits]), execReservationGrant_room hx waits room]

theorem State.tintPort_ctx (s : State) (port c : Nat) : (s.tintPort port).ctx c = s.ctx c := by
  rw [State.eq_of_offTint (s.tintPort_offTint port)]; rfl

/-- Settles O29, command by command. -/
theorem messagesAreSent : Obligations.MessagesAreSent := by
  intro s q m x
  refine ⟨?begins, ?bars, ?transmit, ?held, ?timeout, ?wait, ?expiry, execEpochReserved_idle, ?epoch⟩
  case begins =>
    intro c n o hx state up bar hc
    refine ⟨fun room => ?_, fun some full => ?_⟩
    · obtain ⟨frame, reserved, congest, sender⟩ := State.beginMessage_begins hc room m
      refine ⟨s.beginMessage q m x, ?_, State.eq_of_offQuads frame, reserved, congest, sender⟩
      rw [← State.tryBegin_free bar]
      exact begin_of_room hx state up room
    · rcases state with ready | waits
      · left
        show (if x.state = .ready then _ else _) = _
        rw [if_pos ready, execMessageBegin_ready hx ready up, State.tryBegin_free bar,
          State.beginMessage_waits hc full some]
      · right
        refine ⟨waits, ?_⟩
        show (if x.state = .ready then _ else _) = _
        rw [if_neg (by simp [waits]), execReservationGrant_full hx waits full]
  case bars =>
    intro hx ready up
    have begins := execMessageBegin_ready hx ready up
    refine ⟨fun bar => ?_, fun bar => ?_, fun bar => ?_, fun bar => ?_, fun lock => s.beginBar_unlocked lock q x,
      fun ports _ since => execUnreachableTimeout_over hx ready ports since, execUnreachableTimeout_ports hx⟩
    all_goals rw [begins, State.tryBegin, bar]
  case transmit =>
    intro k port busy keys b v own d y p w hx due open_ up free hk payload room
    obtain ⟨out, sender, count, epoch, seqs, frame, ports⟩ :=
      State.chargedTransmit_leaves (m := m) (k := k) (port := port) (b := b) busy hk room
    have goes := execPacketTransmit_goes hx busy due open_ up free (Got.toOption_eq_some.1 payload)
    have ctx : v.ctx x.context = s.ctx x.context := s.tintPort_ctx port x.context
    rw [ctx] at out sender seqs
    exact ⟨_, goes, out, sender, Sender.sentOne_toSend _ _ _ _, count, epoch, seqs,
      State.eq_of_offSent (frame.trans (s.tintPort_offSent port)),
      fun j hj => (ports j hj).trans (State.tintPort_port_other hj s)⟩
  case held =>
    intro k port busy v hx
    refine ⟨execPacketTransmit_held hx busy, fun ⟨due, open_, up, full⟩ => ?_⟩
    exact execPacketTransmit_noEngine hx busy due open_ up full
  case timeout =>
    intro t0 c hx waits timer cutoff hc
    refine ⟨execRetransmitTimeout_early hx timer, fun due => ?_⟩
    refine ⟨_, execRetransmitTimeout_due hx timer waits cutoff due, State.eq_of_offRate (by simp), by simp, ?_,
      fun j hj notRead => Sender.mem_round hj notRead⟩
    rw [State.countIn_congest, State.ccHalve_congest ((State.setSender_congest ..).trans hc)]
    rfl
  case wait =>
    intro k u y hx held past
    have ends := execRetryAfterEnd_eq hx held past
    refine ⟨fun cutoff => ?_, fun cutoff landed => ?_, fun cutoff landed many => ?_, fun cutoff landed few => ?_⟩
    · rw [ends]; simp only [cutoff, if_true]; rfl
    · rw [ends]; simp only [cutoff, landed, Bool.false_eq_true, if_false]; rfl
    · rw [ends]; simp only [cutoff, landed, Bool.false_eq_true, if_false, if_true, State.reissue, if_pos many]
    · obtain ⟨frame, z, sender, state, issue, reissue, reissues, sent, toSend⟩ :=
        State.reissue_starts (s := s) (q := q) (m := m) (x := y) few
      refine ⟨s.reissue q m y, ?_, State.eq_of_offQuads frame, ?_⟩
      · rw [ends]; simp only [cutoff, landed, Bool.false_eq_true, if_false, if_true]; rfl
      · simp [sender, state, issue, reissue, reissues, sent, toSend, y, Sender.requests]
  case expiry =>
    intro hx begun landed cls
    have expires := execMessageExpiry_begun hx begun landed cls
    exact ⟨fun old => by rw [expires, if_pos old], fun young => by rw [expires, if_neg (by simp [young])],
      fun a same age => State.expired_of_age same age⟩
  case epoch =>
    intro u pending
    exact ⟨execEpochReserved_pending pending, fun listed => State.epochCounter_advanced listed _⟩

end Sys2Proof.Machine

/-!
Copies at the landing quadrant (R228 to R248): what the record and the copy of a packet read after each operation, what a
reply leaves alone, and how a copy arrives, is dropped, and lands.
-/

namespace Sys2Proof.Machine

/-! ## What replies, counters and the log leave alone -/

/-- Device memory, the send queues, and the copies and records of a quadrant: what a landing changes. -/
def State.landPart (s : State) (q : Nat) : Memory × Table Queue × List RxCopy × List Record :=
  (s.mem, s.queues, (s.quad q).copies, (s.quad q).records)

@[simp] theorem State.landPart_mk (s : State) (pending clk free out cfg txs mer funcs mailboxes hosts parts contexts rings
    regions placements tiles ports charts accels grats reds seqs kernels trigs qps controllers fw kbx spdm power survey
    recover) (q : Nat) :
    State.landPart ⟨pending, clk, free, out, cfg, txs, mer, funcs, mailboxes, hosts, parts, contexts, s.queues, rings,
      regions, placements, s.mem, tiles, s.quads, ports, charts, accels, grats, reds, seqs, kernels, trigs, qps, controllers,
      fw, kbx, spdm, power, survey, recover⟩ q = s.landPart q := rfl

theorem State.landPart_eq_iff {s t : State} {q : Nat} : t.landPart q = s.landPart q ↔ t.mem = s.mem ∧
    t.queues = s.queues ∧ (t.quad q).copies = (s.quad q).copies ∧ (t.quad q).records = (s.quad q).records := by
  simp [State.landPart]

/-- A change of a quadrant that keeps its copies and records. -/
theorem State.modQuad_landPart (s : State) (r : Nat) (g : Quadrant → Quadrant)
    (hg : ∀ d, (g d).copies = d.copies ∧ (g d).records = d.records) (q : Nat) :
    (s.modQuad r g).landPart q = s.landPart q := by
  by_cases h : q = r
  · subst h; simp [State.landPart, hg]
  · simp [State.landPart, State.modQuad_other _ _ _ _ h]

@[simp] theorem State.modPart_landPart (s : State) (p : Nat) (g : Partition → Partition) (q : Nat) :
    (s.modPart p g).landPart q = s.landPart q := rfl

@[simp] theorem State.modPower_landPart (s : State) (g : Power → Power) (q : Nat) :
    (s.modPower g).landPart q = s.landPart q := rfl

@[simp] theorem State.emit_landPart (s : State) (o : Out) (q : Nat) : (s.emit o).landPart q = s.landPart q := rfl

@[simp] theorem State.count_landPart (s : State) (id n q : Nat) : (s.count id n).landPart q = s.landPart q := rfl

@[simp] theorem State.countIn_landPart (s : State) (scope id n q : Nat) :
    (s.countIn scope id n).landPart q = s.landPart q := rfl

@[simp] theorem State.log_landPart (s : State) (r : LogRecord) (w : W64) (q : Nat) :
    (s.log r w).landPart q = s.landPart q := by
  unfold State.log; cases r.partition <;> (simp only []; (repeat' split) <;> simp)

@[simp] theorem State.note_landPart (s : State) (status unit index : Nat) (p : Option Nat) (info : W64) (severity q : Nat) :
    (s.note status unit index p info severity).landPart q = s.landPart q := by
  simp [State.note]

@[simp] theorem State.alarm_landPart (s : State) (i : Nat) (p : Option Nat) (q : Nat) :
    (s.alarm i p).landPart q = s.landPart q := by
  unfold State.alarm; cases p <;> simp

@[simp] theorem State.alarmRecord_landPart (s : State) (i : Nat) (r : LogRecord) (p : Option Nat) (q : Nat) :
    (s.alarmRecord i r p).landPart q = s.landPart q := by
  simp [State.alarmRecord, State.draw]

@[simp] theorem State.askEngine_landPart (s : State) (r : Nat) (opening : Bool) (q : Nat) :
    (s.askEngine r opening).landPart q = s.landPart q := by
  unfold State.askEngine State.askLeave; split <;> simp

@[simp] theorem State.useEngine_landPart (s : State) (r : Nat) (opening : Bool) (n q : Nat) :
    (s.useEngine r opening n).landPart q = s.landPart q :=
  State.modQuad_landPart _ _ _ (fun d => by split <;> exact ⟨rfl, rfl⟩) _

@[simp] theorem State.takeCounter_landPart (s : State) (r q : Nat) : (s.takeCounter r).1.landPart q = s.landPart q := by
  have warned (s : State) : (s.warnKeys r).landPart q = s.landPart q :=
    State.foldl_keeps (fun s => s.landPart q) _ (fun _ _ => by simp) _ s
  unfold State.takeCounter
  dsimp only
  split
  · rw [warned]; exact State.modQuad_landPart _ _ _ (by intro; exact ⟨rfl, rfl⟩) _
  · exact State.modQuad_landPart _ _ _ (by intro; exact ⟨rfl, rfl⟩) _

@[simp] theorem State.sendOn_landPart (s : State) (port : Option Nat) (p : Packet) (q : Nat) :
    (s.sendOn port p).landPart q = s.landPart q := by
  obtain ⟨r, h⟩ := s.sendOn_eq port p
  rw [h]; rfl

@[simp] theorem State.pickOutput_landPart (s : State) (e : ChartEntry) (q : Nat) :
    (s.pickOutput e).1.landPart q = s.landPart q := by
  unfold State.pickOutput State.draw; dsimp only; (repeat' split) <;> rfl

/-- A sealed packet that the device has formed takes its way: a BEACON on every active port, a packet for this device
without a port, any other on the output that its chart entry gives (R310, R311, R523). -/
def State.wayOff (s : State) (q : Nat) (pkt : Packet) : State :=
  let e := s.chartEntry q (s.activeBank q) pkt.route.dst
  if pkt.route.opcode = opBeacon then s.activePorts.foldl (fun s port => s.sendOn (some port) pkt) s
  else if s.ownDst q (s.activeBank q) pkt.route.dst then s.sendOn none pkt
  else if e.kind != 2 then s
  else
    match s.pickOutput e with
    | (s, some p) => s.sendOn (some p) pkt
    | (s, none) => s

/-- The route of a packet that a quadrant forms, under a counter and a key generation. -/
def State.ownRoute (s : State) (q : Nat) (r : Sys2Proof.Route) (c : BitVec 48) (gen : Nat) : Sys2Proof.Route :=
  { r with tc := 7, epoch := s.activeBank q, txQ := q, txCounter := c, keyGen := gen % 256 }

/-- With a key, a counter and an engine, a packet that the device forms is sealed and takes its way; without, it waits or
is not sent (R85, R491, R493, R497). -/
theorem State.inject_eq (s : State) (q : Nat) (pkt : Packet) (job : Option Nat) (r85 : Bool) :
    s.inject q pkt job r85 = match s.keysOf pkt.key.partition job with
      | none => s
      | some k =>
        if !s.keyAllows q k then s
        else if !s.counterReady q then s.modQuad q fun d => { d with unsealed := d.unsealed ++ [(r85, pkt)] }
        else if !s.engineFree q false then
          (s.askEngine q false).modQuad q fun d => { d with unsealed := d.unsealed ++ [(r85, pkt)] }
        else
          let pkt := if pkt.route.opcode = opBeacon then { pkt with hop := { pkt.hop with hopCount := 1 } } else pkt
          let r := (s.useEngine q false pkt.size).takeCounter q
          r.1.wayOff q (r.1.sealed { pkt with route := r.1.ownRoute q pkt.route r.2 (k.genIn q) } (k.genIn q)) := rfl

theorem State.wayOff_landPart (s : State) (r : Nat) (pkt : Packet) (q : Nat) :
    (s.wayOff r pkt).landPart q = s.landPart q := by
  have picked := s.pickOutput_landPart (s.chartEntry r (s.activeBank r) pkt.route.dst) q
  unfold State.wayOff
  dsimp only
  split
  · exact State.foldl_keeps (fun s => s.landPart q) _ (fun _ _ => State.sendOn_landPart ..) _ s
  split
  · exact State.sendOn_landPart ..
  split
  · rfl
  split
  · next h => rw [h] at picked; rw [State.sendOn_landPart]; exact picked
  · next h => rw [h] at picked; exact picked

/-- A packet that the device forms by itself changes no copy and no record. -/
@[simp] theorem State.inject_landPart (s : State) (r : Nat) (pkt : Packet) (job : Option Nat) (r85 : Bool) (q : Nat) :
    (s.inject r pkt job r85).landPart q = s.landPart q := by
  have waits (s : State) (u : Bool × Packet) :
      (s.modQuad r fun d => { d with unsealed := d.unsealed ++ [u] }).landPart q = s.landPart q :=
    State.modQuad_landPart _ _ _ (by intro; exact ⟨rfl, rfl⟩) _
  rw [State.inject_eq]
  split
  · rfl
  split
  · rfl
  split
  · exact waits _ _
  split
  · rw [waits, State.askEngine_landPart]
  · rw [State.wayOff_landPart, State.takeCounter_landPart, State.useEngine_landPart]

@[simp] theorem State.reply_landPart (s : State) (r : Nat) (pkt : Packet) (op status retry : Nat) (noRecord : Bool)
    (rec? : Option Record) (marked r85 : Bool) (q : Nat) :
    (s.reply r pkt op status retry noRecord rec? marked r85).landPart q = s.landPart q := by
  unfold State.reply
  split
  · rfl
  · dsimp only; rw [State.inject_landPart]; split <;> simp

/-- Counting a failed tag touches Survey and the log only (R496). -/
@[simp] theorem State.tagFailed_landPart (s : State) (r : Nat) (pkt : Packet) (q : Nat) :
    (s.tagFailed r pkt).landPart q = s.landPart q := by
  unfold State.tagFailed; dsimp only; split <;> simp


/-! ## Pools, copies and records -/

section SetPool

variable (d : Quadrant) (c n : Nat)

@[simp] theorem Quadrant.setPool_copies : (d.setPool c n).copies = d.copies := by
  unfold Quadrant.setPool; (repeat' split) <;> rfl

@[simp] theorem Quadrant.setPool_records : (d.setPool c n).records = d.records := by
  unfold Quadrant.setPool; (repeat' split) <;> rfl

@[simp] theorem Quadrant.setPool_senders : (d.setPool c n).senders = d.senders := by
  unfold Quadrant.setPool; (repeat' split) <;> rfl

@[simp] theorem Quadrant.setPool_nextCopy : (d.setPool c n).nextCopy = d.nextCopy := by
  unfold Quadrant.setPool; (repeat' split) <;> rfl

@[simp] theorem Quadrant.setPool_pool_same : (d.setPool c n).pool c = n := by
  unfold Quadrant.setPool Quadrant.pool; (repeat' split) <;> rfl

end SetPool

theorem State.record_of_records {s t : State} {q : Nat} (h : (t.quad q).records = (s.quad q).records) (k : MsgKey) :
    t.record? q k = s.record? q k := by
  rw [State.record?, h, State.record?]

theorem State.copy_of_copies {s t : State} {q : Nat} (h : (t.quad q).copies = (s.quad q).copies) (id : Nat) :
    t.copy? q id = s.copy? q id := by
  rw [State.copy?, h, State.copy?]

theorem State.record_of_landPart {s t : State} {q : Nat} (h : t.landPart q = s.landPart q) (k : MsgKey) :
    t.record? q k = s.record? q k := by
  obtain ⟨-, -, -, records⟩ := State.landPart_eq_iff.1 h
  exact State.record_of_records records k

/-- A change of a record that keeps its key is seen in it. -/
theorem State.modRecord_record_same (s : State) (q : Nat) (k : MsgKey) (g : Record → Record)
    (hg : ∀ r, (g r).key = r.key) : (s.modRecord q k g).record? q k = (s.record? q k).map g := by
  simp only [State.modRecord, State.record?, State.modQuad_same]
  exact find?_map_picked _ _ (fun r => by rw [hg]) _

/-- Device memory, the send queues and the copies of a quadrant: what a change of a record leaves alone. -/
def State.heldPart (s : State) (q : Nat) : Memory × Table Queue × List RxCopy := (s.mem, s.queues, (s.quad q).copies)

theorem State.heldPart_eq_iff {s t : State} {q : Nat} : t.heldPart q = s.heldPart q ↔
    t.mem = s.mem ∧ t.queues = s.queues ∧ (t.quad q).copies = (s.quad q).copies := by
  simp [State.heldPart]

theorem State.heldPart_of_landPart {s t : State} {q : Nat} (h : t.landPart q = s.landPart q) :
    t.heldPart q = s.heldPart q := by
  obtain ⟨mem, queues, copies, -⟩ := State.landPart_eq_iff.1 h
  exact State.heldPart_eq_iff.2 ⟨mem, queues, copies⟩

@[simp] theorem State.modRecord_heldPart (s : State) (q : Nat) (k : MsgKey) (g : Record → Record) :
    (s.modRecord q k g).heldPart q = s.heldPart q := by
  simp [State.heldPart, State.modRecord]

/-- Device memory, the send queues and the records of a quadrant: what taking a copy away leaves alone. -/
def State.recordPart (s : State) (q : Nat) : Memory × Table Queue × List Record := (s.mem, s.queues, (s.quad q).records)

theorem State.record_of_recordPart {s t : State} {q : Nat} (h : t.recordPart q = s.recordPart q) (k : MsgKey) :
    t.record? q k = s.record? q k :=
  State.record_of_records (congrArg (fun p => p.2.2) h) k

@[simp] theorem State.freeCopy_recordPart (s : State) (q : Nat) (c : RxCopy) :
    (s.freeCopy q c).recordPart q = s.recordPart q := by
  simp [State.recordPart, State.freeCopy, State.freePool, State.takeCopy]

@[simp] theorem State.freeCopy_record (s : State) (q : Nat) (c : RxCopy) (k : MsgKey) :
    (s.freeCopy q c).record? q k = s.record? q k :=
  State.record_of_recordPart (s.freeCopy_recordPart q c) k

/-- A copy that is freed is held no more. -/
@[simp] theorem State.freeCopy_copy_same (s : State) (q : Nat) (c : RxCopy) : (s.freeCopy q c).copy? q c.id = none := by
  simp [State.copy?, State.freeCopy, State.freePool, State.takeCopy]

@[simp] theorem State.freeCopy_offQuads (s : State) (q : Nat) (c : RxCopy) : (s.freeCopy q c).offQuads = s.offQuads := rfl

@[simp] theorem State.modRecord_offQuads (s : State) (q : Nat) (k : MsgKey) (g : Record → Record) :
    (s.modRecord q k g).offQuads = s.offQuads := rfl

@[simp] theorem State.modRecord_copy (s : State) (q : Nat) (k : MsgKey) (g : Record → Record) (id : Nat) :
    (s.modRecord q k g).copy? q id = s.copy? q id := by
  simp [State.copy?, State.modRecord]

/-- The quadrant's parts that stay when a record's flag packet is let go. -/
theorem State.freeFlag_frame (s : State) (q : Nat) (r : Record) : (s.freeFlag q r).offQuads = s.offQuads ∧
    ((s.freeFlag q r).quad q).copies = (s.quad q).copies ∧ ((s.freeFlag q r).quad q).records = (s.quad q).records ∧
    ((s.freeFlag q r).quad q).senders = (s.quad q).senders := by
  unfold State.freeFlag
  split
  · simp [State.freePool]
  · exact ⟨rfl, rfl, rfl, rfl⟩

/-- A record is deleted: no other goes, and copies and senders stay. -/
theorem State.deleteRecord_eq {s : State} {q : Nat} {k : MsgKey} {r : Record} (h : s.record? q k = some r) :
    (s.deleteRecord q k).offQuads = s.offQuads ∧ (s.deleteRecord q k).record? q k = none ∧
      (∀ j, j ≠ k → (s.deleteRecord q k).record? q j = s.record? q j) ∧
      ((s.deleteRecord q k).quad q).copies = (s.quad q).copies ∧
      ((s.deleteRecord q k).quad q).senders = (s.quad q).senders := by
  obtain ⟨frame, copies, records, senders⟩ := s.freeFlag_frame q r
  have e : s.deleteRecord q k =
      (s.freeFlag q r).modQuad q fun d => { d with records := d.records.filter fun x => x.key != k } := by
    simp [State.deleteRecord, h]
  rw [e]
  refine ⟨by simpa using frame, ?_, fun j hj => ?_, by simpa using copies, by simpa using senders⟩
  · simp [State.record?]
  · simp only [State.record?, State.modQuad_same, records, List.find?_filter]
    congr 1
    funext x
    by_cases hx : x.key = j
    · simp [hx, hj]
    · simp [hx]

/-! ## A copy is dropped (R234) -/

/-- A copy that cannot be opened takes its space with it, and its record where nothing else holds that. -/
theorem State.dropCopy_eq {s : State} {q : Nat} {c : RxCopy} {r : Record} (h : s.record? q c.pkt.key = some r) :
    (s.dropCopy q c).offQuads = s.offQuads ∧ (s.dropCopy q c).copy? q c.id = none ∧
      (r.verified = 0 → r.state = .provisional → r.pending = [c.pkt.pktIndex] →
        (s.dropCopy q c).record? q c.pkt.key = none) ∧
      (r.verified ≠ 0 → (s.dropCopy q c).record? q c.pkt.key =
        some { r with pending := r.pending.filter fun i => i != c.pkt.pktIndex }) := by
  let g := fun r : Record => { r with pending := r.pending.filter fun i => i != c.pkt.pktIndex }
  let u := (s.freeCopy q c).modRecord q c.pkt.key g
  have hu : u.record? q c.pkt.key = some (g r) := by
    rw [State.modRecord_record_same _ _ _ g fun _ => rfl, State.freeCopy_record, h]; rfl
  have hc : u.copy? q c.id = none := by simp [u]
  have frame : u.offQuads = s.offQuads := by simp [u]
  obtain ⟨deleted, gone, -, copies, -⟩ := State.deleteRecord_eq hu
  have e : s.dropCopy q c = if (g r).verified == 0 && (g r).pending.isEmpty && (g r).state == .provisional then
      u.deleteRecord q c.pkt.key else u := by
    unfold State.dropCopy
    dsimp only
    rw [show ((s.freeCopy q c).modRecord q c.pkt.key _).record? q c.pkt.key = some (g r) from hu]
  rw [e]
  refine ⟨?_, ?_, fun verified state pending => ?_, fun verified => ?_⟩
  · split
    · exact deleted.trans frame
    · exact frame
  · split
    · rw [State.copy_of_copies copies, hc]
    · exact hc
  · rw [if_pos (by simp [g, verified, state, pending])]; exact gone
  · have shown : ((g r).verified == 0) = false := beq_eq_false_iff_ne.2 verified
    rw [shown, Bool.false_and, Bool.false_and, if_neg Bool.false_ne_true]; exact hu


/-! ## A record answers (R237) -/

/-- A reply of a record touches no copy, no memory and no queue, and of the record the time of its last reply. -/
theorem State.stateReply_eq (s : State) (q : Nat) (pkt : Packet) (marked : Bool) (r : Record) :
    (s.stateReply q pkt marked r).heldPart q = s.heldPart q ∧ ∀ r0, s.record? q pkt.key = some r0 →
      ∃ l, (s.stateReply q pkt marked r).record? q pkt.key = some { r0 with lastReply := l } := by
  have replied (state : RecState) : (s.replied q pkt.key state).heldPart q = s.heldPart q ∧
      ∀ r0, s.record? q pkt.key = some r0 →
        ∃ l, (s.replied q pkt.key state).record? q pkt.key = some { r0 with lastReply := l } := by
    unfold State.replied
    split
    · exact ⟨rfl, fun r0 h => ⟨r0.lastReply, h⟩⟩
    · refine ⟨by simp, fun r0 h => ⟨some s.clk, ?_⟩⟩
      rw [State.modRecord_record_same _ _ _ (fun x => { x with lastReply := some s.clk }) fun _ => rfl, h]
      rfl
  obtain ⟨held, record⟩ := replied r.state
  have answers (u : State) (hu : u.landPart q = (s.replied q pkt.key r.state).landPart q) :
      u.heldPart q = s.heldPart q ∧ ∀ r0, s.record? q pkt.key = some r0 →
        ∃ l, u.record? q pkt.key = some { r0 with lastReply := l } :=
    ⟨(State.heldPart_of_landPart hu).trans held, fun r0 h => by rw [State.record_of_landPart hu]; exact record r0 h⟩
  unfold State.stateReply
  dsimp only
  split
  · exact answers _ rfl
  · exact answers _ (by simp)
  · exact answers _ (by simp)
  · exact answers _ (by simp)

theorem State.repeatReply_of_record {s : State} {q : Nat} {pkt : Packet} {r : Record}
    (h : s.record? q pkt.key = some r) (marked : Bool) : s.repeatReply q pkt marked =
      if r.lastReply.any (fun t => s.clk < t + 8000) then s else s.stateReply q pkt marked r := by
  unfold State.repeatReply
  rw [h]
  cases ht : r.lastReply with
  | none => simp [ht]
  | some t =>
    by_cases late : t + 8000 ≤ s.clk
    · have : ¬ s.clk < t + 8000 := by omega
      simp [ht, us, late, this]
    · have : s.clk < t + 8000 := by omega
      simp [ht, us, late, this]

/-- A repeated reply leaves what a reply leaves. -/
theorem State.repeatReply_eq {s : State} {q : Nat} {pkt : Packet} {r : Record} (h : s.record? q pkt.key = some r)
    (marked : Bool) : (s.repeatReply q pkt marked).heldPart q = s.heldPart q ∧
      ∃ l, (s.repeatReply q pkt marked).record? q pkt.key = some { r with lastReply := l } := by
  obtain ⟨held, record⟩ := s.stateReply_eq q pkt marked r
  rw [State.repeatReply_of_record h]
  split
  · exact ⟨rfl, r.lastReply, h⟩
  · exact ⟨held, record r h⟩

/-- A record that has the length of its message committed enters COMPLETE and answers. -/
theorem State.credit_complete {s : State} {q : Nat} {pkt : Packet} {r : Record} (h : s.record? q pkt.key = some r)
    (live : r.state ≠ .failed) (done : r.length ≤ r.committed + pkt.payloadLen) (marked : Bool) :
    s.credit q pkt marked =
      ((s.modRecord q pkt.key fun r => { r with committed := r.committed + pkt.payloadLen }).modRecord q pkt.key
        fun r => { r with state := .complete, flag := none }).stateReply q pkt marked
          { r with committed := r.committed + pkt.payloadLen, state := .complete, flag := none } := by
  have credited : (s.modRecord q pkt.key fun r => { r with committed := r.committed + pkt.payloadLen }).record? q pkt.key =
      some { r with committed := r.committed + pkt.payloadLen } := by
    rw [State.modRecord_record_same _ _ _ (fun r => { r with committed := r.committed + pkt.payloadLen }) fun _ => rfl, h]
    rfl
  have complete := State.modRecord_record_same
    (s.modRecord q pkt.key fun r => { r with committed := r.committed + pkt.payloadLen }) q pkt.key
    (fun r => { r with state := .complete, flag := none }) fun _ => rfl
  rw [credited, Option.map_some] at complete
  unfold State.credit
  dsimp only
  rw [credited]
  dsimp only
  rw [if_neg (by simp [live]), if_pos done, State.completeRecord, complete]

/-- The record of a message after bytes of it have committed, but for the time of its last reply. -/
def Record.credited (r : Record) (n : Nat) : Record :=
  { r with
    committed := r.committed + n
    state := if r.length ≤ r.committed + n then .complete else r.state
    flag := if r.length ≤ r.committed + n then none else r.flag }

/-- Committed bytes are credited to the record; with the last of the message it is COMPLETE (R248). -/
theorem State.credit_eq {s : State} {q : Nat} {pkt : Packet} {r : Record} (h : s.record? q pkt.key = some r)
    (live : r.state ≠ .failed) (noFlag : r.flag = none) (marked : Bool) :
    (s.credit q pkt marked).heldPart q = s.heldPart q ∧ ∃ l, (s.credit q pkt marked).record? q pkt.key =
      some { r.credited pkt.payloadLen with lastReply := l } := by
  let g := fun r : Record => { r with committed := r.committed + pkt.payloadLen }
  let u := s.modRecord q pkt.key g
  have hu : u.record? q pkt.key = some (g r) := by
    rw [State.modRecord_record_same _ _ _ g fun _ => rfl, h]; rfl
  have held : u.heldPart q = s.heldPart q := s.modRecord_heldPart q pkt.key g
  by_cases done : r.length ≤ r.committed + pkt.payloadLen
  · let f := fun r : Record => { r with state := .complete, flag := none }
    have hv : (u.modRecord q pkt.key f).record? q pkt.key = some (f (g r)) := by
      rw [State.modRecord_record_same _ _ _ f fun _ => rfl, hu]; rfl
    obtain ⟨kept, record⟩ := (u.modRecord q pkt.key f).stateReply_eq q pkt marked (f (g r))
    obtain ⟨l, hl⟩ := record _ hv
    rw [State.credit_complete h live done]
    refine ⟨kept.trans ((u.modRecord_heldPart q pkt.key f).trans held), l, hl.trans ?_⟩
    simp [Record.credited, done, f, g]
  · have e : s.credit q pkt marked =
        if pkt.flags.ackNow && (u.record? q pkt.key).any (fun r => r.state == .opened) then u.repeatReply q pkt marked
        else u := by
      unfold State.credit
      dsimp only
      rw [show (s.modRecord q pkt.key _).record? q pkt.key = some (g r) from hu]
      dsimp only
      have gate : ((g r).flag.isSome && (g r).othersDone) = false := by simp [g, noFlag]
      rw [if_neg (by simp [g, live]), if_neg (by simp [g]; omega)]
      simp only [gate, Bool.false_eq_true, if_false, ← hu]
      rfl
    have same : g r = { r.credited pkt.payloadLen with lastReply := r.lastReply } := by
      simp [Record.credited, done, g]
    obtain ⟨kept, l, hl⟩ := State.repeatReply_eq hu marked
    rw [e]
    split
    · exact ⟨kept.trans held, l, hl.trans (by rw [same])⟩
    · exact ⟨held, r.lastReply, hu.trans (by rw [same])⟩


/-! ## Bytes land (R120, R128) -/

/-- The state but for device memory and the marks of its placements. -/
def State.offMem (s : State) : State := { s with mem := {}, placements := [] }

theorem State.eq_of_offMem {s t : State} (h : t.offMem = s.offMem) :
    t = { s with mem := t.mem, placements := t.placements } :=
  congrArg (fun u : State => { u with mem := t.mem, placements := t.placements }) h

@[simp] theorem State.markSpace_offMem (s : State) (p off n : Nat) : (s.markSpace p off n).offMem = s.offMem := by
  unfold State.markSpace; split <;> rfl

@[simp] theorem State.useChannels_offMem (s : State) (p off n : Nat) : (s.useChannels p off n).offMem = s.offMem := by
  unfold State.useChannels; dsimp only; split <;> rfl

@[simp] theorem State.useChannels_upsets (s : State) (p off n : Nat) :
    (s.useChannels p off n).mem.upsets = s.mem.upsets := by
  unfold State.useChannels; dsimp only; split <;> rfl

/-- Where no line is upset, a write changes its bytes in the memory, and the marks of its placement. -/
theorem State.writeSpace_frame {s : State} (h : s.mem.upsets = []) (p off : Nat) (b : List Byte) :
    (s.writeSpace p off b).mem.upsets = [] ∧ (s.writeSpace p off b).offMem = s.offMem := by
  have folded : s.foldUpsets (spaceKey p off) b.length = s := by simp [State.foldUpsets, h]
  have fresh : s.freshFrames p off b.length = s := by simp [State.freshFrames, h]
  simp only [State.writeSpace, folded, fresh, State.markSpace_mem, State.useChannels_upsets, h, State.markSpace_offMem,
    true_and]
  exact s.useChannels_offMem p off b.length

/-- Where no line is upset, a write reads back, and no other byte changes (R128). -/
theorem State.writeSpace_reads {s : State} (wf : s.mem.wf = true) (h : s.mem.upsets = []) (p off : Nat) (b : List Byte) :
    memRead (s.writeSpace p off b).mem.cells (spaceKey p off) b.length = b ∧
      ∀ c, c < spaceKey p off ∨ spaceKey p off + b.length ≤ c →
        memGet (s.writeSpace p off b).mem.cells c = memGet s.mem.cells c := by
  rw [State.writeSpace_cells h]
  exact ⟨memRead_write wf _ b, fun c hc => memGet_write_other wf _ b hc⟩

/-- What every step of a fold keeps that may stop, the fold keeps where it does not. -/
theorem foldl_bind_keeps {α β : Type} (v : State → β) (f : State → α → Option State)
    (hf : ∀ s a t, f s a = some t → v t = v s) (l : List α) {s t : State}
    (h : l.foldl (fun o a => o.bind fun s => f s a) (some s) = some t) : v t = v s := by
  have stopped (l : List α) : l.foldl (fun o a => o.bind fun s => f s a) none = none := by
    induction l with
    | nil => rfl
    | cons a l ih => exact ih
  induction l generalizing s with
  | nil => rw [Option.some.inj h]
  | cons a l ih =>
    rw [List.foldl_cons, Option.bind_some] at h
    cases hu : f s a with
    | none => rw [hu, stopped] at h; exact absurd h (by simp)
    | some u => rw [hu] at h; exact (ih h).trans (hf s a u hu)

/-- The state but for the ring's credit and the recovery records. -/
def State.offRec (s : State) : State := { s with recover := {} }

theorem State.eq_of_offRec {s t : State} (h : t.offRec = s.offRec) : t = { s with recover := t.recover } :=
  congrArg (fun u : State => { u with recover := t.recover }) h

/-- Bytes on the ring take its credit only. -/
theorem State.toPages_offRec {s v : State} {q cls p off n : Nat} (h : s.toPages q cls p off n = some v) :
    v.offRec = s.offRec := by
  refine foldl_bind_keeps State.offRec _ (fun s page t hs => ?_) _ h
  dsimp only at hs
  split at hs
  · rw [← Option.some.inj hs, State.cross]
    split <;> rfl
  · simp at hs

/-! ## A verified packet lands (R121, R248) -/

/-- A held copy that an opening engine can verify: a key opens it, and an engine of the running pipeline is free. -/
structure State.Verifies (s : State) (q : Nat) (c : RxCopy) (key : List Byte) : Prop where
  held : s.copy? q c.id = some c
  fresh : c.verified = false
  up : s.unitDown (.receive q) = false
  opened : s.openKey c.pkt = some key
  free : s.engineFree q true = true

/-- A copy whose tag is right, with an engine free, runs the checks of R121. -/
theorem execTagVerify_commits {s : State} {q : Nat} {c : RxCopy} {key : List Byte} (h : s.Verifies q c key)
    (recorded : c.pkt.route.opcode ≠ opColl) :
    exec (.tagVerify q c.id (c.pkt.tag key)) s = .next ((s.useEngine q true c.pkt.size).commitCopy q c) := by
  obtain ⟨held, fresh, up, opened, free⟩ := h
  show execTagVerify q c.id (c.pkt.tag key) s = _
  have opens : s.opens c.pkt = true := by rw [State.opens, opened]; rfl
  have tag : (s.useEngine q true c.pkt.size).tagOk c.pkt (c.pkt.tag key) = true := by
    rw [State.tagOk, show (s.useEngine q true c.pkt.size).openKey c.pkt = some key from opened]
    exact beq_self_eq_true _
  simp [execTagVerify, held, fresh, up, opens, free, tag, recorded]

/-- Checked bytes land at an offset of a placement where no line, leg or link makes them wait. -/
theorem State.landBytes_lands {s v : State} {q id off cls : Nat} {r : Region} {b : List Byte} (kind : r.kind = 1)
    (bias : s.biasLines r.partition off b.length true = []) (free : s.stalled r.partition off b.length = false)
    (paths : s.toPages q cls r.partition off b.length = some v) :
    s.landBytes q id r off b cls = .done (v.writeSpace r.partition off b) := by
  simp [State.landBytes, kind, bias, free, paths]

/-- A checked WRITE copy of a live record whose bytes land is credited. -/
theorem State.commitCopy_write {s t : State} {q : Nat} {c : RxCopy} {r : Record}
    (write : c.pkt.route.opcode = 1) (checked : s.commitCheck c.pkt = Status.ok)
    (known : s.record? q c.pkt.key = some r) (live : r.state ≠ .failed) (notFlag : c.pkt.flags.flagFinal = false)
    (lands : s.landBytes q c.id (s.region (keyIndex c.pkt.spec.regionKey)) (accessOf c.pkt).1 c.pkt.payload
      c.pkt.route.cls = .done t) :
    s.commitCopy q c = ((t.freeCopy q c).verifyBit q c.pkt).credit q c.pkt (s.marksReply c.pkt c.marked) := by
  have notFailed : s.failedRecord q c.pkt = false := by simp [State.failedRecord, known, live]
  have op : c.pkt.route.opcode = opWrite := write
  simp [State.commitCopy, notFailed, checked, State.landCopy, op, State.landWrite, known, live, notFlag, lands]

/-- The record of a message after a packet of it is verified. -/
def Record.seen (r : Record) (k : Nat) : Record :=
  { r with
    pending := r.pending.filter fun i => i != k
    verified := r.verified ||| w64 (2 ^ k)
    state := if r.state == .provisional then .opened else r.state }

theorem State.verifyBit_record {s : State} {q : Nat} {pkt : Packet} {r : Record} (h : s.record? q pkt.key = some r) :
    (s.verifyBit q pkt).record? q pkt.key = some (r.seen pkt.pktIndex) := by
  exact (State.modRecord_record_same s q pkt.key (fun r => r.seen pkt.pktIndex) fun _ => rfl).trans (by rw [h]; rfl)

theorem Record.seen_live {r : Record} (h : r.state ≠ .failed) (k : Nat) : (r.seen k).state ≠ .failed := by
  rw [Record.seen]
  dsimp only
  split
  · simp
  · exact h

/-- A refused packet fails its record, and answers with the status (R248). -/
theorem State.failRecord_eq {s : State} {q : Nat} {pkt : Packet} {r : Record} (h : s.record? q pkt.key = some r)
    (status : Nat) (marked : Bool) : (s.failRecord q pkt status marked).heldPart q = s.heldPart q ∧
      ∃ l, (s.failRecord q pkt status marked).record? q pkt.key =
        some { r with state := .failed, finalStatus := status, flag := none, lastReply := l } := by
  let g := fun r : Record => { r with state := .failed, finalStatus := status, flag := none }
  let u := (s.freeFlag q r).modRecord q pkt.key g
  obtain ⟨frame, copies, records, -⟩ := s.freeFlag_frame q r
  have hu : u.record? q pkt.key = some (g r) := by
    rw [State.modRecord_record_same _ _ _ g fun _ => rfl, State.record_of_records records, h]; rfl
  have held : u.heldPart q = s.heldPart q := by
    rw [State.modRecord_heldPart, State.heldPart_eq_iff, State.eq_of_offQuads frame]
    exact ⟨rfl, rfl, copies⟩
  obtain ⟨kept, record⟩ := u.stateReply_eq q pkt marked (g r)
  obtain ⟨l, hl⟩ := record _ hu
  have e : s.failRecord q pkt status marked = u.stateReply q pkt marked (g r) := by
    unfold State.failRecord
    rw [h]
    dsimp only
    rw [show ((s.freeFlag q r).modRecord q pkt.key _).record? q pkt.key = some (g r) from hu]
  rw [e]
  exact ⟨kept.trans held, l, hl⟩


/-! ## A reply leaves (R226, R231, R311) -/

/-- What sealing under the next counter reads of a quadrant. -/
def State.sealPart (s : State) (q : Nat) : BitVec 32 × Nat × List Nat :=
  ((s.quad q).txEpoch, (s.quad q).txCount, (s.quad q).sealing)

theorem State.sealPart_eq_iff {s t : State} {q : Nat} : t.sealPart q = s.sealPart q ↔
    (t.quad q).txEpoch = (s.quad q).txEpoch ∧ (t.quad q).txCount = (s.quad q).txCount ∧
      (t.quad q).sealing = (s.quad q).sealing := by
  simp [State.sealPart]

@[simp] theorem State.modRecord_sealPart (s : State) (q : Nat) (k : MsgKey) (g : Record → Record) :
    (s.modRecord q k g).sealPart q = s.sealPart q := by
  simp [State.sealPart, State.modRecord]

@[simp] theorem State.freeCopy_sealPart (s : State) (q : Nat) (c : RxCopy) :
    (s.freeCopy q c).sealPart q = s.sealPart q := by
  simp only [State.sealPart, State.freeCopy, State.freePool, State.takeCopy, State.modQuad_same, Quadrant.setPool]
  (repeat' split) <;> rfl

@[simp] theorem State.openEngine_sealPart (s : State) (q n : Nat) : (s.useEngine q true n).sealPart q = s.sealPart q := by
  simp [State.sealPart, State.useEngine]

/-- The primary output of a destination, in a quadrant's active bank. -/
def State.primaryTo (s : State) (q dst : Nat) : Nat := (s.chartEntry q (s.activeBank q) dst).primary

/-- The destination is another device, and its primary output may be taken (R311). -/
structure State.Reaches (s : State) (q dst : Nat) : Prop where
  other : s.ownDst q (s.activeBank q) dst = false
  kind : (s.chartEntry q (s.activeBank q) dst).kind = 2
  valid : (s.chartEntry q (s.activeBank q) dst).primaryValid = true
  output : s.primaryTo q dst ∈ s.outputs (s.chartEntry q (s.activeBank q) dst)

/-- A quadrant may seal a packet of a partition under these generations: the key allows it, its epoch has room, and an
engine is free (R491, R493, R497). -/
structure State.Seals (s : State) (q p : Nat) (k : KeyGens) : Prop where
  keys : s.keysOf p none = some k
  allows : s.keyAllows q k = true
  room : (s.quad q).txCount < 2 ^ 40
  free : s.engineFree q false = true

/-- A sealed packet whose primary output may be taken leaves on it (R311). -/
theorem State.wayOff_primary {s : State} {q : Nat} {pkt : Packet} (notBeacon : pkt.route.opcode ≠ opBeacon)
    (way : s.Reaches q pkt.route.dst) : (s.wayOff q pkt).out = .wire (s.primaryTo q pkt.route.dst) pkt :: s.out := by
  obtain ⟨other, kind, valid, output⟩ := way
  have picked : s.pickOutput (s.chartEntry q (s.activeBank q) pkt.route.dst) =
      (s, some (s.primaryTo q pkt.route.dst)) := by
    rw [State.primaryTo] at output ⊢
    simp [State.pickOutput, valid, output, List.ne_nil_of_mem output]
  obtain ⟨r, sent⟩ := s.sendOn_eq (some (s.primaryTo q pkt.route.dst)) pkt
  have e : s.wayOff q pkt = s.sendOn (some (s.primaryTo q pkt.route.dst)) pkt := by
    simp [State.wayOff, notBeacon, other, kind, picked]
  rw [e, sent]
  rfl

/-- A packet that the device forms and may seal leaves on the primary output of its destination. -/
theorem State.inject_wire {s : State} {q : Nat} {pkt : Packet} {k : KeyGens} (r85 : Bool)
    (seals : s.Seals q pkt.key.partition k) (notBeacon : pkt.route.opcode ≠ opBeacon)
    (way : s.Reaches q pkt.route.dst) :
    (s.inject q pkt none r85).out = .wire (s.primaryTo q pkt.route.dst)
      (s.sealed { pkt with route := s.ownRoute q pkt.route (s.quad q).counter (k.genIn q) } (k.genIn q)) :: s.out := by
  obtain ⟨keys, allows, room, free⟩ := seals
  have ready : s.counterReady q = true := by rw [State.counterReady, decide_eq_true room, Bool.true_or]
  have counted : ((s.useEngine q false pkt.size).quad q).txCount < 2 ^ 40 := by
    rw [State.useEngine_txCount]; exact room
  have counter : ((s.useEngine q false pkt.size).quad q).counter = (s.quad q).counter := by
    rw [Quadrant.counter, State.useEngine_txCount, State.useEngine_txEpoch, Quadrant.counter]
  rw [State.inject_eq, keys]
  dsimp only
  rw [if_neg (by simp [allows]), if_neg (by simp [ready]), if_neg (by simp [free]), if_neg notBeacon,
    State.takeCounter_of_room counted, counter]
  exact State.wayOff_primary (s := (s.useEngine q false pkt.size).countCopy q) notBeacon
    ⟨way.other, way.kind, way.valid, way.output⟩

/-- The ACK of a record that has shown `bitmap` and holds `result`, as it leaves for a copy. -/
def State.sealedAck (s : State) (q : Nat) (pkt : Packet) (k : KeyGens) (result bitmap : W64) (marked : Bool) : Packet :=
  s.sealed { key := { pkt.key with src := s.cfg.endpoint }
             route := { opcode := 0x10, cls := 1, tc := 7, epoch := s.activeBank q, dst := pkt.key.src
                        landQ := pkt.route.replyQ, txQ := q, txCounter := (s.quad q).counter, keyGen := k.genIn q % 256 }
             hop := { congMark := marked }, spec := { result, bitmap, echo := pkt.send }
             issue := s.stamp q, send := s.stamp q, pktIndex := pkt.pktIndex } (k.genIn q)

/-- The ACK of a record leaves where the device may send it (R237, R270). -/
theorem State.ack_leaves {s : State} {q : Nat} {pkt : Packet} {k : KeyGens} (r : Record) (marked : Bool)
    (locked : s.mer.lock ≠ .unlocked) (seals : s.Seals q pkt.key.partition k) (way : s.Reaches q pkt.key.src) :
    (s.reply q pkt opAck 0 0 false (some r) marked).out =
      .wire (s.primaryTo q pkt.key.src) (s.sealedAck q pkt k r.result r.verified marked) :: s.out := by
  have answers : (s.mer.lock == .unlocked && !false) = false := by simp [locked]
  unfold State.reply
  rw [if_neg (by rw [answers]; exact Bool.false_ne_true)]
  exact State.inject_wire false seals (show opAck ≠ opBeacon by decide) way

/-- The state but for what the landing of a copy changes before it is answered. -/
def State.offLand (s : State) : State := { s with quads := [], mem := {}, placements := [], recover := {} }

theorem State.eq_of_offLand {s t : State} (h : t.offLand = s.offLand) :
    t = { s with quads := t.quads, mem := t.mem, placements := t.placements, recover := t.recover } :=
  congrArg (fun u : State => { u with quads := t.quads, mem := t.mem, placements := t.placements, recover := t.recover }) h

/-- What landed changes neither whether the device may seal and send, nor its ACK. -/
theorem State.ack_of_offLand {s t : State} {q p dst : Nat} {k : KeyGens} (frame : t.offLand = s.offLand)
    (same : t.sealPart q = s.sealPart q) : (s.Seals q p k → t.Seals q p k) ∧ (s.Reaches q dst → t.Reaches q dst) ∧
      t.primaryTo q dst = s.primaryTo q dst ∧
      ∀ pkt k result bitmap marked, t.sealedAck q pkt k result bitmap marked = s.sealedAck q pkt k result bitmap marked := by
  have e := State.eq_of_offLand frame
  obtain ⟨epoch, count, sealing⟩ := State.sealPart_eq_iff.1 same
  have counter : (t.quad q).counter = (s.quad q).counter := by
    rw [Quadrant.counter, epoch, count, Quadrant.counter]
  refine ⟨fun h => ⟨?_, ?_, count ▸ h.room, ?_⟩, fun h => ⟨?_, ?_, ?_, ?_⟩, ?_, fun pkt k result bitmap marked => ?_⟩
  · rw [e]; exact h.keys
  · have := h.allows
    rw [State.keyAllows] at this ⊢
    rw [epoch, e]; exact this
  · have := h.free
    rw [State.engineFree, Quadrant.engines] at this ⊢
    rw [if_neg Bool.false_ne_true] at this ⊢
    rw [sealing, e]; exact this
  · rw [e]; exact h.other
  · rw [e]; exact h.kind
  · rw [e]; exact h.valid
  · rw [e]; exact h.output
  · rw [e]; rfl
  · rw [State.sealedAck, counter, e]; rfl


/-! ## The verified WRITE copy (R121, R237, R248) -/

@[simp] theorem State.modRecord_offLand (s : State) (q : Nat) (k : MsgKey) (g : Record → Record) :
    (s.modRecord q k g).offLand = s.offLand := rfl

/-- A landed copy before it is credited: it is held no more, and its packet is seen. -/
theorem State.taken_frame {s : State} {q : Nat} {c : RxCopy} {r : Record} (known : s.record? q c.pkt.key = some r) :
    ((s.freeCopy q c).verifyBit q c.pkt).offQuads = s.offQuads ∧
      ((s.freeCopy q c).verifyBit q c.pkt).sealPart q = s.sealPart q ∧
      ((s.freeCopy q c).verifyBit q c.pkt).copy? q c.id = none ∧
      ((s.freeCopy q c).verifyBit q c.pkt).record? q c.pkt.key = some (r.seen c.pkt.pktIndex) := by
  refine ⟨rfl, ?_, ?_, State.verifyBit_record ((State.freeCopy_record ..).trans known)⟩
  · rw [State.verifyBit, State.modRecord_sealPart, State.freeCopy_sealPart]
  · rw [State.verifyBit, State.modRecord_copy, State.freeCopy_copy_same]

/-- Bytes that crossed the ring and were written: the quadrants are as the opening engine left them. -/
theorem State.written_frame {s v : State} {q cls p off n : Nat} {b : List Byte} (clean : s.mem.upsets = [])
    (paths : (s.useEngine q true n).toPages q cls p off b.length = some v) :
    v.mem = s.mem ∧ (v.writeSpace p off b).mem.upsets = [] ∧ (v.writeSpace p off b).offLand = s.offLand ∧
      (v.writeSpace p off b).quads = (s.useEngine q true n).quads := by
  have ring := State.eq_of_offRec (State.toPages_offRec paths)
  have mem : v.mem = s.mem := by rw [ring]; rfl
  obtain ⟨upsets, frame⟩ := State.writeSpace_frame (mem ▸ clean) p off b
  have written := State.eq_of_offMem frame
  refine ⟨mem, upsets, ?_, ?_⟩
  · rw [written, ring]; rfl
  · rw [written, ring]

/-- A completed record answers with an ACK (R237). -/
theorem State.stateReply_complete {s : State} {r : Record} (locked : s.mer.lock ≠ .unlocked) (done : r.state = .complete)
    (q : Nat) (pkt : Packet) (marked : Bool) : s.stateReply q pkt marked r =
      (s.modRecord q pkt.key fun x => { x with lastReply := some s.clk }).reply q pkt opAck 0 0 false (some r) marked := by
  simp [State.stateReply, State.replied, done, locked]

/-- The last bytes of a message draw an ACK, where the device may seal and send it. -/
theorem State.credit_acks {s a : State} {q : Nat} {pkt : Packet} {r : Record} {k : KeyGens}
    (frame : a.offLand = s.offLand) (same : a.sealPart q = s.sealPart q) (known : a.record? q pkt.key = some r)
    (live : r.state ≠ .failed) (done : r.length ≤ r.committed + pkt.payloadLen) (marked : Bool)
    (locked : s.mer.lock ≠ .unlocked) (seals : s.Seals q pkt.key.partition k) (way : s.Reaches q pkt.key.src) :
    (a.credit q pkt marked).out =
      .wire (s.primaryTo q pkt.key.src) (s.sealedAck q pkt k r.result r.verified marked) :: s.out := by
  let y := (a.modRecord q pkt.key fun r => { r with committed := r.committed + pkt.payloadLen }).modRecord q pkt.key
    fun r => { r with state := .complete, flag := none }
  let z := y.modRecord q pkt.key fun x => { x with lastReply := some y.clk }
  have zframe : z.offLand = s.offLand := frame
  have zsame : z.sealPart q = s.sealPart q := by simp [z, y, same]
  have zlock : z.mer.lock ≠ .unlocked := by rw [State.eq_of_offLand zframe]; exact locked
  have zout : z.out = s.out := by rw [State.eq_of_offLand zframe]
  obtain ⟨zseals, zway, primary, ack⟩ := State.ack_of_offLand (p := pkt.key.partition) (dst := pkt.key.src) (k := k)
    zframe zsame
  have leaves := State.ack_leaves
    { r with committed := r.committed + pkt.payloadLen, state := .complete, flag := none } marked zlock (zseals seals)
    (zway way)
  rw [primary, ack, zout] at leaves
  rw [State.credit_complete known live done, State.stateReply_complete (s := y) zlock rfl]
  exact leaves


/-- The region a copy names, and the offset in it where its bytes belong. -/
def State.landRegion (s : State) (c : RxCopy) : Region := s.region (keyIndex c.pkt.spec.regionKey)

/-- Nothing refuses the bytes of a WRITE copy in the device memory its region names, and nothing makes them wait. -/
structure State.LandsFreely (s : State) (q : Nat) (c : RxCopy) : Prop where
  checked : s.commitCheck c.pkt = Status.ok
  kind : (s.landRegion c).kind = 1
  bias : s.biasLines (s.landRegion c).partition (accessOf c.pkt).1 c.pkt.payload.length true = []
  moves : s.stalled (s.landRegion c).partition (accessOf c.pkt).1 c.pkt.payload.length = false
  paths : ((s.useEngine q true c.pkt.size).toPages q c.pkt.route.cls (s.landRegion c).partition (accessOf c.pkt).1
    c.pkt.payload.length).isSome = true
  wf : s.mem.wf = true
  clean : s.mem.upsets = []

/-- A verified WRITE copy that passes the checks of R121: its bytes, its record, and the ACK of the last one. -/
theorem execTagVerify_write {s : State} {q : Nat} {c : RxCopy} {r : Record} {key : List Byte} (h : s.Verifies q c key)
    (write : c.pkt.route.opcode = 1) (lands : s.LandsFreely q c) (known : s.record? q c.pkt.key = some r)
    (live : r.state ≠ .failed) (noFlag : r.flag = none) (notFlag : c.pkt.flags.flagFinal = false) :
    let p := (s.landRegion c).partition
    let off := (accessOf c.pkt).1
  let seen := r.seen c.pkt.pktIndex
    ∃ t, exec (.tagVerify q c.id (c.pkt.tag key)) s = .next t ∧ t.copy? q c.id = none ∧
      t.readSpace p off c.pkt.payload.length = c.pkt.payload ∧
      (∀ a, a < spaceKey p off ∨ spaceKey p off + c.pkt.payload.length ≤ a →
        memGet t.mem.cells a = memGet s.mem.cells a) ∧ t.queues = s.queues ∧
      (∃ l, t.record? q c.pkt.key = some { seen.credited c.pkt.payloadLen with lastReply := l }) ∧
      ∀ k, r.length ≤ r.committed + c.pkt.payloadLen → s.mer.lock ≠ .unlocked → s.Seals q c.pkt.key.partition k →
        s.Reaches q c.pkt.key.src → t.out = .wire (s.primaryTo q c.pkt.key.src)
          (s.sealedAck q c.pkt k r.result seen.verified (s.marksReply c.pkt c.marked)) :: s.out := by
  intro p off seen
  obtain ⟨checked, kind, bias, moves, paths, wf, clean⟩ := lands
  obtain ⟨v, hv⟩ := Option.isSome_iff_exists.1 paths
  let u := s.useEngine q true c.pkt.size
  have lands : u.landBytes q c.id (u.landRegion c) off c.pkt.payload c.pkt.route.cls =
      .done (v.writeSpace p off c.pkt.payload) := State.landBytes_lands kind bias moves hv
  have opensKnown : u.record? q c.pkt.key = some r :=
    (State.record_of_landPart (State.useEngine_landPart s q true c.pkt.size q) _).trans known
  obtain ⟨mem, upsets, frame, quads⟩ := State.written_frame clean hv
  obtain ⟨back, others⟩ := State.writeSpace_reads (mem ▸ wf) (mem ▸ clean) p off c.pkt.payload
  have commits := (execTagVerify_commits h (by rw [write]; decide)).trans
    (congrArg _ (State.commitCopy_write write checked opensKnown live notFlag lands))
  rw [mem] at others
  generalize v.writeSpace p off c.pkt.payload = w at *
  have wKnown : w.record? q c.pkt.key = some r := by
    rw [State.record?, State.quad, quads]; exact opensKnown
  have wSeal : w.sealPart q = s.sealPart q := by
    rw [State.sealPart, State.quad, quads]; exact State.openEngine_sealPart s q c.pkt.size
  obtain ⟨taken, same, gone, record⟩ := State.taken_frame wKnown
  have taken := State.eq_of_offQuads taken
  have same := same.trans wSeal
  have seenLive : seen.state ≠ .failed := Record.seen_live live _
  generalize (w.freeCopy q c).verifyBit q c.pkt = a at *
  have aFrame : a.offLand = s.offLand := by rw [taken]; exact frame
  obtain ⟨held, credited⟩ := State.credit_eq record seenLive noFlag (u.marksReply c.pkt c.marked)
  obtain ⟨tMem, tQueues, tCopies⟩ := State.heldPart_eq_iff.1 held
  have aMem : a.mem = w.mem := by rw [taken]
  refine ⟨_, commits, ?_, ?_, fun b hb => ?_, ?_, credited, fun k done locked seals way => ?_⟩
  · rw [State.copy_of_copies tCopies]; exact gone
  · rw [State.readSpace_clean (by rw [tMem, aMem]; exact upsets), tMem, aMem]; exact back
  · rw [tMem, aMem]; exact others b hb
  · rw [tQueues, State.eq_of_offLand aFrame]
  · exact State.credit_acks aFrame same record seenLive done _ locked seals way

/-! ## A refused copy (R105, R121, R248) -/

/-- Cells, queues and quadrants: what noting the fault of an access leaves alone. -/
def State.faultPart (s : State) : List Host.Cell × Table Queue × Table Quadrant := (s.mem.cells, s.queues, s.quads)

@[simp] theorem State.count_faultPart (s : State) (id n : Nat) : (s.count id n).faultPart = s.faultPart := rfl

@[simp] theorem State.countIn_faultPart (s : State) (scope id n : Nat) : (s.countIn scope id n).faultPart = s.faultPart :=
  rfl

@[simp] theorem State.modPart_faultPart (s : State) (p : Nat) (g : Partition → Partition) :
    (s.modPart p g).faultPart = s.faultPart := rfl

@[simp] theorem State.emit_faultPart (s : State) (o : Out) : (s.emit o).faultPart = s.faultPart := rfl

@[simp] theorem State.survey_faultPart (s : State) (v : Survey) : ({ s with survey := v } : State).faultPart = s.faultPart :=
  rfl

@[simp] theorem State.log_faultPart (s : State) (r : LogRecord) (w : W64) : (s.log r w).faultPart = s.faultPart := by
  unfold State.log; cases r.partition <;> (simp only []; (repeat' split) <;> simp)

@[simp] theorem State.alarm_faultPart (s : State) (i : Nat) (p : Option Nat) : (s.alarm i p).faultPart = s.faultPart := by
  unfold State.alarm; cases p <;> simp

@[simp] theorem State.dueRetire_faultPart (s : State) (lpddr : Bool) (region : Nat) :
    (s.dueRetire lpddr region).faultPart = s.faultPart := by
  simp only [State.faultPart, State.dueRetire, State.modMem]
  (repeat' split) <;> rfl

@[simp] theorem State.poisonLine_faultPart (s : State) (line : Nat) : (s.poisonLine line).faultPart = s.faultPart := by
  unfold State.poisonLine
  split
  · rfl
  · dsimp only; rw [State.log_faultPart, State.dueRetire_faultPart]; rfl

@[simp] theorem State.accessFault_faultPart (s : State) (p off len status : Nat) :
    (s.accessFault p off len status).faultPart = s.faultPart := by
  have tagged : (s.tagEvent p status (w64 off)).faultPart = s.faultPart := by
    unfold State.tagEvent; split <;> simp
  unfold State.accessFault
  dsimp only
  split
  · rw [State.foldl_keeps State.faultPart _ (fun s a => s.poisonLine_faultPart a)]; exact tagged
  · exact tagged

/-- A copy that fails a check of R121 leaves, its fault is noted, and its record fails with the status. -/
theorem State.commitCopy_refused {s : State} {q : Nat} {c : RxCopy} {r : Record} (notRead : c.pkt.route.opcode ≠ 2)
    (refused : s.commitCheck c.pkt ≠ Status.ok) (known : s.record? q c.pkt.key = some r) (live : r.state ≠ .failed) :
    let v := s.accessFault c.pkt.key.partition (accessOf c.pkt).1 (accessOf c.pkt).2 (s.commitCheck c.pkt)
    s.commitCopy q c = ((v.freeCopy q c).modRecord q c.pkt.key fun r => { r with
      pending := r.pending.filter fun i => i != c.pkt.pktIndex }).failRecord q c.pkt (s.commitCheck c.pkt)
        (v.marksReply c.pkt c.marked) ∧
      v.mem.cells = s.mem.cells ∧ v.queues = s.queues ∧ v.record? q c.pkt.key = some r := by
  intro v
  have fault : v.faultPart = s.faultPart := State.accessFault_faultPart ..
  obtain ⟨cells, queues, quads⟩ : v.mem.cells = s.mem.cells ∧ v.queues = s.queues ∧ v.quads = s.quads := by
    simpa only [State.faultPart, Prod.mk.injEq] using fault
  have still : v.record? q c.pkt.key = some r := by
    rw [State.record?, State.quad, quads]; exact known
  have notFailed : s.failedRecord q c.pkt = false := by simp [State.failedRecord, known, live]
  have notReq : c.pkt.route.opcode ≠ opReadReq := notRead
  refine ⟨?_, cells, queues, still⟩
  unfold State.commitCopy
  dsimp only
  rw [if_neg (by simp [notFailed]), if_pos (by simp [refused]), if_neg notReq,
    show (s.accessFault _ _ _ _).record? q c.pkt.key = some r from still]

/-- A verified copy that fails a check of R121 fails its record with the status of the check. -/
theorem execTagVerify_refused {s : State} {q : Nat} {c : RxCopy} {r : Record} {key : List Byte}
    (h : s.Verifies q c key) (notRead : c.pkt.route.opcode ≠ 2) (notColl : c.pkt.route.opcode ≠ 0x20)
    (refused : s.commitCheck c.pkt ≠ Status.ok)
    (known : s.record? q c.pkt.key = some r) (live : r.state ≠ .failed) :
    ∃ t, exec (.tagVerify q c.id (c.pkt.tag key)) s = .next t ∧ t.copy? q c.id = none ∧
      t.mem.cells = s.mem.cells ∧ t.queues = s.queues ∧ ∃ y, t.record? q c.pkt.key = some y ∧ y.state = .failed ∧
        y.finalStatus = s.commitCheck c.pkt ∧ y.flag = none := by
  have opensKnown : (s.useEngine q true c.pkt.size).record? q c.pkt.key = some r :=
    (State.record_of_landPart (State.useEngine_landPart s q true c.pkt.size q) _).trans known
  obtain ⟨refuses, cells, queues, vKnown⟩ := State.commitCopy_refused (s := s.useEngine q true c.pkt.size) notRead
    refused opensKnown live
  have check : (s.useEngine q true c.pkt.size).commitCheck c.pkt = s.commitCheck c.pkt := rfl
  rw [check] at refuses cells queues vKnown
  have outcome := (execTagVerify_commits h notColl).trans (congrArg _ refuses)
  generalize (s.useEngine q true c.pkt.size).accessFault c.pkt.key.partition _ _ _ = v at *
  let g := fun r : Record => { r with pending := r.pending.filter fun i => i != c.pkt.pktIndex }
  have aKnown : ((v.freeCopy q c).modRecord q c.pkt.key g).record? q c.pkt.key = some (g r) := by
    rw [State.modRecord_record_same _ _ _ g fun _ => rfl, State.freeCopy_record, vKnown]; rfl
  have gone : ((v.freeCopy q c).modRecord q c.pkt.key g).copy? q c.id = none := by
    rw [State.modRecord_copy, State.freeCopy_copy_same]
  obtain ⟨held, l, record⟩ := State.failRecord_eq aKnown (s.commitCheck c.pkt) (v.marksReply c.pkt c.marked)
  obtain ⟨tMem, tQueues, tCopies⟩ := State.heldPart_eq_iff.1 held
  refine ⟨_, outcome, ?_, ?_, ?_, _, record, rfl, rfl, rfl⟩
  · exact (State.copy_of_copies tCopies _).trans gone
  · exact (congrArg Memory.cells tMem).trans cells
  · exact tQueues.trans queues


/-! ## A copy arrives (R228 to R235, R247, R258) -/

/-- A copy from an input leaves it and crosses the ring to its quadrant; one of this device to itself has crossed. -/
def State.crossedIn (s : State) (q port : Nat) (pkt : Packet) : State :=
  if port = noPort then s else (s.leaveInput port pkt).cross (port / 8) q pkt.route.cls pkt.size

/-- A crossing changes the input of a port and the ring's credit only. -/
theorem State.crossedIn_eq (s : State) (q port : Nat) (pkt : Packet) :
    s.crossedIn q port pkt =
      { s with ports := (s.crossedIn q port pkt).ports, recover := (s.crossedIn q port pkt).recover } := by
  have left : s.leaveInput port pkt = { s with ports := (s.leaveInput port pkt).ports } := by
    unfold State.leaveInput; dsimp only; split <;> rfl
  have crossed (t : State) : t.cross (port / 8) q pkt.route.cls pkt.size =
      { t with recover := (t.cross (port / 8) q pkt.route.cls pkt.size).recover } := by
    unfold State.cross; split <;> rfl
  unfold State.crossedIn
  split
  · rfl
  · rw [crossed, left]

/-- A request that meets the arrival checks of a quadrant: an input that is read brings it, and it may cross the ring. -/
structure State.Brings (s : State) (q port : Nat) (pkt : Packet) : Prop where
  valid : headerValid pkt = true
  own : s.ownDst q pkt.route.epoch pkt.route.dst = true
  request : isRequest pkt.route.opcode = true
  lands : pkt.route.landQ = q
  input : s.inputOpen port = true
  crosses : s.inputCrosses port q pkt = true
  up : s.unitDown (.receive q) = false

/-- A request is no COLL_DATA copy. -/
theorem ne_coll_of_isRequest {op : Nat} (h : isRequest op = true) : op ≠ opColl := by
  rintro rfl; exact absurd h (by decide)

/-- The order of the arrival checks of a request. -/
theorem execPacketArrival_request {s : State} {q port : Nat} {pkt : Packet} (h : s.Brings q port pkt) :
    let u := s.crossedIn q port pkt
    exec (.packetArrival q port pkt) s = .next (
      if u.mer.lock == .unlocked then u.refuseUnlocked q pkt (u.record? q pkt.key).isNone
      else if u.beforeFloor pkt.issue then u
      else if !u.freshEnough q pkt.issue then u.note Status.packetStale 0x11 q
      else u.arrive q port pkt) := by
  obtain ⟨valid, own, request, lands, input, crosses, up⟩ := h
  have stray (u : State) : u.collStray q pkt = none := by simp [State.collStray, ne_coll_of_isRequest request]
  show execPacketArrival q port pkt s = _
  unfold execPacketArrival
  rw [if_neg (by simp [input]), if_neg (by simp [valid]), if_neg (by simp [own]),
    if_neg (by simp [request, lands, crosses, up])]
  simp only [stray]
  rfl

/-- A READ copy, or one of a message with a record in which it is neither pending nor verified, or with room for one. -/
def State.NewCopy (s : State) (q : Nat) (pkt : Packet) : Prop :=
  pkt.route.opcode = 2 ∨ (s.record? q pkt.key).all (fun r => !r.duplicate pkt.pktIndex) = true ∧
    (s.record? q pkt.key ≠ none ∨ (s.quad q).records.length < 262144)

/-- The record an arriving copy is looked up in: a READ has none (R229). -/
def State.arriveRecord (s : State) (q : Nat) (pkt : Packet) : Option Record :=
  if pkt.route.opcode = opReadReq then none else s.record? q pkt.key

theorem State.arrive_eq (s : State) (q port : Nat) (pkt : Packet) : s.arrive q port pkt =
    if (s.arriveRecord q pkt).any fun r => r.duplicate pkt.pktIndex then
      s.repeatReply q pkt (s.marksReply pkt (s.poolHigh q pkt.route.cls))
    else if !s.poolFits q pkt then
      if pkt.route.cls = 2 then s.count Count.poolDrop
      else s.refuse q pkt 5 (s.arriveRecord q pkt).isNone (s.marksReply pkt (s.poolHigh q pkt.route.cls))
    else if pkt.route.opcode != opReadReq && (s.arriveRecord q pkt).isNone
        && decide (262144 ≤ (s.quad q).records.length) then
      s.refuse q pkt 20 true (s.marksReply pkt (s.poolHigh q pkt.route.cls))
    else s.holdCopy q port pkt (s.poolHigh q pkt.route.cls) := by
  unfold State.arrive
  dsimp only
  rw [show (if pkt.route.opcode = opReadReq then none else s.record? q pkt.key) = s.arriveRecord q pkt from rfl]
  cases s.arriveRecord q pkt <;> rfl

/-- A new copy is no duplicate. -/
theorem State.NewCopy.fresh {s : State} {q : Nat} {pkt : Packet} (h : s.NewCopy q pkt) :
    (s.arriveRecord q pkt).any (fun r => r.duplicate pkt.pktIndex) = false := by
  unfold State.arriveRecord
  rcases h with read | ⟨fresh, -⟩
  · rw [if_pos (show pkt.route.opcode = opReadReq from read)]; rfl
  · split
    · rfl
    · cases hr : s.record? q pkt.key with
      | none => rfl
      | some r => simpa [hr] using fresh

theorem State.poolFits_of_request {s : State} {q : Nat} {pkt : Packet} (request : isRequest pkt.route.opcode = true) :
    s.poolFits q pkt =
      decide ((s.quad q).pool pkt.route.cls + poolSpace pkt.payloadLen ≤ poolSize pkt.route.cls) := by
  simp [State.poolFits, ne_coll_of_isRequest request]

/-- A new copy that fits its pool is held (R247). -/
theorem State.arrive_new {s : State} {q port : Nat} {pkt : Packet} (h : s.NewCopy q pkt)
    (request : isRequest pkt.route.opcode = true)
    (fits : (s.quad q).pool pkt.route.cls + poolSpace pkt.payloadLen ≤ poolSize pkt.route.cls) :
    s.arrive q port pkt = s.holdCopy q port pkt (s.poolHigh q pkt.route.cls) := by
  have room : (pkt.route.opcode != opReadReq && (s.arriveRecord q pkt).isNone
      && decide (262144 ≤ (s.quad q).records.length)) = false := by
    rcases h with read | ⟨-, known⟩
    · simp [read, opReadReq]
    · by_cases read : pkt.route.opcode = opReadReq
      · simp [read]
      · rcases known with known | few
        · simp [State.arriveRecord, read, known]
        · simp [few]
  rw [State.arrive_eq, h.fresh, if_neg Bool.false_ne_true, State.poolFits_of_request request,
    if_neg (by simp [fits]), room, if_neg Bool.false_ne_true]

/-- A new copy that does not fit its pool is refused for 5 µs, or dropped (R247, R258). -/
theorem State.arrive_full {s : State} {q port : Nat} {pkt : Packet} (h : s.NewCopy q pkt)
    (request : isRequest pkt.route.opcode = true)
    (full : poolSize pkt.route.cls < (s.quad q).pool pkt.route.cls + poolSpace pkt.payloadLen) :
    s.arrive q port pkt = if pkt.route.cls = 2 then s.count Count.poolDrop
      else s.refuse q pkt 5 (pkt.route.opcode == 2 || (s.record? q pkt.key).isNone)
        (s.marksReply pkt (s.poolHigh q pkt.route.cls)) := by
  have unknown : (s.arriveRecord q pkt).isNone = (pkt.route.opcode == 2 || (s.record? q pkt.key).isNone) := by
    by_cases read : pkt.route.opcode = 2 <;> simp [State.arriveRecord, opReadReq, read]
  rw [State.arrive_eq, h.fresh, if_neg Bool.false_ne_true, State.poolFits_of_request request,
    if_pos (by simp [full]), unknown]

/-- A duplicate is answered by its record's state, at most every 5 µs (R235, R237). -/
theorem State.arrive_duplicate {s : State} {q port : Nat} {pkt : Packet} {r : Record} (recorded : pkt.route.opcode ≠ 2)
    (known : s.record? q pkt.key = some r) (dup : r.duplicate pkt.pktIndex = true) :
    s.arrive q port pkt = if r.lastReply.any (fun t => s.clk < t + 8000) then s
      else s.stateReply q pkt (s.marksReply pkt (s.poolHigh q pkt.route.cls)) r := by
  have found : s.arriveRecord q pkt = some r := (if_neg recorded).trans known
  rw [State.arrive_eq, found, if_pos (by simpa using dup), State.repeatReply_of_record known]

/-- A held copy, with its pool space. -/
def State.heldCopy (s : State) (q port : Nat) (pkt : Packet) (marked : Bool) : RxCopy :=
  { id := (s.quad q).nextCopy, port, pkt, space := poolSpace pkt.payloadLen, marked }

/-- The record in which a held copy pends: its message's, or a new one (R229, R234). -/
def Record.pendsIn (known : Option Record) (pkt : Packet) : Record :=
  (known.map fun r => { r with pending := pkt.pktIndex :: r.pending }).getD
    { key := pkt.key, issue := pkt.issue, length := pkt.msgLength, pending := [pkt.pktIndex] }

/-- A quadrant takes in a copy: its pool space, and the copy itself. -/
def Quadrant.takesIn (d : Quadrant) (port : Nat) (pkt : Packet) (marked : Bool) : Quadrant :=
  let d := d.setPool pkt.route.cls (d.pool pkt.route.cls + poolSpace pkt.payloadLen)
  { d with
    copies := d.copies ++ [{ id := d.nextCopy, port := port, pkt := pkt, space := poolSpace pkt.payloadLen, marked := marked }]
    nextCopy := d.nextCopy + 1 }

/-- What holding a copy changes: its quadrant's copies, its pool and its record. -/
theorem State.holdCopy_eq (s : State) (q port : Nat) (pkt : Packet) (marked : Bool) :
    (s.holdCopy q port pkt marked).offQuads = s.offQuads ∧
      ((s.holdCopy q port pkt marked).quad q).copies = (s.quad q).copies ++ [s.heldCopy q port pkt marked] ∧
      ((s.holdCopy q port pkt marked).quad q).pool pkt.route.cls =
        (s.quad q).pool pkt.route.cls + poolSpace pkt.payloadLen ∧
      (s.holdCopy q port pkt marked).record? q pkt.key =
        (if pkt.route.opcode = 2 then s.record? q pkt.key else some (Record.pendsIn (s.record? q pkt.key) pkt)) ∧
      ∀ j, j ≠ q → (s.holdCopy q port pkt marked).quad j = s.quad j := by
  let u := s.modQuad q fun d => d.takesIn port pkt marked
  have copies : (u.quad q).copies = (s.quad q).copies ++ [s.heldCopy q port pkt marked] := by
    simp [u, Quadrant.takesIn, State.heldCopy]
  have pool : (u.quad q).pool pkt.route.cls = (s.quad q).pool pkt.route.cls + poolSpace pkt.payloadLen := by
    simp only [u, State.modQuad_same, Quadrant.takesIn]
    exact Quadrant.setPool_pool_same ..
  have record (k : MsgKey) : u.record? q k = s.record? q k := State.record_of_records (by simp [u, Quadrant.takesIn]) k
  have others (j : Nat) (hj : j ≠ q) : u.quad j = s.quad j := State.modQuad_other _ _ _ _ hj
  have e : s.holdCopy q port pkt marked = if pkt.route.opcode = opReadReq then u else match u.record? q pkt.key with
      | some _ => u.modRecord q pkt.key fun r => { r with pending := pkt.pktIndex :: r.pending }
      | none => u.modQuad q fun d => { d with
          records := { key := pkt.key, issue := pkt.issue, length := pkt.msgLength, pending := [pkt.pktIndex] }
            :: d.records } := rfl
  have frame : u.offQuads = s.offQuads := rfl
  rw [e]
  clear_value u
  split
  · next read => exact ⟨frame, copies, pool, (record _).trans (if_pos read).symm, others⟩
  · next notRead =>
    rw [if_neg (show ¬ pkt.route.opcode = 2 from notRead), record]
    cases hr : s.record? q pkt.key with
    | some r =>
      refine ⟨frame, ?_, ?_, ?_, fun j hj => (State.modQuad_other _ _ _ _ hj).trans (others j hj)⟩
      · simpa [State.modRecord] using copies
      · rw [State.modRecord, State.modQuad_same]; exact pool
      · exact (State.modRecord_record_same u q pkt.key (fun r => { r with pending := pkt.pktIndex :: r.pending })
          fun _ => rfl).trans (by rw [record, hr]; rfl)
    | none =>
      refine ⟨frame, ?_, ?_, ?_, fun j hj => (State.modQuad_other _ _ _ _ hj).trans (others j hj)⟩
      · simpa using copies
      · rw [State.modQuad_same]; exact pool
      · simp [State.record?, Record.pendsIn]


/-! ## Tags and expiry (R229, R234) -/

/-- A copy whose tag fails, or that no key opens, is dropped. -/
theorem execTagVerify_drops {s : State} {q : Nat} {c : RxCopy} {trailer : List Byte} (hc : s.copy? q c.id = some c)
    (fresh : c.verified = false) (up : s.unitDown (.receive q) = false)
    (fails : s.opens c.pkt = false ∨ s.engineFree q true = true ∧ s.tagOk c.pkt trailer = false) :
    ∃ u : State, exec (.tagVerify q c.id trailer) s = .next (u.dropCopy q c) ∧ u.landPart q = s.landPart q := by
  have verdict : exec (.tagVerify q c.id trailer) s = execTagVerify q c.id trailer s := rfl
  cases opens : s.opens c.pkt with
  | false =>
    refine ⟨s.note Status.keyGenUnknown 0x17 q (some c.pkt.key.partition), ?_, State.note_landPart ..⟩
    rw [verdict]
    simp [execTagVerify, hc, fresh, up, opens]
  | true =>
    obtain ⟨free, tag⟩ := fails.resolve_left (by simp [opens])
    have tag : (s.useEngine q true c.pkt.size).tagOk c.pkt trailer = false := tag
    refine ⟨(s.useEngine q true c.pkt.size).tagFailed q c.pkt, ?_, ?_⟩
    · rw [verdict]
      simp [execTagVerify, hc, fresh, up, opens, free, tag]
    · rw [State.tagFailed_landPart, State.useEngine_landPart]

/-- With no opening engine free, a copy asks for one and waits. -/
theorem execTagVerify_waits {s : State} {q : Nat} {c : RxCopy} (trailer : List Byte) (hc : s.copy? q c.id = some c)
    (fresh : c.verified = false) (up : s.unitDown (.receive q) = false) (opens : s.opens c.pkt = true)
    (busy : s.engineFree q true = false) : exec (.tagVerify q c.id trailer) s = .next (s.askEngine q true) := by
  show execTagVerify q c.id trailer s = _
  simp [execTagVerify, hc, fresh, up, opens, busy]

theorem State.tagVerify_frozen {s t : State} {q id : Nat} {trailer : List Byte}
    (h : exec (.tagVerify q id trailer) s = .next t) : t.firm = s.firm ∧ t.still = s.still := by
  have h : execTagVerify q id trailer s = .next t := h
  have firm := execTagVerify_firm q id trailer s
  have still := execTagVerify_still q id trailer s
  rw [h, stateAfter_next] at firm still
  exact ⟨firm, still⟩

/-- Only a record older than MPL that no copy and no flag packet holds is deleted. -/
theorem execRecordExpiry_eq {s : State} {q : Nat} {k : MsgKey} {r : Record} (h : s.record? q k = some r) :
    exec (.recordExpiry q k) s = .next (
      if (ageOf (s.mtQ q) r.issue).any (fun a => decide (s.mpl < a)) && r.flag.isNone &&
          (s.quad q).copies.all (fun c => c.pkt.key != k) then s.deleteRecord q k else s) := by
  have unheld : (!(s.quad q).copies.any fun c => c.pkt.key == k) = (s.quad q).copies.all fun c => c.pkt.key != k := by
    simp [List.all_eq_not_any_not, bne]
  show execRecordExpiry q k s = _
  unfold execRecordExpiry
  rw [h]
  dsimp only
  rw [unheld]
  cases ageOf (s.mtQ q) r.issue <;> rfl

/-! ## O30 -/

/-- A packet with an invalid header is noted and dropped (R224). -/
theorem execPacketArrival_invalid {s : State} {q port : Nat} {pkt : Packet} (input : s.inputOpen port = true)
    (invalid : headerValid pkt = false) :
    exec (.packetArrival q port pkt) s = .next (s.note Status.headerInvalid 0x11 q) := by
  show execPacketArrival q port pkt s = _
  unfold execPacketArrival
  rw [if_neg (by simp [input]), if_pos (by simp [invalid])]

/-- A packet for another device becomes transit (R302). -/
theorem execPacketArrival_transit {s : State} {q port : Nat} {pkt : Packet} (input : s.inputOpen port = true)
    (valid : headerValid pkt = true) (other : s.ownDst q pkt.route.epoch pkt.route.dst = false) :
    exec (.packetArrival q port pkt) s = .next (s.headArrives port pkt) := by
  show execPacketArrival q port pkt s = _
  unfold execPacketArrival
  rw [if_neg (by simp [input]), if_neg (by simp [valid]), if_pos (by simp [other])]

/-- The age check on a stamp. (Unfolded as a function: at arguments, the kernel would compute the age of a variable.) -/
theorem State.freshEnough_eq (s : State) (q : Nat) (issue : W32) : s.freshEnough q issue =
    (ageOf (s.mtQ q) issue).any fun a => decide (a ≤ s.mer.window.toNat) := by
  have h : State.freshEnough = fun s q issue => (ageOf (s.mtQ q) issue).any fun a => decide (a ≤ s.mer.window.toNat) := by
    delta State.freshEnough
    funext s q issue
    cases ageOf (s.mtQ q) issue <;> rfl
  rw [h]

/-- The age check reads the clock of the quadrant and the window only (R227, R228). -/
theorem State.freshEnough_of_mer {s t : State} {q : Nat} (mer : t.mer = s.mer) (clock : t.mtQ q = s.mtQ q) (issue : W32) :
    t.freshEnough q issue = s.freshEnough q issue := by
  rw [State.freshEnough_eq, State.freshEnough_eq, mer, clock]

/-- The step floor reads the clock only (R230). -/
theorem State.beforeFloor_of_mer {s t : State} (mer : t.mer = s.mer) (clk : t.clk = s.clk) (issue : W32) :
    t.beforeFloor issue = s.beforeFloor issue := by
  unfold State.beforeFloor; rw [mer, clk]

/-- A request that the arrival checks let through arrives (R85, R228). -/
theorem execPacketArrival_arrives {s : State} {q port : Nat} {pkt : Packet} (h : s.Brings q port pkt)
    (locked : s.mer.lock ≠ .unlocked) (floor : s.beforeFloor pkt.issue = false)
    (fresh : s.freshEnough q pkt.issue = true) :
    exec (.packetArrival q port pkt) s = .next ((s.crossedIn q port pkt).arrive q port pkt) := by
  have e := execPacketArrival_request h
  have crossed := s.crossedIn_eq q port pkt
  dsimp only at e
  generalize s.crossedIn q port pkt = u at *
  have lock : (u.mer.lock == .unlocked) = false := by rw [crossed]; simpa using locked
  have floorU : u.beforeFloor pkt.issue = s.beforeFloor pkt.issue :=
    State.beforeFloor_of_mer (by rw [crossed]) (by rw [crossed]) _
  have freshU : u.freshEnough q pkt.issue = s.freshEnough q pkt.issue :=
    State.freshEnough_of_mer (by rw [crossed]) (by rw [crossed]; rfl) _
  rw [e, if_neg (by simp [lock]), if_neg (by simp [floorU, floor]),
    if_neg (by simp [freshU, fresh])]

/-- A new copy that its pool fits is held: what the step changes. -/
theorem execPacketArrival_holds {s : State} {q port : Nat} {pkt : Packet} (h : s.Brings q port pkt)
    (locked : s.mer.lock ≠ .unlocked) (floor : s.beforeFloor pkt.issue = false)
    (fresh : s.freshEnough q pkt.issue = true) (new : s.NewCopy q pkt)
    (fits : (s.quad q).pool pkt.route.cls + poolSpace pkt.payloadLen ≤ poolSize pkt.route.cls) :
    ∃ t, exec (.packetArrival q port pkt) s = .next t ∧
      t = { s with quads := t.quads, ports := t.ports, recover := t.recover } ∧
      t.ports = (s.crossedIn q port pkt).ports ∧ t.recover = (s.crossedIn q port pkt).recover ∧
      (t.quad q).copies = (s.quad q).copies ++ [s.heldCopy q port pkt (s.poolHigh q pkt.route.cls)] ∧
      (t.quad q).pool pkt.route.cls = (s.quad q).pool pkt.route.cls + poolSpace pkt.payloadLen ∧
      t.record? q pkt.key =
        (if pkt.route.opcode = 2 then s.record? q pkt.key else some (Record.pendsIn (s.record? q pkt.key) pkt)) ∧
      ∀ j, j ≠ q → t.quad j = s.quad j := by
  have e := execPacketArrival_arrives h locked floor fresh
  have crossed := s.crossedIn_eq q port pkt
  generalize s.crossedIn q port pkt = u at *
  have held : u.arrive q port pkt = u.holdCopy q port pkt (u.poolHigh q pkt.route.cls) :=
    State.arrive_new (by rw [crossed]; exact new) h.request (by rw [crossed]; exact fits)
  obtain ⟨frame, copies, pool, record, others⟩ := u.holdCopy_eq q port pkt (u.poolHigh q pkt.route.cls)
  rw [held] at e
  have frame := State.eq_of_offQuads frame
  generalize u.holdCopy q port pkt (u.poolHigh q pkt.route.cls) = t at *
  refine ⟨t, e, ?_, ?_, ?_, ?_, ?_, ?_, fun j hj => (others j hj).trans ?_⟩
  · rw [frame, crossed]
  · rw [frame]
  · rw [frame]
  · rw [copies, crossed]; rfl
  · rw [pool, crossed]; rfl
  · rw [record, crossed]; rfl
  · rw [crossed]; rfl


/-- A request that the arrival checks stop: an UNLOCKED device refuses it for 1 ms, one from before the floor is dropped,
a stale one noted (R85, R228, R230). -/
theorem execPacketArrival_stopped {s : State} {q port : Nat} {pkt : Packet} (h : s.Brings q port pkt) :
    (s.mer.lock = .unlocked → exec (.packetArrival q port pkt) s =
        .next ((s.crossedIn q port pkt).refuseUnlocked q pkt (s.record? q pkt.key).isNone)) ∧
      (s.mer.lock ≠ .unlocked → s.beforeFloor pkt.issue = true →
        exec (.packetArrival q port pkt) s = .next (s.crossedIn q port pkt)) ∧
      (s.mer.lock ≠ .unlocked → s.beforeFloor pkt.issue = false → s.freshEnough q pkt.issue = false →
        exec (.packetArrival q port pkt) s = .next ((s.crossedIn q port pkt).note Status.packetStale 0x11 q)) := by
  have e := execPacketArrival_request h
  have crossed := s.crossedIn_eq q port pkt
  dsimp only at e
  generalize s.crossedIn q port pkt = u at *
  have lock : u.mer.lock = s.mer.lock := by rw [crossed]
  have floorU : u.beforeFloor pkt.issue = s.beforeFloor pkt.issue :=
    State.beforeFloor_of_mer (by rw [crossed]) (by rw [crossed]) _
  have freshU : u.freshEnough q pkt.issue = s.freshEnough q pkt.issue :=
    State.freshEnough_of_mer (by rw [crossed]) (by rw [crossed]; rfl) _
  have known : u.record? q pkt.key = s.record? q pkt.key := State.record_of_records (by rw [crossed]; rfl) _
  rw [e, lock, floorU, freshU, known]
  refine ⟨fun unlocked => ?_, fun locked floor => ?_, fun locked floor stale => ?_⟩
  · rw [if_pos (by simp [unlocked])]
  · rw [if_neg (by simp [locked]), if_pos floor]
  · rw [if_neg (by simp [locked]), if_neg (by simp [floor]), if_pos (by simp [stale])]

/-- A new copy that its pool does not fit. -/
theorem execPacketArrival_full {s : State} {q port : Nat} {pkt : Packet} (h : s.Brings q port pkt)
    (locked : s.mer.lock ≠ .unlocked) (floor : s.beforeFloor pkt.issue = false)
    (fresh : s.freshEnough q pkt.issue = true) (new : s.NewCopy q pkt)
    (full : poolSize pkt.route.cls < (s.quad q).pool pkt.route.cls + poolSpace pkt.payloadLen) :
    exec (.packetArrival q port pkt) s = .next (
      if pkt.route.cls = 2 then (s.crossedIn q port pkt).count Count.poolDrop
      else (s.crossedIn q port pkt).refuse q pkt 5 (pkt.route.opcode == 2 || (s.record? q pkt.key).isNone)
        (s.marksReply pkt (s.poolHigh q pkt.route.cls))) := by
  have crossed := s.crossedIn_eq q port pkt
  rw [execPacketArrival_arrives h locked floor fresh]
  generalize s.crossedIn q port pkt = u at *
  have known : u.record? q pkt.key = s.record? q pkt.key := State.record_of_records (by rw [crossed]; rfl) _
  have marks : u.marksReply pkt (u.poolHigh q pkt.route.cls) = s.marksReply pkt (s.poolHigh q pkt.route.cls) := by
    rw [crossed]; rfl
  rw [State.arrive_full (by rw [crossed]; exact new) h.request (by rw [crossed]; exact full), known, marks]

/-- A duplicate is answered. -/
theorem execPacketArrival_duplicate {s : State} {q port : Nat} {pkt : Packet} {r : Record} (h : s.Brings q port pkt)
    (recorded : pkt.route.opcode ≠ 2) (locked : s.mer.lock ≠ .unlocked) (floor : s.beforeFloor pkt.issue = false)
    (fresh : s.freshEnough q pkt.issue = true) (known : s.record? q pkt.key = some r)
    (dup : r.duplicate pkt.pktIndex = true) :
    exec (.packetArrival q port pkt) s = .next (
      if r.lastReply.any (fun t => s.clk < t + 8000) then s.crossedIn q port pkt
      else (s.crossedIn q port pkt).stateReply q pkt (s.marksReply pkt (s.poolHigh q pkt.route.cls)) r) := by
  have crossed := s.crossedIn_eq q port pkt
  rw [execPacketArrival_arrives h locked floor fresh]
  generalize s.crossedIn q port pkt = u at *
  have found : u.record? q pkt.key = some r := (State.record_of_records (by rw [crossed]; rfl) _).trans known
  have marks : u.marksReply pkt (u.poolHigh q pkt.route.cls) = s.marksReply pkt (s.poolHigh q pkt.route.cls) := by
    rw [crossed]; rfl
  have clk : u.clk = s.clk := by rw [crossed]
  rw [State.arrive_duplicate recorded found dup, marks, clk]

/-- Settles O30: each clause is the lemma about the arrival, the verdict on the tag or the expiry that it speaks of. -/
theorem packetsArrive : Obligations.PacketsArrive := by
  unfold Obligations.PacketsArrive
  intro s q port pkt known marked
  refine ⟨fun input => ⟨execPacketArrival_invalid input, fun ⟨valid, other⟩ => execPacketArrival_transit input valid other⟩,
    ?_, ?_, ?_, ?_, ?_, ?_, ?_⟩
  · intro u n c fresh new valid own request lands input crosses up
    have h : s.Brings q port pkt := ⟨valid, own, request, lands, input, crosses, up⟩
    obtain ⟨unlocked, floor, stale⟩ := execPacketArrival_stopped h
    refine ⟨?_, unlocked, floor, stale, ?_, ?_⟩
    · show (s.crossedIn q port pkt).quads = s.quads
      rw [State.crossedIn_eq]
    · exact fun ⟨lock, floor, age⟩ isNew fits => execPacketArrival_holds h lock floor age isNew fits
    · exact fun ⟨lock, floor, age⟩ isNew full => execPacketArrival_full h lock floor age isNew full
  · intro r u valid own request recorded lands input crosses up locked floor fresh hk dup
    have e := execPacketArrival_duplicate ⟨valid, own, request, lands, input, crosses, up⟩ recorded locked floor fresh hk dup
    exact ⟨fun soon => by rw [e, if_pos soon]; rfl, fun late => by rw [e, if_neg (by simp [late])]; rfl⟩
  · intro c trailer r hc fresh up fails hr
    obtain ⟨u, drops, part⟩ := execTagVerify_drops hc fresh up fails
    obtain ⟨frame, gone, without, kept⟩ := State.dropCopy_eq ((State.record_of_landPart part _).trans hr)
    obtain ⟨mem, queues, -, -⟩ := State.landPart_eq_iff.1 part
    have frame := State.eq_of_offQuads frame
    obtain ⟨firm, still⟩ := State.tagVerify_frozen drops
    exact ⟨_, drops, gone, by rw [frame]; exact mem, by rw [frame]; exact queues, firm, still, without, kept⟩
  · exact fun c trailer hc fresh up opens busy => execTagVerify_waits trailer hc fresh up opens busy
  · intro c r keys key u g off d e seen done hc same fresh up opened free write len checked kind bias moves paths wf clean
      hr live noFlag notFlag
    subst same
    rw [← len] at *
    obtain ⟨t, verifies, gone, back, others, queues, ⟨l, record⟩, out⟩ := execTagVerify_write
      ⟨hc, fresh, up, opened, free⟩ write ⟨checked, kind, bias, moves, paths, wf, clean⟩ hr live noFlag notFlag
    obtain ⟨firm, still⟩ := State.tagVerify_frozen verifies
    refine ⟨t, verifies, gone, back, others, queues, firm, still, ?_, ?_⟩
    · rw [record]
      simp [Record.credited, Record.seen, seen, done]
    · intro isDone locked sealFree hkeys allows room other ekind valid output
      exact out keys isDone locked ⟨hkeys, allows, room, sealFree⟩ ⟨other, ekind, valid, output⟩
  · intro c r key st hc same fresh up opened free notRead notColl refused hr live
    subst same
    obtain ⟨t, verifies, gone, cells, queues, y, record, failed, status, flag⟩ :=
      execTagVerify_refused ⟨hc, fresh, up, opened, free⟩ notRead notColl refused hr live
    obtain ⟨firm, still⟩ := State.tagVerify_frozen verifies
    exact ⟨t, verifies, gone, cells, queues, firm, still, by rw [record]; simp [failed, status, flag, st]⟩
  · intro key r old hr
    refine ⟨fun stays => ?_, fun isOld noFlag unheld => ?_⟩
    · rw [execRecordExpiry_eq hr, if_neg]
      rcases stays with young | flagged
      · simp [show (ageOf (s.mtQ q) r.issue).any _ = false from young]
      · simp [flagged]
    · obtain ⟨frame, gone, others, -, senders⟩ := State.deleteRecord_eq hr
      refine ⟨_, ?_, gone, State.eq_of_offQuads frame, others, senders⟩
      rw [execRecordExpiry_eq hr, show (ageOf (s.mtQ q) r.issue).any _ = true from isOld, noFlag, unheld]
      rfl

end Sys2Proof.Machine

/-!
Replies at the sender (R237 to R245, R257, R274): what becomes of one before it is applied, and what an ACK, a SACK, a NAK
and a response packet do to the message they name.
-/

namespace Sys2Proof.Machine

/-! ## A reply before it is applied (R224, R239, R497) -/

/-- A reply that is discarded before its tag changes nothing more. -/
theorem State.onReply_drop {s u : State} {q op : Nat} {pkt : Packet} (h : s.replyDrop q op pkt = some u)
    (f : State → Nat → Sender → State) : s.onReply q op pkt f = u := by
  simp [State.onReply, h]

@[simp] theorem State.useEngine_senders (s : State) (q : Nat) (opening : Bool) (n j : Nat) :
    ((s.useEngine q opening n).quad j).senders = (s.quad j).senders := by
  by_cases h : j = q
  · subst h
    rw [State.useEngine, State.modQuad_same]
    split <;> rfl
  · rw [State.useEngine, State.modQuad_other _ _ _ _ h]

theorem State.useEngine_replied (s : State) (q : Nat) (opening : Bool) (n : Nat) (pkt : Packet) :
    (s.useEngine q opening n).replied? q pkt = s.replied? q pkt := by
  rw [State.replied?, State.useEngine_senders, State.replied?]

section Verdict

variable {s : State} {q op : Nat} {pkt : Packet} {key : List Byte} (kept : s.replyDrop q op pkt = none)
  (up : s.unitDown (.receive q) = false) (opened : s.openKey pkt = some key) (f : State → Nat → Sender → State)

/-- A reply's tag is right where its trailer is the tag under the key that opens it. -/
theorem State.tagOk_iff {s : State} {pkt : Packet} {key : List Byte} (opened : s.openKey pkt = some key)
    (trailer : List Byte) : s.tagOk pkt trailer = true ↔ trailer = pkt.tag key := by
  rw [State.tagOk, opened]
  exact beq_iff_eq

include kept up

/-- With no opening engine free, a reply asks for one and waits. -/
theorem State.onReply_waits (busy : s.engineFree q true = false) : s.onReply q op pkt f = s.askEngine q true := by
  simp [State.onReply, kept, State.openPacket, up, busy]

include opened

/-- A reply whose tag fails is counted and dropped. -/
theorem State.onReply_tagFails (free : s.engineFree q true = true) (wrong : pkt.trailer ≠ pkt.tag key) :
    s.onReply q op pkt f = (s.useEngine q true pkt.size).tagFailed q pkt := by
  have tag := Bool.eq_false_iff.2
    ((not_congr (State.tagOk_iff (s := s.useEngine q true pkt.size) opened pkt.trailer)).2 wrong)
  simp [State.onReply, kept, State.openPacket, up, free, tag]

/-- A verified reply that is not relayed is applied to the message it names. -/
theorem State.onReply_applies (free : s.engineFree q true = true) (right : pkt.trailer = pkt.tag key)
    (own : s.relayTo pkt = none) {m : Nat} {x : Sender} (named : s.replied? q pkt = some (m, x)) :
    s.onReply q op pkt f = f (s.useEngine q true pkt.size) m x := by
  have tag := (State.tagOk_iff (s := s.useEngine q true pkt.size) opened pkt.trailer).2 right
  have own : (s.useEngine q true pkt.size).relayTo pkt = none := own
  simp [State.onReply, kept, State.openPacket, up, free, tag, own, State.useEngine_replied, named]

/-- A verified reply that names no message is discarded. -/
theorem State.onReply_unnamed (free : s.engineFree q true = true) (right : pkt.trailer = pkt.tag key)
    (own : s.relayTo pkt = none) (unnamed : s.replied? q pkt = none) :
    s.onReply q op pkt f = s.useEngine q true pkt.size := by
  have tag := (State.tagOk_iff (s := s.useEngine q true pkt.size) opened pkt.trailer).2 right
  have own : (s.useEngine q true pkt.size).relayTo pkt = none := own
  simp [State.onReply, kept, State.openPacket, up, free, tag, own, State.useEngine_replied, unnamed]

end Verdict


/-! ## A reply's congestion sample (R268, R274) -/

@[simp] theorem State.modCongest_senders (s : State) (q dst : Nat) (g : Congest → Congest) (j : Nat) :
    ((s.modCongest q dst g).quad j).senders = (s.quad j).senders := by
  by_cases h : j = q
  · subst h; simp [State.modCongest]
  · simp [State.modCongest, State.modQuad_other _ _ _ _ h]

/-- A reply's sample changes the congestion entry of its destination and the counters. -/
@[simp] theorem State.ccReply_offRate (s : State) (q dst : Nat) (pkt : Packet) :
    (s.ccReply q dst pkt).offRate = s.offRate := by
  unfold State.ccReply
  split
  · rfl
  · dsimp only; split <;> rfl

@[simp] theorem State.ccReply_senders (s : State) (q dst : Nat) (pkt : Packet) (j : Nat) :
    ((s.ccReply q dst pkt).quad j).senders = (s.quad j).senders := by
  unfold State.ccReply
  split
  · rfl
  · have decreased (t : State) (event : Nat) : ((t.countDecrease q event).quad j).senders = (t.quad j).senders := rfl
    dsimp only
    split
    · rw [decreased, State.modCongest_senders]
    · rw [State.modCongest_senders]

/-! ## What a descriptor has come to -/

/-- The phase, status, bytes done and result of the descriptor at an index. -/
def State.descOutcome (s : State) (qn : Nat) (i : W32) : Option (DescPhase × Nat × Nat × W64) :=
  (s.desc? qn i).map fun d => (d.phase, d.status, d.bytesDone, d.result)

theorem State.descOutcome_of_queues {s t : State} (h : t.queues = s.queues) (qn : Nat) (i : W32) :
    t.descOutcome qn i = s.descOutcome qn i := by
  rw [State.descOutcome, State.desc?, State.queue?, h, State.descOutcome, State.desc?, State.queue?]

/-- What a descriptor still has to send is no part of what it has come to. -/
@[simp] theorem State.modDesc_toSend_outcome (s : State) (q : Nat) (k : W32) (l : List (Nat × Nat)) (qn : Nat) (i : W32) :
    (s.modDesc q k fun d => { d with toSend := l }).descOutcome qn i = s.descOutcome qn i := by
  cases hx : s.queue? q with
  | none => simp [State.modDesc, State.modQueue, hx]
  | some x =>
    rw [State.modDesc_of_queue hx]
    by_cases h : qn = q
    · subst h
      let f := fun d : Desc => if d.index == k then { d with toSend := l } else d
      have index : (fun d : Desc => d.index == i) ∘ f = fun d => d.index == i := by
        funext d; simp only [f, Function.comp]; split <;> rfl
      have held : (x.withDesc k fun d => { d with toSend := l }).held = x.held.map f := rfl
      rw [State.descOutcome, State.desc_of_queue (State.setQueue_queue_same ..), held, List.find?_map, index,
        State.descOutcome, State.desc_of_queue hx, Option.map_map]
      congr 1
      funext d
      simp only [f, Function.comp]; split <;> rfl
    · have other : (s.setQueue q (x.withDesc k fun d => { d with toSend := l })).queue? qn = s.queue? qn :=
        tblGet_set_other _ _ h
      rw [State.descOutcome, State.desc?, other, State.descOutcome, State.desc?]

@[simp] theorem State.feedDesc_outcome (s : State) (q : Nat) (k : W32) (l : List (Nat × Nat)) (qn : Nat) (i : W32) :
    (s.feedDesc q k l).descOutcome qn i = s.descOutcome qn i := by
  induction l generalizing s with
  | nil => rfl
  | cons r l ih =>
    unfold State.feedDesc
    split
    · split
      · rw [ih, State.modDesc_toSend_outcome]; rfl
      · rfl
    · rfl

@[simp] theorem State.feedFlight_queues (s : State) (k slot : Nat) (l : List (Nat × Nat)) :
    (s.feedFlight k slot l).queues = s.queues := by
  induction l generalizing s with
  | nil => rfl
  | cons r l ih =>
    unfold State.feedFlight
    split
    · split
      · rw [ih]; rfl
      · rfl
    · rfl

/-- Work that takes free entries goes on: no descriptor comes to anything by it. -/
@[simp] theorem State.feedAll_outcome (s : State) (q qn : Nat) (i : W32) :
    (s.feedAll q).descOutcome qn i = s.descOutcome qn i := by
  unfold State.feedAll
  dsimp only
  rw [State.descOutcome_of_queues (State.foldl_keeps State.queues _ (fun s r => s.feedFlight_queues ..) _ _)]
  exact State.foldl_keeps (fun s => s.descOutcome qn i) _ (fun s r => s.feedDesc_outcome ..) _ s

/-! ## The last message of a descriptor ends (R245) -/

theorem State.hasSender_of_senders {s t : State} (h : ∀ j, (t.quad j).senders = (s.quad j).senders) (o : MsgOwner) :
    t.hasSender o = s.hasSender o := by
  simp only [State.hasSender, State.allSenders, h]

/-- Freeing an entry leaves in every table what it was. -/
theorem State.freeSender_senders {s t : State} (h : ∀ j, (t.quad j).senders = (s.quad j).senders) (q m j : Nat) :
    ((t.freeSender q m).quad j).senders = ((s.freeSender q m).quad j).senders := by
  unfold State.freeSender
  rw [State.sender_of_quad (h q)]
  split
  · exact h j
  · by_cases hj : j = q
    · subst hj; simp [h]
    · simp [State.modQuad_other _ _ _ _ hj, h]

@[simp] theorem State.freeSender_offQuads (s : State) (q m : Nat) : (s.freeSender q m).offQuads = s.offQuads := by
  unfold State.freeSender; split <;> rfl

@[simp] theorem State.endTiles_queues (s : State) (o : TileOwner) : (s.endTiles o).queues = s.queues := by
  unfold State.endTiles
  dsimp only
  split <;> rfl

/-- A running descriptor that waits for nothing more completes (R245). -/
theorem State.settleDesc_completes {s : State} {qn : Nat} {i : W32} {d : Desc} (hd : s.desc? qn i = some d)
    (running : d.phase = .running) (sent : d.toSend = []) (stored : s.storesDone (.desc qn i) = true)
    (sound : s.ownerDoomed (.desc qn i) = false) (last : s.hasSender (.desc qn i) = false) :
    (s.settleDesc qn i).descOutcome qn i = some (.completed, d.status, d.bytesDone, d.result) := by
  have e : s.settleDesc qn i = (s.endTiles (.desc qn i)).modDesc qn i fun d => { d with phase := .completed } := by
    simp [State.settleDesc, hd, running, sent, stored, sound, last]
  have kept : (s.endTiles (.desc qn i)).desc? qn i = some d := by
    rw [State.desc?, State.queue?, State.endTiles_queues]; exact hd
  rw [e, State.descOutcome, State.modDesc_desc_same kept (fun d => { d with phase := .completed }) fun _ => rfl]
  rfl

/-- The last message of a descriptor ends with OK, and the descriptor with it (R245). -/
theorem State.msgEnded_completes {s : State} {q m qn : Nat} {i : W32} {x : Sender} {d : Desc}
    (hx : s.sender? q m = some x) (own : x.owner = .desc qn i) (hd : s.desc? qn i = some d)
    (running : d.phase = .running) (sent : d.toSend = []) (stored : s.storesDone (.desc qn i) = true)
    (sound : s.ownerDoomed (.desc qn i) = false) (last : (s.freeSender q m).hasSender (.desc qn i) = false) :
    (s.msgEnded q m Status.ok 0).descOutcome qn i = some (.completed, d.status,
      d.bytesDone + (if isWireAtomic x.opcode then 0 else x.length), d.result) := by
  let n := if isWireAtomic x.opcode then 0 else x.length
  let g := fun d : Desc => { d with
    bytesDone := d.bytesDone + n
    status := if (Status.ok != Status.ok && d.status == Status.ok) then Status.ok else d.status
    detail := if (Status.ok != Status.ok && d.status == Status.ok) then 0 else d.detail
    toSend := if Status.ok = Status.ok then d.toSend else [] }
  have e : s.msgEnded q m Status.ok 0 = (((s.freeSender q m).modDesc qn i g).settleDesc qn i).feedAll q := by
    simp only [State.msgEnded, hx, own, if_true]
    rfl
  have freed := State.eq_of_offQuads (s.freeSender_offQuads q m)
  have kept : (s.freeSender q m).desc? qn i = some d := by rw [freed]; exact hd
  have changed := State.modDesc_eq (s.freeSender q m) qn i g
  rw [e, State.feedAll_outcome, State.settleDesc_completes (State.modDesc_desc_same kept g fun _ => rfl) running]
  · rfl
  · exact sent
  · rw [changed, freed]; exact stored
  · rw [changed, freed]; exact sound
  · exact (State.hasSender_of_senders (fun j => by rw [State.modDesc_quad]) _).trans last


/-! ## An ACK (R237, R245, R246) -/

/-- A verified reply of an opcode, with an engine free, that names message `m` of the quadrant. -/
structure State.Names (s : State) (q op : Nat) (pkt : Packet) (key : List Byte) (m : Nat) (x : Sender) : Prop where
  kept : s.replyDrop q op pkt = none
  up : s.unitDown (.receive q) = false
  opened : s.openKey pkt = some key
  free : s.engineFree q true = true
  right : pkt.trailer = pkt.tag key
  own : s.relayTo pkt = none
  named : s.replied? q pkt = some (m, x)

theorem State.Names.applies {s : State} {q op : Nat} {pkt : Packet} {key : List Byte} {m : Nat} {x : Sender}
    (h : s.Names q op pkt key m x) (f : State → Nat → Sender → State) :
    s.onReply q op pkt f = f (s.useEngine q true pkt.size) m x :=
  State.onReply_applies h.kept h.up h.opened f h.free h.right h.own h.named

/-- An ACK of a message that is no READ ends it with OK. -/
theorem execAck_ends {s : State} {q m : Nat} {x : Sender} {pkt : Packet} {key : List Byte}
    (h : s.Names q 0x10 pkt key m x) (notRead : x.opcode ≠ 2) :
    let v := (s.useEngine q true pkt.size).ccReply q x.dst pkt
    exec (.ack q pkt) s = .next ((if isWireAtomic x.opcode then v.storeResult x.owner pkt.spec.result
      else v).msgEnded q m Status.ok 0).pumpAll := by
  intro v
  show execAck q pkt s = _
  rw [execAck, State.Names.applies (op := opAck) h, if_neg (show ¬ x.opcode = opReadReq from notRead)]

theorem State.ack_frozen {s t : State} {q : Nat} {pkt : Packet} (h : exec (.ack q pkt) s = .next t) :
    t.still = s.still ∧ t.firm = s.firm := by
  have h : execAck q pkt s = .next t := h
  have firm := execAck_firm q pkt s
  have still := execAck_still q pkt s
  rw [h, stateAfter_next] at firm still
  exact ⟨still, firm⟩

/-- The message of an ACK ends, and with the last one its descriptor, an atomic's with the old value (R203, R245). -/
theorem State.ack_completes {s : State} {q m qn : Nat} {i : W32} {x : Sender} {d : Desc} (pkt : Packet)
    (hx : s.sender? q m = some x) (own : x.owner = .desc qn i) (hd : s.desc? qn i = some d)
    (running : d.phase = .running) (sent : d.toSend = []) (stored : s.storesDone (.desc qn i) = true)
    (sound : s.ownerDoomed (.desc qn i) = false) (last : (s.freeSender q m).hasSender (.desc qn i) = false) :
    let v := (s.useEngine q true pkt.size).ccReply q x.dst pkt
    ((if isWireAtomic x.opcode then v.storeResult x.owner pkt.spec.result else v).msgEnded q m Status.ok 0).descOutcome
      qn i = some (.completed, d.status, d.bytesDone + (if isWireAtomic x.opcode then 0 else x.length),
        if isWireAtomic x.opcode then pkt.spec.result else d.result) := by
  intro v
  let g := fun d : Desc => { d with result := pkt.spec.result }
  have frame : v = { s with quads := v.quads, survey := v.survey } := State.eq_of_offRate
    (((s.useEngine q true pkt.size).ccReply_offRate q x.dst pkt).trans (State.modQuad_offRate ..))
  have senders (j : Nat) : (v.quad j).senders = (s.quad j).senders := by
    rw [State.ccReply_senders, State.useEngine_senders]
  have known : v.sender? q m = some x := (State.sender_of_quad (senders q) m).trans hx
  have held : v.desc? qn i = some d := by rw [frame]; exact hd
  have freed : (v.freeSender q m).hasSender (.desc qn i) = false :=
    (State.hasSender_of_senders (State.freeSender_senders senders q m) _).trans last
  have stores : v.storesDone (.desc qn i) = true := by rw [frame]; exact stored
  have doomed : v.ownerDoomed (.desc qn i) = false := by rw [frame]; exact sound
  clear_value v
  split
  · have stored : v.storeResult x.owner pkt.spec.result = v.modDesc qn i g := by rw [own]; rfl
    have changed := v.modDesc_eq qn i g
    have kept := State.modDesc_desc_same held g fun _ => rfl
    rw [stored, State.msgEnded_completes (d := g d) (x := x) ?_ own kept running sent]
    · rw [if_pos ‹_›]
    · rw [changed]; exact stores
    · rw [changed]; exact doomed
    · exact (State.hasSender_of_senders (State.freeSender_senders (fun j => by rw [State.modDesc_quad]) q m) _).trans freed
    · exact (State.sender_of_quad (by rw [State.modDesc_quad]) m).trans known
  · rw [State.msgEnded_completes known own held running sent stores doomed freed, if_neg ‹_›]


/-! ## A SACK and a NAK (R237 to R242, R274) -/

/-- The entry of a message after a reply that shows a bitmap at a clock (R240, R241). -/
def Sender.answered (x : Sender) (b : W64) (clk : Nat) : Sender :=
  { x with
    bitmap := if x.opcode = 2 then x.bitmap else b
    timerStart := x.timerStart.map fun _ => clk }

theorem Sender.withBitmap_restart (x : Sender) (b : W64) (clk : Nat) :
    (x.withBitmap b).restart clk = x.answered b clk := by
  unfold Sender.withBitmap Sender.answered
  by_cases read : x.opcode = 2
  · rw [if_pos (show x.opcode = opReadReq from read), if_pos read]; rfl
  · rw [if_neg (show ¬ x.opcode = opReadReq from read), if_neg read]; rfl

/-- A SACK stores its bitmap and restarts the timer. -/
theorem execSack_shows {s : State} {q m : Nat} {x : Sender} {pkt : Packet} {key : List Byte}
    (h : s.Names q 0x11 pkt key m x) : ∃ t, exec (.sack q pkt) s = .next t ∧
      t.sender? q m = some (x.answered pkt.spec.bitmap s.clk) ∧ t = { s with quads := t.quads, survey := t.survey } := by
  let v := (s.useEngine q true pkt.size).ccReply q x.dst pkt
  refine ⟨v.setSender q m (x.answered pkt.spec.bitmap s.clk), ?_, State.setSender_sender_same .., ?_⟩
  · show execSack q pkt s = _
    rw [execSack, State.Names.applies (op := opSack) h, Sender.withBitmap_restart]
    rfl
  · exact State.eq_of_offRate ((State.setSender_offRate ..).trans
      (((s.useEngine q true pkt.size).ccReply_offRate q x.dst pkt).trans (State.modQuad_offRate ..)))

@[simp] theorem State.count_offRate (s : State) (id n : Nat) : (s.count id n).offRate = s.offRate := rfl

/-- A refused packet waits to its time and is to be sent again. -/
theorem Sender.refused_holds (x : Sender) (k clk wait : Nat) (noRecord : Bool) :
    ((x.refused k clk wait noRecord).holds.head? = some (k, clk + 1600 * wait) ∧
      k ∈ (x.refused k clk wait noRecord).toSend) ∧
      (x.refused k clk wait noRecord).bitmap = x.bitmap ∧ (x.refused k clk wait noRecord).seq = x.seq ∧
      (x.refused k clk wait noRecord).refusedCopies = x.refusedCopies + (if noRecord then 1 else 0) := by
  refine ⟨⟨?_, ?_⟩, rfl, rfl, ?_⟩
  · rw [Nat.mul_comm 1600]; rfl
  · by_cases sent : k ∈ x.toSend <;> simp [Sender.refused, sent]
  · cases noRecord <;> rfl

/-- A retry-after NAK holds its packet (R242). -/
theorem execNak_holds {s : State} {q m : Nat} {x : Sender} {pkt : Packet} {key : List Byte}
    (h : s.Names q 0x12 pkt key m x) (retry : pkt.spec.status = Status.retryAfter) :
    ∃ t, exec (.nak q pkt) s = .next t ∧ t = { s with quads := t.quads, survey := t.survey } ∧
      t.sender? q m = some ((x.answered pkt.spec.bitmap s.clk).refused pkt.pktIndex s.clk pkt.spec.retryAfter
        pkt.flags.noRecord) := by
  let w := pkt.spec.retryAfter
  let u := (((s.useEngine q true pkt.size).count Count.retryAfterReceived).countIn (scopeWord 1 0 q)
    (Count.retryReceivedCause + retryCause w pkt.flags.noRecord)).setSender q m
      ((x.answered pkt.spec.bitmap s.clk).refused pkt.pktIndex s.clk w pkt.flags.noRecord)
  have e : exec (.nak q pkt) s =
      .next (if w = 5 ∨ (w = 20 ∧ pkt.flags.noRecord) then u.ccHalve q x.dst 3 else u) := by
    show execNak q pkt s = _
    rw [execNak, State.Names.applies (op := opNak) h, Sender.withBitmap_restart, if_pos retry]
    rfl
  have frame : u.offRate = s.offRate := by
    rw [State.setSender_offRate, State.countIn_offRate, State.count_offRate, State.useEngine, State.modQuad_offRate]
  have held : u.sender? q m = some ((x.answered pkt.spec.bitmap s.clk).refused pkt.pktIndex s.clk w pkt.flags.noRecord) :=
    State.setSender_sender_same ..
  refine ⟨_, e, ?_⟩
  split
  · exact ⟨State.eq_of_offRate ((u.ccHalve_offRate q x.dst 3).trans frame), (State.ccHalve_sender ..).trans held⟩
  · exact ⟨State.eq_of_offRate frame, held⟩

/-- A NAK with any other status ends a message of no collective with that status (R238). -/
theorem execNak_ends {s : State} {q m : Nat} {x : Sender} {pkt : Packet} {key : List Byte}
    (h : s.Names q 0x12 pkt key m x) (final : pkt.spec.status ≠ Status.retryAfter)
    (noColl : ∀ p i j, x.owner ≠ .coll p i j) :
    exec (.nak q pkt) s = .next ((((s.useEngine q true pkt.size).ccReply q x.dst pkt).setSender q m
      (x.answered pkt.spec.bitmap s.clk)).msgEnded q m pkt.spec.status 0) := by
  show execNak q pkt s = _
  rw [execNak, State.Names.applies (op := opNak) h, Sender.withBitmap_restart, if_neg final]
  cases own : (x.answered pkt.spec.bitmap (s.useEngine q true pkt.size).clk).owner with
  | coll p i j => exact absurd own (noColl p i j)
  | desc q i => simp only [Bool.false_eq_true, if_false]; rfl
  | step k slot => simp only [Bool.false_eq_true, if_false]; rfl
  | none => simp only [Bool.false_eq_true, if_false]; rfl


/-! ## A response packet of a READ (R217, R257, R261) -/

/-- Response space that is released is the message's no more. -/
theorem State.releaseResv_eq {s : State} {q m : Nat} {x : Sender} (h : s.sender? q m = some x) (n : Nat) :
    (s.releaseResv q m n).offQuads = s.offQuads ∧
      (s.releaseResv q m n).sender? q m = some { x with reserved := x.reserved - n } := by
  have released : x.reserved - min n x.reserved = x.reserved - n := by omega
  have e : s.releaseResv q m n = (s.setSender q m { x with reserved := x.reserved - n }).modQuad q fun d =>
      { d with reserved := d.reserved - min n x.reserved } := by
    simp only [State.releaseResv, h, released]
  rw [e]
  refine ⟨rfl, ?_⟩
  rw [State.sender?, State.modQuad_same]
  exact State.setSender_sender_same ..

/-- The entry of a READ with a response packet's bit marked. -/
def Sender.marked (x : Sender) (k : Nat) : Sender := { x with bitmap := x.bitmap ||| w64 (2 ^ k) }

/-- A committed response packet marks its bit, and with the last one the message ends. -/
theorem State.readLanded_of_sender {s : State} {q m : Nat} {x : Sender} (h : s.sender? q m = some x) (pkt : Packet) :
    s.readLanded q m pkt = if (x.marked pkt.pktIndex).bitmap.toNat % 2 ^ packetsOf x.length = 2 ^ packetsOf x.length - 1
      then ((s.setSender q m (x.marked pkt.pktIndex)).releaseResv q m 4160).msgEnded q m Status.ok 0
      else (s.setSender q m (x.marked pkt.pktIndex)).releaseResv q m 4160 := by
  simp only [State.readLanded, h]
  rfl

/-- Bytes of a READ land in device memory where nothing refuses them or makes them wait (R106). -/
theorem State.localWrite_lands {s : State} {o : TileOwner} {p off buf : Nat} {g : Segment} {a : W64} {b : List Byte}
    (kind : g.kind ≠ 1) (own : inAccelWindow (segTarget g a + off) = false)
    (checked : s.spaceCheck p (segTarget g a + off) b.length true = Status.ok)
    (moves : s.stalled p (segTarget g a + off) b.length = false)
    (bias : s.biasLines p (segTarget g a + off) b.length true = []) :
    s.localWrite o p g a off b buf = .done (s.writeSpace p (segTarget g a + off) b) := by
  simp [State.localWrite, kind, own, checked, moves, bias]

/-- Where the descriptor of a READ puts the bytes of a response packet. -/
def Sender.landsAt (x : Sender) (g : Segment) (k : Nat) : Nat := segTarget g x.localAddr + (x.offset + k * 4096)

/-- A response packet of a descriptor's READ is written where the descriptor says. -/
theorem State.commitRead_lands {s : State} {q m qn : Nat} {i : W32} {d : Desc} {x : Sender} {pkt : Packet}
    (owner : x.owner = .desc qn i) (hd : s.desc? qn i = some d) (kind : d.seg.kind ≠ 1)
    (own : inAccelWindow (x.landsAt d.seg pkt.pktIndex) = false)
    (checked : s.spaceCheck x.partition (x.landsAt d.seg pkt.pktIndex) pkt.payload.length true = Status.ok)
    (moves : s.stalled x.partition (x.landsAt d.seg pkt.pktIndex) pkt.payload.length = false)
    (bias : s.biasLines x.partition (x.landsAt d.seg pkt.pktIndex) pkt.payload.length true = []) :
    s.commitRead q m x pkt none =
      (s.writeSpace x.partition (x.landsAt d.seg pkt.pktIndex) pkt.payload).readLanded q m pkt := by
  have segment : s.readSegment x = d.seg := by simp [State.readSegment, owner, hd]
  have inMemory : inAccelWindow (segTarget d.seg x.localAddr + (x.offset + pkt.pktIndex * 4096)) = false := own
  unfold State.commitRead
  dsimp only
  rw [segment, if_neg (by simp [inMemory]), State.localWrite_lands kind own checked moves bias]
  rfl

/-- A response packet of a READ whose bit is marked does nothing; another is committed. -/
theorem execReadResp_commits {s : State} {q m : Nat} {x : Sender} {pkt : Packet} {key : List Byte}
    (h : s.Names q 3 pkt key m x) (read : x.opcode = 2) (copies : (s.quad q).copies = [])
    (agrees : respAgrees x pkt = true) (len : pkt.payload.length = pkt.payloadLen) :
    exec (.readResp q pkt) s = .next (if x.bitmap.getLsbD pkt.pktIndex then s.useEngine q true pkt.size
      else (s.useEngine q true pkt.size).commitRead q m x pkt none) := by
  obtain ⟨-, -, held, -⟩ := State.landPart_eq_iff.1 (State.useEngine_landPart s q true pkt.size q)
  have notWaiting : ((s.useEngine q true pkt.size).quad q).copies = [] := held.trans copies
  show execReadResp q pkt s = _
  rw [execReadResp, State.Names.applies (op := opReadResp) h]
  simp [notWaiting, read, opReadReq, agrees, len]


/-- What a written response packet that is not the last changes: its bytes, its bit and its space. -/
theorem State.readLanded_frame {s : State} (wf : s.mem.wf = true) (clean : s.mem.upsets = []) (q m : Nat) (x : Sender)
    (p off : Nat) (b : List Byte) (k : Nat) :
    let t := ((s.writeSpace p off b).setSender q m (x.marked k)).releaseResv q m 4160
    t.sender? q m = some { x.marked k with reserved := x.reserved - 4160 } ∧ t.readSpace p off b.length = b ∧
      (∀ c, c < spaceKey p off ∨ spaceKey p off + b.length ≤ c → memGet t.mem.cells c = memGet s.mem.cells c) ∧
      t = { s with quads := t.quads, mem := t.mem, placements := t.placements } := by
  intro t
  obtain ⟨upsets, written⟩ := State.writeSpace_frame clean p off b
  obtain ⟨back, others⟩ := State.writeSpace_reads wf clean p off b
  have written := State.eq_of_offMem written
  obtain ⟨freed, known⟩ := State.releaseResv_eq (State.setSender_sender_same (s.writeSpace p off b) q m (x.marked k)) 4160
  have freed : t.offQuads = (s.writeSpace p off b).offQuads := freed
  have known : t.sender? q m = some { x.marked k with reserved := x.reserved - 4160 } := known
  have frame := State.eq_of_offQuads freed
  have mem : t.mem = (s.writeSpace p off b).mem := by rw [frame]
  clear_value t
  refine ⟨known, ?_, fun c hc => ?_, ?_⟩
  · rw [State.readSpace_clean (by rw [mem]; exact upsets), mem]; exact back
  · rw [mem]; exact others c hc
  · rw [frame, written]

/-- Settles O31: each clause is the lemma about the drop, the verdict, the ACK, SACK, NAK or response packet. -/
theorem repliesEndMessages : Obligations.RepliesEndMessages := by
  unfold Obligations.RepliesEndMessages
  intro s q m x pkt
  refine ⟨?_, ?_, ?_, ?_, ?_⟩
  · intro op u drop
    refine ⟨?_, ?_, ?_, ?_⟩ <;> (rintro rfl; exact congrArg _ (State.onReply_drop drop _))
  · intro op key u o hop kept up opened
    obtain ⟨f, hf⟩ : ∃ f, o = .next (s.onReply q op pkt f) := by
      rcases hop with rfl | rfl | rfl | rfl <;> exact ⟨_, rfl⟩
    rw [hf]
    exact ⟨fun busy => congrArg _ (State.onReply_waits kept up f busy),
      fun ⟨free, wrong⟩ => congrArg _ (State.onReply_tagFails kept up opened f free wrong),
      fun ⟨free, right, own, unnamed⟩ => congrArg _ (State.onReply_unnamed kept up opened f free right own unnamed)⟩
  · intro qn i d key v u kept up opened free right own named hx notRead owner hd running sent stored sound last
    have e := execAck_ends ⟨kept, up, opened, free, right, own, named⟩ notRead
    obtain ⟨still, firm⟩ := State.ack_frozen e
    have done : u.descOutcome qn i = _ := State.ack_completes pkt hx owner hd running sent stored sound last
    refine ⟨e, still, firm, ?_⟩
    clear_value u
    cases he : u.desc? qn i with
    | none => rfl
    | some e =>
      simp only [State.descOutcome, he, Option.map_some, Option.some.injEq, Prod.mk.injEq] at done
      obtain ⟨phase, status, bytes, result⟩ := done
      simp [phase, status, bytes, result]
  · intro key y k up opened free right own named
    refine ⟨fun kept => execSack_shows ⟨kept, up, opened, free, right, own, named⟩, fun kept retry => ?_,
      fun kept final noColl => execNak_ends ⟨kept, up, opened, free, right, own, named⟩ final noColl⟩
    obtain ⟨t, e, frame, held⟩ := execNak_holds ⟨kept, up, opened, free, right, own, named⟩ retry
    obtain ⟨⟨holds, toSend⟩, bitmap, seq, refused⟩ := (x.answered pkt.spec.bitmap s.clk).refused_holds pkt.pktIndex s.clk
      pkt.spec.retryAfter pkt.flags.noRecord
    generalize (x.answered pkt.spec.bitmap s.clk).refused _ _ _ _ = z at *
    have bitmap : z.bitmap = y.bitmap := bitmap
    have seq : z.seq = x.seq := seq
    have refused : z.refusedCopies = x.refusedCopies + _ := refused
    refine ⟨t, e, frame, ?_⟩
    rw [held]
    simp [holds, toSend, bitmap, seq, refused, k]
  · intro qn i d key u k a y kept up opened free right own named hx read owner hd kind outside checked moves bias wf clean
      copies agrees len
    have e := execReadResp_commits ⟨kept, up, opened, free, right, own, named⟩ read copies agrees len
    have hu : u.sender? q m = some x := (State.sender_of_quad (State.useEngine_senders ..) m).trans hx
    have commits : u.commitRead q m x pkt none = (u.writeSpace x.partition a pkt.payload).readLanded q m pkt :=
      State.commitRead_lands owner hd kind outside checked moves bias
    have hv : (u.writeSpace x.partition a pkt.payload).sender? q m = some x := by
      rw [State.eq_of_offMem (State.writeSpace_frame (s := u) clean x.partition a pkt.payload).2]; exact hu
    have landed := State.readLanded_of_sender hv pkt
    refine ⟨fun shown => by rw [e, if_pos shown], fun unshown unfinished => ?_, fun unshown full => ?_⟩
    · obtain ⟨held, back, others, frame⟩ := State.readLanded_frame (s := u) wf clean q m x x.partition a pkt.payload k
      refine ⟨_, ?_, held, back, others, frame⟩
      rw [e, if_neg (Bool.eq_false_iff.1 unshown), commits]
      exact congrArg _ (landed.trans (if_neg unfinished))
    · rw [e, if_neg (Bool.eq_false_iff.1 unshown), commits]
      exact congrArg _ (landed.trans (if_pos full))

end Sys2Proof.Machine
